-- ==== Sys2Proof/Word.lean ====
section
/-! DEFINITION. The words of the model: bytes, 64-bit words and the 512-bit command records of chapter 05 on. -/

namespace Sys2Proof

/-- One byte. Memory is addressed in bytes (R649). -/
abbrev Byte := BitVec 8

/-- A 64-bit register or memory word (R653). -/
abbrev Word := BitVec 64

/-- A 64 B record: command record, completion record, descriptor or task record. -/
abbrev Rec := BitVec 512

end Sys2Proof
end

