-- ==== Sys2Proof/Syntax.lean ====
section
/-! DEFINITION. The commands that the block takes, one constructor per row of spec/opcode_table.json, and the
operand types that the rows need. The table gives no row any bits: operands are what the row's rule says the
command carries, what arrives with it, or which of several units the event is of. -/

namespace Sys2Proof

/-- The status codes of R15. -/
inductive Status where
  | ok | stateReject | descRange | descAlias | noGain | outFull | checkFail | ratioLimit | pageFault
  | pageUnmapped | tickOverrun | fenced | noSpare | conflict | staleDrop | rowReject | authFail
  | nvwInhibit | tieSpill
  deriving DecidableEq, Repr

/-- Who issues a cellar, match or stream command record: a general core through the tap path, a stream
context through an EMIT, or a management core through a command register (R128, R170, R243). -/
inductive Issuer where
  | core (die gc : Nat)
  | stream (die ctx : Nat)
  | firmware (mc die : Nat)
  deriving DecidableEq, Repr

/-- A requester of register space (R653): management core n, the REG_WRITE path with the source of its message, the
recovery service. -/
inductive Requester where
  | mc (n : Nat)
  | regWrite (dev sess : Nat)
  | recovery
  deriving DecidableEq, Repr

/-- The header of a KFP message (R503), field by field. -/
structure KHdr where
  cls : Nat
  typ : Nat
  srcDev : Nat
  srcSess : Nat
  dstDev : Nat
  dstSess : Nat
  hops : Nat
  flow : Nat
  len : Nat
  tag : Nat
  tick : Nat
  deriving DecidableEq, Repr

/-- What an ECC pass finds in a word or row. -/
inductive Ecc where
  | clean | corrected | uncorrectable
  deriving DecidableEq, Repr

/-- The clocks whose loss R64 names. -/
inductive Clk where
  | alwaysOn | timeBase | management
  | computeDie (die : Nat) | noc (die : Nat) | memory (die ctl : Nat) | cellar (die : Nat)
  | kupelPort (port : Nat) | fieldPort (port : Nat)
  deriving DecidableEq, Repr

/-- The temperature sensors of R636, in whole degrees C: eight on each compute die, four on each cellar die,
one reading of each HBM stack, and the coolant. -/
structure Sensors where
  cd : List (List Nat)
  cl : List (List Nat)
  hbmA : List Nat
  hbmB : List Nat
  inlet : Nat
  outlet : Nat
  deriving DecidableEq, Repr

/-- The electrical readings of one 100 us sample (R633, R645): per page millivolts, tenths of an ampere and
watts; and whether a converter or the hot-swap controller reports a warning (R632). -/
structure PowerReadings where
  mv : List Nat
  da : List Nat
  w : List Nat
  converterWarning : Bool
  deriving DecidableEq, Repr

/-- What a QSFP28 cage holds (R449, R648). -/
inductive CageModule where
  | absent | dr1 | fr1 | other
  deriving DecidableEq, Repr

/-- The parts of an IEEE 1588 message that R460 and R461 use. `rank` is the whole data set that the IEEE 1588
data-set comparison orders announced masters by, the better master having the lower value. -/
structure PtpMsg where
  domain : Nat
  source : Nat
  seqId : Nat
  twoStep : Bool
  seconds : Nat
  nanoseconds : Nat
  correction : Int
  rank : Nat
  logInterval : Int
  deriving DecidableEq, Repr

/-- Who submits a decanter or press job (R401). -/
inductive JobSource where
  | core (die gc a0 : Nat)
  | firmware (mc die : Nat) (r : Rec)
  deriving DecidableEq, Repr

/-- The units without a spare whose failure is fatal (R557, R558). -/
inductive FatalUnit where
  | streamEngine | dispatcher | cellarCommandUnit | matchCommandUnit | noc | dieEdge
  | memoryController (k : Nat) | hbmStack (k : Nat)
  deriving DecidableEq, Repr

/-- The commands of the block: one constructor per row of the opcode table, in the
table's order, those without operands last. -/
inductive Instr where
  /-- COMMIT_WORK_END (R33). -/
  | commitWorkEnd (ns : Nat)
  /-- OVERRUN_FAULT (R40). -/
  | overrunFault (plan : Nat)
  /-- CATCHUP_EXPIRE (R553). -/
  | catchupExpire (die unit : Nat)
  /-- HELD_ENTRY_ENQUEUE (R285). -/
  | heldEntryEnqueue (die : Nat)
  /-- ANNOUNCE (R49). -/
  | announce (port tickNo period : Nat) (running : Bool) (t1 t2 : Nat)
  /-- DELAY_REQ_SEND (R49). -/
  | delayReqSend (t3 : Nat)
  /-- DELAY_REQ (R510). -/
  | delayReq (port t3 tickNo t4 : Nat)
  /-- DELAY_RESP (R49). -/
  | delayResp (port t3 t4 tickNo : Nat)
  /-- TIME_TICK_PERIOD_WRITE (R29). -/
  | timeTickPeriodWrite (by_ : Requester) (value : BitVec 64)
  /-- CLOCK_LOSS (R64). -/
  | clockLoss (clk : Clk)
  /-- SCAN_FILTER (R134). -/
  | scanFilter (iss : Issuer) (r : Rec)
  /-- PROBE (R141). -/
  | probe (iss : Issuer) (r : Rec)
  /-- INSERT (R143). -/
  | insert (iss : Issuer) (r : Rec)
  /-- HIST_ADD (R146). -/
  | histAdd (iss : Issuer) (r : Rec)
  /-- ATOMIC_ROW (R147). -/
  | atomicRow (iss : Issuer) (r : Rec)
  /-- GATHER_SUM (R149). -/
  | gatherSum (iss : Issuer) (r : Rec)
  /-- COPY (R152). -/
  | copy (iss : Issuer) (r : Rec)
  /-- FILL (R153). -/
  | fill (iss : Issuer) (r : Rec)
  /-- CELLAR_COMPLETION (R130). -/
  | cellarCompletion (die k : Nat)
  /-- CELLAR_SCRUB (R156). -/
  | cellarScrub (die bank row : Nat) (found : Ecc)
  /-- DATA_BANK_FENCE (R157). -/
  | dataBankFence (die bank cause : Nat)
  /-- BANK_FENCE_COPY_DONE (R157). -/
  | bankFenceCopyDone (die bank : Nat)
  /-- SEARCH (R173). -/
  | search (iss : Issuer) (r : Rec)
  /-- SEARCH_ONE (R173). -/
  | searchOne (iss : Issuer) (r : Rec)
  /-- MATCH_WRITE (R176). -/
  | matchWrite (iss : Issuer) (r : Rec)
  /-- MATCH_CLEAR (R177). -/
  | matchClear (iss : Issuer) (r : Rec)
  /-- MATCH_READ (R177). -/
  | matchRead (iss : Issuer) (r : Rec)
  /-- CONFIGURE (R180). -/
  | configure (iss : Issuer) (r : Rec)
  /-- MATCH_COMPLETION (R172). -/
  | matchCompletion (die k : Nat)
  /-- MATCH_SCRUB (R169). -/
  | matchScrub (die bank row : Nat) (found : Ecc)
  /-- MATCH_BANK_FENCE (R183). -/
  | matchBankFence (die bank cause : Nat)
  /-- MATCH_FENCE_COPY_DONE (R183). -/
  | matchFenceCopyDone (die bank : Nat)
  /-- SENSOR_SAMPLE (R636). -/
  | sensorSample (r : Sensors)
  /-- WLOAD (R186). -/
  | wload (die me : Nat)
  /-- MAC (R186). -/
  | mac (die me : Nat)
  /-- STORE (R203). -/
  | store (die me : Nat)
  /-- CBLOAD (R202). -/
  | cbload (die me : Nat)
  /-- ROTATE (R210). -/
  | rotate (die me : Nat)
  /-- RING_TRANSFER_DONE (R210). -/
  | ringTransferDone (die me : Nat)
  /-- ME_END (R196). -/
  | meEnd (die me : Nat)
  /-- HIST_PARTIAL (R214). -/
  | histPartial (die : Nat) (h : KHdr) (payload : List Byte)
  /-- HIST_COMBINE_DEADLINE (R214). -/
  | histCombineDeadline (die : Nat)
  /-- VH64_V (R232). -/
  | vh64V (die gc vd vs2 : Nat) (vm : Bool)
  /-- VH64_VS (R232). -/
  | vh64Vs (die gc vd vs2 : Nat) (vm : Bool)
  /-- VH64_M (R232). -/
  | vh64M (die gc rd rs1 rs2 : Nat)
  /-- CRC32C_M (R233). -/
  | crc32cM (die gc rd rs1 rs2 : Nat)
  /-- VBKT (R234). -/
  | vbkt (die gc : Nat) (nan wide flt : Bool) (vd vs2 rs1 : Nat) (vm : Bool)
  /-- VBITONIC (R236). -/
  | vbitonic (die gc vd vs2 rs1 : Nat)
  /-- VARGMAX (R237). -/
  | vargmax (die gc tt rd vs2 : Nat) (vm : Bool)
  /-- VQPACK (R238). -/
  | vqpack (die gc : Nat) (sgn : Bool) (vd vs2 : Nat)
  /-- VTAP_TRANSFER (R239). -/
  | vtapTransfer (die gc rd rs1 : Nat)
  /-- VTAP_CELLAR (R239). -/
  | vtapCellar (die gc rd rs1 : Nat)
  /-- VTAP_MATCH (R239). -/
  | vtapMatch (die gc rd rs1 : Nat)
  /-- TAP_REQUEST_COMPLETE (R240). -/
  | tapRequestComplete (die gc k : Nat)
  /-- WFI (R218). -/
  | wfi (die gc : Nat)
  /-- USER_TRAP (R226). -/
  | userTrap (die gc : Nat) (cause : Nat) (val : BitVec 64) (ue unmapped : Bool)
  /-- EBREAK_HALT (R227). -/
  | ebreakHalt (die gc : Nat)
  /-- XFER (R264). -/
  | xfer (iss : Issuer) (r : Rec)
  /-- DESC_INSTALL (R101). -/
  | descInstall (iss : Issuer) (r : Rec)
  /-- DESC_RELEASE (R101). -/
  | descRelease (iss : Issuer) (r : Rec)
  /-- STREAM_START (R253). -/
  | streamStart (iss : Issuer) (r : Rec)
  /-- STREAM_STOP (R255). -/
  | streamStop (iss : Issuer) (r : Rec)
  /-- BAR_ARRIVE (R261). -/
  | barArrive (iss : Issuer) (r : Rec)
  /-- BAR_ARM (R260). -/
  | barArm (iss : Issuer) (r : Rec)
  /-- CHAIN (R266). -/
  | chain (iss : Issuer) (r : Rec)
  /-- CHAIN_STAGE_RETURN (R267). -/
  | chainStageReturn (die gc : Nat) (status : Status)
  /-- RESUME (R272). -/
  | resume (iss : Issuer) (r : Rec)
  /-- NOP (R249). -/
  | nop (die ctx : Nat)
  /-- LOOP (R249). -/
  | loop (die ctx : Nat)
  /-- ENDL (R249). -/
  | endl (die ctx : Nat)
  /-- SETI (R249). -/
  | seti (die ctx : Nat)
  /-- ADDI (R249). -/
  | addi (die ctx : Nat)
  /-- ADD (R249). -/
  | add (die ctx : Nat)
  /-- SUB (R249). -/
  | sub (die ctx : Nat)
  /-- MADL (R249). -/
  | madl (die ctx : Nat)
  /-- WRAP (R249). -/
  | wrap (die ctx : Nat)
  /-- TRELLIS_EMIT_TRANSFER (R251). -/
  | trellisEmitTransfer (die ctx : Nat)
  /-- TRELLIS_EMIT_CELLAR (R252). -/
  | trellisEmitCellar (die ctx : Nat)
  /-- TRELLIS_EMIT_MATCH (R252). -/
  | trellisEmitMatch (die ctx : Nat)
  /-- TRELLIS_END (R254). -/
  | trellisEnd (die ctx : Nat)
  /-- STREAM_EMIT_DONE (R254). -/
  | streamEmitDone (die ctx : Nat)
  /-- BANDWIDTH_GRANT (R256). -/
  | bandwidthGrant (die ns : Nat)
  /-- RACK_PAGE (R271). -/
  | rackPage (die pg : Nat)
  /-- RACK_COPY_DONE (R271). -/
  | rackCopyDone (die pg : Nat)
  /-- DISP_SUBMIT (R277). -/
  | dispSubmit (mc die : Nat) (r : Rec)
  /-- TASK_SUBMIT (R277). -/
  | taskSubmit (die gc a0 : Nat)
  /-- DELAY_RELEASE (R288). -/
  | delayRelease (die ns : Nat)
  /-- TASK_START (R281). -/
  | taskStart (die unit ns : Nat)
  /-- STREAM_TASK_ISSUE (R286). -/
  | streamTaskIssue (die ns : Nat)
  /-- TASK_COMPLETE (R292). -/
  | taskComplete (die unit ns : Nat) (status : Status)
  /-- FILTER (R311). -/
  | filter (die gc a0 row0 count : Nat)
  /-- JOIN_BUILD_INSERT (R318). -/
  | joinBuildInsert (die gc a0 row0 count : Nat)
  /-- JOIN_BUILD_FINISH (R318). -/
  | joinBuildFinish (die gc a0 row0 count : Nat)
  /-- JOIN_BUILD_CLEAR (R318). -/
  | joinBuildClear (die gc a0 row0 count : Nat)
  /-- JOIN_PROBE (R320). -/
  | joinProbe (die gc a0 row0 count : Nat)
  /-- GATHER (R324). -/
  | gather (die gc a0 row0 count : Nat)
  /-- BUCKETIZE (R325). -/
  | bucketize (die gc a0 row0 count : Nat)
  /-- NORMALISE (R328). -/
  | normalise (die gc a0 row0 count : Nat)
  /-- HASH_FEATURE (R333). -/
  | hashFeature (die gc a0 row0 count : Nat)
  /-- WINDOW (R340). -/
  | window (die gc a0 row0 count : Nat)
  /-- SORT (R364). -/
  | sort (die gc a0 row0 count : Nat)
  /-- TOPK (R361). -/
  | topk (die gc a0 row0 count : Nat)
  /-- MERGE (R365). -/
  | merge (die gc a0 row0 count : Nat)
  /-- TABLE_ATTACH (R373). -/
  | tableAttach (h : KHdr) (payload : List Byte)
  /-- LOOKUP (R380). -/
  | lookup (die gc a0 : Nat)
  /-- UPDATE (R385). -/
  | update (die gc a0 : Nat)
  /-- EMB_LOOKUP (R381). -/
  | embLookup (h : KHdr) (payload : List Byte)
  /-- EMB_POOLED (R381). -/
  | embPooled (h : KHdr) (payload : List Byte)
  /-- LOOKUP_PART_TIMEOUT (R383). -/
  | lookupPartTimeout (k : Nat)
  /-- EMB_UPDATE (R386). -/
  | embUpdate (h : KHdr) (payload : List Byte)
  /-- ROW_REPLACE (R389). -/
  | rowReplace (h : KHdr) (payload : List Byte)
  /-- ROW_MIGRATE (R393). -/
  | rowMigrate (h : KHdr) (payload : List Byte) (ns : Nat)
  /-- EMB_COPY (R394). -/
  | embCopy (h : KHdr) (payload : List Byte)
  /-- MIGRATE_ACK (R394). -/
  | migrateAck (table row : Nat) (stored : Bool)
  /-- EMB_OVERRIDE (R396). -/
  | embOverride (h : KHdr) (payload : List Byte)
  /-- MIGRATION_ABANDON (R395). -/
  | migrationAbandon (table row : Nat)
  /-- MIGRATION_TOMBSTONE (R394). -/
  | migrationTombstone (table row : Nat)
  /-- DECODE (R405). -/
  | decode (src : JobSource)
  /-- ENCODE (R413). -/
  | encode (src : JobSource)
  /-- JOB_COMPLETE (R422). -/
  | jobComplete (die : Nat) (press : Bool) (lane : Nat)
  /-- LANE_INTERNAL_ERROR (R426). -/
  | laneInternalError (die : Nat) (press : Bool) (lane : Nat)
  /-- ARROW_CHECK (R434). -/
  | arrowCheck (die gc a0 row0 count : Nat)
  /-- PARQUET_DECODE (R443). -/
  | parquetDecode (die gc a0 row0 count : Nat)
  /-- FIELD_RECORD_FRAME (R455). -/
  | fieldRecordFrame (port : Nat) (bytes : List Byte) (fcsOk : Bool) (arrivalNs : Nat)
  /-- PORT_STATUS_FRAME (R452). -/
  | portStatusFrame (port : Nat)
  /-- PTP_ANNOUNCE (R460). -/
  | ptpAnnounce (port : Nat) (m : PtpMsg)
  /-- PTP_SYNC (R460). -/
  | ptpSync (port : Nat) (m : PtpMsg) (t2 t3 : Nat)
  /-- PTP_FOLLOW_UP (R460). -/
  | ptpFollowUp (port : Nat) (m : PtpMsg) (t3 : Nat)
  /-- PTP_DELAY_RESP (R461). -/
  | ptpDelayResp (port : Nat) (m : PtpMsg)
  /-- PTP_ANNOUNCE_TIMEOUT (R461). -/
  | ptpAnnounceTimeout (port : Nat)
  /-- FIELD_LINK_CHANGE (R449). -/
  | fieldLinkChange (port : Nat) (up : Bool) (kind : CageModule)
  /-- FRAME (R470). -/
  | frame (die gc a0 : Nat)
  /-- EMIT (R480). -/
  | emit (die gc a0 row0 count ns : Nat)
  /-- EMIT_RESUME (R482). -/
  | emitResume (pipe : Nat)
  /-- EMIT_WAIT_TIMEOUT (R482). -/
  | emitWaitTimeout (die gc : Nat)
  /-- BQ_FETCH (R488). -/
  | bqFetch (h : KHdr) (payload : List Byte)
  /-- REDELIVER (R489). -/
  | redeliver (pipe seq : Nat)
  /-- PUSH_SEND (R490). -/
  | pushSend (pipe : Nat)
  /-- BATCH_PART (R505). -/
  | batchPart (h : KHdr) (payload : List Byte)
  /-- KUPEL_TRAINING_COMPLETE (R497). -/
  | kupelTrainingComplete (port txFail rxFail : Nat)
  /-- LANE_LOSS_OF_LOCK (R497). -/
  | laneLossOfLock (port lane : Nat)
  /-- SER_LIMIT_EXCEEDED (R497). -/
  | serLimitExceeded (port lane : Nat)
  /-- TRAINING_EXCLUSION (R498). -/
  | trainingExclusion (port : Nat)
  /-- LINK_HELLO (R616). -/
  | linkHello (port : Nat) (h : KHdr) (payload : List Byte)
  /-- LINK_HELLO_TIMEOUT (R616). -/
  | linkHelloTimeout (port : Nat)
  /-- ATTEST_RETRY (R500). -/
  | attestRetry (port : Nat)
  /-- KFP_FRAME (R508). -/
  | kfpFrame (port : Nat) (bytes : List Byte) (fcsOk : Bool) (ns : Nat)
  /-- MESSAGE_TRANSMIT (R506). -/
  | messageTransmit (port cls : Nat)
  /-- ACK_TIMER (R508). -/
  | ackTimer (port : Nat)
  /-- REPLAY_TIMEOUT (R508). -/
  | replayTimeout (port : Nat)
  /-- DATA_WRITE (R522). -/
  | dataWrite (h : KHdr) (payload : List Byte)
  /-- SESSION_OPEN (R617). -/
  | sessionOpen (h : KHdr) (macAddr : Nat) (payload : List Byte)
  /-- SESSION_OPEN_TIMEOUT (R520). -/
  | sessionOpenTimeout (session : Nat)
  /-- SESSION_IDLE_TIMEOUT (R523). -/
  | sessionIdleTimeout (session : Nat)
  /-- SESSION_CLOSE (R523). -/
  | sessionClose (h : KHdr)
  /-- ATTEST (R615). -/
  | attest (h : KHdr) (payload : List Byte)
  /-- PLAN_LOAD (R293). -/
  | planLoad (h : KHdr) (payload : List Byte)
  /-- PLAN_START (R293). -/
  | planStart (h : KHdr) (payload : List Byte)
  /-- PLAN_STOP (R293). -/
  | planStop (h : KHdr) (payload : List Byte)
  /-- PLAN_DRAIN (R293). -/
  | planDrain (h : KHdr) (payload : List Byte)
  /-- REG_READ (R518). -/
  | regRead (h : KHdr) (payload : List Byte)
  /-- REG_WRITE (R518). -/
  | regWrite (h : KHdr) (payload : List Byte)
  /-- CTRL_DONE (R521). -/
  | ctrlDone (h : KHdr) (payload : List Byte)
  /-- EVENT (R601). -/
  | event (h : KHdr) (payload : List Byte)
  /-- HELLO (R525). -/
  | hello (h : KHdr) (payload : List Byte)
  /-- HEARTBEAT (R533). -/
  | heartbeat (h : KHdr) (payload : List Byte)
  /-- DELTA_PART (R530). -/
  | deltaPart (h : KHdr) (payload : List Byte)
  /-- DELTA_END (R531). -/
  | deltaEnd (h : KHdr) (payload : List Byte)
  /-- DELTA_ACK (R531). -/
  | deltaAck (h : KHdr) (payload : List Byte)
  /-- BULK_PART (R536). -/
  | bulkPart (h : KHdr) (payload : List Byte)
  /-- BULK_END (R536). -/
  | bulkEnd (h : KHdr) (payload : List Byte)
  /-- DETACH (R539). -/
  | detach (h : KHdr) (payload : List Byte)
  /-- HANDOVER (R538). -/
  | handover (h : KHdr) (payload : List Byte)
  /-- TWN_CTL_HANDOVER (R538). -/
  | twnCtlHandover (by_ : Requester)
  /-- HANG_DETECT (R547). -/
  | hangDetect (die unit : Nat)
  /-- UNIT_FENCE (R548). -/
  | unitFence (die unit cause : Nat)
  /-- SPR_FENCE (R547). -/
  | sprFence (by_ : Requester) (value : BitVec 64)
  /-- MC_FENCE (R555). -/
  | mcFence (mc cause : Nat)
  /-- FRAME_RETIRE (R560). -/
  | frameRetire (tier frame cause : Nat)
  /-- HBM_SCRUB (R562). -/
  | hbmScrub (found : List (Nat × Ecc))
  /-- FATAL_FAILURE (R558). -/
  | fatalFailure (die : Nat) (what : FatalUnit)
  /-- PIN (R567). -/
  | pin (lowNs : Nat)
  /-- SW (R565). -/
  | sw (by_ : Requester) (value : BitVec 64)
  /-- LOCKUP (R565). -/
  | lockup (mc : Nat)
  /-- WAKE (R583). -/
  | wake (bySource : Option Nat)
  /-- UNIT_RESET (R581). -/
  | unitReset (by_ : Requester) (value : BitVec 64)
  /-- UNIT_RESET_DONE (R582). -/
  | unitResetDone (die unit : Nat)
  /-- KICK (R565). -/
  | kick (by_ : Requester) (value : BitVec 64)
  /-- EVENT_OCCURRENCE (R589). -/
  | eventOccurrence (source : Nat) (status : Status) (detail : BitVec 256)
  /-- EVENT_DELIVERY (R593). -/
  | eventDelivery (source : Nat)
  /-- HOLDOFF_EXPIRE (R599). -/
  | holdoffExpire (group : Nat)
  /-- EVT_EOI (R596). -/
  | evtEoi (mc : Nat) (value : BitVec 64)
  /-- EVT_PEND (R598). -/
  | evtPend (instance_ : Nat) (value : BitVec 64)
  /-- EVT_SUB (R600). -/
  | evtSub (by_ : Requester) (instance_ : Nat) (value : BitVec 64)
  /-- PLAN_EVENT (R587). -/
  | planEvent (die gc a0 a1 : Nat)
  /-- ENROL (R614). -/
  | enrol (by_ : Requester) (value : BitVec 64)
  /-- ERASE (R619). -/
  | erase (by_ : Requester) (ctl : BitVec 192)
  /-- PROGRAM (R619). -/
  | program (by_ : Requester) (ctl : BitVec 192)
  /-- VERIFY_OXENE (R619). -/
  | verifyOxene (by_ : Requester) (ctl : BitVec 192)
  /-- VERIFY_OWNER (R619). -/
  | verifyOwner (by_ : Requester) (ctl : BitVec 192)
  /-- INPUT_OVERVOLTAGE (R622). -/
  | inputOvervoltage (vinMv : Nat)
  /-- INPUT_OVERCURRENT (R622). -/
  | inputOvercurrent (iinDa ns : Nat)
  /-- RAIL_GOOD (R626). -/
  | railGood (pg : Nat)
  /-- RAIL_GOOD_TIMEOUT (R627). -/
  | railGoodTimeout (pg : Nat)
  /-- RAIL_FAULT (R627). -/
  | railFault (pg : Nat)
  /-- VCORE_EXCURSION (R629). -/
  | vcoreExcursion (die mv ns : Nat)
  /-- NVW_INHIBIT_ASSERT (R630). -/
  | nvwInhibitAssert (vinMv vauxMv : Nat)
  /-- NVW_INHIBIT_LIFT (R630). -/
  | nvwInhibitLift (vinMv vauxMv : Nat)
  /-- POWER_SAMPLE (R633). -/
  | powerSample (r : PowerReadings)
  /-- QSFP_MODULE_CHANGE (R648). -/
  | qsfpModuleChange (port : Nat) (kind : CageModule) (pclass : Nat)
  /-- PAGE (R645). -/
  | page (w : Option Nat) (pecOk : Bool)
  /-- CLEAR_FAULTS (R645). -/
  | clearFaults (pecOk : Bool)
  /-- OXN_PWR_CAP (R646). -/
  | oxnPwrCap (w : Option Nat) (pecOk : Bool)
  /-- OXN_FLASH_BUF (R646). -/
  | oxnFlashBuf (block : List Byte) (pecOk : Bool)
  /-- OXN_FLASH_CTL (R646). -/
  | oxnFlashCtl (block : List Byte) (pecOk : Bool)
  /-- OXN_OWN_ROOT (R646). -/
  | oxnOwnRoot (block : List Byte) (pecOk : Bool)
  /-- OXN_OWN_CTL (R646). -/
  | oxnOwnCtl (w : Option (List Byte)) (pecOk : Bool)
  /-- SAMPLE_PRELOAD (R647). -/
  | samplePreload (pins preload : Nat)
  /-- EXTEST (R647). -/
  | extest (pins : Nat)
  /-- OXN_DBG (R647). -/
  | oxnDbg (attach : Bool)
  /-- OXN_RECOVERY (R647). -/
  | oxnRecovery (code : Nat) (data : List Byte)
  /-- REGISTER_WRITE (R6). -/
  | registerWrite (by_ : Requester) (addr : Nat) (value : BitVec 64)
  /-- RV64GC_INSTRUCTION (R219). -/
  | rv64gcInstruction (die gc : Nat)
  /-- FRAME_PATH_ALIGNER_FAILURE (R557). -/
  | framePathAlignerFailure (aligner : Bool)
  /-- TICK (R31). -/
  | tick
  /-- PARENT_SILENT_SWITCH (R52). -/
  | parentSilentSwitch
  /-- HOLDOVER_ENTRY (R50). -/
  | holdoverEntry
  /-- MASTER_LISTEN_END (R57). -/
  | masterListenEnd
  /-- PTP_WAIT_EXPIRE (R59). -/
  | ptpWaitExpire
  /-- FRAME_JOB_COMPLETE (R468). -/
  | frameJobComplete
  /-- PAIRING_WAIT_EXPIRE (R525). -/
  | pairingWaitExpire
  /-- HEARTBEAT_MISS (R533). -/
  | heartbeatMiss
  /-- DELTA_LAG_EXPIRE (R532). -/
  | deltaLagExpire
  /-- POR (R565). -/
  | por
  /-- BOR (R565). -/
  | bor
  /-- WDOG (R565). -/
  | wdog
  /-- DBG (R565). -/
  | dbg
  /-- REST (R570). -/
  | rest
  /-- SHARED (R570). -/
  | shared
  /-- RUN (R570). -/
  | run
  /-- SHARED_COUNT_EXPIRE (R571). -/
  | sharedCountExpire
  /-- ENROL_COMPLETE (R614). -/
  | enrolComplete
  /-- FLASH_OP_COMPLETE (R620). -/
  | flashOpComplete
  /-- HOT_SWAP_CLOSE (R621). -/
  | hotSwapClose
  /-- PWR_EN_DEASSERT (R629). -/
  | pwrEnDeassert
  /-- POWER_DOWN_DELAY (R629). -/
  | powerDownDelay
  /-- CAPABILITY (R645). -/
  | capability
  /-- VOUT_MODE (R645). -/
  | voutMode
  /-- STATUS_WORD (R645). -/
  | statusWord
  /-- STATUS_VOUT (R645). -/
  | statusVout
  /-- STATUS_IOUT (R645). -/
  | statusIout
  /-- STATUS_INPUT (R645). -/
  | statusInput
  /-- STATUS_TEMPERATURE (R645). -/
  | statusTemperature
  /-- STATUS_CML (R645). -/
  | statusCml
  /-- READ_VIN (R645). -/
  | readVin
  /-- READ_IIN (R645). -/
  | readIin
  /-- READ_PIN (R645). -/
  | readPin
  /-- READ_VOUT (R645). -/
  | readVout
  /-- READ_IOUT (R645). -/
  | readIout
  /-- READ_POUT (R645). -/
  | readPout
  /-- READ_TEMPERATURE_1 (R645). -/
  | readTemperature1
  /-- READ_TEMPERATURE_2 (R645). -/
  | readTemperature2
  /-- READ_TEMPERATURE_3 (R645). -/
  | readTemperature3
  /-- PMBUS_REVISION (R645). -/
  | pmbusRevision
  /-- MFR_ID (R645). -/
  | mfrId
  /-- MFR_MODEL (R645). -/
  | mfrModel
  /-- ALERT_RESPONSE (R643). -/
  | alertResponse
  /-- OXN_BOOT_STATUS (R646). -/
  | oxnBootStatus
  /-- OXN_RST_STATE (R646). -/
  | oxnRstState
  /-- OXN_FLASH_STAT (R646). -/
  | oxnFlashStat
  /-- IDCODE (R647). -/
  | idcode
  /-- CLAMP (R647). -/
  | clamp
  /-- HIGHZ (R647). -/
  | highz
  /-- OXN_RESET (R647). -/
  | oxnReset
  /-- BYPASS (R647). -/
  | bypass
  /-- TRST (R647). -/
  | trst
  /-- RUN_PHASE_START (R279). -/
  | runPhaseStart
  /-- BOR_RELEASE (R628). -/
  | borRelease
  /-- REPORT_SIGNED (R615). -/
  | reportSigned
  deriving DecidableEq, Repr

end Sys2Proof
end

