-- ==== Sys2Proof/Decode.lean ====
section
/-! DEFINITION. The words of the opcode table. No row of spec/opcode_table.json has fixed bits or fields, so no
word spells a command. -/

namespace Sys2Proof

/-- A row of the opcode table that has bits: how many, the bits it fixes, and the command they spell. -/
structure TableRow where
  nbits : Nat
  mask : Nat
  value : Nat
  command : Instr

/-- The rows of the table that give bits: none. -/
def tableRows : List TableRow := []

/-- The command that a word spells by the table's bits. (Log entry 14, DESIGN CHOICE.) -/
def decodeTableWord (nbits w : Nat) : Option Instr :=
  (tableRows.find? (fun r => r.nbits = nbits && (w &&& r.mask) = r.value)).map TableRow.command

end Sys2Proof
end

