-- ==== Sys2Proof/Machine/Bits.lean ====
section
/-! DEFINITION. Bit fields, byte order (R4, R5), two's complement, and the sparse maps in which the state keeps
what is mostly at one value. -/

namespace Sys2Proof.Machine

/-- Bits [lo + w - 1 : lo] of x (R5). -/
def fieldOf (x lo w : Nat) : Nat := (x >>> lo) % 2 ^ w

/-- Bit i of x. -/
def bitOf (x i : Nat) : Bool := decide (fieldOf x i 1 = 1)

/-- The bits [hi : lo] of a record, in the notation of the record tables (R95). -/
def recF (r : Rec) (hi lo : Nat) : Nat := fieldOf r.toNat lo (hi + 1 - lo)

/-- Bit i of a record. -/
def recB (r : Rec) (i : Nat) : Bool := bitOf r.toNat i

/-- Every listed [hi : lo] field of a record is zero: the reserved-field checks. -/
def recZero (r : Rec) (fs : List (Nat × Nat)) : Bool := fs.all (fun p => decide (recF r p.1 p.2 = 0))

/-- The two's complement value of the low w bits of x. -/
def sext (w x : Nat) : Int :=
  let y := x % 2 ^ w
  if 2 ^ (w - 1) ≤ y then (y : Int) - 2 ^ w else y

/-- The low w bits of an integer, as two's complement. -/
def wrapTo (w : Nat) (i : Int) : Nat := (i % (2 ^ w : Int)).toNat

/-- The signed range of w bits. -/
def intMin (w : Nat) : Int := -(2 ^ (w - 1) : Int)
/-- The largest signed value of w bits. -/
def intMax (w : Nat) : Int := 2 ^ (w - 1) - 1

/-- An integer held between two bounds, and whether it had to be moved (R70). -/
def clampTo (lo hi i : Int) : Int × Bool :=
  if i < lo then (lo, true) else if hi < i then (hi, true) else (i, false)

/-- The n bytes of x, least significant first (R4). -/
def toBytes : Nat → Nat → List Byte
  | 0, _ => []
  | n + 1, x => BitVec.ofNat 8 x :: toBytes n (x / 256)

/-- The value of bytes stored least significant first (R4). -/
def ofBytes : List Byte → Nat
  | [] => 0
  | b :: bs => b.toNat + 256 * ofBytes bs

/-- The value of bytes stored most significant first, for fields of published standards (R4). -/
def ofBytesBE (bs : List Byte) : Nat := bs.foldl (fun a b => a * 256 + b.toNat) 0

/-- The n bytes of x, most significant first. -/
def toBytesBE (n x : Nat) : List Byte := (toBytes n x).reverse

/-- Bytes [off, off + n) of a byte string; bytes past its end read as zero. -/
def slice (bs : List Byte) (off n : Nat) : List Byte :=
  let t := (bs.drop off).take n
  t ++ List.replicate (n - t.length) 0

/-- The little-endian field of n bytes at offset off. -/
def leAt (bs : List Byte) (off n : Nat) : Nat := ofBytes (slice bs off n)

/-- The quotient rounded up. -/
def ceilDiv (a b : Nat) : Nat := (a + b - 1) / b

/-- The multiple of n at or above a. -/
def alignUp (a n : Nat) : Nat := ceilDiv a n * n

/-- The list with entry i replaced. -/
def setAt {α : Type} (l : List α) (i : Nat) (x : α) : List α := l.set i x

/-- Entry i of a list, or a default. -/
def getAt {α : Type} (d : α) (l : List α) (i : Nat) : α := l.getD i d

/-- Split a byte string into pieces of n bytes, k of them. -/
def chunksOf : Nat → Nat → List Byte → List (List Byte)
  | 0, _, _ => []
  | k + 1, n, bs => slice bs 0 n :: chunksOf k n (bs.drop n)

/-- What a sparse map holds for key k: the default where the key is not listed. -/
def smGet {α : Type} (d : α) : List (Nat × α) → Nat → α
  | [], _ => d
  | (k, v) :: m, a => if k = a then v else smGet d m a

/-- The sparse map without key a. -/
def smDrop {α : Type} (m : List (Nat × α)) (a : Nat) : List (Nat × α) := m.filter (fun e => decide (e.1 ≠ a))

/-- The sparse map with key a set to v: keys stay strictly rising, and no entry holds the default. -/
def smSet {α : Type} [DecidableEq α] (d : α) : List (Nat × α) → Nat → α → List (Nat × α)
  | [], a, v => if v = d then [] else [(a, v)]
  | (k, u) :: m, a, v =>
    if a < k then (if v = d then (k, u) :: smDrop m a else (a, v) :: (k, u) :: m)
    else if a = k then (if v = d then smDrop m a else (k, v) :: m)
    else (k, u) :: smSet d m a v

/-- The canonical form of a sparse map: strictly rising keys, and no entry equal to the default. -/
def smWf {α : Type} [DecidableEq α] (d : α) : List (Nat × α) → Bool
  | [] => true
  | [(_, v)] => decide (v ≠ d)
  | (k, v) :: (l, u) :: m => decide (v ≠ d) && decide (k < l) && smWf d ((l, u) :: m)

/-- Insert before the first element that does not come earlier. -/
def insertBy {α : Type} (le : α → α → Bool) (x : α) : List α → List α
  | [] => [x]
  | y :: ys => if le x y then x :: y :: ys else y :: insertBy le x ys

/-- The stable sort by an order. -/
def sortBy {α : Type} (le : α → α → Bool) (xs : List α) : List α := xs.foldr (insertBy le) []

/-- Insert into a sorted list of numbers without repeats. -/
def setInsert : List Nat → Nat → List Nat
  | [], a => [a]
  | k :: m, a => if a < k then a :: k :: m else if a = k then k :: m else k :: setInsert m a

/-- The position of the first element that satisfies p. -/
def findIdx1 {α : Type} (p : α → Bool) : List α → Option Nat
  | [] => none
  | x :: xs => if p x then some 0 else (findIdx1 p xs).map (· + 1)

/-- The number of set bits among the low w bits. -/
def popCount : Nat → Nat → Nat
  | 0, _ => 0
  | w + 1, x => x % 2 + popCount w (x / 2)

end Sys2Proof.Machine
end

