-- ==== Sys2Proof/Machine/Hash.lean ====
section
/-! DEFINITION. Hashes and check values: VH64 (R231), CRC-32C (R233), and the CRC-32 and XXH64 that the published
container formats of chapter 14 use. -/

namespace Sys2Proof.Machine

/-- 64-bit wrap-around product. -/
def mul64 (a b : Nat) : Nat := a * b % 2 ^ 64
/-- 64-bit wrap-around sum. -/
def add64 (a b : Nat) : Nat := (a + b) % 2 ^ 64
/-- 64-bit rotation to the left. -/
def rotl64 (x n : Nat) : Nat := (x <<< n) % 2 ^ 64 ||| x >>> (64 - n)

/-- The first multiplier of VH64. -/
def vhP1 : Nat := 0xb4e91d27c36a58f1
/-- The second. -/
def vhP2 : Nat := 0x8f0a63d52e7194cb
/-- The third. -/
def vhP3 : Nat := 0x6d2cf8a13b95e047

/-- One step of VH64 (R231). -/
def vhStep (h w : Nat) : Nat := add64 (mul64 (rotl64 (h ^^^ mul64 w vhP2) 29) vhP1) vhP3

/-- The steps over the 8-byte words of a string, k of them; bytes past its end are zero. -/
def vhWords : Nat → Nat → List Byte → Nat
  | 0, h, _ => h
  | k + 1, h, bs => vhWords k (vhStep h (ofBytes (bs.take 8))) (bs.drop 8)

/-- VH64 of a byte string with a seed (R231). -/
def vh64 (seed : Nat) (bs : List Byte) : Nat :=
  let len := bs.length
  let h0 := seed % 2 ^ 64 ^^^ mul64 len vhP1
  let h1 := vhStep (vhWords (ceilDiv len 8) h0 bs) len
  let h2 := mul64 (h1 ^^^ h1 >>> 32) vhP2
  let h3 := mul64 (h2 ^^^ h2 >>> 29) vhP3
  h3 ^^^ h3 >>> 32

/-- VH64 of a 64-bit value: its eight little-endian bytes (R231). -/
def vh64Word (seed v : Nat) : Nat := vh64 seed (toBytes 8 v)

/-- A hash ranged into n places (R231). -/
def vhRange (h n : Nat) : Nat := (h * n) >>> 64

/-- One byte into a reflected CRC-32. -/
def crcByte (poly crc : Nat) (b : Byte) : Nat :=
  (List.range 8).foldl (fun c _ => if c % 2 = 1 then c >>> 1 ^^^ poly else c >>> 1) (crc ^^^ b.toNat)

/-- A reflected CRC-32 with all-ones start and final inversion. -/
def crc32With (poly : Nat) (bs : List Byte) : Nat := bs.foldl (crcByte poly) 0xFFFFFFFF ^^^ 0xFFFFFFFF

/-- CRC-32C (R233): the reflected Castagnoli polynomial. -/
def crc32c (bs : List Byte) : Nat := crc32With 0x82F63B78 bs
/-- The CRC-32 of RFC 1952. -/
def crc32 (bs : List Byte) : Nat := crc32With 0xEDB88320 bs

/-- The primes of XXH64. -/
def xxP1 : Nat := 11400714785074694791
/-- The second prime. -/
def xxP2 : Nat := 14029467366897019727
/-- The third prime. -/
def xxP3 : Nat := 1609587929392839161
/-- The fourth prime. -/
def xxP4 : Nat := 9650029242287828579
/-- The fifth prime. -/
def xxP5 : Nat := 2870177450012600261

/-- One lane round of XXH64. -/
def xxRound (acc w : Nat) : Nat := mul64 (rotl64 (add64 acc (mul64 w xxP2)) 31) xxP1

/-- The stripes of 32 bytes, k of them. -/
def xxStripes : Nat → Nat × Nat × Nat × Nat → List Byte → Nat × Nat × Nat × Nat
  | 0, a, _ => a
  | k + 1, (a, b, c, d), bs =>
    xxStripes k (xxRound a (leAt bs 0 8), xxRound b (leAt bs 8 8), xxRound c (leAt bs 16 8), xxRound d (leAt bs 24 8))
      (bs.drop 32)

/-- The last bytes of XXH64: eight at a time, then four, then one. -/
def xxTail : Nat → Nat → List Byte → Nat
  | 0, h, _ => h
  | n + 1, h, bs =>
    if 8 ≤ bs.length then
      xxTail n (add64 (mul64 (rotl64 (h ^^^ xxRound 0 (leAt bs 0 8)) 27) xxP1) xxP4) (bs.drop 8)
    else if 4 ≤ bs.length then
      xxTail n (add64 (mul64 (rotl64 (h ^^^ mul64 (leAt bs 0 4) xxP1) 23) xxP2) xxP3) (bs.drop 4)
    else
      match bs with
      | [] => h
      | b :: rest => xxTail n (mul64 (rotl64 (h ^^^ mul64 b.toNat xxP5) 11) xxP1) rest

/-- XXH64 with seed 0, the content checksum of RFC 8878. -/
def xxh64 (bs : List Byte) : Nat :=
  let n := bs.length
  let merge (h v : Nat) : Nat := add64 (mul64 (h ^^^ xxRound 0 v) xxP1) xxP4
  let h0 :=
    if n < 32 then xxP5
    else
      let (a, b, c, d) := xxStripes (n / 32) (add64 xxP1 xxP2, xxP2, 0, (2 ^ 64 - xxP1) % 2 ^ 64) bs
      let h := add64 (add64 (rotl64 a 1) (rotl64 b 7)) (add64 (rotl64 c 12) (rotl64 d 18))
      merge (merge (merge (merge h a) b) c) d
  let h1 := xxTail n (add64 h0 n) (bs.drop (n / 32 * 32))
  let h2 := mul64 (h1 ^^^ h1 >>> 33) xxP2
  let h3 := mul64 (h2 ^^^ h2 >>> 29) xxP3
  h3 ^^^ h3 >>> 32

end Sys2Proof.Machine
end

