-- ==== Sys2Proof/Config.lean ====
section
/-! DEFINITION. What the spec leaves open: constants without a body, so that nothing can be proved of their
values. Each is named in a log entry. -/

namespace Sys2Proof

/-- A fresh free value: applied to the counter that State holds (log entry 3). -/
opaque Config.freeValue : (w : Nat) → Nat → BitVec w

/-- The DEFLATE encoding that a press makes of its input at a level (R413 gives its properties, not its
bytes). (Log entry 4, DESIGN CHOICE.) -/
opaque Config.deflateBytes : (level : Nat) → List Byte → List Byte

/-- The rounding of log1p, which R329 bounds by one unit in the last place. Log entry 5.
(Log entry 5, DESIGN CHOICE.) -/
opaque Config.log1pPick : BitVec 32 → Nat

/-- The FP32 power of R213 whose rounding is not given. (Log entry 5, DESIGN CHOICE.) -/
opaque Config.decayPower : BitVec 32 → Nat → BitVec 32

/-- Oxene's root public key in the mask ROM (R604), which the spec does not print. Log entry 6.
(Log entry 6, DESIGN CHOICE.) -/
opaque Config.oxeneRoot : BitVec 512

/-- What the module's unclonable circuit gives, corrected with the helper data of the flash (R611). Log entry 6.
(Log entry 6, DESIGN CHOICE.) -/
opaque Config.pufKey : List Byte → BitVec 256

/-- Where the device certificate begins in its flash region, which it shares with the helper data (R605).
(Log entry 6, DESIGN CHOICE.) -/
opaque Config.certificateOffset : Nat

/-- The HBM stack (first) or LPDDR5X channel (second) in which a frame lies, which the spec does not give. Log entry 24.
(Log entry 24, DESIGN CHOICE.) -/
opaque Config.memoryOf : (frame : Nat) → BitVec 3 × BitVec 4

/-- What the clamp of R328 gives for a value when its lower limit is above its upper one: limits and value. The spec
states no result there. (Log entry 31, DESIGN CHOICE.) -/
opaque Config.clampCrossed : (lo hi y : BitVec 32) → BitVec 32

end Sys2Proof
end

