-- ==== Sys2Proof/Machine/Num.lean ====
section
/-! DEFINITION. Number formats and arithmetic: chapter 03. Values are exact (a significand times a power of two),
and every result is rounded once, where the chapter says that a unit rounds. -/

namespace Sys2Proof.Machine

/-- Element types of R65. -/
inductive ETy where
  | int4 | uint4 | int8 | uint8 | int16 | int32 | int64 | e4m3 | e5m2 | mxfp8 | mxfp4 | mxint8
  | fp16 | bf16 | fp32 | fp64 | qc4 | qc8 | dict32 | ts64 | varbin | bitmap | uint32
  deriving DecidableEq, Repr

/-- The type that a code of R65 names; codes 0x00 and 0x18 to 0x1F are reserved. -/
def ETy.ofCode : Nat → Option ETy
  | 0x01 => some .int4
  | 0x02 => some .uint4
  | 0x03 => some .int8
  | 0x04 => some .uint8
  | 0x05 => some .int16
  | 0x06 => some .int32
  | 0x07 => some .int64
  | 0x08 => some .e4m3
  | 0x09 => some .e5m2
  | 0x0A => some .mxfp8
  | 0x0B => some .mxfp4
  | 0x0C => some .mxint8
  | 0x0D => some .fp16
  | 0x0E => some .bf16
  | 0x0F => some .fp32
  | 0x10 => some .fp64
  | 0x11 => some .qc4
  | 0x12 => some .qc8
  | 0x13 => some .dict32
  | 0x14 => some .ts64
  | 0x15 => some .varbin
  | 0x16 => some .bitmap
  | 0x17 => some .uint32
  | _ => none

/-- The element width in bits (R97). -/
def ETy.width : ETy → Nat
  | .int4 | .uint4 | .qc4 | .mxfp4 => 4
  | .int8 | .uint8 | .e4m3 | .e5m2 | .mxfp8 | .mxint8 | .qc8 => 8
  | .int16 | .fp16 | .bf16 => 16
  | .int32 | .fp32 | .dict32 | .varbin | .uint32 => 32
  | .int64 | .fp64 | .ts64 => 64
  | .bitmap => 1

/-- The microscaling types (R77). -/
def ETy.isMx : ETy → Bool
  | .mxfp8 | .mxfp4 | .mxint8 => true
  | _ => false

/-- How a format spends its largest exponent (R71). -/
inductive FKind where
  | ieee | e4m3 | finite
  deriving DecidableEq, Repr

/-- A binary floating-point format (R71). -/
structure Fmt where
  eb : Nat
  fb : Nat
  bias : Nat
  kind : FKind
  deriving DecidableEq, Repr

/-- MXFP4 element. -/
def Fmt.e2m1 : Fmt := ⟨2, 1, 1, .finite⟩
/-- FP8 E4M3. -/
def Fmt.e4m3 : Fmt := ⟨4, 3, 7, .e4m3⟩
/-- FP8 E5M2. -/
def Fmt.e5m2 : Fmt := ⟨5, 2, 15, .ieee⟩
/-- FP16. -/
def Fmt.fp16 : Fmt := ⟨5, 10, 15, .ieee⟩
/-- BF16. -/
def Fmt.bf16 : Fmt := ⟨8, 7, 127, .ieee⟩
/-- FP32. -/
def Fmt.fp32 : Fmt := ⟨8, 23, 127, .ieee⟩
/-- FP64. -/
def Fmt.fp64 : Fmt := ⟨11, 52, 1023, .ieee⟩

/-- The floating-point format of an element type. -/
def ETy.fmt? : ETy → Option Fmt
  | .e4m3 | .mxfp8 => some .e4m3
  | .e5m2 => some .e5m2
  | .mxfp4 => some .e2m1
  | .fp16 => some .fp16
  | .bf16 => some .bf16
  | .fp32 => some .fp32
  | .fp64 => some .fp64
  | _ => none

/-- Whether an integer type is signed; none for the types that are no integers (R65, R69). -/
def ETy.signed? : ETy → Option Bool
  | .int4 | .int8 | .int16 | .int32 | .int64 | .ts64 | .mxint8 => some true
  | .uint4 | .uint8 | .uint32 | .dict32 | .qc4 | .qc8 | .bitmap => some false
  | _ => none

/-- An exact floating-point datum: sign, significand and exponent. -/
inductive FVal where
  | nan
  | inf (neg : Bool)
  | fin (neg : Bool) (m : Nat) (e : Int)
  deriving DecidableEq, Repr

/-- The datum that a code of the format stands for (R71); subnormals keep their values (R72). -/
def Fmt.decode (f : Fmt) (x : Nat) : FVal :=
  let s := bitOf x (f.eb + f.fb)
  let E := fieldOf x f.fb f.eb
  let F := fieldOf x 0 f.fb
  if f.kind = .ieee ∧ E = 2 ^ f.eb - 1 then (if F = 0 then .inf s else .nan)
  else if f.kind = .e4m3 ∧ E = 2 ^ f.eb - 1 ∧ F = 2 ^ f.fb - 1 then .nan
  else if E = 0 then .fin s F (1 - (f.bias : Int) - f.fb)
  else .fin s (2 ^ f.fb + F) ((E : Int) - f.bias - f.fb)

/-- The canonical NaN of a format (R74). -/
def Fmt.nan (f : Fmt) : Nat :=
  match f.kind with
  | .ieee => (2 ^ f.eb - 1) * 2 ^ f.fb + 2 ^ (f.fb - 1)
  | .e4m3 => 2 ^ (f.eb + f.fb) - 1
  | .finite => 0

/-- The magnitude code of the largest finite value (R71). -/
def Fmt.maxFin (f : Fmt) : Nat :=
  match f.kind with
  | .ieee => (2 ^ f.eb - 1) * 2 ^ f.fb - 1
  | .e4m3 => 2 ^ (f.eb + f.fb) - 2
  | .finite => 2 ^ (f.eb + f.fb) - 1

/-- The magnitude code of infinity, for the formats that have one. -/
def Fmt.infCode (f : Fmt) : Nat := (2 ^ f.eb - 1) * 2 ^ f.fb

/-- The sign bit of a format. -/
def Fmt.signed (f : Fmt) (neg : Bool) (code : Nat) : Nat := (if neg then 2 ^ (f.eb + f.fb) else 0) + code

/-- How a significand with dropped bits is rounded: to nearest even (R89), the other RISC-V modes (R68), or
stochastically with 16 drawn bits (R90). -/
inductive RMode where
  | rne | rtz | rdn | rup | rmm
  | sr (r : Nat)
  deriving DecidableEq, Repr

/-- The rounding of a magnitude: its code, and whether it passed the largest finite, was inexact, or was tiny. -/
structure Rounded where
  code : Nat
  tooBig : Bool
  inexact : Bool
  tiny : Bool
  deriving DecidableEq, Repr

/-- One unit is added to the kept bits when the mode says so: `keep` are the kept bits, `rem` the dropped d bits. -/
def roundUp (mode : RMode) (neg : Bool) (keep rem d : Nat) (sticky : Bool) : Bool :=
  let half := 2 ^ (d - 1)
  match mode with
  | .rne => decide (half < rem) || (decide (rem = half) && (sticky || decide (keep % 2 = 1)))
  | .rtz => false
  | .rdn => neg && (sticky || decide (rem ≠ 0))
  | .rup => !neg && (sticky || decide (rem ≠ 0))
  | .rmm => decide (half ≤ rem)
  | .sr r => decide (2 ^ d ≤ rem + (if 16 ≤ d then r <<< (d - 16) else r >>> (16 - d)))

/-- Round the magnitude (m plus a part below one when sticky) times 2^e into a format. -/
def Fmt.roundMag (f : Fmt) (mode : RMode) (neg : Bool) (m : Nat) (e : Int) (sticky : Bool) : Rounded :=
  if m = 0 then ⟨0, false, sticky, true⟩
  else
    let top : Int := (Nat.log2 m : Int) + e
    let emin : Int := 1 - (f.bias : Int)
    let q : Int := (if emin ≤ top then top else emin) - f.fb
    let d : Int := q - e
    let keep0 := if d ≤ 0 then m <<< (-d).toNat else m >>> d.toNat
    let rem := if d ≤ 0 then 0 else m % 2 ^ d.toNat
    let inc := decide (0 < d) && roundUp mode neg keep0 rem d.toNat sticky
    let keep := if inc then keep0 + 1 else keep0
    let base : Int := (q + f.fb + f.bias - 1) * 2 ^ f.fb
    let code := (base + keep).toNat
    ⟨code, decide (f.maxFin < code), sticky || decide (rem ≠ 0), decide (top < emin)⟩

/-- What an overflow or an infinity becomes (R88). -/
inductive OverPolicy where
  | inf | sat | noInf
  deriving DecidableEq, Repr

/-- The code of a datum in a format: overflow to a signed infinity, to the largest finite, or to NaN where the
format has no infinity (R88). -/
def Fmt.encode (f : Fmt) (mode : RMode) (pol : OverPolicy) : FVal → Nat
  | .nan => f.nan
  | .inf s =>
    match pol with
    | .inf => f.signed s f.infCode
    | .sat => f.signed s f.maxFin
    | .noInf => f.nan
  | .fin s m e =>
    let r := f.roundMag mode s m e false
    if r.tooBig then
      (match pol with
      | .inf => f.signed s f.infCode
      | .sat => f.signed s f.maxFin
      | .noInf => f.nan)
    else f.signed s r.code

/-- FP16, BF16 and FP32 results: to nearest even, overflow to a signed infinity (R88, R89). -/
def Fmt.round (f : Fmt) (v : FVal) : Nat := f.encode .rne .inf v

/-- The overflow policy of a float type under a SAT setting (R88). (Log entry 72, DEDUCED.) -/
def Fmt.policy (f : Fmt) (sat : Bool) : OverPolicy :=
  if f.kind = .finite then .sat
  else if f.eb + f.fb = 7 then (if sat then .sat else if f.kind = .e4m3 then .noInf else .inf)
  else .inf

/-- An integer as an exact datum. -/
def FVal.ofInt (i : Int) : FVal := .fin (decide (i < 0)) i.natAbs 0

/-- The sign of a datum. -/
def FVal.neg? : FVal → Bool
  | .nan => false
  | .inf s => s
  | .fin s _ _ => s

/-- The datum with its sign turned. -/
def FVal.negate : FVal → FVal
  | .nan => .nan
  | .inf s => .inf (!s)
  | .fin s m e => .fin (!s) m e

/-- The magnitude of a datum. -/
def FVal.abs : FVal → FVal
  | .nan => .nan
  | .inf _ => .inf false
  | .fin _ m e => .fin false m e

/-- Whether a datum is NaN. -/
def FVal.isNan : FVal → Bool
  | .nan => true
  | _ => false

/-- Whether a datum is an infinity. -/
def FVal.isInf : FVal → Bool
  | .inf _ => true
  | _ => false

/-- Whether a datum is a zero of either sign. -/
def FVal.isZero : FVal → Bool
  | .fin _ m _ => decide (m = 0)
  | _ => false

/-- The signed significand of a finite datum over a common exponent. -/
def scaled (s : Bool) (m : Nat) (e e0 : Int) : Int :=
  let x : Int := (m <<< (e - e0).toNat : Nat)
  if s then -x else x

/-- The exact sum; an exact zero sum is +0 unless both operands are -0, or unless rounding is downward. -/
def FVal.add (a b : FVal) (down : Bool := false) : FVal :=
  match a, b with
  | .nan, _ => .nan
  | _, .nan => .nan
  | .inf s, .inf t => if s = t then .inf s else .nan
  | .inf s, _ => .inf s
  | _, .inf t => .inf t
  | .fin s m e, .fin t n g =>
    let e0 := min e g
    let x := scaled s m e e0 + scaled t n g e0
    if x = 0 then .fin (if m = 0 ∧ n = 0 ∧ s = t then s else down) 0 e0
    else .fin (decide (x < 0)) x.natAbs e0

/-- The exact product. -/
def FVal.mul (a b : FVal) : FVal :=
  match a, b with
  | .nan, _ => .nan
  | _, .nan => .nan
  | .inf s, .inf t => .inf (s != t)
  | .inf s, .fin t n _ => if n = 0 then .nan else .inf (s != t)
  | .fin s m _, .inf t => if m = 0 then .nan else .inf (s != t)
  | .fin s m e, .fin t n g => .fin (s != t) (m * n) (e + g)

/-- The comparison of two data by value; none when either is NaN; -0 equals +0 (R73). -/
def FVal.cmp (a b : FVal) : Option Ordering :=
  match a, b with
  | .nan, _ => none
  | _, .nan => none
  | .inf s, .inf t => some (compare (!s) (!t))
  | .inf s, _ => some (if s then .lt else .gt)
  | _, .inf t => some (if t then .gt else .lt)
  | .fin s m e, .fin t n g =>
    let e0 := min e g
    some (compare (scaled s m e e0) (scaled t n g e0))

/-- a is at most b, in value. -/
def FVal.le (a b : FVal) : Bool := decide (a.cmp b = some .lt) || decide (a.cmp b = some .eq)
/-- a is below b, in value. -/
def FVal.lt (a b : FVal) : Bool := decide (a.cmp b = some .lt)
/-- a equals b, in value. -/
def FVal.eqv (a b : FVal) : Bool := decide (a.cmp b = some .eq)

/-- The larger of two, the first kept when equal; a NaN yields to the other operand (R73, R76). -/
def FVal.max (a b : FVal) : FVal :=
  if a.isNan then b else if b.isNan then a else if a.lt b then b else a

/-- The smaller of two, the first kept when equal; a NaN yields to the other operand (R73, R76). -/
def FVal.min (a b : FVal) : FVal :=
  if a.isNan then b else if b.isNan then a else if b.lt a then b else a

/-- A finite datum rounded to an integer in a mode, and whether that was inexact. -/
def roundToInt (mode : RMode) (s : Bool) (m : Nat) (e : Int) : Int × Bool :=
  if 0 ≤ e then ((if s then -((m <<< e.toNat : Nat) : Int) else (m <<< e.toNat : Nat)), false)
  else
    let d := (-e).toNat
    let keep := m >>> d
    let rem := m % 2 ^ d
    let k := if roundUp mode s keep rem d false then keep + 1 else keep
    ((if s then -(k : Int) else k), decide (rem ≠ 0))

/-- A datum narrowed to an integer range: nearest even, then saturated; NaN gives 0 and counts as a saturation
(R88). -/
def FVal.toIntSat (lo hi : Int) : FVal → Int × Bool
  | .nan => (0, true)
  | .inf s => (if s then lo else hi, true)
  | .fin s m e => clampTo lo hi (roundToInt .rne s m e).1

/-- The quotient of two finite data rounded into a format: enough quotient bits, with a sticky remainder. -/
def Fmt.divMag (f : Fmt) (mode : RMode) (neg : Bool) (m n : Nat) (e : Int) : Rounded :=
  let k := f.fb + 4 + Nat.log2 n
  let num := m <<< k
  f.roundMag mode neg (num / n) (e - k) (decide (num % n ≠ 0))

/-- The integer square root, found bit by bit from 2^b down. -/
def isqrtGo : Nat → Nat → Nat → Nat
  | 0, x, r => if (r + 1) * (r + 1) ≤ x then r + 1 else r
  | b + 1, x, r =>
    let t := r + 2 ^ (b + 1)
    isqrtGo b x (if t * t ≤ x then t else r)

/-- The largest r with r * r at most x. -/
def isqrt (x : Nat) : Nat := isqrtGo (Nat.log2 x / 2 + 1) x 0

/-- The square root of a finite magnitude rounded into a format. -/
def Fmt.sqrtMag (f : Fmt) (mode : RMode) (m : Nat) (e : Int) : Rounded :=
  let k0 := 2 * (f.fb + 4)
  let k := if (e - k0) % 2 = 0 then k0 else k0 + 1
  let x := m <<< k
  let r := isqrt x
  f.roundMag mode false r ((e - k) / 2) (decide (r * r ≠ x))

/-- FP32 operations of the units outside the general cores: exact, then rounded once (R89, R91). -/
def f32 (x : Nat) : FVal := Fmt.fp32.decode x
/-- The FP32 sum. -/
def f32Add (a b : Nat) : Nat := Fmt.fp32.round ((f32 a).add (f32 b))
/-- The FP32 product. -/
def f32Mul (a b : Nat) : Nat := Fmt.fp32.round ((f32 a).mul (f32 b))
/-- The FP32 difference. -/
def f32Sub (a b : Nat) : Nat := Fmt.fp32.round ((f32 a).add (f32 b).negate)

/-- The FP32 quotient; division by zero gives an infinity or NaN as IEEE 754 defines (R75). -/
def f32Div (a b : Nat) : Nat :=
  match f32 a, f32 b with
  | .nan, _ => Fmt.fp32.nan
  | _, .nan => Fmt.fp32.nan
  | .inf _, .inf _ => Fmt.fp32.nan
  | .inf s, .fin t _ _ => Fmt.fp32.signed (s != t) Fmt.fp32.infCode
  | .fin s _ _, .inf t => Fmt.fp32.signed (s != t) 0
  | .fin s m e, .fin t n g =>
    if n = 0 then (if m = 0 then Fmt.fp32.nan else Fmt.fp32.signed (s != t) Fmt.fp32.infCode)
    else
      let r := Fmt.fp32.divMag .rne (s != t) m n (e - g)
      Fmt.fp32.signed (s != t) (if r.tooBig then Fmt.fp32.infCode else r.code)

/-- The FP32 square root; of a negative number, NaN. -/
def f32Sqrt (a : Nat) : Nat :=
  match f32 a with
  | .nan => Fmt.fp32.nan
  | .inf s => if s then Fmt.fp32.nan else Fmt.fp32.infCode
  | .fin s m e =>
    if m = 0 then Fmt.fp32.signed s 0 else if s then Fmt.fp32.nan else (Fmt.fp32.sqrtMag .rne m e).code

/-- The value of one element: an integer, a float, or bits that no unit computes on. -/
inductive EVal where
  | int (i : Int)
  | flt (v : FVal)
  deriving DecidableEq, Repr

/-- The value of an element of a type (MX elements without their scale). -/
def ETy.value (t : ETy) (x : Nat) : EVal :=
  match t.fmt? with
  | some f => .flt (f.decode x)
  | none => .int (if t.signed? = some true then sext t.width x else (x % 2 ^ t.width : Nat))

/-- A value as an exact float datum. -/
def EVal.toF : EVal → FVal
  | .int i => FVal.ofInt i
  | .flt v => v

/-- The comparison of two values in exact arithmetic. -/
def EVal.cmp (a b : EVal) : Option Ordering :=
  match a, b with
  | .int i, .int j => some (compare i j)
  | _, _ => a.toF.cmp b.toF

/-- The range of an integer type. -/
def ETy.range (t : ETy) : Int × Int :=
  if t.signed? = some true then (intMin t.width, intMax t.width) else (0, 2 ^ t.width - 1)

/-- The conversion of a value into an element type (R88), in a rounding mode for FP8, and whether an integer
result was saturated (R70). (Log entry 72, DEDUCED.) -/
def ETy.convert (t : ETy) (sat : Bool) (mode : RMode) (v : EVal) : Nat × Bool :=
  match t.fmt? with
  | some f => (f.encode (if f.eb + f.fb ≤ 7 then mode else .rne) (f.policy sat) v.toF, false)
  | none =>
    let (lo, hi) := t.range
    let (i, s) := match v with
      | .int i => clampTo lo hi i
      | .flt x => x.toIntSat lo hi
    (wrapTo t.width i, s)

/-- An element passed on: a NaN takes the canonical encoding of its type; FP64, MX and integer elements keep every bit
(R74). -/
def ETy.passOn (t : ETy) (x : Nat) : Nat :=
  match t with
  | .fp32 | .bf16 | .fp16 | .e4m3 | .e5m2 =>
    match t.fmt? with
    | some f => if (f.decode x).isNan then f.nan else x
    | none => x
  | _ => x

/-- One COMBINE step on an element (R108): the new code, and whether an integer sum saturated. Modes: 1 ADD,
2 MAX, 3 MIN; every other mode stores the new value. -/
def combineElem (t : ETy) (mode : Nat) (old new : Nat) : Nat × Bool :=
  match mode with
  | 1 =>
    match t.fmt? with
    | some f => (f.encode .rne (f.policy true) ((f.decode old).add (f.decode new)), false)
    | none =>
      match t.value old, t.value new with
      | .int i, .int j => t.convert true .rne (.int (i + j))
      | _, _ => (new, false)
  | 2 =>
    match t.fmt? with
    | some f =>
      let a := f.decode old
      let b := f.decode new
      (if a.isNan ∧ b.isNan then f.nan else if a.isNan then new else if b.isNan then old
       else if a.lt b then new else old, false)
    | none => (if (t.value old).cmp (t.value new) = some .lt then new else old, false)
  | 3 =>
    match t.fmt? with
    | some f =>
      let a := f.decode old
      let b := f.decode new
      (if a.isNan ∧ b.isNan then f.nan else if a.isNan then new else if b.isNan then old
       else if b.lt a then new else old, false)
    | none => (if (t.value new).cmp (t.value old) = some .lt then new else old, false)
  | _ => (t.passOn new, false)

/-- The types on which ADD, MAX and MIN are permitted (R109). -/
def ETy.combinable : ETy → Bool
  | .int8 | .uint8 | .int16 | .int32 | .int64 | .uint32 | .ts64 | .fp16 | .bf16 | .fp32 => true
  | _ => false

/-- The quantile code of a value (R80): the count of the given boundaries at most the value. Only the boundaries
in use are passed, the NaN-slot rule of R82 having chosen them. -/
def quantileCode (bounds : List EVal) (v : EVal) : Nat :=
  (bounds.filter (fun b => decide (b.cmp v = some .lt) || decide (b.cmp v = some .eq))).length

/-- The code of an input under R80 to R83: `top` is 15 or 255, `nanSlot` whether the column enables it, and a
null input codes as the NaN slot or 0. -/
def quantile (top : Nat) (nanSlot : Bool) (bounds : List EVal) (null : Bool) (v : EVal) : Nat :=
  let isNan := match v with
    | .flt .nan => true
    | _ => false
  if null || isNan then (if nanSlot then top else 0)
  else quantileCode (bounds.take (if nanSlot then top - 1 else top)) v

/-- The scale of an MX scale byte: a power of two, or none for the NaN byte (R78). -/
def mxScale (e : Nat) : Option Int := if e = 255 then none else some ((e : Int) - 127)

/-- The value of an MX element under its block's scale (R78). -/
def mxValue (t : ETy) (x scale : Nat) : FVal :=
  match mxScale scale with
  | none => .nan
  | some k =>
    let v := match t with
      | .mxint8 =>
        let i := sext 8 x
        FVal.fin (decide (i < 0)) i.natAbs (-6)
      | .mxfp4 => Fmt.e2m1.decode x
      | _ => Fmt.e4m3.decode x
    match v with
    | .nan => .nan
    | .inf s => .inf s
    | .fin s m e => .fin s m (e + k)

/-- floor(log2 |v|) of a nonzero finite datum. -/
def FVal.ilog2 : FVal → Int
  | .fin _ m e => (Nat.log2 m : Int) + e
  | _ => 0

/-- One step of the stochastic-rounding generator (R90): the new state and the 16 drawn bits.
(Log entry 42, DEDUCED.) -/
def srDraw (s0 : Nat) : Nat × Nat :=
  let m := 2 ^ 64
  let s1 := s0 ^^^ ((s0 <<< 13) % m)
  let s2 := s1 ^^^ (s1 >>> 7)
  let s3 := s2 ^^^ ((s2 <<< 17) % m)
  (s3, s3 >>> 48)

/-- The generator at tick t (R90). (Log entry 42, DEDUCED.) -/
def srInit (seed t u : Nat) : Nat :=
  let s := (seed ^^^ t ^^^ (u <<< 48)) % 2 ^ 64
  if s = 0 then 1 else s

/-- A float datum becomes the largest finite value of a format because it lies beyond it or is an infinity. -/
def Fmt.clamps (f : Fmt) (mode : RMode) : FVal → Bool
  | .nan => false
  | .inf _ => true
  | .fin s m e => (f.roundMag mode s m e false).tooBig

/-- An element converted for a store path: an FP8 output under SAT 1 that becomes the largest finite value is saturated too
(R88, R205). With stochastic rounding enabled an FP8 or MX output draws once for
each finite nonzero element (R89, R90). Answers the code, the saturation flag and the generator. -/
def storeElem (t : ETy) (sat srOn : Bool) (gen : Nat) (v : EVal) : Nat × Bool × Nat :=
  let f8 := match t.fmt? with
    | some f => decide (f.eb + f.fb ≤ 7)
    | none => false
  let draws := match v.toF with
    | .fin _ m _ => srOn && f8 && decide (m ≠ 0)
    | _ => false
  let (g, mode) := if draws then (let (g, r) := srDraw gen; (g, RMode.sr r)) else (gen, .rne)
  let (c, s) := t.convert sat mode v
  let past := match t.fmt? with
    | some f => f8 && sat && f.clamps mode v.toF
    | none => false
  (c, s || past, g)

/-- One MX element divided by its block scale 2^s and converted to the element format, clamped to its largest
finite (R79), and whether it was clamped; the largest finite magnitudes of MXINT8 are -128 and 127.
(Log entries 72, DEDUCED; 160, DESIGN CHOICE.) -/
def mxElem (t : ETy) (mode : RMode) (s : Int) (v : FVal) : Nat × Bool :=
  let w := match v with
    | .fin n m e => FVal.fin n m (e - s)
    | x => x
  match t with
  | .mxint8 =>
    match w with
    | .fin n m e =>
      let x := match mode with
        | .sr r => (roundToInt (.sr r) n m (e + 6)).1
        | _ => (roundToInt .rne n m (e + 6)).1
      let (i, c) := clampTo (-128) 127 x
      (wrapTo 8 i, c)
    | _ => (0, false)
  | .mxfp4 => (Fmt.e2m1.encode mode .sat w, Fmt.e2m1.clamps mode w)
  | _ => (Fmt.e4m3.encode mode .sat w, Fmt.e4m3.clamps mode w)

/-- The elements of one MX block with their clamp flags, drawing from the generator in order where stochastic rounding is
on. -/
def mxElems (t : ETy) (srOn : Bool) (s : Int) : List FVal → Nat → List (Nat × Bool) × Nat
  | [], g => ([], g)
  | v :: vs, g =>
    let draw := srOn && !v.isZero
    let (g1, r) := if draw then srDraw g else (g, 0)
    let c := mxElem t (if draw then .sr r else .rne) s v
    let (cs, g2) := mxElems t srOn s vs g1
    (c :: cs, g2)

/-- A block of an MX store (R79): the scale byte, the element codes with their clamp flags, and the generator. -/
def mxBlock (t : ETy) (srOn : Bool) (vs : List FVal) (g : Nat) : Nat × List (Nat × Bool) × Nat :=
  let bad := vs.any (fun v => v.isNan || v.isInf)
  let amax := vs.foldl (fun a v => a.max v.abs) (FVal.fin false 0 0)
  let emax : Int := match t with
    | .mxfp8 => 8
    | .mxfp4 => 2
    | _ => 0
  if bad then (255, vs.map (fun _ => (0, false)), g)
  else if amax.isZero then (0, vs.map (fun _ => (0, false)), g)
  else
    let s := (clampTo (-127) 127 (amax.ilog2 - emax)).1
    let (cs, g1) := mxElems t srOn s vs g
    ((s + 127).toNat, cs, g1)

end Sys2Proof.Machine
end

