-- ==== Sys2Proof/Machine/RegMap.lean ====
section
/-! DEFINITION. The register map: every register of chapter 25 (R649 to R667), its place, its bytes, and the
fields that its home chapter's table gives it, with access code, reset value, stated range and default.
Written from the field tables of spec/, one line per field. -/

namespace Sys2Proof.Machine

/-- The registers of R664, R665 and R666, under their own names. -/
inductive Reg where
  | timeTickPeriod
  | timePhase
  | timeTickCount
  | timeNow
  | timeSrc
  | timeOverrun
  | celScrub
  | celErr
  | celCmd
  | matchBankCfg
  | matchThrottle
  | matchScrub
  | matchErr
  | matchCmd
  | meCfg
  | meSrSeed
  | meStatus
  | meRing
  | meRingBuf
  | meErr
  | meHist
  | gcStatus
  | gcTrap
  | gcTrapPc
  | gcTrapVal
  | gcErr
  | gcWrap
  | strmCtxPos
  | strmBar
  | strmStat
  | strmPt
  | strmCmd
  | dispPlanState
  | dispObsMode
  | dispTraceHead
  | dispLevelDepth
  | dispStat
  | dispUnitLoad
  | dispUnitWait
  | dispSubmit
  | fabEmbCfg
  | fabEmbStat
  | fabEmbLoad
  | decRatioLimit
  | decStat
  | prsStat
  | decCmd
  | prsCmd
  | fldCfg
  | alnCfg
  | fldPort
  | fldStat
  | fldPtp
  | alnStat
  | frmStat
  | bqLowWater
  | bqState
  | bqShare
  | bqStat
  | klPortCfg
  | klPortStatus
  | klStat
  | fabCfg
  | fabRoute
  | fabBridge
  | fabHost
  | fabHostWin
  | fabSession
  | fabStat
  | twnCfg
  | twnBuf
  | twnState
  | twnCtl
  | twnStat
  | sprMap
  | sprFence
  | sprLog
  | errCfg
  | errMem
  | errPage
  | errSum
  | rstCause
  | rstState
  | rstCtl
  | rstShared
  | rstWdog
  | rstUnitReq
  | rstUnitStat
  | bootStatus
  | bootIdentity
  | evtGlobal
  | evtPri
  | evtRec
  | evtSplit
  | evtPend
  | evtHoldoff
  | evtEoi
  | evtCore
  | evtSub
  | evtWakeMask
  | secStatus
  | secAttest
  | secOwnRoot
  | secOwnCtl
  | secFlashCtl
  | secFlashStat
  | secFlashData
  | pwrStatus
  | pwrCap
  | pwrNvwThresh
  | pwrRail
  | pwrTherm
  | groupSel
  deriving DecidableEq, Repr

/-- Where a register stands: a die block, a stream context, a unit block, or the device region (R652). -/
inductive Place where
  | die | ctx | gc | me | unit | kl | bank | dev
  deriving DecidableEq, Repr

/-- Access codes of R6. -/
inductive Access where
  | rw | ro | w1c | w1s | wo | rwl
  deriving DecidableEq, Repr

/-- The values that R673 lets a field take. -/
inductive Legal where
  | any
  | range (lo hi : Nat)
  | rangeOr (lo hi other : Nat)
  | multiple (n : Nat)
  deriving DecidableEq, Repr

/-- One field of a register: its lowest bit, its width and its reset value. A "cfg" or "—" reset is 0 here:
a cfg field reads zero until start step 4 (R663); the "—" fields are log entry 2. -/
structure Fld where
  reg : Reg
  lo  : Nat
  w   : Nat
  rst : Nat
  deriving DecidableEq, Repr

/-- A field with what a write does to it: its access code, whether the standing configuration loads it, the
legal values of R673 and the stated default of R663. -/
structure FieldInfo where
  fld   : Fld
  acc   : Access
  cfg   : Bool
  legal : Legal
  dflt  : Nat
  deriving DecidableEq, Repr

/-- Place, offset, stride, instances and bytes of a register (R664 to R666). -/
structure RegInfo where
  place  : Place
  off    : Nat
  stride : Nat
  count  : Nat
  bytes  : Nat
  deriving DecidableEq, Repr

/-- The register map of R664, R665 and R666. -/
def Reg.info : Reg → RegInfo
  | .timeTickPeriod => ⟨.dev, 0x0, 0, 1, 8⟩
  | .timePhase => ⟨.dev, 0x8, 0, 1, 8⟩
  | .timeTickCount => ⟨.dev, 0x10, 0, 1, 8⟩
  | .timeNow => ⟨.dev, 0x18, 0, 1, 8⟩
  | .timeSrc => ⟨.dev, 0x20, 0, 1, 8⟩
  | .timeOverrun => ⟨.dev, 0x28, 0, 1, 8⟩
  | .celScrub => ⟨.die, 0x70, 0, 1, 8⟩
  | .celErr => ⟨.die, 0x78, 0, 1, 8⟩
  | .celCmd => ⟨.die, 0x100, 0, 1, 64⟩
  | .matchBankCfg => ⟨.bank, 0x0, 0, 1, 8⟩
  | .matchThrottle => ⟨.die, 0x80, 0, 1, 8⟩
  | .matchScrub => ⟨.die, 0x88, 0, 1, 8⟩
  | .matchErr => ⟨.die, 0x90, 0, 1, 8⟩
  | .matchCmd => ⟨.die, 0x140, 0, 1, 64⟩
  | .meCfg => ⟨.me, 0x0, 0, 1, 8⟩
  | .meSrSeed => ⟨.me, 0x8, 0, 1, 8⟩
  | .meStatus => ⟨.me, 0x10, 0, 1, 8⟩
  | .meRing => ⟨.me, 0x18, 0, 1, 8⟩
  | .meRingBuf => ⟨.me, 0x20, 0, 1, 8⟩
  | .meErr => ⟨.me, 0x28, 0, 1, 8⟩
  | .meHist => ⟨.die, 0x18, 0, 1, 8⟩
  | .gcStatus => ⟨.gc, 0x0, 0, 1, 8⟩
  | .gcTrap => ⟨.gc, 0x8, 0, 1, 8⟩
  | .gcTrapPc => ⟨.gc, 0x10, 0, 1, 8⟩
  | .gcTrapVal => ⟨.gc, 0x18, 0, 1, 8⟩
  | .gcErr => ⟨.gc, 0x20, 0, 1, 8⟩
  | .gcWrap => ⟨.gc, 0x28, 0, 1, 8⟩
  | .strmCtxPos => ⟨.ctx, 0x0, 128, 256, 128⟩
  | .strmBar => ⟨.dev, 0x4000, 8, 1024, 8⟩
  | .strmStat => ⟨.die, 0x20, 0, 1, 8⟩
  | .strmPt => ⟨.dev, 0x3018, 0, 1, 8⟩
  | .strmCmd => ⟨.die, 0x180, 0, 1, 64⟩
  | .dispPlanState => ⟨.dev, 0x3000, 0, 1, 8⟩
  | .dispObsMode => ⟨.dev, 0x3008, 0, 1, 8⟩
  | .dispTraceHead => ⟨.dev, 0x3010, 0, 1, 8⟩
  | .dispLevelDepth => ⟨.die, 0x40, 0, 1, 32⟩
  | .dispStat => ⟨.die, 0x28, 0, 1, 8⟩
  | .dispUnitLoad => ⟨.unit, 0x40, 0, 1, 8⟩
  | .dispUnitWait => ⟨.unit, 0x48, 0, 1, 8⟩
  | .dispSubmit => ⟨.die, 0x1C0, 0, 1, 64⟩
  | .fabEmbCfg => ⟨.dev, 0x6018, 0, 1, 8⟩
  | .fabEmbStat => ⟨.dev, 0x6020, 0, 1, 8⟩
  | .fabEmbLoad => ⟨.dev, 0x7000, 32, 64, 32⟩
  | .decRatioLimit => ⟨.dev, 0x3020, 0, 1, 8⟩
  | .decStat => ⟨.die, 0x60, 0, 1, 8⟩
  | .prsStat => ⟨.die, 0x68, 0, 1, 8⟩
  | .decCmd => ⟨.die, 0x200, 0, 1, 64⟩
  | .prsCmd => ⟨.die, 0x240, 0, 1, 64⟩
  | .fldCfg => ⟨.dev, 0x20000, 0, 1, 8⟩
  | .alnCfg => ⟨.dev, 0x20008, 0, 1, 8⟩
  | .fldPort => ⟨.dev, 0x20100, 8, 8, 8⟩
  | .fldStat => ⟨.dev, 0x20200, 16, 8, 16⟩
  | .fldPtp => ⟨.dev, 0x20140, 8, 8, 8⟩
  | .alnStat => ⟨.dev, 0x20400, 8, 64, 8⟩
  | .frmStat => ⟨.dev, 0x20010, 0, 1, 8⟩
  | .bqLowWater => ⟨.dev, 0x21000, 64, 32, 8⟩
  | .bqState => ⟨.dev, 0x21008, 64, 32, 8⟩
  | .bqShare => ⟨.dev, 0x21010, 64, 32, 8⟩
  | .bqStat => ⟨.dev, 0x21020, 64, 32, 16⟩
  | .klPortCfg => ⟨.kl, 0x0, 0, 1, 8⟩
  | .klPortStatus => ⟨.kl, 0x8, 0, 1, 8⟩
  | .klStat => ⟨.kl, 0x10, 0, 1, 16⟩
  | .fabCfg => ⟨.dev, 0x6000, 0, 1, 8⟩
  | .fabRoute => ⟨.dev, 0x8000, 8, 512, 8⟩
  | .fabBridge => ⟨.dev, 0x6100, 8, 16, 8⟩
  | .fabHost => ⟨.dev, 0x6008, 0, 1, 8⟩
  | .fabHostWin => ⟨.dev, 0x6040, 0, 1, 16⟩
  | .fabSession => ⟨.dev, 0x6200, 16, 4, 16⟩
  | .fabStat => ⟨.dev, 0x6010, 0, 1, 8⟩
  | .twnCfg => ⟨.dev, 0x9000, 0, 1, 8⟩
  | .twnBuf => ⟨.dev, 0x9010, 0, 1, 16⟩
  | .twnState => ⟨.dev, 0x9040, 0, 1, 32⟩
  | .twnCtl => ⟨.dev, 0x9008, 0, 1, 8⟩
  | .twnStat => ⟨.dev, 0x9020, 0, 1, 16⟩
  | .sprMap => ⟨.die, 0x8, 0, 1, 8⟩
  | .sprFence => ⟨.dev, 0xA000, 0, 1, 8⟩
  | .sprLog => ⟨.dev, 0xA008, 0, 1, 8⟩
  | .errCfg => ⟨.dev, 0xA010, 0, 1, 8⟩
  | .errMem => ⟨.dev, 0xA100, 8, 24, 8⟩
  | .errPage => ⟨.dev, 0xA018, 0, 1, 8⟩
  | .errSum => ⟨.dev, 0xA020, 0, 1, 16⟩
  | .rstCause => ⟨.dev, 0x1000, 0, 1, 8⟩
  | .rstState => ⟨.dev, 0x1008, 0, 1, 8⟩
  | .rstCtl => ⟨.dev, 0x1010, 0, 1, 8⟩
  | .rstShared => ⟨.dev, 0x1018, 0, 1, 8⟩
  | .rstWdog => ⟨.dev, 0x1020, 0, 1, 8⟩
  | .rstUnitReq => ⟨.dev, 0x1028, 0, 1, 8⟩
  | .rstUnitStat => ⟨.dev, 0x1030, 0, 1, 8⟩
  | .bootStatus => ⟨.dev, 0x1038, 0, 1, 8⟩
  | .bootIdentity => ⟨.dev, 0x1040, 0, 1, 8⟩
  | .evtGlobal => ⟨.dev, 0xC000, 0, 1, 8⟩
  | .evtPri => ⟨.dev, 0xC800, 8, 256, 8⟩
  | .evtRec => ⟨.dev, 0x10000, 64, 256, 64⟩
  | .evtSplit => ⟨.dev, 0xC008, 0, 1, 8⟩
  | .evtPend => ⟨.dev, 0xC040, 8, 4, 8⟩
  | .evtHoldoff => ⟨.dev, 0xC080, 8, 8, 8⟩
  | .evtEoi => ⟨.dev, 0xC100, 8, 4, 8⟩
  | .evtCore => ⟨.dev, 0xC140, 8, 4, 8⟩
  | .evtSub => ⟨.dev, 0xC200, 16, 8, 16⟩
  | .evtWakeMask => ⟨.dev, 0xC300, 0, 1, 40⟩
  | .secStatus => ⟨.dev, 0xB000, 0, 1, 16⟩
  | .secAttest => ⟨.dev, 0xB010, 0, 1, 8⟩
  | .secOwnRoot => ⟨.dev, 0xB080, 0, 1, 64⟩
  | .secOwnCtl => ⟨.dev, 0xB018, 0, 1, 8⟩
  | .secFlashCtl => ⟨.dev, 0xB020, 0, 1, 24⟩
  | .secFlashStat => ⟨.dev, 0xB040, 0, 1, 16⟩
  | .secFlashData => ⟨.dev, 0xB100, 0, 1, 256⟩
  | .pwrStatus => ⟨.dev, 0x2000, 0, 1, 8⟩
  | .pwrCap => ⟨.dev, 0x2008, 0, 1, 8⟩
  | .pwrNvwThresh => ⟨.dev, 0x2010, 0, 1, 8⟩
  | .pwrRail => ⟨.dev, 0x2040, 8, 11, 8⟩
  | .pwrTherm => ⟨.die, 0x10, 0, 1, 8⟩
  | .groupSel => ⟨.die, 0x0, 0, 1, 8⟩

/-- Every register, in the order of its home chapters. -/
def Reg.all : List Reg :=
  [.timeTickPeriod, .timePhase, .timeTickCount, .timeNow, .timeSrc, .timeOverrun, .celScrub, .celErr, .celCmd, .matchBankCfg, .matchThrottle, .matchScrub] ++
  [.matchErr, .matchCmd, .meCfg, .meSrSeed, .meStatus, .meRing, .meRingBuf, .meErr, .meHist, .gcStatus, .gcTrap, .gcTrapPc] ++
  [.gcTrapVal, .gcErr, .gcWrap, .strmCtxPos, .strmBar, .strmStat, .strmPt, .strmCmd, .dispPlanState, .dispObsMode, .dispTraceHead, .dispLevelDepth] ++
  [.dispStat, .dispUnitLoad, .dispUnitWait, .dispSubmit, .fabEmbCfg, .fabEmbStat, .fabEmbLoad, .decRatioLimit, .decStat, .prsStat, .decCmd, .prsCmd] ++
  [.fldCfg, .alnCfg, .fldPort, .fldStat, .fldPtp, .alnStat, .frmStat, .bqLowWater, .bqState, .bqShare, .bqStat, .klPortCfg] ++
  [.klPortStatus, .klStat, .fabCfg, .fabRoute, .fabBridge, .fabHost, .fabHostWin, .fabSession, .fabStat, .twnCfg, .twnBuf, .twnState] ++
  [.twnCtl, .twnStat, .sprMap, .sprFence, .sprLog, .errCfg, .errMem, .errPage, .errSum, .rstCause, .rstState, .rstCtl] ++
  [.rstShared, .rstWdog, .rstUnitReq, .rstUnitStat, .bootStatus, .bootIdentity, .evtGlobal, .evtPri, .evtRec, .evtSplit, .evtPend, .evtHoldoff] ++
  [.evtEoi, .evtCore, .evtSub, .evtWakeMask, .secStatus, .secAttest, .secOwnRoot, .secOwnCtl, .secFlashCtl, .secFlashStat, .secFlashData, .pwrStatus] ++
  [.pwrCap, .pwrNvwThresh, .pwrRail, .pwrTherm, .groupSel]

/-- TIME_TICK_PERIOD PERIOD_NS [24:0] RWL. -/
def F.timeTickPeriodPeriodNs : Fld := ⟨.timeTickPeriod, 0, 25, 0⟩
/-- TIME_PHASE COMMIT_END_NS [18:0] RO. -/
def F.timePhaseCommitEndNs : Fld := ⟨.timePhase, 0, 19, 0⟩
/-- TIME_PHASE GUARD_START_NS [56:32] RO. -/
def F.timePhaseGuardStartNs : Fld := ⟨.timePhase, 32, 25, 0⟩
/-- TIME_TICK_COUNT COUNT [63:0] RO. -/
def F.timeTickCountCount : Fld := ⟨.timeTickCount, 0, 64, 0⟩
/-- TIME_NOW NOW_NS [63:0] RO. -/
def F.timeNowNowNs : Fld := ⟨.timeNow, 0, 64, 0⟩
/-- TIME_SRC MODE [0] RWL. -/
def F.timeSrcMode : Fld := ⟨.timeSrc, 0, 1, 0⟩
/-- TIME_SRC MASTER [1] RWL. -/
def F.timeSrcMaster : Fld := ⟨.timeSrc, 1, 1, 0⟩
/-- TIME_SRC PARENT_PORT [6:2] RWL. -/
def F.timeSrcParentPort : Fld := ⟨.timeSrc, 2, 5, 0⟩
/-- TIME_SRC ALT_PORT [11:7] RWL. -/
def F.timeSrcAltPort : Fld := ⟨.timeSrc, 7, 5, 0⟩
/-- TIME_SRC PTP_PORT [14:12] RWL. -/
def F.timeSrcPtpPort : Fld := ⟨.timeSrc, 12, 3, 0⟩
/-- TIME_SRC ALIGN_STATE [18:16] RO. -/
def F.timeSrcAlignState : Fld := ⟨.timeSrc, 16, 3, 0⟩
/-- TIME_SRC PTP_LOCKED [19] RO. -/
def F.timeSrcPtpLocked : Fld := ⟨.timeSrc, 19, 1, 0⟩
/-- TIME_SRC ON_ALT [20] RO. -/
def F.timeSrcOnAlt : Fld := ⟨.timeSrc, 20, 1, 0⟩
/-- TIME_SRC PTP_WAIT_S [31:24] RWL. -/
def F.timeSrcPtpWaitS : Fld := ⟨.timeSrc, 24, 8, 0⟩
/-- TIME_SRC OFFSET_NS [63:32] RO. -/
def F.timeSrcOffsetNs : Fld := ⟨.timeSrc, 32, 32, 0⟩
/-- TIME_OVERRUN COMMIT_LATE [31:0] RO. -/
def F.timeOverrunCommitLate : Fld := ⟨.timeOverrun, 0, 32, 0⟩
/-- TIME_OVERRUN GUARD_DEFER [63:32] RO. -/
def F.timeOverrunGuardDefer : Fld := ⟨.timeOverrun, 32, 32, 0⟩
/-- CEL_SCRUB PERIOD_S [15:0] RWL. -/
def F.celScrubPeriodS : Fld := ⟨.celScrub, 0, 16, 0⟩
/-- CEL_SCRUB CE_LIMIT [31:16] RWL. -/
def F.celScrubCeLimit : Fld := ⟨.celScrub, 16, 16, 0⟩
/-- CEL_ERR CE_COUNT [31:0] RO. -/
def F.celErrCeCount : Fld := ⟨.celErr, 0, 32, 0⟩
/-- CEL_ERR UE_COUNT [47:32] RO. -/
def F.celErrUeCount : Fld := ⟨.celErr, 32, 16, 0⟩
/-- CEL_ERR SPARES_LEFT [54:48] RO. -/
def F.celErrSparesLeft : Fld := ⟨.celErr, 48, 7, 0⟩
/-- CEL_ERR FENCED [63:56] RO. -/
def F.celErrFenced : Fld := ⟨.celErr, 56, 8, 0⟩
/-- CEL_CMD COMMAND [511:0] WO. -/
def F.celCmdCommand : Fld := ⟨.celCmd, 0, 512, 0⟩
/-- MATCH_BANK_CFG WIDTH [1:0] RO. -/
def F.matchBankCfgWidth : Fld := ⟨.matchBankCfg, 0, 2, 0⟩
/-- MATCH_BANK_CFG IN_PART [2] RO. -/
def F.matchBankCfgInPart : Fld := ⟨.matchBankCfg, 2, 1, 0⟩
/-- MATCH_BANK_CFG BUSY [3] RO. -/
def F.matchBankCfgBusy : Fld := ⟨.matchBankCfg, 3, 1, 0⟩
/-- MATCH_BANK_CFG STAGED [16:8] RO. -/
def F.matchBankCfgStaged : Fld := ⟨.matchBankCfg, 8, 9, 0⟩
/-- MATCH_BANK_CFG VALID_COUNT [63:32] RO. -/
def F.matchBankCfgValidCount : Fld := ⟨.matchBankCfg, 32, 32, 0⟩
/-- MATCH_THROTTLE T1_C [7:0] RWL. -/
def F.matchThrottleT1C : Fld := ⟨.matchThrottle, 0, 8, 0⟩
/-- MATCH_THROTTLE T2_C [15:8] RWL. -/
def F.matchThrottleT2C : Fld := ⟨.matchThrottle, 8, 8, 0⟩
/-- MATCH_THROTTLE HYST_C [19:16] RWL. -/
def F.matchThrottleHystC : Fld := ⟨.matchThrottle, 16, 4, 0⟩
/-- MATCH_THROTTLE TIER [21:20] RO. -/
def F.matchThrottleTier : Fld := ⟨.matchThrottle, 20, 2, 0⟩
/-- MATCH_THROTTLE TIER_EPOCHS [63:32] RO. -/
def F.matchThrottleTierEpochs : Fld := ⟨.matchThrottle, 32, 32, 0⟩
/-- MATCH_SCRUB PERIOD_MS [15:0] RWL. -/
def F.matchScrubPeriodMs : Fld := ⟨.matchScrub, 0, 16, 0⟩
/-- MATCH_SCRUB CE_LIMIT [31:16] RWL. -/
def F.matchScrubCeLimit : Fld := ⟨.matchScrub, 16, 16, 0⟩
/-- MATCH_ERR FALSE_HITS [31:0] RO. -/
def F.matchErrFalseHits : Fld := ⟨.matchErr, 0, 32, 0⟩
/-- MATCH_ERR SCRUB_FIX [47:32] RO. -/
def F.matchErrScrubFix : Fld := ⟨.matchErr, 32, 16, 0⟩
/-- MATCH_ERR UE_COUNT [55:48] RO. -/
def F.matchErrUeCount : Fld := ⟨.matchErr, 48, 8, 0⟩
/-- MATCH_ERR SPARES_LEFT [59:56] RO. -/
def F.matchErrSparesLeft : Fld := ⟨.matchErr, 56, 4, 0⟩
/-- MATCH_ERR FENCED [63:60] RO. -/
def F.matchErrFenced : Fld := ⟨.matchErr, 60, 4, 0⟩
/-- MATCH_CMD COMMAND [511:0] WO. -/
def F.matchCmdCommand : Fld := ⟨.matchCmd, 0, 512, 0⟩
/-- ME_CFG SAT [0] RW. -/
def F.meCfgSat : Fld := ⟨.meCfg, 0, 1, 1⟩
/-- ME_CFG SR_EN [1] RW. -/
def F.meCfgSrEn : Fld := ⟨.meCfg, 1, 1, 0⟩
/-- ME_SR_SEED SEED [63:0] RW. -/
def F.meSrSeedSeed : Fld := ⟨.meSrSeed, 0, 64, 0⟩
/-- ME_STATUS IDLE [0] RO. -/
def F.meStatusIdle : Fld := ⟨.meStatus, 0, 1, 1⟩
/-- ME_STATUS ACC0 [2:1] RO. -/
def F.meStatusAcc0 : Fld := ⟨.meStatus, 1, 2, 0⟩
/-- ME_STATUS ACC1 [4:3] RO. -/
def F.meStatusAcc1 : Fld := ⟨.meStatus, 3, 2, 0⟩
/-- ME_STATUS RING_CUR [5] RO. -/
def F.meStatusRingCur : Fld := ⟨.meStatus, 5, 1, 0⟩
/-- ME_STATUS RING_STEPS [63:32] RO. -/
def F.meStatusRingSteps : Fld := ⟨.meStatus, 32, 32, 0⟩
/-- ME_RING NEXT_ME [4:0] RO. -/
def F.meRingNextMe : Fld := ⟨.meRing, 0, 5, 0⟩
/-- ME_RING NEXT_DIE [6:5] RO. -/
def F.meRingNextDie : Fld := ⟨.meRing, 5, 2, 0⟩
/-- ME_RING PREV_ME [11:7] RO. -/
def F.meRingPrevMe : Fld := ⟨.meRing, 7, 5, 0⟩
/-- ME_RING PREV_DIE [13:12] RO. -/
def F.meRingPrevDie : Fld := ⟨.meRing, 12, 2, 0⟩
/-- ME_RING EN [14] RO. -/
def F.meRingEn : Fld := ⟨.meRing, 14, 1, 0⟩
/-- ME_RING_BUF BUF0 [21:0] RO. -/
def F.meRingBufBuf0 : Fld := ⟨.meRingBuf, 0, 22, 0⟩
/-- ME_RING_BUF BUF1 [43:22] RO. -/
def F.meRingBufBuf1 : Fld := ⟨.meRingBuf, 22, 22, 0⟩
/-- ME_RING_BUF LEN16 [63:44] RO. -/
def F.meRingBufLen16 : Fld := ⟨.meRingBuf, 44, 20, 0⟩
/-- ME_ERR SAT_COUNT [31:0] RO. -/
def F.meErrSatCount : Fld := ⟨.meErr, 0, 32, 0⟩
/-- ME_ERR LM_CE [47:32] RO. -/
def F.meErrLmCe : Fld := ⟨.meErr, 32, 16, 0⟩
/-- ME_ERR LM_UE [55:48] RO. -/
def F.meErrLmUe : Fld := ⟨.meErr, 48, 8, 0⟩
/-- ME_ERR CB_UE [63:56] RO. -/
def F.meErrCbUe : Fld := ⟨.meErr, 56, 8, 0⟩
/-- ME_HIST LATE [31:0] RO. -/
def F.meHistLate : Fld := ⟨.meHist, 0, 32, 0⟩
/-- ME_HIST INCOMPLETE [63:32] RO. -/
def F.meHistIncomplete : Fld := ⟨.meHist, 32, 32, 0⟩
/-- GC_STATUS IDLE [0] RO. -/
def F.gcStatusIdle : Fld := ⟨.gcStatus, 0, 1, 1⟩
/-- GC_STATUS HALTED [1] RO. -/
def F.gcStatusHalted : Fld := ⟨.gcStatus, 1, 1, 0⟩
/-- GC_STATUS TAP_OUT [8:2] RO. -/
def F.gcStatusTapOut : Fld := ⟨.gcStatus, 2, 7, 0⟩
/-- GC_STATUS IC_MISS [63:32] RO. -/
def F.gcStatusIcMiss : Fld := ⟨.gcStatus, 32, 32, 0⟩
/-- GC_TRAP CAUSE [5:0] RO. -/
def F.gcTrapCause : Fld := ⟨.gcTrap, 0, 6, 0⟩
/-- GC_TRAP UE [6] RO. -/
def F.gcTrapUe : Fld := ⟨.gcTrap, 6, 1, 0⟩
/-- GC_TRAP VALID [7] W1C. -/
def F.gcTrapValid : Fld := ⟨.gcTrap, 7, 1, 0⟩
/-- GC_TRAP TICK_LO [63:32] RO. -/
def F.gcTrapTickLo : Fld := ⟨.gcTrap, 32, 32, 0⟩
/-- GC_TRAP_PC PC [63:0] RO. -/
def F.gcTrapPcPc : Fld := ⟨.gcTrapPc, 0, 64, 0⟩
/-- GC_TRAP_VAL VAL [63:0] RO. -/
def F.gcTrapValVal : Fld := ⟨.gcTrapVal, 0, 64, 0⟩
/-- GC_ERR SAT_COUNT [31:0] RO. -/
def F.gcErrSatCount : Fld := ⟨.gcErr, 0, 32, 0⟩
/-- GC_ERR LM_CE [47:32] RO. -/
def F.gcErrLmCe : Fld := ⟨.gcErr, 32, 16, 0⟩
/-- GC_ERR LM_UE [55:48] RO. -/
def F.gcErrLmUe : Fld := ⟨.gcErr, 48, 8, 0⟩
/-- GC_WRAP WRAP_COUNT [63:0] RO. -/
def F.gcWrapWrapCount : Fld := ⟨.gcWrap, 0, 64, 0⟩
/-- STRM_CTX_POS PC [4:0] RO. -/
def F.strmCtxPosPc : Fld := ⟨.strmCtxPos, 0, 5, 0⟩
/-- STRM_CTX_POS STATE [7:5] RO. -/
def F.strmCtxPosState : Fld := ⟨.strmCtxPos, 5, 3, 0⟩
/-- STRM_CTX_POS STATUS [31:16] RO. -/
def F.strmCtxPosStatus : Fld := ⟨.strmCtxPos, 16, 16, 0⟩
/-- STRM_CTX_POS L0 to L5. -/
def F.strmCtxPosL (k : Nat) : Fld := ⟨.strmCtxPos, 64 + 32 * k, 32, 0⟩
/-- STRM_CTX_POS N0 to N5. -/
def F.strmCtxPosN (k : Nat) : Fld := ⟨.strmCtxPos, 256 + 32 * k, 32, 0⟩
/-- STRM_CTX_POS DELIVERED [511:448] RO. -/
def F.strmCtxPosDelivered : Fld := ⟨.strmCtxPos, 448, 64, 0⟩
/-- STRM_CTX_POS A0 to A7. -/
def F.strmCtxPosA (k : Nat) : Fld := ⟨.strmCtxPos, 512 + 48 * k, 48, 0⟩
/-- STRM_CTX_POS FAULT_ADDR [947:896] RO. -/
def F.strmCtxPosFaultAddr : Fld := ⟨.strmCtxPos, 896, 52, 0⟩
/-- STRM_BAR COUNT [11:0] RO. -/
def F.strmBarCount : Fld := ⟨.strmBar, 0, 12, 0⟩
/-- STRM_BAR ARRIVED [23:12] RO. -/
def F.strmBarArrived : Fld := ⟨.strmBar, 12, 12, 0⟩
/-- STRM_BAR GEN [55:24] RO. -/
def F.strmBarGen : Fld := ⟨.strmBar, 24, 32, 0⟩
/-- STRM_BAR DUP [63:56] RO. -/
def F.strmBarDup : Fld := ⟨.strmBar, 56, 8, 0⟩
/-- STRM_STAT LATE [31:0] RO. -/
def F.strmStatLate : Fld := ⟨.strmStat, 0, 32, 0⟩
/-- STRM_STAT RACKS [47:32] RO. -/
def F.strmStatRacks : Fld := ⟨.strmStat, 32, 16, 0⟩
/-- STRM_STAT CTX_USED [56:48] RO. -/
def F.strmStatCtxUsed : Fld := ⟨.strmStat, 48, 9, 0⟩
/-- STRM_PT BASE [51:0] RWL. -/
def F.strmPtBase : Fld := ⟨.strmPt, 0, 52, 0⟩
/-- STRM_CMD REQUEST [511:0] WO. -/
def F.strmCmdRequest : Fld := ⟨.strmCmd, 0, 512, 0⟩
/-- DISP_PLAN_STATE STATE_p. -/
def F.dispPlanStateState (k : Nat) : Fld := ⟨.dispPlanState, 4 * k, 3, 0⟩
/-- DISP_PLAN_STATE PENDING_p. -/
def F.dispPlanStatePending (k : Nat) : Fld := ⟨.dispPlanState, 4 * k + 3, 1, 0⟩
/-- DISP_OBS_MODE MODE [0] RW. -/
def F.dispObsModeMode : Fld := ⟨.dispObsMode, 0, 1, 0⟩
/-- DISP_OBS_MODE TRACE_MIB [23:12] RW. -/
def F.dispObsModeTraceMib : Fld := ⟨.dispObsMode, 12, 12, 0⟩
/-- DISP_OBS_MODE TRACE_BASE [54:24] RW. -/
def F.dispObsModeTraceBase : Fld := ⟨.dispObsMode, 24, 31, 0⟩
/-- DISP_TRACE_HEAD WRITTEN [63:0] RO. -/
def F.dispTraceHeadWritten : Fld := ⟨.dispTraceHead, 0, 64, 0⟩
/-- DISP_LEVEL_DEPTH DEPTH_k. -/
def F.dispLevelDepthDepth (k : Nat) : Fld := ⟨.dispLevelDepth, 16 * k, 13, 0⟩
/-- DISP_STAT DELAY_USED [10:0] RO. -/
def F.dispStatDelayUsed : Fld := ⟨.dispStat, 0, 11, 0⟩
/-- DISP_STAT LAST_STATUS [31:16] RO. -/
def F.dispStatLastStatus : Fld := ⟨.dispStat, 16, 16, 0⟩
/-- DISP_STAT REJECTS [39:32] RO. -/
def F.dispStatRejects : Fld := ⟨.dispStat, 32, 8, 0⟩
/-- DISP_STAT PURGED [47:40] RO. -/
def F.dispStatPurged : Fld := ⟨.dispStat, 40, 8, 0⟩
/-- DISP_STAT OVER_BUDGET [55:48] RO. -/
def F.dispStatOverBudget : Fld := ⟨.dispStat, 48, 8, 0⟩
/-- DISP_STAT TRACE_DROP [63:56] RO. -/
def F.dispStatTraceDrop : Fld := ⟨.dispStat, 56, 8, 0⟩
/-- DISP_UNIT_LOAD BUSY_NS [31:0] RO. -/
def F.dispUnitLoadBusyNs : Fld := ⟨.dispUnitLoad, 0, 32, 0⟩
/-- DISP_UNIT_LOAD STARTED [63:32] RO. -/
def F.dispUnitLoadStarted : Fld := ⟨.dispUnitLoad, 32, 32, 0⟩
/-- DISP_UNIT_WAIT BIN_k. -/
def F.dispUnitWaitBin (k : Nat) : Fld := ⟨.dispUnitWait, 8 * k, 8, 0⟩
/-- DISP_SUBMIT DESCRIPTOR [511:0] WO. -/
def F.dispSubmitDescriptor : Fld := ⟨.dispSubmit, 0, 512, 0⟩
/-- FAB_EMB_CFG OVR_DIE [1:0] RWL. -/
def F.fabEmbCfgOvrDie : Fld := ⟨.fabEmbCfg, 0, 2, 0⟩
/-- FAB_EMB_CFG OVR_FIRST [8:2] RWL. -/
def F.fabEmbCfgOvrFirst : Fld := ⟨.fabEmbCfg, 2, 7, 0⟩
/-- FAB_EMB_CFG OVR_COUNT [16:9] RWL. -/
def F.fabEmbCfgOvrCount : Fld := ⟨.fabEmbCfg, 9, 8, 0⟩
/-- FAB_EMB_STAT ABSENT [15:0] RO. -/
def F.fabEmbStatAbsent : Fld := ⟨.fabEmbStat, 0, 16, 0⟩
/-- FAB_EMB_STAT UPD_DROP [31:16] RO. -/
def F.fabEmbStatUpdDrop : Fld := ⟨.fabEmbStat, 16, 16, 0⟩
/-- FAB_EMB_STAT WRAPPED [47:32] RO. -/
def F.fabEmbStatWrapped : Fld := ⟨.fabEmbStat, 32, 16, 0⟩
/-- FAB_EMB_STAT MIG_ABANDON [51:48] RO. -/
def F.fabEmbStatMigAbandon : Fld := ⟨.fabEmbStat, 48, 4, 0⟩
/-- FAB_EMB_STAT OVR_LATE [55:52] RO. -/
def F.fabEmbStatOvrLate : Fld := ⟨.fabEmbStat, 52, 4, 0⟩
/-- FAB_EMB_STAT MISSING [63:56] RO. -/
def F.fabEmbStatMissing : Fld := ⟨.fabEmbStat, 56, 8, 0⟩
/-- FAB_EMB_LOAD TABLE_ID [11:0] RO. -/
def F.fabEmbLoadTableId : Fld := ⟨.fabEmbLoad, 0, 12, 0⟩
/-- FAB_EMB_LOAD LOOKUP_ROWS [63:32] RO. -/
def F.fabEmbLoadLookupRows : Fld := ⟨.fabEmbLoad, 32, 32, 0⟩
/-- FAB_EMB_LOAD UPDATE_ROWS [95:64] RO. -/
def F.fabEmbLoadUpdateRows : Fld := ⟨.fabEmbLoad, 64, 32, 0⟩
/-- FAB_EMB_LOAD BUSY_NS [127:96] RO. -/
def F.fabEmbLoadBusyNs : Fld := ⟨.fabEmbLoad, 96, 32, 0⟩
/-- FAB_EMB_LOAD FORWARDED [159:128] RO. -/
def F.fabEmbLoadForwarded : Fld := ⟨.fabEmbLoad, 128, 32, 0⟩
/-- DEC_RATIO_LIMIT LIMIT [12:0] RW. -/
def F.decRatioLimitLimit : Fld := ⟨.decRatioLimit, 0, 13, 0⟩
/-- DEC_STAT JOBS_OK [31:0] RO. -/
def F.decStatJobsOk : Fld := ⟨.decStat, 0, 32, 0⟩
/-- DEC_STAT JOBS_FAIL [47:32] RO. -/
def F.decStatJobsFail : Fld := ⟨.decStat, 32, 16, 0⟩
/-- DEC_STAT RATIO [55:48] RO. -/
def F.decStatRatio : Fld := ⟨.decStat, 48, 8, 0⟩
/-- DEC_STAT LANES [58:56] RO. -/
def F.decStatLanes : Fld := ⟨.decStat, 56, 3, 4⟩
/-- PRS_STAT JOBS_OK [31:0] RO. -/
def F.prsStatJobsOk : Fld := ⟨.prsStat, 0, 32, 0⟩
/-- PRS_STAT NO_GAIN [47:32] RO. -/
def F.prsStatNoGain : Fld := ⟨.prsStat, 32, 16, 0⟩
/-- PRS_STAT JOBS_FAIL [55:48] RO. -/
def F.prsStatJobsFail : Fld := ⟨.prsStat, 48, 8, 0⟩
/-- PRS_STAT LANES [57:56] RO. -/
def F.prsStatLanes : Fld := ⟨.prsStat, 56, 2, 2⟩
/-- DEC_CMD JOB [511:0] WO. -/
def F.decCmdJob : Fld := ⟨.decCmd, 0, 512, 0⟩
/-- PRS_CMD JOB [511:0] WO. -/
def F.prsCmdJob : Fld := ⟨.prsCmd, 0, 512, 0⟩
/-- FLD_CFG ETHERTYPE [15:0] RWL. -/
def F.fldCfgEthertype : Fld := ⟨.fldCfg, 0, 16, 0⟩
/-- FLD_CFG STREAM_TAB [61:16] RWL. -/
def F.fldCfgStreamTab : Fld := ⟨.fldCfg, 16, 46, 0⟩
/-- ALN_CFG GROUP_TAB [45:0] RWL. -/
def F.alnCfgGroupTab : Fld := ⟨.alnCfg, 0, 46, 0⟩
/-- FLD_PORT ENABLE [0] RWL. -/
def F.fldPortEnable : Fld := ⟨.fldPort, 0, 1, 0⟩
/-- FLD_PORT PTP_EN [1] RWL. -/
def F.fldPortPtpEn : Fld := ⟨.fldPort, 1, 1, 0⟩
/-- FLD_PORT STATUS_MS [13:2] RWL. -/
def F.fldPortStatusMs : Fld := ⟨.fldPort, 2, 12, 0⟩
/-- FLD_PORT MAC [63:16] RWL. -/
def F.fldPortMac : Fld := ⟨.fldPort, 16, 48, 0⟩
/-- FLD_STAT RECORDS [31:0] RO. -/
def F.fldStatRecords : Fld := ⟨.fldStat, 0, 32, 0⟩
/-- FLD_STAT DROP_OTHER [47:32] RO. -/
def F.fldStatDropOther : Fld := ⟨.fldStat, 32, 16, 0⟩
/-- FLD_STAT MALFORMED [63:48] RO. -/
def F.fldStatMalformed : Fld := ⟨.fldStat, 48, 16, 0⟩
/-- FLD_STAT SEQ_DROP [79:64] RO. -/
def F.fldStatSeqDrop : Fld := ⟨.fldStat, 64, 16, 0⟩
/-- FLD_STAT SEQ_GAP [95:80] RO. -/
def F.fldStatSeqGap : Fld := ⟨.fldStat, 80, 16, 0⟩
/-- FLD_STAT RING_FULL [111:96] RO. -/
def F.fldStatRingFull : Fld := ⟨.fldStat, 96, 16, 0⟩
/-- FLD_STAT FRAME_DROP [119:112] RO. -/
def F.fldStatFrameDrop : Fld := ⟨.fldStat, 112, 8, 0⟩
/-- FLD_STAT LINK_UP [120] RO. -/
def F.fldStatLinkUp : Fld := ⟨.fldStat, 120, 1, 0⟩
/-- FLD_PTP STATE [1:0] RO. -/
def F.fldPtpState : Fld := ⟨.fldPtp, 0, 2, 0⟩
/-- FLD_PTP LOCKED [2] RO. -/
def F.fldPtpLocked : Fld := ⟨.fldPtp, 2, 1, 0⟩
/-- FLD_PTP DOMAIN [15:8] RWL. -/
def F.fldPtpDomain : Fld := ⟨.fldPtp, 8, 8, 0⟩
/-- FLD_PTP DROP [31:16] RO. -/
def F.fldPtpDrop : Fld := ⟨.fldPtp, 16, 16, 0⟩
/-- FLD_PTP OFFSET_NS [63:32] RO. -/
def F.fldPtpOffsetNs : Fld := ⟨.fldPtp, 32, 32, 0⟩
/-- ALN_STAT MOMENTS [31:0] RO. -/
def F.alnStatMoments : Fld := ⟨.alnStat, 0, 32, 0⟩
/-- ALN_STAT ABSENT [47:32] RO. -/
def F.alnStatAbsent : Fld := ⟨.alnStat, 32, 16, 0⟩
/-- ALN_STAT STALE [63:48] RO. -/
def F.alnStatStale : Fld := ⟨.alnStat, 48, 16, 0⟩
/-- FRM_STAT JOBS_OK [31:0] RO. -/
def F.frmStatJobsOk : Fld := ⟨.frmStat, 0, 32, 0⟩
/-- FRM_STAT JOBS_FAIL [47:32] RO. -/
def F.frmStatJobsFail : Fld := ⟨.frmStat, 32, 16, 0⟩
/-- FRM_STAT QUEUED [54:48] RO. -/
def F.frmStatQueued : Fld := ⟨.frmStat, 48, 7, 0⟩
/-- BQ_LOW_WATER LOW_WATER [11:0] RW. -/
def F.bqLowWaterLowWater : Fld := ⟨.bqLowWater, 0, 12, 0⟩
/-- BQ_STATE FILL [11:0] RO. -/
def F.bqStateFill : Fld := ⟨.bqState, 0, 12, 0⟩
/-- BQ_STATE CLOSED [23:12] RO. -/
def F.bqStateClosed : Fld := ⟨.bqState, 12, 12, 0⟩
/-- BQ_STATE LOW [24] RO. -/
def F.bqStateLow : Fld := ⟨.bqState, 24, 1, 0⟩
/-- BQ_STATE SEQ_LO [63:32] RO. -/
def F.bqStateSeqLo : Fld := ⟨.bqState, 32, 32, 0⟩
/-- BQ_SHARE SHARE [15:0] RO. -/
def F.bqShareShare : Fld := ⟨.bqShare, 0, 16, 0⟩
/-- BQ_SHARE TICK_LO [63:32] RO. -/
def F.bqShareTickLo : Fld := ⟨.bqShare, 32, 32, 0⟩
/-- BQ_STAT REJECTS [31:0] RO. -/
def F.bqStatRejects : Fld := ⟨.bqStat, 0, 32, 0⟩
/-- BQ_STAT DROPPED [47:32] RO. -/
def F.bqStatDropped : Fld := ⟨.bqStat, 32, 16, 0⟩
/-- BQ_STAT REDELIVER [55:48] RO. -/
def F.bqStatRedeliver : Fld := ⟨.bqStat, 48, 8, 0⟩
/-- BQ_STAT REJ_LOST [63:56] RO. -/
def F.bqStatRejLost : Fld := ⟨.bqStat, 56, 8, 0⟩
/-- BQ_STAT HOST_ROWS [95:64] RO. -/
def F.bqStatHostRows : Fld := ⟨.bqStat, 64, 32, 0⟩
/-- BQ_STAT BATCHES [127:96] RO. -/
def F.bqStatBatches : Fld := ⟨.bqStat, 96, 32, 0⟩
/-- KL_PORT_CFG EN [0] RWL. -/
def F.klPortCfgEn : Fld := ⟨.klPortCfg, 0, 1, 0⟩
/-- KL_PORT_CFG ROLE [2:1] RWL. -/
def F.klPortCfgRole : Fld := ⟨.klPortCfg, 1, 2, 0⟩
/-- KL_PORT_CFG MAC [63:16] RWL. -/
def F.klPortCfgMac : Fld := ⟨.klPortCfg, 16, 48, 0⟩
/-- KL_PORT_STATUS STATE [2:0] RO. -/
def F.klPortStatusState : Fld := ⟨.klPortStatus, 0, 3, 0⟩
/-- KL_PORT_STATUS TX_LANES [7:3] RO. -/
def F.klPortStatusTxLanes : Fld := ⟨.klPortStatus, 3, 5, 0⟩
/-- KL_PORT_STATUS RX_LANES [12:8] RO. -/
def F.klPortStatusRxLanes : Fld := ⟨.klPortStatus, 8, 5, 0⟩
/-- KL_PORT_STATUS PEER_DEV [24:16] RO. -/
def F.klPortStatusPeerDev : Fld := ⟨.klPortStatus, 16, 9, 0⟩
/-- KL_PORT_STATUS RETRAINS [63:32] RO. -/
def F.klPortStatusRetrains : Fld := ⟨.klPortStatus, 32, 32, 0⟩
/-- KL_STAT REPLAYS [15:0] RO. -/
def F.klStatReplays : Fld := ⟨.klStat, 0, 16, 0⟩
/-- KL_STAT FCS_ERR [31:16] RO. -/
def F.klStatFcsErr : Fld := ⟨.klStat, 16, 16, 0⟩
/-- KL_STAT MALFORMED [47:32] RO. -/
def F.klStatMalformed : Fld := ⟨.klStat, 32, 16, 0⟩
/-- KL_STAT DROP_OTHER [63:48] RO. -/
def F.klStatDropOther : Fld := ⟨.klStat, 48, 16, 0⟩
/-- KL_STAT LOST_DOWN [79:64] RO. -/
def F.klStatLostDown : Fld := ⟨.klStat, 64, 16, 0⟩
/-- FAB_CFG ETHERTYPE [15:0] RWL. -/
def F.fabCfgEthertype : Fld := ⟨.fabCfg, 0, 16, 0⟩
/-- FAB_CFG HOPS [19:16] RWL. -/
def F.fabCfgHops : Fld := ⟨.fabCfg, 16, 4, 0⟩
/-- FAB_CFG SER_LIMIT [39:24] RWL. -/
def F.fabCfgSerLimit : Fld := ⟨.fabCfg, 24, 16, 0⟩
/-- FAB_ROUTE PORTS [23:0] RWL. -/
def F.fabRoutePorts : Fld := ⟨.fabRoute, 0, 24, 0⟩
/-- FAB_BRIDGE DEVICE [8:0] RWL. -/
def F.fabBridgeDevice : Fld := ⟨.fabBridge, 0, 9, 0⟩
/-- FAB_BRIDGE VALID [9] RWL. -/
def F.fabBridgeValid : Fld := ⟨.fabBridge, 9, 1, 0⟩
/-- FAB_HOST PORT [4:0] RWL. -/
def F.fabHostPort : Fld := ⟨.fabHost, 0, 5, 0⟩
/-- FAB_HOST EN [5] RWL. -/
def F.fabHostEn : Fld := ⟨.fabHost, 5, 1, 0⟩
/-- FAB_HOST IDLE_S [31:16] RWL. -/
def F.fabHostIdleS : Fld := ⟨.fabHost, 16, 16, 0⟩
/-- FAB_HOST_WIN BASE [51:0] RWL. -/
def F.fabHostWinBase : Fld := ⟨.fabHostWin, 0, 52, 0⟩
/-- FAB_HOST_WIN LEN [104:64] RWL. -/
def F.fabHostWinLen : Fld := ⟨.fabHostWin, 64, 41, 0⟩
/-- FAB_SESSION STATE [1:0] RO. -/
def F.fabSessionState : Fld := ⟨.fabSession, 0, 2, 0⟩
/-- FAB_SESSION PENDING [12:8] RO. -/
def F.fabSessionPending : Fld := ⟨.fabSession, 8, 5, 0⟩
/-- FAB_SESSION MAC [63:16] RO. -/
def F.fabSessionMac : Fld := ⟨.fabSession, 16, 48, 0⟩
/-- FAB_SESSION OPENED_TICK [127:64] RO. -/
def F.fabSessionOpenedTick : Fld := ⟨.fabSession, 64, 64, 0⟩
/-- FAB_STAT NO_ROUTE [31:0] RO. -/
def F.fabStatNoRoute : Fld := ⟨.fabStat, 0, 32, 0⟩
/-- FAB_STAT HOP_DROP [47:32] RO. -/
def F.fabStatHopDrop : Fld := ⟨.fabStat, 32, 16, 0⟩
/-- FAB_STAT AUTH_DROP [63:48] RO. -/
def F.fabStatAuthDrop : Fld := ⟨.fabStat, 48, 16, 0⟩
/-- TWN_CFG PARTNER [8:0] RWL. -/
def F.twnCfgPartner : Fld := ⟨.twnCfg, 0, 9, 0⟩
/-- TWN_CFG EN [9] RWL. -/
def F.twnCfgEn : Fld := ⟨.twnCfg, 9, 1, 0⟩
/-- TWN_CFG LAG_MAX [14:11] RWL. -/
def F.twnCfgLagMax : Fld := ⟨.twnCfg, 11, 4, 0⟩
/-- TWN_CFG WAIT_S [23:16] RWL. -/
def F.twnCfgWaitS : Fld := ⟨.twnCfg, 16, 8, 0⟩
/-- TWN_BUF BASE [51:0] RWL. -/
def F.twnBufBase : Fld := ⟨.twnBuf, 0, 52, 0⟩
/-- TWN_BUF MIB [79:64] RWL. -/
def F.twnBufMib : Fld := ⟨.twnBuf, 64, 16, 0⟩
/-- TWN_STATE PAIR [1:0] RO. -/
def F.twnStatePair : Fld := ⟨.twnState, 0, 2, 0⟩
/-- TWN_STATE ROLE [2] RO. -/
def F.twnStateRole : Fld := ⟨.twnState, 2, 1, 0⟩
/-- TWN_STATE FAILED_OVER [3] RO. -/
def F.twnStateFailedOver : Fld := ⟨.twnState, 3, 1, 0⟩
/-- TWN_STATE MISSED [7:4] RO. -/
def F.twnStateMissed : Fld := ⟨.twnState, 4, 4, 0⟩
/-- TWN_STATE PORTS_UP [12:8] RO. -/
def F.twnStatePortsUp : Fld := ⟨.twnState, 8, 5, 0⟩
/-- TWN_STATE LAST_SENT [127:64] RO. -/
def F.twnStateLastSent : Fld := ⟨.twnState, 64, 64, 0⟩
/-- TWN_STATE LAST_ACKED [191:128] RO. -/
def F.twnStateLastAcked : Fld := ⟨.twnState, 128, 64, 0⟩
/-- TWN_STATE LAST_APPLIED [255:192] RO. -/
def F.twnStateLastApplied : Fld := ⟨.twnState, 192, 64, 0⟩
/-- TWN_CTL HANDOVER [0] W1S. -/
def F.twnCtlHandover : Fld := ⟨.twnCtl, 0, 1, 0⟩
/-- TWN_STAT DELTAS [31:0] RO. -/
def F.twnStatDeltas : Fld := ⟨.twnStat, 0, 32, 0⟩
/-- TWN_STAT RESENDS [47:32] RO. -/
def F.twnStatResends : Fld := ⟨.twnStat, 32, 16, 0⟩
/-- TWN_STAT FAILOVERS [55:48] RO. -/
def F.twnStatFailovers : Fld := ⟨.twnStat, 48, 8, 0⟩
/-- TWN_STAT CONFLICTS [63:56] RO. -/
def F.twnStatConflicts : Fld := ⟨.twnStat, 56, 8, 0⟩
/-- TWN_STAT LAST_BYTES [127:64] RO. -/
def F.twnStatLastBytes : Fld := ⟨.twnStat, 64, 64, 0⟩
/-- SPR_MAP GC_SPARES [2:0] RO. -/
def F.sprMapGcSpares : Fld := ⟨.sprMap, 0, 3, 0⟩
/-- SPR_MAP ME_SPARES [4:3] RO. -/
def F.sprMapMeSpares : Fld := ⟨.sprMap, 3, 2, 0⟩
/-- SPR_MAP BANK_SPARES [11:5] RO. -/
def F.sprMapBankSpares : Fld := ⟨.sprMap, 5, 7, 0⟩
/-- SPR_MAP MATCH_SPARES [15:12] RO. -/
def F.sprMapMatchSpares : Fld := ⟨.sprMap, 12, 4, 0⟩
/-- SPR_MAP MC_SPARE [16] RO. -/
def F.sprMapMcSpare : Fld := ⟨.sprMap, 16, 1, 0⟩
/-- SPR_MAP DEGRADED [17] RO. -/
def F.sprMapDegraded : Fld := ⟨.sprMap, 17, 1, 0⟩
/-- SPR_MAP FENCED [47:32] RO. -/
def F.sprMapFenced : Fld := ⟨.sprMap, 32, 16, 0⟩
/-- SPR_FENCE KIND [3:0] WO. -/
def F.sprFenceKind : Fld := ⟨.sprFence, 0, 4, 0⟩
/-- SPR_FENCE DIE [5:4] WO. -/
def F.sprFenceDie : Fld := ⟨.sprFence, 4, 2, 0⟩
/-- SPR_FENCE LOGICAL [15:6] WO. -/
def F.sprFenceLogical : Fld := ⟨.sprFence, 6, 10, 0⟩
/-- SPR_LOG RECORDS [14:0] RO. -/
def F.sprLogRecords : Fld := ⟨.sprLog, 0, 15, 0⟩
/-- SPR_LOG FULL [15] RO. -/
def F.sprLogFull : Fld := ⟨.sprLog, 15, 1, 0⟩
/-- SPR_LOG PENDING [24:16] RO. -/
def F.sprLogPending : Fld := ⟨.sprLog, 16, 9, 0⟩
/-- SPR_LOG BAD [47:32] RO. -/
def F.sprLogBad : Fld := ⟨.sprLog, 32, 16, 0⟩
/-- SPR_LOG LAST_STATUS [63:48] RO. -/
def F.sprLogLastStatus : Fld := ⟨.sprLog, 48, 16, 0⟩
/-- ERR_CFG HANG_US [15:0] RWL. -/
def F.errCfgHangUs : Fld := ⟨.errCfg, 0, 16, 0⟩
/-- ERR_CFG LM_CE_LIMIT [23:16] RWL. -/
def F.errCfgLmCeLimit : Fld := ⟨.errCfg, 16, 8, 0⟩
/-- ERR_CFG PAGE_CE_LIMIT [31:24] RWL. -/
def F.errCfgPageCeLimit : Fld := ⟨.errCfg, 24, 8, 0⟩
/-- ERR_CFG HBM_SCRUB_S [47:32] RWL. -/
def F.errCfgHbmScrubS : Fld := ⟨.errCfg, 32, 16, 0⟩
/-- ERR_CFG PPR_EN [48] RWL. -/
def F.errCfgPprEn : Fld := ⟨.errCfg, 48, 1, 0⟩
/-- ERR_CFG CATCHUP [55:49] RWL. -/
def F.errCfgCatchup : Fld := ⟨.errCfg, 49, 7, 0⟩
/-- ERR_MEM CE [31:0] RO. -/
def F.errMemCe : Fld := ⟨.errMem, 0, 32, 0⟩
/-- ERR_MEM UE [47:32] RO. -/
def F.errMemUe : Fld := ⟨.errMem, 32, 16, 0⟩
/-- ERR_MEM RETIRED [63:48] RO. -/
def F.errMemRetired : Fld := ⟨.errMem, 48, 16, 0⟩
/-- ERR_PAGE HBM_RESERVE [13:0] RO. -/
def F.errPageHbmReserve : Fld := ⟨.errPage, 0, 14, 0⟩
/-- ERR_PAGE LPX_RESERVE [27:14] RO. -/
def F.errPageLpxReserve : Fld := ⟨.errPage, 14, 14, 0⟩
/-- ERR_PAGE REPAIRED [63:32] RO. -/
def F.errPageRepaired : Fld := ⟨.errPage, 32, 32, 0⟩
/-- ERR_SUM CE [31:0] RO. -/
def F.errSumCe : Fld := ⟨.errSum, 0, 32, 0⟩
/-- ERR_SUM UE [47:32] RO. -/
def F.errSumUe : Fld := ⟨.errSum, 32, 16, 0⟩
/-- ERR_SUM ICACHE [55:48] RO. -/
def F.errSumIcache : Fld := ⟨.errSum, 48, 8, 0⟩
/-- ERR_SUM SAT [95:64] RO. -/
def F.errSumSat : Fld := ⟨.errSum, 64, 32, 0⟩
/-- ERR_SUM WRAP [127:96] RO. -/
def F.errSumWrap : Fld := ⟨.errSum, 96, 32, 0⟩
/-- RST_CAUSE CAUSE [3:0] RO. -/
def F.rstCauseCause : Fld := ⟨.rstCause, 0, 4, 0⟩
/-- RST_CAUSE IN_START [4] RO. -/
def F.rstCauseInStart : Fld := ⟨.rstCause, 4, 1, 0⟩
/-- RST_STATE STATE [2:0] RO. -/
def F.rstStateState : Fld := ⟨.rstState, 0, 3, 1⟩
/-- RST_STATE STEP [6:3] RO. -/
def F.rstStateStep : Fld := ⟨.rstState, 3, 4, 1⟩
/-- RST_STATE LOCKED [7] RO. -/
def F.rstStateLocked : Fld := ⟨.rstState, 7, 1, 0⟩
/-- RST_STATE SHARED_LEFT [31:16] RO. -/
def F.rstStateSharedLeft : Fld := ⟨.rstState, 16, 16, 0⟩
/-- RST_CTL REQ [2:0] WO. -/
def F.rstCtlReq : Fld := ⟨.rstCtl, 0, 3, 0⟩
/-- RST_CTL SW_KEY [15:8] WO. -/
def F.rstCtlSwKey : Fld := ⟨.rstCtl, 8, 8, 0⟩
/-- RST_CTL SW_RESET [16] WO. -/
def F.rstCtlSwReset : Fld := ⟨.rstCtl, 16, 1, 0⟩
/-- RST_CTL LAST_STATUS [47:32] RO. -/
def F.rstCtlLastStatus : Fld := ⟨.rstCtl, 32, 16, 0⟩
/-- RST_SHARED START_EPOCHS [15:0] RWL. -/
def F.rstSharedStartEpochs : Fld := ⟨.rstShared, 0, 16, 0⟩
/-- RST_SHARED RECOVER_EPOCHS [31:16] RWL. -/
def F.rstSharedRecoverEpochs : Fld := ⟨.rstShared, 16, 16, 0⟩
/-- RST_WDOG TIMEOUT_MS [15:0] RWL. -/
def F.rstWdogTimeoutMs : Fld := ⟨.rstWdog, 0, 16, 0⟩
/-- RST_WDOG KICK [16] WO. -/
def F.rstWdogKick : Fld := ⟨.rstWdog, 16, 1, 0⟩
/-- RST_UNIT_REQ KIND [3:0] WO. -/
def F.rstUnitReqKind : Fld := ⟨.rstUnitReq, 0, 4, 0⟩
/-- RST_UNIT_REQ DIE [5:4] WO. -/
def F.rstUnitReqDie : Fld := ⟨.rstUnitReq, 4, 2, 0⟩
/-- RST_UNIT_REQ LOGICAL [12:6] WO. -/
def F.rstUnitReqLogical : Fld := ⟨.rstUnitReq, 6, 7, 0⟩
/-- RST_UNIT_REQ GO [16] WO. -/
def F.rstUnitReqGo : Fld := ⟨.rstUnitReq, 16, 1, 0⟩
/-- RST_UNIT_STAT LAST_STATUS [15:0] RO. -/
def F.rstUnitStatLastStatus : Fld := ⟨.rstUnitStat, 0, 16, 0⟩
/-- RST_UNIT_STAT REJECTS [31:16] RO. -/
def F.rstUnitStatRejects : Fld := ⟨.rstUnitStat, 16, 16, 0⟩
/-- RST_UNIT_STAT DONE [63:32] RO. -/
def F.rstUnitStatDone : Fld := ⟨.rstUnitStat, 32, 32, 0⟩
/-- BOOT_STATUS STEP [3:0] RO. -/
def F.bootStatusStep : Fld := ⟨.bootStatus, 0, 4, 0⟩
/-- BOOT_STATUS RESULT [7:4] RO. -/
def F.bootStatusResult : Fld := ⟨.bootStatus, 4, 4, 0⟩
/-- BOOT_STATUS STATUS [31:16] RO. -/
def F.bootStatusStatus : Fld := ⟨.bootStatus, 16, 16, 0⟩
/-- BOOT_STATUS RECORD [63:32] RO. -/
def F.bootStatusRecord : Fld := ⟨.bootStatus, 32, 32, 0⟩
/-- BOOT_IDENTITY DEVICE [8:0] RWL. -/
def F.bootIdentityDevice : Fld := ⟨.bootIdentity, 0, 9, 0⟩
/-- BOOT_IDENTITY PAIR [16:9] RWL. -/
def F.bootIdentityPair : Fld := ⟨.bootIdentity, 9, 8, 0⟩
/-- BOOT_IDENTITY GROUP [20:17] RWL. -/
def F.bootIdentityGroup : Fld := ⟨.bootIdentity, 17, 4, 0⟩
/-- EVT_GLOBAL DELIVER [0] RW. -/
def F.evtGlobalDeliver : Fld := ⟨.evtGlobal, 0, 1, 0⟩
/-- EVT_GLOBAL BAD_EOI [31:16] RO. -/
def F.evtGlobalBadEoi : Fld := ⟨.evtGlobal, 16, 16, 0⟩
/-- EVT_GLOBAL SEQ [63:32] RO. -/
def F.evtGlobalSeq : Fld := ⟨.evtGlobal, 32, 32, 0⟩
/-- EVT_PRI PRIORITY [5:0] RW. -/
def F.evtPriPriority : Fld := ⟨.evtPri, 0, 6, 0⟩
/-- EVT_PRI ENABLE [6] RW. -/
def F.evtPriEnable : Fld := ⟨.evtPri, 6, 1, 0⟩
/-- EVT_PRI TARGETS [11:7] RW. -/
def F.evtPriTargets : Fld := ⟨.evtPri, 7, 5, 0⟩
/-- EVT_PRI LEVEL [12] RO. -/
def F.evtPriLevel : Fld := ⟨.evtPri, 12, 1, 0⟩
/-- EVT_PRI STATE [14:13] RO. -/
def F.evtPriState : Fld := ⟨.evtPri, 13, 2, 0⟩
/-- EVT_PRI COUNT [31:16] RO. -/
def F.evtPriCount : Fld := ⟨.evtPri, 16, 16, 0⟩
/-- EVT_PRI RR [34:32] RO. -/
def F.evtPriRr : Fld := ⟨.evtPri, 32, 3, 4⟩
/-- EVT_REC RECORD [511:0] RO. -/
def F.evtRecRecord : Fld := ⟨.evtRec, 0, 512, 0⟩
/-- EVT_SPLIT SPLIT [2:0] RW. -/
def F.evtSplitSplit : Fld := ⟨.evtSplit, 0, 3, 0⟩
/-- EVT_PEND PEND [63:0] W1C. -/
def F.evtPendPend : Fld := ⟨.evtPend, 0, 64, 0⟩
/-- EVT_HOLDOFF US_k. -/
def F.evtHoldoffUs (k : Nat) : Fld := ⟨.evtHoldoff, 16 * k, 16, 0⟩
/-- EVT_EOI SOURCE [7:0] WO. -/
def F.evtEoiSource : Fld := ⟨.evtEoi, 0, 8, 0⟩
/-- EVT_CORE SOURCE [7:0] RO. -/
def F.evtCoreSource : Fld := ⟨.evtCore, 0, 8, 0⟩
/-- EVT_CORE ACTIVE [8] RO. -/
def F.evtCoreActive : Fld := ⟨.evtCore, 8, 1, 0⟩
/-- EVT_CORE RUN_GROUP [15:9] RO. -/
def F.evtCoreRunGroup : Fld := ⟨.evtCore, 9, 7, 64⟩
/-- EVT_CORE DEPTH [22:16] RO. -/
def F.evtCoreDepth : Fld := ⟨.evtCore, 16, 7, 0⟩
/-- EVT_SUB BRIDGE [8:0] RO. -/
def F.evtSubBridge : Fld := ⟨.evtSub, 0, 9, 0⟩
/-- EVT_SUB SESSION [10:9] RO. -/
def F.evtSubSession : Fld := ⟨.evtSub, 9, 2, 0⟩
/-- EVT_SUB VALID [11] RW. -/
def F.evtSubValid : Fld := ⟨.evtSub, 11, 1, 0⟩
/-- EVT_SUB GROUPS [63:32] RW. -/
def F.evtSubGroups : Fld := ⟨.evtSub, 32, 32, 0⟩
/-- EVT_SUB SUB_TICK [95:64] RO. -/
def F.evtSubSubTick : Fld := ⟨.evtSub, 64, 32, 0⟩
/-- EVT_WAKE_MASK SOURCE_k. -/
def F.evtWakeMaskSource (k : Nat) : Fld := ⟨.evtWakeMask, 8 * k, 8, 0⟩
/-- EVT_WAKE_MASK EN_k. -/
def F.evtWakeMaskEn (k : Nat) : Fld := ⟨.evtWakeMask, 256 + k, 1, 0⟩
/-- SEC_STATUS ID_OK [0] RO. -/
def F.secStatusIdOk : Fld := ⟨.secStatus, 0, 1, 0⟩
/-- SEC_STATUS OWNED [1] RO. -/
def F.secStatusOwned : Fld := ⟨.secStatus, 1, 1, 0⟩
/-- SEC_STATUS OWN_EN [2] RO. -/
def F.secStatusOwnEn : Fld := ⟨.secStatus, 2, 1, 0⟩
/-- SEC_STATUS VINTAGE [63:32] RO. -/
def F.secStatusVintage : Fld := ⟨.secStatus, 32, 32, 0⟩
/-- SEC_STATUS OWNER_SERIAL [95:64] RO. -/
def F.secStatusOwnerSerial : Fld := ⟨.secStatus, 64, 32, 0⟩
/-- SEC_ATTEST REPORTS [31:0] RO. -/
def F.secAttestReports : Fld := ⟨.secAttest, 0, 32, 0⟩
/-- SEC_ATTEST LINK_FAIL [47:32] RO. -/
def F.secAttestLinkFail : Fld := ⟨.secAttest, 32, 16, 0⟩
/-- SEC_ATTEST SESSION_FAIL [63:48] RO. -/
def F.secAttestSessionFail : Fld := ⟨.secAttest, 48, 16, 0⟩
/-- SEC_OWN_ROOT ROOT [511:0] RW. -/
def F.secOwnRootRoot : Fld := ⟨.secOwnRoot, 0, 512, 0⟩
/-- SEC_OWN_CTL ENROL [0] WO. -/
def F.secOwnCtlEnrol : Fld := ⟨.secOwnCtl, 0, 1, 0⟩
/-- SEC_OWN_CTL KEY [15:8] WO. -/
def F.secOwnCtlKey : Fld := ⟨.secOwnCtl, 8, 8, 0⟩
/-- SEC_OWN_CTL LAST_STATUS [47:32] RO. -/
def F.secOwnCtlLastStatus : Fld := ⟨.secOwnCtl, 32, 16, 0⟩
/-- SEC_FLASH_CTL OP [2:0] WO. -/
def F.secFlashCtlOp : Fld := ⟨.secFlashCtl, 0, 3, 0⟩
/-- SEC_FLASH_CTL FROM_BUF [3] WO. -/
def F.secFlashCtlFromBuf : Fld := ⟨.secFlashCtl, 3, 1, 0⟩
/-- SEC_FLASH_CTL KEY [15:8] WO. -/
def F.secFlashCtlKey : Fld := ⟨.secFlashCtl, 8, 8, 0⟩
/-- SEC_FLASH_CTL ADDR [59:32] WO. -/
def F.secFlashCtlAddr : Fld := ⟨.secFlashCtl, 32, 28, 0⟩
/-- SEC_FLASH_CTL LEN [95:64] WO. -/
def F.secFlashCtlLen : Fld := ⟨.secFlashCtl, 64, 32, 0⟩
/-- SEC_FLASH_CTL SRC [147:96] WO. -/
def F.secFlashCtlSrc : Fld := ⟨.secFlashCtl, 96, 52, 0⟩
/-- SEC_FLASH_STAT BUSY [0] RO. -/
def F.secFlashStatBusy : Fld := ⟨.secFlashStat, 0, 1, 0⟩
/-- SEC_FLASH_STAT LAST_STATUS [31:16] RO. -/
def F.secFlashStatLastStatus : Fld := ⟨.secFlashStat, 16, 16, 0⟩
/-- SEC_FLASH_STAT VERIFY_RESULT [39:32] RO. -/
def F.secFlashStatVerifyResult : Fld := ⟨.secFlashStat, 32, 8, 0⟩
/-- SEC_FLASH_STAT DONE [95:64] RO. -/
def F.secFlashStatDone : Fld := ⟨.secFlashStat, 64, 32, 0⟩
/-- SEC_FLASH_DATA DATA [2047:0] RW. -/
def F.secFlashDataData : Fld := ⟨.secFlashData, 0, 2048, 0⟩
/-- PWR_STATUS NVW [0] RO. -/
def F.pwrStatusNvw : Fld := ⟨.pwrStatus, 0, 1, 1⟩
/-- PWR_STATUS THERMAL [1] RO. -/
def F.pwrStatusThermal : Fld := ⟨.pwrStatus, 1, 1, 0⟩
/-- PWR_STATUS CAPPING [2] RO. -/
def F.pwrStatusCapping : Fld := ⟨.pwrStatus, 2, 1, 0⟩
/-- PWR_STATUS SUPPLY [3] RO. -/
def F.pwrStatusSupply : Fld := ⟨.pwrStatus, 3, 1, 0⟩
/-- PWR_STATUS VIN_LOW [4] RO. -/
def F.pwrStatusVinLow : Fld := ⟨.pwrStatus, 4, 1, 0⟩
/-- PWR_STATUS VAUX_LOW [5] RO. -/
def F.pwrStatusVauxLow : Fld := ⟨.pwrStatus, 5, 1, 0⟩
/-- PWR_STATUS COOLANT [6] RO. -/
def F.pwrStatusCoolant : Fld := ⟨.pwrStatus, 6, 1, 0⟩
/-- PWR_STATUS TRIP_VALID [7] W1C. -/
def F.pwrStatusTripValid : Fld := ⟨.pwrStatus, 7, 1, 0⟩
/-- PWR_STATUS LAST_TRIP [10:8] RO. -/
def F.pwrStatusLastTrip : Fld := ⟨.pwrStatus, 8, 3, 0⟩
/-- PWR_STATUS TRIP_RAIL [14:11] RO. -/
def F.pwrStatusTripRail : Fld := ⟨.pwrStatus, 11, 4, 0⟩
/-- PWR_STATUS HOTTEST_C [23:16] RO. -/
def F.pwrStatusHottestC : Fld := ⟨.pwrStatus, 16, 8, 0⟩
/-- PWR_STATUS GATE [28:24] RO. -/
def F.pwrStatusGate : Fld := ⟨.pwrStatus, 24, 5, 16⟩
/-- PWR_STATUS PIN_W [47:32] RO. -/
def F.pwrStatusPinW : Fld := ⟨.pwrStatus, 32, 16, 0⟩
/-- PWR_STATUS POUT_AVG_W [63:48] RO. -/
def F.pwrStatusPoutAvgW : Fld := ⟨.pwrStatus, 48, 16, 0⟩
/-- PWR_CAP CAP_W [11:0] RW. -/
def F.pwrCapCapW : Fld := ⟨.pwrCap, 0, 12, 0⟩
/-- PWR_CAP MIN_GATE [16:12] RW. -/
def F.pwrCapMinGate : Fld := ⟨.pwrCap, 12, 5, 0⟩
/-- PWR_CAP WINDOW_MS [41:32] RW. -/
def F.pwrCapWindowMs : Fld := ⟨.pwrCap, 32, 10, 0⟩
/-- PWR_NVW_THRESH VIN_MV [15:0] RWL. -/
def F.pwrNvwThreshVinMv : Fld := ⟨.pwrNvwThresh, 0, 16, 0⟩
/-- PWR_NVW_THRESH VAUX_MV [31:16] RWL. -/
def F.pwrNvwThreshVauxMv : Fld := ⟨.pwrNvwThresh, 16, 16, 0⟩
/-- PWR_RAIL V_MV [15:0] RO. -/
def F.pwrRailVMv : Fld := ⟨.pwrRail, 0, 16, 0⟩
/-- PWR_RAIL I_DA [31:16] RO. -/
def F.pwrRailIDa : Fld := ⟨.pwrRail, 16, 16, 0⟩
/-- PWR_RAIL P_W [47:32] RO. -/
def F.pwrRailPW : Fld := ⟨.pwrRail, 32, 16, 0⟩
/-- PWR_THERM CD_C [7:0] RO. -/
def F.pwrThermCdC : Fld := ⟨.pwrTherm, 0, 8, 0⟩
/-- PWR_THERM CL_C [15:8] RO. -/
def F.pwrThermClC : Fld := ⟨.pwrTherm, 8, 8, 0⟩
/-- PWR_THERM HBMA_C [23:16] RO. -/
def F.pwrThermHbmaC : Fld := ⟨.pwrTherm, 16, 8, 0⟩
/-- PWR_THERM HBMB_C [31:24] RO. -/
def F.pwrThermHbmbC : Fld := ⟨.pwrTherm, 24, 8, 0⟩
/-- PWR_THERM THERM_GATE [36:32] RO. -/
def F.pwrThermThermGate : Fld := ⟨.pwrTherm, 32, 5, 16⟩
/-- PWR_THERM INLET_C [47:40] RO. -/
def F.pwrThermInletC : Fld := ⟨.pwrTherm, 40, 8, 0⟩
/-- PWR_THERM OUTLET_C [55:48] RO. -/
def F.pwrThermOutletC : Fld := ⟨.pwrTherm, 48, 8, 0⟩
/-- GROUP_SEL GC [15:0] RW. -/
def F.groupSelGc : Fld := ⟨.groupSel, 0, 16, 0⟩
/-- GROUP_SEL ME [31:16] RW. -/
def F.groupSelMe : Fld := ⟨.groupSel, 16, 16, 0⟩
/-- GROUP_SEL KL [47:32] RW. -/
def F.groupSelKl : Fld := ⟨.groupSel, 32, 16, 0⟩
/-- GROUP_SEL BANK [63:48] RW. -/
def F.groupSelBank : Fld := ⟨.groupSel, 48, 16, 0⟩

/-- The fields of a register, as its home chapter tables them; reserved bits are in no field (R7). -/
def Reg.fields : Reg → List FieldInfo
  | .timeTickPeriod =>
      [⟨F.timeTickPeriodPeriodNs, .rwl, true, .range 8000 16777216, 250000⟩]
  | .timePhase =>
      [⟨F.timePhaseCommitEndNs, .ro, true, .any, 0⟩,
      ⟨F.timePhaseGuardStartNs, .ro, true, .any, 0⟩]
  | .timeTickCount =>
      [⟨F.timeTickCountCount, .ro, false, .any, 0⟩]
  | .timeNow =>
      [⟨F.timeNowNowNs, .ro, false, .any, 0⟩]
  | .timeSrc =>
      [⟨F.timeSrcMode, .rwl, true, .any, 0⟩,
      ⟨F.timeSrcMaster, .rwl, true, .any, 0⟩,
      ⟨F.timeSrcParentPort, .rwl, true, .range 0 23, 0⟩,
      ⟨F.timeSrcAltPort, .rwl, true, .rangeOr 0 23 31, 0⟩,
      ⟨F.timeSrcPtpPort, .rwl, true, .any, 0⟩,
      ⟨F.timeSrcAlignState, .ro, false, .any, 0⟩,
      ⟨F.timeSrcPtpLocked, .ro, false, .any, 0⟩,
      ⟨F.timeSrcOnAlt, .ro, false, .any, 0⟩,
      ⟨F.timeSrcPtpWaitS, .rwl, true, .any, 0⟩,
      ⟨F.timeSrcOffsetNs, .ro, false, .any, 0⟩]
  | .timeOverrun =>
      [⟨F.timeOverrunCommitLate, .ro, false, .any, 0⟩,
      ⟨F.timeOverrunGuardDefer, .ro, false, .any, 0⟩]
  | .celScrub =>
      [⟨F.celScrubPeriodS, .rwl, true, .range 1 65535, 60⟩,
      ⟨F.celScrubCeLimit, .rwl, true, .any, 256⟩]
  | .celErr =>
      [⟨F.celErrCeCount, .ro, false, .any, 0⟩,
      ⟨F.celErrUeCount, .ro, false, .any, 0⟩,
      ⟨F.celErrSparesLeft, .ro, true, .any, 0⟩,
      ⟨F.celErrFenced, .ro, false, .any, 0⟩]
  | .celCmd =>
      [⟨F.celCmdCommand, .wo, false, .any, 0⟩]
  | .matchBankCfg =>
      [⟨F.matchBankCfgWidth, .ro, false, .any, 0⟩,
      ⟨F.matchBankCfgInPart, .ro, true, .any, 0⟩,
      ⟨F.matchBankCfgBusy, .ro, false, .any, 0⟩,
      ⟨F.matchBankCfgStaged, .ro, false, .any, 0⟩,
      ⟨F.matchBankCfgValidCount, .ro, false, .any, 0⟩]
  | .matchThrottle =>
      [⟨F.matchThrottleT1C, .rwl, true, .range 60 95, 95⟩,
      ⟨F.matchThrottleT2C, .rwl, true, .range 61 100, 100⟩,
      ⟨F.matchThrottleHystC, .rwl, true, .range 1 10, 3⟩,
      ⟨F.matchThrottleTier, .ro, false, .any, 0⟩,
      ⟨F.matchThrottleTierEpochs, .ro, false, .any, 0⟩]
  | .matchScrub =>
      [⟨F.matchScrubPeriodMs, .rwl, true, .range 1 65535, 100⟩,
      ⟨F.matchScrubCeLimit, .rwl, true, .any, 64⟩]
  | .matchErr =>
      [⟨F.matchErrFalseHits, .ro, false, .any, 0⟩,
      ⟨F.matchErrScrubFix, .ro, false, .any, 0⟩,
      ⟨F.matchErrUeCount, .ro, false, .any, 0⟩,
      ⟨F.matchErrSparesLeft, .ro, true, .any, 0⟩,
      ⟨F.matchErrFenced, .ro, false, .any, 0⟩]
  | .matchCmd =>
      [⟨F.matchCmdCommand, .wo, false, .any, 0⟩]
  | .meCfg =>
      [⟨F.meCfgSat, .rw, false, .any, 0⟩,
      ⟨F.meCfgSrEn, .rw, false, .any, 0⟩]
  | .meSrSeed =>
      [⟨F.meSrSeedSeed, .rw, false, .any, 0⟩]
  | .meStatus =>
      [⟨F.meStatusIdle, .ro, false, .any, 0⟩,
      ⟨F.meStatusAcc0, .ro, false, .any, 0⟩,
      ⟨F.meStatusAcc1, .ro, false, .any, 0⟩,
      ⟨F.meStatusRingCur, .ro, false, .any, 0⟩,
      ⟨F.meStatusRingSteps, .ro, false, .any, 0⟩]
  | .meRing =>
      [⟨F.meRingNextMe, .ro, false, .any, 0⟩,
      ⟨F.meRingNextDie, .ro, false, .any, 0⟩,
      ⟨F.meRingPrevMe, .ro, false, .any, 0⟩,
      ⟨F.meRingPrevDie, .ro, false, .any, 0⟩,
      ⟨F.meRingEn, .ro, false, .any, 0⟩]
  | .meRingBuf =>
      [⟨F.meRingBufBuf0, .ro, false, .any, 0⟩,
      ⟨F.meRingBufBuf1, .ro, false, .any, 0⟩,
      ⟨F.meRingBufLen16, .ro, false, .any, 0⟩]
  | .meErr =>
      [⟨F.meErrSatCount, .ro, false, .any, 0⟩,
      ⟨F.meErrLmCe, .ro, false, .any, 0⟩,
      ⟨F.meErrLmUe, .ro, false, .any, 0⟩,
      ⟨F.meErrCbUe, .ro, false, .any, 0⟩]
  | .meHist =>
      [⟨F.meHistLate, .ro, false, .any, 0⟩,
      ⟨F.meHistIncomplete, .ro, false, .any, 0⟩]
  | .gcStatus =>
      [⟨F.gcStatusIdle, .ro, false, .any, 0⟩,
      ⟨F.gcStatusHalted, .ro, false, .any, 0⟩,
      ⟨F.gcStatusTapOut, .ro, false, .any, 0⟩,
      ⟨F.gcStatusIcMiss, .ro, false, .any, 0⟩]
  | .gcTrap =>
      [⟨F.gcTrapCause, .ro, false, .any, 0⟩,
      ⟨F.gcTrapUe, .ro, false, .any, 0⟩,
      ⟨F.gcTrapValid, .w1c, false, .any, 0⟩,
      ⟨F.gcTrapTickLo, .ro, false, .any, 0⟩]
  | .gcTrapPc =>
      [⟨F.gcTrapPcPc, .ro, false, .any, 0⟩]
  | .gcTrapVal =>
      [⟨F.gcTrapValVal, .ro, false, .any, 0⟩]
  | .gcErr =>
      [⟨F.gcErrSatCount, .ro, false, .any, 0⟩,
      ⟨F.gcErrLmCe, .ro, false, .any, 0⟩,
      ⟨F.gcErrLmUe, .ro, false, .any, 0⟩]
  | .gcWrap =>
      [⟨F.gcWrapWrapCount, .ro, false, .any, 0⟩]
  | .strmCtxPos =>
      [⟨F.strmCtxPosPc, .ro, false, .any, 0⟩, ⟨F.strmCtxPosState, .ro, false, .any, 0⟩, ⟨F.strmCtxPosStatus, .ro, false, .any, 0⟩] ++
      (List.range 6).map (fun k => ⟨F.strmCtxPosL k, .ro, false, .any, 0⟩) ++
      (List.range 6).map (fun k => ⟨F.strmCtxPosN k, .ro, false, .any, 0⟩) ++
      [⟨F.strmCtxPosDelivered, .ro, false, .any, 0⟩] ++
      (List.range 8).map (fun k => ⟨F.strmCtxPosA k, .ro, false, .any, 0⟩) ++
      [⟨F.strmCtxPosFaultAddr, .ro, false, .any, 0⟩]
  | .strmBar =>
      [⟨F.strmBarCount, .ro, true, .any, 0⟩,
      ⟨F.strmBarArrived, .ro, false, .any, 0⟩,
      ⟨F.strmBarGen, .ro, false, .any, 0⟩,
      ⟨F.strmBarDup, .ro, false, .any, 0⟩]
  | .strmStat =>
      [⟨F.strmStatLate, .ro, false, .any, 0⟩,
      ⟨F.strmStatRacks, .ro, false, .any, 0⟩,
      ⟨F.strmStatCtxUsed, .ro, false, .any, 0⟩]
  | .strmPt =>
      [⟨F.strmPtBase, .rwl, true, .multiple 0x200000, 0⟩]
  | .strmCmd =>
      [⟨F.strmCmdRequest, .wo, false, .any, 0⟩]
  | .dispPlanState =>
      (List.range 16).map (fun k => ⟨F.dispPlanStateState k, .ro, true, .any, 0⟩) ++
      (List.range 16).map (fun k => ⟨F.dispPlanStatePending k, .ro, false, .any, 0⟩)
  | .dispObsMode =>
      [⟨F.dispObsModeMode, .rw, true, .any, 0⟩,
      ⟨F.dispObsModeTraceMib, .rw, true, .range 1 4095, 0⟩,
      ⟨F.dispObsModeTraceBase, .rw, true, .any, 0⟩]
  | .dispTraceHead =>
      [⟨F.dispTraceHeadWritten, .ro, false, .any, 0⟩]
  | .dispLevelDepth =>
      (List.range 16).map (fun k => ⟨F.dispLevelDepthDepth k, .ro, false, .any, 0⟩)
  | .dispStat =>
      [⟨F.dispStatDelayUsed, .ro, false, .any, 0⟩,
      ⟨F.dispStatLastStatus, .ro, false, .any, 0⟩,
      ⟨F.dispStatRejects, .ro, false, .any, 0⟩,
      ⟨F.dispStatPurged, .ro, false, .any, 0⟩,
      ⟨F.dispStatOverBudget, .ro, false, .any, 0⟩,
      ⟨F.dispStatTraceDrop, .ro, false, .any, 0⟩]
  | .dispUnitLoad =>
      [⟨F.dispUnitLoadBusyNs, .ro, false, .any, 0⟩,
      ⟨F.dispUnitLoadStarted, .ro, false, .any, 0⟩]
  | .dispUnitWait =>
      (List.range 8).map (fun k => ⟨F.dispUnitWaitBin k, .ro, false, .any, 0⟩)
  | .dispSubmit =>
      [⟨F.dispSubmitDescriptor, .wo, false, .any, 0⟩]
  | .fabEmbCfg =>
      [⟨F.fabEmbCfgOvrDie, .rwl, true, .any, 0⟩,
      ⟨F.fabEmbCfgOvrFirst, .rwl, true, .any, 0⟩,
      ⟨F.fabEmbCfgOvrCount, .rwl, true, .range 0 128, 0⟩]
  | .fabEmbStat =>
      [⟨F.fabEmbStatAbsent, .ro, false, .any, 0⟩,
      ⟨F.fabEmbStatUpdDrop, .ro, false, .any, 0⟩,
      ⟨F.fabEmbStatWrapped, .ro, false, .any, 0⟩,
      ⟨F.fabEmbStatMigAbandon, .ro, false, .any, 0⟩,
      ⟨F.fabEmbStatOvrLate, .ro, false, .any, 0⟩,
      ⟨F.fabEmbStatMissing, .ro, false, .any, 0⟩]
  | .fabEmbLoad =>
      [⟨F.fabEmbLoadTableId, .ro, false, .any, 0⟩,
      ⟨F.fabEmbLoadLookupRows, .ro, false, .any, 0⟩,
      ⟨F.fabEmbLoadUpdateRows, .ro, false, .any, 0⟩,
      ⟨F.fabEmbLoadBusyNs, .ro, false, .any, 0⟩,
      ⟨F.fabEmbLoadForwarded, .ro, false, .any, 0⟩]
  | .decRatioLimit =>
      [⟨F.decRatioLimitLimit, .rw, true, .range 1 4096, 256⟩]
  | .decStat =>
      [⟨F.decStatJobsOk, .ro, false, .any, 0⟩,
      ⟨F.decStatJobsFail, .ro, false, .any, 0⟩,
      ⟨F.decStatRatio, .ro, false, .any, 0⟩,
      ⟨F.decStatLanes, .ro, false, .any, 0⟩]
  | .prsStat =>
      [⟨F.prsStatJobsOk, .ro, false, .any, 0⟩,
      ⟨F.prsStatNoGain, .ro, false, .any, 0⟩,
      ⟨F.prsStatJobsFail, .ro, false, .any, 0⟩,
      ⟨F.prsStatLanes, .ro, false, .any, 0⟩]
  | .decCmd =>
      [⟨F.decCmdJob, .wo, false, .any, 0⟩]
  | .prsCmd =>
      [⟨F.prsCmdJob, .wo, false, .any, 0⟩]
  | .fldCfg =>
      [⟨F.fldCfgEthertype, .rwl, true, .any, 34998⟩,
      ⟨F.fldCfgStreamTab, .rwl, true, .any, 0⟩]
  | .alnCfg =>
      [⟨F.alnCfgGroupTab, .rwl, true, .any, 0⟩]
  | .fldPort =>
      [⟨F.fldPortEnable, .rwl, true, .any, 0⟩,
      ⟨F.fldPortPtpEn, .rwl, true, .any, 0⟩,
      ⟨F.fldPortStatusMs, .rwl, true, .any, 0⟩,
      ⟨F.fldPortMac, .rwl, true, .any, 0⟩]
  | .fldStat =>
      [⟨F.fldStatRecords, .ro, false, .any, 0⟩,
      ⟨F.fldStatDropOther, .ro, false, .any, 0⟩,
      ⟨F.fldStatMalformed, .ro, false, .any, 0⟩,
      ⟨F.fldStatSeqDrop, .ro, false, .any, 0⟩,
      ⟨F.fldStatSeqGap, .ro, false, .any, 0⟩,
      ⟨F.fldStatRingFull, .ro, false, .any, 0⟩,
      ⟨F.fldStatFrameDrop, .ro, false, .any, 0⟩,
      ⟨F.fldStatLinkUp, .ro, false, .any, 0⟩]
  | .fldPtp =>
      [⟨F.fldPtpState, .ro, false, .any, 0⟩,
      ⟨F.fldPtpLocked, .ro, false, .any, 0⟩,
      ⟨F.fldPtpDomain, .rwl, true, .any, 0⟩,
      ⟨F.fldPtpDrop, .ro, false, .any, 0⟩,
      ⟨F.fldPtpOffsetNs, .ro, false, .any, 0⟩]
  | .alnStat =>
      [⟨F.alnStatMoments, .ro, false, .any, 0⟩,
      ⟨F.alnStatAbsent, .ro, false, .any, 0⟩,
      ⟨F.alnStatStale, .ro, false, .any, 0⟩]
  | .frmStat =>
      [⟨F.frmStatJobsOk, .ro, false, .any, 0⟩,
      ⟨F.frmStatJobsFail, .ro, false, .any, 0⟩,
      ⟨F.frmStatQueued, .ro, false, .any, 0⟩]
  | .bqLowWater =>
      [⟨F.bqLowWaterLowWater, .rw, true, .any, 0⟩]
  | .bqState =>
      [⟨F.bqStateFill, .ro, false, .any, 0⟩,
      ⟨F.bqStateClosed, .ro, false, .any, 0⟩,
      ⟨F.bqStateLow, .ro, false, .any, 0⟩,
      ⟨F.bqStateSeqLo, .ro, false, .any, 0⟩]
  | .bqShare =>
      [⟨F.bqShareShare, .ro, false, .any, 0⟩,
      ⟨F.bqShareTickLo, .ro, false, .any, 0⟩]
  | .bqStat =>
      [⟨F.bqStatRejects, .ro, false, .any, 0⟩,
      ⟨F.bqStatDropped, .ro, false, .any, 0⟩,
      ⟨F.bqStatRedeliver, .ro, false, .any, 0⟩,
      ⟨F.bqStatRejLost, .ro, false, .any, 0⟩,
      ⟨F.bqStatHostRows, .ro, false, .any, 0⟩,
      ⟨F.bqStatBatches, .ro, false, .any, 0⟩]
  | .klPortCfg =>
      [⟨F.klPortCfgEn, .rwl, true, .any, 0⟩,
      ⟨F.klPortCfgRole, .rwl, true, .range 0 2, 0⟩,
      ⟨F.klPortCfgMac, .rwl, true, .any, 0⟩]
  | .klPortStatus =>
      [⟨F.klPortStatusState, .ro, false, .any, 0⟩,
      ⟨F.klPortStatusTxLanes, .ro, false, .any, 0⟩,
      ⟨F.klPortStatusRxLanes, .ro, false, .any, 0⟩,
      ⟨F.klPortStatusPeerDev, .ro, false, .any, 0⟩,
      ⟨F.klPortStatusRetrains, .ro, false, .any, 0⟩]
  | .klStat =>
      [⟨F.klStatReplays, .ro, false, .any, 0⟩,
      ⟨F.klStatFcsErr, .ro, false, .any, 0⟩,
      ⟨F.klStatMalformed, .ro, false, .any, 0⟩,
      ⟨F.klStatDropOther, .ro, false, .any, 0⟩,
      ⟨F.klStatLostDown, .ro, false, .any, 0⟩]
  | .fabCfg =>
      [⟨F.fabCfgEthertype, .rwl, true, .any, 34997⟩,
      ⟨F.fabCfgHops, .rwl, true, .range 1 15, 8⟩,
      ⟨F.fabCfgSerLimit, .rwl, true, .range 1 65535, 4096⟩]
  | .fabRoute =>
      [⟨F.fabRoutePorts, .rwl, true, .any, 0⟩]
  | .fabBridge =>
      [⟨F.fabBridgeDevice, .rwl, true, .any, 0⟩,
      ⟨F.fabBridgeValid, .rwl, true, .any, 0⟩]
  | .fabHost =>
      [⟨F.fabHostPort, .rwl, true, .range 0 23, 0⟩,
      ⟨F.fabHostEn, .rwl, true, .any, 0⟩,
      ⟨F.fabHostIdleS, .rwl, true, .range 1 65535, 60⟩]
  | .fabHostWin =>
      [⟨F.fabHostWinBase, .rwl, true, .multiple 0x200000, 0⟩,
      ⟨F.fabHostWinLen, .rwl, true, .multiple 0x200000, 0⟩]
  | .fabSession =>
      [⟨F.fabSessionState, .ro, false, .any, 0⟩,
      ⟨F.fabSessionPending, .ro, false, .any, 0⟩,
      ⟨F.fabSessionMac, .ro, false, .any, 0⟩,
      ⟨F.fabSessionOpenedTick, .ro, false, .any, 0⟩]
  | .fabStat =>
      [⟨F.fabStatNoRoute, .ro, false, .any, 0⟩,
      ⟨F.fabStatHopDrop, .ro, false, .any, 0⟩,
      ⟨F.fabStatAuthDrop, .ro, false, .any, 0⟩]
  | .twnCfg =>
      [⟨F.twnCfgPartner, .rwl, true, .any, 0⟩,
      ⟨F.twnCfgEn, .rwl, true, .any, 0⟩,
      ⟨F.twnCfgLagMax, .rwl, true, .range 2 15, 4⟩,
      ⟨F.twnCfgWaitS, .rwl, true, .any, 5⟩]
  | .twnBuf =>
      [⟨F.twnBufBase, .rwl, true, .multiple 0x200000, 0⟩,
      ⟨F.twnBufMib, .rwl, true, .range 64 65535, 0⟩]
  | .twnState =>
      [⟨F.twnStatePair, .ro, false, .any, 0⟩,
      ⟨F.twnStateRole, .ro, false, .any, 0⟩,
      ⟨F.twnStateFailedOver, .ro, false, .any, 0⟩,
      ⟨F.twnStateMissed, .ro, false, .any, 0⟩,
      ⟨F.twnStatePortsUp, .ro, false, .any, 0⟩,
      ⟨F.twnStateLastSent, .ro, false, .any, 0⟩,
      ⟨F.twnStateLastAcked, .ro, false, .any, 0⟩,
      ⟨F.twnStateLastApplied, .ro, false, .any, 0⟩]
  | .twnCtl =>
      [⟨F.twnCtlHandover, .w1s, false, .any, 0⟩]
  | .twnStat =>
      [⟨F.twnStatDeltas, .ro, false, .any, 0⟩,
      ⟨F.twnStatResends, .ro, false, .any, 0⟩,
      ⟨F.twnStatFailovers, .ro, false, .any, 0⟩,
      ⟨F.twnStatConflicts, .ro, false, .any, 0⟩,
      ⟨F.twnStatLastBytes, .ro, false, .any, 0⟩]
  | .sprMap =>
      [⟨F.sprMapGcSpares, .ro, true, .any, 0⟩,
      ⟨F.sprMapMeSpares, .ro, true, .any, 0⟩,
      ⟨F.sprMapBankSpares, .ro, true, .any, 0⟩,
      ⟨F.sprMapMatchSpares, .ro, true, .any, 0⟩,
      ⟨F.sprMapMcSpare, .ro, true, .any, 0⟩,
      ⟨F.sprMapDegraded, .ro, false, .any, 0⟩,
      ⟨F.sprMapFenced, .ro, false, .any, 0⟩]
  | .sprFence =>
      [⟨F.sprFenceKind, .wo, false, .range 0 7, 0⟩,
      ⟨F.sprFenceDie, .wo, false, .any, 0⟩,
      ⟨F.sprFenceLogical, .wo, false, .any, 0⟩]
  | .sprLog =>
      [⟨F.sprLogRecords, .ro, true, .any, 0⟩,
      ⟨F.sprLogFull, .ro, true, .any, 0⟩,
      ⟨F.sprLogPending, .ro, false, .any, 0⟩,
      ⟨F.sprLogBad, .ro, false, .any, 0⟩,
      ⟨F.sprLogLastStatus, .ro, false, .any, 0⟩]
  | .errCfg =>
      [⟨F.errCfgHangUs, .rwl, true, .range 10 65535, 1000⟩,
      ⟨F.errCfgLmCeLimit, .rwl, true, .any, 64⟩,
      ⟨F.errCfgPageCeLimit, .rwl, true, .range 1 255, 16⟩,
      ⟨F.errCfgHbmScrubS, .rwl, true, .range 1 65535, 3600⟩,
      ⟨F.errCfgPprEn, .rwl, true, .any, 1⟩,
      ⟨F.errCfgCatchup, .rwl, true, .range 1 127, 32⟩]
  | .errMem =>
      [⟨F.errMemCe, .ro, false, .any, 0⟩,
      ⟨F.errMemUe, .ro, false, .any, 0⟩,
      ⟨F.errMemRetired, .ro, false, .any, 0⟩]
  | .errPage =>
      [⟨F.errPageHbmReserve, .ro, true, .any, 0⟩,
      ⟨F.errPageLpxReserve, .ro, true, .any, 0⟩,
      ⟨F.errPageRepaired, .ro, true, .any, 0⟩]
  | .errSum =>
      [⟨F.errSumCe, .ro, false, .any, 0⟩,
      ⟨F.errSumUe, .ro, false, .any, 0⟩,
      ⟨F.errSumIcache, .ro, false, .any, 0⟩,
      ⟨F.errSumSat, .ro, false, .any, 0⟩,
      ⟨F.errSumWrap, .ro, false, .any, 0⟩]
  | .rstCause =>
      [⟨F.rstCauseCause, .ro, false, .any, 0⟩,
      ⟨F.rstCauseInStart, .ro, false, .any, 0⟩]
  | .rstState =>
      [⟨F.rstStateState, .ro, false, .any, 0⟩,
      ⟨F.rstStateStep, .ro, false, .any, 0⟩,
      ⟨F.rstStateLocked, .ro, false, .any, 0⟩,
      ⟨F.rstStateSharedLeft, .ro, false, .any, 0⟩]
  | .rstCtl =>
      [⟨F.rstCtlReq, .wo, false, .range 0 4, 0⟩,
      ⟨F.rstCtlSwKey, .wo, false, .any, 0⟩,
      ⟨F.rstCtlSwReset, .wo, false, .any, 0⟩,
      ⟨F.rstCtlLastStatus, .ro, false, .any, 0⟩]
  | .rstShared =>
      [⟨F.rstSharedStartEpochs, .rwl, true, .any, 0⟩,
      ⟨F.rstSharedRecoverEpochs, .rwl, true, .any, 0⟩]
  | .rstWdog =>
      [⟨F.rstWdogTimeoutMs, .rwl, true, .range 10 65535, 0⟩,
      ⟨F.rstWdogKick, .wo, false, .any, 0⟩]
  | .rstUnitReq =>
      [⟨F.rstUnitReqKind, .wo, false, .any, 0⟩,
      ⟨F.rstUnitReqDie, .wo, false, .any, 0⟩,
      ⟨F.rstUnitReqLogical, .wo, false, .any, 0⟩,
      ⟨F.rstUnitReqGo, .wo, false, .any, 0⟩]
  | .rstUnitStat =>
      [⟨F.rstUnitStatLastStatus, .ro, false, .any, 0⟩,
      ⟨F.rstUnitStatRejects, .ro, false, .any, 0⟩,
      ⟨F.rstUnitStatDone, .ro, false, .any, 0⟩]
  | .bootStatus =>
      [⟨F.bootStatusStep, .ro, false, .any, 0⟩,
      ⟨F.bootStatusResult, .ro, false, .any, 0⟩,
      ⟨F.bootStatusStatus, .ro, false, .any, 0⟩,
      ⟨F.bootStatusRecord, .ro, false, .any, 0⟩]
  | .bootIdentity =>
      [⟨F.bootIdentityDevice, .rwl, true, .any, 0⟩,
      ⟨F.bootIdentityPair, .rwl, true, .any, 0⟩,
      ⟨F.bootIdentityGroup, .rwl, true, .any, 0⟩]
  | .evtGlobal =>
      [⟨F.evtGlobalDeliver, .rw, true, .any, 0⟩,
      ⟨F.evtGlobalBadEoi, .ro, false, .any, 0⟩,
      ⟨F.evtGlobalSeq, .ro, false, .any, 0⟩]
  | .evtPri =>
      [⟨F.evtPriPriority, .rw, true, .any, 0⟩,
      ⟨F.evtPriEnable, .rw, true, .any, 0⟩,
      ⟨F.evtPriTargets, .rw, true, .any, 0⟩,
      ⟨F.evtPriLevel, .ro, false, .any, 0⟩,
      ⟨F.evtPriState, .ro, false, .any, 0⟩,
      ⟨F.evtPriCount, .ro, false, .any, 0⟩,
      ⟨F.evtPriRr, .ro, false, .any, 0⟩]
  | .evtRec =>
      [⟨F.evtRecRecord, .ro, false, .any, 0⟩]
  | .evtSplit =>
      [⟨F.evtSplitSplit, .rw, true, .range 0 6, 0⟩]
  | .evtPend =>
      [⟨F.evtPendPend, .w1c, false, .any, 0⟩]
  | .evtHoldoff =>
      (List.range 4).map (fun k => ⟨F.evtHoldoffUs k, .rw, true, .any, 0⟩)
  | .evtEoi =>
      [⟨F.evtEoiSource, .wo, false, .any, 0⟩]
  | .evtCore =>
      [⟨F.evtCoreSource, .ro, false, .any, 0⟩,
      ⟨F.evtCoreActive, .ro, false, .any, 0⟩,
      ⟨F.evtCoreRunGroup, .ro, false, .any, 0⟩,
      ⟨F.evtCoreDepth, .ro, false, .any, 0⟩]
  | .evtSub =>
      [⟨F.evtSubBridge, .ro, false, .any, 0⟩,
      ⟨F.evtSubSession, .ro, false, .any, 0⟩,
      ⟨F.evtSubValid, .rw, false, .any, 0⟩,
      ⟨F.evtSubGroups, .rw, false, .any, 0⟩,
      ⟨F.evtSubSubTick, .ro, false, .any, 0⟩]
  | .evtWakeMask =>
      (List.range 32).map (fun k => ⟨F.evtWakeMaskSource k, .rw, true, .any, 0⟩) ++
      (List.range 32).map (fun k => ⟨F.evtWakeMaskEn k, .rw, true, .any, 0⟩)
  | .secStatus =>
      [⟨F.secStatusIdOk, .ro, false, .any, 0⟩,
      ⟨F.secStatusOwned, .ro, false, .any, 0⟩,
      ⟨F.secStatusOwnEn, .ro, false, .any, 0⟩,
      ⟨F.secStatusVintage, .ro, false, .any, 0⟩,
      ⟨F.secStatusOwnerSerial, .ro, false, .any, 0⟩]
  | .secAttest =>
      [⟨F.secAttestReports, .ro, false, .any, 0⟩,
      ⟨F.secAttestLinkFail, .ro, false, .any, 0⟩,
      ⟨F.secAttestSessionFail, .ro, false, .any, 0⟩]
  | .secOwnRoot =>
      [⟨F.secOwnRootRoot, .rw, false, .any, 0⟩]
  | .secOwnCtl =>
      [⟨F.secOwnCtlEnrol, .wo, false, .any, 0⟩,
      ⟨F.secOwnCtlKey, .wo, false, .any, 0⟩,
      ⟨F.secOwnCtlLastStatus, .ro, false, .any, 0⟩]
  | .secFlashCtl =>
      [⟨F.secFlashCtlOp, .wo, false, .any, 0⟩,
      ⟨F.secFlashCtlFromBuf, .wo, false, .any, 0⟩,
      ⟨F.secFlashCtlKey, .wo, false, .any, 0⟩,
      ⟨F.secFlashCtlAddr, .wo, false, .any, 0⟩,
      ⟨F.secFlashCtlLen, .wo, false, .any, 0⟩,
      ⟨F.secFlashCtlSrc, .wo, false, .any, 0⟩]
  | .secFlashStat =>
      [⟨F.secFlashStatBusy, .ro, false, .any, 0⟩,
      ⟨F.secFlashStatLastStatus, .ro, false, .any, 0⟩,
      ⟨F.secFlashStatVerifyResult, .ro, false, .any, 0⟩,
      ⟨F.secFlashStatDone, .ro, false, .any, 0⟩]
  | .secFlashData =>
      [⟨F.secFlashDataData, .rw, false, .any, 0⟩]
  | .pwrStatus =>
      [⟨F.pwrStatusNvw, .ro, false, .any, 0⟩,
      ⟨F.pwrStatusThermal, .ro, false, .any, 0⟩,
      ⟨F.pwrStatusCapping, .ro, false, .any, 0⟩,
      ⟨F.pwrStatusSupply, .ro, false, .any, 0⟩,
      ⟨F.pwrStatusVinLow, .ro, false, .any, 0⟩,
      ⟨F.pwrStatusVauxLow, .ro, false, .any, 0⟩,
      ⟨F.pwrStatusCoolant, .ro, false, .any, 0⟩,
      ⟨F.pwrStatusTripValid, .w1c, false, .any, 0⟩,
      ⟨F.pwrStatusLastTrip, .ro, false, .any, 0⟩,
      ⟨F.pwrStatusTripRail, .ro, false, .any, 0⟩,
      ⟨F.pwrStatusHottestC, .ro, false, .any, 0⟩,
      ⟨F.pwrStatusGate, .ro, false, .any, 0⟩,
      ⟨F.pwrStatusPinW, .ro, false, .any, 0⟩,
      ⟨F.pwrStatusPoutAvgW, .ro, false, .any, 0⟩]
  | .pwrCap =>
      [⟨F.pwrCapCapW, .rw, true, .range 1000 2600, 2600⟩,
      ⟨F.pwrCapMinGate, .rw, true, .range 2 16, 4⟩,
      ⟨F.pwrCapWindowMs, .rw, true, .range 1 1000, 10⟩]
  | .pwrNvwThresh =>
      [⟨F.pwrNvwThreshVinMv, .rwl, true, .range 42000 48000, 42000⟩,
      ⟨F.pwrNvwThreshVauxMv, .rwl, true, .range 1710 1760, 1710⟩]
  | .pwrRail =>
      [⟨F.pwrRailVMv, .ro, false, .any, 0⟩,
      ⟨F.pwrRailIDa, .ro, false, .any, 0⟩,
      ⟨F.pwrRailPW, .ro, false, .any, 0⟩]
  | .pwrTherm =>
      [⟨F.pwrThermCdC, .ro, false, .any, 0⟩,
      ⟨F.pwrThermClC, .ro, false, .any, 0⟩,
      ⟨F.pwrThermHbmaC, .ro, false, .any, 0⟩,
      ⟨F.pwrThermHbmbC, .ro, false, .any, 0⟩,
      ⟨F.pwrThermThermGate, .ro, false, .any, 0⟩,
      ⟨F.pwrThermInletC, .ro, false, .any, 0⟩,
      ⟨F.pwrThermOutletC, .ro, false, .any, 0⟩]
  | .groupSel =>
      [⟨F.groupSelGc, .rw, false, .any, 0⟩,
      ⟨F.groupSelMe, .rw, false, .any, 0⟩,
      ⟨F.groupSelKl, .rw, false, .any, 0⟩,
      ⟨F.groupSelBank, .rw, false, .any, 0⟩]

/-- Base of the die block of die d (R652). -/
def dieBlock (d : Nat) : Nat := 0x30000000000 + d * 0x10000000

/-- Base of the device region, in the die 0 block (R666). -/
def devRegion : Nat := 0x30001000000

/-- Device address of instance i of register r on die d. Unit registers take i as the logical number;
DISP_UNIT_LOAD and DISP_UNIT_WAIT take general cores as 0 to 95 and matrix engines as 96 to 119; a Kupel
port's i is its port number p, whatever d (R22, R652). -/
def Reg.addr (r : Reg) (d i : Nat) : Nat :=
  let x := r.info
  match x.place with
  | .die  => dieBlock d + x.off
  | .ctx  => dieBlock d + 0x10000 + i * 0x80
  | .gc   => dieBlock d + 0x2000000 + i * 0x1000 + x.off
  | .me   => dieBlock d + 0x2100000 + i * 0x4000 + x.off
  | .unit => if i < 96 then dieBlock d + 0x2000000 + i * 0x1000 + x.off
             else dieBlock d + 0x2100000 + (i - 96) * 0x4000 + x.off
  | .kl   => dieBlock (i / 6) + 0x2200000 + (i % 6) * 0x4000 + x.off
  | .bank => dieBlock d + 0x2300000 + (i / 8) * 0x10000 + 8 * (i % 8) + x.off
  | .dev  => devRegion + x.off + i * x.stride

/-- One register instance. -/
structure RegInst where
  reg : Reg
  die : Nat
  idx : Nat
  deriving DecidableEq, Repr

/-- The key under which a field of a register instance is stored: its bit address in the device map. -/
def Fld.key (f : Fld) (d i : Nat) : Nat := f.reg.addr d i * 8 + f.lo

/-- The register of the given places whose bytes hold offset o, with its word number. -/
def Reg.at? (ps : List Place) (d i o : Nat) : Option (RegInst × Nat) :=
  (Reg.all.find? (fun r => ps.contains r.info.place && decide (r.info.off ≤ o) &&
    decide (o < r.info.off + r.info.bytes))).map (fun r => (⟨r, d, i⟩, (o - r.info.off) / 8))

/-- The register of the device region that holds offset o (R666). -/
def Reg.devAt? (o : Nat) : Option (RegInst × Nat) :=
  let hit := Reg.all.find? (fun r => decide (r.info.place = .dev) && decide (r.info.off ≤ o) &&
    (if r.info.stride = 0 then decide (o < r.info.off + r.info.bytes)
     else decide ((o - r.info.off) / r.info.stride < r.info.count) &&
          decide ((o - r.info.off) % r.info.stride < r.info.bytes)))
  hit.map (fun r => if r.info.stride = 0 then (⟨r, 0, 0⟩, (o - r.info.off) / 8)
    else (⟨r, 0, (o - r.info.off) / r.info.stride⟩, ((o - r.info.off) % r.info.stride) / 8))

/-- The register instance and the word that an 8 B address of a die block names; none where this chapter
assigns the address to no register (R652, R654). -/
def regInDie (d o : Nat) : Option (RegInst × Nat) :=
  if o < 0x10000 then Reg.at? [.die] d 0 o
  else if o < 0x18000 then some (⟨.strmCtxPos, d, (o - 0x10000) / 0x80⟩, ((o - 0x10000) % 0x80) / 8)
  else if o < 0x1000000 then none
  else if o < 0x2000000 then (if d = 0 then Reg.devAt? (o - 0x1000000) else none)
  else if o < 0x2060000 then
    (Reg.at? [.gc, .unit] d ((o - 0x2000000) / 0x1000) ((o - 0x2000000) % 0x1000))
  else if o < 0x2100000 then none
  else if o < 0x2160000 then
    (Reg.at? [.me, .unit] d ((o - 0x2100000) / 0x4000) ((o - 0x2100000) % 0x4000)).map
      (fun x => if x.1.reg.info.place = .unit then (⟨x.1.reg, d, x.1.idx + 96⟩, x.2) else x)
  else if o < 0x2200000 then none
  else if o < 0x2218000 then
    Reg.at? [.kl] d (6 * d + (o - 0x2200000) / 0x4000) ((o - 0x2200000) % 0x4000)
  else if o < 0x2300000 then none
  else if o < 0x2400000 then
    let k := (o - 0x2300000) / 0x10000
    let j := (o - 0x2300000) % 0x10000
    if j < 64 then some (⟨.matchBankCfg, d, 8 * k + j / 8⟩, 0) else none
  else none

/-- The register instance and word of an address of register space outside the aliases (R652, R654). -/
def regAt? (a : Nat) : Option (RegInst × Nat) :=
  if 0x30000000000 ≤ a ∧ a < 0x30040000000 then
    regInDie ((a - 0x30000000000) / 0x10000000) ((a - 0x30000000000) % 0x10000000)
  else none

end Sys2Proof.Machine
end

