-- ==== Sys2Proof/Machine/Types.lean ====
section
/-! DEFINITION. The typed state of the block's units: what a chapter gives a unit and no register holds. Sparse
maps (`List (Nat × α)`) are canonical: an unlisted key holds the unit's reset value. -/

namespace Sys2Proof.Machine

/-! ## Memory, pages and descriptors (chapters 04, 09, 25) -/

/-- A page-table entry (R269). -/
structure Page where
  valid : Bool
  lpx : Bool
  racking : Bool
  frame : Nat
  part : Nat
  deriving DecidableEq, Repr

/-- One change of memory by a command under way: a byte stored, a range cleared, a range copied. -/
inductive MemOp where
  | store (a : Nat) (b : Byte)
  | clear (lo len : Nat)
  | copy (src dst len : Nat)
  deriving DecidableEq, Repr

/-- The state of a descriptor slot (R101). -/
inductive SlotState where
  | empty | valid | releasing
  deriving DecidableEq, Repr

/-- A descriptor slot and the validated copy it holds (R98, R99). -/
structure Slot where
  st : SlotState
  desc : Rec
  deriving DecidableEq, Repr

/-- A KFP message: its header and its payload bytes (R503). -/
structure Msg where
  h : KHdr
  payload : List Byte
  deriving DecidableEq, Repr

/-- A range of device addresses: first byte and length. -/
structure Range where
  lo : Nat
  len : Nat
  deriving DecidableEq, Repr

/-- The memory partition of a plan number: granted ranges and, for each die, match banks (R672).
(Log entry 29, DESIGN CHOICE.) -/
structure Partition where
  ranges : List Range
  banks : List (Nat × Nat)
  deriving DecidableEq, Repr

/-! ## Time (chapter 02) -/

/-- What the time base keeps beside its registers; `sealed` says that the boot lock has closed on the TIME fields since
the last full reset (R576); `commitOpen` that the commit work of the epoch has not ended (R33); `tickOut` the instant at
which the last pulse of TICK_OUT began (R47). (Log entries 111, DESIGN CHOICE; 112, DEDUCED; 113, DEDUCED.) -/
structure TimeSt where
  lastTick : Nat
  ticked : Bool
  good : Nat
  silent : Nat
  heard : Bool
  t1 : Nat
  t2 : Nat
  t3 : Option Nat
  firstExchange : Bool
  sync : Option (Nat × Nat)
  listening : Bool
  masterTook : Bool
  ptpWaiting : Bool
  slew : Int
  diverging : Bool
  commitBusy : List Nat
  commitOpen : Bool
  sealed : Bool
  tickOut : Option Nat
  deriving DecidableEq, Repr

/-! ## Cellar (chapter 05) -/

/-- The slots of the handles that an operation names, as they were when it was issued: it runs to completion with the
descriptors that it started with (R102). -/
abbrev Held := List (Nat × Slot)

/-- A cellar or match command that waits for the copy of a bank to end (R157, R183): as it was issued. `mute`: its core has
been fenced, and what answers it is discarded (R548). (Log entry 164, DESIGN CHOICE.) -/
structure CmdWait where
  iss : Issuer
  r : Rec
  plan : Nat
  held : Held
  mute : Bool := false
  deriving DecidableEq, Repr

/-- A command that its unit has accepted and not yet completed (R130, R172): for a match command also the banks it
is in flight on and the last 16 bytes of its record. -/
structure Flight where
  die : Nat
  iss : Issuer
  plan : Nat
  tag : Nat
  comp : Nat
  status : Nat
  done : Nat
  result : Nat
  poison : Nat
  extra : List Byte := []
  tdie : Nat := 0
  first : Nat := 0
  banks : Nat := 0
  deriving DecidableEq, Repr

/-- A logical data or match bank: out of service without a spare, being copied to a spare for a cause of R546,
rows at which errors were uncorrectable, and errors corrected in the pass (R157, R159, R183). -/
structure Bank where
  lost : Bool
  copying : Nat
  ueRows : List Nat
  ce : Nat
  deriving DecidableEq, Repr

/-! ## Match banks (chapter 06) -/

/-- An array row and its companion: key, care, valid bit, priority, result, the verify copy with the mark that it is
uncorrectable, and the row's parity bit (R160). (Log entry 165, DESIGN CHOICE.) -/
structure MRow where
  key : Nat
  care : Nat
  valid : Bool
  prio : Nat
  result : Nat
  vkey : Nat
  vcare : Nat
  ue : Bool
  par : Bool
  deriving DecidableEq, Repr

/-- A staged change: the entry's first row, and the entry to store; with `clear` only the valid bit is cleared
(R179). -/
structure MStage where
  row : Nat
  clear : Bool
  valid : Bool
  prio : Nat
  result : Nat
  units : List (Nat × Nat)
  deriving DecidableEq, Repr

/-- A logical match bank: rows, staged changes in order, out of service, being copied for a cause of R546, rows whose
copy was uncorrectable, scrub fixes in the pass, and how many staged changes a tick left for the end of the copy
(R160, R179, R183, R185). -/
structure MBank where
  rows : List (Nat × MRow)
  staged : List MStage
  lost : Bool
  copying : Nat
  ueRows : List Nat
  fixes : Nat
  due : Nat
  deriving DecidableEq, Repr

/-- Errors of the present epoch, which ERR_SUM totals at the tick; and, for each unit, the further failures of R18 that it
has met since reset (R564). (Log entry 28, DEDUCED.) -/
structure ErrSt where
  ce : Nat
  ue : Nat
  sat : Nat
  wrap : Nat
  further : List (Nat × Nat)
  deriving DecidableEq, Repr

/-! ## Matrix engines (chapter 07) -/

/-- A weight tile in the array: type code, K, N, element codes column by column, and the scale bytes (R186, R189). -/
structure WTile where
  ty : Nat
  k : Nat
  n : Nat
  codes : List Nat
  scales : List Nat
  deriving DecidableEq, Repr

/-- A matrix engine. Accumulator elements are a sparse map (tile x 16384 + row x 128 + column); 2^32 marks one that
stays saturated (R92). Books are a sparse map (slot x 16 + position). `gen` is the generator of R90 and its tick, `seed` the
SR_SEED as it stood at the tick.
A task that runs has a list position and the failures met; one that has ended keeps its status (R194, R195). -/
structure Me where
  acc : List (Nat × Nat)
  tile : Option WTile
  book : List (Nat × Nat)
  bookBad : List Nat
  gen : Option (Nat × Nat)
  pc : Nat
  running : Bool
  skip : Bool
  fails : List Nat
  ended : Option Nat
  rotating : Bool
  sent : Bool
  got : Bool
  granted : Bool
  seed : Nat
  deriving DecidableEq, Repr

/-- A partial state held for an entity (R212, R214). -/
structure HPart where
  entity : Nat
  encoder : Nat
  epoch : Nat
  stretch : Nat
  stretches : Nat
  len : Nat
  mode : Nat
  vals : List Nat
  deriving DecidableEq, Repr

/-- A combined state: the stretches that it holds, and the tick from which it is visible (R214). -/
structure HResult where
  entity : Nat
  encoder : Nat
  epoch : Nat
  count : Nat
  incomplete : Bool
  len : Nat
  vals : List Nat
  visible : Nat
  deriving DecidableEq, Repr

/-- The history states of a die: partials held, states combined, the last epoch whose deadline has come, and the partials
that this device has computed for another home device and not yet sent: home device, flow, record (R214). -/
structure Hist where
  parts : List HPart
  results : List HResult
  closed : Nat
  own : List (Nat × Nat × List Byte)
  deriving DecidableEq, Repr

/-! ## General cores (chapter 08) -/

/-- Why a core waits (R218, R401, R482). -/
inductive CoreWait where
  | none | wfi | emit | job | lookup | update
  deriving DecidableEq, Repr

/-- A tap-path transfer that has not completed. `moved` marks the bytes that have already moved: which ones a core
may see before the transfer completes is not defined (R241). -/
structure Tap where
  fl : Flight
  src : Nat
  dst : Nat
  len : Nat
  moved : Nat
  deriving DecidableEq, Repr

/-- A general core. Registers x, f and v are sparse maps from number to value; `ended` is the status with which the
task on it has ended and not yet been completed (R226, R290). (Log entry 1, PRESUMED.) -/
structure Core where
  x : List (Nat × Nat)
  f : List (Nat × Nat)
  v : List (Nat × Nat)
  pc : Nat
  fcsr : Nat
  vl : Nat
  vtype : Nat
  vstart : Nat
  vcsr : Nat
  vhseed : Nat
  tapout : Nat
  tapdone : Nat
  user : Bool
  resv : Option Nat
  icache : List (Nat × List Byte)
  instret : Nat
  mcause : Nat
  mepc : Nat
  mtval : Nat
  halted : Bool
  wait : CoreWait
  taps : List Tap
  ended : Option Nat
  deriving DecidableEq, Repr

/-- An entry of a core's pending-reject table (R483). -/
structure Rej where
  sel : Nat
  first : Nat
  count : Nat
  reason : Nat
  status : Nat
  deriving DecidableEq, Repr

/-! ## Streams, barriers and chains (chapter 09) -/

/-- The state of a stream context (R245). -/
inductive CtxState where
  | free | running | halted | drain | faulted
  deriving DecidableEq, Repr

/-- An emit that has been issued and has not taken effect (R254). -/
inductive Emit where
  | transfer (src dst : Nat) (a : List Nat) (bytes granted : Nat)
  | command (done : Bool) (status : Nat)
  deriving DecidableEq, Repr

/-- A stream context. Address registers hold 48 bits, loop counters and limits 32 (R248). `touched` holds the pages
that a FAST stream has reached, with the epoch (R271); `task` and `chain` name the task or the core's chain that it
serves. (Log entry 53, DEDUCED.) -/
structure Ctx where
  st : CtxState
  pc : Nat
  a : List Nat
  l : List Nat
  n : List Nat
  delivered : Nat
  status : Nat
  faultAddr : Nat
  desc : List Byte
  plan : Nat
  done : Nat
  halts : Nat
  poison : Nat
  started : Nat
  emits : List Emit
  touched : List (Nat × Nat)
  noArrive : Bool
  task : Option Nat
  chain : Option Nat
  held : Held := []
  deriving DecidableEq, Repr

/-- Who arrives at a barrier (R261). -/
inductive Ident where
  | core (die gc : Nat)
  | stream (die tag : Nat)
  | mgmt (mc : Nat)
  | aligner (group : Nat)
  deriving DecidableEq, Repr

/-- Arrivals of the present generation, and the requests that complete at its release (R261, R262). -/
structure Barrier where
  arrived : List Ident
  waiting : List Flight
  deriving DecidableEq, Repr

/-- A chain that runs on a core (R266): its record, the chunk and the stage it is at, failures met, which of its
streams are outstanding, whether the stage's entry has been called, and the request or the task that it completes. -/
structure Chain where
  rec_ : List Byte
  plan : Nat
  chunk : Nat
  stage : Nat
  fails : List Nat
  loading : Bool
  storing : Bool
  called : Bool
  fl : Option Flight
  deriving DecidableEq, Repr

/-! ## Dispatch and plans (chapter 10) -/

/-- A task in a dispatcher: its descriptor, its plan, the generation of its barrier when it arrived, when it
became eligible, the epoch and time of its start, the epoch whose work it is, and the epoch in which it was last
deferred. `release` is when it arrived or will be released; `serial` orders acceptances; `over` says that its run has been
counted as past its budget (R291). -/
structure Task where
  r : Rec
  plan : Nat
  gen : Nat
  release : Nat
  elig : Option Nat
  epoch : Nat
  start : Nat
  serial : Nat
  workEpoch : Nat
  deferred : Option Nat
  pastBudget : Bool := false
  deriving DecidableEq, Repr

/-- A dispatcher. Levels are lists from the head; `guard` holds, per unit, the lowest level that R283 blocks;
`past` the tasks that each unit has completed in the present epoch (R548), `turn` the background stream served last
(R256). -/
structure Disp where
  levels : List (List Task)
  delay : List Task
  slot : List (Nat × List Task)
  run : List (Nat × List Task)
  streams : List Task
  held : List (Nat × Nat × Nat)
  guard : List (Nat × Nat)
  busy : List (Nat × Nat)
  bins : List (Nat × List Nat)
  past : List (Nat × List Task)
  turn : Nat
  deriving DecidableEq, Repr

/-- A window aggregate declared by a plan: the handle of its header (R338). -/
structure WinDecl where
  header : Nat
  deriving DecidableEq, Repr

/-- A history encoder of a plan image (R212 to R214). -/
structure Encoder where
  id : Nat
  dim : Nat
  decay : List Nat
  deriving DecidableEq, Repr

/-- The fold table of a logical unit (die x 120 + unit): the tasks to issue again, the epoch table from then on, and for an
engine in a ring the ring composed anew with the shards that its members then hold (R211, R554). -/
structure Fold where
  unit : Nat
  again : List Rec
  table : List Rec
  rings : List (Nat × Nat × Nat)
  locals : List (Nat × List Byte)
  deriving DecidableEq, Repr

/-- What a plan image carries (R275 and the chapters that PLAN_LOAD names); `slots` is how many slots its descriptor table
has (R98, R101). (Log entries 20, DESIGN CHOICE; 157, DESIGN CHOICE.) -/
structure PlanImage where
  slots : Nat
  tables : List (List Rec)
  descs : List (Nat × Rec)
  barriers : List (Nat × Nat)
  windows : List WinDecl
  pipes : List (Nat × List Byte)
  code : Range
  books : List (Nat × Nat × List Byte)
  meCfg : List (Nat × Nat × Nat)
  rings : List (Nat × Nat × Nat)
  encoders : List Encoder
  widths : List (Nat × Nat × Nat)
  streamTab : List (Nat × List Byte)
  groupTab : List (Nat × List Byte)
  embTables : List (List Byte)
  sources : List Nat
  locals : List (Nat × List Byte)
  folds : List Fold
  deriving DecidableEq, Repr

/-- A plan number: its image when one is loaded, its transition pending for the next tick (1 start, 2 drain, 3 drain
with purge, 4 purge) and the command that it answers, the status that makes it FAULTED at the next tick, whether it is
being purged out of FAULTED, its overrun count, and whether it is a standing plan that has yet to begin (R40, R293,
R573). -/
structure Plan where
  image : Option PlanImage
  imageBytes : List Byte
  pending : Nat
  reply : Option KHdr
  faulting : Nat
  purging : Bool
  overruns : Nat
  standing : Bool
  deriving DecidableEq, Repr

/-! ## Batches (chapter 17) -/

/-- A column's value in a row of an open batch: raw bits, or VARBIN bytes; none for a null. -/
inductive BVal where
  | none
  | raw (x : Nat)
  | str (b : List Byte)
  deriving DecidableEq, Repr

/-- A row of an open batch: row id, ordinal, and its payload or its columns (R476, R477). -/
structure BRow where
  id : Nat
  ord : Nat
  vals : List BVal
  deriving DecidableEq, Repr

/-- A batch that holds a slot: its state (2 CLOSED, 3 READY, 4 DELIVERED), the epoch in which it closed, and the tick
at which it was last sent (R478, R487, R489). -/
structure BBatch where
  seq : Nat
  st : Nat
  closeTick : Nat
  sent : Nat
  deriving DecidableEq, Repr

/-- An EMIT under way: its core (die x 96 + number), its record, its plan, the row that it has reached and the end of its
range, and its counts and failures so far (R479 to R482). -/
structure EmitCall where
  core : Nat
  rec_ : Rec
  plan : Nat
  next : Nat
  stop : Nat
  emitted : Nat
  rejected : Nat
  rowsIn : Nat
  c3 : Nat
  c4 : Nat
  c5 : Nat
  c6 : Nat
  fails : List Nat
  deriving DecidableEq, Repr

/-- The share of an epoch: the tick, s_T, and the first sequence number of each source (R492). -/
structure Share where
  tick : Nat
  s : Nat
  first : List (Nat × Nat)
  deriving DecidableEq, Repr

/-- An output pipeline that a plan has declared: its record, the type codes that its first EMIT fixed, the number of the
next batch, the rows of the open batch (the newest first), batches that hold slots (oldest first), the calls that wait,
reject records of the epoch, whether the first sample has been taken, and the shares so far (newest first).
(Log entry 100, DEDUCED.) -/
structure Pipe where
  rec_ : Rec
  plan : Nat
  types : Option (List Nat)
  nextSeq : Nat
  rows : List BRow
  batches : List BBatch
  waiters : List EmitCall
  rejected : Nat
  sampled : Bool
  shares : List Share
  deriving DecidableEq, Repr

/-! ## Kupel ports and host sessions (chapter 18) -/

/-- A frame that waits for its acknowledgement: sequence number and messages (R508). -/
structure HeldFrame where
  lseq : Nat
  msgs : List Msg
  deriving DecidableEq, Repr

/-- A Kupel port: lanes that failed in each direction, link-layer counters, credits of the six classes, messages
that wait (oldest first), the cause of the last lane failure, and the nonce of its link-up exchange (R497 to R509, R616). -/
structure Port where
  txFailed : List Nat
  rxFailed : List Nat
  txSpare : Bool
  rxSpare : Bool
  excluded : Bool
  nextSeq : Nat
  unacked : List HeldFrame
  expect : Nat
  naking : Bool
  sinceAck : Nat
  granted : List Nat
  used : List Nat
  freed : List Nat
  waiting : List Msg
  replays : Nat
  laneCause : Nat
  helloNonce : List Byte
  deriving DecidableEq, Repr

/-- A host session of the bridge: its challenge, the host's key, and the last 64 tags with the response where there is
one, newest first (R520, R521, R617). -/
structure Session where
  challenge : List Byte
  key : List Byte
  tags : List (Nat × Option (List Byte))
  deriving DecidableEq, Repr

/-- A control command accepted in the present epoch: its object (kind and two numbers), the rank of its master, and
its header (R540, R541). -/
structure CmdRec where
  kind : Nat
  a : Nat
  b : Nat
  rank : Nat
  h : KHdr
  deriving DecidableEq, Repr

/-! ## Embedding tables (chapter 13) -/

/-- A replacement accepted and not yet committed (R389 to R391). -/
structure EmbRepl where
  row : Nat
  state : Nat
  bytes : List Byte
  reply : KHdr
  tick : Nat
  deriving DecidableEq, Repr

/-- The gradients that reached the step accumulator of an epoch for a row, and which entry of the epoch's half of the
accumulator area holds their sum (R372, R386). (Log entry 170, DESIGN CHOICE.) -/
structure EmbAcc where
  epoch : Nat
  row : Nat
  grads : List (List Nat)
  entry : Nat
  deriving DecidableEq, Repr

/-- An attached table: its record, the partition it was declared in, the tick from which it serves, whether it is to
be detached, and its owner's service (R371 to R377, R386 to R391). -/
structure EmbTable where
  cfg : Nat
  plan : Nat
  slot : Nat
  serves : Nat
  detach : Bool
  repl : List EmbRepl
  acc : List EmbAcc
  lookups : Nat
  deriving DecidableEq, Repr

/-- A migration that the old owner runs: 0 accepted, 1 copied, 2 acknowledged, 3 flipped, 4 abandoned (R393 to R395); the
tag of its EMB_COPY. -/
structure EmbMig where
  table : Nat
  row : Nat
  dest : Nat
  tick : Nat
  reply : KHdr
  phase : Nat
  status : Nat
  tag : Nat
  deriving DecidableEq, Repr

/-- A row that this device has received as new owner (R394, R395): whether it has heard the override, whether it holds
the row or has refused or given it up, and the bytes that stood where it put the row. -/
structure EmbIn where
  table : Nat
  row : Nat
  tick : Nat
  confirmed : Bool
  stored : Bool := true
  undo : List (Nat × List Byte) := []
  deriving DecidableEq, Repr

/-- An override that waits for room in the staging buffer: table, row, owner (R396). -/
structure EmbOvr where
  table : Nat
  row : Nat
  owner : Nat
  deriving DecidableEq, Repr

/-- A lookup part sent to an owner: its tag and number, the core that waits, the rows of each bag not yet answered, and
the epoch in which it was sent (R380, R383). -/
structure EmbPart where
  core : Nat
  tag : Nat
  part : Nat
  left : List (Nat × Nat)
  tick : Nat
  deriving DecidableEq, Repr

/-- A lookup batch that an owner has not yet received whole: the requester, its tag, when it was issued, and the bag and
row entries of each frame received (R381, R384). -/
structure EmbBatch where
  dev : Nat
  tag : Nat
  tick : Nat
  got : List (Nat × List (Nat × Nat))
  deriving DecidableEq, Repr

/-- What owners have pooled for a bag: rows, and FP32 values (R381). -/
structure EmbBag where
  bag : Nat
  rows : Nat
  vals : List Nat
  deriving DecidableEq, Repr

/-- A LOOKUP that waits for its parts (R381, R383). -/
structure EmbCall where
  core : Nat
  plan : Nat
  table : Nat
  pool : Nat
  data : Nat
  count : Nat
  stats : Nat
  nulls : Nat
  fails : List Nat
  bags : List EmbBag
  held : Held := []
  deriving DecidableEq, Repr

/-- The embedding service of the device. `stat` is FAB_EMB_STAT at the last tick. -/
structure EmbSt where
  tables : List EmbTable
  migs : List EmbMig
  incoming : List EmbIn
  held : List EmbOvr
  parts : List EmbPart
  calls : List EmbCall
  batches : List EmbBatch
  nextTag : Nat
  stat : List Nat
  deriving DecidableEq, Repr

/-! ## Decanter and press (chapter 14) -/

/-- A decanter or press job (R402): its record with COMP_ADDR resolved, the general core that issued it and whether it
waits for it, the plan, the ratio limit in force when it started (R406), and whether its effects have already been had
(R550). -/
structure Job where
  rec_ : Rec
  core : Option Nat
  waits : Bool
  plan : Nat
  limit : Nat
  skip : Bool
  held : Held := []
  deriving DecidableEq, Repr

/-- A decanter or press: queued jobs, those that wait for room in the queue, the job of each busy lane, and lanes out
of service (R400, R426). -/
structure Codec where
  queue : List Job
  blocked : List Job
  lanes : List (Nat × Job)
  out : List Nat
  deriving DecidableEq, Repr

/-! ## Field capture (chapter 16) -/

/-- A record that a ring slot holds: sequence number, capture time as 64 bits, CORRUPT, its slot, and the epoch in
which it arrived (R455 to R458). -/
structure FRec where
  seq : Nat
  cap : Nat
  corrupt : Bool
  slot : Nat
  tick : Nat
  deriving DecidableEq, Repr

/-- A frame being assembled: sequence numbers of its first and last fragment, capture time, CORRUPT, and bytes so far
(R459). -/
structure FAsm where
  first : Nat
  last : Nat
  cap : Nat
  corrupt : Bool
  len : Nat
  deriving DecidableEq, Repr

/-- A stream: its entry in force, the highest sequence number accepted, the records accepted since its last enable,
what its slots hold, and its frames (R455 to R459). (Log entry 92, DEDUCED.) -/
structure FStream where
  entry : Nat
  highest : Option Nat
  count : Nat
  recs : List FRec
  asm : Option FAsm
  frameCount : Nat
  frames : List FRec
  deriving DecidableEq, Repr

/-- A fusion group: its entry in force, the row ids named by its last moment and the tick of that moment, and records
dropped as stale in the epoch (R462 to R465). -/
structure FGroup where
  entry : Nat
  named : List Nat
  momentTick : Nat
  stale : Nat
  deriving DecidableEq, Repr

/-- The PTP clock of a port: its master and the rank of its data set, the Sync that waits for a Follow_Up, the exchange
that waits for a Delay_Resp (sequence number, t1, t2, t3), the last Delay_Req and the least time between two, and the
estimates within 1 us in a row (R460, R461). -/
structure FPtp where
  master : Option (Nat × Nat)
  sync : Option (Nat × Nat)
  exch : Option (Nat × Int × Nat × Nat)
  lastReq : Option Nat
  minLog : Int
  good : Nat
  deriving DecidableEq, Repr

/-- Field capture: streams, groups, clocks, slots that moments name (stream, whether of a frame, slot, tick), a lost
aligner, and the frame path (R449 to R471, R557). -/
structure FieldSt where
  streams : List (Nat × FStream)
  groups : List (Nat × FGroup)
  ptp : List (Nat × FPtp)
  holds : List (Nat × Bool × Nat × Nat)
  alignerLost : Bool
  frm : Codec
  deriving DecidableEq, Repr

/-! ## Twin pairs (chapter 19) -/

/-- What the next delta holds: window blocks and headers changed, embedding rows (table, row, tombstone), overrides
(table, row, owner), batches closed (pipeline, number), partial states, and commands accepted (R528). -/
structure Marks where
  blocks : List Nat
  heads : List Nat
  rows : List (Nat × Nat × Bool)
  ovrs : List (Nat × Nat × Nat)
  batches : List (Nat × Nat)
  hists : List (List Byte)
  control : List (Nat × Msg × List Byte)
  deriving DecidableEq, Repr

/-- A delta that the ACTIVE keeps until it is acknowledged: its epoch and the payloads of its parts (R532). -/
structure Delta where
  epoch : Nat
  parts : List (List Byte)
  deriving DecidableEq, Repr

/-- A delta that the MIRROR receives: parts by number, and whether it has been acknowledged whole (R531). -/
structure RxDelta where
  epoch : Nat
  parts : List (Nat × List Byte)
  whole : Bool
  deriving DecidableEq, Repr

/-- What becomes of the pair at the next tick: nothing; this module ACTIVE alone, ACTIVE or MIRROR of a pair that started
together, or MIRROR of one that is ACTIVE; an attach accepted; the pair SOLO, with the partner lost or not; takeover by
failover; detach into REST; a handover begins (R525, R532 to R539). -/
inductive PairNext where
  | none | solo | active | mirror | attach | join | lost | left | failover | detach | handover
  deriving DecidableEq, Repr

/-- One of a pair: whether its role is decided, what happens at the next tick, whether a heartbeat of the present tick
has arrived, deltas kept or received, bulk parts and whether the bulk copy is due or complete, the epoch of a handover,
whether this module has stopped acknowledging, and the command that a detach answers. -/
structure TwinSt where
  decided : Bool
  next : PairNext
  heard : Bool
  deltas : List Delta
  rx : List RxDelta
  bulk : List (Nat × List Byte)
  bulkDue : Bool
  bulkDone : Bool
  hand : Option Nat
  mute : Bool
  reply : Option KHdr
  deriving DecidableEq, Repr

/-! ## Reset and start (chapter 21) -/

/-- Start has reached the end of step 8's loads; the device state requested for the next tick (0 none, 1 SHARED, 2 RUN,
3 REST, 4 WAKE) and the state that REST was entered from; REST was entered by a detach; units under reset (die x 120 +
unit); the time at which the watchdog period last began; and whether the next start repairs retired frames (R561, R565,
R570, R573, R582, R583). (Log entry 142, DEDUCED.) -/
structure BootSt where
  ready : Bool
  req : Nat
  restFrom : Nat
  detached : Bool
  units : List Nat
  kicked : Nat
  repair : Bool
  deriving DecidableEq, Repr

/-! ## Identity (chapter 23) -/

/-- A flash operation in progress (R619): OP, address, length, and the bytes that it programs; `done` counts what it has
erased or programmed. -/
structure FlashOp where
  op : Nat
  addr : Nat
  len : Nat
  bytes : List Byte
  deriving DecidableEq, Repr

/-- What start read and verified: measurements of both parts and the owner root in force; attestation requests that wait
with their nonces; and the flash operation or enrolment in progress (R609 to R619). -/
structure SecSt where
  oxeneMeas : List Byte
  ownerMeas : List Byte
  ownerRoot : List Byte
  reports : List (KHdr × List Byte)
  flashOp : Option FlashOp
  enrol : Option (List Byte)
  deriving DecidableEq, Repr

/-! ## The module (chapter 24) -/

/-- The module's own state: a debugger attached through JTAG; PWR_EN, the hot-swap switch closed, a trip that lasts until
PWR_EN is cycled, the fault latch (LAST_TRIP and page), pages of rails that are good; a BOR that has not released, and one
since the last power-up; the cap limiter's gate with its counts and window of sums, and each die's count of cool samples;
the PMBus page, status registers (VOUT per page) and converter warning; the JTAG instruction, boundary register and whether
it drives or floats the pins; cages held in low-power mode; and the SMBus address pins (R227, R622 to R648).
(Log entries 141, DESIGN CHOICE; 153, PRESUMED.) -/
structure ModSt where
  dbg : Bool
  pwrEn : Bool
  hotSwap : Bool
  tripped : Bool
  latch : Nat × Nat
  rails : List Nat
  borHeld : Bool
  borSeen : Bool
  gate : Nat
  below : Nat
  surge : Nat
  sums : List Nat
  cool : List Nat
  page : Nat
  vout : List (Nat × Nat)
  statIn : Nat
  statTemp : Nat
  statCml : Nat
  warn : Bool
  jtagIr : Nat
  jtagBsr : Nat
  jtagDrive : Nat
  lowPower : List Nat
  sa : Nat
  deriving DecidableEq, Repr

/-! ## Events (chapter 22) -/

/-- What the event unit keeps beside its registers: the events nested on each management core (source and group
field, innermost first), groups whose hold-off runs, and an occurrence that wakes the device (R594, R599, R603). -/
structure EvtSt where
  stk : List (Nat × List (Nat × Nat))
  holdoff : List Nat
  wake : Option Nat
  deriving DecidableEq, Repr

/-! ## Spares and fencing (chapter 20) -/

/-- A general core or matrix engine as fencing sees it: fenced and not yet bound, lost without a spare, addresses of
uncorrectable words, the epochs of R553 left and whether it is behind, the tasks to issue
again, with the die of each, and the words corrected in the epoch (R547, R548, R553). (Log entry 138, DESIGN CHOICE.) -/
structure UnitSt where
  fenced : Bool
  cause : Nat
  lost : Bool
  ues : List Nat
  catchUp : Nat
  behind : Bool
  again : List (Nat × Task)
  ces : Nat
  deriving DecidableEq, Repr

/-- A task in the fence journal (R550): its effecting calls that have completed, and those that its present run has
made. (Log entry 105, DEDUCED.) -/
structure Journal where
  serial : Nat
  epoch : Nat
  calls : Nat
  made : Nat
  emitRow : Option Nat
  deriving DecidableEq, Repr

/-- The unit map as bound (kind, die, logical number to physical number), the spares left in it, the fence log's
next place and the records held in management memory, unit conditions, the fence journal, and epoch tables that fold a
lost unit's work from a tick on: plan, die, tick, table (R543 to R554). -/
structure SprSt where
  bound : List (Nat × Nat)
  spares : List (Nat × List Nat)
  logPos : Nat
  heldRecs : List Nat
  unlogged : List Nat
  units : List (Nat × UnitSt)
  journal : List Journal
  mcLost : List Nat
  fatal : Bool
  reserveUsed : List Nat
  pageCe : List (Nat × Nat)
  retired : List (Nat × Nat)
  folds : List (Nat × Nat × Nat × List Rec)
  deriving DecidableEq, Repr

end Sys2Proof.Machine
end

