-- ==== Sys2Proof/Machine/State.lean ====
section
/-! DEFINITION. The state of the block, and why a step can stop. Registers are kept field by field in one sparse
map; everything that a register shows is in that map alone, and what no register shows is typed. -/

namespace Sys2Proof.Machine

/-- Everything of the block but its memory and its queue of waiting commands.
(Log entries 3, DESIGN CHOICE; 18, DESIGN CHOICE; 20, DESIGN CHOICE.) -/
structure Block where
  /-- Register fields: bit address in register space, and the field's value exclusive-or its reset value. -/
  regs : List (Nat × Nat)
  /-- Capture words of registers issued when written whole: requester number, word address, value (R656). -/
  capture : List (Nat × Nat × Nat)
  /-- The model's own counter of free values drawn. -/
  free : Nat
  /-- What left the module: messages and frames, the newest first. The model's own log. -/
  out : List (Nat × Msg)
  /-- Page-table entries that differ from those of start (R269). -/
  pages : List (Nat × Page)
  /-- Pages being racked, with the HBM frame each will have (R271). -/
  racks : List (Nat × Nat)
  /-- 64 B rows that read as zeros: poisoned cellar rows and uncorrectable words (R155, R563). -/
  bad : List Nat
  /-- 16 B words of matrix-engine memory that read as zeros, by address over 16 (R190, R193). -/
  badWords : List Nat
  /-- What the check bits of local memory show to the commands that read it next: each takes the first, and none left is
  clean. The model's own: errors come from outside the spec. -/
  found : List (List (Nat × Ecc))
  /-- Numbers of the descriptor-table pages, whose place the spec does not give (R100). -/
  dtPages : List Nat
  /-- Descriptor slots, by plan x 65536 + handle; firmware's table is number 16 (R98). -/
  slots : List (Nat × Slot)
  /-- The memory partition of each plan number (R672). -/
  parts : List (Nat × Partition)
  time : TimeSt
  errs : ErrSt
  cellar : List Flight
  /-- Cellar commands that wait for a data bank's copy, the oldest first (R157). -/
  cellarWait : List CmdWait
  dataBanks : List (Nat × Bank)
  mtch : List Flight
  /-- Match commands that wait for a bank's copy, the oldest first (R183). -/
  matchWait : List CmdWait
  matchBanks : List (Nat × MBank)
  /-- The match tier of each die from the next tick on (R182). -/
  tierNext : List (Nat × Nat)
  mes : List (Nat × Me)
  hists : List (Nat × Hist)
  cores : List (Nat × Core)
  /-- The pending-reject table of each core (R483). -/
  rejs : List (Nat × List Rej)
  ctxs : List (Nat × Ctx)
  bars : List (Nat × Barrier)
  chains : List (Nat × Chain)
  disps : List (Nat × Disp)
  /-- The serial number of the next task. -/
  nextTask : Nat
  /-- The observation form in force (R297). -/
  obsMode : Nat
  plans : List (Nat × Plan)
  ports : List (Nat × Port)
  sessions : List (Nat × Session)
  /-- Messages discarded for want of a route in the present epoch (R513). -/
  noRoute : Nat
  /-- Control commands accepted in the present epoch (R541). -/
  cmds : List CmdRec
  emb : EmbSt
  /-- Decanters and presses: die x 2, plus one for a press (R400). -/
  codecs : List (Nat × Codec)
  field : FieldSt
  /-- The pipelines declared (R473). -/
  pipes : List (Nat × Pipe)
  /-- Input positions: plan x 65536 + source id, and the first sequence number not yet read at the last tick (R492). -/
  inputs : List (Nat × Nat)
  marks : Marks
  twin : TwinSt
  boot : BootSt
  sec : SecSt
  evt : EvtSt
  spr : SprSt
  modl : ModSt
  /-- The configuration flash: bytes that differ from an erased byte (R605). -/
  flash : List Host.Cell
  /-- The model's own environment: which bytes are which plan image, the spec giving images no layout. -/
  planFormat : List (List Byte × PlanImage)
  deriving DecidableEq, Repr

/-- The state of the model. -/
structure State extends Block where
  mem : List Host.Cell
  pending : List Instr
  deriving DecidableEq, Repr

/-- The machine right after reset: every sparse map empty, so that every register and unit holds the value that the
spec gives it at reset, or the one that a log entry names (log entries 1, 2, 8, 9, 12).
(Log entries 14, DESIGN CHOICE; 141, DESIGN CHOICE.) -/
def State.reset : State :=
  { regs := [], capture := [], free := 0, out := [], pages := [], racks := [], bad := [], badWords := [], found := [], dtPages := [],
    slots := [], parts := [],
    time := { lastTick := 0, ticked := false, good := 0, silent := 0, heard := false, t1 := 0, t2 := 0, t3 := none,
              firstExchange := false, sync := none, listening := false, masterTook := false, ptpWaiting := false,
              slew := 0, diverging := false, commitBusy := [], commitOpen := false, sealed := false,
              tickOut := none },
    errs := ⟨0, 0, 0, 0, []⟩, cellar := [], cellarWait := [], dataBanks := [], mtch := [], matchWait := [], matchBanks := [], tierNext := [],
    mes := [], hists := [], cores := [], rejs := [], ctxs := [], bars := [], chains := [], disps := [],
    nextTask := 0, obsMode := 0, plans := [], ports := [], sessions := [], noRoute := 0, cmds := [],
    emb := { tables := [], migs := [], incoming := [], held := [], parts := [], calls := [], batches := [], nextTag := 0,
             stat := [] },
    codecs := [],
    field := { streams := [], groups := [], ptp := [], holds := [], alignerLost := false,
               frm := ⟨[], [], [], []⟩ },
    pipes := [], inputs := [],
    marks := { blocks := [], heads := [], rows := [], ovrs := [], batches := [], hists := [], control := [] },
    twin := { decided := false, next := .none, heard := false, deltas := [], rx := [], bulk := [], bulkDue := false,
              bulkDone := false, hand := none, mute := false, reply := none },
    boot := { ready := false, req := 0, restFrom := 0, detached := false, units := [], kicked := 0,
              repair := false },
    sec := ⟨[], [], [], [], none, none⟩,
    evt := { stk := [], holdoff := [], wake := none },
    spr := { bound := [], spares := [], logPos := 0, heldRecs := [], unlogged := [], units := [], journal := [],
             mcLost := [], fatal := false, reserveUsed := [], pageCe := [], retired := [], folds := [] },
    modl := { dbg := false, pwrEn := true, hotSwap := true, tripped := false, latch := (0, 0),
              rails := [1, 2, 3, 4, 5, 6, 7, 8, 9, 10], borHeld := false, borSeen := false, gate := 16, below := 0,
              surge := 0, sums := [], cool := [0, 0, 0, 0], page := 0, vout := [], statIn := 0, statTemp := 0,
              statCml := 0, warn := false, jtagIr := 1, jtagBsr := 0, jtagDrive := 0, lowPower := [], sa := 0 },
    flash := [], planFormat := [], mem := [], pending := [] }

/-- Why a step stops with a fault. (Log entry 17, DESIGN CHOICE.) -/
inductive Fault where
  /-- Raised by every command that names a unit, port or size that the module does not have (`Instr.wf`). Safe:
  no such command can be given to this hardware. -/
  | illFormed
  deriving DecidableEq, Repr

/-- Why a step has no meaning. -/
inductive Refusal where
  /-- Raised by the dispatch of a command that this model gives no meaning yet. Safe: nothing follows. -/
  | notModelled (mnemonic : String)
  deriving DecidableEq, Repr

end Sys2Proof.Machine
end

