-- ==== Sys2Proof/WellFormed.lean ====
section
/-! DEFINITION. Which commands name units, ports, registers and sizes that the module has. A command that does
not is no command of this hardware: its meaning is the fault `illFormed` (R21, R22, R122, R160, R186, R215, R245). -/

namespace Sys2Proof

/-- The issuing core, context or management core exists. -/
def Issuer.wf : Issuer → Bool
  | .core die gc => decide (die < 4) && decide (gc < 96)
  | .stream die ctx => decide (die < 4) && decide (ctx < 256)
  | .firmware mc die => decide (mc < 4) && decide (die < 4)

/-- The management core exists; the other two requesters are single (R653). -/
def Requester.wf : Requester → Bool
  | .mc n => decide (n < 4)
  | .regWrite dev sess => decide (dev < 512) && decide (sess < 8)
  | .recovery => true

/-- Every field of the header fits the bits that R503 gives it, and its payload fits a frame.
(Log entry 17, DESIGN CHOICE.) -/
def KHdr.wf (h : KHdr) : Bool :=
  decide (h.cls < 8) && decide (h.typ < 256) && decide (h.srcDev < 512) && decide (h.srcSess < 8) &&
  decide (h.dstDev < 512) && decide (h.dstSess < 8) && decide (h.hops < 16) && decide (h.flow < 0x10000) &&
  decide (h.len ≤ 9144) && decide (h.tag < 0x100000000) && decide (h.tick < 0x10000000000000000)

/-- The clock exists (R62): two HBM stack controllers and one LPDDR5X controller on each compute die. -/
def Clk.wf : Clk → Bool
  | .alwaysOn => true
  | .timeBase => true
  | .management => true
  | .computeDie die => decide (die < 4)
  | .noc die => decide (die < 4)
  | .memory die ctl => decide (die < 4) && decide (ctl < 3)
  | .cellar die => decide (die < 4)
  | .kupelPort port => decide (port < 24)
  | .fieldPort port => decide (port < 8)

/-- A sample has every sensor of R636. -/
def Sensors.wf (r : Sensors) : Bool :=
  decide (r.cd.length = 4) && r.cd.all (fun l => decide (l.length = 8)) &&
  decide (r.cl.length = 4) && r.cl.all (fun l => decide (l.length = 4)) &&
  decide (r.hbmA.length = 4) && decide (r.hbmB.length = 4)

/-- A sample has one reading of each page of R645. -/
def PowerReadings.wf (r : PowerReadings) : Bool :=
  decide (r.mv.length = 11) && decide (r.da.length = 11) && decide (r.w.length = 11)

/-- The message's fields have the widths of IEEE 1588. (Log entry 17, DESIGN CHOICE.) -/
def PtpMsg.wf (m : PtpMsg) : Bool :=
  decide (m.domain < 256) && decide (m.seqId < 0x10000) && decide (m.nanoseconds < 0x100000000)

/-- The submitting core exists. -/
def JobSource.wf : JobSource → Bool
  | .core die gc a0 => decide (die < 4) && decide (gc < 96) && decide (a0 < 0x10000000000000000)
  | .firmware mc die _ => decide (mc < 4) && decide (die < 4)

/-- The command names only what the module has. (Log entry 17, DESIGN CHOICE.) -/
def Instr.wf : Instr → Bool
  | .tick => true
  | .commitWorkEnd _ => true
  | .overrunFault plan => decide (plan < 16)
  | .catchupExpire die unit => decide (die < 4) && decide (unit < 120)
  | .heldEntryEnqueue die => decide (die < 4)
  | .announce port _ _ _ _ _ => decide (port < 24)
  | .delayReqSend _ => true
  | .delayReq port _ _ _ => decide (port < 24)
  | .delayResp port _ _ _ => decide (port < 24)
  | .parentSilentSwitch => true
  | .holdoverEntry => true
  | .masterListenEnd => true
  | .ptpWaitExpire => true
  | .timeTickPeriodWrite by_ _ => by_.wf
  | .clockLoss clk => clk.wf
  | .scanFilter iss _ => iss.wf
  | .probe iss _ => iss.wf
  | .insert iss _ => iss.wf
  | .histAdd iss _ => iss.wf
  | .atomicRow iss _ => iss.wf
  | .gatherSum iss _ => iss.wf
  | .copy iss _ => iss.wf
  | .fill iss _ => iss.wf
  | .cellarCompletion die _ => decide (die < 4)
  | .cellarScrub die bank row _ => decide (die < 4) && decide (bank < 1024) && decide (row < 32768)
  | .dataBankFence die bank _ => decide (die < 4) && decide (bank < 1024)
  | .bankFenceCopyDone die bank => decide (die < 4) && decide (bank < 1024)
  | .search iss _ => iss.wf
  | .searchOne iss _ => iss.wf
  | .matchWrite iss _ => iss.wf
  | .matchClear iss _ => iss.wf
  | .matchRead iss _ => iss.wf
  | .configure iss _ => iss.wf
  | .matchCompletion die _ => decide (die < 4)
  | .matchScrub die bank row _ => decide (die < 4) && decide (bank < 128) && decide (row < 8192)
  | .matchBankFence die bank _ => decide (die < 4) && decide (bank < 128)
  | .matchFenceCopyDone die bank => decide (die < 4) && decide (bank < 128)
  | .sensorSample r => r.wf
  | .wload die me => decide (die < 4) && decide (me < 24)
  | .mac die me => decide (die < 4) && decide (me < 24)
  | .store die me => decide (die < 4) && decide (me < 24)
  | .cbload die me => decide (die < 4) && decide (me < 24)
  | .rotate die me => decide (die < 4) && decide (me < 24)
  | .ringTransferDone die me => decide (die < 4) && decide (me < 24)
  | .meEnd die me => decide (die < 4) && decide (me < 24)
  | .histPartial die h payload => decide (die < 4) && h.wf && decide (payload.length = h.len)
  | .histCombineDeadline die => decide (die < 4)
  | .vh64V die gc vd vs2 _ => decide (die < 4) && decide (gc < 96) && decide (vd < 32) && decide (vs2 < 32)
  | .vh64Vs die gc vd vs2 _ => decide (die < 4) && decide (gc < 96) && decide (vd < 32) && decide (vs2 < 32)
  | .vh64M die gc rd rs1 rs2 => decide (die < 4) && decide (gc < 96) && decide (rd < 32) && decide (rs1 < 32) && decide (rs2 < 32)
  | .crc32cM die gc rd rs1 rs2 => decide (die < 4) && decide (gc < 96) && decide (rd < 32) && decide (rs1 < 32) && decide (rs2 < 32)
  | .vbkt die gc _ _ _ vd vs2 rs1 _ => decide (die < 4) && decide (gc < 96) && decide (vd < 32) && decide (vs2 < 32) && decide (rs1 < 32)
  | .vbitonic die gc vd vs2 rs1 => decide (die < 4) && decide (gc < 96) && decide (vd < 32) && decide (vs2 < 32) && decide (rs1 < 32)
  | .vargmax die gc tt rd vs2 _ => decide (die < 4) && decide (gc < 96) && decide (tt < 4) && decide (rd < 32) && decide (vs2 < 32)
  | .vqpack die gc _ vd vs2 => decide (die < 4) && decide (gc < 96) && decide (vd < 32) && decide (vs2 < 32)
  | .vtapTransfer die gc rd rs1 => decide (die < 4) && decide (gc < 96) && decide (rd < 32) && decide (rs1 < 32)
  | .vtapCellar die gc rd rs1 => decide (die < 4) && decide (gc < 96) && decide (rd < 32) && decide (rs1 < 32)
  | .vtapMatch die gc rd rs1 => decide (die < 4) && decide (gc < 96) && decide (rd < 32) && decide (rs1 < 32)
  | .tapRequestComplete die gc _ => decide (die < 4) && decide (gc < 96)
  | .wfi die gc => decide (die < 4) && decide (gc < 96)
  | .userTrap die gc _ _ _ _ => decide (die < 4) && decide (gc < 96)
  | .ebreakHalt die gc => decide (die < 4) && decide (gc < 96)
  | .xfer iss _ => iss.wf
  | .descInstall iss _ => iss.wf
  | .descRelease iss _ => iss.wf
  | .streamStart iss _ => iss.wf
  | .streamStop iss _ => iss.wf
  | .barArrive iss _ => iss.wf
  | .barArm iss _ => iss.wf
  | .chain iss _ => iss.wf
  | .chainStageReturn die gc _ => decide (die < 4) && decide (gc < 96)
  | .resume iss _ => iss.wf
  | .nop die ctx => decide (die < 4) && decide (ctx < 256)
  | .loop die ctx => decide (die < 4) && decide (ctx < 256)
  | .endl die ctx => decide (die < 4) && decide (ctx < 256)
  | .seti die ctx => decide (die < 4) && decide (ctx < 256)
  | .addi die ctx => decide (die < 4) && decide (ctx < 256)
  | .add die ctx => decide (die < 4) && decide (ctx < 256)
  | .sub die ctx => decide (die < 4) && decide (ctx < 256)
  | .madl die ctx => decide (die < 4) && decide (ctx < 256)
  | .wrap die ctx => decide (die < 4) && decide (ctx < 256)
  | .trellisEmitTransfer die ctx => decide (die < 4) && decide (ctx < 256)
  | .trellisEmitCellar die ctx => decide (die < 4) && decide (ctx < 256)
  | .trellisEmitMatch die ctx => decide (die < 4) && decide (ctx < 256)
  | .trellisEnd die ctx => decide (die < 4) && decide (ctx < 256)
  | .streamEmitDone die ctx => decide (die < 4) && decide (ctx < 256)
  | .bandwidthGrant die _ => decide (die < 4)
  | .rackPage die pg => decide (die < 4) && decide (pg < 1048576)
  | .rackCopyDone die pg => decide (die < 4) && decide (pg < 1048576)
  | .dispSubmit mc die _ => decide (mc < 4) && decide (die < 4)
  | .taskSubmit die gc a0 => decide (die < 4) && decide (gc < 96) && decide (a0 < 0x10000000000000000)
  | .delayRelease die _ => decide (die < 4)
  | .taskStart die unit _ => decide (die < 4) && decide (unit < 120)
  | .streamTaskIssue die _ => decide (die < 4)
  | .taskComplete die unit _ _ => decide (die < 4) && decide (unit < 120)
  | .filter die gc a0 _ _ => decide (die < 4) && decide (gc < 96) && decide (a0 < 0x10000000000000000)
  | .joinBuildInsert die gc a0 _ _ => decide (die < 4) && decide (gc < 96) && decide (a0 < 0x10000000000000000)
  | .joinBuildFinish die gc a0 _ _ => decide (die < 4) && decide (gc < 96) && decide (a0 < 0x10000000000000000)
  | .joinBuildClear die gc a0 _ _ => decide (die < 4) && decide (gc < 96) && decide (a0 < 0x10000000000000000)
  | .joinProbe die gc a0 _ _ => decide (die < 4) && decide (gc < 96) && decide (a0 < 0x10000000000000000)
  | .gather die gc a0 _ _ => decide (die < 4) && decide (gc < 96) && decide (a0 < 0x10000000000000000)
  | .bucketize die gc a0 _ _ => decide (die < 4) && decide (gc < 96) && decide (a0 < 0x10000000000000000)
  | .normalise die gc a0 _ _ => decide (die < 4) && decide (gc < 96) && decide (a0 < 0x10000000000000000)
  | .hashFeature die gc a0 _ _ => decide (die < 4) && decide (gc < 96) && decide (a0 < 0x10000000000000000)
  | .window die gc a0 _ _ => decide (die < 4) && decide (gc < 96) && decide (a0 < 0x10000000000000000)
  | .sort die gc a0 _ _ => decide (die < 4) && decide (gc < 96) && decide (a0 < 0x10000000000000000)
  | .topk die gc a0 _ _ => decide (die < 4) && decide (gc < 96) && decide (a0 < 0x10000000000000000)
  | .merge die gc a0 _ _ => decide (die < 4) && decide (gc < 96) && decide (a0 < 0x10000000000000000)
  | .tableAttach h payload => h.wf && decide (payload.length = h.len)
  | .lookup die gc a0 => decide (die < 4) && decide (gc < 96) && decide (a0 < 0x10000000000000000)
  | .update die gc a0 => decide (die < 4) && decide (gc < 96) && decide (a0 < 0x10000000000000000)
  | .embLookup h payload => h.wf && decide (payload.length = h.len)
  | .embPooled h payload => h.wf && decide (payload.length = h.len)
  | .lookupPartTimeout _ => true
  | .embUpdate h payload => h.wf && decide (payload.length = h.len)
  | .rowReplace h payload => h.wf && decide (payload.length = h.len)
  | .rowMigrate h payload _ => h.wf && decide (payload.length = h.len)
  | .embCopy h payload => h.wf && decide (payload.length = h.len)
  | .migrateAck _ _ _ => true
  | .embOverride h payload => h.wf && decide (payload.length = h.len)
  | .migrationAbandon _ _ => true
  | .migrationTombstone _ _ => true
  | .decode src => src.wf
  | .encode src => src.wf
  | .jobComplete die press lane => decide (die < 4) && decide (lane < if press then 2 else 4)
  | .laneInternalError die press lane => decide (die < 4) && decide (lane < if press then 2 else 4)
  | .arrowCheck die gc a0 _ _ => decide (die < 4) && decide (gc < 96) && decide (a0 < 0x10000000000000000)
  | .parquetDecode die gc a0 _ _ => decide (die < 4) && decide (gc < 96) && decide (a0 < 0x10000000000000000)
  | .fieldRecordFrame port _ _ _ => decide (port < 8)
  | .portStatusFrame port => decide (port < 8)
  | .ptpAnnounce port m => decide (port < 8) && m.wf
  | .ptpSync port m _ _ => decide (port < 8) && m.wf
  | .ptpFollowUp port m _ => decide (port < 8) && m.wf
  | .ptpDelayResp port m => decide (port < 8) && m.wf
  | .ptpAnnounceTimeout port => decide (port < 8)
  | .fieldLinkChange port _ _ => decide (port < 8)
  | .frame die gc a0 => decide (die < 4) && decide (gc < 96) && decide (a0 < 0x10000000000000000)
  | .frameJobComplete => true
  | .emit die gc a0 _ _ _ => decide (die < 4) && decide (gc < 96) && decide (a0 < 0x10000000000000000)
  | .emitResume pipe => decide (pipe < 32)
  | .emitWaitTimeout die gc => decide (die < 4) && decide (gc < 96)
  | .bqFetch h payload => h.wf && decide (payload.length = h.len)
  | .redeliver pipe _ => decide (pipe < 32)
  | .pushSend pipe => decide (pipe < 32)
  | .batchPart h payload => h.wf && decide (payload.length = h.len)
  | .kupelTrainingComplete port _ _ => decide (port < 24)
  | .laneLossOfLock port lane => decide (port < 24) && decide (lane < 5)
  | .serLimitExceeded port lane => decide (port < 24) && decide (lane < 5)
  | .trainingExclusion port => decide (port < 24)
  | .linkHello port h payload => decide (port < 24) && h.wf && decide (payload.length = h.len)
  | .linkHelloTimeout port => decide (port < 24)
  | .attestRetry port => decide (port < 24)
  | .kfpFrame port _ _ _ => decide (port < 24)
  | .messageTransmit port _ => decide (port < 24)
  | .ackTimer port => decide (port < 24)
  | .replayTimeout port => decide (port < 24)
  | .dataWrite h payload => h.wf && decide (payload.length = h.len)
  | .sessionOpen h macAddr payload => h.wf && decide (macAddr < 0x1000000000000) && decide (payload.length = h.len)
  | .sessionOpenTimeout session => decide (session < 4)
  | .sessionIdleTimeout session => decide (session < 4)
  | .sessionClose h => h.wf
  | .attest h payload => h.wf && decide (payload.length = h.len)
  | .planLoad h payload => h.wf && decide (payload.length = h.len)
  | .planStart h payload => h.wf && decide (payload.length = h.len)
  | .planStop h payload => h.wf && decide (payload.length = h.len)
  | .planDrain h payload => h.wf && decide (payload.length = h.len)
  | .regRead h payload => h.wf && decide (payload.length = h.len)
  | .regWrite h payload => h.wf && decide (payload.length = h.len)
  | .ctrlDone h payload => h.wf && decide (payload.length = h.len)
  | .event h payload => h.wf && decide (payload.length = h.len)
  | .hello h payload => h.wf && decide (payload.length = h.len)
  | .pairingWaitExpire => true
  | .heartbeat h payload => h.wf && decide (payload.length = h.len)
  | .heartbeatMiss => true
  | .deltaPart h payload => h.wf && decide (payload.length = h.len)
  | .deltaEnd h payload => h.wf && decide (payload.length = h.len)
  | .deltaAck h payload => h.wf && decide (payload.length = h.len)
  | .deltaLagExpire => true
  | .bulkPart h payload => h.wf && decide (payload.length = h.len)
  | .bulkEnd h payload => h.wf && decide (payload.length = h.len)
  | .detach h payload => h.wf && decide (payload.length = h.len)
  | .handover h payload => h.wf && decide (payload.length = h.len)
  | .twnCtlHandover by_ => by_.wf
  | .hangDetect die unit => decide (die < 4) && decide (unit < 120)
  | .unitFence die unit _ => decide (die < 4) && decide (unit < 120)
  | .sprFence by_ _ => by_.wf
  | .mcFence mc _ => decide (mc < 4)
  | .frameRetire _ _ _ => true
  | .hbmScrub _ => true
  | .fatalFailure die _ => decide (die < 4)
  | .por => true
  | .bor => true
  | .pin _ => true
  | .wdog => true
  | .sw by_ _ => by_.wf
  | .dbg => true
  | .lockup mc => decide (mc < 4)
  | .rest => true
  | .wake _ => true
  | .shared => true
  | .run => true
  | .sharedCountExpire => true
  | .unitReset by_ _ => by_.wf
  | .unitResetDone die unit => decide (die < 4) && decide (unit < 120)
  | .kick by_ _ => by_.wf
  | .eventOccurrence source _ _ => decide (source < 256)
  | .eventDelivery source => decide (source < 256)
  | .holdoffExpire group => decide (group < 32)
  | .evtEoi mc _ => decide (mc < 4)
  | .evtPend instance_ _ => decide (instance_ < 4)
  | .evtSub by_ instance_ _ => by_.wf && decide (instance_ < 8)
  | .planEvent die gc _ _ => decide (die < 4) && decide (gc < 96)
  | .enrol by_ _ => by_.wf
  | .enrolComplete => true
  | .erase by_ _ => by_.wf
  | .program by_ _ => by_.wf
  | .verifyOxene by_ _ => by_.wf
  | .verifyOwner by_ _ => by_.wf
  | .flashOpComplete => true
  | .hotSwapClose => true
  | .pwrEnDeassert => true
  | .powerDownDelay => true
  | .inputOvervoltage _ => true
  | .inputOvercurrent _ _ => true
  | .railGood pg => decide (pg < 11)
  | .railGoodTimeout pg => decide (pg < 11)
  | .railFault pg => decide (pg < 11)
  | .vcoreExcursion die _ _ => decide (die < 4)
  | .nvwInhibitAssert _ _ => true
  | .nvwInhibitLift _ _ => true
  | .powerSample r => r.wf
  | .qsfpModuleChange port _ _ => decide (port < 8)
  | .page _ _ => true
  | .clearFaults _ => true
  | .capability => true
  | .voutMode => true
  | .statusWord => true
  | .statusVout => true
  | .statusIout => true
  | .statusInput => true
  | .statusTemperature => true
  | .statusCml => true
  | .readVin => true
  | .readIin => true
  | .readPin => true
  | .readVout => true
  | .readIout => true
  | .readPout => true
  | .readTemperature1 => true
  | .readTemperature2 => true
  | .readTemperature3 => true
  | .pmbusRevision => true
  | .mfrId => true
  | .mfrModel => true
  | .alertResponse => true
  | .oxnBootStatus => true
  | .oxnRstState => true
  | .oxnPwrCap _ _ => true
  | .oxnFlashBuf _ _ => true
  | .oxnFlashCtl _ _ => true
  | .oxnFlashStat => true
  | .oxnOwnRoot _ _ => true
  | .oxnOwnCtl _ _ => true
  | .idcode => true
  | .samplePreload _ _ => true
  | .extest _ => true
  | .clamp => true
  | .highz => true
  | .oxnDbg _ => true
  | .oxnRecovery _ _ => true
  | .oxnReset => true
  | .bypass => true
  | .trst => true
  | .registerWrite by_ _ _ => by_.wf
  | .runPhaseStart => true
  | .rv64gcInstruction die gc => decide (die < 4) && decide (gc < 96)
  | .borRelease => true
  | .reportSigned => true
  | .framePathAlignerFailure _ => true

end Sys2Proof
end

