-- ==== Sys2Proof/Machine/Ops.lean ====
section
/-! DEFINITION. The named operations over registers, memory, pages and free values that every meaning is made of,
and `State.perform`, the one way in which a meaning acts on the state. -/

namespace Sys2Proof.Machine

/-- What a meaning answers. -/
abbrev Out := Host.Outcome State Fault Refusal

/-- The block while one command acts on it: the memory the command found, and the command's own changes to
memory, the newest first. A command is one step, so its stores land together at its end. `dtHit` says that a write
of it was dropped under R100; `adds` are its float additions under COMBINE ADD, whose order is not fixed (R109): type,
byte address and addend, the newest first; `holding` that a command unit acts, whose operations a bank's copy holds (R157). -/
structure Work extends Block where
  mem : List Host.Cell
  jnl : List MemOp
  dtHit : Bool
  adds : List (ETy × Nat × Nat)
  holding : Bool

/-! ## Memory -/

/-- What an address that nothing has written reads as: the cellar by R126; log entry 8 for the other memories. -/
def Memory.unlisted : Byte := 0

/-- The byte at an address. (Log entry 8, DESIGN CHOICE.) -/
def Memory.get (m : List Host.Cell) (a : Nat) : Byte := smGet Memory.unlisted m a

/-- The memory with one byte stored. -/
def Memory.set (m : List Host.Cell) (a : Nat) (b : Byte) : List Host.Cell := smSet Memory.unlisted m a b

/-- The canonical form of memory: addresses strictly rising, no byte equal to what an unlisted one reads as. -/
def Memory.wf (m : List Host.Cell) : Bool := smWf Memory.unlisted m

/-- Address a lies in the range of len bytes from lo. -/
def inRange (lo len a : Nat) : Bool := decide (lo ≤ a) && decide (a < lo + len)

/-- The memory with a range cleared. -/
def Memory.clear (m : List Host.Cell) (lo len : Nat) : List Host.Cell :=
  m.filter (fun c => !inRange lo len c.1)

/-- The memory with the bytes of one range copied over another. -/
def Memory.copy (m : List Host.Cell) (src dst len : Nat) : List Host.Cell :=
  ((m.filter (fun c => inRange src len c.1)).map (fun c => (c.1 - src + dst, c.2))).foldl
    (fun n c => Memory.set n c.1 c.2) (Memory.clear m dst len)

/-- The memory after one change. -/
def Memory.apply (m : List Host.Cell) : MemOp → List Host.Cell
  | .store a b => Memory.set m a b
  | .clear lo len => Memory.clear m lo len
  | .copy s d n => Memory.copy m s d n

/-- The memory after a command's changes, the oldest applied first. (Log entry 26, DESIGN CHOICE.) -/
def Memory.commit (m : List Host.Cell) (j : List MemOp) : List Host.Cell :=
  j.foldr (fun op n => Memory.apply n op) m

/-- The byte at an address as a command sees it after its own changes so far. -/
def Memory.look (m : List Host.Cell) : List MemOp → Nat → Byte
  | [], a => Memory.get m a
  | .store k b :: j, a => if k = a then b else Memory.look m j a
  | .clear lo len :: j, a => if inRange lo len a then Memory.unlisted else Memory.look m j a
  | .copy s d n :: j, a => if inRange d n a then Memory.look m j (a - d + s) else Memory.look m j a

/-! ## Acting on the state -/

/-- The block as a command finds it. -/
def State.work (s : State) : Work := { toBlock := s.toBlock, mem := s.mem, jnl := [], dtHit := false, adds := [], holding := false }

/-- A change of memory touches the 64 B line of a memory key. -/
def MemOp.touches (line : Nat) : MemOp → Bool
  | .store a _ => decide (a / 64 = line)
  | .clear lo len => decide (lo < (line + 1) * 64) && decide (line * 64 < lo + len)
  | .copy _ dst len => decide (dst < (line + 1) * 64) && decide (line * 64 < dst + len)

/-- A change of memory gives every byte of a range a new value. -/
def coversAll (j : List MemOp) (lo n : Nat) : Bool :=
  (List.range n).all (fun i => j.any (fun op =>
    match op with
    | .store a _ => decide (a = lo + i)
    | .clear a len => inRange a len (lo + i)
    | .copy _ d len => inRange d len (lo + i)))

/-- A word of matrix-engine memory that a command writes whole has valid check bits again.
(Log entry 166, DESIGN CHOICE.) -/
def Work.cureWords (w : Work) : Work :=
  { w with badWords := w.badWords.filter (fun n => !coversAll w.jnl (16 * n) 16) }

/-- A general core loses its reservation when the line that it holds is written (R217). -/
def Work.dropReservations (w : Work) : Work :=
  { w with cores := w.cores.map (fun e =>
    match e.2.resv with
    | some l => if w.jnl.any (MemOp.touches l) then (e.1, { e.2 with resv := none }) else e
    | none => e) }

/-! ## Registers -/

/-- The value of a register field of instance (d, i): never wider than the field. (Log entry 19, DESIGN CHOICE.) -/
def Work.rd (w : Work) (f : Fld) (d i : Nat) : Nat := ((smGet 0 w.regs (f.key d i)) ^^^ f.rst) % 2 ^ f.w

/-- Whether a one-bit field is set. -/
def Work.rdB (w : Work) (f : Fld) (d i : Nat) : Bool := decide (w.rd f d i = 1)

/-- A register field set to a value, kept to its width. (Log entry 19, DESIGN CHOICE.) -/
def Work.wr (w : Work) (f : Fld) (d i v : Nat) : Work :=
  { w with regs := smSet 0 w.regs (f.key d i) ((v % 2 ^ f.w) ^^^ f.rst) }

/-- A one-bit field set to a truth value. -/
def Work.wrB (w : Work) (f : Fld) (d i : Nat) (b : Bool) : Work := w.wr f d i (if b then 1 else 0)

/-- A counter that wraps increased by n. -/
def Work.bump (w : Work) (f : Fld) (d i : Nat) (n : Nat := 1) : Work := w.wr f d i (w.rd f d i + n)

/-- A counter that saturates increased by n. -/
def Work.bumpSat (w : Work) (f : Fld) (d i : Nat) (n : Nat := 1) : Work :=
  w.wr f d i (min (w.rd f d i + n) (2 ^ f.w - 1))

/-- Device registers: instance (0, 0). -/
abbrev Work.dv (w : Work) (f : Fld) : Nat := w.rd f 0 0

/-! ## Free values -/

/-- What the check bits show to the next command that reads local memory (R190, R193, R200, R220).
(Log entry 138, DESIGN CHOICE.) -/
def Work.nextFound (w : Work) : List (Nat × Ecc) := w.found.headD []

/-- That command has been. (Log entry 138, DESIGN CHOICE.) -/
def Work.dropFound (w : Work) : Work := { w with found := w.found.tail }

/-- A fresh free value of n bits, and the block having drawn it. (Log entry 3, DESIGN CHOICE.) -/
def Work.fresh (w : Work) (n : Nat) : Nat × Work :=
  ((Config.freeValue n w.free).toNat, { w with free := w.free + 1 })

/-! ## The device address map (R649 to R652) -/

/-- Where an address of the 52-bit device map lies. -/
inductive Region where
  | hbm | lpx
  | cellar (die : Nat)
  | gcWin (die gc : Nat)
  | meWin (die me : Nat)
  | regs | reserved
  deriving DecidableEq, Repr

/-- The first device address of the cellar (R649). -/
def cellarBase : Nat := 0x20000000000
/-- The first device address of the local-memory windows (R651). -/
def windowBase : Nat := 0x21000000000
/-- The first device address of register space (R652). -/
def regsBase : Nat := 0x30000000000

/-- The region of a device address (R649, R651). -/
def regionOf (a : Nat) : Region :=
  if a < 0x10000000000 then .hbm
  else if a < 0x20000000000 then .lpx
  else if a < 0x20200000000 then .cellar ((a - cellarBase) / 0x80000000)
  else if a < windowBase then .reserved
  else if a < 0x21040000000 then
    let die := (a - windowBase) / 0x10000000
    let o := (a - windowBase) % 0x10000000
    if o < 0x3000000 then .gcWin die (o / 0x80000)
    else if o < 0x8000000 then .reserved
    else if o < 0xE000000 then .meWin die ((o - 0x8000000) / 0x400000)
    else .reserved
  else if a < regsBase then .reserved
  else if a < 0x30100000000 then .regs
  else .reserved

/-- The window of a general core's local memory (R651). -/
def gcWindow (die gc : Nat) : Nat := windowBase + die * 0x10000000 + gc * 0x80000
/-- The window of a matrix engine's local memory (R651). -/
def meWindow (die me : Nat) : Nat := windowBase + die * 0x10000000 + 0x8000000 + me * 0x400000
/-- The cellar of a die (R123). -/
def cellarOf (die : Nat) : Nat := cellarBase + die * 0x80000000

/-- The first reserve frame of a tier (R559). (Log entry 9, DEDUCED.) -/
def reserveFrame : Nat := 516096

/-- The page table at start: every page at the frame of its own number, page 0 and the reserve frames unmapped
(R559, R650; log entry 9). -/
def Page.atStart (n : Nat) : Page :=
  let f := n % 524288
  ⟨decide (n ≠ 0) && decide (f < reserveFrame), decide (524288 ≤ n), false, f, 0⟩

/-- The page-table entry of a page number (R269). (Log entries 9, DEDUCED; 57, DESIGN CHOICE.) -/
def Work.page (w : Work) (n : Nat) : Page :=
  match w.pages.find? (fun p => p.1 = n) with
  | some p => p.2
  | none => Page.atStart n

/-- The page table with one entry written. -/
def Work.setPage (w : Work) (n : Nat) (p : Page) : Work :=
  { w with pages := sortBy (fun a b => decide (a.1 ≤ b.1)) ((n, p) :: w.pages.filter (fun q => q.1 ≠ n)) }

/-- The 8 B page-table entry of R269. -/
def Page.entry (p : Page) : Nat :=
  (if p.valid then 1 else 0) + (if p.lpx then 2 else 0) + (if p.racking then 4 else 0) + p.frame * 16 +
    p.part * 2 ^ 32

/-- The page-table entry that 8 bytes of the table give; reserved bits read as zero (R269). -/
def Page.ofEntry (x : Nat) : Page := ⟨bitOf x 0, bitOf x 1, bitOf x 2, fieldOf x 4 19, fieldOf x 32 8⟩

/-- An address lies in a page that is being moved: every access to it waits (R269). (Log entry 52, DESIGN CHOICE.) -/
def Work.racking (w : Work) (a : Nat) : Bool := decide (a < cellarBase) && (w.page (a / 0x200000)).racking

/-- n bytes from an address meet a page that is being moved (R269). -/
def Work.rackingIn (w : Work) (a n : Nat) : Bool :=
  (List.range (if n = 0 then 0 else (a + n - 1) / 0x200000 - a / 0x200000 + 1)).any (fun k => w.racking (a + k * 0x200000))

/-- Where a frame's bytes are kept: HBM frames from 0, LPDDR5X frames from 2^40. -/
def frameKey (lpx : Bool) (frame : Nat) : Nat := (if lpx then 0x10000000000 else 0) + frame * 0x200000

/-- The memory byte that a device address names; none for an unmapped page, which page 0 always is, a reserved address or register
space (R115, R650, R654). (Log entry 57, DESIGN CHOICE.) -/
def Work.key (w : Work) (a : Nat) : Option Nat :=
  match regionOf a with
  | .hbm | .lpx =>
    let p := w.page (a / 0x200000)
    if p.valid ∧ 0x200000 ≤ a then some (frameKey p.lpx p.frame + a % 0x200000) else none
  | .cellar _ | .gcWin _ _ | .meWin _ _ => some a
  | .regs | .reserved => none

/-- The byte kept at a memory key. -/
def Work.rb (w : Work) (k : Nat) : Byte := Memory.look w.mem w.jnl k

/-- The byte at a memory key stored. -/
def Work.wb (w : Work) (k : Nat) (b : Byte) : Work := { w with jnl := .store k b :: w.jnl }

/-- A memory key lies in the local memory of a matrix engine. -/
def inMeWindow (k : Nat) : Bool :=
  match regionOf k with
  | .meWin _ _ => true
  | _ => false

/-- Whether the word of a memory key reads as zeros: the 64 B row, or in a matrix engine the 16 B bank word (R155, R193,
R220, R563). (Log entry 35, DEDUCED.) -/
def Work.isBad (w : Work) (k : Nat) : Bool :=
  if inMeWindow k then w.badWords.contains (k / 16) else w.bad.contains (k / 64)

/-- The word of a memory key marked as reading zeros. -/
def Work.poisonRow (w : Work) (k : Nat) : Work :=
  if inMeWindow k then { w with badWords := setInsert w.badWords (k / 16) } else { w with bad := setInsert w.bad (k / 64) }

/-- The mark of a memory key's row removed. -/
def Work.curePoison (w : Work) (k : Nat) : Work := { w with bad := w.bad.filter (fun r => r ≠ k / 64) }

/-- The byte read at a device address: zero in a row that reads as zeros, and the entry bytes where the page
table itself is read (R269). (Log entry 35, DEDUCED.) -/
def Work.readByte (w : Work) (a : Nat) : Option Byte :=
  let pt := w.dv F.strmPtBase
  match w.key a with
  | none => none
  | some k =>
    if pt ≠ 0 ∧ inRange pt 0x800000 a then
      some (BitVec.ofNat 8 ((w.page ((a - pt) / 8)).entry >>> (8 * ((a - pt) % 8))))
    else if w.isBad k then some 0 else some (w.rb k)

/-- The n bytes at a device address; none when any byte is unmapped. -/
def Work.read (w : Work) (a : Nat) : Nat → Option (List Byte)
  | 0 => some []
  | n + 1 =>
    match w.readByte a, Work.read w (a + 1) n with
    | some b, some bs => some (b :: bs)
    | _, _ => none

/-- The little-endian value of n bytes at a device address. -/
def Work.readLE (w : Work) (a n : Nat) : Option Nat := (w.read a n).map ofBytes

/-- The 64 B record at a device address. -/
def Work.readRec (w : Work) (a : Nat) : Option Rec := (w.readLE a 64).map (BitVec.ofNat 512)

/-- The memory rows that n bytes from a device address meet. -/
def Work.rowsOf (w : Work) (a n : Nat) : List Nat :=
  if n = 0 then []
  else ((List.range ((a + n - 1) / 64 - a / 64 + 1)).map (fun k => w.key ((a / 64 + k) * 64))).filterMap
    (fun k => k.map (· / 64))

/-- The words of matrix-engine memory that n bytes from an address meet and that read as zeros (R193).
(Log entry 35, DEDUCED.) -/
def Work.badWordsIn (w : Work) (a n : Nat) : List Nat :=
  if n = 0 then []
  else ((List.range ((a + n - 1) / 16 - a / 16 + 1)).map (a / 16 + ·)).filter w.badWords.contains

/-- How many 64 B rows of n bytes from a device address read as zeros, or have a part of these bytes that does. -/
def Work.badRows (w : Work) (a n : Nat) : Nat :=
  if inMeWindow a then ((w.badWordsIn a n).map (· / 4)).eraseDups.length
  else ((w.rowsOf a n).filter (fun r => w.bad.contains r)).length

/-- Every byte of a range is mapped memory. -/
def Work.mapped (w : Work) (a n : Nat) : Bool :=
  (List.range (if n = 0 then 0 else (a + n - 1) / 64 - a / 64 + 1)).all
    (fun k => (w.key ((a / 64 + k) * 64)).isSome)

/-- An address lies in a descriptor-table page (R100). (Log entry 54, DEDUCED.) -/
def Work.isDtPage (w : Work) (a : Nat) : Bool := decide (a < cellarBase) && w.dtPages.contains (a / 0x200000)

/-- One byte stored at a device address: a byte without memory is dropped, and so is one of a descriptor-table page,
which the stream engine alone writes (R100). -/
def Work.put (w : Work) (a : Nat) (f : Byte → Byte) : Work :=
  if w.isDtPage a then { w with dtHit := true }
  else
    match w.key a with
    | some k => w.wb k (f (w.rb k))
    | none => w

/-- A byte that management firmware stores: one of the page table changes its entry, which only firmware writes (R269).
(Log entry 9, DEDUCED.) -/
def Work.putFirmware (w : Work) (a : Nat) (b : Byte) : Work :=
  let pt := w.dv F.strmPtBase
  if pt ≠ 0 ∧ inRange pt 0x800000 a then
    let n := (a - pt) / 8
    let lo := 8 * ((a - pt) % 8)
    let x := (w.page n).entry
    w.setPage n (Page.ofEntry (x - fieldOf x lo 8 * 2 ^ lo + b.toNat * 2 ^ lo))
  else w.put a (fun _ => b)

/-- Bytes stored at a device address, each where its page lies. -/
def Work.write (w : Work) (a : Nat) : List Byte → Work
  | [] => w
  | b :: bs => Work.write (w.put a (fun _ => b)) (a + 1) bs

/-- A little-endian value stored at a device address. -/
def Work.writeLE (w : Work) (a n v : Nat) : Work := w.write a (toBytes n v)

/-- Bytes copied from one device address to another, as they were before the copy. -/
def Work.move (w : Work) (src dst n : Nat) : Work :=
  match w.read src n with
  | some bs => w.write dst bs
  | none => w

/-- A byte of a sub-byte element merged in place (R111): bits [lo + n - 1 : lo] of the byte. -/
def mergeByte (old : Byte) (lo n v : Nat) : Byte :=
  BitVec.ofNat 8 (old.toNat - fieldOf old.toNat lo n * 2 ^ lo + (v % 2 ^ n) * 2 ^ lo)

/-! ## Cores, contexts and the other units, by die and number -/

/-- A general core at reset: general registers zero, machine mode, vtype illegal (R217; log entry 1). -/
def Core.atReset : Core :=
  { x := [], f := [], v := [], pc := 0, fcsr := 0, vl := 0, vtype := 2 ^ 63, vstart := 0, vcsr := 0, vhseed := 0,
    tapout := 0, tapdone := 0, user := false, resv := none, icache := [], instret := 0, mcause := 0,
    mepc := 0, mtval := 0, halted := false, wait := .none, taps := [], ended := none }

/-- A free stream context (R245). -/
def Ctx.atReset : Ctx :=
  { st := .free, pc := 0, a := [0, 0, 0, 0, 0, 0, 0, 0], l := [0, 0, 0, 0, 0, 0], n := [0, 0, 0, 0, 0, 0],
    delivered := 0, status := 0, faultAddr := 0, desc := [], plan := 0, done := 0, halts := 0, poison := 0,
    started := 0, emits := [], touched := [], noArrive := false, task := none, chain := none }

/-- A bank at its own physical place, in service. -/
def Bank.atReset : Bank := ⟨false, 0, [], 0⟩
/-- A barrier without arrivals. -/
def Barrier.atReset : Barrier := ⟨[], []⟩
/-- An empty descriptor slot. -/
def Slot.atReset : Slot := ⟨.empty, 0⟩
/-- An empty dispatcher. -/
def Disp.atReset : Disp :=
  { levels := List.replicate 16 [], delay := [], slot := [], run := [], streams := [], held := [], guard := [],
    busy := [], bins := [], past := [], turn := 0 }
/-- A plan number without a plan. -/
def Plan.atReset : Plan :=
  { image := none, imageBytes := [], pending := 0, reply := none, faulting := 0, purging := false, overruns := 0,
    standing := false }

/-- General core g of die d. -/
def Work.core (w : Work) (d g : Nat) : Core := smGet Core.atReset w.cores (d * 96 + g)
/-- General core g of die d replaced. -/
def Work.setCore (w : Work) (d g : Nat) (c : Core) : Work :=
  { w with cores := smSet Core.atReset w.cores (d * 96 + g) c }
/-- Stream context c of die d. -/
def Work.ctx (w : Work) (d c : Nat) : Ctx := smGet Ctx.atReset w.ctxs (d * 256 + c)
/-- Stream context c of die d replaced. -/
def Work.setCtx (w : Work) (d c : Nat) (x : Ctx) : Work :=
  { w with ctxs := smSet Ctx.atReset w.ctxs (d * 256 + c) x }
/-- Data bank b of cellar die d. -/
def Work.bank (w : Work) (d b : Nat) : Bank := smGet Bank.atReset w.dataBanks (d * 1024 + b)
/-- Data bank b of cellar die d replaced. -/
def Work.setBank (w : Work) (d b : Nat) (x : Bank) : Work :=
  { w with dataBanks := smSet Bank.atReset w.dataBanks (d * 1024 + b) x }
/-- Stage barrier b. -/
def Work.bar (w : Work) (b : Nat) : Barrier := smGet Barrier.atReset w.bars b
/-- Stage barrier b replaced. -/
def Work.setBar (w : Work) (b : Nat) (x : Barrier) : Work := { w with bars := smSet Barrier.atReset w.bars b x }
/-- The dispatcher of die d. -/
def Work.disp (w : Work) (d : Nat) : Disp := smGet Disp.atReset w.disps d
/-- The dispatcher of die d replaced. -/
def Work.setDisp (w : Work) (d : Nat) (x : Disp) : Work := { w with disps := smSet Disp.atReset w.disps d x }
/-- Plan number p. -/
def Work.plan (w : Work) (p : Nat) : Plan := smGet Plan.atReset w.plans p
/-- Plan number p replaced. -/
def Work.setPlan (w : Work) (p : Nat) (x : Plan) : Work := { w with plans := smSet Plan.atReset w.plans p x }
/-- Slot h of a descriptor table (R98). -/
def Work.slot (w : Work) (p h : Nat) : Slot := smGet Slot.atReset w.slots (p * 65536 + h)
/-- Slot h of a descriptor table replaced. -/
def Work.setSlot (w : Work) (p h : Nat) (x : Slot) : Work :=
  { w with slots := smSet Slot.atReset w.slots (p * 65536 + h) x }

/-- The number of management firmware's own descriptor table (R98). -/
def firmwareTable : Nat := 16
/-- The plan number of an issuer that runs no plan's task: it names no table. -/
def noPlan : Nat := 17

/-- The tick count. -/
def Work.tickNo (w : Work) : Nat := w.dv F.timeTickCountCount
/-- TIME_NOW. (Log entry 10, DESIGN CHOICE.) -/
def Work.now (w : Work) : Nat := w.dv F.timeNowNowNs
/-- The tick period P (R28). -/
def Work.period (w : Work) : Nat := w.dv F.timeTickPeriodPeriodNs
/-- C of R32: the end of the commit phase. -/
def commitEnd (p : Nat) : Nat := ceilDiv p 50
/-- G of R32: the start of the guard phase. -/
def guardStart (p : Nat) : Nat := p - ceilDiv (3 * p) 100

/-- Time moves on to an offset within the epoch; it never goes back, and in a ticking device it stays short of the next
tick (R31). (Log entry 10, DESIGN CHOICE.) -/
def Work.atNs (w : Work) (ns : Nat) : Work :=
  let ns := if w.time.ticked then min ns (w.period - 1) else ns
  w.wr F.timeNowNowNs 0 0 (max w.now (w.time.lastTick + ns))

/-- Nanoseconds after the tick that opened the epoch. -/
def Work.phase (w : Work) : Nat := w.now - w.time.lastTick

/-- The device id (R10). -/
def Work.deviceId (w : Work) : Nat := w.dv F.bootIdentityDevice

/-- States of RST_STATE.STATE (R570). -/
abbrev stOff : Nat := 0
/-- STARTING. -/
abbrev stStarting : Nat := 1
/-- SHARED. -/
abbrev stShared : Nat := 2
/-- RUNNING. -/
abbrev stRunning : Nat := 3
/-- DEGRADED. -/
abbrev stDegraded : Nat := 4
/-- MIRROR. -/
abbrev stMirror : Nat := 5
/-- REST. -/
abbrev stRest : Nat := 6

/-- RST_STATE.STATE. -/
def Work.devState (w : Work) : Nat := w.dv F.rstStateState

/-- The chain on a core. (Log entry 53, DEDUCED.) -/
def Work.chainAt (w : Work) (d g : Nat) : Option Chain := (w.chains.find? (fun p => p.1 = d * 96 + g)).map (·.2)

/-- The plan an issuer acts for: of a core, the plan of the task it runs; of a stream, the plan that started it;
firmware's own table otherwise (R98). -/
def Work.planOf (w : Work) : Issuer → Nat
  | .core d g =>
    match w.chainAt d g, smGet [] (w.disp d).run g with
    | some x, t :: _ => if x.called then x.plan else t.plan
    | some x, [] => x.plan
    | none, t :: _ => t.plan
    | none, [] => noPlan
  | .stream d c => (w.ctx d c).plan
  | .firmware _ _ => firmwareTable

/-- The die whose unit an issuer uses. -/
def issDie : Issuer → Nat
  | .core d _ => d
  | .stream d _ => d
  | .firmware _ d => d

/-- A plan to become FAULTED at the next tick, with the status that caused it (R296). -/
def Work.faultPlan (w : Work) (p st : Nat) : Work :=
  if p < 16 then
    let x := w.plan p
    if x.faulting = 0 then w.setPlan p { x with faulting := st } else w
  else w

/-! ## Float additions in no fixed order, and the form of a meaning -/

/-- A list in an order that free values choose, and their counter after it. (Log entry 39, DESIGN CHOICE.) -/
def shuffleFree {α : Type} : Nat → Nat → List α → List α × Nat
  | 0, c, xs => (xs, c)
  | n + 1, c, xs =>
    let i := (Config.freeValue 32 c).toNat % xs.length
    match xs[i]? with
    | none => (xs, c)
    | some x =>
      let (ys, c) := shuffleFree n (c + 1) (xs.eraseIdx i)
      (x :: ys, c)

/-- One float element increased in place, rounded once into its type (R109). -/
def Work.addFloat (w : Work) (x : ETy × Nat × Nat) : Work :=
  let n := x.1.width / 8
  match w.readLE x.2.1 n with
  | some old => w.writeLE x.2.1 n (combineElem x.1 1 old x.2.2).1
  | none => w

/-- The float additions of a command take effect: in an order that is not fixed where one element gets several
(R94, R109). (Log entry 39, DESIGN CHOICE.) -/
def Work.flushAdds (w : Work) : Work :=
  if w.adds.isEmpty then w
  else
    let xs := w.adds.reverse
    let at_ := xs.map (fun x => x.2.1)
    let (ys, c) := if at_.eraseDups.length = at_.length then (xs, w.free) else shuffleFree xs.length w.free xs
    ys.foldl Work.addFloat { w with adds := [], free := c }

/-- The state after a command's effect: the queue is not the command's to change. (Log entry 26, DESIGN CHOICE.) -/
def State.on (f : Work → Work) (s : State) : State :=
  let w := (f s.work).flushAdds.cureWords.dropReservations
  { toBlock := w.toBlock, mem := Memory.commit s.mem w.jnl, pending := s.pending }

/-- The one form of every meaning: a command that names only what the module has takes its effect in one step.
(Log entries 16, DESIGN CHOICE; 17, DESIGN CHOICE.) -/
def State.perform (i : Instr) (f : Work → Work) (s : State) : Out :=
  if i.wf then .next (s.on f) else .fault .illFormed

/-- A message or frame that leaves the module is appended to the model's log. (Log entry 18, DESIGN CHOICE.) -/
def Work.emitMsg (w : Work) (port : Nat) (m : Msg) : Work := { w with out := (port, m) :: w.out }

end Sys2Proof.Machine
end

