-- ==== Sys2Proof/Machine/Flags.lean ====
section
/-! DEFINITION. Status codes (R15), the choice among several failures (R18), and the counters of the units in
which saturations, wraps and further failures are counted (R564). -/

namespace Sys2Proof.Machine

/-- The code of a status (R15). -/
def statusCode : Status → Nat
  | .ok => 0x0000
  | .stateReject => 0x0101
  | .descRange => 0x0201
  | .descAlias => 0x0202
  | .noGain => 0x0301
  | .outFull => 0x0302
  | .checkFail => 0x0303
  | .ratioLimit => 0x0304
  | .pageFault => 0x0401
  | .pageUnmapped => 0x0402
  | .tickOverrun => 0x0501
  | .fenced => 0x0601
  | .noSpare => 0x0602
  | .conflict => 0x0701
  | .staleDrop => 0x0801
  | .rowReject => 0x0901
  | .authFail => 0x0A01
  | .nvwInhibit => 0x0B01
  | .tieSpill => 0x0C01

/-- OK. -/
abbrev sOk : Nat := 0x0000
/-- STATE_REJECT. -/
abbrev sState : Nat := 0x0101
/-- DESC_RANGE. -/
abbrev sRange : Nat := 0x0201
/-- DESC_ALIAS. -/
abbrev sAlias : Nat := 0x0202
/-- NO_GAIN. -/
abbrev sNoGain : Nat := 0x0301
/-- OUT_FULL. -/
abbrev sFull : Nat := 0x0302
/-- CHECK_FAIL. -/
abbrev sCheck : Nat := 0x0303
/-- RATIO_LIMIT. -/
abbrev sRatio : Nat := 0x0304
/-- PAGE_FAULT. -/
abbrev sPageFault : Nat := 0x0401
/-- PAGE_UNMAPPED. -/
abbrev sUnmapped : Nat := 0x0402
/-- TICK_OVERRUN. -/
abbrev sOverrun : Nat := 0x0501
/-- FENCED. -/
abbrev sFenced : Nat := 0x0601
/-- NO_SPARE. -/
abbrev sNoSpare : Nat := 0x0602
/-- CONFLICT. -/
abbrev sConflict : Nat := 0x0701
/-- STALE_DROP. -/
abbrev sStale : Nat := 0x0801
/-- ROW_REJECT. -/
abbrev sReject : Nat := 0x0901
/-- AUTH_FAIL. -/
abbrev sAuth : Nat := 0x0A01
/-- NVW_INHIBIT. -/
abbrev sNvw : Nat := 0x0B01
/-- TIE_SPILL. -/
abbrev sTie : Nat := 0x0C01

/-- One check: it fails with a code when its condition does not hold. -/
def chk (ok : Bool) (code : Nat) : List Nat := if ok then [] else [code]

/-- The numerically lowest failure, TIE_SPILL only when no failure code applies, OK when there is none
(R17, R18). (Log entry 28, DEDUCED.) -/
def lowest (fs : List Nat) : Nat :=
  let gs := fs.filter (fun c => c ≠ sOk)
  let real := gs.filter (fun c => c ≠ sTie)
  match real with
  | x :: xs => xs.foldl min x
  | [] => if gs.isEmpty then sOk else sTie

/-- The failures beyond the one that is reported (R18). (Log entry 28, DEDUCED.) -/
def furtherCount (fs : List Nat) : Nat := (fs.filter (fun c => c ≠ sOk ∧ c ≠ sTie)).length - 1

/-- The units that keep error counters of their own (R564), and those that R564 does not name but that can meet a further
failure: a dispatcher, the frame path and the management complex. (Log entry 28, DEDUCED.) -/
inductive CntUnit where
  | gc (die gc : Nat)
  | me (die me : Nat)
  | cellar (die : Nat)
  | mtch (die : Nat)
  | strm (die : Nat)
  | codec (die : Nat) (press : Bool)
  | kupel (port : Nat)
  | disp (die : Nat)
  | frm
  | mgmt
  deriving DecidableEq, Repr

/-- The place of a unit's count of further failures. -/
def CntUnit.key : CntUnit → Nat
  | .gc d g => d * 96 + g
  | .me d m => 384 + d * 24 + m
  | .cellar d => 480 + d
  | .mtch d => 484 + d
  | .strm d => 488 + d
  | .codec d press => 492 + 2 * d + if press then 1 else 0
  | .kupel p => 500 + p
  | .disp d => 524 + d
  | .frm => 528
  | .mgmt => 529

/-- Elements saturated by a unit: in the register that counts them where the unit has one, and in the epoch's
total for ERR_SUM.SAT (R70, R564). -/
def Work.countSat (w : Work) (u : CntUnit) (n : Nat) : Work :=
  if n = 0 then w
  else
    let w := { w with errs := { w.errs with sat := w.errs.sat + n } }
    match u with
    | .gc d g => w.bump F.gcErrSatCount d g n
    | .me d m => w.bump F.meErrSatCount d m n
    | _ => w

/-- Elements reached through reduced indices, counted for the issuing unit (R114, R564). -/
def Work.countWrap (w : Work) (u : CntUnit) (n : Nat) : Work :=
  if n = 0 then w
  else
    let w := { w with errs := { w.errs with wrap := w.errs.wrap + n } }
    match u with
    | .gc d g => w.bump F.gcWrapWrapCount d g n
    | _ => w

/-- The further failures that a unit has met since reset (R18, R564). (Log entry 28, DEDUCED.) -/
def Work.furtherOf (w : Work) (u : CntUnit) : Nat := smGet 0 w.errs.further u.key

/-- Further failures under R18, counted for the unit that met them; the spec gives them no register field.
(Log entry 28, DEDUCED.) -/
def Work.countFurther (w : Work) (u : CntUnit) (fs : List Nat) : Work :=
  { w with errs := { w.errs with further := smSet 0 w.errs.further u.key (w.furtherOf u + furtherCount fs) } }

/-- The unit whose counters an issuer's operations count in. -/
def issCounter : Issuer → CntUnit
  | .core d g => .gc d g
  | .stream d _ => .strm d
  | .firmware _ d => .strm d

end Sys2Proof.Machine
end

