-- ==== Sys2Proof/Machine/Operands.lean ====
section
/-! DEFINITION. Operands in memory: tensor descriptors and their validation, elements read and written through
them, and gather and scatter lists (chapter 04). -/

namespace Sys2Proof.Machine

/-- A descriptor record, field by field (R95). A reserved TYPE is none. -/
structure Desc where
  base : Nat
  bitOff : Nat
  ty : Option ETy
  rank : Nat
  write : Bool
  allocBase : Nat
  allocLen : Nat
  wrap : Bool
  combine : Nat
  size : List Nat
  stride : List Int
  reservedZero : Bool
  deriving DecidableEq, Repr

/-- The lowest bit of SIZE k and of STRIDE k (R95). -/
def sizeLo (k : Nat) : Nat := 164 + 58 * k

/-- The fields of a descriptor record (R95): sizes and strides of the dimensions below RANK. -/
def Desc.ofRec (r : Rec) : Desc :=
  let rank := recF r 62 60
  let ks := List.range (min rank 6)
  { base := recF r 51 0, bitOff := recF r 54 52, ty := ETy.ofCode (recF r 59 55), rank := rank,
    write := recB r 63, allocBase := recF r 115 64, allocLen := recF r 156 116, wrap := recB r 157,
    combine := recF r 160 158,
    size := ks.map (fun k => fieldOf r.toNat (sizeLo k) 26),
    stride := ks.map (fun k => sext 32 (fieldOf r.toNat (sizeLo k + 26) 32)),
    reservedZero := decide (recF r 163 161 = 0) &&
      (List.range 6).all (fun k => decide (k < rank) || decide (fieldOf r.toNat (sizeLo k) 58 = 0)) }

/-- The element width in bits (R97). -/
def Desc.w (d : Desc) : Nat :=
  match d.ty with
  | some t => t.width
  | none => 8

/-- The number of elements. -/
def Desc.count (d : Desc) : Nat := d.size.foldl (· * ·) 1

/-- The element offset of an index tuple: the sum of the products of R96. -/
def dot : List Nat → List Int → Int
  | i :: is, s :: ss => i * s + dot is ss
  | _, _ => 0

/-- The bit address of an element (R96). -/
def Desc.bitAddr (d : Desc) (idx : List Nat) : Nat :=
  (8 * (d.base : Int) + d.bitOff + d.w * dot idx d.stride).toNat

/-- The index tuple of the n-th element in canonical order (R96). -/
def unflatten : List Nat → Nat → List Nat
  | [], _ => []
  | s :: ss, n => n % s :: unflatten ss (n / s)

/-- The bit address of the n-th element in canonical order. -/
def Desc.at (d : Desc) (n : Nat) : Nat := d.bitAddr (unflatten d.size n)

/-- An index reduced into a dimension, and whether it had to be (R113). -/
def reduceIdx (i : Int) (n : Nat) : Nat × Bool :=
  let r := (i % (n : Int)).toNat
  (r, decide ((r : Int) ≠ i))

/-- An index tuple reduced dimension by dimension; whether any was. -/
def reduceAll : List Int → List Nat → List Nat × Bool
  | i :: is, n :: ns =>
    let (r, b) := reduceIdx i n
    let (rs, c) := reduceAll is ns
    (r :: rs, b || c)
  | _, _ => ([], false)

/-- The reach of a descriptor in elements below and above its first (R104). -/
def Desc.reach (d : Desc) : Int × Int :=
  (d.size.zip d.stride).foldl (fun (p : Int × Int) x =>
    let step := x.2 * ((x.1 : Int) - 1)
    if x.2 < 0 then (p.1 + step, p.2) else (p.1, p.2 + step)) (0, 0)

/-- The aliasing test of R106. -/
def Desc.aliasFree (d : Desc) : Bool :=
  let kept := ((d.size.zip d.stride).filter (fun x => x.1 ≠ 1)).map (fun x => (x.2.natAbs, x.1))
  let sorted := sortBy (fun a b => decide (a.1 ≤ b.1)) kept
  (sorted.foldl (fun (p : Bool × Nat) x =>
    (p.1 && decide (p.2 + 1 ≤ x.1), p.2 + x.1 * (x.2 - 1))) (true, 0)).1

/-- Whether [lo, lo + len) lies wholly in granted ranges (R672): the covered prefix is pushed on, once for each
range at most. -/
def covered (rs : List Range) (lo len : Nat) : Bool :=
  let hi := lo + len
  let top := rs.foldl (fun p _ => rs.foldl (fun q r => if inRange r.lo r.len q then r.lo + r.len else q) p) lo
  decide (hi ≤ top)

/-- An allocation whose last byte lies in the transpose staging area of a matrix engine (R191). -/
def reachesStaging (a : Nat) : Bool :=
  match regionOf a with
  | .meWin _ _ => decide (0x3F8000 ≤ a % 0x400000)
  | _ => false

/-- Both ends of an allocation lie in one region of the device map, which holds memory, outside every transpose staging
area (R103, R191). -/
def oneRegion (lo len : Nat) : Bool :=
  let a := regionOf lo
  decide (0 < len) && decide (lo + len ≤ 2 ^ 52) && decide (a = regionOf (lo + len - 1)) && decide (a ≠ .regs) &&
    decide (a ≠ .reserved) && !reachesStaging (lo + len - 1)

/-- The memory partition of a plan number. (Log entry 29, DESIGN CHOICE.) -/
def Work.partition (w : Work) (p : Nat) : Partition := smGet ⟨[], []⟩ w.parts p

/-- An allocation lies in the partition of a plan; firmware's is the whole map (R98, R672).
(Log entry 29, DESIGN CHOICE.) -/
def Work.granted (w : Work) (p lo len : Nat) : Bool :=
  if p = firmwareTable then true else covered (w.partition p).ranges lo len

/-- The checks of R103, as the failures they give; under a reserved TYPE the checks that need the type cannot be made. -/
def Work.validate (w : Work) (p : Nat) (r : Rec) : List Nat :=
  let d := Desc.ofRec r
  let shapeOk := decide (1 ≤ d.rank) && decide (d.rank ≤ 6) && d.size.all (fun n => decide (1 ≤ n))
  chk d.reservedZero sRange ++ chk shapeOk sRange ++
  chk (decide (d.combine ≤ 4) && (d.write || decide (d.combine = 0))) sRange ++
  chk (oneRegion d.allocBase d.allocLen && w.granted p d.allocBase d.allocLen) sRange ++
  chk (!shapeOk || !d.write || decide (d.combine ≠ 0) || d.aliasFree) sAlias ++
  match d.ty with
  | none => [sRange]
  | some t =>
    let (lo, hi) := d.reach
    let first : Int := 8 * (d.base : Int) + d.bitOff + d.w * lo
    let last : Int := 8 * (d.base : Int) + d.bitOff + d.w * hi + d.w - 1
    chk (if t.width = 4 then decide (d.bitOff % 4 = 0) else if t.width = 1 then true else decide (d.bitOff = 0)) sRange ++
    chk (decide (t.width < 16) || decide (d.base % (t.width / 8) = 0)) sRange ++
    chk (!(decide (t = .varbin) && d.write)) sRange ++
    chk (!t.isMx || (decide (d.stride.head? = some 1) && decide ((d.size.headD 0) % 32 = 0))) sRange ++
    chk (!shapeOk || (decide (8 * (d.allocBase : Int) ≤ first) &&
      decide (last ≤ 8 * ((d.allocBase : Int) + d.allocLen) - 1))) sRange ++
    chk (decide (d.combine = 0) || decide (d.combine = 4) || decide (5 ≤ d.combine) || t.combinable) sAlias

/-- The slots of a descriptor table: management firmware's has 65,535, and a plan's as many as its image gives, at most as
many (R98, R101). (Log entry 157, DESIGN CHOICE.) -/
def Work.tableSlots (w : Work) (p : Nat) : Nat :=
  match (w.plan p).image with
  | some i => if p < 16 then min i.slots 65535 else 65535
  | none => 65535

/-- A handle names a slot of a table (R101). (Log entry 157, DESIGN CHOICE.) -/
def Work.handleOk (w : Work) (p h : Nat) : Bool := decide (h < w.tableSlots p) && decide (p < noPlan)

/-- The slots of handles, as an operation finds them when it is issued (R102). -/
def Work.hold (w : Work) (p : Nat) (hs : List Nat) : Held := hs.map (fun h => (h, w.slot p h))

/-- The block as an operation sees it that was issued with these slots (R102). -/
def Work.lend (w : Work) (p : Nat) (held : Held) : Work := held.foldl (fun w x => w.setSlot p x.1 x.2) w

/-- An operation that was issued with these slots takes its effect (R102). -/
def Work.with (w : Work) (p : Nat) (held : Held) (f : Work → Work) : Work :=
  { f (w.lend p held) with slots := w.slots }

/-- The descriptor that a handle names in a plan's table; none for a handle that names no usable slot (R101). -/
def Work.desc (w : Work) (p h : Nat) : Option Desc :=
  if w.handleOk p h = false then none
  else
    let s := w.slot p h
    if s.st = .empty then none else some (Desc.ofRec s.desc)

/-! ## Elements -/

/-- The element of n bits at a bit address; none when its byte is unmapped. The second part says that it lies in
a row delivered as zeros. -/
def Work.readBits (w : Work) (bit n : Nat) : Option (Nat × Bool) :=
  let a := bit / 8
  let len := ceilDiv (bit % 8 + n) 8
  (w.readLE a len).map (fun v => (fieldOf v (bit % 8) n, decide (0 < w.badRows a len)))

/-- The element of n bits at a bit address written; a sub-byte element merges into its byte (R111). -/
def Work.writeBits (w : Work) (bit n v : Nat) : Work :=
  let a := bit / 8
  if n < 8 then w.put a (fun old => mergeByte old (bit % 8) n v) else w.writeLE a (n / 8) v

/-- Element n of a descriptor in canonical order: zero where unmapped. -/
def Work.elem (w : Work) (d : Desc) (n : Nat) : Nat :=
  match w.readBits (d.at n) d.w with
  | some (v, _) => v
  | none => 0

/-- Whether element n of a descriptor is delivered as zeros. -/
def Work.elemBad (w : Work) (d : Desc) (n : Nat) : Bool :=
  match w.readBits (d.at n) d.w with
  | some (_, b) => b
  | none => true

/-- The bit that follows a descriptor's last element (R104). -/
def Desc.endBit (d : Desc) : Int := 8 * (d.base : Int) + d.bitOff + d.w * d.reach.2 + d.w

/-- The element at a bit address of a descriptor stored: where a packed array ends partway through a byte, its last element
takes the unused bits along as zeros (R66). (Log entry 158, DEDUCED.) -/
def Work.storeBits (w : Work) (d : Desc) (bit v : Nat) : Work :=
  if d.w < 8 ∧ ((bit + d.w : Nat) : Int) = d.endBit then w.writeBits bit (8 - bit % 8) (v % 2 ^ d.w)
  else w.writeBits bit d.w v

/-- An element written under the COMBINE mode of its descriptor (R74, R108); whether an integer sum saturated. A float
addition takes its effect at the end of the command, in no fixed order (R109). (Log entry 39, DESIGN CHOICE.) -/
def Work.combineAt (w : Work) (d : Desc) (bit v : Nat) : Work × Bool :=
  match d.ty with
  | none => (w, false)
  | some t =>
    if d.combine = 0 ∨ d.combine = 4 then (w.storeBits d bit (t.passOn v), false)
    else if d.combine = 1 ∧ t.fmt?.isSome = true then
      if w.isDtPage (bit / 8) then ({ w with dtHit := true }, false)
      else ({ w with adds := (t, bit / 8, v) :: w.adds }, false)
    else
      match w.readBits bit d.w with
      | some (old, _) =>
        let (x, s) := combineElem t d.combine old v
        (w.storeBits d bit x, s)
      | none => (w, false)

/-- Element n of a descriptor written as it stands. -/
def Work.setElem (w : Work) (d : Desc) (n v : Nat) : Work := w.storeBits d (d.at n) v

/-- Elements 0 to n - 1 of a descriptor read. -/
def Work.elems (w : Work) (d : Desc) (start n : Nat) : List Nat :=
  (List.range n).map (fun i => w.elem d (start + i))

/-- Consecutive elements written, from element `start`. -/
def Work.setElems (w : Work) (d : Desc) (start : Nat) : List Nat → Work
  | [] => w
  | v :: vs => Work.setElems (w.setElem d start v) d (start + 1) vs

/-- A byte address inside a UINT8 descriptor of rank 1. -/
def Desc.byteAt (d : Desc) (off : Nat) : Nat := d.at off / 8

/-- Bytes of a rank-1 UINT8 descriptor, zero where unmapped. -/
def Work.descBytes (w : Work) (d : Desc) (off n : Nat) : List Byte :=
  (List.range n).map (fun i => BitVec.ofNat 8 (w.elem d (off + i)))

/-- The little-endian value of bytes of a UINT8 descriptor. (Log entry 35, DEDUCED.) -/
def Work.descLE (w : Work) (d : Desc) (off n : Nat) : Nat := ofBytes (w.descBytes d off n)

/-- Bytes written into a UINT8 descriptor. -/
def Work.setDescBytes (w : Work) (d : Desc) (off : Nat) (bs : List Byte) : Work :=
  w.setElems d off (bs.map (·.toNat))

/-- Bytes written through a UINT8 descriptor under its COMBINE mode (R108), and how many sums saturated (R70).
(Log entry 36, DEDUCED.) -/
def Work.putBytes (w : Work) (d : Desc) (off : Nat) (bs : List Byte) : Work × Nat :=
  (List.range bs.length).foldl (fun (p : Work × Nat) k =>
    let (w, s) := p.1.combineAt d (d.at (off + k)) (getAt 0 bs k).toNat
    (w, p.2 + if s then 1 else 0)) (w, 0)

/-- Whether any byte of an allocation is unmapped. -/
def Work.descUnmapped (w : Work) (d : Desc) : Bool := !w.mapped d.allocBase d.allocLen

/-! ## Blocks and gather or scatter lists (R116 to R119) -/

/-- The index tuples of a block with the given extents, dimension 0 fastest. -/
def blockTuples : List Nat → List (List Nat)
  | [] => [[]]
  | b :: bs => (blockTuples bs).flatMap (fun t => (List.range b).map (fun i => i :: t))

/-- The bit addresses of a block from starting indices, reduced under R113; how many were reached through a
reduced index. -/
def Desc.blockBits (d : Desc) (start : List Int) (ext : List Nat) : List Nat × Nat :=
  let xs := (blockTuples (ext.take d.rank)).map (fun t =>
    reduceAll ((start.zip t).map (fun p => p.1 + (p.2 : Int))) d.size)
  (xs.map (fun x => d.bitAddr x.1), (xs.filter (fun x => x.2)).length)

/-- The header of a gather or scatter list (R116). -/
structure GList where
  desc : Nat
  rank : Nat
  count : Nat
  ext : List Nat
  reservedZero : Bool
  deriving DecidableEq, Repr

/-- The header of R116 from its 32 bytes. -/
def GList.ofBytes (bs : List Byte) : GList :=
  let x := Machine.ofBytes bs
  { desc := fieldOf x 0 16, rank := fieldOf x 16 3, count := fieldOf x 32 32,
    ext := (List.range 6).map (fun k => fieldOf x (64 + 16 * k) 16 + 1),
    reservedZero := decide (fieldOf x 19 13 = 0) && decide (fieldOf x 160 96 = 0) }

/-- The checks of R119 on a list header against its target; a COUNT above the range that R116 gives it fails like one of
zero. (Log entry 159, DESIGN CHOICE.) -/
def GList.check (g : GList) (t : Option Desc) (scatter : Bool) : List Nat :=
  match t with
  | none => [sState] ++ chk (decide (1 ≤ g.count) && g.reservedZero) sRange
  | some d =>
    chk (!scatter || d.write) sState ++
    chk (decide (g.rank = d.rank) && decide (1 ≤ g.count) && decide (g.count ≤ 16777216) && g.reservedZero &&
      ((g.ext.take d.rank).zip d.size).all (fun p => decide (p.1 ≤ p.2)) &&
      (g.ext.drop d.rank).all (fun b => decide (b = 1))) sRange

/-- The entry coordinates of entry k of a list whose bytes begin at a device address; none for an absent entry
(R117, R118). -/
def Work.listEntry (w : Work) (addr rank k : Nat) : Option (List Nat) :=
  match w.read (addr + 32 + 2 * rank * k) (2 * rank) with
  | none => none
  | some bs =>
    let cs := (List.range rank).map (fun j => leAt bs (2 * j) 2)
    if cs.all (fun c => c = 0xFFFF) then none else some cs

/-- The block that an entry names (R117): starting index in dimension k is the coordinate times the extent. -/
def GList.start (g : GList) (cs : List Nat) : List Int := (cs.zip g.ext).map (fun p => (p.1 * p.2 : Nat))

/-- The absent-index sentinels (R14). -/
def absent32 : Nat := 0xFFFFFFFF
/-- The 64-bit absent-index sentinel (R14). -/
def absent64 : Nat := 0xFFFFFFFFFFFFFFFF

end Sys2Proof.Machine
end

