-- ==== Sys2Proof/Machine/Post.lean ====
section
/-! DEFINITION. What units post: event occurrences (R585 to R589), completion records (R675) and KFP messages
(R503, R513, R521, R601). -/

namespace Sys2Proof.Machine

/-! ## Events -/

/-- Reserved sources never become pending (R585). -/
def reservedSource (s : Nat) : Bool :=
  decide (s = 7) || (decide (8 ≤ s) && decide (s < 40) && decide (6 ≤ s % 8)) || decide (s = 46) || decide (s = 47) ||
  (decide (88 ≤ s) && decide (s < 96)) || (decide (160 ≤ s) && decide (s < 240)) || decide (256 ≤ s)

/-- The level sources (R585). -/
def levelSource (s : Nat) : Bool := decide (42 ≤ s) && decide (s ≤ 45)

/-- A field of the stored event record replaced (R588). (Log entry 146, DEDUCED.) -/
def Work.recPut (w : Work) (s lo n v : Nat) : Work :=
  let r := w.rd F.evtRecRecord 0 s
  w.wr F.evtRecRecord 0 s (r - fieldOf r lo n * 2 ^ lo + (v % 2 ^ n) * 2 ^ lo)

/-- In REST an occurrence of a watched source is noted for the watcher (R603). -/
def Work.watch (w : Work) (s : Nat) : Work :=
  let named := (List.range 32).any (fun k =>
    decide (w.dv (F.evtWakeMaskSource k) = s) && decide (w.dv (F.evtWakeMaskEn k) = 1))
  if w.devState = stRest ∧ named = true ∧ w.evt.wake = none then { w with evt := { w.evt with wake := some s } }
  else w

/-- An occurrence of a source (R589): it opens the record of a source that is not pending, and only counts in the
record of one that is. (Log entry 146, DEDUCED.) -/
def Work.event (w : Work) (s st detail : Nat) : Work :=
  if reservedSource s then w
  else
    let w := w.watch s
    let c := w.rd F.evtPriCount 0 s
    if w.rd F.evtPriState 0 s % 2 = 1 then
      let n := min (c + 1) 65535
      (w.wr F.evtPriCount 0 s n).recPut s 32 16 n
    else
      let r := s + (if levelSource s then 2 ^ 14 else 0) + st % 65536 * 2 ^ 16 + 2 ^ 32 +
        w.deviceId % 512 * 2 ^ 48 + w.tickNo % 2 ^ 64 * 2 ^ 64 + w.now % 2 ^ 64 * 2 ^ 128 + detail % 2 ^ 256 * 2 ^ 256
      ((w.wr F.evtRecRecord 0 s r).wr F.evtPriCount 0 s 1).wr F.evtPriState 0 s (w.rd F.evtPriState 0 s + 1)

/-- The sources that exist once for each compute die (R585). -/
def dieSource (k d : Nat) : Nat := 8 + 8 * d + k

/-- A 52-bit address at [115:64] of DETAIL. -/
def detailAddr (a : Nat) : Nat := a % 2 ^ 52 * 2 ^ 64

/-- The state of the device changes, with its event (source 3). -/
def Work.setDevState (w : Work) (st : Nat) : Work :=
  let old := w.devState
  if old = st then w else (w.wr F.rstStateState 0 0 st).event 3 sOk (old + 8 * st)

/-- The device becomes DEGRADED for the loss of a unit of die d: a MIRROR stays MIRROR and only shows it in
SPR_MAP, and a device in start or in REST takes the state when it next runs (R556, R571). (Log entry 137, DEDUCED.) -/
def Work.degrade (w : Work) (d : Nat) : Work :=
  let w := w.wr F.sprMapDegraded d 0 1
  if w.devState = stRunning ∨ w.devState = stShared then w.setDevState stDegraded else w

/-! ## Completion records -/

/-- An address field of a record that a general core issued, with the alias of its own memory resolved (R674). -/
def resolveAddr (i : Issuer) (a : Nat) : Nat :=
  match i with
  | .core d g => if a < 0x80000 then gcWindow d g + a else a
  | _ => a

/-- A completion address resolved: zero keeps its meaning of none (R674). -/
def resolveComp (i : Issuer) (a : Nat) : Nat := if a = 0 then 0 else resolveAddr i a

/-- A completion address resolved where its field gives zero no meaning of its own: the alias of a core's memory, or page 0,
which is never mapped. The low bits are ignored, so 1 stands for the address 0 (R650, R674, R675). -/
def resolveRecord (i : Issuer) (a : Nat) : Nat := max 1 (resolveAddr i a)

/-- A completion record written under R675: at the aligned address; a record that meets no memory is dropped, its
plan faults at the next tick and PAGE_UNMAPPED is raised with COMPLETION set. -/
def Work.completion (w : Work) (die plan addr align : Nat) (bs : List Byte) : Work :=
  if addr = 0 then w
  else
    let a := addr - addr % align
    if w.mapped a bs.length then w.write a bs
    else (w.faultPlan plan sUnmapped).event (dieSource 3 die) sUnmapped (256 + detailAddr a)

/-- The 16 B completion record of cellar, match, stream-engine and job completions (R130). -/
def compRecord (status tag done result poison : Nat) : List Byte :=
  toBytes 2 status ++ toBytes 2 tag ++ toBytes 4 done ++ toBytes 4 result ++ toBytes 4 poison

/-- A tap-path request of a core completes: tapout falls, tapdone rises, and a core in `wfi` goes on (R218, R240). -/
def Work.tapDone (w : Work) : Issuer → Work
  | .core d g =>
    let c := w.core d g
    w.setCore d g { c with tapout := c.tapout - 1, tapdone := (c.tapdone + 1) % 2 ^ 64,
                           wait := if c.wait = .wfi then .none else c.wait }
  | _ => w

/-- A range of addresses meets a descriptor-table page. (Log entry 54, DEDUCED.) -/
def Work.meetsDt (w : Work) (a n : Nat) : Bool := w.isDtPage a || w.isDtPage (a + n - 1)

/-- A command in flight completes: its record is written and its core's counts move (R130, R240, R675). -/
def Work.finish (w : Work) (f : Flight) : Work :=
  let bs := compRecord f.status f.tag f.done f.result f.poison ++ f.extra
  (w.completion f.die f.plan f.comp bs.length bs).tapDone f.iss

/-! ## Messages -/

/-- Message classes of R503. -/
abbrev clsData : Nat := 0
/-- REQ. -/
abbrev clsReq : Nat := 1
/-- RESP. -/
abbrev clsResp : Nat := 2
/-- CTRL. -/
abbrev clsCtrl : Nat := 3
/-- TIME. -/
abbrev clsTime : Nat := 4
/-- TWIN. -/
abbrev clsTwin : Nat := 5

/-- A port as reset leaves it. (Log entry 117, DEDUCED.) -/
def Port.atReset : Port :=
  { txFailed := [], rxFailed := [], txSpare := false, rxSpare := false, excluded := false, nextSeq := 0,
    unacked := [], expect := 0, naking := false, sinceAck := 0, granted := List.replicate 6 0,
    used := List.replicate 6 0, freed := List.replicate 6 0, waiting := [], replays := 0, laneCause := 0,
    helloNonce := [] }

/-- Kupel port p. -/
def Work.port (w : Work) (p : Nat) : Port := smGet Port.atReset w.ports p
/-- Kupel port p replaced. -/
def Work.setPort (w : Work) (p : Nat) (x : Port) : Work := { w with ports := smSet Port.atReset w.ports p x }
/-- Host session s. -/
def Work.session (w : Work) (s : Nat) : Session := smGet ⟨[], [], []⟩ w.sessions s
/-- Host session s replaced. -/
def Work.setSession (w : Work) (s : Nat) (x : Session) : Work := { w with sessions := smSet ⟨[], [], []⟩ w.sessions s x }

/-- Port states of R500. -/
abbrev klDown : Nat := 0
/-- TRAINING. -/
abbrev klTraining : Nat := 1
/-- ATTESTING. -/
abbrev klAttesting : Nat := 2
/-- UP. -/
abbrev klUp : Nat := 3
/-- HOST_UP. -/
abbrev klHostUp : Nat := 4
/-- ATTEST_FAIL. -/
abbrev klAttestFail : Nat := 5
/-- OUT. -/
abbrev klOut : Nat := 6

/-- KL_PORT_STATUS.STATE of port p. -/
def Work.klState (w : Work) (p : Nat) : Nat := w.rd F.klPortStatusState 0 p

/-- A message joins the messages that wait at a port (R506). (Log entry 120, DEDUCED.) -/
def Work.enqueue (w : Work) (p : Nat) (m : Msg) : Work :=
  let x := w.port p
  w.setPort p { x with waiting := x.waiting ++ [m] }

/-- The usable ports towards a device, in ascending number (R513); TWIN messages travel only on twin ports
(R514). (Log entry 120, DEDUCED.) -/
def Work.usablePorts (w : Work) (dst cls : Nat) : List Nat :=
  let set := w.rd F.fabRoutePorts 0 dst
  (List.range 24).filter (fun p => bitOf set p && decide (w.klState p = klUp) && !(w.port p).excluded &&
    (decide (cls ≠ clsTwin) || decide (w.rd F.klPortCfgRole 0 p = 2)))

/-- A message to another device is queued at the port that its flow selects, or discarded and counted (R513).
(Log entry 120, DEDUCED.) -/
def Work.route (w : Work) (m : Msg) : Work :=
  match w.usablePorts m.h.dstDev m.h.cls with
  | [] => { w.bump F.fabStatNoRoute 0 0 with noRoute := w.noRoute + 1 }
  | ps => w.enqueue (getAt 0 ps (m.h.flow % ps.length)) m

/-- SUB_TICK of an EVENT still belongs to the open session (R601). -/
def subTickFits (sub opened : Nat) : Bool :=
  decide ((sub + 2 ^ 32 - opened % 2 ^ 32) % 2 ^ 32 < 2 ^ 31)

/-- FAB_SESSION.STATE of session s. -/
def Work.sessState (w : Work) (s : Nat) : Nat := w.rd F.fabSessionState 0 s

/-- The subscription that names a bridge, a session and a tick is cleared (R601). -/
def Work.dropSub (w : Work) (bridge sess tick : Nat) : Work :=
  (List.range 8).foldl (fun (w : Work) i =>
    if w.rd F.evtSubBridge 0 i = bridge ∧ w.rd F.evtSubSession 0 i = sess ∧ w.rd F.evtSubSubTick 0 i = tick then
      w.wr F.evtSubValid 0 i 0
    else w) w

/-- The bridge hands a message to one of its host sessions: a response is kept with its tag and answers the
command, an event is admitted by R601, and what is for a session that is not open is discarded (R521, R523). -/
def Work.toHost (w : Work) (s : Nat) (m : Msg) : Work :=
  let port := w.dv F.fabHostPort
  if m.h.cls = clsCtrl then
    if w.sessState s = 2 ∧ subTickFits (leAt m.payload 28 4) (w.rd F.fabSessionOpenedTick 0 s) = true then
      w.enqueue port m
    else if m.h.srcDev = w.deviceId then w.dropSub w.deviceId s (leAt m.payload 28 4)
    else
      w.route { h := { m.h with cls := clsResp, typ := 1, srcDev := w.deviceId, srcSess := s + 1, dstDev := m.h.srcDev,
                                dstSess := m.h.srcSess, len := 12, tick := w.tickNo, hops := w.dv F.fabCfgHops },
                payload := toBytes 8 sState ++ (slice m.payload 28 4) }
  else if m.h.cls = clsResp ∧ m.h.typ = 1 then
    let x := w.session s
    let known := x.tags.any (fun t => t.1 = m.h.tag && t.2.isNone)
    if known then
      let w := w.setSession s { x with tags := x.tags.map (fun t =>
        if t.1 = m.h.tag then (t.1, some m.payload) else t) }
      let w := w.wr F.fabSessionPending 0 s (w.rd F.fabSessionPending 0 s - 1)
      if w.sessState s = 2 then w.enqueue port m else w
    else if w.sessState s = 0 then w
    else w.enqueue port m
  else if w.sessState s = 2 then w.enqueue port m
  else w

/-- A message sent by this device: to a session of its own host port, to another device, or to itself (kept in
the model's log). HOPS and TICK are the sender's (R503, R513). -/
def Work.send (w : Work) (m0 : Msg) : Work :=
  let m : Msg := { m0 with h := { m0.h with hops := w.dv F.fabCfgHops, tick := w.tickNo, len := m0.payload.length } }
  if m.h.dstDev = w.deviceId then
    if m.h.dstSess = 0 then w.emitMsg 31 m else w.toHost (m.h.dstSess - 1) m
  else w.route m

/-- The header of a message from this device. -/
def Work.hdrTo (w : Work) (cls typ dst sess flow tag : Nat) : KHdr :=
  { cls := cls, typ := typ, srcDev := w.deviceId, srcSess := 0, dstDev := dst, dstSess := sess, hops := 0,
    flow := flow, len := 0, tag := tag, tick := 0 }

/-- The one RESP CTRL_DONE that answers a command, with its TAG echoed (R505, R516). -/
def Work.ctrlDone (w : Work) (h : KHdr) (status : Nat) (result : List Byte) : Work :=
  w.send { h := w.hdrTo clsResp 1 h.srcDev h.srcSess h.flow h.tag, payload := toBytes 8 status ++ result }

/-- TIME messages travel between neighbours with HOPS 1 (R510). (Log entry 120, DEDUCED.) -/
def Work.sendTime (w : Work) (p typ : Nat) (payload : List Byte) : Work :=
  let h := { w.hdrTo clsTime typ (w.rd F.klPortStatusPeerDev 0 p) 0 0 0 with
             hops := 1, tick := w.tickNo, len := payload.length }
  if w.klState p = klUp then w.enqueue p { h := h, payload := payload } else w

/-- A message that REST discards is counted at the port by which it came (R584). (Log entry 125, DEDUCED.) -/
def Work.restDiscard (w : Work) (port : Option Nat) : Work :=
  match port with
  | some p => w.bump F.klStatMalformed 0 p
  | none => w

end Sys2Proof.Machine
end

