-- ==== Sys2Proof/Machine/Fence.lean ====
section
/-! DEFINITION. Spares, the unit map and the fence log, shared by every kind of unit (R542 to R546). -/

namespace Sys2Proof.Machine

/-- Kinds of R542. -/
abbrev kGc : Nat := 0
/-- Matrix engine. -/
abbrev kMe : Nat := 1
/-- Cellar data bank. -/
abbrev kBank : Nat := 2
/-- Match bank. -/
abbrev kMatch : Nat := 3
/-- Kupel lane. -/
abbrev kLane : Nat := 4
/-- Management core. -/
abbrev kMc : Nat := 5
/-- Decanter lane. -/
abbrev kDec : Nat := 6
/-- Press lane. -/
abbrev kPress : Nat := 7

/-- A general core or matrix engine as fencing sees it, before anything has happened to it. -/
def UnitSt.atReset : UnitSt := ⟨false, 0, false, [], 0, false, [], 0⟩

/-- The fencing state of unit u of die d: 0 to 95 general cores, 96 to 119 matrix engines. -/
def Work.unitSt (w : Work) (d u : Nat) : UnitSt := smGet UnitSt.atReset w.spr.units (d * 120 + u)
/-- The fencing state of a unit replaced. -/
def Work.setUnitSt (w : Work) (d u : Nat) (x : UnitSt) : Work :=
  { w with spr := { w.spr with units := smSet UnitSt.atReset w.spr.units (d * 120 + u) x } }

/-- An uncorrectable word met by a unit: counted for ERR_SUM, and UNIT_UE raised (R564, R585). -/
def Work.unitUe (w : Work) (kind die n addr : Nat) : Work :=
  ({ w with errs := { w.errs with ue := w.errs.ue + 1 } }).event (dieSource 5 die) sCheck
    (kind + n * 16 + detailAddr addr)

/-- An uncorrectable local-memory word of a core or engine, noted for the test of R547. -/
def Work.localUe (w : Work) (die u addr : Nat) : Work :=
  let x := w.unitSt die u
  let w := w.setUnitSt die u { x with ues := setInsert x.ues addr }
  if u < 96 then (w.bump F.gcErrLmUe die u).unitUe kGc die u addr
  else (w.bump F.meErrLmUe die (u - 96)).unitUe kMe die (u - 96) addr

/-- A word of the local memory of a core or engine corrected: written back and counted (R193, R220, R547, R564).
(Log entry 138, DESIGN CHOICE.) -/
def Work.localCe (w : Work) (die u : Nat) : Work :=
  let x := w.unitSt die u
  let w := w.setUnitSt die u { x with ces := x.ces + 1 }
  let w : Work := { w with errs := { w.errs with ce := w.errs.ce + 1 } }
  if u < 96 then w.bump F.gcErrLmCe die u else w.bump F.meErrLmCe die (u - 96)

/-- The words corrected are counted anew in each epoch (R547). -/
def Work.clearCes (w : Work) : Work :=
  let us := w.spr.units.map (fun e => (e.1, { e.2 with ces := 0 }))
  { w with spr := { w.spr with units := us.filter (fun e => e.2 ≠ UnitSt.atReset) } }

/-- Units of a kind built and in service (R542). -/
def kindCount : Nat → Nat × Nat
  | 0 => (100, 96)
  | 1 => (26, 24)
  | 2 => (1088, 1024)
  | 3 => (136, 128)
  | 4 => (5, 4)
  | 5 => (5, 4)
  | 6 => (4, 4)
  | 7 => (2, 2)
  | _ => (0, 0)

/-- The key of a unit in the unit map. -/
def unitKey (kind die n : Nat) : Nat := (kind * 4 + die) * 2048 + n

/-- The spares left of a kind on a die: those of the unit map, as built where no map has been read (R542, R543). -/
def Work.spareList (w : Work) (kind die : Nat) : List Nat :=
  match w.spr.spares.find? (fun p => p.1 = kind * 4 + die) with
  | some p => p.2
  | none =>
    let (built, used) := kindCount kind
    (List.range (built - used)).map (used + ·)

/-- The physical unit bound to a logical id (R20, R543). -/
def Work.physical (w : Work) (kind die n : Nat) : Nat :=
  match w.spr.bound.find? (fun p => p.1 = unitKey kind die n) with
  | some p => p.2
  | none => n

/-- An entry of R543. -/
def mapEntry (kind die phys state logical : Nat) : Nat :=
  kind + die * 2 ^ 4 + phys * 2 ^ 6 + state * 2 ^ 17 + logical * 2 ^ 19

/-- The 32 B fence-log record of R546, with its CRC. -/
def fenceRecord (rtype cause left part old new tick : Nat) : Nat :=
  let x := rtype + cause * 2 ^ 8 + min left 255 * 2 ^ 16 + min part 255 * 2 ^ 24 + old * 2 ^ 32 + new * 2 ^ 64 +
    tick % 2 ^ 64 * 2 ^ 96
  x + crc32c (toBytes 28 x) * 2 ^ 224

/-- An erased flash byte (log entry 12). -/
def flashErased : Byte := 0xFF
/-- The byte at a flash offset. (Log entry 12, PRESUMED.) -/
def Work.flashByte (w : Work) (a : Nat) : Byte := smGet flashErased w.flash a
/-- Bytes [a, a + n) of the flash. -/
def Work.flashRead (w : Work) (a n : Nat) : List Byte := (List.range n).map (fun i => w.flashByte (a + i))
/-- Bytes stored in the flash. -/
def Work.flashWrite (w : Work) (a : Nat) : List Byte → Work
  | [] => w
  | b :: bs => Work.flashWrite { w with flash := smSet flashErased w.flash a b } (a + 1) bs

/-- The fence log's place in the flash and the records it holds (R546, R605). -/
def fenceLogBase : Nat := 0x20000
/-- Its capacity in records (R546). -/
def fenceLogSize : Nat := 16384

/-- A fence-log record appended to the flash, or held where the log is full (R546). -/
def Work.logWrite (w : Work) (r : Nat) : Work :=
  if w.spr.logPos < fenceLogSize then
    let w := w.flashWrite (fenceLogBase + 32 * w.spr.logPos) (toBytes 32 r)
    let w := { w with spr := { w.spr with logPos := w.spr.logPos + 1 } }
    let w := w.bump F.sprLogRecords 0 0
    if w.spr.logPos = fenceLogSize then w.wr F.sprLogFull 0 0 1 else w
  else { (w.wr F.sprLogFull 0 0 1) with spr := { w.spr with unlogged := w.spr.unlogged ++ [r] } }

/-- A change of the map goes to the fence log; while NVW_INHIBIT is in force up to 256 records are held (R545). -/
def Work.logFence (w : Work) (r : Nat) : Work :=
  if w.dv F.pwrStatusNvw = 1 then
    if w.spr.heldRecs.length < 256 then
      let w := { w with spr := { w.spr with heldRecs := w.spr.heldRecs ++ [r] } }
      w.wr F.sprLogPending 0 0 w.spr.heldRecs.length
    else w
  else w.logWrite r

/-- The held records written once the inhibit lifts (R545). -/
def Work.flushHeld (w : Work) : Work :=
  let rs := w.spr.heldRecs
  let w := { w with spr := { w.spr with heldRecs := [] } }
  (rs.foldl Work.logWrite w).wr F.sprLogPending 0 0 0

/-- The registers that show the spares left of a kind on a die. -/
def Work.showSpares (w : Work) (kind die n : Nat) : Work :=
  match kind with
  | 0 => w.wr F.sprMapGcSpares die 0 n
  | 1 => w.wr F.sprMapMeSpares die 0 n
  | 2 => (w.wr F.sprMapBankSpares die 0 n).wr F.celErrSparesLeft die 0 n
  | 3 => (w.wr F.sprMapMatchSpares die 0 n).wr F.matchErrSparesLeft die 0 n
  | 5 => w.wr F.sprMapMcSpare 0 0 n
  | _ => w

/-- The spares of a kind on a die replaced. -/
def Work.setSpares (w : Work) (kind die : Nat) (l : List Nat) : Work :=
  let w := { w with spr := { w.spr with spares :=
    (kind * 4 + die, l) :: w.spr.spares.filter (fun p => p.1 ≠ kind * 4 + die) } }
  w.showSpares kind die l.length

/-- A logical id bound to a physical unit. (Log entry 134, DEDUCED.) -/
def Work.bind (w : Work) (kind die n phys : Nat) : Work :=
  { w with spr := { w.spr with bound :=
    (unitKey kind die n, phys) :: w.spr.bound.filter (fun p => p.1 ≠ unitKey kind die n) } }

/-- A unit fenced onto the next spare: the map is changed, the record logged, FENCED raised (R158, R545, R546,
R548). (Log entry 134, DEDUCED.) -/
def Work.fenceToSpare (w : Work) (kind die n cause part : Nat) : Work :=
  match w.spareList kind die with
  | [] => w
  | sp :: rest =>
    let old := w.physical kind die n
    let r := fenceRecord 1 cause rest.length part (mapEntry kind die old 2 0) (mapEntry kind die sp 0 n) w.tickNo
    let w := ((w.setSpares kind die rest).bind kind die n sp).logFence r
    (w.bump F.sprMapFenced die 0).event (dieSource 0 die) sFenced r

/-- A unit lost because no spare of its kind remains: NO_SPARE with the record of R546, NEW zero (R159, R554).
(Log entries 135, DEDUCED; 137, DEDUCED.) -/
def Work.noSpare (w : Work) (kind die n cause part : Nat) : Work :=
  let old := w.physical kind die n
  let r := fenceRecord 1 cause 0 part (mapEntry kind die old 2 0) 0 w.tickNo
  ((w.logFence r).bump F.sprMapFenced die 0).event (dieSource 1 die) sNoSpare r

end Sys2Proof.Machine
end

