-- ==== Sys2Proof/Machine/Cellar.lean ====
section
/-! DEFINITION. The cellar command unit and the bank engines: chapter 05. -/

namespace Sys2Proof.Machine

/-! ## Rows -/

/-- What an access to a byte meets (`held` only where a command unit acts): memory in order, a row that reads as zeros (R155, R563), a bank out of service
(R159), a bank whose copy to a spare holds its operations (R157), or no memory (R115). -/
inductive RowSt where
  | ok | bad | lost | held | unmapped
  deriving DecidableEq, Repr

/-- The worse of two. -/
def RowSt.worse : RowSt → RowSt → RowSt
  | .unmapped, _ => .unmapped
  | _, .unmapped => .unmapped
  | .held, _ => .held
  | _, .held => .held
  | .lost, _ => .lost
  | _, .lost => .lost
  | .bad, _ => .bad
  | _, x => x

/-- The logical data bank and bank row of an offset from a die's cellar base (R123). -/
def cellarBankOf (o : Nat) : Nat := (o >>> 6) % 1024
/-- The bank row (R123). -/
def cellarBankRow (o : Nat) : Nat := o >>> 16

/-- What the row of a device address gives. -/
def Work.rowState (w : Work) (a : Nat) : RowSt :=
  match w.key a with
  | none => .unmapped
  | some k =>
    match regionOf a with
    | .cellar d =>
      let b := w.bank d (cellarBankOf (a - cellarOf d))
      if b.lost then .lost else if w.holding && decide (b.copying ≠ 0) then .held else if w.isBad k then .bad else .ok
    | _ => if w.holding && w.racking a then .held else if w.isBad k then .bad else .ok

/-- What an element of a descriptor meets. -/
def Work.elemState (w : Work) (d : Desc) (n : Nat) : RowSt := w.rowState (d.at n / 8)

/-- What a run of elements meets. -/
def Work.elemsState (w : Work) (d : Desc) (start n : Nat) : RowSt :=
  (List.range n).foldl (fun s i => s.worse (w.elemState d (start + i))) .ok

/-- The elements of a descriptor that bytes [off, off + n) of its canonical order lie in: first and count. -/
def Desc.spanOf (d : Desc) (off n : Nat) : Nat × Nat :=
  let lo := 8 * off / d.w
  (lo, (8 * (off + n) - 1) / d.w + 1 - lo)

/-- Bytes [off, off + n) of a descriptor's elements in canonical order, whatever their width. -/
def Work.streamLE (w : Work) (d : Desc) (off n : Nat) : Nat :=
  let (lo, k) := d.spanOf off n
  let v := (List.range k).foldr (fun i acc => w.elem d (lo + i) + acc * 2 ^ d.w) 0
  fieldOf v (8 * off - lo * d.w) (8 * n)

/-- What those bytes meet. -/
def Work.streamState (w : Work) (d : Desc) (off n : Nat) : RowSt :=
  let (lo, k) := d.spanOf off n
  w.elemsState d lo k

/-! ## The work of one command -/

/-- A command's effect so far and what its completion will carry. -/
structure Acc where
  w : Work
  done : Nat := 0
  result : Nat := 0
  bad : Nat := 0
  lost : Nat := 0
  wraps : Nat := 0
  sats : Nat := 0
  unm : Option Nat := none
  held : Bool := false

/-- An entry skipped because of what it met (R155, R159, R115). -/
def Acc.skip (a : Acc) (st : RowSt) (addr : Nat) : Acc :=
  match st with
  | .ok => a
  | .bad => { a with bad := a.bad + 1 }
  | .lost => { a with lost := a.lost + 1 }
  | .held => { a with held := true }
  | .unmapped => { a with unm := some (a.unm.getD addr) }

/-- An entry completed with a new block; one that is skipped because its reference or index is absent counts as completed too.
(Log entry 33, DEDUCED.) -/
def Acc.did (a : Acc) (w : Work) : Acc := { a with w := w, done := a.done + 1 }

/-- RESULT increased. -/
def Acc.res (a : Acc) (b : Bool) : Acc := if b then { a with result := a.result + 1 } else a
/-- The n elements accessed through a wrapped index counted (R114). -/
def Acc.wrapped (a : Acc) (b : Bool) (n : Nat := 1) : Acc := if b then { a with wraps := a.wraps + n } else a
/-- A saturation counted (R70). -/
def Acc.sat (a : Acc) (b : Bool) : Acc := if b then { a with sats := a.sats + 1 } else a

/-- A row that no operation can use now (R157, R159). -/
def RowSt.away (st : RowSt) : Bool := decide (st = .lost) || decide (st = .held)

/-- A command whose n entries are all skipped because of what it met. -/
def Acc.none (w : Work) (st : RowSt) (n : Nat) : Acc :=
  { w := w, lost := if st = .lost then n else 0, held := decide (st = .held) }

/-- A fold over entry numbers 0 to n - 1. -/
def Acc.each (a : Acc) (n : Nat) (f : Acc → Nat → Acc) : Acc := (List.range n).foldl f a

/-! ## Command records (R128) -/

/-- A cellar command (R128). -/
structure CelCmd where
  op : Nat
  ty : Option ETy
  mode : Nat
  sub : Nat
  src : Nat
  dst : Nat
  aux : Nat
  tag : Nat
  count : Nat
  start : Nat
  opa : Nat
  opb : Nat
  comp : Nat
  reservedZero : Bool
  deriving DecidableEq, Repr

/-- The fields of R128. -/
def CelCmd.ofRec (r : Rec) : CelCmd :=
  { op := recF r 7 0, ty := ETy.ofCode (recF r 12 8), mode := recF r 15 13, sub := recF r 17 16,
    src := recF r 47 32, dst := recF r 63 48, aux := recF r 79 64, tag := recF r 95 80, count := recF r 127 96,
    start := recF r 159 128, opa := recF r 255 192, opb := recF r 319 256, comp := recF r 371 320,
    reservedZero := recZero r [(31, 18), (191, 160), (511, 372)] }

/-- The number of defined modes of an operation; the modes are 0 up to it (R134, R141, R146, R148, R150). -/
def celModes : Nat → Nat
  | 0x01 => 7
  | 0x02 => 5
  | 0x03 => 1
  | 0x04 => 2
  | 0x05 => 4
  | 0x06 => 3
  | 0x07 => 1
  | 0x08 => 1
  | _ => 0

/-- The allocation of a descriptor lies in the cellar. -/
def Desc.inCellar (d : Desc) : Bool :=
  match regionOf d.allocBase with
  | .cellar _ => true
  | _ => false

/-- Rank 1 with unit stride (R134). -/
def Desc.dense1 (d : Desc) : Bool := decide (d.rank = 1) && decide (d.stride = [1])

/-! ## Hash tables (R137 to R145) -/

/-- A hash-table header (R137). -/
structure HashHdr where
  nb : Nat
  partsCode : Nat
  part : List Nat
  entries : Nat
  spilled : Nat
  spill : Nat
  reservedZero : Bool
  deriving DecidableEq, Repr

/-- The header of R137 from its 64 bytes as one number. -/
def HashHdr.ofNat (x : Nat) : HashHdr :=
  let parts := (List.range 4).map (fun k => fieldOf x (128 + 64 * k) 64)
  { nb := fieldOf x 0 32, partsCode := fieldOf x 32 2, part := parts, entries := fieldOf x 384 40,
    spilled := fieldOf x 448 32, spill := fieldOf x 480 16,
    reservedZero := decide (fieldOf x 34 30 = 0) && decide (fieldOf x 424 24 = 0) && decide (fieldOf x 496 16 = 0) }

/-- The number of parts. -/
def HashHdr.parts (h : HashHdr) : Nat := 2 ^ h.partsCode

/-- The device address of a part's first bucket. -/
def HashHdr.partAddr (h : HashHdr) (k : Nat) : Nat :=
  let x := getAt 0 h.part k
  cellarOf (fieldOf x 31 2) + fieldOf x 0 31

/-- The header checks of R140. (Log entry 35, DEDUCED.) -/
def Work.hashOk (w : Work) (p : Nat) (h : HashHdr) (insert : Bool) : Bool :=
  decide (h.partsCode < 3) && decide (8 ≤ h.nb) && decide (h.nb ≤ 33554432) && h.reservedZero &&
  (List.range h.parts).all (fun k =>
    let x := getAt 0 h.part k
    decide (fieldOf x 33 31 = 0) && decide (fieldOf x 0 31 % 64 = 0) &&
    decide (fieldOf x 0 31 + h.nb * 64 ≤ 0x80000000) && w.granted p (h.partAddr k) (h.nb * 64)) &&
  (!insert || (w.handleOk p h.spill && decide ((w.slot p h.spill).st = .valid)))

/-- The device addresses of the eight buckets of a hash's chain (R139). -/
def HashHdr.chain (h : HashHdr) (hash : Nat) : List Nat :=
  let g := (hash / 2 ^ 32 * (h.parts * h.nb)) / 2 ^ 32
  (List.range 8).map (fun j => h.partAddr (g / h.nb) + (g % h.nb + j) % h.nb * 64)

/-- The slots of a bucket: tag and reference (R138). -/
def Work.bucket (w : Work) (a : Nat) : List (Nat × Nat) :=
  match w.readLE a 64 with
  | some x => (List.range 8).map (fun s => (fieldOf x (64 * s) 32, fieldOf x (64 * s + 32) 32))
  | none => []

/-- What a probe finds: references in chain order, whether the chain was full, and what ended it. -/
structure Found where
  refs : List Nat
  overflow : Bool
  st : RowSt

/-- A probe along a chain: it stops after the first bucket with an empty slot, after the eighth, and at a bucket
that cannot be read (R142). -/
def Work.probeChain (w : Work) (tag : Nat) : List Nat → List Nat → Found
  | [], refs => ⟨refs, true, .ok⟩
  | a :: as, refs =>
    match w.rowState a with
    | .ok =>
      let b := w.bucket a
      let hits := (b.filter (fun s => s.2 ≠ absent32 && s.1 = tag)).map (·.2)
      if b.any (fun s => s.2 = absent32) then ⟨refs ++ hits, false, .ok⟩
      else Work.probeChain w tag as (refs ++ hits)
    | st => ⟨refs, false, st⟩

/-- Where an insert puts its entry: an empty slot, the spill list, or nowhere because of what it met (R143). -/
inductive Place2 where
  | at (addr : Nat)
  | spill
  | stopped (st : RowSt)
  deriving DecidableEq, Repr

/-- The first empty slot of a chain (R143). -/
def Work.findSlot (w : Work) : List Nat → Place2
  | [] => .spill
  | a :: as =>
    match w.rowState a with
    | .ok =>
      match findIdx1 (fun s => decide (s.2 = absent32)) (w.bucket a) with
      | some s => .at (a + 8 * s)
      | none => Work.findSlot w as
    | st => .stopped st

/-! ## Sums in no fixed order (R94, R151) -/

/-- A list without the element at a position, and that element. -/
def takeAt (d : Nat) (l : List Nat) (i : Nat) : Nat × List Nat := (getAt d l i, l.eraseIdx i)

/-- A reduction in an order that is not fixed: free values choose the two partial results combined next. With one
or two operands there is nothing to choose. Answers the result and the counter of free values.
(Log entry 39, DESIGN CHOICE.) -/
def reduceFree (op : Nat → Nat → Nat) : Nat → Nat → List Nat → Nat × Nat
  | _, c, [] => (0, c)
  | _, c, [a] => (a, c)
  | _, c, [a, b] => (op a b, c)
  | 0, c, a :: _ => (a, c)
  | n + 1, c, xs =>
    let (a, r) := takeAt 0 xs ((Config.freeValue 32 c).toNat % xs.length)
    let (b, q) := takeAt 0 r ((Config.freeValue 32 (c + 1)).toNat % r.length)
    reduceFree op n (c + 2) (op a b :: q)

/-- An FP32 sum in no fixed order. (Log entry 39, DESIGN CHOICE.) -/
def Work.sumFree (w : Work) (xs : List Nat) : Nat × Work :=
  let (v, c) := reduceFree f32Add xs.length w.free xs
  (v, { w with free := c })

/-! ## Operations -/

/-- The predicate of SCAN_FILTER on an element (R134 to R136). -/
def scanPred (mode : Nat) (x a b : EVal) : Bool :=
  let c := x.cmp a
  match mode with
  | 0 => decide (c = some .eq)
  | 1 => decide (c ≠ some .eq)
  | 2 => decide (c = some .lt)
  | 3 => decide (c = some .lt) || decide (c = some .eq)
  | 4 => decide (c = some .gt)
  | 5 => decide (c = some .gt) || decide (c = some .eq)
  | 6 => (decide (c = some .gt) || decide (c = some .eq)) &&
      (decide (x.cmp b = some .lt) || decide (x.cmp b = some .eq))
  | _ => false

/-- NaN is in no range, whatever the mode (R136). (Log entry 33, DEDUCED.) -/
def scanHit (mode : Nat) (x a b : EVal) : Bool := !x.toF.isNan && scanPred mode x a b

/-- SCAN_FILTER on its elements (R134 to R136): a DICT32 null has no value to compare (R85), and an element that is skipped
leaves its bit, which counts in RESULT as it stands. (Log entry 33, DEDUCED.) -/
def Work.scanFilter (w : Work) (c : CelCmd) (s d : Desc) (aux : Option Desc) : Acc :=
  let t := s.ty.getD .int64
  let isF := t.fmt?.isSome
  let opnd (x : Nat) : EVal := if isF then .flt (f32 (x % 2 ^ 32)) else .int (sext 64 x)
  Acc.each { w := w } c.count (fun a k =>
    let i := c.start + k
    let sst := match aux with
      | some v => (a.w.elemState s i).worse (a.w.elemState v i)
      | none => a.w.elemState s i
    let old := decide (a.w.elem d i = 1)
    match a.w.elemState d i, sst with
    | .ok, .ok | .ok, .bad =>
      let x := a.w.elem s i
      let valid := (match aux with
        | some v => decide (a.w.elem v i = 1)
        | none => true) && !(decide (t = .dict32) && decide (x = absent32))
      let p := decide (sst = .ok) && valid && scanHit c.mode (t.value x) (opnd c.opa) (opnd c.opb)
      let bit := match c.sub with
        | 0 => p
        | 1 => old && p
        | _ => old || p
      ((a.skip sst 0).did (a.w.setElem d i (if bit then 1 else 0))).res bit
    | .ok, st => (a.skip st (s.at i / 8)).res old
    | dst, st => a.skip (dst.worse st) ((if dst = .unmapped then d.at i else s.at i) / 8))

/-- The slot capacities of PROBE (R141). -/
def probeCap (mode : Nat) : Nat := 2 ^ (mode + 2)

/-- The result slot of a probe (R141). -/
def probeSlot (idx : Nat) (f : Found) (m : Nat) : List Byte :=
  let n := min f.refs.length 64
  let pois := decide (f.st ≠ .ok)
  let hdr := idx % 2 ^ 32 + n * 2 ^ 32 + (if f.overflow then 2 ^ 39 else 0) + (if m < n then 2 ^ 40 else 0) +
    (if pois then 2 ^ 41 else 0)
  toBytes 8 hdr ++ (List.range m).flatMap (fun k => toBytes 4 (getAt absent32 f.refs k))

/-- Result bytes of an entry written through a UINT8 descriptor under its COMBINE mode (R108).
(Log entry 36, DEDUCED.) -/
def Acc.put (a : Acc) (d : Desc) (off : Nat) (bs : List Byte) : Acc :=
  let (w, n) := a.w.putBytes d off bs
  { a with w := w, sats := a.sats + n }

/-- PROBE (R141, R142): a chain that meets a bucket of a lost bank ends there as at a poisoned one, and the slot says so
with POISON; a hash that is not used gets no slot (R155). (Log entries 36, DEDUCED; 161, DESIGN CHOICE.) -/
def Work.probeOp (w : Work) (c : CelCmd) (s d : Desc) (h : HashHdr) : Acc :=
  let m := probeCap c.mode
  let sz := 8 + 4 * m
  Acc.each { w := w } c.count (fun a k =>
    let i := c.start + k
    match a.w.elemsState d (k * sz) sz with
    | .ok =>
      match a.w.elemState s i with
      | .ok =>
        let x := a.w.elem s i
        let f := if x = absent64 then ⟨[], false, .ok⟩ else a.w.probeChain (x % 2 ^ 32) (h.chain x) []
        let a := (a.put d (k * sz) (probeSlot i f m)).res f.overflow
        (match f.st with
        | .ok => { a with done := a.done + 1 }
        | .bad => ({ a with done := a.done + 1 } : Acc).skip .bad 0
        | st => a.skip st (s.at i / 8))
      | st => a.skip st (s.at i / 8)
    | st => a.skip st (d.at (k * sz) / 8))

/-- The header's counters written back (R137, R143). -/
def Work.hashCounts (w : Work) (aux : Desc) (entries spilled : Nat) : Work :=
  (w.setDescBytes aux 48 (toBytes 5 entries)).setDescBytes aux 56 (toBytes 4 spilled)

/-- INSERT (R143): the spill list is written like any row, so a row of it that may not be altered stops the entry (R155,
R159). (Log entry 33, DEDUCED.) -/
def Work.insertOp (w : Work) (c : CelCmd) (s aux : Desc) (h : HashHdr) (sp : Desc) : Acc :=
  Acc.each { w := w } c.count (fun a k =>
    let off := 16 * (c.start + k)
    match a.w.streamState s off 16 with
    | .ok =>
      let x := a.w.streamLE s off 16
      let hash := fieldOf x 0 64
      let ref := fieldOf x 64 32
      let hd := HashHdr.ofNat (a.w.descLE aux 0 64)
      if ref = absent32 then { a with done := a.done + 1 }
      else
        (match a.w.findSlot (h.chain hash) with
        | .at addr =>
          let w1 := a.w.writeLE addr 8 (hash % 2 ^ 32 + ref * 2 ^ 32)
          a.did (w1.hashCounts aux (hd.entries + 1) hd.spilled)
        | .spill =>
          (match a.w.elemsState sp (16 * hd.spilled) 16 with
          | .ok =>
            let a := a.put sp (16 * hd.spilled) (toBytes 16 (hash + ref * 2 ^ 64))
            (a.did (a.w.hashCounts aux hd.entries (hd.spilled + 1))).res true
          | st => a.skip st (sp.at (16 * hd.spilled) / 8))
        | .stopped st => a.skip st (s.at 0 / 8))
    | st => a.skip st (s.at 0 / 8))

/-- HIST_ADD (R146): an unsigned 64-bit count held between zero and 2^64 - 1. (Log entries 33, DEDUCED; 34, DEDUCED.) -/
def Work.histAddOp (w : Work) (c : CelCmd) (s d : Desc) : Acc :=
  Acc.each { w := w } c.count (fun a k =>
    let i := c.start + k
    let st0 := if c.mode = 0 then a.w.elemState s i else a.w.streamState s (16 * i) 16
    match st0 with
    | .ok =>
      let x := if c.mode = 0 then a.w.elem s i else a.w.streamLE s (16 * i) 16
      let idx := x % 2 ^ 32
      let delta : Int := if c.mode = 0 then 1 else sext 64 (fieldOf x 64 64)
      if idx = absent32 then ({ a with done := a.done + 1 } : Acc).res true
      else
        let (r, wr) := reduceIdx idx (getAt 1 d.size 0)
        let a := a.wrapped (wr && !d.wrap)
        (match a.w.elemState d r with
        | .ok =>
          let (v, sat) := clampTo 0 (2 ^ 64 - 1) (a.w.elem d r + delta)
          (a.did (a.w.setElem d r v.toNat)).sat sat
        | st => a.skip st (d.at r / 8))
    | st => a.skip st (s.at 0 / 8))

/-- ATOMIC_ROW (R147, R148): every element of a row combined in one row operation. (Log entry 34, DEDUCED.) -/
def Work.atomicRowOp (w : Work) (c : CelCmd) (s d : Desc) : Acc :=
  let t := d.ty.getD .uint8
  let n0 := getAt 0 d.size 0
  let rowBytes := n0 * d.w / 8
  let ent := 8 + alignUp rowBytes 8
  Acc.each { w := w } c.count (fun a k =>
    let off := ent * (c.start + k)
    match a.w.streamState s off ent with
    | .ok =>
      let x := a.w.streamLE s off ent
      let idx := x % 2 ^ 32
      if idx = absent32 then { a with done := a.done + 1 }
      else
        let (r, wr) := reduceIdx idx (getAt 1 d.size 1)
        let a := a.wrapped (wr && !d.wrap) n0
        (match a.w.rowState (d.bitAddr [0, r] / 8) with
        | .ok =>
          let (w', sats) := (List.range n0).foldl (fun (p : Work × Nat) j =>
            let bit := d.bitAddr [j, r]
            let old := match p.1.readBits bit d.w with
              | some (v, _) => v
              | none => 0
            let (v, sat) := combineElem t c.mode old (fieldOf x (64 + j * d.w) d.w)
            (p.1.writeBits bit d.w v, p.2 + (if sat then 1 else 0))) (a.w, 0)
          { a.did w' with sats := a.sats + sats }
        | st => a.skip st (d.bitAddr [0, r] / 8))
    | st => a.skip st (s.at 0 / 8))

/-- A table element converted exactly to FP32 (R150). -/
def toF32 (t : ETy) (x : Nat) : Nat := Fmt.fp32.round (t.value x).toF

/-- What one index of a bag gives: a row to pool, whose part in a poisoned 64 B row is zeros, and what was met. -/
structure BagIdx where
  row : Option Nat
  st : RowSt
  wraps : Nat

/-- The index at a position of a bag (R149, R150, R155). -/
def Work.bagIndex (w : Work) (s tb : Desc) (pos : Nat) : BagIdx :=
  let (p, wr) := reduceIdx pos (getAt 1 s.size 0)
  let n := if wr && !s.wrap then 1 else 0
  match w.elemState s p with
  | .ok =>
    let x := w.elem s p
    if x = absent32 then ⟨none, .ok, n⟩
    else
      let (r, wr2) := reduceIdx x (getAt 1 tb.size 1)
      let st := (List.range (getAt 0 tb.size 0)).foldl
        (fun (st : RowSt) j => st.worse (w.rowState (tb.bitAddr [j, r] / 8))) RowSt.ok
      ⟨if st = .ok ∨ st = .bad then some r else none, st, n + (if wr2 && !tb.wrap then getAt 0 tb.size 0 else 0)⟩
  | st => ⟨none, st, n⟩

/-- The pooled value of one column of a bag (R150). (Log entry 39, DESIGN CHOICE.) -/
def Work.poolCol (w : Work) (mode : Nat) (t : ETy) (tb : Desc) (rows : List Nat) (j : Nat) : Nat × Work :=
  let xs := rows.map (fun r =>
    match w.readBits (tb.bitAddr [j, r]) tb.w with
    | some (v, _) => toF32 t v
    | none => 0)
  match mode with
  | 2 => (Fmt.fp32.round (xs.tail.foldl (fun m x => m.max (f32 x)) (f32 (xs.headD 0))), w)
  | 1 =>
    let (v, w) := w.sumFree xs
    (f32Div v (Fmt.fp32.round (FVal.ofInt xs.length)), w)
  | _ => w.sumFree xs

/-- GATHER_SUM (R149 to R151, R155): a bag whose row of DST may not be altered is one entry skipped. -/
def Work.gatherSumOp (w : Work) (c : CelCmd) (s d aux tb : Desc) : Acc :=
  let t := tb.ty.getD .fp32
  let width := getAt 0 tb.size 0
  Acc.each { w := w } c.count (fun a k =>
    let j := c.start + k
    match (List.range width).foldl (fun (st : RowSt) e => st.worse (a.w.rowState (d.bitAddr [e, k] / 8))) RowSt.ok with
    | .ok =>
      let ost := (a.w.elemState aux j).worse (a.w.elemState aux (j + 1))
      let lo := a.w.elem aux j
      let hi := a.w.elem aux (j + 1)
      let idxs := if ost = .ok then (List.range (hi - lo)).map (fun i => a.w.bagIndex s tb (lo + i)) else []
      let rows := idxs.filterMap (·.row)
      let a := if ost = .ok then a else a.skip ost (aux.at j / 8)
      let a := idxs.foldl (fun (a : Acc) x => { a.skip x.st (s.at 0 / 8) with wraps := a.wraps + x.wraps }) a
      let w' := (List.range width).foldl (fun (w : Work) e =>
        let (v, w) := if rows.isEmpty then (0, w) else w.poolCol c.mode t tb rows e
        (w.combineAt d (d.bitAddr [e, k]) v).1) a.w
      (a.did w').res rows.isEmpty
    | st => a.skip st (d.bitAddr [0, k] / 8))

/-- The 64 B rows that writing these elements of a descriptor covers whole (R153). -/
def Desc.wholeRows (d : Desc) (is : List Nat) : List Nat :=
  let bits := (is.map d.at).eraseDups
  let rows := (bits.map (· / 512)).eraseDups
  rows.filter (fun r => 512 ≤ (bits.filter (fun b => b / 512 = r)).length * d.w)

/-- Poison cleared on the rows that a FILL or COPY writes whole, where the bank is in service (R153). -/
def Work.cureWhole (w : Work) (d : Desc) (is : List Nat) : Work :=
  (d.wholeRows is).foldl (fun w r =>
    match w.key (r * 64), w.rowState (r * 64) with
    | some k, .bad => w.curePoison k
    | _, _ => w) w

/-- COPY (R152, R153): the bits of each element as they stand; an element of a poisoned row arrives as zeros (R155), and one
whose source is skipped is not written. -/
def Work.copyOp (w : Work) (c : CelCmd) (s d : Desc) : Acc :=
  let arrive := (List.range c.count).filter (fun i => decide (w.elemState s i = .ok) || decide (w.elemState s i = .bad))
  Acc.each { w := w.cureWhole d arrive } c.count (fun a i =>
    match a.w.elemState d i with
    | .ok =>
      (match a.w.elemState s i with
      | .ok => a.did (a.w.setElem d i (a.w.elem s i))
      | .bad => (a.did (a.w.setElem d i 0)).skip .bad 0
      | st => a.skip st (s.at i / 8))
    | st => a.skip st (d.at i / 8))

/-- FILL (R153). -/
def Work.fillOp (w : Work) (c : CelCmd) (d : Desc) : Acc :=
  Acc.each { w := w.cureWhole d (List.range c.count) } c.count (fun a i =>
    match a.w.elemState d i with
    | .ok => a.did (a.w.setElem d i (c.opa % 2 ^ d.w))
    | st => a.skip st (d.at i / 8))

/-! ## Checks (R129) and the command as a whole -/

/-- The types that SCAN_FILTER reads (R134). -/
def ETy.scannable : ETy → Bool
  | .int8 | .uint8 | .int16 | .int32 | .int64 | .uint32 | .ts64 | .dict32 | .fp16 | .bf16 | .fp32 => true
  | _ => false

/-- The types that GATHER_SUM pools (R149). -/
def ETy.poolable : ETy → Bool
  | .fp32 | .bf16 | .fp16 | .e4m3 | .e5m2 | .int8 => true
  | _ => false

/-- What a checked command is about to do, or the failures it has. -/
inductive CelPlan where
  | fails (fs : List Nat)
  | go (run : Work → Acc)

/-- A descriptor operand: STATE_REJECT when the handle names no usable slot, or when it is to be written and may
not be (R101, R129). -/
def Work.operand (w : Work) (p h : Nat) (wr : Bool) : Option Desc × List Nat :=
  match w.desc p h with
  | none => (none, [sState])
  | some d => (some d, chk (!wr || d.write) sState)

/-- The bytes that a descriptor's elements span, first and last (R104). -/
def Desc.span (d : Desc) : Int × Int :=
  let (lo, hi) := d.reach
  ((8 * (d.base : Int) + d.bitOff + d.w * lo) / 8, (8 * (d.base : Int) + d.bitOff + d.w * hi + d.w - 1) / 8)

/-- Whether two descriptors' spans meet: a COPY tests their whole reach. (Log entry 162, DESIGN CHOICE.) -/
def Desc.overlaps (a b : Desc) : Bool :=
  decide (a.span.1 ≤ b.span.2) && decide (b.span.1 ≤ a.span.2)

/-- The checks of R129 on a command of plan p, and its operation when it passes them all. A hash table whose header lies in a
lost bank cannot be used: every entry is skipped (R159). An AUX bitmap shorter than START + COUNT and an ATOMIC_ROW target
with a BIT_OFF are out of range. (Log entries 34, DEDUCED; 163, DESIGN CHOICE.) -/
def Work.celCheck (w : Work) (p : Nat) (c : CelCmd) : CelPlan :=
  let base := chk (c.reservedZero && decide (c.mode < celModes c.op) &&
    (if c.op = 1 then decide (c.sub < 3) else decide (c.sub = 0)) && decide (1 ≤ c.count)) sRange
  let fin (fs : List Nat) (run : Work → Acc) : CelPlan := if fs.isEmpty then .go run else .fails fs
  match c.op with
  | 0x01 =>
    let (s, f1) := w.operand p c.src false
    let (d, f2) := w.operand p c.dst true
    let (x, f3) := if c.aux = 0xFFFF then (none, []) else w.operand p c.aux false
    (match s, d with
    | some s, some d =>
      let auxOk := match x with
        | some v => decide (v.ty = some .bitmap) && decide (c.start + c.count ≤ getAt 0 v.size 0)
        | none => true
      fin (base ++ f1 ++ f2 ++ f3 ++
        chk (decide (c.ty = s.ty) && (s.ty.getD .bitmap).scannable && s.dense1 && d.dense1 && s.inCellar &&
          d.inCellar && decide (regionOf s.allocBase = regionOf d.allocBase) && decide (d.ty = some .bitmap) &&
          auxOk && decide (c.start + c.count ≤ s.count)) sRange ++
        chk (decide (c.start + c.count ≤ d.count)) sFull) (fun w => w.scanFilter c s d x)
    | _, _ => .fails (base ++ f1 ++ f2 ++ f3))
  | 0x02 =>
    let (s, f1) := w.operand p c.src false
    let (d, f2) := w.operand p c.dst true
    let (x, f3) := w.operand p c.aux false
    (match s, d, x with
    | some s, some d, some x =>
      let hok := decide (x.ty = some .uint8) && decide (64 ≤ x.count) && x.inCellar
      let hst := if hok then w.elemsState x 0 64 else .ok
      let h := HashHdr.ofNat (w.descLE x 0 64)
      fin (base ++ f1 ++ f2 ++ f3 ++
        chk (decide (c.ty = s.ty) && decide (s.ty = some .int64) && decide (d.ty = some .uint8) &&
          decide (c.start + c.count ≤ s.count)) sRange ++
        chk (hok && (hst.away || w.hashOk p h false)) sRange ++
        chk (decide (c.count * (8 + 4 * probeCap (min c.mode 4)) ≤ d.count)) sFull)
        (fun w => if hst.away then Acc.none w hst c.count else w.probeOp c s d h)
    | _, _, _ => .fails (base ++ f1 ++ f2 ++ f3))
  | 0x03 =>
    let (s, f1) := w.operand p c.src false
    let (x, f3) := w.operand p c.aux true
    (match s, x with
    | some s, some x =>
      let hok := decide (x.ty = some .uint8) && decide (64 ≤ x.count) && x.inCellar
      let hst := if hok then w.elemsState x 0 64 else .ok
      let h := HashHdr.ofNat (w.descLE x 0 64)
      let sp := w.desc p h.spill
      let spF := match sp with
        | some sp => chk sp.write sState ++ chk (decide (sp.ty = some .uint8)) sRange ++
            chk (decide ((h.spilled + c.count) * 16 ≤ sp.count)) sFull
        | none => []
      fin (base ++ f1 ++ f3 ++
        chk (decide (c.ty = s.ty) && decide (s.ty = some .uint8) && decide (16 * (c.start + c.count) ≤ s.count))
          sRange ++
        chk (hok && (hst.away || w.hashOk p h true)) sRange ++ (if hok && !hst.away then spF else []))
        (fun w =>
          if hst.away then Acc.none w hst c.count
          else
            match sp with
            | some sp => w.insertOp c s x h sp
            | none => { w := w })
    | _, _ => .fails (base ++ f1 ++ f3))
  | 0x04 =>
    let (s, f1) := w.operand p c.src false
    let (d, f2) := w.operand p c.dst true
    (match s, d with
    | some s, some d =>
      fin (base ++ f1 ++ f2 ++
        chk (decide (c.ty = d.ty) && decide (d.ty = some .int64) && d.inCellar && decide (d.rank = 1) &&
          (if c.mode = 0 then decide (s.ty = some .uint32) && decide (c.start + c.count ≤ s.count)
           else decide (128 * (c.start + c.count) ≤ s.count * s.w))) sRange) (fun w => w.histAddOp c s d)
    | _, _ => .fails (base ++ f1 ++ f2))
  | 0x05 =>
    let (s, f1) := w.operand p c.src false
    let (d, f2) := w.operand p c.dst true
    (match s, d with
    | some s, some d =>
      let bits := getAt 0 d.size 0 * d.w
      let rb := bits / 8
      fin (base ++ f1 ++ f2 ++
        chk (decide (c.ty = d.ty) && d.inCellar && decide (d.rank = 2) && decide (bits % 8 = 0) &&
          [4, 8, 16, 32, 64].contains rb && decide (d.bitOff = 0) && decide (d.base % rb = 0) &&
          decide (getAt 0 d.stride 0 = 1) && decide (getAt 0 d.stride 1 * d.w % (8 * (rb : Int)) = 0) &&
          (decide (c.mode = 0) || (d.ty.getD .bitmap).combinable) &&
          decide ((c.start + c.count) * 8 * (8 + alignUp rb 8) ≤ s.count * s.w)) sRange)
        (fun w => w.atomicRowOp c s d)
    | _, _ => .fails (base ++ f1 ++ f2))
  | 0x06 =>
    let (s, f1) := w.operand p c.src false
    let (d, f2) := w.operand p c.dst true
    let (x, f3) := w.operand p c.aux false
    let (tb, f4) := w.operand p (c.opa % 65536) false
    (match s, d, x, tb with
    | some s, some d, some x, some tb =>
      let width := getAt 0 tb.size 0
      fin (base ++ f1 ++ f2 ++ f3 ++ f4 ++
        chk (decide (c.ty = tb.ty) && (tb.ty.getD .bitmap).poolable && tb.inCellar && decide (tb.rank = 2) &&
          decide (width ≤ 256) && decide (width * tb.w ≤ 8192) && decide (s.ty = some .uint32) &&
          decide (x.ty = some .uint32) && decide (c.start + c.count + 1 ≤ getAt 0 x.size 0) &&
          decide (d.ty = some .fp32) && decide (d.rank = 2) && decide (getAt 0 d.size 0 = width)) sRange ++
        chk (decide (c.count ≤ getAt 0 d.size 1)) sFull) (fun w => w.gatherSumOp c s d x tb)
    | _, _, _, _ => .fails (base ++ f1 ++ f2 ++ f3 ++ f4))
  | 0x07 =>
    let (s, f1) := w.operand p c.src false
    let (d, f2) := w.operand p c.dst true
    (match s, d with
    | some s, some d =>
      fin (base ++ f1 ++ f2 ++
        chk (decide (c.ty = s.ty) && decide (s.ty = d.ty) && (s.inCellar || d.inCellar) && decide (c.start = 0) &&
          decide (c.count ≤ s.count) && decide (c.count ≤ d.count)) sRange ++
        chk (!s.overlaps d) sAlias) (fun w => w.copyOp c s d)
    | _, _ => .fails (base ++ f1 ++ f2))
  | 0x08 =>
    let (d, f2) := w.operand p c.dst true
    (match d with
    | some d =>
      fin (base ++ f2 ++ chk (decide (c.ty = d.ty) && d.inCellar && decide (c.start = 0)) sRange ++
        chk (decide (c.count ≤ d.count)) sFull) (fun w => w.fillOp c d)
    | none => .fails (base ++ f2))
  | _ => .fails [sRange]

/-- Commands in flight at the cellar command unit of a die (R132), those that a bank's copy holds among them. -/
def Work.celHeld (w : Work) (d : Nat) : Nat :=
  (w.cellar.filter (fun f => f.die = d)).length + (w.cellarWait.filter (fun x => issDie x.iss = d)).length

/-- An access that met no memory faults its plan and is reported (R115). -/
def Work.unmappedBy (w : Work) (die plan ctx : Nat) (a : Nat) : Work :=
  (w.faultPlan plan sUnmapped).event (dieSource 3 die) sUnmapped (ctx + detailAddr a)

/-- A stream's cellar or match emit takes effect when its command completes: the stream learns the command's status
(R252, R254). -/
def Work.emitCommandDone (w : Work) (iss : Issuer) (status : Nat) : Work :=
  match iss with
  | .stream d c =>
    let x := w.ctx d c
    let mark (es : List Emit) : List Emit :=
      match findIdx1 (fun e => decide (e = Emit.command false 0)) es with
      | some i => es.set i (.command true status)
      | none => es
    w.setCtx d c { x with emits := mark x.emits }
  | _ => w

/-- What a performed command met: its failures (R115, R155, R159). -/
def Acc.fails (a : Acc) : List Nat :=
  (if a.bad = 0 then [] else [sCheck]) ++ (if a.lost = 0 then [] else [sNoSpare]) ++
    (if a.unm.isSome then [sUnmapped] else []) ++ (if a.w.dtHit then [sRange] else [])

/-- The block after a performed command: its saturations, wrapped indices and further failures are counted, and an access
that met no memory is reported. -/
def Acc.settle (a : Acc) (iss : Issuer) (plan : Nat) : Work :=
  let w1 := (a.w.countSat (.cellar (issDie iss)) a.sats).countWrap (issCounter iss) a.wraps
  let w2 := match a.unm with
    | some x => w1.unmappedBy (issDie iss) plan 0 x
    | _ => w1
  w2.countFurther (.cellar (issDie iss)) a.fails

/-- A command at the cellar command unit: checked, performed, and in flight until its completion; a command that fails a
check completes at once (R129, R130). None where it meets a bank whose copy holds its operations (R157). -/
def Work.celRun (w : Work) (iss : Issuer) (plan : Nat) (r : Rec) (mute : Bool := false) : Option Work :=
  let c := CelCmd.ofRec r
  let die := issDie iss
  let fl (st dn rs po : Nat) : Flight :=
    { die := die, iss := iss, plan := plan, tag := c.tag, comp := if mute then 0 else resolveRecord iss c.comp, status := st, done := dn,
      result := rs, poison := po }
  match w.celCheck plan c with
  | .fails fs => some (((w.countFurther (.cellar die) fs).finish (fl (lowest fs) 0 0 0)).emitCommandDone iss (lowest fs))
  | .go run =>
    let a := run w
    if a.held then none
    else
      let v := a.settle iss plan
      some { v with cellar := v.cellar ++ [fl (lowest a.fails) a.done a.result (a.bad + a.lost)] }

/-- The slots that a command names, as they are when it is issued (R102): the spill list's stands in the header. -/
def Work.celHolds (w : Work) (p : Nat) (r : Rec) : Held :=
  let c := CelCmd.ofRec r
  let spill := match c.op, w.desc p c.aux with
    | 0x03, some x => [(HashHdr.ofNat (w.descLE x 0 64)).spill]
    | _, _ => []
  w.hold p ([c.src, c.dst, c.aux, c.opa % 65536] ++ spill)

/-- A command as it was issued runs, or goes on waiting for a bank's copy; the commands of one issuer keep their order (R131,
R157). (Log entry 164, DESIGN CHOICE.) -/
def Work.celTry (w : Work) (x : CmdWait) : Work :=
  if w.cellarWait.any (fun y => y.iss = x.iss) then { w with cellarWait := w.cellarWait ++ [x] }
  else
    match { w.lend x.plan x.held with holding := true }.celRun x.iss x.plan x.r x.mute with
    | some w' => { w' with slots := w.slots, holding := false }
    | none => { w with cellarWait := w.cellarWait ++ [x] }

/-- A command accepted by the cellar command unit (R132). -/
def Work.celAccept (w : Work) (iss : Issuer) (r : Rec) : Work :=
  let plan := w.planOf iss
  w.celTry { iss := iss, r := r, plan := plan, held := w.celHolds plan r }

/-- The commands that waited for a bank's copy go on, the oldest first (R157). -/
def Work.celResume (w : Work) : Work :=
  w.cellarWait.foldl Work.celTry { w with cellarWait := [] }

/-- Room for one more tap-path request of a core (R240). -/
def Work.tapRoom (w : Work) : Issuer → Bool
  | .core d g => decide ((w.core d g).tapout < 64)
  | _ => true

/-- A tap-path request of a core is issued: tapout rises (R240). -/
def Work.tapIssue (w : Work) : Issuer → Work
  | .core d g =>
    let c := w.core d g
    w.setCore d g { c with tapout := c.tapout + 1 }
  | _ => w

/-- A cellar command as its issuer gives it (R128, R132): with 4,096 commands in flight a core and a stream wait,
and firmware's command completes at once with OUT_FULL. (Log entry 16, DESIGN CHOICE.) -/
def Work.celIssue (w : Work) (iss : Issuer) (r : Rec) : Work :=
  if 4096 ≤ w.celHeld (issDie iss) then
    match iss with
    | .firmware _ die =>
      let c := CelCmd.ofRec r
      w.finish { die := die, iss := iss, plan := firmwareTable, tag := c.tag, comp := resolveRecord iss c.comp, status := sFull,
                 done := 0, result := 0, poison := 0 }
    | _ => w
  else if w.tapRoom iss then (w.tapIssue iss).celAccept iss r
  else w

/-- A row of the table for one OP: a record with another OP is not that command. -/
def Work.celRow (w : Work) (op : Nat) (iss : Issuer) (r : Rec) : Work :=
  if recF r 7 0 = op then w.celIssue iss r else w

/-- SCAN_FILTER (R134 to R136). -/
def execScanFilter (iss : Issuer) (r : Rec) (s : State) : Out :=
  s.perform (.scanFilter iss r) (fun w => w.celRow 0x01 iss r)
/-- PROBE (R141, R142). -/
def execProbe (iss : Issuer) (r : Rec) (s : State) : Out :=
  s.perform (.probe iss r) (fun w => w.celRow 0x02 iss r)
/-- INSERT (R143). -/
def execInsert (iss : Issuer) (r : Rec) (s : State) : Out :=
  s.perform (.insert iss r) (fun w => w.celRow 0x03 iss r)
/-- HIST_ADD (R146). -/
def execHistAdd (iss : Issuer) (r : Rec) (s : State) : Out :=
  s.perform (.histAdd iss r) (fun w => w.celRow 0x04 iss r)
/-- ATOMIC_ROW (R147, R148). -/
def execAtomicRow (iss : Issuer) (r : Rec) (s : State) : Out :=
  s.perform (.atomicRow iss r) (fun w => w.celRow 0x05 iss r)
/-- GATHER_SUM (R149 to R151). -/
def execGatherSum (iss : Issuer) (r : Rec) (s : State) : Out :=
  s.perform (.gatherSum iss r) (fun w => w.celRow 0x06 iss r)
/-- COPY (R152). -/
def execCopy (iss : Issuer) (r : Rec) (s : State) : Out :=
  s.perform (.copy iss r) (fun w => w.celRow 0x07 iss r)
/-- FILL (R153). -/
def execFill (iss : Issuer) (r : Rec) (s : State) : Out :=
  s.perform (.fill iss r) (fun w => w.celRow 0x08 iss r)

/-! ## Completion, scrubbing and spare banks -/

/-- The k-th of the commands in flight of a die, and the others. -/
def takeFlight (fs : List Flight) (die k : Nat) : Option (Flight × List Flight) :=
  match (fs.filter (fun f => f.die = die))[k]? with
  | none => none
  | some f => some (f, fs.erase f)


/-- CELLAR_COMPLETION (R130): the record is written when the last row operation has taken effect.
(Log entry 15, DESIGN CHOICE.) -/
def execCellarCompletion (die k : Nat) (s : State) : Out :=
  s.perform (.cellarCompletion die k) (fun w =>
    match takeFlight w.cellar die k with
    | none => w
    | some (f, rest) => (({ w with cellar := rest }).finish f).emitCommandDone f.iss f.status)

/-- Poison appears on a cellar row, or an error is corrected and counted; the count of corrections is of one pass,
which begins at row 0 (R154, R156, R157). (Log entry 38, DEDUCED.) -/
def Work.cellarEcc (w0 : Work) (d b row : Nat) (found : Ecc) : Work :=
  let a := cellarOf d + row * 65536 + b * 64
  let w := if row = 0 then w0.setBank d b { w0.bank d b with ce := 0 } else w0
  let x := w.bank d b
  match found with
  | .clean => w
  | .corrected =>
    let w := w.setBank d b { x with ce := x.ce + 1 }
    { w.bump F.celErrCeCount d 0 with errs := { w.errs with ce := w.errs.ce + 1 } }
  | .uncorrectable =>
    if w.isBad a then w
    else
      let w := w.setBank d b { x with ueRows := setInsert x.ueRows row }
      ((w.unitUe kBank d b a).bump F.celErrUeCount d 0).poisonRow a

/-- CELLAR_SCRUB (R154, R156): a row read by the patrol scrubber of its bank. (Log entry 38, DEDUCED.) -/
def execCellarScrub (die bank row : Nat) (found : Ecc) (s : State) : Out :=
  s.perform (.cellarScrub die bank row found) (fun w => w.cellarEcc die bank row found)

/-- A data bank goes out of service without a spare (R159). -/
def Work.loseBank (w : Work) (die bank cause : Nat) : Work :=
  let x := { w.bank die bank with lost := true, copying := 0 }
  (((w.setBank die bank x).noSpare kBank die bank cause 0).bump F.celErrFenced die 0).degrade die

/-- Banks of a die that are being copied: each has a spare set aside (R157). -/
def Work.banksCopying (w : Work) (die : Nat) : Nat :=
  (w.dataBanks.filter (fun x => decide (x.1 / 1024 = die) && decide (x.2.copying ≠ 0))).length

/-- A data bank taken out of service for a cause: its copy to a spare begins, or it is lost (R157, R159). -/
def Work.fenceBank (w : Work) (die bank cause : Nat) : Work :=
  let x := w.bank die bank
  if x.lost || decide (x.copying ≠ 0) then w
  else if (w.spareList kBank die).length ≤ w.banksCopying die then w.loseBank die bank cause
  else w.setBank die bank { x with copying := cause }

/-- DATA_BANK_FENCE (R157, R159): firmware fences a bank for its cause; the copy to a spare begins, or with no
spare left the bank goes out of service. -/
def execDataBankFence (die bank cause : Nat) (s : State) : Out :=
  s.perform (.dataBankFence die bank cause) (fun w =>
    let x := w.bank die bank
    let limit := w.rd F.celScrubCeLimit die 0
    let due := match cause with
      | 1 => decide (2 ≤ x.ueRows.length)
      | 2 => decide (limit ≠ 0) && decide (limit < x.ce)
      | 3 => true
      | _ => false
    if due then w.fenceBank die bank cause else w)

end Sys2Proof.Machine
end

