-- ==== Sys2Proof/Machine/Match.lean ====
section
/-! DEFINITION. The associative match banks and the match command unit: chapter 06. -/

namespace Sys2Proof.Machine

/-- A row that holds nothing. -/
def MRow.atReset : MRow := ⟨0, 0, false, 0, 0, 0, 0, false, false⟩
/-- A bank that holds nothing. -/
def MBank.atReset : MBank := ⟨[], [], false, 0, [], 0, 0⟩

/-- Match bank b of cellar die d. -/
def Work.mbank (w : Work) (d b : Nat) : MBank := smGet MBank.atReset w.matchBanks (d * 128 + b)
/-- Match bank b of cellar die d replaced. -/
def Work.setMbank (w : Work) (d b : Nat) (x : MBank) : Work :=
  { w with matchBanks := smSet MBank.atReset w.matchBanks (d * 128 + b) x }

/-- A row of a bank. -/
def MBank.row (b : MBank) (r : Nat) : MRow := smGet MRow.atReset b.rows r
/-- The parity of an array row: key, care mask and valid bit. (Log entry 165, DESIGN CHOICE.) -/
def MRow.parity (r : MRow) : Bool :=
  (List.range 64).foldl (fun p i => (p != bitOf r.key i) != bitOf r.care i) r.valid

/-- A row of a bank written, with its parity bit. -/
def MBank.setRow (b : MBank) (r : Nat) (x : MRow) : MBank :=
  { b with rows := smSet MRow.atReset b.rows r { x with par := x.parity } }

/-- W of R161 for a WIDTH code. -/
def unitsOf (width : Nat) : Nat := 2 ^ width

/-! ## Searching (R164 to R168) -/

/-- Entry e matches a key in the array (R164). -/
def MBank.matches (b : MBank) (n e : Nat) (key : List Nat) : Bool :=
  (b.row (n * e)).valid &&
  (List.range n).all (fun u =>
    let r := b.row (n * e + u)
    decide ((getAt 0 key u ^^^ r.key) &&& r.care = 0))

/-- The verify copy of an entry matches the key (R167). -/
def MBank.verifies (b : MBank) (n e : Nat) (key : List Nat) : Bool :=
  (List.range n).all (fun u =>
    let r := b.row (n * e + u)
    decide ((getAt 0 key u ^^^ r.vkey) &&& r.vcare = 0))

/-- Some unit of the entry has an uncorrectable verify copy. -/
def MBank.entryUe (b : MBank) (n e : Nat) : Bool := (List.range n).any (fun u => (b.row (n * e + u)).ue)

/-- Array rows of an entry rewritten from the verify copy (R168). -/
def MBank.rewrite (b : MBank) (n e : Nat) : MBank :=
  (List.range n).foldl (fun b u =>
    let r := b.row (n * e + u)
    b.setRow (n * e + u) { r with key := r.vkey, care := r.vcare }) b

/-- The answer of a bank or a table. -/
structure Hit where
  prio : Nat
  result : Nat
  maddr : Nat
  deriving DecidableEq, Repr

/-- What a search leaves: the banks as changed, the answer, false hits, and entries cleared for their copies. -/
structure Searched where
  bank : MBank
  hit : Option Hit
  falseHits : Nat
  cleared : Nat

/-- The candidates in order of priority, then of address (R166, R167). -/
def MBank.candidates (b : MBank) (n : Nat) (key : List Nat) : List Nat :=
  let es := (b.rows.filter (fun r => r.1 % n = 0 && r.2.valid)).map (fun r => r.1 / n)
  let cs := es.filter (fun e => b.matches n e key)
  sortBy (fun x y =>
    decide ((b.row (n * y)).prio < (b.row (n * x)).prio) ||
    (decide ((b.row (n * x)).prio = (b.row (n * y)).prio) && decide (x ≤ y))) cs

/-- The loop of R167 over the candidates of one bank; `base` is the match address of its row 0. -/
def bankTry (n base : Nat) (key : List Nat) : List Nat → Searched → Searched
  | [], s => s
  | e :: es, s =>
    if s.bank.entryUe n e then
      let r := s.bank.row (n * e)
      let rows := ((List.range n).filter (fun u => (s.bank.row (n * e + u)).ue)).map (n * e + ·)
      bankTry n base key es
        { s with bank := { s.bank.setRow (n * e) { r with valid := false } with
                             ueRows := rows.foldl setInsert s.bank.ueRows }, cleared := s.cleared + 1 }
    else if s.bank.verifies n e key then
      let r := s.bank.row (n * e)
      { s with hit := some ⟨r.prio, r.result, base + n * e⟩ }
    else bankTry n base key es { s with bank := s.bank.rewrite n e, falseHits := s.falseHits + 1 }

/-- The search of one bank (R167). -/
def MBank.search (b : MBank) (n base : Nat) (key : List Nat) : Searched :=
  bankTry n base key (b.candidates n key) ⟨b, none, 0, 0⟩

/-- The better of two answers: the higher priority, then the lower match address (R166). -/
def betterHit : Option Hit → Option Hit → Option Hit
  | none, y => y
  | x, none => x
  | some x, some y =>
    if x.prio < y.prio ∨ (x.prio = y.prio ∧ y.maddr < x.maddr) then some y else some x

/-- A table search: the answer, false hits, entries cleared, and the block as it leaves it (R166 to R168). -/
def Work.tableSearch (w : Work) (d first cnt n : Nat) (key : List Nat) : Work × Option Hit × Nat × Nat :=
  (List.range cnt).foldl (fun (p : Work × Option Hit × Nat × Nat) j =>
    let b := first + j
    let s := (p.1.mbank d b).search n (d * 2 ^ 20 + b * 8192) key
    let w1 := (p.1.setMbank d b s.bank).bump F.matchErrFalseHits d 0 s.falseHits
    let w2 := w1.bump F.matchErrUeCount d 0 s.cleared
    let w3 := { w2 with errs := { w2.errs with ue := w2.errs.ue + s.cleared } }
    (w3, betterHit p.2.1 s.hit, p.2.2.1 + s.falseHits, p.2.2.2 + s.cleared)) (w, none, 0, 0)

/-- The search result record (R173). -/
def searchRecord (h : Option Hit) (falseHits idx : Nat) : List Byte :=
  match h with
  | some x => toBytes 4 x.result ++
      toBytes 4 (x.prio % 65536 + 65536 + min falseHits 7 * 2 ^ 17) ++ toBytes 4 x.maddr ++ toBytes 4 idx
  | none => toBytes 4 absent32 ++ toBytes 4 (min falseHits 7 * 2 ^ 17) ++ toBytes 4 absent32 ++ toBytes 4 idx

/-! ## Entries (R175 to R177) -/

/-- An entry to store, at its first row. -/
structure MEntry where
  bank : Nat
  st : MStage
  deriving DecidableEq, Repr

/-- The entry record of R175 from its bytes as one number: key bits without care are cleared (R176). -/
def entryOf (n first cnt x : Nat) : MEntry :=
  let row := fieldOf x 0 13
  { bank := first + fieldOf x 13 7 % cnt,
    st := { row := row - row % n, clear := false, valid := bitOf x 20, prio := fieldOf x 32 16,
            result := fieldOf x 64 32,
            units := (List.range n).map (fun u =>
              let care := fieldOf x (192 + 128 * u) 64
              (fieldOf x (128 + 128 * u) 64 &&& care, care)) } }

/-- A stored entry: array rows and companions together (R176). -/
def MBank.store (b : MBank) (s : MStage) : MBank :=
  if s.clear then b.setRow s.row { b.row s.row with valid := false }
  else
    (List.range s.units.length).foldl (fun b u =>
      let (k, c) := getAt (0, 0) s.units u
      b.setRow (s.row + u) ⟨k, c, s.valid && decide (u = 0), if u = 0 then s.prio else 0,
        if u = 0 then s.result else 0, k, c, false, false⟩) b

/-- A staged change joins its bank's buffer (R179). -/
def MBank.stage (b : MBank) (s : MStage) : MBank := { b with staged := b.staged ++ [s] }

/-- The first n staged changes of a bank applied in staging order (R179). -/
def MBank.applyDue (b : MBank) (n : Nat) : MBank :=
  { (b.staged.take n).foldl MBank.store b with staged := b.staged.drop n, due := 0 }

/-- Every change staged on the banks applied at a tick; those of a bank that is being copied stay staged until the copy ends
(R179, R183). -/
def Work.applyStaged (w : Work) : Work :=
  let one (b : MBank) : MBank :=
    if b.copying = 0 then b.applyDue b.staged.length else { b with due := b.staged.length }
  { w with matchBanks := (w.matchBanks.map (fun p => (p.1, one p.2))).filter (fun p => p.2 ≠ MBank.atReset) }

/-- The entry record that READ writes, from the verify copies (R177). -/
def MBank.record (b : MBank) (bankInTable n e : Nat) : List Byte × Bool :=
  let r := b.row (n * e)
  let ue := b.entryUe n e
  let hdr := n * e + bankInTable * 2 ^ 13 + (if r.valid && !ue then 2 ^ 20 else 0) +
    (if ue then 0 else r.prio * 2 ^ 32 + r.result * 2 ^ 64)
  (toBytes 16 hdr ++ (List.range n).flatMap (fun u =>
    let x := b.row (n * e + u)
    if ue then List.replicate 16 0 else toBytes 8 x.vkey ++ toBytes 8 x.vcare), ue)

/-- The banks of a range configured to a width and cleared (R180). -/
def Work.matchConfigure (w : Work) (d first cnt width : Nat) : Work :=
  (List.range cnt).foldl (fun w j =>
    let b := w.mbank d (first + j)
    (w.setMbank d (first + j) { b with rows := [], staged := [] }).wr F.matchBankCfgWidth d (first + j) width) w

/-! ## Commands -/

/-- A match command (R170). -/
structure MatCmd where
  op : Nat
  die : Nat
  first : Nat
  cnt : Nat
  width : Nat
  staged : Bool
  src : Nat
  dst : Nat
  tag : Nat
  count : Nat
  start : Nat
  comp : Nat
  key : List Nat
  reservedZero : Bool
  deriving DecidableEq, Repr

/-- The fields of R170. -/
def MatCmd.ofRec (r : Rec) : MatCmd :=
  { op := recF r 7 0, die := recF r 9 8, first := recF r 16 10, cnt := recF r 24 17, width := recF r 26 25,
    staged := recB r 27, src := recF r 47 32, dst := recF r 63 48, tag := recF r 79 64, count := recF r 127 96,
    start := recF r 159 128, comp := recF r 211 160,
    key := (List.range 4).map (fun u => fieldOf r.toNat (256 + 64 * u) 64),
    reservedZero := recZero r [(31, 28), (95, 80), (255, 212)] }

/-- W of the command. -/
def MatCmd.n (c : MatCmd) : Nat := unitsOf c.width
/-- The bytes of one of its entry records (R175). -/
def MatCmd.entBytes (c : MatCmd) : Nat := 16 + 16 * c.n
/-- The logical banks of its table. -/
def MatCmd.banks (c : MatCmd) : List Nat := (List.range c.cnt).map (c.first + ·)

/-- A match bank lies in a plan's partition; firmware may name any (R98, R672). -/
def Work.bankGranted (w : Work) (p d b : Nat) : Bool :=
  decide (p = firmwareTable) || (w.partition p).banks.contains (d, b)

/-- Whether a command is in flight on a bank (MATCH_BANK_CFG.BUSY), held for a copy or not. -/
def Work.bankBusy (w : Work) (d b : Nat) : Bool :=
  w.mtch.any (fun f => decide (f.tdie = d) && decide (f.first ≤ b) && decide (b < f.first + f.banks)) ||
  w.matchWait.any (fun x =>
    let c := MatCmd.ofRec x.r
    decide (c.die = d) && decide (c.first ≤ b) && decide (b < c.first + c.cnt))

/-- The changes of a staged WRITE or CLEAR by bank: how many land in bank b. -/
def Work.landing (w : Work) (c : MatCmd) (src : Option Desc) (b : Nat) : Nat :=
  let per := 8192 / c.n
  match c.op, src with
  | 0x23, some s => ((List.range c.count).filter (fun k =>
      decide ((entryOf c.n c.first c.cnt (w.streamLE s ((c.start + k) * c.entBytes) 16)).bank = b))).length
  | 0x24, _ =>
    let lo := max c.start ((b - c.first) * per)
    let hi := min (c.start + c.count) ((b - c.first + 1) * per)
    hi - lo
  | _, _ => 0

/-- The checks of R171. (Log entry 37, DEDUCED.) -/
def Work.matCheck (w : Work) (p : Nat) (c : MatCmd) (s d : Option Desc) : List Nat :=
  let known := decide (0x21 ≤ c.op) && decide (c.op ≤ 0x26)
  let rangeOk := decide (1 ≤ c.cnt) && decide (c.first + c.cnt ≤ 128)
  let keyOk := if c.op = 0x22 then (c.key.drop c.n).all (· = 0) else c.key.all (· = 0)
  let oneOk := if c.op = 0x22 ∨ c.op = 0x26 then decide (c.count = 1) else decide (1 ≤ c.count)
  let stageOk := !c.staged || decide (c.op = 0x23) || decide (c.op = 0x24)
  let needS := decide (c.op = 0x21) || decide (c.op = 0x23)
  let needD := decide (c.op = 0x21) || decide (c.op = 0x25)
  if !known then [sRange]
  else
    chk (c.reservedZero && keyOk && rangeOk && oneOk && stageOk && decide (c.width < 3)) sRange ++
    (if rangeOk then
      chk (c.banks.all (fun b => w.bankGranted p c.die b)) sRange ++
      chk (decide (c.op = 0x26) || c.banks.all (fun b => decide (w.rd F.matchBankCfgWidth c.die b = c.width))) sRange
     else []) ++
    (if needS then
      match s with
      | none => [sState]
      | some s =>
        chk (if c.op = 0x21 then decide (s.ty = some .int64) && decide ((c.start + c.count) * c.n ≤ s.count)
             else decide (s.ty = some .uint8) && decide ((c.start + c.count) * c.entBytes ≤ s.count)) sRange
     else []) ++
    (if needD then
      match d with
      | none => [sState]
      | some d =>
        chk d.write sState ++ chk (decide (d.ty = some .uint8)) sRange ++
        chk (decide (c.count * (if c.op = 0x21 then 16 else c.entBytes) ≤ d.count)) sFull
     else []) ++
    (if c.op = 0x24 ∨ c.op = 0x25 then chk (decide (c.start + c.count ≤ c.cnt * (8192 / c.n))) sRange else []) ++
    (if c.staged && rangeOk then
      chk (c.banks.all (fun b => decide ((w.mbank c.die b).staged.length + w.landing c s b ≤ 256))) sFull
     else []) ++
    (if c.op = 0x26 ∧ rangeOk = true then
      chk (c.banks.all (fun b => !w.bankBusy c.die b && (w.mbank c.die b).staged.isEmpty)) sState
     else [])

/-- The key of search k (R173); none when a unit of it is delivered as zeros. -/
def Work.searchKey (w : Work) (c : MatCmd) (s : Desc) (k : Nat) : Option (List Nat) × RowSt :=
  let at0 := (c.start + k) * c.n
  match w.elemsState s at0 c.n with
  | .ok => (some (w.elems s at0 c.n), .ok)
  | st => (none, st)

/-- SEARCH on its keys (R173). -/
def Work.searchOp (w : Work) (c : MatCmd) (s d : Desc) (out : Bool) : Acc × Nat :=
  (List.range c.count).foldl (fun (p : Acc × Nat) k =>
    let a := p.1
    match a.w.elemsState d (16 * k) 16 with
    | .ok =>
      (match a.w.searchKey c s k with
      | (some key, _) =>
        let (w1, h, fh, cl) := if out then (a.w, none, 0, 0) else a.w.tableSearch c.die c.first c.cnt c.n key
        ((({ a with w := w1, done := a.done + 1 } : Acc).put d (16 * k) (searchRecord h fh (c.start + k))).res h.isSome, p.2 + cl)
      | (none, st) =>
        ((a.put d (16 * k) (searchRecord none 0 (c.start + k))).skip st (s.at 0 / 8), p.2))
    | st => (a.skip st (d.at (16 * k) / 8), p.2)) ({ w := w }, 0)

/-- A change of an entry, staged or at once (R176, R177, R179). -/
def Work.change (w : Work) (d b : Nat) (staged : Bool) (s : MStage) : Work :=
  let x := w.mbank d b
  w.setMbank d b (if staged then x.stage s else x.store s)

/-- WRITE on its records (R175, R176). -/
def Work.writeOp (w : Work) (c : MatCmd) (s : Desc) : Acc :=
  Acc.each { w := w } c.count (fun a k =>
    let off := (c.start + k) * c.entBytes
    match a.w.streamState s off c.entBytes with
    | .ok =>
      let e := entryOf c.n c.first c.cnt (a.w.streamLE s off c.entBytes)
      (a.did (a.w.change c.die e.bank c.staged e.st)).res true
    | st => a.skip st (s.at 0 / 8))

/-- CLEAR on its entries (R177). -/
def Work.clearOp (w : Work) (c : MatCmd) : Acc :=
  let per := 8192 / c.n
  Acc.each { w := w } c.count (fun a k =>
    let e := c.start + k
    (a.did (a.w.change c.die (c.first + e / per) c.staged ⟨c.n * (e % per), true, false, 0, 0, []⟩)).res true)

/-- READ of its entries (R177); the second part says whether a copy was uncorrectable. (Log entry 37, DEDUCED.) -/
def Work.readOp (w : Work) (c : MatCmd) (d : Desc) : Acc × Nat :=
  let per := 8192 / c.n
  (List.range c.count).foldl (fun (p : Acc × Nat) k =>
    let a := p.1
    let e := c.start + k
    let (bs, ue) := (a.w.mbank c.die (c.first + e / per)).record (e / per) c.n (e % per)
    match a.w.elemsState d (k * c.entBytes) c.entBytes with
    | .ok => ((({ a with done := a.done + 1 } : Acc).put d (k * c.entBytes) bs).res true, p.2 + (if ue then 1 else 0))
    | st => (a.skip st (d.at (k * c.entBytes) / 8), p.2)) ({ w := w }, 0)

/-- A match command at the match command unit (R171, R172). A table with a bank out of service completes with NO_SPARE: its
searches miss and it writes no entry (R185). RESULT of CONFIGURE counts every entry of its banks at the width that it sets.
None where the copy of a bank holds it (R183). (Log entries 37, DEDUCED; 164, DESIGN CHOICE.) -/
def Work.matRun (w : Work) (iss : Issuer) (p : Nat) (r : Rec) (mute : Bool := false) : Option Work :=
  let c := MatCmd.ofRec r
  let die := issDie iss
  let s := w.desc p c.src
  let d := w.desc p c.dst
  let miss := List.replicate 16 (0 : Byte)
  let fl (st dn rs po : Nat) (extra : List Byte) : Flight :=
    { die := die, iss := iss, plan := p, tag := c.tag, comp := if mute then 0 else resolveRecord iss c.comp, status := st, done := dn,
      result := rs, poison := po, extra := extra, tdie := c.die, first := c.first, banks := c.cnt }
  let fs := w.matCheck p c s d
  if !fs.isEmpty then some (((w.countFurther (.mtch die) fs).finish (fl (lowest fs) 0 0 0 miss)).emitCommandDone iss (lowest fs))
  else if c.banks.any (fun b => (w.mbank c.die b).copying ≠ 0) then none
  else
    let out := c.banks.any (fun b => (w.mbank c.die b).lost)
    let (a, cleared, seen, extra) : Acc × Nat × Nat × List Byte :=
      match c.op, s, d with
      | 0x21, some s, some d =>
        let (a, cl) := w.searchOp c s d out
        (a, cl, 0, miss)
      | 0x22, _, _ =>
        let (w1, h, fh, cl) := if out then (w, none, 0, 0) else w.tableSearch c.die c.first c.cnt c.n c.key
        ((({ w := w } : Acc).did w1).res h.isSome, cl, 0, searchRecord h fh 0)
      | 0x23, some s, _ => if out then ({ w := w }, 0, 0, miss) else (w.writeOp c s, 0, 0, miss)
      | 0x24, _, _ => if out then ({ w := w }, 0, 0, miss) else (w.clearOp c, 0, 0, miss)
      | 0x25, _, some d =>
        if out then ({ w := w }, 0, 0, miss)
        else
          let (a, ue) := w.readOp c d
          (a, 0, ue, miss)
      | 0x26, _, _ =>
        if out then ({ w := w }, 0, 0, miss)
        else ({ w := w.matchConfigure c.die c.first c.cnt c.width, done := 1, result := c.cnt * (8192 / c.n) }, 0, 0, miss)
      | _, _, _ => ({ w := w }, 0, 0, miss)
    if a.held then none else
    let fs := (if a.bad + cleared + seen = 0 then [] else [sCheck]) ++ (if out || decide (a.lost ≠ 0) then [sNoSpare] else []) ++
      (if a.unm.isSome then [sUnmapped] else []) ++ (if a.w.dtHit then [sRange] else [])
    let w2 := match a.unm with
      | some x => a.w.unmappedBy die p 0 x
      | none => a.w
    let w3 := (w2.countFurther (.mtch die) fs).countSat (.mtch die) a.sats
    some { w3 with mtch := w3.mtch ++ [fl (lowest fs) a.done a.result (a.bad + a.lost + cleared) extra] }

/-- A command as it was issued runs, or goes on waiting for a bank's copy; the commands of one issuer keep their order (R178,
R183). (Log entry 164, DESIGN CHOICE.) -/
def Work.matTry (w : Work) (x : CmdWait) : Work :=
  if w.matchWait.any (fun y => y.iss = x.iss) then { w with matchWait := w.matchWait ++ [x] }
  else
    match { w.lend x.plan x.held with holding := true }.matRun x.iss x.plan x.r x.mute with
    | some w' => { w' with slots := w.slots, holding := false }
    | none => { w with matchWait := w.matchWait ++ [x] }

/-- A command accepted by the match command unit (R174). -/
def Work.matAccept (w : Work) (iss : Issuer) (r : Rec) : Work :=
  let plan := w.planOf iss
  w.matTry { iss := iss, r := r, plan := plan, held := w.hold plan [(MatCmd.ofRec r).src, (MatCmd.ofRec r).dst] }

/-- The commands that waited for a bank's copy go on, the oldest first (R183). -/
def Work.matResume (w : Work) : Work := w.matchWait.foldl Work.matTry { w with matchWait := [] }

/-- Commands in flight at the match command unit of a die (R174), those that a bank's copy holds among them. -/
def Work.matHeld (w : Work) (d : Nat) : Nat :=
  (w.mtch.filter (fun f => f.die = d)).length + (w.matchWait.filter (fun x => issDie x.iss = d)).length

/-- A match command as its issuer gives it, refused or held as R132 gives (R170, R174).
(Log entry 16, DESIGN CHOICE.) -/
def Work.matIssue (w : Work) (iss : Issuer) (r : Rec) : Work :=
  if 4096 ≤ w.matHeld (issDie iss) then
    match iss with
    | .firmware _ die =>
      let c := MatCmd.ofRec r
      w.finish { die := die, iss := iss, plan := firmwareTable, tag := c.tag, comp := resolveRecord iss c.comp, status := sFull,
                 done := 0, result := 0, poison := 0, extra := List.replicate 16 0 }
    | _ => w
  else if w.tapRoom iss then (w.tapIssue iss).matAccept iss r
  else w

/-- A row of the table for one OP: a record with another OP is not that command. -/
def Work.matRow (w : Work) (op : Nat) (iss : Issuer) (r : Rec) : Work :=
  if recF r 7 0 = op then w.matIssue iss r else w

/-- SEARCH (R173). -/
def execSearch (iss : Issuer) (r : Rec) (s : State) : Out :=
  s.perform (.search iss r) (fun w => w.matRow 0x21 iss r)
/-- SEARCH_ONE (R172, R173). -/
def execSearchOne (iss : Issuer) (r : Rec) (s : State) : Out :=
  s.perform (.searchOne iss r) (fun w => w.matRow 0x22 iss r)
/-- WRITE (R175, R176). -/
def execMatchWrite (iss : Issuer) (r : Rec) (s : State) : Out :=
  s.perform (.matchWrite iss r) (fun w => w.matRow 0x23 iss r)
/-- CLEAR (R177). -/
def execMatchClear (iss : Issuer) (r : Rec) (s : State) : Out :=
  s.perform (.matchClear iss r) (fun w => w.matRow 0x24 iss r)
/-- READ (R177). -/
def execMatchRead (iss : Issuer) (r : Rec) (s : State) : Out :=
  s.perform (.matchRead iss r) (fun w => w.matRow 0x25 iss r)
/-- CONFIGURE (R180). -/
def execConfigure (iss : Issuer) (r : Rec) (s : State) : Out :=
  s.perform (.configure iss r) (fun w => w.matRow 0x26 iss r)

/-- MATCH_COMPLETION (R172). -/
def execMatchCompletion (die k : Nat) (s : State) : Out :=
  s.perform (.matchCompletion die k) (fun w =>
    match takeFlight w.mtch die k with
    | none => w
    | some (f, rest) => (({ w with mtch := rest }).finish f).emitCommandDone f.iss f.status)

/-- MATCH_SCRUB (R169): a row that differs from its verify copy is rewritten and counted as a scrub fix; an
uncorrectable copy is counted and marked. (Log entry 38, DEDUCED.) -/
def execMatchScrub (die bank row : Nat) (found : Ecc) (s : State) : Out :=
  s.perform (.matchScrub die bank row found) (fun w =>
    let b := w.mbank die bank
    let b := if row = 0 then { b with fixes := 0 } else b
    let r := b.row row
    let differs := decide (r.key ≠ r.vkey) || decide (r.care ≠ r.vcare) || decide (r.par ≠ r.parity) ||
      decide (found = .corrected)
    if found = .uncorrectable then
      if r.ue then w.setMbank die bank b
      else
        let w := w.setMbank die bank { b.setRow row { r with ue := true } with ueRows := setInsert b.ueRows row }
        (w.unitUe kMatch die bank (die * 2 ^ 20 + bank * 8192 + row)).bump F.matchErrUeCount die 0
    else if differs then
      let w := w.setMbank die bank { b.setRow row { r with key := r.vkey, care := r.vcare } with fixes := b.fixes + 1 }
      let w := { w with errs := { w.errs with ce := w.errs.ce + 1 } }
      w.bump F.matchErrScrubFix die 0
    else w.setMbank die bank b)

/-- A match bank goes out of service without a spare (R185). -/
def Work.loseMatchBank (w : Work) (die bank cause : Nat) : Work :=
  let b := { w.mbank die bank with lost := true, copying := 0 }
  (((w.setMbank die bank b).noSpare kMatch die bank cause 0).bumpSat F.matchErrFenced die 0).degrade die

/-- Match banks of a die that are being copied: each has a spare set aside (R183). -/
def Work.mbanksCopying (w : Work) (die : Nat) : Nat :=
  (w.matchBanks.filter (fun x => decide (x.1 / 128 = die) && decide (x.2.copying ≠ 0))).length

/-- A match bank taken out of service for a cause: its copy to a spare begins, or it is lost (R183, R185). -/
def Work.fenceMatchBank (w : Work) (die bank cause : Nat) : Work :=
  let b := w.mbank die bank
  if b.lost || decide (b.copying ≠ 0) then w
  else if (w.spareList kMatch die).length ≤ w.mbanksCopying die then w.loseMatchBank die bank cause
  else w.setMbank die bank { b with copying := cause }

/-- MATCH_BANK_FENCE (R183, R185). -/
def execMatchBankFence (die bank cause : Nat) (s : State) : Out :=
  s.perform (.matchBankFence die bank cause) (fun w =>
    let b := w.mbank die bank
    let limit := w.rd F.matchScrubCeLimit die 0
    let due := match cause with
      | 1 => decide (2 ≤ b.ueRows.length)
      | 2 => decide (limit ≠ 0) && decide (limit < b.fixes)
      | 3 => true
      | _ => false
    if due then w.fenceMatchBank die bank cause else w)

/-- MATCH_FENCE_COPY_DONE (R183, R184): entries come from their verify copies; those whose copies cannot be
corrected are invalid in the spare. The work held meanwhile proceeds: changes whose tick has come, then commands. -/
def execMatchFenceCopyDone (die bank : Nat) (s : State) : Out :=
  s.perform (.matchFenceCopyDone die bank) (fun w =>
    let b := w.mbank die bank
    if b.copying = 0 then w
    else if (w.spareList kMatch die).isEmpty then (w.loseMatchBank die bank b.copying).matResume
    else
      let n := unitsOf (w.rd F.matchBankCfgWidth die bank)
      let rows := (b.rows.map (fun p =>
        (p.1, if b.entryUe n (p.1 / n) then MRow.atReset
              else
                let r : MRow := { p.2 with key := p.2.vkey, care := p.2.vcare }
                { r with par := r.parity }))).filter (fun p => p.2 ≠ MRow.atReset)
      let nb : MBank := { rows := rows, staged := b.staged, lost := false, copying := 0, ueRows := [], fixes := 0,
                          due := 0 }
      (((w.setMbank die bank (nb.applyDue b.due)).fenceToSpare kMatch die bank b.copying 0).bumpSat F.matchErrFenced die
        0).matResume)

/-- BANK_FENCE_COPY_DONE (R157, R158): the logical bank is bound to the spare that now holds its rows, and the operations held
for it take their effect. -/
def execBankFenceCopyDone (die bank : Nat) (s : State) : Out :=
  s.perform (.bankFenceCopyDone die bank) (fun w =>
    let x := w.bank die bank
    if x.copying = 0 then w
    else if (w.spareList kBank die).isEmpty then (w.loseBank die bank x.copying).celResume.matResume
    else
      let w1 := (w.setBank die bank Bank.atReset).fenceToSpare kBank die bank x.copying 0
      (w1.bump F.celErrFenced die 0).celResume.matResume)

end Sys2Proof.Machine
end

