-- ==== Sys2Proof/Machine/Matrix.lean ====
section
/-! DEFINITION. The matrix engines and the history encoders: chapter 07. An engine's row of the table is the
command at its list position: a row whose OP is not that command's leaves the state as it is. -/

namespace Sys2Proof.Machine

/-- A matrix engine at reset: idle, tiles uncleared, the non-current ring buffer granted (R199, R210), code books zero.
(Log entry 168, DESIGN CHOICE.) -/
def Me.atReset : Me :=
  { acc := [], tile := none, book := [], bookBad := [], gen := none, pc := 0, running := false, skip := false,
    fails := [], ended := none, rotating := false, sent := false, got := false, granted := true, seed := 0 }
/-- A die's history states at reset. -/
def Hist.atReset : Hist := ⟨[], [], 0, []⟩

/-- Matrix engine m of die d. -/
def Work.me (w : Work) (d m : Nat) : Me := smGet Me.atReset w.mes (d * 24 + m)
/-- Matrix engine m of die d replaced. -/
def Work.setMe (w : Work) (d m : Nat) (x : Me) : Work := { w with mes := smSet Me.atReset w.mes (d * 24 + m) x }
/-- The history states of die d. -/
def Work.hist (w : Work) (d : Nat) : Hist := smGet Hist.atReset w.hists d
/-- The history states of die d replaced. -/
def Work.setHist (w : Work) (d : Nat) (x : Hist) : Work := { w with hists := smSet Hist.atReset w.hists d x }

/-- The unit number of a matrix engine among the 120 units of a die. -/
def meUnit (m : Nat) : Nat := 96 + m

/-- The plan of the task that an engine runs. -/
def Work.mePlan (w : Work) (d m : Nat) : Nat :=
  match smGet [] (w.disp d).run (meUnit m) with
  | t :: _ => t.plan
  | [] => noPlan

/-! ## Commands and classes -/

/-- A matrix-engine command (R194). -/
structure MeCmd where
  op : Nat
  acc : Nat
  clear : Bool
  transpose : Bool
  clamp : Bool
  satSel : Nat
  srSel : Nat
  ring : Bool
  src : Nat
  srcScale : Nat
  dst : Nat
  dstScale : Nat
  colScale : Nat
  colBias : Nat
  cb : Nat
  row0 : Nat
  m : Nat
  n : Nat
  col0 : Nat
  clampLo : Nat
  clampHi : Nat
  reservedZero : Bool
  deriving DecidableEq, Repr

/-- The fields of R194. -/
def MeCmd.ofRec (r : Rec) : MeCmd :=
  { op := recF r 7 0, acc := recF r 8 8, clear := recB r 9, transpose := recB r 10, clamp := recB r 11,
    satSel := recF r 13 12, srSel := recF r 15 14, ring := recB r 16, src := recF r 47 32, srcScale := recF r 63 48,
    dst := recF r 79 64, dstScale := recF r 95 80, colScale := recF r 111 96, colBias := recF r 127 112,
    cb := recF r 139 128, row0 := recF r 191 160, m := recF r 207 192, n := recF r 223 208, col0 := recF r 255 224,
    clampLo := recF r 287 256, clampHi := recF r 319 288,
    reservedZero := recZero r [(31, 17), (159, 140), (511, 320)] }

/-- The types of class F8 as A operand (R186). -/
def ETy.f8A : ETy → Bool
  | .e4m3 | .e5m2 | .mxfp8 | .qc4 | .qc8 => true
  | _ => false
/-- The types of class F8 as W operand. -/
def ETy.f8W : ETy → Bool
  | .e4m3 | .e5m2 | .mxfp8 => true
  | _ => false
/-- The types of class I8. -/
def ETy.i8 : ETy → Bool
  | .int8 | .uint8 | .int4 | .uint4 | .mxint8 => true
  | _ => false
/-- The types of class I4. -/
def ETy.i4 : ETy → Bool
  | .int4 | .uint4 => true
  | _ => false
/-- The types of class H as W operand. -/
def ETy.half : ETy → Bool
  | .bf16 | .fp16 => true
  | _ => false
/-- The float types that class S takes as A operand. -/
def ETy.anyFloat : ETy → Bool
  | .e4m3 | .e5m2 | .fp16 | .bf16 | .fp32 | .mxfp8 | .mxfp4 => true
  | _ => false

/-- An operand class: its K limit and whether it accumulates in FP32 (R186). -/
structure MeClass where
  limit : Nat
  flt : Bool
  deriving DecidableEq, Repr

/-- The class of an A type and a W type (R186). -/
def meClass (a w : ETy) : Option MeClass :=
  if a.i4 ∧ w.i4 then some ⟨256, false⟩
  else if a.i8 ∧ w.i8 then some ⟨128, a = .mxint8 || w = .mxint8⟩
  else if a = .mxfp4 ∧ w = .mxfp4 then some ⟨256, true⟩
  else if a.f8A ∧ w.f8W then some ⟨128, true⟩
  else if (a.half ∨ a.f8A) ∧ w.half then some ⟨128, true⟩
  else if (a.anyFloat ∨ a = .qc4 ∨ a = .qc8) ∧ w = .fp32 then some ⟨128, true⟩
  else none

/-- The types that some class takes as W operand, and the largest K of one. -/
def ETy.wLimit (t : ETy) : Nat :=
  if t.i4 ∨ t = .mxfp4 then 256 else if t.f8W ∨ t.i8 ∨ t.half ∨ t = .fp32 then 128 else 0

/-- Slots of a column of a code-book type (R200). -/
def ETy.bookSlots : ETy → Nat
  | .qc4 => 1
  | .qc8 => 16
  | _ => 0

/-! ## Operands in local memory -/

/-- A descriptor moved by a number of bytes (R209). -/
def Desc.shift (d : Desc) (n : Int) : Desc :=
  { d with base := ((d.base : Int) + n).toNat, allocBase := ((d.allocBase : Int) + n).toNat }

/-- The allocation lies in the window of an engine (R195). -/
def Desc.inMe (d : Desc) (die me : Nat) : Bool :=
  decide (meWindow die me ≤ d.allocBase) && decide (d.allocBase + d.allocLen ≤ meWindow die me + 0x400000)

/-- Bits of addresses lie in the current ring buffer: tested where RING is set and BUF1 is current (R209). -/
def Work.ringIn (w : Work) (d m : Nat) (ring : Bool) (lo hi : Int) : Bool :=
  let b1 : Nat := 8 * (meWindow d m + w.rd F.meRingBufBuf1 d m)
  !(ring && w.rdB F.meStatusRingCur d m) ||
    (decide ((b1 : Int) ≤ lo) && decide (hi ≤ ((b1 + 128 * w.rd F.meRingBufLen16 d m : Nat) : Int)))

/-- The bits of a rectangle of elements, lowest and past the highest: first index and count in each dimension. -/
def Desc.rectBits (y : Desc) (i0 n j0 k : Nat) : Int × Int :=
  let a : Int := y.bitAddr [i0, j0]
  let b : Int := y.bitAddr [i0, j0 + k - 1]
  (min a b, max a b + n * y.w)

/-- A rectangle of elements lies in the current ring buffer (R209). -/
def Work.rectIn (w : Work) (d m : Nat) (ring : Bool) (y : Desc) (i0 n j0 k : Nat) : Bool :=
  w.ringIn d m ring (y.rectBits i0 n j0 k).1 (y.rectBits i0 n j0 k).2

/-- An operand: the descriptor shifted for RING, and the failures of R101 and R195. -/
def Work.meOperand (w : Work) (d m h : Nat) (wr ring : Bool) : Option Desc × List Nat :=
  match w.desc (w.mePlan d m) h with
  | none => (none, [sState])
  | some x =>
    let b0 := w.rd F.meRingBufBuf0 d m
    let b1 := w.rd F.meRingBufBuf1 d m
    let y := if ring && w.rdB F.meStatusRingCur d m then x.shift ((b1 : Int) - b0) else x
    (some y, chk (!wr || x.write) sState ++ chk (x.inMe d m) sRange)

/-- A scale array for an MX operand (R120, R195): none for other types. (Log entry 41, DEDUCED.) -/
def Work.meScale (w : Work) (d m : Nat) (x : Desc) (h : Nat) (wr ring : Bool) : Option Desc × List Nat :=
  if !(x.ty.getD .uint8).isMx then (none, [])
  else if h = 0xFFFF then (none, [sRange])
  else
    match w.meOperand d m h wr ring with
    | (none, fs) => (none, fs)
    | (some y, fs) =>
      (some y, fs ++ chk (decide (y.ty = some .uint8) && decide (y.rank = 2) &&
        decide (getAt 0 y.size 0 = getAt 0 x.size 0 / 32) && decide (getAt 0 y.size 1 = getAt 0 x.size 1)) sRange)

/-- The shape of A and W (R189). -/
def Desc.tileShape (d : Desc) : Bool := decide (d.rank = 2) && decide (getAt 0 d.stride 0 = 1)

/-- An element at a pair of indices: zero where unmapped. -/
def Work.elem2 (w : Work) (d : Desc) (i j : Nat) : Nat :=
  match w.readBits (d.bitAddr [i, j]) d.w with
  | some (v, _) => v
  | none => 0

/-- Uncorrectable words that bits [bit, bit + n) meet. -/
def Work.badBits (w : Work) (bit n : Nat) : List Nat := w.badWordsIn (bit / 8) ((bit + n + 7) / 8 - bit / 8)

/-- Uncorrectable words that a rectangle of elements meets, whose rows are contiguous (R189, R193). -/
def Work.bad2 (w : Work) (d : Desc) (i0 n j0 k : Nat) : List Nat :=
  (List.range k).flatMap (fun j => w.badBits (d.bitAddr [i0, j0 + j]) (n * d.w))

/-- Uncorrectable words that the first n elements of an operand meet; none for an operand that is not given. -/
def Work.badFirst (w : Work) (d : Option Desc) (n : Nat) : List Nat :=
  match d with
  | some y => (List.range n).flatMap (fun i => w.badBits (y.at i) y.w)
  | none => []

/-- Uncorrectable words met by an engine's reads: each counted, and the task ends with CHECK_FAIL (R193).
(Log entry 138, DESIGN CHOICE.) -/
def Work.meUe (w : Work) (d m : Nat) (words : List Nat) : Work :=
  if words.isEmpty then w
  else
    let x := w.me d m
    let w := w.setMe d m { x with fails := x.fails ++ [sCheck] }
    words.eraseDups.foldl (fun w r => w.localUe d (meUnit m) (16 * r)) w

/-- Where code-book slots begin among the numbers of an engine's ECC words. -/
def bookWords : Nat := 262144

/-- What the check bits show to a command's reads: pairs of a bank word of local memory, or from `bookWords` on a code-book
slot, and what was found (R190, R193, R200). (Log entry 138, DESIGN CHOICE.) -/
def Work.meEcc (w : Work) (d m : Nat) (found : List (Nat × Ecc)) : Work :=
  found.foldl (fun (w : Work) e =>
    match e.2 with
    | .clean => w
    | .corrected => if e.1 < bookWords then w.localCe d (meUnit m) else w
    | .uncorrectable =>
      if e.1 < bookWords then w.poisonRow (meWindow d m + 16 * e.1)
      else w.setMe d m { w.me d m with bookBad := setInsert (w.me d m).bookBad (e.1 - bookWords) }) w

/-! ## The list -/

/-- The command at the engine's list position. -/
def Work.meNext (w : Work) (d m : Nat) : Option Rec := w.readRec (meWindow d m + (w.me d m).pc)

/-- The engine moves to its next command. -/
def Work.meStep (w : Work) (d m : Nat) : Work :=
  let x := w.me d m
  w.setMe d m { x with pc := x.pc + 64 }

/-- A command that fails a check does nothing, and the engine skips the rest of the list (R195). -/
def Work.meFail (w : Work) (d m : Nat) (fs : List Nat) : Work :=
  let x := w.me d m
  (w.countFurther (.me d m) fs).setMe d m { x with skip := true, fails := x.fails ++ fs }

/-- Uncorrectable words of the command at the engine's list position. -/
def Work.meListBad (w : Work) (d m : Nat) : List Nat := w.badWordsIn (meWindow d m + (w.me d m).pc) 64

/-- A row for one OP: it acts when the running engine is at a command with that OP. -/
def Work.meRow (w : Work) (d m op : Nat) (found : List (Nat × Ecc)) (run : Work → MeCmd → Work) : Work :=
  let x := w.me d m
  if x.running && !x.skip && !x.rotating then
    let v := w.meEcc d m found
    match v.meNext d m with
    | some r => if recF r 7 0 = op then run (v.meUe d m (v.meListBad d m)) (MeCmd.ofRec r) else w
    | none => w
  else w

/-- RING is set, and the engine is in no ring (R195). -/
def Work.ringFails (w : Work) (d m : Nat) (c : MeCmd) : List Nat := chk (!c.ring || w.rdB F.meRingEn d m) sState

/-- A command that was checked: it fails, or acts and lets the engine move on. -/
def Work.meDo (w : Work) (d m : Nat) (fs : List Nat) (run : Work → Work) : Work :=
  if fs.isEmpty then (run w).meStep d m else w.meFail d m fs

/-! ## WLOAD, MAC, CBLOAD -/

/-- WLOAD: the tile is read into the array (R186, R189, R195). -/
def Work.meWload (w : Work) (d m : Nat) (c : MeCmd) : Work :=
  let (x, f1) := w.meOperand d m c.src false c.ring
  let (sc, f2) := match x with
    | some y => w.meScale d m y c.srcScale false c.ring
    | none => (none, [])
  let shape := match x with
    | some y =>
      let t := y.ty.getD .bitmap
      let k := getAt 0 y.size 0
      let n := getAt 0 y.size 1
      chk (y.tileShape && decide (k ≤ t.wLimit) && decide (n ≤ 128)) sRange ++
        chk (w.rectIn d m c.ring y 0 k 0 n && sc.all (fun s => w.rectIn d m c.ring s 0 (k / 32) 0 n)) sRange
    | none => []
  w.meDo d m (chk c.reservedZero sRange ++ w.ringFails d m c ++ f1 ++ f2 ++ shape) (fun w =>
    match x with
    | none => w
    | some y =>
      let k := getAt 0 y.size 0
      let n := getAt 0 y.size 1
      let codes := (List.range n).flatMap (fun j => (List.range k).map (fun i => w.elem2 y i j))
      let scales := match sc with
        | some s => (List.range n).flatMap (fun j => (List.range (k / 32)).map (fun i => w.elem2 s i j))
        | none => []
      let w := w.meUe d m (w.bad2 y 0 k 0 n ++ (match sc with
        | some s => w.bad2 s 0 (k / 32) 0 n
        | none => []))
      w.setMe d m { w.me d m with
        tile := some { ty := recF (w.slot (w.mePlan d m) c.src).desc 59 55, k := k, n := n, codes := codes, scales := scales } })

/-- An element of an operand as the array takes it: MX elements under their block's scale, QC codes through the
code book (R84, R188, R201). -/
def Me.operand (x : Me) (t : ETy) (code scale slot : Nat) : FVal :=
  if t.isMx then mxValue t code scale
  else if t.bookSlots ≠ 0 then
    let s := slot + code / 16
    if x.bookBad.contains s then .nan else Fmt.bf16.decode (smGet 0 x.book (s * 16 + code % 16))
  else (t.value code).toF

/-- The exact sum of a list. -/
def fvalSum (xs : List FVal) : FVal :=
  match xs with
  | [] => .fin false 0 0
  | x :: ys => ys.foldl (fun a b => a.add b) x

/-- The sum of the products of an A row for one output column, exact (R188); with an MXINT8 operand the INT32 sum of each
block of 32 is scaled into FP32 first (R91). (Log entry 40, DEDUCED.) -/
def rowSum (prods : List FVal) (blocked : Bool) : FVal :=
  if blocked then
    fvalSum ((List.range (prods.length / 32)).map (fun b => f32 (Fmt.fp32.round (fvalSum ((prods.drop (32 * b)).take 32)))))
  else fvalSum prods

/-- A row sum added into an FP32 element with one rounding (R188). (Log entry 40, DEDUCED.) -/
def accFloat (old : Nat) (sum : FVal) : Nat := Fmt.fp32.round ((f32 old).add sum)

/-- A row sum added into an INT32 element, which stays saturated once it is (R92). Answers the element and whether
it saturated now. -/
def accInt (old : Nat) (sum : Int) : Nat × Bool :=
  if 2 ^ 32 ≤ old then (old, false)
  else
    let (v, s) := clampTo (intMin 32) (intMax 32) (sext 32 old + sum)
    (wrapTo 32 v + (if s then 2 ^ 32 else 0), s)

/-- The exact sum as an integer: products of integers are integers. -/
def FVal.toInt : FVal → Int
  | .fin s m e => (if s then -1 else 1) * (if 0 ≤ e then (m : Int) * 2 ^ e.toNat else (m : Int) / 2 ^ (-e).toNat)
  | _ => 0

/-- One element of the accumulator updated by a row. -/
def Work.macElem (w : Work) (d m : Nat) (flt : Bool) (key : Nat) (prods : List FVal) (blocked : Bool) : Work :=
  let x := w.me d m
  let old := smGet 0 x.acc key
  if flt then
    w.setMe d m { x with acc := smSet 0 x.acc key (accFloat old (rowSum prods blocked)) }
  else
    let (v, s) := accInt old (fvalSum prods).toInt
    (w.setMe d m { x with acc := smSet 0 x.acc key v }).countSat (.me d m) (if s then 1 else 0)

/-- ME_STATUS.ACC0 or ACC1. -/
def accField (a : Nat) : Fld := if a = 0 then F.meStatusAcc0 else F.meStatusAcc1

/-- MAC with its operands at hand (R186, R188, R198). (Log entry 40, DEDUCED.) -/
def Work.macRun (w : Work) (d m : Nat) (c : MeCmd) (cl : MeClass) (ta tw : ETy) (a : Desc) (sc : Option Desc)
    (t : WTile) : Work :=
  let w := if c.clear then
      (w.setMe d m { w.me d m with acc := (w.me d m).acc.filter (fun e => e.1 / 16384 ≠ c.acc) }).wr
        (accField c.acc) d m (if cl.flt then 1 else 2)
    else w
  let x := w.me d m
  let g := ta.bookSlots
  let blocked := decide (ta = .mxint8) || decide (tw = .mxint8)
  let w1 := (List.range c.m).foldl (fun w r =>
    let av := (List.range t.k).map (fun i =>
      x.operand ta (w.elem2 a (c.col0 + i) (c.row0 + r))
        (match sc with
         | some s => w.elem2 s ((c.col0 + i) / 32) (c.row0 + r)
         | none => 127)
        (c.cb + (c.col0 + i) * g))
    (List.range t.n).foldl (fun w n =>
      let prods := (List.range t.k).map (fun i =>
        (getAt FVal.nan av i).mul (x.operand tw (getAt 0 t.codes (n * t.k + i))
          (if tw.isMx then getAt 0 t.scales (n * (t.k / 32) + i / 32) else 127) 0))
      w.macElem d m cl.flt (c.acc * 16384 + r * 128 + n) prods blocked) w) w
  let slots := (List.range t.k).flatMap (fun i => (List.range c.m).map (fun r =>
    c.cb + (c.col0 + i) * g + w.elem2 a (c.col0 + i) (c.row0 + r) / 16))
  let cbBad := if g = 0 then 0 else (slots.eraseDups.filter (fun s => x.bookBad.contains s)).length
  let w2 := w1.meUe d m (w1.bad2 a c.col0 t.k c.row0 c.m ++ (match sc with
    | some s => w1.bad2 s (c.col0 / 32) (t.k / 32) c.row0 c.m
    | none => []))
  if cbBad = 0 then w2
  else
    ({ w2.setMe d m { w2.me d m with fails := (w2.me d m).fails ++ [sCheck] } with
        errs := { w2.errs with ue := w2.errs.ue + cbBad } } : Work).bump F.meErrCbUe d m cbBad

/-- MAC: the checks of R195; those that need the tile or the class are made where there is one. -/
def Work.meMac (w : Work) (d m : Nat) (c : MeCmd) : Work :=
  let (x, f1) := w.meOperand d m c.src false c.ring
  let (sc, f2) := match x with
    | some y => w.meScale d m y c.srcScale false c.ring
    | none => (none, [])
  let have_ := w.rd (accField c.acc) d m
  let base := chk (c.reservedZero && decide (1 ≤ c.m) && decide (c.m ≤ 128)) sRange ++ w.ringFails d m c ++ f1 ++ f2 ++
    chk (c.clear || decide (have_ ≠ 0)) sState
  match x, (w.me d m).tile with
  | none, _ => w.meFail d m base
  | some a, none => w.meFail d m (base ++ chk a.tileShape sRange ++ [sRange])
  | some a, some t =>
    let ta := a.ty.getD .bitmap
    let tw := (ETy.ofCode t.ty).getD .bitmap
    let mx := ta.isMx || tw.isMx
    let shape := chk a.tileShape sRange ++
      chk (decide (c.col0 + t.k ≤ getAt 0 a.size 0) && decide (c.row0 + c.m ≤ getAt 0 a.size 1)) sRange ++
      chk (!mx || (decide (c.col0 % 32 = 0) && decide (t.k % 32 = 0))) sRange ++
      chk (w.rectIn d m c.ring a c.col0 t.k c.row0 c.m &&
        sc.all (fun s => w.rectIn d m c.ring s (c.col0 / 32) (t.k / 32) c.row0 c.m)) sRange ++
      chk (decide (ta.bookSlots = 0) || decide (c.cb + (c.col0 + t.k) * ta.bookSlots ≤ 4096)) sRange
    match meClass ta tw with
    | some cl =>
      w.meDo d m (base ++ shape ++ chk (decide (t.k ≤ cl.limit)) sRange ++
        chk (c.clear || decide (have_ = 0) || decide (have_ = if cl.flt then 1 else 2)) sRange)
        (fun w => w.macRun d m c cl ta tw a sc t)
    | none => w.meFail d m (base ++ shape ++ [sRange])

/-- Slots of the code-book memory written from bytes (R202). -/
def Me.loadBook (x : Me) (slot : Nat) (bs : List Byte) : Me :=
  let vals := (List.range (bs.length / 2)).map (fun i => leAt bs (2 * i) 2)
  let n := bs.length / 32
  { x with
    book := (List.range vals.length).foldl (fun b i => smSet 0 b (slot * 16 + i) (getAt 0 vals i)) x.book,
    bookBad := x.bookBad.filter (fun s => !inRange slot n s) }

/-- CBLOAD (R202). -/
def Work.meCbload (w : Work) (d m : Nat) (c : MeCmd) : Work :=
  let (x, f1) := w.meOperand d m c.src false false
  let fits := match x with
    | some y => chk (decide (y.ty = some .uint8) && decide (32 * c.m ≤ y.count)) sRange
    | none => []
  w.meDo d m (chk (c.reservedZero && decide (1 ≤ c.m) && decide (c.m ≤ 4096)) sRange ++ w.ringFails d m c ++ f1 ++ fits ++
      chk (decide (c.cb + c.m ≤ 4096)) sRange) (fun w =>
    match x with
    | none => w
    | some y =>
      let w := w.meUe d m (w.badFirst (some y) (32 * c.m))
      w.setMe d m ((w.me d m).loadBook c.cb (w.descBytes y 0 (32 * c.m))))

/-! ## STORE -/

/-- The types that STORE writes (R205). -/
def ETy.storable : ETy → Bool
  | .fp32 | .bf16 | .fp16 | .e4m3 | .e5m2 | .mxfp8 | .mxfp4 | .mxint8 | .int32 | .int16 | .int8 | .uint8 | .int4
  | .uint4 => true
  | _ => false

/-- The integer types among them (R204). -/
def ETy.storeInt : ETy → Bool
  | .int32 | .int16 | .int8 | .uint8 | .int4 | .uint4 => true
  | _ => false

/-- The emission order of R208. -/
def emission (transpose : Bool) (m n : Nat) : List (Nat × Nat) :=
  if transpose then
    [(0, 0), (0, 1), (1, 0), (1, 1)].flatMap (fun b =>
      (List.range 64).flatMap (fun j => ((List.range 64).map (fun i => (64 * b.1 + i, 64 * b.2 + j))).filter
        (fun p => p.1 < m ∧ p.2 < n)))
  else (List.range m).flatMap (fun i => (List.range n).map (fun j => (i, j)))

/-- The seeds of the generators are taken at a tick (R90). -/
def Work.latchSeeds (w : Work) : Work :=
  (List.range 96).foldl (fun (w : Work) k =>
    w.setMe (k / 24) (k % 24) { w.me (k / 24) (k % 24) with seed := w.rd F.meSrSeedSeed (k / 24) (k % 24) }) w

/-- The generator of an engine, initialised at each tick with the seed that stood there then (R90).
(Log entry 42, DEDUCED.) -/
def Work.meGen (w : Work) (d m : Nat) : Nat :=
  let x := w.me d m
  match x.gen with
  | some (t, g) => if t = w.tickNo then g else srInit x.seed w.tickNo (24 * d + m)
  | none => srInit x.seed w.tickNo (24 * d + m)

/-- Step 3 of R203: NaN passes, and zeros are equal. -/
def clampF32 (lo hi y : Nat) : Nat :=
  if (f32 y).isNan then y else if (f32 y).lt (f32 lo) then lo else if (f32 hi).lt (f32 y) then hi else y

/-- The value of one tile element before its conversion (R203, R204): an integer kept whole, or FP32. -/
def Work.storeVal (w : Work) (d m : Nat) (c : MeCmd) (isInt direct : Bool) (cs cbias : Option Desc) (i j : Nat) :
    EVal :=
  let raw := smGet 0 (w.me d m).acc (c.acc * 16384 + i * 128 + j) % 2 ^ 32
  if isInt && direct then .int (sext 32 raw)
  else
    let a : FVal := if isInt then f32 (Fmt.fp32.round (FVal.ofInt (sext 32 raw))) else f32 raw
    let s : FVal := match cs with
      | some x => f32 (w.elem x j)
      | none => f32 0x3F800000
    let b : FVal := match cbias with
      | some x => f32 (w.elem x j)
      | none => f32 0
    let y := Fmt.fp32.round ((a.mul s).add b)
    .flt (f32 (if c.clamp then clampF32 c.clampLo c.clampHi y else y))

/-- The DST index of a tile element (R206). -/
def MeCmd.dstIdx (c : MeCmd) (p : Nat × Nat) : List Nat :=
  if c.transpose then [c.row0 + p.1, c.col0 + p.2] else [c.col0 + p.2, c.row0 + p.1]

/-- One element stored: its code under the descriptor's COMBINE, saturations counted (R203, R205, R206). -/
def Work.storeOne (w : Work) (d m : Nat) (c : MeCmd) (y : Desc) (p : Nat × Nat) (code : Nat) (sat : Bool) : Work :=
  let (w, s) := w.combineAt y (y.bitAddr (c.dstIdx p)) code
  w.countSat (.me d m) ((if sat then 1 else 0) + (if s then 1 else 0))

/-- The offset of a byte of a bank row in an engine's local memory (R190). -/
def meOffset (bank row byte : Nat) : Nat := row * 1024 + bank % 64 * 16 + byte

/-- With TRANSPOSE an element passes through the staging area: the blocks in use take the two buffers in turn, and element
(i, j) of a block goes to bank (i + j) mod 64, at byte b x 256 + i x e of its staging rows (R190, R191, R207). -/
def Work.stageOne (w : Work) (d m : Nat) (c : MeCmd) (e : Nat) (p : Nat × Nat) (bits : Nat) : Work :=
  if !c.transpose then w
  else
    let i := p.1 % 64
    let j := p.2 % 64
    let nth := (if p.1 / 64 = 0 then 0 else if 64 < c.n then 2 else 1) + p.2 / 64
    let at_ := nth % 2 * 256 + i * e
    w.writeLE (meWindow d m + meOffset (i + j) (4064 + at_ / 16) (at_ % 16)) e bits

/-- Elements stored one by one. (Log entry 72, DEDUCED.) -/
def Work.storePlain (w : Work) (d m : Nat) (c : MeCmd) (t : ETy) (y : Desc) (sat sr : Bool) (val : Work → Nat × Nat → EVal)
    (ps : List (Nat × Nat)) : Work :=
  ps.foldl (fun w p =>
    let (code, s, g) := storeElem t sat sr (w.meGen d m) (val w p)
    let w := if sr then w.setMe d m { w.me d m with gen := some (w.tickNo, g) } else w
    (w.stageOne d m c (max 1 (t.width / 8)) p code).storeOne d m c y p code s) w

/-- Elements stored in runs of 32 along DST dimension 0, each with its scale (R79, R205).
(Log entries 41, DEDUCED; 72, DEDUCED.) -/
def Work.storeMx (w : Work) (d m : Nat) (c : MeCmd) (t : ETy) (y sc : Desc) (sr : Bool) (val : Work → Nat × Nat → EVal)
    (ps : List (Nat × Nat)) : Work :=
  (List.range (ps.length / 32)).foldl (fun w b =>
    let run := (ps.drop (32 * b)).take 32
    let vs := run.map (fun p => (val w p).toF)
    let (scale, codes, g) := mxBlock t sr vs (w.meGen d m)
    let w := if sr then w.setMe d m { w.me d m with gen := some (w.tickNo, g) } else w
    let w := (run.zip vs).foldl (fun w e => w.stageOne d m c 4 e.1 (Fmt.fp32.round e.2)) w
    let w := (run.zip codes).foldl (fun w e => w.storeOne d m c y e.1 e.2.1 e.2.2) w
    match run with
    | p :: _ =>
      let i := c.dstIdx p
      w.writeBits (sc.bitAddr [getAt 0 i 0 / 32, getAt 0 i 1]) 8 scale
    | [] => w) w

/-- A per-column operand of the store path. -/
def Work.meColumn (w : Work) (d m h n : Nat) : Option Desc × List Nat :=
  if h = 0xFFFF then (none, [])
  else
    match w.meOperand d m h false false with
    | (some y, fs) => (some y, fs ++ chk (decide (y.ty = some .fp32) && decide (n ≤ y.count)) sRange)
    | r => r

/-- STORE with its operands at hand: the elements of the accumulator in emission order (R203 to R208). -/
def Work.storeRun (w : Work) (d m : Nat) (c : MeCmd) (y : Desc) (sc cs cb : Option Desc) : Work :=
  let t := y.ty.getD .bitmap
  let isInt := decide (w.rd (accField c.acc) d m = 2)
  let direct := t.storeInt && cs.isNone && cb.isNone && !c.clamp
  let sat := if c.satSel = 0 then w.rdB F.meCfgSat d m else decide (c.satSel = 2)
  let on := if c.srSel = 0 then w.rdB F.meCfgSrEn d m else decide (c.srSel = 2)
  let sr := on && (decide (t = .e4m3) || decide (t = .e5m2) || decide (t = .mxfp8))
  let val := fun (w : Work) (p : Nat × Nat) => w.storeVal d m c isInt direct cs cb p.1 p.2
  let ps := emission c.transpose c.m c.n
  let old := if 1 ≤ y.combine ∧ y.combine ≤ 3 then ps.flatMap (fun p => w.badBits (y.bitAddr (c.dstIdx p)) y.w) else []
  let w := w.meUe d m (w.badFirst cs c.n ++ w.badFirst cb c.n ++ old)
  match sc with
  | some s => w.storeMx d m c t y s sr val ps
  | none => w.storePlain d m c t y sat sr val ps

/-- The DST shape that STORE takes (R195, R205, R206). (Log entry 41, DEDUCED.) -/
def MeCmd.storeFits (c : MeCmd) (y : Desc) : Bool :=
  let t := y.ty.getD .bitmap
  let (e0, e1) := if c.transpose then (c.m, c.n) else (c.n, c.m)
  let (o0, o1) := if c.transpose then (c.row0, c.col0) else (c.col0, c.row0)
  t.storable && decide (y.rank = 2) && decide (o0 + e0 ≤ getAt 0 y.size 0) && decide (o1 + e1 ≤ getAt 0 y.size 1) &&
    (!t.isMx || (decide (o0 % 32 = 0) && decide (e0 % 32 = 0)))

/-- STORE: the checks of R195 and the store path of R203 to R208. -/
def Work.meStore (w : Work) (d m : Nat) (c : MeCmd) : Work :=
  let (x, f1) := w.meOperand d m c.dst true false
  let (sc, f2) := match x with
    | some y => w.meScale d m y c.dstScale true false
    | none => (none, [])
  let (cs, f3) := w.meColumn d m c.colScale c.n
  let (cb, f4) := w.meColumn d m c.colBias c.n
  let ty := w.rd (accField c.acc) d m
  let shape := match x with
    | some y => chk (c.storeFits y) sRange
    | none => []
  w.meDo d m (chk (c.reservedZero && decide (1 ≤ c.m) && decide (c.m ≤ 128) && decide (1 ≤ c.n) && decide (c.n ≤ 128) &&
      decide (c.satSel < 3) && decide (c.srSel < 3)) sRange ++ w.ringFails d m c ++ f1 ++ f2 ++ f3 ++ f4 ++ shape ++
      chk (decide (ty ≠ 0)) sState) (fun w =>
    match x with
    | none => w
    | some y => w.storeRun d m c y sc cs cb)

/-! ## Rotation (R209 to R211) -/

/-- The address of a ring buffer of an engine. -/
def Work.ringBuf (w : Work) (d m k : Nat) : Nat :=
  meWindow d m + (if k = 0 then w.rd F.meRingBufBuf0 d m else w.rd F.meRingBufBuf1 d m)

/-- The engines of a ring from one of them on, as die x 24 + engine: the successors until the first returns (R209). -/
def Work.ringFrom (w : Work) (first : Nat) : Nat → Nat → List Nat
  | 0, _ => []
  | n + 1, k =>
    let next := w.rd F.meRingNextDie (k / 24) (k % 24) * 24 + w.rd F.meRingNextMe (k / 24) (k % 24)
    k :: (if next = first then [] else Work.ringFrom w first n next)

/-- The members of an engine's ring; none where it is in no ring. -/
def Work.ringMembers (w : Work) (d m : Nat) : List Nat :=
  if w.rdB F.meRingEn d m then w.ringFrom (d * 24 + m) 96 (d * 24 + m) else []

/-- A member of an engine's ring has been fenced in this epoch (R211). -/
def Work.ringFenced (w : Work) (d m : Nat) : Bool :=
  (w.ringMembers d m).any (fun k => (w.unitSt (k / 24) (96 + k % 24)).fenced)

/-- ROTATE begins: the engine sends and receives until both are complete (R210). -/
def Work.meRotate (w : Work) (d m : Nat) (c : MeCmd) : Work :=
  let fs := chk c.reservedZero sRange ++ chk (w.rdB F.meRingEn d m) sState ++ chk (!w.ringFenced d m) sFenced
  if fs.isEmpty then w.setMe d m { w.me d m with rotating := true } else w.meFail d m fs

/-- An engine whose send and receive are complete flips its buffers and grants the new non-current one (R210). -/
def Work.ringFlip (w : Work) (d m : Nat) : Work :=
  let x := w.me d m
  if x.rotating && x.sent && x.got then
    let w := w.setMe d m { x with rotating := false, sent := false, got := false, granted := true, pc := x.pc + 64 }
    (w.wr F.meStatusRingCur d m (1 - w.rd F.meStatusRingCur d m)).bump F.meStatusRingSteps d m
  else w

/-- The transfer of an engine's current buffer into its successor is complete (R210). -/
def Work.ringMove (w : Work) (d m : Nat) : Work :=
  let x := w.me d m
  let sd := w.rd F.meRingNextDie d m
  let sm := w.rd F.meRingNextMe d m
  let y := w.me sd sm
  if x.rotating && !x.sent && y.granted && !y.got then
    let src := w.ringBuf d m (w.rd F.meStatusRingCur d m)
    let dst := w.ringBuf sd sm (1 - w.rd F.meStatusRingCur sd sm)
    let n := 16 * w.rd F.meRingBufLen16 d m
    let bad := w.badWordsIn src n
    let w := { w with jnl := bad.map (fun r => MemOp.clear (16 * r - src + dst) 16) ++ MemOp.copy src dst n :: w.jnl }
    let w := w.meUe d m bad
    let w := w.setMe d m { w.me d m with sent := true }
    let w := w.setMe sd sm { w.me sd sm with got := true, granted := false }
    (w.ringFlip d m).ringFlip sd sm
  else w

/-- WLOAD (R186, R189, R195). -/
def execWload (die me : Nat) (s : State) : Out :=
  s.perform (.wload die me) (fun w => w.meRow die me 0x41 w.nextFound (fun w c => (w.meWload die me c).dropFound))
/-- MAC (R186, R188, R198). -/
def execMac (die me : Nat) (s : State) : Out :=
  s.perform (.mac die me) (fun w => w.meRow die me 0x42 w.nextFound (fun w c => (w.meMac die me c).dropFound))
/-- STORE (R203 to R208). -/
def execStore (die me : Nat) (s : State) : Out :=
  s.perform (.store die me) (fun w => w.meRow die me 0x43 w.nextFound (fun w c => (w.meStore die me c).dropFound))
/-- CBLOAD (R202). -/
def execCbload (die me : Nat) (s : State) : Out :=
  s.perform (.cbload die me) (fun w => w.meRow die me 0x44 w.nextFound (fun w c => (w.meCbload die me c).dropFound))
/-- ROTATE (R210, R211). -/
def execRotate (die me : Nat) (s : State) : Out :=
  s.perform (.rotate die me) (fun w => w.meRow die me 0x45 [] (fun w c => w.meRotate die me c))
/-- RING_TRANSFER_DONE (R210): the transfer out of an engine that rotates is complete. -/
def execRingTransferDone (die me : Nat) (s : State) : Out :=
  s.perform (.ringTransferDone die me) (fun w => if (w.me die me).running then w.ringMove die me else w)

/-- The command at the engine's position ends its list: END, a reserved OP, or no memory there. -/
def Work.meAtEnd (w : Work) (d m : Nat) : Bool × List Nat :=
  match w.meNext d m with
  | none => (true, [sUnmapped])
  | some r =>
    let op := recF r 7 0
    if op = 0x46 then (true, chk (MeCmd.ofRec r).reservedZero sRange ++ w.ringFails d m (MeCmd.ofRec r))
    else if 0x41 ≤ op ∧ op ≤ 0x45 then (false, [])
    else (true, [sRange])

/-- ME_END (R194, R195): the list ends, at END or after a command that failed, and the engine is idle with the
task's status. -/
def execMeEnd (die me : Nat) (s : State) : Out :=
  s.perform (.meEnd die me) (fun w =>
    let (atEnd, fs) := if (w.me die me).skip then (true, []) else w.meAtEnd die me
    if (w.me die me).running && !(w.me die me).rotating && atEnd then
      let w := if (w.me die me).skip then w else w.meUe die me (w.meListBad die me)
      let x := w.me die me
      let met := x.fails ++ fs
      (w.countFurther (.me die me) fs).setMe die me { x with running := false, skip := false, fails := [], ended := some (lowest met) }
    else w)

/-! ## History encoders (R212 to R214) -/

/-- The partial-state record of R212; none for one that is not well made. (Log entry 43, DEDUCED.) -/
def HPart.ofBytes (epoch : Nat) (bs : List Byte) : Option HPart :=
  let x := leAt bs 0 32
  let h := fieldOf x 144 11
  let mode := fieldOf x 155 2
  let p : HPart :=
    { entity := fieldOf x 0 64, encoder := fieldOf x 128 16, epoch := epoch, stretch := fieldOf x 64 16,
      stretches := fieldOf x 80 16, len := fieldOf x 96 32, mode := mode,
      vals := (List.range h).map (fun k => leAt bs (32 + 4 * k) 4) }
  if 1 ≤ h ∧ h ≤ 1024 ∧ mode < 3 ∧ fieldOf x 157 99 = 0 ∧ p.stretch < p.stretches ∧ bs.length = 32 + 4 * h then some p
  else none

/-- The decay vector of an encoder: the first plan that has the encoder. (Log entry 5, DESIGN CHOICE.) -/
def Work.decayOf (w : Work) (encoder : Nat) : List Nat :=
  match w.plans.filterMap (fun p => p.2.image.bind (fun i => i.encoders.find? (fun e => e.id = encoder))) with
  | e :: _ => e.decay
  | [] => []

/-- The combination of an earlier and a later state (R213). -/
def combineParts (decay : List Nat) (mode : Nat) (p q : List Nat) (qlen : Nat) : List Nat :=
  (List.range (max p.length q.length)).map (fun i =>
    let a := getAt 0 p i
    let b := getAt 0 q i
    match mode with
    | 0 => f32Add a b
    | 1 => (combineElem .fp32 2 a b).1
    | _ => f32Add (f32Mul a (Config.decayPower (BitVec.ofNat 32 (getAt 0 decay i)) qlen).toNat) b)

/-- The state of an entity combined from partials in ascending STRETCH order (R213); a NaN is canonical, of a lone partial
too (R74). -/
def Work.combineAll (w : Work) (visible : Nat) : List HPart → Option HResult
  | [] => none
  | p :: ps =>
    let d := w.decayOf p.encoder
    let (vals, len) := ps.foldl (fun (a : List Nat × Nat) q => (combineParts d q.mode a.1 q.vals q.len, a.2 + q.len))
      (p.vals, p.len)
    let n := ps.length + 1
    some { entity := p.entity, encoder := p.encoder, epoch := p.epoch, count := n,
           incomplete := decide (n < p.stretches), len := len, vals := vals.map ETy.fp32.passOn, visible := visible }

/-- The partials of one entity, encoder and epoch, in stretch order. -/
def Hist.group (h : Hist) (p : HPart) : List HPart :=
  sortBy (fun a b => decide (a.stretch ≤ b.stretch))
    (h.parts.filter (fun q => q.entity = p.entity ∧ q.encoder = p.encoder ∧ q.epoch = p.epoch))

/-- The partials of p's group combined: the result replaces the entity's earlier one (R213, R214). -/
def Work.histCombine (w : Work) (d : Nat) (p : HPart) : Work :=
  let h := w.hist d
  let g := h.group p
  match w.combineAll (p.epoch + 2) g with
  | none => w
  | some r =>
    let w := w.setHist d { h with
      parts := h.parts.filter (fun q => !(q.entity = p.entity && q.encoder = p.encoder && q.epoch = p.epoch)),
      results := r :: h.results.filter (fun q => !(q.entity = r.entity && q.encoder = r.encoder)) }
    if r.incomplete then w.bump F.meHistIncomplete d 0 else w

/-- HIST_PARTIAL as it arrives (R214, R584). (Log entry 43, DEDUCED.) -/
def Work.histPartial (w : Work) (port : Option Nat) (d : Nat) (h : KHdr) (bs : List Byte) : Work :=
  if h.cls ≠ clsData ∨ h.typ ≠ 3 ∨ h.tick = 0 then w
  else if w.devState = stRest then w.restDiscard port
  else
    match HPart.ofBytes (h.tick - 1) bs with
    | none => w
    | some p =>
      let x := w.hist d
      let combined := x.results.any (fun r => r.entity = p.entity && r.encoder = p.encoder && decide (p.epoch ≤ r.epoch))
      let held := (x.group p).any (fun q => q.stretch = p.stretch)
      if p.epoch + 1 < w.tickNo ∨ p.epoch < x.closed ∨ combined ∨ held then w.bump F.meHistLate d 0
      else
        let w : Work := { w with marks := { w.marks with hists := w.marks.hists ++ [bs] } }
        let w := w.setHist d { x with parts := x.parts ++ [p] }
        if ((w.hist d).group p).length = p.stretches then w.histCombine d p else w

/-- A partial that a task of this device has computed for an entity at home on another device: it waits for the tick
(R214). (Log entry 167, DESIGN CHOICE.) -/
def Work.histOwn (w : Work) (d : Nat) (h : KHdr) (bs : List Byte) : Work :=
  match HPart.ofBytes w.tickNo bs with
  | none => w
  | some _ => w.setHist d { w.hist d with own := (w.hist d).own ++ [(h.dstDev, h.flow, bs)] }

/-- The partials of the epoch that has ended leave for their home devices in the commit phase (R214). -/
def Work.histTick (w : Work) : Work :=
  (List.range 4).foldl (fun (w : Work) d =>
    let own := (w.hist d).own
    own.foldl (fun (w : Work) e => w.send { h := w.hdrTo clsData 3 e.1 0 e.2.1 0, payload := e.2.2 })
      (w.setHist d { w.hist d with own := [] })) w

/-- HIST_PARTIAL (R212 to R214): it arrives at its home device, or a task of this device has computed it for another one.
(Log entries 121, DEDUCED; 167, DESIGN CHOICE.) -/
def execHistPartial (die : Nat) (h : KHdr) (payload : List Byte) (s : State) : Out :=
  s.perform (.histPartial die h payload) (fun w =>
    if h.srcDev = w.deviceId ∧ h.dstDev ≠ w.deviceId then w.histOwn die h payload else w.histPartial none die h payload)

/-- HIST_COMBINE_DEADLINE (R214): at G of the epoch the partials that are present are combined. -/
def execHistCombineDeadline (die : Nat) (s : State) : Out :=
  s.perform (.histCombineDeadline die) (fun w =>
    let due := (w.hist die).parts.filter (fun p => p.epoch < w.tickNo)
    let w := due.foldl (fun w p => w.histCombine die p) w
    w.setHist die { w.hist die with closed := max (w.hist die).closed w.tickNo })

end Sys2Proof.Machine
end

