-- ==== Sys2Proof/Machine/GeneralCore.lean ====
section
/-! DEFINITION. The general cores: memory as a core sees it, traps, and the Oxene instructions but `vtap`
(chapter 08). A row acts on a core that runs a task in user mode and neither waits nor is halted. -/

namespace Sys2Proof.Machine

/-! ## Registers -/

/-- Register x of a core; x0 reads as zero. -/
def Core.getX (c : Core) (r : Nat) : Nat := if r = 0 then 0 else smGet 0 c.x r
/-- Register x of a core written; x0 discards. -/
def Core.setX (c : Core) (r v : Nat) : Core := if r = 0 then c else { c with x := smSet 0 c.x r (v % 2 ^ 64) }
/-- Vector register r, 512 bits. -/
def Core.getV (c : Core) (r : Nat) : Nat := smGet 0 c.v (r % 32)
/-- Vector register r written. -/
def Core.setV (c : Core) (r v : Nat) : Core := { c with v := smSet 0 c.v (r % 32) (v % 2 ^ 512) }

/-- SEW in bits of vtype. -/
def Core.sew (c : Core) : Nat := 8 * 2 ^ fieldOf c.vtype 3 3
/-- Registers in a group: LMUL, at least one. -/
def Core.group (c : Core) : Nat :=
  match fieldOf c.vtype 0 3 with
  | 1 => 2
  | 2 => 4
  | 3 => 8
  | _ => 1
/-- Element i of the group at register r, n bits wide. -/
def Core.vElem (c : Core) (r n i : Nat) : Nat := fieldOf (c.getV (r + i * n / 512)) (i * n % 512) n
/-- Element i of the group at register r written. -/
def Core.setVElem (c : Core) (r n i x : Nat) : Core :=
  let q := r + i * n / 512
  let old := c.getV q
  let lo := i * n % 512
  c.setV q (old - fieldOf old lo n * 2 ^ lo + (x % 2 ^ n) * 2 ^ lo)
/-- Element i is active: every element with vm 1, and those whose bit of v0 is set with vm 0. -/
def Core.active (c : Core) (vm : Bool) (i : Nat) : Bool := vm || bitOf (c.getV 0) i
/-- The elements that a vector form works on (R230). -/
def Core.body (c : Core) : List Nat := (List.range c.vl).filter (fun i => c.vstart ≤ i)

/-- vtype is legal, SEW is permitted, and the register groups named are aligned (R230). -/
def Core.vLegal (c : Core) (sews groups : List Nat) : Bool :=
  decide (c.vtype < 2 ^ 63) && sews.contains c.sew && groups.all (fun r => decide (r % c.group = 0))

/-- An instruction retires: the program counter moves on. -/
def Core.retire (c : Core) (n : Nat) : Core :=
  { c with pc := (c.pc + n) % 2 ^ 64, instret := (c.instret + 1) % 2 ^ 64 }

/-- A vector form completes: vstart becomes zero (R230). -/
def Core.vRetire (c : Core) : Core := { c.retire 4 with vstart := 0 }

/-- Elements of the destination that are inactive or in the tail: under an agnostic policy each keeps its value or becomes
all ones, which of the two is not defined. A mask's tail is always agnostic. (Log entry 49, PRESUMED.) -/
def Core.agnostic (c k : Core) (vd eew regs tail : Nat) (vm : Bool) (x : Nat) : Core :=
  let ta := bitOf c.vtype 6 || decide (eew = 1)
  let ma := bitOf c.vtype 7
  if c.vl ≤ c.vstart then k
  else (List.range (regs * 512 / eew)).foldl (fun k e =>
    let loose := (decide (tail ≤ e) && ta) || (decide (c.vstart ≤ e) && decide (e < tail) && ma && !c.active vm e)
    if loose && bitOf x e then k.setVElem vd eew e (2 ^ eew - 1) else k) k

/-- The free values of agnostic elements; none are drawn where every element is undisturbed. -/
def Work.looseBits (w : Work) (c : Core) (eew : Nat) : Nat × Work :=
  if eew = 0 then (0, w) else if bitOf c.vtype 6 || bitOf c.vtype 7 || decide (eew = 1) then w.fresh 512 else (0, w)

/-! ## Traps (R226) -/

/-- What a trap carries: the RISC-V cause, the value, and which row of R226 it is. With `waits` it is none: the access waits
for its page, which is being moved (R269). -/
structure TrapInfo where
  cause : Nat
  val : Nat
  ue : Bool := false
  unmapped : Bool := false
  waits : Bool := false
  deriving DecidableEq, Repr

/-- Illegal instruction. -/
def trapIllegal (val : Nat) : TrapInfo := { cause := 2, val := val }

/-- The task status of a trap (R226). -/
def TrapInfo.status (t : TrapInfo) : Nat := if t.ue then sCheck else if t.unmapped then sUnmapped else sRange

/-- A trap in user mode ends the task: the runtime records it, the task has its status, and its plan becomes FAULTED
at the next tick unless the trap met an uncorrectable word (R226). An access that waits leaves the core at its
instruction (R269). -/
def Work.trap (w : Work) (d g : Nat) (t : TrapInfo) : Work :=
  if t.waits then w else
  let c := w.core d g
  let p := w.planOf (.core d g)
  let w := w.setCore d g { c with user := false, mcause := t.cause % 64, mepc := c.pc, mtval := t.val,
                                  resv := none, wait := .none, ended := some t.status }
  let w := (((w.wr F.gcTrapCause d g t.cause).wrB F.gcTrapUe d g t.ue).wr F.gcTrapValid d g 1).wr F.gcTrapTickLo d g
    w.tickNo
  let w := (w.wr F.gcTrapPcPc d g c.pc).wr F.gcTrapValVal d g t.val
  if t.ue then w else w.faultPlan p t.status

/-- A core executes user instructions: it is in user mode, not halted and not waiting. -/
def Work.coreRuns (w : Work) (d g : Nat) : Bool :=
  let c := w.core d g
  c.user && !c.halted && decide (c.wait = .none)

/-- A row of a core acts only while the core executes. -/
def Work.coreRow (w : Work) (d g : Nat) (f : Work → Work) : Work := if w.coreRuns d g then f w else w

/-! ## Memory as a core sees it (R219 to R225) -/

/-- Where an access of n bytes goes: the core's own local memory, other memory, nowhere, or an unmapped page. -/
inductive Target where
  | own (a : Nat)
  | other (a : Nat)
  | fault
  | unmapped
  deriving DecidableEq, Repr

/-- The target of an access (R219, R221): reserved ranges outside register space hold no memory, as an unmapped page
(R654). -/
def Work.target (w : Work) (d g a n : Nat) : Target :=
  let base := gcWindow d g
  if 2 ^ 52 ≤ a + n - 1 then .fault
  else if a + n ≤ 0x80000 then .own (base + a)
  else if base ≤ a ∧ a + n ≤ base + 0x80000 then .own a
  else
    match regionOf a with
    | .regs => .fault
    | .reserved => .unmapped
    | _ => if w.mapped a n then .other a else .unmapped

/-- What the check bits of local memory show to a core's accesses: pairs of a 64 B word and what was found (R220).
(Log entry 138, DESIGN CHOICE.) -/
def Work.gcEcc (w : Work) (d g : Nat) (found : List (Nat × Ecc)) : Work :=
  found.foldl (fun (w : Work) e =>
    if 8192 ≤ e.1 then w
    else
      match e.2 with
      | .clean => w
      | .corrected => w.localCe d g
      | .uncorrectable => w.poisonRow (gcWindow d g + 64 * e.1)) w

/-- What a load gives: its bytes, or a trap. -/
inductive Loaded where
  | bytes (a : Nat) (bs : List Byte) (own : Bool)
  | trap (t : TrapInfo)
  deriving DecidableEq, Repr

/-- A load that meets an uncorrectable word; which exception code it has is not given (R226, R563). -/
def Work.ueTrap (w : Work) (a : Nat) : TrapInfo := { cause := (w.fresh 6).1, val := a, ue := true }

/-- n bytes loaded at an address: misaligned accesses outside the own local memory raise an exception when `align`
is not one (R219, R221, R224, R226, R563). `k` is 4 for loads and 6 for stores and atomic instructions. -/
def Work.loadBytes (w : Work) (d g a n align k : Nat) : Loaded :=
  if n = 0 then .bytes a [] true
  else
    match w.target d g a n with
    | .fault => .trap { cause := k + 1, val := a }
    | .unmapped => .trap { cause := k + 1, val := a, unmapped := true }
    | .own b =>
      if 0 < w.badRows b n then .trap (w.ueTrap a) else .bytes b ((w.read b n).getD []) true
    | .other b =>
      if a % align ≠ 0 then .trap { cause := k, val := a }
      else if w.rackingIn b n then .trap { cause := k + 1, val := a, waits := true }
      else if 0 < w.badRows b n then .trap (w.ueTrap a)
      else .bytes b ((w.read b n).getD []) false

/-- A trap taken, with an uncorrectable word of the own local memory counted where the trap met one (R220). -/
def Work.memTrap (w : Work) (d g : Nat) (t : TrapInfo) : Work :=
  if t.ue then
    let own := match w.target d g t.val 1 with
      | .own b => some b
      | _ => none
    let w := { w with free := w.free + 1 }
    match own with
    | some b => (w.localUe d g (b / 64 * 64)).trap d g t
    | none => w.trap d g t
  else w.trap d g t

/-- What a store does: the block with it done, or a trap. -/
inductive Stored where
  | ok (w : Work)
  | trap (t : TrapInfo)

/-- Bytes stored at an address: to a descriptor-table page is a store access fault (R100). A store to the reserved
line ends the reservation (R223). -/
def Work.storeBytes (w : Work) (d g a align : Nat) (bs : List Byte) : Stored :=
  match w.target d g a bs.length with
  | .fault => .trap { cause := 7, val := a }
  | .unmapped => .trap { cause := 7, val := a, unmapped := true }
  | .own b => .ok (w.write b bs)
  | .other b =>
    if a % align ≠ 0 then .trap { cause := 6, val := a }
    else if w.meetsDt b bs.length then .trap { cause := 7, val := a }
    else if w.rackingIn b bs.length then .trap { cause := 7, val := a, waits := true }
    else .ok (w.write b bs)

/-- An offset in the core's own local memory, through the alias or the window; a trap for any other address. -/
def Work.localBytes (w : Work) (d g a n align : Nat) : Loaded :=
  if a % align ≠ 0 then .trap { cause := 5, val := a }
  else
    match w.target d g a (max n 1) with
    | .own _ => w.loadBytes d g a n 1 4
    | _ => .trap { cause := 5, val := a }

/-! ## The Oxene instructions (R229 to R238) -/

/-- The word of a vector form (R229). -/
def oxVector (opcode f3 f6 : Nat) (vm : Bool) (vs2 rs1 vd : Nat) : Nat :=
  opcode + vd * 2 ^ 7 + f3 * 2 ^ 12 + rs1 * 2 ^ 15 + vs2 * 2 ^ 20 + (if vm then 2 ^ 25 else 0) + f6 * 2 ^ 26

/-- The word of a scalar form (R229). -/
def oxScalar (opcode f3 f7 rs2 rs1 rd : Nat) : Nat :=
  opcode + rd * 2 ^ 7 + f3 * 2 ^ 12 + rs1 * 2 ^ 15 + rs2 * 2 ^ 20 + f7 * 2 ^ 25

/-- custom-0. -/
abbrev custom0 : Nat := 0b0001011
/-- custom-1. -/
abbrev custom1 : Nat := 0b0101011

/-- Active elements of the body written with a function's values; others stay (R230). -/
def Core.mapActive (c : Core) (vm : Bool) (vd n : Nat) (f : Nat → Nat) : Core :=
  (c.body.filter (fun i => c.active vm i)).foldl (fun k i => k.setVElem vd n i (f i)) c

/-- With vm 0 neither the destination nor the source may be v0, which is read as a mask (R230). -/
def maskOk (vm : Bool) (vd vs2 : Nat) : Bool := vm || (decide (vd ≠ 0) && decide (vs2 ≠ 0))

/-- A vector form completes with the destination group at vd: masked-off elements are undisturbed, and its tail follows the
V extension's policy (R230). -/
def Work.vDone (w : Work) (d g : Nat) (c k : Core) (vd n : Nat) : Work :=
  if bitOf c.vtype 6 then
    let (x, w) := w.fresh 512
    w.setCore d g (c.agnostic k vd n c.group c.vl true x).vRetire
  else w.setCore d g k.vRetire

/-- `vh64.v` (R232). -/
def Work.vh64V (w : Work) (d g vd vs2 : Nat) (vm : Bool) : Work :=
  let c := w.core d g
  if c.vLegal [64] [vd, vs2] && maskOk vm vd vs2 then
    w.vDone d g c (c.mapActive vm vd 64 (fun i => vh64Word c.vhseed (c.vElem vs2 64 i))) vd 64
  else w.trap d g (trapIllegal (oxVector custom0 0 0 vm vs2 0 vd))

/-- The strings of `vh64.vs`: the hash of each active element, or the first trap (R232). -/
def Work.vhStrings (w : Work) (d g : Nat) (c : Core) (vs2 : Nat) : List Nat → Core → Nat → Core ⊕ TrapInfo
  | [], k, _ => .inl k
  | i :: is, k, vd =>
    let e := c.vElem vs2 64 i
    match w.localBytes d g (fieldOf e 0 32) (fieldOf e 32 32) 1 with
    | .trap t => .inr t
    | .bytes _ bs _ => Work.vhStrings w d g c vs2 is (k.setVElem vd 64 i (vh64 c.vhseed bs)) vd

/-- `vh64.vs` (R232): a length above 2^31 - 1 is no operand of it. -/
def Work.vh64Vs (w : Work) (d g vd vs2 : Nat) (vm : Bool) : Work :=
  let c := w.core d g
  let act := c.body.filter (fun i => c.active vm i)
  if c.vLegal [64] [vd, vs2] && maskOk vm vd vs2 && act.all (fun i => decide (c.vElem vs2 64 i < 2 ^ 63)) then
    match w.vhStrings d g c vs2 act c vd with
    | .inl k => w.vDone d g c k vd 64
    | .inr t => w.memTrap d g t
  else w.trap d g (trapIllegal (oxVector custom0 0 1 vm vs2 0 vd))

/-- A string in any memory hashed into rd (R232, R233). -/
def Work.stringOp (w : Work) (d g rd a len : Nat) (f : List Byte → Nat) : Work :=
  match w.loadBytes d g a len 1 4 with
  | .trap t => w.memTrap d g t
  | .bytes _ bs _ => w.setCore d g (((w.core d g).setX rd (f bs)).retire 4)

/-- `vh64.m` (R232). -/
def Work.vh64M (w : Work) (d g rd rs1 rs2 : Nat) : Work :=
  let c := w.core d g
  if 2 ^ 31 ≤ c.getX rs2 then w.trap d g (trapIllegal (oxScalar custom0 1 0 rs2 rs1 rd))
  else w.stringOp d g rd (c.getX rs1) (c.getX rs2) (vh64 c.vhseed)

/-- `crc32c.m` (R233). -/
def Work.crc32cM (w : Work) (d g rd rs1 rs2 : Nat) : Work :=
  let c := w.core d g
  w.stringOp d g rd (c.getX rs1) (c.getX rs2) crc32c

/-- The value of a key of `vbkt` or a boundary (R234). -/
def bktVal (flt : Bool) (x : Nat) : EVal := if flt then .flt (f32 x) else .int (sext 64 x)

/-- `vbkt` (R234, R235). -/
def Work.vbkt (w : Work) (d g : Nat) (nan wide flt : Bool) (vd vs2 rs1 : Nat) (vm : Bool) : Work :=
  let c := w.core d g
  let n := if flt then 32 else 64
  let top := if wide then 255 else 15
  let len := (top + 1) * n / 8
  let f6 := (if flt then 2 else 0) + (if wide then 4 else 0) + (if nan then 8 else 0)
  if c.vLegal [n] [vd, vs2] && maskOk vm vd vs2 then
    match w.localBytes d g (c.getX rs1) len 64 with
    | .trap t => w.memTrap d g t
    | .bytes _ bs _ =>
      let bounds := (List.range top).map (fun k => bktVal flt (leAt bs (k * n / 8) (n / 8)))
      let k := c.body.foldl (fun k i =>
        k.setVElem vd n i (quantile top nan bounds (!c.active vm i) (bktVal flt (c.vElem vs2 n i)))) c
      w.vDone d g c k vd n
  else w.trap d g (trapIllegal (oxVector custom0 2 f6 vm vs2 rs1 vd))

/-- The value of a vector element as a float of its width. -/
def fltOfWidth (n x : Nat) : FVal :=
  if n = 16 then Fmt.fp16.decode x else if n = 32 then Fmt.fp32.decode x else Fmt.fp64.decode x

/-- a comes after b in the order of `vbitonic`: NaN last, all NaNs equal (R236). -/
def keyAfter (key n a b : Nat) : Bool :=
  match key with
  | 0 => decide (b < a)
  | 1 => decide (sext n b < sext n a)
  | _ =>
    let x := fltOfWidth n a
    let y := fltOfWidth n b
    if x.isNan then !y.isNan else !y.isNan && y.lt x

/-- The test of R236 with the index as tie-break. -/
def pairAfter (key n a ia b ib : Nat) : Bool :=
  keyAfter key n a b || (!keyAfter key n b a && decide (ib < ia))

/-- One compare-exchange of elements i and p (R236). -/
def Core.exchange (c : Core) (key n j k : Nat) (desc : Bool) (vd vs2 i : Nat) : Core :=
  let p := i ^^^ j
  if i < p ∧ p < c.vl then
    let (a, b) := (c.vElem vd n i, c.vElem vd n p)
    let (ia, ib) := (c.vElem vs2 n i, c.vElem vs2 n p)
    let up := decide (i &&& k = 0) != desc
    if (up && pairAfter key n a ia b ib) || (!up && pairAfter key n b ib a ia) then
      (((c.setVElem vd n i b).setVElem vd n p a).setVElem vs2 n i ib).setVElem vs2 n p ia
    else c
  else c

/-- `vbitonic` (R236): a pair whose lower element lies before vstart is not exchanged (R230). (Log entry 49, DEDUCED.) -/
def Work.vbitonic (w : Work) (d g vd vs2 rs1 : Nat) : Work :=
  let c := w.core d g
  let x := c.getX rs1
  let (lj, lk, key) := (fieldOf x 0 4, fieldOf x 4 4, fieldOf x 8 2)
  if !(c.vLegal [32, 64] [vd, vs2]) || decide (vd = vs2) then
    w.trap d g (trapIllegal (oxVector custom0 3 0 true vs2 rs1 vd))
  else if lj ≤ 8 ∧ lj + 1 ≤ lk ∧ lk ≤ 9 ∧ key < 3 ∧ fieldOf x 11 53 = 0 then
    let k := c.body.foldl (fun k i => k.exchange key c.sew (2 ^ lj) (2 ^ lk) (bitOf x 10) vd vs2 i) c
    let (y, w) := if bitOf c.vtype 6 then w.fresh 512 else (0, w)
    w.vDone d g c (if bitOf c.vtype 6 then c.agnostic k vs2 c.sew c.group c.vl true y else k) vd c.sew
  else w.trap d g (trapIllegal x)

/-- The position that `vargmax` finds: the first of the greatest valid active elements (R237). -/
def argmaxOf (tt n : Nat) (get : Nat → Nat) : List Nat → Option Nat
  | [] => none
  | i :: is =>
    let valid := !(decide (tt = 2) && (fltOfWidth n (get i)).isNan)
    match argmaxOf tt n get is with
    | none => if valid then some i else none
    | some j => if valid && !keyAfter tt n (get j) (get i) then some i else some j

/-- `vargmax` (R237). -/
def Work.vargmax (w : Work) (d g tt rd vs2 : Nat) (vm : Bool) : Work :=
  let c := w.core d g
  let sews := if tt = 2 then [16, 32, 64] else [8, 16, 32, 64]
  if c.vLegal sews [vs2] && decide (tt < 3) && (vm || decide (vs2 ≠ 0)) then
    let act := c.body.filter (fun i => c.active vm i)
    w.setCore d g ((c.setX rd ((argmaxOf tt c.sew (c.vElem vs2 c.sew) act).getD absent64)).vRetire)
  else w.trap d g (trapIllegal (oxVector custom1 0 tt vm vs2 0 rd))

/-- The elements of `vqpack` as nibbles, and how many were saturated (R238, R70). -/
def packNibbles (sgn : Bool) (n : Nat) (xs : List Nat) : List Nat × Nat :=
  let rs := xs.map (fun x =>
    if sgn then
      let (v, s) := clampTo (-8) 7 (sext n x)
      (wrapTo 4 v, s)
    else if 15 < x then (15, true) else (x, false))
  (rs.map (·.1), (rs.filter (·.2)).length)

/-- `vqpack` (R238): S = 0 takes the elements as unsigned, and nibbles before vstart are untouched (R230).
(Log entry 49, DEDUCED.) -/
def Work.vqpack (w : Work) (d g : Nat) (sgn : Bool) (vd vs2 : Nat) : Work :=
  let c := w.core d g
  let grp := c.group
  let apart := decide (vd + grp ≤ vs2) || decide (vs2 + grp ≤ vd)
  if c.vLegal [8, 16, 32, 64] [vd, vs2] && apart then
    let (ns, sats) := packNibbles sgn c.sew ((List.range c.vl).map (fun i => if i < c.vstart then 0 else c.vElem vs2 c.sew i))
    let packed := ns.foldr (fun x acc => x + acc * 16) 0
    let k := (List.range (grp * 128)).foldl (fun k i =>
      if i < c.vstart then k else k.setVElem vd 4 i (fieldOf packed (4 * i) 4)) c
    (w.setCore d g k.vRetire).countSat (.gc d g) sats
  else w.trap d g (trapIllegal (oxVector custom1 1 (if sgn then 1 else 0) true vs2 0 vd))

/-- VH64_V (R232). -/
def execVh64V (die gc vd vs2 : Nat) (vm : Bool) (s : State) : Out :=
  s.perform (.vh64V die gc vd vs2 vm) (fun w => w.coreRow die gc (fun w => w.vh64V die gc vd vs2 vm))
/-- VH64_VS (R232). -/
def execVh64Vs (die gc vd vs2 : Nat) (vm : Bool) (s : State) : Out :=
  s.perform (.vh64Vs die gc vd vs2 vm) (fun w => w.coreRow die gc (fun w => w.vh64Vs die gc vd vs2 vm))
/-- VH64_M (R232). -/
def execVh64M (die gc rd rs1 rs2 : Nat) (s : State) : Out :=
  s.perform (.vh64M die gc rd rs1 rs2) (fun w => w.coreRow die gc (fun w => w.vh64M die gc rd rs1 rs2))
/-- CRC32C_M (R233). -/
def execCrc32cM (die gc rd rs1 rs2 : Nat) (s : State) : Out :=
  s.perform (.crc32cM die gc rd rs1 rs2) (fun w => w.coreRow die gc (fun w => w.crc32cM die gc rd rs1 rs2))
/-- VBKT (R234, R235). -/
def execVbkt (die gc : Nat) (nan wide flt : Bool) (vd vs2 rs1 : Nat) (vm : Bool) (s : State) : Out :=
  s.perform (.vbkt die gc nan wide flt vd vs2 rs1 vm)
    (fun w => w.coreRow die gc (fun w => w.vbkt die gc nan wide flt vd vs2 rs1 vm))
/-- VBITONIC (R236). -/
def execVbitonic (die gc vd vs2 rs1 : Nat) (s : State) : Out :=
  s.perform (.vbitonic die gc vd vs2 rs1) (fun w => w.coreRow die gc (fun w => w.vbitonic die gc vd vs2 rs1))
/-- VARGMAX (R237). -/
def execVargmax (die gc tt rd vs2 : Nat) (vm : Bool) (s : State) : Out :=
  s.perform (.vargmax die gc tt rd vs2 vm) (fun w => w.coreRow die gc (fun w => w.vargmax die gc tt rd vs2 vm))
/-- VQPACK (R238). -/
def execVqpack (die gc : Nat) (sgn : Bool) (vd vs2 : Nat) (s : State) : Out :=
  s.perform (.vqpack die gc sgn vd vs2) (fun w => w.coreRow die gc (fun w => w.vqpack die gc sgn vd vs2))

/-! ## Waiting, traps and the debugger -/

/-- `wfi` in user mode (R218): the core waits for a request of its own, or goes on at once with none outstanding. A
barrier that it has joined is such a request (R262). -/
def Work.wfi (w : Work) (d g : Nat) : Work :=
  let c := (w.core d g).retire 4
  w.setCore d g (if c.tapout = 0 then c else { c with wait := .wfi })

/-- WFI (R218). -/
def execWfi (die gc : Nat) (s : State) : Out :=
  s.perform (.wfi die gc) (fun w => w.coreRow die gc (fun w => w.wfi die gc))

/-- USER_TRAP (R226): a trap that the core's task meets. -/
def execUserTrap (die gc : Nat) (cause : Nat) (val : BitVec 64) (ue unmapped : Bool) (s : State) : Out :=
  s.perform (.userTrap die gc cause val ue unmapped) (fun w =>
    if (w.core die gc).user then
      let w := if ue then
          match w.target die gc val.toNat 1 with
          | .own b => w.localUe die gc (b / 64 * 64)
          | _ => w
        else w
      w.trap die gc { cause := cause % 64, val := val.toNat, ue := ue, unmapped := !ue && unmapped }
    else w)

/-- `ebreak` halts the core under an attached debugger, and is a trap without one (R226, R227). -/
def Work.ebreak (w : Work) (d g : Nat) : Work :=
  if w.modl.dbg then
    (w.setCore d g { w.core d g with halted := true }).wr F.gcStatusHalted d g 1
  else w.trap d g { cause := 3, val := (w.core d g).pc }

/-- EBREAK_HALT (R227). -/
def execEbreakHalt (die gc : Nat) (s : State) : Out :=
  s.perform (.ebreakHalt die gc) (fun w => w.coreRow die gc (fun w => w.ebreak die gc))

end Sys2Proof.Machine
end

