-- ==== Sys2Proof/Machine/Sched.lean ====
section
/-! DEFINITION. What dispatchers and stream engines share: task descriptors, trace records, stage barriers, the
ready lists and the completion of a task (chapters 09 and 10). Units of a die are numbered 0 to 95 for its general
cores and 96 to 119 for its matrix engines. -/

namespace Sys2Proof.Machine

/-! ## Task descriptors (R273, R274) -/

/-- KIND of a task. -/
def Task.kind (t : Task) : Nat := recF t.r 7 0
/-- LEVEL. -/
def Task.level (t : Task) : Nat := recF t.r 11 8
/-- UNIT as the descriptor gives it. -/
def Task.unit (t : Task) : Nat := recF t.r 22 16
/-- TAG. -/
def Task.tag (t : Task) : Nat := recF t.r 47 32
/-- WAIT_BAR. -/
def Task.waitBar (t : Task) : Nat := recF t.r 63 48
/-- BUDGET_NS. -/
def Task.budget (t : Task) : Nat := recF t.r 95 64
/-- ENTRY. -/
def Task.entry (t : Task) : Nat := recF t.r 147 96
/-- ARG. -/
def Task.arg (t : Task) : Nat := recF t.r 223 160
/-- COMP_ADDR. -/
def Task.comp (t : Task) : Nat := recF t.r 275 224
/-- DELAYED. -/
def Task.delayed (t : Task) : Bool := recB t.r 376

/-- KIND codes of R273. -/
abbrev kindGc : Nat := 0x81
/-- ME_TASK. -/
abbrev kindMe : Nat := 0x82
/-- STREAM. -/
abbrev kindStream : Nat := 0x83
/-- CHAIN. -/
abbrev kindChain : Nat := 0x84

/-- TYPE of a task in completion and trace records (R292). -/
def Task.type (t : Task) : Nat := t.kind - kindGc

/-- The units that a task may run: whether it names one, and which (R280). -/
def Task.units (t : Task) : List Nat :=
  match t.kind with
  | 0x82 => if t.unit = 0x7F then (List.range 24).map (96 + ·) else [96 + t.unit]
  | 0x83 => []
  | _ => if t.unit = 0x7F then List.range 96 else [t.unit]

/-- The task names a unit (R280). -/
def Task.named (t : Task) : Bool := decide (t.unit ≠ 0x7F)

/-- The logical unit in records: 0x7F for a stream (R292). (Log entry 59, DEDUCED.) -/
def unitShown (u : Nat) : Nat := if u < 96 then u else if u < 120 then u - 96 else 0x7F

/-- The field checks of R274 on a descriptor. -/
def Work.taskFields (w : Work) (r : Rec) : List Nat :=
  let p := w.period
  let k := recF r 7 0
  let u := recF r 22 16
  let unitOk := match k with
    | 0x82 => decide (u < 24) || decide (u = 0x7F)
    | 0x83 => decide (u = 0)
    | _ => decide (u < 96) || decide (u = 0x7F)
  let e := recF r 147 96
  let entryOk := match k with
    | 0x81 => decide (e % 2 = 0)
    | _ => decide (e % 64 = 0)
  let b := recF r 95 64
  let wb := recF r 63 48
  chk (recZero r [(23, 23), (31, 26), (159, 148), (287, 276), (511, 377)] &&
    decide (0x81 ≤ k) && decide (k ≤ 0x84) && unitOk && (decide (wb < 1024) || decide (wb = 0xFFFF)) &&
    decide (1 ≤ b) && decide (b ≤ p - commitEnd p) && decide (recF r 375 352 < p) && entryOk) sRange

/-- The state of a plan (R293): 0 EMPTY, 1 LOADED, 2 RUNNING, 3 DRAINING, 4 STOPPED, 5 FAULTED. -/
def Work.planState (w : Work) (p : Nat) : Nat := w.rd (F.dispPlanStateState p) 0 0

/-- Tasks in the ready levels of a dispatcher (R279). -/
def Disp.ready (x : Disp) : Nat := (x.levels.map List.length).foldl (· + ·) 0

/-! ## Trace records (R299) -/

/-- A trace record of 32 B in trace mode: to its ring slot, or dropped where the ring cannot be written (R299,
R675). (Log entry 60, DESIGN CHOICE.) -/
def Work.trace (w : Work) (die what : Nat) (t : Task) (unit status wait : Nat) : Work :=
  if w.obsMode = 0 then w
  else
    let slots := w.dv F.dispObsModeTraceMib * 32768
    let n := w.dv F.dispTraceHeadWritten
    let a := w.dv F.dispObsModeTraceBase * 0x200000 + n % slots * 32
    let x := w.now + t.tag * 2 ^ 64 + t.plan % 16 * 2 ^ 80 + t.level * 2 ^ 84 + what * 2 ^ 88 + unitShown unit * 2 ^ 92 +
      die * 2 ^ 99 + t.type % 4 * 2 ^ 101 + status * 2 ^ 112 + w.tickNo % 2 ^ 32 * 2 ^ 128 + t.budget * 2 ^ 160 +
      min wait (2 ^ 32 - 1) * 2 ^ 192 + (w.disp die).ready * 2 ^ 224
    if slots ≠ 0 ∧ w.mapped a 32 = true ∧ w.meetsDt a 32 = false then
      (w.write a (toBytes 32 x)).wr F.dispTraceHeadWritten 0 0 (n + 1)
    else w.bumpSat F.dispStatTraceDrop die 0

/-! ## Ready lists and slots (R279 to R284) -/

/-- A list of the dispatcher's map for a unit. -/
def unitGet {α : Type} (m : List (Nat × List α)) (u : Nat) : List α :=
  match m.find? (fun e => e.1 = u) with
  | some e => e.2
  | none => []
/-- A list of the dispatcher's map for a unit replaced: an empty one is not listed, and units rise. -/
def unitSet {α : Type} (m : List (Nat × List α)) (u : Nat) (l : List α) : List (Nat × List α) :=
  let r := m.filter (fun e => e.1 ≠ u)
  if l.isEmpty then r else sortBy (fun a b => decide (a.1 ≤ b.1)) ((u, l) :: r)

/-- A task put at the tail or at the head of its level. -/
def Disp.push (x : Disp) (t : Task) (head : Bool) : Disp :=
  let l := getAt [] x.levels t.level
  { x with levels := x.levels.set t.level (if head then t :: l else l ++ [t]) }

/-- A task taken out of its level. -/
def Disp.drop (x : Disp) (t : Task) : Disp :=
  { x with levels := x.levels.set t.level ((getAt [] x.levels t.level).filter (fun q => q.serial ≠ t.serial)) }

/-- The barrier that a task waits on has released since it arrived (R279). -/
def Work.barPassed (w : Work) (t : Task) : Bool :=
  decide (t.waitBar = 0xFFFF) || decide (w.rd F.strmBarGen 0 t.waitBar ≠ t.gen)

/-- The epoch has reached C, the device is not in REST (R279). -/
def Work.dispatching (w : Work) : Bool :=
  decide (commitEnd w.period ≤ w.phase) && decide (w.devState ≠ stRest)

/-- When a task of a ready level became eligible is noted once (R279, R298): at C when it had arrived before. A task that
was deferred is eligible again at C of the next epoch (R35). -/
def Work.markElig (w : Work) (t : Task) : Task :=
  if t.elig.isSome ∨ !w.barPassed t ∨ !w.dispatching ∨ t.deferred = some w.tickNo then t
  else { t with elig := some (if t.waitBar = 0xFFFF ∨ t.deferred.isSome then
                                max t.release (w.time.lastTick + commitEnd w.period) else w.now) }

/-- A general core of the embedding service: the highest SVC of a die while a table is attached (R374). -/
def Work.serviceCore (w : Work) (u : Nat) : Bool :=
  let svc := (w.emb.tables.map (fun t => fieldOf t.cfg 864 5)).foldl max 0
  decide (u < 96) && decide (96 ≤ u + svc)

/-- A general core or matrix engine can take tasks: it is not fenced, lost, halted or under reset, and serves no
embedding table (R227, R287, R374, R582). -/
def Work.unitServes (w : Work) (d u : Nat) : Bool :=
  let x := w.unitSt d u
  !x.fenced && !x.lost && (decide (96 ≤ u) || !(w.core d u).halted) && !w.boot.units.contains (d * 120 + u) &&
    !w.serviceCore u

/-- The unit runs no task. -/
def Disp.idle (x : Disp) (u : Nat) : Bool := (unitGet x.run u).isEmpty

/-- Level l may be slotted on unit u (R283). -/
def Disp.allowed (x : Disp) (u l : Nat) : Bool :=
  match x.guard.find? (fun e => e.1 = u) with
  | some e => decide (l < e.2)
  | none => true

/-- The slot for a task: of its units with an empty slot, idle ones first, in ascending number (R280). -/
def Work.slotFor (w : Work) (d : Nat) (t : Task) : Option Nat :=
  let x := w.disp d
  let free := t.units.filter (fun u => (unitGet x.slot u).isEmpty && w.unitServes d u && x.allowed u t.level)
  match free.find? (fun u => x.idle u) with
  | some u => some u
  | none => free.head?

/-- A task moved from its level into a slot. -/
def Work.intoSlot (w : Work) (d u : Nat) (t : Task) : Work :=
  let x := (w.disp d).drop t
  (w.setDisp d { x with slot := unitSet x.slot u [t] }).trace d 2 t u 0 0

/-- The dispatcher fills empty slots with eligible tasks, levels ascending and arrivals in order (R280). -/
def Work.fillSlots (w : Work) (d : Nat) : Work :=
  if !w.dispatching then w
  else
    (w.disp d).levels.flatten.foldl (fun w t =>
      if t.elig.isSome && decide (t.kind ≠ kindStream) then
        match w.slotFor d t with
        | some u => w.intoSlot d u t
        | none => w
      else w) w

/-- The dispatcher of a die looks again at what has become eligible. -/
def Work.refresh (w : Work) (d : Nat) : Work :=
  let x := w.disp d
  (w.setDisp d { x with levels := x.levels.map (fun l => l.map w.markElig) }).fillSlots d

/-- Every dispatcher looks again. -/
def Work.refreshAll (w : Work) : Work := (List.range 4).foldl Work.refresh w

/-- A slotted task goes back to the head of its level (R282, R283, R287). -/
def Work.unslot (w : Work) (d u : Nat) : Work :=
  let x := w.disp d
  match unitGet x.slot u with
  | t :: _ => w.setDisp d ({ x with slot := unitSet x.slot u [] }.push t true)
  | [] => w

/-- A task that arrives and names a unit displaces a slotted task of a higher-numbered level, and takes its slot if it is
eligible (R280, R282). (Log entry 58, DEDUCED.) -/
def Work.displace (w : Work) (d : Nat) (t : Task) : Work :=
  if t.named && decide (t.kind ≠ kindStream) then
    match t.units with
    | [u] =>
      (match unitGet (w.disp d).slot u with
      | q :: _ =>
        if t.level < q.level then
          let w := (w.unslot d u).trace d 6 q u 0 0
          if t.elig.isSome && w.unitServes d u && (w.disp d).allowed u t.level then w.intoSlot d u t else w
        else w
      | [] => w)
    | _ => w
  else w

/-- A task arrives in its ready level, from a delay list or else (R276, R277, R288, R299): what else has become eligible is
looked at first. (Log entry 58, DEDUCED.) -/
def Work.arriveTask (w : Work) (d : Nat) (t0 : Task) (released : Bool := false) : Work :=
  let w := w.refresh d
  let gen := if t0.waitBar < 1024 then w.rd F.strmBarGen 0 t0.waitBar else 0
  let t := w.markElig { t0 with gen := gen, release := w.now, elig := none }
  let w := w.setDisp d ((w.disp d).push t false)
  let w := if released then w.trace d 1 t 127 0 0 else w.trace d 0 t 127 0 0
  (w.displace d t).refresh d

/-! ## Stage barriers (R260 to R263) -/

/-- COUNT of a barrier. -/
def Work.barCount (w : Work) (b : Nat) : Nat := w.rd F.strmBarCount 0 b

/-- An arrival at an armed barrier (R261): a repeated one is ignored and counted; the last one releases it, its
waiters complete, and the dispatchers look again. `fl` is the request that completes at the release (R262). -/
def Work.arriveBar (w : Work) (b : Nat) (who : Ident) (fl : Option Flight) : Work :=
  let x := w.bar b
  let waiting := x.waiting ++ fl.toList
  if x.arrived.contains who then (w.bumpSat F.strmBarDup 0 b).setBar b { x with waiting := waiting }
  else
    let n := x.arrived.length + 1
    if w.barCount b ≤ n then
      let w := ((w.setBar b Barrier.atReset).bump F.strmBarGen 0 b).wr F.strmBarArrived 0 b 0
      (waiting.foldl Work.finish w).refreshAll
    else (w.setBar b { arrived := who :: x.arrived, waiting := waiting }).wr F.strmBarArrived 0 b n

/-! ## Completing tasks (R291, R292) -/

/-- The task completion record (R292). -/
def Work.taskRecord (w : Work) (die u : Nat) (t : Task) (status : Nat) : List Byte :=
  toBytes 32 (status + t.tag * 2 ^ 16 + t.plan % 16 * 2 ^ 32 + t.level * 2 ^ 36 + unitShown u * 2 ^ 40 +
    die * 2 ^ 47 + t.type % 4 * 2 ^ 49 + t.epoch % 2 ^ 64 * 2 ^ 64 + t.start % 2 ^ 64 * 2 ^ 128 +
    w.now % 2 ^ 64 * 2 ^ 192)

/-- Time spent running a task in the present epoch so far. -/
def Work.spent (w : Work) (t : Task) : Nat := w.now - max t.start w.time.lastTick

/-- A run past its budget is counted, once for a run: at the tick, at the completion or at the fence that first finds it
past (R291). (Log entry 59, DEDUCED.) -/
def Work.countOver (w : Work) (die : Nat) (t : Task) : Work :=
  if t.budget < w.now - t.start ∧ t.pastBudget = false then w.bump F.dispStatOverBudget die 0 else w

/-- A task completes: its record is written, a run past its budget is counted, its time joins the unit's, and the
slots are looked at again (R290 to R292, R298). -/
def Work.taskDone (w : Work) (die u : Nat) (t : Task) (status : Nat) : Work :=
  let w := w.completion die t.plan t.comp 32 (w.taskRecord die u t status)
  let w := w.countOver die t
  let w := w.trace die 4 t u status 0
  let x := w.disp die
  let busy := smSet 0 x.busy u (smGet 0 x.busy u + w.spent t)
  let x := { x with busy := busy, past := unitSet x.past u (unitGet x.past u ++ [t]) }
  let x := if u < 120 then { x with run := unitSet x.run u [] }
           else { x with streams := x.streams.filter (fun q => q.serial ≠ t.serial) }
  (w.setDisp die x).refresh die

/-! ## Bindings of a stream (R247) -/

/-- A binding: handle, coordinate map, block extents (R247). -/
structure Binding where
  handle : Nat
  coord : List Nat
  ext : List Nat
  reservedZero : Bool
  deriving DecidableEq, Repr

/-- Binding k of a stream description. -/
def bindingOf (desc : List Byte) (k : Nat) : Binding :=
  let x := leAt desc (64 + 32 * k) 32
  { handle := fieldOf x 0 16, coord := (List.range 6).map (fun j => fieldOf x (16 + 4 * j) 4),
    ext := (List.range 6).map (fun j => fieldOf x (48 + 16 * j) 16 + 1),
    reservedZero := decide (fieldOf x 40 8 = 0) && decide (fieldOf x 144 112 = 0) }

/-- The general core whose local memory a binding's block lies in (R258). -/
def Work.phasedCore (w : Work) (plan : Nat) (b : Binding) : Option (Nat × Nat) :=
  match w.desc plan b.handle with
  | none => none
  | some d =>
    match regionOf d.allocBase with
    | .gcWin die gc => some (die, gc)
    | _ => none

/-- The cores that the transfer of an emit is phased for (R258). -/
def Work.emitCores (w : Work) (x : Ctx) (e : Emit) : List (Nat × Nat) :=
  let w := w.lend x.plan x.held
  match e with
  | .transfer s d _ _ _ =>
    (w.phasedCore x.plan (bindingOf x.desc s)).toList ++ (w.phasedCore x.plan (bindingOf x.desc d)).toList
  | .command _ _ => []

/-- A granted phased emit for a core has bytes that have not landed (R259). -/
def Work.phaseHeld (w : Work) (d g : Nat) : Bool :=
  w.ctxs.any (fun c => c.2.emits.any (fun e =>
    match e with
    | .transfer _ _ _ _ granted =>
      decide (0 < granted) && (w.emitCores c.2 e).contains (d, g)
    | .command _ _ => false))

/-- A general core is in its compute phase while a task runs on it, and under a chain while one of its COMPUTE stages does
(R258, R267). -/
def Work.computing (w : Work) (d g : Nat) : Bool :=
  match w.chainAt d g with
  | some x => x.called || (x.fl.isSome && !(w.disp d).idle g)
  | none => !(w.disp d).idle g

end Sys2Proof.Machine
end

