-- ==== Sys2Proof/Machine/Stream.lean ====
section
/-! DEFINITION. The stream engines: requests, stream contexts, the trellis program, bandwidth, the tap path, chains
and racking (chapter 09), and `vtap` (R239). -/

namespace Sys2Proof.Machine

/-! ## Entering user mode (R217, R267, R290) -/

/-- A register map of free values: what the runtime leaves in a register that no rule names. (Log entry 51, DEDUCED.) -/
def freeRegs (lo hi width c : Nat) : List (Nat × Nat) :=
  ((List.range (hi - lo)).map (fun k => (lo + k, (Config.freeValue width (c + k)).toNat))).filter (fun p => p.2 ≠ 0)

/-- The runtime enters user mode at an entry address with a0, a1 and a2; vhseed, fcsr and vtype are reset; the other
registers hold what is not stated (R217, R290). (Log entry 51, DEDUCED.) -/
def Work.enterUser (w : Work) (d g entry a0 a1 a2 : Nat) : Work :=
  let c := w.core d g
  let x := freeRegs 1 32 64 w.free
  let f := freeRegs 0 32 64 (w.free + 31)
  let v := freeRegs 0 32 512 (w.free + 63)
  let c := { c with x := x, f := f, v := v, pc := entry, user := true, fcsr := 0, vhseed := 0, vtype := 2 ^ 63, vl := 0,
                    vstart := 0, resv := none, wait := .none, ended := none }
  ({ w with free := w.free + 95 } : Work).setCore d g (((c.setX 10 a0).setX 11 a1).setX 12 a2)

/-! ## Requests (R243, R244) -/

/-- A stream-engine request's common fields. -/
structure StrmReq where
  op : Nat
  tag : Nat
  comp : Nat
  deriving DecidableEq, Repr

/-- The common fields of R243. -/
def StrmReq.ofRec (r : Rec) : StrmReq := { op := recF r 7 0, tag := recF r 31 16, comp := recF r 83 32 }

/-- The fields that an OP does not use, which must be zero (R243, R244); none for an OP that is not defined. -/
def strmReserved (op : Nat) : Option (List (Nat × Nat)) :=
  let common := [(15, 8), (95, 84)]
  match op with
  | 0x61 => some (common ++ [(159, 148), (223, 212), (511, 233)])
  | 0x62 => some (common ++ [(127, 112), (511, 180)])
  | 0x63 => some (common ++ [(511, 112)])
  | 0x64 => some (common ++ [(511, 148)])
  | 0x65 => some (common ++ [(511, 104)])
  | 0x66 => some (common ++ [(511, 106)])
  | 0x67 => some (common ++ [(127, 106), (511, 140)])
  | 0x68 => some (common ++ [(511, 148)])
  | 0x69 => some (common ++ [(511, 104)])
  | _ => none

/-- The flight of a request. -/
def Work.strmFlight (w : Work) (iss : Issuer) (q : StrmReq) : Flight :=
  { die := issDie iss, iss := iss, plan := w.planOf iss, tag := q.tag, comp := resolveComp iss q.comp, status := sOk,
    done := 0, result := 0, poison := 0 }

/-- A request completes with failures: it did nothing. -/
def Work.strmFail (w : Work) (iss : Issuer) (q : StrmReq) (fs : List Nat) : Work :=
  (w.countFurther (.strm (issDie iss)) fs).finish { w.strmFlight iss q with status := lowest fs }

/-- A request completes with OK. DONE, and RESULT where none is given, are not stated for it: free values. -/
def Work.strmOk (w : Work) (iss : Issuer) (q : StrmReq) (result : Option Nat) : Work :=
  let (dn, w) := w.fresh 32
  let (rs, w) := match result with
    | some r => (r, w)
    | none => w.fresh 32
  w.finish { w.strmFlight iss q with done := dn, result := rs }

/-- A request with failures or without. -/
def Work.strmEnd (w : Work) (iss : Issuer) (q : StrmReq) (fs : List Nat) (run : Work → Work) : Work :=
  if fs.isEmpty then (run w).strmOk iss q none else w.strmFail iss q fs

/-- The failures of reading n bytes at an address: no memory there (R115). -/
def Work.readable (w : Work) (a n : Nat) : List Nat := chk (w.mapped a n) sUnmapped

/-! ## Descriptor slots (R99, R101) -/

/-- DESC_INSTALL (R99, R101, R103). A descriptor read from a row delivered as zeros is a record of zeros. -/
def Work.descInstall (w : Work) (iss : Issuer) (q : StrmReq) (r : Rec) : Work :=
  let p := w.planOf iss
  let h := recF r 111 96
  let a0 := recF r 179 128
  let a := resolveAddr iss a0
  let rd := w.readRec a
  let fs := chk (w.handleOk p h) sRange ++ chk (!w.handleOk p h || decide ((w.slot p h).st = .empty)) sState ++
    chk (decide (a0 % 64 = 0)) sRange ++
    (match rd with
     | some x => if a0 % 64 = 0 then w.validate p x else []
     | none => [sUnmapped])
  w.strmEnd iss q fs (fun w => w.setSlot p h ⟨.valid, rd.getD 0⟩)

/-- DESC_RELEASE (R101). -/
def Work.descRelease (w : Work) (iss : Issuer) (q : StrmReq) (r : Rec) : Work :=
  let p := w.planOf iss
  let h := recF r 111 96
  let fs := chk (w.handleOk p h) sRange ++ chk (!w.handleOk p h || decide ((w.slot p h).st = .valid)) sState
  w.strmEnd iss q fs (fun w => w.setSlot p h { w.slot p h with st := .releasing })

/-- RELEASING slots become EMPTY at a tick (R102). -/
def Work.releaseSlots (w : Work) : Work := { w with slots := w.slots.filter (fun s => s.2.st ≠ .releasing) }

/-! ## Transfers on the tap path (R264, R265, R241) -/

/-- The failures of a transfer (R265). -/
def Work.xferFails (w : Work) (src dst len : Nat) : List Nat :=
  let one (a : Nat) : List Nat :=
    match regionOf a, regionOf (a + len - 1) with
    | .regs, _ => [sRange]
    | _, .regs => [sRange]
    | _, _ => chk (w.mapped a len) sUnmapped
  one src ++ one dst ++ chk (!w.meetsDt src len && !w.meetsDt dst len) sRange

/-- The bytes of a transfer whose marks are wanted are moved: zeros from a block delivered as zeros (R265). `fw`: management firmware's,
which writes the page table (R269). -/
def Work.xferMove (w : Work) (fw : Bool) (src dst len : Nat) (want : Nat → Bool) : Work :=
  let bs := (w.read src len).getD []
  ((List.range len).zip bs).foldl (fun w p =>
    if !want p.1 then w else if fw then w.putFirmware (dst + p.1) p.2 else w.put (dst + p.1) (fun _ => p.2)) w

/-- XFER (R243, R265): of a core, some of its bytes move at once and the rest by its completion, and which ones is
not defined (R241). A core's transfer that meets a page being moved waits whole (R269).
(Log entry 52, DESIGN CHOICE.) -/
def Work.xferRun (w : Work) (iss : Issuer) (q : StrmReq) (r : Rec) : Work :=
  let src := resolveAddr iss (recF r 147 96)
  let dst := resolveAddr iss (recF r 211 160)
  let len := recF r 232 224 + 1
  let fs := chk (decide (len ≤ 256)) sRange ++ w.xferFails src dst len
  if !fs.isEmpty then
    let w := if fs.contains sUnmapped then w.faultPlan (w.planOf iss) sUnmapped else w
    w.strmFail iss q fs
  else
    let pois := w.badRows src len
    let (dn, w) := w.fresh 32
    let (rs, w) := w.fresh 32
    let fl := { w.strmFlight iss q with status := if pois = 0 then sOk else sCheck, done := dn, result := rs, poison := pois }
    match iss with
    | .core d g =>
      let (m, w) := w.fresh 256
      let mask := if w.rackingIn src len || w.rackingIn dst len then 0 else m
      let w := w.xferMove false src dst len (bitOf mask)
      w.setCore d g { w.core d g with taps := (w.core d g).taps ++ [⟨fl, src, dst, len, mask⟩] }
    | .firmware _ _ => (w.xferMove true src dst len (fun _ => true)).finish fl
    | .stream _ _ => (w.xferMove false src dst len (fun _ => true)).finish fl

/-- TAP_REQUEST_COMPLETE (R240, R241): the k-th outstanding transfer of a core completes.
(Log entry 52, DESIGN CHOICE.) -/
def execTapRequestComplete (die gc k : Nat) (s : State) : Out :=
  s.perform (.tapRequestComplete die gc k) (fun w =>
    let c := w.core die gc
    match c.taps[k]? with
    | none => w
    | some t =>
      if w.rackingIn t.src t.len || w.rackingIn t.dst t.len then w else
      let w := w.setCore die gc { c with taps := c.taps.eraseIdx k }
      (w.xferMove false t.src t.dst t.len (fun i => !bitOf t.moved i)).finish t.fl)

/-! ## Barriers (R260 to R262) -/

/-- The identity of an issuer (R261). -/
def identOf : Issuer → Ident
  | .core d g => .core d g
  | .stream d c => .stream d c
  | .firmware mc _ => .mgmt mc

/-- BAR_ARRIVE (R260, R262): it completes when the barrier releases. -/
def Work.barArriveReq (w : Work) (iss : Issuer) (q : StrmReq) (r : Rec) : Work :=
  let b := recF r 105 96
  if w.barCount b = 0 then w.strmFail iss q [sState]
  else
    let (dn, w) := w.fresh 32
    let (rs, w) := w.fresh 32
    w.arriveBar b (identOf iss) (some { w.strmFlight iss q with done := dn, result := rs })

/-- BAR_ARM (R260). -/
def Work.barArmReq (w : Work) (iss : Issuer) (q : StrmReq) (r : Rec) : Work :=
  let b := recF r 105 96
  let n := recF r 139 128
  let fs := chk (w.bar b).arrived.isEmpty sState ++ chk (decide (1 ≤ n)) sRange
  w.strmEnd iss q fs (fun w => w.wr F.strmBarCount 0 b n)

/-! ## Stream descriptions and instructions (R246 to R250, R253) -/

/-- An instruction of a trellis program (R249). -/
structure TOp where
  op : Nat
  rd : Nat
  rs1 : Nat
  rs2 : Nat
  k : Nat
  mid : Nat
  imm : Nat
  word : Nat
  deriving DecidableEq, Repr

/-- The fields of R249. -/
def TOp.ofNat (x : Nat) : TOp :=
  { op := fieldOf x 0 5, rd := fieldOf x 5 3, rs1 := fieldOf x 8 3, rs2 := fieldOf x 11 3, k := fieldOf x 14 3,
    mid := fieldOf x 17 15, imm := fieldOf x 32 32, word := x }

/-- Q of an EMIT. -/
def TOp.q (t : TOp) : Nat := fieldOf t.mid 0 2
/-- SRC of an EMIT. -/
def TOp.src (t : TOp) : Nat := fieldOf t.mid 2 2
/-- DST of an EMIT. -/
def TOp.dst (t : TOp) : Nat := fieldOf t.mid 4 2
/-- COND of an EMIT. -/
def TOp.cond (t : TOp) : Nat := fieldOf t.mid 6 3
/-- REG of a LOOP. -/
def TOp.reg (t : TOp) : Bool := bitOf t.mid 0

/-- OP codes of R249. -/
abbrev tLoop : Nat := 0x02
/-- ENDL. -/
abbrev tEndl : Nat := 0x03
/-- EMIT. -/
abbrev tEmit : Nat := 0x0A
/-- END. -/
abbrev tEnd : Nat := 0x0B

/-- The fields that an instruction does not use are zero, and what it names is defined (R249, R250, R253). -/
def TOp.ok (t : TOp) : Bool :=
  let z (b : Bool) (n : Nat) : Bool := b || decide (n = 0)
  let uses (rd rs1 rs2 k imm : Bool) : Bool := z rd t.rd && z rs1 t.rs1 && z rs2 t.rs2 && z k t.k && z imm t.imm &&
    decide (t.k < 6)
  match t.op with
  | 0x01 => uses false false false false false && decide (t.mid = 0)
  | 0x02 => uses false t.reg false true (!t.reg) && decide (t.mid < 2)
  | 0x03 => uses false false false true false && decide (t.mid = 0)
  | 0x04 => decide (fieldOf t.word 8 8 = 0)
  | 0x05 => uses true true false false true && decide (t.mid = 0)
  | 0x06 => uses true true true false false && decide (t.mid = 0)
  | 0x07 => uses true true true false false && decide (t.mid = 0)
  | 0x08 => uses true true false true true && decide (t.mid = 0)
  | 0x09 => uses true false false false true && decide (t.mid = 0) && decide (1 ≤ t.imm)
  | 0x0A =>
    let condReg := decide (1 ≤ t.cond) && decide (t.cond ≤ 4)
    let condK := decide (t.cond = 5) || decide (t.cond = 6)
    decide (t.q < 3) && decide (t.cond < 7) && decide (t.mid < 512) &&
    uses false (decide (t.q ≠ 0)) condReg condK (decide (t.q ≠ 0)) &&
    (decide (t.q = 0) || (decide (t.src < 2) && decide (t.dst = 0) && decide (1 ≤ t.imm)))
  | 0x0B => uses false false false false false && decide (t.mid = 0)
  | _ => false

/-- The instruction at a program counter of a description. -/
def progAt (desc : List Byte) (pc : Nat) : TOp := TOp.ofNat (leAt desc (320 + 8 * pc) 8)
/-- Instructions in the program. -/
def progLen (desc : List Byte) : Nat := fieldOf (leAt desc 0 8) 0 5 + 1
/-- The program. -/
def program (desc : List Byte) : List TOp := (List.range (progLen desc)).map (progAt desc)

/-- Every ENDL closes the innermost open LOOP with its K, and no open K is reused (R253). A LOOP that no ENDL closes is not
refused: the rule lists no such check. (Log entry 169, DESIGN CHOICE.) -/
def loopsOk : List TOp → List Nat → Bool
  | [], _ => true
  | t :: ts, st =>
    if t.op = tLoop then !st.contains t.k && loopsOk ts (t.k :: st)
    else if t.op = tEndl then
      match st with
      | k :: r => decide (k = t.k) && loopsOk ts r
      | [] => false
    else loopsOk ts st

/-- The end of a LOOP that begins before this list: the index after its ENDL, or that of END, the last instruction, where no
ENDL closes it; what such a LOOP with a count of 0 does is not stated. (Log entry 169, DESIGN CHOICE.) -/
def afterEndl : List TOp → Nat → Nat → Nat
  | [], _, i => i - 1
  | t :: ts, depth, i =>
    if t.op = tLoop then afterEndl ts (depth + 1) (i + 1)
    else if t.op = tEndl then (if depth = 0 then i + 1 else afterEndl ts (depth - 1) (i + 1))
    else afterEndl ts depth (i + 1)

/-- The index of the LOOP that an ENDL with K closes: the last one before it with that K. -/
def loopOf (ts : List TOp) (k : Nat) : Nat :=
  match findIdx1 (fun t => decide (t.op = tLoop) && decide (t.k = k)) ts.reverse with
  | some i => ts.length - 1 - i
  | none => 0

/-- The header fields of a description (R246). -/
structure StrmHdr where
  fast : Bool
  barrier : Nat
  tag : Nat
  rate : Nat
  ahead : Nat
  comp : Nat
  reservedZero : Bool
  deriving DecidableEq, Repr

/-- The header of R246. -/
def StrmHdr.ofBytes (desc : List Byte) : StrmHdr :=
  let x := leAt desc 0 64
  { fast := bitOf x 5, barrier := fieldOf x 16 10, tag := fieldOf x 32 16, rate := fieldOf x 64 32,
    ahead := fieldOf x 96 32, comp := fieldOf x 128 52,
    reservedZero := decide (fieldOf x 6 10 = 0) && decide (fieldOf x 26 6 = 0) && decide (fieldOf x 48 16 = 0) &&
      decide (fieldOf x 180 332 = 0) }

/-- The checks of R253 on a binding. -/
def Work.bindingFails (w : Work) (p : Nat) (b : Binding) (dst : Bool) : List Nat :=
  match w.desc p b.handle with
  | none => [sState]
  | some d =>
    chk (!dst || d.write) sState ++
    chk ((List.range 6).all (fun k =>
      if k < d.rank then decide (getAt 1 b.ext k ≤ getAt 0 d.size k) &&
        (decide (getAt 0 b.coord k < 8) || decide (getAt 0 b.coord k = 15))
      else decide (getAt 1 b.ext k = 1))) sRange

/-- Elements of a block. -/
def Binding.count (b : Binding) (rank : Nat) : Nat := (b.ext.take rank).foldl (· * ·) 1

/-- The checks of R253 on a transfer emit. -/
def Work.transferFails (w : Work) (p : Nat) (desc : List Byte) (t : TOp) : List Nat :=
  let b := bindingOf desc t.src
  let c := bindingOf desc t.dst
  w.bindingFails p b false ++ w.bindingFails p c true ++
  (match w.desc p b.handle, w.desc p c.handle with
   | some x, some y => chk (decide (x.ty = y.ty) && decide (b.count x.rank = c.count y.rank)) sRange
   | _, _ => [])

/-- The checks of R253. -/
def Work.descriptionFails (w : Work) (p : Nat) (desc : List Byte) : List Nat :=
  let h := StrmHdr.ofBytes desc
  let ts := program desc
  let n := ts.length
  chk (h.reservedZero && (List.range 4).all (fun k => (bindingOf desc k).reservedZero) && ts.all TOp.ok) sRange ++
  chk (decide ((ts.getLast?.map (·.op)) = some tEnd) && (ts.take (n - 1)).all (fun t => decide (t.op ≠ tEnd)) &&
    loopsOk ts []) sRange ++
  (ts.filter (fun t => t.op = tEmit ∧ t.q = 0)).flatMap (w.transferFails p desc) ++
  chk (decide (1 ≤ w.barCount h.barrier)) sState

/-- The lowest-numbered FREE context of a die (R245). -/
def Work.freeCtx (w : Work) (d : Nat) : Option Nat := (List.range 256).find? (fun c => (w.ctx d c).st = .free)

/-- A stream takes a context (R245, R246, R248, R253): the context or the failures. `a6` and `a7` are those of a
chain (R267). Its transfers use the slots as they are now (R102). -/
def Work.streamBegin (w : Work) (d p a : Nat) (a6 a7 : Nat) (task chain : Option Nat) : Work × (Nat ⊕ List Nat) :=
  match w.freeCtx d, w.read a 576 with
  | none, _ => (w, .inr [sState])
  | some _, none => (w, .inr [sUnmapped])
  | some c, some desc =>
    match w.descriptionFails p desc with
    | [] =>
      (w.setCtx d c { Ctx.atReset with
        st := .running, held := w.hold p ((List.range 4).map (fun k => (bindingOf desc k).handle)),
        desc := desc, plan := p, started := w.now, a := [0, 0, 0, 0, 0, 0, a6, a7], task := task,
        chain := chain }, .inl c)
    | fs => (w, .inr fs)

/-- STREAM_START (R244, R245): without a FREE context nothing else is looked at. -/
def Work.streamStartReq (w : Work) (iss : Issuer) (q : StrmReq) (r : Rec) : Work :=
  let a0 := recF r 147 96
  if (w.freeCtx (issDie iss)).isNone then w.strmFail iss q [sState]
  else if a0 % 64 ≠ 0 then w.strmFail iss q [sRange]
  else
    match w.streamBegin (issDie iss) (w.planOf iss) (resolveAddr iss a0) 0 0 none none with
    | (w, .inl c) => w.strmOk iss q (some c)
    | (w, .inr fs) =>
      let w := if fs.contains sUnmapped then w.faultPlan (w.planOf iss) sUnmapped else w
      w.strmFail iss q fs

/-! ## Chains (R266 to R268) -/

/-- Fields of a chain record. -/
def chainField (rec_ : List Byte) (lo n : Nat) : Nat := fieldOf (leAt rec_ 0 32) lo n
/-- Stage k: KIND, ADDR, BUDGET_NS, and whether its reserved bits are zero. -/
def chainStage (rec_ : List Byte) (k : Nat) : Nat × Nat × Nat × Bool :=
  let x := leAt rec_ (32 + 24 * k) 24
  (fieldOf x 0 2, fieldOf x 8 52, fieldOf x 64 32,
    decide (fieldOf x 2 6 = 0) && decide (fieldOf x 60 4 = 0) && decide (fieldOf x 96 96 = 0))

/-- The buffer offset of a chunk. -/
def chainBuf (rec_ : List Byte) (c : Nat) : Nat := chainField rec_ (if c % 2 = 0 then 96 else 128) 32

/-- The checks of R266 and R268. (Log entry 53, DEDUCED.) -/
def Work.chainFails (w : Work) (p d g : Nat) (rec_ : List Byte) : List Nat :=
  let n := chainField rec_ 0 4
  let len := chainField rec_ 64 32
  let b0 := chainField rec_ 96 32
  let b1 := chainField rec_ 128 32
  let kinds := (List.range n).all (fun k =>
    let (kind, _, _, z) := chainStage rec_ k
    z && decide (kind = if k = 0 then 0 else if k = n - 1 then 2 else 1))
  chk (decide (3 ≤ n) && decide (n ≤ 8) && kinds && decide (1 ≤ chainField rec_ 8 32) && decide (chainField rec_ 4 4 = 0) &&
    decide (chainField rec_ 40 24 = 0) && decide (chainField rec_ 170 86 = 0) && decide (len % 64 = 0) &&
    decide (64 ≤ len) && decide (len ≤ 196608) && decide (b0 % 64 = 0) && decide (b1 % 64 = 0)) sRange ++
  chk (decide (b0 + len ≤ 0x80000) && decide (b1 + len ≤ 0x80000) && w.granted p (gcWindow d g + b0) len &&
    w.granted p (gcWindow d g + b1) len) sRange ++
  chk (decide (b0 + len ≤ b1) || decide (b1 + len ≤ b0)) sAlias ++
  chk (decide (1 ≤ w.barCount (chainField rec_ 160 10))) sState

/-- The chain on a core replaced. -/
def Work.setChain (w : Work) (d g : Nat) (x : Option Chain) : Work :=
  let r := w.chains.filter (fun p => p.1 ≠ d * 96 + g)
  { w with chains := match x with
      | some c => sortBy (fun a b => decide (a.1 ≤ b.1)) ((d * 96 + g, c) :: r)
      | none => r }

/-- A chain ends: it arrives at its barrier under the core's identity, and its request or its task completes with
the status that R18 selects (R267, R268). -/
def Work.chainEnd (w : Work) (d g : Nat) (x : Chain) : Work :=
  let st := lowest x.fails
  let w := (w.setChain d g none).arriveBar (chainField x.rec_ 160 10) (.core d g) none
  match x.fl with
  | some f =>
    let (dn, w) := w.fresh 32
    let (rs, w) := w.fresh 32
    w.finish { f with status := st, done := dn, result := rs }
  | none =>
    match unitGet (w.disp d).run g with
    | t :: _ => w.taskDone d g t st
    | [] => w

/-- A LOAD or STORE stream of a chain started for a chunk (R267): a stream that cannot start ends the chain. -/
def Work.chainStream (w : Work) (d g k c : Nat) (x : Chain) : Work × Option (List Nat) :=
  let (_, a, _, _) := chainStage x.rec_ k
  match w.streamBegin d x.plan a (chainBuf x.rec_ c) c none
      (some ((d * 96 + g) * 2 + if k = 0 then 1 else 0)) with
  | (w, .inl _) => (w, none)
  | (w, .inr fs) => (w, some fs)

/-- A chain looks at what it can do next: call its COMPUTE stage when the core is free of user code and no granted phased
emit for it has bytes still to land (R259). -/
def Work.chainCall (w : Work) (d g : Nat) : Work :=
  match w.chainAt d g with
  | none => w
  | some x =>
    if x.loading || x.storing || x.called || (w.core d g).user || w.phaseHeld d g then w
    else
      let (_, entry, _, _) := chainStage x.rec_ x.stage
      (w.enterUser d g entry (chainBuf x.rec_ x.chunk) x.chunk (chainField x.rec_ 64 32)).setChain d g
        (some { x with called := true })

/-- A chain begins with the LOAD of chunk 0. -/
def Work.chainBegin (w : Work) (d g p : Nat) (rec_ : List Byte) (fl : Option Flight) : Work :=
  let x : Chain := { rec_ := rec_, plan := p, chunk := 0, stage := 1, fails := [], loading := true, storing := false,
                     called := false, fl := fl }
  match w.chainStream d g 0 0 x with
  | (w, none) => w.setChain d g (some x)
  | (w, some fs) => w.chainEnd d g { x with fails := fs }

/-- After the last COMPUTE stage of a chunk: its STORE and the LOAD of the next chunk start together (R267). -/
def Work.chainHandOver (w : Work) (d g : Nat) (x : Chain) : Work :=
  let last := chainField x.rec_ 0 4 - 1
  match w.chainStream d g last x.chunk x with
  | (w, some fs) => w.chainEnd d g { x with fails := x.fails ++ fs }
  | (w, none) =>
    let next := x.chunk + 1
    if next < chainField x.rec_ 8 32 then
      (match w.chainStream d g 0 next x with
      | (w, none) => w.setChain d g (some { x with chunk := next, stage := 1, loading := true, storing := true, called := false })
      | (w, some fs) => w.chainEnd d g { x with fails := x.fails ++ fs })
    else w.setChain d g (some { x with chunk := next, stage := 0, loading := false, storing := true, called := false })

/-- A stream of a chain has ended (R267): the low bit of the key tells LOAD from STORE. A chain whose last STORE has
ended ends. (Log entry 53, DEDUCED.) -/
def Work.chainStreamEnd (w : Work) (key : Nat) (st : Nat) : Work :=
  let d := key / 192
  let g := key / 2 % 96
  match w.chainAt d g with
  | none => w
  | some x =>
    let x := { x with fails := x.fails ++ (if st = sOk then [] else [st]) }
    let x := if key % 2 = 1 then { x with loading := false } else { x with storing := false }
    if x.chunk = chainField x.rec_ 8 32 ∧ x.storing = false then w.chainEnd d g x
    else (w.setChain d g (some x)).chainCall d g

/-- CHAIN as a request (R243, R268): on the issuing core; a request of firmware names no core, and which one runs the
chain is not stated. (Log entry 53, DEDUCED.) -/
def Work.chainReq (w : Work) (iss : Issuer) (q : StrmReq) (r : Rec) : Work :=
  let a0 := recF r 147 96
  let p := w.planOf iss
  let (d, g, w) := match iss with
    | .core d g => (d, g, w)
    | _ =>
      let (k, w) := w.fresh 7
      (issDie iss, k % 96, w)
  match w.read (resolveAddr iss a0) 256 with
  | none => (w.faultPlan p sUnmapped).strmFail iss q ([sUnmapped] ++ chk (decide (a0 % 64 = 0)) sRange)
  | some rec_ =>
    let fs := chk (decide (a0 % 64 = 0)) sRange ++ w.chainFails p d g rec_ ++ chk (w.chainAt d g).isNone sState
    if fs.isEmpty then w.chainBegin d g p rec_ (some (w.strmFlight iss q)) else w.strmFail iss q fs

/-- CHAIN_STAGE_RETURN (R226, R267, R268): a COMPUTE stage returns to the runtime, or ends in a trap. -/
def execChainStageReturn (die gc : Nat) (status : Status) (s : State) : Out :=
  s.perform (.chainStageReturn die gc status) (fun w =>
    match w.chainAt die gc with
    | none => w
    | some x =>
      let c := w.core die gc
      let st := c.ended.getD sOk
      if x.called && decide (st = statusCode status) then
        let w := w.setCore die gc { c with user := false, ended := none, wait := .none }
        let x := { x with called := false, fails := x.fails ++ (if st = sOk then [] else [st]) }
        if st ≠ sOk ∧ st ≠ sCheck then w.chainEnd die gc x
        else if x.stage + 2 < chainField x.rec_ 0 4 then
          (w.setChain die gc (some { x with stage := x.stage + 1 })).chainCall die gc
        else w.chainHandOver die gc x
      else w)

/-! ## The end of a stream (R254, R255) -/

/-- A stream whose emits have all taken effect arrives at its barrier, writes its completion and frees its context
(R254); its task or its chain goes on. COMP_ADDR of a description has no value for none and no alias: zero is page 0
(R246, R674, R675). -/
def Work.streamFinish (w : Work) (d c : Nat) : Work :=
  let x := w.ctx d c
  if x.st = .drain ∧ x.emits = [] then
    let h := StrmHdr.ofBytes x.desc
    let fs := (if x.status = sOk then [] else [x.status]) ++ (if x.poison = 0 then [] else [sCheck])
    let st := lowest fs
    let w := if x.noArrive then w else w.arriveBar h.barrier (.stream d h.tag) none
    let w := w.completion d x.plan (max 1 h.comp) 16 (compRecord st h.tag (min x.done (2 ^ 32 - 1)) x.halts x.poison)
    let w := w.setCtx d c Ctx.atReset
    let w := match x.task with
      | some sr =>
        (match (w.disp d).streams.find? (fun t => t.serial = sr) with
        | some t => w.taskDone d 127 t st
        | none => w)
      | none => w
    match x.chain with
    | some key => w.chainStreamEnd key st
    | none => w
  else w

/-- A stream is stopped (R255): it leaves RUNNING, HALTED or FAULTED for DRAIN. -/
def Work.streamStop (w : Work) (d c : Nat) (noArrive : Bool) : Work :=
  let x := w.ctx d c
  match x.st with
  | .free => w
  | .drain => w.setCtx d c { x with noArrive := x.noArrive || noArrive }
  | _ => (w.setCtx d c { x with st := .drain, noArrive := x.noArrive || noArrive }).streamFinish d c

/-- STREAM_STOP (R255). -/
def Work.streamStopReq (w : Work) (iss : Issuer) (q : StrmReq) (r : Rec) : Work :=
  let c := recF r 103 96
  let d := issDie iss
  let fs := chk (decide ((w.ctx d c).st ≠ .free)) sState
  w.strmEnd iss q fs (fun w => w.streamStop d c false)

/-- RESUME (R243, R272). -/
def Work.resumeReq (w : Work) (iss : Issuer) (q : StrmReq) (r : Rec) : Work :=
  let c := recF r 103 96
  let d := issDie iss
  let fw := match iss with
    | .firmware _ _ => true
    | _ => false
  let fs := chk (fw && decide ((w.ctx d c).st = .halted)) sState
  w.strmEnd iss q fs (fun w => w.setCtx d c { w.ctx d c with st := .running })

/-- A request at the stream engine (R243, R244). -/
def Work.strmAccept (w : Work) (iss : Issuer) (r : Rec) : Work :=
  let q := StrmReq.ofRec r
  match strmReserved q.op with
  | none => w.strmFail iss q [sRange]
  | some z =>
    if !recZero r z then w.strmFail iss q [sRange]
    else
      match q.op with
      | 0x61 => w.xferRun iss q r
      | 0x62 => w.descInstall iss q r
      | 0x63 => w.descRelease iss q r
      | 0x64 => w.streamStartReq iss q r
      | 0x65 => w.streamStopReq iss q r
      | 0x66 => w.barArriveReq iss q r
      | 0x67 => w.barArmReq iss q r
      | 0x68 => w.chainReq iss q r
      | _ => w.resumeReq iss q r

/-- A request as its issuer gives it: with 64 outstanding a core waits (R240). -/
def Work.strmIssue (w : Work) (iss : Issuer) (r : Rec) : Work :=
  if w.tapRoom iss then (w.tapIssue iss).strmAccept iss r else w

/-- A row of the table for one OP. -/
def Work.strmRow (w : Work) (op : Nat) (iss : Issuer) (r : Rec) : Work :=
  if recF r 7 0 = op then w.strmIssue iss r else w

/-- XFER (R243, R264, R265). -/
def execXfer (iss : Issuer) (r : Rec) (s : State) : Out := s.perform (.xfer iss r) (fun w => w.strmRow 0x61 iss r)
/-- DESC_INSTALL (R99, R101, R103). -/
def execDescInstall (iss : Issuer) (r : Rec) (s : State) : Out :=
  s.perform (.descInstall iss r) (fun w => w.strmRow 0x62 iss r)
/-- DESC_RELEASE (R101). -/
def execDescRelease (iss : Issuer) (r : Rec) (s : State) : Out :=
  s.perform (.descRelease iss r) (fun w => w.strmRow 0x63 iss r)
/-- STREAM_START (R245 to R253). -/
def execStreamStart (iss : Issuer) (r : Rec) (s : State) : Out :=
  s.perform (.streamStart iss r) (fun w => w.strmRow 0x64 iss r)
/-- STREAM_STOP (R255). -/
def execStreamStop (iss : Issuer) (r : Rec) (s : State) : Out :=
  s.perform (.streamStop iss r) (fun w => w.strmRow 0x65 iss r)
/-- BAR_ARRIVE (R260 to R262). -/
def execBarArrive (iss : Issuer) (r : Rec) (s : State) : Out :=
  s.perform (.barArrive iss r) (fun w => w.strmRow 0x66 iss r)
/-- BAR_ARM (R260). -/
def execBarArm (iss : Issuer) (r : Rec) (s : State) : Out := s.perform (.barArm iss r) (fun w => w.strmRow 0x67 iss r)
/-- CHAIN (R266 to R268). -/
def execChain (iss : Issuer) (r : Rec) (s : State) : Out := s.perform (.chain iss r) (fun w => w.strmRow 0x68 iss r)
/-- RESUME (R272). -/
def execResume (iss : Issuer) (r : Rec) (s : State) : Out := s.perform (.resume iss r) (fun w => w.strmRow 0x69 iss r)

/-! ## The trellis program (R248 to R252) -/

/-- Address register k, signed. -/
def Ctx.areg (x : Ctx) (k : Nat) : Int := sext 48 (getAt 0 x.a k)
/-- Address register k set modulo 2^48 (R248). -/
def Ctx.setA (x : Ctx) (k : Nat) (v : Int) : Ctx := { x with a := x.a.set k (wrapTo 48 v) }
/-- The next instruction. -/
def Ctx.next (x : Ctx) : Ctx := { x with pc := x.pc + 1 }

/-- A row for one OP acts on a running context whose next instruction has it. -/
def Work.trellisRow (w : Work) (d c op : Nat) (f : Work → Ctx → TOp → Work) : Work :=
  let x := w.ctx d c
  let t := progAt x.desc x.pc
  if x.st = .running ∧ t.op = op then f w x t else w

/-- An instruction that changes the context only. -/
def Work.trellisPure (w : Work) (d c op : Nat) (f : Ctx → TOp → Ctx) : Work :=
  w.trellisRow d c op (fun w x t => w.setCtx d c (f x t))

/-- LOOP (R249). -/
def Ctx.doLoop (x : Ctx) (t : TOp) : Ctx :=
  let n : Int := if t.reg then x.areg t.rs1 else t.imm
  if 2 ^ 32 ≤ n then { x with st := .faulted, status := lowest [x.status, sRange] }
  else if n ≤ 0 then
    { x with l := x.l.set t.k 0, n := x.n.set t.k 0,
             pc := afterEndl ((program x.desc).drop (x.pc + 1)) 0 (x.pc + 1) }
  else { x.next with l := x.l.set t.k 0, n := x.n.set t.k n.toNat }

/-- ENDL (R249). -/
def Ctx.doEndl (x : Ctx) (t : TOp) : Ctx :=
  let l := (getAt 0 x.l t.k + 1) % 2 ^ 32
  let y := { x with l := x.l.set t.k l }
  if l < getAt 0 x.n t.k then { y with pc := loopOf ((program x.desc).take x.pc) t.k + 1 } else y.next

/-- WRAP (R249). -/
def Ctx.doWrap (x : Ctx) (t : TOp) : Ctx :=
  let a := x.areg t.rd
  (if (t.imm : Int) ≤ a then x.setA t.rd (a - t.imm) else if a < 0 then x.setA t.rd (a + t.imm) else x).next

/-- The condition of an EMIT (R250). -/
def Ctx.holds (x : Ctx) (t : TOp) : Bool :=
  let a := x.areg t.rs2
  let l := getAt 0 x.l t.k
  match t.cond with
  | 0 => true
  | 1 => decide (a = 0)
  | 2 => decide (a ≠ 0)
  | 3 => decide (a < 0)
  | 4 => decide (0 ≤ a)
  | 5 => decide (l = 0)
  | 6 => decide (l + 1 = getAt 0 x.n t.k)
  | _ => false

/-- The bit addresses of a binding's block, and the elements reached through reduced indices (R251). -/
def blockOf (d : Desc) (b : Binding) (a : List Nat) : List Nat × Nat :=
  let start := b.coord.map (fun v => if v < 8 then sext 48 (getAt 0 a v) else 0)
  d.blockBits (start.take d.rank) (b.ext.take d.rank)

/-- The descriptor and the block of each side of a transfer, with the slots that the stream started with (R102). -/
def Work.transferBlocks (w : Work) (x : Ctx) (s t : Nat) (a : List Nat) :
    Option ((Desc × List Nat × Nat) × (Desc × List Nat × Nat)) :=
  let bs := bindingOf x.desc s
  let bt := bindingOf x.desc t
  let w := w.lend x.plan x.held
  match w.desc x.plan bs.handle, w.desc x.plan bt.handle with
  | some d, some e =>
    let p := blockOf d bs a
    let q := blockOf e bt a
    some ((d, p.1, p.2), (e, q.1, q.2))
  | _, _ => none

/-- What translating the pages of a transfer finds (R270). -/
inductive PageFind where
  | resident
  | waits
  | unmapped (a : Nat)
  | tier1 (a : Nat)
  deriving DecidableEq, Repr

/-- The pages of addresses in their order: an unmapped one first of all, then for a FAST stream one in the LPDDR5X tier, then
one being moved (R269, R270). -/
def Work.findPages (w : Work) (fast : Bool) (as : List Nat) : PageFind :=
  match as.find? (fun a => (w.key a).isNone) with
  | some a => .unmapped a
  | none =>
    let paged := as.filter (fun a => a < cellarBase)
    match paged.find? (fun a => fast && (w.page (a / 0x200000)).lpx) with
    | some a => .tier1 a
    | none => if paged.any w.racking then .waits else .resident

/-- EMIT of a transfer (R251, R270): its pages are translated before any byte moves. -/
def Work.emitTransfer (w : Work) (d c : Nat) (x : Ctx) (t : TOp) : Work :=
  if !x.holds t then w.setCtx d c x.next
  else if 16 ≤ x.emits.length then w
  else
    let h := StrmHdr.ofBytes x.desc
    match w.transferBlocks x t.src t.dst x.a with
    | none => w.setCtx d c { x with st := .faulted, status := lowest [x.status, sState] }
    | some ((ds, ps, ws), (dt, pt, wt)) =>
      let as := (ps ++ pt).map (· / 8)
      let go (w : Work) : Work :=
        let bytes := ceilDiv (ps.length * ds.w) 8
        let pages := ((as.filter (· < cellarBase)).map (· / 0x200000)).eraseDups
        let touched := if h.fast then pages.map (fun n => (n, w.tickNo)) ++ x.touched else x.touched
        let w := w.setCtx d c { x.next with emits := x.emits ++ [.transfer t.src t.dst x.a bytes 0], touched := touched }
        w.countWrap (.strm d) ((if ds.wrap then 0 else ws) + (if dt.wrap then 0 else wt))
      match w.findPages h.fast as with
      | .unmapped a =>
        ((w.setCtx d c { x with st := .faulted, status := lowest [x.status, sUnmapped], faultAddr := a }).faultPlan x.plan
          sUnmapped).event (dieSource 3 d) sUnmapped (c + detailAddr a)
      | .waits => w
      | .tier1 a =>
        ((w.setCtx d c { x with st := .halted, halts := x.halts + 1, faultAddr := a }).bump F.strmStatRacks d 0).event
          (dieSource 2 d) sPageFault (c + detailAddr a)
      | .resident => go w

/-- A template with START and COUNT replaced (R247, R252): START is at [159:128] and COUNT at [127:96]. -/
def templateRec (desc : List Byte) (k start count : Nat) : Rec :=
  let x := leAt desc (192 + 64 * k) 64
  BitVec.ofNat 512 (x - fieldOf x 96 64 * 2 ^ 96 + count % 2 ^ 32 * 2 ^ 96 + start % 2 ^ 32 * 2 ^ 128)

/-- EMIT of a cellar command (R252): while the command unit refuses commands the emit waits. -/
def Work.emitCellar (w : Work) (d c : Nat) (x : Ctx) (t : TOp) : Work :=
  if !x.holds t then w.setCtx d c x.next
  else if 16 ≤ x.emits.length ∨ 4096 ≤ w.celHeld d then w
  else
    let r := templateRec x.desc t.src (getAt 0 x.a t.rs1) t.imm
    (w.setCtx d c { x.next with emits := x.emits ++ [.command false 0] }).celAccept (.stream d c) r

/-- EMIT of a match command (R252). -/
def Work.emitMatch (w : Work) (d c : Nat) (x : Ctx) (t : TOp) : Work :=
  if !x.holds t then w.setCtx d c x.next
  else if 16 ≤ x.emits.length ∨ 4096 ≤ w.matHeld d then w
  else
    let r := templateRec x.desc t.src (getAt 0 x.a t.rs1) t.imm
    (w.setCtx d c { x.next with emits := x.emits ++ [.command false 0] }).matAccept (.stream d c) r

/-- NOP (R249). -/
def execNop (die ctx : Nat) (s : State) : Out :=
  s.perform (.nop die ctx) (fun w => w.trellisPure die ctx 0x01 (fun x _ => x.next))
/-- LOOP (R249). -/
def execLoop (die ctx : Nat) (s : State) : Out :=
  s.perform (.loop die ctx) (fun w => w.trellisPure die ctx 0x02 Ctx.doLoop)
/-- ENDL (R249). -/
def execEndl (die ctx : Nat) (s : State) : Out :=
  s.perform (.endl die ctx) (fun w => w.trellisPure die ctx 0x03 Ctx.doEndl)
/-- SETI (R249). -/
def execSeti (die ctx : Nat) (s : State) : Out :=
  s.perform (.seti die ctx) (fun w => w.trellisPure die ctx 0x04 (fun x t => (x.setA t.rd (fieldOf t.word 16 48)).next))
/-- ADDI (R249). -/
def execAddi (die ctx : Nat) (s : State) : Out :=
  s.perform (.addi die ctx) (fun w => w.trellisPure die ctx 0x05 (fun x t =>
    (x.setA t.rd (x.areg t.rs1 + sext 32 t.imm)).next))
/-- ADD (R249). -/
def execAdd (die ctx : Nat) (s : State) : Out :=
  s.perform (.add die ctx) (fun w => w.trellisPure die ctx 0x06 (fun x t =>
    (x.setA t.rd (x.areg t.rs1 + x.areg t.rs2)).next))
/-- SUB (R249). -/
def execSub (die ctx : Nat) (s : State) : Out :=
  s.perform (.sub die ctx) (fun w => w.trellisPure die ctx 0x07 (fun x t =>
    (x.setA t.rd (x.areg t.rs1 - x.areg t.rs2)).next))
/-- MADL (R248, R249). -/
def execMadl (die ctx : Nat) (s : State) : Out :=
  s.perform (.madl die ctx) (fun w => w.trellisPure die ctx 0x08 (fun x t =>
    (x.setA t.rd (x.areg t.rs1 + getAt 0 x.l t.k * sext 32 t.imm)).next))
/-- WRAP (R249). -/
def execWrap (die ctx : Nat) (s : State) : Out :=
  s.perform (.wrap die ctx) (fun w => w.trellisPure die ctx 0x09 Ctx.doWrap)
/-- EMIT with Q 0 (R250, R251, R270). -/
def execTrellisEmitTransfer (die ctx : Nat) (s : State) : Out :=
  s.perform (.trellisEmitTransfer die ctx) (fun w => w.trellisRow die ctx 0x0A (fun w x t =>
    if t.q = 0 then w.emitTransfer die ctx x t else w))
/-- EMIT with Q 1 (R250, R252). -/
def execTrellisEmitCellar (die ctx : Nat) (s : State) : Out :=
  s.perform (.trellisEmitCellar die ctx) (fun w => w.trellisRow die ctx 0x0A (fun w x t =>
    if t.q = 1 then w.emitCellar die ctx x t else w))
/-- EMIT with Q 2 (R250, R252). -/
def execTrellisEmitMatch (die ctx : Nat) (s : State) : Out :=
  s.perform (.trellisEmitMatch die ctx) (fun w => w.trellisRow die ctx 0x0A (fun w x t =>
    if t.q = 2 then w.emitMatch die ctx x t else w))
/-- END (R254). -/
def execTrellisEnd (die ctx : Nat) (s : State) : Out :=
  s.perform (.trellisEnd die ctx) (fun w => w.trellisRow die ctx 0x0B (fun w x _ =>
    (w.setCtx die ctx { x with st := .drain }).streamFinish die ctx))

/-! ## Emits taking effect (R251, R254) -/

/-- One element moved: from a row delivered as zeros, zeros (R254). Answers the block and whether a bank was out of
service. -/
def Work.moveElem (w : Work) (ds dt : Desc) (p : Nat × Nat) : Work × Bool × Nat :=
  let ss := w.rowState (p.1 / 8)
  let ts := w.rowState (p.2 / 8)
  let v := if ss = .ok then (match w.readBits p.1 ds.w with
      | some (v, _) => v
      | none => 0) else 0
  if ts = .lost then (w, true, 0)
  else
    let (w, s) := w.combineAt dt p.2 v
    (w, decide (ss = .lost), if s then 1 else 0)

/-- A transfer emit takes effect (R251): elements in canonical order of both blocks. (Log entry 56, DEDUCED.) -/
def Work.moveBlock (w : Work) (d c : Nat) (x : Ctx) (s t : Nat) (a : List Nat) : Work :=
  match w.transferBlocks x s t a with
  | none => w.setCtx d c { w.ctx d c with status := lowest [x.status, sState] }
  | some ((ds, ps, _), (dt, pt, _)) =>
    let rows := ((ps.filter (fun p => w.rowState (p / 8) = .bad)).map (fun p => p / 512)).eraseDups.length
    let hit := w.dtHit
    let (w, lost, sats) := (ps.zip pt).foldl (fun (r : Work × Bool × Nat) p =>
      let (w, l, n) := r.1.moveElem ds dt p
      (w, r.2.1 || l, r.2.2 + n)) (w, false, 0)
    let y := w.ctx d c
    let fs := [y.status] ++ (if lost then [sNoSpare] else []) ++ (if w.dtHit && !hit then [sRange] else [])
    (w.setCtx d c { y with poison := y.poison + rows, status := lowest fs }).countSat (.strm d) sats

/-- The first emit that can take effect: a command that has completed, or the oldest transfer when all its bytes have
been granted (R107, R254). (Log entry 56, DEDUCED.) -/
def readyEmit : List Emit → Nat → Bool → Option Nat
  | [], _, _ => none
  | .command true _ :: _, i, _ => some i
  | .command false _ :: es, i, seen => readyEmit es (i + 1) seen
  | .transfer _ _ _ bytes granted :: es, i, seen =>
    if !seen && decide (bytes ≤ granted) then some i else readyEmit es (i + 1) true

/-- An emit's blocks reach a page that is being moved (R269). -/
def Work.emitWaits (w : Work) (x : Ctx) (i : Nat) : Bool :=
  match x.emits[i]? with
  | some (.transfer s t a _ _) =>
    (match w.transferBlocks x s t a with
    | some ((_, ps, _), (_, pt, _)) => (ps ++ pt).any (fun p => w.racking (p / 8))
    | none => false)
  | _ => false

/-- STREAM_EMIT_DONE (R251, R254): an emit of the context takes effect. (Log entry 56, DEDUCED.) -/
def execStreamEmitDone (die ctx : Nat) (s : State) : Out :=
  s.perform (.streamEmitDone die ctx) (fun w =>
    let x := w.ctx die ctx
    match readyEmit x.emits 0 false with
    | none => w
    | some i =>
      if w.emitWaits x i then w else
      let w := w.setCtx die ctx { x with emits := x.emits.eraseIdx i, done := x.done + 1 }
      let w := match x.emits[i]? with
        | some (.transfer s t a b n) =>
          (w.emitCores x (.transfer s t a b n)).foldl (fun (w : Work) (p : Nat × Nat) => w.chainCall p.1 p.2) (w.moveBlock die ctx x s t a)
        | some (.command _ st) =>
          w.setCtx die ctx { w.ctx die ctx with status := lowest [(w.ctx die ctx).status, st] }
        | none => w
      w.streamFinish die ctx)

/-! ## Bandwidth (R256, R257, R259) -/

/-- The first transfer of a context with bytes not yet granted. -/
def openEmit : List Emit → Nat → Option (Nat × Emit × Nat)
  | [], _ => none
  | .transfer s t a bytes granted :: es, i =>
    if granted < bytes then some (i, .transfer s t a bytes granted, bytes - granted) else openEmit es (i + 1)
  | _ :: es, i => openEmit es (i + 1)

/-- The deadline of a stream as a fraction: numerator over rate (R256). -/
def Ctx.deadline (x : Ctx) (rate : Nat) : Nat := x.started * rate + x.delivered * 1000

/-- A stream is eligible for a grant (R257, R259). -/
def Work.grantable (w : Work) (x : Ctx) : Bool :=
  let h := StrmHdr.ofBytes x.desc
  match openEmit x.emits 0 with
  | none => false
  | some (_, e, _) =>
    decide (x.st ≠ .halted) && (decide (h.ahead = 0) || decide (h.rate = 0) ||
      decide (x.deadline h.rate ≤ (w.now + h.ahead) * h.rate)) &&
    (w.emitCores x e).all (fun p => !w.computing p.1 p.2)

/-- The context that a grant goes to: the earliest deadline, the lower number on a tie; without a rated stream the
next background stream in turn (R256). -/
def Work.grantTo (w : Work) (d : Nat) : Option Nat :=
  let el := (List.range 256).filter (fun c => w.grantable (w.ctx d c))
  let rate (c : Nat) : Nat := (StrmHdr.ofBytes (w.ctx d c).desc).rate
  match el.filter (fun c => rate c ≠ 0) with
  | c :: cs => some (cs.foldl (fun b k =>
      if (w.ctx d k).deadline (rate k) * rate b < (w.ctx d b).deadline (rate b) * rate k then k else b) c)
  | [] =>
    match el.find? (fun c => (w.disp d).turn < c) with
    | some c => some c
    | none => el.head?

/-- BANDWIDTH_GRANT (R256, R257): up to 512 B for one stream; a grant after its deadline is counted. -/
def execBandwidthGrant (die ns : Nat) (s : State) : Out :=
  s.perform (.bandwidthGrant die ns) (fun w0 =>
    let w := w0.atNs ns
    match w.grantTo die with
    | none => w
    | some c =>
      let x := w.ctx die c
      let rate := (StrmHdr.ofBytes x.desc).rate
      match openEmit x.emits 0 with
      | some (i, .transfer s t a bytes granted, left) =>
        let n := min 512 left
        let late := decide (rate ≠ 0) && decide (x.deadline rate < w.now * rate)
        let w := w.setCtx die c { x with delivered := x.delivered + n,
                                         emits := x.emits.set i (.transfer s t a bytes (granted + n)) }
        let w := if late then w.bump F.strmStatLate die 0 else w
        if rate = 0 then w.setDisp die { w.disp die with turn := c } else w
      | _ => w)

/-! ## Racking (R271, R272) -/

/-- No page is kept in a frame of a tier, and none is being racked into it. -/
def Work.frameFree (w : Work) (lpx : Bool) (f : Nat) : Bool :=
  let home := if lpx then 524288 + f else f
  let listed := w.pages.any (fun p => p.1 = home)
  decide (f < reserveFrame) && !w.spr.retired.contains (if lpx then 1 else 0, f) && (listed || !(Page.atStart home).valid) &&
  w.pages.all (fun p => !(p.2.valid && decide (p.2.lpx = lpx) && decide (p.2.frame = f))) &&
  (lpx || w.racks.all (fun r => r.2 ≠ f))

/-- The free frames of a tier: only the frame of a page that moved, or of page 0, can be one.
(Log entry 55, DESIGN CHOICE.) -/
def Work.freeFrames (w : Work) (lpx : Bool) : List Nat :=
  ((0 :: (w.pages.filter (fun p => decide (524288 ≤ p.1) == lpx)).map (fun p => p.1 % 524288)).eraseDups).filter
    (w.frameFree lpx)

/-- The pages that the halted emit of a context reaches (R271). -/
def Work.haltedPages (w : Work) (x : Ctx) : List Nat :=
  let t := progAt x.desc x.pc
  if x.st = .halted then
    match w.transferBlocks x t.src t.dst x.a with
    | some ((_, ps, _), (_, pt, _)) => ((ps ++ pt).map (fun b => b / 8 / 0x200000)).eraseDups
    | none => []
  else []

/-- A running FAST stream has touched a page in the present or the previous epoch (R271).
(Log entry 55, DESIGN CHOICE.) -/
def Work.recentlyTouched (w : Work) (n : Nat) : Bool :=
  w.ctxs.any (fun c => decide (c.2.st ≠ .free) && c.2.touched.any (fun t => decide (t.1 = n) && decide (w.tickNo ≤ t.2 + 1)))

/-- The 2 MiB of a frame copied to another. -/
def Work.copyFrame (w : Work) (fromLpx : Bool) (src : Nat) (toLpx : Bool) (dst : Nat) : Work :=
  let s := frameKey fromLpx src
  let t := frameKey toLpx dst
  let moved := (w.bad.filter (fun r => inRange (s / 64) 32768 r)).map (fun r => r - s / 64 + t / 64)
  let kept := w.bad.filter (fun r => !inRange (t / 64) 32768 r)
  { w with jnl := .copy s t 0x200000 :: w.jnl, bad := moved.foldl setInsert kept }

/-- Racking of a page begins into an HBM frame (R271). -/
def Work.rackInto (w : Work) (n f : Nat) : Work :=
  { w.setPage n { w.page n with racking := true } with racks := (n, f) :: w.racks }

/-- RACK_PAGE (R271): firmware racks a TIER 1 page that a halted emit of the die reaches. Which free frame it takes,
and which page it demotes when there is none, is its choice: free values. (Log entry 55, DESIGN CHOICE.) -/
def execRackPage (die pg : Nat) (s : State) : Out :=
  s.perform (.rackPage die pg) (fun w =>
    let p := w.page pg
    let wanted := (List.range 256).any (fun c => (w.haltedPages (w.ctx die c)).contains pg)
    if !(wanted && p.valid && p.lpx && !p.racking) then w
    else
      match w.freeFrames false with
      | f :: fs =>
        let (k, w) := w.fresh 32
        w.rackInto pg (getAt f (f :: fs) (k % (fs.length + 1)))
      | [] =>
        let (k, w) := w.fresh 20
        let q := w.page k
        (match w.freeFrames true with
        | l :: ls =>
          if k ≠ 0 ∧ k ≠ pg ∧ q.valid ∧ !q.lpx ∧ !q.racking ∧ !w.recentlyTouched k then
            let (j, w) := w.fresh 32
            let lf := getAt l (l :: ls) (j % (ls.length + 1))
            (((w.copyFrame false q.frame true lf).setPage k { q with lpx := true, frame := lf })).rackInto pg q.frame
          else w
        | [] => w))

/-- RACK_COPY_DONE (R271): the entry is written with the new frame, and what waited for the page goes on (R269). -/
def execRackCopyDone (die pg : Nat) (s : State) : Out :=
  s.perform (.rackCopyDone die pg) (fun w =>
    match w.racks.find? (fun r => r.1 = pg) with
    | none => w
    | some r =>
      let p := w.page pg
      let w := w.copyFrame p.lpx p.frame false r.2
      ({ w.setPage pg { p with lpx := false, racking := false, frame := r.2 } with
        racks := w.racks.filter (fun q => q.1 ≠ pg) } : Work).celResume.matResume)

/-! ## `vtap` (R239) -/

/-- `vtap`: the record is copied from local memory and the request issued; rd receives tapout after the issue. With
64 requests outstanding, or a command unit that refuses, the instruction stalls (R240). (Log entry 46, DEDUCED.) -/
def Work.vtap (w : Work) (d g kk rd rs1 : Nat) : Work :=
  let c := w.core d g
  let refused := (decide (kk = 1) && decide (4096 ≤ w.celHeld d)) || (decide (kk = 2) && decide (4096 ≤ w.matHeld d))
  if 3 ≤ kk then w.trap d g (trapIllegal (oxScalar custom1 2 kk 0 rs1 rd))
  else if 64 ≤ c.tapout ∨ refused then w
  else
    match w.localBytes d g (c.getX rs1) 64 64 with
    | .trap t => w.memTrap d g t
    | .bytes _ bs _ =>
      let r : Rec := BitVec.ofNat 512 (ofBytes bs)
      let w := w.setCore d g ((c.setX rd (c.tapout + 1)).retire 4)
      match kk with
      | 1 => w.celIssue (.core d g) r
      | 2 => w.matIssue (.core d g) r
      | _ => w.strmIssue (.core d g) r

/-- VTAP_TRANSFER (R239, R243). -/
def execVtapTransfer (die gc rd rs1 : Nat) (s : State) : Out :=
  s.perform (.vtapTransfer die gc rd rs1) (fun w => w.coreRow die gc (fun w => w.vtap die gc 0 rd rs1))
/-- VTAP_CELLAR (R128, R239). -/
def execVtapCellar (die gc rd rs1 : Nat) (s : State) : Out :=
  s.perform (.vtapCellar die gc rd rs1) (fun w => w.coreRow die gc (fun w => w.vtap die gc 1 rd rs1))
/-- VTAP_MATCH (R170, R239). -/
def execVtapMatch (die gc rd rs1 : Nat) (s : State) : Out :=
  s.perform (.vtapMatch die gc rd rs1) (fun w => w.coreRow die gc (fun w => w.vtap die gc 2 rd rs1))

end Sys2Proof.Machine
end

