-- ==== Sys2Proof/Machine/Dispatcher.lean ====
section
/-! DEFINITION. The dispatchers: submission, delay lists, starting and completing tasks, held entries, and what they
and the plans do at a tick (chapter 10, R33 to R41). -/

namespace Sys2Proof.Machine

/-! ## Acceptance (R274 to R278, R285, R288) -/

/-- The time of a tick on the device's own schedule. (Log entry 10, DESIGN CHOICE.) -/
def Work.tickTime (w : Work) (t : Nat) : Int := (w.time.lastTick : Int) + ((t : Int) - w.tickNo) * w.period

/-- The release time of a delayed task. -/
def Work.releaseTime (w : Work) (t : Nat) (r : Rec) : Int := w.tickTime t + recF r 375 352

/-- A task as it is accepted, with its serial number. -/
def Work.newTask (w : Work) (p : Nat) (r : Rec) (epoch : Nat) : Task × Work :=
  ({ r := r, plan := p, gen := 0, release := w.now, elig := none, epoch := 0, start := 0, serial := w.nextTask,
     workEpoch := epoch, deferred := none }, { w with nextTask := w.nextTask + 1 })

/-- A task put into the delay list: sorted by release time, equal times in order of acceptance (R288). -/
def insertDelay (t : Task) : List Task → List Task
  | [] => [t]
  | q :: qs => if t.release < q.release then t :: q :: qs else q :: insertDelay t qs

/-- A descriptor whose release lies ahead: its task enters the delay list (R288, R289). -/
def Work.liesAhead (w : Work) (r : Rec) (tick : Nat) : Bool :=
  recB r 376 && decide ((w.now : Int) < w.releaseTime tick r)

/-- An accepted task goes to its level, or to the delay list when its release lies ahead (R277, R288, R289). -/
def Work.placeTask (w : Work) (d : Nat) (t : Task) (tick : Nat) : Work :=
  if w.liesAhead t.r tick then
    let x := w.disp d
    w.setDisp d { x with delay := insertDelay { t with release := (w.releaseTime tick t.r).toNat } x.delay }
  else w.arriveTask d t

/-- Room for a task in the delay list, or in the ready levels (R274, R279, R288). -/
def Disp.room (x : Disp) (ahead : Bool) : Bool :=
  if ahead then decide (x.delay.length < 1024) else decide (x.ready < 4096)

/-- A submission checked under R274: the status, and the block with the task accepted. A STATE_REJECT refusal is
counted and traced. -/
def Work.submit (w : Work) (p : Nat) (r : Rec) (admits : Bool) : Nat × Work :=
  let d := recF r 25 24
  let fs := w.taskFields r ++ chk admits sState ++ chk ((w.disp d).room (w.liesAhead r (recF r 351 288))) sFull
  let (t, w1) := w.newTask p r (if recB r 376 then max w.tickNo (recF r 351 288) else w.tickNo)
  if fs.isEmpty then (sOk, w1.placeTask d t (recF r 351 288))
  else
    let st := lowest fs
    let w := w.countFurther (.disp d) fs
    (st, (if st = sState then w.bump F.dispStatRejects d 0 else w).trace d 8 t 127 st 0)

/-- A descriptor written whole to a die's DISP_SUBMIT; its PLAN field names the plan (R274, R277, R278). -/
def Work.submitWrite (w : Work) (die : Nat) (r : Rec) : Work :=
  let (st, w) := w.submit (recF r 15 12) r (decide (w.planState (recF r 15 12) = 2))
  w.wr F.dispStatLastStatus die 0 st

/-- DISP_SUBMIT (R274, R277, R278), by management core mc. -/
def execDispSubmit (mc die : Nat) (r : Rec) (s : State) : Out :=
  s.perform (.dispSubmit mc die r) (fun w => w.submitWrite die r)

/-! ## Runtime calls of a task -/

/-- A runtime call returns to its task: a0 holds the status, and a1 a second result where there is one.
(Log entry 62, DEDUCED.) -/
def Work.callReturn (w : Work) (d g status : Nat) (second : Option Nat) : Work :=
  let c := (w.core d g).setX 10 status
  w.setCore d g ((match second with
    | some v => c.setX 11 v
    | none => c).retire 4)

/-- The serial number of the task that a core runs. -/
def Work.runningTask (w : Work) (d g : Nat) : Option Task := (unitGet (w.disp d).run g).head?

/-- The journal entry of a task (R550). -/
def Work.journalOf (w : Work) (sr : Nat) : Journal :=
  (w.spr.journal.find? (fun j => j.serial = sr)).getD ⟨sr, w.tickNo, 0, 0, none⟩

/-- The journal with an entry replaced. -/
def Work.setJournal (w : Work) (j : Journal) : Work :=
  { w with spr := { w.spr with journal := j :: w.spr.journal.filter (fun q => q.serial ≠ j.serial) } }

/-- An effecting call of the core's task completes: whether its effects are to be made, or are skipped because an
earlier run's are recorded (R550). -/
def Work.effecting (w : Work) (d g : Nat) : Bool × Work :=
  match w.runningTask d g with
  | none => (true, w)
  | some t =>
    let j := w.journalOf t.serial
    let made := j.made + 1
    (decide (j.calls < made), w.setJournal { j with made := made, calls := max j.calls made, emitRow := none })

/-- A record that a runtime call reads in local memory at an address with an alignment. -/
def Work.callRecord (w : Work) (d g a n align : Nat) : Option (List Byte) :=
  match w.localBytes d g a n align with
  | .bytes _ bs _ => some bs
  | .trap _ => none

/-- COMP_ADDR of a task descriptor with the core's alias resolved (R674). -/
def resolveTaskComp (iss : Issuer) (r : Rec) : Rec :=
  let x := r.toNat
  let c := fieldOf x 224 52
  BitVec.ofNat 512 (x - c * 2 ^ 224 + resolveComp iss c * 2 ^ 224)

/-- The ecall of R277: a task submits a task of its own plan while that is RUNNING or DRAINING (R278). A descriptor
that is not local and aligned is refused with DESC_RANGE. -/
def Work.taskSubmit (w : Work) (d g a0 : Nat) : Work :=
  match w.callRecord d g a0 64 64 with
  | none => w.callReturn d g sRange none
  | some bs =>
    let p := w.planOf (.core d g)
    let r := resolveTaskComp (.core d g) (BitVec.ofNat 512 (ofBytes bs))
    let (make, w) := w.effecting d g
    if make then
      let (st, w) := w.submit p r (decide (w.planState p = 2) || decide (w.planState p = 3))
      w.callReturn d g st none
    else w.callReturn d g sOk none

/-- TASK_SUBMIT (R277, R278). -/
def execTaskSubmit (die gc a0 : Nat) (s : State) : Out :=
  s.perform (.taskSubmit die gc a0) (fun w => w.coreRow die gc (fun w => w.taskSubmit die gc a0))

/-! ## Delay lists (R288, R289) -/

/-- The tasks whose release time has come move into their levels in their sorted order. -/
def Work.releaseDelayed (w : Work) (d : Nat) : Work :=
  let x := w.disp d
  let due := x.delay.filter (fun t => t.release ≤ w.now)
  let w := w.setDisp d { x with delay := x.delay.filter (fun t => w.now < t.release) }
  due.foldl (fun w t => w.arriveTask d t (released := true)) w

/-- DELAY_RELEASE (R288). -/
def execDelayRelease (die ns : Nat) (s : State) : Out :=
  s.perform (.delayRelease die ns) (fun w => (w.atNs ns).releaseDelayed die)

/-! ## Starting (R281, R283, R286, R290, R298) -/

/-- The bin of a waiting time (R298). -/
def waitBin (ns : Nat) : Nat :=
  match findIdx1 (fun k => decide (ns < 1000 * 2 ^ k)) (List.range 7) with
  | some k => k
  | none => 7

/-- A task started on a unit: counted, its waiting time noted, its trace written (R297, R298). -/
def Work.startTask (w : Work) (d u : Nat) (t0 : Task) : Work :=
  let t := { t0 with epoch := w.tickNo, start := w.now, pastBudget := false }
  let wait := w.now - t.elig.getD w.now
  let x := w.disp d
  let k := waitBin wait
  let bins := unitGet x.bins u
  let bins := if bins.isEmpty then List.replicate 8 0 else bins
  let x := { x with slot := unitSet x.slot u [], run := unitSet x.run u [t],
                    bins := unitSet x.bins u (bins.set k (min (getAt 0 bins k + 1) 255)) }
  let w := w.setDisp d x
  let w := if w.obsMode = 0 then w.bump F.dispUnitLoadStarted d u else w
  let w := w.setJournal { w.journalOf t.serial with made := 0 }
  w.trace d 3 t u 0 wait

/-- What starting a task sets going on its unit (R194, R266, R290). -/
def Work.runTask (w : Work) (d u : Nat) (t : Task) : Work :=
  match t.kind with
  | 0x81 => w.enterUser d u t.entry t.arg w.tickNo t.tag
  | 0x82 =>
    let m := u - 96
    w.setMe d m { w.me d m with pc := t.entry, running := true, skip := false, fails := [], ended := none }
  | _ =>
    match w.read t.entry 256 with
    | none => (w.faultPlan t.plan sUnmapped).taskDone d u t sUnmapped
    | some rec_ =>
      let fs := w.chainFails t.plan d u rec_
      if fs.isEmpty then (w.chainBegin d u t.plan rec_ none).chainCall d u
      else (w.countFurther (.disp d) fs).taskDone d u t (lowest fs)

/-- The guard test of R35: before G every task passes it. -/
def Work.guardOk (w : Work) (t : Task) : Bool :=
  decide (w.phase < guardStart w.period) || decide (w.phase + t.budget ≤ w.period)

/-- A task that fails the guard test goes back to the head of its level, to be eligible again at C of the next epoch, and
the unit starts no task of that level or a higher-numbered one until then; a STREAM task has no unit (R35, R283, R286).
(Log entry 58, DEDUCED.) -/
def Work.deferTask (w : Work) (d u : Nat) (t : Task) : Work :=
  let x := w.disp d
  let x := { x with slot := unitSet x.slot u [],
                    guard := if u < 120 then (u, t.level) :: x.guard.filter (fun e => e.1 ≠ u) else x.guard }
  let w := w.setDisp d (x.push { t with elig := none, deferred := some w.tickNo } true)
  ((w.bump F.timeOverrunGuardDefer 0 0).trace d 5 t u 0 0).refresh d

/-- A unit can start its slotted task: its previous task has ended, it serves, no granted phased emit holds its core,
and the commit work does not occupy it (R33, R227, R259, R281). -/
def Work.canStart (w : Work) (d u : Nat) : Bool :=
  (w.disp d).idle u && w.unitServes d u && w.dispatching && (decide (96 ≤ u) || !w.phaseHeld d u) &&
  !w.time.commitBusy.contains (d * 120 + u) && (decide (96 ≤ u) || (w.chainAt d u).isNone)

/-- The task that a unit runs. -/
def Work.runningUnit (w : Work) (d u : Nat) : Option Task := (unitGet (w.disp d).run u).head?

/-- TASK_START (R281, R283, R290): the unit starts the task in its slot, or the task is deferred. -/
def execTaskStart (die unit ns : Nat) (s : State) : Out :=
  s.perform (.taskStart die unit ns) (fun w =>
    let w := (w.atNs ns).refresh die
    match unitGet (w.disp die).slot unit with
    | [] => w
    | t :: _ =>
      if !w.canStart die unit then w
      else if !w.guardOk t then w.deferTask die unit t
      else
        let w := w.startTask die unit t
        match w.runningUnit die unit with
        | some t => (w.runTask die unit t).refresh die
        | none => w)
/-- The first eligible STREAM task of a die (R286). -/
def Work.firstStream (w : Work) (d : Nat) : Option Task :=
  (w.disp d).levels.flatten.find? (fun t => t.elig.isSome && decide (t.kind = kindStream))

/-- STREAM_TASK_ISSUE (R286): its STREAM_START is issued once a context is FREE and the guard test passes. A stream
that fails its checks completes its task with their status. -/
def execStreamTaskIssue (die ns : Nat) (s : State) : Out :=
  s.perform (.streamTaskIssue die ns) (fun w =>
    let w := (w.atNs ns).refresh die
    match w.firstStream die with
    | none => w
    | some t0 =>
      if !w.dispatching || (w.freeCtx die).isNone then w
      else if !w.guardOk t0 then
        let x := (w.disp die).drop t0
        (w.setDisp die x).deferTask die 127 t0
      else
        let t := { t0 with epoch := w.tickNo, start := w.now, pastBudget := false }
        let x := (w.disp die).drop t0
        let w := w.setDisp die { x with streams := x.streams ++ [t] }
        let w := w.trace die 3 t 127 0 (w.now - t.elig.getD w.now)
        match w.streamBegin die t.plan t.entry 0 0 (some t.serial) none with
        | (w, .inl _) => w
        | (w, .inr fs) =>
          let w := if fs.contains sUnmapped then w.faultPlan t.plan sUnmapped else w
          (w.countFurther (.strm die) fs).taskDone die 127 t (lowest fs))

/-- TASK_COMPLETE (R226, R290 to R292): the task on a unit has ended with a status. A general core's entry function
has returned, or its task has met a trap; a matrix engine's list has ended. -/
def execTaskComplete (die unit ns : Nat) (status : Status) (s : State) : Out :=
  s.perform (.taskComplete die unit ns status) (fun w =>
    let w := w.atNs ns
    match unitGet (w.disp die).run unit with
    | [] => w
    | t :: _ =>
      if unit < 96 then
        let c := w.core die unit
        if t.kind = kindGc ∧ c.halted = false ∧ c.ended.getD sOk = statusCode status then
          let w := w.setCore die unit { c with user := false, ended := none, wait := .none }
          (w.taskDone die unit t (statusCode status)).chainCall die unit
        else w
      else
        let m := unit - 96
        let x := w.me die m
        if x.ended = some (statusCode status) then
          (w.setMe die m { x with ended := none }).taskDone die unit t (statusCode status)
        else w)

/-! ## Epoch tables (R275, R276, R285) -/

/-- The epoch table of a plan on a die. -/
def Work.epochTable (w : Work) (p d : Nat) : List Rec :=
  match (w.plan p).image with
  | some i => getAt [] i.tables d
  | none => []

/-- The entries of a tick, in order: plan numbers rising, entries in table order (R276). -/
def Work.entriesOf (w : Work) (d : Nat) : List (Nat × Nat) :=
  ((List.range 16).filter (fun p => w.planState p = 2)).flatMap (fun p =>
    (List.range (w.epochTable p d).length).map (fun k => (p, k)))

/-- An epoch-table entry enqueued; none when the ready levels are full, or the delay list that it needs (R285). -/
def Work.enqueueEntry (w : Work) (d tick p k : Nat) : Option Work :=
  let r := getAt 0 (w.epochTable p d) k
  let x := w.disp d
  if x.room false && (!w.liesAhead r tick || x.room true) then
    let (t, w) := w.newTask p r tick
    some (w.placeTask d t tick)
  else none

/-- Entries enqueued until one finds no room; the rest are held (R285). -/
def Work.enqueueAll (w : Work) (d : Nat) : List (Nat × Nat × Nat) → Work
  | [] => let x := w.disp d; w.setDisp d { x with held := [] }
  | (tick, p, k) :: es =>
    match w.enqueueEntry d tick p k with
    | some w => Work.enqueueAll w d es
    | none => let x := w.disp d; w.setDisp d { x with held := (tick, p, k) :: es }

/-- The entries of a tick, behind those held of earlier ticks (R276, R285). -/
def Work.enqueueTick (w : Work) (d : Nat) : Work :=
  w.enqueueAll d ((w.disp d).held ++ (w.entriesOf d).map (fun e => (w.tickNo, e.1, e.2)))

/-- HELD_ENTRY_ENQUEUE (R285). -/
def execHeldEntryEnqueue (die : Nat) (s : State) : Out :=
  s.perform (.heldEntryEnqueue die) (fun w => w.enqueueAll die (w.disp die).held)

/-! ## Plan states (R293 to R296) -/

/-- A plan changes its state, with its event (source 4). -/
def Work.setPlanState (w : Work) (p st cause : Nat) : Work :=
  let old := w.planState p
  if old = st then w
  else (w.wr (F.dispPlanStateState p) 0 0 st).event 4 cause (p + old * 16 + st * 128)

/-- An idle decanter or press. -/
def Codec.atReset : Codec := ⟨[], [], [], []⟩
/-- The decanter or the press of a die. -/
def Work.codec (w : Work) (d : Nat) (press : Bool) : Codec :=
  smGet Codec.atReset w.codecs (2 * d + if press then 1 else 0)
/-- The decanter or the press of a die replaced. -/
def Work.setCodec (w : Work) (d : Nat) (press : Bool) (x : Codec) : Work :=
  { w with codecs := smSet Codec.atReset w.codecs (2 * d + if press then 1 else 0) x }

/-- A core's call that waits for a job goes on (R401). -/
def Work.jobReturn (w : Work) (d : Nat) (j : Job) (status second : Nat) : Work :=
  match j.core with
  | none => w
  | some g =>
    if !j.waits ∨ (w.core d g).wait ≠ .job then w
    else (w.setCore d g { w.core d g with wait := .none }).callReturn d g status (some second)

/-- The queued jobs of a purged plan, and those that waited for room, are removed without completion and counted (R424).
What the call of a core that waited returns is not given: free values. (Log entry 63, DEDUCED.) -/
def Work.purgeCodec (w : Work) (p d : Nat) (press : Bool) : Work :=
  let x := w.codec d press
  let gone := (x.queue ++ x.blocked).filter (fun j => j.plan = p)
  let keep (l : List Job) : List Job := l.filter (fun j => j.plan ≠ p)
  let w := (w.setCodec d press { x with queue := keep x.queue, blocked := keep x.blocked }).bump F.dispStatPurged d 0
    gone.length
  gone.foldl (fun w j =>
    let (a, w) := w.fresh 64
    let (b, w) := w.fresh 64
    match j.core with
    | some g =>
      if !j.waits ∧ x.blocked.contains j = true ∧ (w.core d g).wait = CoreWait.job then
        (w.setCore d g { w.core d g with wait := .none }).callReturn d g a none
      else w.jobReturn d j a b
    | none => w) w

/-- A purge on one die (R295). (Log entry 63, DEDUCED.) -/
def Work.purgeDie (w : Work) (p d : Nat) : Work :=
  let x := w.disp d
  let gone := x.levels.flatten ++ x.delay ++ (x.slot.flatMap (·.2))
  let mine := gone.filter (fun t => t.plan = p)
  let keep (l : List Task) : List Task := l.filter (fun t => t.plan ≠ p)
  let x := { x with levels := x.levels.map keep, delay := keep x.delay,
                    slot := (x.slot.map (fun e => (e.1, keep e.2))).filter (fun e => !e.2.isEmpty),
                    held := x.held.filter (fun e => e.2.1 ≠ p) }
  let w := (w.setDisp d x).bump F.dispStatPurged d 0 mine.length
  let w := mine.foldl (fun w t => w.trace d 7 t 127 0 0) w
  let w := (w.purgeCodec p d false).purgeCodec p d true
  (List.range 256).foldl (fun w c =>
    if (w.ctx d c).plan = p ∧ (w.ctx d c).st ≠ .free then w.streamStop d c false else w) w

/-- A purge of a plan (R295). (Log entry 63, DEDUCED.) -/
def Work.purge (w : Work) (p : Nat) : Work := (List.range 4).foldl (fun w d => (w.purgeDie p d).refresh d) w

/-- Some task, stream or chain of a plan remains (R294, R295). -/
def Work.planWork (w : Work) (p : Nat) : Bool :=
  (List.range 4).any (fun d =>
    let x := w.disp d
    (x.levels.flatten ++ x.delay ++ x.slot.flatMap (·.2) ++ x.run.flatMap (·.2) ++ x.streams).any (fun t => t.plan = p) ||
    x.held.any (fun e => e.2.1 = p)) ||
  w.ctxs.any (fun c => decide (c.2.plan = p) && decide (c.2.st ≠ .free)) || w.chains.any (fun c => c.2.plan = p)

/-- A plan becomes FAULTED and is purged (R55, R296). A transition that was pending is refused.
(Log entry 114, DEDUCED.) -/
def Work.toFaulted (w : Work) (p cause : Nat) : Work :=
  let x := w.plan p
  let w := w.setPlan p { x with faulting := 0, overruns := 0, purging := false, pending := 0, reply := none,
                                standing := false }
  let w := match x.reply with
    | some h => w.ctrlDone h sState []
    | none => w
  (((w.wr (F.dispPlanStatePending p) 0 0 0).setPlanState p 5 cause)).purge p

/-- A plan that runs or drains becomes FAULTED (R296). -/
def Work.planFault (w : Work) (p cause : Nat) : Work :=
  if w.planState p = 2 ∨ w.planState p = 3 then w.toFaulted p cause
  else w.setPlan p { w.plan p with faulting := 0 }

/-- OVERRUN_FAULT (R40): the third consecutive overrun epoch of a plan ends. -/
def execOverrunFault (plan : Nat) (s : State) : Out :=
  s.perform (.overrunFault plan) (fun w => if 3 ≤ (w.plan plan).overruns then w.planFault plan sOverrun else w)

/-! ## Overruns (R38 to R41, R553) -/

/-- The unfinished work of epochs before the present one on a die: plan and unit of each (R38). A task deferred in the
epoch that ends is no overrun (R35), nor is work of a unit fenced in it (R41). (Log entry 64, DEDUCED.) -/
def Work.overdue (w : Work) (d : Nat) : List (Nat × Nat) :=
  let x := w.disp d
  let old (t : Task) : Bool := decide (t.workEpoch < w.tickNo)
  let late (t : Task) : Bool := old t && !(decide (t.deferred = some (w.tickNo - 1)))
  let named (t : Task) : Nat × Nat := (t.plan, if t.named ∧ t.kind ≠ kindStream then (t.units.headD 127) else 127)
  let all := ((x.levels.flatten ++ x.delay).filter late).map named ++
    (x.slot.flatMap (fun e => (e.2.filter old).map (fun t => (t.plan, e.1)))) ++
    (x.run.flatMap (fun e => (e.2.filter old).map (fun t => (t.plan, e.1)))) ++
    (x.streams.filter old).map (fun t => (t.plan, 127)) ++
    (x.held.filter (fun e => decide (e.1 < w.tickNo))).map (fun e => (e.2.1, 127))
  (all.filter (fun e => 120 ≤ e.2 || !(w.unitSt d e.2).fenced)).eraseDups

/-- A unit's overruns are not counted while it works off what was re-issued (R553). (Log entry 65, DEDUCED.) -/
def Work.exempt (w : Work) (d u : Nat) : Bool :=
  decide (u < 120) && (w.unitSt d u).behind && decide (0 < (w.unitSt d u).catchUp)

/-- A plan has unfinished work of an earlier epoch on a fenced unit: on it, or to be issued again (R41).
(Log entry 64, DEDUCED.) -/
def Work.fencedWork (w : Work) (p : Nat) : Bool :=
  (List.range 4).any (fun d => (List.range 120).any (fun u =>
    let s := w.unitSt d u
    let mine (t : Task) : Bool := decide (t.plan = p) && decide (t.workEpoch < w.tickNo)
    s.fenced && ((unitGet (w.disp d).run u).any mine || (unitGet (w.disp d).slot u).any mine ||
      s.again.any (fun e => mine e.2))))

/-- The overruns of the epoch that ends: an event for each, and the count of each plan, which the work of a fenced unit
neither advances nor resets (R38, R40, R41). (Log entries 59, DEDUCED; 64, DEDUCED.) -/
def Work.noteOverruns (w : Work) : Work :=
  let all := (List.range 4).flatMap (fun d => (w.overdue d).map (fun e => (d, e.1, e.2)))
  let w1 := all.foldl (fun w (e : Nat × Nat × Nat) =>
    w.event 0 sOverrun (e.2.1 + e.1 * 16 + unitShown e.2.2 * 64 + (w.tickNo - 1) * 2 ^ 64)) w
  (List.range 16).foldl (fun w p =>
    if w.planState p = 2 ∨ w.planState p = 3 then
      let mine := all.filter (fun e => e.2.1 = p)
      let x := w.plan p
      if mine.isEmpty then (if w.fencedWork p then w else w.setPlan p { x with overruns := 0 })
      else if mine.all (fun e => w.exempt e.1 e.2.2) then w
      else w.setPlan p { x with overruns := x.overruns + 1 }
    else w) w1

/-- The catch-up of units after a fence moves on by one epoch: a unit that has completed all its work, or has had its
epochs, counts again (R553). (Log entry 65, DEDUCED.) -/
def Work.catchUpTick (w : Work) : Work :=
  (List.range 4).foldl (fun w d =>
    let od := w.overdue d
    (List.range 120).foldl (fun w u =>
      let x := w.unitSt d u
      if x.behind then
        let done := !od.any (fun e => e.2 = u)
        w.setUnitSt d u { x with behind := !done, catchUp := x.catchUp - 1 }
      else w) w) w

/-- CATCHUP_EXPIRE (R553): the epochs of ERR_CFG.CATCHUP have passed and the count is resumed.
(Log entry 65, DEDUCED.) -/
def execCatchupExpire (die unit : Nat) (s : State) : Out :=
  s.perform (.catchupExpire die unit) (fun w =>
    let x := w.unitSt die unit
    if x.behind ∧ x.catchUp = 0 then w.setUnitSt die unit { x with behind := false } else w)

/-- A command noted for the next delta with the tick at which it takes effect (R528, section 10). -/
def Work.markControl (w : Work) (tick : Nat) (m : Msg) (image : List Byte) : Work :=
  { w with marks := { w.marks with control := w.marks.control ++ [(tick, m, image)] } }

/-- The plan command that a transition answers, as the next delta carries it (R293, R528). -/
def Work.markTransition (w : Work) (p k : Nat) (h : KHdr) : Work :=
  let typ := match k with
    | 1 => 4
    | 2 => 6
    | _ => 5
  w.markControl w.tickNo ⟨{ h with cls := 3, typ := typ, len := 8 }, toBytes 8 p⟩ []

/-- A plan that becomes FAULTED at this tick, before anything of it commits (R40, R296). -/
def Work.faultTick (w : Work) (p : Nat) : Work :=
  let w := if 3 ≤ (w.plan p).overruns then w.planFault p sOverrun else w
  if (w.plan p).faulting ≠ 0 then w.planFault p (w.plan p).faulting else w

/-- Plans at a tick (R293 to R295): pending transitions, and those that have no work left. -/
def Work.planTick (w : Work) (p : Nat) : Work :=
  let x := w.plan p
  let w := if x.standing ∧ w.planState p = 1 ∧ x.pending = 0 then
      (w.setPlan p { x with standing := false, overruns := 0 }).setPlanState p 2 sOk
    else w
  let x := w.plan p
  let w := if x.pending = 0 then w
    else
      let w := (w.setPlan p { x with pending := 0, reply := none, purging := x.purging || decide (x.pending = 4),
                                     overruns := if x.pending = 1 then 0 else x.overruns }).wr
        (F.dispPlanStatePending p) 0 0 0
      let w := match x.pending with
        | 1 => w.setPlanState p 2 sOk
        | 2 => w.setPlanState p 3 sOk
        | 3 => (w.setPlanState p 3 sOk).purge p
        | _ => w.purge p
      match x.reply with
      | some h => (w.markTransition p x.pending h).ctrlDone h sOk []
      | none => w
  let x := w.plan p
  if (w.planState p = 3 ∨ (w.planState p = 5 ∧ x.purging = true)) ∧ w.planWork p = false then
    (w.setPlan p { x with purging := false }).setPlanState p 4 sOk
  else w

/-- The unit counters of the epoch that ends are latched in counter mode, and begin again; tasks that still run past their
budget are counted (R291, R297, R298). -/
def Work.latchUnits (w : Work) (d : Nat) (before : Nat) : Work :=
  let x := w.disp d
  let w := if w.obsMode ≠ 0 then w
    else (List.range 120).foldl (fun w u =>
      let run := match unitGet x.run u with
        | t :: _ => w.time.lastTick - max t.start before
        | [] => 0
      let w := w.wr F.dispUnitLoadBusyNs d u (min (smGet 0 x.busy u + run) (2 ^ 32 - 1))
      let b := unitGet x.bins u
      (List.range 8).foldl (fun w k => w.wr (F.dispUnitWaitBin k) d u (getAt 0 b k)) w) w
  let late (l : List Task) : List Task := l.filter (fun t => decide (t.budget < w.now - t.start) && !t.pastBudget)
  let mark (t : Task) : Task := if t.budget < w.now - t.start then { t with pastBudget := true } else t
  let n := (late (x.run.flatMap (·.2) ++ x.streams)).length
  let w := if n = 0 then w else w.bump F.dispStatOverBudget d 0 n
  w.setDisp d { w.disp d with busy := [], bins := [], guard := [], past := [],
                              run := x.run.map (fun e => (e.1, e.2.map mark)), streams := x.streams.map mark }

/-! ## Commit work (R33) -/

/-- COMMIT_WORK_END (R33): the commit work ends; the units it occupied may start, and work that ran past C is counted once
for the epoch. (Log entry 111, DESIGN CHOICE.) -/
def execCommitWorkEnd (ns : Nat) (s : State) : Out :=
  s.perform (.commitWorkEnd ns) (fun w =>
    let w := w.atNs ns
    let late := decide (commitEnd w.period < w.phase) && w.time.commitOpen
    let w := { w with time := { w.time with commitBusy := [], commitOpen := false } }
    (if late then w.bump F.timeOverrunCommitLate 0 0 else w).refreshAll)

end Sys2Proof.Machine
end

