-- ==== Sys2Proof/Machine/Operator.lean ====
section
/-! DEFINITION. What the runtime's operators share: operator records, column lists, nulls, selection, corrupt rows,
statistics and the return of a call (R300 to R310, R315, R483). A call is one command. -/

namespace Sys2Proof.Machine

/-! ## Records and columns (R301, R302, R308) -/

/-- An operator record (R301). -/
structure OpRec where
  op : Nat
  mode : Nat
  ncol : Nat
  inp : Nat
  aux : Nat
  sel : Nat
  out : Nat
  outValid : Nat
  out2 : Nat
  arg0 : Nat
  arg1 : Nat
  arg2 : Nat
  stats : Nat
  reservedZero : Bool
  deriving DecidableEq, Repr

/-- The fields of R301. -/
def OpRec.ofRec (r : Rec) : OpRec :=
  { op := recF r 7 0, mode := recF r 15 8, ncol := recF r 19 16, inp := recF r 47 32, aux := recF r 63 48,
    sel := recF r 79 64, out := recF r 95 80, outValid := recF r 111 96, out2 := recF r 127 112,
    arg0 := recF r 159 128, arg1 := recF r 223 160, arg2 := recF r 287 224, stats := recF r 339 288,
    reservedZero := recZero r [(31, 20), (511, 340)] }

/-- The handle of none. -/
abbrev noHandle : Nat := 0xFFFF

/-- The classes of R308: 0 integer, 1 float, 2 VARBIN, 3 no operator input. -/
def ETy.cls : ETy → Nat
  | .int8 | .int16 | .int32 | .int64 | .uint8 | .uint32 | .ts64 | .dict32 => 0
  | .fp16 | .bf16 | .fp32 => 1
  | .varbin => 2
  | _ => 3

/-- A column: its values or offsets, its validity, the handle in BYTES and what it names (R302). -/
structure Col where
  val : Desc
  valid : Option Desc
  bytesH : Nat
  bytes : Option Desc
  deriving DecidableEq, Repr

/-- The type of a column. -/
def Col.ty (c : Col) : ETy := c.val.ty.getD .bitmap
/-- The class of a column. -/
def Col.cls (c : Col) : Nat := c.ty.cls
/-- The rows that a column holds: one fewer than its offsets for VARBIN (R304). -/
def Col.rows (c : Col) : Nat := getAt 0 c.val.size 0 - (if c.ty = .varbin then 1 else 0)

/-- A handle that may be none. -/
def Work.optDesc (w : Work) (p h : Nat) (wr : Bool) : Option Desc × List Nat :=
  if h = noHandle then (none, []) else w.operand p h wr

/-- A column-list entry (R302): the column where its handles are usable, and the failures of R304. -/
def Work.colEntry (w : Work) (p x : Nat) (wr : Bool) : Option Col × List Nat :=
  let bh := fieldOf x 32 16
  let (v, f1) := w.operand p (fieldOf x 0 16) wr
  let (n, f2) := w.optDesc p (fieldOf x 16 16) wr
  let (b, f3) := w.optDesc p bh false
  let fs := f1 ++ f2 ++ f3
  match v with
  | none => (none, fs ++ chk (decide (fieldOf x 48 16 = 0)) sRange)
  | some d =>
    let c : Col := { val := d, valid := n, bytesH := bh, bytes := b }
    let bitmap := match n with
      | some m => decide (m.ty = some .bitmap)
      | none => true
    let bytesOk := match c.ty with
      | .varbin => (match b with
        | some y => decide (y.ty = some .uint8)
        | none => decide (bh ≠ noHandle))
      | .dict32 => true
      | _ => decide (bh = noHandle)
    (if fs.isEmpty then some c else none, fs ++ chk (decide (fieldOf x 48 16 = 0) && bitmap && bytesOk) sRange)

/-- Entry k of a column list. -/
def Work.listCol (w : Work) (p : Nat) (l : Desc) (k : Nat) (wr : Bool) : Option Col × List Nat :=
  w.colEntry p (w.descLE l (8 * k) 8) wr

/-- The first n columns of the list that a handle names (R302). -/
def Work.columns (w : Work) (p h n : Nat) : List Col × List Nat :=
  match w.operand p h false with
  | (none, fs) => ([], fs)
  | (some l, fs) =>
    if l.ty = some .uint8 ∧ 64 ≤ l.count then
      (List.range n).foldl (fun (acc : List Col × List Nat) k =>
        match w.listCol p l k false with
        | (some c, f) => (acc.1 ++ [c], acc.2 ++ f)
        | (none, f) => (acc.1, acc.2 ++ f)) ([], fs)
    else ([], fs ++ [sRange])

/-- A descriptor holds rows [row0, row0 + count) in dimension 0. -/
def Desc.holds (d : Desc) (row0 count : Nat) : Bool := decide (row0 + count ≤ getAt 0 d.size 0)

/-- A column and its validity hold the rows of a call (R304). -/
def Col.holds (c : Col) (row0 count : Nat) : Bool :=
  decide (row0 + count ≤ c.rows) && (match c.valid with
    | some v => v.holds row0 count
    | none => true)

/-! ## Elements -/

/-- The value of a column's element. -/
inductive CVal where
  | int (i : Int)
  | flt (v : FVal)
  | bytes (b : List Byte)
  deriving DecidableEq, Repr

/-- What a row of a column gives: the value, whether it is null, what its memory met, and how many bytes of it were
reached through a reduced index that is to be counted. -/
structure CCell where
  v : CVal
  null : Bool
  st : RowSt
  wraps : Nat
  deriving DecidableEq, Repr

/-- An element read at an index of dimension 0. -/
def Work.at0 (w : Work) (d : Desc) (i : Nat) : Nat × RowSt :=
  let bit := d.bitAddr [i]
  match w.readBits bit d.w with
  | some (v, _) => (v, w.rowState (bit / 8))
  | none => (0, .unmapped)

/-- An element stored at an index of dimension 0, under the COMBINE mode of the descriptor (R107). -/
def Work.put0 (w : Work) (d : Desc) (i v : Nat) : Work × Bool := w.combineAt d (d.bitAddr [i]) v

/-- The bytes of a VARBIN element, indices reduced under R113. -/
def Work.varBytes (w : Work) (b : Desc) (lo hi : Nat) : List Byte × RowSt × Nat :=
  (List.range (hi - lo)).foldl (fun (acc : List Byte × RowSt × Nat) k =>
    let (i, wr) := reduceIdx ((lo + k : Nat) : Int) (getAt 1 b.size 0)
    let (x, st) := w.at0 b i
    (acc.1 ++ [BitVec.ofNat 8 x], acc.2.1.worse st, acc.2.2 + (if wr && !b.wrap then 1 else 0))) ([], .ok, 0)

/-- Row r of a column (R302, R307, R308): zeros where its memory delivers zeros. -/
def Work.cell (w : Work) (c : Col) (r : Nat) : CCell :=
  let (x, st) := w.at0 c.val r
  let (valid, vst) := match c.valid with
    | some v => w.at0 v r
    | none => (1, .ok)
  let st := st.worse vst
  let null := decide (valid = 0) || (decide (c.ty = .dict32) && decide (x = absent32))
  match c.cls with
  | 1 => ⟨.flt (c.ty.value x).toF, null, st, 0⟩
  | 2 =>
    let (hi, hst) := w.at0 c.val (r + 1)
    let st := st.worse hst
    (match c.bytes, st with
    | some b, .ok =>
      let (bs, bst, n) := w.varBytes b x hi
      ⟨.bytes bs, null, bst, n⟩
    | _, _ => ⟨.bytes [], null, st, 0⟩)
  | _ =>
    match c.ty.value x with
    | .int i => ⟨.int i, null, st, 0⟩
    | .flt v => ⟨.flt v, null, st, 0⟩

/-- The value is a NaN. -/
def CVal.isNan : CVal → Bool
  | .flt v => v.isNan
  | _ => false

/-- A number as an element value. -/
def CVal.num : CVal → EVal
  | .int i => .int i
  | .flt v => .flt v
  | .bytes _ => .int 0

/-- The canonical bytes of one column of a key; `many` when the key has more than one column (R315). -/
def CVal.keyBytes (many : Bool) : CVal → List Byte
  | .int i => toBytes 8 (wrapTo 64 i)
  | .flt v => toBytes 8 (if v.isZero then 0 else Fmt.fp64.round v)
  | .bytes b => (if many then toBytes 4 b.length else []) ++ b

/-- The canonical bytes of a key; none when a column of it is null or NaN (R309, R315). -/
def keyOf (cs : List CCell) : Option (List Byte) :=
  if cs.any (fun c => c.null || c.v.isNan) then none
  else some (cs.flatMap (fun c => c.v.keyBytes (decide (1 < cs.length))))

/-- The ordered image of a number (R326). -/
def orderedImage : EVal → Nat
  | .int i => wrapTo 64 i ^^^ 2 ^ 63
  | .flt v =>
    let u := if v.isZero then 0 else Fmt.fp64.round v
    if u < 2 ^ 63 then u + 2 ^ 63 else 2 ^ 64 - 1 - u

/-! ## A call under way -/

/-- The block, the failures met, the rejects of the call (newest first), and its counts. -/
structure OAcc where
  w : Work
  fails : List Nat := []
  rej : List Rej := []
  rowsIn : Nat := 0
  nulls : Nat := 0
  c3 : Nat := 0
  c4 : Nat := 0
  c5 : Nat := 0
  c6 : Nat := 0
  c7 : Nat := 0
  wraps : Nat := 0
  sats : Nat := 0
  pairs : Nat := 0
  unm : Bool := false

/-- A failure noted. -/
def OAcc.fail (a : OAcc) (code : Nat) : OAcc := { a with fails := setInsert a.fails code }
/-- What an access that could not be made adds to the failures (R115, R155, R159). -/
def OAcc.meets (a : OAcc) (st : RowSt) : OAcc :=
  match st with
  | .ok | .held => a
  | .unmapped => { a.fail sUnmapped with unm := true }
  | .lost => a.fail sNoSpare
  | .bad => a.fail sCheck
/-- A row that met a null. (Log entry 66, DEDUCED.) -/
def OAcc.null (a : OAcc) : OAcc := { a with nulls := a.nulls + 1 }
/-- The block replaced. -/
def OAcc.on (a : OAcc) (w : Work) : OAcc := { a with w := w }

/-- What storing at a bit address meets: no memory, or a lost bank (R115, R159). A poisoned row takes the bytes (R155). -/
def OAcc.stores (a : OAcc) (bit : Nat) : OAcc :=
  match a.w.rowState (bit / 8) with
  | .unmapped => a.meets .unmapped
  | .lost => a.meets .lost
  | _ => a

/-- What storing n bytes of a descriptor meets. -/
def OAcc.meetsOut (a : OAcc) (d : Desc) (off n : Nat) : OAcc :=
  (List.range n).foldl (fun a k => a.stores (d.at (off + k))) a

/-- An output element converted and stored; saturations are counted (R70, R88, R303). -/
def OAcc.store (a0 : OAcc) (d : Desc) (i : Nat) (sat : Bool) (v : EVal) : OAcc :=
  let a := a0.stores (d.bitAddr [i])
  let t := d.ty.getD .uint8
  let (x, s) := t.convert sat .rne v
  let (w, s2) := a.w.put0 d i x
  { a with w := w, sats := a.sats + (if s || s2 then 1 else 0) }

/-- A 16-bit unsigned output: INT16 elements read and written as unsigned values, under the COMBINE mode too (R108, R303). -/
def OAcc.storeU (a : OAcc) (d : Desc) (i : Nat) (v : Int) : OAcc :=
  if d.ty = some .int16 then
    let (x, s) := clampTo 0 65535 v
    let bit := d.bitAddr [i]
    match a.w.readBits bit 16 with
    | none => a.stores bit
    | some (old, _) =>
      let (y, s1) := combineElem .uint32 d.combine old x.toNat
      let (z, s2) := clampTo 0 65535 (y : Int)
      { a with w := a.w.storeBits d bit z.toNat, sats := a.sats + (if s || s1 || s2 then 1 else 0) }
  else a.store d i true (.int v)

/-- A bit of a bitmap that may be absent. -/
def OAcc.bit (a : OAcc) (d : Option Desc) (i : Nat) (b : Bool) : OAcc :=
  match d with
  | some v => (a.stores (v.bitAddr [i])).on (a.w.put0 v i (if b then 1 else 0)).1
  | none => a

/-- SEL of a row (R301). -/
def Work.selected (w : Work) (sel : Option Desc) (r : Nat) : Bool :=
  match sel with
  | some d => decide ((w.at0 d r).1 = 1)
  | none => true

/-- SEL of a row cleared. (Log entry 67, DEDUCED.) -/
def OAcc.unselect (a : OAcc) (sel : Option Desc) (r : Nat) : OAcc :=
  match sel with
  | some d => (a.stores (d.bitAddr [r])).on (a.w.writeBits (d.bitAddr [r]) 1 0)
  | none => a

/-- A row withheld into the pending-reject table; consecutive rows of a call with one reason share an entry (R483). -/
def OAcc.withhold (a : OAcc) (selH r reason status : Nat) : OAcc :=
  match a.rej with
  | e :: es =>
    if e.first + e.count = r ∧ e.reason = reason ∧ e.status = status ∧ e.count < 16777216 then
      { a with rej := { e with count := e.count + 1 } :: es }
    else { a with rej := ⟨selH, r, 1, reason, status⟩ :: a.rej }
  | [] => { a with rej := [⟨selH, r, 1, reason, status⟩] }

/-- A row that met rows delivered as zeros, a lost bank or no memory (R307, R159, R115). (Log entry 66, DEDUCED.) -/
def OAcc.corrupt (a : OAcc) (o : OpRec) (sel : Option Desc) (r : Nat) (st : RowSt) : OAcc :=
  match st with
  | .ok | .held => a
  | .unmapped => { a.fail sUnmapped with unm := true }
  | .lost => ((a.unselect sel r).withhold o.sel r 12 sReject).fail sNoSpare
  | .bad => ((a.unselect sel r).withhold o.sel r 12 sReject).fail sCheck

/-- The rows of a call, in order: the selected ones are counted, corrupt ones withheld, and the others given to the
operator (R306, R307). -/
def Work.opRows (w : Work) (o : OpRec) (sel : Option Desc) (row0 count : Nat) (cols : List Col)
    (body : OAcc → Nat → List CCell → OAcc) : OAcc :=
  (List.range count).foldl (fun a k =>
    let r := row0 + k
    if a.w.selected sel r then
      let cs := cols.map (fun c => a.w.cell c r)
      let a := { a with rowsIn := a.rowsIn + 1, wraps := a.wraps + (cs.map (·.wraps)).foldl (· + ·) 0 }
      match cs.foldl (fun s c => s.worse c.st) RowSt.ok with
      | .ok => body a r cs
      | st => a.corrupt o sel r st
    else a) { w := w }

/-- The rows of a range whose bit of a bitmap is set. (Log entry 67, DEDUCED.) -/
def Work.bitsSet (w : Work) (d : Option Desc) (row0 count : Nat) : Nat :=
  ((List.range count).filter (fun k => w.selected d (row0 + k))).length

/-- The counts of a call added to its statistics block, each held at 2^64 - 1; a poisoned block is not altered
(R305, R93, R155). (Log entry 67, DEDUCED.) -/
def Work.addStats (w : Work) (addr : Nat) (cs : List Nat) : Work :=
  if addr = 0 then w
  else
    match w.rowState addr, regionOf addr with
    | .ok, .cellar die =>
      let (w, sats) := (List.range cs.length).foldl (fun (p : Work × Nat) k =>
        let a := addr + 8 * k
        let (v, s) := clampTo 0 (2 ^ 64 - 1) (((p.1.readLE a 8).getD 0 + getAt 0 cs k : Nat) : Int)
        (p.1.writeLE a 8 v.toNat, p.2 + (if s then 1 else 0))) (w, 0)
      w.countSat (.cellar die) sats
    | _, _ => w

/-- The core's pending-reject table. -/
def Work.rejects (w : Work) (d g : Nat) : List Rej := smGet [] w.rejs (d * 96 + g)
/-- The core's pending-reject table replaced. -/
def Work.setRejects (w : Work) (d g : Nat) (l : List Rej) : Work :=
  { w with rejs := smSet [] w.rejs (d * 96 + g) l }

/-- The pipeline of the plan that a core's rows go to, for the count of lost rejects: the lowest-numbered one that the
plan declares (R470, R483; log entry 13). -/
def Work.lostPipe (w : Work) (p : Nat) : Nat :=
  match (w.plan p).image with
  | some i => ((i.pipes.map (·.1)).foldl min 31)
  | none => 31

/-- Rows that no reject record will name are counted (R483). (Log entry 13, DEDUCED.) -/
def Work.loseRejects (w : Work) (p n : Nat) : Work :=
  if n = 0 then w else w.bumpSat F.bqStatRejLost 0 (w.lostPipe p) n

/-- The rejects of a call enter the core's table of 1,024 entries; the rows of those that find no room are counted
(R483). -/
def Work.enterRejects (w : Work) (d g : Nat) (l : List Rej) : Work :=
  let old := w.rejects d g
  let room := 1024 - old.length
  (w.setRejects d g (old ++ l.take room)).loseRejects (w.planOf (.core d g))
    (((l.drop room).map (·.count)).foldl (· + ·) 0)

/-- A call that failed its checks returns: it wrote nothing, and its second result is not given (R304).
(Log entry 62, DEDUCED.) -/
def Work.opFail (w : Work) (d g : Nat) (fs : List Nat) : Work :=
  let (v, w) := w.fresh 64
  (w.countFurther (.gc d g) fs).callReturn d g (lowest fs) (some v)

/-- A call returns with its status and its second result, its statistics added, its counts counted, and its rejects
entered (R300, R305, R307). -/
def OAcc.finish (a : OAcc) (d g : Nat) (o : OpRec) (rowsOut : Nat) : Work :=
  let a := if a.w.dtHit then a.fail sRange else a
  let w := a.w.addStats o.stats [a.rowsIn, rowsOut, a.nulls, a.c3, a.c4, a.c5, a.c6, a.c7]
  let w := (w.countSat (.gc d g) a.sats).countWrap (.gc d g) a.wraps
  let w := w.enterRejects d g a.rej.reverse
  let w := if a.unm then w.unmappedBy d (w.planOf (.core d g)) 0 0 else w
  (w.countFurther (.gc d g) a.fails).callReturn d g (lowest a.fails) (some rowsOut)

/-- The statistics address is zero, or that of a 64 B block in the cellar (R301). -/
def statsOk (a : Nat) : Bool :=
  decide (a = 0) || (decide (a % 64 = 0) && (match regionOf a with
    | .cellar _ => true
    | _ => false))

/-- The checks that every operator makes on its record, its selection and its range (R300, R304). -/
def Work.opCommon (w : Work) (p : Nat) (o : OpRec) (row0 count : Nat) (writesSel : Bool) : Option Desc × List Nat :=
  let (sel, fs) := w.optDesc p o.sel writesSel
  (sel, fs ++ chk (o.reservedZero && statsOk o.stats && decide (1 ≤ count) && decide (count ≤ 65536)) sRange ++
    (match sel with
    | some d => chk (decide (d.ty = some .bitmap) && d.holds row0 count) sRange
    | none => []))

/-- An output that holds the rows of a call: a short one fails the check on every column's rows and the one on what the call
could write (R18, R304). -/
def Desc.outHolds (d : Desc) (row0 count : Nat) : List Nat :=
  chk (d.holds row0 count) sRange ++ chk (d.holds row0 count) sFull

/-- The failures of a record whose OP or MODE is not defined: that, and those of every handle it names (R18, R304). -/
def Work.undefinedOp (w : Work) (p : Nat) (o : OpRec) : List Nat :=
  [sRange] ++ ([(o.inp, false), (o.aux, false), (o.sel, false), (o.out, true), (o.outValid, true), (o.out2, true)].flatMap
    (fun (e : Nat × Bool) => (w.optDesc p e.1 e.2).2))

/-- An output bitmap: writable, a bitmap, and long enough (R304). -/
def Work.outBitmap (w : Work) (p h row0 count : Nat) : Option Desc × List Nat :=
  match w.optDesc p h true with
  | (some d, fs) => (some d, fs ++ chk (decide (d.ty = some .bitmap)) sRange ++ d.outHolds row0 count)
  | r => r

/-- An output column of one of the given types, long enough (R304). -/
def Work.outColumn (w : Work) (p h row0 count : Nat) (tys : List ETy) : Option Desc × List Nat :=
  match w.operand p h true with
  | (some d, fs) =>
    (some d, fs ++ chk (match d.ty with
      | some t => tys.contains t
      | none => false) sRange ++ d.outHolds row0 count)
  | r => r

/-- The UINT8 parameter block that AUX names, of at least n bytes (R304). -/
def Work.auxBlock (w : Work) (p h n : Nat) : Option Desc × List Nat :=
  match w.operand p h false with
  | (some d, fs) => (some d, fs ++ chk (decide (d.ty = some .uint8) && decide (n ≤ d.count)) sRange)
  | r => r

/-- The columns of IN with the checks of R304 on their classes and rows. -/
def Work.inColumns (w : Work) (p : Nat) (o : OpRec) (row0 count : Nat) (classes : List Nat) : List Col × List Nat :=
  let (cols, fs) := w.columns p o.inp o.ncol
  (cols, fs ++ chk (cols.all (fun c => classes.contains c.cls && c.holds row0 count)) sRange)

/-! ## Searches of a match table by an operator (R313) -/

/-- The match template in a parameter block, checked as R171 checks a search, its reserved fields too (R304, R313). -/
def Work.template (w : Work) (p : Nat) (aux : Desc) : MatCmd × List Nat :=
  let c := MatCmd.ofRec (BitVec.ofNat 512 (w.descLE aux 0 64))
  (c, chk (c.reservedZero && decide (c.op = 0x21) && decide (c.width = 0) && !c.staged && c.key.all (· = 0) && decide (1 ≤ c.cnt) &&
        decide (c.first + c.cnt ≤ 128) &&
        c.banks.all (fun b => w.bankGranted p c.die b && decide (w.rd F.matchBankCfgWidth c.die b = 0))) sRange)

/-- A search of the table for one key: RESULT of the answer (R166 to R168, R172, R185). -/
def OAcc.lookup (a : OAcc) (c : MatCmd) (key : Nat) : OAcc × Option Nat :=
  if c.banks.any (fun b => (a.w.mbank c.die b).lost) then (a.fail sNoSpare, none)
  else
    let (w, h, _, cleared) := a.w.tableSearch c.die c.first c.cnt 1 [key]
    let a := a.on w
    (if cleared = 0 then a else a.fail sCheck, h.map (·.result))

/-! ## Calling an operator -/

/-- An operator call on a core: the record is read in the core's local memory at a multiple of 64 (R300).
(Log entry 61, DESIGN CHOICE.) -/
def Work.opCall (w : Work) (d g a0 : Nat) (f : Work → OpRec → Work) : Work :=
  match w.callRecord d g a0 64 64 with
  | none => w.opFail d g [sRange]
  | some bs => f w (OpRec.ofRec (BitVec.ofNat 512 (ofBytes bs)))

/-- What a call that was checked is about to do: nothing, with the failures it has, or its rows; `run` answers what the
rows gave and the count of rows that the call hands on. -/
inductive OpPlan where
  | fails (fs : List Nat)
  | go (run : Work → OAcc × Nat)

/-- The rows of a call when it has no failures. -/
def OpPlan.of (fs : List Nat) (run : Work → OAcc × Nat) : OpPlan := if fs.isEmpty then .go run else .fails fs

/-- A call that was checked performed, and returned (R300, R304). -/
def Work.opRun (w : Work) (d g : Nat) (o : OpRec) : OpPlan → Work
  | .fails fs => w.opFail d g fs
  | .go run => (run w).1.finish d g o (run w).2

/-- A row of the table for one OP, and one MODE where there are several: another record is not that command. -/
def Work.opRow (w : Work) (d g a0 op : Nat) (mode : Option Nat) (f : Work → OpRec → Work) : Work :=
  w.coreRow d g (fun w => w.opCall d g a0 (fun w o =>
    if o.op = op ∧ (mode = none ∨ mode = some o.mode) then f w o else w))

end Sys2Proof.Machine
end

