-- ==== Sys2Proof/Machine/Relational.lean ====
section
/-! DEFINITION. Filter, joins, gather, bucketize, normalise and feature hashing (R311 to R333). -/

namespace Sys2Proof.Machine

/-! ## FILTER (R311 to R314) -/

/-- The bytes of a pattern (R313). -/
def Work.pattern (w : Work) (d : Desc) : List Byte := w.descBytes d 0 (getAt 0 d.size 0)

/-- What FILTER's AUX names: nothing, a match template, or a pattern. -/
inductive FilterAux where
  | none
  | table (c : MatCmd)
  | pattern (bs : List Byte)

/-- FILTER's AUX, with its checks (R303, R304, R313). -/
def Work.filterAux (w : Work) (p : Nat) (o : OpRec) : FilterAux × List Nat :=
  if o.mode = 10 then
    match w.auxBlock p o.aux 64 with
    | (some d, fs) =>
      let (c, f2) := w.template p d
      (.table c, fs ++ f2)
    | (none, fs) => (.none, fs)
  else if o.mode = 11 ∨ o.mode = 12 then
    match w.operand p o.aux false with
    | (some d, fs) =>
      (.pattern (w.pattern d), fs ++ chk (decide (d.ty = some .uint8) && decide (getAt 0 d.size 0 ≤ 65536)) sRange)
    | (none, fs) => (.none, fs)
  else (.none, chk (decide (o.aux = noHandle)) sRange)

/-- The classes that a mode takes (R311). -/
def filterClasses (mode : Nat) : List Nat :=
  if mode = 8 ∨ mode = 9 then [0, 1, 2] else if mode = 11 ∨ mode = 12 then [2] else [0, 1]

/-- The predicate of a row (R311, R312). (Log entry 67, DEDUCED.) -/
def OAcc.filterHit (a : OAcc) (o : OpRec) (aux : FilterAux) (c : CCell) (flt : Bool) : OAcc × Bool :=
  if o.mode = 8 then (a, c.null)
  else if c.null then (a, false)
  else if o.mode = 9 then (a, true)
  else if c.v.isNan then (a, false)
  else
    match aux, c.v with
    | .table t, v =>
      let (a, r) := a.lookup t (orderedImage v.num)
      (a, match r with
        | some x => decide (x % 2 = 1)
        | none => false)
    | .pattern bs, .bytes b => (a, if o.mode = 11 then decide (b = bs) else decide (b.take bs.length = bs))
    | _, v =>
      let opnd (x : Nat) : EVal := if flt then .flt (f32 (x % 2 ^ 32)) else .int (sext 64 x)
      (a, scanPred o.mode v.num (opnd o.arg1) (opnd o.arg2))

/-- FILTER checked: one predicate a row, merged into OUT (R306, R311, R314). A NaN under IN_SET is a null (R309). -/
def Work.filterPlan (w : Work) (d g row0 count : Nat) (o : OpRec) : OpPlan :=
  let p := w.planOf (.core d g)
  let (_, f0) := w.opCommon p o row0 count false
  let (cols, f1) := w.inColumns p o row0 count (filterClasses o.mode)
  let (out, f2) := if o.out = noHandle then (none, [sState]) else w.outBitmap p o.out row0 count
  let (aux, f3) := w.filterAux p o
  let fs := f0 ++ f1 ++ f2 ++ f3 ++
    chk (decide (o.ncol = 1) && (decide (o.mode ≤ 6) || (decide (8 ≤ o.mode) && decide (o.mode ≤ 12))) &&
      decide (o.arg0 < 3) && decide (o.sel = noHandle) &&
      decide (o.outValid = noHandle) && decide (o.out2 = noHandle)) sRange
  .of fs (fun w =>
    let flt := match cols with
      | c :: _ => decide (c.cls = 1)
      | [] => false
    let a := w.opRows o none row0 count cols (fun a r cs =>
      match cs, out with
      | c :: _, some dst =>
        let a := if c.null || (decide (o.mode = 10) && c.v.isNan) then a.null else a
        let (a, hit) := a.filterHit o aux c flt
        let a := if hit then { a with c3 := a.c3 + 1 } else a
        let old := a.w.selected (some dst) r
        a.bit (some dst) r (match o.arg0 with
          | 0 => hit
          | 1 => old && hit
          | _ => old || hit)
      | _, _ => a)
    (a, a.w.bitsSet out row0 count))

/-- FILTER. -/
def Work.filterOp (w : Work) (d g row0 count : Nat) (o : OpRec) : Work := w.opRun d g o (w.filterPlan d g row0 count o)

/-! ## Joins (R315 to R323) -/

/-- A join record with the descriptors it names (R317). -/
structure Join where
  aux : Desc
  finished : Bool
  build : List Col
  hdrDesc : Desc
  hdr : HashHdr
  spill : Option Desc

/-- The row count of a join's build side. -/
def Join.rows (j : Join) : Nat :=
  match j.build with
  | c :: _ => c.rows
  | [] => 1

/-- The SEED of a hash-table header (R137, R316). -/
def Work.joinSeed (w : Work) (j : Join) : Nat := w.descLE j.hdrDesc 8 8

/-- The join record that AUX names, with its checks (R304, R317). -/
def Work.joinRec (w : Work) (p : Nat) (o : OpRec) (insert wr : Bool) : Option Join × List Nat :=
  match w.auxBlock p o.aux 64 with
  | (none, fs) => (none, fs)
  | (some aux, fs) =>
    let x := w.descLE aux 0 64
    let n := fieldOf x 16 3
    let fixed := chk (decide (1 ≤ n) && decide (n ≤ 4) && decide (fieldOf x 20 12 = 0) &&
      decide (fieldOf x 288 224 = 0) &&
      (List.range 4).all (fun k => decide (k < n) || decide (fieldOf x (32 + 64 * k) 64 = 0))) sRange
    let (build, f1) := (List.range (min n 4)).foldl (fun (acc : List Col × List Nat) k =>
      match w.colEntry p (fieldOf x (32 + 64 * k) 64) false with
      | (some c, f) => (acc.1 ++ [c], acc.2 ++ f ++ chk (decide (c.cls < 3)) sRange)
      | (none, f) => (acc.1, acc.2 ++ f)) ([], [])
    match w.operand p (fieldOf x 0 16) wr with
    | (none, f2) => (none, fs ++ fixed ++ f1 ++ f2)
    | (some t, f2) =>
      let h := HashHdr.ofNat (w.descLE t 0 64)
      let hok := decide (t.ty = some .uint8) && t.dense1 && decide (64 ≤ t.count) && t.inCellar
      (some { aux := aux, finished := bitOf x 19, build := build, hdrDesc := t, hdr := h, spill := w.desc p h.spill },
        fs ++ fixed ++ f1 ++ f2 ++ chk (hok && w.hashOk p h insert) sRange)

/-- Entries of the spill list: hash and reference (R143). -/
def Work.spillEntries (w : Work) (j : Join) : List (Nat × Nat) :=
  match j.spill with
  | none => []
  | some sp => (List.range (HashHdr.ofNat (w.descLE j.hdrDesc 0 64)).spilled).map (fun k =>
      let x := w.descLE sp (16 * k) 16
      (fieldOf x 0 64, fieldOf x 64 32))

/-- What the entries of the spill list meet. -/
def Work.spillState (w : Work) (j : Join) : RowSt :=
  match j.spill with
  | none => .ok
  | some sp => w.elemsState sp 0 (16 * (HashHdr.ofNat (w.descLE j.hdrDesc 0 64)).spilled)

/-- One build row inserted (R143, R318). -/
def OAcc.buildInsert (a : OAcc) (j : Join) (h r : Nat) : OAcc :=
  let hd := HashHdr.ofNat (a.w.descLE j.hdrDesc 0 64)
  match a.w.findSlot (j.hdr.chain h) with
  | .at addr => a.on ((a.w.writeLE addr 8 (h % 2 ^ 32 + r * 2 ^ 32)).hashCounts j.hdrDesc (hd.entries + 1) hd.spilled)
  | .spill =>
    match j.spill with
    | some sp =>
      (match a.w.elemsState sp (16 * hd.spilled) 16 with
      | .ok =>
        let w := a.w.setDescBytes sp (16 * hd.spilled) (toBytes 16 (h + r * 2 ^ 64))
        { a.on (w.hashCounts j.hdrDesc hd.entries (hd.spilled + 1)) with c4 := a.c4 + 1 }
      | st => a.meets st)
    | none => a
  | .stopped st => a.meets st

/-- The fields that JOIN_BUILD does not use, and those that every mode uses (R303). -/
def buildUnused (o : OpRec) : Bool :=
  decide (o.mode < 3) && decide (o.ncol = 0) && decide (o.inp = noHandle) && decide (o.out = noHandle) &&
  decide (o.outValid = noHandle) && decide (o.out2 = noHandle) && decide (o.arg0 = 0) && decide (o.arg1 = 0) &&
  decide (o.arg2 = 0)

/-- JOIN_BUILD INSERT checked (R318, R319). -/
def Work.joinInsert (w : Work) (d g row0 count : Nat) (o : OpRec) (make : Bool) : OpPlan :=
  let p := w.planOf (.core d g)
  let (sel, f0) := w.opCommon p o row0 count false
  let (j?, f1) := w.joinRec p o true true
  let fs := f0 ++ f1 ++ chk (buildUnused o && decide (row0 + count ≤ absent32)) sRange ++
    (match j? with
    | some j => chk (!j.finished) sState ++ chk (j.build.all (fun c => c.holds row0 count)) sRange ++
        (match j.spill with
        | some sp => chk sp.write sState ++ chk (decide (16 * (j.hdr.spilled + count) ≤ sp.count)) sFull
        | none => [])
    | none => [])
  match j? with
  | some j => .of fs (fun w =>
      let seed := w.joinSeed j
      let a := w.opRows o sel row0 count j.build (fun a r cs =>
        match keyOf cs with
        | none => { a.null with c3 := a.c3 + 1 }
        | some k => if make then a.buildInsert j (vh64 seed k) r else a)
      (a, a.w.bitsSet sel row0 count))
  | none => .fails fs

/-- The failures of FINISH and CLEAR, whose rows and count are ignored (R318). FINISH is refused while FINISHED is 0,
as R319 says (log entry 32). (Log entry 68, DEDUCED.) -/
def Work.joinWhole (w : Work) (p : Nat) (o : OpRec) (finish : Bool) : Option Join × List Nat :=
  let (_, f0) := w.opCommon p o 0 1 false
  let (j?, f1) := w.joinRec p o finish (!finish)
  (j?, f0 ++ f1 ++ chk (buildUnused o) sRange ++
    (match j? with
    | some j => chk (!finish || j.finished) sState ++ chk j.aux.write sState ++
        (if finish then (match j.spill with
        | some sp => chk sp.write sState
        | none => []) else [])
    | none => []))

/-- FINISHED written in the join record. (Log entry 68, DEDUCED.) -/
def Work.setFinished (w : Work) (j : Join) (b : Bool) : Work :=
  let x := w.descLE j.aux 2 1
  w.setDescBytes j.aux 2 (toBytes 1 (x % 8 + (if b then 8 else 0) + x / 16 * 16))

/-- JOIN_BUILD FINISH checked: the spill list sorted by hash and then by reference (R318). A list that meets a poisoned row
or a lost bank is left as it is, and FINISHED too (R155, R159). (Log entry 32, DEDUCED.) -/
def Work.joinFinish (w : Work) (d g : Nat) (o : OpRec) (make : Bool) : OpPlan :=
  match w.joinWhole (w.planOf (.core d g)) o true with
  | (some j, []) => .go (fun w =>
    if make && decide (w.spillState j ≠ .ok) then (({ w := w } : OAcc).meets (w.spillState j), 0)
    else if make then
      let es := sortBy (fun x y => decide (x.1 < y.1) || (decide (x.1 = y.1) && decide (x.2 ≤ y.2))) (w.spillEntries j)
      let w := match j.spill with
        | some sp => w.setDescBytes sp 0 (es.flatMap (fun (e : Nat × Nat) => toBytes 16 (e.1 + e.2 * 2 ^ 64)))
        | none => w
      (({ w := w.setFinished j true } : OAcc), 0)
    else (({ w := w } : OAcc), 0))
  | (_, fs) => .fails fs

/-- The buckets of one part filled with ones; whole rows lose their poison (R138, R153, R318). -/
def Work.clearPart (w : Work) (a nb : Nat) : Work :=
  let w := w.write a (List.replicate (64 * nb) 0xFF)
  { w with bad := w.bad.filter (fun r => !inRange (a / 64) nb r) }

/-- JOIN_BUILD CLEAR checked (R318). -/
def Work.joinClear (w : Work) (d g : Nat) (o : OpRec) (make : Bool) : OpPlan :=
  match w.joinWhole (w.planOf (.core d g)) o false with
  | (some j, []) => .go (fun w =>
    if make then
      let w := (List.range j.hdr.parts).foldl (fun w k => w.clearPart (j.hdr.partAddr k) j.hdr.nb) w
      (({ w := (w.hashCounts j.hdrDesc 0 0).setFinished j false } : OAcc), 0)
    else (({ w := w } : OAcc), 0))
  | (_, fs) => .fails fs

/-- JOIN_BUILD checked, by its mode (R318). -/
def Work.buildPlan (w : Work) (d g row0 count : Nat) (o : OpRec) (make : Bool) : OpPlan :=
  match o.mode with
  | 0 => w.joinInsert d g row0 count o make
  | 1 => w.joinFinish d g o make
  | 2 => w.joinClear d g o make
  | _ => .fails (w.undefinedOp (w.planOf (.core d g)) o)

/-- JOIN_BUILD: an effecting call (R318, R550). -/
def Work.joinBuild (w : Work) (d g row0 count : Nat) (o : OpRec) : Work :=
  let (make, w) := w.effecting d g
  w.opRun d g o (w.buildPlan d g row0 count o make)

/-- What the search of one probe row gives: matches rising, false tag matches, a spill search, what it met, and
reduced references to count (R320). -/
structure Matches where
  refs : List Nat
  falseTags : Nat
  spill : Bool
  st : RowSt
  wraps : Nat

/-- A candidate whose build key is compared: the reference, reduced, whether it was, and the row's cells. -/
def Work.candidate (w : Work) (j : Join) (r : Nat) : Nat × Bool × List CCell :=
  let (k, wr) := reduceIdx (r : Int) (max 1 j.rows)
  (k, wr, j.build.map (fun c => w.cell c k))

/-- The matches of a key (R320); a probe of the absent hash reads no bucket (R142). (Log entry 32, DEDUCED.) -/
def Work.matchesOf (w : Work) (j : Join) (seed : Nat) (key : List Byte) : Matches :=
  let h := vh64 seed key
  let f := if h = absent64 then ⟨[], false, .ok⟩ else w.probeChain (h % 2 ^ 32) (j.hdr.chain h) []
  let spill := if f.overflow then ((w.spillEntries j).filter (fun e => e.1 = h)).map (·.2) else []
  let cand := (f.refs ++ spill).map (w.candidate j)
  let st := cand.foldl (fun (s : RowSt) c => c.2.2.foldl (fun s x => s.worse x.st) s)
    (if f.overflow then f.st.worse (w.spillState j) else f.st)
  let found := cand.filter (fun c => keyOf c.2.2 = some key)
  let counted := match j.build with
    | c :: _ => if c.val.wrap then 0 else (cand.filter (fun c => c.2.1)).length
    | [] => 0
  ⟨sortBy (fun a b => decide (a ≤ b)) (found.map (·.1)), cand.length - found.length, f.overflow, st, counted⟩

/-- Kinds of JOIN_PROBE (R303). -/
abbrev joinInner : Nat := 0
/-- LEFT. -/
abbrev joinLeft : Nat := 1
/-- SEMI. -/
abbrev joinSemi : Nat := 2
/-- ANTI. -/
abbrev joinAnti : Nat := 3

/-- A probe that keeps one reference (R321). -/
def OAcc.probeOne (a : OAcc) (kind : Nat) (out sel : Option Desc) (r : Nat) (refs : List Nat) : OAcc :=
  let write (a : OAcc) (v : Nat) : OAcc :=
    match out with
    | some d => a.store d r true (.int v)
    | none => a
  match refs with
  | x :: xs =>
    let a := { a with c3 := a.c3 + 1, c6 := a.c6 + xs.length }
    if kind = joinAnti then a.unselect sel r else write a x
  | [] =>
    if kind = joinLeft then write a absent32
    else if kind = joinAnti then a else a.unselect sel r

/-- A pair written, and its ordinal where the call has a column for it (R322). -/
def OAcc.pair (a : OAcc) (out out2 : Option Desc) (r x ord : Nat) : OAcc :=
  match out with
  | none => a
  | some d =>
    let a := (a.stores (d.bitAddr [0, a.pairs])).stores (d.bitAddr [1, a.pairs])
    let w := ((a.w.combineAt d (d.bitAddr [0, a.pairs]) r).1.combineAt d (d.bitAddr [1, a.pairs]) x).1
    let a := match out2 with
      | some o => (a.on w).storeU o a.pairs ord
      | none => a.on w
    { a with pairs := a.pairs + 1 }

/-- A probe that writes pairs (R322). -/
def OAcc.probeMany (a : OAcc) (kind limit : Nat) (out out2 : Option Desc) (r : Nat) (refs : List Nat) : OAcc :=
  let take := refs.take limit
  let a := if refs.isEmpty then a else { a with c3 := a.c3 + 1, c6 := a.c6 + (refs.length - take.length) }
  if refs.isEmpty then (if kind = joinLeft then a.pair out out2 r absent32 0 else a)
  else (List.range take.length).foldl (fun a k => a.pair out out2 r (getAt 0 take k) k) a

/-- Probe and build key columns agree (R315). -/
def keysAgree (probe build : List Col) : Bool :=
  decide (probe.length = build.length) && (probe.zip build).all (fun p =>
    decide (p.1.cls = p.2.cls) && decide (p.1.cls < 3) &&
    (decide (p.1.ty = .dict32) == decide (p.2.ty = .dict32)) &&
    (decide (p.1.ty ≠ .dict32) || (decide (p.1.bytesH = p.2.bytesH) && decide (p.1.bytesH ≠ noHandle))))

/-- The outputs of a probe with EXPAND: the pairs and their ordinals (R322). -/
def Work.pairOuts (w : Work) (p : Nat) (o : OpRec) (n : Nat) : Option Desc × Option Desc × List Nat :=
  let (out, f1) := w.operand p o.out true
  let (ord, f2) := w.optDesc p o.out2 true
  (out, ord, f1 ++ f2 ++
    (match out with
    | some d => chk (decide (d.ty = some .uint32) && decide (d.rank = 2) && decide (getAt 0 d.size 0 = 2)) sRange ++
        chk (decide (n ≤ getAt 0 d.size 1)) sFull
    | none => []) ++
    (match ord with
    | some d => chk (decide (d.ty = some .int16)) sRange ++ chk (decide (n ≤ getAt 0 d.size 0)) sFull
    | none => []))

/-- The outputs of a probe without EXPAND (R321). -/
def Work.refOut (w : Work) (p : Nat) (o : OpRec) (kind row0 count : Nat) : Option Desc × List Nat :=
  if o.out = noHandle then (none, chk (decide (kind = joinSemi) || decide (kind = joinAnti)) sState)
  else
    let (d, fs) := w.outColumn p o.out row0 count [.uint32]
    (d, fs ++ chk (decide (kind ≠ joinAnti)) sRange)

/-- JOIN_PROBE checked (R320 to R323). (Log entry 69, DEDUCED.) -/
def Work.probePlan (w : Work) (d g row0 count : Nat) (o : OpRec) : OpPlan :=
  let p := w.planOf (.core d g)
  let kind := o.mode % 4
  let expand := bitOf o.mode 2
  let (sel, f0) := w.opCommon p o row0 count (!expand && decide (kind ≠ joinLeft))
  let (cols, f1) := w.inColumns p o row0 count [0, 1, 2]
  let (j?, f2) := w.joinRec p o false false
  let (out, ord, f3) :=
    if expand then w.pairOuts p o (count * o.arg0)
    else
      let (x, f) := w.refOut p o kind row0 count
      (x, none, f ++ (w.optDesc p o.out2 true).2)
  let fs := f0 ++ f1 ++ f2 ++ f3 ++
    chk (decide (o.mode < 8) && decide (1 ≤ o.ncol) && decide (o.ncol ≤ 4) && decide (o.outValid = noHandle) &&
      decide (o.arg1 = 0) && decide (o.arg2 = 0) &&
      (if expand then decide (kind ≤ joinLeft) && decide (1 ≤ o.arg0) && decide (o.arg0 ≤ 65535)
       else decide (o.arg0 = 0))) sRange ++
    (match j? with
    | some j => chk j.finished sState ++ chk (keysAgree cols j.build) sRange
    | none => [])
  match j?, fs with
  | some j, [] => .go (fun w =>
    let seed := w.joinSeed j
    let a := w.opRows o sel row0 count cols (fun a r cs =>
      let m := match keyOf cs with
        | some k => a.w.matchesOf j seed k
        | none => ⟨[], 0, false, .ok, 0⟩
      let a := if (keyOf cs).isNone then a.null else a
      let a := { a with c4 := a.c4 + m.falseTags, c5 := a.c5 + (if m.spill then 1 else 0), wraps := a.wraps + m.wraps }
      match m.st with
      | .ok =>
        if expand then a.probeMany kind o.arg0 out ord r m.refs else a.probeOne kind out sel r m.refs
      | st => a.corrupt o sel r st)
    (a, if expand then a.pairs else a.w.bitsSet sel row0 count))
  | _, _ => .fails fs

/-- JOIN_PROBE. (Log entry 69, DEDUCED.) -/
def Work.joinProbeOp (w : Work) (d g row0 count : Nat) (o : OpRec) : Work := w.opRun d g o (w.probePlan d g row0 count o)

/-! ## GATHER (R324) -/

/-- What one row of GATHER takes: the source element, or null, and what was met. -/
structure Gathered where
  absent : Bool
  null : Bool
  raw : Nat
  bytes : List Byte
  st : RowSt
  wraps : Nat

/-- The element that a reference names (R324, R113). (Log entry 71, DEDUCED.) -/
def Work.gatherRow (w : Work) (refs src : Col) (r : Nat) : Gathered :=
  let c := w.cell refs r
  let x := match c.v with
    | .int i => i.toNat
    | _ => 0
  if c.st ≠ .ok then ⟨false, true, 0, [], c.st, 0⟩
  else if c.null ∨ x = absent32 then ⟨true, true, 0, [], .ok, 0⟩
  else
    let (k, wr) := reduceIdx (x : Int) (max 1 src.rows)
    let s := w.cell src k
    let bytes := match s.v with
      | .bytes b => b
      | _ => []
    ⟨false, s.null, (w.at0 src.val k).1, if s.null then [] else bytes, s.st,
      s.wraps + (if wr && !src.val.wrap then 1 else 0)⟩

/-- The outputs of GATHER: of the source's type, or offsets and bytes for VARBIN (R324). (Log entry 71, DEDUCED.) -/
def Work.gatherOuts (w : Work) (p : Nat) (o : OpRec) (src : Option Col) (row0 count : Nat) :
    Option Desc × Option Desc × List Nat :=
  match src with
  | none => (none, none, [])
  | some s =>
    if s.ty = .varbin then
      let (out, f0) := w.outColumn p o.out row0 count [.uint32]
      let f1 := f0 ++ (match out with
        | some x => if x.holds row0 count then chk (x.holds row0 (count + 1)) sFull else []
        | none => [])
      let (b, f2) := w.operand p o.out2 true
      (out, b, f1 ++ f2 ++ (match b with
        | some x => chk (decide (x.ty = some .uint8)) sRange
        | none => []))
    else
      let (out, f1) := w.outColumn p o.out row0 count [s.ty]
      (out, none, f1 ++ chk (decide (o.out2 = noHandle)) sRange)

/-- The bytes that a packed output needs for the rows of a call (R324). -/
def Work.gatherNeed (w : Work) (sel : Option Desc) (refs src : Col) (row0 count : Nat) : Nat :=
  ((List.range count).map (fun k =>
    if w.selected sel (row0 + k) then (w.gatherRow refs src (row0 + k)).bytes.length else 0)).foldl (· + ·) 0

/-- One row of a packed VARBIN output: its bytes, and where they end (R306, R324). -/
def OAcc.packRow (a : OAcc) (out bytes : Desc) (r : Nat) (bs : List Byte) : OAcc :=
  let lo := (a.w.at0 out r).1
  let w := a.w.setDescBytes bytes lo bs
  let a := (a.meetsOut bytes lo bs.length).stores (out.bitAddr [r + 1])
  a.on (w.writeBits (out.bitAddr [r + 1]) 32 (lo + bs.length))

/-- One row of GATHER. -/
def OAcc.gatherOne (a : OAcc) (o : OpRec) (sel out valid bytes : Option Desc) (r : Nat) (x : Gathered) : OAcc :=
  let a := { a with wraps := a.wraps + x.wraps, rowsIn := a.rowsIn + 1 }
  match x.st, out with
  | .ok, some d =>
    let a := if x.null then a.null else a
    let a := if x.absent then { a with c3 := a.c3 + 1 } else a
    let a := match bytes with
      | some b => a.packRow d b r x.bytes
      | none =>
        let a := a.stores (d.bitAddr [r])
        let (w, s) := a.w.put0 d r (if x.null then 0 else x.raw)
        { a.on w with sats := a.sats + (if s then 1 else 0) }
    a.bit valid r (!x.null)
  | st, some d =>
    let a := match bytes with
      | some b => a.packRow d b r []
      | none => a
    a.corrupt o sel r st
  | _, none => a

/-- GATHER checked (R324). (Log entry 71, DEDUCED.) -/
def Work.gatherPlan (w : Work) (d g row0 count : Nat) (o : OpRec) : OpPlan :=
  let p := w.planOf (.core d g)
  let (sel, f0) := w.opCommon p o row0 count false
  let (cols, f1) := w.columns p o.inp o.ncol
  let refs := cols[0]?
  let src := if cols.length = 2 then cols[1]? else none
  let (out, bytes, f2) := w.gatherOuts p o src row0 count
  let (valid, f3) := w.outBitmap p o.outValid row0 count
  let fs := f0 ++ f1 ++ f2 ++ f3 ++
    chk (decide (o.mode = 0) && decide (o.ncol = 2) && decide (o.aux = noHandle) && decide (o.arg0 = 0) &&
      decide (o.arg1 = 0) && decide (o.arg2 = 0)) sRange ++
    (match refs with
    | some c => chk (decide (c.ty = .uint32) && c.holds row0 count) sRange
    | none => []) ++
    (match src with
    | some c => chk (decide (c.cls < 3) && decide (1 ≤ c.rows)) sRange
    | none => [])
  match refs, src with
  | some refs, some src =>
    let start := match out with
      | some d => (w.at0 d row0).1
      | none => 0
    let full := match bytes with
      | some b => if fs.isEmpty then chk (decide (start + w.gatherNeed sel refs src row0 count ≤ b.count)) sFull else []
      | none => []
    .of (fs ++ full) (fun w =>
      let a := (List.range count).foldl (fun a k =>
        let r := row0 + k
        if a.w.selected sel r then a.gatherOne o sel out valid bytes r (a.w.gatherRow refs src r)
        else
          match out, bytes with
          | some d, some b => a.packRow d b r []
          | _, _ => a) ({ w := w } : OAcc)
      (a, a.w.bitsSet sel row0 count))
  | _, _ => .fails (if fs.isEmpty then [sRange] else fs)

/-- GATHER. -/
def Work.gatherOp (w : Work) (d g row0 count : Nat) (o : OpRec) : Work := w.opRun d g o (w.gatherPlan d g row0 count o)

/-! ## BUCKETIZE (R325 to R327) -/

/-- The boundaries of a table: 15 or 255 of FP32 for floats, of INT64 otherwise (R81, R325). The table's descriptor is
UINT8 as every AUX block (R301) or has the type of the boundaries. -/
def Work.boundaries (w : Work) (d : Desc) (flt : Bool) (top : Nat) : List EVal :=
  let raw (k n : Nat) := if d.ty = some .uint8 then w.descLE d (n * k) n else w.elem d k
  (List.range top).map (fun k => if flt then .flt (f32 (raw k 4)) else .int (sext 64 (raw k 8)))

/-- The bytes of a boundary table. (Log entry 30, DEDUCED.) -/
def boundaryBytes (flt : Bool) (top : Nat) : Nat := (top + 1) * (if flt then 4 else 8)

/-- A boundary table's handle: long enough and aligned to 64 B (R325). DEDUCED (log entry 30): a descriptor of the
boundaries' own type serves as one of UINT8 does. -/
def Work.boundaryTable (w : Work) (p h : Nat) (flt : Bool) (top : Nat) : Option Desc × List Nat :=
  match w.operand p h false with
  | (some d, fs) =>
    let own : ETy := if flt then .fp32 else .int64
    (some d, fs ++ chk (decide (d.base % 64 = 0) &&
      ((decide (d.ty = some .uint8) && decide (boundaryBytes flt top ≤ d.count)) ||
        (decide (d.ty = some own) && decide (top + 1 ≤ d.count)))) sRange)
  | r => r

/-- A quantile-coded type. -/
def ETy.isQc (t : ETy) : Bool := decide (t = .qc4) || decide (t = .qc8)

/-- The code of a null under R83 and R325. (Log entry 73, DEDUCED.) -/
def nullCode (qc : Bool) (top : Nat) (nanSlot : Bool) (code : Nat) : Nat :=
  if qc then (if nanSlot then top else 0) else code

/-- BUCKETIZE checked (R325 to R327). (Log entry 70, DEDUCED.) -/
def Work.bucketizePlan (w : Work) (d g row0 count : Nat) (o : OpRec) : OpPlan :=
  let p := w.planOf (.core d g)
  let top := if bitOf o.arg0 0 then 255 else 15
  let nanSlot := bitOf o.arg0 1
  let (sel, f0) := w.opCommon p o row0 count false
  let (cols, f1) := w.inColumns p o row0 count [0, 1]
  let flt := match cols with
    | c :: _ => decide (c.cls = 1)
    | [] => false
  let (out, f2) := w.outColumn p o.out row0 count [.qc4, .qc8, .uint8, .int16, .uint32]
  let (valid, f3) := w.outBitmap p o.outValid row0 count
  let (table, tmpl, f4) :=
    if o.mode = 0 then
      let (t, f) := w.boundaryTable p o.aux flt top
      (t, none, f)
    else
      match w.auxBlock p o.aux 64 with
      | (some t, f) =>
        let (c, f5) := w.template p t
        (none, some c, f ++ f5)
      | (none, f) => (none, none, f)
  let qc := match out with
    | some x => (x.ty.getD .uint8).isQc
    | none => false
  let qc4Ok := match out with
    | some x => !(decide (x.ty = some .qc4) && bitOf o.arg0 0)
    | none => true
  let fs := f0 ++ f1 ++ f2 ++ f3 ++ f4 ++
    chk (decide (o.mode < 2) && decide (o.ncol = 1) && decide (o.arg0 < 4) && decide (o.arg2 = 0) &&
      decide (o.out2 = noHandle) && qc4Ok) sRange
  .of fs (fun w =>
    let bounds := match table with
      | some t => w.boundaries t flt top
      | none => []
    let null := nullCode qc top nanSlot (fieldOf o.arg1 0 32)
    let a := w.opRows o sel row0 count cols (fun a r cs =>
      match cs, out with
      | c :: _, some dst =>
        match tmpl with
        | none =>
          if c.null then ((a.null).storeU dst r null).bit valid r false
          else (a.storeU dst r (quantile top nanSlot bounds false c.v.num)).bit valid r true
        | some t =>
          if c.null || c.v.isNan then ((a.null).storeU dst r null).bit valid r false
          else
            let (a, x) := a.lookup t (orderedImage c.v.num)
            let a := if x.isSome then a else { a with c3 := a.c3 + 1 }
            (a.storeU dst r (x.getD (fieldOf o.arg1 32 32))).bit valid r true
      | _, _ => a)
    (a, a.w.bitsSet sel row0 count))

/-- BUCKETIZE. (Log entry 73, DEDUCED.) -/
def Work.bucketizeOp (w : Work) (d g row0 count : Nat) (o : OpRec) : Work := w.opRun d g o (w.bucketizePlan d g row0 count o)

/-! ## NORMALISE (R328 to R332) -/

/-- Fraction bits of the fixed-point arithmetic that encloses log1p. -/
abbrev lnBits : Nat := 320

/-- The sum of t, t^3/3, t^5/5 and so on, n terms, in fixed point. -/
def atanhGo : Nat → Nat → Nat → Nat → Nat
  | 0, _, _, _ => 0
  | n + 1, k, pw, t2 => pw / k + atanhGo n (k + 2) (pw * t2 / 2 ^ lnBits) t2

/-- ln of (1 + a/b) for a at most b, in fixed point. -/
def lnOne (a b : Nat) : Nat :=
  let t := a * 2 ^ lnBits / (2 * b + a)
  2 * atanhGo 110 1 t (t * t / 2 ^ lnBits)

/-- ln of x in fixed point, for x = m 2^e above zero. -/
def lnFixed (m : Nat) (e : Int) : Int :=
  let k := Nat.log2 m
  (e + k) * (lnOne 1 1 : Int) + lnOne (m - 2 ^ k) (2 ^ k)

/-- log1p of an FP32 code: one of the two values between which the exact result lies, the choice free (R329).
(Log entry 5, DESIGN CHOICE.) -/
def log1p (x : Nat) : Nat :=
  match f32 x with
  | .nan => Fmt.fp32.nan
  | .inf s => if s then Fmt.fp32.nan else Fmt.fp32.infCode
  | .fin s m e =>
    if m = 0 then x
    else
      match (FVal.ofInt 1).add (.fin s m e) with
      | .fin s1 m1 e1 =>
        if m1 = 0 then Fmt.fp32.signed true Fmt.fp32.infCode
        else if s1 then Fmt.fp32.nan
        else
          let l := lnFixed m1 e1
          let r := Fmt.fp32.roundMag .rtz (decide (l < 0)) l.natAbs (-(lnBits : Int)) true
          Fmt.fp32.signed (decide (l < 0)) (r.code + Config.log1pPick (BitVec.ofNat 32 x) % 2)
      | _ => Fmt.fp32.nan

/-- The parameter block of R332. -/
structure NormPar where
  a : Nat
  b : Nat
  lo : Nat
  hi : Nat
  table : Nat
  reservedZero : Bool
  deriving DecidableEq, Repr

/-- The fields of R332. -/
def NormPar.ofNat (x : Nat) : NormPar :=
  { a := fieldOf x 0 64, b := fieldOf x 64 32, lo := fieldOf x 96 32, hi := fieldOf x 128 32,
    table := fieldOf x 160 16, reservedZero := decide (fieldOf x 176 336 = 0) }

/-- The clamp of R328: NaN stays, and a value equal to a limit is kept (R73). A NaN limit bounds nothing. DESIGN CHOICE
(log entry 31): crossed limits give a free value. -/
def f32Clamp (lo hi y : Nat) : Nat :=
  let v := f32 y
  if v.isNan then Fmt.fp32.nan
  else if (f32 hi).lt (f32 lo) then (Config.clampCrossed (BitVec.ofNat 32 lo) (BitVec.ofNat 32 hi) (BitVec.ofNat 32 y)).toNat
  else if v.lt (f32 lo) then lo
  else if (f32 hi).lt v then hi
  else y

/-- FP32 of one. -/
abbrev f32One : Nat := 0x3F800000

/-- max(0, min(1, y)) of R328: the limit is the left-hand operand and is kept when equal (R73). -/
def f32Unit (y : Nat) : Nat :=
  let v := f32 y
  if v.isNan then Fmt.fp32.nan
  else if (f32 0).lt v then (if v.lt (f32 f32One) then y else f32One)
  else 0

/-- The result of R328 for an element that is not null, and whether the subtraction saturated. -/
def normalised (o : OpRec) (q : NormPar) (v : CVal) : Nat × Bool :=
  let (d, x, s) := match v with
    | .int i =>
      let (y, s) := clampTo (intMin 64) (intMax 64) (i - sext 64 q.a)
      (Fmt.fp32.round (FVal.ofInt y), Fmt.fp32.round (FVal.ofInt i), s)
    | .flt f =>
      let x := Fmt.fp32.round f
      (f32Sub x (q.a % 2 ^ 32), x, false)
    | .bytes _ => (0, 0, false)
  let y := match o.mode with
    | 0 => x
    | 1 => f32Mul d q.b
    | 2 => f32Unit (f32Mul d q.b)
    | _ => f32Mul (log1p d) q.b
  (if bitOf o.arg0 1 then f32Clamp q.lo q.hi y else y, s)

/-- NORMALISE checked (R328 to R332). -/
def Work.normalisePlan (w : Work) (d g row0 count : Nat) (o : OpRec) : OpPlan :=
  let p := w.planOf (.core d g)
  let top := if bitOf o.arg0 3 then 255 else 15
  let nanSlot := bitOf o.arg0 2
  let (sel, f0) := w.opCommon p o row0 count false
  let (cols, f1) := w.inColumns p o row0 count [0, 1]
  let (out, f2) := w.outColumn p o.out row0 count [.fp32, .bf16, .fp16, .e4m3, .e5m2, .qc4, .qc8]
  let (valid, f3) := w.outBitmap p o.outValid row0 count
  let (aux, f4) := w.auxBlock p o.aux 64
  let q := match aux with
    | some x => NormPar.ofNat (w.descLE x 0 64)
    | none => NormPar.ofNat 0
  let qc := match out with
    | some x => (x.ty.getD .uint8).isQc
    | none => false
  let qc4Ok := match out with
    | some x => !(decide (x.ty = some .qc4) && bitOf o.arg0 3)
    | none => true
  let isFlt := cols.all (fun c => decide (c.cls = 1))
  let (table, f5) :=
    if aux.isNone ∨ out.isNone then (none, [])
    else if qc then
      (if q.table = noHandle then (none, [sRange]) else w.boundaryTable p q.table true top)
    else (none, chk (decide (q.table = noHandle)) sRange)
  let fs := f0 ++ f1 ++ f2 ++ f3 ++ f4 ++ f5 ++
    chk (decide (o.mode < 4) && decide (o.ncol = 1) && decide (o.arg0 < 16) && decide (o.arg1 = 0) &&
      decide (o.arg2 = 0) && decide (o.out2 = noHandle) && qc4Ok) sRange ++
    (if aux.isSome then chk (q.reservedZero && (!isFlt || cols.isEmpty || decide (q.a < 2 ^ 32))) sRange else [])
  .of fs (fun w =>
    let bounds := match table with
      | some t => w.boundaries t true top
      | none => []
    let a := w.opRows o sel row0 count cols (fun a r cs =>
      match cs, out with
      | c :: _, some dst =>
        if c.null then
          let code := if qc then (if nanSlot then top else 0) else 0
          let a := if qc then a.null.storeU dst r code else a.null.store dst r true (.flt .nan)
          a.bit valid r false
        else
          let (y, s) := normalised o q c.v
          let a := { a with sats := a.sats + (if s then 1 else 0), c3 := a.c3 + (if (f32 y).isNan then 1 else 0) }
          let a := if qc then a.storeU dst r (quantile top nanSlot bounds false (.flt (f32 y)))
                   else a.store dst r (bitOf o.arg0 0) (.flt (f32 y))
          a.bit valid r true
      | _, _ => a)
    (a, a.w.bitsSet sel row0 count))

/-- NORMALISE. -/
def Work.normaliseOp (w : Work) (d g row0 count : Nat) (o : OpRec) : Work := w.opRun d g o (w.normalisePlan d g row0 count o)

/-! ## HASH_FEATURE (R333) -/

/-- HASH_FEATURE checked (R333). -/
def Work.hashFeaturePlan (w : Work) (d g row0 count : Nat) (o : OpRec) : OpPlan :=
  let p := w.planOf (.core d g)
  let (sel, f0) := w.opCommon p o row0 count false
  let (cols, f1) := w.inColumns p o row0 count [0, 1, 2]
  let (out, f2) := w.outColumn p o.out row0 count [.uint32]
  let (valid, f3) := w.outBitmap p o.outValid row0 count
  let fs := f0 ++ f1 ++ f2 ++ f3 ++
    chk (decide (o.mode = 0) && decide (1 ≤ o.ncol) && decide (o.ncol ≤ 4) && decide (o.aux = noHandle) &&
      decide (o.out2 = noHandle) && decide (1 ≤ o.arg0) && decide (o.arg2 = 0)) sRange
  .of fs (fun w =>
    let a := w.opRows o sel row0 count cols (fun a r cs =>
      match out with
      | none => a
      | some dst =>
        match keyOf cs with
        | some k => (a.store dst r true (.int (vhRange (vh64 o.arg1 k) o.arg0))).bit valid r true
        | none => (a.null.store dst r true (.int absent32)).bit valid r false)
    (a, a.w.bitsSet sel row0 count))

/-- HASH_FEATURE. (Log entry 73, DEDUCED.) -/
def Work.hashFeatureOp (w : Work) (d g row0 count : Nat) (o : OpRec) : Work := w.opRun d g o (w.hashFeaturePlan d g row0 count o)

/-! ## Rows -/

/-- FILTER (R311). -/
def execFilter (die gc a0 row0 count : Nat) (s : State) : Out :=
  s.perform (.filter die gc a0 row0 count)
    (fun w => w.opRow die gc a0 0xA1 none (fun w o => w.filterOp die gc row0 count o))
/-- JOIN_BUILD INSERT (R318). -/
def execJoinBuildInsert (die gc a0 row0 count : Nat) (s : State) : Out :=
  s.perform (.joinBuildInsert die gc a0 row0 count)
    (fun w => w.opRow die gc a0 0xA2 (some 0) (fun w o => w.joinBuild die gc row0 count o))
/-- JOIN_BUILD FINISH (R318). -/
def execJoinBuildFinish (die gc a0 row0 count : Nat) (s : State) : Out :=
  s.perform (.joinBuildFinish die gc a0 row0 count)
    (fun w => w.opRow die gc a0 0xA2 (some 1) (fun w o => w.joinBuild die gc row0 count o))
/-- JOIN_BUILD CLEAR (R318). -/
def execJoinBuildClear (die gc a0 row0 count : Nat) (s : State) : Out :=
  s.perform (.joinBuildClear die gc a0 row0 count)
    (fun w => w.opRow die gc a0 0xA2 (some 2) (fun w o => w.joinBuild die gc row0 count o))
/-- JOIN_PROBE (R320). -/
def execJoinProbe (die gc a0 row0 count : Nat) (s : State) : Out :=
  s.perform (.joinProbe die gc a0 row0 count)
    (fun w => w.opRow die gc a0 0xA3 none (fun w o => w.joinProbeOp die gc row0 count o))
/-- GATHER (R324). -/
def execGather (die gc a0 row0 count : Nat) (s : State) : Out :=
  s.perform (.gather die gc a0 row0 count)
    (fun w => w.opRow die gc a0 0xA4 none (fun w o => w.gatherOp die gc row0 count o))
/-- BUCKETIZE (R325). -/
def execBucketize (die gc a0 row0 count : Nat) (s : State) : Out :=
  s.perform (.bucketize die gc a0 row0 count)
    (fun w => w.opRow die gc a0 0xA5 none (fun w o => w.bucketizeOp die gc row0 count o))
/-- NORMALISE (R328). -/
def execNormalise (die gc a0 row0 count : Nat) (s : State) : Out :=
  s.perform (.normalise die gc a0 row0 count)
    (fun w => w.opRow die gc a0 0xA6 none (fun w o => w.normaliseOp die gc row0 count o))
/-- HASH_FEATURE (R333). -/
def execHashFeature (die gc a0 row0 count : Nat) (s : State) : Out :=
  s.perform (.hashFeature die gc a0 row0 count)
    (fun w => w.opRow die gc a0 0xA7 none (fun w o => w.hashFeatureOp die gc row0 count o))

end Sys2Proof.Machine
end

