-- ==== Sys2Proof/Machine/Window.lean ====
section
/-! DEFINITION. Windowed aggregates: the header, calls, initial values and folding (R334 to R345). -/

namespace Sys2Proof.Machine

/-! ## The header (R337 to R339) -/

/-- An aggregate with its value slot and count slot (R337). -/
structure Agg where
  num : Nat
  kind : Nat
  inp : Nat
  vslot : Nat
  cslot : Nat
  deriving DecidableEq, Repr

/-- SUM. -/
abbrev aggSum : Nat := 1
/-- MIN. -/
abbrev aggMin : Nat := 2
/-- MAX. -/
abbrev aggMax : Nat := 3
/-- COUNT. -/
abbrev aggCount : Nat := 4
/-- MEAN. -/
abbrev aggMean : Nat := 5

/-- An aggregate keeps a value. -/
def Agg.hasValue (a : Agg) : Bool := decide (a.kind ≠ aggCount)
/-- An aggregate keeps a count. -/
def Agg.hasCount (a : Agg) : Bool := decide (a.kind = aggCount) || decide (a.kind = aggMean)

/-- A window header (R338). -/
structure WinHdr where
  partsCode : Nat
  tick : Bool
  withhold : Bool
  k : Nat
  late : Nat
  ahead : Nat
  e : Nat
  sNs : Nat
  origin : Int
  start : Int
  aggs : List Agg
  parts : List Nat
  wm : Int
  nc : Int
  epochMax : Int
  folds : Nat
  reservedZero : Bool
  deriving DecidableEq, Repr

/-- Slots given to the aggregates of a header in order of their number (R337). -/
def aggSlots (x : Nat) : Nat → Nat → Nat → Nat → List Agg
  | 0, _, _, _ => []
  | n + 1, a, v, c =>
    let b := fieldOf x (320 - 64 + 8 * a) 8
    let kind := b % 16
    if kind = 0 then aggSlots x n (a + 1) v c
    else
      let g : Agg := ⟨a, kind, fieldOf b 4 3, v, c⟩
      g :: aggSlots x n (a + 1) (v + (if g.hasValue then 1 else 0)) (c + (if g.hasCount then 1 else 0))

/-- The header of R338 from its 128 bytes as one number. -/
def WinHdr.ofNat (x : Nat) : WinHdr :=
  { partsCode := fieldOf x 0 2, tick := bitOf x 2, withhold := bitOf x 3, k := fieldOf x 8 6, late := fieldOf x 14 6,
    ahead := fieldOf x 20 6, e := fieldOf x 32 32, sNs := fieldOf x 64 64, origin := sext 64 (fieldOf x 128 64),
    start := sext 64 (fieldOf x 192 64), aggs := aggSlots x 8 0 0 0,
    parts := (List.range 4).map (fun k => fieldOf x (320 + 64 * k) 64),
    wm := sext 64 (fieldOf x 576 64), nc := sext 64 (fieldOf x 640 64), epochMax := sext 64 (fieldOf x 704 64),
    folds := fieldOf x 768 32,
    reservedZero := decide (fieldOf x 4 4 = 0) && decide (fieldOf x 26 6 = 0) && decide (fieldOf x 800 224 = 0) }

/-- RING of R335. -/
def WinHdr.ring (h : WinHdr) : Nat := h.k + h.late + h.ahead
/-- The number of parts. -/
def WinHdr.nparts (h : WinHdr) : Nat := 2 ^ h.partsCode
/-- The pane of an event time (R335). -/
def WinHdr.pane (h : WinHdr) (t : Int) : Int := (t - h.origin) / (h.sNs : Int)
/-- The ring slot of a pane (R335). -/
def WinHdr.slotOf (h : WinHdr) (n : Int) : Nat := (n % (h.ring : Int)).toNat
/-- The base of an area of a part: committed, or working (R337, R338). -/
def WinHdr.base (h : WinHdr) (p : Nat) (working : Bool) : Nat :=
  let x := getAt 0 h.parts p
  cellarOf (fieldOf x 31 2) + (if working then fieldOf x 33 31 else fieldOf x 0 31)
/-- The block of entity index i and ring slot j (R337). -/
def WinHdr.block (h : WinHdr) (p i j : Nat) (working : Bool) : Nat := h.base p working + (i * h.ring + j) * 64

/-- An area lies in its die and in the plan's partition (R338). -/
def Work.areaOk (w : Work) (p : Nat) (h : WinHdr) (k : Nat) (working : Bool) : Bool :=
  let len := h.e * h.ring * 64
  let x := getAt 0 h.parts k
  let off := if working then fieldOf x 33 31 else fieldOf x 0 31
  decide (off % 64 = 0) && decide (off + len ≤ 0x80000000) && w.granted p (h.base k working) len

/-- The ranges of a header's fields (R304, R335, R337, R338). -/
def Work.winOk (w : Work) (p : Nat) (h : WinHdr) : Bool :=
  decide (h.partsCode < 3) && h.reservedZero && decide (1 ≤ h.k) && decide (h.late ≤ 62) &&
  (if h.tick then decide (h.ahead = 0) else decide (1 ≤ h.ahead) && decide (h.ahead ≤ 62)) && decide (h.ring ≤ 64) &&
  decide (1 ≤ h.e) && decide (1 ≤ h.sNs) && decide (h.sNs ≤ 2 ^ 62) && (!h.tick || decide (h.sNs % w.period = 0)) &&
  h.aggs.all (fun a => decide (a.kind ≤ aggMean) && decide (a.inp ≠ 1) &&
    (decide (a.inp ≠ 0) || decide (a.kind = aggCount)) && (!a.hasValue || decide (a.vslot < 8)) &&
    (!a.hasCount || decide (a.cslot < 4))) &&
  (List.range h.nparts).all (fun k => w.areaOk p h k false && w.areaOk p h k true)

/-- The header's aggregate bytes have no reserved bit set (R338). -/
def aggBitsOk (x : Nat) : Bool := (List.range 8).all (fun a => !bitOf x (256 + 8 * a + 7))

/-- A descriptor that may hold a window header: 128 B of UINT8 in the cellar (R338). -/
def Desc.isWinHdr (d : Desc) : Bool := decide (d.ty = some .uint8) && decide (d.count = 128) && d.inCellar

/-- A part of the header written by the engine. -/
def Work.winSet (w : Work) (d : Desc) (off n : Nat) (v : Int) : Work := w.setDescBytes d off (toBytes n (wrapTo (8 * n) v))

/-- EPOCH_MAX before any row of an epoch (R338). -/
def noEpochMax : Int := -(2 ^ 63 : Int)

/-! ## Blocks (R337, R339) -/

/-- FP32 plus infinity. -/
abbrev f32Inf : Nat := 0x7F800000
/-- FP32 minus infinity. -/
abbrev f32NegInf : Nat := 0xFF800000

/-- The identity of an aggregate's value (R339). -/
def Agg.identity (a : Agg) : Nat := if a.kind = aggMin then f32Inf else if a.kind = aggMax then f32NegInf else 0

/-- The bytes of a block at identity (R339). -/
def identityBlock (aggs : List Agg) : List Byte :=
  let v := (List.range 8).map (fun s =>
    match aggs.find? (fun a => a.hasValue && decide (a.vslot = s)) with
    | some a => a.identity
    | none => 0)
  v.flatMap (toBytes 4) ++ List.replicate 32 0

/-- The value slot of a block. -/
def Work.winVal (w : Work) (blk s : Nat) : Nat := (w.readLE (blk + 4 * s) 4).getD 0
/-- The count slot of a block. -/
def Work.winCnt (w : Work) (blk c : Nat) : Nat := (w.readLE (blk + 32 + 8 * c) 8).getD 0

/-- Two values of an aggregate combined (R339, R340, R76). -/
def Agg.join (a : Agg) (x y : Nat) : Nat :=
  let mode := if a.kind = aggMin then 3 else if a.kind = aggMax then 2 else 1
  (combineElem .fp32 mode x y).1

/-! ## Installing and folding (R338, R342 to R345) -/

/-- Both areas of a window at their identity values, and its initial watermark and pane (R338). -/
def Work.windowInstall (w : Work) (d : Desc) : Work :=
  let h := WinHdr.ofNat (w.descLE d 0 128)
  let id_ := identityBlock h.aggs
  let w := (List.range h.nparts).foldl (fun w p =>
    (List.range (h.e * h.ring)).foldl (fun w b =>
      (w.write (h.base p false + 64 * b) id_).write (h.base p true + 64 * b) id_) w) w
  (((w.winSet d 72 8 h.start).winSet d 80 8 (h.pane h.start)).winSet d 88 8 noEpochMax).winSet d 96 4 0

/-- One block folded: the committed elements take the working ones, which return to identity. A row that reads as
zeros or is lost is not altered (R155, R159, R342), and a count held at its greatest is counted (R70, R93).
(Log entry 74, DEDUCED.) -/
def Work.foldBlock (w : Work) (h : WinHdr) (p i j : Nat) : Work :=
  let c := h.block p i j false
  let k := h.block p i j true
  if w.rowState c = .ok ∧ w.rowState k = .ok then
    let w1 := h.aggs.foldl (fun w a =>
      let w := if a.hasValue then w.writeLE (c + 4 * a.vslot) 4 (a.join (w.winVal c a.vslot) (w.winVal k a.vslot)) else w
      if a.hasCount then
        let n := w.winCnt c a.cslot + w.winCnt k a.cslot
        (w.writeLE (c + 32 + 8 * a.cslot) 8 (min n (2 ^ 64 - 1))).countSat (.cellar ((c - cellarBase) / 0x80000000))
          (if 2 ^ 64 ≤ n then 1 else 0)
      else w) w
    let w1 : Work := if w1.read c 64 = w.read c 64 then w1
      else { w1 with marks := { w1.marks with blocks := setInsert w1.marks.blocks c } }
    w1.write k (identityBlock h.aggs)
  else w

/-- A block of the committed area cleared for a new pane (R342). -/
def Work.clearBlock (w : Work) (h : WinHdr) (p i j : Nat) : Work :=
  let c := h.block p i j false
  if w.rowState c = .ok then w.write c (identityBlock h.aggs) else w

/-- A change for every entity of every part. -/
def WinHdr.eachEntity (h : WinHdr) (w : Work) (f : Work → Nat → Nat → Work) : Work :=
  (List.range h.nparts).foldl (fun w p => (List.range h.e).foldl (fun w i => f w p i) w) w

/-- The fold of one window in the commit phase, at the time of the tick; the next delta takes its header and the blocks
that changed (R342, R345, R528). (Log entry 74, DEDUCED.) -/
def Work.windowFold (w : Work) (d : Desc) (tickTime : Int) : Work :=
  let h := WinHdr.ofNat (w.descLE d 0 128)
  let w1 := h.eachEntity w (fun w p i => (List.range (h.late + h.ahead + 1)).foldl (fun w (n : Nat) =>
    w.foldBlock h p i (h.slotOf (h.nc - h.late + n))) w)
  let wm := max h.wm h.epochMax
  let nc := h.pane (if h.tick then tickTime else wm)
  let delta := (nc - h.nc).toNat
  let low := h.nc - h.k - h.late + 1
  let w2 := h.eachEntity w1 (fun w p i => (List.range (min delta h.ring)).foldl (fun w (n : Nat) =>
    w.clearBlock h p i (h.slotOf (low + n))) w)
  let w3 := (((w2.winSet d 72 8 wm).winSet d 80 8 nc).winSet d 88 8 noEpochMax).winSet d 96 4 (h.folds + 1)
  { w3 with marks := { w3.marks with heads := w3.marks.heads ++ [d.byteAt 0] } }

/-- The window headers of a plan, as descriptors. -/
def Work.planWindows (w : Work) (p : Nat) : List Desc :=
  match (w.plan p).image with
  | some i => i.windows.filterMap (fun x => w.desc p x.header)
  | none => []

/-- Each window of a plan that is loaded is folded, whether the plan runs or not (R342); nothing of a FAULTED plan commits
(R296), and a header that reads as zeros is left as it is (R155). (Log entry 74, DEDUCED.) -/
def Work.foldWindows (w : Work) : Work :=
  (List.range 16).foldl (fun w p =>
    let x := w.plan p
    if 1 ≤ w.planState p ∧ w.planState p ≤ 4 ∧ x.faulting = 0 ∧ x.overruns < 3 then
      (w.planWindows p).foldl (fun (w : Work) d =>
        if w.badRows (d.byteAt 0) 128 = 0 then w.windowFold d w.time.lastTick else w) w
    else w) w

/-! ## WINDOW calls (R334 to R341) -/

/-- The output column of an aggregate, with its checks (R303, R304, R340). -/
def Work.aggOut (w : Work) (p : Nat) (l : Option Desc) (a : Agg) (row0 count : Nat) : Option (Agg × Col) × List Nat :=
  match l with
  | none => (none, [])
  | some l =>
    match w.listCol p l a.num true with
    | (none, fs) => (none, fs)
    | (some c, fs) =>
      let tys : List ETy := if a.kind = aggCount then [.uint32, .int64, .fp32] else [.fp32, .bf16, .fp16]
      let vlen := match c.valid with
        | some v => v.holds row0 count
        | none => true
      (some (a, c), fs ++ chk (tys.contains c.ty) sRange ++ chk (c.val.holds row0 count && vlen) sRange ++
        chk (c.val.holds row0 count && vlen) sFull)

/-- Panes n - K + 1 to n of an entity read and combined for an aggregate: the value, and the count (R340). -/
def Work.readPanes (w : Work) (h : WinHdr) (a : Agg) (p i : Nat) (n : Int) : Nat × Nat × Work :=
  let blks := (List.range h.k).map (fun (j : Nat) => h.block p i (h.slotOf (n - j)) false)
  let cnt := if a.hasCount then (blks.map (fun b => w.winCnt b a.cslot)).foldl (· + ·) 0 else 0
  if !a.hasValue then (0, cnt, w)
  else
    let xs := blks.map (fun b => w.winVal b a.vslot)
    if a.kind = aggMin ∨ a.kind = aggMax then (xs.foldl a.join a.identity, cnt, w)
    else
      let (v, w) := w.sumFree xs
      (v, cnt, w)

/-- An FP32 value divided by a count, rounded once (R340). -/
def f32DivNat (v n : Nat) : Nat :=
  match f32 v with
  | .nan => Fmt.fp32.nan
  | .inf s => Fmt.fp32.signed s Fmt.fp32.infCode
  | .fin s m e => Fmt.fp32.signed s (Fmt.fp32.divMag .rne s m n e).code

/-- The result of an aggregate, or none when it is null (R340). -/
def Agg.result (a : Agg) (v cnt : Nat) : Option EVal :=
  if a.kind = aggCount then some (.int cnt)
  else if a.kind = aggMean then
    (if cnt = 0 then none else some (.flt (f32 (f32DivNat v cnt))))
  else if a.kind = aggMin ∧ v = f32Inf then none
  else if a.kind = aggMax ∧ v = f32NegInf then none
  else some (.flt (f32 v))

/-- An aggregate's output written: null as canonical NaN, or zero for a COUNT, with validity clear (R340). -/
def OAcc.aggStore (a : OAcc) (g : Agg) (c : Col) (r : Nat) (v : Option EVal) : OAcc :=
  match v with
  | some x => (a.store c.val r true x).bit c.valid r true
  | none => (a.store c.val r true (if g.kind = aggCount then .int 0 else .flt .nan)).bit c.valid r false

/-- Every aggregate of a row null. -/
def OAcc.aggNulls (a : OAcc) (outs : List (Agg × Col)) (r : Nat) : OAcc :=
  outs.foldl (fun a o => a.aggStore o.1 o.2 r none) a

/-- The aggregates of an accepted row read (R340). -/
def OAcc.aggRead (a : OAcc) (h : WinHdr) (outs : List (Agg × Col)) (p i : Nat) (n : Int) (r : Nat) : OAcc :=
  outs.foldl (fun a o =>
    let (v, cnt, w) := a.w.readPanes h o.1 p i n
    (a.on w).aggStore o.1 o.2 r (o.1.result v cnt)) a

/-- An aggregate's update of the working block of the row's pane (R341, R76, R93): a null input updates nothing.
The float additions of a call take effect at its end, in no fixed order (R94, R310). (Log entry 39, DESIGN CHOICE.) -/
def OAcc.aggUpdate (a : OAcc) (h : WinHdr) (g : Agg) (p i : Nat) (n : Int) (x : Option CCell) : OAcc :=
  let k := h.block p i (h.slotOf n) true
  let null := match x with
    | some c => c.null
    | none => false
  if null then a
  else
    let v := match x with
      | some c => Fmt.fp32.round c.v.num.toF
      | none => 0
    let at_ := k + 4 * g.vslot
    let a := if !g.hasValue then a
      else if g.kind = aggMin ∨ g.kind = aggMax then a.on (a.w.writeLE at_ 4 (g.join (a.w.winVal k g.vslot) v))
      else a.on { a.w with adds := (.fp32, at_, v) :: a.w.adds }
    if g.hasCount then
      let c := a.w.winCnt k g.cslot + 1
      { a.on (a.w.writeLE (k + 32 + 8 * g.cslot) 8 (min c (2 ^ 64 - 1))) with
        sats := a.sats + (if 2 ^ 64 ≤ c then 1 else 0) }
    else a

/-- What a WINDOW call works with. -/
structure WinCall where
  o : OpRec
  sel : Option Desc
  h : WinHdr
  outs : List (Agg × Col)
  read : Bool
  update : Bool
  make : Bool
  tickTime : Int

/-- What the committed blocks that a row reads meet. -/
def Work.panesState (w : Work) (h : WinHdr) (p i : Nat) (n : Int) : RowSt :=
  (List.range h.k).foldl (fun s (j : Nat) => s.worse (w.rowState (h.block p i (h.slotOf (n - j)) false))) RowSt.ok

/-- A row that is accepted (R340, R341): it reads before it updates. -/
def OAcc.winAccepted (a : OAcc) (c : WinCall) (r ent : Nat) (n : Int) (ins : List CCell) : OAcc :=
  let e := ent % (c.h.nparts * c.h.e)
  let p := e % c.h.nparts
  let i := e / c.h.nparts
  let st := if c.read then a.w.panesState c.h p i n else .ok
  match st with
  | .ok | .held =>
    let a := if c.read then a.aggRead c.h c.outs p i n r else a
    if c.update && c.make then
      match a.w.rowState (c.h.block p i (c.h.slotOf n) true) with
      | .ok | .held => c.h.aggs.foldl (fun a g =>
          a.aggUpdate c.h g p i n (if g.inp = 0 then none else ins[g.inp]?)) a
      | .lost => a.fail sNoSpare
      | .bad => a.fail sCheck
      | .unmapped => { a.fail sUnmapped with unm := true }
    else a
  | st => a.corrupt c.o c.sel r st

/-- One row of a WINDOW call, and the event time of a row accepted with UPDATE (R334 to R336, R341, R345).
(Log entry 66, DEDUCED.) -/
def OAcc.winRow (a : OAcc) (c : WinCall) (r : Nat) (ins : List CCell) : OAcc × Option Int :=
  let a := if ins.any (fun x => x.null) then a.null else a
  let ent := match ins with
    | x :: _ => (match x.v with
      | .int i => if x.null ∨ i.toNat = absent32 then none else some i.toNat
      | _ => none)
    | [] => none
  let tm := if c.h.tick then some c.tickTime
    else match ins[1]? with
      | some x => (match x.v with
        | .int i => if x.null then none else some i
        | _ => none)
      | none => none
  match tm with
  | none => (a.aggNulls c.outs r, none)
  | some t =>
    let n := c.h.pane t
    if !c.h.tick && (decide (n < c.h.nc - c.h.late) || decide (c.h.nc + c.h.ahead < n)) then
      let a := if n < c.h.nc - c.h.late then { a with c3 := a.c3 + 1 } else { a with c4 := a.c4 + 1 }
      if c.h.withhold then ({ a with c5 := a.c5 + 1 }.withhold c.o.sel r 11 sReject, none)
      else (a.aggNulls c.outs r, none)
    else
      match ent with
      | some e => (a.winAccepted c r e n ins, some t)
      | none => (a.aggNulls c.outs r, none)

/-- The rows of a WINDOW call, and the largest event time accepted. -/
def Work.winRows (w : Work) (c : WinCall) (row0 count : Nat) (cols : List (Option Col)) : OAcc × Option Int :=
  (List.range count).foldl (fun (acc : OAcc × Option Int) k =>
    let r := row0 + k
    let a := acc.1
    if a.w.selected c.sel r then
      let ins := cols.map (fun x => match x with
        | some c => a.w.cell c r
        | none => ⟨.int 0, false, .ok, 0⟩)
      let a := { a with rowsIn := a.rowsIn + 1, wraps := a.wraps + (ins.map (fun (x : CCell) => x.wraps)).foldl (· + ·) 0 }
      match ins.foldl (fun s x => s.worse x.st) RowSt.ok with
      | .ok =>
        let (a, t) := a.winRow c r ins
        (a, match acc.2, t with
          | some m, some t => some (max m t)
          | none, t => t
          | m, none => m)
      | st => (a.corrupt c.o c.sel r st, acc.2)
    else acc) ({ w := w }, none)

/-- The input columns of a WINDOW call; under TICK entry 1 is not read (R334, R345). (Log entry 75, DEDUCED.) -/
def Work.winColumns (w : Work) (p : Nat) (o : OpRec) (tick : Bool) : List (Option Col) × List Nat :=
  match w.operand p o.inp false with
  | (none, fs) => ([], fs)
  | (some l, fs) =>
    if l.ty = some .uint8 ∧ 64 ≤ l.count then
      (List.range o.ncol).foldl (fun (acc : List (Option Col) × List Nat) k =>
        if tick ∧ k = 1 then (acc.1 ++ [none], acc.2)
        else
          let (c, f) := w.listCol p l k false
          (acc.1 ++ [c], acc.2 ++ f)) ([], fs)
    else ([], fs ++ [sRange])

/-- The types of a WINDOW call's inputs (R304, R308, R334): the entity is UINT32, the event time of the integer class
but DICT32, and a value that is summed or compared a number. -/
def winTypes (h : WinHdr) (cols : List (Option Col)) : Bool :=
  let tyOf (k : Nat) : Option ETy := (cols.getD k none).map Col.ty
  decide (tyOf 0 = some .uint32) &&
  (h.tick || (match tyOf 1 with
    | some t => decide (t.cls = 0) && decide (t ≠ .dict32)
    | none => false)) &&
  h.aggs.all (fun a => decide (a.inp = 0) || (match tyOf a.inp with
    | some t => decide (t.cls < 2) || (decide (a.kind = aggCount) && decide (t.cls = 2))
    | none => false))

/-- WINDOW checked (R334 to R341, R345). (Log entry 75, DEDUCED.) -/
def Work.windowPlan (w : Work) (d g row0 count : Nat) (o : OpRec) (make : Bool) : OpPlan :=
  let p := w.planOf (.core d g)
  let read := bitOf o.mode 0
  let update := bitOf o.mode 1
  let (sel, f0) := w.opCommon p o row0 count false
  let (aux, f1) := w.operand p o.aux false
  let declared := match (w.plan p).image with
    | some i => i.windows.any (fun x => x.header = o.aux)
    | none => false
  let x := match aux with
    | some a => w.descLE a 0 128
    | none => 0
  let h := WinHdr.ofNat x
  let hdrOk := match aux with
    | some a => declared && a.isWinHdr && w.winOk p h && aggBitsOk x
    | none => false
  let (cols, f2) := w.winColumns p o h.tick
  let (list, f3) := if read then w.operand p o.out true else (none, chk (decide (o.out = noHandle)) sRange)
  let outs := if hdrOk then h.aggs.map (fun a => w.aggOut p list a row0 count) else []
  let fs := f0 ++ f1 ++ f2 ++ f3 ++ outs.flatMap (·.2) ++
    (if aux.isSome then chk hdrOk sRange else []) ++
    (match list with
    | some l => chk (decide (l.ty = some .uint8) && decide (64 ≤ l.count)) sRange
    | none => []) ++
    chk (decide (1 ≤ o.mode) && decide (o.mode < 4) && (decide (2 ≤ o.ncol) || (h.tick && decide (o.ncol = 1))) && decide (o.ncol ≤ 8) &&
      decide (o.outValid = noHandle) && decide (o.out2 = noHandle) && decide (o.arg0 = 0) && decide (o.arg1 = 0) &&
      decide (o.arg2 = 0)) sRange ++
    (if f2.isEmpty && hdrOk then chk (winTypes h cols) sRange ++
      chk (cols.all (fun c => match c with
        | some c => c.holds row0 count
        | none => true)) sRange else [])
  .of fs (fun w =>
    let c : WinCall := { o := o, sel := sel, h := h, outs := outs.filterMap (·.1), read := read, update := update,
                         make := make, tickTime := w.time.lastTick }
    let (a, top) := w.winRows c row0 count cols
    let a := match aux, top with
      | some x, some t =>
        if update && make && decide (h.epochMax < t) then
          (match a.w.rowState (x.byteAt 88) with
          | .ok => a.on (a.w.winSet x 88 8 t)
          | st => a.meets st)
        else a
      | _, _ => a
    (a, a.w.bitsSet sel row0 count))

/-- WINDOW: with UPDATE it is an effecting call (R341, R550). -/
def Work.windowOp (w : Work) (d g row0 count : Nat) (o : OpRec) : Work :=
  let (make, w) := if bitOf o.mode 1 then w.effecting d g else (true, w)
  w.opRun d g o (w.windowPlan d g row0 count o make)

/-- WINDOW (R340, R341). -/
def execWindow (die gc a0 row0 count : Nat) (s : State) : Out :=
  s.perform (.window die gc a0 row0 count)
    (fun w => w.opRow die gc a0 0xA8 none (fun w o => w.windowOp die gc row0 count o))

end Sys2Proof.Machine
end

