-- ==== Sys2Proof/Machine/Select.lean ====
section
/-! DEFINITION. Sorting, selection and top-k, and the lists they make (R347 to R369). -/

namespace Sys2Proof.Machine

/-- A selection record (R355). -/
structure SelRec where
  op : Nat
  desc : Bool
  accum : Bool
  nlist : Nat
  key : Nat
  sel : Nat
  out : Nat
  inlist : Nat
  k : Nat
  source : Nat
  stats : Nat
  reservedZero : Bool
  deriving DecidableEq, Repr

/-- The fields of R355. -/
def SelRec.ofRec (r : Rec) : SelRec :=
  { op := recF r 7 0, desc := recB r 8, accum := recB r 9, nlist := recF r 19 16, key := recF r 47 32,
    sel := recF r 63 48, out := recF r 79 64, inlist := recF r 95 80, k := recF r 159 128, source := recF r 191 160,
    stats := recF r 339 288,
    reservedZero := recZero r [(15, 10), (31, 20), (127, 96), (287, 192), (511, 340)] }

/-- The parts of an operator record that the shared operations use. -/
def SelRec.op_ (s : SelRec) : OpRec :=
  { op := s.op, mode := 0, ncol := 0, inp := noHandle, aux := noHandle, sel := s.sel, out := s.out,
    outValid := noHandle, out2 := noHandle, arg0 := 0, arg1 := 0, arg2 := 0, stats := s.stats, reservedZero := true }

/-- The key types of R347. -/
def ETy.sortable (t : ETy) : Bool := decide (t.cls < 2) || decide (t = .fp64)
/-- The key types that widen to FP64. -/
def ETy.sortFlt (t : ETy) : Bool := decide (t.cls = 1) || decide (t = .fp64)

/-- The code of a type (R65). -/
def ETy.code (t : ETy) : Nat := ((List.range 32).find? (fun c => ETy.ofCode c = some t)).getD 0

/-! ## Lists (R358 to R360) -/

/-- An entry: the widened key and the ID. -/
structure SEnt where
  key : Nat
  id_ : Nat
  deriving DecidableEq, Repr

/-- A result list (R358). Sums are 64-bit codes of the key's class. -/
structure SList where
  k : Nat
  keyType : Nat
  desc : Bool
  source : Nat
  selSum : Nat
  leftSum : Nat
  tie : Nat
  dup : Nat
  total : Nat
  ents : List SEnt
  deriving DecidableEq, Repr

/-- Keys of the class are FP64. -/
def keyFlt (keyType : Nat) : Bool :=
  match ETy.ofCode keyType with
  | some t => t.sortFlt
  | none => false

/-- The widened key of a value (R347). -/
def CVal.sortKey : CVal → Nat
  | .int i => wrapTo 64 i
  | .flt v => Fmt.fp64.round v
  | .bytes _ => 0

/-- The first key is strictly before the second in a direction (R350, R73). -/
def keyBefore (flt desc : Bool) (a b : Nat) : Bool :=
  let lt (x y : Nat) : Bool :=
    if flt then (Fmt.fp64.decode x).lt (Fmt.fp64.decode y) else decide (sext 64 x < sext 64 y)
  if desc then lt b a else lt a b

/-- The order of R350: by key in the direction, equal keys by rising ID. -/
def SEnt.before (flt desc : Bool) (a b : SEnt) : Bool :=
  keyBefore flt desc a.key b.key || (!keyBefore flt desc b.key a.key && decide (a.id_ < b.id_))

/-- The keys are equal in value. -/
def keyEq (flt : Bool) (a b : Nat) : Bool := !keyBefore flt false a b && !keyBefore flt false b a

/-- The entries in the order of R350. -/
def sortEnts (flt desc : Bool) (es : List SEnt) : List SEnt := sortBy (fun a b => !b.before flt desc a) es

/-- The entries stand in strict order, with no ID repeated (R356); a NaN key has no place in the order (R348, R350). -/
def entsOk (flt desc : Bool) : List SEnt → Bool
  | [] => true
  | a :: es =>
    !(flt && (Fmt.fp64.decode a.key).isNan) && (match es with
    | b :: _ => a.before flt desc b
    | [] => true) && es.all (fun b => decide (b.id_ ≠ a.id_)) && entsOk flt desc es

/-- The FP64 sum of two codes. (Log entry 39, DESIGN CHOICE.) -/
def f64Add (a b : Nat) : Nat := Fmt.fp64.round ((Fmt.fp64.decode a).add (Fmt.fp64.decode b))
/-- The FP64 negation of a code. -/
def f64Neg (a : Nat) : Nat := a ^^^ 2 ^ 63

/-- The sum of codes less the sum of others: exact and saturated for integers; for floats in no fixed order (R360).
The second part counts a saturation (R70). (Log entry 76, DEDUCED.) -/
def Work.sumKeys (w : Work) (flt : Bool) (plus minus : List Nat) : Nat × Nat × Work :=
  if flt then
    let xs := plus ++ minus.map f64Neg
    let (v, c) := reduceFree f64Add xs.length w.free xs
    (v, 0, { w with free := c })
  else
    let tot (l : List Nat) : Int := (l.map (sext 64)).foldl (· + ·) 0
    let (v, s) := clampTo (intMin 64) (intMax 64) (tot plus - tot minus)
    (wrapTo 64 v, if s then 1 else 0, w)

/-- The header bytes of a list (R358). -/
def SList.header (l : SList) : List Byte :=
  toBytes 4 l.k ++ toBytes 4 l.ents.length ++ toBytes 4 (l.keyType + (if l.desc then 32 else 0)) ++ toBytes 4 l.source ++
  toBytes 8 l.selSum ++ toBytes 8 l.leftSum ++ toBytes 4 (min l.tie 0xFFFFFFFF) ++ toBytes 4 (min l.dup 0xFFFFFFFF) ++
  toBytes 8 l.total ++ List.replicate 16 0

/-- The bytes of a slot. -/
def SEnt.slot (e : SEnt) : List Byte := toBytes 8 e.key ++ toBytes 8 e.id_

/-- The absent entry of a class (R359). -/
def absentEnt (flt : Bool) : SEnt := ⟨if flt then Fmt.fp64.nan else 2 ^ 63, absent64⟩

/-- A list written whole: entries, then absent slots (R358, R359). -/
def Work.writeList (w : Work) (d : Desc) (l : SList) : Work :=
  let pad := List.replicate (l.k - l.ents.length) (absentEnt (keyFlt l.keyType))
  w.setDescBytes d 0 (l.header ++ (l.ents ++ pad).flatMap SEnt.slot)

/-- A list read: the list, N of its header, and whether it is well formed (R356, R358). (Log entry 76, DEDUCED.) -/
def Work.readList (w : Work) (d : Desc) : SList × Bool :=
  let h := w.descLE d 0 64
  let k := fieldOf h 0 32
  let n := fieldOf h 32 32
  let ty := fieldOf h 64 5
  let fits := decide (64 + 16 * k ≤ d.count) && decide (n ≤ k)
  let ents := if fits then (List.range n).map (fun i =>
      let x := w.descLE d (64 + 16 * i) 16
      SEnt.mk (fieldOf x 0 64) (fieldOf x 64 64)) else []
  let tyOk := match ETy.ofCode ty with
    | some t => t.sortable
    | none => false
  ({ k := k, keyType := ty, desc := bitOf h 69, source := fieldOf h 96 32, selSum := fieldOf h 128 64,
     leftSum := fieldOf h 192 64, tie := fieldOf h 256 32, dup := fieldOf h 288 32, total := fieldOf h 320 64,
     ents := ents },
   decide (d.ty = some .uint8) && fits && tyOk && decide (fieldOf h 70 26 = 0) && decide (fieldOf h 384 128 = 0))

/-- What the bytes of a list with k slots meet. (Log entry 76, DEDUCED.) -/
def Work.listMeets (w : Work) (d : Desc) (k : Nat) : RowSt := w.elemsState d 0 (min d.count (64 + 16 * k))

/-- What reading a list meets: its header and the slots that the header gives it. (Log entry 76, DEDUCED.) -/
def Work.listState (w : Work) (d : Desc) : RowSt :=
  match w.listMeets d 0 with
  | .ok => w.listMeets d (w.descLE d 0 4)
  | st => st

/-! ## Selecting and merging (R361 to R368) -/

/-- Entries without repeated IDs, the first copy kept; and the discarded copies. -/
def distinct : List SEnt → List Nat → List SEnt × List SEnt
  | [], _ => ([], [])
  | e :: es, seen =>
    if seen.contains e.id_ then
      let (a, b) := distinct es seen
      (a, e :: b)
    else
      let (a, b) := distinct es (e.id_ :: seen)
      (e :: a, b)

/-- The list that a call's own valid rows make, given in row order, and the sums that saturated; `k` is none for SORT
(R360 to R364, R366). -/
def Work.selectRows (w : Work) (keyType : Nat) (desc : Bool) (k : Option Nat) (count source : Nat) (rows : List SEnt) :
    SList × Nat × Work :=
  let flt := keyFlt keyType
  let (es, gone) := distinct rows []
  let sorted := sortEnts flt desc es
  let out := match k with
    | some n => sorted.take n
    | none => sorted
  let left := match k with
    | some n => sorted.drop n
    | none => []
  let (sel, s1, w) := w.sumKeys flt (out.map (·.key)) []
  let (lsum, s2, w) := w.sumKeys flt (left.map (·.key)) []
  let tie := match out.getLast? with
    | some e => (left.filter (fun x => keyEq flt x.key e.key)).length
    | none => 0
  ({ k := k.getD count, keyType := keyType, desc := desc, source := source, selSum := sel, leftSum := lsum, tie := tie,
     dup := gone.length, total := es.length, ents := out }, s1 + s2, w)

/-- The merge of lists in rising rank, the copies discarded and the sums that saturated; `k` zero keeps every entry
(R360, R365, R366). -/
def Work.mergeLists (w : Work) (ls : List SList) (k source keyType : Nat) (desc : Bool) : SList × Nat × Nat × Work :=
  let flt := keyFlt keyType
  let (seen, gone) := distinct (ls.flatMap (·.ents)) []
  let sorted := sortEnts flt desc seen
  let out := if k = 0 then sorted else sorted.take k
  let rest := if k = 0 then [] else sorted.drop k
  let tie := match out.getLast? with
    | some e =>
      if k ≠ 0 ∧ out.length = k then
        (rest.filter (fun x => keyEq flt x.key e.key)).length +
          ((ls.filter (fun l => decide (l.ents.length = l.k) && (match l.ents.getLast? with
            | some x => keyEq flt x.key e.key
            | none => false))).map (·.tie)).foldl (· + ·) 0
      else 0
    | none => 0
  let (sel, s1, w) := w.sumKeys flt (out.map (·.key)) []
  let (lsum, s2, w) :=
    if flt then
      let (total, _, w) := w.sumKeys flt (ls.flatMap (fun l => [l.selSum, l.leftSum])) (gone.map (·.key))
      (f64Add total (f64Neg sel), 0, w)
    else w.sumKeys flt (ls.flatMap (fun l => [l.selSum, l.leftSum])) (gone.map (·.key) ++ [sel])
  let sumOf (f : SList → Nat) : Nat := (ls.map f).foldl (· + ·) 0
  ({ k := if k = 0 then sumOf (·.ents.length) else k, keyType := keyType, desc := desc, source := source, selSum := sel,
     leftSum := lsum, tie := tie, dup := sumOf (·.dup) + gone.length, total := sumOf (·.total) - gone.length,
     ents := out }, gone.length, s1 + s2, w)

/-! ## Calls (R354, R356, R357) -/

/-- The key and ID columns of a record with their checks (R355, R356). -/
def Work.keyColumns (w : Work) (p : Nat) (o : SelRec) (row0 count : Nat) : Option Col × Option Col × List Nat :=
  match w.operand p o.key false with
  | (none, fs) => (none, none, fs)
  | (some l, fs) =>
    if l.ty = some .uint8 ∧ 64 ≤ l.count then
      let (k, f1) := w.listCol p l 0 false
      let (i, f2) := if w.descLE l 8 2 = noHandle then (none, []) else w.listCol p l 1 false
      (k, i, fs ++ f1 ++ f2 ++
        (match k with
        | some c => chk (c.ty.sortable && c.holds row0 count) sRange
        | none => []) ++
        (match i with
        | some c => chk ((decide (c.ty = .uint32) || decide (c.ty = .int64)) && c.holds row0 count) sRange
        | none => []))
    else (none, none, fs ++ [sRange])

/-- The ID of a row, or none when it makes the key invalid (R348, R349). -/
def rowId (idCol : Option Col) (c : Option CCell) (r : Nat) : Option Nat :=
  match idCol, c with
  | some col, some x =>
    (match x.v with
    | .int i =>
      let v := wrapTo 64 i
      if x.null ∨ v = (if col.ty = .uint32 then absent32 else absent64) then none else some v
    | _ => none)
  | _, _ => some r

/-- The valid rows of a call in row order (R348). -/
def Work.validRows (w : Work) (o : OpRec) (sel : Option Desc) (row0 count : Nat) (key : Col) (id_ : Option Col) :
    OAcc × List SEnt :=
  (List.range count).foldl (fun (acc : OAcc × List SEnt) k =>
    let r := row0 + k
    let a := acc.1
    if a.w.selected sel r then
      let a := { a with rowsIn := a.rowsIn + 1 }
      let c := a.w.cell key r
      let ic := id_.map (fun x => a.w.cell x r)
      match c.st.worse ((ic.map (·.st)).getD .ok) with
      | .ok =>
        (match rowId id_ ic r with
        | some i => if c.null || c.v.isNan then (a.null, acc.2) else (a, acc.2 ++ [⟨c.v.sortKey, i⟩])
        | none => (a.null, acc.2))
      | st => (a.null.corrupt o sel r st, acc.2)
    else acc) ({ w := w }, [])

/-- The result list written: TIE_SPILL when entries were left out at the last key (R362); the call hands on its
entries. A list that meets no memory or a lost bank is reported (R115, R159), and saturated sums are counted (R70). -/
def OAcc.listed (a : OAcc) (out : Desc) (l : SList) (dups sats : Nat) : OAcc × Nat :=
  let a := match a.w.listMeets out l.k with
    | .unmapped => a.meets .unmapped
    | .lost => a.meets .lost
    | _ => a
  let a := { a.on (a.w.writeList out l) with c3 := l.tie, c4 := dups, sats := a.sats + sats }
  ({ a with fails := if l.tie = 0 ∨ !a.fails.isEmpty then a.fails else [sTie] }, l.ents.length)

/-- The failure that an input list's memory gives. -/
def stFail : RowSt → List Nat
  | .ok | .held => []
  | .bad => [sCheck]
  | .lost => [sNoSpare]
  | .unmapped => [sUnmapped]

/-- SORT and TOPK checked (R361 to R364). -/
def Work.selectPlan (w : Work) (d g row0 count : Nat) (o : SelRec) : OpPlan :=
  let p := w.planOf (.core d g)
  let sort := decide (o.op = 0xC1)
  let (sel, f0) := w.opCommon p o.op_ row0 count false
  let (key, id_, f1) := w.keyColumns p o row0 count
  let (out, f2) := w.operand p o.out true
  let keyType := match key with
    | some c => c.ty.code
    | none => 0
  let need := if sort then count else o.k
  let old := match out with
    | some x => w.readList x
    | none => ({ k := 0, keyType := 0, desc := false, source := 0, selSum := 0, leftSum := 0, tie := 0, dup := 0,
                 total := 0, ents := [] }, false)
  let met := match out with
    | some x => if o.accum then w.listState x else .ok
    | none => .ok
  let accumOk := !o.accum || decide (met ≠ .ok) || (old.2 && decide (old.1.k = o.k) && decide (old.1.keyType = keyType) &&
    decide (old.1.desc = o.desc))
  let fs := f0 ++ f1 ++ f2 ++
    chk (o.reservedZero && decide (o.nlist = 0) && decide (o.inlist = noHandle) &&
      (if sort then decide (o.k = 0) && !o.accum && decide (count ≤ 16384)
       else decide (1 ≤ o.k) && decide (o.k ≤ 4096))) sRange ++
    (match out with
    | some x => chk (decide (x.ty = some .uint8)) sRange ++ chk (decide (64 + 16 * need ≤ x.count)) sFull
    | none => []) ++
    (if out.isSome && key.isSome then chk accumOk sRange else [])
  match key, out, fs with
  | some key, some dst, [] =>
    let lf := stFail met
    .of lf (fun w =>
      let (a, rows) := w.validRows o.op_ sel row0 count key id_
      let (l, s1, w1) := a.w.selectRows keyType o.desc (if sort then none else some o.k) count o.source rows
      if o.accum then
        let (m, dups, s2, w2) := w1.mergeLists [{ old.1 with source := o.source }, l] o.k o.source keyType o.desc
        (a.on w2).listed dst m (dups + l.dup) (s1 + s2)
      else (a.on w1).listed dst l l.dup s1)
  | _, _, _ => .fails fs

/-- The lists that INLIST names, in order, with the checks of R356; of a list that cannot be read nothing more is checked. -/
def Work.inLists (w : Work) (p : Nat) (o : SelRec) : List SList × List Nat :=
  match w.operand p o.inlist false with
  | (none, fs) => ([], fs)
  | (some d, fs) =>
    if d.ty = some .int16 ∧ o.nlist ≤ d.count then
      (List.range o.nlist).foldl (fun (acc : List SList × List Nat) k =>
        match w.operand p (w.elem d k) false with
        | (none, f) => (acc.1, acc.2 ++ f)
        | (some x, f) =>
          let (l, ok) := w.readList x
          let st := stFail (w.listState x)
          if st.isEmpty then (acc.1 ++ [l], acc.2 ++ f ++ chk (ok && entsOk (keyFlt l.keyType) l.desc l.ents) sRange)
          else (acc.1, acc.2 ++ f ++ st)) ([], fs)
    else ([], fs ++ [sRange])

/-- MERGE checked (R365, R366). (Log entry 76, DEDUCED.) -/
def Work.mergePlan (w : Work) (d g count : Nat) (o : SelRec) : OpPlan :=
  let p := w.planOf (.core d g)
  let (ls, f1) := w.inLists p o
  let (out, f2) := w.operand p o.out true
  let keyType := match ls with
    | l :: _ => l.keyType
    | [] => 0
  let need := if o.k = 0 then (ls.map (·.k)).foldl (· + ·) 0 else o.k
  let fs := f1 ++ f2 ++
    chk (o.reservedZero && statsOk o.stats && decide (count = 0) && decide (1 ≤ o.nlist) && decide (o.nlist ≤ 16) &&
      !o.accum && decide (o.key = noHandle) && decide (o.sel = noHandle) && decide (o.k ≤ 16777215) &&
      ls.all (fun l => decide (l.keyType = keyType) && decide (l.desc = o.desc) &&
        (decide (o.k = 0) || decide (o.k ≤ l.k)))) sRange ++
    (match out with
    | some x => chk (decide (x.ty = some .uint8)) sRange ++ chk (decide (64 + 16 * need ≤ x.count)) sFull
    | none => [])
  match out, fs with
  | some dst, [] => .go (fun w =>
    let ranked := sortBy (fun a b => decide (a.source ≤ b.source)) ls
    let (m, dups, s1, w1) := w.mergeLists ranked o.k o.source keyType o.desc
    ({ w := w1, rowsIn := (ls.map (·.ents.length)).foldl (· + ·) 0 } : OAcc).listed dst m dups s1)
  | _, _ => .fails fs

/-- A selection call by its OP (R354). (Log entry 61, DESIGN CHOICE.) -/
def Work.selCall (w : Work) (d g a0 row0 count : Nat) (want : Option Nat) : Work :=
  match w.callRecord d g a0 64 64 with
  | none => w.opFail d g [sRange]
  | some bs =>
    let o := SelRec.ofRec (BitVec.ofNat 512 (ofBytes bs))
    if want.isSome ∧ want ≠ some o.op then w
    else
      match o.op with
      | 0xC1 | 0xC2 => w.opRun d g o.op_ (w.selectPlan d g row0 count o)
      | 0xC3 => w.opRun d g o.op_ (w.mergePlan d g count o)
      | _ =>
        let p := w.planOf (.core d g)
        w.opFail d g ([sRange] ++ (w.operand p o.out true).2 ++ (w.optDesc p o.key false).2 ++ (w.optDesc p o.sel false).2 ++
          (w.optDesc p o.inlist false).2)

/-- SORT (R364). -/
def execSort (die gc a0 row0 count : Nat) (s : State) : Out :=
  s.perform (.sort die gc a0 row0 count) (fun w => w.coreRow die gc (fun w => w.selCall die gc a0 row0 count (some 0xC1)))
/-- TOPK (R361). -/
def execTopk (die gc a0 row0 count : Nat) (s : State) : Out :=
  s.perform (.topk die gc a0 row0 count) (fun w => w.coreRow die gc (fun w => w.selCall die gc a0 row0 count (some 0xC2)))
/-- MERGE (R365). -/
def execMerge (die gc a0 row0 count : Nat) (s : State) : Out :=
  s.perform (.merge die gc a0 row0 count) (fun w => w.coreRow die gc (fun w => w.selCall die gc a0 row0 count (some 0xC3)))

end Sys2Proof.Machine
end

