-- ==== Sys2Proof/Machine/Ctrl.lean ====
section
/-! DEFINITION. How a message that has reached this device is taken: whose it is, which control commands are accepted,
and how the orders of several masters are resolved (R511 to R518, R527, R540, R541). -/

namespace Sys2Proof.Machine

/-! ## Headers -/

/-- The 32 bytes of a message header (R503). -/
def headerBytes (h : KHdr) : List Byte :=
  toBytes 32 (h.cls % 8 + h.typ % 256 * 2 ^ 8 + h.srcDev % 512 * 2 ^ 16 + h.srcSess % 8 * 2 ^ 25 + h.dstDev % 512 * 2 ^ 28 +
    h.dstSess % 8 * 2 ^ 37 + h.hops % 16 * 2 ^ 40 + h.flow % 65536 * 2 ^ 48 + h.len % 16384 * 2 ^ 64 +
    h.tag % 2 ^ 32 * 2 ^ 96 + h.tick % 2 ^ 64 * 2 ^ 128)

/-- The header that 32 bytes spell, and whether its reserved fields are zero and its class is defined (R503, R504). -/
def headerOf (bs : List Byte) : KHdr × Bool :=
  let x := ofBytes (slice bs 0 32)
  ({ cls := fieldOf x 0 3, typ := fieldOf x 8 8, srcDev := fieldOf x 16 9, srcSess := fieldOf x 25 3,
     dstDev := fieldOf x 28 9, dstSess := fieldOf x 37 3, hops := fieldOf x 40 4, flow := fieldOf x 48 16,
     len := fieldOf x 64 14, tag := fieldOf x 96 32, tick := fieldOf x 128 64 },
   decide (fieldOf x 0 3 < 6) && decide (fieldOf x 3 5 = 0) && decide (fieldOf x 44 4 = 0) && decide (fieldOf x 78 18 = 0) &&
     decide (fieldOf x 192 64 = 0))

/-! ## Pairs (R524 to R527) -/

/-- Roles of TWN_STATE. -/
def Work.isMirror (w : Work) : Bool := w.rdB F.twnStateRole 0 0
/-- This device is one of a pair. -/
def Work.paired (w : Work) : Bool := w.rdB F.twnCfgEn 0 0
/-- The twin partner's device id. -/
def Work.partner (w : Work) : Nat := w.dv F.twnCfgPartner
/-- TWN_STATE.PAIR: SOLO. -/
abbrev pairSolo : Nat := 0
/-- SYNCING. -/
abbrev pairSyncing : Nat := 1
/-- MIRRORED. -/
abbrev pairMirrored : Nat := 2
/-- FAILING_OVER. -/
abbrev pairFailing : Nat := 3
/-- The pair state. -/
def Work.pairState (w : Work) : Nat := w.dv F.twnStatePair
/-- The pair state changed, with its event (source 85). -/
def Work.setPair (w : Work) (st : Nat) : Work :=
  let old := w.pairState
  if old = st then w else (w.wr F.twnStatePair 0 0 st).event 85 sOk (old + st * 4)

/-- The twin ports that are UP, rising. -/
def Work.twinPorts (w : Work) : List Nat :=
  (List.range 24).filter (fun p => decide (w.rd F.klPortCfgRole 0 p = 2) && decide (w.klState p = klUp))

/-- A message to the pair's ids that a MIRROR passes to the ACTIVE, by a twin port that its flow selects (R527); while
the pair fails over it is lost (R509). -/
def Work.toActive (w : Work) (m : Msg) : Work :=
  match w.twinPorts with
  | [] => { w.bump F.fabStatNoRoute 0 0 with noRoute := w.noRoute + 1 }
  | ps =>
    let p := getAt 0 ps (m.h.flow % ps.length)
    if w.pairState = pairFailing then w.bump F.klStatLostDown 0 p else w.enqueue p m

/-- A device id that messages to this device carry (R527): its own, and its partner's while it is ACTIVE. -/
def Work.ownId (w : Work) (d : Nat) : Bool :=
  decide (d = w.deviceId) || (w.paired && !w.isMirror && decide (d = w.partner))

/-- What a MIRROR handles itself (R527). -/
def Work.mirrorHandles (w : Work) (h : KHdr) : Bool :=
  decide (h.cls = clsTwin) || decide (h.cls = clsTime) || (decide (h.cls = clsCtrl) && decide (h.typ = 0x30)) ||
  (decide (h.dstDev = w.deviceId) &&
    ((decide (h.cls = clsCtrl) && [0x02, 0x0B, 0x0C, 0x06].contains h.typ) ||
      (decide (h.cls = clsResp) && decide (h.typ = 1))))

/-- A message forwarded: HOPS falls, and the message is discarded and counted when it reaches zero (R513). -/
def Work.forward (w : Work) (m : Msg) : Work :=
  if m.h.hops ≤ 1 then w.bump F.fabStatHopDrop 0 0 else w.route { m with h := { m.h with hops := m.h.hops - 1 } }

/-- A message that has reached this device: another's is forwarded, the pair's is passed to the ACTIVE by a MIRROR, and
one for a host session goes to the bridge (R513, R521, R527). -/
def Work.arrive (w : Work) (m : Msg) (f : Work → Msg → Work) : Work :=
  if decide (m.h.cls = clsTime) || decide (m.h.cls = clsTwin) || (decide (m.h.cls = clsCtrl) && decide (m.h.typ = 0x30)) then
    f w m
  else if w.isMirror && (decide (m.h.dstDev = w.deviceId) || decide (m.h.dstDev = w.partner)) then
    (if w.mirrorHandles m.h then f w m else w.toActive m)
  else if w.ownId m.h.dstDev then (if m.h.dstSess = 0 then f w m else w.toHost (m.h.dstSess - 1) m)
  else w.forward m

/-- A row of the table for one class and type: another message is not that command. -/
def Work.arriveAs (w : Work) (cls typ : Nat) (m : Msg) (f : Work → Msg → Work) : Work :=
  if m.h.cls = cls ∧ m.h.typ = typ then w.arrive m f else w

/-! ## Masters (R517, R540, R541) -/

/-- A bridge that FAB_BRIDGE lists. -/
def Work.isBridge (w : Work) (d : Nat) : Bool :=
  (List.range 16).any (fun g => decide (w.rd F.fabBridgeValid 0 g = 1) && decide (w.rd F.fabBridgeDevice 0 g = d))

/-- A control command that the device accepts (R517). -/
def Work.authorised (w : Work) (h : KHdr) : Bool :=
  (decide (h.srcSess ≠ 0) && w.isBridge h.srcDev) || decide (h.srcDev = w.deviceId) ||
  (w.paired && decide (h.srcDev = w.partner))

/-- The rank of a master, the lowest number highest (R540). (Log entry 124, DEDUCED.) -/
def Work.rank (w : Work) (h : KHdr) : Nat :=
  if h.srcSess ≠ 0 then 2 + (h.srcSess - 1) * 512 + h.srcDev else if h.srcDev = w.deviceId then 0 else 1

/-- Objects of R541. -/
abbrev objPlan : Nat := 0
/-- A table id. -/
abbrev objTable : Nat := 1
/-- A table row. -/
abbrev objRow : Nat := 2
/-- A register address. -/
abbrev objReg : Nat := 3

/-- The commands of the present epoch on an object. -/
def Work.cmdsOn (w : Work) (kind a b : Nat) : List CmdRec :=
  w.cmds.filter (fun c => decide (c.kind = kind) && decide (c.a = a) && decide (c.b = b))

/-- A conflict is counted, and its event names a command (source 6). -/
def Work.noteConflict (w : Work) (h : KHdr) : Work :=
  (w.bumpSat F.twnStatConflicts 0 0).event 6 sConflict (ofBytes (headerBytes h))

/-- A pending command on an object, discarded with CONFLICT; whether there was one that has not taken effect (R541).
(Log entry 124, DEDUCED.) -/
def Work.discardPending (w : Work) (kind a b : Nat) : Bool × Work :=
  if kind = objPlan then
    let x := w.plan a
    match x.reply with
    | some h =>
      if x.pending = 0 then (false, w)
      else
        (true, ((w.setPlan a { x with pending := 0, reply := none }).wr (F.dispPlanStatePending a) 0 0 0).ctrlDone h
          sConflict [])
    | none => (false, w)
  else if kind = objRow then
    let rs := w.emb.tables.flatMap (fun t => if fieldOf t.cfg 0 12 = a then t.repl.filter (fun r => r.row = b) else [])
    let ms := w.emb.migs.filter (fun m => decide (m.table = a) && decide (m.row = b) && decide (m.phase = 0))
    let w1 := { w with emb := { w.emb with
      tables := w.emb.tables.map (fun t =>
        if fieldOf t.cfg 0 12 = a then { t with repl := t.repl.filter (fun r => r.row ≠ b) } else t),
      migs := w.emb.migs.filter (fun m => !(decide (m.table = a) && decide (m.row = b) && decide (m.phase = 0))) } }
    let hs := rs.map (·.reply) ++ ms.map (·.reply)
    (!hs.isEmpty, hs.foldl (fun w h => w.ctrlDone h sConflict []) w1)
  else (false, w)

/-- A command on an object resolved against the epoch's earlier ones (R541): none where it is itself discarded; each
command of a lower master is named once, and is then out of the contest. (Log entry 124, DEDUCED.) -/
def Work.resolve (w : Work) (kind a b : Nat) (h : KHdr) : Option Work :=
  let r := w.rank h
  let others := (w.cmdsOn kind a b).filter (fun c => c.rank ≠ r)
  if others.any (fun c => decide (c.rank < r)) then none
  else
    let w1 := if others.isEmpty then w
      else others.foldl (fun (w : Work) c => w.noteConflict c.h) (w.discardPending kind a b).2
    some { w1 with cmds := ⟨kind, a, b, r, h⟩ :: w1.cmds.filter (fun c => !others.contains c) }

/-- A control command that this device takes: authorised, then resolved on its object where it has one, then carried
out (R517, R541). -/
def Work.command (w : Work) (m : Msg) (obj : Option (Nat × Nat × Nat)) (f : Work → Work) : Work :=
  if !w.authorised m.h then (w.bump F.fabStatAuthDrop 0 0).ctrlDone m.h sAuth []
  else
    match obj with
    | none => f w
    | some (k, a, b) =>
      match w.resolve k a b m.h with
      | some w => f w
      | none => (w.noteConflict m.h).ctrlDone m.h sConflict []

end Sys2Proof.Machine
end

