-- ==== Sys2Proof/Machine/Batch.lean ====
section
/-! DEFINITION. Batches and pacing: pipelines, batch slots, emits, rejected rows, release, delivery, low water and the
host share (chapter 17). -/

namespace Sys2Proof.Machine

/-! ## Pipelines (R473, R474) -/

/-- PIPE of a pipeline record. -/
def Pipe.num (x : Pipe) : Nat := recF x.rec_ 4 0
/-- FORMAT: an Arrow record batch. -/
def Pipe.arrow (x : Pipe) : Bool := recB x.rec_ 5
/-- RELEASE: HELD. -/
def Pipe.held (x : Pipe) : Bool := recB x.rec_ 6
/-- DELIVERY: PUSH. -/
def Pipe.push (x : Pipe) : Bool := recB x.rec_ 7
/-- ORDINAL. -/
def Pipe.ordinal (x : Pipe) : Bool := recB x.rec_ 8
/-- CLOSE_AT_TICK. -/
def Pipe.closeAtTick (x : Pipe) : Bool := recB x.rec_ 9
/-- PUSH_KIND: a host session. -/
def Pipe.toSession (x : Pipe) : Bool := recB x.rec_ 10
/-- NCOL. -/
def Pipe.ncol (x : Pipe) : Nat := recF x.rec_ 31 16
/-- BATCH_ROWS. -/
def Pipe.batchRows (x : Pipe) : Nat := recF x.rec_ 63 32
/-- SLOTS. -/
def Pipe.slots (x : Pipe) : Nat := recF x.rec_ 75 64
/-- SLOT_BYTES. -/
def Pipe.slotBytes (x : Pipe) : Nat := recF x.rec_ 127 96
/-- RING_BASE. -/
def Pipe.base (x : Pipe) : Nat := recF x.rec_ 179 128
/-- ROW_BYTES. -/
def Pipe.rowBytes (x : Pipe) : Nat := recF x.rec_ 223 192
/-- REJ_SLOTS. -/
def Pipe.rejSlots (x : Pipe) : Nat := recF x.rec_ 255 224
/-- REJ_BASE. -/
def Pipe.rejBase (x : Pipe) : Nat := recF x.rec_ 307 256
/-- LOW_WATER of the record. -/
def Pipe.lowWater (x : Pipe) : Nat := recF x.rec_ 335 320
/-- HOST_MAX. -/
def Pipe.hostMax (x : Pipe) : Nat := recF x.rec_ 351 336
/-- PUSH_DEV. -/
def Pipe.pushDev (x : Pipe) : Nat := recF x.rec_ 360 352
/-- PUSH_SESSION. -/
def Pipe.pushSession (x : Pipe) : Nat := recF x.rec_ 362 361
/-- PUSH_ADDR. -/
def Pipe.pushAddr (x : Pipe) : Nat := recF x.rec_ 435 384
/-- SHARE_SLOTS. -/
def Pipe.shareSlots (x : Pipe) : Nat := recF x.rec_ 447 436
/-- SHARE_BASE. -/
def Pipe.shareBase (x : Pipe) : Nat := recF x.rec_ 499 448

/-- A pipeline that no plan has declared. -/
def Pipe.atReset : Pipe := ⟨0, noPlan, none, 0, [], [], [], 0, false, []⟩

/-- Pipeline q. -/
def Work.pipe (w : Work) (q : Nat) : Pipe := smGet Pipe.atReset w.pipes q

/-- FILL of a pipeline (R478). -/
def Pipe.fill (x : Pipe) : Nat := (x.batches.filter (fun (b : BBatch) => decide (3 ≤ b.st))).length

/-- Pipeline q replaced; BQ_STATE shows its FILL and CLOSED. -/
def Work.setPipe (w : Work) (q : Nat) (x : Pipe) : Work :=
  (({ w with pipes := smSet Pipe.atReset w.pipes q x }).wr F.bqStateFill 0 q x.fill).wr F.bqStateClosed 0 q
    (x.batches.filter (fun (b : BBatch) => decide (b.st = 2))).length

/-- The head of a pipeline's queue shown: a batch that closes in an epoch moves it at the next tick (R24).
(Log entry 99, DEDUCED.) -/
def Work.showHead (w : Work) (q : Nat) : Work := w.wr F.bqStateSeqLo 0 q (w.pipe q).nextSeq

/-- A range of memory that a pipeline record names: in HBM, aligned, and in the plan's partition (R474). -/
def Work.pipeArea (w : Work) (p lo len align : Nat) : Bool :=
  decide (lo % align = 0) && decide (0 < len) && decide (regionOf lo = .hbm) && decide (regionOf (lo + len - 1) = .hbm) &&
    covered (w.partition p).ranges lo len

/-- The checks of R474 on a pipeline record. -/
def Work.pipeFails (w : Work) (p : Nat) (r : Rec) : List Nat :=
  let x : Pipe := { Pipe.atReset with rec_ := r }
  chk (recZero r [(15, 11), (95, 76), (191, 180), (319, 308), (383, 363), (511, 500)]) sRange ++
  chk (decide ((w.pipe x.num).plan = noPlan)) sRange ++
  chk (decide (1 ≤ x.batchRows) && decide (x.batchRows ≤ 65536) && decide (2 ≤ x.slots) && decide (0 < x.slotBytes) &&
    decide (x.slotBytes % 64 = 0) && decide (16 ≤ x.rejSlots) && decide (x.rejSlots ≤ 16777216) &&
    decide (x.lowWater ≤ x.slots)) sRange ++
  chk (if x.arrow then decide (1 ≤ x.ncol) && decide (x.ncol ≤ 8) && decide (x.rowBytes = 0)
    else decide (x.ncol = 0) && decide (x.rowBytes % 8 = 0) && decide (16 ≤ x.rowBytes) && decide (x.rowBytes ≤ 65536) &&
      decide (64 + x.batchRows * x.rowBytes ≤ x.slotBytes)) sRange ++
  chk (w.pipeArea p x.base (x.slots * x.slotBytes) 64 && w.pipeArea p x.rejBase (32 * x.rejSlots) 32 &&
    (decide (x.shareSlots = 0) || w.pipeArea p x.shareBase (256 * x.shareSlots) 256)) sRange

/-- A pipeline declared by PLAN_LOAD (R473). -/
def Work.declarePipe (w : Work) (p : Nat) (r : Rec) : Work :=
  let x : Pipe := { Pipe.atReset with rec_ := r, plan := p }
  (((w.setPipe x.num x).showHead x.num).wr F.bqLowWaterLowWater 0 x.num x.lowWater).wr F.bqStateLow 0 x.num 0

/-- The pipelines of a plan that is loaded anew are gone. -/
def Work.dropPipes (w : Work) (p : Nat) : Work :=
  (List.range 32).foldl (fun w q => if (w.pipe q).plan = p then (w.setPipe q Pipe.atReset).showHead q else w) w

/-! ## Batch slots (R475 to R478) -/

/-- Where batch n of a pipeline lies. -/
def Pipe.slotAt (x : Pipe) (n : Nat) : Nat := x.base + n % x.slots * x.slotBytes

/-- The slot of the next batch is FREE (R478). -/
def Pipe.slotFree (x : Pipe) : Bool :=
  !x.batches.any (fun (b : BBatch) => decide (b.seq % x.slots = x.nextSeq % x.slots))

/-- A type code is VARBIN. -/
def isVarbin (t : Nat) : Bool := decide (ETy.ofCode t = some .varbin)
/-- The width of a type code. -/
def codeWidth (t : Nat) : Nat := ((ETy.ofCode t).map ETy.width).getD 8

/-- VARBIN bytes of a value. -/
def BVal.bytes : BVal → List Byte
  | .str b => b
  | _ => []
/-- The bits of a fixed-width value; a null holds zeros. -/
def BVal.bits : BVal → Nat
  | .raw x => x
  | _ => 0

/-- A value by column of an open batch's row. -/
def BRow.col (r : BRow) (k : Nat) : BVal := getAt .none r.vals k

/-- The VARBIN bytes of each plan column in rows. -/
def varLens (tys : List Nat) (rows : List BRow) : List Nat :=
  (List.range tys.length).map (fun k => (rows.map (fun r => (r.col k).bytes.length)).foldl (· + ·) 0)

/-- The body bytes of an Arrow batch of n rows (R477): a validity bitmap for each plan column, every buffer on a 64 B
boundary, padded to one. (Log entry 98, DEDUCED.) -/
def arrowSize (ordinal : Bool) (tys : List Nat) (n : Nat) (vb : List Nat) : Nat :=
  let buf (pos len : Nat) : Nat := alignUp pos 64 + len
  let pos := buf (16 * (tys.length + if ordinal then 2 else 1)) (8 * n)
  let pos := if ordinal then buf pos (4 * n) else pos
  let pos := (tys.zip vb).foldl (fun pos (t : Nat × Nat) =>
    let vals := if isVarbin t.1 then 4 * (n + 1) else ceilDiv (n * codeWidth t.1) 8
    let pos := buf (buf pos vals) (ceilDiv n 8)
    if isVarbin t.1 then buf pos t.2 else pos) pos
  alignUp pos 64

/-- A column of an Arrow body: its type code, values, validity, and VARBIN bytes. -/
structure ACol where
  ty : Nat
  vals : List Byte
  valid : Option (List Byte)
  bytes : Option (List Byte)
  deriving DecidableEq, Repr

/-- The columns of an Arrow body (R477): row ids, ordinals, the plan's. -/
def arrowCols (ordinal : Bool) (tys : List Nat) (rows : List BRow) : List ACol :=
  let n := rows.length
  [⟨0x07, rows.flatMap (fun r => toBytes 8 r.id), none, none⟩] ++
  (if ordinal then [⟨0x06, rows.flatMap (fun r => toBytes 4 r.ord), none, none⟩] else []) ++
  (List.range tys.length).map (fun k =>
    let t := getAt 0 tys k
    let vs := rows.map (fun r => r.col k)
    let valid := toBytes (ceilDiv n 8) (vs.foldr (fun v acc => (if v = BVal.none then 0 else 1) + 2 * acc) 0)
    if isVarbin t then
      let offs := (vs.foldl (fun (p : List Nat × Nat) v => (p.1 ++ [p.2 + v.bytes.length], p.2 + v.bytes.length)) ([0], 0)).1
      ⟨t, offs.flatMap (toBytes 4), some valid, some (vs.flatMap BVal.bytes)⟩
    else
      ⟨t, toBytes (ceilDiv (n * codeWidth t) 8) (vs.foldr (fun v acc => v.bits + 2 ^ codeWidth t * acc) 0), some valid, none⟩)

/-- A buffer placed behind a body on a 64 B boundary: its offset, and the body. (Log entry 98, DEDUCED.) -/
def placeBuf (body b : List Byte) : Nat × List Byte :=
  let at_ := alignUp body.length 64
  (at_, body ++ List.replicate (at_ - body.length) 0 ++ b)

/-- An optional buffer placed: 0xFFFF_FFFF says that there is none. -/
def placeOpt (body : List Byte) : Option (List Byte) → Nat × List Byte
  | none => (0xFFFFFFFF, body)
  | some b => placeBuf body b

/-- The body of an Arrow batch (R477). (Log entry 98, DEDUCED.) -/
def arrowBody (cs : List ACol) : List Byte :=
  let hd := 16 * cs.length
  let (es, body) := cs.foldl (fun (p : List Byte × List Byte) c =>
    let (v, body) := placeBuf p.2 c.vals
    let (n, body) := placeOpt body c.valid
    let (b, body) := placeOpt body c.bytes
    (p.1 ++ toBytes 16 (v + n * 2 ^ 32 + b * 2 ^ 64 + c.ty * 2 ^ 96), body)) ([], List.replicate hd 0)
  let body := es ++ body.drop hd
  body ++ List.replicate (alignUp body.length 64 - body.length) 0

/-- A dense row (R476). -/
def denseRow (ordinal : Bool) (r : BRow) : List Byte :=
  toBytes 8 r.id ++ (if ordinal then toBytes 8 r.ord else []) ++ (r.col 0).bytes

/-- The body of the open batch. -/
def Pipe.body (x : Pipe) : List Byte :=
  let rows := x.rows.reverse
  if x.arrow then arrowBody (arrowCols x.ordinal (x.types.getD []) rows) else rows.flatMap (denseRow x.ordinal)

/-- Bytes that the engine writes to a ring of a plan; what meets no memory faults the plan (R115, R675). -/
def Work.ringWrite (w : Work) (die plan a : Nat) (bs : List Byte) : Work :=
  if w.mapped a bs.length then w.write a bs else w.unmappedBy die plan 0 a

/-- The header of a batch (R475). -/
def Pipe.header (x : Pipe) (seq rows tick : Nat) (isPartial : Bool) (body : List Byte) : List Byte :=
  toBytes 64 (x.num + (if x.arrow then 32 else 0) + (if isPartial then 64 else 0) + (if x.ordinal then 128 else 0) +
    rows * 2 ^ 32 + seq % 2 ^ 64 * 2 ^ 64 + tick % 2 ^ 64 * 2 ^ 128 + body.length * 2 ^ 192 + crc32c body * 2 ^ 256)

/-- The open batch closes (R475, R480, R481): READY at once under EARLY, else until R487 releases it (R486). -/
def Work.closeBatch (w : Work) (die q : Nat) (isPartial : Bool) : Work :=
  let x := w.pipe q
  let body := x.body
  let w := w.ringWrite die x.plan (x.slotAt x.nextSeq) (x.header x.nextSeq x.rows.length w.tickNo isPartial body ++ body)
  let b : BBatch := ⟨x.nextSeq, if x.held then 2 else 3, w.tickNo, 0⟩
  let w := w.setPipe q { x with nextSeq := x.nextSeq + 1, rows := [], batches := x.batches ++ [b] }
  let w := { w with marks := { w.marks with batches := w.marks.batches ++ [(q, x.nextSeq)] } }
  w.bump F.bqStatBatches 0 q

/-! ## Rejected rows (R483, R484) -/

/-- A row taken out of the run of a pending-reject entry: its reason and status, and the table (R483). -/
def takeReject (sel r : Nat) : List Rej → Option ((Nat × Nat) × List Rej)
  | [] => none
  | e :: es =>
    if e.sel = sel ∧ e.first ≤ r ∧ r < e.first + e.count then
      let parts := [{ e with count := r - e.first }, { e with first := r + 1, count := e.first + e.count - r - 1 }]
      some ((e.reason, e.status), parts.filter (fun p => p.count ≠ 0) ++ es)
    else (takeReject sel r es).map (fun p => (p.1, e :: p.2))

/-- A reject record written to the pipeline's reject ring (R484). (Log entry 101, DEDUCED.) -/
def Work.rejectRow (w : Work) (die q id ord reason status : Nat) : Work :=
  let x := w.pipe q
  let n := w.rd F.bqStatRejects 0 q
  let w := w.ringWrite die x.plan (x.rejBase + 32 * (n % x.rejSlots)) (toBytes 32 (id % 2 ^ 64 + status * 2 ^ 64 +
    reason * 2 ^ 80 + (if x.ordinal then ord else 0) * 2 ^ 88 + w.tickNo % 2 ^ 64 * 2 ^ 128 + q * 2 ^ 192))
  (w.setPipe q { x with rejected := x.rejected + 1 }).bump F.bqStatRejects 0 q

/-! ## Host rows (R493) -/

/-- The share in force for the epoch in which a row's input was read: that of the newest log entry whose range holds its
sequence number; a source that the log does not list is read in the present epoch. (Log entry 102, DEDUCED.) -/
def Pipe.shareOf (x : Pipe) (id : Nat) : Nat :=
  let src := fieldOf id 48 16
  let seq := fieldOf id 0 48
  let listed := x.shares.filter (fun s => s.first.any (fun f => f.1 = src))
  if listed.isEmpty then ((x.shares.head?).map (·.s)).getD 0
  else ((listed.find? (fun s => s.first.any (fun f => decide (f.1 = src) && decide (f.2 ≤ seq)))).map (·.s)).getD 0

/-- A host row (R493). (Log entry 102, DEDUCED.) -/
def Pipe.hostRow (x : Pipe) (id : Nat) : Bool := decide (vh64Word 0 id >>> 48 < x.shareOf id)

/-! ## Emitting rows (R479 to R482) -/

/-- An emit record as the operators' checks read it (R301, R479): IN is ROWS, AUX is IDS, OUT is ORD, MODE is PIPE. -/
def emitOp (r : Rec) : OpRec :=
  { op := recF r 7 0, mode := recF r 12 8, ncol := 0, inp := recF r 79 64, aux := recF r 47 32, sel := recF r 31 16,
    out := recF r 63 48, outValid := noHandle, out2 := noHandle, arg0 := 0, arg1 := 0, arg2 := 0, stats := recF r 339 288,
    reservedZero := recZero r [(15, 13), (287, 80), (511, 340)] }

/-- What an emit reads: selection, row ids, ordinals, dense payloads or Arrow columns. -/
structure EmitEnv where
  sel : Option Desc
  ids : Desc
  ord : Option Desc
  rows : Option Desc
  cols : List Col
  deriving DecidableEq, Repr

/-- Bytes of a dense payload (R476, R479). -/
def Pipe.payload (x : Pipe) : Nat := x.rowBytes - (if x.ordinal then 16 else 8)

/-- The columns of an Arrow emit (R477, R479). -/
def Work.emitCols (w : Work) (p : Nat) (o : OpRec) (x : Pipe) (row0 count : Nat) : List Col × List Nat :=
  let (cols, fs) := w.columns p o.inp x.ncol
  let tys := cols.map (fun c => c.ty.code)
  (cols, fs ++ chk (cols.all (fun c => !c.ty.isMx && c.holds row0 count)) sRange ++ (match x.types with
    | some ts => chk (decide (ts = tys)) sRange
    | none => []))

/-- The checks of R479, as R304 makes them, and what the emit reads. -/
def Work.emitEnv (w : Work) (p : Nat) (o : OpRec) (row0 count : Nat) : Option EmitEnv × List Nat :=
  let x := w.pipe o.mode
  let (sel, f0) := w.opCommon p o row0 count false
  let (ids, f1) := w.operand p o.aux false
  let (ord, f2) := if x.ordinal then
      (if o.out = noHandle then (none, [sRange]) else w.operand p o.out false)
    else (none, chk (decide (o.out = noHandle)) sRange)
  let (rows, f3) := if x.arrow then (none, []) else w.operand p o.inp false
  let (cols, f4) := if x.arrow then w.emitCols p o x row0 count else ([], [])
  if x.plan ≠ p then (none, f0 ++ chk (decide (o.op = 0x91)) sRange ++ [sState])
  else
    (ids.map (fun i => ⟨sel, i, ord, rows, cols⟩), f0 ++ f1 ++ f2 ++ f3 ++ f4 ++ chk (decide (o.op = 0x91)) sRange ++
      (match ids with
      | some d => chk (decide (d.ty = some .int64) && d.holds row0 count) sRange
      | none => []) ++
      (match ord with
      | some d => chk (decide (d.ty = some .int16) && d.holds row0 count) sRange
      | none => []) ++
      (match rows with
      | some d => chk (decide (d.ty = some .uint8) && decide ((row0 + count) * x.payload ≤ d.count)) sRange
      | none => []))

/-- The values of a row, and what their memory met; a NaN takes its canonical encoding on the way into a batch, but one of
FP64 (R74). -/
def Work.emitVals (w : Work) (x : Pipe) (e : EmitEnv) (r : Nat) : List BVal × RowSt :=
  match e.rows with
  | some d =>
    let n := x.payload
    ([.str (w.descBytes d (r * n) n)],
      (List.range n).foldl (fun (s : RowSt) k => s.worse (w.elemState d (r * n + k))) .ok)
  | none =>
    let cs := e.cols.map (fun c =>
      let k := w.cell c r
      ((if k.null then BVal.none else match k.v with
        | .bytes b => .str b
        | _ => .raw (c.ty.passOn (w.at0 c.val r).1)), k.st))
    (cs.map (·.1), (cs.map (·.2)).foldl RowSt.worse .ok)

/-- An emit while it runs: the block, the call, and whether it has found no FREE slot, or no memory. -/
structure EAcc where
  w : Work
  c : EmitCall
  full : Bool := false
  unm : Bool := false

/-- A row dealt with. -/
def EAcc.done (a : EAcc) (selected : Bool) : EAcc :=
  { a with c := { a.c with next := a.c.next + 1, rowsIn := a.c.rowsIn + if selected then 1 else 0 } }

/-- A failure noted. -/
def EAcc.fail (a : EAcc) (code : Nat) : EAcc := { a with c := { a.c with fails := setInsert a.c.fails code } }

/-- A row withheld with a reject record. -/
def EAcc.reject (a : EAcc) (q id ord reason status : Nat) : EAcc :=
  { a with w := a.w.rejectRow (a.c.core / 96) q id ord reason status, c := { a.c with rejected := a.c.rejected + 1 } }

/-- A row given its place in the open batch, which closes when it is full; a batch that has no room for it closes first
(R480). -/
def EAcc.place (a : EAcc) (q : Nat) (r : BRow) (tys : List Nat) : EAcc :=
  let die := a.c.core / 96
  let x := a.w.pipe q
  let size (rows : List BRow) : Nat := arrowSize x.ordinal tys rows.length (varLens tys rows)
  let tight := x.arrow && !x.rows.isEmpty && decide (x.slotBytes - 64 < size (r :: x.rows))
  let w := if tight then a.w.closeBatch die q true else a.w
  let x := w.pipe q
  if x.rows.isEmpty && !x.slotFree then { a with w := w, full := true }
  else
    let w := if x.arrow then w
      else w.ringWrite die x.plan (x.slotAt x.nextSeq + 64 + x.rows.length * x.rowBytes) (denseRow x.ordinal r)
    let w := w.setPipe q { x with rows := r :: x.rows }
    let w := if (w.pipe q).rows.length = x.batchRows then w.closeBatch die q false else w
    ({ a with w := w, c := { a.c with emitted := a.c.emitted + 1 } }).done true

/-- A row id that names a row (R12). (Log entry 177, DEDUCED.) -/
def namesRow (id : Nat) : Bool := decide (fieldOf id 48 16 ≠ 0xFFFF)

/-- One row of an emit (R480, R483, R493). A row whose id names no row is withheld, as one whose id cannot be read
(R12; log entry 177, DEDUCED). -/
def EAcc.row (e : EmitEnv) (o : OpRec) (a : EAcc) (r : Nat) : EAcc :=
  if a.full then a
  else
    let q := o.mode
    let x := a.w.pipe q
    let die := a.c.core / 96
    let gc := a.c.core % 96
    let sel := a.w.selected e.sel r
    let (id, ist) := a.w.at0 e.ids r
    let named := decide (ist = .ok) && namesRow id
    let shown := if named then id else 2 ^ 64 - 1
    let (ord, ost) := match e.ord with
      | some d => a.w.at0 d r
      | none => (0, .ok)
    match takeReject o.sel r (a.w.rejects die gc) with
    | some ((reason, status), tbl) =>
      let a := { a with w := a.w.setRejects die gc tbl, c := { a.c with c3 := a.c.c3 + 1 } }
      (a.reject q shown (ord % 65536) reason status).done sel
    | none =>
      if !sel then a.done false
      else if named && x.hostRow id then
        ({ a with w := a.w.bump F.bqStatHostRows 0 q, c := { a.c with c4 := a.c.c4 + 1 } }).done true
      else
        let (vals, vst) := a.w.emitVals x e r
        match (ist.worse ost).worse vst with
        | .unmapped => ({ a.fail sUnmapped with unm := true }).done true
        | .ok =>
          let row : BRow := ⟨id, ord % 65536, vals⟩
          if !named then
            let a := { a with c := { a.c with c6 := a.c.c6 + 1 } }
            ((a.reject q shown (ord % 65536) 0 sReject).fail sCheck).done true
          else
          let tys := e.cols.map (fun c => c.ty.code)
          if x.arrow ∧ x.slotBytes - 64 < arrowSize x.ordinal tys 1 (varLens tys [row]) then
            let a := { a with c := { a.c with c6 := a.c.c6 + 1 } }
            ((a.reject q id (ord % 65536) 0 sFull).fail sFull).done true
          else a.place q row tys
        | st =>
          let a := { a with c := { a.c with c6 := a.c.c6 + 1 } }
          ((a.reject q shown (ord % 65536) 12 sReject).fail
            (if st = .lost then sNoSpare else sCheck)).done true

/-- The rows from the one that the call has reached up to `stop`. -/
def EAcc.run (e : EmitEnv) (o : OpRec) (stop : Nat) (a : EAcc) : EAcc :=
  (List.range (stop - a.c.next)).foldl (fun (b : EAcc) k => b.row e o (a.c.next + k)) a

/-- An emit completes: the runtime returns the status, the rows emitted and the rows rejected (R479). -/
def Work.emitDone (w : Work) (c : EmitCall) (counted unm : Bool) : Work :=
  let d := c.core / 96
  let g := c.core % 96
  let (_, w) := w.effecting d g
  let fs := c.fails ++ (if w.dtHit then [sRange] else [])
  let w := if counted then
      w.addStats (emitOp c.rec_).stats [c.rowsIn, c.emitted, 0, c.c3, c.c4, c.c5, c.c6, 0]
    else w
  let w := if unm then w.unmappedBy d c.plan 0 0 else w
  let w := w.setCore d g { (w.core d g).setX 12 c.rejected with wait := .none }
  (w.countFurther (.gc d g) fs).callReturn d g (lowest fs) (some c.emitted)

/-- An emit that found no slot until G: the rows that it would have emitted are dropped and counted (R482). -/
def Work.emitDrop (w : Work) (c : EmitCall) : Work :=
  let o := emitOp c.rec_
  let (sel, _) := w.optDesc c.plan o.sel false
  let tbl := w.rejects (c.core / 96) (c.core % 96)
  let left := (List.range (c.stop - c.next)).map (c.next + ·)
  let on := left.filter (fun r => w.selected sel r)
  let n := (on.filter (fun r => (takeReject o.sel r tbl).isNone)).length
  (w.bump F.bqStatDropped 0 o.mode n).emitDone
    { c with rowsIn := c.rowsIn + on.length, c5 := c.c5 + n, fails := setInsert c.fails sFull } true false

/-- An emit goes on from the row that it has reached; where it finds no FREE slot it waits, before the other calls that
wait if it was the first of them, or drops its rows at or after G (R480, R482). (Log entry 104, DEDUCED.) -/
def Work.emitGo (w : Work) (c : EmitCall) (front : Bool) : Work :=
  let o := emitOp c.rec_
  match w.emitEnv c.plan o c.next (c.stop - c.next) with
  | (some e, []) =>
    let a := EAcc.run e o c.stop { w := w, c := c }
    if !a.full then a.w.emitDone a.c true a.unm
    else
      let w := if a.unm then a.w.unmappedBy (c.core / 96) c.plan 0 0 else a.w
      if guardStart w.period ≤ w.phase then w.emitDrop a.c
      else
        let w := w.setCore (c.core / 96) (c.core % 96) { w.core (c.core / 96) (c.core % 96) with wait := .emit }
        let x := w.pipe o.mode
        w.setPipe o.mode { x with waiters := if front then a.c :: x.waiters else x.waiters ++ [a.c] }
  | (_, fs) => w.emitDone { c with fails := fs ++ c.fails } true false

/-- The calls that wait go on while there is room (R482). (Log entry 104, DEDUCED.) -/
def Work.emitResume (w : Work) (q : Nat) : Nat → Work
  | 0 => w
  | n + 1 =>
    let x := w.pipe q
    match x.waiters with
    | [] => w
    | c :: cs =>
      if guardStart w.period ≤ w.phase then Work.emitResume ((w.setPipe q { x with waiters := cs }).emitDrop c) q n
      else if x.rows.isEmpty && !x.slotFree then w
      else Work.emitResume ((w.setPipe q { x with waiters := cs }).emitGo c true) q n

/-- The part of an emit whose effects are skipped (R550, R551): its rows are gone through again as a pipeline with room
would take them, and only the counts and the pending rejects remain. (Log entry 105, DEDUCED.) -/
def Work.emitSkip (w : Work) (c : EmitCall) (e : EmitEnv) (stop : Nat) : Work × EmitCall :=
  let o := emitOp c.rec_
  let x := w.pipe o.mode
  let roomy := { x with batches := [], rows := [], waiters := [] }
  let a := EAcc.run e o stop { w := { w with pipes := smSet Pipe.atReset w.pipes o.mode roomy }, c := c }
  ({ w with rejs := a.w.rejs }, a.c)

/-- An emit call that failed its checks: it emitted nothing, and what it returns beside the status is not given. -/
def Work.emitFail (w : Work) (d g : Nat) (fs : List Nat) : Work :=
  let (v, w) := w.fresh 64
  (w.setCore d g ((w.core d g).setX 12 v)).opFail d g fs

/-- EMIT (R479, R480). (Log entry 61, DESIGN CHOICE.) -/
def Work.emitCall (w : Work) (d g a0 row0 count : Nat) : Work :=
  match w.callRecord d g a0 64 64 with
  | none => w.emitFail d g [sRange]
  | some bs =>
    let r : Rec := BitVec.ofNat 512 (ofBytes bs)
    let o := emitOp r
    let p := w.planOf (.core d g)
    match w.emitEnv p o row0 count with
    | (some e, []) =>
      let c : EmitCall := ⟨d * 96 + g, r, p, row0, row0 + count, 0, 0, 0, 0, 0, 0, 0, []⟩
      let j := match w.runningTask d g with
        | some t => w.journalOf t.serial
        | none => ⟨0, 0, 0, 0, none⟩
      if j.made < j.calls then
        let (w, c) := w.emitSkip c e c.stop
        w.emitDone c false false
      else
        let (w, c) := match j.emitRow with
          | some k => w.emitSkip c e (min (k + 1) c.stop)
          | none => (w, c)
        let x := w.pipe o.mode
        let w := w.setPipe o.mode { x with types := some (x.types.getD (e.cols.map (fun k => k.ty.code))) }
        (w.emitResume o.mode x.waiters.length).emitGo c false
    | (_, fs) => w.emitFail d g fs

/-- EMIT (R480). -/
def execEmit (die gc a0 row0 count ns : Nat) (s : State) : Out :=
  s.perform (.emit die gc a0 row0 count ns)
    (fun w => w.coreRow die gc (fun w => (w.atNs ns).emitCall die gc a0 row0 count))

/-- EMIT_RESUME (R482): a slot has become FREE and the waiting calls go on. -/
def execEmitResume (pipe : Nat) (s : State) : Out :=
  s.perform (.emitResume pipe) (fun w => w.emitResume pipe (w.pipe pipe).waiters.length)

/-- The call of a core leaves the pipeline in which it waits. (Log entry 104, DEDUCED.) -/
def Work.takeWaiter (w : Work) (core : Nat) : Option (Nat × EmitCall) × Work :=
  match w.pipes.find? (fun p => p.2.waiters.any (fun c => c.core = core)) with
  | none => (none, w)
  | some (q, x) =>
    ((x.waiters.find? (fun c => c.core = core)).map (fun c => (q, c)),
      w.setPipe q { x with waiters := x.waiters.filter (fun c => c.core ≠ core) })

/-- EMIT_WAIT_TIMEOUT (R482): G of the epoch has come while a call waits. -/
def execEmitWaitTimeout (die gc : Nat) (s : State) : Out :=
  s.perform (.emitWaitTimeout die gc) (fun w =>
    match w.takeWaiter (die * 96 + gc) with
    | (some (_, c), w) => (w.atNs (guardStart w.period)).emitDrop c
    | (none, w) => w)

/-! ## Delivery (R488 to R490) -/

/-- The bridge of this device's group (R511). -/
def Work.ownBridge (w : Work) : Nat := w.rd F.fabBridgeDevice 0 (w.dv F.bootIdentityGroup)

/-- Slot bytes that one message carries. (Log entry 103, DEDUCED.) -/
abbrev partBytes : Nat := 9088

/-- A batch's slot sent whole: as BATCH_PART messages to a host session, or as WRITE messages to a device (R488, R490,
R505). (Log entry 103, DEDUCED.) -/
def Work.sendSlot (w : Work) (x : Pipe) (seq dst sess : Nat) (write : Bool) : Work :=
  let n := x.slotBytes
  let bs := (w.read (x.slotAt seq) n).getD (List.replicate n 0)
  (List.range (ceilDiv n partBytes)).foldl (fun (w : Work) k =>
    let off := k * partBytes
    let part := (bs.drop off).take partBytes
    let head := if write then toBytes 8 (x.pushAddr + seq % x.slots * n + off)
      else toBytes 32 (x.num + seq % 2 ^ 64 * 2 ^ 64 + off * 2 ^ 128 + n * 2 ^ 192)
    w.send { h := w.hdrTo clsData (if write then 1 else 2) dst sess x.num 0, payload := head ++ part }) w

/-- A batch's state changed. -/
def Pipe.mark (x : Pipe) (seq st tick : Nat) : Pipe :=
  { x with batches := x.batches.map (fun (b : BBatch) => if b.seq = seq then { b with st := st, sent := tick } else b) }

/-- The READY batches, oldest first. -/
def Pipe.ready (x : Pipe) : List BBatch := x.batches.filter (fun (b : BBatch) => b.st = 3)

/-- BQ_FETCH (R488, R490): acknowledged batches are freed, and READY ones sent. (Log entry 103, DEDUCED.) -/
def Work.bqFetch (w : Work) (h : KHdr) (payload : List Byte) : Work :=
  let v := leAt payload 0 16
  let q := fieldOf v 0 5
  let most := fieldOf v 8 5
  let ack := fieldOf v 64 64
  let x := w.pipe q
  let fs := chk (decide (payload.length = 16) && decide (fieldOf v 5 3 = 0) && decide (fieldOf v 13 51 = 0) &&
      decide (most ≤ 16)) sRange ++
    chk (decide (x.plan ≠ noPlan)) sState ++ chk (!(x.push && decide (most ≠ 0)) || decide (x.plan = noPlan)) sState
  if !fs.isEmpty then (w.countFurther .mgmt fs).ctrlDone h (lowest fs) (toBytes 4 0)
  else
    let x := if ack = 2 ^ 64 - 1 then x
      else { x with batches := x.batches.filter (fun (b : BBatch) => !(decide (b.st = 4) && decide (b.seq ≤ ack))) }
    let out := x.ready.take most
    let w := w.setPipe q (out.foldl (fun (x : Pipe) b => x.mark b.seq 4 w.tickNo) x)
    let w := out.foldl (fun (w : Work) b => w.sendSlot x b.seq h.srcDev h.srcSess false) w
    w.ctrlDone h sOk (toBytes 4 out.length)

/-- BQ_FETCH as a message that this device takes (R488, R584). -/
def Work.bqFetchMsg (w : Work) (m : Msg) : Work :=
  w.command m none (fun w => if w.devState = stRest then w.ctrlDone m.h sState (toBytes 4 0) else w.bqFetch m.h m.payload)

/-- BQ_FETCH (R488). -/
def execBqFetch (h : KHdr) (payload : List Byte) (s : State) : Out :=
  s.perform (.bqFetch h payload) (fun w => w.arriveAs clsCtrl 0x0A ⟨h, payload⟩ Work.bqFetchMsg)

/-- REDELIVER (R489): a batch delivered 16 ticks ago and not acknowledged returns to READY. (Log entry 103, DEDUCED.) -/
def execRedeliver (pipe seq : Nat) (s : State) : Out :=
  s.perform (.redeliver pipe seq) (fun w =>
    let x := w.pipe pipe
    match x.batches.find? (fun (b : BBatch) => b.seq = seq) with
    | some b =>
      if b.st = 4 ∧ b.sent + 16 ≤ w.tickNo then
        (w.setPipe pipe (x.mark seq 3 b.sent)).bumpSat F.bqStatRedeliver 0 pipe
      else w
    | none => w)

/-- PUSH_SEND (R490): the oldest READY batch of a PUSH pipeline goes to its destination, once there is a route. -/
def execPushSend (pipe : Nat) (s : State) : Out :=
  s.perform (.pushSend pipe) (fun w =>
    let x := w.pipe pipe
    match x.ready with
    | [] => w
    | b :: _ =>
      let dst := if x.toSession then w.ownBridge else x.pushDev
      let near := decide (dst = w.deviceId)
      if !x.push || (!near && (w.usablePorts dst clsData).isEmpty) then w
      else if near && !x.toSession then
        let n := x.slotBytes
        let bs := (w.read (x.slotAt b.seq) n).getD (List.replicate n 0)
        (w.write (x.pushAddr + b.seq % x.slots * n) bs).setPipe pipe
          { x with batches := x.batches.filter (fun (c : BBatch) => c.seq ≠ b.seq) }
      else
        (w.setPipe pipe (x.mark b.seq 4 w.tickNo)).sendSlot x b.seq dst (if x.toSession then x.pushSession + 1 else 0)
          (!x.toSession))

/-- The link has acknowledged a message: the last one of a batch pushed to a device frees the batch (R490). -/
def Work.pushAcked (w : Work) (m : Msg) : Work :=
  let q := m.h.flow % 32
  let x := w.pipe q
  let end_ := fieldOf (leAt m.payload 0 8) 0 52 + (m.payload.length - 8) - x.pushAddr
  if m.h.cls = clsData ∧ m.h.typ = 1 ∧ m.h.srcDev = w.deviceId ∧ x.push = true ∧ x.toSession = false ∧
      m.h.dstDev = x.pushDev ∧ 0 < end_ ∧ end_ % x.slotBytes = 0 then
    w.setPipe q { x with batches := x.batches.filter (fun (b : BBatch) =>
      !(decide (b.st = 4) && decide (b.seq % x.slots = end_ / x.slotBytes - 1))) }
  else w

/-- BATCH_PART (R505, R584): its bytes go into the slot that it names, where the pipeline is declared and they lie in
it. -/
def Work.batchPart (w : Work) (port : Option Nat) (m : Msg) : Work :=
  let v := leAt m.payload 0 32
  let x := w.pipe (fieldOf v 0 5)
  let off := fieldOf v 128 64
  let bs := m.payload.drop 32
  if w.devState = stRest then w.restDiscard port
  else if x.plan ≠ noPlan ∧ 32 ≤ m.payload.length ∧ fieldOf v 192 32 = x.slotBytes ∧ off + bs.length ≤ x.slotBytes then
    w.ringWrite 0 x.plan (x.slotAt (fieldOf v 64 64) + off) bs
  else w

/-- BATCH_PART (R505). -/
def execBatchPart (h : KHdr) (payload : List Byte) (s : State) : Out :=
  s.perform (.batchPart h payload) (fun w => w.arriveAs clsData 2 ⟨h, payload⟩ (fun w m => w.batchPart none m))

/-! ## The tick (R481, R485, R487, R491, R492) -/

/-- The input positions of a plan at a tick: what its sources were read to in the epoch that ends is not the model's to
know, so each moves on by a free value (R492). (Log entry 102, DEDUCED.) -/
def Work.inputTick (w : Work) (p : Nat) : Work :=
  match (w.plan p).image with
  | some i =>
    if w.planState p = 2 then
      i.sources.foldl (fun (w : Work) s =>
        let (v, w) := w.fresh 32
        { w with inputs := smSet 0 w.inputs (p * 65536 + s) ((smGet 0 w.inputs (p * 65536 + s) + v) % 2 ^ 48) }) w
    else w
  | none => w

/-- The sources of a plan and their positions, at most 14 (R492). -/
def Work.sourcesOf (w : Work) (p : Nat) : List (Nat × Nat) :=
  match (w.plan p).image with
  | some i => (i.sources.take 14).map (fun s => (s, smGet 0 w.inputs (p * 65536 + s)))
  | none => []

/-- A CLOSED batch that R487 releases at this tick. (Log entry 99, DEDUCED.) -/
def Work.releases (w : Work) (x : Pipe) (b : BBatch) : Bool :=
  decide (b.st = 2) && decide (b.closeTick < w.tickNo) && decide (w.planState x.plan ≠ 5) && !w.isMirror &&
    (decide (w.pairState = pairSolo) || decide (w.pairState = pairSyncing) ||
      decide (b.closeTick ≤ w.dv F.twnStateLastAcked))

/-- The host share of a pipeline (R492). -/
def Work.hostShare (w : Work) (x : Pipe) (low : Nat) : Nat :=
  if w.devState ≠ stShared ∨ low = 0 ∨ low ≤ x.fill then 0 else min x.hostMax ((low - x.fill) * 65536 / low)

/-- The share-log entry of a tick (R492). -/
def shareEntry (s : Share) : List Byte :=
  slice (toBytes 8 s.tick ++ toBytes 2 s.s ++ toBytes 1 s.first.length ++ List.replicate 21 0 ++
    s.first.flatMap (fun f => toBytes 16 (f.1 + f.2 * 2 ^ 64))) 0 256

/-- What a tick does to a pipeline: the head of its queue is shown; calls that still wait have passed G; HELD batches are
released; an open batch closes under R481; rejects are reported; FILL is sampled; and the share is computed and logged.
(Log entries 99, DEDUCED; 100, DEDUCED.) -/
def Work.pipeTick (w : Work) (q : Nat) : Work :=
  if (w.pipe q).plan = noPlan then w
  else
    let w := w.showHead q
    let w := (w.pipe q).waiters.foldl (fun (w : Work) c => ((w.takeWaiter c.core).2).emitDrop c) w
    let x := w.pipe q
    let w := w.setPipe q { x with batches := x.batches.map (fun (b : BBatch) => if w.releases x b then { b with st := 3 } else b) }
    let w := if !x.rows.isEmpty && x.closeAtTick then w.closeBatch 0 q true else w
    let x := w.pipe q
    let w := if x.rejected = 0 then w else w.event (128 + q) sReject (q + x.rejected * 2 ^ 32)
    let low := w.rd F.bqLowWaterLowWater 0 q
    let under := decide (x.fill < low)
    let running := decide (w.planState x.plan = 2) || decide (w.planState x.plan = 3)
    let w := if under && (if x.sampled then !w.rdB F.bqStateLow 0 q else running) then
        w.event (96 + q) sOk (q + x.fill * 2 ^ 32 + low * 2 ^ 48)
      else w
    let w := w.wrB F.bqStateLow 0 q under
    let s : Share := ⟨w.tickNo, w.hostShare x low, w.sourcesOf x.plan⟩
    let w := (w.wr F.bqShareShare 0 q s.s).wr F.bqShareTickLo 0 q s.tick
    let w := w.setPipe q { x with rejected := 0, sampled := x.sampled || running, shares := (s :: x.shares).take 4096 }
    if x.shareSlots = 0 then w
    else w.ringWrite 0 x.plan (x.shareBase + 256 * (s.tick % x.shareSlots)) (shareEntry s)

/-- The open batches of plans that have stopped close (R481). -/
def Work.closeStopped (w : Work) : Work :=
  (List.range 32).foldl (fun (w : Work) q =>
    let x := w.pipe q
    if !x.rows.isEmpty && decide (x.plan ≠ noPlan) && decide (w.planState x.plan = 4) then w.closeBatch 0 q true else w) w

/-- What a tick does to input positions and pipelines. -/
def Work.batchTick (w : Work) : Work :=
  (List.range 32).foldl Work.pipeTick ((List.range 16).foldl Work.inputTick w)

end Sys2Proof.Machine
end

