-- ==== Sys2Proof/Machine/Kupel.lean ====
section
/-! DEFINITION. Kupel ports: lanes, training and spares, link frames, credits, acknowledgement and replay
(R494 to R509). -/

namespace Sys2Proof.Machine

/-! ## Port states (R497 to R500) -/

/-- The die of a port. -/
def portDie (p : Nat) : Nat := p / 6
/-- A host port. -/
def Work.isHostPort (w : Work) (p : Nat) : Bool := decide (w.rd F.klPortCfgRole 0 p = 1)

/-- A port changes its state, with its event (source 48 + port). -/
def Work.setKl (w : Work) (p st status : Nat) : Work :=
  let old := w.klState p
  if old = st then w
  else (w.wr F.klPortStatusState 0 p st).event (48 + p) status (old + st * 8 +
    w.rd F.klPortStatusTxLanes 0 p * 64 + w.rd F.klPortStatusRxLanes 0 p * 2 ^ 11)

/-- What a port holds is lost when it goes DOWN or OUT: the messages of unacknowledged frames and those that wait are
counted, and the link begins anew (R509). -/
def Work.loseLink (w : Work) (p : Nat) : Work :=
  let x := w.port p
  let n := (x.unacked.map (fun f => f.msgs.length)).foldl (· + ·) x.waiting.length
  (w.bump F.klStatLostDown 0 p n).setPort p
    { x with nextSeq := 0, unacked := [], expect := 0, naking := false, sinceAck := 0, granted := List.replicate 6 0,
             used := List.replicate 6 0, freed := List.replicate 6 0, waiting := [], replays := 0 }

/-- A port goes DOWN. -/
def Work.portDown (w : Work) (p : Nat) : Work := (w.loseLink p).setKl p klDown sOk

/-- The unit-map entry of a lane (R543): direction 0 transmit, 1 receive. -/
def laneEntry (p dir lane state logical : Nat) : Nat :=
  mapEntry kLane (portDie p) (p % 6 * 10 + dir * 5 + lane) state logical

/-- The logical id of lane l of a direction of a port. (Log entry 119, DEDUCED.) -/
def laneId (p dir l : Nat) : Nat := p % 6 * 8 + dir * 4 + l % 4

/-- A lane replaced by the spare of its direction: FENCED (R499, R545, R546). -/
def Work.laneFence (w : Work) (p dir lane cause : Nat) : Work :=
  let r := fenceRecord 1 cause 0 0 (laneEntry p dir lane 2 0) (laneEntry p dir 4 0 (laneId p dir lane)) w.tickNo
  (((w.logFence r).bind kLane (portDie p) (laneId p dir lane) (p % 6 * 10 + dir * 5 + 4)).bump F.sprMapFenced
    (portDie p) 0).event (dieSource 0 (portDie p)) sFenced r

/-- No lane is left: the port is OUT, its frames are lost, NO_SPARE is reported, the device is DEGRADED (R499). -/
def Work.portOut (w : Work) (p dir lane cause : Nat) : Work :=
  let r := fenceRecord 1 cause 0 0 (laneEntry p dir lane 2 0) 0 w.tickNo
  let w := ((w.logFence r).bump F.sprMapFenced (portDie p) 0).event (dieSource 1 (portDie p)) sNoSpare r
  ((w.loseLink p).setKl p klOut sNoSpare).degrade (portDie p)

/-- The port retrains: it carries nothing, and keeps what it has not had acknowledged (R497, R498). -/
def Work.retrain (w : Work) (p : Nat) : Work :=
  if w.isHostPort p then w.portDown p
  else
    let w := w.setPort p { w.port p with replays := 0, excluded := false }
    (w.bump F.klPortStatusRetrains 0 p).setKl p klTraining sOk

/-- The four lanes of a direction, none where fewer are left: lanes 0 to 3, and the spare in place of a failed one
(R497). -/
def laneSet (failed : List Nat) : Option (List Nat) :=
  let ok := (List.range 5).filter (fun l => !failed.contains l)
  if 4 ≤ ok.length then some (ok.take 4) else none

/-- The bits of a set of lanes. -/
def laneMask (ls : List Nat) : Nat := (ls.map (fun l => 2 ^ l)).foldl (· + ·) 0

/-- The lanes of a mask. -/
def lanesOf (mask : Nat) : List Nat := (List.range 5).filter (fun l => bitOf mask l)

/-- Lanes that failed added to those of before. -/
def addLanes (old new : List Nat) : List Nat := new.foldl setInsert old

/-! ## Frames (R501, R502, R506, R508) -/

/-- The receive buffer of each class, in credits of 256 B (R506). (Log entry 117, DEDUCED.) -/
def classCredits : List Nat := [512, 256, 256, 128, 16, 512]

/-- The credits that a message takes (R506). -/
def Msg.credits (m : Msg) : Nat := ceilDiv (32 + alignUp m.payload.length 8) 256

/-- A message on the wire (R503). -/
def Msg.bytes (m : Msg) : List Byte :=
  headerBytes m.h ++ m.payload ++ List.replicate (alignUp m.payload.length 8 - m.payload.length) 0

/-- The link header of a frame that a port sends (R502). -/
def Port.linkHeader (x : Port) (lseq : Nat) (nak unseq host empty : Bool) : List Byte :=
  if host then toBytes 16 (2 ^ 34)
  else
    let credits := (List.range 6).foldl (fun (acc : Nat) c => acc + getAt 0 x.freed c % 4096 * 2 ^ (48 + 12 * c)) 0
    toBytes 16 (lseq % 65536 + (x.expect + 65535) % 65536 * 2 ^ 16 + (if nak then 2 ^ 32 else 0) +
      (if unseq then 2 ^ 33 else 0) + (if empty then 2 ^ 35 else 0) + credits)

/-- The header under which the model's log keeps a frame that left a port. (Log entry 119, DEDUCED.) -/
def frameLog : KHdr := ⟨0, 0, 0, 0, 0, 0, 0, 0, 0, 0, 0⟩

/-- A frame leaves a port: it also acknowledges. (Log entry 119, DEDUCED.) -/
def Work.frameOut (w : Work) (p lseq : Nat) (nak unseq : Bool) (msgs : List Msg) : Work :=
  let x := w.port p
  let bs := x.linkHeader lseq nak unseq (w.isHostPort p) msgs.isEmpty ++ msgs.flatMap Msg.bytes
  (w.setPort p { x with sinceAck := 0 }).emitMsg p ⟨frameLog, bs⟩

/-- A message sent to the neighbour of a port outside retry, as the link-up exchange is (R508, R616).
(Log entry 117, DEDUCED.) -/
def Work.directOut (w : Work) (p typ : Nat) (payload : List Byte) : Work :=
  let h := { w.hdrTo clsCtrl typ 0 0 0 0 with hops := 1, tick := w.tickNo, len := payload.length }
  w.frameOut p 0 false true [⟨h, payload⟩]

/-- Bytes of frames that wait for their acknowledgement (R508). -/
def Port.replayBytes (x : Port) : Nat :=
  (x.unacked.map (fun f => 34 + (f.msgs.map (fun m => m.bytes.length)).foldl (· + ·) 0)).foldl (· + ·) 0

/-- The credits that a sender has left for a class: the peer's buffer, what the peer has freed, less what it has used
(R506). -/
def Port.creditsLeft (x : Port) (c : Nat) : Nat :=
  (getAt 0 classCredits c + getAt 0 x.granted c + 4096 - getAt 0 x.used c % 4096) % 4096

/-- MESSAGE_TRANSMIT (R506, R508): the oldest message of a class that waits at a port goes out when the credits cover it
and the replay buffer has room. (Log entry 117, DEDUCED.) -/
def Work.transmit (w : Work) (p c : Nat) : Work :=
  let x := w.port p
  match x.waiting.find? (fun m => m.h.cls = c) with
  | none => w
  | some m =>
    let rest := x.waiting.erase m
    if w.isHostPort p then
      (if w.klState p = klHostUp then (w.setPort p { x with waiting := rest }).frameOut p 0 false false [m] else w)
    else if w.klState p ≠ klUp ∨ x.creditsLeft c < m.credits then w
    else
      let used := x.used.set c ((getAt 0 x.used c + m.credits) % 4096)
      if c = clsTime then (w.setPort p { x with waiting := rest, used := used }).frameOut p 0 false true [m]
      else if 32767 ≤ x.unacked.length ∨ 524288 < x.replayBytes + 34 + m.bytes.length then w
      else
        let seq := x.nextSeq
        (w.setPort p { x with waiting := rest, used := used, nextSeq := (seq + 1) % 65536,
                              unacked := x.unacked ++ [⟨seq, [m]⟩] }).frameOut p seq false false [m]

/-- MESSAGE_TRANSMIT. -/
def execMessageTransmit (port cls : Nat) (s : State) : Out :=
  s.perform (.messageTransmit port cls) (fun w => w.transmit port cls)

/-- The frames that a peer has not acknowledged go out again (R498, R508). -/
def Work.resend (w : Work) (p : Nat) : Work :=
  let fs := (w.port p).unacked
  fs.foldl (fun (w : Work) f => w.frameOut p f.lseq false false f.msgs) (w.bump F.klStatReplays 0 p fs.length)

/-- A replay from ACK + 1; after eight without progress the port retrains (R508, R509). -/
def Work.replay (w : Work) (p : Nat) : Work :=
  let x := w.port p
  if x.unacked.isEmpty then w
  else
    let w := (w.setPort p { x with replays := x.replays + 1 }).resend p
    if 8 ≤ x.replays + 1 then w.retrain p else w

/-- REPLAY_TIMEOUT (R508): the oldest unacknowledged frame has waited 8 us. -/
def execReplayTimeout (port : Nat) (s : State) : Out :=
  s.perform (.replayTimeout port) (fun w => if w.klState port = klUp then w.replay port else w)

/-- ACK_TIMER (R508): an EMPTY frame acknowledges what no other frame has. -/
def execAckTimer (port : Nat) (s : State) : Out :=
  s.perform (.ackTimer port) (fun w =>
    if w.klState port = klUp ∧ (w.port port).sinceAck ≠ 0 then w.frameOut port 0 false true [] else w)

/-! ## Training (R494, R497 to R500) -/

/-- An end of the link-up exchange sends step 1 with a fresh nonce (R616). -/
def Work.helloOut (w : Work) (p : Nat) : Work :=
  let (v, w) := w.fresh 256
  let nonce := toBytes 32 v
  (w.setPort p { w.port p with helloNonce := nonce }).directOut p 0x30 (toBytes 8 1 ++ nonce)

/-- A direction's lanes after training: the spare's first use is a fence (R499). -/
def Work.takeLanes (w : Work) (p dir : Nat) (before : Bool) (failed lanes : List Nat) : Work :=
  let x := w.port p
  let cause := if x.laneCause = 0 then 6 else x.laneCause
  let w := if dir = 0 then w.wr F.klPortStatusTxLanes 0 p (laneMask lanes) else w.wr F.klPortStatusRxLanes 0 p (laneMask lanes)
  if lanes.contains 4 && !before then w.laneFence p dir (failed.headD 0) cause else w

/-- KUPEL_TRAINING_COMPLETE: training or retraining has ended; the masks name the lanes that failed it.
(Log entry 119, DEDUCED.) -/
def Work.trained (w : Work) (p txFail rxFail : Nat) : Work :=
  let st := w.klState p
  if st ≠ klTraining ∧ (st ≠ klDown ∨ w.rd F.klPortCfgEn 0 p = 0) then w
  else if w.isHostPort p then
    (if (txFail ||| rxFail) % 16 ≠ 0 then w.portDown p
     else ((w.wr F.klPortStatusTxLanes 0 p 15).wr F.klPortStatusRxLanes 0 p 15).setKl p klHostUp sOk)
  else
    let x := w.port p
    let tx := addLanes x.txFailed (lanesOf txFail)
    let rx := addLanes x.rxFailed (lanesOf rxFail)
    let w := w.setPort p { x with txFailed := tx, rxFailed := rx }
    match laneSet tx, laneSet rx with
    | some tl, some rl =>
      let w := (w.takeLanes p 0 x.txSpare tx tl).takeLanes p 1 x.rxSpare rx rl
      let w := w.setPort p { w.port p with txSpare := tl.contains 4, rxSpare := rl.contains 4, laneCause := 0 }
      (w.setKl p klAttesting sOk).helloOut p
    | none, _ => w.portOut p 0 (tx.getLastD 0) 6
    | _, none => w.portOut p 1 (rx.getLastD 0) 6

/-- KUPEL_TRAINING_COMPLETE (R497, R500). -/
def execKupelTrainingComplete (port txFail rxFail : Nat) (s : State) : Out :=
  s.perform (.kupelTrainingComplete port txFail rxFail) (fun w => w.trained port txFail rxFail)

/-- A receive lane in use fails: the port retrains without it, or is OUT when its direction has already used its spare
(R497, R499). -/
def Work.laneFails (w : Work) (p lane cause : Nat) : Work :=
  let st := w.klState p
  if (st ≠ klAttesting ∧ st ≠ klUp ∧ st ≠ klHostUp) ∨ bitOf (w.rd F.klPortStatusRxLanes 0 p) lane = false then w
  else if w.isHostPort p then w.portDown p
  else
    let x := w.port p
    let w := w.setPort p { x with rxFailed := setInsert x.rxFailed lane, laneCause := cause }
    if x.rxSpare then w.portOut p 1 lane cause else w.retrain p

/-- LANE_LOSS_OF_LOCK (R497). (Log entry 15, DESIGN CHOICE.) -/
def execLaneLossOfLock (port lane : Nat) (s : State) : Out :=
  s.perform (.laneLossOfLock port lane) (fun w => w.laneFails port lane 6)

/-- SER_LIMIT_EXCEEDED (R497). -/
def execSerLimitExceeded (port lane : Nat) (s : State) : Out :=
  s.perform (.serLimitExceeded port lane) (fun w => w.laneFails port lane 2)

/-- TRAINING_EXCLUSION (R498): a port in TRAINING for more than 1 ms leaves route selection. -/
def execTrainingExclusion (port : Nat) (s : State) : Out :=
  s.perform (.trainingExclusion port) (fun w =>
    if w.klState port = klTraining then w.setPort port { w.port port with excluded := true } else w)

end Sys2Proof.Machine
end

