-- ==== Sys2Proof/Machine/Sm.lean ====
section
/-! DEFINITION. SM3 (GB/T 32905), SM2 over its recommended curve (GB/T 32918), and the reading of a device certificate
(R604, R612), written from the standards that the spec names. -/

namespace Sys2Proof.Machine

/-! ## SM3 -/

/-- A 32-bit word rotated left. -/
def rotl32 (x n : Nat) : Nat := (x <<< (n % 32)) % 2 ^ 32 ||| x >>> (32 - n % 32)

/-- The 32-bit sum. -/
def add32 (a b : Nat) : Nat := (a + b) % 2 ^ 32

/-- A permutation of SM3: x, and x turned by two amounts. -/
def sm3P (a b x : Nat) : Nat := x ^^^ rotl32 x a ^^^ rotl32 x b

/-- The words W of a block, the newest first: sixteen given, and k more. -/
def sm3Expand : Nat → List Nat → List Nat
  | 0, ws => ws
  | k + 1, ws =>
    let at_ (j : Nat) : Nat := getAt 0 ws (j - 1)
    let x := sm3P 15 23 (at_ 16 ^^^ at_ 9 ^^^ rotl32 (at_ 3) 15) ^^^ rotl32 (at_ 13) 7 ^^^ at_ 6
    sm3Expand k (x :: ws)

/-- One round on the eight registers. -/
def sm3Round (j w w' : Nat) : List Nat → List Nat
  | [a, b, c, d, e, f, g, h] =>
    let t := if j < 16 then 0x79cc4519 else 0x7a879d8a
    let ss1 := rotl32 (add32 (add32 (rotl32 a 12) e) (rotl32 t j)) 7
    let ss2 := ss1 ^^^ rotl32 a 12
    let ff := if j < 16 then a ^^^ b ^^^ c else (a &&& b) ||| (a &&& c) ||| (b &&& c)
    let gg := if j < 16 then e ^^^ f ^^^ g else (e &&& f) ||| ((e ^^^ 0xFFFFFFFF) &&& g)
    let tt1 := add32 (add32 (add32 ff d) ss2) w'
    let tt2 := add32 (add32 (add32 gg h) ss1) w
    [tt1, a, rotl32 b 9, c, sm3P 9 17 tt2, e, rotl32 f 19, g]
  | v => v

/-- A block of 64 bytes compressed into the registers. -/
def sm3Block (v : List Nat) (block : List Byte) : List Nat :=
  let given := (List.range 16).map (fun i => ofBytesBE (slice block (4 * i) 4))
  let ws := (sm3Expand 52 given.reverse).reverse
  let r := (List.range 64).foldl (fun r j => sm3Round j (getAt 0 ws j) (getAt 0 ws j ^^^ getAt 0 ws (j + 4)) r) v
  (r.zip v).map (fun p => p.1 ^^^ p.2)

/-- The padding of a message of n bytes. -/
def sm3Pad (n : Nat) : List Byte := 0x80 :: List.replicate ((119 - n % 64) % 64) 0 ++ toBytesBE 8 (8 * n)

/-- The SM3 digest, 32 bytes. (Log entry 147, PRESUMED.) -/
def sm3 (m : List Byte) : List Byte :=
  let p := m ++ sm3Pad m.length
  let v := (chunksOf (p.length / 64) 64 p).foldl sm3Block
    [0x7380166f, 0x4914b2b9, 0x172442d7, 0xda8a0600, 0xa96f30bc, 0x163138aa, 0xe38dee4d, 0xb0fb0e4e]
  v.flatMap (toBytesBE 4)

/-! ## The curve -/

/-- The prime of the recommended curve. -/
def smP : Nat := 0xFFFFFFFEFFFFFFFFFFFFFFFFFFFFFFFFFFFFFFFF00000000FFFFFFFFFFFFFFFF
/-- Coefficient a. -/
def smA : Nat := 0xFFFFFFFEFFFFFFFFFFFFFFFFFFFFFFFFFFFFFFFF00000000FFFFFFFFFFFFFFFC
/-- Coefficient b. -/
def smB : Nat := 0x28E9FA9E9D9F5E344D5A9E4BCF6509A7F39789F515AB8F92DDBCBD414D940E93
/-- The order of the base point. -/
def smN : Nat := 0xFFFFFFFEFFFFFFFFFFFFFFFFFFFFFFFF7203DF6B21C6052B53BBF40939D54123
/-- The base point. -/
def smG : Nat × Nat := (0x32C4AE2C1F1981195F9904466A39C9948FE30BBFF2660BE1715A4589334C74C7,
  0xBC3736A2F4F6779C59BDCEE36B692153D0A9877CC62A474002DF32E52139F0A0)

/-- A difference modulo m. -/
def subMod (m a b : Nat) : Nat := (a + (m - b % m)) % m

/-- A power modulo m, by the bits of the exponent from the top. -/
def powMod (m x e : Nat) : Nat :=
  (List.range 256).foldl (fun r i => let r := r * r % m; if bitOf e (255 - i) then r * x % m else r) 1

/-- The inverse modulo a prime. -/
def invMod (m x : Nat) : Nat := powMod m (x % m) (m - 2)

/-- A point in Jacobian coordinates; Z zero is the point at infinity. -/
structure JPoint where
  x : Nat
  y : Nat
  z : Nat
  deriving DecidableEq, Repr

/-- The point at infinity. -/
def JPoint.inf : JPoint := ⟨1, 1, 0⟩

/-- Twice a point. -/
def JPoint.double (p : JPoint) : JPoint :=
  if p.z = 0 ∨ p.y = 0 then .inf
  else
    let yy := p.y * p.y % smP
    let s := 4 * p.x * yy % smP
    let zz := p.z * p.z % smP
    let m := (3 * p.x * p.x + smA * zz % smP * zz) % smP
    let x := subMod smP (m * m) (2 * s)
    ⟨x, subMod smP (m * subMod smP s x) (8 * yy * yy), 2 * p.y * p.z % smP⟩

/-- The sum of two points. -/
def JPoint.add (p q : JPoint) : JPoint :=
  if p.z = 0 then q
  else if q.z = 0 then p
  else
    let pz := p.z * p.z % smP
    let qz := q.z * q.z % smP
    let u1 := p.x * qz % smP
    let u2 := q.x * pz % smP
    let s1 := p.y * qz % smP * q.z % smP
    let s2 := q.y * pz % smP * p.z % smP
    if u1 = u2 then (if s1 = s2 then p.double else .inf)
    else
      let h := subMod smP u2 u1
      let r := subMod smP s2 s1
      let hh := h * h % smP
      let hhh := hh * h % smP
      let v := u1 * hh % smP
      let x := subMod smP (r * r) (hhh + 2 * v)
      ⟨x, subMod smP (r * subMod smP v x) (s1 * hhh), h * p.z % smP * q.z % smP⟩

/-- The multiple k of a point. -/
def JPoint.mul (k : Nat) (p : JPoint) : JPoint :=
  (List.range 256).foldl (fun r i => let r := r.double; if bitOf k (255 - i) then r.add p else r) .inf

/-- The affine coordinates of a point; none for the point at infinity. -/
def JPoint.affine (p : JPoint) : Option (Nat × Nat) :=
  if p.z = 0 then none
  else
    let i := invMod smP p.z
    let ii := i * i % smP
    some (p.x * ii % smP, p.y * ii % smP * i % smP)

/-- A point of the curve from its coordinates. -/
def JPoint.of (xy : Nat × Nat) : JPoint := ⟨xy.1, xy.2, 1⟩

/-- Coordinates that lie on the curve. -/
def onCurve (xy : Nat × Nat) : Bool :=
  decide (xy.1 < smP) && decide (xy.2 < smP) &&
    decide (xy.2 * xy.2 % smP = (xy.1 * xy.1 % smP * xy.1 + smA * xy.1 + smB) % smP)

/-! ## Signatures (R604) -/

/-- The coordinates in a public key of 64 bytes. -/
def keyPoint (key : List Byte) : Nat × Nat := (ofBytesBE (slice key 0 32), ofBytesBE (slice key 32 32))

/-- A number as 32 bytes in the order of the standards. -/
def be32 (x : Nat) : List Byte := toBytesBE 32 x

/-- The digest of a message under a public key: SM3(Z, M), with the default distinguishing identifier. -/
def smDigest (key m : List Byte) : Nat :=
  let ident : List Byte := [0x31, 0x32, 0x33, 0x34, 0x35, 0x36, 0x37, 0x38, 0x31, 0x32, 0x33, 0x34, 0x35, 0x36, 0x37, 0x38]
  let z := sm3 ([0x00, 0x80] ++ ident ++ be32 smA ++ be32 smB ++ be32 smG.1 ++ be32 smG.2 ++ slice key 0 64)
  ofBytesBE (sm3 (z ++ m))

/-- Whether a signature of 64 bytes over a message verifies under a public key. (Log entry 147, PRESUMED.) -/
def smVerify (key sig m : List Byte) : Bool :=
  let pk := keyPoint key
  let r := ofBytesBE (slice sig 0 32)
  let s := ofBytesBE (slice sig 32 32)
  let t := (r + s) % smN
  if r = 0 ∨ smN ≤ r ∨ s = 0 ∨ smN ≤ s ∨ t = 0 ∨ onCurve pk = false then false
  else
    match (((JPoint.of smG).mul s).add ((JPoint.of pk).mul t)).affine with
    | some (x, _) => decide ((smDigest key m + x) % smN = r)
    | none => false

/-- The public key of a private key. -/
def smPublic (d : Nat) : List Byte :=
  match ((JPoint.of smG).mul d).affine with
  | some (x, y) => be32 x ++ be32 y
  | none => List.replicate 64 0

/-- The signature of a message by a private key with a random k. (Log entry 147, PRESUMED.) -/
def smSign (d k : Nat) (m : List Byte) : List Byte :=
  match ((JPoint.of smG).mul k).affine with
  | some (x, _) =>
    let r := (smDigest (smPublic d) m + x) % smN
    let s := invMod smN (1 + d) * subMod smN k (r * d) % smN
    be32 r ++ be32 s
  | none => List.replicate 64 0

/-! ## The device certificate (R612): X.509 under RFC 5280, in DER -/

/-- The tag and contents of the first DER element of a byte string, and what follows it. -/
def derTake : List Byte → Option (Nat × List Byte × List Byte)
  | t :: l :: rest =>
    let n := l.toNat
    let (len, rest) :=
      if n < 128 then (n, rest) else (ofBytesBE (rest.take (n - 128)), rest.drop (n - 128))
    if n = 128 ∨ 132 < n ∨ rest.length < len then none else some (t.toNat, rest.take len, rest.drop len)
  | _ => none

/-- The elements of a DER sequence's contents, at most k of them; none where they are not well formed. -/
def derItems : Nat → List Byte → Option (List (Nat × List Byte))
  | 0, _ => some []
  | k + 1, bs =>
    if bs.isEmpty then some []
    else
      match derTake bs with
      | some (t, c, rest) => (derItems k rest).map (fun l => (t, c) :: l)
      | none => none

/-- The object identifier of SM2 with SM3, 1.2.156.10197.1.501. -/
def oidSm2Sm3 : List Byte := [0x2A, 0x81, 0x1C, 0xCF, 0x55, 0x01, 0x83, 0x75]

/-- The number in a DER INTEGER as 32 bytes. -/
def derInt32 (c : List Byte) : List Byte := be32 (ofBytesBE c)

/-- The bytes that a certificate takes at the start of a byte string. -/
def certLength (bs : List Byte) : Nat :=
  match derTake bs with
  | some (_, _, rest) => bs.length - rest.length
  | none => 0

/-- A certificate read: what is signed, the signature, and the public key. (Log entry 147, PRESUMED.) -/
def certRead (bs : List Byte) : Option (List Byte × List Byte × List Byte) :=
  match derTake bs with
  | some (0x30, body, _) =>
    (match derItems 4 body, derTake body with
    | some [(0x30, tbs), (0x30, alg), (0x03, sig)], some (_, _, after) =>
      let signed := body.take (body.length - after.length)
      let fields := (derItems 16 tbs).getD []
      let fields := match fields with
        | (0xA0, _) :: fs => fs
        | fs => fs
      let key := match getAt (0, []) fields 5 with
        | (0x30, spki) => (match derItems 3 spki with
          | some [(0x30, _), (0x03, k)] => if k.length = 66 ∧ k.take 2 = [0x00, 0x04] then some (k.drop 2) else none
          | _ => none)
        | _ => none
      let rs := match derTake (sig.drop 1) with
        | some (0x30, c, _) => (match derItems 3 c with
          | some [(0x02, r), (0x02, s)] => some (derInt32 r ++ derInt32 s)
          | _ => none)
        | _ => none
      (match (derItems 2 alg).getD [], key, rs with
      | (0x06, oid) :: _, some k, some s => if oid = oidSm2Sm3 then some (signed, s, k) else none
      | _, _, _ => none)
    | _, _ => none)
  | _ => none

/-- The public key of a certificate that verifies under an issuer's key; a certificate has at most 2,048 bytes. -/
def certVerify (issuer bs : List Byte) : Option (List Byte) :=
  if 2048 < certLength bs then none
  else
    match certRead bs with
    | some (signed, sig, key) => if smVerify issuer sig signed then some key else none
    | none => none

end Sys2Proof.Machine
end

