-- ==== Sys2Proof/Machine/Security.lean ====
section
/-! DEFINITION. Identity, ownership, signed parts, attestation, the link-up exchange and the flash operations
(chapter 23). -/

namespace Sys2Proof.Machine

/-! ## Identity (R604, R605, R611, R612) -/

/-- The region of the flash that Oxene writes: helper data and certificate. -/
def identityBase : Nat := 0x10000

/-- The private identity key, as each use reconstructs it (R611). (Log entry 6, DESIGN CHOICE.) -/
def Work.deviceKey (w : Work) : Nat :=
  1 + (Config.pufKey (w.flashRead identityBase (min Config.certificateOffset 0x10000))).toNat % (smN - 2)

/-- The public identity key. -/
def Work.devicePublic (w : Work) : List Byte := smPublic w.deviceKey

/-- Oxene's root public key. (Log entry 6, DESIGN CHOICE.) -/
def oxeneRoot : List Byte := toBytesBE 64 Config.oxeneRoot.toNat

/-- The device certificate (R612). (Log entry 6, DESIGN CHOICE.) -/
def Work.certificate (w : Work) : List Byte :=
  let bs := w.flashRead (identityBase + Config.certificateOffset) 2052
  bs.take (certLength bs)

/-- The identity key is derived and matches its certificate (R611, R612). -/
def Work.idMatches (w : Work) : Bool :=
  match certVerify oxeneRoot w.certificate with
  | some k => decide (k = w.devicePublic)
  | none => false

/-- A signature by the identity key. -/
def Work.deviceSign (w : Work) (m : List Byte) : List Byte × Work :=
  let (v, w) := w.fresh 256
  (smSign w.deviceKey (1 + v % (smN - 1)) m, w)

/-! ## Endorsements and parts (R606 to R610) -/

/-- USAGE bits of an endorsement: SIGN_OWNER 1, HOST 2, ENDORSE 4. -/
abbrev useOwner : Nat := 1
/-- HOST. -/
abbrev useHost : Nat := 2
/-- ENDORSE. -/
abbrev useEndorse : Nat := 4

/-- The key and usage that a chain of endorsement records ends with, from the owner root on; none where it is not valid
(R607, R608). -/
def chainKey (key : List Byte) (usage : Nat) : List (List Byte) → Option (List Byte × Nat)
  | [] => some (key, usage)
  | r :: rs =>
    let u := leAt r 4 1
    let ok := decide (leAt r 0 4 = 0x4E45584F) && decide (u < 8) && decide (leAt r 5 3 = 0) && decide (u &&& usage = u) &&
      decide (usage &&& useEndorse ≠ 0) && smVerify key (slice r 80 64) (slice r 0 80)
    if ok then chainKey (slice r 16 64) u rs else none

/-- The chain in n records of 144 bytes, two at most. -/
def endorsedKey (root : List Byte) (n : Nat) (bs : List Byte) : Option (List Byte × Nat) :=
  if 2 < n ∨ root = [] then none else chainKey root 7 (chunksOf n 144 bs)

/-- Where a part of the image begins in the flash, and the bytes of its region (R605). -/
def partRegion (owner : Bool) : Nat × Nat := if owner then (0x2100000, 0xDF00000) else (0x100000, 0x2000000)

/-- The header of a part. -/
def Work.partHeader (w : Work) (owner : Bool) : List Byte := w.flashRead (partRegion owner).1 256
/-- BODY_LEN. -/
def hdrBody (h : List Byte) : Nat := leAt h 12 4
/-- ENDORSEMENTS. -/
def hdrEnds (h : List Byte) : Nat := leAt h 16 1
/-- The bytes of a part, header through signature. -/
def hdrSize (h : List Byte) : Nat := 256 + 144 * hdrEnds h + hdrBody h + 64

/-- The body of a part. -/
def Work.partBody (w : Work) (owner : Bool) : List Byte :=
  let h := w.partHeader owner
  w.flashRead ((partRegion owner).1 + 256 + 144 * hdrEnds h) (hdrBody h)

/-- The fields of a part header are well formed (R606, R609). (Log entry 148, DEDUCED.) -/
def hdrOk (owner : Bool) (h : List Byte) : Bool :=
  decide (leAt h 0 4 = if owner then 0x574F584F else 0x454E584F) && decide (leAt h 4 2 = 1) && decide (leAt h 6 2 = 0) &&
    decide (leAt h 17 3 = 0) && decide (leAt h 28 4 = 0) && decide (leAt h 64 192 = 0) &&
    decide (hdrEnds h ≤ if owner then 2 else 0) && (!owner || decide (leAt h 20 8 = 0))

/-- The checks of R609 on a part, as the RESULT code of R575; `root` is the owner root of a record that verifies.
(Log entry 148, DEDUCED.) -/
def Work.partResult (w : Work) (owner : Bool) (root : Option (List Byte)) : Nat :=
  let bad := if owner then 3 else 2
  let h := w.partHeader owner
  if (partRegion owner).2 < hdrSize h then 1
  else if !hdrOk owner h then bad
  else
    let at_ := (partRegion owner).1
    let ends := w.flashRead (at_ + 256) (144 * hdrEnds h)
    let sig := w.flashRead (at_ + hdrSize h - 64) 64
    let key := if owner then
        (match root with
        | some r =>
          (match endorsedKey r (hdrEnds h) ends with
          | some (k, u) => if hdrEnds h = 0 ∨ u &&& useOwner ≠ 0 then some k else none
          | none => none)
        | none => none)
      else some oxeneRoot
    match key with
    | some k => if sm3 (w.partBody owner) = slice h 32 32 ∧ smVerify k sig (h ++ ends) = true then 0 else bad
    | none => bad

/-- The measurement of a part (R615). -/
def Work.partMeasure (w : Work) (owner : Bool) : List Byte :=
  sm3 (w.flashRead (partRegion owner).1 (hdrSize (w.partHeader owner)))

/-! ## Ownership (R613, R614) -/

/-- The ownership record where it verifies: SERIAL and OWNER_ROOT (R612, R613). -/
def Work.ownership (w : Work) (idOk : Bool) : Option (Nat × List Byte) :=
  let r := w.flashRead 0 256
  let pub := w.devicePublic
  if idOk && decide (leAt r 0 4 = 0x524F584F) && decide (leAt r 4 2 = 1) && decide (leAt r 6 2 = 0) && decide (leAt r 12 4 = 0) &&
      decide (1 ≤ leAt r 8 4) && decide (leAt r 112 80 = 0) && decide (slice r 80 32 = sm3 pub) &&
      smVerify pub (slice r 192 64) (slice r 0 112) then
    some (leAt r 8 4, slice r 16 64)
  else none

/-- Flash bytes of a range erased. (Log entry 12, PRESUMED.) -/
def Work.flashErase (w : Work) (a n : Nat) : Work := { w with flash := w.flash.filter (fun c => !inRange a n c.1) }

/-- A supply is below threshold (R614, R619). -/
def Work.inhibited (w : Work) : Bool := w.rdB F.pwrStatusNvw 0 0

/-- SEC_FLASH_STAT.BUSY shown. -/
def Work.showBusy (w : Work) : Work :=
  w.wrB F.secFlashStatBusy 0 0 (w.sec.flashOp.isSome || w.sec.enrol.isSome)

/-- A write of SEC_OWN_CTL, word 0 (R614): without ENROL and the key it asks for nothing. -/
def Work.enrolRequest (w : Work) (v : Nat) : Work :=
  if fieldOf v 0 1 ≠ 1 ∨ fieldOf v 8 8 ≠ 0x5A then w
  else if w.inhibited then w.wr F.secOwnCtlLastStatus 0 0 sNvw
  else if !w.rdB F.secStatusOwnEn 0 0 || !w.rdB F.secStatusIdOk 0 0 || w.sec.flashOp.isSome || w.sec.enrol.isSome then
    w.wr F.secOwnCtlLastStatus 0 0 sState
  else { w with sec := { w.sec with enrol := some (toBytes 64 (w.dv F.secOwnRootRoot)) } }.showBusy

/-- ENROL (R614). -/
def execEnrol (by_ : Requester) (value : BitVec 64) (s : State) : Out :=
  s.perform (.enrol by_ value) (fun w => w.enrolRequest value.toNat)

/-- An accepted enrolment ends: the record is formed, signed, written and read back (R614). -/
def Work.enrolEnd (w : Work) : Work :=
  match w.sec.enrol with
  | none => w
  | some root =>
    let pub := w.devicePublic
    let serial := match w.ownership true with
      | some (n, _) => n + 1
      | none => 1
    let head := toBytes 4 0x524F584F ++ toBytes 4 1 ++ toBytes 4 serial ++ toBytes 4 0 ++ root ++ sm3 pub
    let (sig, w) := w.deviceSign head
    let w := (w.flashErase 0 0x10000).flashWrite 0 (head ++ List.replicate 80 0 ++ sig)
    ({ w with sec := { w.sec with enrol := none } }.showBusy).wr F.secOwnCtlLastStatus 0 0 sOk

/-- ENROL_COMPLETE (R614). -/
def execEnrolComplete (s : State) : Out := s.perform .enrolComplete Work.enrolEnd

/-! ## Flash operations (R619, R620) -/

/-- OP is one of those listed: a word with another issues nothing (R619, R673). -/
def flashOpOk (v : Nat) : Bool := decide (1 ≤ fieldOf v 0 3) && decide (fieldOf v 0 3 ≤ 4)

/-- The checks of R619 on an operation: OP, FROM_BUF, which the recovery service must set (R620, R646), KEY, ADDR, LEN.
(Log entry 149, DEDUCED.) -/
def Work.flashFails (w : Work) (v : Nat) (recovery : Bool) : List Nat :=
  let op := fieldOf v 0 3
  let buf := bitOf v 3
  let a := fieldOf v 32 28
  let n := fieldOf v 64 32
  let inParts := decide (0x100000 ≤ a) && decide (a + n ≤ 0x10000000)
  let shape := match op with
    | 1 => decide (a % 65536 = 0) && decide (n % 65536 = 0) && inParts
    | 2 => decide (a % 256 = 0) && decide (n % 256 = 0) && inParts &&
        (if buf then decide (n ≤ 256) else decide (n ≤ 2 ^ 31 - 256))
    | 3 => true
    | 4 => true
    | _ => false
  chk (decide (fieldOf v 8 8 = 0x5A) && shape && (buf || !recovery)) sRange ++
    chk (w.sec.flashOp.isNone && w.sec.enrol.isNone) sState ++ chk (!w.inhibited) sNvw

/-- An operation of SEC_FLASH_CTL is issued (R619); its data are taken at once. (Log entry 149, DEDUCED.) -/
def Work.flashIssue (w : Work) (v : Nat) (recovery : Bool) : Work :=
  let op := fieldOf v 0 3
  let n := fieldOf v 64 32
  let data := if op ≠ 2 then some []
    else if bitOf v 3 then some ((toBytes 256 (w.dv F.secFlashDataData)).take n)
    else w.read (fieldOf v 96 52) n
  let fs := w.flashFails v recovery
  match fs, data with
  | [], some bs =>
    ({ w with sec := { w.sec with flashOp := some ⟨op, fieldOf v 32 28, n, bs⟩ } }.showBusy).wr F.secFlashStatDone 0 0 0
  | [], none => w.wr F.secFlashStatLastStatus 0 0 sUnmapped
  | fs, _ => (w.countFurther .mgmt fs).wr F.secFlashStatLastStatus 0 0 (lowest fs)

/-- A row of the table for one OP: another word is not that command. -/
def Work.flashRow (w : Work) (op : Nat) (by_ : Requester) (ctl : BitVec 192) : Work :=
  if fieldOf ctl.toNat 0 3 = op then w.flashIssue ctl.toNat (decide (by_ = .recovery)) else w

/-- ERASE (R619). -/
def execErase (by_ : Requester) (ctl : BitVec 192) (s : State) : Out :=
  s.perform (.erase by_ ctl) (fun w => w.flashRow 1 by_ ctl)
/-- PROGRAM (R619). -/
def execProgram (by_ : Requester) (ctl : BitVec 192) (s : State) : Out :=
  s.perform (.program by_ ctl) (fun w => w.flashRow 2 by_ ctl)
/-- VERIFY_OXENE (R619). -/
def execVerifyOxene (by_ : Requester) (ctl : BitVec 192) (s : State) : Out :=
  s.perform (.verifyOxene by_ ctl) (fun w => w.flashRow 3 by_ ctl)
/-- VERIFY_OWNER (R619). -/
def execVerifyOwner (by_ : Requester) (ctl : BitVec 192) (s : State) : Out :=
  s.perform (.verifyOwner by_ ctl) (fun w => w.flashRow 4 by_ ctl)

/-- The operation in progress ends. (Log entry 149, DEDUCED.) -/
def Work.flashEnd (w : Work) : Work :=
  match w.sec.flashOp with
  | none => w
  | some o =>
    let w := { w with sec := { w.sec with flashOp := none } }.showBusy
    let w := match o.op with
      | 1 => (w.flashErase o.addr o.len).wr F.secFlashStatDone 0 0 o.len
      | 2 => (w.flashWrite o.addr o.bytes).wr F.secFlashStatDone 0 0 o.len
      | 3 => w.wr F.secFlashStatVerifyResult 0 0 (w.partResult false none)
      | _ => w.wr F.secFlashStatVerifyResult 0 0
          (w.partResult true ((w.ownership (w.rdB F.secStatusIdOk 0 0)).map (fun (x : Nat × List Byte) => x.2)))
    w.wr F.secFlashStatLastStatus 0 0 sOk

/-- FLASH_OP_COMPLETE (R619). -/
def execFlashOpComplete (s : State) : Out := s.perform .flashOpComplete Work.flashEnd

/-- A supply that falls below threshold ends an erase or a program at its sector or page, and an enrolment with its sector
erased; a reset ends them at once: the region's contents are then not given (R614, R620). (Log entry 149, DEDUCED.) -/
def Work.flashCut (w : Work) (supply : Bool) : Work :=
  let w := match w.sec.flashOp with
    | some o =>
      if o.op = 1 ∨ o.op = 2 then
        let w := (List.range o.len).foldl (fun (w : Work) k =>
          let (v, w) := w.fresh 8
          w.flashWrite (o.addr + k) [BitVec.ofNat 8 v]) w
        let (n, w) := w.fresh 32
        w.wr F.secFlashStatDone 0 0 (n % (o.len + 1))
      else w
    | none => w
  let w := if w.sec.flashOp.isSome then w.wr F.secFlashStatLastStatus 0 0 sNvw else w
  let w := if w.sec.enrol.isNone then w
    else if supply then (w.flashErase 0 0x10000).wr F.secOwnCtlLastStatus 0 0 sNvw
    else
      (List.range 256).foldl (fun (w : Work) k =>
        let (v, w) := w.fresh 8
        w.flashWrite k [BitVec.ofNat 8 v]) (w.flashErase 0 0x10000)
  { w with sec := { w.sec with flashOp := none, enrol := none } }.showBusy

/-! ## The unit map in force (R543, R615) -/

/-- A unit that has failed and has no spare in its place. -/
def Work.unitLost (w : Work) (kind die n : Nat) : Bool :=
  match kind with
  | 0 => (w.unitSt die n).lost
  | 1 => (w.unitSt die (96 + n)).lost
  | 2 => (w.bank die n).lost
  | 3 => (smGet MBank.atReset w.matchBanks (die * 128 + n)).lost
  | 5 => w.spr.mcLost.contains n
  | 6 => (w.codec die false).out.contains n
  | 7 => (w.codec die true).out.contains n
  | _ => false

/-- The entry of a physical unit of a kind other than lanes. -/
def Work.unitEntry (w : Work) (kind die phys : Nat) : Nat :=
  let used := (kindCount kind).2
  let base := unitKey kind die 0
  let moved := w.spr.bound.find? (fun b => decide (b.2 = phys) && decide (base ≤ b.1) && decide (b.1 < base + used))
  let logical := match moved with
    | some b => some (b.1 - base)
    | none => if phys < used ∧ w.physical kind die phys = phys then some phys else none
  match logical with
  | some n => if w.unitLost kind die n then mapEntry kind die phys 2 0 else mapEntry kind die phys 0 n
  | none => mapEntry kind die phys (if (w.spareList kind die).contains phys then 1 else 2) 0

/-- The entry of a lane. -/
def Work.laneState (w : Work) (p dir lane : Nat) : Nat :=
  let x := w.port p
  let failed := if dir = 0 then x.txFailed else x.rxFailed
  if failed.contains lane then laneEntry p dir lane 2 0
  else if lane = 4 then
    match failed with
    | l :: _ => laneEntry p dir 4 0 (laneId p dir l)
    | [] => laneEntry p dir 4 1 0
  else laneEntry p dir lane 0 (laneId p dir lane)

/-- The entries of the unit map, kind by kind and die by die, in order of physical unit. (Log entry 150, DEDUCED.) -/
def Work.unitMap (w : Work) : List Nat :=
  let kind (k : Nat) (dies : List Nat) : List Nat :=
    dies.flatMap (fun d => (List.range (kindCount k).1).map (w.unitEntry k d))
  let four := List.range 4
  kind 0 four ++ kind 1 four ++ kind 2 four ++ kind 3 four ++
    (List.range 24).flatMap (fun p => [0, 1].flatMap (fun dir => (List.range 5).map (w.laneState p dir))) ++
    kind 5 [0] ++ kind 6 four ++ kind 7 four

/-! ## Attestation (R615) -/

/-- The 256 B report over a nonce. (Log entry 150, DEDUCED.) -/
def Work.report (w : Work) (nonce : List Byte) : List Byte × Work :=
  let paired := w.paired
  let x := 0x5241584F + 2 ^ 32 + w.deviceId * 2 ^ 48 + w.dv F.bootIdentityPair * 2 ^ 64 + w.dv F.bootIdentityGroup * 2 ^ 72 +
    w.devState * 2 ^ 76 + (if paired then w.partner * 2 ^ 80 + 2 ^ 89 else 0) + w.pairState * 2 ^ 90 +
    (if w.isMirror then 2 ^ 92 else 0) + w.dv F.secStatusVintage * 2 ^ 96 + w.tickNo % 2 ^ 64 * 2 ^ 128 +
    w.dv F.secStatusOwnerSerial * 2 ^ 192
  let head := toBytes 32 x ++ slice nonce 0 32 ++ slice w.sec.oxeneMeas 0 32 ++ slice w.sec.ownerMeas 0 32 ++
    sm3 (w.unitMap.flatMap (toBytes 4)) ++ sm3 w.sec.ownerRoot
  let (sig, w) := w.deviceSign head
  (head ++ sig, w.bump F.secAttestReports 0 0)

/-- ATTEST (R615): the request waits for its turn to be signed. (Log entry 150, DEDUCED.) -/
def Work.attestRequest (w : Work) (m : Msg) : Work :=
  w.command m none (fun w =>
    if m.payload.length < 32 then w.ctrlDone m.h sRange []
    else if !w.rdB F.secStatusIdOk 0 0 then w.ctrlDone m.h sState []
    else if 16 ≤ w.sec.reports.length then w.ctrlDone m.h sFull []
    else { w with sec := { w.sec with reports := w.sec.reports ++ [(m.h, m.payload.take 32)] } })

/-- ATTEST. -/
def execAttest (h : KHdr) (payload : List Byte) (s : State) : Out :=
  s.perform (.attest h payload) (fun w => w.arriveAs clsCtrl 0x02 ⟨h, payload⟩ Work.attestRequest)

/-- REPORT_SIGNED (R615): the oldest request is answered with its report and the certificate. -/
def execReportSigned (s : State) : Out :=
  s.perform .reportSigned (fun w =>
    match w.sec.reports with
    | [] => w
    | (h, nonce) :: rest =>
      let (r, w) := { w with sec := { w.sec with reports := rest } }.report nonce
      w.ctrlDone h sOk (r ++ w.certificate))

/-! ## Link-up (R500, R616) -/

/-- The link-up exchange of a port has failed. -/
def Work.attestFail (w : Work) (p : Nat) : Work := (w.setKl p klAttestFail sAuth).bump F.secAttestLinkFail 0 0

/-- The peer's step 2 passes R616. -/
def Work.peerPasses (w : Work) (p : Nat) (payload : List Byte) : Bool :=
  let r := slice payload 8 256
  let dev := fieldOf (leAt r 0 32) 48 9
  match certVerify oxeneRoot (payload.drop 264) with
  | some key =>
    decide (264 ≤ payload.length) && smVerify key (slice r 192 64) (slice r 0 192) &&
      decide (slice r 32 32 = (w.port p).helloNonce) && decide (slice r 160 32 = sm3 w.sec.ownerRoot) &&
      (decide (w.rd F.klPortCfgRole 0 p ≠ 2) || decide (dev = w.partner))
  | none => false

/-- A port comes UP (R498, R500): it is routed to again, and replays what its peer has not acknowledged. -/
def Work.portUp (w : Work) (p dev : Nat) : Work :=
  let w := (w.wr F.klPortStatusPeerDev 0 p dev).setPort p { w.port p with excluded := false, helloNonce := [] }
  let w := w.setKl p klUp sOk
  if (w.port p).unacked.isEmpty then w else w.resend p

/-- LINK_HELLO reaches a port (R500, R616): step 1 is answered, also by an end that is UP already; step 2 is checked in
ATTESTING. (Log entry 119, DEDUCED.) -/
def Work.linkHello (w : Work) (p : Nat) (payload : List Byte) : Work :=
  if w.klState p ≠ klAttesting ∧ w.klState p ≠ klUp then w
  else
    match leAt payload 0 1 with
    | 1 =>
      if w.rdB F.secStatusIdOk 0 0 then
        let (r, w) := w.report (slice payload 8 32)
        w.directOut p 0x30 (toBytes 8 2 ++ r ++ w.certificate)
      else w
    | 2 =>
      if w.klState p = klUp then w
      else if w.peerPasses p payload then w.portUp p (fieldOf (leAt payload 8 32) 48 9) else w.attestFail p
    | _ => w

/-- LINK_HELLO_TIMEOUT (R616): no step 2 within 1 s. -/
def execLinkHelloTimeout (port : Nat) (s : State) : Out :=
  s.perform (.linkHelloTimeout port) (fun w => if w.klState port = klAttesting then w.attestFail port else w)

/-- ATTEST_RETRY (R500): 10 s after ATTEST_FAIL the exchange is tried again. -/
def execAttestRetry (port : Nat) (s : State) : Out :=
  s.perform (.attestRetry port) (fun w =>
    if w.klState port = klAttestFail then (w.setKl port klAttesting sOk).helloOut port else w)

end Sys2Proof.Machine
end

