-- ==== Sys2Proof/Machine/Bridge.lean ====
section
/-! DEFINITION. The host port and its sessions, writes of hosts and devices, responses and events that arrive
(R519 to R523, R601, R617). -/

namespace Sys2Proof.Machine

/-! ## Sessions (R520, R617) -/

/-- Session states: CLOSED. -/
abbrev ssClosed : Nat := 0
/-- CHALLENGED. -/
abbrev ssChallenged : Nat := 1
/-- OPEN. -/
abbrev ssOpen : Nat := 2

/-- A session changes its state, with its event (source 81). (Log entry 146, DEDUCED.) -/
def Work.setSess (w : Work) (s st status : Nat) : Work :=
  if w.sessState s = st then w else (w.wr F.fabSessionState 0 s st).event 81 status (s + st * 4)

/-- A session closes (R523): its responses will be discarded. -/
def Work.closeSession (w : Work) (s status : Nat) : Work :=
  ((w.setSession s ⟨[], [], []⟩).wr F.fabSessionPending 0 s 0).setSess s ssClosed status

/-- The bridge answers a host on its host port. -/
def Work.hostReply (w : Work) (h : KHdr) (status : Nat) (result : List Byte) : Work :=
  let payload := toBytes 8 status ++ result
  let k := { w.hdrTo clsResp 1 w.deviceId h.srcSess h.flow h.tag with
             hops := w.dv F.fabCfgHops, tick := w.tickNo, len := payload.length }
  w.enqueue (w.dv F.fabHostPort) ⟨k, payload⟩

/-- A session opening is refused and counted (R617). (Log entry 122, DEDUCED.) -/
def Work.sessRefuse (w : Work) (h : KHdr) (fs : List Nat) : Work :=
  ((w.bump F.secAttestSessionFail 0 0).countFurther .mgmt fs).hostReply h (lowest fs) []

/-- Step 1 of SESSION_OPEN (R520, R617): a valid chain that ends with a HOST key takes the lowest CLOSED session.
(Log entry 122, DEDUCED.) -/
def Work.sessStep1 (w : Work) (h : KHdr) (mac : Nat) (payload : List Byte) : Work :=
  let n := leAt payload 1 1
  let chain := endorsedKey w.sec.ownerRoot n (payload.drop 8)
  let host := match chain with
    | some (k, u) => if u &&& useHost ≠ 0 then some k else none
    | none => none
  let shape := decide (leAt payload 2 6 = 0) && decide (1 ≤ n) && decide (n ≤ 2) && decide (payload.length = 8 + 144 * n) &&
    decide (h.srcSess = 0)
  let open_ := (List.range 4).any (fun s => decide (w.sessState s = ssOpen) && decide (w.rd F.fabSessionMac 0 s = mac))
  let free := (List.range 4).find? (fun s => w.sessState s = ssClosed)
  let fs := chk shape sRange ++ chk (!open_) sState ++ chk free.isSome sFull ++ chk (host.isSome || !shape) sAuth
  match fs, free, host with
  | [], some s, some key =>
    let (v, w) := w.fresh 256
    let c := toBytes 32 v
    let w := ((w.setSession s ⟨c, key, []⟩).wr F.fabSessionMac 0 s mac).wr F.fabSessionPending 0 s 0
    (w.setSess s ssChallenged sOk).hostReply h sOk (toBytes 8 s ++ c)
  | fs, _, _ => w.sessRefuse h fs

/-- What the host signs in step 2 (R617). (Log entry 147, PRESUMED.) -/
def Work.challengeMsg (w : Work) (s mac : Nat) : List Byte :=
  (w.session s).challenge ++ toBytes 2 w.deviceId ++ toBytes 1 s ++ toBytesBE 6 mac

/-- Step 2 of SESSION_OPEN (R520, R617): the challenge serves it alone, whatever it carries.
(Log entry 122, DEDUCED.) -/
def Work.sessStep2 (w : Work) (h : KHdr) (mac : Nat) (payload : List Byte) : Work :=
  let s := h.srcSess - 1
  let shape := decide (leAt payload 1 7 = s) && decide (payload.length = 72)
  let challenged := decide (w.sessState s = ssChallenged)
  let fs := chk shape sRange ++ chk challenged sState
  if !fs.isEmpty then
    let w := w.sessRefuse h fs
    if challenged then w.closeSession s sAuth else w
  else if smVerify (w.session s).key (payload.drop 8) (w.challengeMsg s mac) then
    ((w.wr F.fabSessionOpenedTick 0 s w.tickNo).setSess s ssOpen sOk).hostReply h sOk []
  else (w.sessRefuse h [sAuth]).closeSession s sAuth

/-- What the bridge admits as SESSION_OPEN (R519, R520): with SRC_SESS 0 step 1 alone; with another, a session's number and
one, from the address that the session is bound to. (Log entry 122, DEDUCED.) -/
def Work.admitsOpen (w : Work) (h : KHdr) (mac : Nat) (payload : List Byte) : Bool :=
  if h.srcSess = 0 then decide (leAt payload 0 1 = 1)
  else decide (h.srcSess ≤ 4) &&
    (decide (w.sessState (h.srcSess - 1) = ssClosed) || decide (w.rd F.fabSessionMac 0 (h.srcSess - 1) = mac))

/-- SESSION_OPEN on a bridge (R519, R617). -/
def Work.sessionOpen (w : Work) (h : KHdr) (mac : Nat) (payload : List Byte) : Work :=
  if !w.rdB F.fabHostEn 0 0 ∨ h.cls ≠ clsCtrl ∨ h.typ ≠ 0x01 then w
  else if !w.admitsOpen h mac payload then w.bump F.fabStatAuthDrop 0 0
  else
    match leAt payload 0 1 with
    | 1 => w.sessStep1 h mac payload
    | 2 => w.sessStep2 h mac payload
    | _ => w.sessRefuse h [sRange]

/-- SESSION_OPEN. -/
def execSessionOpen (h : KHdr) (macAddr : Nat) (payload : List Byte) (s : State) : Out :=
  s.perform (.sessionOpen h macAddr payload) (fun w => w.sessionOpen h macAddr payload)

/-- SESSION_OPEN_TIMEOUT (R520): 1 s without step 2. -/
def execSessionOpenTimeout (session : Nat) (s : State) : Out :=
  s.perform (.sessionOpenTimeout session) (fun w =>
    if w.sessState session = ssChallenged then (w.bump F.secAttestSessionFail 0 0).closeSession session sAuth else w)

/-- SESSION_IDLE_TIMEOUT (R523). -/
def execSessionIdleTimeout (session : Nat) (s : State) : Out :=
  s.perform (.sessionIdleTimeout session) (fun w =>
    if w.sessState session = ssOpen then w.closeSession session sOk else w)

/-- SESSION_CLOSE (R523): a session of this bridge closes by its own command, which is answered first.
(Log entry 122, DEDUCED.) -/
def Work.sessionClose (w : Work) (m : Msg) : Work :=
  w.command m none (fun w =>
    let s := m.h.srcSess - 1
    if m.h.srcDev = w.deviceId ∧ 1 ≤ m.h.srcSess ∧ m.h.srcSess ≤ 4 ∧ w.sessState s = ssOpen then
      (w.ctrlDone m.h sOk []).closeSession s sOk
    else w.ctrlDone m.h sState [])

/-- SESSION_CLOSE. -/
def execSessionClose (h : KHdr) (s : State) : Out :=
  s.perform (.sessionClose h) (fun w => w.arriveAs clsCtrl 0x0D ⟨h, []⟩ Work.sessionClose)

/-! ## Writes (R522, R584) -/

/-- A WRITE_ACK to the host session that wrote. -/
def Work.writeAck (w : Work) (h : KHdr) (status : Nat) : Work :=
  w.send ⟨w.hdrTo clsResp 2 h.srcDev h.srcSess h.flow h.tag, toBytes 8 status⟩

/-- A write of a range that a message asks for: the status, and the block. A descriptor-table page refuses it (R100),
and so does a page without memory. (Log entry 123, DEDUCED.) -/
def Work.writeRange (w : Work) (a : Nat) (bs : List Byte) : Nat × Work :=
  if bs.isEmpty then (sOk, w)
  else if !w.mapped a bs.length then (sUnmapped, w)
  else if w.meetsDt a bs.length then (sRange, w)
  else (sOk, w.write a bs)

/-- DATA WRITE (R522): of a host session, within the host window and acknowledged; of a device, anywhere in HBM.
(Log entries 122, DEDUCED; 123, DEDUCED.) -/
def Work.dataWrite (w : Work) (port : Option Nat) (m : Msg) : Work :=
  let a := leAt m.payload 0 8
  let bs := m.payload.drop 8
  let shape := decide (8 ≤ m.payload.length) && decide (a < 2 ^ 52)
  if m.h.srcSess ≠ 0 then
    let base := w.dv F.fabHostWinBase
    let inWin := decide (base ≤ a) && decide (a + bs.length ≤ base + w.dv F.fabHostWinLen) && decide (0 < w.dv F.fabHostWinLen)
    if w.devState = stRest then w.writeAck m.h sState
    else if !shape || !inWin then w.writeAck m.h sRange
    else
      let (st, w) := w.writeRange a bs
      w.writeAck m.h st
  else if w.devState = stRest then w.restDiscard port
  else if shape && decide (regionOf a = .hbm) && decide (regionOf (a + bs.length - 1) = .hbm) then (w.writeRange a bs).2
  else w

/-- DATA_WRITE (R522). -/
def execDataWrite (h : KHdr) (payload : List Byte) (s : State) : Out :=
  s.perform (.dataWrite h payload) (fun w => w.arriveAs clsData 1 ⟨h, payload⟩ (fun w m => w.dataWrite none m))

/-! ## Responses and events that arrive (R521, R601) -/

/-- A CTRL_DONE for this device: one that refuses an event clears the subscription that it names (R601). -/
def Work.ctrlAnswer (w : Work) (m : Msg) : Work :=
  if leAt m.payload 0 8 = sState ∧ m.payload.length = 12 ∧ 1 ≤ m.h.srcSess then
    w.dropSub m.h.srcDev (m.h.srcSess - 1) (leAt m.payload 8 4)
  else w

/-- CTRL_DONE (R521, R601): for a session of this bridge it is kept and forwarded. -/
def execCtrlDone (h : KHdr) (payload : List Byte) (s : State) : Out :=
  s.perform (.ctrlDone h payload) (fun w => w.arriveAs clsResp 1 ⟨h, payload⟩ Work.ctrlAnswer)

/-- EVENT (R601): for a session of this bridge it is forwarded or refused; no device takes one for itself. -/
def execEvent (h : KHdr) (payload : List Byte) (s : State) : Out :=
  s.perform (.event h payload) (fun w => w.arriveAs clsCtrl 0x20 ⟨h, payload⟩ (fun w _ => w))

/-! ## What the host port admits (R519 to R521) -/

/-- A command of an OPEN session: a repeated one is answered from what is kept or not at all; a seventeenth unanswered
one is refused; a new one is remembered and goes on (R521). (Log entry 122, DEDUCED.) -/
def Work.hostCommand (w : Work) (s : Nat) (m : Msg) (f : Work → Msg → Work) : Work :=
  let x := w.session s
  match x.tags.find? (fun t => t.1 = m.h.tag) with
  | some (_, some bs) =>
    let k := { w.hdrTo clsResp 1 w.deviceId m.h.srcSess m.h.flow m.h.tag with
               hops := w.dv F.fabCfgHops, tick := w.tickNo, len := bs.length }
    w.enqueue (w.dv F.fabHostPort) ⟨k, bs⟩
  | some (_, none) => w
  | none =>
    if 16 ≤ w.rd F.fabSessionPending 0 s then w.hostReply m.h sFull []
    else
      let w := w.setSession s { x with tags := ((m.h.tag, none) :: x.tags).take 64 }
      f (w.bump F.fabSessionPending 0 s) m

/-- A message from the host port, by the source address of its frame: admitted under R519 and R520, or discarded and
counted. The bridge writes SRC_DEV, and HOPS as a sender does. -/
def Work.fromHost (w : Work) (mac : Nat) (m0 : Msg) (f : Work → Msg → Work) : Work :=
  let m : Msg := { m0 with h := { m0.h with srcDev := w.deviceId, hops := w.dv F.fabCfgHops } }
  let isOpen := decide (m.h.cls = clsCtrl) && decide (m.h.typ = 0x01)
  let isCmd := decide (m.h.cls = clsCtrl) && decide (1 ≤ m.h.typ) && decide (m.h.typ ≤ 0x0D)
  let isWrite := decide (m.h.cls = clsData) && decide (m.h.typ = 1)
  let s := m.h.srcSess - 1
  if isOpen then w.sessionOpen m.h mac m.payload
  else if m.h.srcSess = 0 ∨ 4 < m.h.srcSess ∨ (!isCmd && !isWrite) = true then w.bump F.fabStatAuthDrop 0 0
  else if w.sessState s = ssClosed ∨ w.rd F.fabSessionMac 0 s ≠ mac then w.bump F.fabStatAuthDrop 0 0
  else if w.sessState s = ssChallenged then
    (if isCmd then w.hostReply m.h sState [] else w.bump F.fabStatAuthDrop 0 0)
  else if isCmd then w.hostCommand s m f
  else f w m

end Sys2Proof.Machine
end

