-- ==== Sys2Proof/Machine/Embed.lean ====
section
/-! DEFINITION. Embedding tables: declaration, directories, lookup and pooling, sparse updates, replacement, migration
and the commit of a step (chapter 13). -/

namespace Sys2Proof.Machine

/-! ## Table records (R371, R372) -/

/-- TABLE_ID. -/
def EmbTable.id_ (t : EmbTable) : Nat := fieldOf t.cfg 0 12
/-- TYPE. -/
def EmbTable.ty (t : EmbTable) : ETy := (ETy.ofCode (fieldOf t.cfg 12 5)).getD .fp32
/-- REPLACEABLE. -/
def EmbTable.replaceable (t : EmbTable) : Bool := bitOf t.cfg 17
/-- OPT: 0 NONE, 1 SGD, 2 ADAGRAD. -/
def EmbTable.opt (t : EmbTable) : Nat := fieldOf t.cfg 18 2
/-- Row bytes. -/
def EmbTable.rowBytes (t : EmbTable) : Nat := fieldOf t.cfg 32 9 * 16
/-- ROWS. -/
def EmbTable.rows (t : EmbTable) : Nat := fieldOf t.cfg 64 41
/-- SEED. -/
def EmbTable.seed (t : EmbTable) : Nat := fieldOf t.cfg 128 64
/-- D. -/
def EmbTable.d (t : EmbTable) : Nat := fieldOf t.cfg 192 10
/-- SET_ADDR. -/
def EmbTable.setAddr (t : EmbTable) : Nat := fieldOf t.cfg 256 52
/-- SLOTS. -/
def EmbTable.slots (t : EmbTable) : Nat := fieldOf t.cfg 320 40
/-- DIR_BASE. -/
def EmbTable.dirBase (t : EmbTable) : Nat := fieldOf t.cfg 384 52
/-- DATA_BASE. -/
def EmbTable.dataBase (t : EmbTable) : Nat := fieldOf t.cfg 448 52
/-- SEL_BASE. -/
def EmbTable.selBase (t : EmbTable) : Nat := fieldOf t.cfg 512 52
/-- LR. -/
def EmbTable.lr (t : EmbTable) : Nat := fieldOf t.cfg 576 32
/-- EPS. -/
def EmbTable.eps (t : EmbTable) : Nat := fieldOf t.cfg 608 32
/-- UPD_CAP. -/
def EmbTable.updCap (t : EmbTable) : Nat := fieldOf t.cfg 704 32
/-- REPL_CAP. -/
def EmbTable.replCap (t : EmbTable) : Nat := fieldOf t.cfg 736 32
/-- ACC_BASE. -/
def EmbTable.accBase (t : EmbTable) : Nat := fieldOf t.cfg 640 52
/-- SVC. -/
def EmbTable.svc (t : EmbTable) : Nat := fieldOf t.cfg 864 5
/-- Elements of a row. -/
def EmbTable.elems (t : EmbTable) : Nat := 8 * t.rowBytes / t.ty.width
/-- The slot stride (R372). -/
def EmbTable.stride (t : EmbTable) : Nat := if t.opt = 2 then alignUp (t.rowBytes + 16) 64 else t.rowBytes
/-- Directory buckets. -/
def EmbTable.nb (t : EmbTable) : Nat := t.slots / 8

/-- An entry of the accumulator area: epochs take its two halves in turn (R372). (Log entry 170, DESIGN CHOICE.) -/
def EmbTable.accAddr (t : EmbTable) (epoch k : Nat) : Nat :=
  t.accBase + (epoch % 2 * t.updCap + k) * (16 + 4 * t.elems)

/-- The record's bits that every device must declare alike: TABLE_ID to ROW16, ROWS, SEED and D (R371). -/
def sharedFields (x : Nat) : Nat :=
  fieldOf x 0 20 + fieldOf x 32 9 * 2 ^ 32 + fieldOf x 64 41 * 2 ^ 64 + fieldOf x 128 64 * 2 ^ 128 + fieldOf x 192 10 * 2 ^ 192

/-- The attached table of an id. -/
def Work.table? (w : Work) (id_ : Nat) : Option EmbTable := w.emb.tables.find? (fun t => t.id_ = id_)
/-- An attached table replaced. -/
def Work.setTable (w : Work) (t : EmbTable) : Work :=
  { w with emb := { w.emb with tables := w.emb.tables.map (fun q => if q.slot = t.slot then t else q) } }

/-- The field checks of R371 and R373 on a table record. -/
def tableFieldsOk (x : Nat) : Bool :=
  let t : EmbTable := ⟨x, 0, 0, 0, false, [], [], 0⟩
  [0x08, 0x09, 0x0D, 0x0E, 0x0F].contains (fieldOf x 12 5) && decide (t.opt < 3) && decide (fieldOf x 20 12 = 0) &&
  decide (1 ≤ t.rowBytes) && decide (t.rowBytes ≤ 4096) && decide (fieldOf x 41 23 = 0) && decide (t.rows ≤ 2 ^ 40) &&
  decide (fieldOf x 105 23 = 0) && decide (1 ≤ t.d) && decide (t.d ≤ 512) && decide (fieldOf x 202 54 = 0) &&
  decide (fieldOf x 308 12 = 0) && decide (t.slots % 8 = 0) && decide (fieldOf x 360 24 = 0) &&
  decide (t.dirBase % 64 = 0) && decide (fieldOf x 436 12 = 0) && decide (t.dataBase % 64 = 0) &&
  decide (fieldOf x 500 12 = 0) && decide (fieldOf x 564 12 = 0) && decide (fieldOf x 640 52 % 64 = 0) &&
  decide (fieldOf x 692 12 = 0) && decide (t.replCap ≤ 65535) && decide (fieldOf x 820 12 = 0) && decide (t.svc ≤ 16) &&
  (decide (1 ≤ t.svc) || decide (t.slots = 0)) && decide (fieldOf x 869 155 = 0)

/-- An area lies in the declaring plan's partition; one of no bytes needs none (R373). -/
def Work.areaGranted (w : Work) (plan lo len : Nat) : Bool :=
  decide (len = 0) || (oneRegion lo len && w.granted plan lo len)

/-- The areas of a table (R372, R373): the set, the directory, the data, the selectors and the accumulators. -/
def Work.tableAreas (w : Work) (plan x : Nat) : Bool :=
  let t : EmbTable := ⟨x, 0, 0, 0, false, [], [], 0⟩
  let cellar (a : Nat) : Bool := match regionOf a with
    | .cellar _ => true
    | _ => false
  let dram (a : Nat) : Bool := decide (a < cellarBase)
  w.areaGranted plan t.setAddr (2 * t.d) && w.areaGranted plan t.dirBase (64 * t.nb) &&
  (decide (t.slots = 0) || dram t.dirBase) &&
  w.areaGranted plan t.dataBase (t.slots * t.stride * (if t.replaceable then 2 else 1)) &&
  (!t.replaceable || decide (t.slots = 0) || (cellar t.selBase && w.areaGranted plan t.selBase t.slots)) &&
  w.areaGranted plan (fieldOf x 640 52) (2 * t.updCap * (16 + 4 * t.elems)) &&
  w.areaGranted plan (fieldOf x 768 52) (if fieldOf x 768 52 = 0 then 0 else fieldOf x 832 32 * (8 + t.rowBytes))

/-! ## Owner and slot (R375 to R378, R394) -/

/-- The device of a shard (R371). -/
def Work.shardDev (w : Work) (t : EmbTable) (s : Nat) : Nat := (w.readLE (t.setAddr + 2 * s) 2).getD 0 % 512

/-- The hash of a row. -/
def EmbTable.hash (t : EmbTable) (r : Nat) : Nat := vh64Word t.seed r
/-- The owner under the hash alone (R375). -/
def Work.hashOwner (w : Work) (t : EmbTable) (r : Nat) : Nat := w.shardDev t ((t.hash r * t.d) >>> 64)

/-- The key of an override: row number and table id, two units (R394). -/
def ovrKey (table row : Nat) : List Nat := [row, table]

/-- The override in force for a row (R394). -/
def Work.override (w : Work) (table row : Nat) : Work × Option Nat :=
  let n := w.dv F.fabEmbCfgOvrCount
  if n = 0 then (w, none)
  else
    let (w, h, _, _) := w.tableSearch (w.dv F.fabEmbCfgOvrDie) (w.dv F.fabEmbCfgOvrFirst) n 2 (ovrKey table row)
    (w, h.map (fun x => x.result % 512))

/-- The owner of a row: an override first, then the hash (R375, R394). -/
def Work.ownerOf (w : Work) (t : EmbTable) (r : Nat) : Work × Nat :=
  match w.override t.id_ r with
  | (w, some d) => (w, d)
  | (w, none) => (w, w.hashOwner t r)

/-- The buckets of a row's chain (R375). -/
def EmbTable.chain (t : EmbTable) (r : Nat) : List Nat :=
  let f := t.hash r * t.d % 2 ^ 64
  let b := (f * t.nb) >>> 64
  (List.range 8).map (fun j => (b + j) % max 1 t.nb)

/-- An empty directory entry and a tombstone (R376). -/
def dirEmpty : Nat := 2 ^ 64 - 1
/-- A tombstone. -/
def dirTomb : Nat := 0xFFFFFFFFFFFFFFFE

/-- The device address of a directory entry. -/
def EmbTable.entry (t : EmbTable) (slot : Nat) : Nat := t.dirBase + 8 * slot
/-- A directory entry. -/
def Work.dirEntry (w : Work) (t : EmbTable) (slot : Nat) : Nat := (w.readLE (t.entry slot) 8).getD 0

/-- The slot of a row along its chain: tombstones are passed over, an empty entry ends the search (R376). -/
def Work.dirFind (w : Work) (t : EmbTable) (r : Nat) : List Nat → Option Nat
  | [] => none
  | b :: bs =>
    let es := (List.range 8).map (fun k => w.dirEntry t (8 * b + k))
    match findIdx1 (fun e => decide (e = r) || decide (e = dirEmpty)) es with
    | some k => if getAt 0 es k = r then some (8 * b + k) else none
    | none => Work.dirFind w t r bs

/-- The slot that holds a row, where its device holds it (R376, R377). -/
def Work.slotOfRow (w : Work) (t : EmbTable) (r : Nat) : Option Nat := if t.nb = 0 then none else w.dirFind t r (t.chain r)

/-- The slot that an insert takes: the first tombstone or empty entry of the chain (R376). -/
def Work.freeSlot (w : Work) (t : EmbTable) (r : Nat) : Option Nat :=
  if t.nb = 0 then none
  else ((t.chain r).flatMap (fun b => (List.range 8).map (8 * b + ·))).find?
    (fun s => decide (w.dirEntry t s = dirEmpty) || decide (w.dirEntry t s = dirTomb))

/-- The active half of a slot (R372). -/
def Work.activeHalf (w : Work) (t : EmbTable) (s : Nat) : Nat :=
  if t.replaceable then (w.readLE (t.selBase + s) 1).getD 0 % 2 else 0
/-- The address of a half of a slot (R372). -/
def EmbTable.slotAddr (t : EmbTable) (s half : Nat) : Nat :=
  t.dataBase + (if t.replaceable then 2 * s + half else s) * t.stride
/-- The address of a row as it serves. -/
def Work.rowAddr (w : Work) (t : EmbTable) (s : Nat) : Nat := t.slotAddr s (w.activeHalf t s)

/-- A row and its state as they serve: zeros for an absent row (R377). -/
def Work.rowData (w : Work) (t : EmbTable) (r : Nat) : List Byte × Nat :=
  match w.slotOfRow t r with
  | some s =>
    let a := w.rowAddr t s
    ((w.read a t.rowBytes).getD [], if t.opt = 2 then (w.readLE (a + t.rowBytes) 4).getD 0 else 0)
  | none => (List.replicate t.rowBytes 0, 0)

/-- A row and its state stored in a half of a slot. -/
def Work.storeRow (w : Work) (t : EmbTable) (s half : Nat) (bs : List Byte) (st : Nat) : Work :=
  let a := t.slotAddr s half
  let w := w.write a (slice bs 0 t.rowBytes)
  if t.opt = 2 then w.writeLE (a + t.rowBytes) 4 st else w

/-- The slot that a row is put in: the one that holds it, or the one that an insert takes (R376). -/
def Work.putSlot (w : Work) (t : EmbTable) (r : Nat) : Option Nat := (w.slotOfRow t r).orElse (fun _ => w.freeSlot t r)

/-- A row put in half 0 with selector 0; none when its chain has no room (R376, R397). (Log entry 80, DEDUCED.) -/
def Work.insertRow (w : Work) (t : EmbTable) (r : Nat) (bs : List Byte) (st : Nat) : Option Work :=
  (w.putSlot t r).map (fun s =>
    let w := (w.writeLE (t.entry s) 8 r).storeRow t s 0 bs st
    if t.replaceable then w.writeLE (t.selBase + s) 1 0 else w)

/-- The bytes that `insertRow` would change, as they stand (R395). -/
def Work.beforeInsert (w : Work) (t : EmbTable) (r : Nat) : List (Nat × List Byte) :=
  match w.putSlot t r with
  | none => []
  | some s =>
    let n := t.rowBytes + (if t.opt = 2 then 4 else 0)
    let at_ := [(t.entry s, 8), (t.slotAddr s 0, n)] ++ (if t.replaceable then [(t.selBase + s, 1)] else [])
    at_.map (fun x => (x.1, (w.read x.1 x.2).getD []))

/-- Bytes put back (R395). -/
def Work.putBack (w : Work) (undo : List (Nat × List Byte)) : Work := undo.foldl (fun w x => w.write x.1 x.2) w

/-- An absent row counted (R377). -/
def Work.countAbsent (w : Work) : Work := w.bump F.fabEmbStatAbsent 0 0
/-- Accumulated rows discarded (R377, R386, R392). -/
def Work.countDrop (w : Work) (n : Nat := 1) : Work := w.bump F.fabEmbStatUpdDrop 0 0 n
/-- A request or update forwarded (R394). -/
def Work.countForward (w : Work) (t : EmbTable) : Work := w.bump F.fabEmbLoadForwarded 0 t.slot
/-- A row noted for the next delta (R528, section 3). -/
def Work.markRow (w : Work) (table row : Nat) (tomb : Bool) : Work :=
  let others := w.marks.rows.filter (fun e => !(decide (e.1 = table) && decide (e.2.1 = row)))
  { w with marks := { w.marks with rows := (table, row, tomb) :: others } }

/-! ## Attaching (R373, R374) -/

/-- The lowest attached-table slot that is free. -/
def Work.tableSlot (w : Work) : Nat := ((List.range 64).find? (fun k => w.emb.tables.all (fun t => t.slot ≠ k))).getD 64

/-- The records of the dense pack: a row number and the row bytes. -/
def Work.loadPack (w : Work) (t : EmbTable) : Work :=
  let a := fieldOf t.cfg 768 52
  if a = 0 then w
  else (List.range (fieldOf t.cfg 832 32)).foldl (fun w k =>
    let p := a + k * (8 + t.rowBytes)
    let r := (w.readLE p 8).getD 0
    let (w, owner) := w.ownerOf t r
    if w.ownId owner then
      match w.insertRow t r ((w.read (p + 8) t.rowBytes).getD []) 0 with
      | some w => w
      | none => w.countAbsent
    else w.countAbsent) w

/-- A table attached: directory empty, selectors zero, the dense pack inserted; it serves from the next tick (R373). -/
def Work.attachTable (w : Work) (plan x : Nat) : Work :=
  let k := w.tableSlot
  let t : EmbTable := ⟨x, plan, k, w.tickNo + 1, false, [], [], 0⟩
  let w := { w with emb := { w.emb with tables := w.emb.tables ++ [t] } }
  let w := w.wr F.fabEmbLoadTableId 0 k t.id_
  let w := w.write t.dirBase (List.replicate (64 * t.nb) 0xFF)
  let w := if t.replaceable then w.write t.selBase (List.replicate t.slots 0) else w
  w.loadPack t

/-- Some row of a table is migrating, from this device or to it (R373). (Log entry 82, DEDUCED.) -/
def Work.tableMigrating (w : Work) (id_ : Nat) : Bool :=
  w.emb.migs.any (fun m => decide (m.table = id_) && decide (m.phase < 3)) ||
  w.emb.incoming.any (fun i => decide (i.table = id_) && i.stored)

/-- The failures of R373 on a record; a record whose ROWS is zero detaches its table and needs no areas. -/
def Work.attachFails (w : Work) (plan x : Nat) : List Nat :=
  let id_ := fieldOf x 0 12
  let detach := decide (fieldOf x 64 41 = 0)
  chk (!w.tableMigrating id_) sState ++
  (if detach then []
   else
    chk (tableFieldsOk x && w.tableAreas plan x && w.emb.tables.all (fun t => decide (t.id_ ≠ id_))) sRange ++
    chk (decide (w.emb.tables.length < 64)) sFull)

/-- The devices of a record's set (R371). (Log entry 82, DEDUCED.) -/
def Work.deviceSet (w : Work) (t : EmbTable) : List Nat := (List.range t.d).map (fun s => w.shardDev t s)

/-- A declaration that agrees with one already held, the device set included, changes nothing; one that differs is
refused (R371, R373). (Log entry 82, DEDUCED.) -/
def Work.sameTable (w : Work) (x : Nat) : Bool :=
  decide (fieldOf x 64 41 ≠ 0) && (match w.table? (fieldOf x 0 12) with
    | some t => decide (sharedFields t.cfg = sharedFields x) &&
        decide (w.deviceSet t = w.deviceSet ⟨x, 0, 0, 0, false, [], [], 0⟩)
    | none => false)

/-- TABLE_ATTACH on a record (R371, R373). (Log entry 82, DEDUCED.) -/
def Work.tableAttachRec (w : Work) (plan x : Nat) : Nat × Work :=
  let id_ := fieldOf x 0 12
  if w.sameTable x then
    let fs := chk (tableFieldsOk x && w.tableAreas plan x) sRange ++ chk (!w.tableMigrating id_) sState
    (lowest fs, w.countFurther .mgmt fs)
  else
    let fs := w.attachFails plan x
    if !fs.isEmpty then (lowest fs, w.countFurther .mgmt fs)
    else if fieldOf x 64 41 = 0 then
      (sOk, { w with emb := { w.emb with tables := w.emb.tables.map (fun t =>
        if t.id_ = id_ then { t with detach := true } else t) } })
    else (sOk, w.attachTable plan x)

/-- TABLE_ATTACH (R373, R584): a payload that is no table record is out of range. (Log entry 125, DEDUCED.) -/
def Work.tableAttachCmd (w : Work) (m : Msg) : Work :=
  if m.payload.length = 128 then
    let x := ofBytes m.payload
    w.command m (some (objTable, fieldOf x 0 12, 0)) (fun w =>
      if w.devState = stRest then w.ctrlDone m.h sState []
      else
        let (st, w) := w.tableAttachRec firmwareTable x
        (w.markControl w.tickNo m []).ctrlDone m.h st [])
  else w.command m none (fun w => w.ctrlDone m.h sRange [])

/-- TABLE_ATTACH (R371, R373). -/
def execTableAttach (h : KHdr) (payload : List Byte) (s : State) : Out :=
  s.perform (.tableAttach h payload) (fun w => w.arriveAs clsCtrl 0x07 ⟨h, payload⟩ (fun w m => w.tableAttachCmd m))

/-! ## Message headers (R384) -/

/-- The header of an embedding message. -/
structure EmbHdr where
  table : Nat
  pool : Nat
  dev : Nat
  part : Nat
  parts : Nat
  tick : Nat
  count : Nat
  tag : Nat
  deriving DecidableEq, Repr

/-- The 32 bytes of R384. -/
def EmbHdr.bytes (h : EmbHdr) : List Byte :=
  toBytes 32 (h.table + h.pool * 2 ^ 12 + h.dev % 512 * 2 ^ 16 + h.part % 65536 * 2 ^ 32 + h.parts % 65536 * 2 ^ 48 +
    h.tick % 2 ^ 64 * 2 ^ 64 + h.count % 2 ^ 32 * 2 ^ 128 + h.tag % 2 ^ 32 * 2 ^ 160)

/-- The header that bytes spell. -/
def EmbHdr.ofBytes (bs : List Byte) : EmbHdr :=
  let x := leAt bs 0 32
  { table := fieldOf x 0 12, pool := fieldOf x 12 2, dev := fieldOf x 16 9, part := fieldOf x 32 16,
    parts := fieldOf x 48 16, tick := fieldOf x 64 64, count := fieldOf x 128 32, tag := fieldOf x 160 32 }

/-- An embedding message sent, on a flow that the runtime chooses: a free value; one that no frame can hold is not sent
(R384, R503). (Log entries 78, DESIGN CHOICE; 171, DESIGN CHOICE.) -/
def Work.embSend (w : Work) (cls typ dev tag : Nat) (h : EmbHdr) (entries : List Byte) : Work :=
  if 9144 < 32 + entries.length then w
  else
    let (f, w) := w.fresh 16
    w.send { h := w.hdrTo cls typ dev 0 f tag, payload := h.bytes ++ entries }

/-- FP32 values as bytes. -/
def f32Bytes (vs : List Nat) : List Byte := vs.flatMap (toBytes 4)

/-! ## Lookup and pooling (R380 to R383) -/

/-- The row elements as FP32, and what the row's memory met (R381, R383). -/
def Work.rowVals (w : Work) (t : EmbTable) (r : Nat) : List Nat × RowSt × Bool :=
  match w.slotOfRow t r with
  | none => (List.replicate t.elems 0, .ok, true)
  | some s =>
    let a := w.rowAddr t s
    let n := ceilDiv t.rowBytes 64
    let st := (List.range n).foldl (fun (x : RowSt) k => x.worse (w.rowState (a + 64 * k))) RowSt.ok
    let x := (w.readLE a t.rowBytes).getD 0
    ((List.range t.elems).map (fun e =>
      if st = .ok then toF32 t.ty (fieldOf x (e * t.ty.width) t.ty.width) else 0), st, false)

/-- A sum of rows in no fixed order, element by element (R94). (Log entry 39, DESIGN CHOICE.) -/
def Work.sumRows (w : Work) (n : Nat) (rows : List (List Nat)) : List Nat × Work :=
  (List.range n).foldl (fun (acc : List Nat × Work) e =>
    let (v, w) := acc.2.sumFree (rows.map (fun r => getAt 0 r e))
    (acc.1 ++ [v], w)) ([], w)

/-- Rows pooled: a sum, or the elementwise maximum (R76, R381). -/
def Work.poolRows (w : Work) (pool n : Nat) (rows : List (List Nat)) : List Nat × Work :=
  if pool = 2 then
    ((List.range n).map (fun e =>
      let xs := rows.map (fun r => f32 (getAt 0 r e))
      match xs with
      | [] => 0
      | x :: r => Fmt.fp32.round (r.foldl FVal.max x)), w)
  else w.sumRows n rows

/-- An owner pools the rows of one bag (R381): the values, and whether a row could not be read. -/
def Work.poolBag (w : Work) (t : EmbTable) (pool : Nat) (rows : List Nat) : List Nat × List Nat × Work :=
  let xs := rows.map (fun r => w.rowVals t r)
  let absent := (xs.filter (fun x => x.2.2)).length
  let fs := xs.flatMap (fun x => match x.2.1 with
    | .ok | .held => []
    | .bad => [sCheck]
    | .lost => [sCheck]
    | .unmapped => [sUnmapped])
  let w := w.bump F.fabEmbStatAbsent 0 0 absent
  let w := w.setTable { t with lookups := t.lookups + rows.length }
  let (v, w) := w.poolRows pool t.elems (xs.map (·.1))
  (v, fs, w)

/-- The bags of a batch, rising, each with its rows. -/
def bagsOf (es : List (Nat × Nat)) : List (Nat × List Nat) :=
  (sortBy (fun a b => decide (a ≤ b)) (es.map (·.1)).eraseDups).map (fun b => (b, (es.filter (fun e => e.1 = b)).map (·.2)))

/-- A row that this device has given away and whose tombstone is still to come (R394). -/
def Work.flipped? (w : Work) (table row : Nat) : Option EmbMig :=
  w.emb.migs.find? (fun m => decide (m.table = table) && decide (m.row = row) && decide (m.phase = 3))

/-- Where a lookup request of a row goes: served here, or forwarded to another device (R394). A row that migrated away
is served for requests issued before its ownership flipped, until its tombstone. -/
def Work.lookupRoute (w : Work) (t : EmbTable) (row issued : Nat) : Work × Option Nat :=
  match w.flipped? t.id_ row with
  | some m => (w, if issued ≤ m.tick then none else some m.dest)
  | none =>
    let (w, d) := w.ownerOf t row
    (w, if w.ownId d then none else some d)

/-- The bag records of a batch packed into payloads that fit a frame; a larger one travels alone (R384, R503).
(Log entry 77, DEDUCED.) -/
def packRecords (size : Nat) : List (List Byte) → List (List (List Byte))
  | [] => []
  | r :: rs =>
    match packRecords size rs with
    | [] => [[r]]
    | g :: gs => if ((r :: g).map List.length).foldl (· + ·) 0 ≤ size then (r :: g) :: gs else [r] :: g :: gs

/-- The entries of an EMB_LOOKUP: bag and row number. -/
def lookupEntries (bs : List Byte) (n : Nat) : List (Nat × Nat) :=
  (List.range n).map (fun k =>
    let x := leAt bs (32 + 8 * k) 8
    (fieldOf x 40 24, fieldOf x 0 40))

/-- An entry of an EMB_LOOKUP. -/
def lookupEntry (e : Nat × Nat) : List Byte := toBytes 8 (e.2 + e.1 * 2 ^ 40)

/-- Pieces of at most n entries. -/
def splitEvery {α : Type} (n : Nat) : Nat → List α → List (List α)
  | 0, _ => []
  | k + 1, xs => if xs.isEmpty then [] else xs.take n :: splitEvery n k (xs.drop n)

/-- A batch in frames, numbered from 0 (R384). -/
def Work.embFrames (w : Work) (cls typ dev tag : Nat) (h : EmbHdr) (fs : List (List (List Byte))) : Work :=
  (List.range fs.length).foldl (fun w k =>
    let f := getAt [] fs k
    w.embSend cls typ dev tag { h with part := k, parts := fs.length, count := f.length } f.flatten) w

/-- A lookup batch at an owner (R381, R382, R394): the rows it serves are pooled and answered with one record for each bag,
the others go on to the device that holds them. (Log entry 77, DEDUCED.) -/
def Work.serveBatch (w : Work) (t : EmbTable) (h : EmbHdr) (tag : Nat) (es : List (Nat × Nat)) : Work :=
  let (w, here, away) := es.foldl (fun (acc : Work × List (Nat × Nat) × List (Nat × Nat × Nat)) e =>
    match acc.1.lookupRoute t e.2 h.tick with
    | (w, none) => (w, acc.2.1 ++ [e], acc.2.2)
    | (w, some d) => (w, acc.2.1, acc.2.2 ++ [(d, e)])) (w, [], [])
  let w := ((away.map (·.1)).eraseDups).foldl (fun w d =>
    let mine := (away.filter (fun x => x.1 = d)).map (fun x => lookupEntry x.2)
    (w.countForward t).embFrames clsReq 0x31 d tag h (splitEvery 1024 mine.length mine)) w
  let (w, recs) := (bagsOf here).foldl (fun (acc : Work × List (List Byte)) b =>
    let (v, _, w) := acc.1.poolBag ((acc.1.table? h.table).getD t) h.pool b.2
    (w, acc.2 ++ [toBytes 8 (b.1 + b.2.length * 2 ^ 24) ++ f32Bytes v])) (w, [])
  w.embFrames clsResp 0x32 h.dev h.tag h (packRecords (9144 - 32) recs)

/-- The lookup batch of a requester and a tag. -/
def Work.batch? (w : Work) (dev tag : Nat) : Option EmbBatch :=
  w.emb.batches.find? (fun b => decide (b.dev = dev) && decide (b.tag = tag))

/-- A frame joined to its batch: the entries of the batch once every frame of it is there (R381, R384). -/
def Work.joinBatch (w : Work) (h : EmbHdr) (es : List (Nat × Nat)) : Option (List (Nat × Nat)) × Work :=
  let old := ((w.batch? h.dev h.tag).map (·.got)).getD []
  let got := old.filter (fun g => g.1 ≠ h.part) ++ [(h.part, es)]
  let others := w.emb.batches.filter (fun b => !(decide (b.dev = h.dev) && decide (b.tag = h.tag)))
  if h.parts ≤ got.length then (some (got.flatMap (·.2)), { w with emb := { w.emb with batches := others } })
  else (none, { w with emb := { w.emb with batches := others ++ [⟨h.dev, h.tag, h.tick, got⟩] } })

/-- EMB_LOOKUP at an owner (R381, R382, R394, R584): the batch is served once it is there whole.
(Log entry 77, DEDUCED.) -/
def Work.embLookupMsg (w : Work) (m : Msg) : Work :=
  let h := EmbHdr.ofBytes m.payload
  match w.table? h.table with
  | none => w
  | some t =>
    if w.tickNo < t.serves ∨ w.devState = stRest then w
    else
      match w.joinBatch h (lookupEntries m.payload h.count) with
      | (some es, w) => w.serveBatch t h m.h.tag es
      | (none, w) => w

/-- EMB_LOOKUP (R381, R384). -/
def execEmbLookup (h : KHdr) (payload : List Byte) (s : State) : Out :=
  s.perform (.embLookup h payload) (fun w => w.arriveAs clsReq 0x31 ⟨h, payload⟩ (fun w m => w.embLookupMsg m))

/-- An embedding record (R379). -/
structure EmbRec where
  op : Nat
  pool : Nat
  table : Nat
  idx : Nat
  offs : Nat
  data : Nat
  count : Nat
  stats : Nat
  reservedZero : Bool
  deriving DecidableEq, Repr

/-- The fields of R379. -/
def EmbRec.ofRec (r : Rec) : EmbRec :=
  { op := recF r 7 0, pool := recF r 9 8, table := recF r 27 16, idx := recF r 47 32, offs := recF r 63 48,
    data := recF r 79 64, count := recF r 127 96, stats := recF r 339 288,
    reservedZero := recZero r [(15, 10), (31, 28), (95, 80), (287, 128), (511, 340)] }

/-- A row number taken from an index column: none for the sentinel, reduced and counted otherwise (R378). -/
def Work.rowNumber (w : Work) (t : EmbTable) (ty : ETy) (x : Nat) : Option Nat × Work :=
  if (ty = .uint32 ∧ x = absent32) ∨ (ty = .int64 ∧ x = absent64) then (none, w)
  else
    let i : Int := if ty = .int64 then sext 64 x else x
    let r := (i % (t.rows : Int)).toNat
    (some r, if (r : Int) = i then w else w.bump F.fabEmbStatWrapped 0 0)

/-- The result of a bag from what its owners pooled (R381). -/
def Work.bagResult (w : Work) (t : EmbTable) (pool : Nat) (bs : List EmbBag) : List Nat × Work :=
  let rows : Nat := ((bs.map (fun b => b.rows)).foldl (fun (a b : Nat) => a + b) 0)
  if rows = 0 then (List.replicate t.elems 0, w)
  else
    let (v, w) := w.poolRows pool t.elems (bs.map (·.vals))
    (if pool = 1 then v.map (fun x => f32Div x (Fmt.fp32.round (FVal.ofInt rows))) else v, w)

/-- The call of a core that waits for lookup parts. -/
def Work.lookupCall? (w : Work) (core : Nat) : Option EmbCall := w.emb.calls.find? (fun c => c.core = core)

/-- A LOOKUP all of whose parts are in writes its bags and returns (R381, R383). -/
def Work.lookupFinish (w : Work) (c : EmbCall) : Work :=
  let d := c.core / 96
  let g := c.core % 96
  let w := { w with emb := { w.emb with calls := w.emb.calls.filter (fun q => q.core ≠ c.core) } }
  let w := w.setCore d g { w.core d g with wait := .none }
  let o : OpRec := { op := 0xD1, mode := 0, ncol := 0, inp := 0, aux := 0, sel := 0, out := 0, outValid := 0, out2 := 0,
                     arg0 := 0, arg1 := 0, arg2 := 0, stats := c.stats, reservedZero := true }
  match w.table? c.table, w.desc c.plan c.data with
  | some t, some dst =>
    let a : OAcc := { w := w, fails := c.fails, rowsIn := c.count, nulls := c.nulls }
    let a := (List.range c.count).foldl (fun (a : OAcc) b =>
      let (v, w) := a.w.bagResult t c.pool (c.bags.filter (fun x => x.bag = b))
      (List.range t.elems).foldl (fun (a : OAcc) e =>
        let a := a.stores (dst.bitAddr [e, b])
        a.on (a.w.combineAt dst (dst.bitAddr [e, b]) (getAt 0 v e)).1) (a.on w)) a
    let rows := (c.bags.map (·.rows)).foldl (· + ·) 0
    a.finish d g o rows
  | _, _ => w.opFail d g [sState]

/-- A LOOKUP goes on once no part of it is outstanding, with the descriptor that it started with (R102). -/
def Work.lookupCheck (w : Work) (core : Nat) : Work :=
  match w.lookupCall? core with
  | some c =>
    if w.emb.parts.any (fun p => p.core = core) then w else w.with c.plan c.held (fun w => w.lookupFinish c)
  | none => w

/-- A call replaced. -/
def Work.setLookupCall (w : Work) (c : EmbCall) : Work :=
  { w with emb := { w.emb with calls := c :: w.emb.calls.filter (fun q => q.core ≠ c.core) } }

/-- The batch of one remote owner sent in frames of at most 1,024 entries, each a part (R380, R384).
(Log entry 79, DEDUCED.) -/
def Work.sendLookups (w : Work) (core : Nat) (t : EmbTable) (pool dev : Nat) (es : List (Nat × Nat)) : Work :=
  let fs := splitEvery 1024 es.length es
  let tag := w.emb.nextTag
  let parts := (List.range fs.length).map (fun k =>
    EmbPart.mk core tag k ((bagsOf (getAt [] fs k)).map (fun b => (b.1, b.2.length))) w.tickNo)
  let w := { w with emb := { w.emb with nextTag := (tag + 1) % 2 ^ 32, parts := w.emb.parts ++ parts } }
  w.embFrames clsReq 0x31 dev tag ⟨t.id_, pool, w.deviceId, 0, 0, w.tickNo, 0, tag⟩ (fs.map (·.map lookupEntry))

/-- The checks of R379 that both calls share. -/
def Work.embCommon (w : Work) (p : Nat) (o : EmbRec) : Option EmbTable × Option Desc × Option Desc × List Nat :=
  let (idx, f1) := w.operand p o.idx false
  let (data, f2) := w.operand p o.data (decide (o.op = 0xD1))
  let t := (w.table? o.table).filter (fun t => t.serves ≤ w.tickNo)
  (t, idx, data, f1 ++ f2 ++ chk t.isSome sState ++
    chk (o.reservedZero && statsOk o.stats && decide (1 ≤ o.count) && decide (o.count ≤ 65536)) sRange ++
    (match idx with
    | some d => chk ((decide (d.ty = some .uint32) || decide (d.ty = some .int64)) && decide (d.rank = 1)) sRange
    | none => []) ++
    (match data, t with
    | some d, some t => chk (decide (d.ty = some .fp32) && decide (d.rank = 2) &&
        decide (getAt 0 d.size 0 = t.elems)) sRange
    | _, _ => []))

/-- The indices of a LOOKUP as bag and row, with the counts of reductions: of row numbers in FAB_EMB_STAT, and of
positions past the index column in the core's error counts (R113, R378, R380). -/
def Work.lookupIndices (w : Work) (u : CntUnit) (t : EmbTable) (idx offs : Desc) (count : Nat) :
    List (Nat × Nat) × List Nat × Work :=
  (List.range count).foldl (fun (acc : List (Nat × Nat) × List Nat × Work) b =>
    let (lo, s1) := acc.2.2.at0 offs b
    let (hi, s2) := acc.2.2.at0 offs (b + 1)
    if (s1.worse s2) ≠ .ok then (acc.1, acc.2.1 ++ stFail (s1.worse s2), acc.2.2)
    else (List.range (hi - lo)).foldl (fun (acc : List (Nat × Nat) × List Nat × Work) k =>
      let (i, wraps) := reduceIdx ((lo + k : Nat) : Int) (getAt 1 idx.size 0)
      let acc := (acc.1, acc.2.1, if wraps then acc.2.2.countWrap u 1 else acc.2.2)
      let (x, st) := acc.2.2.at0 idx i
      if st ≠ .ok then (acc.1, acc.2.1 ++ stFail st, acc.2.2)
      else
        match acc.2.2.rowNumber t (idx.ty.getD .uint32) x with
        | (some r, w) => (acc.1 ++ [(b, r)], acc.2.1, w)
        | (none, w) => (acc.1, acc.2.1, w)) acc) ([], [], w)

/-- LOOKUP checked (R379, R383): its table, its indices and its offsets, and the failures. -/
def Work.lookupChecked (w : Work) (p : Nat) (o : EmbRec) : Option EmbTable × Option Desc × Option Desc × List Nat :=
  let (t?, idx?, data?, f0) := w.embCommon p o
  let (offs?, f1) := w.operand p o.offs false
  (t?, idx?, offs?, f0 ++ f1 ++ chk (decide (o.pool < 3)) sRange ++
    (match offs? with
    | some x => chk (decide (x.ty = some .uint32) && decide (o.count + 1 ≤ getAt 0 x.size 0)) sRange
    | none => []) ++
    (match data? with
    | some x => chk (decide (o.count ≤ getAt 0 x.size 1)) sFull
    | none => []))

/-- LOOKUP that passes (R380): remote owners are asked, local rows pooled, and the core waits for its parts. -/
def Work.lookupRun (w : Work) (d g : Nat) (o : EmbRec) (t : EmbTable) (idx offs : Desc) : Work :=
  let p := w.planOf (.core d g)
  let core := d * 96 + g
  let (es, bad, w) := w.lookupIndices (.gc d g) t idx offs o.count
  let (w, routed) := es.foldl (fun (acc : Work × List (Nat × Nat × Nat)) e =>
    let (w, r) := acc.1.ownerOf t e.2
    (w, acc.2 ++ [(r, e)])) (w, [])
  let here := (routed.filter (fun x => w.ownId x.1)).map (·.2)
  let (w, bags, fl) := (bagsOf here).foldl (fun (acc : Work × List EmbBag × List Nat) b =>
    let (v, f, w) := acc.1.poolBag ((acc.1.table? o.table).getD t) o.pool b.2
    (w, acc.2.1 ++ [⟨b.1, b.2.length, v⟩], acc.2.2 ++ f)) (w, [], [])
  let away := (((routed.filter (fun x => !w.ownId x.1)).map (·.1)).eraseDups)
  let w := away.foldl (fun w dev =>
    w.sendLookups core t o.pool dev ((routed.filter (fun x => x.1 = dev)).map (·.2))) w
  let c := w.core d g
  let w := w.setCore d g { c with wait := .lookup }
  (w.setLookupCall ⟨core, p, o.table, o.pool, o.data, o.count, o.stats, 0, (bad ++ fl).foldl setInsert [], bags,
    w.hold p [o.data]⟩).lookupCheck core

/-- LOOKUP (R379, R380). -/
def Work.lookupOp (w : Work) (d g : Nat) (o : EmbRec) : Work :=
  match w.lookupChecked (w.planOf (.core d g)) o with
  | (some t, some idx, some offs, []) => w.lookupRun d g o t idx offs
  | (_, _, _, fs) => w.opFail d g fs

/-- Rows of a bag that an owner has answered, taken from the parts of the batch in order (R381). -/
def answered (tag bag : Nat) : Nat → List EmbPart → List EmbPart
  | _, [] => []
  | n, p :: ps =>
    if p.tag = tag then
      let d := min n (smGet 0 p.left bag)
      let left := (p.left.map (fun b => if b.1 = bag then (b.1, b.2 - d) else b)).filter (fun b => b.2 ≠ 0)
      let rest := answered tag bag (n - d) ps
      if left.isEmpty then rest else { p with left := left } :: rest
    else p :: answered tag bag n ps

/-- EMB_POOLED (R381): the records of a batch join their call. Nothing in the message says whether the owner met an
uncorrectable word in a row (R383): a free value. (Log entry 172, DESIGN CHOICE.) -/
def Work.embPooledMsg (w : Work) (m : Msg) : Work :=
  let h := EmbHdr.ofBytes m.payload
  match w.emb.parts.find? (fun p => decide (p.tag = h.tag)), w.table? h.table with
  | some p, some t =>
    let n := 8 + 4 * t.elems
    let recs := (List.range h.count).map (fun k =>
      let x := leAt m.payload (32 + n * k) 8
      EmbBag.mk (fieldOf x 0 24) (fieldOf x 24 24)
        ((List.range t.elems).map (fun e => leAt m.payload (32 + n * k + 8 + 4 * e) 4)))
    let parts := recs.foldl (fun ps (b : EmbBag) => answered h.tag b.bag b.rows ps) w.emb.parts
    let (met, w) := ({ w with emb := { w.emb with parts := parts } } : Work).fresh 1
    let w := match w.lookupCall? p.core with
      | some c =>
        let fails := if met = 1 then setInsert c.fails sCheck else c.fails
        w.setLookupCall { c with bags := c.bags ++ recs, fails := fails }
      | none => w
    w.lookupCheck p.core
  | _, _ => w

/-- EMB_POOLED (R381, R384). -/
def execEmbPooled (h : KHdr) (payload : List Byte) (s : State) : Out :=
  s.perform (.embPooled h payload) (fun w => w.arriveAs clsResp 0x32 ⟨h, payload⟩ (fun w m => w.embPooledMsg m))

/-- LOOKUP_PART_TIMEOUT (R383): outstanding part k is completed as zeros for its bags from tick T + 2 on; rows that no
owner pooled are not counted as pooled. (Log entry 173, DEDUCED.) -/
def execLookupPartTimeout (k : Nat) (s : State) : Out :=
  s.perform (.lookupPartTimeout k) (fun w =>
    match w.emb.parts[k]? with
    | some p =>
      if p.tick + 2 ≤ w.tickNo then
        let w := { w with emb := { w.emb with parts := w.emb.parts.eraseIdx k } }
        let w := w.bumpSat F.fabEmbStatMissing 0 0
        let w := match w.lookupCall? p.core with
          | some c =>
            let n := ((w.table? c.table).map EmbTable.elems).getD 0
            let zeros := p.left.map (fun (b : Nat × Nat) => EmbBag.mk b.1 0 (List.replicate n 0))
            w.setLookupCall { c with fails := setInsert c.fails sCheck, bags := c.bags ++ zeros }
          | none => w
        w.lookupCheck p.core
      else w
    | none => w)

/-! ## Sparse updates (R385, R386, R394, R397) -/

/-- A row's accumulated gradient written to its entry: 16 B that the spec does not lay out, then the FP32 sum
(R372, R386). (Log entry 170, DESIGN CHOICE.) -/
def Work.writeAcc (w : Work) (t : EmbTable) (a : EmbAcc) : Work :=
  let (head, w) := w.fresh 128
  let (v, w) := w.sumRows t.elems a.grads
  let p := t.accAddr a.epoch a.entry
  (w.writeLE p 16 head).write (p + 16) (f32Bytes v)

/-- A gradient joined to the step accumulator of the present epoch; a row beyond UPD_CAP is discarded (R386). -/
def Work.accumulate (w : Work) (t : EmbTable) (row : Nat) (g : List Nat) : Work :=
  let T := w.tickNo
  let mine := t.acc.filter (fun a => a.epoch = T)
  match mine.find? (fun a => a.row = row) with
  | some a =>
    let b := { a with grads := a.grads ++ [g] }
    (w.setTable { t with acc := t.acc.map (fun q => if q = a then b else q) }).writeAcc t b
  | none =>
    if mine.length < t.updCap then
      let k := ((List.range (mine.length + 1)).find? (fun k => mine.all (fun a => a.entry ≠ k))).getD 0
      let b : EmbAcc := ⟨T, row, [g], k⟩
      (w.setTable { t with acc := t.acc ++ [b] }).writeAcc t b
    else w.countDrop

/-- One gradient entry sent to a device. -/
def Work.sendUpdate (w : Work) (t : EmbTable) (dev row : Nat) (g : List Nat) : Work :=
  w.embSend clsData 0x33 dev 0 ⟨t.id_, 0, w.deviceId, 0, 1, w.tickNo, 1, 0⟩ (toBytes 8 row ++ f32Bytes g)

/-- The row that this device takes over, or has refused or given up (R394, R395). -/
def Work.incoming? (w : Work) (table row : Nat) : Option EmbIn :=
  w.emb.incoming.find? (fun i => decide (i.table = table) && decide (i.row = row))

/-- An update that has reached this device: accumulated by the owner and by a new owner that holds the row already, also
forwarded while a migration is under way, forwarded where another device owns the row, and discarded by a new owner that
has not taken the row (R394, R395, R397). -/
def Work.takeUpdate (w : Work) (t0 : EmbTable) (row : Nat) (g : List Nat) : Work :=
  let (w, owner) := w.ownerOf t0 row
  let t := (w.table? t0.id_).getD t0
  match w.incoming? t.id_ row, w.flipped? t.id_ row with
  | some i, _ => if i.stored then w.accumulate t row g else w
  | none, some m => (w.countForward t).sendUpdate t m.dest row g
  | none, none =>
    if w.ownId owner then
      let w := w.accumulate t row g
      match w.emb.migs.find? (fun m => decide (m.table = t.id_) && decide (m.row = row) &&
          (decide (m.phase = 1) || decide (m.phase = 2))) with
      | some m => (w.countForward t).sendUpdate t m.dest row g
      | none => w
    else (w.countForward t).sendUpdate t owner row g

/-- EMB_UPDATE (R384, R386, R584). (Log entry 125, DEDUCED.) -/
def Work.embUpdateMsg (w : Work) (m : Msg) : Work :=
  let h := EmbHdr.ofBytes m.payload
  match w.table? h.table with
  | none => w
  | some t =>
    let n := 8 + 4 * t.elems
    if w.devState = stRest then w.countDrop h.count
    else (List.range h.count).foldl (fun w k =>
      w.takeUpdate t (fieldOf (leAt m.payload (32 + n * k) 8) 0 40)
        ((List.range t.elems).map (fun e => leAt m.payload (32 + n * k + 8 + 4 * e) 4))) w

/-- EMB_UPDATE (R386). -/
def execEmbUpdate (h : KHdr) (payload : List Byte) (s : State) : Out :=
  s.perform (.embUpdate h payload) (fun w => w.arriveAs clsData 0x33 ⟨h, payload⟩ (fun w m => w.embUpdateMsg m))

/-- The batch of distinct rows of one owner sent in frames (R384, R385). -/
def Work.sendUpdates (w : Work) (t : EmbTable) (dev : Nat) (es : List (Nat × List Nat)) : Work :=
  let per := max 1 ((9144 - 32) / (8 + 4 * t.elems))
  w.embFrames clsData 0x33 dev 0 ⟨t.id_, 0, w.deviceId, 0, 0, w.tickNo, 0, 0⟩
    (splitEvery per es.length (es.map (fun e => toBytes 8 e.1 ++ f32Bytes e.2)))

/-- UPDATE checked (R379, R385): gradients of equal rows are summed, and one entry for each distinct row goes to its owner. -/
def Work.updatePlan (w : Work) (d g : Nat) (o : EmbRec) (make : Bool) : OpPlan :=
  let p := w.planOf (.core d g)
  let (t?, idx?, data?, f0) := w.embCommon p o
  let fs := f0 ++ chk (decide (o.pool = 0) && decide (o.offs = noHandle)) sRange ++
    (match t? with
    | some t => chk (decide (t.opt ≠ 0)) sState
    | none => []) ++
    (match idx?, data? with
    | some i, some x => chk (decide (o.count ≤ getAt 0 i.size 0) && decide (o.count ≤ getAt 0 x.size 1)) sRange
    | _, _ => [])
  match t?, idx?, data?, fs with
  | some t, some idx, some data, [] => .go (fun w =>
    let (es, bad, w) := (List.range o.count).foldl (fun (acc : List (Nat × List Nat) × List Nat × Work) k =>
      let (x, st) := acc.2.2.at0 idx k
      let vals := (List.range t.elems).map (fun e => acc.2.2.readBits (data.bitAddr [e, k]) 32)
      let dst := (List.range t.elems).foldl (fun (s : RowSt) e => s.worse (acc.2.2.rowState (data.bitAddr [e, k] / 8))) st
      if dst ≠ .ok then (acc.1, acc.2.1 ++ stFail dst, acc.2.2)
      else
        match acc.2.2.rowNumber t (idx.ty.getD .uint32) x with
        | (some r, w) => (acc.1 ++ [(r, vals.map (fun v => (v.map (·.1)).getD 0))], acc.2.1, w)
        | (none, w) => (acc.1, acc.2.1, w)) ([], [], w)
    let rows := (es.map (·.1)).eraseDups
    let (w, sums) := rows.foldl (fun (acc : Work × List (Nat × Nat × List Nat)) r =>
      let (v, w) := acc.1.sumRows t.elems ((es.filter (fun e => e.1 = r)).map (·.2))
      let (w, own) := w.ownerOf t r
      (w, acc.2 ++ [(own, r, v)])) (w, [])
    let w := if make then
        ((sums.map (·.1)).eraseDups).foldl (fun w dev =>
          let mine := (sums.filter (fun s => s.1 = dev)).map (·.2)
          if w.ownId dev then mine.foldl (fun w e => w.takeUpdate ((w.table? o.table).getD t) e.1 e.2) w
          else w.sendUpdates t dev mine) w
      else w
    (({ w := w, fails := bad.foldl setInsert [], rowsIn := o.count } : OAcc), rows.length))
  | _, _, _, _ => .fails fs

/-- The parts of an operator record that an embedding call's return uses. -/
def EmbRec.asOp (o : EmbRec) : OpRec :=
  { op := o.op, mode := 0, ncol := 0, inp := 0, aux := 0, sel := 0, out := 0, outValid := 0, out2 := 0, arg0 := 0, arg1 := 0,
    arg2 := 0, stats := o.stats, reservedZero := true }

/-- UPDATE: an effecting call (R550). -/
def Work.updateOp (w : Work) (d g : Nat) (o : EmbRec) : Work :=
  let (make, w) := w.effecting d g
  w.opRun d g o.asOp (w.updatePlan d g o make)

/-- An embedding call by its OP (R379). (Log entry 61, DESIGN CHOICE.) -/
def Work.embCall (w : Work) (d g a0 : Nat) (want : Option Nat) : Work :=
  match w.callRecord d g a0 64 64 with
  | none => w.opFail d g [sRange]
  | some bs =>
    let o := EmbRec.ofRec (BitVec.ofNat 512 (ofBytes bs))
    if want.isSome ∧ want ≠ some o.op then w
    else
      match o.op with
      | 0xD1 => w.lookupOp d g o
      | 0xD2 => w.updateOp d g o
      | _ => w.opFail d g [sRange]

/-- LOOKUP (R380). -/
def execLookup (die gc a0 : Nat) (s : State) : Out :=
  s.perform (.lookup die gc a0) (fun w => w.coreRow die gc (fun w => w.embCall die gc a0 (some 0xD1)))
/-- UPDATE (R385). -/
def execUpdate (die gc a0 : Nat) (s : State) : Out :=
  s.perform (.update die gc a0) (fun w => w.coreRow die gc (fun w => w.embCall die gc a0 (some 0xD2)))

/-! ## Replacing rows (R389 to R391, R518) -/

/-- A command for a row that another device owns goes on unchanged to the owner; a device without the table answers
STATE_REJECT (R518). -/
def Work.atOwner (w : Work) (m : Msg) (table row : Nat) (f : Work → EmbTable → Work) : Work :=
  match w.table? table with
  | none => w.ctrlDone m.h sState []
  | some t =>
    let (w, owner) := w.ownerOf t row
    if w.ownId owner then f w t else w.route { m with h := { m.h with dstDev := owner } }

/-- The failures of a ROW_REPLACE at the owner (R389, R391). -/
def Work.replaceFails (w : Work) (t : EmbTable) (row : Nat) : List Nat :=
  let T := w.tickNo
  let migrating := w.emb.migs.any (fun m => decide (m.table = t.id_) && decide (m.row = row) && decide (m.phase < 3))
  chk (!t.repl.any (fun r => decide (r.row = row) && decide (r.tick = T)) && !migrating) sState ++
  chk (t.replaceable || decide ((t.repl.filter (fun r => r.tick = T)).length < t.replCap)) sFull ++
  chk (w.putSlot t row).isSome sFull

/-- A row and its state written into the inactive half of a replaceable table; an absent row is first inserted as zeros,
which is what it reads as until the flip (R377, R390). (Log entry 174, DEDUCED.) -/
def Work.fillInactive (w : Work) (t : EmbTable) (row : Nat) (bs : List Byte) (st : Nat) : Work :=
  let w := match w.slotOfRow t row with
    | some _ => w
    | none => (w.insertRow t row (List.replicate t.rowBytes 0) 0).getD w
  match w.slotOfRow t row with
  | some s => w.storeRow t s (1 - w.activeHalf t s) bs st
  | none => w

/-- ROW_REPLACE (R389 to R391): a replaceable table takes the row into its inactive half at once. A row that finds no
slot is counted (R377; log entry 80, DEDUCED). -/
def Work.rowReplaceCmd (w : Work) (m : Msg) : Work :=
  let table := leAt m.payload 0 2 % 4096
  let row := leAt m.payload 8 5
  w.command m (some (objRow, table, row)) (fun w =>
    if w.devState = stRest then w.ctrlDone m.h sState [] else
    w.atOwner m table row (fun w t =>
      let okForm := decide (m.payload.length = 20 + t.rowBytes) && decide (leAt m.payload 0 8 < 4096) &&
        decide (leAt m.payload 8 8 < 2 ^ 40) && decide (row < t.rows)
      let fs := chk okForm sRange ++ w.replaceFails t row
      if fs.isEmpty then
        let st := leAt m.payload 16 4
        let bs := m.payload.drop 20
        let w := if t.replaceable then w.fillInactive t row bs st else w
        w.setTable { t with repl := t.repl ++ [⟨row, st, bs, m.h, w.tickNo⟩] }
      else
        let w := if okForm && (w.putSlot t row).isNone then w.countDrop else w
        (w.countFurther .mgmt fs).ctrlDone m.h (lowest fs) []))

/-- ROW_REPLACE (R389). -/
def execRowReplace (h : KHdr) (payload : List Byte) (s : State) : Out :=
  s.perform (.rowReplace h payload) (fun w => w.arriveAs clsCtrl 0x08 ⟨h, payload⟩ (fun w m => w.rowReplaceCmd m))

/-! ## Migrating (R393 to R397) -/

/-- A free entry of the override table, as bank and first row: neither valid nor to be made so (R394).
(Log entry 81, DEDUCED.) -/
def Work.freeOverride (w : Work) : Option (Nat × Nat) :=
  let d := w.dv F.fabEmbCfgOvrDie
  let first := w.dv F.fabEmbCfgOvrFirst
  (List.range (w.dv F.fabEmbCfgOvrCount)).findSome? (fun j =>
    let b := w.mbank d (first + j)
    ((List.range 4096).find? (fun e => !(b.row (2 * e)).valid && b.staged.all (fun s => s.row ≠ 2 * e))).map
      (fun e => (first + j, 2 * e)))

/-- The entry that holds the override of a row. -/
def Work.overrideEntry (w : Work) (table row : Nat) : Option (Nat × Nat) :=
  let d := w.dv F.fabEmbCfgOvrDie
  let first := w.dv F.fabEmbCfgOvrFirst
  (List.range (w.dv F.fabEmbCfgOvrCount)).findSome? (fun j =>
    let b := w.mbank d (first + j)
    ((b.rows.filter (fun r => decide (r.1 % 2 = 0) && r.2.valid)).find? (fun r =>
      decide ((b.row r.1).key = row) && decide ((b.row (r.1 + 1)).key = table))).map (fun r => (first + j, r.1)))

/-- An override staged for the next tick: an entry of two units with full care, or a clear (R394, R397). False when
the staging buffer or the table has no room. (Log entry 81, DEDUCED.) -/
def Work.stageOverride (w : Work) (o : EmbOvr) : Bool × Work :=
  let d := w.dv F.fabEmbCfgOvrDie
  let all1 := 2 ^ 64 - 1
  if o.owner = 0x1FF then
    match w.overrideEntry o.table o.row with
    | none => (true, w)
    | some (b, r) =>
      let x := w.mbank d b
      if 256 ≤ x.staged.length then (false, w)
      else (true, w.setMbank d b (x.stage ⟨r, true, false, 0, 0, []⟩))
  else
    match (w.overrideEntry o.table o.row).orElse (fun _ => w.freeOverride) with
    | none => (true, w)
    | some (b, r) =>
      let x := w.mbank d b
      if 256 ≤ x.staged.length then (false, w)
      else
        (true, w.setMbank d b (x.stage ⟨r, false, true, 1, o.owner, [(o.row, all1), (o.table, all1)]⟩))

/-- EMB_OVERRIDE of a migration tick taken: late where the device has passed T + 1, held where the staging buffer is
full (R394, R396). (Log entry 81, DEDUCED.) -/
def Work.takeOverride (w : Work) (o : EmbOvr) (tick : Nat) : Work :=
  let late := decide (tick + 1 ≤ w.tickNo)
  let (done, w) := w.stageOverride o
  let w := if late || !done then w.bumpSat F.fabEmbStatOvrLate 0 0 else w
  let w := if done then w else { w with emb := { w.emb with held := w.emb.held ++ [o] } }
  let w := { w with marks := { w.marks with ovrs := w.marks.ovrs ++ [(o.table, o.row, o.owner)] } }
  { w with emb := { w.emb with incoming := w.emb.incoming.map (fun i =>
    if i.table = o.table ∧ i.row = o.row then { i with confirmed := true } else i) } }

/-- EMB_OVERRIDE as a message that this device takes. -/
def Work.embOverrideMsg (w : Work) (m : Msg) : Work :=
  let x := EmbHdr.ofBytes m.payload
  w.takeOverride ⟨x.table, leAt m.payload 32 5, x.dev⟩ x.tick

/-- EMB_OVERRIDE (R394, R396, R397). -/
def execEmbOverride (h : KHdr) (payload : List Byte) (s : State) : Out :=
  s.perform (.embOverride h payload) (fun w => w.arriveAs clsReq 0x35 ⟨h, payload⟩ Work.embOverrideMsg)

/-- The devices that have a table attached, one bit each: no rule says how a device comes to know, so it is a free value
each time it is asked (R393, R394). (Log entry 175, DESIGN CHOICE.) -/
def Work.attachedBy (w : Work) : Nat × Work := w.fresh 512

/-- The failures of a ROW_MIGRATE at the current owner, given the devices that have the table attached (R393). -/
def Work.migrateFails (w : Work) (t : EmbTable) (row dest attached : Nat) : List Nat :=
  chk ((w.slotOfRow t row).isSome && bitOf attached dest && !w.ownId dest &&
    !w.emb.migs.any (fun m => decide (m.table = t.id_) && decide (m.row = row)) &&
    !t.repl.any (fun r => decide (r.row = row) && decide (r.tick = w.tickNo))) sState ++
  chk w.freeOverride.isSome sFull

/-- ROW_MIGRATE (R393): accepted before G it makes the next epoch the migration epoch, from G on the one after.
(Log entry 175, DESIGN CHOICE.) -/
def Work.rowMigrateCmd (w : Work) (m : Msg) : Work :=
  let table := leAt m.payload 0 2 % 4096
  let row := leAt m.payload 8 5
  let dest := leAt m.payload 14 2 % 512
  w.command m (some (objRow, table, row)) (fun w =>
    if w.devState = stRest then w.ctrlDone m.h sState [] else
    w.atOwner m table row (fun w t =>
      let okForm := decide (m.payload.length = 16) && decide (leAt m.payload 0 8 < 4096) &&
        decide (leAt m.payload 13 1 = 0) && decide (leAt m.payload 14 2 < 512) && decide (row < t.rows)
      let (attached, w) := w.attachedBy
      let fs := chk okForm sRange ++ w.migrateFails t row dest attached
      if fs.isEmpty then
        let T := w.tickNo + (if w.phase < guardStart w.period then 1 else 2)
        { w with emb := { w.emb with migs := w.emb.migs ++ [⟨table, row, dest, T, m.h, 0, sOk, 0⟩] } }
      else (w.countFurther .mgmt fs).ctrlDone m.h (lowest fs) []))

/-- ROW_MIGRATE (R393). -/
def execRowMigrate (h : KHdr) (payload : List Byte) (ns : Nat) (s : State) : Out :=
  s.perform (.rowMigrate h payload ns) (fun w =>
    (w.atNs ns).arriveAs clsCtrl 0x09 ⟨h, payload⟩ (fun w m => w.rowMigrateCmd m))

/-- EMB_COPY at the new owner: the row is inserted, and the acknowledgement says whether it was (R394, R395);
a device in REST discards the copy (R584). -/
def Work.embCopyMsg (w : Work) (m : Msg) : Work :=
  let h := EmbHdr.ofBytes m.payload
  let row := leAt m.payload 32 5
  match if w.devState = stRest then none else w.table? h.table with
  | none => w
  | some t =>
    let bs := slice m.payload 40 t.rowBytes
    let st := leAt m.payload (40 + t.rowBytes) 4
    let ack (w : Work) (st : Nat) : Work :=
      w.send { h := w.hdrTo clsResp 2 h.dev 0 m.h.flow m.h.tag, payload := toBytes 8 st }
    let undo := w.beforeInsert t row
    let note (w : Work) (stored : Bool) : Work :=
      let others := w.emb.incoming.filter (fun i => !(decide (i.table = h.table) && decide (i.row = row)))
      { w with emb := { w.emb with incoming := others ++ [⟨h.table, row, h.tick, false, stored, undo⟩] } }
    match w.insertRow t row bs st with
    | some w => ack (note w true) sOk
    | none => ack (note w false) sFull

/-- EMB_COPY (R394). -/
def execEmbCopy (h : KHdr) (payload : List Byte) (s : State) : Out :=
  s.perform (.embCopy h payload) (fun w => w.arriveAs clsData 0x34 ⟨h, payload⟩ (fun w m => w.embCopyMsg m))

/-- A migration changed. -/
def Work.setMig (w : Work) (m : EmbMig) : Work :=
  { w with emb := { w.emb with migs := w.emb.migs.map (fun q =>
    if q.table = m.table ∧ q.row = m.row then m else q) } }

/-- The migration of a row that the old owner runs. -/
def Work.mig? (w : Work) (table row : Nat) : Option EmbMig :=
  w.emb.migs.find? (fun m => decide (m.table = table) && decide (m.row = row))

/-- The override that a migration leaves: none when the new owner is the hashed one (R397). -/
def Work.migOverride (w : Work) (t : EmbTable) (m : EmbMig) : Nat := if w.hashOwner t m.row = m.dest then 0x1FF else m.dest

/-- A migration is abandoned: counted, and answered at the next tick (R395). -/
def Work.abandon (w : Work) (m : EmbMig) (st : Nat) : Work :=
  (w.setMig { m with phase := 4, status := st }).bumpSat F.fabEmbStatMigAbandon 0 0

/-- G of an epoch has come (R395). -/
def Work.guardPast (w : Work) (T : Nat) : Bool :=
  decide (T < w.tickNo) || (decide (T = w.tickNo) && decide (guardStart w.period ≤ w.phase))

/-- The acknowledgement of an EMB_COPY: the old owner sends the override to every device that has the table attached, itself
and the new owner included; a new owner without room, or an acknowledgement not in by G, ends the migration (R394, R395).
(Log entry 175, DESIGN CHOICE.) -/
def Work.migrateAcked (w : Work) (table row : Nat) (stored : Bool) : Work :=
  match w.mig? table row, w.table? table with
  | some m, some t =>
    if m.phase ≠ 1 then w
    else if w.guardPast m.tick then w.abandon m sState
    else if !stored then w.abandon m sFull
    else
      let o := w.migOverride t m
      let (attached, w) := (w.setMig { m with phase := 2 }).attachedBy
      let w := w.takeOverride ⟨table, row, o⟩ m.tick
      let devs := (List.range 512).filter (fun dev => (bitOf attached dev || decide (dev = m.dest)) && !w.ownId dev)
      devs.foldl (fun w dev => w.embSend clsReq 0x35 dev 0 ⟨table, 0, o, 0, 0, m.tick, 0, 0⟩ (toBytes 8 row)) w
  | _, _ => w

/-- MIGRATE_ACK (R394, R395). (Log entry 15, DESIGN CHOICE.) -/
def execMigrateAck (table row : Nat) (stored : Bool) (s : State) : Out :=
  s.perform (.migrateAck table row stored) (fun w => w.migrateAcked table row stored)

/-- A WRITE_ACK for this device: its tag is that of the EMB_COPY which it answers (R394, R505).
(Log entry 79, DEDUCED.) -/
def Work.writeAcked (w : Work) (m : Msg) : Work :=
  match w.emb.migs.find? (fun g => decide (g.tag = m.h.tag) && decide (g.dest = m.h.srcDev) && decide (g.phase = 1)) with
  | some g => w.migrateAcked g.table g.row (decide (leAt m.payload 0 8 = sOk))
  | none => w

/-- A row removed from its directory: a tombstone (R376, R394). -/
def Work.tombstone (w : Work) (t : EmbTable) (row : Nat) : Work :=
  match w.slotOfRow t row with
  | some s => (w.writeLE (t.entry s) 8 dirTomb).markRow t.id_ row true
  | none => w

/-- MIGRATION_ABANDON (R395): without an acknowledgement by G of the migration epoch the old owner gives the migration
up; a new owner that has heard no override by then discards the row and its forwarded updates, and puts back what stood
there. -/
def execMigrationAbandon (table row : Nat) (s : State) : Out :=
  s.perform (.migrationAbandon table row) (fun w =>
    match w.mig? table row with
    | some m => if m.phase = 1 ∧ w.guardPast m.tick = true then w.abandon m sState else w
    | none =>
      match w.incoming? table row, w.table? table with
      | some i, some t =>
        if i.confirmed = true ∨ i.stored = false ∨ w.guardPast i.tick = false then w
        else
          let given := { i with stored := false, undo := [] }
          let w := { w with emb := { w.emb with incoming := w.emb.incoming.map (fun q => if q = i then given else q) } }
          (w.setTable { t with acc := t.acc.filter (fun a => a.row ≠ row) }).putBack i.undo
      | _, _ => w)

/-- MIGRATION_TOMBSTONE (R394): from tick T + 3 on the old owner writes a tombstone, and keeps its own override. -/
def execMigrationTombstone (table row : Nat) (s : State) : Out :=
  s.perform (.migrationTombstone table row) (fun w =>
    match w.mig? table row, w.table? table with
    | some m, some t =>
      if m.phase = 3 ∧ m.tick + 3 ≤ w.tickNo then
        { w.tombstone t row with emb := { w.emb with migs := w.emb.migs.filter (fun q => q ≠ m) } }
      else w
    | _, _ => w)

/-! ## The commit phase (R387, R390 to R392, R394) -/

/-- One row's step (R387): the new elements and the new state. -/
def Work.stepRow (w : Work) (t : EmbTable) (vals : List Nat) (st : Nat) (g : List Nat) : List Nat × Nat × Work :=
  if t.opt = 1 then
    ((List.range t.elems).map (fun e => f32Sub (getAt 0 vals e) (f32Mul t.lr (getAt 0 g e))), st, w)
  else
    let (sq, w) := w.sumFree (g.map (fun x => f32Mul x x))
    let st' := f32Add st (f32Div sq (Fmt.fp32.round (FVal.ofInt t.elems)))
    let den := f32Add (f32Sqrt st') t.eps
    ((List.range t.elems).map (fun e => f32Sub (getAt 0 vals e) (f32Div (f32Mul t.lr (getAt 0 g e)) den)), st', w)

/-- Row elements packed into bytes of the row type (R88, R89). -/
def EmbTable.pack (t : EmbTable) (vals : List Nat) : List Byte :=
  let x := (List.range vals.length).foldr (fun e acc =>
    (t.ty.convert true .rne (.flt (f32 (getAt 0 vals e)))).1 + acc * 2 ^ t.ty.width) 0
  toBytes t.rowBytes x

/-- The state of n bytes of memory. -/
def Work.bytesState (w : Work) (a n : Nat) : RowSt :=
  (List.range (ceilDiv (a % 64 + n) 64)).foldl (fun (x : RowSt) k => x.worse (w.rowState (a / 64 * 64 + 64 * k))) RowSt.ok

/-- The accumulated gradient of a row, from its entry of the accumulator area, applied once; and whether it was
(R377, R387). (Log entry 80, DEDUCED.) -/
def Work.applyRow (w : Work) (t : EmbTable) (a : EmbAcc) : Bool × Work :=
  let p := t.accAddr a.epoch a.entry + 16
  let w? := match w.slotOfRow t a.row with
    | some _ => some w
    | none => w.insertRow t a.row (List.replicate t.rowBytes 0) 0
  match w? with
  | none => (false, w.countDrop)
  | some w =>
    let (v, st, _) := w.rowVals t a.row
    if st.worse (w.bytesState p (4 * t.elems)) ≠ .ok then (false, w)
    else
      let g := (List.range t.elems).map (fun e => (w.readLE (p + 4 * e) 4).getD 0)
      let s0 := (w.rowData t a.row).2
      let (v2, s2, w) := w.stepRow t v s0 g
      match w.slotOfRow t a.row with
      | some s => (true, (w.storeRow t s (w.activeHalf t s) (t.pack v2) s2).markRow t.id_ a.row false)
      | none => (false, w)

/-- A replacement committed: a replaceable table flips the selector, another one takes the row (R390, R391). -/
def Work.commitReplace (w : Work) (t : EmbTable) (r : EmbRepl) : Work :=
  let (st, w) := match w.slotOfRow t r.row with
    | some s =>
      (sOk, if t.replaceable then w.writeLE (t.selBase + s) 1 (1 - w.activeHalf t s)
            else w.storeRow t s 0 r.bytes r.state)
    | none => (match w.insertRow t r.row r.bytes r.state with
      | some w => (sOk, w)
      | none => (sFull, w.countDrop))
  (if st = sOk then w.markRow t.id_ r.row false else w).ctrlDone r.reply st []

/-- A table's commit: replacements accepted before this tick, then the step of the epochs before it, rows replaced in
that step dropping their gradients (R387, R390 to R392). (Log entry 78, DESIGN CHOICE.) -/
def Work.commitTable (w : Work) (t0 : EmbTable) : Work :=
  let T := w.tickNo
  let rs := t0.repl.filter (fun r => r.tick < T)
  let w := rs.foldl (fun w r => w.commitReplace t0 r) w
  let as := t0.acc.filter (fun a => a.epoch < T)
  let gone := as.filter (fun a => rs.any (fun r => r.row = a.row))
  let live := as.filter (fun a => !rs.any (fun r => r.row = a.row))
  let (applied, w) := live.foldl (fun (x : Nat × Work) a =>
    let (done, w) := x.2.applyRow t0 a
    (if done then x.1 + 1 else x.1, w)) (0, w.countDrop gone.length)
  let (busy, w) := w.fresh 32
  let w := ((w.wr F.fabEmbLoadLookupRows 0 t0.slot t0.lookups).wr F.fabEmbLoadUpdateRows 0 t0.slot applied).wr
    F.fabEmbLoadBusyNs 0 t0.slot busy
  w.setTable { t0 with repl := t0.repl.filter (fun r => T ≤ r.tick), acc := t0.acc.filter (fun a => T ≤ a.epoch), lookups := 0 }

/-- A migration at a tick: the copy is sent in its migration epoch, and ownership flips one tick later (R394, R395).
(Log entry 79, DEDUCED.) -/
def Work.migTick (w : Work) (m : EmbMig) : Work :=
  let T := w.tickNo
  match w.table? m.table with
  | none => w
  | some t =>
    if m.phase = 0 ∧ m.tick ≤ T then
      let (bs, st) := w.rowData t m.row
      let tag := w.emb.nextTag
      let w : Work := { w with emb := { w.emb with nextTag := (tag + 1) % 2 ^ 32 } }
      (w.setMig { m with phase := 1, tag := tag }).embSend clsData 0x34 m.dest tag
        ⟨m.table, 0, w.deviceId, 0, 0, m.tick, 0, 0⟩ (toBytes 8 m.row ++ bs ++ toBytes 4 st)
    else if m.phase = 1 ∧ m.tick < T then w.abandon m sState
    else if m.phase = 2 ∧ m.tick < T then (w.setMig { m with phase := 3 }).ctrlDone m.reply sOk []
    else w

/-- Migrations given up are answered and forgotten (R395). -/
def Work.endAbandoned (w : Work) : Work :=
  let gone := w.emb.migs.filter (fun m => decide (m.phase = 4) && decide (m.tick < w.tickNo))
  let w := gone.foldl (fun w m => w.ctrlDone m.reply m.status []) w
  { w with emb := { w.emb with migs := w.emb.migs.filter (fun m => !gone.contains m) } }

/-- At a tick a row taken over is its new owner's, and what this device did as an earlier owner of it is over; a row that
was refused or given up is forgotten once no update of it can still be under way; lookup batches whose requester has given
them up are dropped (R383, R394, R395). (Log entry 77, DEDUCED.) -/
def Work.forgetTick (w : Work) : Work :=
  let T := w.tickNo
  let mine := w.emb.incoming.filter (fun i => i.confirmed && i.stored && decide (i.tick < T))
  let back (m : EmbMig) : Bool := decide (m.phase = 3) && mine.any (fun i => decide (i.table = m.table) && decide (i.row = m.row))
  { w with emb := { w.emb with
    migs := w.emb.migs.filter (fun m => !back m),
    incoming := w.emb.incoming.filter (fun i =>
      if i.stored then decide (T ≤ i.tick) || !i.confirmed else decide (T < i.tick + 3)),
    batches := w.emb.batches.filter (fun b => decide (T < b.tick + 2)) } }

/-- The commit phase of every table, and what the tick does for migrations and late overrides (R373, R387 to R396). -/
def Work.embTick (w : Work) : Work :=
  let gone := w.emb.tables.filter (·.detach)
  let w := gone.foldl (fun w t => w.wr F.fabEmbLoadTableId 0 t.slot 0) w
  let w := { w with emb := { w.emb with tables := w.emb.tables.filter (fun t => !t.detach) } }
  let w := w.emb.tables.foldl Work.commitTable w
  let w := (w.emb.migs.foldl Work.migTick w).endAbandoned.forgetTick
  let held := w.emb.held
  let w := { w with emb := { w.emb with held := [] } }
  held.foldl (fun w o =>
    let (done, w) := w.stageOverride o
    if done then w else { w with emb := { w.emb with held := w.emb.held ++ [o] } }) w

/-- FAB_EMB_STAT field by field. -/
def Work.embStat (w : Work) : List Nat :=
  [w.dv F.fabEmbStatAbsent, w.dv F.fabEmbStatUpdDrop, w.dv F.fabEmbStatWrapped, w.dv F.fabEmbStatMigAbandon,
   w.dv F.fabEmbStatOvrLate, w.dv F.fabEmbStatMissing]

/-- The EMBEDDING event of a tick, for counts that rose since the tick before it, commit work of which included
(R377, R586; source 86). (Log entry 83, DEDUCED.) -/
def Work.embEvent (w : Work) : Work :=
  let now := w.embStat
  let old := if w.emb.stat.isEmpty then [0, 0, 0, 0, 0, 0] else w.emb.stat
  let w := { w with emb := { w.emb with stat := now } }
  if now = old then w
  else w.event 86 sOk (getAt 0 now 0 + getAt 0 now 1 * 2 ^ 16 + getAt 0 now 2 * 2 ^ 32 + getAt 0 now 3 * 2 ^ 48 +
    getAt 0 now 4 * 2 ^ 52 + getAt 0 now 5 * 2 ^ 56)

end Sys2Proof.Machine
end

