-- ==== Sys2Proof/Machine/PlanCtl.lean ====
section
/-! DEFINITION. Loading a plan image, and the plan commands (R275, R293 to R295, R518, R541 and the rules by which
PLAN_LOAD places what an image carries). -/

namespace Sys2Proof.Machine

/-! ## Plan images -/

/-- What bytes spell as a plan image (log entry 20). -/
def Work.imageOf (w : Work) (bs : List Byte) : Option PlanImage := (w.planFormat.find? (fun f => f.1 = bs)).map (·.2)

/-- The entries of an image's epoch tables, those that its fold tables hold among them. -/
def PlanImage.entries (i : PlanImage) : List Rec := i.tables.flatten ++ i.folds.flatMap (fun f => f.table)

/-- The tasks that an image's fold tables issue again. -/
def PlanImage.reissued (i : PlanImage) : List Rec := i.folds.flatMap (fun f => f.again)

/-- The task descriptors of an image. -/
def PlanImage.tasks (i : PlanImage) : List Rec := i.entries ++ i.reissued

/-- The checks of R274 and R276 on an entry of an epoch table. -/
def Work.entryFails (w : Work) (r : Rec) : List Nat :=
  w.taskFields r ++ chk (!recB r 376 || decide (recF r 351 288 = 0)) sRange

/-- Epoch-table entries of a die in all plans but one (R275). -/
def Work.entriesElsewhere (w : Work) (p d : Nat) : Nat :=
  ((List.range 16).map (fun q => if q = p then 0 else (w.epochTable q d).length)).foldl (· + ·) 0

/-- The epoch tables of all loaded plans fit their dies (R275). -/
def Work.tablesFit (w : Work) (p : Nat) (i : PlanImage) : Bool :=
  (List.range 4).all (fun d => decide (w.entriesElsewhere p d + (getAt [] i.tables d).length ≤ 3072))

/-- What an image placed earlier under a plan number is taken back: its descriptors and its pipelines. -/
def Work.clearPlan (w : Work) (p : Nat) : Work :=
  let w := w.dropPipes p
  { w with slots := w.slots.filter (fun s => s.1 / 65536 ≠ p), inputs := w.inputs.filter (fun e => e.1 / 65536 ≠ p) }

/-- The descriptors of an image installed (R98, R103): the failures met. -/
def Work.installDescs (w : Work) (p : Nat) (i : PlanImage) : List Nat × Work :=
  i.descs.foldl (fun (a : List Nat × Work) (e : Nat × Rec) =>
    (a.1 ++ chk (a.2.handleOk p e.1) sRange ++ a.2.validate p e.2, a.2.setSlot p e.1 ⟨.valid, e.2⟩)) ([], w)

/-- The window headers of an image name descriptors that can be headers (R338). -/
def Work.headersOk (w : Work) (p : Nat) (i : PlanImage) : Bool :=
  i.windows.all (fun x =>
    match w.desc p x.header with
    | some d => d.isWinHdr
    | none => false)

/-- The pipelines of an image declared (R473, R474). -/
def Work.declarePipes (w : Work) (p : Nat) (i : PlanImage) : List Nat × Work :=
  i.pipes.foldl (fun (a : List Nat × Work) (e : Nat × List Byte) =>
    let r := BitVec.ofNat 512 (ofBytes e.2)
    (a.1 ++ chk (decide (e.2.length = 64)) sRange ++ a.2.pipeFails p r, a.2.declarePipe p r)) ([], w)

/-- The embedding tables of an image attached (R371, R373). -/
def Work.attachAll (w : Work) (p : Nat) (i : PlanImage) : List Nat × Work :=
  i.embTables.foldl (fun (a : List Nat × Work) (bs : List Byte) =>
    if bs.length = 128 then
      let (st, w) := a.2.tableAttachRec p (ofBytes bs)
      (a.1 ++ chk (decide (st = sOk)) st, w)
    else (a.1 ++ [sRange], a.2)) ([], w)

/-- Match banks of an image lie in the plan's partition and exist (R180). -/
def Work.widthsOk (w : Work) (p : Nat) (i : PlanImage) : Bool :=
  i.widths.all (fun e => decide (e.2.2 < 3) && w.bankGranted p e.1 e.2.1)

/-- Code books of an image placed in an engine (R202): die and engine as one number, first slot, bytes. -/
def Work.placeBook (w : Work) (e : Nat × Nat × List Byte) : Work :=
  w.setMe (e.1 / 24) (e.1 % 24) ((w.me (e.1 / 24) (e.1 % 24)).loadBook e.2.1 e.2.2)

/-- Ring membership of an engine (R209): its number, and its words of ME_RING and ME_RING_BUF. -/
def Work.placeRing (w : Work) (e : Nat × Nat × Nat) : Work :=
  let d := e.1 / 24
  let m := e.1 % 24
  let x := e.2.1
  let b := e.2.2
  let w := ((((w.wr F.meRingNextMe d m (fieldOf x 0 5)).wr F.meRingNextDie d m (fieldOf x 5 2)).wr F.meRingPrevMe d m
    (fieldOf x 7 5)).wr F.meRingPrevDie d m (fieldOf x 12 2)).wr F.meRingEn d m (fieldOf x 14 1)
  let w := ((w.wr F.meRingBufBuf0 d m (fieldOf b 0 22)).wr F.meRingBufBuf1 d m (fieldOf b 22 22)).wr F.meRingBufLen16 d m
    (fieldOf b 44 20)
  w.wr F.meStatusRingCur d m 0

/-- What an image places in one matrix engine (R90, R202, R209, R548). -/
def Work.placeMe (w : Work) (i : PlanImage) (d m : Nat) : Work :=
  let here (n : Nat) : Bool := decide (n = d * 24 + m)
  let w := (i.books.filter (fun e => here e.1)).foldl Work.placeBook w
  let w := (i.meCfg.filter (fun e => decide (e.1 = d) && decide (e.2.1 = m))).foldl
    (fun (w : Work) e => w.wr F.meSrSeedSeed d m e.2.2) w
  (i.rings.filter (fun e => here e.1)).foldl Work.placeRing w

/-- What an image places in the local memory that lies in a window (R548). -/
def Work.placeLocals (w : Work) (i : PlanImage) (lo len : Nat) : Work :=
  i.locals.foldl (fun (w : Work) e => if inRange lo len e.1 then w.write e.1 e.2 else w) w

/-- The general cores that a plan uses: those its tasks may run on. -/
def PlanImage.coresOf (i : PlanImage) (d : Nat) : List Nat :=
  (List.range 96).filter (fun g => i.tasks.any (fun r =>
    decide (recF r 25 24 = d) && (decide (recF r 7 0 = 0x81) || decide (recF r 7 0 = 0x84)) &&
      (decide (recF r 22 16 = g) || decide (recF r 22 16 = 0x7F))))

/-- What an image places in the block once every check has passed: barriers, match banks, books, seeds, rings, local
data, stream and group entries, window areas; the instruction caches of its cores are invalidated (R180, R202, R209,
R225, R260, R338, R458, R462). -/
def Work.placeImage (w : Work) (p : Nat) (i : PlanImage) : Work :=
  let w := i.barriers.foldl (fun (w : Work) e => w.wr F.strmBarCount 0 e.1 e.2) w
  let w := i.widths.foldl (fun (w : Work) e => w.matchConfigure e.1 e.2.1 1 e.2.2) w
  let w := i.locals.foldl (fun (w : Work) e => w.write e.1 e.2) w
  let w := (List.range 96).foldl (fun (w : Work) u => w.placeMe i (u / 24) (u % 24)) w
  let w := i.streamTab.foldl (fun (w : Work) e => w.write (64 * w.dv F.fldCfgStreamTab + 64 * e.1) e.2) w
  let w := i.groupTab.foldl (fun (w : Work) e => w.write (64 * w.dv F.alnCfgGroupTab + 64 * e.1) e.2) w
  let w := i.windows.foldl (fun (w : Work) x =>
    match w.desc p x.header with
    | some d => if w.winOk p (WinHdr.ofNat (w.descLE d 0 128)) then w.windowInstall d else w
    | none => w) w
  (List.range 4).foldl (fun (w : Work) d => (i.coresOf d).foldl (fun (w : Work) g =>
    w.setCore d g { w.core d g with icache := [] }) w) w

/-- The load of an image under a plan number: every failure met, or the block with the plan LOADED (R103, R274, R275,
R338, R474). Nothing is placed when a check fails (log entry 21). -/
def Work.loadImage (w : Work) (p : Nat) (bs : List Byte) : List Nat ⊕ Work :=
  match w.imageOf bs with
  | none => .inl [sRange]
  | some i =>
    let w0 := (w.clearPlan p).setPlan p { Plan.atReset with image := some i, imageBytes := bs }
    let (f1, w1) := w0.installDescs p i
    let f2 := i.entries.flatMap w.entryFails ++ i.reissued.flatMap w.taskFields ++ chk (w.tablesFit p i) sFull
    let f3 := chk (w1.headersOk p i) sRange ++ chk (w1.widthsOk p i) sRange ++
      chk (i.barriers.all (fun e => decide (e.1 < 1024) && decide (1 ≤ e.2))) sRange
    let (f4, w2) := w1.declarePipes p i
    let (f5, w3) := w2.attachAll p i
    let fs := f1 ++ f2 ++ f3 ++ f4 ++ f5
    if fs.isEmpty then
      let w4 := w3.placeImage p i
      .inr ((w4.setPlan p { Plan.atReset with image := some i, imageBytes := bs }).setPlanState p 1 sOk)
    else .inl fs

/-! ## The plan commands (R293) -/

/-- The plan number of a plan command. (Log entry 130, DEDUCED.) -/
def planOfMsg (m : Msg) : Nat := leAt m.payload 0 1 % 16

/-- A plan command that the state of the plan refuses (R293). -/
def Work.planRefuse (w : Work) (h : KHdr) : Work := (w.bump F.dispStatRejects 0 0).ctrlDone h sState []

/-- A transition pending for the next tick, with the command that it answers (R293). -/
def Work.planPend (w : Work) (p k : Nat) (m : Msg) : Work :=
  (w.setPlan p { w.plan p with pending := k, reply := some m.h }).wr (F.dispPlanStatePending p) 0 0 1

/-- A plan command carried out by R293, unless the plan has a transition pending. (Log entry 130, DEDUCED.) -/
def Work.planCommand (w : Work) (m : Msg) (f : Work → Nat → Work) : Work :=
  let p := planOfMsg m
  if m.payload.length = 0 then w.command m none (fun w => w.ctrlDone m.h sRange [])
  else
    w.command m (some (objPlan, p, 0)) (fun w => if (w.plan p).pending ≠ 0 then w.planRefuse m.h else f w p)

/-- An image of length zero: the plan is EMPTY. -/
def Work.emptyPlan (w : Work) (p : Nat) : Work :=
  ((w.clearPlan p).setPlan p Plan.atReset).setPlanState p 0 sOk

/-- PLAN_LOAD in a state that admits it (R293, R518). (Log entry 21, DEDUCED.) -/
def Work.planLoadAt (w : Work) (m : Msg) (p : Nat) : Work :=
  let x := ofBytes m.payload
  let a := fieldOf x 64 52
  let n := fieldOf x 128 40
  if n = 0 then ((w.emptyPlan p).markControl w.tickNo m []).ctrlDone m.h sOk []
  else
    match w.read a n with
    | none => w.ctrlDone m.h sUnmapped []
    | some bs =>
      match w.loadImage p bs with
      | .inl fs => (w.countFurther .mgmt fs).ctrlDone m.h (lowest fs) []
      | .inr w => (w.markControl w.tickNo m bs).ctrlDone m.h sOk []

/-- PLAN_LOAD as a message that this device takes (R293, R518, R584). (Log entry 130, DEDUCED.) -/
def Work.planLoadMsg (w : Work) (m : Msg) : Work :=
  w.planCommand m (fun w p =>
    let st := w.planState p
    if w.devState = stRest then w.ctrlDone m.h sState []
    else if st = 0 ∨ st = 1 ∨ st = 4 then w.planLoadAt m p
    else w.planRefuse m.h)

/-- PLAN_START as a message that this device takes (R293). -/
def Work.planStartMsg (w : Work) (m : Msg) : Work :=
  w.planCommand m (fun w p => if w.planState p = 1 ∨ w.planState p = 4 then w.planPend p 1 m else w.planRefuse m.h)

/-- PLAN_STOP as a message that this device takes (R293). -/
def Work.planStopMsg (w : Work) (m : Msg) : Work :=
  w.planCommand m (fun w p =>
    match w.planState p with
    | 1 => (((w.setPlan p { w.plan p with standing := false }).setPlanState p 4 sOk).markControl w.tickNo m []).ctrlDone m.h sOk []
    | 2 => w.planPend p 3 m
    | 3 => w.planPend p 4 m
    | 5 => w.planPend p 4 m
    | _ => w.planRefuse m.h)

/-- PLAN_DRAIN as a message that this device takes (R293). -/
def Work.planDrainMsg (w : Work) (m : Msg) : Work :=
  w.planCommand m (fun w p => if w.planState p = 2 then w.planPend p 2 m else w.planRefuse m.h)

/-- PLAN_LOAD (R293). -/
def execPlanLoad (h : KHdr) (payload : List Byte) (s : State) : Out :=
  s.perform (.planLoad h payload) (fun w => w.arriveAs clsCtrl 0x03 ⟨h, payload⟩ (fun w m => w.planLoadMsg m))

/-- PLAN_START (R293). -/
def execPlanStart (h : KHdr) (payload : List Byte) (s : State) : Out :=
  s.perform (.planStart h payload) (fun w => w.arriveAs clsCtrl 0x04 ⟨h, payload⟩ (fun w m => w.planStartMsg m))

/-- PLAN_STOP (R293). -/
def execPlanStop (h : KHdr) (payload : List Byte) (s : State) : Out :=
  s.perform (.planStop h payload) (fun w => w.arriveAs clsCtrl 0x05 ⟨h, payload⟩ (fun w m => w.planStopMsg m))

end Sys2Proof.Machine
end

