-- ==== Sys2Proof/Machine/Field.lean ====
section
/-! DEFINITION. Field capture: frames admitted by the field ports, records and rings, image assembly, the aligner's
moments, and the link (chapter 16). -/

namespace Sys2Proof.Machine

/-- A stream before its first entry. -/
def FStream.atReset : FStream := ⟨0, none, 0, [], none, 0, []⟩
/-- A fusion group before its first entry. -/
def FGroup.atReset : FGroup := ⟨0, [], 0, 0⟩

/-- Stream s. -/
def Work.fstream (w : Work) (s : Nat) : FStream := smGet FStream.atReset w.field.streams s
/-- Stream s replaced. -/
def Work.setFstream (w : Work) (s : Nat) (x : FStream) : Work :=
  { w with field := { w.field with streams := smSet FStream.atReset w.field.streams s x } }
/-- Fusion group g. -/
def Work.fgroup (w : Work) (g : Nat) : FGroup := smGet FGroup.atReset w.field.groups g
/-- Fusion group g replaced. -/
def Work.setFgroup (w : Work) (g : Nat) (x : FGroup) : Work :=
  { w with field := { w.field with groups := smSet FGroup.atReset w.field.groups g x } }

/-! ## Table entries (R458, R462) -/

/-- ENABLE of an entry. -/
def FStream.on (x : FStream) : Bool := bitOf x.entry 0
/-- IN_GROUP. -/
def FStream.inGroup (x : FStream) : Bool := bitOf x.entry 1
/-- GROUP. -/
def FStream.group (x : FStream) : Nat := fieldOf x.entry 2 6
/-- MEMBER. -/
def FStream.member (x : FStream) : Nat := fieldOf x.entry 8 4
/-- SLOTS. -/
def FStream.slots (x : FStream) : Nat := fieldOf x.entry 32 32
/-- RING_BASE. -/
def FStream.ringBase (x : FStream) : Nat := fieldOf x.entry 64 52
/-- SLOT64, in bytes. -/
def FStream.slotBytes (x : FStream) : Nat := 64 * fieldOf x.entry 116 8
/-- FRAME_BASE. -/
def FStream.frameBase (x : FStream) : Nat := fieldOf x.entry 128 52
/-- FRAME_SLOTS. -/
def FStream.frameSlots (x : FStream) : Nat := fieldOf x.entry 180 12
/-- FRAME_BYTES. -/
def FStream.frameBytes (x : FStream) : Nat := fieldOf x.entry 192 32
/-- ENABLE of a group. -/
def FGroup.on (x : FGroup) : Bool := bitOf x.entry 0
/-- CLOCK. -/
def FGroup.byPort (x : FGroup) : Bool := bitOf x.entry 1
/-- PORT. -/
def FGroup.port (x : FGroup) : Nat := fieldOf x.entry 2 3
/-- BARRIER. -/
def FGroup.barrier (x : FGroup) : Nat := fieldOf x.entry 5 10
/-- SOURCE. -/
def FGroup.source (x : FGroup) : Nat := fieldOf x.entry 16 16
/-- LAG_NS. -/
def FGroup.lag (x : FGroup) : Nat := fieldOf x.entry 32 32
/-- HORIZON_NS. -/
def FGroup.horizon (x : FGroup) : Nat := fieldOf x.entry 64 32
/-- STALE_NS. -/
def FGroup.staleNs (x : FGroup) : Nat := fieldOf x.entry 96 32
/-- MOMENT_BASE. -/
def FGroup.momentBase (x : FGroup) : Nat := fieldOf x.entry 128 52
/-- MOMENT_SLOTS. -/
def FGroup.momentSlots (x : FGroup) : Nat := fieldOf x.entry 180 12

/-- The offset of a field port's clock: time base less grandmaster. -/
def Work.ptpOffset (w : Work) (p : Nat) : Int := sext 32 (w.rd F.fldPtpOffsetNs 0 p)

/-- The moment of a group at a tick time (R463). -/
def Work.momentAt (w : Work) (g : FGroup) (tick : Nat) : Int :=
  (tick : Int) - g.lag - (if g.byPort then w.ptpOffset g.port else 0)

/-- A slot that a moment names is not reused before the second tick after it (R458). (Log entry 93, DEDUCED.) -/
def Work.slotHeld (w : Work) (s : Nat) (frame : Bool) (slot : Nat) : Bool :=
  w.field.holds.any (fun h => decide (h.1 = s) && decide (h.2.1 = frame) && decide (h.2.2.1 = slot) &&
    decide (w.tickNo < h.2.2.2 + 2))

/-- Bytes of field capture stored in memory; pages without memory drop them, with PAGE_UNMAPPED (R115). -/
def Work.fieldWrite (w : Work) (a : Nat) (bs : List Byte) : Work :=
  if w.mapped a bs.length then w.write a bs
  else (w.write a bs).event (dieSource 3 1) sUnmapped (detailAddr a)

/-! ## Records (R453 to R459) -/

/-- A record on the wire: its header value, and its payload. -/
structure WireRec where
  h : Nat
  pay : List Byte

/-- STREAM. -/
def WireRec.stream (r : WireRec) : Nat := fieldOf r.h 0 16
/-- SEQ. -/
def WireRec.seq (r : WireRec) : Nat := fieldOf r.h 16 48
/-- CAPTURE_NS. -/
def WireRec.cap (r : WireRec) : Nat := fieldOf r.h 64 64
/-- PTYPE. -/
def WireRec.ptype (r : WireRec) : Nat := fieldOf r.h 128 8
/-- CORRUPT. -/
def WireRec.corrupt (r : WireRec) : Bool := bitOf r.h 136
/-- FIRST. -/
def WireRec.first (r : WireRec) : Bool := bitOf r.h 137
/-- LAST. -/
def WireRec.last (r : WireRec) : Bool := bitOf r.h 138

/-- A header that breaks R454 or R455. (Log entry 91, DEDUCED.) -/
def WireRec.malformed (r : WireRec) : Bool :=
  decide (fieldOf r.h 139 5 ≠ 0) || decide (fieldOf r.h 160 96 ≠ 0) || decide (8192 < fieldOf r.h 144 16) ||
  (decide (r.ptype = 1) && decide (fieldOf r.h 144 16 = 0))

/-- An incomplete frame discarded (R459). (Log entry 93, DEDUCED.) -/
def Work.dropFrame (w : Work) (port s : Nat) : Work :=
  (w.setFstream s { w.fstream s with asm := none }).bumpSat F.fldStatFrameDrop 0 port

/-- The frame slot that the frame being assembled takes. -/
def FStream.frameSlot (x : FStream) : Nat := if x.frameSlots = 0 then 0 else x.frameCount % x.frameSlots

/-- An image fragment appended to the frame of its stream (R459). (Log entry 93, DEDUCED.) -/
def Work.fragment (w : Work) (port : Nat) (r : WireRec) : Work :=
  let s := r.stream
  let w :=
    match (w.fstream s).asm with
    | some a => if r.first || decide (r.seq ≠ a.last + 1) then w.dropFrame port s else w
    | none => w
  let x := w.fstream s
  let a? : Option FAsm := match x.asm with
    | some a => some { a with last := r.seq, corrupt := a.corrupt || r.corrupt }
    | none => if r.first then some ⟨r.seq, r.seq, r.cap, r.corrupt, 0⟩ else none
  match a? with
  | none => w
  | some a =>
    if x.frameBytes < a.len + r.pay.length then
      if x.asm.isSome then w.dropFrame port s else w.bumpSat F.fldStatFrameDrop 0 port
    else
      let slot := x.frameSlot
      let w := w.fieldWrite (x.frameBase + slot * x.frameBytes + a.len) r.pay
      let a := { a with len := a.len + r.pay.length }
      let x := { x with frames := x.frames.filter (fun f => f.slot ≠ slot) }
      if r.last then
        let f : FRec := ⟨a.first, a.cap, a.corrupt, slot, w.tickNo⟩
        w.setFstream s { x with asm := none, frameCount := x.frameCount + 1, frames := x.frames ++ [f] }
      else w.setFstream s { x with asm := some a }

/-- The stored copy of a record (R456). -/
def WireRec.stored (r : WireRec) (port arrival : Nat) : List Byte :=
  toBytes 32 (r.h + port * 2 ^ 160 + arrival % 2 ^ 64 * 2 ^ 192) ++ r.pay ++
    List.replicate (alignUp r.pay.length 8 - r.pay.length) 0

/-- The record's capture time lies so far behind the next moment of its group that it is stale (R465).
(Log entry 91, DEDUCED.) -/
def Work.isStale (w : Work) (x : FStream) (cap : Nat) : Bool :=
  let g := w.fgroup x.group
  x.inGroup && g.on && decide (sext 64 cap < w.momentAt g (w.time.lastTick + w.period) - g.staleNs)

/-- A record handled by the first case of R455 that fits; in REST it is discarded (R584). (Log entry 91, DEDUCED.) -/
def Work.fieldRecord (w : Work) (port arrival : Nat) (r : WireRec) : Work :=
  let s := r.stream
  let x := w.fstream s
  if w.devState = stRest then w.bump F.fldStatRingFull 0 port
  else if r.malformed || !x.on || decide (1024 ≤ s) then w.bump F.fldStatMalformed 0 port
  else if x.highest.any (fun h => decide (r.seq ≤ h)) then w.bump F.fldStatSeqDrop 0 port
  else
    let bs := r.stored port arrival
    let slot := if x.slots = 0 then 0 else x.count % x.slots
    let image := decide (r.ptype = 1) && decide (x.frameBase ≠ 0)
    let starts := image && r.first
    if x.slotBytes < bs.length then w.bump F.fldStatMalformed 0 port
    else if w.slotHeld s false slot || (starts && w.slotHeld s true x.frameSlot) then w.bump F.fldStatRingFull 0 port
    else
      let gap := match x.highest with
        | some h => r.seq - h - 1
        | none => 0
      let w := (w.bump F.fldStatRecords 0 port).bump F.fldStatSeqGap 0 port gap
      let w := w.fieldWrite (x.ringBase + slot * x.slotBytes) bs
      let kept := x.recs.filter (fun e => e.slot ≠ slot)
      let x := { x with highest := some r.seq, count := x.count + 1, recs := kept }
      if w.isStale x r.cap then
        let g := w.fgroup x.group
        let w := (w.setFstream s x).bump F.alnStatStale 0 x.group
        w.setFgroup x.group { g with stale := g.stale + 1 }
      else
        let e : FRec := ⟨r.seq, r.cap, r.corrupt, slot, w.tickNo⟩
        let w := w.setFstream s { x with recs := kept ++ [e] }
        if image then w.fragment port r else w

/-- The records of a frame, k of them, back to back (R453, R455). -/
def Work.fieldRecords (w : Work) (port arrival : Nat) : Nat → List Byte → Work
  | 0, _ => w
  | k + 1, bs =>
    let h := leAt bs 0 32
    let len := fieldOf h 144 16
    let full := 32 + alignUp len 8
    if bs.length < full then w.bump F.fldStatMalformed 0 port
    else Work.fieldRecords (w.fieldRecord port arrival ⟨h, (bs.drop 32).take len⟩) port arrival k (bs.drop full)

/-- An Ethernet frame at a field port, its FCS taken off (R451). -/
def Work.fieldFrame (w : Work) (port : Nat) (bs : List Byte) (fcsOk : Bool) (arrival : Nat) : Work :=
  if w.rd F.fldStatLinkUp 0 port = 0 then w
  else
    let dst := ofBytesBE (slice bs 0 6)
    let et := ofBytesBE (slice bs 12 2)
    let pay := bs.drop 14
    let mac := w.rd F.fldPortMac 0 port
    let sound := fcsOk && decide (14 ≤ bs.length) && decide (bs.length + 4 ≤ 9216)
    if sound && decide (et = w.dv F.fldCfgEthertype) && (decide (dst = mac) || decide (dst = 0xFFFFFFFFFFFF)) then
      let n := leAt pay 0 2
      if pay.length < 8 ∨ n = 0 ∨ 255 < n then w.bump F.fldStatMalformed 0 port
      else w.fieldRecords port arrival n (pay.drop 8)
    else if sound && decide (et = 0x88F7) && (decide (dst = 0x011B19000000) || decide (dst = 0x0180C200000E) ||
        decide (dst = mac)) then
      let ty := leAt pay 0 1 % 16
      if w.rdB F.fldPortPtpEn 0 port &&
          (decide (ty ∈ [2, 3, 10, 12, 13]) || decide (leAt pay 4 1 ≠ w.rd F.fldPtpDomain 0 port)) then
        w.bump F.fldPtpDrop 0 port
      else w
    else w.bump F.fldStatDropOther 0 port

/-- FIELD_RECORD_FRAME (R451 to R459): PTP messages that the port's clock takes are commands of their own. -/
def execFieldRecordFrame (port : Nat) (bytes : List Byte) (fcsOk : Bool) (arrivalNs : Nat) (s : State) : Out :=
  s.perform (.fieldRecordFrame port bytes fcsOk arrivalNs) (fun w => w.fieldFrame port bytes fcsOk arrivalNs)

/-- A frame that a field port transmits, in the model's log: field port n is number 32 + n there.
(Log entry 18, DESIGN CHOICE.) -/
def Work.fieldSend (w : Work) (port : Nat) (bs : List Byte) : Work :=
  w.emitMsg (32 + port) { h := w.hdrTo 0 0 0 0 0 0, payload := bs }

/-- PORT_STATUS_FRAME (R452): sent to all, under the field EtherType, from the port's address. -/
def Work.portStatus (w : Work) (port : Nat) : Work :=
  if w.rd F.fldStatLinkUp 0 port = 1 ∧ w.rd F.fldPortStatusMs 0 port ≠ 0 then
    let x := w.deviceId % 512 + port * 2 ^ 9 + w.rd F.fldPtpState 0 port * 2 ^ 12 +
      w.rd F.fldPtpOffsetNs 0 port * 2 ^ 32 + w.rd F.fldStatRecords 0 port * 2 ^ 64
    w.fieldSend port (toBytesBE 6 0xFFFFFFFFFFFF ++ toBytesBE 6 (w.rd F.fldPortMac 0 port) ++
      toBytesBE 2 (w.dv F.fldCfgEthertype) ++ toBytes 8 0 ++ toBytes 32 x)
  else w

/-- PORT_STATUS_FRAME. -/
def execPortStatusFrame (port : Nat) (s : State) : Out :=
  s.perform (.portStatusFrame port) (fun w => w.portStatus port)

/-- FIELD_LINK_CHANGE (R449): only a DR1 or FR1 module brings an enabled port up, and none that is held in low-power mode
(R648); every change is an event, and so is another kind of module. (Log entry 97, DEDUCED.) -/
def Work.fieldLink (w : Work) (port : Nat) (up : Bool) (kind : CageModule) : Work :=
  let good := decide (kind = .dr1) || decide (kind = .fr1)
  let now := up && good && decide (w.rd F.fldPortEnable 0 port = 1) && !w.modl.lowPower.contains port
  let old := decide (w.rd F.fldStatLinkUp 0 port = 1)
  let w := w.wrB F.fldStatLinkUp 0 port now
  if now ≠ old ∨ kind = .other then w.event (72 + port) sOk (if now then 1 else 0) else w

/-- FIELD_LINK_CHANGE. -/
def execFieldLinkChange (port : Nat) (up : Bool) (kind : CageModule) (s : State) : Out :=
  s.perform (.fieldLinkChange port up kind) (fun w => w.fieldLink port up kind)

/-! ## Moments (R463 to R467) -/

/-- The better of two candidates: the greater capture time, then the greater SEQ (R464). -/
def FRec.better (a b : FRec) : FRec :=
  if sext 64 a.cap < sext 64 b.cap ∨ (a.cap = b.cap ∧ a.seq < b.seq) then b else a

/-- What a member contributes: the record or frame at or before the moment that is the newest (R464). -/
def FStream.newest (x : FStream) (moment : Int) (tick : Nat) : Option FRec :=
  let rs := (if x.frameBase = 0 then x.recs else x.frames).filter (fun r =>
    decide (sext 64 r.cap ≤ moment) && decide (r.tick < tick))
  match rs with
  | [] => none
  | r :: rest => some (rest.foldl FRec.better r)

/-- The row id of a record (R456). -/
def fieldRowId (s seq : Nat) : Nat := s * 2 ^ 48 + seq % 2 ^ 48

/-- The 32 B entry of an absent member (R464, R466). -/
def absentEntry : Nat := absent64 + 2 ^ 180

/-- The entry of member m of a group: its 32 B, the stream and record that it names, and whether a stream is
configured (R464, R466). -/
def Work.momentEntry (w : Work) (g : Nat) (moment : Int) (m : Nat) : Nat × Option (Nat × FRec) × Bool :=
  let x := w.fgroup g
  match w.field.streams.find? (fun e => e.2.on && e.2.inGroup && decide (e.2.group = g) && decide (e.2.member = m)) with
  | none => (absentEntry, none, false)
  | some (s, st) =>
    match st.newest moment w.tickNo with
    | none => (absentEntry, none, true)
    | some r =>
      if moment - sext 64 r.cap ≤ x.horizon then
        let image := decide (st.frameBase ≠ 0)
        let id_ := fieldRowId s r.seq
        let addr := if image then st.frameBase + r.slot * st.frameBytes else st.ringBase + r.slot * st.slotBytes
        let rep := decide (x.momentTick + 1 = w.tickNo) && x.named.contains id_
        (id_ + r.cap * 2 ^ 64 + addr % 2 ^ 52 * 2 ^ 128 + (if rep then 2 ^ 181 else 0) +
          (if r.corrupt then 2 ^ 182 else 0) + (if image then 2 ^ 183 else 0), some (s, r), true)
      else (absentEntry, none, true)

/-- The moment of an enabled group written at the tick, and the aligner's arrival at its barrier (R466, R467). A group whose
SOURCE is 0xFFFF would give its moments row ids that the engine never issues, and writes none (R12).
(Log entry 177, DEDUCED.) -/
def Work.writeMoment (w : Work) (g : Nat) : Work :=
  let x := w.fgroup g
  if !x.on ∨ w.field.alignerLost ∨ x.source = 0xFFFF then w
  else
    let moment := w.momentAt x w.time.lastTick
    let es := (List.range 16).map (fun m => w.momentEntry g moment m)
    let named := es.filterMap (fun e => e.2.1)
    let members := (es.filter (fun e => e.2.2)).length
    let unsync := x.byPort && decide (w.rd F.fldPtpLocked 0 x.port = 0)
    let head := x.source + g * 2 ^ 16 + (if unsync then 2 ^ 22 else 0) + w.tickNo % 2 ^ 64 * 2 ^ 32 +
      wrapTo 64 moment * 2 ^ 96 + members * 2 ^ 160 + named.length * 2 ^ 165
    let bs := toBytes 32 head ++ es.flatMap (fun e => toBytes 32 e.1) ++ List.replicate 32 0
    let slot := if x.momentSlots = 0 then 0 else w.tickNo % x.momentSlots
    let w := w.fieldWrite (x.momentBase + 576 * slot) bs
    let w := (w.bump F.alnStatMoments 0 g).bump F.alnStatAbsent 0 g (16 - named.length)
    let w := w.setFgroup g { x with named := named.map (fun e => fieldRowId e.1 e.2.seq), momentTick := w.tickNo }
    let holds := named.map (fun e => (e.1, decide ((w.fstream e.1).frameBase ≠ 0), e.2.slot, w.tickNo))
    let w : Work := { w with field := { w.field with holds := w.field.holds ++ holds } }
    if 0 < w.barCount x.barrier then w.arriveBar x.barrier (.aligner g) none else w

/-- The stream and group tables in memory take effect at the tick (R458, R462). A stream that becomes enabled counts
its records anew. (Log entry 92, DEDUCED.) -/
def Work.latchTables (w : Work) : Work :=
  let st := 64 * w.dv F.fldCfgStreamTab
  let gt := 64 * w.dv F.alnCfgGroupTab
  let w := (List.range 1024).foldl (fun w s =>
    let x := w.fstream s
    let e := (w.readLE (st + 64 * s) 64).getD 0
    if e = x.entry then w
    else if bitOf e 0 && !x.on then
      w.setFstream s { x with entry := e, count := 0, recs := [], asm := none, frameCount := 0, frames := [] }
    else w.setFstream s { x with entry := e }) w
  (List.range 64).foldl (fun w g =>
    let x := w.fgroup g
    let e := (w.readLE (gt + 64 * g) 64).getD 0
    if e = x.entry then w else w.setFgroup g { x with entry := e }) w

/-- Field capture at a tick: STALE for the epoch that ended (source 87, once per tick), tables, and moments.
(Log entry 94, DEDUCED.) -/
def Work.alignTick (w : Work) : Work :=
  let w := match w.field.groups.find? (fun e => 0 < e.2.stale) with
    | some (g, x) => w.event 87 sStale (g + x.stale * 2 ^ 32)
    | none => w
  let w := (List.range 64).foldl (fun w g =>
    let x := w.fgroup g
    if x.stale = 0 then w else w.setFgroup g { x with stale := 0 }) w
  let w := { w with field := { w.field with holds := w.field.holds.filter (fun h => w.tickNo < h.2.2.2 + 2) } }
  (List.range 64).foldl Work.writeMoment w.latchTables

end Sys2Proof.Machine
end

