-- ==== Sys2Proof/Machine/Ptp.lean ====
section
/-! DEFINITION. The PTP clocks of the field ports, and the tick master's discipline to one of them (R58 to R60, R460,
R461). -/

namespace Sys2Proof.Machine

/-- A clock before its first message. -/
def FPtp.atReset : FPtp := ⟨none, none, none, none, 0, 0⟩
/-- The clock of field port p. -/
def Work.clock (w : Work) (p : Nat) : FPtp := smGet FPtp.atReset w.field.ptp p
/-- The clock of a field port replaced. -/
def Work.setClock (w : Work) (p : Nat) (x : FPtp) : Work :=
  { w with field := { w.field with ptp := smSet FPtp.atReset w.field.ptp p x } }

/-- States of FLD_PTP.STATE. -/
abbrev ptpDisabled : Nat := 0
/-- LISTENING. -/
abbrev ptpListening : Nat := 1
/-- UNCALIBRATED. -/
abbrev ptpUncalibrated : Nat := 2
/-- SLAVE. -/
abbrev ptpSlave : Nat := 3

/-- The clock of a port runs. -/
def Work.ptpOn (w : Work) (p : Nat) : Bool :=
  decide (w.rd F.fldPtpState 0 p ≠ ptpDisabled) || decide (w.rd F.fldPortPtpEn 0 p = 1)

/-- A message for the clock of a port: dropped and counted when it is of another domain (R460). -/
def Work.ptpMsg (w : Work) (p : Nat) (m : PtpMsg) (f : Work → Work) : Work :=
  if !w.ptpOn p ∨ w.rd F.fldStatLinkUp 0 p = 0 then w
  else if m.domain ≠ w.rd F.fldPtpDomain 0 p then w.bump F.fldPtpDrop 0 p
  else f w

/-- A PTP timestamp with its correction, in nanoseconds (R461). -/
def ptpNs (m : PtpMsg) : Int := (m.seconds * 1000000000 + m.nanoseconds : Nat) + m.correction

/-- A signed register of 32 bits that saturates at 2^31 - 1 on both sides. -/
def sat32 (i : Int) : Nat := wrapTo 32 (clampTo (-(2 ^ 31 - 1)) (2 ^ 31 - 1) i).1

/-- LOCKED of a port changes, with PTP_LOCK (source 2); the port that TIME_SRC names shows it. -/
def Work.setLocked (w : Work) (p : Nat) (on : Bool) : Work :=
  let old := decide (w.rd F.fldPtpLocked 0 p = 1)
  let w := w.wrB F.fldPtpLocked 0 p on
  let w := if w.dv F.timeSrcPtpPort = p then w.wrB F.timeSrcPtpLocked 0 0 on else w
  if old = on then w
  else w.event 2 sOk (p + (if on then 8 else 0) + w.rd F.fldPtpOffsetNs 0 p * 2 ^ 32)

/-- What the port that TIME_SRC names does to the time base with an estimate. TIME_SRC shows the offset on any device
(R60). The tick master in PTP mode steps its time base by it while it waits for lock, which ends the wait, and slews it out
once it has ticked (R44, R58, R59). (Log entries 95, PRESUMED; 113, DEDUCED.) -/
def Work.discipline (w : Work) (p : Nat) (offset : Int) : Work :=
  if w.dv F.timeSrcPtpPort ≠ p then w
  else
    let w := w.wr F.timeSrcOffsetNs 0 0 (sat32 offset)
    if w.dv F.timeSrcMaster = 1 ∧ w.dv F.timeSrcMode = 1 then
      if w.time.ticked then { w with time := { w.time with slew := -offset } }
      else if w.time.ptpWaiting then
        { w.wr F.timeNowNowNs 0 0 (wrapTo 64 ((w.now : Int) - offset)) with time := { w.time with ptpWaiting := false } }
      else w
    else w

/-- An estimate of the offset of a port's clock (R461). (Log entry 95, PRESUMED.) -/
def Work.ptpEstimate (w : Work) (p : Nat) (offset : Int) : Work :=
  let x := w.clock p
  let good := decide (offset.natAbs ≤ 1000)
  let n := if good then x.good + 1 else 0
  let w := ((w.setClock p { x with good := min n 16, exch := none }).wr F.fldPtpOffsetNs 0 p (sat32 offset)).wr
    F.fldPtpState 0 p ptpSlave
  let w := if !good then w.setLocked p false else if 16 ≤ n then w.setLocked p true else w
  w.discipline p offset

/-- A Delay_Req sent at t3 for a Sync received at t2 and sent at t1, unless the last one is too recent (R460).
(Log entry 95, PRESUMED.) -/
def Work.delayReqTo (w : Work) (p : Nat) (seq : Nat) (t1 : Int) (t2 t3 : Nat) : Work :=
  let x := w.clock p
  let gap : Nat := if 0 ≤ x.minLog then 1000000000 * 2 ^ x.minLog.toNat else 1000000000 / 2 ^ x.minLog.natAbs
  let early := match x.lastReq with
    | some t => decide (t3 < t + gap)
    | none => false
  if early then w.setClock p { x with sync := none }
  else
    let w := w.setClock p { x with sync := none, exch := some (seq, t1, t2, t3), lastReq := some t3 }
    w.fieldSend p (toBytesBE 6 0x011B19000000 ++ toBytesBE 6 (w.rd F.fldPortMac 0 p) ++ toBytesBE 2 0x88F7 ++
      [0x01, 0x02] ++ toBytesBE 2 44 ++ toBytesBE 1 (w.rd F.fldPtpDomain 0 p) ++ List.replicate 25 0 ++
      toBytesBE 2 seq ++ [0x01, 0x7F] ++ List.replicate 10 0)

/-- PTP_ANNOUNCE (R460): the better data set is the master. LOCKED stands, and falls with the first estimate outside its
bound (R461). (Log entry 95, PRESUMED.) -/
def Work.announceAt (w : Work) (p : Nat) (m : PtpMsg) : Work :=
  let x := w.clock p
  let take (w : Work) : Work :=
    (w.setClock p { x with master := some (m.source, m.rank), sync := none, exch := none }).wr F.fldPtpState 0 p
      ptpUncalibrated
  match x.master with
  | none => take w
  | some (s, r) =>
    if s = m.source then w.setClock p { x with master := some (s, m.rank) }
    else if m.rank < r then take w
    else w

/-- PTP_ANNOUNCE. -/
def execPtpAnnounce (port : Nat) (m : PtpMsg) (s : State) : Out :=
  s.perform (.ptpAnnounce port m) (fun w => w.ptpMsg port m (fun w => w.announceAt port m))

/-- The message comes from the port's master. -/
def Work.fromMaster (w : Work) (p : Nat) (m : PtpMsg) : Bool :=
  match (w.clock p).master with
  | some (s, _) => decide (s = m.source)
  | none => false

/-- PTP_SYNC (R460): a two-step Sync waits for its Follow_Up, a one-step Sync is used at once. -/
def Work.syncAt (w : Work) (p : Nat) (m : PtpMsg) (t2 t3 : Nat) : Work :=
  if !w.fromMaster p m then w
  else if m.twoStep then w.setClock p { w.clock p with sync := some (m.seqId, t2) }
  else w.delayReqTo p m.seqId (ptpNs m) t2 t3

/-- PTP_SYNC. -/
def execPtpSync (port : Nat) (m : PtpMsg) (t2 t3 : Nat) (s : State) : Out :=
  s.perform (.ptpSync port m t2 t3) (fun w => w.ptpMsg port m (fun w => w.syncAt port m t2 t3))

/-- PTP_FOLLOW_UP (R460): the Sync that waits gets its time of sending. -/
def Work.followUpAt (w : Work) (p : Nat) (m : PtpMsg) (t3 : Nat) : Work :=
  match (w.clock p).sync with
  | some (seq, t2) => if w.fromMaster p m ∧ seq = m.seqId then w.delayReqTo p m.seqId (ptpNs m) t2 t3 else w
  | none => w

/-- PTP_FOLLOW_UP. -/
def execPtpFollowUp (port : Nat) (m : PtpMsg) (t3 : Nat) (s : State) : Out :=
  s.perform (.ptpFollowUp port m t3) (fun w => w.ptpMsg port m (fun w => w.followUpAt port m t3))

/-- PTP_DELAY_RESP (R461): the four stamps give the offset, and the message the least time between two requests.
(Log entry 95, PRESUMED.) -/
def Work.delayRespAt (w : Work) (p : Nat) (m : PtpMsg) : Work :=
  match (w.clock p).exch with
  | some (seq, t1, t2, t3) =>
    if w.fromMaster p m ∧ seq = m.seqId then
      let t4 : Int := (m.seconds * 1000000000 + m.nanoseconds : Nat) - m.correction
      let w := w.setClock p { w.clock p with minLog := m.logInterval }
      w.ptpEstimate p ((((t2 : Int) - t1) - (t4 - t3)) / 2)
    else w
  | none => w

/-- PTP_DELAY_RESP. -/
def execPtpDelayResp (port : Nat) (m : PtpMsg) (s : State) : Out :=
  s.perform (.ptpDelayResp port m) (fun w => w.ptpMsg port m (fun w => w.delayRespAt port m))

/-- PTP_ANNOUNCE_TIMEOUT (R460, R461): three intervals without an Announce: no master, no lock. -/
def Work.announceTimeout (w : Work) (p : Nat) : Work :=
  if !w.ptpOn p then w
  else
    let w := w.setClock p { w.clock p with master := none, sync := none, exch := none, good := 0 }
    (w.wr F.fldPtpState 0 p ptpListening).setLocked p false

/-- PTP_ANNOUNCE_TIMEOUT. -/
def execPtpAnnounceTimeout (port : Nat) (s : State) : Out :=
  s.perform (.ptpAnnounceTimeout port) (fun w => w.announceTimeout port)

end Sys2Proof.Machine
end

