-- ==== Sys2Proof/Machine/Twin.lean ====
section
/-! DEFINITION. Twin pairs: pairing, deltas, heartbeats, failover, attach, handover and detach (R524 to R539). -/

namespace Sys2Proof.Machine

/-- The twin state replaced. -/
def Work.setTwin (w : Work) (f : TwinSt → TwinSt) : Work := { w with twin := f w.twin }

/-! ## Messages (R530) -/

/-- A TWIN message for one port. -/
def Work.twinTo (w : Work) (p typ : Nat) (payload : List Byte) : Work :=
  let h := { w.hdrTo clsTwin typ w.partner 0 0 0 with hops := w.dv F.fabCfgHops, tick := w.tickNo, len := payload.length }
  w.enqueue p ⟨h, payload⟩

/-- A TWIN message to the partner over the twin port that a flow selects (R513, R514). -/
def Work.sendTwin (w : Work) (typ flow : Nat) (payload : List Byte) : Work :=
  match w.twinPorts with
  | [] => w
  | ps => w.twinTo (getAt 0 ps (flow % ps.length)) typ payload

/-- A TWIN message on each twin port that is UP. -/
def Work.twinAll (w : Work) (typ : Nat) (payload : List Byte) : Work :=
  w.twinPorts.foldl (fun (w : Work) p => w.twinTo p typ payload) w

/-- HELLO (R530). -/
def Work.helloPayload (w : Work) (mirror starting : Bool) : List Byte :=
  toBytes 16 (w.deviceId % 512 + w.dv F.bootIdentityPair * 2 ^ 9 + (if mirror then 2 ^ 17 else 0) +
    (if starting then 2 ^ 18 else 0) + w.tickNo % 2 ^ 64 * 2 ^ 64)

/-- HEARTBEAT (R530). -/
def Work.beatPayload (w : Work) : List Byte :=
  toBytes 24 (w.tickNo % 2 ^ 64 + (if w.isMirror then 2 ^ 64 else 0) + w.pairState * 2 ^ 65 +
    w.dv F.twnStateFailedOver * 2 ^ 67 +
    (if w.isMirror then w.dv F.twnStateLastAcked else w.dv F.twnStateLastSent) * 2 ^ 128)

/-- A twin port has become UP: a module that has no role yet sends HELLO on it (R525). -/
def Work.twinPortUp (w : Work) (p : Nat) : Work :=
  if w.paired ∧ w.twin.decided = false ∧ w.rd F.klPortCfgRole 0 p = 2 then w.twinTo p 1 (w.helloPayload false true) else w

/-- This module asks an ACTIVE to take it as MIRROR (R536). -/
def Work.askAttach (w : Work) : Work := w.twinAll 1 (w.helloPayload true (decide (w.devState = stStarting)))

/-- A TWIN message that comes from the partner of a paired device. -/
def Work.fromPartner (w : Work) (m : Msg) (f : Work → Work) : Work :=
  if w.paired ∧ m.h.srcDev = w.partner then f w else w

/-! ## The delta (R528) -/

/-- The batch numbers of BQ_HEAD: the next to close and the first not freed, as they stood when the epoch ended.
(Log entry 131, DEDUCED.) -/
def Work.bqHead (w : Work) (x : Pipe) : Nat × Nat :=
  let old := x.batches.filter (fun (b : BBatch) => b.closeTick < w.tickNo)
  let next := match x.batches.find? (fun (b : BBatch) => decide (w.tickNo ≤ b.closeTick)) with
    | some b => b.seq
    | none => x.nextSeq
  (next, match old with
    | b :: _ => b.seq
    | [] => next)

/-- The pipelines that are declared. -/
def Work.declared (w : Work) : List Nat := (List.range 32).filter (fun q => decide ((w.pipe q).plan ≠ noPlan))

/-- Section 1 for a block, section 2 for a window header (R528). -/
def Work.blockEntry (w : Work) (a : Nat) : List Byte := toBytes 8 a ++ (w.read a 64).getD (List.replicate 64 0)
/-- WINDOW_HEAD: WM, NC and FOLDS. -/
def Work.headEntry (w : Work) (a : Nat) : List Byte :=
  toBytes 8 a ++ toBytes 8 ((w.readLE (a + 72) 8).getD 0) ++ toBytes 8 ((w.readLE (a + 80) 8).getD 0) ++
    toBytes 8 ((w.readLE (a + 96) 4).getD 0)

/-- EMB_ROW (R528). -/
def Work.rowEntry (w : Work) (table row : Nat) (tomb : Bool) : List (List Byte) :=
  match w.table? table with
  | none => []
  | some t =>
    let (bs, st) := w.rowData t row
    let half := match w.slotOfRow t row with
      | some s => w.activeHalf t s
      | none => 0
    let n := alignUp (4 + t.rowBytes) 8
    let body := toBytes 4 st ++ bs
    [toBytes 8 (row + table * 2 ^ 40 + half * 2 ^ 52 + (if tomb then 2 ^ 53 else 0)) ++ body ++
      List.replicate (n - body.length) 0]

/-- OVERRIDE (R528). -/
def ovrEntry (table row owner : Nat) : List Byte := toBytes 8 (row + table * 2 ^ 40 + owner % 512 * 2 ^ 52)

/-- BQ_HEAD (R528). -/
def Work.headOf (w : Work) (q : Nat) : List Byte :=
  let (next, first) := w.bqHead (w.pipe q)
  toBytes 24 (q + next % 2 ^ 64 * 2 ^ 64 + first % 2 ^ 64 * 2 ^ 128)

/-- Bytes of a batch that one BQ_BATCH entry carries at most, so that a part holds it. (Log entry 131, DEDUCED.) -/
def batchChunk : Nat := 9088

/-- BQ_BATCH entries of a HELD batch (R528): its header and body in pieces. -/
def Work.batchEntries (w : Work) (q seq : Nat) : List (List Byte) :=
  let x := w.pipe q
  let a := x.slotAt seq
  let n := min x.slotBytes (64 + fieldOf ((w.readLE (a + 24) 8).getD 0) 0 64)
  let bs := (w.read a n).getD (List.replicate n 0)
  (List.range (ceilDiv n batchChunk)).map (fun k =>
    let part := (bs.drop (k * batchChunk)).take batchChunk
    toBytes 24 (q + seq % 2 ^ 64 * 2 ^ 64 + k * batchChunk * 2 ^ 128 + part.length * 2 ^ 160) ++ part)

/-- INPUT_POS of every source that a plan reads (R528). (Log entry 131, DEDUCED.) -/
def Work.posEntries (w : Work) : List (List Byte) :=
  (List.range 16).flatMap (fun p =>
    match (w.plan p).image with
    | some i => i.sources.map (fun s => toBytes 16 (s + smGet 0 w.inputs (p * 65536 + s) % 2 ^ 64 * 2 ^ 64))
    | none => [])

/-- MOMENT: the slot that each group wrote at a tick (R528). -/
def Work.momentEntries (w : Work) (tick : Nat) : List (List Byte) :=
  (List.range 64).flatMap (fun g =>
    let x := w.fgroup g
    if x.on ∧ 2 ≤ x.momentSlots then
      match w.read (x.momentBase + 576 * (tick % x.momentSlots)) 576 with
      | some bs => if leAt bs 4 8 = tick % 2 ^ 64 then [bs] else []
      | none => []
    else [])

/-- Image bytes that one CONTROL entry carries at most. (Log entry 131, DEDUCED.) -/
def controlChunk : Nat := 9000

/-- CONTROL entries of a command: for PLAN_LOAD the image follows in further entries (R528). -/
def controlEntries (e : Nat × Msg × List Byte) : List (List Byte) :=
  let h := e.2.1.h
  let one (bs : List Byte) : List Byte := toBytes 8 e.1 ++ headerBytes { h with len := bs.length } ++ bs
  one e.2.1.payload :: (List.range (ceilDiv e.2.2.length controlChunk)).map (fun k =>
    one ((e.2.2.drop (k * controlChunk)).take controlChunk))

/-- The sections of the delta of the epoch that has ended, from what was noted in it (R528).
(Log entry 131, DEDUCED.) -/
def Work.deltaSections (w : Work) (mk : Marks) : List (Nat × List (List Byte)) :=
  [(1, mk.blocks.map w.blockEntry), (2, mk.heads.map w.headEntry),
   (3, mk.rows.flatMap (fun r => w.rowEntry r.1 r.2.1 r.2.2)),
   (4, mk.ovrs.map (fun o => ovrEntry o.1 o.2.1 o.2.2)), (5, w.declared.map w.headOf),
   (6, (mk.batches.filter (fun b => (w.pipe b.1).held)).flatMap (fun b => w.batchEntries b.1 b.2)),
   (7, w.posEntries), (8, w.momentEntries (w.tickNo - 1)), (9, mk.hists), (10, mk.control.flatMap controlEntries)]

/-- Payload bytes of a part that entries may fill (R504, R530). -/
def partRoom : Nat := 9128

/-- Entries packed into parts in order, none divided: number of entries and their bytes. (Log entry 131, DEDUCED.) -/
def packParts : List (List Byte) → Nat → List Byte → List (Nat × List Byte)
  | [], n, acc => if n = 0 then [] else [(n, acc)]
  | e :: es, n, acc =>
    if n ≠ 0 ∧ partRoom < acc.length + e.length then (n, acc) :: packParts es 1 e else packParts es (n + 1) (acc ++ e)

/-- The parts of sections, numbered on from 0: section, entries, bytes. -/
def partsOf (secs : List (Nat × List (List Byte))) : List (Nat × Nat × List Byte) :=
  secs.flatMap (fun s => (packParts s.2 0 []).map (fun p => (s.1, p.1, p.2)))

/-- The payloads of DELTA_PART (R530). (Log entry 131, DEDUCED.) -/
def deltaPayloads (epoch : Nat) (parts : List (Nat × Nat × List Byte)) : List (List Byte) :=
  (parts.zip (List.range parts.length)).map (fun e =>
    toBytes 16 (epoch % 2 ^ 64 + e.1.1 * 2 ^ 64 + e.2 * 2 ^ 72 + e.1.2.1 * 2 ^ 96) ++ e.1.2.2)

/-- Bytes of a delta with the headers of its messages. -/
def deltaBytes (ps : List (List Byte)) : Nat := (ps.map (fun p => 32 + p.length)).foldl (· + ·) 0

/-- A delta sent: every part, then DELTA_END (R530, R531). -/
def Work.shipDelta (w : Work) (d : Delta) : Work :=
  let w := (d.parts.zip (List.range d.parts.length)).foldl (fun (w : Work) e => w.sendTwin 3 e.2 e.1) w
  w.sendTwin 4 0 (toBytes 24 (d.epoch % 2 ^ 64 + d.parts.length * 2 ^ 64 + crc32c d.parts.flatten * 2 ^ 96 +
    deltaBytes d.parts % 2 ^ 64 * 2 ^ 128))

/-! ## SOLO (R532, R534, R539) -/

/-- The HELD batches of epochs whose delta was never acknowledged are freed (R534). -/
def Work.freeUnacked (w : Work) : Work :=
  w.declared.foldl (fun (w : Work) q =>
    let x := w.pipe q
    w.setPipe q { x with batches := x.batches.filter (fun (b : BBatch) =>
      !(decide (b.st = 2) && decide (b.closeTick < w.tickNo) && decide (w.dv F.twnStateLastAcked < b.closeTick))) }) w

/-- TWIN_LOST (source 83) names the epochs that were not acknowledged. -/
def Work.twinLost (w : Work) : Work :=
  w.event 83 sOk ((w.dv F.twnStateLastAcked + 1) % 2 ^ 64 * 2 ^ 64 + (w.tickNo - 1) % 2 ^ 64 * 2 ^ 128)

/-- The pair becomes SOLO on the side of the ACTIVE, reported or not; a handover that was pending is over with the pair
(log entry 133). -/
def Work.goSolo (w : Work) (report : Bool) : Work :=
  let w := w.freeUnacked.wr F.twnCtlHandover 0 0 0
  let w := if report then w.twinLost else w
  (w.setTwin (fun t => { t with deltas := [], bulkDue := false, hand := none })).setPair pairSolo

/-- The state in which a module serves that becomes ACTIVE or leaves start, with its count of epochs (R570, R571). -/
def Work.serve (w : Work) (epochs : Nat) : Work :=
  let w := w.wr F.rstStateSharedLeft 0 0 epochs
  if (List.range 4).any (fun d => w.rdB F.sprMapDegraded d 0) then w.setDevState stDegraded
  else if epochs ≠ 0 then w.setDevState stShared else w.setDevState stRunning

/-- The buffer of TWN_BUF holds the deltas that are kept (R532). -/
def Work.bufferFits (w : Work) : Bool :=
  decide ((w.twin.deltas.map (fun d => deltaBytes d.parts)).foldl (· + ·) 0 ≤ w.dv F.twnBufMib * 2 ^ 20)

/-- The delta of the epoch that has ended is captured, kept and sent (R528, R532); in REST it is empty (R584). -/
def Work.captureDelta (w : Work) (mk : Marks) : Work :=
  if !w.paired || w.isMirror || !(decide (w.pairState = pairSyncing) || decide (w.pairState = pairMirrored)) then w
  else
    let epoch := w.tickNo - 1
    let parts := if w.devState = stRest then [] else deltaPayloads epoch (partsOf (w.deltaSections mk))
    let d : Delta := ⟨epoch, parts⟩
    let w := w.setTwin (fun t => { t with deltas := t.deltas ++ [d] })
    if !w.bufferFits then w.goSolo true
    else
      (((w.wr F.twnStateLastSent 0 0 epoch).bump F.twnStatDeltas 0 0).wr F.twnStatLastBytes 0 0 (deltaBytes parts)).shipDelta d

/-- The oldest delta has stayed unacknowledged for LAG_MAX epochs (R532). -/
def Work.lagging (w : Work) : Bool :=
  w.twin.deltas.any (fun d => decide (d.epoch + w.dv F.twnCfgLagMax ≤ w.tickNo))

/-- The lag of R532 ends the pair at this tick. -/
def Work.lagTick (w : Work) : Work :=
  if !w.isMirror && w.lagging && decide (w.pairState ≠ pairSolo) then w.goSolo true else w

/-- DELTA_LAG_EXPIRE (R532). -/
def execDeltaLagExpire (s : State) : Out := s.perform .deltaLagExpire Work.lagTick

/-! ## Applying a delta (R531) -/

/-- Bytes of the first entry of a section (R528); 0 for what is no entry. -/
def Work.entrySize (w : Work) (sec : Nat) (bs : List Byte) : Nat :=
  match sec with
  | 1 => 72
  | 2 => 32
  | 3 =>
    match w.table? (fieldOf (leAt bs 0 8) 40 12) with
    | some t => 8 + alignUp (4 + t.rowBytes) 8
    | none => 0
  | 4 => 8
  | 5 => 24
  | 6 => 24 + leAt bs 20 4
  | 7 => 16
  | 8 => 576
  | 9 => 32 + 4 * fieldOf (leAt bs 0 32) 144 11
  | 10 => 40 + fieldOf (leAt bs 16 4) 0 14
  | _ => 0

/-- The entries of a section's bytes, at most n. -/
def Work.entriesIn (w : Work) (sec : Nat) : Nat → List Byte → List (List Byte)
  | 0, _ => []
  | n + 1, bs =>
    let k := w.entrySize sec bs
    if k = 0 ∨ bs.length < k then [] else bs.take k :: Work.entriesIn w sec n (bs.drop k)

/-- WINDOW_HEAD applied: step 3 of R342 from the shipped NC, then the header (R531). -/
def Work.applyHead (w : Work) (bs : List Byte) : Work :=
  let a := fieldOf (leAt bs 0 8) 0 52
  match w.readLE a 128 with
  | none => w
  | some x =>
    let h := WinHdr.ofNat x
    let nc := sext 64 (leAt bs 16 8)
    let low := h.nc - h.k - h.late + 1
    let w := h.eachEntity w (fun w p i => (List.range (min (nc - h.nc).toNat h.ring)).foldl (fun w (n : Nat) =>
      w.clearBlock h p i (h.slotOf (low + n))) w)
    (((w.write (a + 72) (slice bs 8 8)).write (a + 80) (slice bs 16 8)).writeLE (a + 88) 8 (wrapTo 64 noEpochMax)).write
      (a + 96) (slice bs 24 4)

/-- EMB_ROW applied: the row and its state in the half that is active, or its tombstone. -/
def Work.applyRowEntry (w : Work) (bs : List Byte) : Work :=
  let x := leAt bs 0 8
  let row := fieldOf x 0 40
  match w.table? (fieldOf x 40 12) with
  | none => w
  | some t =>
    if bitOf x 53 then w.tombstone t row
    else
      let data := slice bs 12 t.rowBytes
      let st := leAt bs 8 4
      let half := fieldOf x 52 1
      match if (w.slotOfRow t row).isSome then some w else w.insertRow t row data st with
      | none => w
      | some w =>
        match w.slotOfRow t row with
        | none => w
        | some s =>
          let w := w.storeRow t s (if t.replaceable then half else 0) data st
          if t.replaceable then w.writeLE (t.selBase + s) 1 half else w

/-- BQ_HEAD applied: the next number, and batches freed. -/
def Work.applyBqHead (w : Work) (bs : List Byte) : Work :=
  let q := fieldOf (leAt bs 0 8) 0 5
  let x := w.pipe q
  if x.plan = noPlan then w
  else
    let kept := x.batches.filter (fun (b : BBatch) => leAt bs 16 8 ≤ b.seq)
    (w.setPipe q { x with nextSeq := leAt bs 8 8, batches := kept }).showHead q

/-- BQ_BATCH applied: a piece of a HELD batch in this module's own ring. -/
def Work.applyBatch (w : Work) (epoch : Nat) (bs : List Byte) : Work :=
  let q := fieldOf (leAt bs 0 8) 0 5
  let seq := leAt bs 8 8
  let x := w.pipe q
  if x.plan = noPlan then w
  else
    let w := w.write (x.slotAt seq + leAt bs 16 4) (bs.drop 24)
    if x.batches.any (fun (b : BBatch) => b.seq = seq) then w
    else w.setPipe q { x with batches := x.batches ++ [⟨seq, 2, epoch, 0⟩] }

/-- INPUT_POS applied to every plan that reads the source. -/
def Work.applyPos (w : Work) (bs : List Byte) : Work :=
  let s := leAt bs 0 2
  (List.range 16).foldl (fun (w : Work) p =>
    match (w.plan p).image with
    | some i => if i.sources.contains s then { w with inputs := smSet 0 w.inputs (p * 65536 + s) (leAt bs 8 8) } else w
    | none => w) w

/-- MOMENT applied: the slot of the group that the moment names. -/
def Work.applyMoment (w : Work) (bs : List Byte) : Work :=
  let x := w.fgroup (fieldOf (leAt bs 0 4) 16 6)
  if x.momentSlots = 0 then w else w.fieldWrite (x.momentBase + 576 * (leAt bs 4 8 % x.momentSlots)) bs

/-- HIST applied: the partial state joins those held (log entry 22). -/
def Work.applyHist (w : Work) (epoch : Nat) (bs : List Byte) : Work :=
  match HPart.ofBytes epoch bs with
  | none => w
  | some p =>
    let x := w.hist 0
    if (x.group p).any (fun q => q.stretch = p.stretch) then w else w.setHist 0 { x with parts := x.parts ++ [p] }

/-- An entry of sections 1 to 9 applied. -/
def Work.applyEntry (w : Work) (epoch sec : Nat) (bs : List Byte) : Work :=
  match sec with
  | 1 => w.write (fieldOf (leAt bs 0 8) 0 52) (bs.drop 8)
  | 2 => w.applyHead bs
  | 3 => w.applyRowEntry bs
  | 4 =>
    let x := leAt bs 0 8
    w.takeOverride ⟨fieldOf x 40 12, fieldOf x 0 40, fieldOf x 52 9⟩ w.tickNo
  | 5 => w.applyBqHead bs
  | 6 => w.applyBatch epoch bs
  | 7 => w.applyPos bs
  | 8 => w.applyMoment bs
  | 9 => w.applyHist epoch bs
  | _ => w

/-- A purge ordered by the pair: the plan runs out and becomes STOPPED (R295). -/
def Work.stopPlan (w : Work) (p : Nat) : Work :=
  match w.planState p with
  | 1 => w.setPlanState p 4 sOk
  | 2 => (w.setPlanState p 3 sOk).purge p
  | 3 => w.purge p
  | 5 => (w.setPlan p { w.plan p with purging := true }).purge p
  | _ => w

/-- A plan image loaded as the ACTIVE loaded it. -/
def Work.mirrorLoad (w : Work) (p : Nat) (bs : List Byte) : Work :=
  match w.loadImage p bs with
  | .inl _ => w
  | .inr w => w

/-- CONTROL entries applied in order. `load` is the PLAN_LOAD whose image bytes follow: plan, bytes due, bytes so far. -/
def Work.applyControl (w : Work) (load : Option (Nat × Nat × List Byte)) : List (List Byte) → Work
  | [] => w
  | e :: es =>
    let body := e.drop 40
    match load with
    | some (p, n, acc) =>
      let all := acc ++ body
      if n ≤ all.length then Work.applyControl (w.mirrorLoad p (all.take n)) none es
      else Work.applyControl w (some (p, n, all)) es
    | none =>
      let p := leAt body 0 1 % 16
      match (headerOf (slice e 8 32)).1.typ with
      | 3 =>
        let n := fieldOf (ofBytes body) 128 40
        if n = 0 then Work.applyControl (w.emptyPlan p) none es else Work.applyControl w (some (p, n, [])) es
      | 4 => Work.applyControl (w.setPlanState p 2 sOk) none es
      | 5 => Work.applyControl (w.stopPlan p) none es
      | 6 => Work.applyControl (w.setPlanState p 3 sOk) none es
      | 7 => Work.applyControl (w.tableAttachRec firmwareTable (ofBytes body)).2 none es
      | _ => Work.applyControl w none es

/-- The entries of parts, with their sections: the section byte stands at byte 8 of a part's payload. -/
def Work.entriesOfParts (w : Work) (parts : List (List Byte)) : List (Nat × List Byte) :=
  parts.flatMap (fun p => (w.entriesIn (leAt p 8 1) p.length (p.drop 16)).map (fun e => (leAt p 8 1, e)))

/-- Parts applied: tables and plans first, since the entries of the other sections may need them. -/
def Work.applyParts (w : Work) (epoch : Nat) (parts : List (List Byte)) : Work :=
  let w := w.applyControl none ((w.entriesOfParts parts).filter (fun e => e.1 = 10) |>.map (·.2))
  (w.entriesOfParts parts).foldl (fun (w : Work) e => w.applyEntry epoch e.1 e.2) w

/-- A received delta's parts in order. -/
def RxDelta.inOrder (d : RxDelta) : List (List Byte) := (sortBy (fun a b => decide (a.1 ≤ b.1)) d.parts).map (·.2)

/-- The deltas received whole are applied in epoch order, once a bulk copy is complete (R531, R536). -/
def Work.applyDeltas (w : Work) : Work :=
  if !w.isMirror || !(decide (w.pairState = pairMirrored) || w.twin.bulkDone) then w
  else
    let ds := sortBy (fun a b => decide (a.epoch ≤ b.epoch)) (w.twin.rx.filter (·.whole))
    let w := w.setTwin (fun t => { t with rx := t.rx.filter (fun d => !d.whole) })
    ds.foldl (fun (w : Work) d =>
      ((w.applyParts d.epoch d.inOrder).wr F.twnStateLastApplied 0 0 d.epoch).bump F.twnStatDeltas 0 0) w

/-! ## Messages of a delta (R530, R531) -/

/-- DELTA_PART: kept until the delta ends. -/
def Work.deltaPartMsg (w : Work) (m : Msg) : Work :=
  if !w.isMirror then w
  else
    let epoch := leAt m.payload 0 8
    let k := leAt m.payload 9 3
    match w.twin.rx.find? (fun d => d.epoch = epoch) with
    | some d =>
      if d.whole then w
      else
        let d' : RxDelta := { d with parts := (k, m.payload) :: d.parts.filter (fun p => p.1 ≠ k) }
        w.setTwin (fun t => { t with rx := t.rx.map (fun q => if q.epoch = epoch then d' else q) })
    | none => w.setTwin (fun t => { t with rx := t.rx ++ [⟨epoch, [(k, m.payload)], false⟩] })

/-- DELTA_PART (R530). -/
def execDeltaPart (h : KHdr) (payload : List Byte) (s : State) : Out :=
  s.perform (.deltaPart h payload) (fun w => w.arriveAs clsTwin 3 ⟨h, payload⟩ (fun w m =>
    w.fromPartner m (fun w => w.deltaPartMsg m)))

/-- DELTA_END: acknowledged OK when every part is held whole and the CRC matches, CHECK_FAIL otherwise (R531). -/
def Work.deltaEndMsg (w : Work) (m : Msg) : Work :=
  if !w.isMirror || w.twin.mute then w
  else
    let epoch := leAt m.payload 0 8
    let n := leAt m.payload 8 3
    let d := (w.twin.rx.find? (fun d => d.epoch = epoch)).getD ⟨epoch, [], false⟩
    let ok := d.whole || (decide (d.inOrder.length = n) && (List.range n).all (fun k => d.parts.any (fun p => p.1 = k)) &&
      decide (crc32c d.inOrder.flatten = leAt m.payload 12 4))
    let rest := w.twin.rx.filter (fun q => q.epoch ≠ epoch)
    let w := w.setTwin (fun t => { t with rx := if ok then rest ++ [{ d with whole := true }] else rest })
    let w := if ok then w.wr F.twnStateLastAcked 0 0 (max epoch (w.dv F.twnStateLastAcked)) else w
    w.sendTwin 5 0 (toBytes 16 (epoch % 2 ^ 64 + (if ok then sOk else sCheck) * 2 ^ 64))

/-- DELTA_END (R531). -/
def execDeltaEnd (h : KHdr) (payload : List Byte) (s : State) : Out :=
  s.perform (.deltaEnd h payload) (fun w => w.arriveAs clsTwin 4 ⟨h, payload⟩ (fun w m =>
    w.fromPartner m (fun w => w.deltaEndMsg m)))

/-- DELTA_ACK: the delta leaves the buffer, or is sent again whole (R531, R532). -/
def Work.deltaAckMsg (w : Work) (m : Msg) : Work :=
  if w.isMirror then w
  else
    let epoch := leAt m.payload 0 8
    match w.twin.deltas.find? (fun d => d.epoch = epoch) with
    | none => w
    | some d =>
      if leAt m.payload 8 2 = sOk then
        (w.setTwin (fun t => { t with deltas := t.deltas.filter (fun q => q.epoch ≠ epoch) })).wr F.twnStateLastAcked 0 0
          (max epoch (w.dv F.twnStateLastAcked))
      else (w.bump F.twnStatResends 0 0).shipDelta d

/-- DELTA_ACK (R531). -/
def execDeltaAck (h : KHdr) (payload : List Byte) (s : State) : Out :=
  s.perform (.deltaAck h payload) (fun w => w.arriveAs clsTwin 5 ⟨h, payload⟩ (fun w m =>
    w.fromPartner m (fun w => w.deltaAckMsg m)))

/-! ## Bulk sync (R536) -/

/-- Every mirrored object in the forms of R528: windows, rows, overrides, HELD batches, positions, images and states. -/
def Work.bulkSections (w : Work) : List (Nat × List (List Byte)) :=
  let wins := (List.range 16).flatMap (fun p => w.planWindows p)
  let hdrs := wins.map (fun d => (d.byteAt 0, WinHdr.ofNat (w.descLE d 0 128)))
  let blocks := hdrs.flatMap (fun h => (List.range h.2.nparts).flatMap (fun p =>
    (List.range (h.2.e * h.2.ring)).map (fun b => w.blockEntry (h.2.base p false + 64 * b))))
  let rows := w.emb.tables.flatMap (fun t => (List.range t.slots).flatMap (fun s =>
    let e := w.dirEntry t s
    if e = dirEmpty ∨ e = dirTomb then [] else w.rowEntry t.id_ e false))
  let d := w.dv F.fabEmbCfgOvrDie
  let ovrs := (List.range (w.dv F.fabEmbCfgOvrCount)).flatMap (fun j =>
    let b := w.mbank d (w.dv F.fabEmbCfgOvrFirst + j)
    (b.rows.filter (fun r => decide (r.1 % 2 = 0) && r.2.valid)).map (fun r =>
      ovrEntry (b.row (r.1 + 1)).key (b.row r.1).key (b.row r.1).result))
  let held := w.declared.flatMap (fun q =>
    if (w.pipe q).held then (w.pipe q).batches.flatMap (fun (b : BBatch) => w.batchEntries q b.seq) else [])
  let cmd (typ p : Nat) (payload image : List Byte) : List (List Byte) :=
    controlEntries (w.tickNo, ⟨{ w.hdrTo clsCtrl typ w.partner 0 0 p with tick := w.tickNo }, payload⟩, image)
  let plans := (List.range 16).flatMap (fun p =>
    let x := w.plan p
    if x.image.isNone then []
    else
      cmd 3 p (toBytes 24 (p + x.imageBytes.length * 2 ^ 128)) x.imageBytes ++
        (match w.planState p with
         | 2 => cmd 4 p (toBytes 8 p) []
         | 3 => cmd 6 p (toBytes 8 p) []
         | 1 => []
         | _ => cmd 5 p (toBytes 8 p) []))
  [(1, blocks), (2, hdrs.map (fun h => w.headEntry h.1)), (3, rows), (4, ovrs), (5, w.declared.map w.headOf), (6, held),
   (7, w.posEntries), (10, plans)]

/-- The bulk copy sent, once the commit phase is over (R536). (Log entry 132, DEDUCED.) -/
def Work.sendBulk (w : Work) : Work :=
  if w.isMirror || !w.twin.bulkDue || decide (w.phase < commitEnd w.period) then w
  else
    let parts := partsOf w.bulkSections
    let w := w.setTwin (fun t => { t with bulkDue := false })
    let w := (parts.zip (List.range parts.length)).foldl (fun (w : Work) e =>
      w.sendTwin 6 e.2 (toBytes 16 (w.tickNo % 2 ^ 64 + e.1.1 * 2 ^ 64 + e.2 * 2 ^ 72) ++ e.1.2.2)) w
    w.sendTwin 7 0 (toBytes 16 (w.tickNo % 2 ^ 64 + parts.length * 2 ^ 64))

/-- RUN_PHASE_START (R279, R536): the epoch reaches C, the ready levels become eligible, and a bulk copy that is due is
sent. (Log entry 132, DEDUCED.) -/
def execRunPhaseStart (s : State) : Out :=
  s.perform .runPhaseStart (fun w => ((w.atNs (commitEnd w.period)).refreshAll).sendBulk)

/-- A part of a bulk copy kept by its number. -/
def Work.bulkPartMsg (w : Work) (m : Msg) : Work :=
  if !w.isMirror then w
  else
    let k := leAt m.payload 9 3
    w.setTwin (fun t => { t with bulk := (k, m.payload) :: t.bulk.filter (fun p => p.1 ≠ k) })

/-- BULK_PART (R536). -/
def execBulkPart (h : KHdr) (payload : List Byte) (s : State) : Out :=
  s.perform (.bulkPart h payload) (fun w => w.arriveAs clsTwin 6 ⟨h, payload⟩ (fun w m =>
    w.fromPartner m (fun w => w.bulkPartMsg m)))

/-- BULK_END: the copy is taken when every part of it has come; deltas are applied from the next tick on (R536). -/
def Work.bulkEndMsg (w : Work) (m : Msg) : Work :=
  let n := leAt m.payload 8 3
  if !w.isMirror || !(List.range n).all (fun k => w.twin.bulk.any (fun p => p.1 = k)) then w
  else
    let parts := (sortBy (fun a b => decide (a.1 ≤ b.1)) w.twin.bulk).map (·.2)
    (w.applyParts (leAt m.payload 0 8) parts).setTwin (fun t => { t with bulk := [], bulkDone := true })

/-- BULK_END (R536). -/
def execBulkEnd (h : KHdr) (payload : List Byte) (s : State) : Out :=
  s.perform (.bulkEnd h payload) (fun w => w.arriveAs clsTwin 7 ⟨h, payload⟩ (fun w m =>
    w.fromPartner m (fun w => w.bulkEndMsg m)))

/-! ## Pairing (R525, R536) -/

/-- What this module holds as MIRROR is discarded (R532, R535; log entry 23). -/
def Work.discardMirror (w : Work) : Work :=
  let w := w.declared.foldl (fun (w : Work) q =>
    let x := w.pipe q
    (w.setPipe q { x with batches := [], rows := [], nextSeq := 0, types := none }).showHead q) w
  let w : Work := { w with inputs := [], hists := [] }
  w.setTwin (fun t => { t with rx := [], bulk := [], bulkDone := false, hand := none })

/-- A partner that is ACTIVE is heard by a module without a role: it attaches as MIRROR (R525). -/
def Work.hearActive (w : Work) : Work :=
  if w.twin.decided then w
  else (w.setTwin (fun t => { t with decided := true, next := .attach })).askAttach

/-- HELLO (R525, R536). -/
def Work.helloMsg (w : Work) (m : Msg) : Work :=
  let x := leAt m.payload 0 8
  if fieldOf x 0 9 ≠ w.partner ∨ fieldOf x 9 8 ≠ w.dv F.bootIdentityPair then w
  else
    let mirror := bitOf x 17
    let starting := bitOf x 18
    if !w.twin.decided then
      if starting then
        w.setTwin (fun t => { t with decided := true, next := if w.deviceId < w.partner then .active else .mirror })
      else if mirror then w else w.hearActive
    else if mirror ∧ w.isMirror = false ∧ w.pairState = pairSolo ∧ w.twin.next = .none then
      w.setTwin (fun t => { t with next := .join })
    else w

/-- HELLO (R525). -/
def execHello (h : KHdr) (payload : List Byte) (s : State) : Out :=
  s.perform (.hello h payload) (fun w => w.arriveAs clsTwin 1 ⟨h, payload⟩ (fun w m =>
    w.fromPartner m (fun w => w.helloMsg m)))

/-- PAIRING_WAIT_EXPIRE (R525): nothing heard within WAIT_S, so this module becomes ACTIVE in SOLO. -/
def execPairingWaitExpire (s : State) : Out :=
  s.perform .pairingWaitExpire (fun w =>
    if w.paired ∧ w.twin.decided = false then w.setTwin (fun t => { t with decided := true, next := .solo }) else w)

/-! ## Heartbeats (R533 to R535) -/

/-- Two modules that are both ACTIVE hear each other: which one stays ACTIVE (R535). -/
def Work.staysActive (w : Work) (peerFailed : Bool) : Bool :=
  let mine := w.rdB F.twnStateFailedOver 0 0
  if mine = peerFailed then decide (w.deviceId < w.partner) else !mine

/-- The module that does not stay ACTIVE purges its plans, discards its state and attaches as MIRROR (R535). -/
def Work.yieldActive (w : Work) : Work :=
  let w := (List.range 16).foldl Work.stopPlan w
  let w := ((w.wr F.twnStateRole 0 0 1).wr F.twnStateFailedOver 0 0 0).wr F.twnCtlHandover 0 0 0
  let w := (w.setTwin (fun t => { t with deltas := [], next := .none, bulkDue := false })).discardMirror
  (((w.event 84 sOk w.partner).setPair pairSolo).setDevState stMirror).askAttach

/-- HEARTBEAT (R530, R532, R533, R535, R537): a MIRROR that is failing over becomes ACTIVE whatever it hears.
(Log entry 132, DEDUCED.) -/
def Work.heartbeatMsg (w : Work) (m : Msg) : Work :=
  let x := leAt m.payload 0 24
  let peerMirror := bitOf x 64
  let peerPair := fieldOf x 65 2
  let now := decide (fieldOf x 0 64 = w.tickNo % 2 ^ 64)
  let w := (w.wr F.twnStateMissed 0 0 0).setTwin (fun t => { t with heard := t.heard || now })
  if !w.twin.decided then (if peerMirror then w else w.hearActive)
  else if w.isMirror then
    if peerMirror ∨ w.pairState = pairFailing then w
    else if peerPair = pairSolo then
      (if w.pairState = pairSolo then w else w.discardMirror.setPair pairSolo).askAttach
    else if peerPair = pairSyncing ∧ w.pairState = pairSolo then w.setPair pairSyncing
    else w
  else if peerMirror then
    (if w.pairState = pairSyncing ∧ peerPair = pairMirrored then
      (w.wr F.twnStateFailedOver 0 0 0).setPair pairMirrored else w)
  else if w.devState = stStarting ∨ w.staysActive (bitOf x 67) = true then w
  else w.yieldActive

/-- HEARTBEAT (R533). -/
def execHeartbeat (h : KHdr) (payload : List Byte) (s : State) : Out :=
  s.perform (.heartbeat h payload) (fun w => w.arriveAs clsTwin 2 ⟨h, payload⟩ (fun w m =>
    w.fromPartner m (fun w => w.heartbeatMsg m)))

/-- A heartbeat of the present tick has not come by half the period: it is counted in every pair state, and the third in a
row acts in SYNCING and MIRRORED (R533, R534, R537). -/
def Work.heartbeatMissed (w : Work) : Work :=
  if !w.paired || !w.twin.decided || w.twin.heard then w
  else
    let n := w.dv F.twnStateMissed + 1
    let w := w.bumpSat F.twnStateMissed 0 0
    if n < 3 ∨ w.pairState = pairSolo ∨ w.pairState = pairFailing then w
    else if !w.isMirror then w.setTwin (fun t => { t with next := .lost })
    else if w.pairState = pairSyncing then (w.twinLost.discardMirror).setPair pairSolo
    else (w.setTwin (fun t => { t with next := .failover })).setPair pairFailing

/-- HEARTBEAT_MISS (R533): counted once for a tick. (Log entries 15, DESIGN CHOICE; 132, DEDUCED.) -/
def execHeartbeatMiss (s : State) : Out :=
  s.perform .heartbeatMiss (fun w => (w.heartbeatMissed).setTwin (fun t => { t with heard := true }))

/-! ## Handover and detach (R538, R539) -/

/-- A write of 1 to TWN_CTL.HANDOVER: its status (R538). (Log entry 133, DEDUCED.) -/
def Work.handoverRequest (w : Work) : Nat × Work :=
  if w.paired && !w.isMirror && decide (w.pairState = pairMirrored) then
    (sOk, if w.rdB F.twnCtlHandover 0 0 then w
          else (w.wr F.twnCtlHandover 0 0 1).setTwin (fun t => { t with next := .handover }))
  else (sState, w)

/-- TWN_CTL_HANDOVER (R538). (Log entry 133, DEDUCED.) -/
def execTwnCtlHandover (by_ : Requester) (s : State) : Out :=
  s.perform (.twnCtlHandover by_) (fun w => w.handoverRequest.2)

/-- The epoch whose delta this module must hold before it takes over (R538). -/
def Work.handoverMsg (w : Work) (m : Msg) : Work :=
  if w.isMirror ∧ w.pairState = pairMirrored then w.setTwin (fun t => { t with hand := some (leAt m.payload 0 8) }) else w

/-- HANDOVER (R538). -/
def execHandover (h : KHdr) (payload : List Byte) (s : State) : Out :=
  s.perform (.handover h payload) (fun w => w.arriveAs clsTwin 9 ⟨h, payload⟩ (fun w m =>
    w.fromPartner m (fun w => w.handoverMsg m)))

/-- The MIRROR leaves: the pair is SOLO from the next tick on (R539). -/
def Work.detachMsg (w : Work) : Work :=
  if !w.isMirror && decide (w.pairState ≠ pairSolo) then w.setTwin (fun t => { t with next := .left }) else w

/-- DETACH (R539). -/
def execDetach (h : KHdr) (payload : List Byte) (s : State) : Out :=
  s.perform (.detach h payload) (fun w => w.arriveAs clsTwin 8 ⟨h, payload⟩ (fun w m =>
    w.fromPartner m Work.detachMsg))

/-- PLAN_DRAIN addressed to a MIRROR's own id: it sends DETACH and stops acknowledging (R539). -/
def Work.detachMirror (w : Work) (m : Msg) : Work :=
  w.command m none (fun w =>
    let w := w.setTwin (fun t => { t with next := .detach, mute := true, reply := some m.h })
    w.sendTwin 8 0 (toBytes 8 (w.tickNo + 1)))

/-- PLAN_DRAIN as a message that this device takes (R293, R539). (Log entry 133, DEDUCED.) -/
def Work.drainMsg (w : Work) (m : Msg) : Work :=
  if w.isMirror ∧ m.h.dstDev = w.deviceId then w.detachMirror m else w.planDrainMsg m

/-- PLAN_DRAIN (R293, R539). -/
def execPlanDrain (h : KHdr) (payload : List Byte) (s : State) : Out :=
  s.perform (.planDrain h payload) (fun w => w.arriveAs clsCtrl 0x06 ⟨h, payload⟩ (fun w m => w.drainMsg m))

/-! ## What a tick does to the pair -/

/-- Work of an epoch that has ended is still unfinished (R538). -/
def Work.anyOverdue (w : Work) : Bool := (List.range 4).any (fun d => !(w.overdue d).isEmpty)

/-- HANDOVER sent once the work of the epoch that has ended is complete (R538). (Log entry 133, DEDUCED.) -/
def Work.handoverTick (w : Work) : Work :=
  if w.anyOverdue then w
  else
    let l := w.tickNo - 1
    (w.setTwin (fun t => { t with next := .none, hand := some l })).sendTwin 9 0 (toBytes 8 l)

/-- A MIRROR takes over by failover (R533). -/
def Work.failover (w : Work) : Work :=
  let w := ((w.wr F.twnStateRole 0 0 0).wr F.twnStateFailedOver 0 0 1).bumpSat F.twnStatFailovers 0 0
  let w := w.declared.foldl (fun (w : Work) q =>
    let x := w.pipe q
    w.setPipe q { x with batches := x.batches.map (fun (b : BBatch) => if b.st = 2 then { b with st := 3 } else b) }) w
  let w := (w.setPair pairSolo).setTwin (fun t => { t with rx := [], bulkDone := false, hand := none })
  (w.event 82 sOk (w.partner + (w.dv F.twnStateLastApplied + 1) % 2 ^ 64 * 2 ^ 64)).serve (w.dv F.rstSharedRecoverEpochs)

/-- A MIRROR detaches into REST with its plans STOPPED (R539). (Log entry 133, DEDUCED.) -/
def Work.detachTick (w : Work) : Work :=
  let w := (List.range 16).foldl (fun (w : Work) p =>
    if w.planState p = 0 then w else w.setPlanState p 4 sOk) w
  let reply := w.twin.reply
  let w : Work := { w with boot := { w.boot with detached := true, restFrom := w.devState } }
  let w := ((w.setTwin (fun t => { t with rx := [], reply := none })).setPair pairSolo).setDevState stRest
  match reply with
  | some h => w.ctrlDone h sOk []
  | none => w

/-- The change of the pair that falls at this tick; an ACTIVE that takes a MIRROR counts missed heartbeats anew.
(Log entry 132, DEDUCED.) -/
def Work.pairChange (w : Work) : Work :=
  let n := w.twin.next
  let w := w.setTwin (fun t => { t with next := if n = .handover then n else .none })
  match n with
  | .none => w
  | .solo => w.wr F.twnStateRole 0 0 0
  | .active => (w.wr F.twnStateRole 0 0 0).setPair pairMirrored
  | .mirror => (w.wr F.twnStateRole 0 0 1).setPair pairMirrored
  | .attach => w.wr F.twnStateRole 0 0 1
  | .join =>
    ((w.wr F.twnStateMissed 0 0 0).setTwin (fun t => { t with bulkDue := true, deltas := [] })).setPair pairSyncing
  | .lost => w.goSolo true
  | .left => w.goSolo false
  | .failover => w.failover
  | .detach => w.detachTick
  | .handover => w.handoverTick

/-- The end of a handover on either side, and of a sync on the MIRROR's (R537, R538). -/
def Work.pairSettle (w : Work) : Work :=
  if w.isMirror then
    if w.pairState = pairSyncing ∧ w.twin.bulkDone = true ∧ w.dv F.twnStateLastApplied = w.dv F.twnStateLastAcked then
      (w.wr F.twnStateFailedOver 0 0 0).setPair pairMirrored
    else
      match w.twin.hand with
      | some l =>
        if l ≤ w.dv F.twnStateLastApplied then
          (((w.setTwin (fun t => { t with hand := none })).wr F.twnStateRole 0 0 0).wr F.twnStateFailedOver 0 0 0).serve
            (w.dv F.rstSharedRecoverEpochs)
        else w
      | none => w
  else
    match w.twin.hand with
    | some l =>
      if l ≤ w.dv F.twnStateLastAcked then
        (((w.setTwin (fun t => { t with hand := none, deltas := [] })).wr F.twnCtlHandover 0 0 0).wr F.twnStateRole 0 0
          1).setDevState stMirror
      else w
    | none => w

/-- The pair at a tick: deltas that this module holds are applied, then the pair changes (R531 to R539). -/
def Work.twinTick (w : Work) : Work :=
  if !w.paired then w else (((w.applyDeltas).pairChange).pairSettle).lagTick

/-- The heartbeats of a tick (R533): none before start has ended, nor after a
fatal failure or in DIVERGED (R55, R558, R569). -/
def Work.sendBeats (w : Work) : Work :=
  let w := w.setTwin (fun t => { t with heard := false })
  if w.paired ∧ w.twin.decided = true ∧ w.devState ≠ stStarting ∧ w.spr.fatal = false ∧
      w.dv F.timeSrcAlignState ≠ 5 then w.twinAll 2 w.beatPayload else w

end Sys2Proof.Machine
end

