-- ==== Sys2Proof/Machine/Events.lean ====
section
/-! DEFINITION. Delivery of events, hold-off, subscriptions, the end of handling, and plan events (R587, R590 to R603),
with the fence of a management core (R555). -/

namespace Sys2Proof.Machine

/-! ## Targets (R592) -/

/-- A management core is in service: its own or a spare that has taken its id (R555). -/
def Work.mcServes (w : Work) (n : Nat) : Bool := !w.spr.mcLost.contains n

/-- The subscriptions that cover a source's group (R599, R601). -/
def Work.subsFor (w : Work) (s : Nat) : List Nat :=
  (List.range 8).filter (fun i => w.rdB F.evtSubValid 0 i && bitOf (w.rd F.evtSubGroups 0 i) (s / 8))

/-- Target t of a source is named and available: 0 to 3 management cores, 4 HOST (R592). -/
def Work.evtTarget (w : Work) (s t : Nat) : Bool :=
  bitOf (w.rd F.evtPriTargets 0 s) t && (if t < 4 then w.mcServes t else !(w.subsFor s).isEmpty)

/-- The first available target after the last one, in the cycle MC0 to MC3 and HOST (R593). -/
def Work.nextTarget (w : Work) (s : Nat) : Option Nat :=
  ((List.range 5).map (fun k => (w.rd F.evtPriRr 0 s + 1 + k) % 5)).find? (w.evtTarget s)

/-- A source is pending. -/
def Work.evtPending (w : Work) (s : Nat) : Bool := decide (w.rd F.evtPriState 0 s % 2 = 1)
/-- A source is active. -/
def Work.evtActive (w : Work) (s : Nat) : Bool := decide (2 ≤ w.rd F.evtPriState 0 s)

/-- A source that may be delivered now (R593). -/
def Work.evtCandidate (w : Work) (s : Nat) : Bool :=
  w.evtPending s && w.rdB F.evtPriEnable 0 s && !w.evtActive s && !w.evt.holdoff.contains (s / 8) &&
    (w.nextTarget s).isSome

/-- The group field of a source's priority (R590). -/
def Work.evtGroup (w : Work) (s : Nat) : Nat := w.rd F.evtPriPriority 0 s / 2 ^ w.dv F.evtSplitSplit

/-- The events nested on a management core, innermost first (R594). -/
def Work.evtStack (w : Work) (n : Nat) : List (Nat × Nat) := smGet [] w.evt.stk n

/-- A core's nested events replaced, and EVT_CORE with them: its running group is the innermost one's, or 64. -/
def Work.setEvtStack (w : Work) (n : Nat) (l : List (Nat × Nat)) : Work :=
  let w : Work := { w with evt := { w.evt with stk := smSet [] w.evt.stk n l } }
  let run := match l with
    | e :: _ => e.2
    | [] => 64
  ((w.wr F.evtCoreRunGroup 0 n run).wr F.evtCoreDepth 0 n l.length).wrB F.evtCoreActive 0 n
    (l.any (fun e => e.1 = w.rd F.evtCoreSource 0 n))

/-- The target can take the source: HOST always, a core that is idle or runs a numerically higher group (R593, R594). -/
def Work.evtTakes (w : Work) (s t : Nat) : Bool := decide (t = 4) || decide (w.evtGroup s < w.rd F.evtCoreRunGroup 0 t)

/-- Source a comes before source b in the order of R590. (Log entry 145, DEDUCED.) -/
def Work.evtBefore (w : Work) (a b : Nat) : Bool :=
  let p := w.rd F.evtPriPriority 0 a
  let q := w.rd F.evtPriPriority 0 b
  decide (p < q) || (decide (p = q) && decide (a < b))

/-- The target that this cycle's decision gives a source, when it delivers it (R593). (Log entry 145, DEDUCED.) -/
def Work.evtDecision (w : Work) (s : Nat) : Option Nat :=
  if w.dv F.evtGlobalDeliver = 0 ∨ w.evtCandidate s = false then none
  else
    match w.nextTarget s with
    | none => none
    | some t =>
      let ahead := (List.range 256).any (fun a =>
        w.evtBefore a s && w.evtCandidate a && decide (w.nextTarget a = some t) && w.evtTakes a t)
      if !ahead && w.evtTakes s t then some t else none

/-! ## Delivery (R593 to R595, R601) -/

/-- The record as it is delivered to a subscription (R588). -/
def Work.evtPayload (w : Work) (s subTick : Nat) : List Byte :=
  let r := w.rd F.evtRecRecord 0 s
  toBytes 64 (r - fieldOf r 224 32 * 2 ^ 224 + subTick * 2 ^ 224)

/-- CTRL EVENT to a subscription (R601). -/
def Work.sendEvent (w : Work) (s i : Nat) : Work :=
  w.send { h := w.hdrTo clsCtrl 0x20 (w.rd F.evtSubBridge 0 i) (w.rd F.evtSubSession 0 i + 1) 0 0,
           payload := w.evtPayload s (w.rd F.evtSubSubTick 0 i) }

/-- The hold-off of a group in microseconds (R599). -/
def Work.holdoffUs (w : Work) (g : Nat) : Nat := w.rd (F.evtHoldoffUs (g % 4)) 0 (g / 4)

/-- A source delivered to a target (R593). -/
def Work.evtDeliver (w : Work) (s t : Nat) : Work :=
  let w := (w.recPut s 8 6 (w.rd F.evtPriPriority 0 s)).recPut s 192 32 (w.dv F.evtGlobalSeq)
  let w := if t < 4 then
      ((w.wr F.evtPriState 0 s 2).wr F.evtCoreSource 0 t s).setEvtStack t ((s, w.evtGroup s) :: w.evtStack t)
    else (w.subsFor s).foldl (fun (w : Work) i => w.sendEvent s i) (w.wr F.evtPriState 0 s 0)
  let w := ((w.wr F.evtPriCount 0 s 0).wr F.evtPriRr 0 s t).bump F.evtGlobalSeq 0 0
  if w.holdoffUs (s / 8) = 0 then w
  else { w with evt := { w.evt with holdoff := setInsert w.evt.holdoff (s / 8) } }

/-- EVENT_OCCURRENCE (R586, R589): a cause of a source has occurred. -/
def execEventOccurrence (source : Nat) (status : Status) (detail : BitVec 256) (s : State) : Out :=
  s.perform (.eventOccurrence source status detail) (fun w => w.event source (statusCode status) detail.toNat)

/-- EVENT_DELIVERY (R593): the event unit delivers a source when its decision does so. (Log entry 145, DEDUCED.) -/
def execEventDelivery (source : Nat) (s : State) : Out :=
  s.perform (.eventDelivery source) (fun w =>
    match w.evtDecision source with
    | some t => w.evtDeliver source t
    | none => w)

/-- HOLDOFF_EXPIRE (R599). -/
def execHoldoffExpire (group : Nat) (s : State) : Out :=
  s.perform (.holdoffExpire group) (fun w =>
    { w with evt := { w.evt with holdoff := w.evt.holdoff.filter (fun g => g ≠ group) } })

/-! ## The end of handling (R595, R596) -/

/-- The condition of a level source holds, as PWR_STATUS shows it (R586). -/
def Work.levelHolds (w : Work) (s : Nat) : Bool :=
  match s with
  | 42 => w.rdB F.pwrStatusNvw 0 0
  | 43 => w.rdB F.pwrStatusThermal 0 0
  | 44 => w.rdB F.pwrStatusCapping 0 0
  | 45 => w.rdB F.pwrStatusSupply 0 0
  | _ => false

/-- The word of PWR_STATUS, which the level sources report (R585). -/
def Work.pwrStatusWord (w : Work) : Nat :=
  (Reg.fields .pwrStatus).foldl (fun x f => x + w.dv f.fld * 2 ^ f.fld.lo) 0

/-- A level source occurs: source 42 with NVW_INHIBIT, the others with OK (R585). (Log entry 146, DEDUCED.) -/
def Work.levelEvent (w : Work) (s : Nat) : Work := w.event s (if s = 42 then sNvw else sOk) w.pwrStatusWord

/-- A level source is sampled again: still asserted, it becomes pending with a new record (R596).
(Log entry 146, DEDUCED.) -/
def Work.resample (w : Work) (s : Nat) : Work :=
  if levelSource s && w.levelHolds s && !w.evtPending s then w.levelEvent s else w

/-- A write to EVT_EOI by a management core (R596). -/
def Work.evtEoiWrite (w : Work) (n v : Nat) : Work :=
  let s := v % 256
  let l := w.evtStack n
  if l.any (fun e => e.1 = s) then
    ((w.wr F.evtPriState 0 s (w.rd F.evtPriState 0 s % 2)).setEvtStack n (l.filter (fun e => e.1 ≠ s))).resample s
  else w.bump F.evtGlobalBadEoi 0 0

/-- EVT_EOI (R596). -/
def execEvtEoi (mc : Nat) (value : BitVec 64) (s : State) : Out :=
  s.perform (.evtEoi mc value) (fun w => w.evtEoiWrite mc value.toNat)

/-- Level sources that no management core targets are sampled again at each tick (R596). -/
def Work.levelTick (w : Work) : Work :=
  [42, 43, 44, 45].foldl (fun (w : Work) s => if w.rd F.evtPriTargets 0 s % 16 = 0 then w.resample s else w) w

/-- A write to EVT_PEND: 1 discards a pending occurrence and closes its record (R598). -/
def Work.evtPendWrite (w : Work) (i v : Nat) : Work :=
  (List.range 64).foldl (fun (w : Work) k =>
    let s := 64 * i + k
    if bitOf v k && w.evtPending s then
      (w.wr F.evtPriState 0 s (w.rd F.evtPriState 0 s - 1)).wr F.evtPriCount 0 s 0
    else w) w

/-- EVT_PEND (R598). -/
def execEvtPend (instance_ : Nat) (value : BitVec 64) (s : State) : Out :=
  s.perform (.evtPend instance_ value) (fun w => w.evtPendWrite instance_ value.toNat)

/-! ## Subscriptions (R600) -/

/-- The entry that a subscription of a bridge's session takes. -/
def Work.subSlot (w : Work) (bridge sess : Nat) : Option Nat :=
  let mine := (List.range 8).find? (fun i => w.rdB F.evtSubValid 0 i && decide (w.rd F.evtSubBridge 0 i = bridge) &&
    decide (w.rd F.evtSubSession 0 i = sess))
  match mine with
  | some i => some i
  | none => (List.range 8).find? (fun i => !w.rdB F.evtSubValid 0 i)

/-- A write to an instance of EVT_SUB (R600): its status. -/
def Work.evtSubWrite (w : Work) (by_ : Requester) (i v : Nat) : Nat × Work :=
  if !bitOf v 11 then (sOk, w.wr F.evtSubValid 0 i 0)
  else
    match by_ with
    | .regWrite dev sess =>
      if sess = 0 then (sOk, w)
      else
        (match w.subSlot dev (sess - 1) with
        | none => (sFull, w)
        | some k =>
          (sOk, ((((w.wr F.evtSubBridge 0 k dev).wr F.evtSubSession 0 k (sess - 1)).wr F.evtSubValid 0 k 1).wr F.evtSubGroups
            0 k (fieldOf v 32 32)).wr F.evtSubSubTick 0 k w.tickNo))
    | _ => (sOk, w)

/-- EVT_SUB (R600). -/
def execEvtSub (by_ : Requester) (instance_ : Nat) (value : BitVec 64) (s : State) : Out :=
  s.perform (.evtSub by_ instance_ value) (fun w => (w.evtSubWrite by_ instance_ value.toNat).2)

/-! ## Plan events (R587) -/

/-- The runtime call that raises a plan event. -/
def Work.planEventCall (w : Work) (d g j a : Nat) : Work :=
  let p := w.planOf (.core d g) % 16
  let detail := if a = 0 then some (List.replicate 28 0) else w.callRecord d g a 28 4
  match detail with
  | some bs =>
    if 16 ≤ j then w.callReturn d g sRange none
    else (w.event (240 + j) sOk (p + ofBytes bs * 2 ^ 32)).callReturn d g sOk none
  | none => w.callReturn d g sRange none

/-- PLAN_EVENT (R587). -/
def execPlanEvent (die gc a0 a1 : Nat) (s : State) : Out :=
  s.perform (.planEvent die gc a0 a1) (fun w => w.coreRow die gc (fun w => w.planEventCall die gc a0 a1))

/-! ## A management core fails (R555, R597) -/

/-- The sources that wait for a management core (R593). -/
def Work.heldFor (w : Work) (n : Nat) : List Nat :=
  (List.range 256).filter (fun s => w.evtCandidate s && decide (w.nextTarget s = some n))

/-- Events active on a fenced management core, or held for it, return to pending with REPLAY set (R597). -/
def Work.mcReplay (w : Work) (n : Nat) (held : List Nat) : Work :=
  let act := (w.evtStack n).map (·.1)
  let w := (w.setEvtStack n []).wr F.evtCoreActive 0 n 0
  let w := act.foldl (fun (w : Work) s => (w.wr F.evtPriState 0 s 1).wr F.evtPriCount 0 s
    (fieldOf (w.rd F.evtRecRecord 0 s) 32 16)) w
  (act ++ held).foldl (fun (w : Work) s => (w.recPut s 15 1 1).wr F.evtPriRr 0 s n) w

/-- A management core fenced at once for a cause (R555). -/
def Work.fenceMc (w : Work) (n cause : Nat) : Work :=
  if !w.mcServes n then w
  else
  let held := w.heldFor n
  if (w.spareList kMc 0).isEmpty then
    let w : Work := { w with spr := { w.spr with mcLost := setInsert w.spr.mcLost n } }
    ((w.noSpare kMc 0 n cause 0).mcReplay n held).degrade 0
  else (w.fenceToSpare kMc 0 n cause 0).mcReplay n held

/-- MC_FENCE (R555). -/
def execMcFence (mc cause : Nat) (s : State) : Out := s.perform (.mcFence mc cause) (fun w => w.fenceMc mc cause)

end Sys2Proof.Machine
end

