-- ==== Sys2Proof/Machine/Inflate.lean ====
section
/-! DEFINITION. Decoding of byte streams: the running limits of a decanter job (R408), DEFLATE (RFC 1951), GZIP
(RFC 1952) and LZ4 blocks, which R410 takes by reference. -/

namespace Sys2Proof.Machine

/-- REASON codes of R411. -/
abbrev rMalformed : Nat := 1
/-- UNSUPPORTED. -/
abbrev rUnsupported : Nat := 2
/-- CHECK. -/
abbrev rCheck : Nat := 3
/-- SIZE. -/
abbrev rSize : Nat := 4
/-- TRUNCATED. -/
abbrev rTruncated : Nat := 5
/-- INTERNAL (R422, R426). -/
abbrev rInternal : Nat := 6

/-- A decode under way: the input not yet read, the next bit of its first byte, the bytes produced (newest first)
and their number, where the stream under way began, the three limits of R408, the failures and the reason with which it
stopped, and the places of the input that meet no memory, rising (R403). -/
structure Dec where
  inp : List Byte
  bit : Nat
  out : List Byte
  n : Nat
  base : Nat
  alloc : Nat
  ratio : Nat
  size : Option Nat
  stop : Option (List Nat × Nat)
  holes : List Nat := []
  deriving DecidableEq, Repr

/-- A decode that begins. -/
def Dec.start (inp : List Byte) (alloc ratio : Nat) (size : Option Nat) : Dec :=
  { inp := inp, bit := 0, out := [], n := 0, base := 0, alloc := alloc, ratio := ratio, size := size, stop := none }

/-- A decode that stops with CHECK_FAIL; the first stop stands. -/
def Dec.halt (s : Dec) (reason : Nat) : Dec :=
  if s.stop.isSome then s else { s with stop := some ([sCheck], reason) }

/-- A decode that meets an unmapped page of its input (R403). -/
def Dec.unmapped (s : Dec) : Dec := if s.stop.isSome then s else { s with stop := some ([sUnmapped], 0) }

/-- Running out of bytes inside a part that the input holds whole breaks the format: the input does not end there. -/
def Dec.inside (s : Dec) : Dec :=
  match s.stop with
  | some (fs, r) => if r = rTruncated then { s with stop := some (fs, rMalformed) } else s
  | none => s

/-- The decode goes on. -/
def Dec.live (s : Dec) : Bool := s.stop.isNone

/-- A length held against the three limits of R408. -/
def Dec.limits (s : Dec) (n : Nat) : List Nat :=
  chk (decide (n ≤ s.alloc)) sFull ++ chk (decide (n ≤ s.ratio)) sRatio ++
    chk (match s.size with
    | some d => decide (n ≤ d)
    | none => true) sCheck

/-- A byte produced, unless it crosses a limit (R408). -/
def Dec.emit (s : Dec) (b : Byte) : Dec :=
  if s.stop.isSome then s
  else
    match s.limits (s.n + 1) with
    | [] => { s with out := b :: s.out, n := s.n + 1 }
    | fs => { s with stop := some (fs, rSize) }

/-- Bytes produced in order. -/
def Dec.emits (s : Dec) : List Byte → Dec
  | [] => s
  | b :: bs => if s.live then Dec.emits (s.emit b) bs else s

/-- A copy of len bytes from dist bytes back; one that reaches before the stream's first byte breaks the format
(R411). -/
def Dec.copyBack (s : Dec) (dist : Nat) : Nat → Dec
  | 0 => s
  | len + 1 =>
    if !s.live then s
    else if dist = 0 ∨ s.n - s.base < dist then s.halt rMalformed
    else Dec.copyBack (s.emit (getAt 0 s.out (dist - 1))) dist len

/-- The next whole byte; a partial one is left first. -/
def Dec.byte (s : Dec) : Nat × Dec :=
  match (if s.bit = 0 then s.inp else s.inp.drop 1) with
  | [] => (0, { s with inp := [], bit := 0 }.halt rTruncated)
  | b :: r => (b.toNat, { s with inp := r, bit := 0 })

/-- A little-endian value of n bytes. -/
def Dec.le (s : Dec) : Nat → Nat × Dec
  | 0 => (0, s)
  | n + 1 =>
    let (b, s) := s.byte
    let (v, s) := Dec.le s n
    (b + 256 * v, s)

/-- The next bit, least significant first. -/
def Dec.bit1 (s : Dec) : Nat × Dec :=
  match s.inp with
  | [] => (0, s.halt rTruncated)
  | b :: r =>
    let v := fieldOf b.toNat s.bit 1
    (v, if s.bit = 7 then { s with inp := r, bit := 0 } else { s with bit := s.bit + 1 })

/-- The next n bits, the first read lowest. -/
def Dec.bits (s : Dec) : Nat → Nat × Dec
  | 0 => (0, s)
  | n + 1 =>
    let (b, s) := s.bit1
    let (v, s) := Dec.bits s n
    (b + 2 * v, s)

/-! ## DEFLATE -/

/-- A Huffman code: how many codes each length 1 to 15 has, and the symbols in code order. -/
structure Huff where
  counts : List Nat
  syms : List Nat
  deriving DecidableEq, Repr

/-- The code that a list of lengths gives. -/
def Huff.ofLengths (ls : List Nat) : Huff :=
  let ks := (List.range 15).map (· + 1)
  { counts := ks.map (fun k => (ls.filter (· = k)).length),
    syms := ks.flatMap (fun k => (List.range ls.length).filter (fun i => getAt 0 ls i = k)) }

/-- The codes left over: positive when the set is incomplete, negative when it is over-subscribed. -/
def Huff.left (h : Huff) : Int := h.counts.foldl (fun (l : Int) (c : Nat) => 2 * l - c) 1

/-- A set that a decoder may use: complete, or a single code of one bit. -/
def Huff.ok (h : Huff) : Bool :=
  decide (h.left = 0) || (decide (h.syms.length = 1) && decide (getAt 0 h.counts 0 = 1))

/-- The symbol of the next code. -/
def Huff.walk (h : Huff) : List Nat → Nat → Nat → Nat → Dec → Nat × Dec
  | [], _, _, _, s => (0, s.halt rMalformed)
  | c :: cs, code, first, index, s =>
    let (b, s) := s.bit1
    let code := code + b
    if code < first + c then (getAt 0 h.syms (index + (code - first)), s)
    else Huff.walk h cs (2 * code) (2 * (first + c)) (index + c) s

/-- A symbol decoded. -/
def Huff.decode (h : Huff) (s : Dec) : Nat × Dec := h.walk h.counts 0 0 0 s

/-- Base and extra bits of a length code less 257. -/
def lengthBase : List (Nat × Nat) :=
  [(3, 0), (4, 0), (5, 0), (6, 0), (7, 0), (8, 0), (9, 0), (10, 0), (11, 1), (13, 1), (15, 1), (17, 1), (19, 2),
   (23, 2), (27, 2), (31, 2), (35, 3), (43, 3), (51, 3), (59, 3), (67, 4), (83, 4), (99, 4), (115, 4), (131, 5),
   (163, 5), (195, 5), (227, 5), (258, 0)]

/-- Base and extra bits of a distance code. -/
def distBase : List (Nat × Nat) :=
  [(1, 0), (2, 0), (3, 0), (4, 0), (5, 1), (7, 1), (9, 2), (13, 2), (17, 3), (25, 3), (33, 4), (49, 4), (65, 5),
   (97, 5), (129, 6), (193, 6), (257, 7), (385, 7), (513, 8), (769, 8), (1025, 9), (1537, 9), (2049, 10),
   (3073, 10), (4097, 11), (6145, 11), (8193, 12), (12289, 12), (16385, 13), (24577, 13)]

/-- The symbols of a block up to its end. -/
def Dec.symbols (lit dst : Huff) : Nat → Dec → Dec
  | 0, s => s.halt rMalformed
  | fuel + 1, s =>
    let (y, s) := lit.decode s
    if !s.live then s
    else if y < 256 then Dec.symbols lit dst fuel (s.emit (BitVec.ofNat 8 y))
    else if y = 256 then s
    else if 285 < y then s.halt rMalformed
    else
      let (lb, le) := getAt (0, 0) lengthBase (y - 257)
      let (x, s) := s.bits le
      let (z, s) := dst.decode s
      if !s.live then s
      else if 29 < z then s.halt rMalformed
      else
        let (db, de) := getAt (0, 0) distBase z
        let (q, s) := s.bits de
        if s.live then Dec.symbols lit dst fuel (s.copyBack (db + q) (lb + x)) else s

/-- The order in which a dynamic block gives the lengths of its length code. -/
def clOrder : List Nat := [16, 17, 18, 0, 8, 7, 9, 6, 10, 5, 11, 4, 12, 3, 13, 2, 14, 1, 15]

/-- The code lengths of a dynamic block, n of them. -/
def Dec.lengths (cl : Huff) (n : Nat) : Nat → List Nat → Dec → List Nat × Dec
  | 0, acc, s => (acc, s.halt rMalformed)
  | fuel + 1, acc, s =>
    if !s.live ∨ acc.length = n then (acc, s)
    else if n < acc.length then (acc, s.halt rMalformed)
    else
      let (y, s) := cl.decode s
      if y < 16 then Dec.lengths cl n fuel (acc ++ [y]) s
      else if y = 16 then
        let (r, s) := s.bits 2
        (match acc.getLast? with
        | some v => Dec.lengths cl n fuel (acc ++ List.replicate (r + 3) v) s
        | none => (acc, s.halt rMalformed))
      else
        let (r, s) := if y = 17 then s.bits 3 else s.bits 7
        Dec.lengths cl n fuel (acc ++ List.replicate (r + if y = 17 then 3 else 11) 0) s

/-- A dynamic-Huffman block. -/
def Dec.dynamic (fuel : Nat) (s : Dec) : Dec :=
  let (hlit, s) := s.bits 5
  let (hdist, s) := s.bits 5
  let (hclen, s) := s.bits 4
  let (cls, s) := (List.range (hclen + 4)).foldl (fun (p : List (Nat × Nat) × Dec) k =>
    let (v, s) := p.2.bits 3
    ((getAt 0 clOrder k, v) :: p.1, s)) ([], s)
  let cl := Huff.ofLengths ((List.range 19).map (fun i => ((cls.find? (fun p => p.1 = i)).map (·.2)).getD 0))
  if !s.live then s
  else if 29 < hlit ∨ 29 < hdist ∨ cl.left ≠ 0 then s.halt rMalformed
  else
    let (ls, s) := Dec.lengths cl (hlit + 257 + hdist + 1) fuel [] s
    if !s.live then s
    else
      let lit := Huff.ofLengths (ls.take (hlit + 257))
      let dst := Huff.ofLengths (ls.drop (hlit + 257))
      if getAt 0 ls 256 = 0 ∨ lit.ok = false ∨ (dst.ok = false ∧ dst.syms ≠ []) then s.halt rMalformed
      else Dec.symbols lit dst fuel s

/-- The fixed literal and length code. -/
def fixedLit : Huff :=
  Huff.ofLengths (List.replicate 144 8 ++ List.replicate 112 9 ++ List.replicate 24 7 ++ List.replicate 8 8)
/-- The fixed distance code. -/
def fixedDist : Huff := Huff.ofLengths (List.replicate 32 5)

/-- A stored block. -/
def Dec.stored (s : Dec) : Dec :=
  let s := if s.bit = 0 then s else { s with inp := s.inp.drop 1, bit := 0 }
  let (len, s) := s.le 2
  let (nlen, s) := s.le 2
  if !s.live then s
  else if len + nlen ≠ 65535 then s.halt rMalformed
  else
    let d := s.inp.take len
    let s := { s with inp := s.inp.drop len }.emits d
    if d.length < len then s.halt rTruncated else s

/-- The blocks of a DEFLATE stream, through the one with BFINAL set. (Log entry 86, PRESUMED.) -/
def Dec.inflate : Nat → Dec → Dec
  | 0, s => s.halt rMalformed
  | fuel + 1, s =>
    let (fin, s) := s.bits 1
    let (ty, s) := s.bits 2
    if !s.live then s
    else
      let s := match ty with
        | 0 => s.stored
        | 1 => s.symbols fixedLit fixedDist fuel
        | 2 => s.dynamic fuel
        | _ => s.halt rUnsupported
      if fin = 1 ∨ !s.live then s else Dec.inflate fuel s

/-- One step for every input bit is enough for any stream. -/
def Dec.fuel (s : Dec) : Nat := 8 * s.inp.length + 8

/-- A DEFLATE stream from its first byte; the rest of its last byte is left. -/
def Dec.deflate (s : Dec) : Dec :=
  let s := Dec.inflate s.fuel { s with base := s.n }
  if s.bit = 0 then s else { s with inp := s.inp.drop 1, bit := 0 }

/-- Nothing may follow the last block, member or frame (R411). -/
def Dec.ended (s : Dec) : Dec := if s.live && !s.inp.isEmpty then s.halt rMalformed else s

/-! ## GZIP -/

/-- The bytes produced since the stream under way began. -/
def Dec.since (s : Dec) : List Byte := (s.out.take (s.n - s.base)).reverse

/-- A zero-terminated field skipped. -/
def Dec.skipZ : Nat → Dec → Dec
  | 0, s => s.halt rTruncated
  | fuel + 1, s =>
    let (b, s) := s.byte
    if !s.live ∨ b = 0 then s else Dec.skipZ fuel s

/-- One gzip member: its header with the optional fields, its data, and its CRC-32 and ISIZE. -/
def Dec.member (s0 : Dec) : Dec :=
  let (i1, s) := s0.byte
  let s := if i1 = 0x1F then s else s.halt rMalformed
  let (i2, s) := s.byte
  let s := if i2 = 0x8B then s else s.halt rMalformed
  let (cm, s) := s.byte
  let s := if cm = 8 then s else s.halt rUnsupported
  let (flg, s) := s.byte
  let s := if flg < 32 then s else s.halt rMalformed
  let (_, s) := s.le 6
  let s :=
    if s.live && bitOf flg 2 then
      let (n, s) := s.le 2
      if s.inp.length < n then s.halt rTruncated else { s with inp := s.inp.drop n }
    else s
  let s := if s.live && bitOf flg 3 then s.skipZ (s.inp.length + 1) else s
  let s := if s.live && bitOf flg 4 then s.skipZ (s.inp.length + 1) else s
  let head := s0.inp.take (s0.inp.length - s.inp.length)
  let s :=
    if s.live && bitOf flg 1 then
      let (c, s) := s.le 2
      if s.live && decide (c ≠ crc32 head % 65536) then s.halt rCheck else s
    else s
  if !s.live then s
  else
    let s := s.deflate
    let data := s.since
    let (c, s) := s.le 4
    let s := if s.live && decide (c ≠ crc32 data) then s.halt rCheck else s
    let (n, s) := s.le 4
    if s.live && decide (n ≠ data.length % 2 ^ 32) then s.halt rSize else s

/-- Members back to back. (Log entry 86, PRESUMED.) -/
def Dec.gzip : Nat → Dec → Dec
  | 0, s => s.halt rMalformed
  | fuel + 1, s =>
    let s := s.member
    if !s.live ∨ s.inp.isEmpty then s else Dec.gzip fuel s

/-! ## LZ4 -/

/-- The extension bytes of an LZ4 length. -/
def Dec.lz4Len : Nat → Nat → Dec → Nat × Dec
  | 0, n, s => (n, s.halt rTruncated)
  | fuel + 1, n, s =>
    let (b, s) := s.byte
    if !s.live ∨ b < 255 then (n + b, s) else Dec.lz4Len fuel (n + b) s

/-- The sequences of an LZ4 block; the last one ends after its literals. (Log entry 86, PRESUMED.) -/
def Dec.lz4 : Nat → Dec → Dec
  | 0, s => s.halt rMalformed
  | fuel + 1, s =>
    let (t, s) := s.byte
    if !s.live then s
    else
      let (ll, s) := if t / 16 = 15 then Dec.lz4Len (s.inp.length + 1) 15 s else (t / 16, s)
      let d := s.inp.take ll
      let s := { s with inp := s.inp.drop ll }.emits d
      let s := if d.length < ll then s.halt rTruncated else s
      if !s.live ∨ s.inp.isEmpty then s
      else
        let (off, s) := s.le 2
        let (ml, s) := if t % 16 = 15 then Dec.lz4Len (s.inp.length + 1) 15 s else (t % 16, s)
        if s.live then Dec.lz4 fuel (s.copyBack off (ml + 4)) else s

/-- One LZ4 block that is the whole input. -/
def Dec.lz4Block (s : Dec) : Dec := Dec.lz4 s.fuel { s with base := s.n }

end Sys2Proof.Machine
end

