-- ==== Sys2Proof/Machine/Zstd.lean ====
section
/-! DEFINITION. Decoding of Zstandard frames (RFC 8878), which R410 takes by reference. -/

namespace Sys2Proof.Machine

/-! ## Bit streams that are read from their end -/

/-- A bit stream read backwards: its value and the bits not yet read. A negative number says that more bits were
taken than it has; those read as zeros. -/
structure RBits where
  v : Nat
  pos : Int
  deriving DecidableEq, Repr

/-- The stream of bytes whose last byte ends with a set bit; none without one. -/
def RBits.ofList (bs : List Byte) : Option RBits :=
  match bs.getLast? with
  | none => none
  | some b => if b = 0 then none else some ⟨ofBytes bs, 8 * ((bs.length : Int) - 1) + Nat.log2 b.toNat⟩

/-- The next n bits, not taken. -/
def RBits.peek (r : RBits) (n : Nat) : Nat :=
  if (n : Int) ≤ r.pos then fieldOf r.v (r.pos - n).toNat n
  else if 0 ≤ r.pos then fieldOf r.v 0 r.pos.toNat * 2 ^ (n - r.pos.toNat)
  else 0

/-- The next n bits. -/
def RBits.take (r : RBits) (n : Nat) : Nat × RBits := (r.peek n, { r with pos := r.pos - n })

/-! ## FSE tables -/

/-- A cell of an FSE table: symbol, bits to read, and the base of the next state. -/
structure FseCell where
  sym : Nat
  nb : Nat
  base : Nat
  deriving DecidableEq, Repr

/-- An FSE table and its accuracy. -/
structure Fse where
  al : Nat
  cells : List FseCell
  deriving DecidableEq, Repr

/-- A table with one cell that reads nothing (RLE). -/
def Fse.rle (sym : Nat) : Fse := ⟨0, [⟨sym, 0, 0⟩]⟩

/-- The next place of a symbol below the low-probability cells. -/
def fseNext (size high : Nat) : Nat → Nat → Nat
  | 0, p => p
  | fuel + 1, p =>
    let q := (p + size / 2 + size / 8 + 3) % size
    if q < high then q else fseNext size high fuel q

/-- The decoding table of normalised counts, -1 marking "less than one". -/
def Fse.build (al : Nat) (norm : List Int) : Fse :=
  let size := 2 ^ al
  let (syms, high, _) := norm.foldl (fun (p : List Nat × Nat × Nat) n =>
    if n = -1 then (p.1.set (p.2.1 - 1) p.2.2, p.2.1 - 1, p.2.2 + 1) else (p.1, p.2.1, p.2.2 + 1))
    (List.replicate size 0, size, 0)
  let (syms, _, _) := norm.foldl (fun (p : List Nat × Nat × Nat) n =>
    let (t, at_) := (List.range n.toNat).foldl (fun (q : List Nat × Nat) _ =>
      (q.1.set q.2 p.2.2, fseNext size high size q.2)) (p.1, p.2.1)
    (t, at_, p.2.2 + 1)) (syms, 0, 0)
  let (cells, _) := syms.foldl (fun (p : List FseCell × List Nat) y =>
    let next := getAt 0 p.2 y
    let nb := al - Nat.log2 next
    (⟨y, nb, next * 2 ^ nb - size⟩ :: p.1, p.2.set y (next + 1)))
    ([], norm.map (fun n => if n = -1 then 1 else n.toNat))
  ⟨al, cells.reverse⟩

/-- The cell of a state. -/
def Fse.cell (t : Fse) (st : Nat) : FseCell := getAt ⟨0, 0, 0⟩ t.cells st

/-- The state after reading a cell's bits. -/
def Fse.step (t : Fse) (st : Nat) (r : RBits) : Nat × RBits :=
  let c := t.cell st
  let (v, r) := r.take c.nb
  (c.base + v, r)

/-- The runs of symbols of probability zero that follow one. -/
def fseZeros : Nat → List Int → Dec → List Int × Dec
  | 0, acc, s => (acc, s.halt rMalformed)
  | fuel + 1, acc, s =>
    let (r, s) := s.bits 2
    let acc := acc ++ List.replicate r 0
    if s.live ∧ r = 3 then fseZeros fuel acc s else (acc, s)

/-- The counts of an FSE table description. -/
def fseCounts : Nat → Nat → List Int → Dec → List Int × Dec
  | 0, _, acc, s => (acc, s.halt rMalformed)
  | fuel + 1, rem, acc, s =>
    if !s.live ∨ rem = 0 then (acc, s)
    else
      let n := Nat.log2 (rem + 1) + 1
      let low := 2 ^ (n - 1)
      let thr := 2 ^ n - 1 - (rem + 1)
      let (v, s1) := s.bits (n - 1)
      let (v, s) :=
        if v < thr then (v, s1)
        else
          let (h, s2) := s1.bit1
          (if h = 0 then v else v + low - thr, s2)
      let p : Int := (v : Int) - 1
      let acc := acc ++ [p]
      if p.natAbs ≤ rem then
        let (acc, s) := if p = 0 then fseZeros (s.inp.length * 8 + 1) acc s else (acc, s)
        fseCounts fuel (rem - p.natAbs) acc s
      else (acc, s.halt rMalformed)

/-- An FSE table description: at most maxAl of accuracy, symbols up to maxSym. -/
def Dec.fse (s : Dec) (maxAl maxSym : Nat) : Fse × Dec :=
  let (a, s) := s.bits 4
  let al := a + 5
  if maxAl < al then (Fse.rle 0, s.halt rMalformed)
  else
    let (norm, s) := fseCounts (2 ^ al + 2) (2 ^ al) [] s
    let s := if s.bit = 0 then s else { s with inp := s.inp.drop 1, bit := 0 }
    if !s.live then (Fse.rle 0, s)
    else if maxSym + 1 < norm.length then (Fse.rle 0, s.halt rMalformed)
    else (Fse.build al norm, s)

/-! ## Huffman-coded literals -/

/-- A Huffman tree of RFC 8878: the longest code, and symbol and length for each value of that many bits. -/
structure ZHuff where
  max : Nat
  cells : List (Nat × Nat)
  deriving DecidableEq, Repr

/-- The tree of explicit weights; the last weight completes the code. None where it cannot. -/
def ZHuff.ofWeights (ws : List Nat) : Option ZHuff :=
  let sum := (ws.map (fun w => if w = 0 then 0 else 2 ^ (w - 1))).foldl (· + ·) 0
  if sum = 0 ∨ ws.any (fun w => 11 < w) ∨ 255 < ws.length then none
  else
    let max := Nat.log2 sum + 1
    let left := 2 ^ max - sum
    if 11 < max ∨ 2 ^ Nat.log2 left ≠ left then none
    else
      let all := ws ++ [Nat.log2 left + 1]
      some ⟨max, (List.range max).flatMap (fun k =>
        ((List.range all.length).filter (fun i => getAt 0 all i = k + 1)).flatMap (fun i =>
          List.replicate (2 ^ k) (i, max - k)))⟩

/-- Weights from two interleaved FSE states, until the stream is used up. -/
def fseWeights (t : Fse) : Nat → Nat → Nat → RBits → List Nat → Option (List Nat)
  | 0, _, _, _, _ => none
  | fuel + 1, a, b, r, acc =>
    let acc := acc ++ [(t.cell a).sym]
    let (a2, r2) := t.step a r
    if r2.pos < 0 then some (acc ++ [(t.cell b).sym]) else fseWeights t fuel b a2 r2 acc

/-- A Huffman tree description. -/
def Dec.tree (s : Dec) : Option ZHuff × Dec :=
  let (h, s) := s.byte
  if !s.live then (none, s)
  else if 128 ≤ h then
    let n := h - 127
    let bs := s.inp.take ((n + 1) / 2)
    let s := { s with inp := s.inp.drop ((n + 1) / 2) }
    if bs.length < (n + 1) / 2 then (none, s.halt rTruncated)
    else
      let t := ZHuff.ofWeights ((bs.flatMap (fun b => [b.toNat / 16, b.toNat % 16])).take n)
      (t, if t.isNone then s.halt rMalformed else s)
  else
    let bs := s.inp.take h
    let s := { s with inp := s.inp.drop h }
    if bs.length < h then (none, s.halt rTruncated)
    else
      let (t, q) := ({ s with inp := bs, bit := 0 } : Dec).fse 6 255
      match q.live, RBits.ofList q.inp with
      | true, some r =>
        let (a, r) := r.take t.al
        let (b, r) := r.take t.al
        let z := if r.pos < 0 then none else (fseWeights t 256 a b r []).bind ZHuff.ofWeights
        (z, if z.isNone then s.halt rMalformed else s)
      | _, _ => (none, s.halt rMalformed)

/-- Literals of one Huffman stream: n of them, using the stream exactly. -/
def zLiterals (t : ZHuff) : Nat → RBits → List Byte → Option (List Byte)
  | 0, r, acc => if r.pos = 0 then some acc.reverse else none
  | n + 1, r, acc =>
    let (y, nb) := getAt (0, 0) t.cells (r.peek t.max)
    let r := { r with pos := r.pos - nb }
    if r.pos < 0 then none else zLiterals t n r (BitVec.ofNat 8 y :: acc)

/-- A Huffman stream of n literals. -/
def zStream (t : ZHuff) (n : Nat) (bs : List Byte) : Option (List Byte) :=
  (RBits.ofList bs).bind (fun r => zLiterals t n r [])

/-- The four streams of a literals section with its jump table. -/
def zFour (t : ZHuff) (n : Nat) (bs : List Byte) : Option (List Byte) :=
  let s1 := leAt bs 0 2
  let s2 := leAt bs 2 2
  let s3 := leAt bs 4 2
  let each := (n + 3) / 4
  if bs.length < 6 + s1 + s2 + s3 ∨ n < 3 * each then none
  else
    let d := bs.drop 6
    match zStream t each (d.take s1), zStream t each ((d.drop s1).take s2),
      zStream t each ((d.drop (s1 + s2)).take s3), zStream t (n - 3 * each) (d.drop (s1 + s2 + s3)) with
    | some a, some b, some c, some e => some (a ++ b ++ c ++ e)
    | _, _, _, _ => none

/-! ## Sequences -/

/-- What a frame carries from block to block: repeat offsets, the Huffman tree and the three FSE tables. -/
structure ZState where
  r1 : Nat
  r2 : Nat
  r3 : Nat
  tree : Option ZHuff
  ll : Option Fse
  off : Option Fse
  ml : Option Fse
  deriving DecidableEq, Repr

/-- A frame begins. -/
def ZState.start : ZState := ⟨1, 4, 8, none, none, none, none⟩

/-- Base and extra bits of a literal-length code. -/
def zLL (c : Nat) : Nat × Nat :=
  if c < 16 then (c, 0)
  else getAt (0, 0) [(16, 1), (18, 1), (20, 1), (22, 1), (24, 2), (28, 2), (32, 3), (40, 3), (48, 4), (64, 6),
    (128, 7), (256, 8), (512, 9), (1024, 10), (2048, 11), (4096, 12), (8192, 13), (16384, 14), (32768, 15),
    (65536, 16)] (c - 16)

/-- Base and extra bits of a match-length code. -/
def zML (c : Nat) : Nat × Nat :=
  if c < 32 then (c + 3, 0)
  else getAt (0, 0) [(35, 1), (37, 1), (39, 1), (41, 1), (43, 2), (47, 2), (51, 3), (59, 3), (67, 4), (83, 4),
    (99, 5), (131, 7), (259, 8), (515, 9), (1027, 10), (2051, 11), (4099, 12), (8195, 13), (16387, 14),
    (32771, 15), (65539, 16)] (c - 32)

/-- The predefined literal-length counts. -/
def zLLNorm : List Int :=
  [4, 3, 2, 2, 2, 2, 2, 2, 2, 2, 2, 2, 2, 1, 1, 1, 2, 2, 2, 2, 2, 2, 2, 2, 2, 3, 2, 1, 1, 1, 1, 1, -1, -1, -1, -1]
/-- The predefined match-length counts. -/
def zMLNorm : List Int :=
  [1, 4, 3, 2, 2, 2, 2, 2, 2] ++ List.replicate 37 1 ++ List.replicate 7 (-1)
/-- The predefined offset counts. -/
def zOffNorm : List Int :=
  [1, 1, 1, 1, 1, 1, 2, 2, 2] ++ List.replicate 15 1 ++ List.replicate 5 (-1)

/-- One of the three tables by its mode. -/
def Dec.zTable (s : Dec) (mode maxAl maxSym al : Nat) (norm : List Int) (old : Option Fse) : Option Fse × Dec :=
  if !s.live then (none, s)
  else match mode with
    | 0 => (some (Fse.build al norm), s)
    | 1 =>
      let (y, s) := s.byte
      if maxSym < y then (none, s.halt rMalformed) else (some (Fse.rle y), s)
    | 2 =>
      let (t, s) := s.fse maxAl maxSym
      (some t, s)
    | _ => (old, if old.isNone then s.halt rMalformed else s)

/-- The offset that an offset value names, and the repeat offsets after it. -/
def ZState.offset (z : ZState) (ov ll : Nat) : Nat × ZState :=
  if 3 < ov then (ov - 3, { z with r1 := ov - 3, r2 := z.r1, r3 := z.r2 })
  else
    match ov - 1 + (if ll = 0 then 1 else 0) with
    | 0 => (z.r1, z)
    | 1 => (z.r2, { z with r1 := z.r2, r2 := z.r1 })
    | 2 => (z.r3, { z with r1 := z.r3, r2 := z.r1, r3 := z.r2 })
    | _ => (z.r1 - 1, { z with r1 := z.r1 - 1, r2 := z.r1, r3 := z.r2 })

/-- The sequences of a block executed: k of them left, with the literals not yet used. -/
def zSequences (ll off ml : Fse) (window cap : Nat) :
    Nat → Nat → Nat → Nat → RBits → List Byte → ZState → Dec → List Byte × ZState × RBits × Dec
  | 0, _, _, _, r, lits, z, s => (lits, z, r, s)
  | k + 1, a, o, m, r, lits, z, s =>
    let oc := (off.cell o).sym
    let (ov, r) := r.take oc
    let (mb, me) := zML (ml.cell m).sym
    let (mv, r) := r.take me
    let (lb, le) := zLL (ll.cell a).sym
    let (lv, r) := r.take le
    let lit := lb + lv
    let (dist, z) := z.offset (2 ^ oc + ov) lit
    let s := if r.pos < 0 ∨ lits.length < lit ∨ cap < s.n + lit + mb + mv then s.halt rMalformed else s
    let s := s.emits (lits.take lit)
    let s := if window < dist then s.halt rMalformed else s
    let s := if s.live then s.copyBack dist (mb + mv) else s
    if !s.live then (lits, z, r, s)
    else
      let (a, m, o, r) :=
        if k = 0 then (a, m, o, r)
        else
          let (a, r) := ll.step a r
          let (m, r) := ml.step m r
          let (o, r) := off.step o r
          (a, m, o, r)
      zSequences ll off ml window cap k a o m r (lits.drop lit) z s

/-- The number of sequences of a block. -/
def Dec.seqCount (s : Dec) : Nat × Dec :=
  let (b, s) := s.byte
  if b < 128 then (b, s)
  else if b < 255 then
    let (c, s) := s.byte
    ((b - 128) * 256 + c, s)
  else
    let (c, s) := s.le 2
    (c + 0x7F00, s)

/-- The literals section: the literals and the rest of the block. -/
def Dec.literals (s : Dec) (z : ZState) (blockMax : Nat) : List Byte × ZState × Dec :=
  let (b0, _) := s.byte
  let ty := b0 % 4
  let sf := b0 / 4 % 4
  if ty < 2 then
    let (h, sh) := if sf % 2 = 0 then (1, 3) else if sf = 1 then (2, 4) else (3, 4)
    let (x, s) := s.le h
    let n := x / 2 ^ sh
    let take := if ty = 0 then n else 1
    let d := s.inp.take take
    let s := { s with inp := s.inp.drop take }
    let s := if d.length < take then s.halt rTruncated else if blockMax < n then s.halt rMalformed else s
    (if ty = 0 then d else List.replicate n (d.headD 0), z, s)
  else
    let (h, w) := if sf < 2 then (3, 10) else if sf = 2 then (4, 14) else (5, 18)
    let (x, s) := s.le h
    let n := fieldOf x 4 w
    let c := fieldOf x (4 + w) w
    let d := s.inp.take c
    let s := { s with inp := s.inp.drop c }
    if !s.live then ([], z, s)
    else if d.length < c then ([], z, s.halt rTruncated)
    else if blockMax < n then ([], z, s.halt rMalformed)
    else
      let (t, rest) :=
        if ty = 3 then (z.tree, some d)
        else
          let (t, q) := ({ s with inp := d, bit := 0 } : Dec).tree
          (t, if q.live then some q.inp else none)
      match t, rest with
      | some t, some bs =>
        (match (if sf = 0 then zStream t n bs else zFour t n bs) with
        | some l => (l, { z with tree := some t }, s)
        | none => ([], z, s.halt rMalformed))
      | _, _ => ([], z, s.halt rMalformed)

/-- A compressed block; s holds its bytes alone. -/
def Dec.zBlock (s : Dec) (z : ZState) (window blockMax : Nat) : ZState × Dec :=
  let cap := s.n + blockMax
  let (lits, z, s) := s.literals z blockMax
  if !s.live then (z, s)
  else
    let (n, s) := s.seqCount
    if !s.live then (z, s)
    else if n = 0 then (z, if s.inp.isEmpty then s.emits lits else s.halt rMalformed)
    else
      let (mode, s) := s.byte
      let s := if mode % 4 = 0 then s else s.halt rMalformed
      let (ll, s) := s.zTable (mode / 64) 9 35 6 zLLNorm z.ll
      let (off, s) := s.zTable (mode / 16 % 4) 8 31 5 zOffNorm z.off
      let (ml, s) := s.zTable (mode / 4 % 4) 9 52 6 zMLNorm z.ml
      if !s.live then (z, s)
      else
        match ll, off, ml, RBits.ofList s.inp with
        | some ll, some off, some ml, some r =>
          let z := { z with ll := some ll, off := some off, ml := some ml }
          let (a, r) := r.take ll.al
          let (o, r) := r.take off.al
          let (m, r) := r.take ml.al
          let (lits, z, r, s) := zSequences ll off ml window cap n a o m r lits z s
          let s := if s.live && (decide (r.pos ≠ 0) || decide (cap < s.n + lits.length)) then s.halt rMalformed else s
          (z, { s with inp := [] }.emits lits)
        | _, _, _, _ => (z, s.halt rMalformed)

/-- The blocks of a frame through the last one. -/
def Dec.zBlocks (window blockMax : Nat) : Nat → ZState → Dec → Dec
  | 0, _, s => s.halt rMalformed
  | fuel + 1, z, s =>
    let (h, s) := s.le 3
    let n := h / 8
    let ty := h / 2 % 4
    if !s.live then s
    else if ty = 3 then s.halt rUnsupported
    else if blockMax < n then s.halt rMalformed
    else
      let take := if ty = 1 then 1 else n
      let d := s.inp.take take
      let rest := s.inp.drop take
      if d.length < take then { s with inp := [] }.halt rTruncated
      else
        let (z, s) := match ty with
          | 0 => (z, s.emits d)
          | 1 => (z, s.emits (List.replicate n (d.headD 0)))
          | _ =>
            let (z, s) := { s with inp := d, bit := 0 }.zBlock z window blockMax
            (z, s.inside)
        if !s.live then s
        else
          let s := { s with inp := rest, bit := 0 }
          if h % 2 = 1 then s else Dec.zBlocks window blockMax fuel z s

/-! ## Frames -/

/-- A frame header: the window, the content size where there is one, and whether a checksum follows. -/
structure ZHead where
  window : Nat
  size : Option Nat
  sum : Bool
  deriving DecidableEq, Repr

/-- The header after the magic number. -/
def Dec.zHead (s : Dec) : ZHead × Dec :=
  let (d, s) := s.byte
  let single := bitOf d 5
  let s := if bitOf d 3 then s.halt rMalformed else s
  let (wd, s) := if single then (0, s) else s.byte
  let (id_, s) := s.le (getAt 0 [0, 1, 2, 4] (d % 4))
  let s := if id_ = 0 then s else s.halt rUnsupported
  let fl := d / 64
  let len := if fl = 0 then (if single then 1 else 0) else 2 ^ fl
  let (x, s) := s.le len
  let size := if len = 0 then none else some (if len = 2 then x + 256 else x)
  let base := 2 ^ (10 + wd / 8)
  (⟨if single then size.getD 0 else base + base / 8 * (wd % 8), size, bitOf d 2⟩, s)

/-- The preflight of R406 and R407 on a declared size. -/
def Dec.preflight (s : Dec) : Dec :=
  match s.size with
  | none => s
  | some d =>
    if s.stop.isSome then s
    else
      match chk (decide (d ≤ s.alloc)) sFull ++ chk (decide (d ≤ s.ratio)) sRatio with
      | [] => s
      | fs => { s with stop := some (fs, 0) }

/-- One frame after its magic number. With `declared` the size was given by the job, and the frame's content size
is a matter of its format; otherwise it adds to the declared size (R405, R407). -/
def Dec.zFrame (s : Dec) (declared first : Bool) : Dec :=
  let (h, s) := s.zHead
  let s :=
    if declared then s
    else
      { s with size := match h.size, (if first then some 0 else s.size) with
        | some n, some d => some (d + n)
        | _, _ => none }.preflight
  if !s.live then s
  else
    let s := { s with base := s.n }
    let s := Dec.zBlocks h.window (min h.window 131072) (s.inp.length + 1) ZState.start s
    if !s.live then s
    else
      let s := match h.size with
        | some n => if s.n - s.base = n then s else s.halt (if declared then rMalformed else rSize)
        | none => s
      if h.sum && s.live then
        let data := s.since
        let (c, s) := s.le 4
        if s.live && decide (c ≠ xxh64 data % 2 ^ 32) then s.halt rCheck else s
      else s

/-- Frames back to back; skippable ones are skipped. (Log entry 86, PRESUMED.) -/
def Dec.zstd (declared : Bool) : Nat → Bool → Bool → Dec → Dec
  | 0, _, _, s => s.halt rMalformed
  | fuel + 1, first, any, s =>
    if any ∧ s.inp.isEmpty then s
    else if s.inp.length < 4 then s.halt (if any then rMalformed else rTruncated)
    else
      let (m, s) := s.le 4
      if m = 0xFD2FB528 then
        let s := s.zFrame declared first
        if s.live then Dec.zstd declared fuel false true s else s
      else if m / 16 = 0x184D2A5 then
        let (n, s) := s.le 4
        let d := s.inp.length
        let s := { s with inp := s.inp.drop n }
        if !s.live then s else if d < n then s.halt rTruncated else Dec.zstd declared fuel first true s
      else s.halt rMalformed

end Sys2Proof.Machine
end

