-- ==== Sys2Proof/Machine/Codec.lean ====
section
/-! DEFINITION. Decanters and presses: job records and their checks, Oxene Column Frames, what a job decodes or
encodes, lanes and completions (chapter 14). A job takes its effect when it completes. -/

namespace Sys2Proof.Machine

/-! ## Job records (R402) -/

/-- The fields of a job record. -/
structure JobRec where
  op : Nat
  format : Nat
  level : Nat
  log2 : Nat
  expect : Bool
  async : Bool
  ocfType : Nat
  src : Nat
  dst : Nat
  tag : Nat
  decl : Nat
  crc : Nat
  comp : Nat
  elements : Nat
  reservedZero : Bool
  deriving DecidableEq, Repr

/-- The fields of R402. -/
def JobRec.ofRec (r : Rec) : JobRec :=
  { op := recF r 7 0, format := recF r 11 8, level := recF r 13 12, log2 := recF r 18 14, expect := recB r 19,
    async := recB r 20, ocfType := recF r 25 21, src := recF r 47 32, dst := recF r 63 48, tag := recF r 79 64,
    decl := recF r 135 96, crc := recF r 191 160, comp := recF r 243 192, elements := recF r 319 256,
    reservedZero := recZero r [(31, 26), (95, 80), (159, 136), (255, 244), (511, 320)] }

/-- The fields that R402 bounds are in range or zero, for the unit that the job is submitted to (R404). -/
def JobRec.fieldsOk (o : JobRec) (press : Bool) : Bool :=
  let ocf := decide (o.op = 0xE2) && decide (o.format = 4)
  o.reservedZero &&
  (if press then decide (o.op = 0xE2) && (decide (o.format = 0) || decide (o.format = 4)) && decide (1 ≤ o.level)
   else decide (o.op = 0xE1) && decide (o.format ≤ 4) && decide (o.level = 0)) &&
  (if ocf then decide (12 ≤ o.log2) && decide (o.log2 ≤ 24) && (decide (o.ocfType = 0) || (ETy.ofCode o.ocfType).isSome)
   else decide (o.log2 = 0) && decide (o.ocfType = 0) && decide (o.elements = 0))

/-- The checks of R404, and the descriptors that they found. -/
def Work.jobChecks (w : Work) (p : Nat) (o : JobRec) (press : Bool) : Option Desc × Option Desc × List Nat :=
  let (s, f1) := w.operand p o.src false
  let (d, f2) := w.operand p o.dst true
  let bytes (x : Option Desc) : Bool := match x with
    | some y => decide (y.ty = some .uint8) && decide (y.count < 2 ^ 40)
    | none => true
  (s, d, chk (o.fieldsOk press) sRange ++ f1 ++ f2 ++ chk (bytes s && bytes d) sRange ++
    (match d with
    | some y => chk (decide (y.combine = 0)) sRange ++ chk (!press || decide (o.format ≠ 4) || decide (64 ≤ y.count)) sFull
    | none => []) ++
    chk (press || decide (o.format ≠ 3) || decide (o.decl ≠ 0)) sRange ++
    (match s, d with
    | some x, some y => chk (!x.overlaps y) sAlias
    | _, _ => []))

/-! ## Oxene Column Frames (R418 to R421) -/

/-- "OCF1". -/
def ocfMagic : Nat := 0x3146434F
/-- "OCFT". -/
def ocfTrailMagic : Nat := 0x5446434F

/-- What one block of a container decodes to, appended (R419, R421). -/
def Dec.ocfPayload (s : Dec) (method orig : Nat) (pay : List Byte) : Dec :=
  let s := { s with inp := pay, bit := 0, base := s.n }
  let s := match method with
    | 0 => ({ s with inp := [] }.emits pay)
    | 1 => s.deflate.ended.inside
    | _ => s.lz4Block.ended.inside
  if s.live && decide (s.n - s.base ≠ orig) then s.halt rSize else s

/-- The blocks up to the trailer: how many there were, and the decode after them (R419, R421); `far` bytes that follow what
can be read lie past an unmapped page (R403). (Log entry 87, DEDUCED.) -/
def Dec.ocfBlocks (log2 : Nat) (far : Nat := 0) : Nat → Nat → List Byte → Dec → Nat × Dec
  | 0, k, _, s => (k, s)
  | fuel + 1, k, area, s =>
    if !s.live ∨ (area.isEmpty = true ∧ far = 0) then (k, s)
    else if area.length < 16 ∧ far ≠ 0 then (k, s.unmapped)
    else
      let h := leAt area 0 16
      let method := fieldOf h 0 2
      let comp := fieldOf h 32 32
      let orig := fieldOf h 64 32
      let rest := area.drop 16
      let last := decide (rest.length + far ≤ comp)
      if area.length < 16 ∨ rest.length + far < comp ∨ fieldOf h 2 30 ≠ 0 ∨ 2 ^ log2 < orig ∨ orig = 0 ∨
          (last = false ∧ orig ≠ 2 ^ log2) ∨ (method = 0 ∧ comp ≠ orig) then (k, s.halt rMalformed)
      else if method = 3 then (k, s.halt rUnsupported)
      else if rest.length < comp then (k, s.unmapped)
      else
        let pay := rest.take comp
        if crc32c pay ≠ fieldOf h 96 32 then (k, s.halt rCheck)
        else Dec.ocfBlocks log2 far fuel (k + 1) (rest.drop comp) (s.ocfPayload method orig pay)

/-- A container decoded: trailer first, then the preflight, the header and the blocks (R405, R406, R421).
(Log entries 87, DEDUCED; 176, DEDUCED.) -/
def Dec.ocf (s : Dec) (declared : Bool) : Dec :=
  let inp := s.inp
  let len := inp.length
  if len < 64 then s.halt rTruncated
  else if s.holes.any (fun k => decide (len - 32 ≤ k)) then s.unmapped
  else
    let t := leAt inp (len - 32) 32
    let h := leAt inp 0 32
    let orig := fieldOf t 64 64
    if fieldOf t 0 32 ≠ ocfTrailMagic ∨ fieldOf t 224 32 ≠ 0 ∨ fieldOf t 128 64 ≠ len then s.halt rMalformed
    else
      let s := if declared then s else { s with size := some orig }.preflight
      let s := if s.holes.any (fun k => decide (k < 32)) then s.unmapped else s
      let s := if fieldOf h 0 32 ≠ ocfMagic then s.halt rMalformed else s
      let s := if fieldOf h 32 16 ≠ 1 then s.halt rUnsupported else s
      let s := if fieldOf h 53 11 ≠ 0 ∨ fieldOf h 69 59 ≠ 0 ∨ fieldOf h 192 64 ≠ 0 ∨ fieldOf h 64 5 < 12 ∨
          24 < fieldOf h 64 5 then s.halt rMalformed else s
      if !s.live then s
      else
        let near := min (len - 32) (s.holes.headD len) - 32
        let (k, s) := Dec.ocfBlocks (fieldOf h 64 5) (len - 64 - near) len 0 ((inp.drop 32).take near) s
        let s := if s.live && (decide (k ≠ fieldOf t 192 32) || decide (s.n ≠ orig)) then s.halt rSize else s
        let s := if s.live && decide (crc32c s.out.reverse ≠ fieldOf t 32 32) then s.halt rCheck else s
        { s with inp := [] }

/-- The bytes of a container for an input (R414, R418 to R420). (Log entry 4, DESIGN CHOICE.) -/
def ocfEncode (level log2 ty elements : Nat) (inp : List Byte) : List Byte :=
  let blocks := ceilDiv inp.length (2 ^ log2)
  let body := (List.range blocks).flatMap (fun k =>
    let b := (inp.drop (k * 2 ^ log2)).take (2 ^ log2)
    let z := Config.deflateBytes level b
    let (m, pay) := if z.length < b.length then (1, z) else (0, b)
    toBytes 4 m ++ toBytes 4 pay.length ++ toBytes 4 b.length ++ toBytes 4 (crc32c pay) ++ pay)
  toBytes 4 ocfMagic ++ toBytes 2 1 ++ toBytes 2 ty ++ toBytes 8 log2 ++ toBytes 8 elements ++ toBytes 8 0 ++ body ++
    toBytes 4 ocfTrailMagic ++ toBytes 4 (crc32c inp) ++ toBytes 8 inp.length ++ toBytes 8 (body.length + 64) ++
    toBytes 4 blocks ++ toBytes 4 0

/-! ## What a job does -/

/-- A decode that has read all that it can of an input with an unmapped page meets that page where it would read on
(R403); a DEFLATE stream that has ended reads no further. -/
def Dec.reads (s : Dec) (format : Nat) : Dec :=
  if s.holes.isEmpty ∨ format = 4 then s
  else
    match s.stop with
    | none => if format = 0 then s.halt rMalformed else s.unmapped
    | some (_, r) => if r = rTruncated then { s with stop := some ([sUnmapped], 0) } else s

/-- A decode of an input in one format, with the limits of R405 to R408 and the end checks of R408 and R412; `holes` are the
places of the input that meet no memory (R403). (Log entries 86, PRESUMED; 176, DEDUCED.) -/
def decodeBytes (format : Nat) (inp : List Byte) (alloc limit decl : Nat) (expect : Option Nat) (holes : List Nat := []) :
    Dec :=
  let size := if decl = 0 then none else some decl
  let seen := if format = 4 then inp else inp.take (holes.headD inp.length)
  let s := ({ Dec.start seen alloc (limit * inp.length) size with holes := holes } : Dec).preflight
  let s :=
    if !s.live then s
    else match format with
      | 0 => s.deflate.ended
      | 1 => (Dec.gzip (inp.length + 1) s).ended
      | 2 => (Dec.zstd (decide (decl ≠ 0)) (inp.length + 1) true false s).ended
      | 3 => s.lz4Block.ended
      | _ => s.ocf (decide (decl ≠ 0))
  let s := s.reads format
  let s := if s.live then (match s.size with
    | some d => if s.n = d then s else s.halt rSize
    | none => s) else s
  match expect with
  | some c => if s.live && decide (crc32c s.out.reverse ≠ c) then s.halt rCheck else s
  | none => s

/-- How a job ends: the failures met, the reason, the output written, bytes read, the CRC of R422, and how many bytes it
had produced when it ended. -/
structure JobEnd where
  fails : List Nat
  reason : Nat
  out : List Byte
  read : Nat
  crc : Nat
  made : Nat := 0
  deriving DecidableEq, Repr

/-- The places of a byte stream that meet no memory, rising (R403). (Log entries 84, DEDUCED; 176, DEDUCED.) -/
def Work.holes (w : Work) (d : Desc) : List Nat := (List.range d.count).filter (fun i => (w.readBits (d.at i) 8).isNone)

/-- The first address at which a byte stream of n elements meets no memory. -/
def Work.firstUnmapped (w : Work) (d : Desc) (n : Nat) : Option Nat :=
  ((List.range n).find? (fun i => (w.readBits (d.at i) 8).isNone)).map (fun i => d.at i / 8)

/-- The output allocation of a job that failed as a whole is undefined: its bytes become free values (R409).
(Log entry 84, DEDUCED.) -/
def Work.freeOutput (w : Work) (d : Desc) : Work :=
  (List.range d.count).foldl (fun w i =>
    let (v, w) := w.fresh 8
    w.setElem d i v) w

/-- How many bytes a job had read when it stopped short: no more than there are, and otherwise free (R422).
(Log entry 84, DEDUCED.) -/
def Work.someRead (w : Work) (n : Nat) : Nat × Work :=
  let (v, w) := w.fresh 64
  (v % (n + 1), w)

/-- A decode job performed on its input (R405 to R412). -/
def Work.runDecode (w : Work) (j : Job) (o : JobRec) (d : Desc) (inp : List Byte) (holes : List Nat) : JobEnd × Work :=
  let s := decodeBytes o.format inp d.count j.limit o.decl (if o.expect then some o.crc else none) holes
  let out := s.out.reverse
  match s.stop with
  | none => (⟨[], 0, out, inp.length, crc32c out, s.n⟩, w)
  | some (fs, r) =>
    let (n, w) := w.someRead inp.length
    (⟨fs, r, [], n, crc32c out, s.n⟩, w)

/-- An encode job performed on its input, all of which it reads (R413 to R417). (Log entry 4, DESIGN CHOICE.) -/
def runEncode (o : JobRec) (d : Desc) (inp : List Byte) (holes : List Nat) : JobEnd :=
  let z := if o.format = 0 then Config.deflateBytes o.level inp else ocfEncode o.level o.log2 o.ocfType o.elements inp
  let lim := min d.count inp.length
  let fs := if z.length < lim then []
    else chk (decide (lim < inp.length)) sNoGain ++ chk (decide (lim < d.count)) sFull
  if holes.isEmpty then ⟨fs, 0, if fs.isEmpty then z else [], inp.length, crc32c inp, min z.length (lim - 1)⟩
  else ⟨[sUnmapped], 0, [], 0, 0, 0⟩

/-- The 32 B completion record (R422). -/
def jobRecord (status tag reason : Nat) (press : Bool) (outLen inLen crc : Nat) : List Byte :=
  toBytes 2 status ++ toBytes 2 tag ++ toBytes 1 reason ++ toBytes 3 (if press then 1 else 0) ++ toBytes 8 outLen ++
    toBytes 8 inLen ++ toBytes 8 crc

/-- A job's outcome counted (chapter 14, Registers). -/
def Work.countJob (w : Work) (die : Nat) (press : Bool) (fs : List Nat) : Work :=
  let st := lowest fs
  let w := w.countFurther (.codec die press) fs
  if press then
    if st = sOk then w.bump F.prsStatJobsOk die 0
    else if st = sNoGain then w.bump F.prsStatNoGain die 0
    else w.bumpSat F.prsStatJobsFail die 0
  else
    let w := w.bumpSat F.decStatRatio die 0 (fs.filter (· = sRatio)).length
    if st = sOk then w.bump F.decStatJobsOk die 0 else w.bump F.decStatJobsFail die 0

/-- A job ends: its completion record, its counts, and the return of a core that waits (R401, R422, R675). A call of a
re-issued task whose effects were had before writes no record again (R550). -/
def Work.jobEnd (w : Work) (die : Nat) (press : Bool) (j : Job) (e : JobEnd) : Work :=
  let o := JobRec.ofRec j.rec_
  let st := lowest e.fails
  let w := w.countJob die press e.fails
  let w := if j.skip then w
    else w.completion die j.plan o.comp 32
      (jobRecord st o.tag (if st = sCheck then e.reason else 0) press e.out.length e.read e.crc)
  w.jobReturn die j st e.out.length

/-- A job performed as it completes: input, work, and output (R403, R409, R417). A page of the output that meets no memory
fails the job where the byte that belongs there was produced.
(Log entries 16, DESIGN CHOICE; 84, DEDUCED; 176, DEDUCED.) -/
def Work.runJob (w : Work) (die : Nat) (press : Bool) (j : Job) : Work :=
  let o := JobRec.ofRec j.rec_
  let fail (w : Work) (d : Option Desc) (st reason : Nat) : Work :=
    let (n, w) := w.fresh 64
    let (c, w) := w.fresh 32
    let w := match d with
      | some d => if j.skip then w else w.freeOutput d
      | none => w
    w.jobEnd die press j ⟨[st], reason, [], n % 2 ^ 40, c, 0⟩
  match w.desc j.plan o.src, w.desc j.plan o.dst with
  | some s, some d =>
    let holes := w.holes s
    let inp := w.descBytes s 0 s.count
    let (e, w) := if press then (runEncode o d inp holes, w) else w.runDecode j o d inp holes
    let met := match w.firstUnmapped d e.made with
      | some a => some a
      | none => if e.fails = [sUnmapped] then some (s.at (holes.headD 0) / 8) else none
    (match met with
      | some a => fail (w.unmappedBy die j.plan 0 a) (some d) sUnmapped 0
      | none =>
        let hit := w.dtHit
        let w := if j.skip then w
          else if e.fails.isEmpty then w.setDescBytes d 0 e.out else w.freeOutput d
        if w.dtHit && !hit then w.jobEnd die press j { e with fails := sRange :: e.fails, out := [] }
        else w.jobEnd die press j e)
  | _, _ => fail w none sState 0

/-! ## Queues and lanes (R400, R401, R424, R426) -/

/-- The number of lanes built. -/
def laneCount (press : Bool) : Nat := if press then 2 else 4

/-- Queued jobs start in the free lanes, in order; the ratio limit in force is taken then (R400, R406). -/
def Work.startJobs (w : Work) (die : Nat) (press : Bool) : Work :=
  (List.range (laneCount press)).foldl (fun w l =>
    let x := w.codec die press
    match x.queue with
    | j :: js =>
      if x.out.contains l ∨ x.lanes.any (fun e => e.1 = l) then w
      else
        let j := { j with limit := w.dv F.decRatioLimitLimit }
        w.setCodec die press { x with queue := js, lanes := x.lanes ++ [(l, j)] }
    | [] => w) w

/-- A job that its unit has checked and accepted, or ended at once: it keeps the slots that it finds then
(R102, R401, R404, R426). -/
def Work.acceptJob (w : Work) (die : Nat) (press : Bool) (j : Job) : Work :=
  let o := JobRec.ofRec j.rec_
  let j := { j with held := w.hold j.plan [o.src, o.dst] }
  let x := w.codec die press
  let (_, _, fs) := w.jobChecks j.plan o press
  let noLane := decide (x.out.length = laneCount press)
  let fs := if fs.isEmpty ∧ noLane = true then [sNoSpare] else fs
  let entered (w : Work) (st : Nat) : Work :=
    match j.core with
    | some g => if j.waits then w
        else (w.setCore die g { w.core die g with wait := .none }).callReturn die g st none
    | none => w
  if fs.isEmpty then
    (entered (w.setCodec die press { x with queue := x.queue ++ [j] }) sOk).startJobs die press
  else
    let (c, w) := if press then w.fresh 32 else (crc32c [], w)
    entered (w.jobEnd die press j ⟨fs, 0, [], 0, c, 0⟩) (lowest fs)

/-- Jobs that waited for room enter the queue, in order. -/
def Work.unblockJobs (w : Work) (die : Nat) (press : Bool) : Nat → Work
  | 0 => w
  | n + 1 =>
    let x := w.codec die press
    match x.blocked with
    | j :: js =>
      if x.queue.length < 256 then
        Work.unblockJobs ((w.setCodec die press { x with blocked := js }).acceptJob die press j) die press n
      else w
    | [] => w

/-- Room in the queues of a die lets in the calls that wait for it (R401). -/
def Work.unblockDie (w : Work) (die : Nat) : Work :=
  [false, true].foldl (fun (w : Work) press => w.unblockJobs die press (w.codec die press).blocked.length) w

/-- A job submitted to a decanter or a press, behind those that wait. A core's call waits for the job, or for room in the
queue (R400, R401). -/
def Work.submitJob (w : Work) (die : Nat) (press : Bool) (j : Job) : Work :=
  let w := match j.core with
    | some g => w.setCore die g { w.core die g with wait := .job }
    | none => w
  let x := w.codec die press
  if x.queue.length < 256 ∧ x.blocked = [] then w.acceptJob die press j
  else
    let blocked := x.blocked ++ [j]
    (w.setCodec die press { x with blocked := blocked }).unblockJobs die press blocked.length

/-- COMP_ADDR of a job record that a core issued, its own memory's alias resolved (R674). -/
def resolveJobComp (iss : Issuer) (r : Rec) : Rec :=
  let x := r.toNat
  let c := fieldOf x 192 52
  BitVec.ofNat 512 (x - c * 2 ^ 192 + resolveComp iss c * 2 ^ 192)

/-- A general core's job ecall: its unit is that of the core's die. (Log entries 61, DESIGN CHOICE; 85, DEDUCED.) -/
def Work.jobCall (w : Work) (d g a0 : Nat) (want : Nat → Bool) : Work :=
  match w.callRecord d g a0 64 64 with
  | none => w.callReturn d g sRange (some 0)
  | some bs =>
    let r := BitVec.ofNat 512 (ofBytes bs)
    let o := JobRec.ofRec r
    if want o.op then
      let (go, w) := w.effecting d g
      w.submitJob d (decide (o.op = 0xE2))
        { rec_ := resolveJobComp (.core d g) r, core := some g, waits := !o.async, plan := w.planOf (.core d g),
          limit := 0, skip := !go }
    else w

/-- Firmware's job, submitted by writing a command register whole (R401). (Log entry 85, DEDUCED.) -/
def Work.jobWrite (w : Work) (mc die : Nat) (press : Bool) (r : Rec) : Work :=
  w.submitJob die press
    { rec_ := r, core := none, waits := false, plan := w.planOf (.firmware mc die), limit := 0, skip := false }

/-- DECODE (R405): a job of a decanter. A record whose OP names no unit goes to the decanter, which refuses it.
(Log entry 85, DEDUCED.) -/
def execDecode (src : JobSource) (s : State) : Out :=
  s.perform (.decode src) (fun w => match src with
    | .core d g a0 => w.coreRow d g (fun w => w.jobCall d g a0 (fun op => decide (op ≠ 0xE2)))
    | .firmware mc d r => w.jobWrite mc d false r)

/-- ENCODE (R413): a job of a press. -/
def execEncode (src : JobSource) (s : State) : Out :=
  s.perform (.encode src) (fun w => match src with
    | .core d g a0 => w.coreRow d g (fun w => w.jobCall d g a0 (fun op => decide (op = 0xE2)))
    | .firmware mc d r => w.jobWrite mc d true r)

/-- A lane is free: the next queued job starts, and one that waited takes its place in the queue. -/
def Work.laneFree (w : Work) (die : Nat) (press : Bool) : Work :=
  let w := w.startJobs die press
  w.unblockJobs die press (w.codec die press).blocked.length

/-- JOB_COMPLETE (R422): the job of a lane ends and the next one starts. -/
def Work.jobComplete (w : Work) (die : Nat) (press : Bool) (lane : Nat) : Work :=
  let x := w.codec die press
  match x.lanes.find? (fun e => e.1 = lane) with
  | none => w
  | some (_, j) =>
    let w := w.setCodec die press { x with lanes := x.lanes.filter (fun e => e.1 ≠ lane) }
    (w.with j.plan j.held (fun w => w.runJob die press j)).laneFree die press

/-- JOB_COMPLETE. (Log entry 15, DESIGN CHOICE.) -/
def execJobComplete (die : Nat) (press : Bool) (lane : Nat) (s : State) : Out :=
  s.perform (.jobComplete die press lane) (fun w => w.jobComplete die press lane)

/-- The lanes in service shown. -/
def Work.showLanes (w : Work) (die : Nat) (press : Bool) : Work :=
  let n := laneCount press - (w.codec die press).out.length
  if press then w.wr F.prsStatLanes die 0 n else w.wr F.decStatLanes die 0 n

/-- LANE_INTERNAL_ERROR (R426): the lane's job fails, the lane leaves service, and without lanes every job completes
with NO_SPARE and the device is DEGRADED. -/
def Work.laneError (w : Work) (die : Nat) (press : Bool) (lane : Nat) (cause : Nat := 3) : Work :=
  let x := w.codec die press
  if x.out.contains lane then w
  else
    let job := x.lanes.find? (fun e => e.1 = lane)
    let w := w.setCodec die press { x with lanes := x.lanes.filter (fun e => e.1 ≠ lane), out := setInsert x.out lane }
    let w := match job with
      | none => w
      | some (_, j) =>
        let (n, w) := w.fresh 40
        let (c, w) := w.fresh 32
        w.with j.plan j.held (fun w =>
          let w := match w.desc j.plan (JobRec.ofRec j.rec_).dst with
            | some d => if j.skip then w else w.freeOutput d
            | none => w
          w.jobEnd die press j ⟨[sCheck], rInternal, [], n, c, 0⟩)
    let w := (w.showLanes die press).noSpare (if press then kPress else kDec) die lane cause 0
    let x := w.codec die press
    if x.out.length < laneCount press then w
    else
      let w := w.setCodec die press { x with queue := [], blocked := [] }
      let w := (x.queue ++ x.blocked).foldl (fun w j =>
        let (c, w) := w.fresh 32
        let w := match j.core with
          | some g => if !j.waits ∧ x.blocked.contains j = true ∧ (w.core die g).wait = CoreWait.job then
              (w.setCore die g { w.core die g with wait := .none }).callReturn die g sNoSpare none
            else w
          | none => w
        w.jobEnd die press j ⟨[sNoSpare], 0, [], 0, if press then c else crc32c [], 0⟩) w
      w.degrade die

/-- LANE_INTERNAL_ERROR. -/
def execLaneInternalError (die : Nat) (press : Bool) (lane : Nat) (s : State) : Out :=
  s.perform (.laneInternalError die press lane) (fun w => w.laneError die press lane)

end Sys2Proof.Machine
end

