-- ==== Sys2Proof/Machine/Frame.lean ====
section
/-! DEFINITION. The frame path of CD1: job records, their checks, and crop, flip, rotate, resize, normalise and convert
(R468 to R471), and the failure of the frame path or the aligner (R557). -/

namespace Sys2Proof.Machine

/-- A frame job record (R468). -/
structure FrmRec where
  op : Nat
  fmt : Nat
  resize : Nat
  flipH : Bool
  flipV : Bool
  rot : Nat
  nchw : Bool
  dropAlpha : Bool
  async : Bool
  outType : Option ETy
  src : Nat
  dst : Nat
  tag : Nat
  param : Nat
  inW : Nat
  inH : Nat
  pitch : Nat
  cropX : Nat
  cropY : Nat
  cropW : Nat
  cropH : Nat
  outW : Nat
  outH : Nat
  comp : Nat
  reservedZero : Bool
  deriving DecidableEq, Repr

/-- The fields of R468. -/
def FrmRec.ofRec (r : Rec) : FrmRec :=
  { op := recF r 7 0, fmt := recF r 9 8, resize := recF r 11 10, flipH := recB r 12, flipV := recB r 13,
    rot := recF r 15 14, nchw := recB r 16, dropAlpha := recB r 17, async := recB r 18,
    outType := ETy.ofCode (recF r 23 19), src := recF r 47 32, dst := recF r 63 48, tag := recF r 79 64,
    param := recF r 95 80, inW := recF r 109 96, inH := recF r 125 112, pitch := recF r 159 128,
    cropX := recF r 173 160, cropY := recF r 189 176, cropW := recF r 205 192, cropH := recF r 221 208,
    outW := recF r 237 224, outH := recF r 253 240, comp := recF r 307 256,
    reservedZero := recZero r [(31, 24), (111, 110), (127, 126), (175, 174), (191, 190), (207, 206), (223, 222),
      (239, 238), (255, 254), (511, 308)] }

/-- Channels of an input format. -/
def FrmRec.inChannels (o : FrmRec) : Nat := getAt 1 [1, 1, 3, 4] o.fmt
/-- Channels of the output. -/
def FrmRec.channels (o : FrmRec) : Nat := o.inChannels - (if o.dropAlpha then 1 else 0)
/-- Bytes of an input pixel. -/
def FrmRec.pixel (o : FrmRec) : Nat := getAt 1 [1, 2, 3, 4] o.fmt
/-- A quarter turn. -/
def FrmRec.turned (o : FrmRec) : Bool := decide (o.rot % 2 = 1)
/-- Width of the source of the resize. -/
def FrmRec.srcW (o : FrmRec) : Nat := if o.turned then o.cropH else o.cropW
/-- Height of the source of the resize. -/
def FrmRec.srcH (o : FrmRec) : Nat := if o.turned then o.cropW else o.cropH

/-- A dimension of R468. -/
def frmDim (n : Nat) : Bool := decide (1 ≤ n) && decide (n ≤ 8192)

/-- The fields are in their ranges (R468, R469). -/
def FrmRec.fieldsOk (o : FrmRec) : Bool :=
  o.reservedZero && decide (o.op = 0xE8) && decide (o.resize < 3) && (!o.dropAlpha || decide (o.fmt = 3)) &&
  (match o.outType with
  | some t => decide (t ∈ [ETy.uint8, ETy.e4m3, ETy.bf16])
  | none => false) &&
  [o.inW, o.inH, o.cropW, o.cropH, o.outW, o.outH].all frmDim &&
  decide (o.cropX + o.cropW ≤ o.inW) && decide (o.cropY + o.cropH ≤ o.inH) &&
  (decide (o.resize ≠ 2) || (decide (o.outW ≤ o.srcW) && decide (o.outH ≤ o.srcH)))

/-- The checks of R469. -/
def Work.frmChecks (w : Work) (p : Nat) (o : FrmRec) : List Nat :=
  let (s, f1) := w.operand p o.src false
  let (d, f2) := w.operand p o.dst true
  let (q, f3) := if o.param = 0xFFFF then (none, []) else w.operand p o.param false
  chk o.fieldsOk sRange ++ f1 ++ f2 ++ f3 ++
  (match s with
  | some x => chk (decide (x.ty = some .uint8) && decide (o.pitch * (o.inH - 1) + o.inW * o.pixel ≤ x.count)) sRange
  | none => []) ++
  (match d with
  | some y => chk (decide (y.combine = 0) && decide (y.ty = o.outType) && decide (y.rank = 4) &&
      decide (y.size = if o.nchw then [o.outW, o.outH, o.channels, 1] else [o.channels, o.outW, o.outH, 1])) sRange
  | none => []) ++
  (match q with
  | some x => chk ((decide (x.ty = some .uint8) && decide (32 ≤ x.count)) ||
      (decide (x.ty = some .fp32) && decide (8 ≤ x.count))) sRange
  | none => []) ++
  (match s, d with
  | some x, some y => chk (!x.overlaps y) sAlias
  | _, _ => [])

/-- Input coordinates of a pixel of the source of the resize: rotation, flip and crop undone (R470). -/
def FrmRec.back (o : FrmRec) (x y : Nat) : Nat × Nat :=
  let (x, y) := match o.rot with
    | 0 => (x, y)
    | 1 => (y, o.cropH - 1 - x)
    | 2 => (o.cropW - 1 - x, o.cropH - 1 - y)
    | _ => (o.cropW - 1 - y, x)
  let x := if o.flipH then o.cropW - 1 - x else x
  let y := if o.flipV then o.cropH - 1 - y else y
  (o.cropX + x, o.cropY + y)

/-- Channel c of a pixel of the source of the resize. -/
def Work.frmPixel (w : Work) (o : FrmRec) (s : Desc) (x y c : Nat) : Nat :=
  let (x, y) := o.back x y
  let a := y * o.pitch + x * o.pixel
  if o.fmt = 1 then w.elem s a + 256 * w.elem s (a + 1) else w.elem s (a + c)

/-- An FP32 number. -/
def f32Nat (n : Nat) : Nat := Fmt.fp32.round (FVal.ofInt n)
/-- One half. -/
def f32Half : Nat := 0x3F000000

/-- The source position of BILINEAR in FP32, one rounding after each operation, clamped to the source (R89, R470).
(Log entry 96, DEDUCED.) -/
def bilinearAt (x s o : Nat) : Nat :=
  let u := f32Sub (f32Div (f32Mul (Fmt.fp32.round ((FVal.ofInt x).add (f32 f32Half))) (f32Nat s)) (f32Nat o)) f32Half
  Fmt.fp32.round (((f32 u).max (.fin false 0 0)).min (f32 (f32Nat (s - 1))))

/-- The value of a resized pixel as FP32 (R470). The mean of AREA and the mix of BILINEAR are formed exactly and
rounded once. (Log entry 96, DEDUCED.) -/
def Work.frmResized (w : Work) (o : FrmRec) (s : Desc) (x y c : Nat) : Nat :=
  match o.resize with
  | 0 => f32Nat (w.frmPixel o s ((2 * x + 1) * o.srcW / (2 * o.outW)) ((2 * y + 1) * o.srcH / (2 * o.outH)) c)
  | 1 =>
    let axis (u n : Nat) : List (Nat × FVal) :=
      let k := ((f32 u).toIntSat 0 8191).1.toNat
      let k := if (f32 u).lt (FVal.ofInt k) then k - 1 else k
      let fr := (f32 u).add (FVal.ofInt k).negate
      [(k, (FVal.ofInt 1).add fr.negate), (min (k + 1) (n - 1), fr)]
    let xs := axis (bilinearAt x o.srcW o.outW) o.srcW
    let ys := axis (bilinearAt y o.srcH o.outH) o.srcH
    Fmt.fp32.round ((ys.flatMap (fun b => xs.map (fun a =>
      (a.2.mul b.2).mul (FVal.ofInt (w.frmPixel o s a.1 b.1 c))))).foldl (fun t v => t.add v) (.fin false 0 0))
  | _ =>
    let axis (i sz out : Nat) : List (Nat × Nat) :=
      let lo := i * sz
      let hi := (i + 1) * sz
      (List.range (ceilDiv hi out - lo / out)).map (fun k =>
        let q := lo / out + k
        (q, min hi ((q + 1) * out) - max lo (q * out)))
    let sum := ((axis y o.srcH o.outH).flatMap (fun b => (axis x o.srcW o.outW).map (fun a =>
      a.2 * b.2 * w.frmPixel o s a.1 b.1 c))).foldl (fun (t v : Nat) => t + v) 0
    let r := Fmt.fp32.divMag .rne false sum (o.srcW * o.srcH) 0
    r.code

/-- MEAN and SCALE of channel c (R468). -/
def Work.frmParam (w : Work) (p : Option Desc) (k : Nat) : Nat :=
  match p with
  | none => if k < 4 then 0 else 0x3F800000
  | some d => if d.ty = some .fp32 then w.elem d k else w.descLE d (4 * k) 4

/-- The output elements in canonical order: which pixel and channel each is (R469). -/
def FrmRec.order (o : FrmRec) (i : Nat) : Nat × Nat × Nat :=
  if o.nchw then (i % o.outW, i / o.outW % o.outH, i / (o.outW * o.outH))
  else (i / o.channels % o.outW, i / (o.channels * o.outW), i % o.channels)

/-- How many output elements a job has. -/
def FrmRec.outputs (o : FrmRec) : Nat := o.channels * o.outW * o.outH

/-- The output of a job (R470, R471), and how many of its values saturated. -/
def Work.frmOutput (w : Work) (o : FrmRec) (s : Desc) (p : Option Desc) : List Nat × Nat :=
  let t := o.outType.getD .uint8
  let xs := (List.range o.outputs).map (fun i =>
    let (x, y, c) := o.order i
    let v := w.frmResized o s x y c
    let z := f32Mul (f32Sub v (w.frmParam p c)) (w.frmParam p (4 + c))
    t.convert true .rne (.flt (f32 z)))
  (xs.map (·.1), (xs.filter (·.2)).length)

/-- The source bytes that a job reads: those of its crop. -/
def FrmRec.reads (o : FrmRec) : List Nat :=
  (List.range o.cropH).flatMap (fun y => (List.range (o.cropW * o.pixel)).map (fun k =>
    (o.cropY + y) * o.pitch + o.cropX * o.pixel + k))

/-- What the bytes that a job reads meet, its parameters included: rows delivered as zeros, or no memory. -/
def Work.frmSource (w : Work) (o : FrmRec) (s : Desc) (p : Option Desc) : RowSt :=
  let ps := match p with
    | some d => (List.range (if d.ty = some .fp32 then 8 else 32)).map (fun k => w.elemState d k)
    | none => []
  (o.reads.map (fun k => w.elemState s k) ++ ps).foldl RowSt.worse .ok

/-- The first address that a job reads where there is no memory. -/
def Work.frmUnmapped (w : Work) (o : FrmRec) (s : Desc) (p : Option Desc) : Nat :=
  match o.reads.find? (fun k => w.elemState s k = .unmapped), p with
  | some k, _ => s.at k / 8
  | none, some d => d.base
  | none, none => s.base

/-- FRM_STAT.QUEUED shown. -/
def Work.showQueued (w : Work) : Work := w.wr F.frmStatQueued 0 0 w.field.frm.queue.length

/-- The frame path's queue replaced. -/
def Work.setFrm (w : Work) (x : Codec) : Work :=
  { w with field := { w.field with frm := x } }.showQueued

/-- A core's call that waits for a frame job goes on (R401, R468). -/
def Work.frmReturn (w : Work) (j : Job) (status second : Nat) : Work :=
  match j.core with
  | none => w
  | some k => w.jobReturn (k / 96) { j with core := some (k % 96) } status second

/-- A frame job ends (R130, R468). -/
def Work.frmEnd (w : Work) (j : Job) (fs : List Nat) (written : Nat) : Work :=
  let o := FrmRec.ofRec j.rec_
  let st := lowest fs
  let w := w.countFurther .frm fs
  let w := if st = sOk then w.bump F.frmStatJobsOk 0 0 else w.bump F.frmStatJobsFail 0 0
  let w := if j.skip then w else w.completion 1 j.plan o.comp 16 (compRecord st o.tag written 0 0)
  w.frmReturn j st written

/-- A frame job performed (R470, R471). -/
def Work.frmRun (w : Work) (j : Job) : Work :=
  let o := FrmRec.ofRec j.rec_
  match w.desc j.plan o.src, w.desc j.plan o.dst with
  | some s, some d =>
    let p := w.desc j.plan o.param
    let spoil (w : Work) : Work := if j.skip then w else w.freeOutput d
    (match w.frmSource o s p with
    | .ok | .held =>
      let (xs, sats) := w.frmOutput o s p
      let hole := (List.range d.count).find? (fun i => (w.readBits (d.at i) d.w).isNone)
      (match hole with
      | some i => (spoil (w.unmappedBy 1 j.plan 0 (d.at i / 8))).frmEnd j [sUnmapped] 0
      | none =>
        let hit := w.dtHit
        let w := if j.skip then w else w.setElems d 0 xs
        let w := { w with errs := { w.errs with sat := w.errs.sat + sats } }
        w.frmEnd j (if w.dtHit && !hit then [sRange] else []) xs.length)
    | .unmapped => (spoil (w.unmappedBy 1 j.plan 0 (w.frmUnmapped o s p))).frmEnd j [sUnmapped] 0
    | .lost => (spoil w).frmEnd j [sNoSpare] 0
    | .bad => (spoil w).frmEnd j [sCheck] 0)
  | _, _ => w.frmEnd j [sState] 0

/-- The frame path takes the next job when it is free. -/
def Work.frmStart (w : Work) : Work :=
  let x := w.field.frm
  match x.lanes, x.queue with
  | [], j :: js => w.setFrm { x with lanes := [(0, j)], queue := js }
  | _, _ => w

/-- A job checked and queued with the slots that it finds then, or ended at once (R102, R404, R469, R557). -/
def Work.frmAccept (w : Work) (j : Job) : Work :=
  let o := FrmRec.ofRec j.rec_
  let j := { j with held := w.hold j.plan [o.src, o.dst, o.param] }
  let x := w.field.frm
  let fs := w.frmChecks j.plan o
  let fs := if fs.isEmpty ∧ x.out ≠ [] then [sNoSpare] else fs
  let entered (w : Work) (st : Nat) : Work :=
    match j.core with
    | some k => if j.waits then w
        else (w.setCore (k / 96) (k % 96) { w.core (k / 96) (k % 96) with wait := .none }).callReturn (k / 96) (k % 96)
          st none
    | none => w
  if fs.isEmpty then (entered (w.setFrm { x with queue := x.queue ++ [j] }) sOk).frmStart
  else entered (w.frmEnd j fs 0) (lowest fs)

/-- COMP_ADDR of a frame job with the core's alias resolved (R674). -/
def resolveFrmComp (iss : Issuer) (r : Rec) : Rec :=
  let x := r.toNat
  let c := fieldOf x 256 52
  BitVec.ofNat 512 (x - c * 2 ^ 256 + resolveRecord iss c * 2 ^ 256)

/-- The frame ecall (R468): another OP than FRAME is reserved, and is refused by the check.
(Log entry 61, DESIGN CHOICE.) -/
def Work.frameCall (w : Work) (d g a0 : Nat) : Work :=
  match w.callRecord d g a0 64 64 with
  | none => w.callReturn d g sRange (some 0)
  | some bs =>
    let r := BitVec.ofNat 512 (ofBytes bs)
    let (go, w) := w.effecting d g
    let plan := w.planOf (.core d g)
    let j : Job :=
      { rec_ := resolveFrmComp (.core d g) r, core := some (d * 96 + g), waits := !(FrmRec.ofRec r).async, plan := plan,
        limit := 0, skip := !go }
    let w := w.setCore d g { w.core d g with wait := .job }
    let x := w.field.frm
    if x.queue.length < 64 ∧ x.blocked = [] then w.frmAccept j else w.setFrm { x with blocked := x.blocked ++ [j] }

/-- FRAME (R470). -/
def execFrame (die gc a0 : Nat) (s : State) : Out :=
  s.perform (.frame die gc a0) (fun w => w.coreRow die gc (fun w => w.frameCall die gc a0))

/-- FRAME_JOB_COMPLETE (R468): the job that runs ends and the next one starts. -/
def Work.frameDone (w : Work) : Work :=
  let x := w.field.frm
  match x.lanes with
  | (_, j) :: _ =>
    let w := ((w.setFrm { x with lanes := [] }).with j.plan j.held (fun w => w.frmRun j)).frmStart
    let x := w.field.frm
    (match x.blocked with
    | b :: bs => if x.queue.length < 64 then (w.setFrm { x with blocked := bs }).frmAccept b else w
    | [] => w)
  | [] => w

/-- FRAME_JOB_COMPLETE. -/
def execFrameJobComplete (s : State) : Out := s.perform .frameJobComplete Work.frameDone

/-- FRAME_PATH_ALIGNER_FAILURE (R557): queued and later jobs complete with NO_SPARE, or no more moments are written;
the device is DEGRADED. -/
def Work.frameFailure (w : Work) (aligner : Bool) : Work :=
  let w :=
    if aligner then { w with field := { w.field with alignerLost := true } }
    else
      let x := w.field.frm
      let w := w.setFrm { x with queue := [], blocked := [], lanes := [], out := [0] }
      (x.lanes.map (·.2) ++ x.queue ++ x.blocked).foldl (fun w j =>
        let w := match j.core with
          | some k => if !j.waits ∧ x.blocked.contains j = true then
              (w.setCore (k / 96) (k % 96) { w.core (k / 96) (k % 96) with wait := .none }).callReturn (k / 96) (k % 96)
                sNoSpare none
            else w
          | none => w
        w.frmEnd j [sNoSpare] 0) w
  w.degrade 1

/-- FRAME_PATH_ALIGNER_FAILURE. -/
def execFramePathAlignerFailure (aligner : Bool) (s : State) : Out :=
  s.perform (.framePathAlignerFailure aligner) (fun w => w.frameFailure aligner)

end Sys2Proof.Machine
end

