-- ==== Sys2Proof/Machine/Spares.lean ====
section
/-! DEFINITION. Fencing of general cores and matrix engines, firmware's fence command, frames of memory that are retired,
memory scrub, and failures without a spare (R547 to R564). -/

namespace Sys2Proof.Machine

/-! ## What a unit takes with it (R548) -/

/-- The window of a unit's local memory: first address and length. -/
def unitWindow (d u : Nat) : Nat × Nat := if u < 96 then (gcWindow d u, 0x80000) else (meWindow d (u - 96), 0x400000)

/-- The bindings that the transfers of a stream description use. -/
def usedBindings (desc : List Byte) : List Nat :=
  (program desc).flatMap (fun t => if t.op = tEmit ∧ t.q = 0 then [t.src, t.dst] else [])

/-- A stream description reads or writes memory of a range. -/
def Work.touches (w : Work) (plan : Nat) (desc : List Byte) (lo len : Nat) : Bool :=
  (usedBindings desc).any (fun k =>
    match w.desc plan (bindingOf desc k).handle with
    | some d => inRange lo len d.allocBase
    | none => false)

/-- The stream description at an address reads or writes memory of a range. -/
def Work.descTouches (w : Work) (plan a lo len : Nat) : Bool :=
  match w.read a 576 with
  | some bs => w.touches plan bs lo len
  | none => false

/-- The LOAD or the STORE of a chain reads or writes memory of a range. -/
def Work.chainTouches (w : Work) (plan : Nat) (rec_ : List Byte) (lo len : Nat) : Bool :=
  w.descTouches plan (chainStage rec_ 0).2.1 lo len ||
    w.descTouches plan (chainStage rec_ (chainField rec_ 0 4 - 1)).2.1 lo len

/-- A STREAM task, or a CHAIN task of a core, serves memory of a range. -/
def Work.taskTouches (w : Work) (t : Task) (lo len : Nat) : Bool :=
  if t.kind = kindStream then w.descTouches t.plan t.entry lo len
  else if t.kind = kindChain then
    match w.read t.entry 256 with
    | some bs => w.chainTouches t.plan bs lo len
    | none => false
  else false

/-- The tasks that a unit has completed in the epoch, and the one that it runs. -/
def Work.epochTasks (w : Work) (d u : Nat) : List Task :=
  (unitGet (w.disp d).past u).filter (fun t => t.workEpoch = w.tickNo) ++ unitGet (w.disp d).run u

/-- The tasks to issue again for a unit, with their dies: its own, its ring's, and the streams and chains that served it. -/
def Work.againFor (w : Work) (d u : Nat) : List (Nat × Task) :=
  let (lo, len) := unitWindow d u
  let own := (w.epochTasks d u).map (fun t => (d, t))
  let ring := if u < 96 then [] else ((w.ringMembers d (u - 96)).drop 1).flatMap (fun k =>
    (w.epochTasks (k / 24) (96 + k % 24)).map (fun t => (k / 24, t)))
  let streams := (List.range 4).flatMap (fun e =>
    ((unitGet (w.disp e).past 127 ++ (w.disp e).streams).filter (fun t =>
      decide (t.workEpoch = w.tickNo) && w.taskTouches t lo len)).map (fun t => (e, t)))
  let chains := (List.range 384).flatMap (fun k =>
    if k = d * 96 + u ∧ u < 96 then []
    else ((w.epochTasks (k / 96) (k % 96)).filter (fun t => w.taskTouches t lo len)).map (fun t => (k / 96, t)))
  own ++ ring ++ streams ++ chains

/-- A request that a fenced core had passed on completes without an answer (R548). -/
def dropIssuer (d g : Nat) (f : Flight) : Flight :=
  if f.iss = .core d g then { f with iss := .firmware 0 d, comp := 0 } else f

/-- A command of a fenced core that waits for the copy of a bank will complete without an answer. -/
def muteIssuer (d g : Nat) (x : CmdWait) : CmdWait := if x.iss = .core d g then { x with mute := true } else x

/-- A queued or running job loses the core that awaits it. -/
def dropWaiter (k : Nat) (j : Job) : Job := if j.core = some k then { j with core := none, waits := false } else j

/-- The jobs of a core lose it. -/
def Codec.forget (x : Codec) (k : Nat) : Codec :=
  { x with queue := x.queue.map (dropWaiter k), blocked := x.blocked.map (dropWaiter k),
           lanes := x.lanes.map (fun e => (e.1, dropWaiter k e.2)) }

/-- A waiting EMIT leaves its pipeline, and the journal keeps the last row that it wrote (R551).
(Log entry 105, DEDUCED.) -/
def Work.fenceEmit (w : Work) (d g : Nat) : Work :=
  match w.takeWaiter (d * 96 + g) with
  | (some (_, c), w) =>
    (match w.runningTask d g with
    | some t => w.setJournal { w.journalOf t.serial with emitRow := if c.next = 0 then none else some (c.next - 1) }
    | none => w)
  | (none, w) => w

/-- The chain of a core ends without an arrival, and its streams stop (R548). -/
def Work.fenceChain (w : Work) (d g : Nat) : Work :=
  match w.chainAt d g with
  | none => w
  | some _ =>
    let w := w.setChain d g none
    (List.range 256).foldl (fun (w : Work) c =>
      let x := w.ctx d c
      if x.chain.map (· / 2) = some (d * 96 + g) then (w.setCtx d c { x with chain := none }).streamStop d c true else w) w

/-- What waits for a core is taken away (R548). -/
def Work.releaseCore (w : Work) (d g : Nat) : Work :=
  let k := d * 96 + g
  let w := (w.fenceEmit d g).fenceChain d g
  let w : Work := { w with
    cellar := w.cellar.map (dropIssuer d g), mtch := w.mtch.map (dropIssuer d g),
    cellarWait := w.cellarWait.map (muteIssuer d g), matchWait := w.matchWait.map (muteIssuer d g),
    bars := w.bars.map (fun b => (b.1, { b.2 with waiting := b.2.waiting.map (dropIssuer d g) })),
    emb := { w.emb with calls := w.emb.calls.filter (fun c => c.core ≠ k),
                        parts := w.emb.parts.filter (fun p => p.core ≠ k) },
    field := { w.field with frm := w.field.frm.forget k } }
  let w := (w.setCodec d false ((w.codec d false).forget g)).setCodec d true ((w.codec d true).forget g)
  w.unblockDie d

/-- What waits for a core, or runs on it, is taken away (R548). -/
def Work.stopCore (w : Work) (d g : Nat) : Work :=
  ((w.releaseCore d g).setRejects d g []).setCore d g Core.atReset

/-- A chain on another core ends because its LOAD or STORE serves a fenced unit: it does not arrive; its task will be issued
again, and a chain that was requested completes with FENCED (R548). (Log entry 134, DEDUCED.) -/
def Work.stopChain (w : Work) (d g : Nat) (x : Chain) : Work :=
  let w := w.releaseCore d g
  let c := w.core d g
  let w := if x.called then w.setCore d g { c with user := false, ended := none, wait := .none } else w
  match x.fl with
  | some f =>
    let (dn, w) := w.fresh 32
    let (rs, w) := w.fresh 32
    w.finish { f with status := sFenced, done := dn, result := rs }
  | none => (w.setDisp d { w.disp d with run := unitSet (w.disp d).run g [] }).refresh d

/-- The chains of other cores that read or write a unit's local memory stop (R548). -/
def Work.stopChains (w : Work) (d u : Nat) : Work :=
  let (lo, len) := unitWindow d u
  let own (k : Nat) : Bool := decide (u < 96) && decide (k = d * 96 + u)
  (w.chains.filter (fun e => !own e.1 && w.chainTouches e.2.plan e.2.rec_ lo len)).foldl
    (fun (w : Work) e => w.stopChain (e.1 / 96) (e.1 % 96) e.2) w

/-- The members of a ring that wait in ROTATE give it up with FENCED and skip the rest of their lists (R211). -/
def Work.stopRing (w : Work) (d m : Nat) : Work :=
  ((w.ringMembers d m).drop 1).foldl (fun (w : Work) k =>
    let x := w.me (k / 24) (k % 24)
    if x.rotating then
      w.setMe (k / 24) (k % 24) { x with rotating := false, sent := false, got := false, granted := true, skip := true,
                                         fails := x.fails ++ [sFenced], pc := x.pc + 64 }
    else w) w

/-- The streams of the device that read or write a unit's local memory stop without arriving (R548). -/
def Work.stopStreams (w : Work) (d u : Nat) : Work :=
  let (lo, len) := unitWindow d u
  (List.range 1024).foldl (fun (w : Work) k =>
    let x := w.ctx (k / 256) (k % 256)
    if x.st ≠ .free ∧ (w.lend x.plan x.held).touches x.plan x.desc lo len = true then w.streamStop (k / 256) (k % 256) true else w) w

/-- Effecting calls in progress on a core, which will be made again in full: EMIT is not counted (R551). -/
def Work.callsInProgress (w : Work) (d u : Nat) : Nat :=
  if u < 96 ∧ ((w.core d u).wait = .job ∨ (w.core d u).wait = .update) then 1 else 0

/-- A general core or matrix engine can be fenced: it is in service. -/
def Work.unitInService (w : Work) (d u : Nat) : Bool := !(w.unitSt d u).fenced && !(w.unitSt d u).lost

/-- A unit fenced for a cause (R548, steps 1 to 3; R554). -/
def Work.fenceUnit (w : Work) (d u cause : Nat) : Work :=
  if !w.unitInService d u then w
  else
    let kind := if u < 96 then kGc else kMe
    let n := if u < 96 then u else u - 96
    let again := w.againFor d u
    let calls := w.callsInProgress d u
    let spare := !(w.spareList kind d).isEmpty
    let w := (unitGet (w.disp d).run u).foldl (fun (w : Work) t => w.countOver d t) w
    let w := w.setUnitSt d u { w.unitSt d u with fenced := true, cause := cause, lost := !spare, again := again }
    let w := if u < 96 then w.stopCore d u else (w.stopRing d n).setMe d n Me.atReset
    let x := w.disp d
    let w := (w.setDisp d { x with run := unitSet x.run u [], past := unitSet x.past u [] }).unslot d u
    let w := ((w.stopChains d u).stopStreams d u).refresh d
    if spare then w.fenceToSpare kind d n cause calls else (w.noSpare kind d n cause calls).degrade d

/-- A task runs on the unit and retires nothing while it awaits no request: it can hang (R547). -/
def Work.canHang (w : Work) (d u : Nat) : Bool :=
  !(w.disp d).idle u &&
    (if u < 96 then !(w.core d u).halted && decide ((w.core d u).wait = .none) && decide ((w.core d u).tapout = 0)
     else !(w.me d (u - 96)).rotating)

/-- HANG_DETECT (R547): the task of a unit has retired nothing for HANG_US. (Log entry 138, DESIGN CHOICE.) -/
def execHangDetect (die unit : Nat) (s : State) : Out :=
  s.perform (.hangDetect die unit) (fun w => if w.canHang die unit then w.fenceUnit die unit 4 else w)

/-- UNIT_FENCE (R547): firmware fences a unit whose cause holds. (Log entry 138, DESIGN CHOICE.) -/
def execUnitFence (die unit cause : Nat) (s : State) : Out :=
  s.perform (.unitFence die unit cause) (fun w =>
    let x := w.unitSt die unit
    let limit := w.dv F.errCfgLmCeLimit
    let due : Bool := match cause with
      | 1 => decide (2 ≤ x.ues.length)
      | 2 => decide (limit ≠ 0) && decide (limit < x.ces)
      | 3 => true
      | 4 => w.canHang die unit
      | 5 => true
      | _ => false
    if due then w.fenceUnit die unit cause else w)

/-! ## SPR_FENCE (R547) -/

/-- A receive or transmit lane of a port fails for a cause. -/
def Work.fenceLane (w : Work) (p dir lane cause : Nat) : Work :=
  if dir = 1 then w.laneFails p lane cause
  else
    let x := w.port p
    (w.setPort p { x with txFailed := setInsert x.txFailed lane, laneCause := cause }).retrain p

/-- The logical unit that SPR_FENCE names is in service, and the block with it fenced. -/
def Work.fenceNamed (w : Work) (kind die n : Nat) : Option Work :=
  match kind with
  | 0 => if n < 96 ∧ w.unitInService die n then some (w.fenceUnit die n 5) else none
  | 1 => if n < 24 ∧ w.unitInService die (96 + n) then some (w.fenceUnit die (96 + n) 5) else none
  | 2 => if (w.bank die n).lost ∨ (w.bank die n).copying ≠ 0 then none else some (w.fenceBank die n 5)
  | 3 => if 128 ≤ n ∨ (w.mbank die n).lost ∨ (w.mbank die n).copying ≠ 0 then none else some (w.fenceMatchBank die n 5)
  | 4 =>
    let p := 6 * die + n / 8
    if 6 ≤ n / 8 ∨ w.klState p = klOut ∨ w.klState p = klDown then none else some (w.fenceLane p (n / 4 % 2) (n % 4) 5)
  | 5 => if 4 ≤ n ∨ !w.mcServes n then none else some (w.fenceMc n 5)
  | 6 => if 4 ≤ n ∨ (w.codec die false).out.contains n then none else some (w.laneError die false n 5)
  | 7 => if 2 ≤ n ∨ (w.codec die true).out.contains n then none else some (w.laneError die true n 5)
  | _ => none

/-- The logical ids of a kind, on a die (R542, R543). -/
def fenceIds (kind : Nat) : Nat := getAt 0 [96, 24, 1024, 128, 48, 4, 4, 2] kind

/-- A write to SPR_FENCE: its status is kept in SPR_LOG.LAST_STATUS; a reserved KIND, and a LOGICAL that no unit of the kind
has, is out of range (R547, R673). (Log entry 134, DEDUCED.) -/
def Work.sprFenceWrite (w : Work) (v : Nat) : Nat × Work :=
  if fenceIds (fieldOf v 0 4) ≤ fieldOf v 6 10 then (sRange, w.wr F.sprLogLastStatus 0 0 sRange)
  else match w.fenceNamed (fieldOf v 0 4) (fieldOf v 4 2) (fieldOf v 6 10) with
  | some w => (sOk, w.wr F.sprLogLastStatus 0 0 sOk)
  | none => (sState, w.wr F.sprLogLastStatus 0 0 sState)

/-- SPR_FENCE (R547). -/
def execSprFence (by_ : Requester) (value : BitVec 64) (s : State) : Out :=
  s.perform (.sprFence by_ value) (fun w => (w.sprFenceWrite value.toNat).2)

/-! ## The tick after a fence (R548 to R554) -/

/-- The fields of a unit's block that software does not write take their reset values (R661).
(Log entry 44, DEDUCED.) -/
def Work.resetBlock (w : Work) (place : Place) (d n : Nat) : Work :=
  (Reg.all.filter (fun r => r.info.place = place)).foldl (fun (w : Work) r =>
    (r.fields.filter (fun f => f.acc ≠ .rw ∧ f.acc ≠ .rwl)).foldl (fun (w : Work) f => w.wr f.fld d n f.fld.rst) w) w

/-- The images of the plans that are loaded. -/
def Work.images (w : Work) : List PlanImage := (List.range 16).filterMap (fun p => (w.plan p).image)

/-- Everything that PLAN_LOAD placed in a unit is placed in its spare; the rest of the local memory is lost (R548,
R549, R661). (Log entry 134, DEDUCED.) -/
def Work.reloadUnit (w : Work) (d u : Nat) : Work :=
  let (lo, len) := unitWindow d u
  let w : Work := { w with jnl := .clear lo len :: w.jnl,
                           bad := w.bad.filter (fun r => !inRange (lo / 64) (len / 64) r),
                           badWords := w.badWords.filter (fun r => !inRange (lo / 16) (len / 16) r) }
  let w := (if u < 96 then (w.setCore d u Core.atReset).resetBlock .gc d u
    else (w.setMe d (u - 96) Me.atReset).resetBlock .me d (u - 96)).resetBlock .unit d u
  w.images.foldl (fun (w : Work) i =>
    (if u < 96 then w else w.placeMe i d (u - 96)).placeLocals i lo len) w

/-- A ring after a fence: every member has its home shard in its current buffer again (R211). -/
def Work.reloadRing (w : Work) (d m : Nat) : Work :=
  (w.ringMembers d m).foldl (fun (w : Work) k =>
    let e := k / 24
    let n := k % 24
    let w := (w.wr F.meStatusRingCur e n 0).wr F.meStatusRingSteps e n 0
    let w := w.setMe e n { w.me e n with rotating := false, sent := false, got := false, granted := true }
    w.images.foldl (fun (w : Work) i => w.placeLocals i (w.ringBuf e n 0) (16 * w.rd F.meRingBufLen16 e n)) w) w

/-- A task goes back to the head of its level as it was first issued; its barrier has been passed (R284, R548).
(Log entry 134, DEDUCED.) -/
def Work.reissue (w : Work) (d : Nat) (t : Task) : Work :=
  let gen := if t.waitBar < 1024 then (w.rd F.strmBarGen 0 t.waitBar + (2 ^ 32 - 1)) % 2 ^ 32 else 0
  (w.setDisp d ((w.disp d).push { t with gen := gen, release := w.now, elig := none, start := 0, deferred := none }
    true)).trace d 0 t 127 0 0

/-- Tasks issued again in their order, those of plans that run no more left out. -/
def Work.reissueAll (w : Work) (l : List (Nat × Task)) : Work :=
  (l.filter (fun e => w.planState e.2.plan = 2 ∨ w.planState e.2.plan = 3)).reverse.foldl
    (fun (w : Work) e => w.reissue e.1 e.2) w

/-- The unit counts no overrun until it has caught up (R553). -/
def Work.startCatchUp (w : Work) (d u : Nat) : Work :=
  w.setUnitSt d u { w.unitSt d u with behind := true, catchUp := w.dv F.errCfgCatchup }

/-- A ring is composed anew without a lost engine: its members take the words that the fold table gives, the lost engine is in
no ring, and the shards of the table stand in their places, in the plan's image too (R211, R554). -/
def Work.recompose (w : Work) (d u p : Nat) (i : PlanImage) (f : Fold) : Work :=
  let lost := d * 24 + (u - 96)
  let kept := i.rings.filter (fun e => decide (e.1 ≠ lost) && f.rings.all (fun x => x.1 ≠ e.1))
  let j : PlanImage := { i with rings := kept ++ f.rings, locals := i.locals ++ f.locals }
  let w := w.setPlan p { w.plan p with image := some j }
  let w := f.rings.foldl (fun (w : Work) e =>
    let w := (w.placeRing e).wr F.meStatusRingSteps (e.1 / 24) (e.1 % 24) 0
    let w := w.setMe (e.1 / 24) (e.1 % 24)
      { w.me (e.1 / 24) (e.1 % 24) with rotating := false, sent := false, got := false, granted := true }
    w.images.foldl (fun (w : Work) i => w.placeLocals i (w.ringBuf (e.1 / 24) (e.1 % 24) 0)
      (16 * w.rd F.meRingBufLen16 (e.1 / 24) (e.1 % 24))) w) w
  (w.wr F.meRingEn (lost / 24) (lost % 24) 0)

/-- A plan folds the work of a lost unit, or becomes FAULTED for want of a fold table (R554).
(Log entry 135, DEDUCED.) -/
def Work.foldPlan (w : Work) (d u p : Nat) : Work :=
  match (w.plan p).image with
  | none => w
  | some i =>
    match i.folds.find? (fun f => f.unit = d * 120 + u) with
    | none => w.faultPlan p sNoSpare
    | some f =>
      let w := if f.rings.isEmpty then w else w.recompose d u p i f
      let w := f.again.reverse.foldl (fun (w : Work) r =>
        let (t, w) := w.newTask p r (w.tickNo - 1)
        w.reissue (recF r 25 24) t) w
      { w with spr := { w.spr with folds := w.spr.folds ++ [(p, d, w.tickNo + 1, f.table)] } }

/-- A unit that was fenced in the epoch that has ended: its spare is bound and its work issued again, or folded. -/
def Work.rebindUnit (w : Work) (d u : Nat) : Work :=
  let x := w.unitSt d u
  if !x.fenced then w
  else
    let w := w.setUnitSt d u { x with fenced := false, again := [], ues := [] }
    if x.lost then
      let w := w.reissueAll (x.again.filter (fun e =>
        e.1 ≠ d ∨ (e.2.kind = kindStream) ∨ e.2.units.all (fun v => v ≠ u)))
      ((List.range 16).filter (fun p => decide (w.planState p = 2) || decide (w.planState p = 3))).foldl
        (fun (w : Work) p => w.foldPlan d u p) (w.startCatchUp d u)
    else
      let w := w.reloadUnit d u
      let w := if u < 96 then w else w.reloadRing d (u - 96)
      (w.startCatchUp d u).reissueAll x.again

/-- The epoch tables that take effect at a tick replace those of their dies (R554). (Log entry 135, DEDUCED.) -/
def Work.applyFolds (w : Work) : Work :=
  let due := w.spr.folds.filter (fun f => f.2.2.1 ≤ w.tickNo)
  let w : Work := { w with spr := { w.spr with folds := w.spr.folds.filter (fun f => w.tickNo < f.2.2.1) } }
  due.foldl (fun (w : Work) f =>
    let x := w.plan f.1
    match x.image with
    | some i => w.setPlan f.1 { x with image := some { i with tables := i.tables.set f.2.1 f.2.2.2 } }
    | none => w) w

/-- Spares at a tick: units bound and their work issued again, folds, the counts of corrected words of the epoch, and a
journal of the present and the previous epoch (R547 to R554). (Log entry 134, DEDUCED.) -/
def Work.spareTick (w : Work) : Work :=
  let w := w.applyFolds
  let w := ((List.range 480).foldl (fun (w : Work) k => w.rebindUnit (k / 120) (k % 120)) w).clearCes
  { w with spr := { w.spr with
      journal := w.spr.journal.filter (fun j => w.tickNo ≤ j.epoch + 1) } }

/-! ## Frames (R559 to R563) -/

/-- The instance of ERR_MEM for a frame of a tier (R667). (Log entry 24, DESIGN CHOICE.) -/
def memInstance (tier frame : Nat) : Nat :=
  if tier = 0 then (Config.memoryOf frame).1.toNat else 8 + (Config.memoryOf frame).2.toNat
/-- The die of a frame's stack or channel. (Log entry 24, DESIGN CHOICE.) -/
def memDie (tier frame : Nat) : Nat :=
  if tier = 0 then (Config.memoryOf frame).1.toNat / 2 else (Config.memoryOf frame).2.toNat / 4

/-- Reserve frames of a tier that are not in use. -/
def Work.reserveLeft (w : Work) (tier : Nat) : List Nat :=
  ((List.range 8192).map (reserveFrame + ·)).filter (fun f => !w.spr.reserveUsed.contains (tier * 524288 + f))

/-- ERR_PAGE shows the reserve frames that are left. -/
def Work.showReserve (w : Work) (tier : Nat) : Work :=
  let n := (w.reserveLeft tier).length
  if tier = 0 then w.wr F.errPageHbmReserve 0 0 n else w.wr F.errPageLpxReserve 0 0 n

/-- The page that a frame holds. -/
def Work.pageOf (w : Work) (tier frame : Nat) : Option Nat :=
  let home := tier * 524288 + frame
  let here (p : Page) : Bool := p.valid && decide (p.lpx = decide (tier = 1)) && decide (p.frame = frame)
  match w.pages.find? (fun e => here e.2) with
  | some e => some e.1
  | none => if w.pages.all (fun e => e.1 ≠ home) && here (Page.atStart home) then some home else none

/-- The frame-retirement record (R546, RTYPE 2). -/
def Work.retireRecord (w : Work) (tier frame cause new : Nat) : Nat :=
  fenceRecord 2 cause (w.reserveLeft tier).length 0 (frame + tier * 2 ^ 19) new w.tickNo

/-- The frame is retired: logged, counted, reported (R546, R560). -/
def Work.retired (w : Work) (tier frame cause new : Nat) : Work :=
  let w : Work := { w with spr := { w.spr with retired := (tier, frame) :: w.spr.retired } }
  let r := w.retireRecord tier frame cause new
  ((w.logFence r).bump F.errMemRetired 0 (memInstance tier frame)).event 41 sOk r

/-- A frame retired for a cause: its page moves to a reserve frame, which one is firmware's choice (R271, R560,
R561). (Log entry 136, DEDUCED.) -/
def Work.retireFrame (w : Work) (tier frame cause : Nat) : Work :=
  if w.spr.retired.contains (tier, frame) then w
  else
    match w.pageOf tier frame with
    | none => w.retired tier frame cause 0
    | some n =>
      match w.reserveLeft tier with
      | [] =>
        let d := memDie tier frame
        (w.event (dieSource 1 d) sNoSpare (w.retireRecord tier frame cause 0)).degrade d
      | f :: fs =>
        let (k, w) := w.fresh 13
        let dest := getAt f (f :: fs) (k % (fs.length + 1))
        let w := w.copyFrame (decide (tier = 1)) frame (decide (tier = 1)) dest
        let w := w.setPage n { w.page n with frame := dest }
        let w : Work := { w with spr := { w.spr with reserveUsed := (tier * 524288 + dest) :: w.spr.reserveUsed } }
        (w.showReserve tier).retired tier frame cause dest

/-- FRAME_RETIRE (R560): firmware retires a frame whose cause holds. A read that met an uncorrectable word, and a
second failed read of the LPDDR5X tier, are what the memory reports. (Log entry 136, DEDUCED.) -/
def execFrameRetire (tier frame cause : Nat) (s : State) : Out :=
  s.perform (.frameRetire tier frame cause) (fun w =>
    let limit := w.dv F.errCfgPageCeLimit
    let rows := frameKey (decide (tier = 1)) frame / 64
    let due : Bool := match cause with
      | 1 => true
      | 2 => decide (tier = 0) && decide (limit ≠ 0) && decide (limit < smGet 0 w.spr.pageCe frame)
      | 7 => decide (tier = 0) && w.bad.any (fun r => inRange rows 32768 r)
      | _ => false
    if due ∧ tier < 2 ∧ frame < 524288 then w.retireFrame tier frame cause else w)

/-- The device address of a byte of an HBM frame: that of the page that it holds, else its own number. -/
def Work.frameAddr (w : Work) (k : Nat) : Nat :=
  match w.pageOf 0 (k / 0x200000) with
  | some n => n * 0x200000 + k % 0x200000
  | none => k

/-- What the scrubber finds in one row of HBM (R562, R563): `k` is the address by frame. (Log entry 136, DEDUCED.) -/
def Work.scrubRow (w : Work) (k : Nat) (found : Ecc) : Work :=
  let f := k / 0x200000
  let i := memInstance 0 f
  match found with
  | .clean => w
  | .corrected =>
    let w : Work := { w with spr := { w.spr with pageCe := smSet 0 w.spr.pageCe f (smGet 0 w.spr.pageCe f + 1) },
                             errs := { w.errs with ce := w.errs.ce + 1 } }
    w.bump F.errMemCe 0 i
  | .uncorrectable =>
    let w : Work := { w with errs := { w.errs with ue := w.errs.ue + 1 } }
    ((w.poisonRow k).bump F.errMemUe 0 i).event 40 sCheck (i + detailAddr (w.frameAddr k))

/-- HBM_SCRUB (R562): a patrol pass, with what it finds by address in the frames of HBM. -/
def execHbmScrub (found : List (Nat × Ecc)) (s : State) : Out :=
  s.perform (.hbmScrub found) (fun w =>
    found.foldl (fun (w : Work) e => if e.1 < 0x10000000000 then w.scrubRow e.1 e.2 else w)
      { w with spr := { w.spr with pageCe := [] } })

/-! ## Failures without a spare (R557, R558) -/

/-- FATAL_FAILURE (R558): NO_SPARE is reported, every plan is FAULTED at the next tick, the device is DEGRADED and sends
no heartbeat any more. How the record names a unit that R542 lists no kind for is not given: a free value.
(Log entry 137, DEDUCED.) -/
def execFatalFailure (die : Nat) (what : FatalUnit) (s : State) : Out :=
  s.perform (.fatalFailure die what) (fun w =>
    let (x, w) := w.fresh 256
    let w := (w.event (dieSource 1 die) sNoSpare x).degrade die
    let w : Work := { w with spr := { w.spr with fatal := true } }
    (List.range 16).foldl (fun (w : Work) p => w.faultPlan p sNoSpare) w)

end Sys2Proof.Machine
end

