-- ==== Sys2Proof/Machine/TimeBase.lean ====
section
/-! DEFINITION. The time base, the alignment of a follower to its parent, the first tick of a master, and writes of the
tick period (R28 to R31, R42 to R60). -/

namespace Sys2Proof.Machine

/-! ## Alignment states (R50) -/

/-- ALIGN_STATE: FREE. -/
abbrev alFree : Nat := 0
/-- ACQUIRING. -/
abbrev alAcquiring : Nat := 1
/-- LOCKED. -/
abbrev alLocked : Nat := 2
/-- HOLDOVER. -/
abbrev alHoldover : Nat := 3
/-- MISMATCH. -/
abbrev alMismatch : Nat := 4
/-- DIVERGED. -/
abbrev alDiverged : Nat := 5

/-- TIME_SRC.ALIGN_STATE. -/
def Work.align (w : Work) : Nat := w.dv F.timeSrcAlignState

/-- The event of an alignment (source 1). -/
def Work.alignEvent (w : Work) (old new : Nat) : Work := w.event 1 sOk (old + new * 8 + w.dv F.timeSrcOffsetNs * 2 ^ 32)

/-- ALIGN_STATE changed, with its event. (Log entry 107, DEDUCED.) -/
def Work.setAlign (w : Work) (st : Nat) : Work :=
  let old := w.align
  if old = st then w else (w.wr F.timeSrcAlignState 0 0 st).alignEvent old st

/-- This device is tick master (R48). -/
def Work.isMaster (w : Work) : Bool := w.rdB F.timeSrcMaster 0 0

/-- The port that a follower follows (R52). -/
def Work.timePort (w : Work) : Nat := if w.rdB F.timeSrcOnAlt 0 0 then w.dv F.timeSrcAltPort else w.dv F.timeSrcParentPort

/-- The time base's own state changed. -/
def Work.setTime (w : Work) (f : TimeSt → TimeSt) : Work := { w with time := f w.time }

/-! ## Announcements (R49, R50, R52 to R54, R57) -/

/-- A master that listens hears a running tick number: it takes that number and phase (R57).
(Log entry 109, DEDUCED.) -/
def Work.masterHears (w : Work) (t t1 : Nat) : Work :=
  if w.time.listening && !w.time.ticked then
    (((w.setTime (fun x => { x with listening := false, masterTook := true, lastTick := t1 })).wr F.timeNowNowNs 0 0 t1).wr
      F.timeTickCountCount 0 0 t).setAlign alLocked
  else w

/-- The stamps of an announcement of tick t, kept for the exchange of the epoch (R49). -/
def Work.keepStamps (w : Work) (t t1 t2 : Nat) : Work :=
  w.setTime (fun x => { x with heard := true, silent := 0, t1 := t1, t2 := t2, sync := some (t, t1) })

/-- TIME_NOW and the tick schedule take the parent's (R50, ACQUIRING). -/
def Work.stepTo (w : Work) (t1 : Nat) : Work := (w.setTime (fun x => { x with lastTick := t1 })).wr F.timeNowNowNs 0 0 t1

/-- A follower's announcement with its own period. -/
def Work.followerHears (w : Work) (t t1 t2 : Nat) : Work :=
  match w.align with
  | 0 | 4 => ((((w.keepStamps t t1 t1).setTime (fun x => { x with good := 0 })).stepTo t1).setAlign alAcquiring)
  | 1 => (w.keepStamps t t1 t2).setTime (fun x => { x with lastTick := t1 })
  | 3 => (w.keepStamps t t1 t2).setTime (fun x => { x with firstExchange := true })
  | _ => w.keepStamps t t1 t2

/-- A time announcement reaches a port at t2. (Log entry 106, DEDUCED.) -/
def Work.announceMsg (w : Work) (port t p : Nat) (running : Bool) (t1 t2 : Nat) : Work :=
  if w.isMaster then (if running then w.masterHears t t1 else w)
  else if w.align = alDiverged then w
  else
    let parent := decide (port = w.dv F.timeSrcParentPort)
    let alt := decide (port = w.dv F.timeSrcAltPort)
    let listens := parent || (alt && (w.rdB F.timeSrcOnAlt 0 0 || decide (w.align = alMismatch)))
    if !listens then w
    else if p ≠ w.period then (if w.time.ticked then w else w.setAlign alMismatch)
    else (w.wrB F.timeSrcOnAlt 0 0 (!parent)).followerHears t t1 t2

/-- ANNOUNCE (R49). (Log entry 106, DEDUCED.) -/
def execAnnounce (port tickNo period : Nat) (running : Bool) (t1 t2 : Nat) (s : State) : Out :=
  s.perform (.announce port tickNo period running t1 t2) (fun w => w.announceMsg port tickNo period running t1 t2)

/-- The announcement of the tick just taken, on every Kupel port that is UP (R49, R510). (Log entry 106, DEDUCED.) -/
def Work.announce (w : Work) : Work :=
  let payload := toBytes 8 w.tickNo ++ toBytes 8 (w.period + 2 ^ 25) ++ toBytes 8 w.time.lastTick
  ((List.range 24).filter (fun p => decide (w.klState p = klUp))).foldl (fun (w : Work) p => w.sendTime p 1 payload) w

/-! ## The exchange of an epoch (R49, R50, R53, R55, R510) -/

/-- DELAY_REQ_SEND (R49): the follower's request leaves at t3. -/
def execDelayReqSend (t3 : Nat) (s : State) : Out :=
  s.perform (.delayReqSend t3) (fun w =>
    if w.isMaster || !w.time.heard || decide (w.align = alFree) || decide (alMismatch ≤ w.align) then w
    else
      let t := match w.time.sync with
        | some (t, _) => t
        | none => w.tickNo
      (w.setTime (fun x => { x with t3 := some t3 })).sendTime w.timePort 2 (toBytes 8 t3 ++ toBytes 8 t))

/-- A request reaches a parent at t4: it is answered with its stamp (R510). -/
def Work.delayReqMsg (w : Work) (port t3 t t4 : Nat) : Work :=
  w.sendTime port 3 (toBytes 8 t3 ++ toBytes 8 t4 ++ toBytes 8 t)

/-- DELAY_REQ (R510). -/
def execDelayReq (port t3 tickNo t4 : Nat) (s : State) : Out :=
  s.perform (.delayReq port t3 tickNo t4) (fun w => w.delayReqMsg port t3 tickNo t4)

/-- The offset that four stamps give (R49). (Log entry 107, DEDUCED.) -/
def offsetOf (t1 t2 t3 t4 : Nat) : Int := (((t2 : Int) - t1) - ((t4 : Int) - t3)) / 2

/-- An exchange while ACQUIRING: the offset is stepped out, and the fourth in a row within 20 ns locks (R50). -/
def Work.acquire (w : Work) (o : Int) : Work :=
  let n := if o.natAbs ≤ 20 then w.time.good + 1 else 0
  let w := (w.setTime (fun x => { x with good := n })).wr F.timeNowNowNs 0 0 (wrapTo 64 ((w.now : Int) - o))
  if n < 4 then w
  else
    let t := match w.time.sync with
      | some (t, _) => t
      | none => w.tickNo
    ((w.wr F.timeTickCountCount 0 0 t).setTime (fun x => { x with slew := 0 })).setAlign alLocked

/-- The first exchange on leaving HOLDOVER (R53, R55): how far the device's tick lies from the parent's of its number.
(Log entry 107, DEDUCED.) -/
def Work.rejoin (w : Work) (o : Int) : Work :=
  let d : Int := match w.time.sync with
    | some (t, t1) => w.tickTime t - ((t1 : Int) + o)
    | none => o
  let w := w.setTime (fun x => { x with firstExchange := false })
  if 2 * d.natAbs < w.period then
    let w := (w.setTime (fun x => { x with slew := -o })).wr F.timeSrcAlignState 0 0 alLocked
    (if 40 < o.natAbs then w.alignEvent alHoldover alLocked else w)
  else (w.setTime (fun x => { x with diverging := true })).setAlign alDiverged

/-- An answer to the outstanding request on the port followed: the offset is measured and steered out. -/
def Work.delayRespMsg (w : Work) (port t3 t4 : Nat) : Work :=
  if w.isMaster ∨ port ≠ w.timePort ∨ w.time.t3 ≠ some t3 then w
  else
    let o := offsetOf w.time.t1 w.time.t2 t3 t4
    let w := (w.setTime (fun x => { x with t3 := none })).wr F.timeSrcOffsetNs 0 0 (sat32 o)
    match w.align with
    | 1 => w.acquire o
    | 2 => w.setTime (fun x => { x with slew := -o })
    | 3 => if w.time.firstExchange then w.rejoin o else w
    | _ => w

/-- DELAY_RESP (R49). -/
def execDelayResp (port t3 t4 tickNo : Nat) (s : State) : Out :=
  s.perform (.delayResp port t3 t4 tickNo) (fun w => w.delayRespMsg port t3 t4)

/-! ## Silence (R50, R52) -/

/-- PARENT_SILENT_SWITCH (R52): three periods of silence. Before the first tick no period is counted, and the event itself
says that they have passed. (Log entry 108, DEDUCED.) -/
def execParentSilentSwitch (s : State) : Out :=
  s.perform .parentSilentSwitch (fun w =>
    if w.isMaster || w.rdB F.timeSrcOnAlt 0 0 || decide (24 ≤ w.dv F.timeSrcAltPort) ||
        (w.time.ticked && decide (w.time.silent < 3)) then w
    else w.wr F.timeSrcOnAlt 0 0 1)

/-- HOLDOVER_ENTRY (R50): eight periods of silence while LOCKED. -/
def execHoldoverEntry (s : State) : Out :=
  s.perform .holdoverEntry (fun w =>
    if w.isMaster = false ∧ w.align = alLocked ∧ 8 ≤ w.time.silent then w.setAlign alHoldover else w)

/-- The announcement of the epoch that ends came or was missed (R52, R54). (Log entry 108, DEDUCED.) -/
def Work.noteSilence (w : Work) : Work :=
  if w.isMaster then w
  else w.setTime (fun x => { x with silent := if x.heard then 0 else x.silent + 1, heard := false })

/-! ## The first tick of a master (R57, R59) -/

/-- Tick 0 of a master, at the present time: it is announced and pulses TICK_OUT, and of the units it only counts, since
start has not finished (R47, R49, R57, R573). (Log entry 110, DEDUCED.) -/
def Work.firstTick (w : Work) : Work :=
  (((w.setTime (fun x => { x with lastTick := w.now, ticked := true, tickOut := some w.now })).wr
    F.timeTickCountCount 0 0 0).setAlign alLocked).announce

/-- MASTER_LISTEN_END (R57): two periods without an announcement: tick 0 in FREE mode, else the wait of R59 begins. -/
def execMasterListenEnd (s : State) : Out :=
  s.perform .masterListenEnd (fun w =>
    if w.isMaster && w.time.listening then
      let w := (w.setTime (fun x => { x with listening := false })).wr F.timeNowNowNs 0 0 (w.now + 2 * w.period)
      (if w.rdB F.timeSrcMode 0 0 then w.setTime (fun x => { x with ptpWaiting := true }) else w.firstTick)
    else w)

/-- PTP_WAIT_EXPIRE (R59): the master starts ticking on its own time base. -/
def execPtpWaitExpire (s : State) : Out :=
  s.perform .ptpWaitExpire (fun w =>
    if w.isMaster && w.time.ptpWaiting then
      ((w.setTime (fun x => { x with ptpWaiting := false })).wr F.timeNowNowNs 0 0
        (w.now + w.dv F.timeSrcPtpWaitS * 1000000000)).firstTick
    else w)

/-! ## The tick period (R28, R29, R32) -/

/-- TIME_PHASE computed from the period. -/
def Work.setPhase (w : Work) : Work :=
  (w.wr F.timePhaseCommitEndNs 0 0 (commitEnd w.period)).wr F.timePhaseGuardStartNs 0 0 (guardStart w.period)

/-- A write to TIME_TICK_PERIOD, and its status as a REG_WRITE: STATE_REJECT from the first tick on while the boot lock is
open, and that of any locked field once it has closed (R6, R29, R576, R673). (Log entry 112, DEDUCED.) -/
def Work.periodWrite (w : Work) (v : Nat) : Nat × Work :=
  let p := fieldOf v 0 25
  if w.time.sealed then (sOk, w)
  else if w.time.ticked then (sState, w)
  else if p < 8000 ∨ 16777216 < p then (sRange, w)
  else (sOk, (w.wr F.timeTickPeriodPeriodNs 0 0 p).setPhase)

/-- TIME_TICK_PERIOD_WRITE (R29). -/
def execTimeTickPeriodWrite (by_ : Requester) (value : BitVec 64) (s : State) : Out :=
  s.perform (.timeTickPeriodWrite by_ value) (fun w => (w.periodWrite value.toNat).2)

end Sys2Proof.Machine
end

