-- ==== Sys2Proof/Machine/RegFile.lean ====
section
/-! DEFINITION. Reading and writing register space: values computed as they are read, access codes, ranges, aliases and
fenced blocks (R6, R7, R653 to R663, R673). -/

namespace Sys2Proof.Machine

/-! ## Reading (R6, R655, R660, R661, R663) -/

/-- A unit has nothing to do: GC_STATUS.IDLE and ME_STATUS.IDLE, zero during a unit reset (R582). -/
def Work.unitIdle (w : Work) (d u : Nat) : Bool :=
  !w.boot.units.contains (d * 120 + u) &&
    (if u < 96 then (smGet [] (w.disp d).run u).isEmpty && decide ((w.core d u).tapout = 0)
     else !(w.me d (u - 96)).running && !(w.me d (u - 96)).rotating)

/-- A command is in flight on a match bank. -/
def Work.matchBusy (w : Work) (d b : Nat) : Bool :=
  w.mtch.any (fun f => decide (f.tdie = d) && decide (f.first ≤ b) && decide (b < f.first + f.banks))

/-- The bits of the pending sources 64 i to 64 i + 63 (R598). -/
def Work.pendWord (w : Work) (i : Nat) : Nat :=
  (List.range 64).foldl (fun (x : Nat) k => if w.evtPending (64 * i + k) then x + 2 ^ k else x) 0

/-- The contents of STRM_CTX_POS for a context. -/
def Work.ctxWord (w : Work) (d c : Nat) : Nat :=
  let x := w.ctx d c
  let st : Nat := match x.st with
    | .free => 0
    | .running => 1
    | .halted => 2
    | .drain => 3
    | .faulted => 4
  x.pc % 32 + st * 2 ^ 5 + x.status % 65536 * 2 ^ 16 + ofBytes (x.l.flatMap (toBytes 4)) * 2 ^ 64 +
    ofBytes (x.n.flatMap (toBytes 4)) * 2 ^ 256 + x.delivered % 2 ^ 64 * 2 ^ 448 + ofBytes (x.a.flatMap (toBytes 6)) * 2 ^ 512 +
    x.faultAddr % 2 ^ 52 * 2 ^ 896

/-- A field as it reads: from the state that it reports where a register does not hold it. -/
def Work.fieldNow (w : Work) (f : Fld) (d i : Nat) : Nat :=
  match f.reg, f.lo with
  | .evtPend, _ => w.pendWord i
  | .evtPri, 12 => if levelSource i then 1 else 0
  | .matchBankCfg, 3 => if w.matchBusy d i then 1 else 0
  | .matchBankCfg, 8 => (w.mbank d i).staged.length
  | .matchBankCfg, 32 => ((w.mbank d i).rows.filter (fun r => r.2.valid)).length
  | .dispLevelDepth, k => (getAt [] (w.disp d).levels (k / 16)).length
  | .dispStat, 0 => (w.disp d).delay.length
  | .strmCtxPos, k => fieldOf (w.ctxWord d i) k f.w
  | .strmStat, 48 => ((List.range 256).filter (fun c => decide ((w.ctx d c).st ≠ .free))).length
  | .gcStatus, 0 => if w.unitIdle d i then 1 else 0
  | .gcStatus, 2 => (w.core d i).tapout
  | .meStatus, 0 => if w.unitIdle d (96 + i) then 1 else 0
  | .twnState, 8 => w.twinPorts.length
  | _, _ => w.rd f d i

/-- A unit block that reads as zero and ignores writes: its unit has been fenced and is not bound to a spare (R661). -/
def Work.blockFenced (w : Work) (ri : RegInst) : Bool :=
  let x := match ri.reg.info.place with
    | .gc => some (w.unitSt ri.die ri.idx)
    | .me => some (w.unitSt ri.die (96 + ri.idx))
    | .unit => some (w.unitSt ri.die ri.idx)
    | _ => none
  match x with
  | some u => u.fenced || u.lost
  | none => false

/-- The whole value of a register as it reads: WO fields and reserved bits are zero (R6, R7).
(Log entries 2, DESIGN CHOICE; 19, DESIGN CHOICE.) -/
def Work.regValue (w : Work) (ri : RegInst) : Nat :=
  if w.blockFenced ri then 0
  else (Reg.fields ri.reg).foldl (fun (x : Nat) f =>
    if f.acc = .wo then x else x + w.fieldNow f.fld ri.die ri.idx % 2 ^ f.fld.w * 2 ^ f.fld.lo) 0

/-- The word that a read of register space gives; none at a reserved address, and zero through an alias (R654, R660). -/
def Work.readWord (w : Work) (a : Nat) : Option Nat := (regAt? a).map (fun (x : RegInst × Nat) =>
  fieldOf (w.regValue x.1) (64 * x.2) 64)

/-! ## Writing fields (R6, R673) -/

/-- A value lies in a field's stated range. -/
def Legal.ok : Legal → Nat → Bool
  | .any, _ => true
  | .range lo hi, v => decide (lo ≤ v) && decide (v ≤ hi)
  | .rangeOr lo hi x, v => (decide (lo ≤ v) && decide (v ≤ hi)) || decide (v = x)
  | .multiple n, v => decide (v % n = 0)

/-- A register of the TIME group, which a partial reset leaves alone (R566, R662). -/
def Reg.isTime : Reg → Bool
  | .timeTickPeriod | .timePhase | .timeTickCount | .timeNow | .timeSrc | .timeOverrun => true
  | _ => false

/-- The boot lock holds a register's RWL fields (R576). (Log entry 112, DEDUCED.) -/
def Work.lockedFor (w : Work) (r : Reg) : Bool := if r.isTime then w.time.sealed else w.rdB F.rstStateLocked 0 0

/-- A field takes writes now. -/
def Work.writable (w : Work) (f : FieldInfo) : Bool :=
  match f.acc with
  | .rw | .wo => true
  | .rwl => !w.lockedFor f.fld.reg
  | _ => false

/-- Whether a field has bits in word k of its register. -/
def Fld.inWord (f : Fld) (k : Nat) : Bool := decide (max f.lo (64 * k) < min (f.lo + f.w) (64 * k + 64))

/-- A field's value once word k of its register has been written with v. (Log entry 128, DEDUCED.) -/
def Fld.afterWord (f : Fld) (k old v : Nat) : Nat :=
  let a := max f.lo (64 * k)
  let n := min (f.lo + f.w) (64 * k + 64) - a
  old - fieldOf old (a - f.lo) n * 2 ^ (a - f.lo) + fieldOf v (a - 64 * k) n * 2 ^ (a - f.lo)

/-- The ranges that depend on another field or register (R673). -/
def Work.dependOk (w : Work) (ri : RegInst) : Bool :=
  match ri.reg with
  | .matchThrottle => decide (w.rd F.matchThrottleT1C ri.die 0 < w.rd F.matchThrottleT2C ri.die 0)
  | .fabEmbCfg => decide (w.dv F.fabEmbCfgOvrFirst + w.dv F.fabEmbCfgOvrCount ≤ 128)
  | .bqLowWater => decide (w.rd F.bqLowWaterLowWater 0 ri.idx ≤ (w.pipe ri.idx).slots)
  | _ => true

/-- A write to word k of a register without an action of its own, with its status as a REG_WRITE.
(Log entry 128, DEDUCED.) -/
def Work.writeFields (w : Work) (ri : RegInst) (k v : Nat) : Nat × Work :=
  let fs := (Reg.fields ri.reg).filter (fun f => f.fld.inWord k)
  let val (f : FieldInfo) : Nat := f.fld.afterWord k (w.rd f.fld ri.die ri.idx) v
  if fs.any (fun f => w.writable f && !f.legal.ok (val f)) then (sRange, w)
  else
    let w' := fs.foldl (fun (x : Work) f =>
      match f.acc with
      | .w1c =>
        let old := w.rd f.fld ri.die ri.idx
        x.wr f.fld ri.die ri.idx (old - (old &&& f.fld.afterWord k 0 v))
      | .w1s => x.wr f.fld ri.die ri.idx (w.rd f.fld ri.die ri.idx ||| f.fld.afterWord k 0 v)
      | .wo | .ro => x
      | _ => if w.writable f then x.wr f.fld ri.die ri.idx (val f) else x) w
    if fs.any w.writable && !w'.dependOk ri then (sRange, w) else (sOk, w')

/-! ## Aliases (R658 to R660) -/

/-- A unit kind's blocks on a die: first offset, stride, first unit number and count, offsets of the broadcast and group
aliases, bytes of a block, and the GROUP_SEL field (R652). -/
def aliasKinds (d : Nat) : List (Nat × Nat × Nat × Nat × Nat × Nat × Nat × Fld) :=
  [(0x2000000, 0x1000, 0, 96, 0x20E0000, 0x20F0000, 0x1000, F.groupSelGc),
   (0x2100000, 0x4000, 0, 24, 0x21E0000, 0x21F0000, 0x4000, F.groupSelMe),
   (0x2200000, 0x4000, 6 * d, 6, 0x22E0000, 0x22F0000, 0x4000, F.groupSelKl),
   (0x2300000, 0x10000, 0, 16, 0x2400000, 0x2410000, 0x10000, F.groupSelBank)]

/-- The offsets in a die block that an offset reaches: itself outside the aliases. A group alias reaches the selected groups,
or with `all` every group. -/
def Work.dieTargets (w : Work) (all : Bool) (d o : Nat) : List Nat :=
  let hit := (aliasKinds d).find? (fun (_, _, _, _, b, g, n, _) => inRange b n o || inRange g n o)
  match hit with
  | none => [o]
  | some (base, stride, first, count, b, g, n, sel) =>
    if inRange b n o then (List.range count).map (fun i => base + i * stride + (o - b))
    else ((List.range count).filter (fun i => all || bitOf (w.rd sel d 0) ((first + i) % 16))).map
      (fun i => base + i * stride + (o - g))

/-- The command registers of a die, which the all-dies alias does not reach (R659). -/
def commandOffset (o : Nat) : Bool := decide (0x100 ≤ o) && decide (o < 0x280)

/-- The register words that an address reaches, through an alias to each (R652, R654, R658, R659); with `all`, those that it
reaches whatever GROUP_SEL holds. -/
def Work.reaches (w : Work) (all : Bool) (a : Nat) : List (RegInst × Nat) :=
  if a % 8 ≠ 0 then []
  else if inRange regsBase 0x40000000 a then
    let d := (a - regsBase) / 0x10000000
    (w.dieTargets all d ((a - regsBase) % 0x10000000)).filterMap (regInDie d)
  else if inRange 0x300F0000000 0x10000000 a then
    let o := a - 0x300F0000000
    (if commandOffset o then []
     else if inRange 0x1000000 0x1000000 o then (regInDie 0 o).toList
     else (List.range 4).flatMap (fun d => (w.dieTargets all d o).filterMap (regInDie d)))
  else []

/-- The register words that a write to an address reaches. -/
def Work.targets (w : Work) (a : Nat) : List (RegInst × Nat) := w.reaches false a

/-- An address that names no register, nor an alias of one, whatever groups are selected: a reserved address (R654). -/
def Work.reservedWord (w : Work) (a : Nat) : Bool := (w.reaches true a).isEmpty

/-! ## The standing configuration (R580, R663) -/

/-- A record's word applied to the RW and RWL fields that it reaches; subscriptions belong to sessions and take none. -/
def Work.cfgWord (w : Work) (keepTime : Bool) (ri : RegInst) (k v : Nat) : Work :=
  if keepTime && ri.reg.isTime then w
  else if ri.reg = .evtSub then w
  else
    ((Reg.fields ri.reg).filter (fun f => f.fld.inWord k && decide (f.acc = .rw ∨ f.acc = .rwl))).foldl
      (fun (x : Work) f => x.wr f.fld ri.die ri.idx (f.fld.afterWord k (x.rd f.fld ri.die ri.idx) v)) w

/-- A record's words are legal for every register that they reach, and reach some field that can be set (R579). -/
def Work.cfgWordOk (ri : RegInst) (k v : Nat) : Bool :=
  let fs := (Reg.fields ri.reg).filter (fun f => f.fld.inWord k)
  let cover := fs.foldl (fun (x : Nat) f => x ||| f.fld.afterWord k 0 (2 ^ 64 - 1) * 2 ^ f.fld.lo / 2 ^ (64 * k)) 0
  decide (v &&& (2 ^ 64 - 1 - cover % 2 ^ 64) = 0) &&
    fs.all (fun f => decide (f.acc = .ro) || f.legal.ok (f.fld.afterWord k 0 v) || decide (64 < f.fld.w))

/-- A register word has a field of access RW or RWL (R579). -/
def settable (ri : RegInst) (k : Nat) : Bool :=
  (Reg.fields ri.reg).any (fun f => f.fld.inWord k && decide (f.acc = .rw ∨ f.acc = .rwl))

/-- The instances of a register: die and index. -/
def Reg.instances (r : Reg) : List (Nat × Nat) :=
  match r.info.place with
  | .die => (List.range 4).map (fun d => (d, 0))
  | .ctx => (List.range 4).flatMap (fun d => (List.range 256).map (fun i => (d, i)))
  | .gc => (List.range 4).flatMap (fun d => (List.range 96).map (fun i => (d, i)))
  | .me => (List.range 4).flatMap (fun d => (List.range 24).map (fun i => (d, i)))
  | .unit => (List.range 4).flatMap (fun d => (List.range 120).map (fun i => (d, i)))
  | .kl => (List.range 24).map (fun i => (i / 6, i))
  | .bank => (List.range 4).flatMap (fun d => (List.range 128).map (fun i => (d, i)))
  | .dev => (List.range r.info.count).map (fun i => (0, i))

/-- The default of a configured field: that of its table; the role of Kupel ports 20 to 23 is twin (R663). -/
def FieldInfo.default (f : FieldInfo) (i : Nat) : Nat :=
  if f.fld = F.klPortCfgRole ∧ 20 ≤ i then 2 else f.dflt

/-- Every configured field that software writes at its default, before the records (R663). -/
def Work.cfgDefaults (w : Work) (keepTime : Bool) : Work :=
  (Reg.all.filter (fun r => !(keepTime && r.isTime))).foldl (fun (w : Work) r =>
    ((Reg.fields r).filter (fun f => f.cfg && decide (f.acc = .rw ∨ f.acc = .rwl))).foldl (fun (w : Work) f =>
      r.instances.foldl (fun (w : Work) x => w.wr f.fld x.1 x.2 (f.default x.2)) w) w) w

end Sys2Proof.Machine
end

