-- ==== Sys2Proof/Machine/Boot.lean ====
section
/-! DEFINITION. Reset, the start sequence, the standing configuration, device-state requests and unit resets
(chapter 21). A reset and the start that follows it are one step, up to the waits of step 8 (log entry 25). -/

namespace Sys2Proof.Machine

/-! ## What a reset leaves (R565, R566, R569, R662) -/

/-- A register field that a reset leaves alone: the fault latch's bits and the OWN_EN pin always, and after a partial
reset the TIME registers and SEC_STATUS (R662). -/
def keptKey (full : Bool) (k : Nat) : Bool :=
  [F.pwrStatusTripValid.key 0 0, F.pwrStatusLastTrip.key 0 0, F.pwrStatusTripRail.key 0 0, F.secStatusOwnEn.key 0 0].contains k ||
    (!full && (inRange (devRegion * 8) 0x180 k || inRange ((devRegion + 0xB000) * 8) 128 k))

/-- The module's own state after a reset: a full one also resets the test access port and the PMBus status. -/
def ModSt.afterReset (m : ModSt) (full : Bool) : ModSt :=
  let m := { m with gate := 16, below := 0, surge := 0, sums := [], cool := [0, 0, 0, 0] }
  if full then
    { m with dbg := false, page := 0, vout := [], statIn := 0, statTemp := 0, statCml := 0, warn := false, jtagIr := 1,
             jtagBsr := 0, jtagDrive := 0 }
  else m

/-- The block after a reset: HBM and the LPDDR5X tier keep their contents, and nothing refers to them (R569).
(Log entry 142, DEDUCED.) -/
def Block.afterReset (b : Block) (full : Bool) : Block :=
  { State.reset.toBlock with
    regs := b.regs.filter (fun e => keptKey full e.1), free := b.free, out := b.out, found := b.found,
    bad := b.bad.filter (fun r => decide (r * 64 < cellarBase)), badWords := [], parts := b.parts,
    time := if full then State.reset.time else { b.time with commitBusy := [], commitOpen := false },
    flash := b.flash, planFormat := b.planFormat, modl := b.modl.afterReset full }

/-- Start has stopped (R575). -/
def Work.startStopped (w : Work) : Bool := decide (w.dv F.bootStatusResult ≠ 0)

/-- A reset holds the block: flash operations end, the cellar reads as zero (R126, R569, R620).
(Log entry 142, DEDUCED.) -/
def Work.holdReset (w : Work) (full : Bool) (cause : Nat) : Work :=
  let inStart := decide (w.devState = stStarting)
  let repair := w.rdB F.errCfgPprEn 0 0 || (w.startStopped && w.boot.repair)
  let w := w.flashCut false
  let w : Work := { w with toBlock := w.toBlock.afterReset full, jnl := .clear cellarBase 0x200000000 :: w.jnl }
  let w : Work := { w with boot := { w.boot with repair := repair } }
  (w.wr F.rstCauseCause 0 0 cause).wrB F.rstCauseInStart 0 0 inStart

/-! ## Stopping (R575) -/

/-- The status that goes with a failure of start. -/
def bootStatusOf (result : Nat) : Nat :=
  match result with
  | 2 | 3 => sAuth
  | 4 => sRange
  | 6 => sNoSpare
  | _ => sCheck

/-- RST_STATE.STEP. -/
def Work.atStep (w : Work) (n : Nat) : Work := w.wr F.rstStateStep 0 0 n

/-- Start stops at a step. -/
def Work.stopStart (w : Work) (step result record : Nat) : Work :=
  (((w.wr F.bootStatusStep 0 0 step).wr F.bootStatusResult 0 0 result).wr F.bootStatusStatus 0 0 (bootStatusOf result)).wr
    F.bootStatusRecord 0 0 record

/-! ## The standing configuration (R578, R579) -/

/-- A record of the standing configuration; `ok` is false for one whose header is not well formed or that runs past the
part. -/
structure CfgRec where
  kind : Nat
  target : Nat
  body : List Byte
  ok : Bool
  deriving DecidableEq, Repr

/-- LEN is right for its KIND (R578). -/
def cfgLenOk (kind len : Nat) : Bool :=
  match kind with
  | 1 => decide (len = 32)
  | 2 => decide (len = 80)
  | 3 => decide (32 ≤ len) && decide (len % 16 = 0)
  | 4 => decide (32 ≤ len) && decide (len % 16 = 0)
  | 255 => decide (len = 16)
  | _ => false

/-- The records of a part's body, through END. -/
def cfgRecords : Nat → List Byte → List CfgRec
  | 0, _ => [⟨0, 0, [], false⟩]
  | n + 1, bs =>
    let kind := leAt bs 0 1
    let len := leAt bs 4 4
    if bs.length < 16 ∨ leAt bs 1 3 ≠ 0 ∨ cfgLenOk kind len = false ∨ bs.length < len then [⟨kind, 0, [], false⟩]
    else
      let r : CfgRec := ⟨kind, leAt bs 8 8, slice bs 16 (len - 16), true⟩
      if kind = 255 then [r] else r :: cfgRecords n (bs.drop len)

/-- The register words that a REG record writes. -/
def CfgRec.words (r : CfgRec) : List (Nat × Nat) :=
  match r.kind with
  | 1 => [(r.target, leAt r.body 0 8)]
  | 2 => (List.range 8).map (fun k => (r.target + 8 * k, leAt r.body (8 * k) 8))
  | _ => []

/-- The register words that a record reaches, with what it writes there. -/
def Work.cfgHits (w : Work) (r : CfgRec) : List (RegInst × Nat × Nat) :=
  r.words.flatMap (fun x => (w.targets x.1).map (fun t => (t.1, t.2, x.2)))

/-- A REG record applied. -/
def Work.cfgReg (w : Work) (keepTime : Bool) (r : CfgRec) : Work :=
  (w.cfgHits r).foldl (fun (w : Work) h => w.cfgWord keepTime h.1 h.2.1 h.2.2) w

/-- A record is valid by itself, where the earlier ones have been applied (R579). (Log entry 139, DEDUCED.) -/
def Work.cfgRecOk (w : Work) (plans : List Nat) (r : CfgRec) : Bool :=
  r.ok &&
  match r.kind with
  | 1 | 2 =>
    let hs := w.cfgHits r
    decide (r.target < 2 ^ 52) && (decide (r.kind = 2) || decide (leAt r.body 8 8 = 0)) &&
      hs.any (fun h => settable h.1 h.2.1) && hs.all (fun h => Work.cfgWordOk h.1 h.2.1 h.2.2)
  | 3 =>
    let last := r.target + r.body.length - 1
    decide (r.target % 64 = 0) && (match regionOf r.target, regionOf last with
      | .hbm, .hbm => true
      | .lpx, .lpx => true
      | _, _ => false)
  | 4 => decide (r.target < 16) && !plans.contains r.target
  | _ => decide (r.target = 0)

/-- The index of the first record that fails by itself, and a block on which every REG record has been applied. -/
def Work.cfgScan (w : Work) : Nat → List Nat → List CfgRec → Option Nat × Work
  | _, _, [] => (none, w)
  | i, plans, r :: rs =>
    if w.cfgRecOk plans r then
      Work.cfgScan (w.cfgReg false r) (i + 1) (if r.kind = 4 then r.target :: plans else plans) rs
    else (some i, w)

/-- The registers that no configuration may leave unset. -/
def cfgRequired : List Reg := [.timeTickPeriod, .timeSrc, .bootIdentity]

/-- The last record that reaches a register instance. (Log entry 139, DEDUCED.) -/
def Work.cfgLast (w : Work) (recs : List CfgRec) (ri : RegInst) : Option Nat :=
  ((List.range recs.length).filter (fun i =>
    match recs[i]? with
    | some r => (w.cfgHits r).any (fun h => decide (h.1 = ri))
    | none => false)).getLast?

/-- The check of the whole configuration: the index of the first record that fails (R579). A range that depends on another
field fails at the last record that sets the register, and a register left unset at END. (Log entry 139, DEDUCED.) -/
def Work.cfgCheck (w : Work) (recs : List CfgRec) : Option Nat :=
  match (w.cfgDefaults false).cfgScan 0 [] recs with
  | (some i, _) => some i
  | (none, x) =>
    let late := ((List.range 4).map (fun d => RegInst.mk .matchThrottle d 0) ++ [RegInst.mk .fabEmbCfg 0 0]).filterMap
      (fun ri => if x.dependOk ri then none else x.cfgLast recs ri)
    let unset := cfgRequired.any (fun q => recs.all (fun r => (x.cfgHits r).all (fun h => decide (h.1.reg ≠ q))))
    match late with
    | i :: is => some (is.foldl min i)
    | [] => if unset then some (recs.length - 1) else none

/-- The REG and MEM records applied in order (R580). (Log entry 139, DEDUCED.) -/
def Work.cfgApply (w : Work) (keepTime : Bool) (recs : List CfgRec) : Work :=
  recs.foldl (fun (w : Work) r => if r.kind = 3 then w.write r.target r.body else w.cfgReg keepTime r) w

/-! ## The unit map and the fence log (R543, R545, R559 to R561) -/

/-- The records of the fence log, up to the first erased place. -/
def Work.fenceLog (w : Work) : List Nat :=
  ((List.range fenceLogSize).map (fun i => ofBytes (w.flashRead (fenceLogBase + 32 * i) 32))).takeWhile
    (fun r => decide (r ≠ 2 ^ 256 - 1))

/-- A record whose CRC and RTYPE are right. -/
def logValid (r : Nat) : Bool :=
  decide (crc32c (toBytes 28 r) = fieldOf r 224 32) && decide (1 ≤ r % 256) && decide (r % 256 ≤ 3)

/-- A frame record applied: a retired frame's page lies in its reserve frame, a repaired one's at home again. -/
def Work.applyFrame (w : Work) (r : Nat) : Work :=
  let frame := fieldOf r 32 19
  let tier := fieldOf r 51 1
  let new := fieldOf r 64 32
  if r % 256 = 2 then
    let w1 : Work := { w with spr := { w.spr with retired := (tier, frame) :: w.spr.retired } }
    match w.pageOf tier frame with
    | some n =>
      { w1.setPage n { w.page n with frame := new } with
        spr := { w1.spr with reserveUsed := (tier * 524288 + new) :: w1.spr.reserveUsed } }
    | none => w1
  else if r % 256 = 3 then
    let n := tier * 524288 + frame
    let used := tier * 524288 + (w.page n).frame
    { w.setPage n (Page.atStart n) with
      spr := { w.spr with retired := w.spr.retired.filter (fun f => f ≠ (tier, frame)),
                          reserveUsed := w.spr.reserveUsed.filter (fun f => f ≠ used) } }
  else w

/-- Post-package repair of retired frames: which ones the memory can repair is not given (R561).
(Log entry 136, DEDUCED.) -/
def Work.repairFrames (w : Work) : Work :=
  w.spr.retired.foldl (fun (w : Work) f =>
    let (ok, w) := w.fresh 1
    if ok = 1 then
      let r := fenceRecord 3 0 (w.reserveLeft f.1).length 0 (f.2 + f.1 * 2 ^ 19) 0 w.tickNo
      ((w.applyFrame r).logFence r).bump F.errPageRepaired 0 0
    else w) w

/-- A logical unit that the log or the map leaves without a physical one. -/
def Work.markLost (w : Work) (kind die n : Nat) : Work :=
  let w1 := match kind with
    | 0 => w.setUnitSt die n { w.unitSt die n with lost := true }
    | 1 => w.setUnitSt die (96 + n) { w.unitSt die (96 + n) with lost := true }
    | 2 => w.setBank die n { w.bank die n with lost := true }
    | 3 => w.setMbank die n { w.mbank die n with lost := true }
    | 5 => { w with spr := { w.spr with mcLost := setInsert w.spr.mcLost n } }
    | 6 => w.setCodec die false { w.codec die false with out := setInsert (w.codec die false).out n }
    | 7 => w.setCodec die true { w.codec die true with out := setInsert (w.codec die true).out n }
    | _ => w
  w1.wr F.sprMapDegraded die 0 1

/-- A lane that has failed, by its physical number on a die. -/
def Work.laneLost (w : Work) (die phys : Nat) : Work :=
  let p := die * 6 + phys / 10
  let x := w.port p
  let lane := phys % 5
  if phys % 10 < 5 then w.setPort p { x with txFailed := setInsert x.txFailed lane, txSpare := true }
  else w.setPort p { x with rxFailed := setInsert x.rxFailed lane, rxSpare := true }

/-- The signed unit map applied: bindings, spares, and what has failed already (R543, R545). -/
def Work.applyMap (w : Work) (es : List Nat) : Work :=
  let kind (e : Nat) : Nat := fieldOf e 0 4
  let die (e : Nat) : Nat := fieldOf e 4 2
  let phys (e : Nat) : Nat := fieldOf e 6 11
  let st (e : Nat) : Nat := fieldOf e 17 2
  let w := es.foldl (fun (w : Work) e =>
    match st e with
    | 0 => if kind e = 4 ∨ phys e = fieldOf e 19 10 then w else w.bind (kind e) (die e) (fieldOf e 19 10) (phys e)
    | 2 => if kind e = 4 then w.laneLost (die e) (phys e) else if kind e = 6 ∨ kind e = 7 then w.markLost (kind e) (die e) (phys e)
           else w
    | _ => w) w
  [0, 1, 2, 3, 5].foldl (fun (w : Work) k =>
    ((List.range 4).filter (fun d => k ≠ 5 ∨ d = 0)).foldl (fun (w : Work) d =>
      w.setSpares k d ((es.filter (fun e => kind e = k ∧ die e = d ∧ st e = 1)).map phys)) w) w

/-- The logical unit of a kind that a physical one serves. -/
def Work.logicalOf (w : Work) (kind die phys : Nat) : Nat :=
  ((List.range (kindCount kind).2).find? (fun n => decide (w.physical kind die n = phys))).getD phys

/-- A unit record of the log applied after the signed map `es` (R545). -/
def Work.applyUnitRecord (w : Work) (es : List Nat) (r : Nat) : Work :=
  let old := fieldOf r 32 32
  let new := fieldOf r 64 32
  let kind := fieldOf old 0 4
  let die := fieldOf old 4 2
  if r % 256 ≠ 1 then w
  else if new = 0 then
    (if kind = 4 then w.laneLost die (fieldOf old 6 11) else w.markLost kind die (w.logicalOf kind die (fieldOf old 6 11)))
  else
    let phys := fieldOf new 6 11
    if es.any (fun e => fieldOf e 0 17 = fieldOf new 0 17 ∧ fieldOf e 17 2 = 1) then
      (if kind = 4 then w.laneLost die (fieldOf old 6 11)
       else (w.setSpares kind die ((w.spareList kind die).filter (fun s => s ≠ phys))).bind kind die (fieldOf new 19 10) phys)
    else w.bump F.sprLogBad 0 0

/-- The unit map of the Oxene part, one entry to each four bytes (R543, R606). -/
def Work.signedMap (w : Work) : List Nat :=
  let h := w.partHeader false
  let n := leAt h 24 4
  (chunksOf (n / 4) 4 (slice (w.partBody false) (leAt h 20 4) n)).map ofBytes

/-! ## Steps 4 to 8 (R572, R576, R580) -/

/-- Step 4: unit map and fence log, defaults and records, local memories, and what registers then show (R663). -/
def Work.startDies (w : Work) (full : Bool) (recs : List CfgRec) : Work :=
  let es := w.signedMap
  let log := w.fenceLog.filter logValid
  let w := log.foldl (fun (w : Work) r => w.applyUnitRecord es r) (w.applyMap es)
  let w := (w.wr F.sprLogRecords 0 0 log.length).wrB F.sprLogFull 0 0 (decide (fenceLogSize ≤ w.spr.logPos))
  let w : Work := { (w.cfgDefaults (!full)) with jnl := .clear windowBase 0x40000000 :: w.jnl }
  let w := (w.cfgApply (!full) recs).setPhase
  let w := ((List.range 4).flatMap (fun d => (List.range 128).map (fun b => (d, b)))).foldl (fun (w : Work) x =>
    if w.parts.any (fun p => p.2.banks.contains x) then w.wr F.matchBankCfgInPart x.1 x.2 1 else w) w
  ((w.showReserve 0).showReserve 1).atStep 5

/-- Steps 5 to 7: the cellar is initialised; Kupel ports begin training, and a master to listen; field ports and their
clocks come up (R50, R57, R126, R460). -/
def Work.startPorts (w : Work) : Work :=
  let w := (List.range 24).foldl (fun (w : Work) p =>
    if w.rd F.klPortCfgEn 0 p = 1 then w.setKl p klTraining sOk else w) w
  let w := if w.isMaster && !w.time.ticked then w.setTime (fun t => { t with listening := true }) else w
  let w := (List.range 8).foldl (fun (w : Work) p =>
    if w.rd F.fldPortEnable 0 p = 1 ∧ w.rd F.fldPortPtpEn 0 p = 1 then w.wr F.fldPtpState 0 p ptpListening else w) w
  w.atStep 8

/-- Step 8: the boot lock closes and the standing plans are loaded (R576, R580). -/
def Work.startPlans (w : Work) (recs : List CfgRec) : Work :=
  let w := (w.wr F.rstStateLocked 0 0 1).setTime (fun t => { t with sealed := true })
  let w := (List.range 16).foldl (fun (w : Work) p =>
    match recs.find? (fun r => decide (r.kind = 4) && decide (r.target = p)) with
    | none => w
    | some r =>
      match w.loadImage p r.body with
      | .inl fs => (w.countFurther .mgmt fs).event 5 (lowest fs) p
      | .inr w' => w'.setPlan p { w'.plan p with standing := true }) w
  { w with boot := { w.boot with ready := true } }

/-- Step 3: memory training with repair, the owner part, the standing configuration (R561, R572, R577, R579). Whether a
stack or channel fails its training is the memory's. (Log entry 140, DESIGN CHOICE.) -/
def Work.startMemory (w : Work) (full : Bool) : Work :=
  let w := w.atStep 3
  let log := w.fenceLog
  let w : Work := { w with spr := { w.spr with logPos := log.length } }
  let (bad, w) := w.fresh 1
  if bad = 1 then w.stopStart 3 5 0
  else
    let w := (log.filter logValid).foldl Work.applyFrame w
    let w := if w.boot.repair then w.repairFrames else w
    let own := w.ownership (w.rdB F.secStatusIdOk 0 0)
    let root : Option (List Byte) := own.map (fun (x : Nat × List Byte) => x.2)
    let w := (w.wrB F.secStatusOwned 0 0 own.isSome).wr F.secStatusOwnerSerial 0 0
      ((own.map (fun (x : Nat × List Byte) => x.1)).getD 0)
    let w : Work := { w with sec := { w.sec with ownerRoot := root.getD [] } }
    let r := w.partResult true root
    let room := decide (ceilDiv (hdrSize (w.partHeader true)) 0x200000 ≤ (w.reserveLeft 0).length)
    if r = 1 then w.stopStart 3 1 0
    else if room = false then w.stopStart 3 6 0
    else if r ≠ 0 then w.stopStart 3 r 0
    else
      let body := w.partBody true
      let recs := cfgRecords (body.length / 16 + 1) body
      match w.cfgCheck recs with
      | some i => w.stopStart 3 4 i
      | none =>
        let w : Work := { w with sec := { w.sec with ownerMeas := w.partMeasure true } }
        (((w.atStep 4).startDies full recs).startPorts).startPlans recs

/-- The start sequence (R572): identity and the Oxene part, then memory and the rest. (Log entry 25, DESIGN CHOICE.) -/
def Work.start (w : Work) (full : Bool) : Work :=
  let w := if full then w.wrB F.secStatusIdOk 0 0 w.idMatches else w
  let w := w.atStep 2
  let r := w.partResult false none
  if r ≠ 0 then w.stopStart 2 r 0
  else
    let w := w.wr F.secStatusVintage 0 0 (leAt (w.partHeader false) 8 4)
    let w : Work := { w with sec := { w.sec with oxeneMeas := w.partMeasure false },
                             boot := { w.boot with kicked := w.now } }
    w.startMemory full

/-- A reset for a cause, and the start that follows (R565, R568, R574). (Log entry 25, DESIGN CHOICE.) -/
def Work.reset (w : Work) (full : Bool) (cause : Nat) : Work :=
  (w.holdReset full cause).start full

/-! ## Reset sources (R565, R567) -/

/-- Codes of R565. -/
abbrev rstPor : Nat := 1
/-- BOR. -/
abbrev rstBor : Nat := 2
/-- PIN. -/
abbrev rstPin : Nat := 3
/-- WDOG. -/
abbrev rstWdog : Nat := 4
/-- SW. -/
abbrev rstSw : Nat := 5
/-- DBG. -/
abbrev rstDbg : Nat := 6
/-- CLKFAIL. -/
abbrev rstClkfail : Nat := 7
/-- LOCKUP. -/
abbrev rstLockup : Nat := 8

/-- The logic of the module has its supplies: it has not tripped, and no brown-out holds it.
(Log entry 141, DESIGN CHOICE.) -/
def Work.powered (w : Work) : Bool := w.modl.hotSwap && !w.modl.tripped && !w.modl.borHeld

/-- A reset while the module has its supplies. -/
def Work.resetIf (w : Work) (full : Bool) (cause : Nat) : Work := if w.powered then w.reset full cause else w

/-- POR (R565): VAUX and V3P3 have risen with PWR_EN asserted; the fault latch is loaded. -/
def execPor (s : State) : Out :=
  s.perform .por (fun w =>
    let w : Work := { w with modl := { w.modl with pwrEn := true, hotSwap := true, borHeld := false, borSeen := false,
                                                   tripped := false, rails := setInsert (setInsert w.modl.rails 9) 10 } }
    let w := ((w.wr F.pwrStatusLastTrip 0 0 w.modl.latch.1).wr F.pwrStatusTripRail 0 0 w.modl.latch.2).wrB
      F.pwrStatusTripValid 0 0 (decide (w.modl.latch.1 ≠ 0))
    w.reset true rstPor)

/-- PIN (R567): a pulse below 2 us is ignored, one of 10 us or more resets, and between the two either happens. -/
def execPin (lowNs : Nat) (s : State) : Out :=
  s.perform (.pin lowNs) (fun w =>
    if lowNs < 2000 then w
    else if 10000 ≤ lowNs then w.resetIf true rstPin
    else
      let (x, w) := w.fresh 1
      if x = 1 then w.resetIf true rstPin else w)

/-- WDOG (R565). -/
def execWdog (s : State) : Out := s.perform .wdog (fun w => w.resetIf false rstWdog)

/-- DBG (R565). (Log entry 156, DEDUCED.) -/
def execDbg (s : State) : Out := s.perform .dbg (fun w => w.resetIf false rstDbg)

/-- LOCKUP (R565): a reset while the boot lock is open, and a fence of the core afterwards (R555).
(Log entry 140, DESIGN CHOICE.) -/
def execLockup (mc : Nat) (s : State) : Out :=
  s.perform (.lockup mc) (fun w =>
    if !w.mcServes mc then w
    else if w.rdB F.rstStateLocked 0 0 then w.fenceMc mc 4
    else w.resetIf false rstLockup)

/-- CLOCK_LOSS (R64): a recovered port clock takes only its port down, any other clock resets the engine. -/
def execClockLoss (clk : Clk) (s : State) : Out :=
  s.perform (.clockLoss clk) (fun w =>
    match clk with
    | .kupelPort p => if w.klState p = klDown then w else w.portDown p
    | .fieldPort p => w.fieldLink p false .absent
    | _ => w.resetIf true rstClkfail)

/-! ## Device states (R570, R571, R583) -/

/-- Whether the present state admits a request: 1 REST, 2 WAKE, 3 SHARED, 4 RUN (R570, R583). -/
def Work.reqAdmitted (w : Work) (n : Nat) : Bool :=
  let st := w.devState
  match n with
  | 1 => decide (st = stShared) || decide (st = stRunning) || decide (st = stDegraded)
  | 2 => decide (st = stRest) && !w.boot.detached
  | 3 => decide (st = stRunning)
  | 4 => decide (st = stShared)
  | _ => false

/-- RST_CTL.REQ: the request takes effect at the next tick, or completes with STATE_REJECT. (Log entry 143, DEDUCED.) -/
def Work.requestState (w : Work) (n : Nat) : Nat × Work :=
  if w.reqAdmitted n then
    let code := match n with
      | 1 => 3
      | 2 => 4
      | 3 => 1
      | _ => 2
    (sOk, { w.wr F.rstCtlLastStatus 0 0 sOk with boot := { w.boot with req := code } })
  else (sState, w.wr F.rstCtlLastStatus 0 0 sState)

/-- A write to RST_CTL: an undefined REQ is refused as a whole (R565, R570, R673). -/
def Work.rstCtlWrite (w : Work) (v : Nat) : Nat × Work :=
  let n := fieldOf v 0 3
  if 4 < n then (sRange, w)
  else
    let (st, w) := if n = 0 then (sOk, w) else w.requestState n
    if bitOf v 16 && decide (fieldOf v 8 8 = 0xA5) then (st, w.resetIf false rstSw) else (st, w)

/-- SW (R565): a write to RST_CTL; without SW_RESET and its key it resets nothing. -/
def execSw (by_ : Requester) (value : BitVec 64) (s : State) : Out :=
  s.perform (.sw by_ value) (fun w => (w.rstCtlWrite value.toNat).2)

/-- REST (R570). -/
def execRest (s : State) : Out := s.perform .rest (fun w => (w.requestState 1).2)
/-- SHARED (R570). -/
def execShared (s : State) : Out := s.perform .shared (fun w => (w.requestState 3).2)
/-- RUN (R570). -/
def execRun (s : State) : Out := s.perform .run (fun w => (w.requestState 4).2)

/-- WAKE (R583, R603): the request, or a source that the wake mask names. -/
def execWake (bySource : Option Nat) (s : State) : Out :=
  s.perform (.wake bySource) (fun w =>
    match bySource with
    | none => (w.requestState 2).2
    | some s =>
      let named := (List.range 32).any (fun k => w.rd (F.evtWakeMaskEn k) 0 0 = 1 ∧ w.rd (F.evtWakeMaskSource k) 0 0 = s)
      if w.devState = stRest ∧ named = true ∧ w.boot.detached = false then { w with evt := { w.evt with wake := some s } } else w)

/-- The SHARED count falls by one; at zero the device becomes RUNNING (R571). (Log entry 143, DEDUCED.) -/
def Work.sharedTick (w : Work) : Work :=
  let n := w.dv F.rstStateSharedLeft
  if w.devState ≠ stShared ∨ n = 0 then w
  else
    let w := w.wr F.rstStateSharedLeft 0 0 (n - 1)
    if n = 1 then w.setDevState stRunning else w

/-- SHARED_COUNT_EXPIRE (R571): the last epoch of the count. -/
def execSharedCountExpire (s : State) : Out :=
  s.perform .sharedCountExpire (fun w => if w.dv F.rstStateSharedLeft = 1 then w.sharedTick else w)

/-! ## Unit resets (R581, R582) -/

/-- What the reset of a unit clears. (Log entries 44, DEDUCED; 144, DEDUCED.) -/
def Work.unitClear (w : Work) (d u : Nat) : Work :=
  if u < 96 then w.setCore d u { Core.atReset with halted := (w.core d u).halted }
  else
    let m := u - 96
    let x := w.me d m
    let w := w.setMe d m { Me.atReset with book := x.book, bookBad := x.bookBad, gen := x.gen, seed := x.seed,
                                           sent := x.sent, got := x.got, granted := x.granted }
    let w := (w.wr F.meStatusAcc0 d m 0).wr F.meStatusAcc1 d m 0
    (Reg.fields .meCfg).foldl (fun (w : Work) f => w.wr f.fld d m f.fld.rst) w

/-- A write to RST_UNIT_REQ (R581): a reserved KIND or a LOGICAL out of range is refused and recorded whatever GO is (R673).
(Log entry 144, DEDUCED.) -/
def Work.unitReqWrite (w : Work) (v : Nat) : Nat × Work :=
  let kind := fieldOf v 0 4
  let d := fieldOf v 4 2
  let n := fieldOf v 6 7
  if 1 < kind ∨ (if kind = 0 then 96 else 24) ≤ n then (sRange, w.wr F.rstUnitStatLastStatus 0 0 sRange)
  else if !bitOf v 16 then (sOk, w)
  else
    let u := if kind = 0 then n else 96 + n
    if w.unitIdle d u then
      let w := (w.unslot d u).unitClear d u
      (sOk, { w.wr F.rstUnitStatLastStatus 0 0 sOk with boot := { w.boot with units := setInsert w.boot.units (d * 120 + u) } })
    else (sState, (w.wr F.rstUnitStatLastStatus 0 0 sState).bump F.rstUnitStatRejects 0 0)

/-- UNIT_RESET (R581). -/
def execUnitReset (by_ : Requester) (value : BitVec 64) (s : State) : Out :=
  s.perform (.unitReset by_ value) (fun w => (w.unitReqWrite value.toNat).2)

/-- UNIT_RESET_DONE (R582): after 1 us the unit takes tasks again. (Log entry 144, DEDUCED.) -/
def execUnitResetDone (die unit : Nat) (s : State) : Out :=
  s.perform (.unitResetDone die unit) (fun w =>
    if w.boot.units.contains (die * 120 + unit) then
      ({ w with boot := { w.boot with units := w.boot.units.filter (fun u => u ≠ die * 120 + unit) } }.bump
        F.rstUnitStatDone 0 0).refresh die
    else w)

/-! ## The watchdog -/

/-- A write to RST_WDOG: KICK restarts the period. -/
def Work.wdogWrite (w : Work) (v : Nat) : Nat × Work :=
  let (st, w) := w.writeFields ⟨.rstWdog, 0, 0⟩ 0 v
  if st = sOk ∧ bitOf v 16 = true then (st, { w with boot := { w.boot with kicked := w.now } }) else (st, w)

/-- KICK (R565). -/
def execKick (by_ : Requester) (value : BitVec 64) (s : State) : Out :=
  s.perform (.kick by_ value) (fun w => (w.wdogWrite value.toNat).2)

end Sys2Proof.Machine
end

