-- ==== Sys2Proof/Machine/Ingest.lean ====
section
/-! DEFINITION. Table ingest: ingest records, ARROW_CHECK, and PARQUET_DECODE with its page headers, levels, encodings
and conversions (chapter 15). A call is one command: the decanter jobs of its pages are performed within it. -/

namespace Sys2Proof.Machine

/-! ## Records (R431, R435) -/

/-- An ingest record (R431). -/
structure IngRec where
  op : Nat
  inp : Nat
  aux : Nat
  sel : Nat
  out : Nat
  arg1 : Nat
  stats : Nat
  reservedZero : Bool
  deriving DecidableEq, Repr

/-- The fields of R431. -/
def IngRec.ofRec (r : Rec) : IngRec :=
  { op := recF r 7 0, inp := recF r 47 32, aux := recF r 63 48, sel := recF r 79 64, out := recF r 95 80,
    arg1 := recF r 223 160, stats := recF r 339 288,
    reservedZero := recZero r [(31, 8), (159, 96), (287, 224), (511, 340)] }

/-- The operator record that gives the shared operations their SEL and statistics. -/
def IngRec.asOp (o : IngRec) : OpRec :=
  { op := o.op, mode := 0, ncol := 0, inp := o.inp, aux := o.aux, sel := o.sel, out := o.out, outValid := noHandle,
    out2 := noHandle, arg0 := 0, arg1 := o.arg1, arg2 := 0, stats := o.stats, reservedZero := o.reservedZero }

/-- A chunk record (R435). -/
structure ChunkRec where
  chunk : Nat
  ptype : Nat
  codec : Nat
  maxDef : Nat
  maxRep : Nat
  listDef : Nat
  verify : Bool
  scale : Nat
  target : Option ETy
  flba : Nat
  rows : Nat
  reservedZero : Bool
  deriving DecidableEq, Repr

/-- The fields of R435. -/
def ChunkRec.ofRec (r : Rec) : ChunkRec :=
  { chunk := recF r 15 0, ptype := recF r 18 16, codec := recF r 21 19, maxDef := recF r 23 22, maxRep := recF r 24 24,
    listDef := recF r 26 25, verify := recB r 27, scale := recF r 29 28, target := ETy.ofCode (recF r 36 32),
    flba := recF r 63 48, rows := recF r 127 64, reservedZero := recZero r [(31, 30), (47, 37), (511, 192)] }

/-- The targets that R436 permits for a physical type. -/
def ChunkRec.targets (c : ChunkRec) : List ETy :=
  match c.ptype with
  | 0 => [.bitmap]
  | 1 => [.int8, .int16, .int32, .int64, .uint8, .uint32, .dict32]
  | 2 => [.int8, .int16, .int32, .int64, .uint32, .ts64, .dict32]
  | 4 => [.fp32, .fp16, .bf16, .dict32]
  | 5 => [.fp64, .fp32, .dict32]
  | 6 => [.varbin, .dict32]
  | 7 => if c.flba = 2 then [.varbin, .fp16] else [.varbin]
  | _ => []

/-- The type of a dictionary's values in a DICT32 target (R436). -/
def ChunkRec.natural (c : ChunkRec) : ETy :=
  match c.ptype with
  | 1 => .int32
  | 2 => .int64
  | 4 => .fp32
  | 5 => .fp64
  | _ => .varbin

/-- A chunk record agrees with itself (R435). -/
def ChunkRec.ok (c : ChunkRec) : Bool :=
  c.reservedZero && decide (c.codec ∈ [0, 2, 6, 7]) && decide (c.listDef ≤ 1) &&
  (decide (c.maxRep = 0) || decide (c.listDef + 1 ≤ c.maxDef)) &&
  (if c.ptype = 7 then decide (1 ≤ c.flba) else decide (c.flba = 0)) &&
  (decide (c.scale = 0) || (decide (c.scale < 3) && decide (c.ptype = 2) && decide (c.target = some .ts64))) &&
  (match c.target with
  | some t => c.targets.contains t
  | none => false)

/-! ## Page headers: the Thrift compact protocol (R438) -/

/-- What a compact-protocol reader is inside of: a structure (its path and the last field id), the elements of a list
or a set, or the pairs of a map. -/
inductive TFrame where
  | fields (path last : Nat)
  | elems (ty n : Nat)
  | pairs (k v n : Nat) (value : Bool)
  deriving DecidableEq, Repr

/-- An unsigned varint. -/
def Dec.varint : Nat → Nat → Nat → Dec → Nat × Dec
  | 0, _, acc, s => (acc, s.halt rMalformed)
  | fuel + 1, sh, acc, s =>
    let (b, s) := s.byte
    let acc := acc + b % 128 * 2 ^ sh
    if !s.live ∨ b < 128 then (acc, s) else Dec.varint fuel (sh + 7) acc s

/-- An unsigned varint of up to ten bytes. -/
def Dec.uvar (s : Dec) : Nat × Dec := Dec.varint 10 0 0 s

/-- A signed value in zigzag form. -/
def Dec.zigzag (s : Dec) : Int × Dec :=
  let (x, s) := s.uvar
  (if x % 2 = 0 then (x / 2 : Nat) else -((x / 2 : Nat) : Int) - 1, s)

/-- Bytes skipped. -/
def Dec.skip (s : Dec) (n : Nat) : Dec :=
  if s.inp.length < n then { s with inp := [] }.halt rTruncated else { s with inp := s.inp.drop n }

/-- A value of a compact type read or entered. A field's number is recorded under its path. -/
def Dec.thValue (s : Dec) (stack : List TFrame) (got : List (Nat × Int)) (key : Option Nat) (ty : Nat) :
    List TFrame × List (Nat × Int) × Dec :=
  let put (v : Int) : List (Nat × Int) := match key with
    | some k => got ++ [(k, v)]
    | none => got
  match ty with
  | 1 | 2 => if key.isSome then (stack, put (if ty = 1 then 1 else 0), s)
             else (stack, got, s.skip 1)
  | 3 => (stack, put s.byte.1, s.byte.2)
  | 4 | 5 | 6 => (stack, put s.zigzag.1, s.zigzag.2)
  | 7 => (stack, got, s.skip 8)
  | 8 =>
    let (n, s) := s.uvar
    (stack, got, s.skip n)
  | 9 | 10 =>
    let (h, s) := s.byte
    let (n, s) := if h / 16 = 15 then s.uvar else (h / 16, s)
    (.elems (h % 16) n :: stack, got, s)
  | 11 =>
    let (n, s) := s.uvar
    if n = 0 then (stack, got, s)
    else
      let (kv, s) := s.byte
      (.pairs (kv / 16) (kv % 16) n false :: stack, got, s)
  | 12 => (.fields (key.getD 9999) 0 :: stack, got, s)
  | 13 => (stack, got, s.skip 16)
  | _ => (stack, got, s.halt rMalformed)

/-- The fields of a structure, by path x 100 + id. -/
def Dec.thrift : Nat → List TFrame → List (Nat × Int) → Dec → List (Nat × Int) × Dec
  | 0, _, got, s => (got, s.halt rMalformed)
  | fuel + 1, stack, got, s =>
    if !s.live then (got, s)
    else match stack with
    | [] => (got, s)
    | .fields path last :: rest =>
      let (b, s) := s.byte
      if !s.live then (got, s)
      else if b = 0 then Dec.thrift fuel rest got s
      else
        let (id_, s) := if b / 16 = 0 then (let z := s.zigzag; (z.1.toNat, z.2)) else (last + b / 16, s)
        let (stack, got, s) := s.thValue (.fields path id_ :: rest) got (some (path * 100 + id_)) (b % 16)
        Dec.thrift fuel stack got s
    | .elems ty n :: rest =>
      if n = 0 then Dec.thrift fuel rest got s
      else
        let (stack, got, s) := s.thValue (.elems ty (n - 1) :: rest) got none ty
        Dec.thrift fuel stack got s
    | .pairs k v n value :: rest =>
      if n = 0 then Dec.thrift fuel rest got s
      else
        let top : TFrame := if value then .pairs k v (n - 1) false else .pairs k v n true
        let (stack, got, s) := s.thValue (top :: rest) got none (if value then v else k)
        Dec.thrift fuel stack got s

/-- A page header: the fields of the Parquet PageHeader that decoding needs. -/
structure PageHdr where
  ty : Int
  usize : Int
  csize : Int
  crc : Option Int
  len : Nat
  fields : List (Nat × Int)
  deriving DecidableEq, Repr

/-- A field of a page header. -/
def PageHdr.get (h : PageHdr) (k : Nat) : Option Int := (h.fields.find? (fun f => f.1 = k)).map (·.2)

/-- The page header at the front of bytes, or the reason why it cannot be parsed (R446). (Log entry 88, PRESUMED.) -/
def pageHeader (bs : List Byte) : PageHdr ⊕ Nat :=
  let (fs, s) := Dec.thrift (4 * bs.length + 8) [.fields 0 0] [] (Dec.start bs 0 0 none)
  let g (k : Nat) : Option Int := (fs.find? (fun f => f.1 = k)).map (·.2)
  match s.stop with
  | some (_, r) => .inr r
  | none =>
    match g 1, g 2, g 3 with
    | some t, some u, some c =>
      if u < 0 ∨ c < 0 then .inr rMalformed else .inl ⟨t, u, c, g 4, bs.length - s.inp.length, fs⟩
    | _, _, _ => .inr rMalformed

/-- The paths of the header's structures: data page 5, dictionary page 7, data page of version 2 8. -/
def PageHdr.num (h : PageHdr) (path id_ : Nat) : Nat := ((h.get (path * 100 + id_)).getD 0).toNat

/-! ## Encodings (R437, R439) -/

/-- n values of w bits from bytes, the lowest bit first. -/
def bitPacked (w n : Nat) (bs : List Byte) : List Nat :=
  let v := ofBytes bs
  (List.range n).map (fun i => fieldOf v (i * w) w)

/-- The RLE and bit-packed hybrid: n values, and the bytes left; none where the bytes run out.
(Log entry 88, PRESUMED.) -/
def hybrid (w : Nat) : Nat → Nat → List Nat → List Byte → Option (List Nat × List Byte)
  | 0, _, _, _ => none
  | fuel + 1, n, acc, bs =>
    if n ≤ acc.length then some (acc.take n, bs)
    else
      let (h, s) := (Dec.start bs 0 0 none).uvar
      if !s.live then none
      else if h % 2 = 1 then
        let k := h / 2 * w
        if s.inp.length < k then none
        else hybrid w fuel n (acc ++ (bitPacked w (h / 2 * 8) (s.inp.take k)).take (n - acc.length)) (s.inp.drop k)
      else
        let k := (w + 7) / 8
        if s.inp.length < k then none
        else
          let v := ofBytes (s.inp.take k)
          if 2 ^ w ≤ v then none
          else hybrid w fuel n (acc ++ List.replicate (min (h / 2) (n - acc.length)) v) (s.inp.drop k)

/-- n values of the hybrid. -/
def hybridOf (w n : Nat) (bs : List Byte) : Option (List Nat × List Byte) := hybrid w (bs.length + n + 1) n [] bs

/-- A decoded value: fixed-width bits, or bytes. -/
inductive PVal where
  | raw (x : Nat)
  | str (b : List Byte)
  deriving DecidableEq, Repr

/-- n byte arrays with their lengths before them. -/
def plainArrays : Nat → List Byte → Option (List PVal × List Byte)
  | 0, bs => some ([], bs)
  | n + 1, bs =>
    let len := leAt bs 0 4
    if bs.length < 4 + len then none
    else (plainArrays n (bs.drop (4 + len))).map (fun p => (.str ((bs.drop 4).take len) :: p.1, p.2))

/-- n values of a fixed number of bytes. -/
def plainFixed (k n : Nat) (bs : List Byte) : List (List Byte) := (List.range n).map (fun i => (bs.drop (i * k)).take k)

/-- PLAIN values of a physical type; the failure is the page's reason (R437, R446). (Log entry 88, PRESUMED.) -/
def plainValues (c : ChunkRec) (n : Nat) (bs : List Byte) : List PVal ⊕ Nat :=
  let fixed (k : Nat) (f : List Byte → PVal) : List PVal ⊕ Nat :=
    if bs.length = n * k then .inl ((plainFixed k n bs).map f) else .inr rSize
  match c.ptype with
  | 0 => if bs.length = (n + 7) / 8 then .inl ((bitPacked 1 n bs).map .raw) else .inr rSize
  | 1 | 4 => fixed 4 (fun b => .raw (ofBytes b))
  | 2 | 5 => fixed 8 (fun b => .raw (ofBytes b))
  | 6 =>
    (match plainArrays n bs with
    | some (vs, []) => .inl vs
    | some _ => .inr rSize
    | none => .inr rMalformed)
  | _ => fixed c.flba .str

/-- The miniblocks of a delta block: values after `v`, until n are there. -/
def deltaMinis (per bits : Nat) (min_ : Int) (n : Nat) : List Nat → Nat → List Nat → List Byte →
    Option (Nat × List Nat × List Byte)
  | [], v, acc, bs => some (v, acc, bs)
  | w :: ws, v, acc, bs =>
    if n ≤ acc.length then some (v, acc, bs)
    else if bits < w ∨ bs.length < per * w / 8 then none
    else
      let ds := (bitPacked w per (bs.take (per * w / 8))).take (n - acc.length)
      let (v, acc) := ds.foldl (fun (p : Nat × List Nat) (d : Nat) =>
        let x := wrapTo bits ((p.1 : Int) + min_ + d)
        (x, x :: p.2)) (v, acc)
      deltaMinis per bits min_ n ws v acc (bs.drop (per * w / 8))

/-- The blocks of DELTA_BINARY_PACKED; values are kept newest first. -/
def deltaBlocks (per minis bits n : Nat) : Nat → Nat → List Nat → List Byte → Option (List Nat × List Byte)
  | 0, _, _, _ => none
  | fuel + 1, v, acc, bs =>
    if n ≤ acc.length then some (acc.reverse, bs)
    else
      let (m, s) := (Dec.start bs 0 0 none).zigzag
      let ws := (s.inp.take minis).map (·.toNat)
      if !s.live ∨ s.inp.length < minis then none
      else
        match deltaMinis per bits m n ws v acc (s.inp.drop minis) with
        | none => none
        | some (v, acc, bs) => deltaBlocks per minis bits n fuel v acc bs

/-- DELTA_BINARY_PACKED values of 32 or 64 bits. (Log entry 88, PRESUMED.) -/
def deltaValues (bits n : Nat) (bs : List Byte) : List PVal ⊕ Nat :=
  let (block, s) := (Dec.start bs 0 0 none).uvar
  let (minis, s) := s.uvar
  let (total, s) := s.uvar
  let (first, s) := s.zigzag
  if !s.live ∨ minis = 0 ∨ block % 128 ≠ 0 ∨ block = 0 ∨ block % minis ≠ 0 ∨ block / minis % 32 ≠ 0 then .inr rMalformed
  else if total ≠ n then .inr rSize
  else
    let v := wrapTo bits first
    match deltaBlocks (block / minis) minis bits n (n + 2) v (if n = 0 then [] else [v]) s.inp with
    | some (vs, []) => .inl (vs.map .raw)
    | some _ => .inr rSize
    | none => .inr rMalformed

/-! ## Pages -/

/-- The bits of a level whose maximum is m. -/
def levelBits (m : Nat) : Nat := if m = 0 then 0 else Nat.log2 m + 1

/-- n levels up to a maximum from a version 1 page, with their length before them; and the bytes after them (R439).
(Log entry 88, PRESUMED.) -/
def levelsV1 (m n : Nat) (bs : List Byte) : Option (List Nat × List Byte) :=
  if m = 0 then some (List.replicate n 0, bs)
  else
    let len := leAt bs 0 4
    if bs.length < 4 + len then none
    else
      match hybridOf (levelBits m) n ((bs.drop 4).take len) with
      | some (ls, _) => if ls.all (fun l => decide (l ≤ m)) then some (ls, bs.drop (4 + len)) else none
      | none => none

/-- n levels of a version 2 page from their own bytes. (Log entry 88, PRESUMED.) -/
def levelsV2 (m n : Nat) (bs : List Byte) : Option (List Nat) :=
  if m = 0 then some (List.replicate n 0)
  else
    match hybridOf (levelBits m) n bs with
    | some (ls, _) => if ls.all (fun l => decide (l ≤ m)) then some ls else none
    | none => none

/-- A decoded row: rejected for a reason, or null, or with its values; a value may be null, and may be a bad dictionary
index. -/
structure PRow where
  rej : Nat
  null : Bool
  vals : List (Option PVal)
  deriving DecidableEq, Repr

/-- A row of a rejected page (R448). -/
def PRow.rejected (reason : Nat) : PRow := ⟨reason, true, []⟩

/-- The rows that levels and values make (R439); `bad` marks a value that is a dictionary index out of range. -/
def levelRows (c : ChunkRec) : List (Nat × Nat) → List (PVal × Bool) → List PRow → List PRow
  | [], _, acc => acc.reverse
  | (r, d) :: ls, vs, acc =>
    let (v, bad, vs) : Option PVal × Bool × List (PVal × Bool) :=
      if d = c.maxDef then (match vs with
        | (v, b) :: rest => (some v, b, rest)
        | [] => (none, false, []))
      else (none, false, vs)
    let fresh : PRow :=
      if c.maxRep = 0 then ⟨if bad then 6 else 0, decide (d ≠ c.maxDef), [v]⟩
      else if d < c.listDef then ⟨0, true, []⟩
      else if d = c.listDef then ⟨0, false, []⟩
      else ⟨if bad then 6 else 0, false, [v]⟩
    if r = 0 then levelRows c ls vs (fresh :: acc)
    else
      match acc with
      | x :: xs => levelRows c ls vs ({ x with rej := if bad then 6 else x.rej, vals := x.vals ++ fresh.vals } :: xs)
      | [] => levelRows c ls vs [fresh]

/-- The values of a data page by its encoding, each with the mark of a bad dictionary index (R437, R446). -/
def pageValues (c : ChunkRec) (dict : Option (List PVal)) (enc n : Nat) (bs : List Byte) : List (PVal × Bool) ⊕ Nat :=
  let good (x : List PVal ⊕ Nat) : List (PVal × Bool) ⊕ Nat := match x with
    | .inl vs => .inl (vs.map (fun v => (v, false)))
    | .inr r => .inr r
  let isDict := decide (c.target = some .dict32)
  match enc with
  | 0 => if isDict then .inr 9 else good (plainValues c n bs)
  | 3 =>
    if c.ptype ≠ 0 then .inr rUnsupported
    else if bs.length < 4 then .inr rMalformed
    else
      (match hybridOf 1 n (bs.drop 4) with
      | some (vs, _) => if leAt bs 0 4 + 4 = bs.length then .inl (vs.map (fun v => (.raw v, false))) else .inr rSize
      | none => .inr rMalformed)
  | 5 =>
    if c.ptype ≠ 1 ∧ c.ptype ≠ 2 then .inr rUnsupported
    else if isDict then .inr 9
    else good (deltaValues (if c.ptype = 1 then 32 else 64) n bs)
  | 8 =>
    if c.ptype = 0 then .inr rUnsupported
    else
      (match dict with
      | none => .inr 7
      | some vs =>
        let w := leAt bs 0 1
        if bs.isEmpty ∧ n = 0 then .inl []
        else if bs.isEmpty ∨ 32 < w then .inr rMalformed
        else
          match hybridOf w n (bs.drop 1) with
          | some (is, _) => .inl (is.map (fun i =>
              (if isDict then .raw i else getAt (.raw 0) vs i, decide (vs.length ≤ i))))
          | none => .inr rMalformed)
  | _ => .inr rUnsupported

/-- A decanter job of a page: its bytes without the codec, or the page's reason; its failures are counted like those of
any job (R440). A status with no code among the reasons is 0, other. -/
def Work.pageJob (w : Work) (die codec : Nat) (decl : Nat) (bs : List Byte) : (List Byte ⊕ Nat) × Work :=
  if codec = 0 then (if bs.length = decl then .inl bs else .inr rSize, w)
  else if decl = 0 then (.inl [], w)
  else if (w.codec die false).out.length = laneCount false then (.inr 0, w.countJob die false [sNoSpare])
  else
    let fmt := if codec = 2 then 1 else if codec = 6 then 2 else 3
    let s := decodeBytes fmt bs decl (w.dv F.decRatioLimitLimit) decl none
    match s.stop with
    | none => (.inl s.out.reverse, w.countJob die false [])
    | some (fs, r) => (.inr (if lowest fs = sCheck then r else 0), w.countJob die false fs)

/-- The CRC-32 of a page body where it is to be verified and the header carries it (R441): whether it matches, and
whether it was missing. -/
def pageCrc (c : ChunkRec) (h : PageHdr) (body : List Byte) : Bool × Bool :=
  if !c.verify then (true, false)
  else match h.crc with
    | none => (true, true)
    | some x => (decide (wrapTo 32 x = crc32 body), false)

/-- A data page decoded: its rows, or its reason. -/
def Work.dataPage (w : Work) (die : Nat) (c : ChunkRec) (dict : Option (List PVal)) (h : PageHdr) (body : List Byte) :
    (List PRow ⊕ Nat) × Work :=
  let finish (reps defs : List Nat) (enc : Nat) (rest : List Byte) (rows nulls : Option Nat) : List PRow ⊕ Nat :=
    let n := (defs.filter (· = c.maxDef)).length
    if nulls.any (fun k => defs.length ≠ n + k) then .inr rSize
    else if reps.head?.getD 0 ≠ 0 then .inr rMalformed
    else
      match pageValues c dict enc n rest with
      | .inl vs =>
        let rs := levelRows c (reps.zip defs) vs []
        if rows.any (fun k => rs.length ≠ k) then .inr rSize else .inl rs
      | .inr r => .inr r
  if h.ty = 0 then
    let n := h.num 5 1
    if (c.maxDef ≠ 0 ∧ h.num 5 3 ≠ 3) ∨ (c.maxRep ≠ 0 ∧ h.num 5 4 ≠ 3) then (.inr rUnsupported, w)
    else
      match w.pageJob die c.codec h.usize.toNat body with
      | (.inr r, w) => (.inr r, w)
      | (.inl bs, w) =>
        (match levelsV1 c.maxRep n bs with
        | none => .inr rMalformed
        | some (reps, bs) =>
          match levelsV1 c.maxDef n bs with
          | none => .inr rMalformed
          | some (defs, bs) => finish reps defs (h.num 5 2) bs none none, w)
  else
    let n := h.num 8 1
    let dl := h.num 8 5
    let rl := h.num 8 6
    let comp := decide ((h.get 807).getD 1 = 1)
    if body.length < dl + rl ∨ h.usize.toNat < dl + rl then (.inr rMalformed, w)
    else
      match w.pageJob die (if comp then c.codec else 0) (h.usize.toNat - dl - rl) (body.drop (dl + rl)) with
      | (.inr r, w) => (.inr r, w)
      | (.inl bs, w) =>
        (match levelsV2 c.maxRep n (body.take rl), levelsV2 c.maxDef n ((body.drop rl).take dl) with
        | some reps, some defs => finish reps defs (h.num 8 4) bs (some (h.num 8 3)) (some (h.num 8 2))
        | _, _ => .inr rMalformed, w)

/-- The rows of a page as its header gives them (R447). -/
def PageHdr.rows (h : PageHdr) (c : ChunkRec) : Option Nat :=
  if h.ty = 3 then some (h.num 8 3) else if c.maxRep = 0 then some (h.num 5 1) else none

/-! ## A chunk -/

/-- A call under way over a chunk: rows made (newest page first), pages decoded and rejected, pages without a CRC, and
whether the first page was too long. -/
structure PAcc where
  w : Work
  rows : List PRow := []
  made : Nat := 0
  pages : Nat := 0
  bad : Nat := 0
  noCrc : Nat := 0
  bytes : Nat := 0
  next : Option Nat := none
  tooLong : Bool := false

/-- Rows appended. -/
def PAcc.add (a : PAcc) (rs : List PRow) : PAcc := { a with rows := a.rows ++ rs, made := a.made + rs.length }

/-- The rest of the chunk rejected: every remaining row up to ROWS, in the range of the call (R447). -/
def PAcc.rest (a : PAcc) (c : ChunkRec) (p0 count reason : Nat) : PAcc :=
  a.add (List.replicate (min (c.rows - p0 - a.made) (count - a.made)) (PRow.rejected reason))

/-- Pages from a byte offset on (R443, R446, R447). (Log entry 90, DEDUCED.) -/
def PAcc.walk (die : Nat) (c : ChunkRec) (dict : Option (List PVal)) (chunk : List Byte) (p0 count : Nat) :
    Nat → Nat → PAcc → PAcc
  | 0, _, a => a
  | fuel + 1, pos, a =>
    let bs := chunk.drop pos
    if bs.isEmpty then a.rest c p0 count rSize
    else
      match pageHeader bs with
      | .inr r => { a.rest c p0 count r with bad := a.bad + 1 }
      | .inl h =>
        let after := pos + h.len + h.csize.toNat
        let body := (bs.drop h.len).take h.csize.toNat
        if body.length < h.csize.toNat then { a.rest c p0 count rTruncated with bad := a.bad + 1 }
        else if h.ty = 1 ∨ (h.ty = 2 ∧ pos = 0) then PAcc.walk die c dict chunk p0 count fuel after a
        else if h.ty ≠ 0 ∧ h.ty ≠ 3 then
          { a.rest c p0 count (if h.ty = 2 then rMalformed else rUnsupported) with bad := a.bad + 1 }
        else
          let known := h.rows c
          if known.any (fun n => decide (count < a.made + n)) then
            { a with next := some pos, tooLong := decide (a.pages + a.bad = 0) }
          else if known.any (fun n => decide (c.rows < p0 + a.made + n)) then
            { a.rest c p0 count rSize with bad := a.bad + 1 }
          else
            let (crcOk, missing) := pageCrc c h body
            let (res, w) := if crcOk then a.w.dataPage die c dict h body else (.inr rCheck, a.w)
            match res with
            | .inl rs =>
              if count < a.made + rs.length then
                { a with w := w, next := some pos, tooLong := decide (a.pages + a.bad = 0) }
              else if c.rows < p0 + a.made + rs.length then
                { { a with w := w }.rest c p0 count rSize with bad := a.bad + 1 }
              else
                PAcc.walk die c dict chunk p0 count fuel after
                  ({ a with w := w, pages := a.pages + 1, noCrc := a.noCrc + (if missing then 1 else 0),
                            bytes := a.bytes + h.usize.toNat }.add rs)
            | .inr r =>
              let a := { a with w := w, bad := a.bad + 1, noCrc := a.noCrc + (if missing then 1 else 0) }
              match known with
              | some n => PAcc.walk die c dict chunk p0 count fuel after (a.add (List.replicate n (PRow.rejected r)))
              | none => a.rest c p0 count r

/-- The rows of the pages before a byte offset: the position of the first row of the page there. None where the pages
do not lead to it or do not give their rows. (Log entry 89, DEDUCED.) -/
def rowsBefore (c : ChunkRec) (chunk : List Byte) (stop : Nat) : Nat → Nat → Nat → Option Nat
  | 0, _, _ => none
  | fuel + 1, pos, n =>
    if pos = stop then some n
    else if stop < pos then none
    else
      match pageHeader (chunk.drop pos) with
      | .inr _ => none
      | .inl h =>
        let k := if h.ty = 0 ∨ h.ty = 3 then h.rows c else some 0
        k.bind (fun k => rowsBefore c chunk stop fuel (pos + h.len + h.csize.toNat) (n + k))

/-- The dictionary page at offset 0: whether there is one, its values unless it is rejected, and its size (R438). -/
def Work.dictPage (w : Work) (die : Nat) (c : ChunkRec) (chunk : List Byte) : Bool × Option (List PVal) × Nat × Work :=
  match pageHeader chunk with
  | .inr _ => (false, none, 0, w)
  | .inl h =>
    if h.ty ≠ 2 then (false, none, 0, w)
    else
      let body := (chunk.drop h.len).take h.csize.toNat
      let (crcOk, missing) := pageCrc c h body
      let n := if missing then 1 else 0
      if body.length < h.csize.toNat ∨ crcOk = false ∨ 16777216 < h.num 7 1 ∨ (h.num 7 2 ≠ 0 ∧ h.num 7 2 ≠ 2) then
        (true, none, n, w)
      else
        match w.pageJob die c.codec h.usize.toNat body with
        | (.inr _, w) => (true, none, n, w)
        | (.inl bs, w) =>
          (true, (match plainValues c (h.num 7 1) bs with
            | .inl vs => some vs
            | .inr _ => none), n, w)

/-! ## Outputs (R432, R436, R439, R448) -/

/-- The output descriptors of a call: values and their validity and bytes, list offsets and validity, dictionary values
and bytes. -/
structure POut where
  val : Option Desc
  valid : Option Desc
  bytes : Option Desc
  offs : Option Desc
  lvalid : Option Desc
  dict : Option Desc
  dbytes : Option Desc

/-- A column-list entry whose handles are outputs: values, validity and bytes. -/
def Work.outEntry (w : Work) (p : Nat) (l : Desc) (k : Nat) (wantBytes : Bool) :
    Option Desc × Option Desc × Option Desc × List Nat :=
  let x := w.descLE l (8 * k) 8
  let (v, f1) := w.operand p (fieldOf x 0 16) true
  let (n, f2) := w.optDesc p (fieldOf x 16 16) true
  let (b, f3) := if wantBytes then w.operand p (fieldOf x 32 16) true else (none, [])
  (v, n, b, f1 ++ f2 ++ f3 ++ chk (decide (fieldOf x 48 16 = 0)) sRange ++
    (match n with
    | some d => chk (decide (d.ty = some .bitmap)) sRange
    | none => []) ++
    (match b with
    | some d => chk (decide (d.ty = some .uint8)) sRange
    | none => []))

/-- A VARBIN output is written through UINT32 offsets (R120). -/
def outType (t : ETy) : ETy := if t = .varbin then .uint32 else t

/-- The outputs of PARQUET_DECODE, with the checks of R432 that need no page. -/
def Work.parquetOuts (w : Work) (p h : Nat) (c : ChunkRec) (row0 count : Nat) : POut × List Nat :=
  let none_ : POut := ⟨none, none, none, none, none, none, none⟩
  match w.operand p h false, c.target with
  | (some l, _), some t =>
    if l.ty ≠ some .uint8 ∨ l.count < 64 then (none_, [sRange])
    else
      let (v, n, b, f0) := w.outEntry p l 0 (decide (t = .varbin))
      let (o, ln, _, f1) := if c.maxRep = 1 then w.outEntry p l 1 false else (none, none, none, [])
      let (d, _, db, f2) := if t = .dict32 then w.outEntry p l 2 (decide (c.natural = .varbin))
        else (none, none, none, [])
      let typed (x : Option Desc) (t : ETy) : List Nat := match x with
        | some d => chk (decide (d.ty = some (outType t))) sRange
        | none => []
      let room (x : Option Desc) (n : Nat) : List Nat := match x with
        | some d => chk (d.holds row0 n) sFull
        | none => []
      (⟨v, n, b, o, ln, d, db⟩, f0 ++ f1 ++ f2 ++ typed v t ++ typed o .uint32 ++ typed d c.natural ++
        (if c.maxRep = 1 then room o (count + 1) ++ room ln count
         else room v (count + (if t = .varbin then 1 else 0)) ++ room n count))
  | (_, fs), _ => (none_, fs)

/-- The number that a fixed-width value is, before its conversion (R436). -/
def pNumber (c : ChunkRec) (t : ETy) (x : Nat) : EVal :=
  match c.ptype with
  | 1 => .int (if t = .uint32 then (x : Int) else sext 32 x)
  | 2 => .int ((if t = .uint32 then (x : Int) else sext 64 x) * (getAt 1 [1, 1000, 1000000] c.scale : Nat))
  | 4 => .flt (Fmt.fp32.decode x)
  | 5 => .flt (Fmt.fp64.decode x)
  | _ => .int x

/-- The bits of an element stored as they are, and what that meets (R115). -/
def OAcc.bits (a : OAcc) (d : Desc) (i x : Nat) : OAcc :=
  let a := a.stores (d.bitAddr [i])
  a.on (a.w.put0 d i x).1

/-- A value stored at an element, converted to the type it is stored as (R436). -/
def OAcc.pStore (a : OAcc) (c : ChunkRec) (t : ETy) (d : Desc) (bytes : Option Desc) (i : Nat) (v : Option PVal) : OAcc :=
  match t, v, bytes with
  | .varbin, some (.str bs), some b => a.packRow d b i bs
  | .varbin, _, some b => a.packRow d b i []
  | .fp16, some (.str bs), _ => a.bits d i (ofBytes bs)
  | _, some (.raw x), _ =>
    if t = .dict32 ∨ t = .bitmap ∨ t = c.natural then a.bits d i x
    else a.store d i false (pNumber c t x)
  | _, _, _ => a.bits d i 0

/-- One row written: its value or its list, its nulls, and, where it is rejected, a null with its SEL bit cleared and a
reject (R439, R448, R483). -/
def OAcc.pRow (a : OAcc) (c : ChunkRec) (t : ETy) (o : IngRec) (sel : Option Desc) (out : POut) (r : Nat) (x : PRow) :
    OAcc :=
  let a := { a with rowsIn := a.rowsIn + 1 }
  let rej := decide (x.rej ≠ 0)
  let a := match out.val, out.offs with
    | some d, none =>
      let v := if rej then none else (x.vals.headD none)
      let a := if v.isNone && !rej then a.null else a
      (a.pStore c t d out.bytes r v).bit out.valid r v.isSome
    | some d, some l =>
      let lo := (a.w.at0 l r).1
      let vs := if rej then [] else x.vals
      let a := if x.null && !rej then a.null else a
      let a := (List.range vs.length).foldl (fun (a : OAcc) k =>
        let v := getAt none vs k
        let a := if v.isNone then a.null else a
        (a.pStore c t d out.bytes (lo + k) v).bit out.valid (lo + k) v.isSome) a
      let a := a.stores (l.bitAddr [r + 1])
      (a.on (a.w.writeBits (l.bitAddr [r + 1]) 32 (lo + vs.length))).bit out.lvalid r (!x.null && !rej)
    | _, _ => a
  if rej then
    let a := (a.unselect sel r).withhold o.sel r x.rej (if x.rej = rCheck then sCheck else sReject)
    { a.fail sCheck with c5 := a.c5 + 1 }
  else a

/-- The dictionary values written from element 0 (R436, R438). -/
def OAcc.pDict (a : OAcc) (c : ChunkRec) (out : POut) (vs : List PVal) : OAcc :=
  match out.dict with
  | none => a
  | some d =>
    let a := if c.natural = .varbin then a.bits d 0 0 else a
    (List.range vs.length).foldl (fun (a : OAcc) k =>
      a.pStore c c.natural d out.dbytes k (some (getAt (.raw 0) vs k))) a

/-- Children and bytes that a call brings fit its outputs (R432). (Log entry 90, DEDUCED.) -/
def Work.parquetFits (w : Work) (c : ChunkRec) (out : POut) (row0 : Nat) (a : PAcc) (dict : List PVal) : Bool :=
  let vals := a.rows.flatMap (fun r => if r.rej = 0 then r.vals else [])
  let len (v : Option PVal) : Nat := match v with
    | some (.str b) => b.length
    | _ => 0
  let size (d : Option Desc) : Nat := (d.map (fun x => getAt 0 x.size 0)).getD 0
  let varbin := decide (c.target = some .varbin)
  let child := match out.offs with
    | some l => (w.at0 l row0).1
    | none => row0
  let lo := match out.val with
    | some d => if varbin then (w.at0 d child).1 else 0
    | none => 0
  (out.offs.isNone || (decide (child + vals.length + (if varbin then 1 else 0) ≤ size out.val) &&
    (out.valid.isNone || decide (child + vals.length ≤ size out.valid)))) &&
  (!varbin || decide (lo + max a.bytes ((vals.map len).foldl (· + ·) 0) ≤ size out.bytes)) &&
  (out.dict.isNone || (decide (dict.length + (if c.natural = .varbin then 1 else 0) ≤ size out.dict) &&
    (c.natural ≠ .varbin || decide ((dict.map (fun v => len (some v))).foldl (· + ·) 0 ≤ size out.dbytes))))

/-! ## The two calls -/

/-- An ingest call that failed its checks: what it returns beside the status is not given. (Log entry 62, DEDUCED.) -/
def Work.ingFail (w : Work) (d g : Nat) (fs : List Nat) : Work :=
  let (v, w) := w.fresh 64
  let w := w.setCore d g ((w.core d g).setX 12 v)
  w.opFail d g fs

/-- The checks of R432 on what both calls share. -/
def Work.ingCommon (w : Work) (p : Nat) (o : IngRec) (row0 count most : Nat) : Option Desc × List Nat :=
  let (sel, fs) := w.optDesc p o.sel true
  (sel, fs ++ chk (o.reservedZero && statsOk o.stats && decide (1 ≤ count) && decide (count ≤ most)) sRange ++
    (match sel with
    | some d => chk (decide (d.ty = some .bitmap) && d.holds row0 count) sRange
    | none => []))

/-- The column that ARROW_CHECK checks: its offsets or indices, and the number of elements that they may name (R431,
R434). A column of another type has nothing to check. -/
def Work.arrowColumn (w : Work) (p : Nat) (h row0 count : Nat) : Option Desc × Nat × List Nat :=
  match w.operand p h false with
  | (some l, _) =>
    if l.ty ≠ some .uint8 ∨ l.count < 64 then (none, 0, [sRange])
    else
      let x := w.descLE l 0 8
      let y := w.descLE l 8 8
      let (v, f1) := w.operand p (fieldOf x 0 16) false
      let isDict := decide (v.map (·.ty) = some (some .dict32))
      let isOffs := decide (v.map (·.ty) = some (some .varbin)) ||
        (decide (v.map (·.ty) = some (some .uint32)) && decide (fieldOf x 32 16 ≠ noHandle))
      let (b, f2) := if isDict then w.operand p (fieldOf y 0 16) false
        else if isOffs then w.operand p (fieldOf x 32 16) false else (none, [])
      (v, (b.map (fun d => getAt 0 d.size 0)).getD 0,
        f1 ++ f2 ++ (match v with
        | some d => chk (d.holds row0 (count + if isOffs then 1 else 0)) sRange
        | none => []))
  | (none, fs) => (none, 0, fs)

/-- One row of ARROW_CHECK (R434). -/
def OAcc.arrowRow (a : OAcc) (o : IngRec) (sel : Option Desc) (d : Desc) (limit r : Nat) : OAcc :=
  let (x, st) := a.w.at0 d r
  let offs := decide (d.ty = some .varbin) || decide (d.ty = some .uint32)
  let (y, st2) := if offs then a.w.at0 d (r + 1) else (0, .ok)
  let a := { a with rowsIn := a.rowsIn + 1 }
  match st.worse st2 with
  | .ok =>
    let reason :=
      if d.ty = some .dict32 then (if x ≠ absent32 ∧ limit ≤ x then 6 else 0)
      else if offs then (if 2 ^ 31 ≤ x ∨ sext 32 y < sext 32 x ∨ limit < y then 8 else 0)
      else 0
    if reason = 0 then a
    else { ((a.unselect sel r).withhold o.sel r reason sReject).fail sCheck with c5 := a.c5 + 1 }
  | st => { a.corrupt o.asOp sel r st with c5 := a.c5 + 1 }

/-- What an ingest call that was checked is about to do: nothing, with its failures; nothing, for a chunk without
memory at an address; or its rows, with the count that its statistics take and the call's third result. -/
inductive IngPlan where
  | fails (fs : List Nat)
  | unmapped (a : Nat)
  | go (run : Work → OAcc × Nat × Nat)

/-- An ingest call that was checked performed, and returned: a1 is the rows that it took, a2 its third result (R430). -/
def Work.ingRun (w : Work) (d g : Nat) (o : IngRec) : IngPlan → Work
  | .fails fs => w.ingFail d g fs
  | .unmapped a => (w.unmappedBy d (w.planOf (.core d g)) 0 a).ingFail d g [sUnmapped]
  | .go run =>
    let x := run w
    let w := x.1.finish d g o.asOp x.2.1
    w.setCore d g (((w.core d g).setX 11 x.1.rowsIn).setX 12 x.2.2)

/-- ARROW_CHECK checked (R434); its third result is not given. -/
def Work.arrowPlan (w : Work) (d g row0 count : Nat) (o : IngRec) : IngPlan :=
  let p := w.planOf (.core d g)
  let (sel, f0) := w.ingCommon p o row0 count 65536
  let (col, limit, f1) := w.arrowColumn p o.inp row0 count
  let fs := f0 ++ f1 ++ chk (decide (o.aux = noHandle) && decide (o.out = noHandle) && decide (o.arg1 = 0)) sRange
  match col, fs with
  | some c, [] => .go (fun w =>
    let a := (List.range count).foldl (fun (a : OAcc) k =>
      if c.ty = some .uint32 ∧ limit = 0 then { a with rowsIn := a.rowsIn + 1 }
      else a.arrowRow o sel c limit (row0 + k)) { w := w }
    let (v, w) := a.w.fresh 64
    ({ a with w := w }, a.rowsIn - a.c5, v))
  | _, _ => .fails fs

/-- ARROW_CHECK. -/
def Work.arrowCheck (w : Work) (d g row0 count : Nat) (o : IngRec) : Work := w.ingRun d g o (w.arrowPlan d g row0 count o)

/-- The bytes of a chunk that a call reads: the page at offset 0 (its header at least), and the pages from ARG1 to the
header of the page that it stops before, or to the chunk's end (R438, R443). -/
def chunkTouched (chunk : List Byte) (hasDict : Bool) (arg1 : Nat) (next : Option Nat) (k : Nat) : Bool :=
  let page (p : Nat) (body : Bool) : Nat := match pageHeader (chunk.drop p) with
    | .inl h => p + h.len + (if body then h.csize.toNat else 0)
    | .inr _ => chunk.length
  decide (k < page 0 hasDict) || (decide (arg1 ≤ k) && (match next with
    | some p => decide (k < page p false)
    | none => true))

/-- PARQUET_DECODE checked (R443). (Log entry 89, DEDUCED.) -/
def Work.parquetPlan (w : Work) (d g row0 count : Nat) (o : IngRec) : IngPlan :=
  let p := w.planOf (.core d g)
  let (sel, f0) := w.ingCommon p o row0 count 16777216
  let (aux, f1) := w.auxBlock p o.aux 64
  let c := match aux with
    | some x => ChunkRec.ofRec (BitVec.ofNat 512 (w.descLE x 0 64))
    | none => ChunkRec.ofRec 0
  let (ch, f2) := if aux.isSome then w.operand p c.chunk false else (none, [])
  let (out, f3) := if aux.isSome then w.parquetOuts p o.out c row0 count else (⟨none, none, none, none, none, none, none⟩, [])
  let fs := f0 ++ f1 ++ f2 ++ f3 ++ chk (decide (o.inp = noHandle)) sRange ++ chk (aux.isNone || c.ok) sRange ++
    (match ch with
    | some x => chk (decide (x.ty = some .uint8) && decide (o.arg1 ≤ x.count)) sRange
    | none => [])
  match ch, c.target, fs with
  | some x, some t, [] =>
      let chunk := w.descBytes x 0 x.count
      let (hasDict, dict, noCrc, w1) := w.dictPage d c chunk
      let (v, w1) := w1.fresh 64
      let p0 := (rowsBefore c chunk o.arg1 (chunk.length + 2) 0 0).getD (v % (c.rows + 1))
      let a := PAcc.walk d c dict chunk p0 count (chunk.length + 2) o.arg1 { w := w1, noCrc := noCrc }
      match (w.holes x).find? (chunkTouched chunk hasDict o.arg1 a.next) with
      | some k => .unmapped (x.at k / 8)
      | none =>
      if a.tooLong || !w.parquetFits c out row0 a (if o.arg1 = 0 then dict.getD [] else []) then .fails [sFull]
      else .go (fun _ =>
        let b : OAcc := { w := a.w, c3 := a.pages, c4 := a.bad, c7 := a.noCrc }
        let b := if o.arg1 = 0 then b.pDict c out (dict.getD []) else b
        let b := { b with sats := 0 }
        let b := (List.range a.rows.length).foldl (fun (b : OAcc) k =>
          b.pRow c t o sel out (row0 + k) (getAt (PRow.rejected 0) a.rows k)) b
        ({ b with c6 := b.sats }, b.rowsIn - b.c5, a.next.getD (2 ^ 64 - 1)))
  | _, _, _ => .fails fs

/-- PARQUET_DECODE. -/
def Work.parquetDecode (w : Work) (d g row0 count : Nat) (o : IngRec) : Work := w.ingRun d g o (w.parquetPlan d g row0 count o)

/-- An ingest call on a core: the record is read in the core's local memory at a multiple of 64 (R430). -/
def Work.ingRow (w : Work) (d g a0 op : Nat) (f : Work → IngRec → Work) : Work :=
  w.coreRow d g (fun w =>
    match w.callRecord d g a0 64 64 with
    | none => w.ingFail d g [sRange]
    | some bs =>
      let o := IngRec.ofRec (BitVec.ofNat 512 (ofBytes bs))
      if o.op = op then f w o else w)

/-- ARROW_CHECK (R434). -/
def execArrowCheck (die gc a0 row0 count : Nat) (s : State) : Out :=
  s.perform (.arrowCheck die gc a0 row0 count)
    (fun w => w.ingRow die gc a0 0xF1 (fun w o => w.arrowCheck die gc row0 count o))
/-- PARQUET_DECODE (R443). -/
def execParquetDecode (die gc a0 row0 count : Nat) (s : State) : Out :=
  s.perform (.parquetDecode die gc a0 row0 count)
    (fun w => w.ingRow die gc a0 0xF2 (fun w o => w.parquetDecode die gc row0 count o))

end Sys2Proof.Machine
end

