-- ==== Sys2Proof/Machine/Fpu.lean ====
section
/-! DEFINITION. Scalar floating point of the general cores: results and exception flags that the RISC-V F and D extensions
define (R68, R215). -/

namespace Sys2Proof.Machine

/-! ## Flags and rounding modes -/

/-- Inexact. -/
abbrev fNX : Nat := 1
/-- Underflow. -/
abbrev fUF : Nat := 2
/-- Overflow. -/
abbrev fOF : Nat := 4
/-- Division by zero. -/
abbrev fDZ : Nat := 8
/-- Invalid operation. -/
abbrev fNV : Nat := 16

/-- The rounding mode of an rm field, dynamic through fcsr; none for a reserved one. -/
def rmOf (fcsr rm : Nat) : Option RMode :=
  match (if rm = 7 then fieldOf fcsr 5 3 else rm) with
  | 0 => some .rne
  | 1 => some .rtz
  | 2 => some .rdn
  | 3 => some .rup
  | 4 => some .rmm
  | _ => none

/-- A code is a signaling NaN. -/
def Fmt.snan (f : Fmt) (x : Nat) : Bool := (f.decode x).isNan && !bitOf x (f.fb - 1)

/-- What a magnitude beyond the largest finite becomes: infinity, or the largest finite when rounding is towards zero from
it. -/
def Fmt.overflow (f : Fmt) (mode : RMode) (neg : Bool) : Nat :=
  let stay := match mode with
    | .rtz => true
    | .rdn => !neg
    | .rup => neg
    | _ => false
  f.signed neg (if stay then f.maxFin else f.infCode)

/-- A magnitude rounded with flags; tininess is found after rounding. -/
def Fmt.pack (f : Fmt) (mode : RMode) (neg : Bool) (m : Nat) (e : Int) (sticky : Bool) : Nat × Nat :=
  let r := f.roundMag mode neg m e sticky
  if r.tooBig then (f.overflow mode neg, fOF + fNX)
  else
    let wide : Fmt := { f with eb := f.eb + 4, bias := f.bias + 7 * 2 ^ f.eb }
    let u := wide.roundMag mode neg m e sticky
    let tiny := decide ((u.code : Int) < ((wide.bias : Int) - f.bias + 1) * 2 ^ f.fb)
    (f.signed neg r.code, (if r.inexact then fNX else 0) + (if r.inexact && tiny then fUF else 0))

/-- An exact datum rounded with flags; an invalid operation gives the canonical NaN. -/
def Fmt.finish (f : Fmt) (mode : RMode) (invalid : Bool) : FVal → Nat × Nat
  | .nan => (f.nan, if invalid then fNV else 0)
  | .inf s => (f.signed s f.infCode, 0)
  | .fin s m e => f.pack mode s m e false

/-- A result is invalid when an operand signals, or when it is a NaN that no operand was. -/
def Fmt.invalid (f : Fmt) (xs : List Nat) (r : FVal) : Bool :=
  xs.any f.snan || (r.isNan && xs.all (fun x => !(f.decode x).isNan))

/-! ## Arithmetic -/

/-- a + b. -/
def Fmt.fadd (f : Fmt) (mode : RMode) (a b : Nat) : Nat × Nat :=
  let r := (f.decode a).add (f.decode b) (decide (mode = .rdn))
  f.finish mode (f.invalid [a, b] r) r

/-- The code with its sign bit turned. -/
def Fmt.flip (f : Fmt) (x : Nat) : Nat := x ^^^ 2 ^ (f.eb + f.fb)

/-- a × b. -/
def Fmt.fmul (f : Fmt) (mode : RMode) (a b : Nat) : Nat × Nat :=
  let r := (f.decode a).mul (f.decode b)
  f.finish mode (f.invalid [a, b] r) r

/-- ±(a × b) + c, rounded once; infinity times zero is invalid whatever c is. -/
def Fmt.fma (f : Fmt) (mode : RMode) (a b c : Nat) (neg : Bool) : Nat × Nat :=
  let p := (f.decode a).mul (f.decode b)
  let r := (if neg then p.negate else p).add (f.decode c) (decide (mode = .rdn))
  f.finish mode (f.invalid [a, b, c] r || f.invalid [a, b] p) r

/-- a / b. -/
def Fmt.fdiv (f : Fmt) (mode : RMode) (a b : Nat) : Nat × Nat :=
  let nan := (f.nan, if f.snan a || f.snan b then fNV else 0)
  match f.decode a, f.decode b with
  | .nan, _ => nan
  | _, .nan => nan
  | .inf _, .inf _ => (f.nan, fNV)
  | .inf s, .fin t _ _ => (f.signed (s != t) f.infCode, 0)
  | .fin s _ _, .inf t => (f.signed (s != t) 0, 0)
  | .fin s m e, .fin t n g =>
    if n = 0 then (if m = 0 then (f.nan, fNV) else (f.signed (s != t) f.infCode, fDZ))
    else if m = 0 then (f.signed (s != t) 0, 0)
    else
      let k := 2 * f.fb + 8 + Nat.log2 n
      f.pack mode (s != t) ((m <<< k) / n) (e - g - k) (decide ((m <<< k) % n ≠ 0))

/-- The square root of a. -/
def Fmt.fsqrt (f : Fmt) (mode : RMode) (a : Nat) : Nat × Nat :=
  match f.decode a with
  | .nan => (f.nan, if f.snan a then fNV else 0)
  | .inf s => if s then (f.nan, fNV) else (f.infCode, 0)
  | .fin s m e =>
    if m = 0 then (f.signed s 0, 0)
    else if s then (f.nan, fNV)
    else
      let k0 := 2 * (f.fb + 4)
      let k := if (e - k0) % 2 = 0 then k0 else k0 + 1
      let r := isqrt (m <<< k)
      f.pack mode false r ((e - k) / 2) (decide (r * r ≠ m <<< k))

/-- fmin and fmax: -0 is below +0, and a NaN yields to a number. -/
def Fmt.fminmax (f : Fmt) (max : Bool) (a b : Nat) : Nat × Nat :=
  let fl := if f.snan a || f.snan b then fNV else 0
  let (x, y) := (f.decode a, f.decode b)
  if x.isNan && y.isNan then (f.nan, fl)
  else if x.isNan then (b, fl)
  else if y.isNan then (a, fl)
  else
    let below := x.lt y || (x.eqv y && x.neg? && !y.neg?)
    ((if below != max then a else b), fl)

/-- feq, flt and fle: 2, 1 and 0. Only feq is quiet. -/
def Fmt.fcompare (f : Fmt) (k a b : Nat) : Nat × Nat :=
  let (x, y) := (f.decode a, f.decode b)
  let nv := if k = 2 then f.snan a || f.snan b else x.isNan || y.isNan
  let r := match k with
    | 2 => x.eqv y
    | 1 => x.lt y
    | _ => x.le y
  ((if r then 1 else 0), if nv then fNV else 0)

/-- fclass. -/
def Fmt.fclass (f : Fmt) (a : Nat) : Nat :=
  match f.decode a with
  | .nan => if f.snan a then 2 ^ 8 else 2 ^ 9
  | .inf s => if s then 1 else 2 ^ 7
  | .fin s m _ =>
    let sub := decide (fieldOf a f.fb f.eb = 0)
    if m = 0 then (if s then 2 ^ 3 else 2 ^ 4)
    else if sub then (if s then 2 ^ 2 else 2 ^ 5)
    else if s then 2 else 2 ^ 6

/-- A float converted to an integer of n bits: out of range it saturates and is invalid, and a NaN gives the largest. -/
def Fmt.toInt (f : Fmt) (mode : RMode) (n : Nat) (signed : Bool) (a : Nat) : Nat × Nat :=
  let lo : Int := if signed then intMin n else 0
  let hi : Int := if signed then intMax n else 2 ^ n - 1
  match f.decode a with
  | .nan => (wrapTo n hi, fNV)
  | .inf s => (wrapTo n (if s then lo else hi), fNV)
  | .fin s m e =>
    let (i, inexact) := roundToInt mode s m e
    if i < lo then (wrapTo n lo, fNV)
    else if hi < i then (wrapTo n hi, fNV)
    else (wrapTo n i, if inexact then fNX else 0)

/-- An integer converted to a float. -/
def Fmt.ofInt (f : Fmt) (mode : RMode) (i : Int) : Nat × Nat :=
  if i = 0 then (0, 0) else f.pack mode (decide (i < 0)) i.natAbs 0 false

/-- A float of one format converted to another. -/
def Fmt.convert (f g : Fmt) (mode : RMode) (a : Nat) : Nat × Nat := g.finish mode (f.snan a) (f.decode a)

/-! ## Registers -/

/-- Register f as 64 bits. -/
def Core.getF (c : Core) (r : Nat) : Nat := smGet 0 c.f r
/-- An operand of a format: a single that is not NaN-boxed reads as the canonical NaN. -/
def Core.getFp (c : Core) (f : Fmt) (r : Nat) : Nat :=
  if f = Fmt.fp64 then c.getF r
  else if fieldOf (c.getF r) 32 32 = 2 ^ 32 - 1 then fieldOf (c.getF r) 0 32
  else f.nan
/-- A result of a format written, a single NaN-boxed. -/
def Core.setFp (c : Core) (f : Fmt) (r v : Nat) : Core :=
  let x := if f = Fmt.fp64 then v % 2 ^ 64 else v % 2 ^ 32 + (2 ^ 32 - 1) * 2 ^ 32
  { c with f := smSet 0 c.f r x }
/-- Exception flags accrued in fcsr. -/
def Core.accrue (c : Core) (fl : Nat) : Core := { c with fcsr := c.fcsr ||| fl }

/-- A 64-bit register value of a result of 32 bits, sign-extended. -/
def sx32 (x : Nat) : Nat := wrapTo 64 (sext 32 (x % 2 ^ 32))

/-- An instruction of the opcode OP-FP on a core: none where the encoding is reserved. (Log entry 48, PRESUMED.) -/
def Core.opFp (c : Core) (word : Nat) : Option Core :=
  let rd := fieldOf word 7 5
  let rm := fieldOf word 12 3
  let rs1 := fieldOf word 15 5
  let rs2 := fieldOf word 20 5
  let dbl := decide (fieldOf word 25 2 = 1)
  let f := if dbl then Fmt.fp64 else Fmt.fp32
  let a := c.getFp f rs1
  let b := c.getFp f rs2
  let mode := rmOf c.fcsr rm
  let toF (r : Nat × Nat) : Core := (c.setFp f rd r.1).accrue r.2
  let toX (n : Nat) (r : Nat × Nat) : Core := (c.setX rd (if n = 32 then sx32 r.1 else r.1)).accrue r.2
  if 1 < fieldOf word 25 2 then none
  else
    match fieldOf word 27 5 with
    | 0 => mode.map (fun md => toF (f.fadd md a b))
    | 1 => mode.map (fun md => toF (if (f.decode b).isNan then f.fadd md a b else f.fadd md a (f.flip b)))
    | 2 => mode.map (fun md => toF (f.fmul md a b))
    | 3 => mode.map (fun md => toF (f.fdiv md a b))
    | 11 => if rs2 = 0 then mode.map (fun md => toF (f.fsqrt md a)) else none
    | 4 =>
      let sa := bitOf a (f.eb + f.fb)
      let sb := bitOf b (f.eb + f.fb)
      let mag := a % 2 ^ (f.eb + f.fb)
      (match rm with
      | 0 => some (c.setFp f rd (f.signed sb mag))
      | 1 => some (c.setFp f rd (f.signed (!sb) mag))
      | 2 => some (c.setFp f rd (f.signed (sa != sb) mag))
      | _ => none)
    | 5 => if rm < 2 then some (toF (f.fminmax (decide (rm = 1)) a b)) else none
    | 8 =>
      let g := if dbl then Fmt.fp32 else Fmt.fp64
      if rs2 = (if dbl then 0 else 1) then mode.map (fun md =>
        let r := g.convert f md (c.getFp g rs1)
        (c.setFp f rd r.1).accrue r.2)
      else none
    | 20 => if rm < 3 then some (toX 64 (f.fcompare rm a b)) else none
    | 24 => mode.bind (fun md =>
        match rs2 with
        | 0 => some (toX 32 (f.toInt md 32 true a))
        | 1 => some (toX 32 (f.toInt md 32 false a))
        | 2 => some (toX 64 (f.toInt md 64 true a))
        | 3 => some (toX 64 (f.toInt md 64 false a))
        | _ => none)
    | 26 => mode.bind (fun md =>
        let x := c.getX rs1
        match rs2 with
        | 0 => some (toF (f.ofInt md (sext 32 (x % 2 ^ 32))))
        | 1 => some (toF (f.ofInt md (x % 2 ^ 32 : Nat)))
        | 2 => some (toF (f.ofInt md (sext 64 x)))
        | 3 => some (toF (f.ofInt md (x : Nat)))
        | _ => none)
    | 28 =>
      if rs2 ≠ 0 then none
      else if rm = 0 then some (c.setX rd (if dbl then c.getF rs1 else sx32 (c.getF rs1)))
      else if rm = 1 then some (c.setX rd (f.fclass a))
      else none
    | 30 => if rs2 = 0 ∧ rm = 0 then some (c.setFp f rd (c.getX rs1)) else none
    | _ => none

/-- The fused multiply-add opcodes: sign of the product, sign of the addend. (Log entry 48, PRESUMED.) -/
def Core.opFma (c : Core) (word : Nat) (negP negC : Bool) : Option Core :=
  let f := if fieldOf word 25 2 = 1 then Fmt.fp64 else Fmt.fp32
  let a := c.getFp f (fieldOf word 15 5)
  let b := c.getFp f (fieldOf word 20 5)
  let x := c.getFp f (fieldOf word 27 5)
  if 1 < fieldOf word 25 2 then none
  else (rmOf c.fcsr (fieldOf word 12 3)).map (fun md =>
    let r := f.fma md a b (if negC && !(f.decode x).isNan then f.flip x else x) negP
    (c.setFp f (fieldOf word 7 5) r.1).accrue r.2)

end Sys2Proof.Machine
end

