-- ==== Sys2Proof/Machine/Rvc.lean ====
section
/-! DEFINITION. The RISC-V instruction words that the general cores read: immediates, and the C extension expanded to the
instructions that it abbreviates (R215). -/

namespace Sys2Proof.Machine

/-! ## Fields and immediates -/

/-- rd. -/
abbrev rdOf (i : Nat) : Nat := fieldOf i 7 5
/-- funct3. -/
abbrev f3Of (i : Nat) : Nat := fieldOf i 12 3
/-- rs1. -/
abbrev rs1Of (i : Nat) : Nat := fieldOf i 15 5
/-- rs2. -/
abbrev rs2Of (i : Nat) : Nat := fieldOf i 20 5
/-- funct7. -/
abbrev f7Of (i : Nat) : Nat := fieldOf i 25 7

/-- The I immediate. -/
def immI (i : Nat) : Int := sext 12 (fieldOf i 20 12)
/-- The S immediate. -/
def immS (i : Nat) : Int := sext 12 (fieldOf i 25 7 * 32 + fieldOf i 7 5)
/-- The B immediate. -/
def immB (i : Nat) : Int :=
  sext 13 (fieldOf i 31 1 * 4096 + fieldOf i 7 1 * 2048 + fieldOf i 25 6 * 32 + fieldOf i 8 4 * 2)
/-- The U immediate. -/
def immU (i : Nat) : Int := sext 32 (fieldOf i 12 20 * 4096)
/-- The J immediate. -/
def immJ (i : Nat) : Int :=
  sext 21 (fieldOf i 31 1 * 2 ^ 20 + fieldOf i 12 8 * 4096 + fieldOf i 20 1 * 2048 + fieldOf i 21 10 * 2)

/-- An R word. -/
def encR (op f3 f7 rd rs1 rs2 : Nat) : Nat :=
  op + rd * 2 ^ 7 + f3 * 2 ^ 12 + rs1 * 2 ^ 15 + rs2 * 2 ^ 20 + f7 * 2 ^ 25
/-- An I word. -/
def encI (op f3 rd rs1 : Nat) (imm : Int) : Nat := op + rd * 2 ^ 7 + f3 * 2 ^ 12 + rs1 * 2 ^ 15 + wrapTo 12 imm * 2 ^ 20
/-- An S word. -/
def encS (op f3 rs1 rs2 imm : Nat) : Nat :=
  op + imm % 32 * 2 ^ 7 + f3 * 2 ^ 12 + rs1 * 2 ^ 15 + rs2 * 2 ^ 20 + imm / 32 * 2 ^ 25
/-- A B word. -/
def encB (f3 rs1 rs2 : Nat) (imm : Int) : Nat :=
  let x := wrapTo 13 imm
  0x63 + fieldOf x 11 1 * 2 ^ 7 + fieldOf x 1 4 * 2 ^ 8 + f3 * 2 ^ 12 + rs1 * 2 ^ 15 + rs2 * 2 ^ 20 +
    fieldOf x 5 6 * 2 ^ 25 + fieldOf x 12 1 * 2 ^ 31
/-- A J word. -/
def encJ (rd : Nat) (imm : Int) : Nat :=
  let x := wrapTo 21 imm
  0x6F + rd * 2 ^ 7 + fieldOf x 12 8 * 2 ^ 12 + fieldOf x 11 1 * 2 ^ 20 + fieldOf x 1 10 * 2 ^ 21 + fieldOf x 20 1 * 2 ^ 31

/-! ## The C extension -/

/-- The signed 6-bit immediate of the CI format. -/
def immC (h : Nat) : Int := sext 6 (fieldOf h 12 1 * 32 + fieldOf h 2 5)
/-- rd' or rs2', the registers 8 to 15. -/
abbrev rcLo (h : Nat) : Nat := 8 + fieldOf h 2 3
/-- rs1'. -/
abbrev rcHi (h : Nat) : Nat := 8 + fieldOf h 7 3
/-- The offset of word accesses. -/
def offW (h : Nat) : Nat := fieldOf h 10 3 * 8 + fieldOf h 6 1 * 4 + fieldOf h 5 1 * 64
/-- The offset of doubleword accesses. -/
def offD (h : Nat) : Nat := fieldOf h 10 3 * 8 + fieldOf h 5 2 * 64
/-- The offset of c.j. -/
def offJ (h : Nat) : Int :=
  sext 12 (fieldOf h 12 1 * 2048 + fieldOf h 11 1 * 16 + fieldOf h 9 2 * 256 + fieldOf h 8 1 * 1024 + fieldOf h 7 1 * 64 +
    fieldOf h 6 1 * 128 + fieldOf h 3 3 * 2 + fieldOf h 2 1 * 32)
/-- The offset of c.beqz and c.bnez. -/
def offB (h : Nat) : Int :=
  sext 9 (fieldOf h 12 1 * 256 + fieldOf h 10 2 * 8 + fieldOf h 5 2 * 64 + fieldOf h 3 2 * 2 + fieldOf h 2 1 * 32)

/-- Quadrant 0. -/
def expand0 (h : Nat) : Option Nat :=
  match fieldOf h 13 3 with
  | 0 =>
    let imm := fieldOf h 11 2 * 16 + fieldOf h 7 4 * 64 + fieldOf h 6 1 * 4 + fieldOf h 5 1 * 8
    if imm = 0 then none else some (encI 0x13 0 (rcLo h) 2 imm)
  | 1 => some (encI 0x07 3 (rcLo h) (rcHi h) (offD h))
  | 2 => some (encI 0x03 2 (rcLo h) (rcHi h) (offW h))
  | 3 => some (encI 0x03 3 (rcLo h) (rcHi h) (offD h))
  | 5 => some (encS 0x27 3 (rcHi h) (rcLo h) (offD h))
  | 6 => some (encS 0x23 2 (rcHi h) (rcLo h) (offW h))
  | 7 => some (encS 0x23 3 (rcHi h) (rcLo h) (offD h))
  | _ => none

/-- c.srli, c.srai, c.andi and the register forms of quadrant 1. -/
def expandAlu (h : Nat) : Option Nat :=
  let r := rcHi h
  let s := rcLo h
  let sh := fieldOf h 12 1 * 32 + fieldOf h 2 5
  match fieldOf h 10 2, fieldOf h 12 1, fieldOf h 5 2 with
  | 0, _, _ => some (encI 0x13 5 r r sh)
  | 1, _, _ => some (encI 0x13 5 r r (sh + 0x400))
  | 2, _, _ => some (encI 0x13 7 r r (immC h))
  | _, 0, 0 => some (encR 0x33 0 0x20 r r s)
  | _, 0, 1 => some (encR 0x33 4 0 r r s)
  | _, 0, 2 => some (encR 0x33 6 0 r r s)
  | _, 0, _ => some (encR 0x33 7 0 r r s)
  | _, _, 0 => some (encR 0x3B 0 0x20 r r s)
  | _, _, 1 => some (encR 0x3B 0 0 r r s)
  | _, _, _ => none

/-- Quadrant 1. -/
def expand1 (h : Nat) : Option Nat :=
  let rd := fieldOf h 7 5
  match fieldOf h 13 3 with
  | 0 => some (encI 0x13 0 rd rd (immC h))
  | 1 => if rd = 0 then none else some (encI 0x1B 0 rd rd (immC h))
  | 2 => some (encI 0x13 0 rd 0 (immC h))
  | 3 =>
    if rd = 2 then
      let imm := sext 10 (fieldOf h 12 1 * 512 + fieldOf h 6 1 * 16 + fieldOf h 5 1 * 64 + fieldOf h 3 2 * 128 +
        fieldOf h 2 1 * 32)
      if imm = 0 then none else some (encI 0x13 0 2 2 imm)
    else if immC h = 0 then none
    else some (0x37 + rd * 2 ^ 7 + wrapTo 20 (immC h) * 2 ^ 12)
  | 4 => expandAlu h
  | 5 => some (encJ 0 (offJ h))
  | 6 => some (encB 0 (rcHi h) 0 (offB h))
  | _ => some (encB 1 (rcHi h) 0 (offB h))

/-- Quadrant 2. -/
def expand2 (h : Nat) : Option Nat :=
  let rd := fieldOf h 7 5
  let rs2 := fieldOf h 2 5
  let wsp := fieldOf h 12 1 * 32 + fieldOf h 4 3 * 4 + fieldOf h 2 2 * 64
  let dsp := fieldOf h 12 1 * 32 + fieldOf h 5 2 * 8 + fieldOf h 2 3 * 64
  let sdsp := fieldOf h 10 3 * 8 + fieldOf h 7 3 * 64
  match fieldOf h 13 3 with
  | 0 => some (encI 0x13 1 rd rd (fieldOf h 12 1 * 32 + rs2 : Nat))
  | 1 => some (encI 0x07 3 rd 2 dsp)
  | 2 => if rd = 0 then none else some (encI 0x03 2 rd 2 wsp)
  | 3 => if rd = 0 then none else some (encI 0x03 3 rd 2 dsp)
  | 4 =>
    if fieldOf h 12 1 = 0 then
      (if rs2 ≠ 0 then some (encR 0x33 0 0 rd 0 rs2) else if rd = 0 then none else some (encI 0x67 0 0 rd 0))
    else if rs2 ≠ 0 then some (encR 0x33 0 0 rd rd rs2)
    else if rd = 0 then some 0x00100073
    else some (encI 0x67 0 1 rd 0)
  | 5 => some (encS 0x27 3 2 rs2 sdsp)
  | 6 => some (encS 0x23 2 2 rs2 (fieldOf h 9 4 * 4 + fieldOf h 7 2 * 64))
  | _ => some (encS 0x23 3 2 rs2 sdsp)

/-- The instruction that a compressed one abbreviates; none where its code is reserved. (Log entry 48, PRESUMED.) -/
def expandC (h : Nat) : Option Nat :=
  match h % 4 with
  | 0 => expand0 h
  | 1 => expand1 h
  | _ => expand2 h

end Sys2Proof.Machine
end

