-- ==== Sys2Proof/Machine/Vector.lean ====
section
/-! DEFINITION. The V extension 1.0 with Zvfhmin and Zvfbfmin (R68, R215): vector configuration, the legality of register
groups, and integer, fixed-point, floating-point, reduction, mask and permutation arithmetic. The encodings and results are
those of the ratified RISC-V specifications that R68 and R215 name. -/

namespace Sys2Proof.Machine

/-! ## Integer division -/

/-- The quotient of RISC-V: all ones by zero, and the dividend where it overflows. -/
def rvDiv (n : Nat) (a b : Nat) : Nat :=
  if b % 2 ^ n = 0 then 2 ^ n - 1 else wrapTo n ((sext n (a % 2 ^ n)).tdiv (sext n (b % 2 ^ n)))
/-- The remainder of RISC-V. -/
def rvRem (n : Nat) (a b : Nat) : Nat :=
  if b % 2 ^ n = 0 then a % 2 ^ n else wrapTo n ((sext n (a % 2 ^ n)).tmod (sext n (b % 2 ^ n)))
/-- The unsigned quotient. -/
def rvDivu (n : Nat) (a b : Nat) : Nat := if b % 2 ^ n = 0 then 2 ^ n - 1 else a % 2 ^ n / (b % 2 ^ n)
/-- The unsigned remainder. -/
def rvRemu (n : Nat) (a b : Nat) : Nat := if b % 2 ^ n = 0 then a % 2 ^ n else a % 2 ^ n % (b % 2 ^ n)

/-! ## Vector configuration -/

/-- LMUL in eighths; zero for the reserved code. -/
def lmulOf (vtype : Nat) : Nat :=
  match vtype % 8 with
  | 0 => 8
  | 1 => 16
  | 2 => 32
  | 3 => 64
  | 5 => 1
  | 6 => 2
  | 7 => 4
  | _ => 0

/-- A vtype that the core supports with VLEN 512 and ELEN 64. -/
def vtypeOk (v : Nat) : Bool :=
  decide (v < 256) && decide (fieldOf v 3 3 ≤ 3) && decide (lmulOf v ≠ 0) && decide (8 * 2 ^ fieldOf v 3 3 * 8 ≤ 64 * lmulOf v)

/-- VLMAX of a vtype. -/
def vlmaxOf (v : Nat) : Nat := lmulOf v * 64 / (8 * 2 ^ fieldOf v 3 3)

/-- vsetvli, vsetivli and vsetvl. (Log entry 49, PRESUMED.) -/
def Core.vset (c : Core) (i : Nat) : Option Core :=
  let imm := bitOf i 31 && bitOf i 30
  if bitOf i 31 && !imm && decide (fieldOf i 25 6 ≠ 0) then none
  else
    let vt := if imm then fieldOf i 20 10 else if bitOf i 31 then c.getX (rs2Of i) else fieldOf i 20 11
    if vtypeOk vt then
      let top := vlmaxOf vt
      let avl := if imm then rs1Of i else if rs1Of i ≠ 0 then c.getX (rs1Of i) else if rdOf i ≠ 0 then 2 ^ 64 - 1 else c.vl
      let c : Core := { c with vl := min avl top, vtype := vt, vstart := 0 }
      some (c.setX (rdOf i) (min avl top))
    else
      let c : Core := { c with vl := 0, vtype := 2 ^ 63, vstart := 0 }
      some (c.setX (rdOf i) 0)

/-! ## Register groups -/

/-- EMUL of elements of n bits, in eighths. -/
def Core.emul (c : Core) (n : Nat) : Nat := n * lmulOf c.vtype / c.sew
/-- The registers that a group of elements of n bits takes; a mask takes one. -/
def Core.regsOf (c : Core) (n : Nat) : Nat := if n = 1 then 1 else max 1 (c.emul n / 8)
/-- A group of elements of n bits at register r exists; a mask may lie in any register. -/
def Core.grpOk (c : Core) (r n : Nat) : Bool :=
  decide (n = 1) ||
    (decide (8 ≤ n) && decide (n ≤ 64) && decide (n * lmulOf c.vtype % c.sew = 0) && decide (1 ≤ c.emul n) &&
      decide (c.emul n ≤ 64) && decide (r % c.regsOf n = 0))

/-- Two register ranges have no register in common. -/
def regsApart (r n s m : Nat) : Bool := decide (r + n ≤ s) || decide (s + m ≤ r)

/-- A destination may lie over a source: with equal elements anywhere, with narrower ones at the source's lowest register,
with wider ones so that the source is its highest part. -/
def Core.overlapOk (c : Core) (vd nd vs ns : Nat) : Bool :=
  let (rd, rs) := (c.regsOf nd, c.regsOf ns)
  regsApart vd rd vs rs || decide (nd = ns) || (decide (nd < ns) && decide (vd = vs)) ||
    (decide (1 < ns) && decide (ns < nd) && decide (8 ≤ c.emul ns) && decide (vs + rs = vd + rd))

/-- No register is read with two element widths. -/
def Core.widthsOk (c : Core) : List (Nat × Nat) → Bool
  | [] => true
  | s :: ss => ss.all (fun t => decide (s.2 = t.2) || regsApart s.1 (c.regsOf s.2) t.1 (c.regsOf t.2)) && c.widthsOk ss

/-- The sources of an instruction (register and element width) exist; with vm 0 the mask register v0 is one of them. -/
def Core.srcsOk (c : Core) (vm : Bool) (srcs : List (Nat × Nat)) : Bool :=
  srcs.all (fun s => c.grpOk s.1 s.2) && c.widthsOk (if vm then srcs else (0, 1) :: srcs)

/-- The registers of an instruction are legal: its groups exist, the destination overlaps none wrongly, and a masked
destination that is no mask is not v0. -/
def Core.regsLegal (c : Core) (vm : Bool) (vd nd : Nat) (srcs : List (Nat × Nat)) : Bool :=
  c.grpOk vd nd && c.srcsOk vm srcs && srcs.all (fun s => c.overlapOk vd nd s.1 s.2) &&
    (vm || decide (nd = 1) || decide (vd ≠ 0))

/-- The destination group overlaps none of the sources at all. -/
def Core.noOverlap (c : Core) (vd nd : Nat) (srcs : List (Nat × Nat)) : Bool :=
  srcs.all (fun s => regsApart vd (c.regsOf nd) s.1 (c.regsOf s.2))

/-! ## What an instruction leaves -/

/-- What a vector instruction gives: the core with its results, the flags it accrues (those of fcsr, and 32 for vxsat), and
where its destination's tail begins and its changes begin. `eew` is zero where no vector register is written. -/
structure VOut where
  core : Core
  fl : Nat := 0
  eew : Nat := 0
  regs : Nat := 1
  tail : Nat := 0
  vm : Bool := true
  lo : Nat := 0

/-- Flags accrued: fcsr's, and vxsat. -/
def Core.accrueV (c : Core) (fl : Nat) : Core := { c.accrue (fl % 32) with vcsr := c.vcsr ||| fl / 32 % 2 }

/-- Active elements of the body written from what a function gives for each: its value and its flags.
(Log entry 7, PRESUMED.) -/
def Core.vMap (c : Core) (vd nd : Nat) (vm : Bool) (f : Nat → Nat × Nat) : VOut :=
  let out := (c.body.filter (c.active vm)).foldl (fun (k : Core × Nat) e =>
    let r := f e
    (k.1.setVElem vd nd e r.1, k.2 ||| r.2)) (c, 0)
  { core := out.1, fl := out.2, eew := nd, regs := c.regsOf nd, tail := c.vl, vm := vm }

/-- The same with each element written whatever v0 says, which the function reads itself. -/
def Core.vAll (c : Core) (vd nd : Nat) (f : Nat → Nat × Nat) : VOut := c.vMap vd nd true f

/-- Element 0 of the destination written, where the body holds it; what follows is tail. -/
def Core.vScalar (c : Core) (vd nd v fl : Nat) : VOut :=
  if c.vl = 0 ∨ c.vl ≤ c.vstart then { core := c }
  else { core := c.setVElem vd nd 0 v, fl := fl, eew := nd, regs := 1, tail := 1 }

/-! ## Integer and fixed-point elements -/

/-- A shift to the right by d with the rounding of vxrm. -/
def roundOff (vxrm : Nat) (v : Int) (d : Nat) : Int :=
  let q := v >>> d
  let rest := v - q * 2 ^ d
  let half : Int := 2 ^ d / 2
  let up := match vxrm with
    | 0 => decide (0 < d) && decide (half ≤ rest)
    | 1 => decide (0 < d) && (decide (half < rest) || (decide (half = rest) && decide (q % 2 = 1)))
    | 2 => false
    | _ => decide (q % 2 = 0) && decide (rest ≠ 0)
  if up then q + 1 else q

/-- An integer that wraps into n bits. -/
def vWrap (n : Nat) (i : Int) : Nat × Nat := (wrapTo n i, 0)
/-- An integer that saturates in n bits and sets vxsat where it does. -/
def vSat (n : Nat) (sgn : Bool) (i : Int) : Nat × Nat :=
  let r := if sgn then clampTo (intMin n) (intMax n) i else clampTo 0 (2 ^ n - 1) i
  (wrapTo n r.1, if r.2 then 32 else 0)

/-- The single-width instructions of OPIVV, OPIVX and OPIVI on elements a of vs2 and b of the other operand. -/
def vInt (f6 n vxrm a b : Nat) : Nat × Nat :=
  let (sa, sb) := (sext n a, sext n b)
  let sh := b % n
  match f6 with
  | 0x00 => vWrap n (a + b)
  | 0x02 => vWrap n (a - b)
  | 0x03 => vWrap n (b - a)
  | 0x04 => (min a b, 0)
  | 0x05 => (if sb < sa then b else a, 0)
  | 0x06 => (max a b, 0)
  | 0x07 => (if sa < sb then b else a, 0)
  | 0x09 => (a &&& b, 0)
  | 0x0A => (a ||| b, 0)
  | 0x0B => (a ^^^ b, 0)
  | 0x20 => vSat n false (a + b)
  | 0x21 => vSat n true (sa + sb)
  | 0x22 => vSat n false (a - b)
  | 0x23 => vSat n true (sa - sb)
  | 0x25 => vWrap n (a * 2 ^ sh)
  | 0x27 => vSat n true (roundOff vxrm (sa * sb) (n - 1))
  | 0x28 => (a / 2 ^ sh, 0)
  | 0x29 => vWrap n (sa >>> sh)
  | 0x2A => vWrap n (roundOff vxrm a sh)
  | _ => vWrap n (roundOff vxrm sa sh)

/-- A single-width instruction of that kind exists for the operand form. -/
def vIntHas (f3 f6 : Nat) : Bool :=
  [0x00, 0x09, 0x0A, 0x0B, 0x20, 0x21, 0x25, 0x28, 0x29, 0x2A, 0x2B].contains f6 ||
    (decide (f3 ≠ 0) && decide (f6 = 3)) ||
    (decide (f3 ≠ 3) && [0x02, 0x04, 0x05, 0x06, 0x07, 0x22, 0x23, 0x27].contains f6)

/-- The single-width instructions of OPMVV and OPMVX without an addend. -/
def vMul (f6 n vxrm a b : Nat) : Nat × Nat :=
  let (sa, sb) := (sext n a, sext n b)
  match f6 with
  | 0x08 => vWrap n (roundOff vxrm (a + b) 1)
  | 0x09 => vWrap n (roundOff vxrm (sa + sb) 1)
  | 0x0A => vWrap n (roundOff vxrm (a - b) 1)
  | 0x0B => vWrap n (roundOff vxrm (sa - sb) 1)
  | 0x20 => (rvDivu n a b, 0)
  | 0x21 => (rvDiv n a b, 0)
  | 0x22 => (rvRemu n a b, 0)
  | 0x23 => (rvRem n a b, 0)
  | 0x24 => (a * b / 2 ^ n, 0)
  | 0x25 => vWrap n (a * b)
  | 0x26 => vWrap n ((sa * (b : Int)) >>> n)
  | _ => vWrap n ((sa * sb) >>> n)

/-- The single-width multiply-adds: a of vs2, b of the other operand, x of the destination. -/
def vMulAdd (f6 n a b x : Nat) : Nat × Nat :=
  match f6 with
  | 0x29 => vWrap n ((b : Int) * x + a)
  | 0x2B => vWrap n ((a : Int) - b * x)
  | 0x2D => vWrap n ((b : Int) * a + x)
  | _ => vWrap n ((x : Int) - b * a)

/-- The widening instructions into n bits, whose operands are given as their integers, unsigned and signed. -/
def vWiden (f6 n a b : Nat) (sa sb : Int) (x : Nat) : Nat × Nat :=
  match f6 with
  | 0x30 | 0x34 => vWrap n (a + b)
  | 0x31 | 0x35 => vWrap n (sa + sb)
  | 0x32 | 0x36 => vWrap n (a - b)
  | 0x33 | 0x37 => vWrap n (sa - sb)
  | 0x38 => vWrap n (a * b)
  | 0x3A => vWrap n (sa * b)
  | 0x3B => vWrap n (sa * sb)
  | 0x3C => vWrap n (a * b + x)
  | 0x3D => vWrap n (sa * sb + x)
  | 0x3E => vWrap n (sa * b + x)
  | _ => vWrap n (a * sb + x)

/-- The narrowing instructions from 2n bits to n. -/
def vNarrow (f6 n vxrm a b : Nat) : Nat × Nat :=
  let sh := b % (2 * n)
  let sa := sext (2 * n) a
  match f6 with
  | 0x2C => vWrap n (a / 2 ^ sh : Nat)
  | 0x2D => vWrap n (sa >>> sh)
  | 0x2E => vSat n false (roundOff vxrm a sh)
  | _ => vSat n true (roundOff vxrm sa sh)

/-- The integer comparisons. -/
def vCmp (f6 n a b : Nat) : Bool :=
  let (sa, sb) := (sext n a, sext n b)
  match f6 with
  | 0x18 => decide (a = b)
  | 0x19 => decide (a ≠ b)
  | 0x1A => decide (a < b)
  | 0x1B => decide (sa < sb)
  | 0x1C => decide (a ≤ b)
  | 0x1D => decide (sa ≤ sb)
  | 0x1E => decide (b < a)
  | _ => decide (sb < sa)

/-- A comparison exists for the operand form. -/
def vCmpHas (f3 f6 : Nat) : Bool :=
  [0x18, 0x19, 0x1C, 0x1D].contains f6 || (decide (f3 ≠ 3) && [0x1A, 0x1B].contains f6) ||
    (decide (f3 ≠ 0) && [0x1E, 0x1F].contains f6)

/-- A bit as an element. -/
def bitElem (b : Bool) : Nat × Nat := (if b then 1 else 0, 0)

/-- The operation of an integer reduction. -/
def vRed (f6 n a b : Nat) : Nat :=
  match f6 with
  | 0 => (a + b) % 2 ^ n
  | 1 => a &&& b
  | 2 => a ||| b
  | 3 => a ^^^ b
  | 4 => min a b
  | 5 => if sext n b < sext n a then b else a
  | 6 => max a b
  | _ => if sext n a < sext n b then b else a

/-- The mask-register operations. -/
def vMaskOp (f6 : Nat) (a b : Bool) : Bool :=
  match f6 with
  | 0x18 => a && !b
  | 0x19 => a && b
  | 0x1A => a || b
  | 0x1B => a != b
  | 0x1C => a || !b
  | 0x1D => !(a && b)
  | 0x1E => !(a || b)
  | _ => a == b

/-! ## Integer instructions -/

/-- The operand other than vs2, as an element of n bits: of vs1, of x[rs1], or the immediate, sign-extended or not. -/
def Core.vOther (c : Core) (i n : Nat) (unsigned : Bool) (e : Nat) : Nat :=
  match f3Of i with
  | 3 => if unsigned then rs1Of i else wrapTo n (sext 5 (rs1Of i))
  | 4 | 6 => c.getX (rs1Of i) % 2 ^ n
  | _ => c.vElem (rs1Of i) n e

/-- The vector register group that the other operand is, with elements of n bits. -/
def otherGroup (i n : Nat) : List (Nat × Nat) := if f3Of i < 3 then [(rs1Of i, n)] else []

/-- vxrm. -/
abbrev Core.vxrm (c : Core) : Nat := fieldOf c.vcsr 1 2

/-- A result where the registers are legal. -/
def vWhen (ok : Bool) (r : VOut) : Option VOut := if ok then some r else none

/-- The whole index or offset of a gather or slide: x[rs1] or the immediate. -/
def Core.vOffset (c : Core) (i : Nat) : Nat := if f3Of i = 3 then rs1Of i else c.getX (rs1Of i)

/-- Element e of the group at r, or zero past VLMAX. -/
def Core.vPick (c : Core) (r n e : Nat) : Nat := if e < vlmaxOf c.vtype then c.vElem r n e else 0

/-- Gathers and slides of OPIVV, OPIVX and OPIVI. (Log entry 7, PRESUMED.) -/
def Core.vMove (c : Core) (i : Nat) : Option VOut :=
  let (vd, vs2, n, vm) := (rdOf i, rs2Of i, c.sew, bitOf i 25)
  let legal (srcs : List (Nat × Nat)) : Bool := c.regsLegal vm vd n srcs && c.noOverlap vd n srcs
  match f3Of i, fieldOf i 26 6 with
  | 0, 0x0C => vWhen (legal [(vs2, n), (rs1Of i, n)])
      (c.vMap vd n vm (fun e => (c.vPick vs2 n (c.vElem (rs1Of i) n e), 0)))
  | 0, 0x0E => vWhen (legal [(vs2, n), (rs1Of i, 16)])
      (c.vMap vd n vm (fun e => (c.vPick vs2 n (c.vElem (rs1Of i) 16 e), 0)))
  | _, 0x0C => vWhen (legal [(vs2, n)]) (c.vMap vd n vm (fun _ => (c.vPick vs2 n (c.vOffset i), 0)))
  | _, 0x0E =>
    let off := c.vOffset i
    vWhen (legal [(vs2, n)])
      { c.vMap vd n vm (fun e => (if e < off then c.vElem vd n e else c.vElem vs2 n (e - off), 0)) with lo := min off c.vl }
  | 0, _ => none
  | _, _ => vWhen (c.regsLegal vm vd n [(vs2, n)]) (c.vMap vd n vm (fun e => (c.vPick vs2 n (e + c.vOffset i), 0)))

/-- A whole-register move of one, two, four or eight registers. -/
def Core.vMoveWhole (c : Core) (i : Nat) : Option VOut :=
  let nr := rs1Of i + 1
  let (vd, vs2, n) := (rdOf i, rs2Of i, c.sew)
  let es := (List.range (nr * 512 / n)).filter (fun e => c.vstart ≤ e)
  vWhen (bitOf i 25 && [1, 2, 4, 8].contains nr && decide (vd % nr = 0) && decide (vs2 % nr = 0))
    { core := es.foldl (fun k e => k.setVElem vd n e (c.vElem vs2 n e)) c }

/-- OPIVV, OPIVX and OPIVI. (Log entry 7, PRESUMED.) -/
def Core.vOpi (c : Core) (i : Nat) : Option VOut :=
  let (vd, vs2, n, vm, f3, f6) := (rdOf i, rs2Of i, c.sew, bitOf i 25, f3Of i, fieldOf i 26 6)
  let shift := decide (0x25 ≤ f6)
  let b (e : Nat) : Nat := c.vOther i n shift e
  let a (e : Nat) : Nat := c.vElem vs2 n e
  let srcs := (vs2, n) :: otherGroup i n
  let carry (e : Nat) : Nat := if vm then 0 else if c.active false e then 1 else 0
  match f6 with
  | 0x0C | 0x0E | 0x0F => c.vMove i
  | 0x10 => vWhen (!vm && decide (vd ≠ 0) && c.regsLegal false vd n srcs) (c.vAll vd n (fun e => vWrap n (a e + b e + carry e)))
  | 0x12 => vWhen (!vm && decide (vd ≠ 0) && decide (f3 ≠ 3) && c.regsLegal false vd n srcs)
      (c.vAll vd n (fun e => vWrap n ((a e : Int) - b e - carry e)))
  | 0x11 => vWhen (c.regsLegal vm vd 1 srcs) (c.vAll vd 1 (fun e => bitElem (decide (2 ^ n ≤ a e + b e + carry e))))
  | 0x13 => vWhen (decide (f3 ≠ 3) && c.regsLegal vm vd 1 srcs)
      (c.vAll vd 1 (fun e => bitElem (decide (a e < b e + carry e))))
  | 0x17 =>
    if vm then vWhen (decide (vs2 = 0) && c.regsLegal true vd n (otherGroup i n)) (c.vAll vd n (fun e => (b e, 0)))
    else vWhen (c.regsLegal false vd n srcs) (c.vAll vd n (fun e => (if c.active false e then b e else a e, 0)))
  | 0x30 | 0x31 =>
    let wide (x : Nat) : Nat := if f6 = 0x31 then wrapTo (2 * n) (sext n x) else x
    vWhen (decide (f3 = 0) && decide (c.vstart = 0) && decide (n < 64) && c.grpOk vs2 n &&
        c.widthsOk ((if vm then [] else [(0, 1)]) ++ [(vs2, n)]) && regsApart (rs1Of i) 1 vs2 (c.regsOf n) &&
        (vm || decide (rs1Of i ≠ 0)))
      (c.vScalar vd (2 * n) ((c.body.filter (c.active vm)).foldl (fun x e => (x + wide (a e)) % 2 ^ (2 * n))
        (c.vElem (rs1Of i) (2 * n) 0)) 0)
  | _ =>
    if f3 = 3 ∧ f6 = 0x27 then c.vMoveWhole i
    else if 0x18 ≤ f6 ∧ f6 < 0x20 then
      vWhen (vCmpHas f3 f6 && c.regsLegal vm vd 1 srcs) (c.vMap vd 1 vm (fun e => bitElem (vCmp f6 n (a e) (b e))))
    else if 0x2C ≤ f6 ∧ f6 < 0x30 then
      vWhen (decide (n < 64) && c.regsLegal vm vd n ((vs2, 2 * n) :: otherGroup i n))
        (c.vMap vd n vm (fun e => vNarrow f6 n c.vxrm (c.vElem vs2 (2 * n) e)
          (if f3 = 4 then c.getX (rs1Of i) else b e)))
    else vWhen (vIntHas f3 f6 && c.regsLegal vm vd n srcs) (c.vMap vd n vm (fun e => vInt f6 n c.vxrm (a e) (b e)))

/-- vmsbf, vmsif and vmsof on the bits of vs2: before the first set one, up to it, or it alone. -/
def Core.vFirst (c : Core) (i : Nat) : Option VOut :=
  let (vd, vs2, vm) := (rdOf i, rs2Of i, bitOf i 25)
  let act := c.body.filter (c.active vm)
  let first := (act.find? (fun e => bitOf (c.getV vs2) e)).getD c.vl
  vWhen (decide (c.vstart = 0) && decide (vd ≠ vs2) && (vm || decide (vd ≠ 0)))
    (c.vMap vd 1 vm (fun e => bitElem (match rs1Of i with
      | 1 => decide (e < first)
      | 2 => decide (e = first)
      | _ => decide (e ≤ first))))

/-- The VMUNARY0 instructions. -/
def Core.vMaskUnary (c : Core) (i : Nat) : Option VOut :=
  let (vd, vs2, n, vm) := (rdOf i, rs2Of i, c.sew, bitOf i 25)
  match rs1Of i with
  | 1 | 2 | 3 => c.vFirst i
  | 0x10 =>
    let act := c.body.filter (c.active vm)
    vWhen (decide (c.vstart = 0) && c.regsLegal vm vd n [] && regsApart vd (c.regsOf n) vs2 1)
      (c.vMap vd n vm (fun e => ((act.filter (fun j => decide (j < e) && bitOf (c.getV vs2) j)).length % 2 ^ n, 0)))
  | 0x11 => vWhen (decide (vs2 = 0) && c.regsLegal vm vd n []) (c.vMap vd n vm (fun e => (e % 2 ^ n, 0)))
  | _ => none

/-- vcompress. -/
def Core.vCompress (c : Core) (i : Nat) : Option VOut :=
  let (vd, vs2, n) := (rdOf i, rs2Of i, c.sew)
  let kept := c.body.filter (fun e => bitOf (c.getV (rs1Of i)) e)
  let out := kept.foldl (fun (k : Core × Nat) e => (k.1.setVElem vd n k.2 (c.vElem vs2 n e), k.2 + 1)) (c, 0)
  vWhen (bitOf i 25 && decide (c.vstart = 0) && c.regsLegal true vd n [(vs2, n)] && c.noOverlap vd n [(vs2, n), (rs1Of i, 1)] &&
      c.widthsOk [(vs2, n), (rs1Of i, 1)])
    { core := out.1, eew := n, regs := c.regsOf n, tail := kept.length }

/-- VWXUNARY0 and VRXUNARY0: moves between element 0 and x registers, and the counts of a mask. -/
def Core.vScalarMove (c : Core) (i : Nat) : Option VOut :=
  let (n, vm) := (c.sew, bitOf i 25)
  let set := (c.body.filter (c.active vm)).filter (fun e => bitOf (c.getV (rs2Of i)) e)
  if f3Of i = 6 then vWhen (vm && decide (rs2Of i = 0)) (c.vScalar (rdOf i) n (c.getX (rs1Of i)) 0)
  else
    match rs1Of i with
    | 0 => vWhen vm { core := c.setX (rdOf i) (wrapTo 64 (sext n (c.vElem (rs2Of i) n 0))) }
    | 0x10 => vWhen (decide (c.vstart = 0)) { core := c.setX (rdOf i) set.length }
    | 0x11 => vWhen (decide (c.vstart = 0)) { core := c.setX (rdOf i) (set.headD (2 ^ 64 - 1)) }
    | _ => none

/-- vslide1up and vslide1down with a scalar. -/
def Core.vSlide1 (c : Core) (i scalar : Nat) : Option VOut :=
  let (vd, vs2, n, vm) := (rdOf i, rs2Of i, c.sew, bitOf i 25)
  if fieldOf i 26 6 = 0x0E then
    vWhen (c.regsLegal vm vd n [(vs2, n)] && c.noOverlap vd n [(vs2, n)])
      (c.vMap vd n vm (fun e => (if e = 0 then scalar else c.vElem vs2 n (e - 1), 0)))
  else vWhen (c.regsLegal vm vd n [(vs2, n)])
    (c.vMap vd n vm (fun e => (if e + 1 = c.vl then scalar else c.vPick vs2 n (e + 1), 0)))

/-- Widening integer instructions. -/
def Core.vOpWiden (c : Core) (i : Nat) : Option VOut :=
  let (vd, vs2, n, vm, f6) := (rdOf i, rs2Of i, c.sew, bitOf i 25, fieldOf i 26 6)
  let m := 2 * n
  let na := if 0x34 ≤ f6 ∧ f6 < 0x38 then m else n
  vWhen (decide (n < 64) && decide (f6 ≠ 0x39) && (decide (f3Of i = 6) || decide (f6 ≠ 0x3E)) &&
      c.regsLegal vm vd m ((vs2, na) :: otherGroup i n))
    (c.vMap vd m vm (fun e =>
      let a := c.vElem vs2 na e
      let b := c.vOther i n false e
      vWiden f6 m a b (sext na a) (sext n b) (c.vElem vd m e)))

/-- OPMVV and OPMVX. (Log entry 7, PRESUMED.) -/
def Core.vOpm (c : Core) (i : Nat) : Option VOut :=
  let (vd, vs2, n, vm, f3, f6) := (rdOf i, rs2Of i, c.sew, bitOf i 25, f3Of i, fieldOf i 26 6)
  let b (e : Nat) : Nat := c.vOther i n false e
  let a (e : Nat) : Nat := c.vElem vs2 n e
  let srcs := (vs2, n) :: otherGroup i n
  if f6 < 8 then
    vWhen (decide (f3 = 2) && decide (c.vstart = 0) && c.grpOk vs2 n && (vm || (decide (vs2 ≠ 0) && decide (rs1Of i ≠ 0))))
      (c.vScalar vd n ((c.body.filter (c.active vm)).foldl (fun x e => vRed f6 n x (a e)) (c.vElem (rs1Of i) n 0)) 0)
  else if 0x30 ≤ f6 then c.vOpWiden i
  else
    match f6 with
    | 0x0E | 0x0F => if f3 = 6 then c.vSlide1 i (c.getX (rs1Of i) % 2 ^ n) else none
    | 0x10 => c.vScalarMove i
    | 0x12 =>
      let k := 2 ^ (4 - rs1Of i / 2)
      vWhen (decide (f3 = 2) && decide (2 ≤ rs1Of i) && decide (rs1Of i < 8) && decide (8 ≤ n / k) &&
          c.regsLegal vm vd n [(vs2, n / k)])
        (c.vMap vd n vm (fun e =>
          let x := c.vElem vs2 (n / k) e
          (if rs1Of i % 2 = 1 then wrapTo n (sext (n / k) x) else x, 0)))
    | 0x14 => if f3 = 2 then c.vMaskUnary i else none
    | 0x17 => if f3 = 2 then c.vCompress i else none
    | 0x29 | 0x2B | 0x2D | 0x2F =>
      vWhen (c.regsLegal vm vd n srcs) (c.vMap vd n vm (fun e => vMulAdd f6 n (a e) (b e) (c.vElem vd n e)))
    | _ =>
      if 0x18 ≤ f6 ∧ f6 < 0x20 then
        vWhen (decide (f3 = 2) && vm)
          (c.vAll vd 1 (fun e => bitElem (vMaskOp f6 (bitOf (c.getV vs2) e) (bitOf (c.getV (rs1Of i)) e))))
      else
        vWhen (((decide (8 ≤ f6) && decide (f6 < 0x0C)) || (decide (0x20 ≤ f6) && decide (f6 < 0x28))) &&
            c.regsLegal vm vd n srcs)
          (c.vMap vd n vm (fun e => vMul f6 n c.vxrm (a e) (b e)))

/-! ## Floating-point elements -/

/-- The format of elements of n bits. -/
def fltFmt (n : Nat) : Fmt := if n = 16 then .fp16 else if n = 32 then .fp32 else .fp64

/-- a - b. -/
def Fmt.fsub (f : Fmt) (mode : RMode) (a b : Nat) : Nat × Nat :=
  f.fadd mode a (if (f.decode b).isNan then b else f.flip b)

/-- ±(a × b) ± c. -/
def Fmt.fmaSigned (f : Fmt) (mode : RMode) (a b c : Nat) (negP negC : Bool) : Nat × Nat :=
  f.fma mode a b (if negC && !(f.decode c).isNan then f.flip c else c) negP

/-- The sign of one float put on another: copied, inverted, or multiplied. -/
def Fmt.sgnj (f : Fmt) (k a b : Nat) : Nat :=
  let sa := bitOf a (f.eb + f.fb)
  let sb := bitOf b (f.eb + f.fb)
  f.signed (match k with
    | 0 => sb
    | 1 => !sb
    | _ => sa != sb) (a % 2 ^ (f.eb + f.fb))

/-- A conversion rounded to odd: towards zero, with the lowest bit set where the result is inexact. -/
def Fmt.convertOdd (f g : Fmt) (a : Nat) : Nat × Nat :=
  let r := f.convert g .rtz a
  if bitOf r.2 0 then (r.1 ||| 1, r.2) else r

/-- The first seven bits of an estimate: of a reciprocal of 1 + (i + 1/2) / 128. -/
def rec7Bits (i : Nat) : Nat := (2 * 256 * 256 / (256 + 2 * i + 1) - 256 + 1) / 2

/-- The first seven bits of the reciprocal square root's estimate: i below 64 for an odd exponent, above for an even one. -/
def rsqrt7Bits (i : Nat) : Nat :=
  let (m, k) := if i < 64 then (2 * i + 1 + 128, 1) else (2 * (i - 64) + 1 + 128, 0)
  (isqrt (2 ^ 18 * 128 * 2 ^ (1 - k) / (2 * m)) - 256 + 1) / 2

/-- A subnormal significand brought to the form of a normal one: exponent and fraction. -/
def Fmt.normal (f : Fmt) (E F : Nat) : Int × Nat :=
  if E ≠ 0 then (E, F)
  else
    let k := f.fb - Nat.log2 F
    (1 - (k : Int), (F * 2 ^ k) % 2 ^ f.fb)

/-- vfrec7. -/
def Fmt.rec7 (f : Fmt) (mode : RMode) (a : Nat) : Nat × Nat :=
  match f.decode a with
  | .nan => (f.nan, if f.snan a then fNV else 0)
  | .inf s => (f.signed s 0, 0)
  | .fin s m _ =>
    if m = 0 then (f.signed s f.infCode, fDZ)
    else
      let (e, F) := f.normal (fieldOf a f.fb f.eb) (fieldOf a 0 f.fb)
      if e < -1 then (f.overflow mode s, fOF + fNX)
      else
        let o : Int := 2 * (f.bias : Int) - 1 - e
        let sig := rec7Bits (F / 2 ^ (f.fb - 7)) * 2 ^ (f.fb - 7)
        let code :=
          if 0 < o then o.toNat * 2 ^ f.fb + sig
          else if o = 0 then sig / 2 + 2 ^ (f.fb - 1)
          else (sig / 2 + 2 ^ (f.fb - 1)) / 2
        (f.signed s code, 0)

/-- vfrsqrt7. -/
def Fmt.rsqrt7 (f : Fmt) (a : Nat) : Nat × Nat :=
  match f.decode a with
  | .nan => (f.nan, if f.snan a then fNV else 0)
  | .inf s => if s then (f.nan, fNV) else (0, 0)
  | .fin s m _ =>
    if m = 0 then (f.signed s f.infCode, fDZ)
    else if s then (f.nan, fNV)
    else
      let (e, F) := f.normal (fieldOf a f.fb f.eb) (fieldOf a 0 f.fb)
      let idx := (e % 2).toNat * 64 + F / 2 ^ (f.fb - 6)
      let o := ((3 * (f.bias : Int) - 1 - e) / 2).toNat
      (o * 2 ^ f.fb + rsqrt7Bits idx * 2 ^ (f.fb - 7), 0)

/-! ## Floating-point instructions -/

/-- The operand other than vs2 as a float of n bits: of vs1, or f[rs1]. -/
def Core.vfOther (c : Core) (i n e : Nat) : Nat :=
  if f3Of i = 5 then c.getFp (fltFmt n) (rs1Of i) else c.vElem (rs1Of i) n e

/-- A float of a narrower format made wider, with the flag that a signaling NaN raises. -/
def widened (n x : Nat) : Nat × Nat := (fltFmt n).convert (fltFmt (2 * n)) .rne x

/-- A fused multiply-add by its code: a of vs2, b of the other operand, x of the destination. -/
def vFma (f : Fmt) (mode : RMode) (k a b x : Nat) : Nat × Nat :=
  let (p, q) := if k < 4 then (x, a) else (a, x)
  match k % 4 with
  | 0 => f.fmaSigned mode b p q false false
  | 1 => f.fmaSigned mode b p q true true
  | 2 => f.fmaSigned mode b p q false true
  | _ => f.fmaSigned mode b p q true false

/-- Widening floating-point instructions from 32 bits. -/
def Core.vfWiden (c : Core) (i : Nat) (mode : RMode) : Option VOut :=
  let (vd, vs2, n, vm, f6) := (rdOf i, rs2Of i, c.sew, bitOf i 25, fieldOf i 26 6)
  let f := fltFmt 64
  let na := if f6 = 0x34 ∨ f6 = 0x36 then 64 else 32
  vWhen (decide (n = 32) && [0x30, 0x32, 0x34, 0x36, 0x38, 0x3C, 0x3D, 0x3E, 0x3F].contains f6 &&
      c.regsLegal vm vd 64 ((vs2, na) :: otherGroup i 32))
    (c.vMap vd 64 vm (fun e =>
      let a := if na = 64 then (c.vElem vs2 64 e, 0) else widened 32 (c.vElem vs2 32 e)
      let b := widened 32 (c.vfOther i 32 e)
      let r := match f6 with
        | 0x30 | 0x34 => f.fadd mode a.1 b.1
        | 0x32 | 0x36 => f.fsub mode a.1 b.1
        | 0x38 => f.fmul mode a.1 b.1
        | _ => vFma f mode (4 + f6 % 4) a.1 b.1 (c.vElem vd 64 e)
      (r.1, r.2 ||| a.2 ||| b.2)))

/-- The conversions of VFUNARY0: none where the form is reserved or outside the profile. -/
def Core.vfConvert (c : Core) (i : Nat) (mode : RMode) : Option VOut :=
  let (vd, vs2, n, vm, k) := (rdOf i, rs2Of i, c.sew, bitOf i 25, rs1Of i)
  let md := if k % 8 = 6 ∨ k % 8 = 7 then RMode.rtz else mode
  let run (nd ns : Nat) (ok : Bool) (g : Nat → Nat × Nat) : Option VOut :=
    vWhen (ok && c.regsLegal vm vd nd [(vs2, ns)]) (c.vMap vd nd vm (fun e => g (c.vElem vs2 ns e)))
  let sgn := decide (k % 2 = 1)
  let num (m x : Nat) : Int := if sgn then sext m x else x
  let single := decide (n = 32) || decide (n = 64)
  match k with
  | 0 | 1 | 6 | 7 => run n n single ((fltFmt n).toInt md n sgn)
  | 2 | 3 => run n n single (fun x => (fltFmt n).ofInt md (num n x))
  | 8 | 9 | 14 | 15 => run 64 32 (decide (n = 32)) ((fltFmt 32).toInt md 64 sgn)
  | 10 | 11 => run (2 * n) n (decide (n = 16) || decide (n = 32)) (fun x => (fltFmt (2 * n)).ofInt md (num n x))
  | 12 => run (2 * n) n (decide (n = 16) || decide (n = 32)) (widened n)
  | 13 => run 32 16 (decide (n = 16)) (Fmt.bf16.convert Fmt.fp32 md)
  | 16 | 17 | 22 | 23 => run n (2 * n) (decide (n = 16) || decide (n = 32)) ((fltFmt (2 * n)).toInt md n sgn)
  | 18 | 19 => run 32 64 (decide (n = 32)) (fun x => (fltFmt 32).ofInt md (num 64 x))
  | 20 => run n (2 * n) (decide (n = 16) || decide (n = 32)) ((fltFmt (2 * n)).convert (fltFmt n) md)
  | 21 => run 32 64 (decide (n = 32)) (Fmt.fp64.convertOdd Fmt.fp32)
  | 29 => run 16 32 (decide (n = 16)) (Fmt.fp32.convert Fmt.bf16 md)
  | _ => none

/-- VFUNARY1. -/
def Core.vfUnary (c : Core) (i : Nat) (mode : RMode) : Option VOut :=
  let (vd, vs2, n, vm) := (rdOf i, rs2Of i, c.sew, bitOf i 25)
  let f := fltFmt n
  let run (g : Nat → Nat × Nat) : Option VOut :=
    vWhen (c.regsLegal vm vd n [(vs2, n)]) (c.vMap vd n vm (fun e => g (c.vElem vs2 n e)))
  match rs1Of i with
  | 0 => run (f.fsqrt mode)
  | 4 => run f.rsqrt7
  | 5 => run (f.rec7 mode)
  | 16 => run (fun x => (f.fclass x, 0))
  | _ => none

/-- A float sum with its flags above the value. -/
def sumFlags (f : Fmt) (mode : RMode) (x y : Nat) : Nat :=
  let r := f.fadd mode (x % 2 ^ 64) (y % 2 ^ 64)
  r.1 + ((x / 2 ^ 64) ||| (y / 2 ^ 64) ||| r.2) * 2 ^ 64

/-- Floating-point reductions: sums in order, sums in an order that free values choose from the counter `ctr`, minimum and
maximum. (Log entry 7, PRESUMED.) -/
def Core.vfReduce (c : Core) (i ctr : Nat) (mode : RMode) : Option VOut × Nat :=
  let (vd, vs2, n, vm, f6) := (rdOf i, rs2Of i, c.sew, bitOf i 25, fieldOf i 26 6)
  let wide := decide (0x30 ≤ f6)
  let m := if wide then 64 else n
  let f := fltFmt m
  let start := c.vElem (rs1Of i) m 0
  let xs := (c.body.filter (c.active vm)).map (fun e =>
    let x := c.vElem vs2 n e
    if wide then (let r := widened n x; r.1 + r.2 * 2 ^ 64) else x)
  let ok := decide (c.vstart = 0) && c.grpOk vs2 n && (vm || (decide (vs2 ≠ 0) && decide (rs1Of i ≠ 0))) &&
    (!wide || (decide (n = 32) && regsApart (rs1Of i) 1 vs2 (c.regsOf n)))
  let out (v : Nat) : Option VOut := vWhen ok (c.vScalar vd m (v % 2 ^ 64) (v / 2 ^ 64))
  match f6 with
  | 1 | 0x31 =>
    if ok then
      let r := reduceFree (sumFlags f mode) (xs.length + 1) ctr (start :: xs)
      (out r.1, r.2)
    else (none, ctr)
  | 3 | 0x33 => (out (xs.foldl (sumFlags f mode) start), ctr)
  | _ => (out (xs.foldl (fun x y =>
      let r := f.fminmax (decide (f6 = 7)) (x % 2 ^ 64) y
      r.1 + ((x / 2 ^ 64) ||| r.2) * 2 ^ 64) start), ctr)

/-- The single-width floating-point instructions on elements a of vs2, b of the other operand and x of the destination; none
where the code is reserved. -/
def vFlt (f : Fmt) (mode : RMode) (vf : Bool) (f6 a b x : Nat) : Option (Nat × Nat) :=
  match f6 with
  | 0x00 => some (f.fadd mode a b)
  | 0x02 => some (f.fsub mode a b)
  | 0x04 => some (f.fminmax false a b)
  | 0x06 => some (f.fminmax true a b)
  | 0x08 => some (f.sgnj 0 a b, 0)
  | 0x09 => some (f.sgnj 1 a b, 0)
  | 0x0A => some (f.sgnj 2 a b, 0)
  | 0x20 => some (f.fdiv mode a b)
  | 0x21 => if vf then some (f.fdiv mode b a) else none
  | 0x24 => some (f.fmul mode a b)
  | 0x27 => if vf then some (f.fsub mode b a) else none
  | _ => if 0x28 ≤ f6 ∧ f6 < 0x30 then some (vFma f mode (f6 % 8) a b x) else none

/-- The floating-point comparisons. -/
def vfCmp (f : Fmt) (f6 a b : Nat) : Nat × Nat :=
  match f6 with
  | 0x18 => f.fcompare 2 a b
  | 0x19 => f.fcompare 0 a b
  | 0x1B => f.fcompare 1 a b
  | 0x1C => let r := f.fcompare 2 a b; (1 - r.1, r.2)
  | 0x1D => f.fcompare 1 b a
  | _ => f.fcompare 0 b a

/-- OPFVV and OPFVF, and the counter of free values after it. (Log entry 7, PRESUMED.) -/
def Core.vOpf (c : Core) (i ctr : Nat) : Option VOut × Nat :=
  let (vd, vs2, n, vm, f6) := (rdOf i, rs2Of i, c.sew, bitOf i 25, fieldOf i 26 6)
  let vf := decide (f3Of i = 5)
  let srcs := (vs2, n) :: otherGroup i n
  match rmOf c.fcsr 7 with
  | none => (none, ctr)
  | some mode =>
    if f6 = 0x12 then (if vf then none else c.vfConvert i mode, ctr)
    else if n < 32 then (none, ctr)
    else
      let f := fltFmt n
      let a (e : Nat) : Nat := c.vElem vs2 n e
      let b (e : Nat) : Nat := c.vfOther i n e
      let scalar := c.getFp f (rs1Of i)
      match f6 with
      | 0x01 | 0x03 | 0x05 | 0x07 | 0x31 | 0x33 => if vf then (none, ctr) else c.vfReduce i ctr mode
      | 0x0E | 0x0F => (if vf then c.vSlide1 i scalar else none, ctr)
      | 0x10 =>
        (if vf then vWhen (vm && decide (vs2 = 0)) (c.vScalar vd n scalar 0)
         else vWhen (vm && decide (rs1Of i = 0)) { core := c.setFp f (rdOf i) (a 0) }, ctr)
      | 0x13 => (if vf then none else c.vfUnary i mode, ctr)
      | 0x17 =>
        (if !vf then none
         else if vm then vWhen (decide (vs2 = 0) && c.regsLegal true vd n []) (c.vAll vd n (fun _ => (scalar, 0)))
         else vWhen (c.regsLegal false vd n [(vs2, n)])
          (c.vAll vd n (fun e => (if c.active false e then scalar else a e, 0))), ctr)
      | _ =>
        if 0x18 ≤ f6 ∧ f6 < 0x20 then
          (vWhen (([0x18, 0x19, 0x1B, 0x1C].contains f6 || (vf && [0x1D, 0x1F].contains f6)) && c.regsLegal vm vd 1 srcs)
            (c.vMap vd 1 vm (fun e => vfCmp f f6 (a e) (b e))), ctr)
        else if 0x30 ≤ f6 then (c.vfWiden i mode, ctr)
        else
          (vWhen ((vFlt f mode vf f6 0 0 0).isSome && c.regsLegal vm vd n srcs)
            (c.vMap vd n vm (fun e => (vFlt f mode vf f6 (a e) (b e) (c.vElem vd n e)).getD (0, 0))), ctr)

/-! ## One instruction -/

/-- The result of a vector arithmetic instruction, and the counter of free values after it; none where the encoding or the
use of registers is reserved or outside the profile. (Log entry 7, PRESUMED.) -/
def Core.vArith (c : Core) (i ctr : Nat) : Option VOut × Nat :=
  match f3Of i with
  | 0 | 3 | 4 => (c.vOpi i, ctr)
  | 2 | 6 => (c.vOpm i, ctr)
  | _ => c.vOpf i ctr

/-- A vector arithmetic instruction: its results, its flags, and the program counter moved on; illegal where reserved or
outside the profile (R215). -/
def Work.vectorOp (w : Work) (d g i : Nat) : Work :=
  let c := w.core d g
  match (if c.vtype < 2 ^ 63 then c.vArith i w.free else (none, w.free)) with
  | (none, _) => w.trap d g (trapIllegal i)
  | (some o, ctr) =>
    let (x, w) := { w with free := ctr }.looseBits c o.eew
    let k := if o.eew = 0 then o.core else { c with vstart := max c.vstart o.lo }.agnostic o.core (rdOf i) o.eew o.regs o.tail o.vm x
    w.setCore d g (k.accrueV o.fl).vRetire

end Sys2Proof.Machine
end

