-- ==== Sys2Proof/Machine/Rv64.lean ====
section
/-! DEFINITION. The instructions of RV64GC and of the V extension that a general core executes in user mode: fetch through the
instruction cache, the scalar instructions, CSRs, atomic instructions, vector configuration and memory accesses, and runtime
calls (R68, R215 to R227). -/

namespace Sys2Proof.Machine

/-! ## Integer arithmetic -/

/-- A register value as a signed number. -/
abbrev sx (x : Nat) : Int := sext 64 x

/-- OP and OP-IMM: by funct3, with the second operand, and whether SUB or SRA is meant. -/
def aluOp (f3 : Nat) (alt : Bool) (a b : Nat) : Nat :=
  match f3 with
  | 0 => wrapTo 64 (if alt then (a : Int) - b else (a : Int) + b)
  | 1 => a * 2 ^ (b % 64) % 2 ^ 64
  | 2 => if sx a < sx b then 1 else 0
  | 3 => if a < b then 1 else 0
  | 4 => a ^^^ b
  | 5 => if alt then wrapTo 64 (sx a >>> (b % 64)) else a / 2 ^ (b % 64)
  | 6 => a ||| b
  | _ => a &&& b

/-- OP-32 and OP-IMM-32 for ADD, SUB and the shifts; none for the other values of funct3. -/
def aluOp32 (f3 : Nat) (alt : Bool) (a b : Nat) : Option Nat :=
  match f3 with
  | 0 => some (sx32 (wrapTo 32 (if alt then (a : Int) - b else (a : Int) + b)))
  | 1 => some (sx32 (a * 2 ^ (b % 32)))
  | 5 => some (sx32 (if alt then wrapTo 32 (sext 32 (a % 2 ^ 32) >>> (b % 32)) else a % 2 ^ 32 / 2 ^ (b % 32)))
  | _ => none

/-- The M extension. -/
def mulOp (f3 : Nat) (a b : Nat) : Nat :=
  match f3 with
  | 0 => a * b % 2 ^ 64
  | 1 => wrapTo 64 ((sx a * sx b) >>> 64)
  | 2 => wrapTo 64 ((sx a * (b : Int)) >>> 64)
  | 3 => a * b / 2 ^ 64
  | 4 => rvDiv 64 a b
  | 5 => rvDivu 64 a b
  | 6 => rvRem 64 a b
  | _ => rvRemu 64 a b

/-- The M extension's 32-bit forms. -/
def mulOp32 (f3 : Nat) (a b : Nat) : Option Nat :=
  match f3 with
  | 0 => some (sx32 (a * b))
  | 4 => some (sx32 (rvDiv 32 a b))
  | 5 => some (sx32 (rvDivu 32 a b))
  | 6 => some (sx32 (rvRem 32 a b))
  | 7 => some (sx32 (rvRemu 32 a b))
  | _ => none

/-- The value of a register-register instruction; none where its code is reserved. -/
def Core.opReg (c : Core) (i : Nat) : Option Nat :=
  let a := c.getX (rs1Of i)
  let b := c.getX (rs2Of i)
  let f3 := f3Of i
  match f7Of i with
  | 0 => some (aluOp f3 false a b)
  | 1 => some (mulOp f3 a b)
  | 0x20 => if f3 = 0 ∨ f3 = 5 then some (aluOp f3 true a b) else none
  | _ => none

/-- The value of a 32-bit register-register instruction. -/
def Core.opReg32 (c : Core) (i : Nat) : Option Nat :=
  let a := c.getX (rs1Of i)
  let b := c.getX (rs2Of i)
  match f7Of i with
  | 0 => aluOp32 (f3Of i) false a b
  | 1 => mulOp32 (f3Of i) a b
  | 0x20 => if f3Of i = 1 then none else aluOp32 (f3Of i) true a b
  | _ => none

/-- The value of an immediate instruction. -/
def Core.opImm (c : Core) (i : Nat) : Option Nat :=
  let a := c.getX (rs1Of i)
  match f3Of i, fieldOf i 26 6 with
  | 1, 0 => some (aluOp 1 false a (fieldOf i 20 6))
  | 1, _ => none
  | 5, 0 => some (aluOp 5 false a (fieldOf i 20 6))
  | 5, 0x10 => some (aluOp 5 true a (fieldOf i 20 6))
  | 5, _ => none
  | f3, _ => some (aluOp f3 false a (wrapTo 64 (immI i)))

/-- The value of a 32-bit immediate instruction. -/
def Core.opImm32 (c : Core) (i : Nat) : Option Nat :=
  let a := c.getX (rs1Of i)
  match f3Of i, f7Of i with
  | 0, _ => aluOp32 0 false a (wrapTo 64 (immI i))
  | 1, 0 => aluOp32 1 false a (rs2Of i)
  | 5, 0 => aluOp32 5 false a (rs2Of i)
  | 5, 0x20 => aluOp32 5 true a (rs2Of i)
  | _, _ => none

/-- Whether a branch is taken; none for a reserved funct3. -/
def branchTaken (f3 a b : Nat) : Option Bool :=
  match f3 with
  | 0 => some (decide (a = b))
  | 1 => some (decide (a ≠ b))
  | 4 => some (decide (sx a < sx b))
  | 5 => some (decide (sx b ≤ sx a))
  | 6 => some (decide (a < b))
  | 7 => some (decide (b ≤ a))
  | _ => none

/-! ## CSRs in user mode (R217) -/

/-- A CSR's value, and whether it takes writes; none for one that user mode does not permit. `cycles` is a value of the cycle
counter, which the spec does not fix. (Log entries 48, PRESUMED; 49, PRESUMED.) -/
def Work.csr (w : Work) (c : Core) (cycles : Nat) : Nat → Option (Nat × Bool)
  | 0x001 => some (c.fcsr % 32, true)
  | 0x002 => some (fieldOf c.fcsr 5 3, true)
  | 0x003 => some (c.fcsr % 256, true)
  | 0x008 => some (c.vstart, true)
  | 0x009 => some (fieldOf c.vcsr 0 1, true)
  | 0x00A => some (fieldOf c.vcsr 1 2, true)
  | 0x00F => some (c.vcsr, true)
  | 0x800 => some (c.vhseed, true)
  | 0xC00 => some (cycles, false)
  | 0xC01 => some (w.now, false)
  | 0xC02 => some (c.instret, false)
  | 0xC20 => some (c.vl, false)
  | 0xC21 => some (c.vtype, false)
  | 0xC22 => some (64, false)
  | 0xCC0 => some (c.tapout, false)
  | 0xCC1 => some (c.tapdone, false)
  | _ => none

/-- A CSR written. -/
def Core.setCsr (c : Core) (n v : Nat) : Core :=
  match n with
  | 0x001 => { c with fcsr := c.fcsr / 32 * 32 + v % 32 }
  | 0x002 => { c with fcsr := c.fcsr % 32 + v % 8 * 32 }
  | 0x003 => { c with fcsr := v % 256 }
  | 0x008 => { c with vstart := v % 512 }
  | 0x009 => { c with vcsr := c.vcsr / 2 * 2 + v % 2 }
  | 0x00A => { c with vcsr := c.vcsr % 2 + v % 4 * 2 }
  | 0x00F => { c with vcsr := v % 8 }
  | 0x800 => { c with vhseed := v % 2 ^ 64 }
  | _ => c

/-- Zicsr. -/
def Work.csrOp (w : Work) (d g i : Nat) : Work :=
  let c := w.core d g
  let n := fieldOf i 20 12
  let f3 := f3Of i
  let (cycles, w) := if n = 0xC00 then w.fresh 64 else (0, w)
  let src := if 4 < f3 then rs1Of i else c.getX (rs1Of i)
  let writes := decide (f3 % 4 = 1) || decide (rs1Of i ≠ 0)
  match w.csr c cycles n with
  | none => w.trap d g (trapIllegal i)
  | some (old, rw) =>
    if f3 % 4 = 0 ∨ (writes = true ∧ rw = false) then w.trap d g (trapIllegal i)
    else
      let new := match f3 % 4 with
        | 1 => src
        | 2 => old ||| src
        | _ => old - (old &&& src)
      w.setCore d g (((if writes then c.setCsr n new else c).setX (rdOf i) old).retire 4)

/-! ## Loads, stores and atomic instructions (R219 to R224) -/

/-- An instruction that ends in a load: its bytes give the core. -/
def Work.loadInto (w : Work) (d g a n len : Nat) (f : Core → Nat → Core) : Work :=
  match w.loadBytes d g a n n 4 with
  | .trap t => w.memTrap d g t
  | .bytes _ bs _ => w.setCore d g ((f (w.core d g) (ofBytes bs)).retire len)

/-- An instruction that stores a value. -/
def Work.storeFrom (w : Work) (d g a n v len : Nat) : Work :=
  match w.storeBytes d g a n (toBytes n v) with
  | .trap t => w.memTrap d g t
  | .ok w => w.setCore d g ((w.core d g).retire len)

/-- The value that an atomic instruction stores, from the old one and its operand. -/
def amoValue (f5 n old b : Nat) : Option Nat :=
  match f5 with
  | 0 => some ((old + b) % 2 ^ n)
  | 1 => some b
  | 4 => some (old ^^^ b)
  | 8 => some (old ||| b)
  | 12 => some (old &&& b)
  | 16 => some (if sext n b < sext n old then b else old)
  | 20 => some (if sext n old < sext n b then b else old)
  | 24 => some (min old b)
  | 28 => some (max old b)
  | _ => none

/-- The A extension, on the core's own local memory only (R223). (Log entries 48, PRESUMED; 49, PRESUMED.) -/
def Work.amo (w : Work) (d g i : Nat) : Work :=
  let c := w.core d g
  let n := if f3Of i = 2 then 4 else 8
  let f5 := fieldOf i 27 5
  let a := c.getX (rs1Of i)
  let b := c.getX (rs2Of i) % 2 ^ (8 * n)
  let wide (v : Nat) : Nat := if n = 4 then sx32 v else v
  if (f3Of i ≠ 2 ∧ f3Of i ≠ 3) ∨ (f5 = 2 ∧ rs2Of i ≠ 0) ∨ (f5 ≠ 2 ∧ f5 ≠ 3 ∧ amoValue f5 (8 * n) 0 0 = none) then
    w.trap d g (trapIllegal i)
  else
    match w.target d g a n with
    | .own k =>
      if a % n ≠ 0 then w.trap d g { cause := if f5 = 2 then 4 else 6, val := a }
      else
      let line := (w.key k).map (fun x => x / 64)
      if f5 = 3 then
        let c' : Core := { c with resv := none }
        if c.resv.isSome ∧ c.resv = line then
          (w.write k (toBytes n b)).setCore d g ((c'.setX (rdOf i) 0).retire 4)
        else w.setCore d g ((c'.setX (rdOf i) 1).retire 4)
      else
        (match w.loadBytes d g a n n 6 with
        | .trap t => w.memTrap d g t
        | .bytes _ bs _ =>
          let old := ofBytes bs
          let c' := (c.setX (rdOf i) (wide old)).retire 4
          if f5 = 2 then w.setCore d g { c' with resv := line }
          else (w.write k (toBytes n ((amoValue f5 (8 * n) old b).getD 0))).setCore d g c')
    | _ => w.trap d g { cause := 7, val := a }

/-! ## Vector memory -/

/-- How a vector access lies: bytes of an element, registers of a field's group, fields, elements, whether v0 masks it,
whether it is fault-only-first, the address of element i of field s, and whether it moves whole registers or a mask. -/
structure VAccess where
  bytes : Nat
  regs : Nat
  nf : Nat
  vl : Nat
  vm : Bool
  first : Bool
  addr : Nat → Nat → Nat
  whole : Bool
  mask : Bool

/-- The access of a vector load or store; none where its code is reserved. (Log entry 49, PRESUMED.) -/
def Core.vAccess (c : Core) (i : Nat) (load : Bool) : Option VAccess :=
  let eew := match f3Of i with
    | 0 => 8
    | 5 => 16
    | 6 => 32
    | _ => 64
  let base := c.getX (rs1Of i)
  let nf := fieldOf i 29 3 + 1
  let vm := bitOf i 25
  let emul (n : Nat) : Nat := n * lmulOf c.vtype / c.sew
  let legal (n : Nat) : Bool :=
    decide (c.vtype < 2 ^ 63) && decide (n * lmulOf c.vtype % c.sew = 0) && decide (1 ≤ emul n) && decide (emul n ≤ 64)
  let regs (n : Nat) : Nat := max 1 (emul n / 8)
  let fits (n : Nat) : Bool :=
    legal n && decide (nf * regs n ≤ 8) && decide (rdOf i % regs n = 0) && decide (rdOf i + nf * regs n ≤ 32) &&
      (vm || decide (rdOf i ≠ 0))
  let step := nf * (eew / 8)
  if bitOf i 28 then none
  else
    match fieldOf i 26 2 with
    | 0 =>
      (match rs2Of i with
      | 0 => if fits eew then some ⟨eew / 8, regs eew, nf, c.vl, vm, false, fun e s => base + e * step + s * (eew / 8), false, false⟩ else none
      | 8 =>
        if vm && [1, 2, 4, 8].contains nf && decide (rdOf i % nf = 0) && (load || decide (eew = 8)) then
          some ⟨eew / 8, nf, 1, nf * 512 / eew, true, false, fun e _ => base + e * (eew / 8), true, false⟩
        else none
      | 11 =>
        if vm && decide (nf = 1) && decide (eew = 8) && decide (c.vtype < 2 ^ 63) then
          some ⟨1, 1, 1, ceilDiv c.vl 8, true, false, fun e _ => base + e, false, true⟩
        else none
      | 16 =>
        if load && fits eew then some ⟨eew / 8, regs eew, nf, c.vl, vm, true, fun e s => base + e * step + s * (eew / 8), false, false⟩
        else none
      | _ => none)
    | 2 =>
      if fits eew then
        some ⟨eew / 8, regs eew, nf, c.vl, vm, false, fun e s => base + e * c.getX (rs2Of i) + s * (eew / 8), false, false⟩
      else none
    | _ =>
      let data := (List.range nf).map (fun s => (rdOf i + s * regs c.sew, c.sew))
      let apart := if load then
          (if nf = 1 then c.overlapOk (rdOf i) c.sew (rs2Of i) eew else data.all (fun s => c.noOverlap s.1 c.sew [(rs2Of i, eew)]))
            && (vm || decide (rs2Of i ≠ 0))
        else c.widthsOk ((if vm then [] else [(0, 1)]) ++ (rs2Of i, eew) :: data)
      if legal eew && fits c.sew && decide (rs2Of i % regs eew = 0) && apart then
        some ⟨c.sew / 8, regs c.sew, nf, c.vl, vm, false, fun e s => base + c.vElem (rs2Of i) eew e + s * (c.sew / 8), false, false⟩
      else none

/-- The fields of a load with their agnostic elements; a whole-register load has none. (Log entry 49, PRESUMED.) -/
def VAccess.settle (x : VAccess) (w : Work) (d g vd : Nat) (c0 k : Core) : Work :=
  let n := 8 * x.bytes
  let (ends, c) : Bool × Core := if x.mask then (true, { c0 with vtype := c0.vtype ||| 64, vl := x.vl }) else (!x.whole, c0)
  if ends then
    let (bits, w) := w.looseBits c (8 * x.bytes)
    w.setCore d g ((List.range x.nf).foldl (fun (k : Core) s =>
      c.agnostic k (vd + s * x.regs) n x.regs x.vl x.vm (fieldOf bits (64 * s) (512 - 64 * s))) k).vRetire
  else w.setCore d g k.vRetire

/-- A vector load, element by element: a trap leaves vstart at its element, and a fault-only-first load shortens vl at a
later element than the first. -/
def Work.vLoad (w : Work) (d g vd : Nat) (x : VAccess) (c0 : Core) : List (Nat × Nat) → Core → Work
  | [], c => x.settle w d g vd c0 c
  | (e, s) :: es, c =>
    if !c.active x.vm e then Work.vLoad w d g vd x c0 es c
    else
      match w.loadBytes d g (x.addr e s % 2 ^ 64) x.bytes x.bytes 4 with
      | .bytes _ bs _ => Work.vLoad w d g vd x c0 es (c.setVElem (vd + s * x.regs) (8 * x.bytes) e (ofBytes bs))
      | .trap t =>
        if x.first && decide (0 < e) && !t.waits then { x with vl := e }.settle w d g vd { c0 with vl := e } { c with vl := e }
        else (w.setCore d g { c with vstart := e }).memTrap d g t

/-- A vector store, element by element. -/
def Work.vStore (w : Work) (d g vs3 : Nat) (x : VAccess) (c : Core) : List (Nat × Nat) → Work
  | [] => w.setCore d g { c.retire 4 with vstart := 0 }
  | (e, s) :: es =>
    if !c.active x.vm e then Work.vStore w d g vs3 x c es
    else
      match w.storeBytes d g (x.addr e s % 2 ^ 64) x.bytes
          (toBytes x.bytes (c.vElem (vs3 + s * x.regs) (8 * x.bytes) e)) with
      | .ok w => Work.vStore w d g vs3 x c es
      | .trap t => (w.setCore d g { c with vstart := e }).memTrap d g t

/-- A vector load or store. -/
def Work.vMemory (w : Work) (d g i : Nat) (load : Bool) : Work :=
  let c := w.core d g
  match c.vAccess i load with
  | none => w.trap d g (trapIllegal i)
  | some x =>
    let es := ((List.range x.vl).filter (fun e => c.vstart ≤ e)).flatMap (fun e => (List.range x.nf).map (fun s => (e, s)))
    if load then w.vLoad d g (rdOf i) x c es c else w.vStore d g (rdOf i) x c es

/-! ## The Oxene opcodes (R229) -/

/-- custom-0. -/
def Work.oxene0 (w : Work) (d g i : Nat) : Work :=
  let vm := bitOf i 25
  let f6 := fieldOf i 26 6
  match f3Of i with
  | 0 =>
    if rs1Of i ≠ 0 then w.trap d g (trapIllegal i)
    else if f6 = 0 then w.vh64V d g (rdOf i) (rs2Of i) vm
    else if f6 = 1 then w.vh64Vs d g (rdOf i) (rs2Of i) vm
    else w.trap d g (trapIllegal i)
  | 1 =>
    if f7Of i = 0 then w.vh64M d g (rdOf i) (rs1Of i) (rs2Of i)
    else if f7Of i = 1 then w.crc32cM d g (rdOf i) (rs1Of i) (rs2Of i)
    else w.trap d g (trapIllegal i)
  | 2 =>
    if f6 % 2 = 0 ∧ f6 < 16 then w.vbkt d g (bitOf f6 3) (bitOf f6 2) (bitOf f6 1) (rdOf i) (rs2Of i) (rs1Of i) vm
    else w.trap d g (trapIllegal i)
  | 3 => if f6 = 0 ∧ vm = true then w.vbitonic d g (rdOf i) (rs2Of i) (rs1Of i) else w.trap d g (trapIllegal i)
  | _ => w.trap d g (trapIllegal i)

/-- custom-1. -/
def Work.oxene1 (w : Work) (d g i : Nat) : Work :=
  let vm := bitOf i 25
  let f6 := fieldOf i 26 6
  match f3Of i with
  | 0 => if rs1Of i = 0 ∧ f6 < 3 then w.vargmax d g f6 (rdOf i) (rs2Of i) vm else w.trap d g (trapIllegal i)
  | 1 =>
    if rs1Of i = 0 ∧ f6 < 2 ∧ vm = true then w.vqpack d g (decide (f6 = 1)) (rdOf i) (rs2Of i) else w.trap d g (trapIllegal i)
  | 2 => if rs2Of i = 0 ∧ f7Of i < 3 then w.vtap d g (f7Of i) (rdOf i) (rs1Of i) else w.trap d g (trapIllegal i)
  | _ => w.trap d g (trapIllegal i)

/-! ## Runtime calls -/

/-- An operator record of a call that names no operator is refused. -/
def Work.operatorCall (w : Work) (d g a0 row0 count : Nat) : Work :=
  w.opCall d g a0 (fun w o =>
    match o.op with
    | 0xA1 => w.filterOp d g row0 count o
    | 0xA2 => w.joinBuild d g row0 count o
    | 0xA3 => w.joinProbeOp d g row0 count o
    | 0xA4 => w.gatherOp d g row0 count o
    | 0xA5 => w.bucketizeOp d g row0 count o
    | 0xA6 => w.normaliseOp d g row0 count o
    | 0xA7 => w.hashFeatureOp d g row0 count o
    | 0xA8 => w.windowOp d g row0 count o
    | _ => w.opFail d g (w.undefinedOp (w.planOf (.core d g)) o))

/-- An ingest record of a call that names no operation is refused. -/
def Work.ingestCall (w : Work) (d g a0 row0 count : Nat) : Work :=
  match w.callRecord d g a0 64 64 with
  | none => w.ingFail d g [sRange]
  | some bs =>
    let o := IngRec.ofRec (BitVec.ofNat 512 (ofBytes bs))
    match o.op with
    | 0xF1 => w.arrowCheck d g row0 count o
    | 0xF2 => w.parquetDecode d g row0 count o
    | _ => w.ingFail d g [sRange]

/-- `ecall`: a7 names the runtime call. What the runtime answers to another number is not given.
(Log entry 49, PRESUMED.) -/
def Work.ecall (w : Work) (d g : Nat) : Work :=
  let c := w.core d g
  let a0 := c.getX 10
  let a1 := c.getX 11
  let a2 := c.getX 12
  match c.getX 17 with
  | 0x4F01 => w.taskSubmit d g a0
  | 0x4F02 => w.operatorCall d g a0 a1 a2
  | 0x4F03 => w.selCall d g a0 a1 a2 none
  | 0x4F04 => w.embCall d g a0 none
  | 0x4F05 => w.jobCall d g a0 (fun _ => true)
  | 0x4F06 => w.ingestCall d g a0 a1 a2
  | 0x4F07 => w.frameCall d g a0
  | 0x4F08 => w.emitCall d g a0 a1 a2
  | 0x4F09 => w.planEventCall d g a0 a1
  | _ =>
    let (x, w) := w.fresh 64
    w.callReturn d g x none

/-! ## One instruction -/

/-- SYSTEM in user mode. -/
def Work.system (w : Work) (d g i : Nat) : Work :=
  if f3Of i ≠ 0 then w.csrOp d g i
  else
    match i with
    | 0x00000073 => w.ecall d g
    | 0x00100073 => w.ebreak d g
    | 0x10500073 => w.wfi d g
    | _ => w.trap d g (trapIllegal i)

/-- A value written to rd, or an illegal instruction. -/
def Work.result (w : Work) (d g i len : Nat) (v : Option Nat) : Work :=
  match v with
  | some v => w.setCore d g (((w.core d g).setX (rdOf i) v).retire len)
  | none => w.trap d g (trapIllegal i)

/-- A core replaced by the one that an instruction gives, or an illegal instruction. -/
def Work.became (w : Work) (d g i : Nat) (c : Option Core) : Work :=
  match c with
  | some c => w.setCore d g (c.retire 4)
  | none => w.trap d g (trapIllegal i)

/-- A jump: the program counter is an even address. -/
def Work.jump (w : Work) (d g : Nat) (c : Core) (len : Nat) (dest : Int) : Work :=
  w.setCore d g { c.retire len with pc := wrapTo 64 dest / 2 * 2 }

/-- A load of integers: bytes and whether it is signed. -/
def loadShape : Nat → Option (Nat × Bool)
  | 0 => some (1, true)
  | 1 => some (2, true)
  | 2 => some (4, true)
  | 3 => some (8, true)
  | 4 => some (1, false)
  | 5 => some (2, false)
  | 6 => some (4, false)
  | _ => none

/-- The instruction of a 32-bit word, or of one that a 16-bit code abbreviates (`len` is its length).
(Log entry 48, PRESUMED.) -/
def Work.execWord (w : Work) (d g i len : Nat) : Work :=
  let c := w.core d g
  let a := c.getX (rs1Of i)
  let bad := w.trap d g (trapIllegal i)
  match i % 128 with
  | 0x37 => w.result d g i len (some (wrapTo 64 (immU i)))
  | 0x17 => w.result d g i len (some (wrapTo 64 (c.pc + immU i)))
  | 0x6F => w.jump d g (c.setX (rdOf i) (c.pc + len)) len (c.pc + immJ i)
  | 0x67 => if f3Of i = 0 then w.jump d g (c.setX (rdOf i) (c.pc + len)) len (a + immI i) else bad
  | 0x63 =>
    (match branchTaken (f3Of i) a (c.getX (rs2Of i)) with
    | some t => w.jump d g c len (if t then c.pc + immB i else c.pc + len)
    | none => bad)
  | 0x03 =>
    (match loadShape (f3Of i) with
    | some (n, sgn) => w.loadInto d g (wrapTo 64 (a + immI i)) n len (fun c v =>
        c.setX (rdOf i) (if sgn then wrapTo 64 (sext (8 * n) v) else v))
    | none => bad)
  | 0x23 => if f3Of i < 4 then w.storeFrom d g (wrapTo 64 (a + immS i)) (2 ^ f3Of i) (c.getX (rs2Of i)) len else bad
  | 0x13 => w.result d g i len (c.opImm i)
  | 0x1B => w.result d g i len (c.opImm32 i)
  | 0x33 => w.result d g i len (c.opReg i)
  | 0x3B => w.result d g i len (c.opReg32 i)
  | 0x0F =>
    if f3Of i = 0 then w.setCore d g (c.retire len)
    else if f3Of i = 1 then w.setCore d g ({ c with icache := [] }.retire len)
    else bad
  | 0x73 => w.system d g i
  | 0x2F => w.amo d g i
  | 0x07 =>
    (match f3Of i with
    | 2 => w.loadInto d g (wrapTo 64 (a + immI i)) 4 len (fun c v => c.setFp Fmt.fp32 (rdOf i) v)
    | 3 => w.loadInto d g (wrapTo 64 (a + immI i)) 8 len (fun c v => c.setFp Fmt.fp64 (rdOf i) v)
    | 1 => bad
    | 4 => bad
    | _ => w.vMemory d g i true)
  | 0x27 =>
    (match f3Of i with
    | 2 => w.storeFrom d g (wrapTo 64 (a + immS i)) 4 (c.getF (rs2Of i)) len
    | 3 => w.storeFrom d g (wrapTo 64 (a + immS i)) 8 (c.getF (rs2Of i)) len
    | 1 => bad
    | 4 => bad
    | _ => w.vMemory d g i false)
  | 0x43 => w.became d g i (c.opFma i false false)
  | 0x47 => w.became d g i (c.opFma i false true)
  | 0x4B => w.became d g i (c.opFma i true false)
  | 0x4F => w.became d g i (c.opFma i true true)
  | 0x53 => w.became d g i (c.opFp i)
  | 0x57 =>
    if f3Of i = 7 then w.became d g i (c.vset i)
    else w.vectorOp d g i
  | 0x0B => w.oxene0 d g i
  | 0x2B => w.oxene1 d g i
  | _ => bad

/-! ## Fetching (R225) -/

/-- A line of the instruction cache as fetched: on a miss it is read from memory and counted, and in a full set of four a
line gives way; which one the spec does not say. None where its page has no memory. (Log entry 50, DEDUCED.) -/
def Work.fetchLine (w : Work) (d g line : Nat) : Option (List Byte × Work) :=
  let c := w.core d g
  match c.icache.find? (fun e => e.1 = line) with
  | some e => some (e.2, w)
  | none =>
    match w.read (line * 64) 64 with
    | none => none
    | some bs =>
      let set := c.icache.filter (fun e => e.1 % 128 = line % 128)
      let (x, w) := if set.length < 4 then (0, w) else w.fresh 2
      let gone := (set.map (·.1)).getD x line
      let c : Core := { c with icache := (line, bs) ::
        (if set.length < 4 then c.icache else c.icache.filter (fun e => e.1 ≠ gone)) }
      some (bs, (w.setCore d g c).bump F.gcStatusIcMiss d g)

/-- The half word at an address of the plan's code region, or a trap. (Log entry 50, DEDUCED.) -/
def Work.fetchHalf (w : Work) (d g pc : Nat) : (Nat × Work) ⊕ TrapInfo :=
  let code := match (w.plan (w.planOf (.core d g))).image with
    | some i => i.code
    | none => ⟨0, 0⟩
  if pc < code.lo ∨ code.lo + code.len < pc + 2 then .inr { cause := 1, val := pc }
  else
    if w.racking pc && (w.core d g).icache.all (fun e => e.1 ≠ pc / 64) then .inr { cause := 1, val := pc, waits := true }
    else
    match w.fetchLine d g (pc / 64) with
    | some (bs, w) => .inl (leAt bs (pc % 64) 2, w)
    | none => .inr { cause := 1, val := pc, unmapped := true }

/-- A core in user mode fetches and executes one instruction. (Log entry 47, DEDUCED.) -/
def Work.rvStep (w : Work) (d g : Nat) : Work :=
  let pc := (w.core d g).pc
  match w.fetchHalf d g pc with
  | .inr t => w.trap d g t
  | .inl (h, w) =>
    if h % 4 ≠ 3 then
      (match expandC h with
      | some i => w.execWord d g i 2
      | none => w.trap d g (trapIllegal h))
    else
      match w.fetchHalf d g (pc + 2) with
      | .inr t => w.trap d g t
      | .inl (k, w) => w.execWord d g (h + k * 65536) 4

/-- RV64GC_INSTRUCTION (R68, R215 to R226): the instruction at the core's program counter. -/
def execRv64gcInstruction (die gc : Nat) (s : State) : Out :=
  s.perform (.rv64gcInstruction die gc)
    (fun w => w.coreRow die gc (fun w => ((w.gcEcc die gc w.nextFound).rvStep die gc).dropFound))

end Sys2Proof.Machine
end

