-- ==== Sys2Proof/Machine/Module.lean ====
section
/-! DEFINITION. Supplies, sequencing, the NVW inhibit, the power cap, temperatures and the optical cages (R621 to R638,
R648). -/

namespace Sys2Proof.Machine

/-- The module's own state changed. -/
def Work.setMod (w : Work) (f : ModSt → ModSt) : Work := { w with modl := f w.modl }

/-- Level conditions shown in PWR_STATUS; those that rise raise their sources once every field shows the sample (R586). -/
def Work.setLevels (w : Work) (l : List (Fld × Nat × Bool)) : Work :=
  let rising := l.filter (fun x => x.2.2 && !w.rdB x.1 0 0)
  let w := l.foldl (fun (w : Work) x => w.wrB x.1 0 0 x.2.2) w
  rising.foldl (fun (w : Work) x => w.levelEvent x.2.1) w

/-! ## Losing power (R622, R627, R628, R629, R637) -/

/-- The logic loses its rails: nothing of it survives, and only the module's sideband goes on.
(Log entry 142, DEDUCED.) -/
def Work.loseLogic (w : Work) : Work :=
  let m := w.modl
  let cause := w.dv F.rstCauseCause
  let w := w.flashCut true
  let b : Block := { w.toBlock.afterReset true with modl := m.afterReset false }
  let w : Work := { w with toBlock := b, jnl := .clear cellarBase 0x200000000 :: w.jnl }
  w.wr F.rstCauseCause 0 0 cause

/-- A trip recorded in the fault latch, which PWR_STATUS follows. -/
def Work.trip (w : Work) (code rail : Nat) : Work :=
  let w := w.setMod (fun m => { m with latch := (code, rail) })
  ((w.wr F.pwrStatusLastTrip 0 0 code).wr F.pwrStatusTripRail 0 0 rail).wr F.pwrStatusTripValid 0 0 1

/-- The device is OFF (R570, R629). -/
def Work.powerOff (w : Work) : Work :=
  let w := w.setMod (fun m => { m with hotSwap := false, rails := [], borHeld := false, borSeen := false })
  w.loseLogic.wr F.rstStateState 0 0 stOff

/-- Bits of STATUS_VOUT set for a page. -/
def Work.voutSet (w : Work) (pg bits : Nat) : Work :=
  w.setMod (fun m => { m with vout := smSet 0 m.vout pg (smGet 0 m.vout pg ||| bits) })

/-- The sequencer removes every rail but VAUX and V3P3, until PWR_EN is cycled (R627, R637). -/
def Work.railFault (w : Work) (code rail bits : Nat) : Work :=
  let w := w.setMod (fun m => { m with tripped := true, rails := m.rails.filter (fun r => decide (9 ≤ r)) })
  (w.loseLogic.trip code rail).voutSet rail bits

/-- HOT_SWAP_CLOSE (R621, R622): a trip keeps the switch open until PWR_EN has been low. -/
def execHotSwapClose (s : State) : Out :=
  s.perform .hotSwapClose (fun w =>
    if w.modl.hotSwap || (w.modl.tripped && w.modl.pwrEn) then w
    else w.setMod (fun m => { m with hotSwap := true, pwrEn := true, tripped := false }))

/-- INPUT_OVERVOLTAGE (R622): the switch opens, and closes again as a new power-up. -/
def execInputOvervoltage (vinMv : Nat) (s : State) : Out :=
  s.perform (.inputOvervoltage vinMv) (fun w =>
    if 62000 < vinMv ∧ w.modl.hotSwap = true then (w.powerOff).trip 2 0 else w)

/-- INPUT_OVERCURRENT (R622): above 90 A, or above 75 A for 1 ms, the switch opens and latches. -/
def execInputOvercurrent (iinDa ns : Nat) (s : State) : Out :=
  s.perform (.inputOvercurrent iinDa ns) (fun w =>
    if (900 < iinDa ∨ (750 < iinDa ∧ 1000000 ≤ ns)) ∧ w.modl.hotSwap = true then
      ((w.powerOff).setMod (fun m => { m with tripped := true })).trip 1 0
    else w)

/-- RAIL_GOOD (R626). -/
def execRailGood (pg : Nat) (s : State) : Out :=
  s.perform (.railGood pg) (fun w =>
    if pg = 0 ∨ w.modl.hotSwap = false ∨ (w.modl.tripped = true ∧ pg < 9) then w
    else w.setMod (fun m => { m with rails := setInsert m.rails pg }))

/-- RAIL_GOOD_TIMEOUT (R626, R627): a rail has not become good within 5 ms of being enabled. -/
def execRailGoodTimeout (pg : Nat) (s : State) : Out :=
  s.perform (.railGoodTimeout pg) (fun w =>
    if pg ≠ 0 ∧ w.modl.hotSwap = true ∧ w.modl.tripped = false ∧ w.modl.rails.contains pg = false then
      w.railFault 4 pg 0x04
    else w)

/-- RAIL_FAULT (R627): a rail other than VCORE falls through its falling threshold. -/
def execRailFault (pg : Nat) (s : State) : Out :=
  s.perform (.railFault pg) (fun w =>
    if 5 ≤ pg ∧ w.powered = true ∧ w.modl.rails.contains pg = true then
      (w.railFault 4 pg 0x10).setMod (fun m => { m with rails := m.rails.filter (fun r => r ≠ pg) })
    else w)

/-- A brown-out (R565, R628): the logic rails go and the engine is held in reset; a second one within 1 s of the first is a
rail fault, of a rail that is not given. (Log entry 140, DESIGN CHOICE.) -/
def Work.brownOut (w : Work) : Work :=
  if !w.powered then w
  else
    let (again, w) := if w.modl.borSeen then w.fresh 1 else (0, w)
    if again = 1 then
      let (x, w) := w.fresh 4
      w.railFault 4 (x % 11) 0
    else
      let w := w.holdReset true rstBor
      w.setMod (fun m => { m with borHeld := true, borSeen := true, rails := m.rails.filter (fun r => decide (9 ≤ r)) })

/-- BOR (R565). -/
def execBor (s : State) : Out := s.perform .bor Work.brownOut

/-- BOR_RELEASE (R628): the sequencer restarts from step 4, and the engine starts. -/
def execBorRelease (s : State) : Out :=
  s.perform .borRelease (fun w =>
    if w.modl.borHeld then (w.setMod (fun m => { m with borHeld := false })).start true else w)

/-- VCORE_EXCURSION (R565, R629): a deep and long one is a brown-out of a die whose test is armed, another one only
warns. (Log entry 155, DESIGN CHOICE.) -/
def execVcoreExcursion (die mv ns : Nat) (s : State) : Out :=
  s.perform (.vcoreExcursion die mv ns) (fun w =>
    if w.powered = false ∨ w.modl.rails.contains (1 + die) = false ∨ 700 ≤ mv then w
    else if mv < 680 ∧ 5000 < ns then w.brownOut
    else w.setLevels [(F.pwrStatusSupply, 45, true)])

/-! ## The NVW inhibit (R630, R631) -/

/-- The inhibit comes into force. -/
def Work.nvwOn (w : Work) : Work := (w.flashCut true).setLevels [(F.pwrStatusNvw, 42, true)]

/-- VIN_LOW and VAUX_LOW. (Log entry 154, DEDUCED.) -/
def Work.showLow (w : Work) (vin vaux : Nat) : Work :=
  let low := decide (vin < w.dv F.pwrNvwThreshVinMv)
  let w := (w.wrB F.pwrStatusVinLow 0 0 low).wrB F.pwrStatusVauxLow 0 0 (decide (vaux < w.dv F.pwrNvwThreshVauxMv))
  if low then w.setMod (fun m => { m with statIn := m.statIn ||| 0x20 }) else w

/-- NVW_INHIBIT_ASSERT (R630). -/
def execNvwInhibitAssert (vinMv vauxMv : Nat) (s : State) : Out :=
  s.perform (.nvwInhibitAssert vinMv vauxMv) (fun w =>
    let w := w.showLow vinMv vauxMv
    if w.rdB F.pwrStatusVinLow 0 0 || w.rdB F.pwrStatusVauxLow 0 0 || !w.modl.pwrEn then w.nvwOn else w)

/-- NVW_INHIBIT_LIFT (R630): every condition has held for 10 ms; held fence-log records are written (R545). -/
def execNvwInhibitLift (vinMv vauxMv : Nat) (s : State) : Out :=
  s.perform (.nvwInhibitLift vinMv vauxMv) (fun w =>
    let w := w.showLow vinMv vauxMv
    if w.dv F.pwrNvwThreshVinMv + 500 ≤ vinMv ∧ w.dv F.pwrNvwThreshVauxMv + 20 ≤ vauxMv ∧ w.modl.pwrEn = true ∧
        w.rdB F.pwrStatusNvw 0 0 = true then
      (w.wr F.pwrStatusNvw 0 0 0).flushHeld
    else w)

/-- PWR_EN_DEASSERT (R629). -/
def execPwrEnDeassert (s : State) : Out :=
  s.perform .pwrEnDeassert (fun w => (w.setMod (fun m => { m with pwrEn := false })).nvwOn)

/-- POWER_DOWN_DELAY (R629): 1 ms after PWR_EN fell. -/
def execPowerDownDelay (s : State) : Out :=
  s.perform .powerDownDelay (fun w => if w.modl.pwrEn = false ∧ w.modl.hotSwap = true then w.powerOff else w)

/-! ## Power sampling and the cap (R632 to R635) -/

/-- Nominal millivolts and tolerance in percent of the rails, pages 1 to 10 (R625). -/
def railNominal : List (Nat × Nat) :=
  [(750, 3), (750, 3), (750, 3), (750, 3), (700, 3), (1100, 3), (1050, 3), (1200, 3), (1800, 3), (3300, 5)]

/-- The lowest effective gate of the dies: the lower of G and the die's thermal gate (R635). -/
def Work.lowestGate (w : Work) : Nat :=
  ((List.range 4).map (fun d => w.rd F.pwrThermThermGate d 0)).foldl min w.modl.gate

/-- G after a sample whose window averages avg, never below MIN_GATE (R633). (Log entry 154, DEDUCED.) -/
def ModSt.limit (m : ModSt) (avg cap minGate : Nat) (surge : Bool) : ModSt :=
  let m : ModSt := { m with gate := max m.gate minGate }
  if surge then { m with gate := minGate, below := 0 }
  else if cap < avg then { m with gate := max minGate (m.gate - 1), below := 0 }
  else if avg * 100 < cap * 98 then
    (if 10 ≤ m.below + 1 then { m with gate := min 16 (m.gate + 1), below := 0 } else { m with below := m.below + 1 })
  else { m with below := 0 }

/-- Bits of STATUS_VOUT for a rail outside its tolerance: over-voltage and under-voltage warning. -/
def voutBits (mv : Nat) (x : Nat × Nat) : Nat :=
  if x.1 * (100 + x.2) < mv * 100 then 0x40 else if mv * 100 < x.1 * (100 - x.2) then 0x20 else 0

/-- One 100 us sample of the supplies. (Log entry 154, DEDUCED.) -/
def Work.powerSample (w : Work) (r : PowerReadings) : Work :=
  let w := (List.range 11).foldl (fun (w : Work) pg =>
    ((w.wr F.pwrRailVMv 0 pg (getAt 0 r.mv pg)).wr F.pwrRailIDa 0 pg (getAt 0 r.da pg)).wr F.pwrRailPW 0 pg (getAt 0 r.w pg)) w
  let total := (r.w.drop 1).foldl (· + ·) 0
  let cap := w.dv F.pwrCapCapW
  let sums := (total :: w.modl.sums).take (max 1 (10 * w.dv F.pwrCapWindowMs))
  let avg := sums.foldl (· + ·) 0 / sums.length
  let surge := if 2800 < getAt 0 r.w 0 then w.modl.surge + 1 else 0
  let vin := getAt 0 r.mv 0
  let outs := (List.range 10).map (fun k => (k + 1, voutBits (getAt 0 r.mv (k + 1)) (getAt (0, 0) railNominal k)))
  let vinOut := decide (vin < 40000) || decide (60000 < vin)
  let supply := vinOut || outs.any (fun x => decide (x.2 ≠ 0)) || r.converterWarning
  let w := outs.foldl (fun (w : Work) x => if x.2 = 0 then w else w.voutSet x.1 x.2) w
  let w := w.setMod (fun m =>
    let m1 : ModSt := { m with sums := sums, surge := surge, warn := m.warn || r.converterWarning,
                               statIn := m.statIn ||| (if 60000 < vin then 0x40 else if vin < 40000 then 0x20 else 0) }
    if cap = 0 then m1 else m1.limit avg cap (w.dv F.pwrCapMinGate) (decide (10 ≤ surge)))
  let w := ((w.wr F.pwrStatusPinW 0 0 (getAt 0 r.w 0)).wr F.pwrStatusPoutAvgW 0 0 avg).wr F.pwrStatusGate 0 0 w.lowestGate
  w.setLevels [(F.pwrStatusCapping, 44, decide (w.modl.gate < 16)), (F.pwrStatusSupply, 45, supply)]

/-- POWER_SAMPLE (R633). (Log entry 155, DESIGN CHOICE.) -/
def execPowerSample (r : PowerReadings) (s : State) : Out :=
  s.perform (.powerSample r) (fun w => if w.powered then w.powerSample r else w)

/-! ## Temperature (R181, R636 to R638) -/

/-- The match tier that a sample asks for (R181). -/
def tierAfter (t s t1 t2 hyst : Nat) : Nat :=
  if t2 ≤ s then 2
  else if t = 2 then (if s + hyst < t2 then 1 else 2)
  else if t1 ≤ s then 1
  else if t = 1 ∧ t1 ≤ s + hyst then 1
  else 0

/-- A die's thermal gate and its count of cool samples after a sample (R636). -/
def gateAfter (gate cool hot minGate : Nat) : Nat × Nat :=
  if 95 ≤ hot then (max minGate (gate - 1), 0)
  else if hot < 92 then (if 10 ≤ cool + 1 then (min 16 (gate + 1), 0) else (gate, cool + 1))
  else (gate, 0)

/-- The greatest of some readings. -/
def hottest (l : List Nat) : Nat := l.foldl max 0

/-- The readings of one die (R636). -/
def Work.dieSample (w : Work) (r : Sensors) (d : Nat) : Work :=
  let cd := hottest (getAt [] r.cd d)
  let cl := hottest (getAt [] r.cl d)
  let a := getAt 0 r.hbmA d
  let b := getAt 0 r.hbmB d
  let (g, c) := gateAfter (w.rd F.pwrThermThermGate d 0) (getAt 0 w.modl.cool d) (hottest [cd, cl, a, b])
    (w.dv F.pwrCapMinGate)
  let w := (((w.wr F.pwrThermCdC d 0 cd).wr F.pwrThermClC d 0 cl).wr F.pwrThermHbmaC d 0 a).wr F.pwrThermHbmbC d 0 b
  let w := (w.wr F.pwrThermThermGate d 0 g).setMod (fun m => { m with cool := m.cool.set d c })
  let now := match w.tierNext.find? (fun e => e.1 = d) with
    | some e => e.2
    | none => w.rd F.matchThrottleTier d 0
  let t1 := w.rd F.matchThrottleT1C d 0
  if t1 = 0 then w
  else
    let t := tierAfter now cl t1 (w.rd F.matchThrottleT2C d 0) (w.rd F.matchThrottleHystC d 0)
    { w with tierNext := (d, t) :: w.tierNext.filter (fun e => e.1 ≠ d) }

/-- One 100 us sample of the sensors. -/
def Work.sensorSample (w : Work) (r : Sensors) : Work :=
  let w := (List.range 4).foldl (fun (w : Work) d => w.dieSample r d) w
  let hot := hottest (r.cd.flatten ++ r.cl.flatten ++ r.hbmA ++ r.hbmB)
  let coolant := decide (40 < r.inlet) || decide (60 < r.outlet)
  let gated := (List.range 4).any (fun d => decide (w.rd F.pwrThermThermGate d 0 < 16))
  let w := ((w.wr F.pwrThermInletC 0 0 r.inlet).wr F.pwrThermOutletC 0 0 r.outlet).setMod (fun m =>
    { m with statTemp := m.statTemp ||| (if 105 ≤ hot then 0xC0 else if 95 ≤ hot then 0x40 else 0) })
  let w := ((w.wr F.pwrStatusHottestC 0 0 hot).wr F.pwrStatusGate 0 0 w.lowestGate).wrB F.pwrStatusCoolant 0 0 coolant
  let w := w.setLevels [(F.pwrStatusThermal, 43, coolant || gated)]
  if 105 ≤ hot then w.railFault 3 0 0 else w

/-- SENSOR_SAMPLE (R636). (Log entry 155, DESIGN CHOICE.) -/
def execSensorSample (r : Sensors) (s : State) : Out :=
  s.perform (.sensorSample r) (fun w => if w.powered then w.sensorSample r else w)

/-! ## Optical cages (R648) -/

/-- QSFP_MODULE_CHANGE (R648): a module above power class 5 is held in low-power mode with its port down; every change
raises the port's FIELD_LINK source. (Log entries 97, DEDUCED; 155, DESIGN CHOICE.) -/
def execQsfpModuleChange (port : Nat) (kind : CageModule) (pclass : Nat) (s : State) : Out :=
  s.perform (.qsfpModuleChange port kind pclass) (fun w =>
    let held := decide (kind ≠ .absent) && decide (5 < pclass)
    let low := w.modl.lowPower.filter (fun (p : Nat) => p ≠ port)
    let w := w.setMod (fun m => { m with lowPower := if held then setInsert m.lowPower port else low })
    let now := (decide (kind = .dr1) || decide (kind = .fr1)) && !held && decide (w.rd F.fldPortEnable 0 port = 1)
    (w.wrB F.fldStatLinkUp 0 port now).event (72 + port) sOk (if now then 1 else 0))

end Sys2Proof.Machine
end

