-- ==== Sys2Proof/Machine/RegWrite.lean ====
section
/-! DEFINITION. Writes of register space: the actions of registers that have one, registers issued when written whole, and
the commands REG_READ and REG_WRITE (R6, R518, R541, R653 to R661, R673). -/

namespace Sys2Proof.Machine

/-! ## Registers issued when written whole (R656) -/

/-- The number of a requester's own set of capture words. -/
def captureSet : Requester → Nat
  | .mc n => n
  | .regWrite _ _ => 4
  | .recovery => 5

/-- The number of a register's word k in register space. -/
def RegInst.wordNo (ri : RegInst) (k : Nat) : Nat := (Fld.key ⟨ri.reg, 0, 1, 0⟩ ri.die ri.idx) / 64 + k

/-- A capture word as its requester last wrote it. (Log entry 127, DEDUCED.) -/
def Work.captured (w : Work) (set no : Nat) : Nat :=
  match w.capture.find? (fun (c : Nat × Nat × Nat) => decide (c.1 = set) && decide (c.2.1 = no)) with
  | some c => c.2.2
  | none => 0

/-- A capture word filled. (Log entry 127, DEDUCED.) -/
def Work.fillCapture (w : Work) (set no v : Nat) : Work :=
  { w with capture := (set, no, v) ::
      w.capture.filter (fun (c : Nat × Nat × Nat) => !(decide (c.1 = set) && decide (c.2.1 = no))) }

/-- A requester writes word k of a register whose last word is n: the last word issues f with every word, and clears
them. (Log entry 127, DEDUCED.) -/
def Work.whole (w : Work) (by_ : Requester) (ri : RegInst) (n k v : Nat) (f : Work → Nat → Work) : Work :=
  let set := captureSet by_
  let w := w.fillCapture set (ri.wordNo k) v
  if k ≠ n then w
  else
    let x := (List.range (n + 1)).foldl (fun (x : Nat) j => x + w.captured set (ri.wordNo j) * 2 ^ (64 * j)) 0
    let own (c : Nat × Nat × Nat) : Bool := decide (c.1 = set) && inRange (ri.wordNo 0) (n + 1) c.2.1
    f { w with capture := w.capture.filter (fun (c : Nat × Nat × Nat) => !own c) } x

/-- The management core that issues a command record; of the REG_WRITE path the spec names none.
(Log entry 127, DEDUCED.) -/
def Work.issuerOf (w : Work) (by_ : Requester) (die : Nat) : Issuer × Work :=
  match by_ with
  | .mc n => (.firmware n die, w)
  | _ =>
    let (n, w) := w.fresh 2
    (.firmware n die, w)

/-! ## One word of one register -/

/-- The registers that the recovery service writes (R646). -/
def recoveryReg : Reg → Bool
  | .secFlashCtl | .secFlashData | .secOwnRoot | .secOwnCtl => true
  | _ => false

/-- A write of word k of a register, with its status as a REG_WRITE: the action of a register that has one, and its fields
otherwise. (Log entry 127, DEDUCED.) -/
def Work.regAction (w : Work) (by_ : Requester) (ri : RegInst) (k v : Nat) : Nat × Work :=
  let d := ri.die
  match ri.reg with
  | .celCmd => (sOk, w.whole by_ ri 7 k v (fun w x =>
      let (iss, w) := w.issuerOf by_ d
      w.celIssue iss (BitVec.ofNat 512 x)))
  | .matchCmd => (sOk, w.whole by_ ri 7 k v (fun w x =>
      let (iss, w) := w.issuerOf by_ d
      w.matIssue iss (BitVec.ofNat 512 x)))
  | .strmCmd => (sOk, w.whole by_ ri 7 k v (fun w x =>
      let (iss, w) := w.issuerOf by_ d
      w.strmIssue iss (BitVec.ofNat 512 x)))
  | .dispSubmit => (sOk, w.whole by_ ri 7 k v (fun w x => w.submitWrite d (BitVec.ofNat 512 x)))
  | .decCmd => (sOk, w.whole by_ ri 7 k v (fun w x => w.jobWrite 0 d false (BitVec.ofNat 512 x)))
  | .prsCmd => (sOk, w.whole by_ ri 7 k v (fun w x => w.jobWrite 0 d true (BitVec.ofNat 512 x)))
  | .secFlashCtl =>
    let x := w.captured (captureSet by_) (ri.wordNo 0)
    (if k = 2 ∧ flashOpOk x = false then sRange else sOk,
      w.whole by_ ri 2 k v (fun w x => w.flashIssue x (decide (by_ = .recovery))))
  | .timeTickPeriod => w.periodWrite v
  | .rstCtl => w.rstCtlWrite v
  | .rstWdog => w.wdogWrite v
  | .rstUnitReq => w.unitReqWrite v
  | .evtPend => (sOk, w.evtPendWrite ri.idx v)
  | .evtEoi => (sOk, w.evtEoiWrite (match by_ with
    | .mc n => n
    | _ => ri.idx) v)
  | .evtSub => if k = 0 then w.evtSubWrite by_ ri.idx v else (sOk, w)
  | .twnCtl => if bitOf v 0 then w.handoverRequest else (sOk, w)
  | .sprFence => w.sprFenceWrite v
  | .secOwnCtl => (sOk, w.enrolRequest v)
  | _ => w.writeFields ri k v

/-- A write of word k of a register (R6, R661): the recovery service reaches only flash and ownership, and the block of a
fenced unit ignores it. (Log entry 128, DEDUCED.) -/
def Work.regStore (w : Work) (by_ : Requester) (ri : RegInst) (k v : Nat) : Nat × Work :=
  if decide (by_ = .recovery) && !recoveryReg ri.reg then (sRange, w)
  else if w.blockFenced ri then (sOk, w)
  else w.regAction by_ ri k v

/-- A write of one word of register space, through an alias to each register that it reaches (R658 to R660). A reserved word
has no status, and a group alias with no unit's group selected writes nothing. (Log entry 126, DEDUCED.) -/
def Work.storeWord (w : Work) (by_ : Requester) (a v : Nat) : Option Nat × Work :=
  if w.reservedWord a then (none, w)
  else
    let (sts, w) := (w.targets a).foldl (fun (x : List Nat × Work) t =>
      let (st, w) := x.2.regStore by_ t.1 t.2 v
      (st :: x.1, w)) ([], w)
    (some (lowest sts), w)

/-! ## REGISTER_WRITE, REG_READ, REG_WRITE (R518, R540, R541, R653) -/

/-- The header that stands for a requester's store where orders of several masters are resolved: firmware's for a management
core and for the sideband (R540, R634). -/
def Work.storeHdr (w : Work) (by_ : Requester) (a : Nat) : KHdr :=
  match by_ with
  | .regWrite dev sess => { w.hdrTo clsCtrl 0x0C w.deviceId 0 0 a with srcDev := dev, srcSess := sess }
  | _ => w.hdrTo clsCtrl 0x0C w.deviceId 0 0 a

/-- The register addresses that a write names as its objects (R541, R660). (Log entry 124, DEDUCED.) -/
def Work.wordObjects (w : Work) (a : Nat) : List Nat := (w.targets a).map (fun (t : RegInst × Nat) => t.1.wordNo t.2)

/-- An order resolved on several objects: none where it is discarded on one of them. (Log entry 124, DEDUCED.) -/
def Work.resolveAll (w : Work) (h : KHdr) : List Nat → Option Work
  | [] => some w
  | o :: os =>
    match w.resolve objReg o 0 h with
    | none => none
    | some w => w.resolveAll h os

/-- A store of one word by a requester (R653): a misaligned one, and one at a reserved address, takes no effect.
(Log entry 126, DEDUCED.) -/
def Work.storeBy (w : Work) (by_ : Requester) (a v : Nat) : Work :=
  let h := w.storeHdr by_ a
  match w.resolveAll h (w.wordObjects a) with
  | none => w.noteConflict h
  | some w => (w.storeWord by_ a v).2

/-- REGISTER_WRITE (R6, R653, R673). -/
def execRegisterWrite (by_ : Requester) (addr : Nat) (value : BitVec 64) (s : State) : Out :=
  s.perform (.registerWrite by_ addr value) (fun w => w.storeBy by_ addr value.toNat)

/-- The address and the number of words that a REG_READ or a REG_WRITE names, where it names register space (R518).
(Log entry 126, DEDUCED.) -/
def regSpan (payload : List Byte) : Option (Nat × Nat) :=
  let x := ofBytes (slice payload 0 16)
  let a := fieldOf x 0 52
  let n := if bitOf x 64 then 8 else 1
  if payload.length < 16 ∨ a < regsBase ∨ regsBase + 0x100000000 ≤ a ∨ a % (8 * n) ≠ 0 then none else some (a, n)

/-- An address of the all-dies alias at the offset of a command register, which no write reaches (R659). -/
def commandAlias (a : Nat) : Bool := inRange 0x300F0000000 0x10000000 a && commandOffset (a - 0x300F0000000)

/-- A read through an alias returns zero (R660). -/
def Work.readThrough (w : Work) (a : Nat) : Option Nat :=
  match w.readWord a with
  | some v => some v
  | none => if w.reservedWord a && !commandAlias a then none else some 0

/-- REG_READ as a message that this device takes (R518, R654, R655). -/
def Work.regReadMsg (w : Work) (m : Msg) : Work :=
  w.command m none (fun w =>
    match regSpan m.payload with
    | none => w.ctrlDone m.h sRange []
    | some (a, n) =>
      let vs := (List.range n).map (fun k => w.readThrough (a + 8 * k))
      if vs.all (fun v => v.isNone) then w.ctrlDone m.h sRange []
      else w.ctrlDone m.h sOk (vs.flatMap (fun v => toBytes 8 (v.getD 0))))

/-- A word that resets the engine when written: after it nothing is left to answer the command (R565).
(Log entry 129, DEDUCED.) -/
def resetWrite (ts : List (RegInst × Nat)) (v : Nat) : Bool :=
  ts.any (fun t => decide (t.1.reg = .rstCtl)) && bitOf v 16 && decide (fieldOf v 8 8 = 0xA5) && decide (fieldOf v 0 3 ≤ 4)

/-- REG_WRITE as a message that this device takes (R518, R541, R654). (Log entries 126, DEDUCED; 129, DEDUCED.) -/
def Work.regWriteMsg (w : Work) (m : Msg) : Work :=
  w.command m none (fun w =>
    match regSpan m.payload with
    | none => w.ctrlDone m.h sRange []
    | some (a, n) =>
      if m.payload.length < 16 + 8 * n then w.ctrlDone m.h sRange []
      else
        match w.resolveAll m.h ((List.range n).flatMap (fun k => w.wordObjects (a + 8 * k))) with
        | none => (w.noteConflict m.h).ctrlDone m.h sConflict []
        | some w =>
          let by_ : Requester := .regWrite m.h.srcDev m.h.srcSess
          let (sts, w) := (List.range n).foldl (fun (x : List (Option Nat) × Work) k =>
            let (st, w) := x.2.storeWord by_ (a + 8 * k) (leAt m.payload (16 + 8 * k) 8)
            (st :: x.1, w)) ([], w)
          let done := sts.filterMap (fun st => st)
          let resets := (List.range n).any (fun k => resetWrite (w.targets (a + 8 * k)) (leAt m.payload (16 + 8 * k) 8))
          if resets && w.powered then w
          else w.ctrlDone m.h (if done.isEmpty then sRange else lowest done) [])

/-- REG_READ (R518, R655). -/
def execRegRead (h : KHdr) (payload : List Byte) (s : State) : Out :=
  s.perform (.regRead h payload) (fun w => w.arriveAs clsCtrl 0x0B ⟨h, payload⟩ Work.regReadMsg)

/-- REG_WRITE (R518). -/
def execRegWrite (h : KHdr) (payload : List Byte) (s : State) : Out :=
  s.perform (.regWrite h payload) (fun w => w.arriveAs clsCtrl 0x0C ⟨h, payload⟩ Work.regWriteMsg)

end Sys2Proof.Machine
end

