-- ==== Sys2Proof/Machine/Sideband.lean ====
section
/-! DEFINITION. The sideband: the SMBus target with its PMBus and manufacturer commands, ALERT_N, and the test access port
(R642 to R647). Answers are kept in the model's log: port 50 an SMBus answer with its PEC, port 51 a NACK, port 52 what the
test access port shifts out. -/

namespace Sys2Proof.Machine

/-! ## SMBus answers (R643, R644) -/

/-- The target serves whenever VAUX and V3P3 are good (R643). (Log entry 18, DESIGN CHOICE.) -/
def Work.sideband (w : Work) : Bool := w.modl.rails.contains 9 && w.modl.rails.contains 10

/-- The CRC-8 of SMBus 3.1 over some bytes: polynomial x^8 + x^2 + x + 1. (Log entry 152, PRESUMED.) -/
def pecOf (bs : List Byte) : Byte :=
  bs.foldl (fun (c : Byte) b =>
    (List.range 8).foldl (fun (c : Byte) _ => if c.msb then (c <<< 1) ^^^ 0x07#8 else c <<< 1) (c ^^^ b)) 0

/-- The address byte of the target, bit 0 the direction (R643). -/
def Work.smbAddr (w : Work) (rd : Nat) : Byte := BitVec.ofNat 8 ((0x60 + w.modl.sa) * 2 + rd)

/-- A read is answered; the PEC follows, which the host takes by clocking one byte more (R644). -/
def Work.answer (w : Work) (code : Nat) (bs : List Byte) : Work :=
  w.emitMsg 50 ⟨frameLog, bs ++ [pecOf (w.smbAddr 0 :: BitVec.ofNat 8 code :: w.smbAddr 1 :: bs)]⟩

/-- A block read: the count, then the bytes. -/
def Work.answerBlock (w : Work) (code : Nat) (bs : List Byte) : Work := w.answer code (BitVec.ofNat 8 bs.length :: bs)

/-- STATUS_CML: an unsupported command. -/
abbrev cmlCommand : Nat := 0x80
/-- STATUS_CML: an unsupported page or data value. -/
abbrev cmlData : Nat := 0x40
/-- STATUS_CML: a PEC mismatch. -/
abbrev cmlPec : Nat := 0x20

/-- A NACK, with its bit of STATUS_CML (R644). (Log entry 152, PRESUMED.) -/
def Work.nack (w : Work) (bit : Nat) : Work :=
  (w.setMod (fun m => { m with statCml := m.statCml ||| bit })).emitMsg 51 ⟨frameLog, []⟩

/-- A command of the target while it serves. -/
def Work.smb (w : Work) (f : Work → Work) : Work := if w.sideband then f w else w

/-- A write whose PEC, if it has one, is right (R644). -/
def Work.smbWrite (w : Work) (pecOk : Bool) (f : Work → Work) : Work :=
  w.smb (fun w => if pecOk then f w else w.nack cmlPec)

/-! ## Number formats (R645) -/

/-- A quotient that the format cannot hold exactly goes to either neighbour. (Log entry 151, PRESUMED.) -/
def Work.nearby (w : Work) (n d : Nat) : Nat × Work :=
  if n % d = 0 then (n / d, w)
  else
    let (x, w) := w.fresh 1
    (n / d + x, w)

/-- LINEAR11 of n / d: the least exponent, from -16, that leaves the number 10 bits. (Log entry 151, PRESUMED.) -/
def Work.linear11 (w : Work) (n d : Nat) : Nat × Work :=
  let j := ((List.range 32).find? (fun j => decide ((n * 65536 + d * 2 ^ j - 1) / (d * 2 ^ j) ≤ 1023))).getD 31
  let (y, w) := w.nearby (n * 65536) (d * 2 ^ j)
  ((j + 16) % 32 * 2048 + y % 1024, w)

/-- LINEAR16 under VOUT_MODE, exponent -12, of millivolts. -/
def Work.linear16 (w : Work) (mv : Nat) : Nat × Work := w.nearby (mv * 4096) 1000

/-! ## Status (R642, R645) -/

/-- STATUS_WORD on a page. (Log entry 151, PRESUMED.) -/
def ModSt.statusWord (m : ModSt) (pg : Nat) : Nat :=
  (if smGet 0 m.vout pg ≠ 0 then 0x8000 else 0) + (if m.statIn ≠ 0 then 0x2000 else 0) + (if m.warn then 0x1000 else 0) +
    (if m.statTemp ≠ 0 then 4 else 0) + (if m.statCml ≠ 0 then 2 else 0)

/-- ALERT_N is asserted (R642). -/
def Work.alerting (w : Work) : Bool :=
  w.startStopped || w.rdB F.pwrStatusTripValid 0 0 || (List.range 11).any (fun pg => decide (w.modl.statusWord pg ≠ 0))

/-- A read of a word on a page that has it, of n / d in LINEAR11. -/
def Work.readLinear (w : Work) (code : Nat) (pageOk : Bool) (n d : Nat) : Work :=
  w.smb (fun w =>
    if pageOk then
      let (x, w) := w.linear11 n d
      w.answer code (toBytes 2 x)
    else w.nack cmlData)

/-- The present page. -/
abbrev Work.pg (w : Work) : Nat := w.modl.page

/-! ## PMBus commands (R645) -/

/-- PAGE. -/
def execPage (x : Option Nat) (pecOk : Bool) (s : State) : Out :=
  s.perform (.page x pecOk) (fun w => match x with
    | none => w.smb (fun w => w.answer 0x00 (toBytes 1 w.pg))
    | some v => w.smbWrite pecOk (fun w => if v ≤ 10 then w.setMod (fun m => { m with page := v }) else w.nack cmlData))

/-- CLEAR_FAULTS: the status registers, and TRIP_VALID; the fault latch keeps its value (R622). -/
def execClearFaults (pecOk : Bool) (s : State) : Out :=
  s.perform (.clearFaults pecOk) (fun w => w.smbWrite pecOk (fun w =>
    (w.setMod (fun m => { m with vout := [], statIn := 0, statTemp := 0, statCml := 0, warn := false })).wr
      F.pwrStatusTripValid 0 0 0))

/-- CAPABILITY. -/
def execCapability (s : State) : Out := s.perform .capability (fun w => w.smb (fun w => w.answer 0x19 (toBytes 1 0xD0)))

/-- VOUT_MODE, on pages 1 to 10. -/
def execVoutMode (s : State) : Out :=
  s.perform .voutMode (fun w => w.smb (fun w => if w.pg = 0 then w.nack cmlData else w.answer 0x20 (toBytes 1 0x14)))

/-- STATUS_WORD. -/
def execStatusWord (s : State) : Out :=
  s.perform .statusWord (fun w => w.smb (fun w => w.answer 0x79 (toBytes 2 (w.modl.statusWord w.pg))))
/-- STATUS_VOUT. -/
def execStatusVout (s : State) : Out :=
  s.perform .statusVout (fun w => w.smb (fun w => w.answer 0x7A (toBytes 1 (smGet 0 w.modl.vout w.pg))))
/-- STATUS_IOUT: no rule sets a bit of it. (Log entry 151, PRESUMED.) -/
def execStatusIout (s : State) : Out :=
  s.perform .statusIout (fun w => w.smb (fun w => w.answer 0x7B (toBytes 1 0)))
/-- STATUS_INPUT. -/
def execStatusInput (s : State) : Out :=
  s.perform .statusInput (fun w => w.smb (fun w => w.answer 0x7C (toBytes 1 w.modl.statIn)))
/-- STATUS_TEMPERATURE. -/
def execStatusTemperature (s : State) : Out :=
  s.perform .statusTemperature (fun w => w.smb (fun w => w.answer 0x7D (toBytes 1 w.modl.statTemp)))
/-- STATUS_CML. -/
def execStatusCml (s : State) : Out :=
  s.perform .statusCml (fun w => w.smb (fun w => w.answer 0x7E (toBytes 1 w.modl.statCml)))

/-- READ_VIN, on page 0. -/
def execReadVin (s : State) : Out :=
  s.perform .readVin (fun w => w.readLinear 0x88 (decide (w.pg = 0)) (w.rd F.pwrRailVMv 0 0) 1000)
/-- READ_IIN, on page 0. -/
def execReadIin (s : State) : Out :=
  s.perform .readIin (fun w => w.readLinear 0x89 (decide (w.pg = 0)) (w.rd F.pwrRailIDa 0 0) 10)
/-- READ_PIN, on page 0. -/
def execReadPin (s : State) : Out :=
  s.perform .readPin (fun w => w.readLinear 0x97 (decide (w.pg = 0)) (w.rd F.pwrRailPW 0 0) 1)

/-- READ_VOUT, on pages 1 to 10. -/
def execReadVout (s : State) : Out :=
  s.perform .readVout (fun w => w.smb (fun w =>
    if w.pg = 0 then w.nack cmlData
    else
      let (x, w) := w.linear16 (w.rd F.pwrRailVMv 0 w.pg)
      w.answer 0x8B (toBytes 2 x)))
/-- READ_IOUT, on pages 1 to 10. -/
def execReadIout (s : State) : Out :=
  s.perform .readIout (fun w => w.readLinear 0x8C (decide (w.pg ≠ 0)) (w.rd F.pwrRailIDa 0 w.pg) 10)
/-- READ_POUT, on pages 1 to 10. -/
def execReadPout (s : State) : Out :=
  s.perform .readPout (fun w => w.readLinear 0x96 (decide (w.pg ≠ 0)) (w.rd F.pwrRailPW 0 w.pg) 1)

/-- READ_TEMPERATURE_1: the hottest sensor. -/
def execReadTemperature1 (s : State) : Out :=
  s.perform .readTemperature1 (fun w => w.readLinear 0x8D true (w.dv F.pwrStatusHottestC) 1)
/-- READ_TEMPERATURE_2: the coolant outlet. -/
def execReadTemperature2 (s : State) : Out :=
  s.perform .readTemperature2 (fun w => w.readLinear 0x8E true (w.dv F.pwrThermOutletC) 1)
/-- READ_TEMPERATURE_3: the coolant inlet. -/
def execReadTemperature3 (s : State) : Out :=
  s.perform .readTemperature3 (fun w => w.readLinear 0x8F true (w.dv F.pwrThermInletC) 1)

/-- PMBUS_REVISION. -/
def execPmbusRevision (s : State) : Out :=
  s.perform .pmbusRevision (fun w => w.smb (fun w => w.answer 0x98 (toBytes 1 0x44)))

/-- The bytes of a name in ASCII. -/
def asciiOf (s : String) : List Byte := s.toList.map (fun c => BitVec.ofNat 8 c.toNat)

/-- MFR_ID. -/
def execMfrId (s : State) : Out := s.perform .mfrId (fun w => w.smb (fun w => w.answerBlock 0x99 (asciiOf "OXENE")))
/-- MFR_MODEL. -/
def execMfrModel (s : State) : Out :=
  s.perform .mfrModel (fun w => w.smb (fun w => w.answerBlock 0x9A (asciiOf "PF5840-LC1")))

/-- The Alert Response Address (R643): the target gives its address while it asserts ALERT_N. -/
def execAlertResponse (s : State) : Out :=
  s.perform .alertResponse (fun w => w.smb (fun w =>
    if w.alerting then w.emitMsg 50 ⟨frameLog, [w.smbAddr 0, pecOf [0x19, w.smbAddr 0]]⟩ else w))

/-! ## Manufacturer commands (R646) -/

/-- CAP_W written through the sideband, which ranks with local firmware (R540, R634). (Log entry 152, PRESUMED.) -/
def Work.capWrite (w : Work) (v : Nat) : Work :=
  if v < 1000 ∨ 2600 < v then w.nack cmlData
  else
    let h := w.storeHdr .recovery (RegInst.wordNo ⟨.pwrCap, 0, 0⟩ 0)
    match w.resolve objReg (RegInst.wordNo ⟨.pwrCap, 0, 0⟩ 0) 0 h with
    | some w => w.wr F.pwrCapCapW 0 0 v
    | none => w.noteConflict h

/-- A command of the recovery service is accepted only while start is stopped, with data that it admits.
(Log entry 152, PRESUMED.) -/
def Work.recover (w : Work) (ok : Bool) (f : Work → Work) : Work :=
  if !w.startStopped then w.nack cmlCommand else if ok then f w else w.nack cmlData

/-- Half of SEC_FLASH_DATA written: byte 0 names it. -/
def Work.flashBuf (w : Work) (bs : List Byte) : Work :=
  let half := leAt bs 0 1
  w.recover (decide (bs.length = 129) && decide (half ≤ 1)) (fun w =>
    let old := toBytes 256 (w.dv F.secFlashDataData)
    let new := if half = 0 then bs.drop 1 ++ old.drop 128 else old.take 128 ++ bs.drop 1
    w.wr F.secFlashDataData 0 0 (ofBytes new))

/-- SEC_FLASH_CTL issued by the recovery service. -/
def Work.flashCtl (w : Work) (bs : List Byte) : Work :=
  w.recover (decide (bs.length = 24)) (fun w => w.flashIssue (ofBytes bs) true)

/-- SEC_OWN_ROOT written. -/
def Work.ownRoot (w : Work) (bs : List Byte) : Work :=
  w.recover (decide (bs.length = 64)) (fun w => w.wr F.secOwnRootRoot 0 0 (ofBytes bs))

/-- SEC_OWN_CTL written: enrolment under R614. -/
def Work.ownCtl (w : Work) (bs : List Byte) : Work :=
  w.recover (decide (bs.length = 8)) (fun w => w.enrolRequest (ofBytes bs))

/-- The bytes of a register as it reads. -/
def Work.regBytes (w : Work) (r : Reg) (n : Nat) : List Byte := toBytes n (w.regValue ⟨r, 0, 0⟩)

/-- OXN_BOOT_STATUS. -/
def execOxnBootStatus (s : State) : Out :=
  s.perform .oxnBootStatus (fun w => w.smb (fun w => w.answerBlock 0xD0 (w.regBytes .bootStatus 8)))
/-- OXN_RST_STATE. -/
def execOxnRstState (s : State) : Out :=
  s.perform .oxnRstState (fun w => w.smb (fun w => w.answerBlock 0xD1 (w.regBytes .rstState 8)))
/-- OXN_PWR_CAP. -/
def execOxnPwrCap (x : Option Nat) (pecOk : Bool) (s : State) : Out :=
  s.perform (.oxnPwrCap x pecOk) (fun w => match x with
    | none => w.smb (fun w => w.answer 0xD2 (toBytes 2 (w.dv F.pwrCapCapW)))
    | some v => w.smbWrite pecOk (fun w => w.capWrite v))
/-- OXN_FLASH_BUF. -/
def execOxnFlashBuf (block : List Byte) (pecOk : Bool) (s : State) : Out :=
  s.perform (.oxnFlashBuf block pecOk) (fun w => w.smbWrite pecOk (fun w => w.flashBuf block))
/-- OXN_FLASH_CTL. -/
def execOxnFlashCtl (block : List Byte) (pecOk : Bool) (s : State) : Out :=
  s.perform (.oxnFlashCtl block pecOk) (fun w => w.smbWrite pecOk (fun w => w.flashCtl block))
/-- OXN_FLASH_STAT. -/
def execOxnFlashStat (s : State) : Out :=
  s.perform .oxnFlashStat (fun w => w.smb (fun w => w.answerBlock 0xD5 (w.regBytes .secFlashStat 12)))
/-- OXN_OWN_ROOT. -/
def execOxnOwnRoot (block : List Byte) (pecOk : Bool) (s : State) : Out :=
  s.perform (.oxnOwnRoot block pecOk) (fun w => w.smbWrite pecOk (fun w => w.ownRoot block))
/-- OXN_OWN_CTL. -/
def execOxnOwnCtl (x : Option (List Byte)) (pecOk : Bool) (s : State) : Out :=
  s.perform (.oxnOwnCtl x pecOk) (fun w => match x with
    | none => w.smb (fun w => w.answerBlock 0xD7 (w.regBytes .secOwnCtl 8))
    | some bs => w.smbWrite pecOk (fun w => w.ownCtl bs))

/-! ## The test access port (R647) -/

/-- An instruction of the test access port: its code, what the pins are driven with (0 the logic, 1 the boundary cells, 2
nothing), and what follows. (Log entry 153, PRESUMED.) -/
def Work.jtag (w : Work) (ir drive : Nat) (f : Work → Work) : Work :=
  w.smb (fun w => f (w.setMod (fun m => { m with jtagIr := ir, jtagDrive := drive })))

/-- What shifts out. (Log entry 153, PRESUMED.) -/
def Work.tdo (w : Work) (bs : List Byte) : Work := w.emitMsg 52 ⟨frameLog, bs⟩

/-- IDCODE. -/
def execIdcode (s : State) : Out := s.perform .idcode (fun w => w.jtag 0x01 0 (fun w => w.tdo (toBytes 4 0x058409E7)))

/-- SAMPLE/PRELOAD: the pins are captured, and the boundary cells take what is shifted in. -/
def execSamplePreload (pins preload : Nat) (s : State) : Out :=
  s.perform (.samplePreload pins preload) (fun w => w.jtag 0x02 0 (fun w =>
    (w.setMod (fun m => { m with jtagBsr := preload })).tdo (toBytes 32 pins)))
/-- EXTEST: the boundary cells drive the pins, and the inputs are captured. -/
def execExtest (pins : Nat) (s : State) : Out :=
  s.perform (.extest pins) (fun w => w.jtag 0x03 1 (fun w => w.tdo (toBytes 32 pins)))
/-- CLAMP: the boundary cells drive the pins while the bypass register is selected. -/
def execClamp (s : State) : Out := s.perform .clamp (fun w => w.jtag 0x04 1 (fun w => w.tdo [0]))
/-- HIGHZ: nothing drives the pins while the bypass register is selected. -/
def execHighz (s : State) : Out := s.perform .highz (fun w => w.jtag 0x05 2 (fun w => w.tdo [0]))
/-- BYPASS. -/
def execBypass (s : State) : Out := s.perform .bypass (fun w => w.jtag 0xFF 0 (fun w => w.tdo [0]))

/-- OXN_DBG: a debugger attaches or leaves. (Log entry 156, DEDUCED.) -/
def execOxnDbg (attach : Bool) (s : State) : Out :=
  s.perform (.oxnDbg attach) (fun w => w.jtag 0x20 0 (fun w => w.setMod (fun m => { m with dbg := attach })))

/-- OXN_RESET: a DBG reset, which leaves the test access port as it is (R565, R647). -/
def execOxnReset (s : State) : Out := s.perform .oxnReset (fun w => w.jtag 0x22 0 (fun w => w.resetIf false rstDbg))

/-- A command of R646 through the test access port, with the same rules; without data a command that can be read is. -/
def Work.recovery (w : Work) (code : Nat) (data : List Byte) : Work :=
  match code with
  | 0xD0 => w.tdo (w.regBytes .bootStatus 8)
  | 0xD1 => w.tdo (w.regBytes .rstState 8)
  | 0xD2 => if data.isEmpty then w.tdo (toBytes 2 (w.dv F.pwrCapCapW)) else w.capWrite (leAt data 0 2)
  | 0xD3 => w.flashBuf data
  | 0xD4 => w.flashCtl data
  | 0xD5 => w.tdo (w.regBytes .secFlashStat 12)
  | 0xD6 => w.ownRoot data
  | 0xD7 => if data.isEmpty then w.tdo (w.regBytes .secOwnCtl 8) else w.ownCtl data
  | _ => w.nack cmlCommand

/-- OXN_RECOVERY. -/
def execOxnRecovery (code : Nat) (data : List Byte) (s : State) : Out :=
  s.perform (.oxnRecovery code data) (fun w => w.jtag 0x21 0 (fun w => w.recovery code data))

/-- TRST_N resets the test access port at once: IDCODE is selected. (Log entry 153, PRESUMED.) -/
def execTrst (s : State) : Out :=
  s.perform .trst (fun w => w.setMod (fun m => { m with jtagIr := 0x01, jtagDrive := 0 }))

end Sys2Proof.Machine
end

