-- ==== Sys2Proof/Machine/Tick.lean ====
section
/-! DEFINITION. The tick: what every unit does when one epoch ends and the next begins (R24, R31 to R40, R51, R57, R573). -/

namespace Sys2Proof.Machine

/-! ## Whether and when a tick falls (R31, R50, R57) -/

/-- The device takes ticks: a master once its listening and its wait for PTP are over, a follower from LOCKED on. -/
def Work.ticking (w : Work) : Bool :=
  w.powered &&
    (if w.isMaster then w.time.ticked || (w.boot.ready && !w.time.listening && !w.time.ptpWaiting)
     else decide (w.align = alLocked) || decide (w.align = alHoldover) || decide (w.align = alDiverged))

/-- Tick T + 1: P after tick T, with the next number, and a pulse of TICK_OUT (R31, R47). -/
def Work.advanceTick (w : Work) : Work :=
  let t := w.time.lastTick + w.period
  (((w.setTime (fun x => { x with lastTick := t, ticked := true, tickOut := some t })).wr F.timeNowNowNs 0 0 t).bump
    F.timeTickCountCount 0 0)

/-- TICK_OUT is high: the pulse of the last tick lasts 100 ns (R47). -/
def Work.tickOutHigh (w : Work) : Bool :=
  match w.time.tickOut with
  | some t => decide (t ≤ w.now) && decide (w.now < t + 100)
  | none => false

/-! ## Leaving start (R51, R525, R570, R573) -/

/-- Every wait of step 8 is over. (Log entry 110, DEDUCED.) -/
def Work.startEnds (w : Work) : Bool :=
  decide (w.devState = stStarting) && w.boot.ready && (w.isMaster || decide (w.align = alLocked)) && !w.time.ptpWaiting &&
    (!w.paired || w.twin.decided)

/-- The device leaves STARTING: a MIRROR, or serving with its count of epochs.
(Log entries 25, DESIGN CHOICE; 110, DEDUCED.) -/
def Work.leaveStart (w : Work) : Work :=
  let w := w.wr F.rstStateStep 0 0 9
  if w.isMirror then w.setDevState stMirror else w.serve (w.dv F.rstSharedStartEpochs)

/-! ## What the tick does in a device that has started -/

/-- Errors of the epoch that ends, totalled (R564). (Log entries 28, DEDUCED; 138, DESIGN CHOICE.) -/
def Work.sumErrors (w : Work) : Work :=
  let e := w.errs
  let w := (((w.wr F.errSumCe 0 0 (e.ce % 2 ^ 32)).wr F.errSumUe 0 0 (e.ue % 2 ^ 16)).wr F.errSumSat 0 0 (e.sat % 2 ^ 32)).wr
    F.errSumWrap 0 0 (e.wrap % 2 ^ 32)
  { w with errs := ⟨0, 0, 0, 0, e.further⟩ }

/-- The NO_ROUTE event of the epoch that ends (R513, source 80). -/
def Work.routeEvent (w : Work) : Work :=
  if w.noRoute = 0 then w else ({ w with noRoute := 0 }).event 80 sOk (w.noRoute % 2 ^ 32)

/-- The match tiers that take effect now, with their events, and the epochs spent above tier 0 (R181, R182). -/
def Work.tierTick (w : Work) : Work :=
  let w := (List.range 4).foldl (fun (w : Work) d =>
    if w.rd F.matchThrottleTier d 0 = 0 then w else w.bump F.matchThrottleTierEpochs d 0) w
  let due := w.tierNext
  due.foldl (fun (w : Work) e =>
    if w.rd F.matchThrottleTier e.1 0 = e.2 then w
    else (w.wr F.matchThrottleTier e.1 0 e.2).event (dieSource 4 e.1) sOk e.2) { w with tierNext := [] }

/-- In DIVERGED every plan becomes FAULTED at the next tick, is purged, and has its pending transition refused
(R55, R296). (Log entry 114, DEDUCED.) -/
def Work.divergeTick (w : Work) : Work :=
  if w.time.diverging then
    ((List.range 16).foldl (fun (w : Work) p => if w.planState p = 0 then w else w.toFaulted p sState) w).setTime
      (fun x => { x with diverging := false })
  else w

/-- The count of SHARED, then a request to enter or leave SHARED, which carries no count (R570, R571).
(Log entry 143, DEDUCED.) -/
def Work.shareTick (w : Work) : Work :=
  let n := w.boot.req
  let w := w.sharedTick
  if n = 1 ∧ w.devState = stRunning then (w.wr F.rstStateSharedLeft 0 0 0).setDevState stShared
  else if n = 2 ∧ w.devState = stShared then (w.wr F.rstStateSharedLeft 0 0 0).setDevState stRunning
  else w

/-- A request to rest, a request to wake, or a source that wakes the device (R570, R583, R603).
(Log entry 143, DEDUCED.) -/
def Work.restTick (w : Work) : Work :=
  let n := w.boot.req
  let woken := w.evt.wake.isSome
  let w : Work := { w with boot := { w.boot with req := 0 }, evt := { w.evt with wake := none } }
  let st := w.devState
  if st = stRest then
    if (n = 4 ∨ woken = true) ∧ w.boot.detached = false then
      (if (List.range 4).any (fun d => w.rdB F.sprMapDegraded d 0) then w.setDevState stDegraded
       else w.setDevState w.boot.restFrom)
    else w
  else if n = 3 ∧ (st = stShared ∨ st = stRunning ∨ st = stDegraded) then
    ({ w with boot := { w.boot with restFrom := st } }).setDevState stRest
  else w

/-- Commit work occupies units from the tick on while a plan runs; which ones is not given (R33). Commit work of the epoch
before that has not ended was late in it, and goes on. (Log entries 27, DESIGN CHOICE; 111, DESIGN CHOICE.) -/
def Work.commitTick (w : Work) : Work :=
  let open_ := w.time.commitOpen
  let old := if open_ then w.time.commitBusy else []
  let w := if open_ then w.bump F.timeOverrunCommitLate 0 0 else w
  if (List.range 16).any (fun p => decide (w.planState p = 2) || decide (w.planState p = 3)) then
    let (x, w) := w.fresh 480
    w.setTime (fun t => { t with
      commitBusy := (List.range 480).filter (fun k => bitOf x k || old.contains k), commitOpen := true })
  else w.setTime (fun t => { t with commitBusy := old, commitOpen := open_ })

/-- What every tick does to the units, whatever the state of the device: slots released, staged changes, match tiers and
seeds (R90, R102, R179, R182). (Log entry 27, DESIGN CHOICE.) -/
def Work.unitTick (w : Work) : Work := w.releaseSlots.applyStaged.tierTick.latchSeeds

/-- The calls that a purge has made room for enter their queues (R401). (Log entry 63, DEDUCED.) -/
def Work.unblockTick (w : Work) : Work := (List.range 4).foldl Work.unblockDie w

/-- A device that serves or rests, at a tick; `before` is the time of the tick before it.
(Log entry 27, DESIGN CHOICE.) -/
def Work.epochTick (w : Work) (before : Nat) : Work :=
  let rest := decide (w.devState = stRest)
  let w := if rest then w else w.noteOverruns
  let w := ((List.range 16).foldl Work.faultTick (w.catchUpTick).spareTick).divergeTick
  let w := w.shareTick.twinTick
  let idle := rest || w.isMirror
  let w := if idle then w else w.foldWindows
  let w := w.embEvent.embTick
  let mk := w.marks
  let w : Work := { w with marks := State.reset.marks }
  let w := if rest then w else w.histTick
  let w := if idle then w else w.batchTick
  let w := w.captureDelta mk
  let w := ((List.range 16).foldl Work.planTick w).unblockTick.closeStopped
  let w := w.unitTick
  let w := (List.range 4).foldl (fun (w : Work) d => w.latchUnits d before) w
  let w : Work := { w with obsMode := w.dv F.dispObsModeMode }
  let w := if rest then w else w.alignTick
  let w := { w with cmds := [] }.sumErrors.routeEvent
  let w := w.restTick.commitTick
  if w.isMirror || w.rdB F.twnCtlHandover 0 0 then w
  else (List.range 4).foldl Work.enqueueTick w

/-- The tick at which the device leaves start: the standing plans begin (R26, R573). (Log entry 27, DESIGN CHOICE.) -/
def Work.startTick (w : Work) (before : Nat) : Work :=
  let w := if w.isMirror then w else w.batchTick
  let w := ((List.range 16).foldl Work.planTick w).unblockTick.closeStopped
  let w := w.unitTick
  let w := (List.range 4).foldl (fun (w : Work) d => w.latchUnits d before) w
  let w : Work := { w with obsMode := w.dv F.dispObsModeMode, cmds := [] }
  let w := w.alignTick.sumErrors.routeEvent.embEvent.commitTick
  if w.isMirror then w else (List.range 4).foldl Work.enqueueTick w

/-- A tick (R31): level sources that no core targets are sampled again, heartbeats and announcements are sent.
(Log entry 27, DESIGN CHOICE.) -/
def Work.takeTick (w : Work) : Work :=
  let before := w.time.lastTick
  let w := (w.advanceTick).noteSilence
  if !w.boot.ready then w.unitTick
  else
    let w := if w.devState ≠ stStarting then w.epochTick before
      else
        (let w := w.twinTick
         if w.startEnds then (w.leaveStart).startTick before else w.unitTick)
    w.levelTick.sendBeats.announce

/-- TICK (R31, R57). (Log entry 110, DEDUCED.) -/
def execTick (s : State) : Out :=
  s.perform .tick (fun w =>
    if !w.ticking then w
    else if w.isMaster && !w.time.ticked && !w.time.masterTook then w.firstTick
    else w.takeTick)

end Sys2Proof.Machine
end

