-- ==== Sys2Proof/Machine/Link.lean ====
section
/-! DEFINITION. A frame as a port receives it: FCS and length, EtherType, the link header with acknowledgement, replay
and credits, and every message of the frame handled or forwarded (R495, R501 to R510, R513 to R519, R584). -/

namespace Sys2Proof.Machine

/-! ## Link-up on a port (R500, R525, R616) -/

/-- LINK_HELLO at a port; a twin port that comes UP by it lets the pair find its roles (R525). -/
def Work.helloAt (w : Work) (p : Nat) (payload : List Byte) : Work :=
  let before := w.klState p
  let w := w.linkHello p payload
  if before ≠ klUp ∧ w.klState p = klUp then w.twinPortUp p else w

/-- LINK_HELLO (R616). -/
def execLinkHello (port : Nat) (h : KHdr) (payload : List Byte) (s : State) : Out :=
  s.perform (.linkHello port h payload) (fun w =>
    if h.cls = clsCtrl ∧ h.typ = 0x30 then w.helloAt port payload else w)

/-! ## What a message does here (R505, R516) -/

/-- The types of a class (R505). (Log entry 115, DEDUCED.) -/
def typesOf (cls : Nat) : List Nat :=
  getAt [] [[1, 2, 3, 0x33, 0x34], [0x31, 0x35], [1, 2, 0x32], (List.range 13).map (· + 1) ++ [0x20, 0x30], [1, 2, 3],
    (List.range 9).map (· + 1)] cls

/-- A DATA message. (Log entry 121, DEDUCED.) -/
def Work.dataMsg (w : Work) (port : Nat) (m : Msg) : Work :=
  match m.h.typ with
  | 0x01 => w.dataWrite (some port) m
  | 0x02 => w.batchPart (some port) m
  | 0x03 => w.histPartial (some port) 0 m.h m.payload
  | 0x33 => w.embUpdateMsg m
  | _ => w.embCopyMsg m

/-- A REQ message. -/
def Work.reqMsg (w : Work) (m : Msg) : Work :=
  match m.h.typ with
  | 0x31 => w.embLookupMsg m
  | _ => w.embOverrideMsg m

/-- A RESP message. -/
def Work.respMsg (w : Work) (m : Msg) : Work :=
  match m.h.typ with
  | 0x01 => w.ctrlAnswer m
  | 0x02 => w.writeAcked m
  | _ => w.embPooledMsg m

/-- A CTRL message; only a host opens a session, on the host port (R519). (Log entry 116, DEDUCED.) -/
def Work.ctrlMsg (w : Work) (port : Nat) (m : Msg) : Work :=
  match m.h.typ with
  | 0x01 => w.command m none (fun w => w.ctrlDone m.h sState [])
  | 0x02 => w.attestRequest m
  | 0x03 => w.planLoadMsg m
  | 0x04 => w.planStartMsg m
  | 0x05 => w.planStopMsg m
  | 0x06 => w.drainMsg m
  | 0x07 => w.tableAttachCmd m
  | 0x08 => w.rowReplaceCmd m
  | 0x09 => w.rowMigrateCmd m
  | 0x0A => w.bqFetchMsg m
  | 0x0B => w.regReadMsg m
  | 0x0C => w.regWriteMsg m
  | 0x0D => w.sessionClose m
  | 0x30 => w.helloAt port m.payload
  | _ => w

/-- A TIME message: the ingress stamp is the time at which the frame came (R510). -/
def Work.timeMsg (w : Work) (port : Nat) (m : Msg) : Work :=
  let x (k : Nat) : Nat := leAt m.payload (8 * k) 8
  match m.h.typ with
  | 0x01 => w.announceMsg port (x 0) (fieldOf (x 1) 0 25) (bitOf (x 1) 25) (x 2) w.now
  | 0x02 => w.delayReqMsg port (x 0) (x 1) w.now
  | _ => w.delayRespMsg port (x 0) (x 1)

/-- A TWIN message (R528 to R539). -/
def Work.twinMsg (w : Work) (m : Msg) : Work :=
  w.fromPartner m (fun w =>
    match m.h.typ with
    | 1 => w.helloMsg m
    | 2 => w.heartbeatMsg m
    | 3 => w.deltaPartMsg m
    | 4 => w.deltaEndMsg m
    | 5 => w.deltaAckMsg m
    | 6 => w.bulkPartMsg m
    | 7 => w.bulkEndMsg m
    | 8 => w.detachMsg
    | _ => w.handoverMsg m)

/-- A message for this device, by its class and type. -/
def Work.messageHere (w : Work) (port : Nat) (m : Msg) : Work :=
  match m.h.cls with
  | 0 => w.dataMsg port m
  | 1 => w.reqMsg m
  | 2 => w.respMsg m
  | 3 => w.ctrlMsg port m
  | 4 => w.timeMsg port m
  | _ => w.twinMsg m

/-- A message of a frame: an undefined type is discarded and counted, and a command of one is answered (R504).
(Log entry 115, DEDUCED.) -/
def Work.messageIn (w : Work) (port : Nat) (m : Msg) : Work :=
  if (typesOf m.h.cls).contains m.h.typ then w.arrive m (fun w m => w.messageHere port m)
  else
    let w := w.bump F.klStatMalformed 0 port
    if m.h.cls = clsCtrl then w.ctrlDone m.h sRange [] else w

/-! ## The messages of a frame (R503, R504, R506) -/

/-- The messages packed in the bytes after a link header, at most k of them, and whether all the bytes were messages. -/
def framedMsgs : Nat → List Byte → List Msg × Bool
  | 0, bs => ([], bs.isEmpty)
  | k + 1, bs =>
    if bs.isEmpty then ([], true)
    else
      let (h, fine) := headerOf bs
      let full := 32 + alignUp h.len 8
      if bs.length < 32 ∨ !fine ∨ bs.length < full then ([], false)
      else
        let (ms, rest) := framedMsgs k (bs.drop full)
        (⟨h, (bs.drop 32).take h.len⟩ :: ms, rest)

/-- The buffer room of a message is freed once it has been handled; the link-up exchange takes none (R506).
(Log entry 117, DEDUCED.) -/
def Work.freeCredits (w : Work) (p : Nat) (m : Msg) : Work :=
  if m.h.cls = clsCtrl ∧ m.h.typ = 0x30 then w
  else
    let x := w.port p
    w.setPort p { x with freed := x.freed.set m.h.cls ((getAt 0 x.freed m.h.cls + m.credits) % 4096) }

/-- The messages of a frame one after another; a frame whose remainder is no message is counted (R504). -/
def Work.framePayload (w : Work) (p : Nat) (bs : List Byte) (f : Work → Msg → Work) : Work :=
  let (ms, whole) := framedMsgs bs.length bs
  let w := ms.foldl (fun (w : Work) m => f w m) w
  if whole then w else w.bump F.klStatMalformed 0 p

/-! ## Acknowledgement and order (R508, R509) -/

/-- Sequence number a lies at or before b. -/
def seqUpTo (a b : Nat) : Bool := decide ((b + 65536 - a % 65536) % 65536 < 32768)

/-- What a link header acknowledges leaves the replay buffer; progress ends the count of replays (R490, R508, R509). -/
def Work.ackUpTo (w : Work) (p ack : Nat) : Work :=
  let x := w.port p
  let done := x.unacked.filter (fun f => seqUpTo f.lseq ack)
  if done.isEmpty then w
  else
    let w := w.setPort p { x with unacked := x.unacked.filter (fun f => !seqUpTo f.lseq ack), replays := 0 }
    (done.flatMap (fun f => f.msgs)).foldl (fun (w : Work) m => w.pushAcked m) w

/-- A gap or a damaged frame: NAK once, until the expected frame arrives (R508). (Log entry 118, DEDUCED.) -/
def Work.nak (w : Work) (p : Nat) : Work :=
  if (w.port p).naking then w
  else (w.setPort p { w.port p with naking := true }).frameOut p 0 true true []

/-- The credits, the acknowledgement and the NAK that a link header carries (R502, R506, R508). -/
def Work.linkState (w : Work) (p lh : Nat) : Work :=
  let w := w.setPort p { w.port p with granted := (List.range 6).map (fun c => fieldOf lh (48 + 12 * c) 12) }
  let w := w.ackUpTo p (fieldOf lh 16 16)
  if bitOf lh 32 then w.replay p else w

/-- A frame in its turn: it is counted for the next acknowledgement, which sixteen of them bring (R508).
(Log entry 118, DEDUCED.) -/
def Work.inOrder (w : Work) (p : Nat) (bs : List Byte) : Work :=
  let x := w.port p
  let w := w.setPort p { x with expect := (x.expect + 1) % 65536, naking := false, sinceAck := x.sinceAck + 1 }
  let w := w.framePayload p bs (fun w m => (w.messageIn p m).freeCredits p m)
  if 16 ≤ (w.port p).sinceAck then w.frameOut p 0 false true [] else w

/-- A frame of a fabric or twin port that is UP. (Log entries 116, DEDUCED; 118, DEDUCED.) -/
def Work.fabricFrame (w : Work) (p lh : Nat) (bs : List Byte) : Work :=
  let w := w.linkState p lh
  let lseq := fieldOf lh 0 16
  let x := w.port p
  if bitOf lh 35 then w
  else if bitOf lh 33 then w.framePayload p bs (fun w m => (w.messageIn p m).freeCredits p m)
  else if lseq = x.expect then w.inOrder p bs
  else if seqUpTo lseq x.expect then w.setPort p { x with sinceAck := x.sinceAck + 1 }
  else w.nak p

/-- A frame of a port in ATTESTING: only the exchange is heard (R500, R616). -/
def Work.attestFrame (w : Work) (p : Nat) (bs : List Byte) : Work :=
  w.framePayload p bs (fun w m => if m.h.cls = clsCtrl ∧ m.h.typ = 0x30 then w.helloAt p m.payload else w)

/-- A frame of the host port (R519): without HOSTLINK it is discarded and counted. (Log entry 116, DEDUCED.) -/
def Work.hostFrame (w : Work) (p mac lh : Nat) (bs : List Byte) : Work :=
  if !bitOf lh 34 then w.bump F.fabStatAuthDrop 0 0
  else if bitOf lh 35 then w
  else w.framePayload p bs (fun w m => w.fromHost mac m (fun w m => w.messageIn p m))

/-! ## The frame (R495, R501) -/

/-- KFP_FRAME (R508): the bytes run from the destination address through the FCS. -/
def Work.kfpFrame (w : Work) (p : Nat) (bytes : List Byte) (fcsOk : Bool) : Work :=
  let st := w.klState p
  let live := decide (st = klUp)
  if st ≠ klUp ∧ st ≠ klHostUp ∧ st ≠ klAttesting then w
  else if !fcsOk ∨ 9216 < bytes.length then
    let w := w.bump F.klStatFcsErr 0 p
    if live then w.nak p else w
  else
    let bs := bytes.take (bytes.length - 4)
    if bs.length < 14 ∨ ofBytesBE (slice bs 12 2) ≠ w.dv F.fabCfgEthertype then w.bump F.klStatDropOther 0 p
    else if bs.length < 30 then w.bump F.klStatMalformed 0 p
    else
      let lh := leAt bs 14 16
      let rest := bs.drop 30
      if st = klHostUp then w.hostFrame p (ofBytesBE (slice bs 6 6)) lh rest
      else if live then w.fabricFrame p lh rest
      else w.attestFrame p rest

/-- KFP_FRAME. -/
def execKfpFrame (port : Nat) (bytes : List Byte) (fcsOk : Bool) (ns : Nat) (s : State) : Out :=
  s.perform (.kfpFrame port bytes fcsOk ns) (fun w => (w.atNs ns).kfpFrame port bytes fcsOk)

end Sys2Proof.Machine
end

