-- ==== Sys2Proof/Machine/Dispatch.lean ====
section
/-! DEFINITION. One arm per command: the meaning that it has. -/

namespace Sys2Proof.Machine

/-- The effect of a command on everything but the queue. -/
def exec (i : Instr) (s : State) : Host.Outcome State Fault Refusal :=
  match i with
  | .tick => Sys2Proof.Machine.execTick s
  | .commitWorkEnd ns => Sys2Proof.Machine.execCommitWorkEnd ns s
  | .overrunFault plan => Sys2Proof.Machine.execOverrunFault plan s
  | .catchupExpire die unit => Sys2Proof.Machine.execCatchupExpire die unit s
  | .heldEntryEnqueue die => Sys2Proof.Machine.execHeldEntryEnqueue die s
  | .announce port tickNo period running t1 t2 => Sys2Proof.Machine.execAnnounce port tickNo period running t1 t2 s
  | .delayReqSend t3 => Sys2Proof.Machine.execDelayReqSend t3 s
  | .delayReq port t3 tickNo t4 => Sys2Proof.Machine.execDelayReq port t3 tickNo t4 s
  | .delayResp port t3 t4 tickNo => Sys2Proof.Machine.execDelayResp port t3 t4 tickNo s
  | .parentSilentSwitch => Sys2Proof.Machine.execParentSilentSwitch s
  | .holdoverEntry => Sys2Proof.Machine.execHoldoverEntry s
  | .masterListenEnd => Sys2Proof.Machine.execMasterListenEnd s
  | .ptpWaitExpire => Sys2Proof.Machine.execPtpWaitExpire s
  | .timeTickPeriodWrite by_ value => Sys2Proof.Machine.execTimeTickPeriodWrite by_ value s
  | .clockLoss clk => Sys2Proof.Machine.execClockLoss clk s
  | .scanFilter iss r => Sys2Proof.Machine.execScanFilter iss r s
  | .probe iss r => Sys2Proof.Machine.execProbe iss r s
  | .insert iss r => Sys2Proof.Machine.execInsert iss r s
  | .histAdd iss r => Sys2Proof.Machine.execHistAdd iss r s
  | .atomicRow iss r => Sys2Proof.Machine.execAtomicRow iss r s
  | .gatherSum iss r => Sys2Proof.Machine.execGatherSum iss r s
  | .copy iss r => Sys2Proof.Machine.execCopy iss r s
  | .fill iss r => Sys2Proof.Machine.execFill iss r s
  | .cellarCompletion die k => Sys2Proof.Machine.execCellarCompletion die k s
  | .cellarScrub die bank row found => Sys2Proof.Machine.execCellarScrub die bank row found s
  | .dataBankFence die bank cause => Sys2Proof.Machine.execDataBankFence die bank cause s
  | .bankFenceCopyDone die bank => Sys2Proof.Machine.execBankFenceCopyDone die bank s
  | .search iss r => Sys2Proof.Machine.execSearch iss r s
  | .searchOne iss r => Sys2Proof.Machine.execSearchOne iss r s
  | .matchWrite iss r => Sys2Proof.Machine.execMatchWrite iss r s
  | .matchClear iss r => Sys2Proof.Machine.execMatchClear iss r s
  | .matchRead iss r => Sys2Proof.Machine.execMatchRead iss r s
  | .configure iss r => Sys2Proof.Machine.execConfigure iss r s
  | .matchCompletion die k => Sys2Proof.Machine.execMatchCompletion die k s
  | .matchScrub die bank row found => Sys2Proof.Machine.execMatchScrub die bank row found s
  | .matchBankFence die bank cause => Sys2Proof.Machine.execMatchBankFence die bank cause s
  | .matchFenceCopyDone die bank => Sys2Proof.Machine.execMatchFenceCopyDone die bank s
  | .sensorSample r => Sys2Proof.Machine.execSensorSample r s
  | .wload die me => Sys2Proof.Machine.execWload die me s
  | .mac die me => Sys2Proof.Machine.execMac die me s
  | .store die me => Sys2Proof.Machine.execStore die me s
  | .cbload die me => Sys2Proof.Machine.execCbload die me s
  | .rotate die me => Sys2Proof.Machine.execRotate die me s
  | .ringTransferDone die me => Sys2Proof.Machine.execRingTransferDone die me s
  | .meEnd die me => Sys2Proof.Machine.execMeEnd die me s
  | .histPartial die h payload => Sys2Proof.Machine.execHistPartial die h payload s
  | .histCombineDeadline die => Sys2Proof.Machine.execHistCombineDeadline die s
  | .vh64V die gc vd vs2 vm => Sys2Proof.Machine.execVh64V die gc vd vs2 vm s
  | .vh64Vs die gc vd vs2 vm => Sys2Proof.Machine.execVh64Vs die gc vd vs2 vm s
  | .vh64M die gc rd rs1 rs2 => Sys2Proof.Machine.execVh64M die gc rd rs1 rs2 s
  | .crc32cM die gc rd rs1 rs2 => Sys2Proof.Machine.execCrc32cM die gc rd rs1 rs2 s
  | .vbkt die gc nan wide flt vd vs2 rs1 vm => Sys2Proof.Machine.execVbkt die gc nan wide flt vd vs2 rs1 vm s
  | .vbitonic die gc vd vs2 rs1 => Sys2Proof.Machine.execVbitonic die gc vd vs2 rs1 s
  | .vargmax die gc tt rd vs2 vm => Sys2Proof.Machine.execVargmax die gc tt rd vs2 vm s
  | .vqpack die gc sgn vd vs2 => Sys2Proof.Machine.execVqpack die gc sgn vd vs2 s
  | .vtapTransfer die gc rd rs1 => Sys2Proof.Machine.execVtapTransfer die gc rd rs1 s
  | .vtapCellar die gc rd rs1 => Sys2Proof.Machine.execVtapCellar die gc rd rs1 s
  | .vtapMatch die gc rd rs1 => Sys2Proof.Machine.execVtapMatch die gc rd rs1 s
  | .tapRequestComplete die gc k => Sys2Proof.Machine.execTapRequestComplete die gc k s
  | .wfi die gc => Sys2Proof.Machine.execWfi die gc s
  | .userTrap die gc cause val ue unmapped => Sys2Proof.Machine.execUserTrap die gc cause val ue unmapped s
  | .ebreakHalt die gc => Sys2Proof.Machine.execEbreakHalt die gc s
  | .xfer iss r => Sys2Proof.Machine.execXfer iss r s
  | .descInstall iss r => Sys2Proof.Machine.execDescInstall iss r s
  | .descRelease iss r => Sys2Proof.Machine.execDescRelease iss r s
  | .streamStart iss r => Sys2Proof.Machine.execStreamStart iss r s
  | .streamStop iss r => Sys2Proof.Machine.execStreamStop iss r s
  | .barArrive iss r => Sys2Proof.Machine.execBarArrive iss r s
  | .barArm iss r => Sys2Proof.Machine.execBarArm iss r s
  | .chain iss r => Sys2Proof.Machine.execChain iss r s
  | .chainStageReturn die gc status => Sys2Proof.Machine.execChainStageReturn die gc status s
  | .resume iss r => Sys2Proof.Machine.execResume iss r s
  | .nop die ctx => Sys2Proof.Machine.execNop die ctx s
  | .loop die ctx => Sys2Proof.Machine.execLoop die ctx s
  | .endl die ctx => Sys2Proof.Machine.execEndl die ctx s
  | .seti die ctx => Sys2Proof.Machine.execSeti die ctx s
  | .addi die ctx => Sys2Proof.Machine.execAddi die ctx s
  | .add die ctx => Sys2Proof.Machine.execAdd die ctx s
  | .sub die ctx => Sys2Proof.Machine.execSub die ctx s
  | .madl die ctx => Sys2Proof.Machine.execMadl die ctx s
  | .wrap die ctx => Sys2Proof.Machine.execWrap die ctx s
  | .trellisEmitTransfer die ctx => Sys2Proof.Machine.execTrellisEmitTransfer die ctx s
  | .trellisEmitCellar die ctx => Sys2Proof.Machine.execTrellisEmitCellar die ctx s
  | .trellisEmitMatch die ctx => Sys2Proof.Machine.execTrellisEmitMatch die ctx s
  | .trellisEnd die ctx => Sys2Proof.Machine.execTrellisEnd die ctx s
  | .streamEmitDone die ctx => Sys2Proof.Machine.execStreamEmitDone die ctx s
  | .bandwidthGrant die ns => Sys2Proof.Machine.execBandwidthGrant die ns s
  | .rackPage die pg => Sys2Proof.Machine.execRackPage die pg s
  | .rackCopyDone die pg => Sys2Proof.Machine.execRackCopyDone die pg s
  | .dispSubmit mc die r => Sys2Proof.Machine.execDispSubmit mc die r s
  | .taskSubmit die gc a0 => Sys2Proof.Machine.execTaskSubmit die gc a0 s
  | .delayRelease die ns => Sys2Proof.Machine.execDelayRelease die ns s
  | .taskStart die unit ns => Sys2Proof.Machine.execTaskStart die unit ns s
  | .streamTaskIssue die ns => Sys2Proof.Machine.execStreamTaskIssue die ns s
  | .taskComplete die unit ns status => Sys2Proof.Machine.execTaskComplete die unit ns status s
  | .filter die gc a0 row0 count => Sys2Proof.Machine.execFilter die gc a0 row0 count s
  | .joinBuildInsert die gc a0 row0 count => Sys2Proof.Machine.execJoinBuildInsert die gc a0 row0 count s
  | .joinBuildFinish die gc a0 row0 count => Sys2Proof.Machine.execJoinBuildFinish die gc a0 row0 count s
  | .joinBuildClear die gc a0 row0 count => Sys2Proof.Machine.execJoinBuildClear die gc a0 row0 count s
  | .joinProbe die gc a0 row0 count => Sys2Proof.Machine.execJoinProbe die gc a0 row0 count s
  | .gather die gc a0 row0 count => Sys2Proof.Machine.execGather die gc a0 row0 count s
  | .bucketize die gc a0 row0 count => Sys2Proof.Machine.execBucketize die gc a0 row0 count s
  | .normalise die gc a0 row0 count => Sys2Proof.Machine.execNormalise die gc a0 row0 count s
  | .hashFeature die gc a0 row0 count => Sys2Proof.Machine.execHashFeature die gc a0 row0 count s
  | .window die gc a0 row0 count => Sys2Proof.Machine.execWindow die gc a0 row0 count s
  | .sort die gc a0 row0 count => Sys2Proof.Machine.execSort die gc a0 row0 count s
  | .topk die gc a0 row0 count => Sys2Proof.Machine.execTopk die gc a0 row0 count s
  | .merge die gc a0 row0 count => Sys2Proof.Machine.execMerge die gc a0 row0 count s
  | .tableAttach h payload => Sys2Proof.Machine.execTableAttach h payload s
  | .lookup die gc a0 => Sys2Proof.Machine.execLookup die gc a0 s
  | .update die gc a0 => Sys2Proof.Machine.execUpdate die gc a0 s
  | .embLookup h payload => Sys2Proof.Machine.execEmbLookup h payload s
  | .embPooled h payload => Sys2Proof.Machine.execEmbPooled h payload s
  | .lookupPartTimeout k => Sys2Proof.Machine.execLookupPartTimeout k s
  | .embUpdate h payload => Sys2Proof.Machine.execEmbUpdate h payload s
  | .rowReplace h payload => Sys2Proof.Machine.execRowReplace h payload s
  | .rowMigrate h payload ns => Sys2Proof.Machine.execRowMigrate h payload ns s
  | .embCopy h payload => Sys2Proof.Machine.execEmbCopy h payload s
  | .migrateAck table row stored => Sys2Proof.Machine.execMigrateAck table row stored s
  | .embOverride h payload => Sys2Proof.Machine.execEmbOverride h payload s
  | .migrationAbandon table row => Sys2Proof.Machine.execMigrationAbandon table row s
  | .migrationTombstone table row => Sys2Proof.Machine.execMigrationTombstone table row s
  | .decode src => Sys2Proof.Machine.execDecode src s
  | .encode src => Sys2Proof.Machine.execEncode src s
  | .jobComplete die press lane => Sys2Proof.Machine.execJobComplete die press lane s
  | .laneInternalError die press lane => Sys2Proof.Machine.execLaneInternalError die press lane s
  | .arrowCheck die gc a0 row0 count => Sys2Proof.Machine.execArrowCheck die gc a0 row0 count s
  | .parquetDecode die gc a0 row0 count => Sys2Proof.Machine.execParquetDecode die gc a0 row0 count s
  | .fieldRecordFrame port bytes fcsOk arrivalNs => Sys2Proof.Machine.execFieldRecordFrame port bytes fcsOk arrivalNs s
  | .portStatusFrame port => Sys2Proof.Machine.execPortStatusFrame port s
  | .ptpAnnounce port m => Sys2Proof.Machine.execPtpAnnounce port m s
  | .ptpSync port m t2 t3 => Sys2Proof.Machine.execPtpSync port m t2 t3 s
  | .ptpFollowUp port m t3 => Sys2Proof.Machine.execPtpFollowUp port m t3 s
  | .ptpDelayResp port m => Sys2Proof.Machine.execPtpDelayResp port m s
  | .ptpAnnounceTimeout port => Sys2Proof.Machine.execPtpAnnounceTimeout port s
  | .fieldLinkChange port up kind => Sys2Proof.Machine.execFieldLinkChange port up kind s
  | .frame die gc a0 => Sys2Proof.Machine.execFrame die gc a0 s
  | .frameJobComplete => Sys2Proof.Machine.execFrameJobComplete s
  | .emit die gc a0 row0 count ns => Sys2Proof.Machine.execEmit die gc a0 row0 count ns s
  | .emitResume pipe => Sys2Proof.Machine.execEmitResume pipe s
  | .emitWaitTimeout die gc => Sys2Proof.Machine.execEmitWaitTimeout die gc s
  | .bqFetch h payload => Sys2Proof.Machine.execBqFetch h payload s
  | .redeliver pipe seq => Sys2Proof.Machine.execRedeliver pipe seq s
  | .pushSend pipe => Sys2Proof.Machine.execPushSend pipe s
  | .batchPart h payload => Sys2Proof.Machine.execBatchPart h payload s
  | .kupelTrainingComplete port txFail rxFail => Sys2Proof.Machine.execKupelTrainingComplete port txFail rxFail s
  | .laneLossOfLock port lane => Sys2Proof.Machine.execLaneLossOfLock port lane s
  | .serLimitExceeded port lane => Sys2Proof.Machine.execSerLimitExceeded port lane s
  | .trainingExclusion port => Sys2Proof.Machine.execTrainingExclusion port s
  | .linkHello port h payload => Sys2Proof.Machine.execLinkHello port h payload s
  | .linkHelloTimeout port => Sys2Proof.Machine.execLinkHelloTimeout port s
  | .attestRetry port => Sys2Proof.Machine.execAttestRetry port s
  | .kfpFrame port bytes fcsOk ns => Sys2Proof.Machine.execKfpFrame port bytes fcsOk ns s
  | .messageTransmit port cls => Sys2Proof.Machine.execMessageTransmit port cls s
  | .ackTimer port => Sys2Proof.Machine.execAckTimer port s
  | .replayTimeout port => Sys2Proof.Machine.execReplayTimeout port s
  | .dataWrite h payload => Sys2Proof.Machine.execDataWrite h payload s
  | .sessionOpen h macAddr payload => Sys2Proof.Machine.execSessionOpen h macAddr payload s
  | .sessionOpenTimeout session => Sys2Proof.Machine.execSessionOpenTimeout session s
  | .sessionIdleTimeout session => Sys2Proof.Machine.execSessionIdleTimeout session s
  | .sessionClose h => Sys2Proof.Machine.execSessionClose h s
  | .attest h payload => Sys2Proof.Machine.execAttest h payload s
  | .planLoad h payload => Sys2Proof.Machine.execPlanLoad h payload s
  | .planStart h payload => Sys2Proof.Machine.execPlanStart h payload s
  | .planStop h payload => Sys2Proof.Machine.execPlanStop h payload s
  | .planDrain h payload => Sys2Proof.Machine.execPlanDrain h payload s
  | .regRead h payload => Sys2Proof.Machine.execRegRead h payload s
  | .regWrite h payload => Sys2Proof.Machine.execRegWrite h payload s
  | .ctrlDone h payload => Sys2Proof.Machine.execCtrlDone h payload s
  | .event h payload => Sys2Proof.Machine.execEvent h payload s
  | .hello h payload => Sys2Proof.Machine.execHello h payload s
  | .pairingWaitExpire => Sys2Proof.Machine.execPairingWaitExpire s
  | .heartbeat h payload => Sys2Proof.Machine.execHeartbeat h payload s
  | .heartbeatMiss => Sys2Proof.Machine.execHeartbeatMiss s
  | .deltaPart h payload => Sys2Proof.Machine.execDeltaPart h payload s
  | .deltaEnd h payload => Sys2Proof.Machine.execDeltaEnd h payload s
  | .deltaAck h payload => Sys2Proof.Machine.execDeltaAck h payload s
  | .deltaLagExpire => Sys2Proof.Machine.execDeltaLagExpire s
  | .bulkPart h payload => Sys2Proof.Machine.execBulkPart h payload s
  | .bulkEnd h payload => Sys2Proof.Machine.execBulkEnd h payload s
  | .detach h payload => Sys2Proof.Machine.execDetach h payload s
  | .handover h payload => Sys2Proof.Machine.execHandover h payload s
  | .twnCtlHandover by_ => Sys2Proof.Machine.execTwnCtlHandover by_ s
  | .hangDetect die unit => Sys2Proof.Machine.execHangDetect die unit s
  | .unitFence die unit cause => Sys2Proof.Machine.execUnitFence die unit cause s
  | .sprFence by_ value => Sys2Proof.Machine.execSprFence by_ value s
  | .mcFence mc cause => Sys2Proof.Machine.execMcFence mc cause s
  | .frameRetire tier frame cause => Sys2Proof.Machine.execFrameRetire tier frame cause s
  | .hbmScrub found => Sys2Proof.Machine.execHbmScrub found s
  | .fatalFailure die what => Sys2Proof.Machine.execFatalFailure die what s
  | .por => Sys2Proof.Machine.execPor s
  | .bor => Sys2Proof.Machine.execBor s
  | .pin lowNs => Sys2Proof.Machine.execPin lowNs s
  | .wdog => Sys2Proof.Machine.execWdog s
  | .sw by_ value => Sys2Proof.Machine.execSw by_ value s
  | .dbg => Sys2Proof.Machine.execDbg s
  | .lockup mc => Sys2Proof.Machine.execLockup mc s
  | .rest => Sys2Proof.Machine.execRest s
  | .wake bySource => Sys2Proof.Machine.execWake bySource s
  | .shared => Sys2Proof.Machine.execShared s
  | .run => Sys2Proof.Machine.execRun s
  | .sharedCountExpire => Sys2Proof.Machine.execSharedCountExpire s
  | .unitReset by_ value => Sys2Proof.Machine.execUnitReset by_ value s
  | .unitResetDone die unit => Sys2Proof.Machine.execUnitResetDone die unit s
  | .kick by_ value => Sys2Proof.Machine.execKick by_ value s
  | .eventOccurrence source status detail => Sys2Proof.Machine.execEventOccurrence source status detail s
  | .eventDelivery source => Sys2Proof.Machine.execEventDelivery source s
  | .holdoffExpire group => Sys2Proof.Machine.execHoldoffExpire group s
  | .evtEoi mc value => Sys2Proof.Machine.execEvtEoi mc value s
  | .evtPend instance_ value => Sys2Proof.Machine.execEvtPend instance_ value s
  | .evtSub by_ instance_ value => Sys2Proof.Machine.execEvtSub by_ instance_ value s
  | .planEvent die gc a0 a1 => Sys2Proof.Machine.execPlanEvent die gc a0 a1 s
  | .enrol by_ value => Sys2Proof.Machine.execEnrol by_ value s
  | .enrolComplete => Sys2Proof.Machine.execEnrolComplete s
  | .erase by_ ctl => Sys2Proof.Machine.execErase by_ ctl s
  | .program by_ ctl => Sys2Proof.Machine.execProgram by_ ctl s
  | .verifyOxene by_ ctl => Sys2Proof.Machine.execVerifyOxene by_ ctl s
  | .verifyOwner by_ ctl => Sys2Proof.Machine.execVerifyOwner by_ ctl s
  | .flashOpComplete => Sys2Proof.Machine.execFlashOpComplete s
  | .hotSwapClose => Sys2Proof.Machine.execHotSwapClose s
  | .pwrEnDeassert => Sys2Proof.Machine.execPwrEnDeassert s
  | .powerDownDelay => Sys2Proof.Machine.execPowerDownDelay s
  | .inputOvervoltage vinMv => Sys2Proof.Machine.execInputOvervoltage vinMv s
  | .inputOvercurrent iinDa ns => Sys2Proof.Machine.execInputOvercurrent iinDa ns s
  | .railGood pg => Sys2Proof.Machine.execRailGood pg s
  | .railGoodTimeout pg => Sys2Proof.Machine.execRailGoodTimeout pg s
  | .railFault pg => Sys2Proof.Machine.execRailFault pg s
  | .vcoreExcursion die mv ns => Sys2Proof.Machine.execVcoreExcursion die mv ns s
  | .nvwInhibitAssert vinMv vauxMv => Sys2Proof.Machine.execNvwInhibitAssert vinMv vauxMv s
  | .nvwInhibitLift vinMv vauxMv => Sys2Proof.Machine.execNvwInhibitLift vinMv vauxMv s
  | .powerSample r => Sys2Proof.Machine.execPowerSample r s
  | .qsfpModuleChange port kind pclass => Sys2Proof.Machine.execQsfpModuleChange port kind pclass s
  | .page w pecOk => Sys2Proof.Machine.execPage w pecOk s
  | .clearFaults pecOk => Sys2Proof.Machine.execClearFaults pecOk s
  | .capability => Sys2Proof.Machine.execCapability s
  | .voutMode => Sys2Proof.Machine.execVoutMode s
  | .statusWord => Sys2Proof.Machine.execStatusWord s
  | .statusVout => Sys2Proof.Machine.execStatusVout s
  | .statusIout => Sys2Proof.Machine.execStatusIout s
  | .statusInput => Sys2Proof.Machine.execStatusInput s
  | .statusTemperature => Sys2Proof.Machine.execStatusTemperature s
  | .statusCml => Sys2Proof.Machine.execStatusCml s
  | .readVin => Sys2Proof.Machine.execReadVin s
  | .readIin => Sys2Proof.Machine.execReadIin s
  | .readPin => Sys2Proof.Machine.execReadPin s
  | .readVout => Sys2Proof.Machine.execReadVout s
  | .readIout => Sys2Proof.Machine.execReadIout s
  | .readPout => Sys2Proof.Machine.execReadPout s
  | .readTemperature1 => Sys2Proof.Machine.execReadTemperature1 s
  | .readTemperature2 => Sys2Proof.Machine.execReadTemperature2 s
  | .readTemperature3 => Sys2Proof.Machine.execReadTemperature3 s
  | .pmbusRevision => Sys2Proof.Machine.execPmbusRevision s
  | .mfrId => Sys2Proof.Machine.execMfrId s
  | .mfrModel => Sys2Proof.Machine.execMfrModel s
  | .alertResponse => Sys2Proof.Machine.execAlertResponse s
  | .oxnBootStatus => Sys2Proof.Machine.execOxnBootStatus s
  | .oxnRstState => Sys2Proof.Machine.execOxnRstState s
  | .oxnPwrCap w pecOk => Sys2Proof.Machine.execOxnPwrCap w pecOk s
  | .oxnFlashBuf block pecOk => Sys2Proof.Machine.execOxnFlashBuf block pecOk s
  | .oxnFlashCtl block pecOk => Sys2Proof.Machine.execOxnFlashCtl block pecOk s
  | .oxnFlashStat => Sys2Proof.Machine.execOxnFlashStat s
  | .oxnOwnRoot block pecOk => Sys2Proof.Machine.execOxnOwnRoot block pecOk s
  | .oxnOwnCtl w pecOk => Sys2Proof.Machine.execOxnOwnCtl w pecOk s
  | .idcode => Sys2Proof.Machine.execIdcode s
  | .samplePreload pins preload => Sys2Proof.Machine.execSamplePreload pins preload s
  | .extest pins => Sys2Proof.Machine.execExtest pins s
  | .clamp => Sys2Proof.Machine.execClamp s
  | .highz => Sys2Proof.Machine.execHighz s
  | .oxnDbg attach => Sys2Proof.Machine.execOxnDbg attach s
  | .oxnRecovery code data => Sys2Proof.Machine.execOxnRecovery code data s
  | .oxnReset => Sys2Proof.Machine.execOxnReset s
  | .bypass => Sys2Proof.Machine.execBypass s
  | .trst => Sys2Proof.Machine.execTrst s
  | .registerWrite by_ addr value => Sys2Proof.Machine.execRegisterWrite by_ addr value s
  | .runPhaseStart => Sys2Proof.Machine.execRunPhaseStart s
  | .rv64gcInstruction die gc => Sys2Proof.Machine.execRv64gcInstruction die gc s
  | .borRelease => Sys2Proof.Machine.execBorRelease s
  | .reportSigned => Sys2Proof.Machine.execReportSigned s
  | .framePathAlignerFailure aligner => Sys2Proof.Machine.execFramePathAlignerFailure aligner s

end Sys2Proof.Machine
end

