-- ==== Sys2Proof/Safety.lean ====
section
/-! DEFINITION. What claims mean by a safe state and a safe run. -/

namespace Sys2Proof

/-- The outcome is a next state. -/
def Runs {σ φ ρ : Type} (o : Host.Outcome σ φ ρ) : Prop := ∃ s, o = .next s

/-- The memory of the state is in its canonical form. -/
def MemInv (s : Machine.State) : Prop := Machine.Memory.wf s.mem = true

/-- Every waiting command names only what the module has, so that none of them can fault. -/
def QueueInv (s : Machine.State) : Prop := ∀ c ∈ s.pending, c.wf = true

/-- A stream-engine request that its unit takes: its issuer has room for it, OP is the row's and no reserved bit is set;
`w` is the block with the request issued. -/
def StreamRequest (op : Nat) (iss : Issuer) (r : Rec) (s : Machine.State) (w : Machine.Work) : Prop :=
  iss.wf = true ∧ Machine.recF r 7 0 = op ∧ s.work.tapRoom iss = true ∧ w = s.work.tapIssue iss ∧
    ∃ z, Machine.strmReserved op = some z ∧ Machine.recZero r z = true

/-- A running context, and the instruction at its program counter, which has the OP. -/
def RunsOp (op d c : Nat) (s : Machine.State) (x : Machine.Ctx) (t : Machine.TOp) : Prop :=
  d < 4 ∧ c < 256 ∧ x = s.work.ctx d c ∧ x.st = .running ∧ t = Machine.progAt x.desc x.pc ∧ t.op = op

/-- A message command of a class and type that this device takes for itself: link-local classes always; others addressed to
the device and to no host session; and of a mirror, those that R527 leaves to it. -/
def TakenHere (cls typ : Nat) (h : KHdr) (s : Machine.State) : Prop :=
  h.cls = cls ∧ h.typ = typ ∧
    (cls = 5 ∨ (s.work.isMirror = false ∧ s.work.ownId h.dstDev = true ∧ h.dstSess = 0) ∨
      (s.work.isMirror = true ∧ (h.dstDev = s.work.deviceId ∨ h.dstDev = s.work.partner) ∧ s.work.mirrorHandles h = true))

/-- A message command of a class and type that this device, ACTIVE or alone, takes from a master that it accepts (R517). -/
def OrderHere (typ : Nat) (h : KHdr) (s : Machine.State) : Prop := TakenHere 3 typ h s ∧ s.work.authorised h = true

end Sys2Proof
end

