-- ==== Sys2Proof/Certificates/Slice0/Obligations.lean ====
section
/-! DEFINITION. The statements for the provers. `s.on f` is the state after a command whose whole effect on the block is
`f`, with the float additions that `f` has left in no fixed order made in the order that free values give, the words of a
matrix engine that `f` writes whole sound again, and the reservations of the lines that it writes given up. So an equation
`exec c s = .next (s.on f)` says the result of a command and its frame at once: every part of the state that `f` does not
name is as it was, and so is every byte of memory that `f` stores nothing to. -/

open Sys2Proof Sys2Proof.Machine

/-- A step is `exec` of the command at the front of the queue, on the state with the queue's rest.
With no command waiting the block idles. The model's choice: log entry 11. -/
def Obligations.StepRunsFrontCommand : Prop :=
  (∀ (c : Instr) (cs : List Instr) (s : State), step { s with pending := c :: cs } = exec c { s with pending := cs }) ∧
  ∀ s : State, s.pending = [] → step s = .next s

/-- A command that names only what the module has completes, whatever the state, and leaves the queue as it is; any other
faults; no command is refused. -/
def Obligations.WellFormedCommandsComplete : Prop :=
  ∀ (c : Instr) (s : State),
    (c.wf = true → ∃ t, exec c s = .next t ∧ t.pending = s.pending) ∧
    (c.wf = false → exec c s = .fault .illFormed) ∧ ∀ r, exec c s ≠ .refused r

/-- Every step keeps memory in its canonical form: equal memories stay equal data. -/
def Obligations.MemoryStaysCanonical : Prop :=
  ∀ s t : State, MemInv s → step s = .next t → MemInv t

/-- R217's load-reserved: a general core that still holds the reservation of a line after a step finds every byte of that
line as it was before the step. -/
def Obligations.HeldReservationMeansUntouchedLine : Prop :=
  ∀ (s t : State) (k l : Nat) (c : Core), step s = .next t → (k, c) ∈ t.cores → s.pending ≠ [] → c.resv = some l →
    ∀ a, a / 64 = l → (Memory.wf s.mem = true → Memory.get t.mem a = Memory.get s.mem a)

/-- What reset leaves: memory canonical, nothing waiting, every queue and unit empty, and every register field at the reset
value of its table in the register map.
A register field reads back what was written to it, kept to its width, and a field at any other place keeps its value. -/
def Obligations.ResetStateAndRegisterFields : Prop :=
  (MemInv State.reset ∧ QueueInv State.reset ∧ State.reset.pending = [] ∧
   (∀ (f : Fld) (d i : Nat), State.reset.work.rd f d i = f.rst % 2 ^ f.w) ∧
   (∀ a, Memory.get State.reset.mem a = 0) ∧
   (∀ d g, State.reset.work.core d g = Core.atReset) ∧ (∀ d c, State.reset.work.ctx d c = Ctx.atReset)) ∧
  ∀ (w : Work) (f g : Fld) (d i e j v : Nat),
    (w.wr f d i v).rd f d i = v % 2 ^ f.w ∧ (g.key e j ≠ f.key d i → (w.wr g e j v).rd f d i = w.rd f d i)

/-- R589: an occurrence of a source that is not pending opens its record and makes it pending; one of a source that is
already pending only counts, and the record keeps the first occurrence's fields. Nothing else changes but the watcher of
REST. A reserved source never becomes pending (R585).
R587: a task raises plan event j, and the call returns OK; a number above 15 or a detail that is not at a multiple of 4
returns DESC_RANGE and raises nothing.
Commands stated to complete: eventOccurrence, planEvent. -/
def Obligations.EventsRaised : Prop :=
  (∀ (s : State) (n : Nat) (st : Status) (detail : BitVec 256), n < 256 →
     (reservedSource n = true → exec (.eventOccurrence n st detail) s = .next s) ∧
     (reservedSource n = false →
       ∃ t, exec (.eventOccurrence n st detail) s = .next t ∧
         (∃ r, t = { s with regs := r, evt := (s.work.watch n).evt }) ∧
         (∀ (f : Fld) (d i : Nat), f.key d i ≠ F.evtRecRecord.key 0 n → f.key d i ≠ F.evtPriCount.key 0 n →
           f.key d i ≠ F.evtPriState.key 0 n → t.work.rd f d i = s.work.rd f d i) ∧
         (s.work.evtPending n = false →
           t.work.evtPending n = true ∧ t.work.evtActive n = s.work.evtActive n ∧ t.work.rd F.evtPriCount 0 n = 1 ∧
           fieldOf (t.work.rd F.evtRecRecord 0 n) 16 16 = statusCode st ∧
           fieldOf (t.work.rd F.evtRecRecord 0 n) 32 16 = 1 ∧
           fieldOf (t.work.rd F.evtRecRecord 0 n) 64 64 = s.work.tickNo ∧
           fieldOf (t.work.rd F.evtRecRecord 0 n) 128 64 = s.work.now ∧
           fieldOf (t.work.rd F.evtRecRecord 0 n) 256 256 = detail.toNat) ∧
         (s.work.evtPending n = true →
           t.work.rd F.evtPriState 0 n = s.work.rd F.evtPriState 0 n ∧
           t.work.rd F.evtPriCount 0 n = min (s.work.rd F.evtPriCount 0 n + 1) 65535 ∧
           ∀ lo k, lo + k ≤ 32 ∨ 48 ≤ lo →
             fieldOf (t.work.rd F.evtRecRecord 0 n) lo k = fieldOf (s.work.rd F.evtRecRecord 0 n) lo k))) ∧
  ∀ (s : State) (d g j a : Nat), d < 4 → g < 96 → s.work.coreRuns d g = true →
    (j < 16 → exec (.planEvent d g j 0) s =
      .next (s.on fun w => (w.event (240 + j) sOk (w.planOf (.core d g) % 16)).callReturn d g sOk none)) ∧
    (∀ bs, j < 16 → a ≠ 0 → s.work.callRecord d g a 28 4 = some bs → exec (.planEvent d g j a) s =
      .next (s.on fun w => (w.event (240 + j) sOk (w.planOf (.core d g) % 16 + ofBytes bs * 2 ^ 32)).callReturn d g sOk none)) ∧
    (16 ≤ j ∨ (a ≠ 0 ∧ s.work.callRecord d g a 28 4 = none) →
      exec (.planEvent d g j a) s = .next (s.on fun w => w.callReturn d g sRange none))

/-- R593 and R599: the decision of a cycle delivers a source to one management core. The source becomes active there and
is no longer pending, the cycle has turned to that core, SEQ counts the delivery, and the hold-off of its group starts
where one is set; a source that the decision does not deliver stays as it is.
R596, R598, R599: the end of handling of a source active on the writing core ends its active state and samples a level
source again; any other end only counts in BAD_EOI. A hold-off that has run out lets its group be delivered again.
R598: a write to EVT_PEND discards the pending occurrence of every source whose bit is 1 and closes its record; a 0, or
a source that is not pending, is ignored, and so is every other source.
R600: a session's write of VALID 1 takes its own entry or the lowest free one, and changes nothing when there is
neither; a write of VALID 0 from any master clears the instance it addresses; a write of VALID 1 from firmware, the
recovery service or a twin partner is ignored.
Commands stated to complete: eventDelivery, holdoffExpire, evtEoi, evtPend, evtSub. -/
def Obligations.EventsDelivered : Prop :=
  (∀ (s : State) (n : Nat), n < 256 →
     (s.work.evtDecision n = none → exec (.eventDelivery n) s = .next s) ∧
     (∀ x, s.work.evtDecision n = some x → x < 4 →
       ∃ t, exec (.eventDelivery n) s = .next t ∧ t.mem = s.mem ∧ t.out = s.out ∧
         t.work.evtPending n = false ∧ t.work.evtActive n = true ∧ t.work.rd F.evtCoreSource 0 x = n ∧
         t.work.evtStack x = (n, s.work.evtGroup n) :: s.work.evtStack x ∧
         t.work.rd F.evtPriCount 0 n = 0 ∧ t.work.rd F.evtPriRr 0 n = x ∧
         t.work.dv F.evtGlobalSeq = (s.work.dv F.evtGlobalSeq + 1) % 2 ^ F.evtGlobalSeq.w ∧
         (s.work.holdoffUs (n / 8) ≠ 0 → n / 8 ∈ t.evt.holdoff)) ∧
     (s.work.evtDecision n = some 4 → exec (.eventDelivery n) s = .next (s.on fun w => w.evtDeliver n 4))) ∧
  ((∀ (s : State) (mc : Nat) (v : BitVec 64), mc < 4 →
     let n := v.toNat % 256
     ((s.work.evtStack mc).any (fun e => e.1 = n) = true →
       exec (.evtEoi mc v) s = .next (s.on fun w =>
         ((w.wr F.evtPriState 0 n (w.rd F.evtPriState 0 n % 2)).setEvtStack mc
           ((w.evtStack mc).filter (fun e => e.1 ≠ n))).resample n)) ∧
     ((s.work.evtStack mc).any (fun e => e.1 = n) = false →
       exec (.evtEoi mc v) s = .next { s with regs := (s.work.bump F.evtGlobalBadEoi 0 0).regs })) ∧
   (∀ (s : State) (g : Nat), g < 32 →
     ∃ t, exec (.holdoffExpire g) s = .next t ∧ t = { s with evt := { s.evt with holdoff := t.evt.holdoff } } ∧
       ∀ x, x ∈ t.evt.holdoff ↔ x ∈ s.evt.holdoff ∧ x ≠ g)) ∧
  (∀ (s : State) (i : Nat) (v : BitVec 64), i < 4 →
     ∃ t, exec (.evtPend i v) s = .next t ∧ (∃ r, t = { s with regs := r }) ∧
       ∀ n, n < 256 →
         if n / 64 = i ∧ bitOf v.toNat (n % 64) = true ∧ s.work.evtPending n = true then
           t.work.evtPending n = false ∧ t.work.evtActive n = s.work.evtActive n ∧ t.work.rd F.evtPriCount 0 n = 0
         else
           t.work.rd F.evtPriState 0 n = s.work.rd F.evtPriState 0 n ∧
           t.work.rd F.evtPriCount 0 n = s.work.rd F.evtPriCount 0 n) ∧
  ∀ (s : State) (i : Nat) (v : BitVec 64), i < 8 →
    (∀ by_ : Requester, by_.wf = true → bitOf v.toNat 11 = false →
      ∃ t, exec (.evtSub by_ i v) s = .next t ∧ t.work.rdB F.evtSubValid 0 i = false ∧
        t = { s with regs := (s.work.wr F.evtSubValid 0 i 0).regs }) ∧
    (∀ dev sess, dev < 512 → sess < 8 → bitOf v.toNat 11 = true →
      (sess = 0 → exec (.evtSub (.regWrite dev sess) i v) s = .next s) ∧
      (sess ≠ 0 → s.work.subSlot dev (sess - 1) = none → exec (.evtSub (.regWrite dev sess) i v) s = .next s) ∧
      (∀ k, sess ≠ 0 → s.work.subSlot dev (sess - 1) = some k →
        ∃ t, exec (.evtSub (.regWrite dev sess) i v) s = .next t ∧ (∃ r, t = { s with regs := r }) ∧
          t.work.rdB F.evtSubValid 0 k = true ∧ t.work.rd F.evtSubBridge 0 k = dev ∧
          t.work.rd F.evtSubSession 0 k = (sess - 1) % 2 ^ F.evtSubSession.w ∧ t.work.rd F.evtSubGroups 0 k = fieldOf v.toNat 32 32 ∧
          t.work.rd F.evtSubSubTick 0 k = s.work.tickNo % 2 ^ 32)) ∧
    (∀ by_ : Requester, by_.wf = true → bitOf v.toNat 11 = true → (∀ a b, by_ ≠ .regWrite a b) →
      exec (.evtSub by_ i v) s = .next s)

/-- R31, R47: in a device that has not finished start, a tick falls P after the one before it, TIME_TICK_COUNT goes up by
exactly one, TICK_OUT pulses, and the units only take what every tick gives them: slots are released, staged match changes
and match tiers take effect, and the engines' generators take their seeds.
R31, R50, R57, R573: whether a tick falls, and what it is, by the case that the device is in. A device that has left
start runs the work of the epoch's end and beginning; a device at its last wait leaves start.
R564: at a tick ERR_SUM takes the totals of the epoch that ended, and the counts of the new epoch begin at zero; the
counts of further failures, which each unit keeps, run on.
R571: the SHARED count falls by one at each tick, and the device becomes RUNNING when it reaches zero.
Commands stated to complete: tick, sharedCountExpire. -/
def Obligations.TicksByCase : Prop :=
  (∀ s : State, s.work.ticking = true → s.boot.ready = false →
     (s.work.isMaster = true → s.time.ticked = true ∨ s.time.masterTook = true) →
     ∃ t, exec .tick s = .next t ∧ t.work.tickNo = (s.work.tickNo + 1) % 2 ^ 64 ∧
       t.time.lastTick = s.time.lastTick + s.work.period ∧ t.work.now = (s.time.lastTick + s.work.period) % 2 ^ 64 ∧
       t.time.ticked = true ∧ t.time.tickOut = some (s.time.lastTick + s.work.period) ∧
       t = s.on (fun w => w.advanceTick.noteSilence.unitTick) ∧
       t.mem = s.mem ∧ t.cores = s.cores ∧ t.ctxs = s.ctxs ∧ t.disps = s.disps ∧ t.plans = s.plans ∧ t.cellar = s.cellar ∧
       t.mtch = s.mtch ∧ t.emb = s.emb ∧ t.codecs = s.codecs ∧ t.pipes = s.pipes ∧ t.twin = s.twin ∧ t.errs = s.errs) ∧
  (∀ s : State,
     (s.work.ticking = false → exec .tick s = .next s) ∧
     (s.work.ticking = true → s.work.isMaster = true → s.time.ticked = false → s.time.masterTook = false →
       exec .tick s = .next (s.on Work.firstTick)) ∧
     (∀ w : Work, s.work.ticking = true → s.boot.ready = true → w = s.work.advanceTick.noteSilence →
       (s.work.isMaster = true → s.time.ticked = true ∨ s.time.masterTook = true) →
       (w.devState ≠ stStarting →
         exec .tick s = .next (s.on fun _ => (w.epochTick s.time.lastTick).levelTick.sendBeats.announce)) ∧
       (w.devState = stStarting → w.twinTick.startEnds = true →
         exec .tick s = .next (s.on fun _ =>
           ((w.twinTick.leaveStart).startTick s.time.lastTick).levelTick.sendBeats.announce)) ∧
       (w.devState = stStarting → w.twinTick.startEnds = false →
         exec .tick s = .next (s.on fun _ => w.twinTick.unitTick.levelTick.sendBeats.announce)))) ∧
  (∀ w : Work,
     (w.sumErrors.dv F.errSumCe = w.errs.ce % 2 ^ 32 ∧ w.sumErrors.dv F.errSumUe = w.errs.ue % 2 ^ 16 ∧
       w.sumErrors.dv F.errSumSat = w.errs.sat % 2 ^ 32 ∧ w.sumErrors.dv F.errSumWrap = w.errs.wrap % 2 ^ 32 ∧
       w.sumErrors.errs = ⟨0, 0, 0, 0, w.errs.further⟩) ∧
     (∀ (f : Fld) (d i : Nat), f.key d i ∉ [F.errSumCe.key 0 0, F.errSumUe.key 0 0, F.errSumSat.key 0 0,
       F.errSumWrap.key 0 0] → w.sumErrors.rd f d i = w.rd f d i)) ∧
  (∀ w : Work, w.devState = stShared → w.dv F.rstStateSharedLeft ≠ 0 →
    w.sharedTick.dv F.rstStateSharedLeft = w.dv F.rstStateSharedLeft - 1 ∧
    w.sharedTick.devState = if w.dv F.rstStateSharedLeft = 1 then stRunning else stShared) ∧
  (∀ w : Work, w.devState ≠ stShared → w.sharedTick = w) ∧
  (∀ s : State,
    (s.work.dv F.rstStateSharedLeft = 1 → exec .sharedCountExpire s = .next (s.on Work.sharedTick)) ∧
    (s.work.dv F.rstStateSharedLeft ≠ 1 → exec .sharedCountExpire s = .next s))

/-- R49: the offset that a follower's answered request gives is ((t2 - t1) - (t4 - t3)) / 2. In LOCKED it only slews it out
(R44, R50): OFFSET_NS shows it, and neither TIME_NOW nor the tick count steps.
R49, R50, R53: the other answers. A request that nobody awaits, or one on another port, is dropped; an acquiring device
steps its time; a device in HOLDOVER returns on the first exchange, or diverges.
R49, R50, R52, R54, R57, R510: announcements. A master takes up a running number only while it listens; a follower
hears its parent port, and its alternate port once it follows it or is in MISMATCH; a period that is not its own makes a
device that has not ticked MISMATCH and is dropped by one that has.
R49, R510: the follower's request at t3 and the parent's answer at t4 leave on their port when it is UP.
Commands stated to complete: announce, delayReqSend, delayReq, delayResp. -/
def Obligations.TimeMessages : Prop :=
  (∀ (s : State) (port t3 t4 tick : Nat), port < 24 → s.work.isMaster = false → s.work.align = alLocked →
     port = s.work.timePort → s.time.t3 = some t3 →
     ∃ t, exec (.delayResp port t3 t4 tick) s = .next t ∧
       (let o := offsetOf s.time.t1 s.time.t2 t3 t4
        t.work.dv F.timeSrcOffsetNs = sat32 o ∧ t.time.slew = -o ∧ 2 * o ≤ ((s.time.t2 : Int) - s.time.t1) - (t4 - t3) ∧
        ((s.time.t2 : Int) - s.time.t1) - (t4 - t3) < 2 * o + 2) ∧
       t.time.t3 = none ∧ t.work.now = s.work.now ∧ t.work.tickNo = s.work.tickNo ∧ t.work.align = alLocked ∧
       t.time.lastTick = s.time.lastTick ∧ (∃ r x, t = { s with regs := r, time := x })) ∧
  (∀ (s : State) (port t3 t4 tick : Nat), port < 24 →
     (s.work.isMaster = true ∨ port ≠ s.work.timePort ∨ s.time.t3 ≠ some t3 →
       exec (.delayResp port t3 t4 tick) s = .next s) ∧
     (∀ (w : Work) (o : Int), s.work.isMaster = false → port = s.work.timePort → s.time.t3 = some t3 →
       o = offsetOf s.time.t1 s.time.t2 t3 t4 →
       w = (s.work.setTime (fun x => { x with t3 := none })).wr F.timeSrcOffsetNs 0 0 (sat32 o) →
       (s.work.align = alAcquiring → exec (.delayResp port t3 t4 tick) s = .next (s.on fun _ => w.acquire o)) ∧
       (s.work.align = alHoldover → s.time.firstExchange = true →
         exec (.delayResp port t3 t4 tick) s = .next (s.on fun _ => w.rejoin o)) ∧
       (s.work.align = alHoldover → s.time.firstExchange = false →
         exec (.delayResp port t3 t4 tick) s = .next (s.on fun _ => w)))) ∧
  (∀ (s : State) (port n p t1 t2 : Nat) (running : Bool), port < 24 →
     (s.work.isMaster = true → running = false ∨ s.time.listening = false ∨ s.time.ticked = true →
       exec (.announce port n p running t1 t2) s = .next s) ∧
     (s.work.isMaster = true → running = true → s.time.listening = true → s.time.ticked = false →
       exec (.announce port n p running t1 t2) s = .next (s.on fun w =>
         (((w.setTime (fun x => { x with listening := false, masterTook := true, lastTick := t1 })).wr
           F.timeNowNowNs 0 0 t1).wr F.timeTickCountCount 0 0 n).setAlign alLocked)) ∧
     (s.work.isMaster = false → s.work.align = alDiverged → exec (.announce port n p running t1 t2) s = .next s) ∧
     (s.work.isMaster = false → s.work.align ≠ alDiverged → port ≠ s.work.dv F.timeSrcParentPort →
       (port ≠ s.work.dv F.timeSrcAltPort ∨ (s.work.rdB F.timeSrcOnAlt 0 0 = false ∧ s.work.align ≠ alMismatch)) →
       exec (.announce port n p running t1 t2) s = .next s) ∧
     (s.work.isMaster = false → s.work.align ≠ alDiverged →
       (port = s.work.dv F.timeSrcParentPort ∨
         (port = s.work.dv F.timeSrcAltPort ∧ (s.work.rdB F.timeSrcOnAlt 0 0 = true ∨ s.work.align = alMismatch))) →
       (p ≠ s.work.period → s.time.ticked = true → exec (.announce port n p running t1 t2) s = .next s) ∧
       (p ≠ s.work.period → s.time.ticked = false →
         exec (.announce port n p running t1 t2) s = .next (s.on fun w => w.setAlign alMismatch)) ∧
       (∀ w : Work, p = s.work.period →
         w = s.work.wrB F.timeSrcOnAlt 0 0 (decide (port ≠ s.work.dv F.timeSrcParentPort)) →
         (s.work.align = alFree ∨ s.work.align = alMismatch →
           exec (.announce port n p running t1 t2) s = .next (s.on fun _ =>
             (((w.keepStamps n t1 t1).setTime (fun x => { x with good := 0 })).stepTo t1).setAlign alAcquiring)) ∧
         (s.work.align = alAcquiring → exec (.announce port n p running t1 t2) s =
           .next (s.on fun _ => (w.keepStamps n t1 t2).setTime (fun x => { x with lastTick := t1 }))) ∧
         (s.work.align = alLocked → exec (.announce port n p running t1 t2) s =
           .next (s.on fun _ => w.keepStamps n t1 t2)) ∧
         (s.work.align = alHoldover → exec (.announce port n p running t1 t2) s =
           .next (s.on fun _ => (w.keepStamps n t1 t2).setTime (fun x => { x with firstExchange := true })))))) ∧
  (∀ (s : State) (t3 : Nat),
    (s.work.isMaster = true ∨ s.time.heard = false ∨ s.work.align = alFree ∨ alMismatch ≤ s.work.align →
      exec (.delayReqSend t3) s = .next s) ∧
    (∀ n t1, s.work.isMaster = false → s.time.heard = true → s.work.align ≠ alFree → s.work.align < alMismatch →
      s.time.sync = some (n, t1) →
      exec (.delayReqSend t3) s = .next (s.on fun w =>
        (w.setTime (fun x => { x with t3 := some t3 })).sendTime w.timePort 2 (toBytes 8 t3 ++ toBytes 8 n)))) ∧
  (∀ (s : State) (port t3 n t4 : Nat), port < 24 →
    exec (.delayReq port t3 n t4) s = .next (s.on fun w =>
      w.sendTime port 3 (toBytes 8 t3 ++ toBytes 8 t4 ++ toBytes 8 n)))

/-- R50, R52: three silent periods switch a follower to its alternate port, and eight in LOCKED take it to HOLDOVER; a
master, and a follower that has heard in time, stay as they are.
R57, R59: at the end of its listening a master in FREE mode takes tick number 0, and one in PTP mode begins its wait;
when that runs out it takes tick number 0 on its own time base.
Commands stated to complete: parentSilentSwitch, holdoverEntry, masterListenEnd, ptpWaitExpire. -/
def Obligations.SilenceAndTickZero : Prop :=
  (∀ s : State,
     (s.work.isMaster = false → s.work.rdB F.timeSrcOnAlt 0 0 = false → s.work.dv F.timeSrcAltPort < 24 →
       (s.time.ticked = false ∨ 3 ≤ s.time.silent) →
       ∃ t, exec .parentSilentSwitch s = .next t ∧ t = { s with regs := (s.work.wr F.timeSrcOnAlt 0 0 1).regs } ∧
         t.work.timePort = t.work.dv F.timeSrcAltPort ∧ t.work.align = s.work.align) ∧
     (s.work.isMaster = true ∨ s.work.rdB F.timeSrcOnAlt 0 0 = true ∨ 24 ≤ s.work.dv F.timeSrcAltPort ∨
       (s.time.ticked = true ∧ s.time.silent < 3) → exec .parentSilentSwitch s = .next s) ∧
     (s.work.isMaster = false → s.work.align = alLocked → 8 ≤ s.time.silent →
       ∃ t, exec .holdoverEntry s = .next t ∧ t.work.align = alHoldover ∧ t.work.now = s.work.now ∧
         t.work.tickNo = s.work.tickNo ∧ t.work.period = s.work.period ∧ t.time = s.time ∧ t.mem = s.mem) ∧
     (s.work.isMaster = true ∨ s.work.align ≠ alLocked ∨ s.time.silent < 8 → exec .holdoverEntry s = .next s)) ∧
  ∀ s : State,
    (s.work.isMaster = true → s.time.listening = true → s.work.rdB F.timeSrcMode 0 0 = false →
      ∃ t, exec .masterListenEnd s = .next t ∧ t.work.tickNo = 0 ∧ t.time.ticked = true ∧ t.time.listening = false ∧
        t.work.align = alLocked ∧ t.work.now = (s.work.now + 2 * s.work.period) % 2 ^ 64 ∧
        t.time.lastTick = t.work.now) ∧
    (s.work.isMaster = true → s.time.listening = true → s.work.rdB F.timeSrcMode 0 0 = true →
      exec .masterListenEnd s = .next (s.on fun w =>
        ((w.setTime (fun x => { x with listening := false })).wr F.timeNowNowNs 0 0 (w.now + 2 * w.period)).setTime
          (fun x => { x with ptpWaiting := true }))) ∧
    (s.work.isMaster = false ∨ s.time.listening = false → exec .masterListenEnd s = .next s) ∧
    (s.work.isMaster = true → s.time.ptpWaiting = true →
      ∃ t, exec .ptpWaitExpire s = .next t ∧ t.work.tickNo = 0 ∧ t.time.ticked = true ∧ t.time.ptpWaiting = false ∧
        t.work.align = alLocked ∧
        t.work.now = (s.work.now + s.work.dv F.timeSrcPtpWaitS * 1000000000) % 2 ^ 64) ∧
    (s.work.isMaster = false ∨ s.time.ptpWaiting = false → exec .ptpWaitExpire s = .next s)

/-- R29: before the first tick a write sets P, and TIME_PHASE is computed again from it; from the first tick on the register
ignores every write, with no side effect, whoever writes. A value out of range is not stored (R673), and the boot lock
closes the register before the first tick too (R576).
Commands stated to complete: timeTickPeriodWrite. -/
def Obligations.TickPeriodIsFixedFromTheFirstTick : Prop :=
  ∀ (s : State) (by_ : Requester) (v : BitVec 64), by_.wf = true →
    (s.time.ticked = true ∨ s.time.sealed = true → exec (.timeTickPeriodWrite by_ v) s = .next s) ∧
    (s.time.ticked = false → s.time.sealed = false →
      (let p := fieldOf v.toNat 0 25
       (p < 8000 ∨ 16777216 < p → exec (.timeTickPeriodWrite by_ v) s = .next s) ∧
       (8000 ≤ p → p ≤ 16777216 →
        ∃ t, exec (.timeTickPeriodWrite by_ v) s = .next t ∧ (∃ r, t = { s with regs := r }) ∧ t.work.period = p ∧
          50 * t.work.dv F.timePhaseCommitEndNs < p + 50 ∧ p ≤ 50 * t.work.dv F.timePhaseCommitEndNs ∧
          100 * (p - t.work.dv F.timePhaseGuardStartNs) < 3 * p + 100 ∧
          3 * p ≤ 100 * (p - t.work.dv F.timePhaseGuardStartNs))))

/-- R64, R565, R567: the reset sources of a module that has its supplies, each with its code and scope; without its supplies
it does not react.
R565: POR resets in full with code 1, the module's power enabled and its trip ended; the fault latch shows in
PWR_STATUS.
R565, R628, R629: a brown-out holds the engine in reset with code 2 until it releases, when start begins; a VCORE
excursion is one only below 0.68 V for more than 5 us, and otherwise sets the SUPPLY warning.
Commands stated to complete: clockLoss, por, bor, pin, wdog, sw, dbg, lockup, vcoreExcursion, borRelease. -/
def Obligations.ResetSources : Prop :=
  (∀ s : State, (s.work.powered = false → ∀ c, c ∈ [Instr.wdog, .dbg, .pin 10000, .clockLoss .timeBase] → exec c s = .next s) ∧
    (s.work.powered = true →
     exec .wdog s = .next (s.on fun w => w.reset false 4) ∧ exec .dbg s = .next (s.on fun w => w.reset false 6) ∧
     (∀ lowNs, 10000 ≤ lowNs → exec (.pin lowNs) s = .next (s.on fun w => w.reset true 3)) ∧
     (∀ lowNs, lowNs < 2000 → exec (.pin lowNs) s = .next s) ∧
     (∀ lowNs, 2000 ≤ lowNs → lowNs < 10000 →
       exec (.pin lowNs) s = .next (s.on fun w => if (w.fresh 1).1 = 1 then (w.fresh 1).2.reset true 3 else (w.fresh 1).2)) ∧
     (∀ (by_ : Requester) (v : BitVec 64), by_.wf = true → fieldOf v.toNat 0 3 = 0 → bitOf v.toNat 16 = true →
       fieldOf v.toNat 8 8 = 0xA5 → exec (.sw by_ v) s = .next (s.on fun w => w.reset false 5)) ∧
     (∀ mc, mc < 4 → s.work.mcServes mc = true → s.work.rdB F.rstStateLocked 0 0 = false →
       exec (.lockup mc) s = .next (s.on fun w => w.reset false 8)) ∧
     (∀ mc, mc < 4 → s.work.mcServes mc = true → s.work.rdB F.rstStateLocked 0 0 = true →
       exec (.lockup mc) s = .next (s.on fun w => w.fenceMc mc 4)) ∧
     (∀ c : Clk, c.wf = true → (∀ p, c ≠ .kupelPort p ∧ c ≠ .fieldPort p) →
       exec (.clockLoss c) s = .next (s.on fun w => w.reset true 7)) ∧
     (∀ p, p < 24 → s.work.klState p ≠ klDown → exec (.clockLoss (.kupelPort p)) s = .next (s.on fun w => w.portDown p)) ∧
     (∀ p, p < 8 → exec (.clockLoss (.fieldPort p)) s = .next (s.on fun w => w.fieldLink p false .absent)))) ∧
  (∀ s : State, exec .por s = .next (s.on fun w =>
     let w : Work := { w with modl := { w.modl with pwrEn := true, hotSwap := true, borHeld := false, borSeen := false,
                                                    tripped := false, rails := setInsert (setInsert w.modl.rails 9) 10 } }
     (((w.wr F.pwrStatusLastTrip 0 0 w.modl.latch.1).wr F.pwrStatusTripRail 0 0 w.modl.latch.2).wr
       F.pwrStatusTripValid 0 0 (if w.modl.latch.1 = 0 then 0 else 1)).reset true 1)) ∧
  ∀ s : State,
    (s.work.powered = true → s.modl.borSeen = false →
      exec .bor s = .next (s.on fun w => (w.holdReset true 2).setMod (fun m =>
        { m with borHeld := true, borSeen := true, rails := m.rails.filter (fun r => decide (9 ≤ r)) }))) ∧
    (s.work.powered = false → exec .bor s = .next s) ∧
    (s.modl.borHeld = true → exec .borRelease s = .next (s.on fun w =>
      (w.setMod (fun m => { m with borHeld := false })).start true)) ∧
    (s.modl.borHeld = false → exec .borRelease s = .next s) ∧
    (∀ d mv ns, d < 4 → s.work.powered = true → s.modl.rails.contains (1 + d) = true → mv < 700 →
      (mv < 680 → 5000 < ns → exec (.vcoreExcursion d mv ns) s = .next (s.on Work.brownOut)) ∧
      (680 ≤ mv ∨ ns ≤ 5000 →
        exec (.vcoreExcursion d mv ns) s = .next (s.on fun w => w.setLevels [(F.pwrStatusSupply, 45, true)]))) ∧
    (∀ d mv ns, d < 4 → 700 ≤ mv → exec (.vcoreExcursion d mv ns) s = .next s)

/-- R566, R569, R126: what a reset holds before start begins. Every register takes its reset value but the fault latch and
the owner pin, and after a partial reset the TIME registers and the identity; the tick schedule runs on through a partial
reset and begins anew after a full one; the cellar reads as zero; nothing is left in any unit; the flash
is kept where no operation of it runs; CAUSE shows the code. -/
def Obligations.ResetHoldsTheBlock : Prop :=
  ∀ (s : State) (full : Bool) (cause : Nat), s.sec.flashOp = none → cause < 16 →
    (let t := s.on fun w => w.holdReset full cause
     (∀ f d i, keptKey full (f.key d i) = false → f.key d i ≠ F.rstCauseCause.key 0 0 →
       f.key d i ≠ F.rstCauseInStart.key 0 0 → t.work.rd f d i = f.rst % 2 ^ f.w) ∧
     t.work.dv F.rstCauseCause = cause ∧
     (t.work.dv F.rstCauseInStart = if s.work.devState = stStarting then 1 else 0) ∧
     t.time = (if full then State.reset.time else { s.time with commitBusy := [], commitOpen := false }) ∧
     (full = false → t.work.now = s.work.now ∧ t.work.tickNo = s.work.tickNo ∧ t.work.period = s.work.period) ∧
     (full = true → t.work.now = 0 ∧ t.work.tickNo = 0) ∧
     (∀ a, cellarBase ≤ a → a < cellarBase + 0x200000000 → Memory.wf s.mem = true → Memory.get t.mem a = 0) ∧
     (∀ a, a < cellarBase → Memory.wf s.mem = true → Memory.get t.mem a = Memory.get s.mem a) ∧
     t.cores = [] ∧ t.ctxs = [] ∧ t.mes = [] ∧ t.plans = [] ∧ t.disps = [] ∧ t.sessions = [] ∧
     (s.sec.enrol = none → t.flash = s.flash) ∧ t.pending = s.pending)

/-- R570, R583: requests of a device state. One that the present state admits is taken for the next tick; any other
completes with STATE_REJECT in LAST_STATUS and changes nothing else.
R603: in REST an occurrence of a source that the wake mask names wakes the device at the next tick; any other source
does not, and a detached module stays in REST (R583).
Commands stated to complete: rest, wake, shared, run. -/
def Obligations.DeviceStateRequests : Prop :=
  (∀ s : State,
     ((s.work.devState = stShared ∨ s.work.devState = stRunning ∨ s.work.devState = stDegraded) →
       ∃ t, exec .rest s = .next t ∧ t.boot.req = 3 ∧ t.work.dv F.rstCtlLastStatus = sOk ∧ t.work.devState = s.work.devState ∧
         t = { s with regs := t.regs, boot := { s.boot with req := 3 } }) ∧
     (s.work.devState = stRunning →
       ∃ t, exec .shared s = .next t ∧ t.boot.req = 1 ∧ t.work.dv F.rstCtlLastStatus = sOk ∧ t.work.devState = stRunning ∧
         t = { s with regs := t.regs, boot := { s.boot with req := 1 } }) ∧
     (s.work.devState = stShared →
       ∃ t, exec .run s = .next t ∧ t.boot.req = 2 ∧ t.work.dv F.rstCtlLastStatus = sOk ∧ t.work.devState = stShared ∧
         t = { s with regs := t.regs, boot := { s.boot with req := 2 } }) ∧
     (s.work.devState = stRest → s.boot.detached = false →
       ∃ t, exec (.wake none) s = .next t ∧ t.boot.req = 4 ∧ t.work.dv F.rstCtlLastStatus = sOk ∧ t.work.devState = stRest ∧
         t = { s with regs := t.regs, boot := { s.boot with req := 4 } }) ∧
     (∀ c n, (c, n) ∈ [(Instr.rest, 1), (.wake none, 2), (.shared, 3), (.run, 4)] → s.work.reqAdmitted n = false →
       exec c s = .next { s with regs := (s.work.wr F.rstCtlLastStatus 0 0 sState).regs })) ∧
  ∀ (s : State) (n : Nat),
    (s.work.devState = stRest → s.boot.detached = false →
      (∃ k, k < 32 ∧ s.work.dv (F.evtWakeMaskEn k) = 1 ∧ s.work.dv (F.evtWakeMaskSource k) = n) →
      exec (.wake (some n)) s = .next { s with evt := { s.evt with wake := some n } }) ∧
    (s.work.devState ≠ stRest ∨ s.boot.detached = true ∨
      (∀ k, k < 32 → s.work.dv (F.evtWakeMaskEn k) ≠ 1 ∨ s.work.dv (F.evtWakeMaskSource k) ≠ n) →
      exec (.wake (some n)) s = .next s)

/-- R581, R582: a unit reset. An idle unit is cleared, keeps its place, and its slot is emptied until the reset ends; a
unit that is not idle, or that does not exist, is refused and only the status shows it (R673: whatever the request bit is);
a write for a unit that exists without the request bit does nothing. At its end the unit serves again and is counted.
R582: what the reset of an idle unit clears and keeps.
R565: a KICK in a write that RST_WDOG takes restarts the watchdog's period at the present time; a write without it, or
one with a value out of range, does not.
Commands stated to complete: unitReset, unitResetDone, kick. -/
def Obligations.UnitResets : Prop :=
  ((∀ (s : State) (by_ : Requester) (v : BitVec 64), by_.wf = true →
     let kind := fieldOf v.toNat 0 4
     let d := fieldOf v.toNat 4 2
     let n := fieldOf v.toNat 6 7
     let u := if kind = 0 then n else 96 + n
     (bitOf v.toNat 16 = false → kind ≤ 1 → n < (if kind = 0 then 96 else 24) → exec (.unitReset by_ v) s = .next s) ∧
     (1 < kind ∨ (if kind = 0 then 96 else 24) ≤ n →
       exec (.unitReset by_ v) s = .next { s with regs := (s.work.wr F.rstUnitStatLastStatus 0 0 sRange).regs }) ∧
     (bitOf v.toNat 16 = true → kind ≤ 1 → n < (if kind = 0 then 96 else 24) → s.work.unitIdle d u = false →
       exec (.unitReset by_ v) s = .next { s with
         regs := ((s.work.wr F.rstUnitStatLastStatus 0 0 sState).bump F.rstUnitStatRejects 0 0).regs }) ∧
     (bitOf v.toNat 16 = true → kind ≤ 1 → n < (if kind = 0 then 96 else 24) → s.work.unitIdle d u = true →
       exec (.unitReset by_ v) s = .next (s.on fun w =>
         let x := (w.unslot d u).unitClear d u
         { x.wr F.rstUnitStatLastStatus 0 0 sOk with
           boot := { x.boot with units := setInsert x.boot.units (d * 120 + u) } }))) ∧
   (∀ (s : State) (d u : Nat), d < 4 → u < 120 →
     (s.boot.units.contains (d * 120 + u) = true →
       exec (.unitResetDone d u) s = .next (s.on fun w =>
         ({ w with boot := { w.boot with units := w.boot.units.filter (fun x => x ≠ d * 120 + u) } }.bump
           F.rstUnitStatDone 0 0).refresh d)) ∧
     (s.boot.units.contains (d * 120 + u) = false → exec (.unitResetDone d u) s = .next s))) ∧
  ((∀ (w : Work) (d g : Nat), d < 4 → g < 96 →
     (w.unitClear d g).core d g = { Core.atReset with halted := (w.core d g).halted } ∧
     ∀ e h, h < 96 → (e, h) ≠ (d, g) → (w.unitClear d g).core e h = w.core e h) ∧
   (∀ (w : Work) (d m : Nat), d < 4 → m < 24 →
     ((w.unitClear d (96 + m)).me d m).acc = [] ∧ ((w.unitClear d (96 + m)).me d m).tile = none ∧
     ((w.unitClear d (96 + m)).me d m).book = (w.me d m).book ∧
     ((w.unitClear d (96 + m)).me d m).seed = (w.me d m).seed ∧
     (w.unitClear d (96 + m)).rd F.meStatusAcc0 d m = 0 ∧ (w.unitClear d (96 + m)).rd F.meStatusAcc1 d m = 0 ∧
     (w.unitClear d (96 + m)).cores = w.cores ∧ (w.unitClear d (96 + m)).jnl = w.jnl)) ∧
  ∀ (s : State) (by_ : Requester) (v : BitVec 64), by_.wf = true →
    (let x := s.work.writeFields ⟨.rstWdog, 0, 0⟩ 0 v.toNat
     (x.1 = sOk → bitOf v.toNat 16 = true →
       ∃ t, exec (.kick by_ v) s = .next t ∧ t.boot.kicked = x.2.now ∧
         t = s.on fun _ => { x.2 with boot := { x.2.boot with kicked := x.2.now } }) ∧
     (x.1 ≠ sOk ∨ bitOf v.toNat 16 = false → exec (.kick by_ v) s = .next (s.on fun _ => x.2)))

/-- R243, R244: a request with a reserved bit set or without a defined OP completes with DESC_RANGE and does nothing else;
a core with 64 requests outstanding waits, and nothing is issued (R240).
R99, R101, R103: DESC_INSTALL makes an EMPTY slot VALID with the descriptor that passes its checks; DESC_RELEASE makes a
VALID slot RELEASING; otherwise each completes with STATE_REJECT, or DESC_RANGE for a handle that names no slot, and
changes no slot.
R102: at the tick a RELEASING slot becomes EMPTY, and every other slot stays as it is. (The slot map is canonical: its
keys rise.)
R244, R245, R246, R248, R253, R255, R272: STREAM_START gives a description that passes its checks the lowest FREE context
of the die, running with the slots as they are, and answers its number, and without a FREE context completes with
STATE_REJECT; STREAM_STOP ends a stream that is not FREE; RESUME lets a HALTED stream of
management firmware run on, and is refused to any other issuer.
Commands stated to complete: xfer, descInstall, descRelease, streamStart, streamStop, resume. -/
def Obligations.DescriptorsAndStreamRequests : Prop :=
  (∀ (s : State) (iss : Issuer) (r : Rec) (c : Instr), iss.wf = true →
     (recF r 7 0, c) ∈ [(0x61, Instr.xfer iss r), (0x62, .descInstall iss r), (0x63, .descRelease iss r),
       (0x64, .streamStart iss r), (0x65, .streamStop iss r), (0x66, .barArrive iss r), (0x67, .barArm iss r),
       (0x68, .chain iss r), (0x69, .resume iss r)] →
     (s.work.tapRoom iss = false → exec c s = .next s) ∧
     (∀ z, s.work.tapRoom iss = true → strmReserved (recF r 7 0) = some z → recZero r z = false →
       exec c s = .next (s.on fun w => (w.tapIssue iss).finish
         { die := issDie iss, iss := iss, plan := (w.tapIssue iss).planOf iss, tag := recF r 31 16,
           comp := resolveComp iss (recF r 83 32), status := sRange, done := 0, result := 0, poison := 0 }))) ∧
  (∀ (s : State) (iss : Issuer) (r x : Rec) (w : Work) (q : StrmReq) (p h : Nat), q = StrmReq.ofRec r → p = w.planOf iss →
     h = recF r 111 96 →
     (StreamRequest 0x62 iss r s w → w.handleOk p h = true → (w.slot p h).st = .empty → recF r 179 128 % 64 = 0 →
       w.readRec (resolveAddr iss (recF r 179 128)) = some x → w.validate p x = [] →
       exec (.descInstall iss r) s = .next (s.on fun _ => (w.setSlot p h ⟨.valid, x⟩).strmOk iss q none)) ∧
     (StreamRequest 0x62 iss r s w → w.handleOk p h = true → (w.slot p h).st ≠ .empty → recF r 179 128 % 64 = 0 →
       w.readRec (resolveAddr iss (recF r 179 128)) = some x → w.validate p x = [] →
       exec (.descInstall iss r) s = .next (s.on fun _ => w.strmFail iss q [sState])) ∧
     (StreamRequest 0x63 iss r s w → w.handleOk p h = true → (w.slot p h).st = .valid →
       exec (.descRelease iss r) s = .next (s.on fun _ =>
         (w.setSlot p h ⟨.releasing, (w.slot p h).desc⟩).strmOk iss q none)) ∧
     (StreamRequest 0x63 iss r s w → w.handleOk p h = true → (w.slot p h).st ≠ .valid →
       exec (.descRelease iss r) s = .next (s.on fun _ => w.strmFail iss q [sState])) ∧
     (StreamRequest 0x63 iss r s w → w.handleOk p h = false →
       exec (.descRelease iss r) s = .next (s.on fun _ => w.strmFail iss q [sRange]))) ∧
  (∀ (w : Work) (p h : Nat),
     ((w.slot p h).st ≠ .releasing → w.releaseSlots.slot p h = w.slot p h) ∧ (w.releaseSlots.slot p h).st ≠ .releasing ∧
     (smWf Slot.atReset w.slots = true → (w.slot p h).st = .releasing → w.releaseSlots.slot p h = Slot.atReset)) ∧
  ∀ (s : State) (iss : Issuer) (r : Rec) (w : Work) (q : StrmReq) (c : Nat) (desc : List Byte), q = StrmReq.ofRec r →
    (StreamRequest 0x64 iss r s w → recF r 147 96 % 64 = 0 → w.read (resolveAddr iss (recF r 147 96)) 576 = some desc →
      w.descriptionFails (w.planOf iss) desc = [] → w.freeCtx (issDie iss) = some c →
      exec (.streamStart iss r) s = .next (s.on fun _ =>
        (w.setCtx (issDie iss) c { Ctx.atReset with
          st := .running, desc := desc, plan := w.planOf iss, started := w.now, a := [0, 0, 0, 0, 0, 0, 0, 0],
          held := w.hold (w.planOf iss) ((List.range 4).map (fun k => (bindingOf desc k).handle)),
          task := none, chain := none }).strmOk iss q (some c))) ∧
    (StreamRequest 0x64 iss r s w → w.freeCtx (issDie iss) = none →
      exec (.streamStart iss r) s = .next (s.on fun _ => w.strmFail iss q [sState])) ∧
    (StreamRequest 0x64 iss r s w → w.freeCtx (issDie iss) = some c → recF r 147 96 % 64 ≠ 0 →
      exec (.streamStart iss r) s = .next (s.on fun _ => w.strmFail iss q [sRange])) ∧
    (StreamRequest 0x65 iss r s w → (w.ctx (issDie iss) (recF r 103 96)).st ≠ .free →
      exec (.streamStop iss r) s = .next (s.on fun _ =>
        (w.streamStop (issDie iss) (recF r 103 96) false).strmOk iss q none)) ∧
    (StreamRequest 0x65 iss r s w → (w.ctx (issDie iss) (recF r 103 96)).st = .free →
      exec (.streamStop iss r) s = .next (s.on fun _ => w.strmFail iss q [sState])) ∧
    (∀ mc d, iss = .firmware mc d → StreamRequest 0x69 iss r s w → (w.ctx d (recF r 103 96)).st = .halted →
      exec (.resume iss r) s = .next (s.on fun _ =>
        (w.setCtx d (recF r 103 96) { w.ctx d (recF r 103 96) with st := .running }).strmOk iss q none)) ∧
    ((∀ mc d, iss ≠ .firmware mc d) → StreamRequest 0x69 iss r s w →
      exec (.resume iss r) s = .next (s.on fun _ => w.strmFail iss q [sState]))

/-- R241, R264, R265: a transfer whose checks pass. Of management firmware or a stream it moves its bytes and completes, and
firmware's may write the page table (R269); of a core it stays outstanding, some of its bytes moved, and its completion
moves the rest and writes its record. While it reaches a page that is being moved a core's moves nothing and does not
complete (R269). One that fails its checks moves nothing.
R260, R261, R262: BAR_ARM sets the count of a barrier without arrivals. An arrival counts each identity once in a
generation; the one that reaches the count releases the barrier, which increases its generation, sets the arrivals to zero
and completes every waiter.
Commands stated to complete: tapRequestComplete, xfer, barArrive, barArm. -/
def Obligations.TransfersAndBarriers : Prop :=
  ((∀ (s : State) (iss : Issuer) (r : Rec) (w : Work) (q : StrmReq) (src dst len dn rs : Nat) (w1 w2 : Work) (fl : Flight),
     StreamRequest 0x61 iss r s w → q = StrmReq.ofRec r → src = resolveAddr iss (recF r 147 96) →
     dst = resolveAddr iss (recF r 211 160) → len = recF r 232 224 + 1 → len ≤ 256 → w.xferFails src dst len = [] →
     (dn, w1) = w.fresh 32 → (rs, w2) = w1.fresh 32 →
     fl = { w2.strmFlight iss q with status := if w.badRows src len = 0 then sOk else sCheck, done := dn, result := rs,
                                     poison := w.badRows src len } →
     (∀ n d, iss = .stream d n →
       exec (.xfer iss r) s = .next (s.on fun _ => (w2.xferMove false src dst len (fun _ => true)).finish fl)) ∧
     (∀ mc d, iss = .firmware mc d →
       exec (.xfer iss r) s = .next (s.on fun _ => (w2.xferMove true src dst len (fun _ => true)).finish fl)) ∧
     (∀ d g m mask w3, iss = .core d g → (m, w3) = w2.fresh 256 →
       mask = (if w3.rackingIn src len || w3.rackingIn dst len then 0 else m) →
       exec (.xfer iss r) s = .next (s.on fun _ =>
         let y := w3.xferMove false src dst len (bitOf mask)
         y.setCore d g { y.core d g with taps := (y.core d g).taps ++ [⟨fl, src, dst, len, mask⟩] }))) ∧
   (∀ (s : State) (iss : Issuer) (r : Rec) (w : Work) (q : StrmReq), StreamRequest 0x61 iss r s w → q = StrmReq.ofRec r →
     w.xferFails (resolveAddr iss (recF r 147 96)) (resolveAddr iss (recF r 211 160)) (recF r 232 224 + 1) = [sRange] →
     recF r 232 224 + 1 ≤ 256 → exec (.xfer iss r) s = .next (s.on fun _ => w.strmFail iss q [sRange])) ∧
   (∀ (s : State) (d g k : Nat) (t : Tap), d < 4 → g < 96 → (s.work.core d g).taps[k]? = some t →
     (s.work.rackingIn t.src t.len = false → s.work.rackingIn t.dst t.len = false →
       exec (.tapRequestComplete d g k) s = .next (s.on fun w =>
         ((w.setCore d g { w.core d g with taps := (w.core d g).taps.eraseIdx k }).xferMove false t.src t.dst t.len
           (fun i => !bitOf t.moved i)).finish t.fl)) ∧
     (s.work.rackingIn t.src t.len = true ∨ s.work.rackingIn t.dst t.len = true →
       exec (.tapRequestComplete d g k) s = .next s)) ∧
   (∀ (s : State) (d g k : Nat), d < 4 → g < 96 → (s.work.core d g).taps[k]? = none →
     exec (.tapRequestComplete d g k) s = .next s)) ∧
  ∀ (s : State) (iss : Issuer) (r : Rec) (w : Work) (q : StrmReq) (b : Nat), q = StrmReq.ofRec r → b = recF r 105 96 →
    (StreamRequest 0x67 iss r s w → (w.bar b).arrived = [] → 1 ≤ recF r 139 128 →
      exec (.barArm iss r) s = .next (s.on fun _ => (w.wr F.strmBarCount 0 b (recF r 139 128)).strmOk iss q none)) ∧
    (StreamRequest 0x67 iss r s w → (w.bar b).arrived ≠ [] → 1 ≤ recF r 139 128 →
      exec (.barArm iss r) s = .next (s.on fun _ => w.strmFail iss q [sState])) ∧
    (StreamRequest 0x66 iss r s w → w.barCount b = 0 →
      exec (.barArrive iss r) s = .next (s.on fun _ => w.strmFail iss q [sState])) ∧
    (∀ dn rs w1 w2, StreamRequest 0x66 iss r s w → w.barCount b ≠ 0 → (dn, w1) = w.fresh 32 → (rs, w2) = w1.fresh 32 →
      let fl : Flight := { w2.strmFlight iss q with done := dn, result := rs }
      let x := w2.bar b
      (x.arrived.contains (identOf iss) = true →
        exec (.barArrive iss r) s = .next (s.on fun _ =>
          (w2.bumpSat F.strmBarDup 0 b).setBar b { x with waiting := x.waiting ++ [fl] })) ∧
      (x.arrived.contains (identOf iss) = false → x.arrived.length + 1 < w2.barCount b →
        exec (.barArrive iss r) s = .next (s.on fun _ =>
          (w2.setBar b { arrived := identOf iss :: x.arrived, waiting := x.waiting ++ [fl] }).wr F.strmBarArrived 0 b
            (x.arrived.length + 1))) ∧
      (x.arrived.contains (identOf iss) = false → w2.barCount b ≤ x.arrived.length + 1 →
        exec (.barArrive iss r) s = .next (s.on fun _ =>
          ((x.waiting ++ [fl]).foldl Work.finish
            (((w2.setBar b Barrier.atReset).bump F.strmBarGen 0 b).wr F.strmBarArrived 0 b 0)).refreshAll)))

/-- R266 to R268: a chain request of a core whose record passes its checks begins with the LOAD of chunk 0. When a stage
returns, the next stage of the chunk is called, the chunk is handed over after its last stage, and a failure other than
CHECK_FAIL ends the chain.
Commands stated to complete: chain, chainStageReturn. -/
def Obligations.ChainProgress : Prop :=
  (∀ (s : State) (d g : Nat) (r : Rec) (w : Work) (rec_ : List Byte), StreamRequest 0x68 (.core d g) r s w →
    recF r 147 96 % 64 = 0 → w.read (resolveAddr (.core d g) (recF r 147 96)) 256 = some rec_ →
    w.chainFails (w.planOf (.core d g)) d g rec_ = [] → w.chainAt d g = none →
    exec (.chain (.core d g) r) s = .next (s.on fun _ =>
      w.chainBegin d g (w.planOf (.core d g)) rec_ (some (w.strmFlight (.core d g) (StrmReq.ofRec r))))) ∧
  (∀ (s : State) (d g : Nat) (r : Rec) (w : Work) (rec_ : List Byte), StreamRequest 0x68 (.core d g) r s w →
    recF r 147 96 % 64 = 0 → w.read (resolveAddr (.core d g) (recF r 147 96)) 256 = some rec_ →
    w.chainFails (w.planOf (.core d g)) d g rec_ = [] → w.chainAt d g ≠ none →
    exec (.chain (.core d g) r) s = .next (s.on fun _ => w.strmFail (.core d g) (StrmReq.ofRec r) [sState])) ∧
  (∀ (s : State) (d g : Nat) (st : Status) (x : Chain) (w : Work), d < 4 → g < 96 → s.work.chainAt d g = some x →
    x.called = true → (s.work.core d g).ended.getD sOk = statusCode st →
    w = s.work.setCore d g { s.work.core d g with user := false, ended := none, wait := .none } →
    (∀ fs, (statusCode st = sOk ∧ fs = x.fails) ∨ (statusCode st = sCheck ∧ fs = x.fails ++ [sCheck]) →
      (x.stage + 2 < chainField x.rec_ 0 4 → exec (.chainStageReturn d g st) s = .next (s.on fun _ =>
        (w.setChain d g (some { x with called := false, fails := fs, stage := x.stage + 1 })).chainCall d g)) ∧
      (chainField x.rec_ 0 4 ≤ x.stage + 2 → exec (.chainStageReturn d g st) s = .next (s.on fun _ =>
        w.chainHandOver d g { x with called := false, fails := fs }))) ∧
    (statusCode st ≠ sOk → statusCode st ≠ sCheck →
      exec (.chainStageReturn d g st) s = .next (s.on fun _ =>
        w.chainEnd d g { x with called := false, fails := x.fails ++ [statusCode st] }))) ∧
  (∀ (s : State) (d g : Nat) (st : Status), d < 4 → g < 96 → s.work.chainAt d g = none →
    exec (.chainStageReturn d g st) s = .next s)

/-- R249: the arithmetic and control instructions of a trellis program. Each acts on its own context alone: its registers,
counters, limits and program counter change as the table gives, and nothing else of the block changes.
R248: address arithmetic is two's complement modulo 2^48. What a register reads after an instruction has stored an exact
sum, difference or product is that of 48-bit words.
Commands stated to complete: nop, loop, endl, seti, addi, add, sub, madl, wrap. -/
def Obligations.TrellisInstructions : Prop :=
  (∀ (s : State) (d c : Nat) (x : Ctx) (t : TOp),
     let to_ (y : Ctx) : State := { s with ctxs := (s.work.setCtx d c y).ctxs }
     let put (v : Int) : Ctx := { x with pc := x.pc + 1, a := x.a.set t.rd (wrapTo 48 v) }
     let l := (getAt 0 x.l t.k + 1) % 2 ^ 32
     let count : Int := if t.reg then x.areg t.rs1 else t.imm
     (RunsOp 0x01 d c s x t → exec (.nop d c) s = .next (to_ { x with pc := x.pc + 1 })) ∧
     (RunsOp 0x02 d c s x t →
       (0 < count → count < 2 ^ 32 → exec (.loop d c) s = .next (to_ { x with
         pc := x.pc + 1, l := x.l.set t.k 0, n := x.n.set t.k count.toNat })) ∧
       (count ≤ 0 → exec (.loop d c) s = .next (to_ { x with
         pc := afterEndl ((program x.desc).drop (x.pc + 1)) 0 (x.pc + 1), l := x.l.set t.k 0, n := x.n.set t.k 0 })) ∧
       (2 ^ 32 ≤ count → exec (.loop d c) s = .next (to_ { x with st := .faulted, status := lowest [x.status, sRange] }))) ∧
     (RunsOp 0x03 d c s x t →
       (l < getAt 0 x.n t.k → exec (.endl d c) s = .next (to_ { x with
         pc := loopOf ((program x.desc).take x.pc) t.k + 1, l := x.l.set t.k l })) ∧
       (getAt 0 x.n t.k ≤ l → exec (.endl d c) s = .next (to_ { x with pc := x.pc + 1, l := x.l.set t.k l }))) ∧
     (RunsOp 0x04 d c s x t → exec (.seti d c) s = .next (to_ (put (fieldOf t.word 16 48)))) ∧
     (RunsOp 0x05 d c s x t → exec (.addi d c) s = .next (to_ (put (x.areg t.rs1 + sext 32 t.imm)))) ∧
     (RunsOp 0x06 d c s x t → exec (.add d c) s = .next (to_ (put (x.areg t.rs1 + x.areg t.rs2)))) ∧
     (RunsOp 0x07 d c s x t → exec (.sub d c) s = .next (to_ (put (x.areg t.rs1 - x.areg t.rs2)))) ∧
     (RunsOp 0x08 d c s x t → exec (.madl d c) s = .next (to_ (put (x.areg t.rs1 + getAt 0 x.l t.k * sext 32 t.imm)))) ∧
     (RunsOp 0x09 d c s x t →
       ((t.imm : Int) ≤ x.areg t.rd → exec (.wrap d c) s = .next (to_ (put (x.areg t.rd - t.imm)))) ∧
       (x.areg t.rd < 0 → exec (.wrap d c) s = .next (to_ (put (x.areg t.rd + t.imm)))) ∧
       (0 ≤ x.areg t.rd → x.areg t.rd < t.imm → exec (.wrap d c) s = .next (to_ { x with pc := x.pc + 1 })))) ∧
  ∀ (x : Ctx) (rd : Nat), rd < x.a.length →
    (∀ v : Int, BitVec.ofNat 48 (getAt 0 (x.setA rd v).a rd) = BitVec.ofInt 48 v ∧
      (x.setA rd v).areg rd = (BitVec.ofInt 48 v).toInt ∧
      ∀ k, k ≠ rd → (x.setA rd v).areg k = x.areg k) ∧
    (∀ j k, BitVec.ofInt 48 (x.areg j + x.areg k) = BitVec.ofNat 48 (getAt 0 x.a j) + BitVec.ofNat 48 (getAt 0 x.a k) ∧
      BitVec.ofInt 48 (x.areg j - x.areg k) = BitVec.ofNat 48 (getAt 0 x.a j) - BitVec.ofNat 48 (getAt 0 x.a k)) ∧
    (∀ j l i, BitVec.ofInt 48 (x.areg j + (l : Nat) * sext 32 i) =
      BitVec.ofNat 48 (getAt 0 x.a j) + BitVec.ofNat 48 l * (BitVec.ofNat 32 i).signExtend 48)

/-- R250, R251, R252, R270: EMIT. Without its condition it only goes on; with it a transfer whose pages are resident is
issued, one that reaches a page being moved waits, one that reaches an unmapped page faults the stream, and a FAST stream
halts at a page of the LPDDR5X tier; a cellar or match command goes to its unit with START and COUNT replaced.
R254, R251, R256, R257: END drains the stream, which finishes at once when no emit is left. An emit that takes effect
leaves the list and is counted, one that reaches a page being moved waits (R269), and a chain whose stage waited for its
bytes looks again (R259); a grant gives the stream of the earliest deadline up to 512 B, and counts a grant that
comes late.
Commands stated to complete: trellisEmitTransfer, trellisEmitCellar, trellisEmitMatch, trellisEnd, streamEmitDone, bandwidthGrant. -/
def Obligations.EmitsAndStreamProgress : Prop :=
  (∀ (s : State) (d c : Nat) (x : Ctx) (t : TOp), RunsOp 0x0A d c s x t →
     (∀ i q, (i, q) ∈ [(Instr.trellisEmitTransfer d c, 0), (.trellisEmitCellar d c, 1), (.trellisEmitMatch d c, 2)] → t.q = q →
       x.holds t = false → exec i s = .next { s with ctxs := (s.work.setCtx d c { x with pc := x.pc + 1 }).ctxs }) ∧
     (∀ ds ps ws dt pt wt, t.q = 0 → x.holds t = true → x.emits.length < 16 → (StrmHdr.ofBytes x.desc).fast = false →
       s.work.transferBlocks x t.src t.dst x.a = some ((ds, ps, ws), (dt, pt, wt)) →
       (s.work.findPages false ((ps ++ pt).map (· / 8)) = .resident →
         exec (.trellisEmitTransfer d c) s = .next (s.on fun w =>
           (w.setCtx d c { x with pc := x.pc + 1, emits := x.emits ++ [.transfer t.src t.dst x.a
             (ceilDiv (ps.length * ds.w) 8) 0] }).countWrap (.strm d) ((if ds.wrap then 0 else ws) + if dt.wrap then 0 else wt))) ∧
       (s.work.findPages false ((ps ++ pt).map (· / 8)) = .waits → exec (.trellisEmitTransfer d c) s = .next s) ∧
       (∀ a, s.work.findPages false ((ps ++ pt).map (· / 8)) = .unmapped a →
         exec (.trellisEmitTransfer d c) s = .next (s.on fun w =>
           ((w.setCtx d c { x with st := .faulted, status := lowest [x.status, sUnmapped], faultAddr := a }).faultPlan x.plan
             sUnmapped).event (dieSource 3 d) sUnmapped (c + detailAddr a)))) ∧
     (∀ ds ps ws dt pt wt a, t.q = 0 → x.holds t = true → x.emits.length < 16 → (StrmHdr.ofBytes x.desc).fast = true →
       s.work.transferBlocks x t.src t.dst x.a = some ((ds, ps, ws), (dt, pt, wt)) →
       s.work.findPages true ((ps ++ pt).map (· / 8)) = .tier1 a →
       exec (.trellisEmitTransfer d c) s = .next (s.on fun w =>
         ((w.setCtx d c { x with st := .halted, halts := x.halts + 1, faultAddr := a }).bump F.strmStatRacks d 0).event
           (dieSource 2 d) sPageFault (c + detailAddr a))) ∧
     (t.q = 1 → x.holds t = true → x.emits.length < 16 → s.work.celHeld d < 4096 →
       exec (.trellisEmitCellar d c) s = .next (s.on fun w =>
         (w.setCtx d c { x with pc := x.pc + 1, emits := x.emits ++ [.command false 0] }).celAccept (.stream d c)
           (templateRec x.desc t.src (getAt 0 x.a t.rs1) t.imm))) ∧
     (t.q = 2 → x.holds t = true → x.emits.length < 16 → s.work.matHeld d < 4096 →
       exec (.trellisEmitMatch d c) s = .next (s.on fun w =>
         (w.setCtx d c { x with pc := x.pc + 1, emits := x.emits ++ [.command false 0] }).matAccept (.stream d c)
           (templateRec x.desc t.src (getAt 0 x.a t.rs1) t.imm)))) ∧
  (∀ (s : State) (d c : Nat) (x : Ctx) (t : TOp), RunsOp 0x0B d c s x t →
    (x.emits ≠ [] → exec (.trellisEnd d c) s = .next { s with ctxs := (s.work.setCtx d c { x with st := .drain }).ctxs }) ∧
    exec (.trellisEnd d c) s = .next (s.on fun w => (w.setCtx d c { x with st := .drain }).streamFinish d c)) ∧
  (∀ (s : State) (d c i : Nat) (x : Ctx), d < 4 → c < 256 → x = s.work.ctx d c → readyEmit x.emits 0 false = some i →
    s.work.emitWaits x i = false →
    (∀ b st, x.emits[i]? = some (.command b st) →
      exec (.streamEmitDone d c) s = .next (s.on fun w =>
        let y := w.setCtx d c { x with emits := x.emits.eraseIdx i, done := x.done + 1 }
        (y.setCtx d c { y.ctx d c with status := lowest [(y.ctx d c).status, st] }).streamFinish d c)) ∧
    (∀ a b l m n, x.emits[i]? = some (.transfer a b l m n) →
      exec (.streamEmitDone d c) s = .next (s.on fun w =>
        let y := w.setCtx d c { x with emits := x.emits.eraseIdx i, done := x.done + 1 }
        ((y.emitCores x (.transfer a b l m n)).foldl (fun (v : Work) (p : Nat × Nat) => v.chainCall p.1 p.2)
          (y.moveBlock d c x a b l)).streamFinish d c))) ∧
  (∀ (s : State) (d c i : Nat) (x : Ctx), d < 4 → c < 256 → x = s.work.ctx d c → readyEmit x.emits 0 false = some i →
    s.work.emitWaits x i = true → exec (.streamEmitDone d c) s = .next s) ∧
  (∀ (s : State) (d c : Nat), d < 4 → c < 256 → readyEmit (s.work.ctx d c).emits 0 false = none →
    exec (.streamEmitDone d c) s = .next s) ∧
  (∀ (s : State) (d ns : Nat) (w : Work), d < 4 → w = s.work.atNs ns →
    (w.grantTo d = none → exec (.bandwidthGrant d ns) s = .next (s.on fun _ => w)) ∧
    (∀ c i a b l m n left x rate, w.grantTo d = some c → x = w.ctx d c → rate = (StrmHdr.ofBytes x.desc).rate →
      openEmit x.emits 0 = some (i, .transfer a b l m n, left) → rate ≠ 0 →
      exec (.bandwidthGrant d ns) s = .next (s.on fun _ =>
        let y := w.setCtx d c { x with delivered := x.delivered + min 512 left,
                                       emits := x.emits.set i (.transfer a b l m (n + min 512 left)) }
        if x.deadline rate < w.now * rate then y.bump F.strmStatLate d 0 else y)))

/-- R271: racking. A TIER 1 page that a halted emit reaches begins to move into a free HBM frame; when the copy is done its
entry holds the new frame, in HBM and no longer being racked, and the commands that waited for the page go on (R269).
Commands stated to complete: rackPage, rackCopyDone. -/
def Obligations.RackingMovesAPage : Prop :=
  (∀ (s : State) (d pg f : Nat) (fs : List Nat) (k : Nat) (w : Work), d < 4 → pg < 1048576 →
    (∃ c, c < 256 ∧ (s.work.haltedPages (s.work.ctx d c)).contains pg = true) →
    (s.work.page pg).valid = true → (s.work.page pg).lpx = true → (s.work.page pg).racking = false →
    s.work.freeFrames false = f :: fs → (k, w) = s.work.fresh 32 →
    ∃ dst, dst ∈ f :: fs ∧ exec (.rackPage d pg) s = .next (s.on fun _ =>
      { w.setPage pg { s.work.page pg with racking := true } with racks := (pg, dst) :: w.racks })) ∧
  (∀ (s : State) (d pg f : Nat), d < 4 → pg < 1048576 → s.racks.find? (fun r => r.1 = pg) = some (pg, f) →
    exec (.rackCopyDone d pg) s = .next (s.on fun w =>
      let p := w.page pg
      ({ (w.copyFrame p.lpx p.frame false f).setPage pg { p with lpx := false, racking := false, frame := f } with
        racks := w.racks.filter (fun q => q.1 ≠ pg) } : Work).celResume.matResume)) ∧
  (∀ (s : State) (d pg f : Nat), d < 4 → pg < 1048576 → s.racks.find? (fun r => r.1 = pg) = some (pg, f) →
    s.cellarWait = [] → s.matchWait = [] →
    ∃ t, exec (.rackCopyDone d pg) s = .next t ∧ t.work.page pg =
        { s.work.page pg with lpx := false, racking := false, frame := f } ∧
      t.racks = s.racks.filter (fun q => q.1 ≠ pg) ∧ (∀ n, n ≠ pg → t.work.page n = s.work.page n) ∧
      (MemInv s → ∀ o, o < 0x200000 → Memory.get t.mem (frameKey false f + o) =
        Memory.get s.mem (frameKey (s.work.page pg).lpx (s.work.page pg).frame + o))) ∧
  (∀ (s : State) (d pg : Nat), d < 4 → pg < 1048576 → s.racks.find? (fun r => r.1 = pg) = none →
    exec (.rackCopyDone d pg) s = .next s)

/-- R643, R645, R646: the target serves whenever VAUX and V3P3 are good, and each read command is answered with its value;
nothing but the log of what left the module changes. Without those rails nothing answers.
R645: a reading is answered on the pages that have it, in LINEAR11 or for READ_VOUT in LINEAR16, and is refused on the
others with the data bit of STATUS_CML.
Commands stated to complete: page, capability, voutMode, statusWord, statusVout, statusIout, statusInput, statusTemperature, statusCml, readVin, readIin, readPin, readVout, readIout, readPout, readTemperature1, readTemperature2, readTemperature3, pmbusRevision, mfrId, mfrModel, alertResponse, oxnBootStatus, oxnRstState, oxnFlashStat, idcode. -/
def Obligations.SidebandReads : Prop :=
  (∀ s : State,
     (s.work.sideband = false → ∀ c, c ∈ [Instr.page none true, .page (some 0) true, .clearFaults true, .capability, .voutMode,
         .statusWord, .statusVout, .statusIout, .statusInput, .statusTemperature, .statusCml, .readVin, .readIin, .readPin,
         .readVout, .readIout, .readPout, .readTemperature1, .readTemperature2, .readTemperature3, .pmbusRevision, .mfrId,
         .mfrModel, .alertResponse, .oxnBootStatus, .oxnRstState, .oxnPwrCap none true, .oxnFlashStat,
         .oxnOwnCtl none true, .idcode] → exec c s = .next s) ∧
     (s.work.sideband = true →
       (∀ (c : Instr) (code : Nat) (bs : List Byte), (c, code, bs) ∈
         [(.page none true, 0x00, [BitVec.ofNat 8 s.modl.page]), (.capability, 0x19, [0xD0]),
          (.statusWord, 0x79, toBytes 2 (s.modl.statusWord s.modl.page)),
          (.statusVout, 0x7A, [BitVec.ofNat 8 (smGet 0 s.modl.vout s.modl.page)]), (.statusIout, 0x7B, [0]),
          (.statusInput, 0x7C, [BitVec.ofNat 8 s.modl.statIn]), (.statusTemperature, 0x7D, [BitVec.ofNat 8 s.modl.statTemp]),
          (.statusCml, 0x7E, [BitVec.ofNat 8 s.modl.statCml]), (.pmbusRevision, 0x98, [0x44]),
          (.mfrId, 0x99, [5, 0x4F, 0x58, 0x45, 0x4E, 0x45]),
          (.mfrModel, 0x9A, [10, 0x50, 0x46, 0x35, 0x38, 0x34, 0x30, 0x2D, 0x4C, 0x43, 0x31]),
          (.oxnBootStatus, 0xD0, 8 :: s.work.regBytes .bootStatus 8), (.oxnRstState, 0xD1, 8 :: s.work.regBytes .rstState 8),
          (.oxnPwrCap none true, 0xD2, toBytes 2 (s.work.dv F.pwrCapCapW)),
          (.oxnFlashStat, 0xD5, 12 :: s.work.regBytes .secFlashStat 12),
          (.oxnOwnCtl none true, 0xD7, 8 :: s.work.regBytes .secOwnCtl 8)] →
         exec c s = .next { s with out := (50, ⟨frameLog, bs ++
           [pecOf (s.work.smbAddr 0 :: BitVec.ofNat 8 code :: s.work.smbAddr 1 :: bs)]⟩) :: s.out }) ∧
       (s.modl.page ≠ 0 → exec .voutMode s = .next (s.on fun w => w.answer 0x20 [0x14])) ∧
       (s.modl.page = 0 → exec .voutMode s = .next (s.on fun w => w.nack cmlData)) ∧
       (s.work.alerting = true → exec .alertResponse s = .next { s with
         out := (50, ⟨frameLog, [s.work.smbAddr 0, pecOf [0x19, s.work.smbAddr 0]]⟩) :: s.out }) ∧
       (s.work.alerting = false → exec .alertResponse s = .next s))) ∧
  ∀ s : State, s.work.sideband = true →
    let p := s.modl.page
    (∀ (c : Instr) (code n d : Nat), (c, code, n, d) ∈
        [(.readVin, 0x88, s.work.rd F.pwrRailVMv 0 0, 1000), (.readIin, 0x89, s.work.rd F.pwrRailIDa 0 0, 10),
         (.readPin, 0x97, s.work.rd F.pwrRailPW 0 0, 1)] →
      (p = 0 → exec c s = .next (s.on fun w => (w.linear11 n d).2.answer code (toBytes 2 (w.linear11 n d).1))) ∧
      (p ≠ 0 → exec c s = .next (s.on fun w => w.nack cmlData))) ∧
    (∀ (c : Instr) (code n d : Nat), (c, code, n, d) ∈
        [(.readIout, 0x8C, s.work.rd F.pwrRailIDa 0 p, 10), (.readPout, 0x96, s.work.rd F.pwrRailPW 0 p, 1)] →
      (p ≠ 0 → exec c s = .next (s.on fun w => (w.linear11 n d).2.answer code (toBytes 2 (w.linear11 n d).1))) ∧
      (p = 0 → exec c s = .next (s.on fun w => w.nack cmlData))) ∧
    (∀ (c : Instr) (code n : Nat), (c, code, n) ∈
        [(.readTemperature1, 0x8D, s.work.dv F.pwrStatusHottestC), (.readTemperature2, 0x8E, s.work.dv F.pwrThermOutletC),
         (.readTemperature3, 0x8F, s.work.dv F.pwrThermInletC)] →
      exec c s = .next (s.on fun w => (w.linear11 n 1).2.answer code (toBytes 2 (w.linear11 n 1).1))) ∧
    (p ≠ 0 → exec .readVout s = .next (s.on fun w =>
      (w.linear16 (w.rd F.pwrRailVMv 0 p)).2.answer 0x8B (toBytes 2 (w.linear16 (w.rd F.pwrRailVMv 0 p)).1))) ∧
    (p = 0 → exec .readVout s = .next (s.on fun w => w.nack cmlData))

/-- R644 to R646: writes of the sideband. A wrong PEC discards the transaction and sets its bit of STATUS_CML; PAGE takes 0 to
10; CLEAR_FAULTS clears the status registers and TRIP_VALID; the recovery service takes its commands only while start is
stopped.
R647: the instructions of the test access port, which keeps the instruction it holds and what drives the pins; TRST_N
selects IDCODE whatever the supplies.
Commands stated to complete: page, clearFaults, oxnPwrCap, oxnFlashBuf, oxnFlashCtl, oxnOwnRoot, oxnOwnCtl, samplePreload, extest, clamp, highz, oxnDbg, oxnRecovery, oxnReset, bypass, trst. -/
def Obligations.SidebandWrites : Prop :=
  (∀ s : State, s.work.sideband = true →
     (∀ c, c ∈ [Instr.page (some 0) false, .clearFaults false, .oxnPwrCap (some 2000) false, .oxnFlashBuf [] false,
         .oxnFlashCtl [] false, .oxnOwnRoot [] false, .oxnOwnCtl (some []) false] →
       exec c s = .next { s with modl := { s.modl with statCml := s.modl.statCml ||| 0x20 }, out := (51, ⟨frameLog, []⟩) :: s.out }) ∧
     (∀ v, v ≤ 10 → exec (.page (some v) true) s = .next { s with modl := { s.modl with page := v } }) ∧
     (∀ v, 10 < v → exec (.page (some v) true) s = .next (s.on fun w => w.nack cmlData)) ∧
     (∃ t, exec (.clearFaults true) s = .next t ∧ (∀ pg, t.modl.statusWord pg = 0) ∧
       t.work.rdB F.pwrStatusTripValid 0 0 = false ∧ t.modl.page = s.modl.page ∧ t.mem = s.mem ∧ t.out = s.out) ∧
     (∀ v, v < 1000 ∨ 2600 < v → exec (.oxnPwrCap (some v) true) s = .next (s.on fun w => w.nack cmlData)) ∧
     (∀ v x, 1000 ≤ v → v ≤ 2600 →
       s.work.resolve objReg (RegInst.wordNo ⟨.pwrCap, 0, 0⟩ 0) 0 (s.work.storeHdr .recovery (RegInst.wordNo ⟨.pwrCap, 0, 0⟩ 0)) =
         some x → exec (.oxnPwrCap (some v) true) s = .next (s.on fun _ => x.wr F.pwrCapCapW 0 0 v)) ∧
     (s.work.startStopped = false → ∀ c, c ∈ [Instr.oxnFlashBuf (List.replicate 129 0) true,
         .oxnFlashCtl (List.replicate 24 0) true, .oxnOwnRoot (List.replicate 64 0) true, .oxnOwnCtl (some (List.replicate 8 0)) true] →
       exec c s = .next (s.on fun w => w.nack cmlCommand)) ∧
     (s.work.startStopped = true →
       (∀ half bs, half ≤ 1 → bs.length = 128 →
         exec (.oxnFlashBuf (BitVec.ofNat 8 half :: bs) true) s = .next (s.on fun w =>
           let old := toBytes 256 (w.dv F.secFlashDataData)
           w.wr F.secFlashDataData 0 0 (ofBytes (if half = 0 then bs ++ old.drop 128 else old.take 128 ++ bs)))) ∧
       (∀ bs, bs.length = 24 → exec (.oxnFlashCtl bs true) s = .next (s.on fun w => w.flashIssue (ofBytes bs) true)) ∧
       (∀ bs, bs.length = 64 → exec (.oxnOwnRoot bs true) s = .next (s.on fun w => w.wr F.secOwnRootRoot 0 0 (ofBytes bs))) ∧
       (∀ bs, bs.length = 8 → exec (.oxnOwnCtl (some bs) true) s = .next (s.on fun w => w.enrolRequest (ofBytes bs))))) ∧
  ∀ s : State,
    exec .trst s = .next { s with modl := { s.modl with jtagIr := 0x01, jtagDrive := 0 } } ∧
    (s.work.sideband = true →
      (∀ (c : Instr) (ir drive : Nat) (bs : List Byte), (c, ir, drive, bs) ∈
          [(.idcode, 0x01, 0, [0xE7, 0x09, 0x84, 0x05]), (.clamp, 0x04, 1, [0]), (.highz, 0x05, 2, [0]),
           (.bypass, 0xFF, 0, [0])] →
        exec c s = .next { s with modl := { s.modl with jtagIr := ir, jtagDrive := drive }, out := (52, ⟨frameLog, bs⟩) :: s.out }) ∧
      (∀ pins pre, exec (.samplePreload pins pre) s = .next { s with
        modl := { s.modl with jtagIr := 0x02, jtagDrive := 0, jtagBsr := pre }, out := (52, ⟨frameLog, toBytes 32 pins⟩) :: s.out }) ∧
      (∀ pins, exec (.extest pins) s = .next { s with
        modl := { s.modl with jtagIr := 0x03, jtagDrive := 1 }, out := (52, ⟨frameLog, toBytes 32 pins⟩) :: s.out }) ∧
      (∀ b, exec (.oxnDbg b) s = .next { s with modl := { s.modl with jtagIr := 0x20, jtagDrive := 0, dbg := b } }) ∧
      (exec .oxnReset s = .next (s.on fun w =>
        (w.setMod (fun m => { m with jtagIr := 0x22, jtagDrive := 0 })).resetIf false 6)) ∧
      (∀ code bs, exec (.oxnRecovery code bs) s = .next (s.on fun w =>
        (w.setMod (fun m => { m with jtagIr := 0x21, jtagDrive := 0 })).recovery code bs)))

/-- R621, R622, R626, R627, R629: the hot-swap stage and the sequencer.
R622, R570: a module that the input protection switches off is OFF, its fault latch shows the trip, and its cellar is
lost; a rail fault removes every rail but VAUX and V3P3 and records the page.
R630, R545: the inhibit comes into force while VIN or VAUX is below its threshold or PWR_EN is low, and lifts once all
three hold with their margins; held fence-log records are then written.
R181, R633, R636, R648: samples are taken while the module has its supplies. The cap limiter's gate, a die's thermal gate
and the match tier that a sample asks for stay between their bounds and move one step at a time.
Commands stated to complete: sensorSample, hotSwapClose, pwrEnDeassert, powerDownDelay, inputOvervoltage, inputOvercurrent, railGood, railGoodTimeout, railFault, nvwInhibitAssert, nvwInhibitLift, powerSample, qsfpModuleChange. -/
def Obligations.SuppliesAndTrips : Prop :=
  (∀ s : State,
     (s.modl.hotSwap = false → s.modl.tripped = false ∨ s.modl.pwrEn = false →
       exec .hotSwapClose s = .next { s with modl := { s.modl with hotSwap := true, pwrEn := true, tripped := false } }) ∧
     (s.modl.hotSwap = true ∨ (s.modl.tripped = true ∧ s.modl.pwrEn = true) → exec .hotSwapClose s = .next s) ∧
     (s.modl.hotSwap = true →
       (∀ mv, 62000 < mv → exec (.inputOvervoltage mv) s = .next (s.on fun w => w.powerOff.trip 2 0)) ∧
       (∀ da ns, 900 < da ∨ (750 < da ∧ 1000000 ≤ ns) → exec (.inputOvercurrent da ns) s = .next (s.on fun w =>
         (w.powerOff.setMod (fun m => { m with tripped := true })).trip 1 0))) ∧
     (∀ mv, mv ≤ 62000 → exec (.inputOvervoltage mv) s = .next s) ∧
     (∀ da ns, da ≤ 750 ∨ (da ≤ 900 ∧ ns < 1000000) → exec (.inputOvercurrent da ns) s = .next s) ∧
     (∀ pg, pg ≠ 0 → pg < 11 → s.modl.hotSwap = true → s.modl.tripped = false ∨ 9 ≤ pg →
       exec (.railGood pg) s = .next { s with modl := { s.modl with rails := setInsert s.modl.rails pg } }) ∧
     (∀ pg, pg ≠ 0 → pg < 11 → s.modl.hotSwap = true → s.modl.tripped = false → s.modl.rails.contains pg = false →
       exec (.railGoodTimeout pg) s = .next (s.on fun w => w.railFault 4 pg 0x04)) ∧
     (∀ pg, 5 ≤ pg → pg < 11 → s.work.powered = true → s.modl.rails.contains pg = true →
       exec (.railFault pg) s = .next (s.on fun w =>
         (w.railFault 4 pg 0x10).setMod (fun m => { m with rails := m.rails.filter (fun r => r ≠ pg) }))) ∧
     (exec .pwrEnDeassert s = .next (s.on fun w => (w.setMod (fun m => { m with pwrEn := false })).nvwOn)) ∧
     (s.modl.pwrEn = false → s.modl.hotSwap = true → exec .powerDownDelay s = .next (s.on Work.powerOff)) ∧
     (s.modl.pwrEn = true ∨ s.modl.hotSwap = false → exec .powerDownDelay s = .next s)) ∧
  ((∀ w : Work, w.sec.flashOp = none → w.sec.enrol = none →
     let t := w.powerOff.trip 2 0
     t.devState = stOff ∧ t.powered = false ∧ t.modl.rails = [] ∧ t.dv F.pwrStatusLastTrip = 2 ∧
       t.rdB F.pwrStatusTripValid 0 0 = true ∧ t.modl.latch = (2, 0) ∧ t.flash = w.flash ∧ t.plans = [] ∧
       t.jnl = .clear cellarBase 0x200000000 :: w.jnl) ∧
   (∀ (w : Work) (pg bits : Nat), pg < 11 → w.sec.flashOp = none → w.sec.enrol = none →
     let t := w.railFault 4 pg bits
     t.powered = false ∧ (∀ r, r ∈ t.modl.rails ↔ r ∈ w.modl.rails ∧ 9 ≤ r) ∧ t.dv F.pwrStatusLastTrip = 4 ∧
       t.dv F.pwrStatusTripRail = pg ∧ t.rdB F.pwrStatusTripValid 0 0 = true ∧ t.sideband = w.sideband)) ∧
  (∀ (s : State) (vin vaux : Nat) (w : Work), w = s.work.showLow vin vaux →
     (vin < s.work.dv F.pwrNvwThreshVinMv ∨ vaux < s.work.dv F.pwrNvwThreshVauxMv ∨ s.modl.pwrEn = false →
       exec (.nvwInhibitAssert vin vaux) s = .next (s.on fun _ => w.nvwOn)) ∧
     (s.work.dv F.pwrNvwThreshVinMv ≤ vin → s.work.dv F.pwrNvwThreshVauxMv ≤ vaux → s.modl.pwrEn = true →
       exec (.nvwInhibitAssert vin vaux) s = .next (s.on fun _ => w)) ∧
     (s.work.dv F.pwrNvwThreshVinMv + 500 ≤ vin → s.work.dv F.pwrNvwThreshVauxMv + 20 ≤ vaux → s.modl.pwrEn = true →
       s.work.rdB F.pwrStatusNvw 0 0 = true →
       exec (.nvwInhibitLift vin vaux) s = .next (s.on fun _ => (w.wr F.pwrStatusNvw 0 0 0).flushHeld)) ∧
     (vin < s.work.dv F.pwrNvwThreshVinMv + 500 ∨ vaux < s.work.dv F.pwrNvwThreshVauxMv + 20 ∨ s.modl.pwrEn = false ∨
       s.work.rdB F.pwrStatusNvw 0 0 = false → exec (.nvwInhibitLift vin vaux) s = .next (s.on fun _ => w))) ∧
  (∀ (s : State) (r : Sensors), r.wf = true → s.work.powered = true →
    exec (.sensorSample r) s = .next (s.on fun w => w.sensorSample r)) ∧
  (∀ (s : State) (r : PowerReadings), r.wf = true → s.work.powered = true →
    exec (.powerSample r) s = .next (s.on fun w => w.powerSample r)) ∧
  (∀ (m : ModSt) (avg cap lo : Nat), lo ≤ m.gate → m.gate ≤ 16 →
    lo ≤ (m.limit avg cap lo false).gate ∧ (m.limit avg cap lo false).gate ≤ 16 ∧
    (cap < avg → (m.limit avg cap lo false).gate = max lo (m.gate - 1)) ∧
    (avg ≤ cap → m.gate ≤ (m.limit avg cap lo false).gate ∧ (m.limit avg cap lo false).gate ≤ m.gate + 1) ∧
    (m.limit avg cap lo true).gate = lo) ∧
  (∀ gate cool hot lo : Nat, lo ≤ gate → gate ≤ 16 →
    let g := (gateAfter gate cool hot lo).1
    lo ≤ g ∧ g ≤ 16 ∧ (95 ≤ hot → g = max lo (gate - 1)) ∧ (92 ≤ hot → hot < 95 → g = gate) ∧
      (hot < 92 → gate ≤ g ∧ g ≤ gate + 1)) ∧
  (∀ t x t1 t2 hyst : Nat, t ≤ 2 → t1 ≤ t2 →
    tierAfter t x t1 t2 hyst ≤ 2 ∧ (t2 ≤ x → tierAfter t x t1 t2 hyst = 2) ∧
      (x + hyst < t1 → t ≠ 2 → tierAfter t x t1 t2 hyst = 0) ∧ (t1 ≤ x → 1 ≤ tierAfter t x t1 t2 hyst)) ∧
  (∀ (s : State) (p pclass : Nat) (kind : CageModule), p < 8 →
    (kind = .dr1 ∨ kind = .fr1 → pclass ≤ 5 → s.work.rd F.fldPortEnable 0 p = 1 →
      exec (.qsfpModuleChange p kind pclass) s = .next (s.on fun w =>
        ((w.setMod (fun m => { m with lowPower := m.lowPower.filter (fun (q : Nat) => q ≠ p) })).wr F.fldStatLinkUp 0 p 1).event
          (72 + p) sOk 1)) ∧
    (kind ≠ .absent → 5 < pclass →
      exec (.qsfpModuleChange p kind pclass) s = .next (s.on fun w =>
        ((w.setMod (fun m => { m with lowPower := setInsert m.lowPower p })).wr F.fldStatLinkUp 0 p 0).event (72 + p) sOk 0)) ∧
    (kind = .absent ∨ kind = .other → pclass ≤ 5 →
      exec (.qsfpModuleChange p kind pclass) s = .next (s.on fun w =>
        ((w.setMod (fun m => { m with lowPower := m.lowPower.filter (fun (q : Nat) => q ≠ p) })).wr F.fldStatLinkUp 0 p 0).event
          (72 + p) sOk 0)))

/-- R614: enrolment. With ENROL and its key, while the owner pin and the identity allow it and the flash is free, the root is
taken and the flash is busy until the record is written, when the status is OK; otherwise the write is refused, or asks for
nothing.
R619, R620: a flash operation is issued when every check passes, and its data are taken at once; when it fails, only the
status shows it. A word whose OP is another row's is not that command.
R619: what an operation leaves at its end. An erase leaves its region erased and a program leaves it with its bytes, with
no other byte of the flash changed; a verification shows its result; DONE and the status are set, and the flash is free.
Commands stated to complete: enrol, enrolComplete, erase, program, verifyOxene, verifyOwner, flashOpComplete. -/
def Obligations.FlashAndEnrolment : Prop :=
  ((∀ (s : State) (by_ : Requester) (v : BitVec 64), by_.wf = true →
     (fieldOf v.toNat 0 1 ≠ 1 ∨ fieldOf v.toNat 8 8 ≠ 0x5A → exec (.enrol by_ v) s = .next s) ∧
     (fieldOf v.toNat 0 1 = 1 → fieldOf v.toNat 8 8 = 0x5A →
       (s.work.inhibited = true →
         exec (.enrol by_ v) s = .next { s with regs := (s.work.wr F.secOwnCtlLastStatus 0 0 sNvw).regs }) ∧
       (s.work.inhibited = false → (s.work.rdB F.secStatusOwnEn 0 0 = false ∨ s.work.rdB F.secStatusIdOk 0 0 = false ∨
           s.sec.flashOp ≠ none ∨ s.sec.enrol ≠ none) →
         exec (.enrol by_ v) s = .next { s with regs := (s.work.wr F.secOwnCtlLastStatus 0 0 sState).regs }) ∧
       (s.work.inhibited = false → s.work.rdB F.secStatusOwnEn 0 0 = true → s.work.rdB F.secStatusIdOk 0 0 = true →
           s.sec.flashOp = none → s.sec.enrol = none →
         ∃ t, exec (.enrol by_ v) s = .next t ∧ t.sec.enrol = some (toBytes 64 (s.work.dv F.secOwnRootRoot)) ∧
           t.work.rdB F.secFlashStatBusy 0 0 = true ∧ t = { s with regs := t.regs, sec := t.sec }))) ∧
   (∀ s : State, s.sec.enrol = none → exec .enrolComplete s = .next s) ∧
   (∀ (s : State) (root : List Byte), s.sec.enrol = some root → root.length = 64 →
     ∃ t, exec .enrolComplete s = .next t ∧ t.sec.enrol = none ∧ t.work.dv F.secOwnCtlLastStatus = sOk ∧
       t.work.flashRead 0 4 = toBytes 4 0x524F584F ∧ t.work.flashRead 16 64 = root ∧
       (∀ a, 0x10000 ≤ a → t.work.flashByte a = s.work.flashByte a) ∧ t.mem = s.mem)) ∧
  (∀ (s : State) (by_ : Requester) (v : BitVec 192) (c : Instr) (op : Nat), by_.wf = true →
     (c, op) ∈ [(Instr.erase by_ v, 1), (.program by_ v, 2), (.verifyOxene by_ v, 3), (.verifyOwner by_ v, 4)] →
     (fieldOf v.toNat 0 3 ≠ op → exec c s = .next s) ∧
     (fieldOf v.toNat 0 3 = op →
       (∀ bs, s.work.flashFails v.toNat (decide (by_ = .recovery)) = [] →
         (op ≠ 2 ∧ bs = [] ∨
           op = 2 ∧ bitOf v.toNat 3 = true ∧ bs = (toBytes 256 (s.work.dv F.secFlashDataData)).take (fieldOf v.toNat 64 32) ∨
           op = 2 ∧ bitOf v.toNat 3 = false ∧ s.work.read (fieldOf v.toNat 96 52) (fieldOf v.toNat 64 32) = some bs) →
         ∃ t, exec c s = .next t ∧
           t.sec = { s.sec with flashOp := some ⟨op, fieldOf v.toNat 32 28, fieldOf v.toNat 64 32, bs⟩ } ∧
           t.work.rdB F.secFlashStatBusy 0 0 = true ∧ t.work.dv F.secFlashStatDone = 0 ∧
           t = { s with regs := t.regs, sec := t.sec }) ∧
       (∀ fs, s.work.flashFails v.toNat (decide (by_ = .recovery)) = fs → fs ≠ [] →
         exec c s = .next (s.on fun w => (w.countFurther .mgmt fs).wr F.secFlashStatLastStatus 0 0 (lowest fs))) ∧
       (op = 2 → bitOf v.toNat 3 = false → s.work.flashFails v.toNat (decide (by_ = .recovery)) = [] →
         s.work.read (fieldOf v.toNat 96 52) (fieldOf v.toNat 64 32) = none →
         exec c s = .next { s with regs := (s.work.wr F.secFlashStatLastStatus 0 0 sUnmapped).regs }))) ∧
  ∀ (s : State) (o : FlashOp),
    (s.sec.flashOp = none → exec .flashOpComplete s = .next s) ∧
    (s.sec.flashOp = some o → ∃ t, exec .flashOpComplete s = .next t ∧ t.sec.flashOp = none ∧
      t.work.dv F.secFlashStatLastStatus = sOk ∧ t.mem = s.mem ∧
      (o.op = 1 → (∀ a, t.work.flashByte a = if inRange o.addr o.len a then 0xFF else s.work.flashByte a) ∧
        t.work.dv F.secFlashStatDone = o.len % 2 ^ 32) ∧
      (o.op = 2 → (∀ a, t.work.flashByte a =
          if inRange o.addr o.bytes.length a then getAt 0 o.bytes (a - o.addr) else s.work.flashByte a) ∧
        t.work.dv F.secFlashStatDone = o.len % 2 ^ 32) ∧
      (o.op = 3 → t.flash = s.flash ∧ t.work.dv F.secFlashStatVerifyResult = s.work.partResult false none % 2 ^ 8) ∧
      (o.op = 4 → t.flash = s.flash ∧ t.work.dv F.secFlashStatVerifyResult = s.work.partResult true
        ((s.work.ownership (s.work.rdB F.secStatusIdOk 0 0)).map (fun x => x.2)) % 2 ^ 8))

/-- R615: an attestation request waits for its turn, and the oldest is answered with its report and the certificate; one
without a whole nonce, without an identity, or beyond sixteen that wait is refused.
R615: a report is 256 bytes, carries the nonce, the measurements and the device's id, and is signed with the identity
key over its first 192 bytes; each is counted.
R500, R616: the link-up exchange. Step 1 is answered with a report over the peer's nonce, also by an end that is UP
already; step 2 brings the port UP when
it passes and to ATTEST_FAIL when it does not; a second without step 2 fails it, and it is tried again later.
Commands stated to complete: linkHello, linkHelloTimeout, attestRetry, attest, reportSigned. -/
def Obligations.AttestationAndLinkUp : Prop :=
  ((∀ (s : State) (h : KHdr) (bs : List Byte), (Instr.attest h bs).wf = true → OrderHere 0x02 h s →
     (bs.length < 32 → exec (.attest h bs) s = .next (s.on fun w => w.ctrlDone h sRange [])) ∧
     (32 ≤ bs.length → s.work.rdB F.secStatusIdOk 0 0 = false →
       exec (.attest h bs) s = .next (s.on fun w => w.ctrlDone h sState [])) ∧
     (32 ≤ bs.length → s.work.rdB F.secStatusIdOk 0 0 = true → 16 ≤ s.sec.reports.length →
       exec (.attest h bs) s = .next (s.on fun w => w.ctrlDone h sFull [])) ∧
     (32 ≤ bs.length → s.work.rdB F.secStatusIdOk 0 0 = true → s.sec.reports.length < 16 →
       exec (.attest h bs) s = .next { s with sec := { s.sec with reports := s.sec.reports ++ [(h, bs.take 32)] } })) ∧
   (∀ s : State, s.sec.reports = [] → exec .reportSigned s = .next s) ∧
   (∀ (s : State) (h : KHdr) (nonce : List Byte) (rest : List (KHdr × List Byte)), s.sec.reports = (h, nonce) :: rest →
     exec .reportSigned s = .next (s.on fun w =>
       let x := { w with sec := { w.sec with reports := rest } }.report nonce
       x.2.ctrlDone h sOk (x.1 ++ x.2.certificate)))) ∧
  (∀ (w : Work) (nonce : List Byte), nonce.length = 32 →
     let r := (w.report nonce).1
     r.length = 256 ∧ slice r 32 32 = nonce ∧ slice r 64 32 = slice w.sec.oxeneMeas 0 32 ∧
       slice r 96 32 = slice w.sec.ownerMeas 0 32 ∧ leAt r 6 2 % 512 = w.deviceId ∧ leAt r 16 8 = w.tickNo ∧
       slice r 192 64 = (w.deviceSign (slice r 0 192)).1 ∧
       (w.report nonce).2.dv F.secAttestReports = (w.dv F.secAttestReports + 1) % 2 ^ F.secAttestReports.w) ∧
  ∀ (s : State) (p : Nat) (h : KHdr) (bs : List Byte), (Instr.linkHello p h bs).wf = true → h.cls = clsCtrl → h.typ = 0x30 →
    (s.work.klState p = klAttesting → leAt bs 0 1 = 2 → s.work.peerPasses p bs = true →
      exec (.linkHello p h bs) s = .next (s.on fun w => (w.portUp p (fieldOf (leAt bs 8 32) 48 9)).twinPortUp p)) ∧
    (s.work.klState p = klAttesting → leAt bs 0 1 = 2 → s.work.peerPasses p bs = false →
      exec (.linkHello p h bs) s = .next (s.on fun w => w.attestFail p)) ∧
    (s.work.klState p = klUp → leAt bs 0 1 ≠ 1 → exec (.linkHello p h bs) s = .next s) ∧
    (s.work.klState p = klAttesting ∨ s.work.klState p = klUp → leAt bs 0 1 = 1 → s.work.rdB F.secStatusIdOk 0 0 = true →
      exec (.linkHello p h bs) s = .next (s.on fun w =>
        let x := w.report (slice bs 8 32)
        x.2.directOut p 0x30 (toBytes 8 2 ++ x.1 ++ x.2.certificate))) ∧
    (s.work.klState p = klAttesting → exec (.linkHelloTimeout p) s = .next (s.on fun w => w.attestFail p)) ∧
    (s.work.klState p ≠ klAttesting → exec (.linkHelloTimeout p) s = .next s) ∧
    (s.work.klState p = klAttestFail →
      exec (.attestRetry p) s = .next (s.on fun w => (w.setKl p klAttesting sOk).helloOut p)) ∧
    (s.work.klState p ≠ klAttestFail → exec (.attestRetry p) s = .next s)

/-- R497 to R500: a port whose training leaves four lanes in each direction enters ATTESTING on those lanes and sends step 1;
one with fewer is OUT; a host port comes up on four sound lanes. A lane in use that fails retrains the port, or takes it OUT
when its direction has no spare left; TRAINING for too long excludes the port from routes.
R497: four lanes of a direction are taken when at least four are sound: the sound ones of lanes 0 to 3, and the spare in
place of a failed one.
Commands stated to complete: kupelTrainingComplete, laneLossOfLock, serLimitExceeded, trainingExclusion. -/
def Obligations.PortTraining : Prop :=
  ((∀ (s : State) (p tf rf : Nat), p < 24 →
     let trains := s.work.klState p = klTraining ∨ (s.work.klState p = klDown ∧ s.work.rd F.klPortCfgEn 0 p ≠ 0)
     (¬ trains → exec (.kupelTrainingComplete p tf rf) s = .next s) ∧
     (trains → s.work.isHostPort p = true →
       ((tf ||| rf) % 16 = 0 → exec (.kupelTrainingComplete p tf rf) s = .next (s.on fun w =>
         ((w.wr F.klPortStatusTxLanes 0 p 15).wr F.klPortStatusRxLanes 0 p 15).setKl p klHostUp sOk)) ∧
       ((tf ||| rf) % 16 ≠ 0 → exec (.kupelTrainingComplete p tf rf) s = .next (s.on fun w => w.portDown p))) ∧
     (∀ tx rx w, trains → s.work.isHostPort p = false →
       tx = addLanes (s.work.port p).txFailed (lanesOf tf) → rx = addLanes (s.work.port p).rxFailed (lanesOf rf) →
       w = s.work.setPort p { s.work.port p with txFailed := tx, rxFailed := rx } →
       (∀ tl rl, laneSet tx = some tl → laneSet rx = some rl →
         exec (.kupelTrainingComplete p tf rf) s = .next (s.on fun _ =>
           let x := (w.takeLanes p 0 (s.work.port p).txSpare tx tl).takeLanes p 1 (s.work.port p).rxSpare rx rl
           ((x.setPort p { x.port p with txSpare := tl.contains 4, rxSpare := rl.contains 4, laneCause := 0 }).setKl p klAttesting
             sOk).helloOut p)) ∧
       (laneSet tx = none → exec (.kupelTrainingComplete p tf rf) s = .next (s.on fun _ => w.portOut p 0 (tx.getLastD 0) 6)) ∧
       (laneSet tx ≠ none → laneSet rx = none →
         exec (.kupelTrainingComplete p tf rf) s = .next (s.on fun _ => w.portOut p 1 (rx.getLastD 0) 6)))) ∧
   (∀ (s : State) (p lane : Nat) (c : Instr) (cause : Nat), p < 24 → lane < 5 →
     (c, cause) ∈ [(Instr.laneLossOfLock p lane, 6), (.serLimitExceeded p lane, 2)] →
     (bitOf (s.work.rd F.klPortStatusRxLanes 0 p) lane = false → exec c s = .next s) ∧
     (bitOf (s.work.rd F.klPortStatusRxLanes 0 p) lane = true → s.work.klState p ∈ [klAttesting, klUp] →
       s.work.isHostPort p = false →
       exec c s = .next (s.on fun w =>
         let x := w.setPort p { w.port p with rxFailed := setInsert (w.port p).rxFailed lane, laneCause := cause }
         if (w.port p).rxSpare then x.portOut p 1 lane cause else x.retrain p)) ∧
     (bitOf (s.work.rd F.klPortStatusRxLanes 0 p) lane = true → s.work.klState p = klHostUp → s.work.isHostPort p = true →
       exec c s = .next (s.on fun w => w.portDown p))) ∧
   (∀ (s : State) (p : Nat), p < 24 →
     (s.work.klState p = klTraining →
       exec (.trainingExclusion p) s = .next (s.on fun w => w.setPort p { w.port p with excluded := true })) ∧
     (s.work.klState p ≠ klTraining → exec (.trainingExclusion p) s = .next s))) ∧
  ∀ failed : List Nat,
    (laneSet failed = none ↔ ((List.range 5).filter (fun l => !failed.contains l)).length < 4) ∧
    ∀ ls, laneSet failed = some ls → ls.length = 4 ∧ (∀ l, l ∈ ls → l < 5 ∧ l ∉ failed) ∧
      (4 ∈ ls ↔ ∃ l, l < 4 ∧ l ∈ failed)

/-- R506, R508: the oldest message of a class goes out when the credits cover it and the replay buffer has room, and is kept
for its acknowledgement; without credits it waits; an EMPTY frame acknowledges what no other has; a timeout sends again what
is not acknowledged, and the eighth retrains the port.
R501, R508, R519: a frame is heard by a port that is UP, HOST_UP or ATTESTING; a damaged or overlong one is counted, and on
a link that is UP asked for again.
Commands stated to complete: kfpFrame, messageTransmit, ackTimer, replayTimeout. -/
def Obligations.FramesOfAPort : Prop :=
  ((∀ (s : State) (p c : Nat) (x : Port), p < 24 → x = s.work.port p →
     (x.waiting.find? (fun m => m.h.cls = c) = none → exec (.messageTransmit p c) s = .next s) ∧
     (∀ m, x.waiting.find? (fun m => m.h.cls = c) = some m → s.work.isHostPort p = false → s.work.klState p = klUp →
       c ≠ clsTime → m.credits ≤ x.creditsLeft c → x.unacked.length < 32767 →
       x.replayBytes + 34 + m.bytes.length ≤ 524288 →
       exec (.messageTransmit p c) s = .next (s.on fun w =>
         (w.setPort p { x with waiting := x.waiting.erase m, used := x.used.set c ((getAt 0 x.used c + m.credits) % 4096),
                               nextSeq := (x.nextSeq + 1) % 65536, unacked := x.unacked ++ [⟨x.nextSeq, [m]⟩] }).frameOut p
           x.nextSeq false false [m])) ∧
     (∀ m, x.waiting.find? (fun m => m.h.cls = c) = some m → s.work.isHostPort p = false →
       (s.work.klState p ≠ klUp ∨ x.creditsLeft c < m.credits) → exec (.messageTransmit p c) s = .next s) ∧
     (∀ m, x.waiting.find? (fun m => m.h.cls = c) = some m → s.work.isHostPort p = true → s.work.klState p = klHostUp →
       exec (.messageTransmit p c) s = .next (s.on fun w =>
         (w.setPort p { x with waiting := x.waiting.erase m }).frameOut p 0 false false [m]))) ∧
   (∀ (s : State) (p : Nat), p < 24 →
     (s.work.klState p = klUp → (s.work.port p).sinceAck ≠ 0 → s.work.isHostPort p = false →
       ∃ t bs, exec (.ackTimer p) s = .next t ∧ (t.work.port p).sinceAck = 0 ∧ t.out = (p, ⟨frameLog, bs⟩) :: s.out ∧
         fieldOf (ofBytes bs) 16 16 = ((s.work.port p).expect + 65535) % 65536) ∧
     (s.work.klState p ≠ klUp ∨ (s.work.port p).sinceAck = 0 → exec (.ackTimer p) s = .next s) ∧
     (s.work.klState p = klUp → (s.work.port p).unacked ≠ [] →
       exec (.replayTimeout p) s = .next (s.on fun w =>
         let y := (w.setPort p { w.port p with replays := (w.port p).replays + 1 }).resend p
         if 8 ≤ (w.port p).replays + 1 then y.retrain p else y)) ∧
     (s.work.klState p ≠ klUp ∨ (s.work.port p).unacked = [] → exec (.replayTimeout p) s = .next s))) ∧
  ∀ (s : State) (p ns : Nat) (bs : List Byte) (ok : Bool) (w : Work), p < 24 → w = s.work.atNs ns →
    (w.klState p ≠ klUp → w.klState p ≠ klHostUp → w.klState p ≠ klAttesting →
      exec (.kfpFrame p bs ok ns) s = .next (s.on fun _ => w)) ∧
    (w.klState p = klUp → (ok = false ∨ 9216 < bs.length) →
      exec (.kfpFrame p bs ok ns) s = .next (s.on fun _ => (w.bump F.klStatFcsErr 0 p).nak p)) ∧
    (exec (.kfpFrame p bs ok ns) s = .next (s.on fun _ => w.kfpFrame p bs ok))

/-- R513, R521, R527: where a message goes. A command whose class and type are another row's is not that command; one for
another device is forwarded, one for a host session goes to the bridge, and what a mirror does not handle goes to the
ACTIVE.
R513: a message that is forwarded has HOPS one lower, and one whose HOPS would reach zero is discarded and counted; one
that no usable port leads on is discarded and counted too, and any other joins what waits at the port its flow selects. -/
def Obligations.MessagesGoWhereTheyAreAddressed : Prop :=
  (∀ (s : State) (h : KHdr) (bs : List Byte) (c : Instr) (cls typ : Nat), c.wf = true →
     (c, cls, typ) ∈ [(Instr.attest h bs, 3, 0x02), (.planLoad h bs, 3, 0x03), (.planStart h bs, 3, 0x04),
       (.planStop h bs, 3, 0x05), (.planDrain h bs, 3, 0x06), (.tableAttach h bs, 3, 0x07), (.rowReplace h bs, 3, 0x08),
       (.bqFetch h bs, 3, 0x0A), (.regRead h bs, 3, 0x0B), (.regWrite h bs, 3, 0x0C), (.event h bs, 3, 0x20),
       (.dataWrite h bs, 0, 0x01), (.batchPart h bs, 0, 0x02), (.embUpdate h bs, 0, 0x33), (.embCopy h bs, 0, 0x34),
       (.embLookup h bs, 1, 0x31), (.embOverride h bs, 1, 0x35), (.ctrlDone h bs, 2, 0x01), (.embPooled h bs, 2, 0x32)] →
     ((h.cls ≠ cls ∨ h.typ ≠ typ) → exec c s = .next s) ∧
     (h.cls = cls → h.typ = typ →
       (s.work.isMirror = false → s.work.ownId h.dstDev = false → exec c s = .next (s.on fun w => w.forward ⟨h, bs⟩)) ∧
       (s.work.isMirror = false → s.work.ownId h.dstDev = true → h.dstSess ≠ 0 →
         exec c s = .next (s.on fun w => w.toHost (h.dstSess - 1) ⟨h, bs⟩)) ∧
       (s.work.isMirror = true → (h.dstDev = s.work.deviceId ∨ h.dstDev = s.work.partner) → s.work.mirrorHandles h = false →
         exec c s = .next (s.on fun w => w.toActive ⟨h, bs⟩)))) ∧
  ∀ (w : Work) (m : Msg),
    (m.h.hops ≤ 1 → w.forward m = w.bump F.fabStatHopDrop 0 0) ∧
    (1 < m.h.hops → w.usablePorts m.h.dstDev m.h.cls = [] →
      (w.forward m).dv F.fabStatNoRoute = (w.dv F.fabStatNoRoute + 1) % 2 ^ F.fabStatNoRoute.w ∧
      (w.forward m).ports = w.ports ∧ (w.forward m).noRoute = w.noRoute + 1) ∧
    (1 < m.h.hops → w.usablePorts m.h.dstDev m.h.cls ≠ [] →
      ∃ p, p ∈ w.usablePorts m.h.dstDev m.h.cls ∧ w.klState p = klUp ∧
        (w.forward m).port p = { w.port p with waiting := (w.port p).waiting ++ [{ m with h := { m.h with hops := m.h.hops - 1 } }] } ∧
        ∀ q, q ≠ p → (w.forward m).port q = w.port q)

/-- R517: a control command from a master that the device does not accept is counted, answered with AUTH_FAIL, and has no
other effect.
R541: an order of a lower master on an object of the epoch that a higher one has named is discarded: the other master's
stays, and the order is answered with CONFLICT. An order that is taken joins its master's own, and those of lower masters
are out of the contest.
R518, R541, R653 to R656, R673: register commands. REG_READ answers the words of the register space that it names; REG_WRITE
writes them one by one and answers the lowest status; a management core's store does the same without an answer. A write to a
reserved address, and one through a group alias while no unit's group is selected, change nothing (R654, R658, R660).
Commands stated to complete: regRead, regWrite, registerWrite. -/
def Obligations.MastersAndRegisterCommands : Prop :=
  (∀ (s : State) (h : KHdr) (bs : List Byte) (c : Instr) (typ : Nat), c.wf = true →
     (c, typ) ∈ [(Instr.attest h bs, 0x02), (.planLoad h bs, 0x03), (.planStart h bs, 0x04), (.planStop h bs, 0x05),
       (.planDrain h bs, 0x06), (.bqFetch h bs, 0x0A), (.regRead h bs, 0x0B), (.regWrite h bs, 0x0C)] →
     TakenHere 3 typ h s → s.work.authorised h = false →
     exec c s = .next (s.on fun w => (w.bump F.fabStatAuthDrop 0 0).ctrlDone h sAuth [])) ∧
  (∀ (w : Work) (kind a b : Nat) (h : KHdr),
     (w.resolve kind a b h = none ↔ ∃ c, c ∈ w.cmdsOn kind a b ∧ c.rank < w.rank h) ∧
     (∀ x, w.resolve kind a b h = some x → x.cmdsOn kind a b =
       ⟨kind, a, b, w.rank h, h⟩ :: (w.cmdsOn kind a b).filter (fun c => c.rank = w.rank h)) ∧
     (∀ (s : State) (bs : List Byte) (p : Nat), (Instr.planStart h bs).wf = true → OrderHere 0x04 h s → 1 ≤ bs.length →
       p = leAt bs 0 1 % 16 → s.work.resolve objPlan p 0 h = none →
       exec (.planStart h bs) s = .next (s.on fun w => (w.noteConflict h).ctrlDone h sConflict []))) ∧
  (∀ (s : State) (h : KHdr) (bs : List Byte), (Instr.regRead h bs).wf = true → OrderHere 0x0B h s →
    (regSpan bs = none → exec (.regRead h bs) s = .next (s.on fun w => w.ctrlDone h sRange [])) ∧
    (∀ a v, regSpan bs = some (a, 1) → s.work.readThrough a = some v →
      exec (.regRead h bs) s = .next (s.on fun w => w.ctrlDone h sOk (toBytes 8 v))) ∧
    (∀ a, regSpan bs = some (a, 1) → s.work.readThrough a = none →
      exec (.regRead h bs) s = .next (s.on fun w => w.ctrlDone h sRange []))) ∧
  (∀ (s : State) (h : KHdr) (bs : List Byte), (Instr.regWrite h bs).wf = true → OrderHere 0x0C h s →
    (regSpan bs = none → exec (.regWrite h bs) s = .next (s.on fun w => w.ctrlDone h sRange [])) ∧
    (∀ a w st x, regSpan bs = some (a, 1) → 24 ≤ bs.length → s.work.resolveAll h (s.work.wordObjects a) = some w →
      w.storeWord (.regWrite h.srcDev h.srcSess) a (leAt bs 16 8) = (some st, x) →
      resetWrite (x.targets a) (leAt bs 16 8) = false →
      exec (.regWrite h bs) s = .next (s.on fun _ => x.ctrlDone h (lowest [st]) []))) ∧
  (∀ (s : State) (by_ : Requester) (a : Nat) (v : BitVec 64) (w : Work), by_.wf = true →
    s.work.resolveAll (s.work.storeHdr by_ a) (s.work.wordObjects a) = some w →
    exec (.registerWrite by_ a v) s = .next (s.on fun _ => (w.storeWord by_ a v.toNat).2)) ∧
  (∀ (w : Work) (by_ : Requester) (a v : Nat),
    (w.reservedWord a = true → w.storeWord by_ a v = (none, w) ∧
      (w.readWord a = none → w.readThrough a = if commandAlias a then some 0 else none)) ∧
    (w.reservedWord a = false → w.targets a = [] → w.storeWord by_ a v = (some sOk, w)))

/-- R519, R520, R523, R617: host sessions. A bridge takes SESSION_OPEN in two steps, and counts and drops one that it does not
admit: with SRC_SESS 0 only step 1 is, and with a session's number only from the address that the session is bound to. A
failed or malformed step 2, a challenge without step 2, an idle session and SESSION_CLOSE close one.
R523: a closed session is CLOSED, has no pending command, and keeps neither key nor challenge nor tags; other sessions keep
theirs.
Commands stated to complete: sessionOpen, sessionOpenTimeout, sessionIdleTimeout, sessionClose. -/
def Obligations.HostSessions : Prop :=
  ((∀ (s : State) (h : KHdr) (mac : Nat) (bs : List Byte), (Instr.sessionOpen h mac bs).wf = true →
     (s.work.rdB F.fabHostEn 0 0 = false → exec (.sessionOpen h mac bs) s = .next s) ∧
     (s.work.rdB F.fabHostEn 0 0 = true → h.cls = clsCtrl → h.typ = 1 →
       (s.work.admitsOpen h mac bs = false →
         exec (.sessionOpen h mac bs) s = .next (s.on fun w => w.bump F.fabStatAuthDrop 0 0)) ∧
       (s.work.admitsOpen h mac bs = true → leAt bs 0 1 = 1 →
         exec (.sessionOpen h mac bs) s = .next (s.on fun w => w.sessStep1 h mac bs)) ∧
       (leAt bs 0 1 = 2 → 1 ≤ h.srcSess → h.srcSess ≤ 4 → s.work.sessState (h.srcSess - 1) = ssChallenged →
         s.work.rd F.fabSessionMac 0 (h.srcSess - 1) = mac → leAt bs 1 7 ≠ h.srcSess - 1 ∨ bs.length ≠ 72 →
         exec (.sessionOpen h mac bs) s = .next (s.on fun w =>
           (w.sessRefuse h [sRange]).closeSession (h.srcSess - 1) sAuth)) ∧
       (leAt bs 0 1 = 2 → 1 ≤ h.srcSess → h.srcSess ≤ 4 → s.work.sessState (h.srcSess - 1) = ssChallenged →
         s.work.rd F.fabSessionMac 0 (h.srcSess - 1) = mac → leAt bs 1 7 = h.srcSess - 1 → bs.length = 72 →
         (smVerify (s.work.session (h.srcSess - 1)).key (bs.drop 8) (s.work.challengeMsg (h.srcSess - 1) mac) = true →
           exec (.sessionOpen h mac bs) s = .next (s.on fun w =>
             ((w.wr F.fabSessionOpenedTick 0 (h.srcSess - 1) w.tickNo).setSess (h.srcSess - 1) ssOpen sOk).hostReply h sOk [])) ∧
         (smVerify (s.work.session (h.srcSess - 1)).key (bs.drop 8) (s.work.challengeMsg (h.srcSess - 1) mac) = false →
           exec (.sessionOpen h mac bs) s = .next (s.on fun w =>
             (w.sessRefuse h [sAuth]).closeSession (h.srcSess - 1) sAuth))) ∧
       (s.work.admitsOpen h mac bs = true → leAt bs 0 1 ≠ 1 → leAt bs 0 1 ≠ 2 → exec (.sessionOpen h mac bs) s = .next (s.on fun w => w.sessRefuse h [sRange])))) ∧
   (∀ (s : State) (k : Nat), k < 4 →
     (s.work.sessState k = ssChallenged → exec (.sessionOpenTimeout k) s = .next (s.on fun w =>
       (w.bump F.secAttestSessionFail 0 0).closeSession k sAuth)) ∧
     (s.work.sessState k ≠ ssChallenged → exec (.sessionOpenTimeout k) s = .next s) ∧
     (s.work.sessState k = ssOpen → exec (.sessionIdleTimeout k) s = .next (s.on fun w => w.closeSession k sOk)) ∧
     (s.work.sessState k ≠ ssOpen → exec (.sessionIdleTimeout k) s = .next s)) ∧
   (∀ (w : Work) (h : KHdr) (mac : Nat) (bs : List Byte),
     (h.srcSess = 0 → (w.admitsOpen h mac bs = true ↔ leAt bs 0 1 = 1)) ∧ (4 < h.srcSess → w.admitsOpen h mac bs = false) ∧
     (1 ≤ h.srcSess → h.srcSess ≤ 4 → (w.admitsOpen h mac bs = true ↔
       w.sessState (h.srcSess - 1) = ssClosed ∨ w.rd F.fabSessionMac 0 (h.srcSess - 1) = mac))) ∧
   (∀ (s : State) (h : KHdr), h.wf = true → OrderHere 0x0D h s →
     (h.srcDev = s.work.deviceId → 1 ≤ h.srcSess → h.srcSess ≤ 4 → s.work.sessState (h.srcSess - 1) = ssOpen →
       exec (.sessionClose h) s = .next (s.on fun w => (w.ctrlDone h sOk []).closeSession (h.srcSess - 1) sOk)) ∧
     (h.srcDev ≠ s.work.deviceId ∨ h.srcSess = 0 ∨ 4 < h.srcSess ∨ s.work.sessState (h.srcSess - 1) ≠ ssOpen →
       exec (.sessionClose h) s = .next (s.on fun w => w.ctrlDone h sState [])))) ∧
  ∀ (w : Work) (k st : Nat), k < 4 →
    (w.closeSession k st).sessState k = ssClosed ∧ (w.closeSession k st).rd F.fabSessionPending 0 k = 0 ∧
    (w.closeSession k st).session k = ⟨[], [], []⟩ ∧
    ∀ j, j < 4 → j ≠ k → (w.closeSession k st).session j = w.session j ∧ (w.closeSession k st).sessState j = w.sessState j

/-- R521, R522, R584, R601: writes, responses and events that arrive. A host's write lies in the host window and is
acknowledged; a device's lies in HBM; a response or event for an open session goes out on the host port; a refused event
clears the subscription that it names.
Commands stated to complete: dataWrite, ctrlDone, event. -/
def Obligations.WritesResponsesAndEvents : Prop :=
  (∀ (s : State) (h : KHdr) (bs : List Byte) (a : Nat), (Instr.dataWrite h bs).wf = true → TakenHere 0 1 h s →
    a = leAt bs 0 8 → 8 ≤ bs.length → a < 2 ^ 52 →
    (h.srcSess ≠ 0 → s.work.devState ≠ stRest → s.work.dv F.fabHostWinBase ≤ a →
      a + (bs.length - 8) ≤ s.work.dv F.fabHostWinBase + s.work.dv F.fabHostWinLen → 0 < s.work.dv F.fabHostWinLen →
      exec (.dataWrite h bs) s = .next (s.on fun w =>
        (w.writeRange a (bs.drop 8)).2.writeAck h (w.writeRange a (bs.drop 8)).1)) ∧
    (h.srcSess ≠ 0 → s.work.devState = stRest → exec (.dataWrite h bs) s = .next (s.on fun w => w.writeAck h sState)) ∧
    (h.srcSess ≠ 0 → s.work.devState ≠ stRest → a < s.work.dv F.fabHostWinBase →
      exec (.dataWrite h bs) s = .next (s.on fun w => w.writeAck h sRange)) ∧
    (h.srcSess = 0 → s.work.devState ≠ stRest → regionOf a = .hbm → regionOf (a + (bs.length - 8) - 1) = .hbm →
      exec (.dataWrite h bs) s = .next (s.on fun w => (w.writeRange a (bs.drop 8)).2))) ∧
  (∀ (s : State) (h : KHdr) (bs : List Byte), (Instr.ctrlDone h bs).wf = true → TakenHere 2 1 h s →
    (leAt bs 0 8 = sState → bs.length = 12 → 1 ≤ h.srcSess →
      exec (.ctrlDone h bs) s = .next (s.on fun w => w.dropSub h.srcDev (h.srcSess - 1) (leAt bs 8 4))) ∧
    (leAt bs 0 8 ≠ sState → exec (.ctrlDone h bs) s = .next s)) ∧
  (∀ (s : State) (h : KHdr) (bs : List Byte), (Instr.event h bs).wf = true → h.cls = 3 → h.typ = 0x20 →
    s.work.isMirror = false → s.work.ownId h.dstDev = true → h.dstSess ≠ 0 →
    (s.work.sessState (h.dstSess - 1) = 2 →
      subTickFits (leAt bs 28 4) (s.work.rd F.fabSessionOpenedTick 0 (h.dstSess - 1)) = true →
      exec (.event h bs) s = .next (s.on fun w => w.enqueue (w.dv F.fabHostPort) ⟨h, bs⟩)) ∧
    (s.work.sessState (h.dstSess - 1) ≠ 2 → h.srcDev = s.work.deviceId →
      exec (.event h bs) s = .next (s.on fun w => w.dropSub w.deviceId (h.dstSess - 1) (leAt bs 28 4))))

/-- R293, R518: the plan commands. In a state that admits it PLAN_START, PLAN_STOP or PLAN_DRAIN is pending for the next tick
(a LOADED plan stops at once), and PLAN_LOAD loads the image that it names; in any other state the command is refused with
STATE_REJECT and counted.
Commands stated to complete: planLoad, planStart, planStop, planDrain. -/
def Obligations.PlanCommands : Prop :=
  ∀ (s : State) (h : KHdr) (bs : List Byte) (p : Nat) (w : Work), h.wf = true → bs.length = h.len → 1 ≤ bs.length →
    p = leAt bs 0 1 % 16 → s.work.resolve objPlan p 0 h = some w → (w.plan p).pending = 0 →
    (OrderHere 0x04 h s →
      (w.planState p = 1 ∨ w.planState p = 4 →
        exec (.planStart h bs) s = .next (s.on fun _ =>
          (w.setPlan p { w.plan p with pending := 1, reply := some h }).wr (F.dispPlanStatePending p) 0 0 1)) ∧
      (w.planState p ≠ 1 → w.planState p ≠ 4 → exec (.planStart h bs) s = .next (s.on fun _ => w.planRefuse h))) ∧
    (OrderHere 0x06 h s →
      (w.planState p = 2 → exec (.planDrain h bs) s = .next (s.on fun _ =>
        (w.setPlan p { w.plan p with pending := 2, reply := some h }).wr (F.dispPlanStatePending p) 0 0 1)) ∧
      (w.planState p ≠ 2 → exec (.planDrain h bs) s = .next (s.on fun _ => w.planRefuse h))) ∧
    (OrderHere 0x05 h s →
      (w.planState p = 1 → exec (.planStop h bs) s = .next (s.on fun _ =>
        (((w.setPlan p { w.plan p with standing := false }).setPlanState p 4 sOk).markControl w.tickNo ⟨h, bs⟩ []).ctrlDone h
          sOk [])) ∧
      (∀ k, (w.planState p, k) ∈ [(2, 3), (3, 4), (5, 4)] → exec (.planStop h bs) s = .next (s.on fun _ =>
        (w.setPlan p { w.plan p with pending := k, reply := some h }).wr (F.dispPlanStatePending p) 0 0 1)) ∧
      (w.planState p = 0 ∨ w.planState p = 4 → exec (.planStop h bs) s = .next (s.on fun _ => w.planRefuse h))) ∧
    (OrderHere 0x03 h s → w.devState ≠ stRest →
      (∀ img x, w.planState p ∈ [0, 1, 4] → fieldOf (ofBytes bs) 128 40 ≠ 0 →
        w.read (fieldOf (ofBytes bs) 64 52) (fieldOf (ofBytes bs) 128 40) = some img → w.loadImage p img = .inr x →
        exec (.planLoad h bs) s = .next (s.on fun _ => (x.markControl x.tickNo ⟨h, bs⟩ img).ctrlDone h sOk [])) ∧
      (∀ img fs, w.planState p ∈ [0, 1, 4] → fieldOf (ofBytes bs) 128 40 ≠ 0 →
        w.read (fieldOf (ofBytes bs) 64 52) (fieldOf (ofBytes bs) 128 40) = some img → w.loadImage p img = .inl fs →
        exec (.planLoad h bs) s = .next (s.on fun _ => (w.countFurther .mgmt fs).ctrlDone h (lowest fs) [])) ∧
      (w.planState p ∉ [0, 1, 4] → exec (.planLoad h bs) s = .next (s.on fun _ => w.planRefuse h)))

/-- R129 to R132, R157: a cellar command that fails a check completes at once with the lowest failure and touches nothing;
one that passes takes its effect on memory and is in flight with what its completion will carry: the lowest of what it met,
and DONE and RESULT that never pass COUNT. One that meets a bank being copied waits whole, and so does one whose issuer has
another waiting. A core or stream whose unit is full waits, and firmware's command then completes with OUT_FULL.
Commands stated to complete: scanFilter, probe, insert, histAdd, atomicRow, gatherSum, copy, fill. -/
def Obligations.CellarCommands : Prop :=
  ∀ (c : Issuer → Rec → Instr) (op : Nat),
    (c, op) ∈ [(Instr.scanFilter, 1), (Instr.probe, 2), (Instr.insert, 3), (Instr.histAdd, 4), (Instr.atomicRow, 5),
      (Instr.gatherSum, 6), (Instr.copy, 7), (Instr.fill, 8)] →
    ∀ (s : State) (iss : Issuer) (r : Rec), iss.wf = true → recF r 7 0 = op →
      let w := s.work.tapIssue iss
      let p := w.planOf iss
      let k := CelCmd.ofRec r
      let x : CmdWait := { iss := iss, r := r, plan := p, held := w.celHolds p r }
      let v : Work := { w.lend p x.held with holding := true }
      let flight := fun (st dn rs po : Nat) => (Flight.mk (issDie iss) iss p k.tag (resolveRecord iss k.comp) st dn rs po [] 0 0 0)
      (4096 ≤ s.work.celHeld (issDie iss) →
        ((∀ mc d, iss ≠ .firmware mc d) → exec (c iss r) s = .next s) ∧
        (∀ mc d, iss = .firmware mc d → exec (c iss r) s = .next (s.on fun y => y.finish
          (Flight.mk d iss firmwareTable k.tag (resolveRecord iss k.comp) sFull 0 0 0 [] 0 0 0)))) ∧
      (s.work.celHeld (issDie iss) < 4096 → s.work.tapRoom iss = true →
        (s.cellarWait.any (fun y => y.iss = iss) = true →
          exec (c iss r) s = .next (s.on fun _ => { w with cellarWait := w.cellarWait ++ [x] })) ∧
        (s.cellarWait.any (fun y => y.iss = iss) = false →
          (∀ fs, v.celCheck p k = .fails fs →
            exec (c iss r) s = .next (s.on fun _ =>
              { ((v.countFurther (.cellar (issDie iss)) fs).finish (flight (lowest fs) 0 0 0)).emitCommandDone iss (lowest fs)
                with slots := w.slots, holding := false })) ∧
          (∀ run, v.celCheck p k = .go run →
            let a := run v
            (a.held = true → exec (c iss r) s = .next (s.on fun _ => { w with cellarWait := w.cellarWait ++ [x] })) ∧
            (a.held = false →
              exec (c iss r) s = .next (s.on fun _ =>
                { a.settle iss p with
                  cellar := (a.settle iss p).cellar ++ [flight (lowest a.fails) a.done a.result (a.bad + a.lost)],
                  slots := w.slots, holding := false }) ∧
              a.done ≤ k.count ∧ a.result ≤ k.count))))

/-- R171, R172, R174, R183: a match command that fails a check completes at once with the lowest failure; one that passes is
in flight with what its completion will carry, and one for a table with a bank being copied, or whose issuer has another
waiting, waits. SEARCH_ONE answers the table's best entry; CONFIGURE clears its banks and counts their entries.
Commands stated to complete: search, searchOne, matchWrite, matchClear, matchRead, configure. -/
def Obligations.MatchCommands : Prop :=
  ∀ (c : Issuer → Rec → Instr) (op : Nat),
    (c, op) ∈ [(Instr.search, 0x21), (Instr.searchOne, 0x22), (Instr.matchWrite, 0x23), (Instr.matchClear, 0x24),
      (Instr.matchRead, 0x25), (Instr.configure, 0x26)] →
    ∀ (s : State) (iss : Issuer) (r : Rec), iss.wf = true → recF r 7 0 = op → s.work.tapRoom iss = true →
      s.work.matHeld (issDie iss) < 4096 →
      let w := s.work.tapIssue iss
      let k := MatCmd.ofRec r
      let p := w.planOf iss
      let x : CmdWait := { iss := iss, r := r, plan := p, held := w.hold p [k.src, k.dst] }
      let v : Work := { w.lend p x.held with holding := true }
      let fs := v.matCheck p k (v.desc p k.src) (v.desc p k.dst)
      let out := k.banks.any (fun b => (v.mbank k.die b).lost)
      (s.matchWait.any (fun y => y.iss = iss) = true →
        exec (c iss r) s = .next (s.on fun _ => { w with matchWait := w.matchWait ++ [x] })) ∧
      (s.matchWait.any (fun y => y.iss = iss) = false →
        (fs ≠ [] → exec (c iss r) s = .next (s.on fun _ =>
          { ((v.countFurther (.mtch (issDie iss)) fs).finish (Flight.mk (issDie iss) iss p k.tag (resolveRecord iss k.comp)
              (lowest fs) 0 0 0 (List.replicate 16 0) k.die k.first k.cnt)).emitCommandDone iss (lowest fs)
            with slots := w.slots, holding := false })) ∧
        (fs = [] → k.banks.any (fun b => (v.mbank k.die b).copying ≠ 0) = true →
          exec (c iss r) s = .next (s.on fun _ => { w with matchWait := w.matchWait ++ [x] })) ∧
        (fs = [] → k.banks.any (fun b => (v.mbank k.die b).copying ≠ 0) = false →
          (∀ src dst, v.desc p k.src = some src → v.desc p k.dst = some dst → op = 0x21 → (v.searchOp k src dst out).1.held = false) →
          (∀ src, v.desc p k.src = some src → op = 0x23 → (v.writeOp k src).held = false) →
          (∀ dst, v.desc p k.dst = some dst → op = 0x25 → (v.readOp k dst).1.held = false) →
          ∃ t f, exec (c iss r) s = .next t ∧ t.mtch = s.mtch ++ [f] ∧ f.iss = iss ∧ f.plan = p ∧ f.tag = k.tag ∧
            f.comp = resolveRecord iss k.comp ∧ f.done ≤ k.count ∧ (op ≠ 0x26 → f.result ≤ f.done) ∧
            (op ≠ 0x21 → op ≠ 0x25 → t.mem = s.mem) ∧
            (out = true → op ≠ 0x21 → f.status = sNoSpare ∧ f.done ≤ 1) ∧
            (op = 0x22 → out = false →
              f.extra = searchRecord (v.tableSearch k.die k.first k.cnt k.n k.key).2.1
                (v.tableSearch k.die k.first k.cnt k.n k.key).2.2.1 0) ∧
            (op = 0x26 → out = false → f.done = 1 ∧ f.result = k.cnt * (8192 / k.n) ∧ ∀ b ∈ k.banks,
              (t.work.mbank k.die b).rows = [] ∧ t.work.rd F.matchBankCfgWidth k.die b = k.width)))

/-- R164, R166, R167: the answer of a bank is a valid entry whose verify copy matches the key, and no other valid entry whose
array matches and whose copy is good and verifies has a higher priority, or an equal one at a lower address; a bank that
answers nothing has no such entry. -/
def Obligations.SearchAnswersTheBestEntry : Prop :=
  ∀ (b : MBank) (n base : Nat) (key : List Nat), n ∈ [1, 2, 4] → smWf MRow.atReset b.rows = true →
    (∀ h, (b.search n base key).hit = some h → ∃ e, h.maddr = base + n * e ∧ (b.row (n * e)).valid = true ∧
      b.verifies n e key = true ∧ b.entryUe n e = false ∧ h.prio = (b.row (n * e)).prio ∧ h.result = (b.row (n * e)).result ∧
      ∀ x, b.matches n x key = true → b.entryUe n x = false → b.verifies n x key = true →
        (b.row (n * x)).prio < h.prio ∨ ((b.row (n * x)).prio = h.prio ∧ h.maddr ≤ base + n * x)) ∧
    ((b.search n base key).hit = none → ∀ x, b.matches n x key = true → b.entryUe n x = false → b.verifies n x key = false)

/-- R130, R154, R157 to R159: a cellar command's completion writes its record and takes it out of flight; the scrubber
counts a corrected row, and marks an uncorrectable one as reading zeros; a bank fenced for a cause that holds is copied to a
spare that no other copy has set aside, or is lost and the die DEGRADED; at the end of the copy the bank is as new on the
next spare, and what waited for it goes on.
R178, R182 to R185: a match command's completion; what the scrubber does to a row of a bank; a match bank fenced and
copied to a spare.
Commands stated to complete: cellarCompletion, cellarScrub, dataBankFence, bankFenceCopyDone, matchCompletion, matchScrub, matchBankFence, matchFenceCopyDone. -/
def Obligations.BankMaintenance : Prop :=
  (∀ (s : State) (d b row : Nat), d < 4 → b < 1024 → row < 32768 →
     (∀ k f rest, takeFlight s.work.cellar d k = some (f, rest) → exec (.cellarCompletion d k) s =
       .next (s.on fun w => (({ w with cellar := rest }).finish f).emitCommandDone f.iss f.status)) ∧
     (row ≠ 0 → exec (.cellarScrub d b row .clean) s = .next s) ∧
     (row ≠ 0 → ∃ t, exec (.cellarScrub d b row .corrected) s = .next t ∧ (t.work.bank d b).ce = (s.work.bank d b).ce + 1 ∧
       t.work.bad = s.work.bad ∧ t.mem = s.mem ∧
       t.work.rd F.celErrCeCount d 0 = (s.work.rd F.celErrCeCount d 0 + 1) % 2 ^ F.celErrCeCount.w) ∧
     (s.work.isBad (cellarOf d + row * 65536 + b * 64) = false →
       ∃ t, exec (.cellarScrub d b row .uncorrectable) s = .next t ∧ t.mem = s.mem ∧
         (∀ k, t.work.isBad k = true ↔ s.work.isBad k = true ∨ k / 64 = (cellarOf d + row * 65536 + b * 64) / 64) ∧
         (∀ n, n ∈ (t.work.bank d b).ueRows ↔ n ∈ (s.work.bank d b).ueRows ∨ n = row)) ∧
     (∀ cause, (cause = 1 ∧ 2 ≤ (s.work.bank d b).ueRows.length) ∨
         (cause = 2 ∧ s.work.rd F.celScrubCeLimit d 0 ≠ 0 ∧ s.work.rd F.celScrubCeLimit d 0 < (s.work.bank d b).ce) ∨
         cause = 3 → (s.work.bank d b).lost = false → (s.work.bank d b).copying = 0 →
       ∃ t, exec (.dataBankFence d b cause) s = .next t ∧ t.mem = s.mem ∧
         (s.work.banksCopying d < (s.work.spareList kBank d).length →
           (t.work.bank d b).copying = cause ∧ ∃ bs, t = { s with dataBanks := bs }) ∧
         ((s.work.spareList kBank d).length ≤ s.work.banksCopying d → (t.work.bank d b).lost = true ∧
           t.work.rdB F.sprMapDegraded d 0 = true)) ∧
     ((s.work.bank d b).copying = 0 → exec (.bankFenceCopyDone d b) s = .next s) ∧
     ((s.work.bank d b).copying ≠ 0 → s.work.spareList kBank d ≠ [] →
       exec (.bankFenceCopyDone d b) s = .next (s.on fun w =>
         (((w.setBank d b Bank.atReset).fenceToSpare kBank d b (w.bank d b).copying 0).bump F.celErrFenced d
           0).celResume.matResume)) ∧
     (∀ sp rest, (s.work.bank d b).copying ≠ 0 → s.work.spareList kBank d = sp :: rest →
       s.cellarWait = [] → s.matchWait = [] →
       ∃ t, exec (.bankFenceCopyDone d b) s = .next t ∧ t.mem = s.mem ∧ t.work.bank d b = Bank.atReset ∧
         t.work.physical kBank d b = sp ∧ t.work.spareList kBank d = rest)) ∧
  ∀ (s : State) (d b row : Nat), d < 4 → b < 128 → row < 8192 →
    (∀ k f rest, takeFlight s.work.mtch d k = some (f, rest) → exec (.matchCompletion d k) s =
      .next (s.on fun w => (({ w with mtch := rest }).finish f).emitCommandDone f.iss f.status)) ∧
    (∀ found, row ≠ 0 → found ≠ .uncorrectable →
      let x := (s.work.mbank d b).row row
      (found = .clean ∧ x.key = x.vkey ∧ x.care = x.vcare ∧ x.par = x.parity → ∃ bs, exec (.matchScrub d b row found) s =
        .next { s with matchBanks := bs } ∧ smGet MBank.atReset bs (d * 128 + b) = s.work.mbank d b) ∧
      (found = .corrected ∨ x.key ≠ x.vkey ∨ x.care ≠ x.vcare ∨ x.par ≠ x.parity →
        ∃ t, exec (.matchScrub d b row found) s = .next t ∧ t.mem = s.mem ∧
          (∃ pb, (t.work.mbank d b).row row = { x with key := x.vkey, care := x.vcare, par := pb }) ∧
          ((t.work.mbank d b).row row).par = ((t.work.mbank d b).row row).parity ∧
          (t.work.mbank d b).fixes = (s.work.mbank d b).fixes + 1 ∧
          t.work.rd F.matchErrScrubFix d 0 = (s.work.rd F.matchErrScrubFix d 0 + 1) % 2 ^ F.matchErrScrubFix.w)) ∧
    (((s.work.mbank d b).row row).ue = false →
      ∃ t, exec (.matchScrub d b row .uncorrectable) s = .next t ∧ t.mem = s.mem ∧ ((t.work.mbank d b).row row).ue = true ∧
        ∀ n, n ∈ (t.work.mbank d b).ueRows ↔ n ∈ (s.work.mbank d b).ueRows ∨ n = row) ∧
    (∀ cause, (cause = 1 ∧ 2 ≤ (s.work.mbank d b).ueRows.length) ∨ (cause = 2 ∧ s.work.rd F.matchScrubCeLimit d 0 ≠ 0 ∧
        s.work.rd F.matchScrubCeLimit d 0 < (s.work.mbank d b).fixes) ∨ cause = 3 →
      exec (.matchBankFence d b cause) s = .next (s.on fun w => w.fenceMatchBank d b cause)) ∧
    ((s.work.mbank d b).copying = 0 → exec (.matchFenceCopyDone d b) s = .next s) ∧
    (∀ sp rest, (s.work.mbank d b).copying ≠ 0 → s.work.spareList kMatch d = sp :: rest → s.matchWait = [] →
      ∃ t, exec (.matchFenceCopyDone d b) s = .next t ∧ t.mem = s.mem ∧ t.work.physical kMatch d b = sp ∧
        t.work.spareList kMatch d = rest ∧ (t.work.mbank d b).copying = 0 ∧ (t.work.mbank d b).ueRows = [] ∧
        (t.work.mbank d b).staged = (s.work.mbank d b).staged.drop (s.work.mbank d b).due)

/-- R189, R194 to R208: a matrix engine's command whose checks all pass has its effect and the engine moves to its next
command. WLOAD loads the tile with the operand's elements, MAC works on the accumulator that it names and on no other,
STORE writes the accumulator to its destination, CBLOAD loads code-book slots; none but STORE writes memory. With RING set
the elements addressed lie in the current buffer. What the check bits show is clean here.
R194, R195, R209 to R211: an engine in a ring without a fenced member begins to rotate; without a ring the command fails
with STATE_REJECT, and with a fenced member it fails with UNIT_FENCED; the rest of the list is then skipped; at END the engine is idle with the lowest failure met.
R193, R210: the end of a transfer in a ring copies the engine's current buffer into its successor's other one, a word
that is uncorrectable as zeros, and changes no other byte; an engine that has both sent and received flips its buffers and goes on, and one that still waits only notes
that it has sent.
Commands stated to complete: wload, mac, store, cbload, rotate, ringTransferDone, meEnd. -/
def Obligations.MatrixCommands : Prop :=
  (∀ (s : State) (d m : Nat) (r : Rec), d < 4 → m < 24 → (∀ e ∈ s.work.nextFound, e.2 = .clean) →
     (s.work.me d m).running = true → (s.work.me d m).skip = false → (s.work.me d m).rotating = false →
     s.work.meNext d m = some r → s.work.meListBad d m = [] →
     let c := MeCmd.ofRec r
     c.reservedZero = true → s.work.ringFails d m c = [] →
     (recF r 7 0 = 0x41 →
       ∀ y sc, s.work.meOperand d m c.src false c.ring = (some y, []) → s.work.meScale d m y c.srcScale false c.ring = (sc, []) →
         y.tileShape = true → getAt 0 y.size 0 ≤ (y.ty.getD .bitmap).wLimit → getAt 0 y.size 1 ≤ 128 →
         s.work.rectIn d m c.ring y 0 (getAt 0 y.size 0) 0 (getAt 0 y.size 1) = true →
         (∀ x, sc = some x → s.work.rectIn d m c.ring x 0 (getAt 0 y.size 0 / 32) 0 (getAt 0 y.size 1) = true) →
         ∃ t tile, exec (.wload d m) s = .next t ∧ t.mem = s.mem ∧ (t.work.me d m).tile = some tile ∧
           (t.work.me d m).pc = (s.work.me d m).pc + 64 ∧ (t.work.me d m).acc = (s.work.me d m).acc ∧
           tile.ty = recF (s.work.slot (s.work.mePlan d m) c.src).desc 59 55 ∧ tile.k = getAt 0 y.size 0 ∧ tile.n = getAt 0 y.size 1 ∧
           ∀ i j, i < tile.k → j < tile.n → getAt 0 tile.codes (j * tile.k + i) = s.work.elem2 y i j) ∧
     (recF r 7 0 = 0x42 → 1 ≤ c.m → c.m ≤ 128 →
       ∀ y sc tile cl, s.work.meOperand d m c.src false c.ring = (some y, []) →
         s.work.meScale d m y c.srcScale false c.ring = (sc, []) → (s.work.me d m).tile = some tile →
         meClass (y.ty.getD .bitmap) ((ETy.ofCode tile.ty).getD .bitmap) = some cl → y.tileShape = true → tile.k ≤ cl.limit →
         tile.n ≤ 128 → c.col0 + tile.k ≤ getAt 0 y.size 0 → c.row0 + c.m ≤ getAt 0 y.size 1 →
         ((y.ty.getD .bitmap).isMx = true ∨ ((ETy.ofCode tile.ty).getD .bitmap).isMx = true → c.col0 % 32 = 0 ∧ tile.k % 32 = 0) →
         (c.clear = true ∨ s.work.rd (accField c.acc) d m = if cl.flt then 1 else 2) →
         ((y.ty.getD .bitmap).bookSlots = 0 ∨ c.cb + (c.col0 + tile.k) * (y.ty.getD .bitmap).bookSlots ≤ 4096) →
         s.work.rectIn d m c.ring y c.col0 tile.k c.row0 c.m = true →
         (∀ x, sc = some x → s.work.rectIn d m c.ring x (c.col0 / 32) (tile.k / 32) c.row0 c.m = true) →
         ∃ t, exec (.mac d m) s = .next t ∧ t.mem = s.mem ∧ (t.work.me d m).pc = (s.work.me d m).pc + 64 ∧
           t.work.rd (accField c.acc) d m = (if cl.flt then 1 else 2) ∧ (t.work.me d m).tile = some tile ∧
           (∀ k, k / 16384 ≠ c.acc → smGet 0 (t.work.me d m).acc k = smGet 0 (s.work.me d m).acc k) ∧
           t = s.on fun w => ((w.macRun d m c cl (y.ty.getD .bitmap) ((ETy.ofCode tile.ty).getD .bitmap) y sc tile).meStep d m).dropFound) ∧
     (recF r 7 0 = 0x43 → 1 ≤ c.m → c.m ≤ 128 → 1 ≤ c.n → c.n ≤ 128 → c.satSel < 3 → c.srSel < 3 →
       s.work.rd (accField c.acc) d m ≠ 0 →
       ∀ y sc cs cb, s.work.meOperand d m c.dst true false = (some y, []) → s.work.meScale d m y c.dstScale true false = (sc, []) →
         s.work.meColumn d m c.colScale c.n = (cs, []) → s.work.meColumn d m c.colBias c.n = (cb, []) → c.storeFits y = true →
         exec (.store d m) s = .next (s.on fun w => ((w.storeRun d m c y sc cs cb).meStep d m).dropFound)) ∧
     (recF r 7 0 = 0x44 → 1 ≤ c.m → c.cb + c.m ≤ 4096 →
       ∀ y, s.work.meOperand d m c.src false false = (some y, []) → y.ty = some .uint8 → 32 * c.m ≤ y.count →
         ∃ t, exec (.cbload d m) s = .next t ∧ t.mem = s.mem ∧ (t.work.me d m).pc = (s.work.me d m).pc + 64 ∧
           (t.work.me d m).book = ((s.work.me d m).loadBook c.cb (s.work.descBytes y 0 (32 * c.m))).book ∧
           (t.work.me d m).acc = (s.work.me d m).acc ∧ (t.work.me d m).tile = (s.work.me d m).tile ∧
           ∀ k, (k < c.cb * 16 ∨ (c.cb + c.m) * 16 ≤ k) → smGet 0 (t.work.me d m).book k = smGet 0 (s.work.me d m).book k)) ∧
  (∀ (s : State) (d m : Nat) (r : Rec), d < 4 → m < 24 →
     (s.work.me d m).running = true → s.work.meNext d m = some r → s.work.meListBad d m = [] →
     ((s.work.me d m).skip = false → (s.work.me d m).rotating = false → recF r 7 0 = 0x45 → (MeCmd.ofRec r).reservedZero = true →
       (s.work.rdB F.meRingEn d m = true → s.work.ringFenced d m = false →
         ∃ ms, exec (.rotate d m) s = .next { s with mes := ms } ∧
           smGet Me.atReset ms (d * 24 + m) = { s.work.me d m with rotating := true }) ∧
       (s.work.rdB F.meRingEn d m = false →
         ∃ ms, exec (.rotate d m) s = .next { s with mes := ms } ∧ smGet Me.atReset ms (d * 24 + m) =
           { s.work.me d m with skip := true, fails := (s.work.me d m).fails ++ [sState] }) ∧
       (s.work.rdB F.meRingEn d m = true → s.work.ringFenced d m = true →
         ∃ ms, exec (.rotate d m) s = .next { s with mes := ms } ∧ smGet Me.atReset ms (d * 24 + m) =
           { s.work.me d m with skip := true, fails := (s.work.me d m).fails ++ [sFenced] })) ∧
     ((s.work.me d m).rotating = false → (s.work.me d m).skip = true ∨ (recF r 7 0 = 0x46 ∧
         (MeCmd.ofRec r).reservedZero = true ∧ s.work.ringFails d m (MeCmd.ofRec r) = []) →
       ∃ ms, exec (.meEnd d m) s = .next { s with mes := ms } ∧ smGet Me.atReset ms (d * 24 + m) =
         { s.work.me d m with running := false, skip := false, fails := [], ended := some (lowest (s.work.me d m).fails) })) ∧
  ∀ (s : State) (d m : Nat), d < 4 → m < 24 → MemInv s →
    let sd := s.work.rd F.meRingNextDie d m
    let sm := s.work.rd F.meRingNextMe d m
    (s.work.me d m).running = true → (s.work.me d m).rotating = true → (s.work.me d m).sent = false →
    (s.work.me sd sm).granted = true → (s.work.me sd sm).got = false → sd * 24 + sm ≠ d * 24 + m →
    let src := s.work.ringBuf d m (s.work.rd F.meStatusRingCur d m)
    let dst := s.work.ringBuf sd sm (1 - s.work.rd F.meStatusRingCur sd sm)
    let n := 16 * s.work.rd F.meRingBufLen16 d m
    src % 16 = 0 → dst % 16 = 0 →
    ∃ t, exec (.ringTransferDone d m) s = .next t ∧
      (∀ i, i < n → Memory.get t.mem (dst + i) = if (src + i) / 16 ∈ s.work.badWords then 0 else Memory.get s.mem (src + i)) ∧
      (∀ a, inRange dst n a = false → Memory.get t.mem a = Memory.get s.mem a) ∧
      ((s.work.me d m).got = false → (t.work.me d m).sent = true ∧ (t.work.me d m).rotating = true ∧
        (t.work.me d m).pc = (s.work.me d m).pc) ∧
      ((s.work.me d m).got = true → (t.work.me d m).rotating = false ∧ (t.work.me d m).pc = (s.work.me d m).pc + 64 ∧
        t.work.rd F.meStatusRingCur d m = 1 - s.work.rd F.meStatusRingCur d m ∧
        t.work.rd F.meStatusRingSteps d m = (s.work.rd F.meStatusRingSteps d m + 1) % 2 ^ F.meStatusRingSteps.w)

/-- R212 to R214: a partial state joins its group; the one that completes the group gives the entity's result, visible two
epochs later; one that comes late, or twice, only counts in LATE. A partial that this device has computed for an entity at
home on another one waits for the tick. At the end of an epoch the partials of earlier epochs
are combined, however many there are, and none is kept.
Commands stated to complete: histPartial, histCombineDeadline. -/
def Obligations.HistoryPartials : Prop :=
  (∀ (s : State) (d : Nat) (h : KHdr) (bs : List Byte) (p : HPart), (Instr.histPartial d h bs).wf = true → h.cls = clsData →
    h.typ = 3 → h.tick ≠ 0 → s.work.devState ≠ stRest → HPart.ofBytes (h.tick - 1) bs = some p →
    ¬(h.srcDev = s.work.deviceId ∧ h.dstDev ≠ s.work.deviceId) →
    let x := s.work.hist d
    let late := p.epoch + 1 < s.work.tickNo ∨ p.epoch < x.closed ∨ (∃ q ∈ x.group p, q.stretch = p.stretch) ∨
      ∃ r ∈ x.results, r.entity = p.entity ∧ r.encoder = p.encoder ∧ p.epoch ≤ r.epoch
    (late → exec (.histPartial d h bs) s = .next (s.on fun w => w.bump F.meHistLate d 0)) ∧
    (¬late → (x.group p).length + 1 ≠ p.stretches → ∃ t, exec (.histPartial d h bs) s = .next t ∧ t.mem = s.mem ∧
      t.work.hist d = { x with parts := x.parts ++ [p] } ∧ t.regs = s.regs) ∧
    (¬late → (x.group p).length + 1 = p.stretches → ∃ t r, exec (.histPartial d h bs) s = .next t ∧ t.mem = s.mem ∧
      r ∈ (t.work.hist d).results ∧ r.entity = p.entity ∧ r.encoder = p.encoder ∧ r.epoch = p.epoch ∧ r.count = p.stretches ∧
      r.visible = p.epoch + 2 ∧ (t.work.hist d).group p = [])) ∧
  (∀ (s : State) (d : Nat) (h : KHdr) (bs : List Byte) (p : HPart), (Instr.histPartial d h bs).wf = true →
    h.srcDev = s.work.deviceId → h.dstDev ≠ s.work.deviceId → HPart.ofBytes s.work.tickNo bs = some p →
    exec (.histPartial d h bs) s = .next { s with
      hists := smSet Hist.atReset s.hists d { s.work.hist d with own := (s.work.hist d).own ++ [(h.dstDev, h.flow, bs)] } }) ∧
  (∀ (s : State) (d : Nat), d < 4 → ∃ t, exec (.histCombineDeadline d) s = .next t ∧ t.mem = s.mem ∧
    (t.work.hist d).closed = max (s.work.hist d).closed s.work.tickNo ∧
    ∀ p, p ∈ (t.work.hist d).parts ↔ p ∈ (s.work.hist d).parts ∧ s.work.tickNo ≤ p.epoch)

/-- R230, R232: `vh64.v` hashes every active element of the body, leaves every other element of the destination as it was, but
for its tail under an agnostic policy, each element of which may become all ones, and retires; an element width or register
group that is not permitted, or v0 as destination or source of a masked form, traps.
R230, R232, R234, R236 to R238: the other vector forms of the Oxene instructions, where the vector state permits them:
each writes its destination, makes vstart zero and retires; elements before vstart, and masked-off ones, are as they were,
and tail elements follow the tail policy. `vargmax` writes the first position of the greatest valid active element, and
`vqpack` the nibbles, those that saturate counted.
Commands stated to complete: vh64V, vh64Vs, vbkt, vbitonic, vargmax, vqpack. -/
def Obligations.VectorForms : Prop :=
  (∀ (s : State) (d g vd vs2 : Nat) (vm : Bool), d < 4 → g < 96 → vd < 32 → vs2 < 32 → s.work.coreRuns d g = true →
     let c := s.work.core d g
     (c.vLegal [64] [vd, vs2] = true → maskOk vm vd vs2 = true → c.vl ≤ 8 * c.group →
       ∃ t, exec (.vh64V d g vd vs2 vm) s = .next t ∧ (∃ cs n, t = { s with cores := cs, free := n }) ∧
         (∀ e k, (e, k) ≠ (d, g) → e < 4 → k < 96 → t.work.core e k = s.work.core e k) ∧
         (t.work.core d g).pc = (c.pc + 4) % 2 ^ 64 ∧ (t.work.core d g).vstart = 0 ∧ (t.work.core d g).x = c.x ∧
         (∀ i, i < 8 * c.group → (i < c.vl ∨ bitOf c.vtype 6 = false) → (t.work.core d g).vElem vd 64 i =
           if c.vstart ≤ i ∧ i < c.vl ∧ c.active vm i = true then vh64Word c.vhseed (c.vElem vs2 64 i) else c.vElem vd 64 i) ∧
         (∀ i, i < 8 * c.group → c.vl ≤ i →
           (t.work.core d g).vElem vd 64 i = c.vElem vd 64 i ∨ (t.work.core d g).vElem vd 64 i = 2 ^ 64 - 1) ∧
         ∀ q, q < 32 → q < vd ∨ vd + c.group ≤ q → (t.work.core d g).getV q = c.getV q) ∧
     (c.vLegal [64] [vd, vs2] = false ∨ maskOk vm vd vs2 = false → exec (.vh64V d g vd vs2 vm) s =
       .next (s.on fun w => w.trap d g (trapIllegal (oxVector custom0 0 0 vm vs2 0 vd))))) ∧
  ∀ (s : State) (d g vd vs2 rs1 : Nat) (vm : Bool), d < 4 → g < 96 → vd < 32 → vs2 < 32 → rs1 < 32 → s.work.coreRuns d g = true →
    let c := s.work.core d g
    let goes := fun (i : Instr) (k : Core) (n : Nat) => exec i s = .next (s.on fun w => w.vDone d g c k vd n)
    (∀ k, c.vLegal [64] [vd, vs2] = true → maskOk vm vd vs2 = true →
      (∀ i ∈ c.body, c.active vm i = true → c.vElem vs2 64 i < 2 ^ 63) →
      s.work.vhStrings d g c vs2 (c.body.filter (fun i => c.active vm i)) c vd = .inl k → goes (.vh64Vs d g vd vs2 vm) k 64) ∧
    (∀ (nan wide flt : Bool) a bs own, c.vLegal [if flt then 32 else 64] [vd, vs2] = true → maskOk vm vd vs2 = true →
      s.work.localBytes d g (c.getX rs1) ((if wide then 256 else 16) * (if flt then 4 else 8)) 64 = .bytes a bs own →
      goes (.vbkt d g nan wide flt vd vs2 rs1 vm) (c.body.foldl (fun (k : Core) i =>
        k.setVElem vd (if flt then 32 else 64) i (quantile (if wide then 255 else 15) nan
          ((List.range (if wide then 255 else 15)).map (fun j => bktVal flt (leAt bs (j * (if flt then 4 else 8)) (if flt then 4 else 8))))
          (!c.active vm i) (bktVal flt (c.vElem vs2 (if flt then 32 else 64) i)))) c) (if flt then 32 else 64)) ∧
    (let x := c.getX rs1;
      c.vLegal [32, 64] [vd, vs2] = true → vd ≠ vs2 → fieldOf x 0 4 ≤ 8 → fieldOf x 0 4 < fieldOf x 4 4 → fieldOf x 4 4 ≤ 9 →
      fieldOf x 8 2 < 3 → fieldOf x 11 53 = 0 →
      let k := c.body.foldl (fun (k : Core) i => k.exchange (fieldOf x 8 2) c.sew
        (2 ^ fieldOf x 0 4) (2 ^ fieldOf x 4 4) (bitOf x 10) vd vs2 i) c
      (bitOf c.vtype 6 = false → exec (.vbitonic d g vd vs2 rs1) s = .next (s.on fun w => w.setCore d g k.vRetire)) ∧
      (bitOf c.vtype 6 = true → ∃ y z, exec (.vbitonic d g vd vs2 rs1) s = .next (s.on fun w =>
        { w.setCore d g (c.agnostic (c.agnostic k vs2 c.sew c.group c.vl true y) vd c.sew c.group c.vl true z).vRetire
          with free := w.free + 2 }))) ∧
    (∀ tt rd, tt < 3 → rd < 32 → c.vLegal (if tt = 2 then [16, 32, 64] else [8, 16, 32, 64]) [vs2] = true →
      (vm = true ∨ vs2 ≠ 0) →
      ∃ t, exec (.vargmax d g tt rd vs2 vm) s = .next t ∧ t = s.on (fun w => w.setCore d g ((c.setX rd
        ((argmaxOf tt c.sew (c.vElem vs2 c.sew) (c.body.filter (fun i => c.active vm i))).getD absent64)).vRetire)) ∧
        ∀ i, rd ≠ 0 → argmaxOf tt c.sew (c.vElem vs2 c.sew) (c.body.filter (fun j => c.active vm j)) = some i →
          i < 2 ^ 64 → (t.work.core d g).getX rd = i ∧ c.active vm i = true ∧ i < c.vl ∧
          ∀ j ∈ c.body, c.active vm j = true → (tt = 2 → (fltOfWidth c.sew (c.vElem vs2 c.sew j)).isNan = false) →
            keyAfter tt c.sew (c.vElem vs2 c.sew j) (c.vElem vs2 c.sew i) = false) ∧
    (∀ sgn, c.vLegal [8, 16, 32, 64] [vd, vs2] = true → vd + c.group ≤ vs2 ∨ vs2 + c.group ≤ vd → c.vl ≤ 128 * c.group →
      let vals := (List.range c.vl).map (fun i => if i < c.vstart then 0 else c.vElem vs2 c.sew i)
      ∃ t, exec (.vqpack d g sgn vd vs2) s = .next t ∧
        t = s.on (fun w => (w.setCore d g (t.work.core d g)).countSat (.gc d g) (packNibbles sgn c.sew vals).2) ∧
        (t.work.core d g).vstart = 0 ∧ (t.work.core d g).pc = (c.pc + 4) % 2 ^ 64 ∧
        (∀ i, i < 128 * c.group → (t.work.core d g).vElem vd 4 i =
          if i < c.vstart then c.vElem vd 4 i else getAt 0 (packNibbles sgn c.sew vals).1 i) ∧
        ∀ q, q < 32 → q < vd ∨ vd + c.group ≤ q → (t.work.core d g).getV q = c.getV q)

/-- R232, R233, R239: the scalar forms. A string of any length that the core may read is hashed or summed into rd, x0 staying
zero; a tap-path request is read from the core's own local memory and issued, and rd is the number of requests before it
plus one. With 64 requests outstanding, or a full unit, the core waits.
R218, R226, R227: a trap ends the core's task: the core leaves user mode, its runtime registers and GC_TRAP say what was
met and where, the task's status is the row's of R226, and its plan becomes FAULTED at the next tick, but for an
uncorrectable word. `wfi` waits while a request of the core is outstanding. `ebreak` halts the core under a debugger.
Commands stated to complete: vh64M, crc32cM, vtapTransfer, vtapCellar, vtapMatch, wfi, userTrap, ebreakHalt. -/
def Obligations.ScalarFormsAndTraps : Prop :=
  (∀ (s : State) (d g rd rs1 rs2 : Nat), d < 4 → g < 96 → rd < 32 → rs1 < 32 → rs2 < 32 → s.work.coreRuns d g = true →
     let c := s.work.core d g
     (∀ a bs own, s.work.loadBytes d g (c.getX rs1) (c.getX rs2) 1 4 = .bytes a bs own →
       (c.getX rs2 < 2 ^ 31 → exec (.vh64M d g rd rs1 rs2) s =
         .next (s.on fun w => w.setCore d g ((c.setX rd (vh64 c.vhseed bs)).retire 4))) ∧
       exec (.crc32cM d g rd rs1 rs2) s = .next (s.on fun w => w.setCore d g ((c.setX rd (crc32c bs)).retire 4))) ∧
     (∀ a bs own, c.tapout < 64 → s.work.localBytes d g (c.getX rs1) 64 64 = .bytes a bs own →
       let r : Rec := BitVec.ofNat 512 (ofBytes bs)
       let taken := fun (w : Work) => w.setCore d g ((c.setX rd (c.tapout + 1)).retire 4)
       exec (.vtapTransfer d g rd rs1) s = .next (s.on fun w => (taken w).strmIssue (.core d g) r) ∧
       (s.work.celHeld d < 4096 → exec (.vtapCellar d g rd rs1) s = .next (s.on fun w => (taken w).celIssue (.core d g) r)) ∧
       (s.work.matHeld d < 4096 → exec (.vtapMatch d g rd rs1) s = .next (s.on fun w => (taken w).matIssue (.core d g) r))) ∧
     (64 ≤ c.tapout → exec (.vtapTransfer d g rd rs1) s = .next s ∧ exec (.vtapCellar d g rd rs1) s = .next s ∧
       exec (.vtapMatch d g rd rs1) s = .next s) ∧
     ∀ v, (c.setX rd v).getX rd = if rd = 0 then 0 else v % 2 ^ 64) ∧
  ∀ (s : State) (d g : Nat), d < 4 → g < 96 →
    let c := s.work.core d g
    (∀ (cause : Nat) (val : BitVec 64) (ue un : Bool), c.user = true →
      ∃ t, exec (.userTrap d g cause val ue un) s = .next t ∧ t.mem = s.mem ∧
        (t.work.core d g).user = false ∧ (t.work.core d g).mcause = cause % 64 ∧ (t.work.core d g).mepc = c.pc ∧
        (t.work.core d g).mtval = val.toNat ∧ (t.work.core d g).resv = none ∧ (t.work.core d g).x = c.x ∧
        (t.work.core d g).ended = some (if ue then sCheck else if un then sUnmapped else sRange) ∧
        t.work.rd F.gcTrapCause d g = cause % 64 % 2 ^ F.gcTrapCause.w ∧ t.work.rdB F.gcTrapValid d g = true ∧
        t.work.rdB F.gcTrapUe d g = ue ∧ t.work.rd F.gcTrapPcPc d g = c.pc % 2 ^ F.gcTrapPcPc.w ∧
        t.work.rd F.gcTrapValVal d g = val.toNat % 2 ^ F.gcTrapValVal.w ∧
        (ue = true → t.plans = s.plans) ∧
        (ue = false → s.work.planOf (.core d g) < 16 → (s.work.plan (s.work.planOf (.core d g))).faulting = 0 →
          (t.work.plan (s.work.planOf (.core d g))).faulting = if un then sUnmapped else sRange)) ∧
    (s.work.coreRuns d g = true →
      (exec (.wfi d g) s = .next (s.on fun w => w.setCore d g
        (if c.tapout = 0 then c.retire 4 else { c.retire 4 with wait := .wfi }))) ∧
      (s.work.modl.dbg = true → exec (.ebreakHalt d g) s =
        .next (s.on fun w => (w.setCore d g { c with halted := true }).wr F.gcStatusHalted d g 1)) ∧
      (s.work.modl.dbg = false → exec (.ebreakHalt d g) s = .next (s.on fun w => w.trap d g { cause := 3, val := c.pc }))) ∧
    (s.work.coreRuns d g = false → exec (.wfi d g) s = .next s ∧ exec (.ebreakHalt d g) s = .next s ∧
      exec (.rv64gcInstruction d g) s = .next s)

/-- R68, R215, R225: a core executes the instruction at its program counter: a word of 32 bits or a 16-bit code, fetched from
its plan's code region; the integer operations write rd, x0 staying zero, and move to the next instruction; a program
counter outside the code region, or a code that is no instruction, traps. What the check bits show is clean here.
Commands stated to complete: rv64gcInstruction. -/
def Obligations.CoreInstructions : Prop :=
  ∀ (s : State) (d g : Nat), d < 4 → g < 96 → (∀ e ∈ s.work.nextFound, e.2 = .clean) → s.work.coreRuns d g = true →
    let c := s.work.core d g
    (∀ t, s.work.fetchHalf d g c.pc = .inr t → exec (.rv64gcInstruction d g) s = .next (s.on fun w => (w.trap d g t).dropFound)) ∧
    (∀ h w i, s.work.fetchHalf d g c.pc = .inl (h, w) → h % 4 ≠ 3 → expandC h = some i →
      exec (.rv64gcInstruction d g) s = .next (s.on fun _ => (w.execWord d g i 2).dropFound)) ∧
    (∀ h w, s.work.fetchHalf d g c.pc = .inl (h, w) → h % 4 ≠ 3 → expandC h = none →
      exec (.rv64gcInstruction d g) s = .next (s.on fun _ => (w.trap d g (trapIllegal h)).dropFound)) ∧
    (∀ h w k v, s.work.fetchHalf d g c.pc = .inl (h, w) → h % 4 = 3 → w.fetchHalf d g (c.pc + 2) = .inl (k, v) →
      let i := h + k * 65536
      let integer := if i % 128 = 0x13 then c.opImm i else if i % 128 = 0x33 then c.opReg i else
        if i % 128 = 0x1B then c.opImm32 i else if i % 128 = 0x3B then c.opReg32 i else
        if i % 128 = 0x37 then some (wrapTo 64 (immU i)) else if i % 128 = 0x17 then some (wrapTo 64 (c.pc + immU i)) else none
      exec (.rv64gcInstruction d g) s = .next (s.on fun _ => (v.execWord d g i 4).dropFound) ∧
      ∀ x, integer = some x → ∃ t, exec (.rv64gcInstruction d g) s = .next t ∧ t.mem = s.mem ∧
        (t.work.core d g).pc = (c.pc + 4) % 2 ^ 64 ∧
        (∀ r, (t.work.core d g).getX r = if r = rdOf i ∧ r ≠ 0 then x % 2 ^ 64 else c.getX r) ∧
        (t.work.core d g).v = c.v ∧ (t.work.core d g).f = c.f)

/-- R274, R277, R278, R285, R288: a submission that passes every check is accepted and placed: in the delay list when its
release lies ahead, otherwise in its level; any other is refused with the lowest failure and no list changes. Firmware reads
the status in DISP_STAT, and a task in a0.
Commands stated to complete: dispSubmit, taskSubmit. -/
def Obligations.TaskSubmissions : Prop :=
  (∀ (s : State) (mc die : Nat) (r : Rec), mc < 4 → die < 4 →
    let p := recF r 15 12
    let d := recF r 25 24
    let fs := s.work.taskFields r ++ chk (decide (s.work.planState p = 2)) sState ++ chk ((s.work.disp d).room (s.work.liesAhead r (recF r 351 288))) sFull
    let q := (s.work.newTask p r (if recB r 376 then max s.work.tickNo (recF r 351 288) else s.work.tickNo)).1
    let at_ := s.work.releaseTime (recF r 351 288) r
    (fs = [] → ∃ t, exec (.dispSubmit mc die r) s = .next t ∧ t.work.rd F.dispStatLastStatus die 0 = sOk ∧
      t.nextTask = s.nextTask + 1 ∧
      (recB r 376 = true → (s.work.now : Int) < at_ → t.mem = s.mem ∧
        (t.work.disp d).delay = insertDelay { q with release := at_.toNat } (s.work.disp d).delay ∧
        (t.work.disp d).levels = (s.work.disp d).levels) ∧
      (recB r 376 = false ∨ at_ ≤ (s.work.now : Int) → t = s.on fun w =>
        (({ w with nextTask := w.nextTask + 1 } : Work).arriveTask d q).wr F.dispStatLastStatus die 0 sOk)) ∧
    (fs ≠ [] → ∃ t, exec (.dispSubmit mc die r) s = .next t ∧
      t.work.rd F.dispStatLastStatus die 0 = lowest fs % 2 ^ F.dispStatLastStatus.w ∧ t.nextTask = s.nextTask ∧
      ∀ e, t.work.disp e = s.work.disp e)) ∧
  (∀ (s : State) (d g a : Nat), d < 4 → g < 96 → a < 2 ^ 64 → s.work.coreRuns d g = true →
    let c := s.work.core d g
    let p := s.work.planOf (.core d g)
    (s.work.callRecord d g a 64 64 = none → ∃ t, exec (.taskSubmit d g a) s = .next t ∧ t.mem = s.mem ∧
      (t.work.core d g).getX 10 = sRange ∧ (t.work.core d g).pc = (c.pc + 4) % 2 ^ 64 ∧ t.nextTask = s.nextTask) ∧
    (∀ bs, s.work.callRecord d g a 64 64 = some bs → (s.work.effecting d g).1 = true →
      let r := resolveTaskComp (.core d g) (BitVec.ofNat 512 (ofBytes bs))
      let fs := s.work.taskFields r ++ chk (decide (s.work.planState p = 2) || decide (s.work.planState p = 3)) sState ++
        chk ((s.work.disp (recF r 25 24)).room (s.work.liesAhead r (recF r 351 288))) sFull
      ∃ t, exec (.taskSubmit d g a) s = .next t ∧ (t.work.core d g).getX 10 = lowest fs % 2 ^ 64 ∧
        (t.work.core d g).pc = (c.pc + 4) % 2 ^ 64 ∧ t.nextTask = s.nextTask + (if fs = [] then 1 else 0)))

/-- R281, R283, R290, R194: the unit that can start its slotted task runs it: a general core enters the task in user mode at
ENTRY with ARG, the tick and TAG in a0 to a2, a matrix engine begins its list at ENTRY. A task that fails the guard test of
R35 is counted and deferred, and no task starts.
R286, R290 to R292: the first eligible stream task starts its stream once a context is free, or is deferred by the
guard test; a task that ends with the
status that its unit has leaves the unit idle and out of user mode, and its completion is recorded; a matrix engine's list
ends the same way.
R33, R40, R285, R288, R553: what time alone brings to the dispatchers. Tasks whose release time has come leave the delay
list and no others do; held entries are enqueued from the oldest on; commit work that runs late is counted once an epoch; a
plan with three overrun epochs in a row is faulted, and no other; a unit whose catch-up has run out counts again.
Commands stated to complete: commitWorkEnd, overrunFault, catchupExpire, heldEntryEnqueue, delayRelease, taskStart, streamTaskIssue, taskComplete. -/
def Obligations.TasksRunAndEnd : Prop :=
  (∀ (s : State) (d u ns : Nat) (q : Task) (rest : List Task), d < 4 → u < 120 →
     let w := (s.work.atNs ns).refresh d
     unitGet (w.disp d).slot u = q :: rest → w.canStart d u = true →
     (w.guardOk q = true → q.kind = kindGc → u < 96 → ∃ t, exec (.taskStart d u ns) s = .next t ∧
       unitGet (t.work.disp d).run u = [{ q with epoch := w.tickNo, start := w.now, pastBudget := false }] ∧
       (t.work.core d u).user = true ∧ (t.work.core d u).pc = q.entry ∧ (t.work.core d u).getX 10 = q.arg % 2 ^ 64 ∧
       (t.work.core d u).getX 11 = w.tickNo % 2 ^ 64 ∧ (t.work.core d u).getX 12 = q.tag ∧ (t.work.core d u).getX 0 = 0) ∧
     (w.guardOk q = true → q.kind = kindMe → 96 ≤ u → ∃ t, exec (.taskStart d u ns) s = .next t ∧
       unitGet (t.work.disp d).run u = [{ q with epoch := w.tickNo, start := w.now, pastBudget := false }] ∧
       (t.work.me d (u - 96)).running = true ∧ (t.work.me d (u - 96)).pc = q.entry ∧ (t.work.me d (u - 96)).skip = false ∧
       (t.work.me d (u - 96)).acc = (s.work.me d (u - 96)).acc) ∧
     (w.guardOk q = true → q.kind = kindChain → ∃ t, exec (.taskStart d u ns) s = .next t ∧
       t = s.on fun _ => ((w.startTask d u q).runTask d u { q with epoch := w.tickNo, start := w.now, pastBudget := false }).refresh d) ∧
     (w.guardOk q = false → ∃ t, exec (.taskStart d u ns) s = .next t ∧
       t = s.on (fun _ => w.deferTask d u q) ∧ unitGet (t.work.disp d).run u = [] ∧
       t.work.rd F.timeOverrunGuardDefer 0 0 = (s.work.rd F.timeOverrunGuardDefer 0 0 + 1) % 2 ^ F.timeOverrunGuardDefer.w)) ∧
  ((∀ (s : State) (d ns c : Nat) (q : Task) (v : Work), d < 4 →
     let w := (s.work.atNs ns).refresh d
     w.firstStream d = some q → w.dispatching = true → (w.freeCtx d).isSome = true →
     (w.guardOk q = false → exec (.streamTaskIssue d ns) s =
       .next (s.on fun _ => (w.setDisp d ((w.disp d).drop q)).deferTask d 127 q)) ∧
     (w.guardOk q = true →
     let k := { q with epoch := w.tickNo, start := w.now, pastBudget := false }
     let x := (w.disp d).drop q
     let begun := ((w.setDisp d { x with streams := x.streams ++ [k] }).trace d 3 k 127 0 (w.now - q.elig.getD w.now)).streamBegin d
       q.plan q.entry 0 0 (some q.serial) none
     begun = (v, .inl c) → exec (.streamTaskIssue d ns) s = .next (s.on fun _ => v))) ∧
   (∀ (s : State) (d u ns : Nat) (st : Status) (q : Task) (rest : List Task), d < 4 → u < 120 →
     unitGet (s.work.disp d).run u = q :: rest →
     (u < 96 → q.kind = kindGc → (s.work.core d u).halted = false → (s.work.core d u).ended.getD sOk = statusCode st →
       s.work.chainAt d u = none →
       ∃ t, exec (.taskComplete d u ns st) s = .next t ∧ unitGet (t.work.disp d).run u = [] ∧
         (t.work.core d u).user = false ∧ (t.work.core d u).x = (s.work.core d u).x ∧
         t = s.on fun w => (((w.atNs ns).setCore d u { w.core d u with user := false, ended := none, wait := .none }).taskDone
           d u q (statusCode st))) ∧
     (96 ≤ u → (s.work.me d (u - 96)).ended = some (statusCode st) →
       ∃ t, exec (.taskComplete d u ns st) s = .next t ∧ unitGet (t.work.disp d).run u = [] ∧
         (t.work.me d (u - 96)).ended = none ∧ (t.work.me d (u - 96)).acc = (s.work.me d (u - 96)).acc ∧
         t = s.on fun w => (((w.atNs ns).setMe d (u - 96) { w.me d (u - 96) with ended := none }).taskDone d u q (statusCode st))))) ∧
  (∀ (s : State) (d ns : Nat), d < 4 → ∃ t, exec (.delayRelease d ns) s = .next t ∧
    t = s.on (fun w => (w.atNs ns).releaseDelayed d) ∧
    ∀ q, q ∈ (t.work.disp d).delay ↔ q ∈ (s.work.disp d).delay ∧ (s.work.atNs ns).now < q.release) ∧
  (∀ (s : State) (d : Nat), d < 4 → ∃ t k, exec (.heldEntryEnqueue d) s = .next t ∧
    t = s.on (fun w => w.enqueueAll d (w.disp d).held) ∧ (t.work.disp d).held = (s.work.disp d).held.drop k) ∧
  (∀ (s : State) (ns : Nat),
    let w := s.work.atNs ns
    ∃ t, exec (.commitWorkEnd ns) s = .next t ∧
      t = s.on (fun w => (if commitEnd (w.atNs ns).period < (w.atNs ns).phase ∧ s.time.commitOpen = true then
        ({ w.atNs ns with time := { (w.atNs ns).time with commitBusy := [], commitOpen := false } } : Work).bump
          F.timeOverrunCommitLate 0 0
        else { w.atNs ns with time := { (w.atNs ns).time with commitBusy := [], commitOpen := false } }).refreshAll) ∧
      t.time.commitBusy = [] ∧ t.time.commitOpen = false ∧
      (commitEnd w.period < w.phase → s.time.commitOpen = true →
        t.work.rd F.timeOverrunCommitLate 0 0 = (s.work.rd F.timeOverrunCommitLate 0 0 + 1) % 2 ^ F.timeOverrunCommitLate.w) ∧
      (w.phase ≤ commitEnd w.period ∨ s.time.commitOpen = false →
        t.work.rd F.timeOverrunCommitLate 0 0 = s.work.rd F.timeOverrunCommitLate 0 0)) ∧
  (∀ (s : State) (p : Nat), p < 16 →
    ((s.work.plan p).overruns < 3 → exec (.overrunFault p) s = .next s) ∧
    (3 ≤ (s.work.plan p).overruns → exec (.overrunFault p) s = .next (s.on fun w => w.planFault p sOverrun))) ∧
  (∀ (s : State) (d u : Nat), d < 4 → u < 120 →
    ((s.work.unitSt d u).behind = true → (s.work.unitSt d u).catchUp = 0 → ∃ t, exec (.catchupExpire d u) s = .next t ∧
      t.work.unitSt d u = { s.work.unitSt d u with behind := false } ∧ t.regs = s.regs ∧ t.mem = s.mem) ∧
    ((s.work.unitSt d u).behind = false ∨ (s.work.unitSt d u).catchUp ≠ 0 → exec (.catchupExpire d u) s = .next s))

/-- R300 to R307: a call that fails a check writes nothing and returns the lowest failure in a0; one that passes works on its
rows and returns in a0 the lowest of what they met, and in a1 the rows that it hands on. The joins that build, and windows
that update, are effecting calls: R550 has them made once.
R354 to R366, R430 to R434, R443: selection and ingest calls return in the same way: SORT, TOPK and MERGE with the entries
of the list that they wrote in a1; an ingest call with the rows that it took in a1 and its third result in a2.
Commands stated to complete: filter, joinBuildInsert, joinBuildFinish, joinBuildClear, joinProbe, gather, bucketize, normalise, hashFeature, window, sort, topk, merge, arrowCheck, parquetDecode. -/
def Obligations.OperatorCalls : Prop :=
  (∀ (s : State) (d g a row0 count : Nat) (bs : List Byte), d < 4 → g < 96 → a < 2 ^ 64 → s.work.coreRuns d g = true →
     s.work.callRecord d g a 64 64 = some bs →
     let o := OpRec.ofRec (BitVec.ofNat 512 (ofBytes bs))
     let answers := fun (i : Instr) (w : Work) (p : OpPlan) =>
       (∀ fs, p = .fails fs → ∃ t, exec i s = .next t ∧ t = s.on (fun _ => w.opFail d g fs) ∧ t.mem = s.mem ∧
         (t.work.core d g).getX 10 = lowest fs % 2 ^ 64 ∧ (t.work.core d g).pc = ((s.work.core d g).pc + 4) % 2 ^ 64) ∧
       (∀ run, p = .go run →
         let x := (run w).1
         ∃ t, exec i s = .next t ∧ t = s.on (fun _ => x.finish d g o (run w).2) ∧
           (t.work.core d g).getX 10 = lowest (if x.w.dtHit then setInsert x.fails sRange else x.fails) % 2 ^ 64 ∧
           (t.work.core d g).getX 11 = (run w).2 % 2 ^ 64)
     (∀ (c : Nat → Nat → Nat → Nat → Nat → Instr) (op : Nat) (plan : Work → Nat → Nat → Nat → Nat → OpRec → OpPlan),
       (c, op, plan) ∈ [(Instr.filter, 0xA1, Work.filterPlan), (Instr.joinProbe, 0xA3, Work.probePlan),
         (Instr.gather, 0xA4, Work.gatherPlan), (Instr.bucketize, 0xA5, Work.bucketizePlan),
         (Instr.normalise, 0xA6, Work.normalisePlan), (Instr.hashFeature, 0xA7, Work.hashFeaturePlan)] →
       o.op = op → answers (c d g a row0 count) s.work (plan s.work d g row0 count o)) ∧
     (∀ (c : Nat → Nat → Nat → Nat → Nat → Instr) (mode : Nat),
       (c, mode) ∈ [(Instr.joinBuildInsert, 0), (Instr.joinBuildFinish, 1), (Instr.joinBuildClear, 2)] →
       o.op = 0xA2 → o.mode = mode →
       let v := (s.work.effecting d g).2
       answers (c d g a row0 count) v (v.buildPlan d g row0 count o (s.work.effecting d g).1)) ∧
     (o.op = 0xA8 →
       let e := if bitOf o.mode 1 then s.work.effecting d g else (true, s.work)
       answers (.window d g a row0 count) e.2 (e.2.windowPlan d g row0 count o e.1))) ∧
  ∀ (s : State) (d g a row0 count : Nat) (bs : List Byte), d < 4 → g < 96 → a < 2 ^ 64 → s.work.coreRuns d g = true →
    s.work.callRecord d g a 64 64 = some bs →
    let o := SelRec.ofRec (BitVec.ofNat 512 (ofBytes bs))
    let q := IngRec.ofRec (BitVec.ofNat 512 (ofBytes bs))
    let w := s.work
    (∀ (i : Instr) (op : Nat) (p : OpPlan), (i, op, p) ∈ [(Instr.sort d g a row0 count, 0xC1, w.selectPlan d g row0 count o),
        (Instr.topk d g a row0 count, 0xC2, w.selectPlan d g row0 count o), (Instr.merge d g a row0 count, 0xC3, w.mergePlan d g count o)] →
      o.op = op →
      (∀ fs, p = .fails fs → ∃ t, exec i s = .next t ∧ t.mem = s.mem ∧ t = s.on (fun v => v.opFail d g fs) ∧
        (t.work.core d g).getX 10 = lowest fs % 2 ^ 64) ∧
      (∀ run, p = .go run →
        let x := (run w).1
        ∃ t, exec i s = .next t ∧ t = s.on (fun _ => x.finish d g o.op_ (run w).2) ∧
          (t.work.core d g).getX 10 = lowest (if x.w.dtHit then setInsert x.fails sRange else x.fails) % 2 ^ 64 ∧
          (t.work.core d g).getX 11 = (run w).2 % 2 ^ 64)) ∧
    (∀ (i : Instr) (op : Nat) (p : IngPlan), (i, op, p) ∈ [(Instr.arrowCheck d g a row0 count, 0xF1, w.arrowPlan d g row0 count q),
        (Instr.parquetDecode d g a row0 count, 0xF2, w.parquetPlan d g row0 count q)] → q.op = op →
      (∀ fs, p = .fails fs → ∃ t, exec i s = .next t ∧ t.mem = s.mem ∧ (t.work.core d g).getX 10 = lowest fs % 2 ^ 64) ∧
      (∀ run, p = .go run →
        let x := run w
        ∃ t, exec i s = .next t ∧
          (t.work.core d g).getX 10 = lowest (if x.1.w.dtHit then setInsert x.1.fails sRange else x.1.fails) % 2 ^ 64 ∧
          (t.work.core d g).getX 11 = x.1.rowsIn % 2 ^ 64 ∧ (t.work.core d g).getX 12 = x.2.2 % 2 ^ 64))

/-- R350: the order of keys is that of the call's direction, equal keys by ascending ID in both directions, the two zeros being
equal; it is total on distinct IDs. In that order the entries of a SORT or TOPK list are distinct rows of the call; none that
is left out comes before one that is kept; TOPK keeps at most K of them, and every distinct one while there are no more. -/
def Obligations.SelectedRowsAreTheBest : Prop :=
  (∀ (desc : Bool) (a b : SEnt),
    (a.before false desc b = true ↔
      (if desc then sext 64 b.key < sext 64 a.key else sext 64 a.key < sext 64 b.key) ∨
      (sext 64 a.key = sext 64 b.key ∧ a.id_ < b.id_)) ∧
    ((Fmt.fp64.decode a.key).isNan = false → (Fmt.fp64.decode b.key).isNan = false →
      (a.before true desc b = true ↔
        (Fmt.fp64.decode a.key).cmp (Fmt.fp64.decode b.key) = some (if desc then .gt else .lt) ∨
        ((Fmt.fp64.decode a.key).cmp (Fmt.fp64.decode b.key) = some .eq ∧ a.id_ < b.id_)))) ∧
  (∀ e f : Int, (FVal.fin true 0 e).cmp (.fin false 0 f) = some .eq) ∧
  (∀ (flt desc : Bool) (a b c : SEnt),
    (flt = true → ∀ e ∈ [a, b, c], (Fmt.fp64.decode e.key).isNan = false) →
    (a.id_ ≠ b.id_ → (a.before flt desc b = true ↔ b.before flt desc a = false)) ∧
    (a.before flt desc b = true → b.before flt desc c = true → a.before flt desc c = true)) ∧
  (∀ (w : Work) (ty : Nat) (desc : Bool) (k : Option Nat) (count source : Nat) (rows : List SEnt),
    (keyFlt ty = true → ∀ e ∈ rows, (Fmt.fp64.decode e.key).isNan = false) →
    let l := (w.selectRows ty desc k count source rows).1
    let all := (distinct rows []).1
    l.ents.Pairwise (fun a b => a.before (keyFlt ty) desc b = true ∧ a.id_ ≠ b.id_) ∧
    (∀ e ∈ l.ents, e ∈ rows) ∧ l.total = all.length ∧ l.dup + all.length = rows.length ∧
    (∀ x ∈ l.ents, ∀ y ∈ all, y ∉ l.ents → x.before (keyFlt ty) desc y = true) ∧
    l.ents.length = min (k.getD all.length) all.length)

/-- R320: what JOIN_PROBE finds for a key is references of build rows, rising, whose canonical key is that key; no reference
passes the end of the build side.
R80 to R83, R231, R333: a quantile code never passes the largest code, NaN and null code as the rule says, a larger value
never has a smaller code; a hashed feature's index is below N. -/
def Obligations.MatchesAndCodes : Prop :=
  (∀ (w : Work) (j : Join) (seed : Nat) (key : List Byte),
     let m := w.matchesOf j seed key
     m.refs.Pairwise (· ≤ ·) ∧
     ∀ r ∈ m.refs, keyOf (j.build.map (fun c => w.cell c r)) = some key ∧ r < max 1 j.rows) ∧
  (∀ (top : Nat) (nan null : Bool) (bounds : List EVal) (v : EVal), 1 ≤ top →
    quantile top nan bounds null v ≤ top ∧
    (null = true ∨ v = .flt .nan → quantile top nan bounds null v = if nan then top else 0)) ∧
  (∀ (top : Nat) (nan : Bool) (bounds : List Int) (x y : Int), x ≤ y →
    quantile top nan (bounds.map EVal.int) false (.int x) ≤ quantile top nan (bounds.map EVal.int) false (.int y)) ∧
  (∀ (seed n : Nat) (key : List Byte), 1 ≤ n → vhRange (vh64 seed key) n < n)

/-- R379 to R383, R385: LOOKUP and UPDATE by a task. A call that fails a check writes nothing; a LOOKUP that passes asks the
owners of its rows, and returns at once when it has no outstanding part; an UPDATE that passes returns when its entries are
sent. The rows that an EMB_POOLED answers are taken off the parts of its batch; a part that stays out for two ticks is
completed as zeros for its bags, with CHECK_FAIL, and counted.
R373, R381, R386, R394: tables and the messages about their rows. TABLE_ATTACH attaches a table that passes its checks, from
the next tick on, in a free slot; an EMB_LOOKUP of one frame for one row that is here is answered with the row pooled, a row
of another owner is passed on, and a frame of a longer batch waits for the others; an EMB_UPDATE's gradient joins the epoch's accumulator, or is discarded and counted past UPD_CAP.
Commands stated to complete: tableAttach, lookup, update, embLookup, embPooled, lookupPartTimeout, embUpdate. -/
def Obligations.EmbeddingCalls : Prop :=
  ((∀ (s : State) (d g a : Nat) (bs : List Byte), d < 4 → g < 96 → a < 2 ^ 64 → s.work.coreRuns d g = true →
     s.work.callRecord d g a 64 64 = some bs →
     let o := EmbRec.ofRec (BitVec.ofNat 512 (ofBytes bs))
     (o.op = 0xD1 →
       (∀ t x i fs, s.work.lookupChecked (s.work.planOf (.core d g)) o = (t, x, i, fs) → fs ≠ [] →
         ∃ u, exec (.lookup d g a) s = .next u ∧ u.mem = s.mem ∧ u.emb = s.emb ∧ (u.work.core d g).getX 10 = lowest fs % 2 ^ 64) ∧
       (∀ t idx offs, s.work.lookupChecked (s.work.planOf (.core d g)) o = (some t, some idx, some offs, []) →
         exec (.lookup d g a) s = .next (s.on fun w => w.lookupRun d g o t idx offs))) ∧
     (o.op = 0xD2 →
       let v := (s.work.effecting d g).2
       (∀ fs, v.updatePlan d g o (s.work.effecting d g).1 = .fails fs → ∃ u, exec (.update d g a) s = .next u ∧ u.mem = s.mem ∧
         u.emb = s.emb ∧ (u.work.core d g).getX 10 = lowest fs % 2 ^ 64) ∧
       (∀ run, v.updatePlan d g o (s.work.effecting d g).1 = .go run → ∃ u, exec (.update d g a) s = .next u ∧
         u = s.on (fun _ => (run v).1.finish d g o.asOp (run v).2) ∧ (u.work.core d g).getX 11 = (run v).2 % 2 ^ 64))) ∧
   (∀ (s : State) (k : Nat) (p : EmbPart), (Instr.lookupPartTimeout k).wf = true → s.emb.parts[k]? = some p →
     (s.work.tickNo < p.tick + 2 → exec (.lookupPartTimeout k) s = .next s) ∧
     (p.tick + 2 ≤ s.work.tickNo → ∃ u, exec (.lookupPartTimeout k) s = .next u ∧ u.emb.parts = s.emb.parts.eraseIdx k ∧
       u.work.dv F.fabEmbStatMissing = min (s.work.dv F.fabEmbStatMissing + 1) (2 ^ F.fabEmbStatMissing.w - 1) ∧
       ∀ c t, s.work.lookupCall? p.core = some c → s.work.table? c.table = some t →
         (∃ q ∈ s.emb.parts.eraseIdx k, q.core = p.core) → u.work.lookupCall? p.core = some { c with
           fails := setInsert c.fails sCheck,
           bags := c.bags ++ p.left.map (fun b => EmbBag.mk b.1 0 (List.replicate t.elems 0)) })) ∧
   (∀ (s : State) (h : KHdr) (bs : List Byte), (Instr.embPooled h bs).wf = true → TakenHere 2 0x32 h s →
     let x := EmbHdr.ofBytes bs
     (s.emb.parts.any (fun p => decide (p.tag = x.tag)) = false → exec (.embPooled h bs) s = .next s) ∧
     (∀ p t, s.emb.parts.find? (fun p => decide (p.tag = x.tag)) = some p → s.work.table? x.table = some t →
       let bagAt := fun k => leAt bs (32 + (8 + 4 * t.elems) * k) 8
       ∃ u, exec (.embPooled h bs) s = .next u ∧
         u.emb.parts = (List.range x.count).foldl (fun ps k => answered x.tag (fieldOf (bagAt k) 0 24) (fieldOf (bagAt k) 24 24) ps)
           s.emb.parts ∧
         (∀ q, q.tag ≠ x.tag → (q ∈ u.emb.parts ↔ q ∈ s.emb.parts))))) ∧
  (∀ (s : State) (h : KHdr) (bs : List Byte) (w : Work), (Instr.tableAttach h bs).wf = true → OrderHere 0x07 h s →
    bs.length = 128 → s.work.resolve objTable (fieldOf (ofBytes bs) 0 12) 0 h = some w → w.devState ≠ stRest →
    let x := ofBytes bs
    let y := w.tableAttachRec firmwareTable x
    exec (.tableAttach h bs) s = .next (s.on fun _ => (y.2.markControl y.2.tickNo ⟨h, bs⟩ []).ctrlDone h y.1 []) ∧
    (w.sameTable x = false → w.attachFails firmwareTable x = [] → fieldOf x 64 41 ≠ 0 →
      y.1 = sOk ∧ y.2.emb.tables =
        w.emb.tables ++ [⟨x, firmwareTable, w.tableSlot, w.tickNo + 1, false, [], [], 0⟩])) ∧
  (∀ (s : State) (h : KHdr) (bs : List Byte), (Instr.embLookup h bs).wf = true → TakenHere 1 0x31 h s →
    let x := EmbHdr.ofBytes bs
    (s.work.table? x.table = none → exec (.embLookup h bs) s = .next s) ∧
    (∀ t v q, s.work.table? x.table = some t → t.serves ≤ s.work.tickNo → s.work.devState ≠ stRest →
      s.work.batch? x.dev x.tag = none →
      let one := { x with part := 0, parts := 1, count := 1 }
      (1 < x.parts → exec (.embLookup h bs) s = .next { s with emb := { s.emb with
        batches := s.emb.batches ++ [EmbBatch.mk x.dev x.tag x.tick [(x.part, lookupEntries bs x.count)]] } }) ∧
      (x.parts = 1 → x.count = 1 →
        let row := fieldOf (leAt bs 32 8) 0 40
        let bag := fieldOf (leAt bs 32 8) 40 24
        (s.work.lookupRoute t row x.tick = (v, none) → v.poolBag ((v.table? x.table).getD t) x.pool [row] = q →
          exec (.embLookup h bs) s = .next (s.on fun _ => q.2.2.embSend clsResp 0x32 x.dev x.tag one
            (toBytes 8 (bag + 2 ^ 24) ++ f32Bytes q.1))) ∧
        (∀ dev, s.work.lookupRoute t row x.tick = (v, some dev) → exec (.embLookup h bs) s = .next (s.on fun _ =>
          (v.countForward t).embSend clsReq 0x31 dev h.tag one (lookupEntry (bag, row))))))) ∧
  (∀ (s : State) (h : KHdr) (bs : List Byte), (Instr.embUpdate h bs).wf = true → TakenHere 0 0x33 h s →
    let x := EmbHdr.ofBytes bs
    (s.work.table? x.table = none → exec (.embUpdate h bs) s = .next s) ∧
    (∀ t, s.work.table? x.table = some t → s.work.devState = stRest →
      exec (.embUpdate h bs) s = .next (s.on fun w => w.countDrop x.count)) ∧
    (∀ t, s.work.table? x.table = some t → s.work.devState ≠ stRest → x.count = 1 →
      exec (.embUpdate h bs) s = .next (s.on fun w => w.takeUpdate t (fieldOf (leAt bs 32 8) 0 40)
        ((List.range t.elems).map (fun e => leAt bs (40 + 4 * e) 4))))) ∧
  (∀ (w : Work) (t : EmbTable) (row : Nat) (g : List Nat), t ∈ w.emb.tables →
    let u := w.accumulate t row g
    (∀ a, t.acc.find? (fun a => decide (a.epoch = w.tickNo) && decide (a.row = row)) = some a →
      ∃ k ∈ u.emb.tables, k.slot = t.slot ∧ { a with grads := a.grads ++ [g] } ∈ k.acc) ∧
    (t.acc.find? (fun a => decide (a.epoch = w.tickNo) && decide (a.row = row)) = none →
      ((t.acc.filter (fun a => a.epoch = w.tickNo)).length < t.updCap →
        ∃ k ∈ u.emb.tables, ∃ n, k.slot = t.slot ∧ k.acc = t.acc ++ [⟨w.tickNo, row, [g], n⟩] ∧
          ∀ a ∈ t.acc, a.epoch = w.tickNo → a.entry ≠ n) ∧
      (t.updCap ≤ (t.acc.filter (fun a => a.epoch = w.tickNo)).length → u = w.countDrop)))

/-- R389 to R391, R393: the owner of a row takes a ROW_REPLACE or ROW_MIGRATE that passes its checks, to be committed at the
tick; the migration epoch is the next one before G, and the one after from G on. One that fails is answered with the lowest
failure. Which devices have the table attached is a free value (log entry 175). A device that does not own the row sends the command on unchanged.
R394 to R397: the parts of a migration. A copied row is inserted and the copy acknowledged, or refused with OUT_FULL; an
acknowledged copy sends the override to the table's devices, and a refused or unanswered one is abandoned and counted; an
override is staged and confirms what has come in; a new owner that hears no override by G puts back what stood there; three
ticks on the old owner's row becomes a tombstone.
Commands stated to complete: rowReplace, rowMigrate, embCopy, migrateAck, embOverride, migrationAbandon, migrationTombstone. -/
def Obligations.RowsReplacedAndMoved : Prop :=
  (∀ (s : State) (h : KHdr) (bs : List Byte) (ns : Nat) (v w : Work) (t : EmbTable) (owner : Nat),
     (Instr.rowReplace h bs).wf = true →
     let table := leAt bs 0 2 % 4096
     let row := leAt bs 8 5
     (OrderHere 0x08 h s → s.work.resolve objRow table row h = some v → v.devState ≠ stRest → v.table? table = some t →
       v.ownerOf t row = (w, owner) →
       (w.ownId owner = false → exec (.rowReplace h bs) s = .next (s.on fun _ => w.route ⟨{ h with dstDev := owner }, bs⟩)) ∧
       (w.ownId owner = true → bs.length = 20 + t.rowBytes → leAt bs 0 8 < 4096 → leAt bs 8 8 < 2 ^ 40 → row < t.rows →
         (w.replaceFails t row = [] → exec (.rowReplace h bs) s = .next (s.on fun _ =>
           (if t.replaceable then w.fillInactive t row (bs.drop 20) (leAt bs 16 4) else w).setTable { t with repl := t.repl ++ [EmbRepl.mk row (leAt bs 16 4) (bs.drop 20) h w.tickNo] })) ∧
         (w.replaceFails t row ≠ [] → exec (.rowReplace h bs) s = .next (s.on fun _ =>
           ((if (w.putSlot t row).isNone then w.countDrop else w).countFurther .mgmt (w.replaceFails t row)).ctrlDone h (lowest (w.replaceFails t row)) [])))) ∧
     (h.cls = 3 → h.typ = 9 → (s.work.atNs ns).isMirror = false → (s.work.atNs ns).ownId h.dstDev = true → h.dstSess = 0 →
       (s.work.atNs ns).authorised h = true → (s.work.atNs ns).resolve objRow table row h = some v → v.devState ≠ stRest →
       v.table? table = some t → v.ownerOf t row = (w, owner) → w.ownId owner = true →
       bs.length = 16 → leAt bs 0 8 < 4096 → leAt bs 13 1 = 0 → leAt bs 14 2 < 512 → row < t.rows →
       let dest := leAt bs 14 2
       let known := w.attachedBy
       let fs := known.2.migrateFails t row dest known.1
       (known.2.migrateFails t row dest (2 ^ 512 - 1) = [] → ∃ u, exec (.rowMigrate h bs ns) s = .next u ∧
         (bitOf known.1 dest = true → u.emb.migs = w.emb.migs ++ [EmbMig.mk table row dest
           (w.tickNo + (if w.phase < guardStart w.period then 1 else 2)) h 0 sOk 0]) ∧
         (bitOf known.1 dest = false → u = s.on (fun _ => (known.2.countFurther .mgmt [sState]).ctrlDone h sState []))) ∧
       (known.2.migrateFails t row dest (2 ^ 512 - 1) ≠ [] → exec (.rowMigrate h bs ns) s =
         .next (s.on fun _ => (known.2.countFurther .mgmt fs).ctrlDone h (lowest fs) [])))) ∧
  (∀ (s : State) (h : KHdr) (bs : List Byte) (t : EmbTable), (Instr.embCopy h bs).wf = true → TakenHere 0 0x34 h s →
    let x := EmbHdr.ofBytes bs
    let row := leAt bs 32 5
    let ack := fun (w : Work) (st : Nat) => w.send ⟨w.hdrTo clsResp 2 x.dev 0 h.flow h.tag, toBytes 8 st⟩
    s.work.devState ≠ stRest → s.work.table? x.table = some t →
    let note := fun (w : Work) (stored : Bool) =>
      let others := w.emb.incoming.filter (fun i => !(decide (i.table = x.table) && decide (i.row = row)))
      let new := EmbIn.mk x.table row x.tick false stored (s.work.beforeInsert t row)
      { w with emb := { w.emb with incoming := others ++ [new] } }
    (∀ w, s.work.insertRow t row (slice bs 40 t.rowBytes) (leAt bs (40 + t.rowBytes) 4) = some w →
      exec (.embCopy h bs) s = .next (s.on fun _ => ack (note w true) sOk)) ∧
    (s.work.insertRow t row (slice bs 40 t.rowBytes) (leAt bs (40 + t.rowBytes) 4) = none →
      exec (.embCopy h bs) s = .next (s.on fun w => ack (note w false) sFull))) ∧
  (∀ (s : State) (h : KHdr) (bs : List Byte), (Instr.embOverride h bs).wf = true → TakenHere 1 0x35 h s →
    let x := EmbHdr.ofBytes bs
    exec (.embOverride h bs) s = .next (s.on fun w => w.takeOverride ⟨x.table, leAt bs 32 5, x.dev⟩ x.tick) ∧
    ∀ i ∈ s.emb.incoming, i.table = x.table → i.row = leAt bs 32 5 →
      ∃ u, exec (.embOverride h bs) s = .next u ∧ { i with confirmed := true } ∈ u.emb.incoming) ∧
  (∀ (s : State) (table row : Nat) (m : EmbMig) (t : EmbTable), (Instr.migrateAck table row true).wf = true →
    s.work.mig? table row = some m → s.work.table? table = some t →
    (m.phase ≠ 1 → ∀ ok, exec (.migrateAck table row ok) s = .next s) ∧
    (m.phase = 1 → s.work.guardPast m.tick = true → ∀ ok,
      exec (.migrateAck table row ok) s = .next (s.on fun w => w.abandon m sState)) ∧
    (m.phase = 1 → s.work.guardPast m.tick = false →
      exec (.migrateAck table row false) s = .next (s.on fun w => w.abandon m sFull) ∧
      let k := (s.work.setMig { m with phase := 2 }).attachedBy
      let v := k.2.takeOverride ⟨table, row, s.work.migOverride t m⟩ m.tick
      let devs := (List.range 512).filter (fun dev => (bitOf k.1 dev || decide (dev = m.dest)) && !v.ownId dev)
      { m with phase := 2 } ∈ v.emb.migs ∧
      exec (.migrateAck table row true) s = .next (s.on fun _ => devs.foldl (fun (w : Work) dev => w.embSend clsReq 0x35 dev 0
        ⟨table, 0, s.work.migOverride t m, 0, 0, m.tick, 0, 0⟩ (toBytes 8 row)) v)) ∧
    (m.phase = 1 → s.work.guardPast m.tick = true → ∃ u, exec (.migrationAbandon table row) s = .next u ∧
      { m with phase := 4, status := sState } ∈ u.emb.migs ∧
      u.work.dv F.fabEmbStatMigAbandon = min (s.work.dv F.fabEmbStatMigAbandon + 1) (2 ^ F.fabEmbStatMigAbandon.w - 1)) ∧
    (m.phase ≠ 1 ∨ s.work.guardPast m.tick = false → exec (.migrationAbandon table row) s = .next s) ∧
    (m.phase = 3 → m.tick + 3 ≤ s.work.tickNo → exec (.migrationTombstone table row) s = .next (s.on fun w =>
      { w.tombstone t row with emb := { w.emb with migs := w.emb.migs.filter (fun q => q ≠ m) } })) ∧
    (m.phase ≠ 3 ∨ s.work.tickNo < m.tick + 3 → exec (.migrationTombstone table row) s = .next s)) ∧
  (∀ (s : State) (table row : Nat) (i : EmbIn) (t : EmbTable), (Instr.migrationAbandon table row).wf = true →
    s.work.mig? table row = none → s.work.incoming? table row = some i → s.work.table? table = some t →
    (i.confirmed = true ∨ i.stored = false ∨ s.work.guardPast i.tick = false → exec (.migrationAbandon table row) s = .next s) ∧
    (i.confirmed = false → i.stored = true → s.work.guardPast i.tick = true → exec (.migrationAbandon table row) s =
      .next (s.on fun w => (({ w with emb := { w.emb with incoming := w.emb.incoming.map (fun q =>
        if q = i then { i with stored := false, undo := [] } else q) } } : Work).setTable
          { t with acc := t.acc.filter (fun a => a.row ≠ row) }).putBack i.undo)))

/-- R400, R401, R404, R426: a job that its unit accepts joins the queue of the unit or starts in a lane, keeping the slots
that it names; one that finds the queue full, or others waiting, waits behind them for room; one that fails a check, or finds no lane left, ends at once with its completion record. A general
core's call without ASYNC waits for the job, and with ASYNC returns at once.
R401, R422, R426: a job that a lane runs is performed as it completes, and the lane takes the next one; a lane that runs
none has no job to complete. A lane with an internal error leaves service and its job ends with CHECK_FAIL; once no lane is
left every job that waits ends with NO_SPARE and the die is marked degraded.
Commands stated to complete: decode, encode, jobComplete, laneInternalError. -/
def Obligations.JobSubmissionsAndEnds : Prop :=
  (∀ (press : Bool) (s : State),
   let row := fun (src : JobSource) => if press then Instr.encode src else Instr.decode src
   (∀ (mc die : Nat) (r : Rec), mc < 4 → die < 4 →
     let p := s.work.planOf (.firmware mc die)
     let x := s.work.codec die press
     let j : Job := { rec_ := r, core := none, waits := false, plan := p, limit := 0, skip := false }
     let k : Job := { j with held := s.work.hold p [(JobRec.ofRec r).src, (JobRec.ofRec r).dst] }
     let fs := (s.work.jobChecks p (JobRec.ofRec r) press).2.2
     (256 ≤ x.queue.length → ∃ t, exec (row (.firmware mc die r)) s = .next t ∧ t.mem = s.mem ∧ t.regs = s.regs ∧
       t.work.codec die press = { x with blocked := x.blocked ++ [j] }) ∧
     (x.queue.length < 256 → x.blocked ≠ [] → exec (row (.firmware mc die r)) s = .next (s.on fun w =>
       (w.setCodec die press { x with blocked := x.blocked ++ [j] }).unblockJobs die press (x.blocked ++ [j]).length)) ∧
     (x.queue.length < 256 → x.blocked = [] → fs = [] → x.out.length ≠ laneCount press →
       ∃ t lim, exec (row (.firmware mc die r)) s = .next t ∧ t.mem = s.mem ∧ t.regs = s.regs ∧
         ({ k with limit := lim } ∈ (t.work.codec die press).queue ∨
           ∃ l, (l, { k with limit := lim }) ∈ (t.work.codec die press).lanes) ∧
         (t.work.codec die press).queue.length + (t.work.codec die press).lanes.length = x.queue.length + x.lanes.length + 1) ∧
     (x.queue.length < 256 → x.blocked = [] → fs ≠ [] ∨ x.out.length = laneCount press →
       ∃ t, exec (row (.firmware mc die r)) s = .next t ∧ t.work.codec die press = x ∧
         t = s.on fun w =>
           let c := if press then w.fresh 32 else (crc32c [], w)
           c.2.jobEnd die press k ⟨if fs = [] then [sNoSpare] else fs, 0, [], 0, c.1, 0⟩)) ∧
   (∀ (d g a : Nat), d < 4 → g < 96 → a < 2 ^ 64 → s.work.coreRuns d g = true →
     let c := s.work.core d g
     let x := s.work.codec d press
     (s.work.callRecord d g a 64 64 = none → ∃ t, exec (row (.core d g a)) s = .next t ∧ t.mem = s.mem ∧
       t.codecs = s.codecs ∧ (t.work.core d g).getX 10 = sRange ∧ (t.work.core d g).pc = (c.pc + 4) % 2 ^ 64) ∧
     (∀ bs, s.work.callRecord d g a 64 64 = some bs →
       let r : Rec := BitVec.ofNat 512 (ofBytes bs)
       let o := JobRec.ofRec (resolveJobComp (.core d g) r)
       ((JobRec.ofRec r).op = 0xE2 ↔ press = true) → x.queue.length < 256 → x.blocked = [] →
       (s.work.jobChecks (s.work.planOf (.core d g)) o press).2.2 = [] → x.out.length ≠ laneCount press →
       ∃ t, exec (row (.core d g a)) s = .next t ∧ t.mem = s.mem ∧
         (t.work.codec d press).queue.length + (t.work.codec d press).lanes.length = x.queue.length + x.lanes.length + 1 ∧
         ((JobRec.ofRec r).async = true → (t.work.core d g).getX 10 = sOk ∧ (t.work.core d g).wait = .none ∧
           (t.work.core d g).pc = (c.pc + 4) % 2 ^ 64) ∧
         ((JobRec.ofRec r).async = false → (t.work.core d g).wait = .job ∧ (t.work.core d g).pc = c.pc ∧
           (t.work.core d g).x = c.x)))) ∧
  ∀ (s : State) (die lane : Nat) (press : Bool), die < 4 → lane < laneCount press →
    let x := s.work.codec die press
    (x.lanes.find? (fun e => e.1 = lane) = none → exec (.jobComplete die press lane) s = .next s) ∧
    (∀ e, x.lanes.find? (fun e => e.1 = lane) = some e →
      exec (.jobComplete die press lane) s = .next (s.on fun w =>
        ((w.setCodec die press { x with lanes := x.lanes.filter (fun e => e.1 ≠ lane) }).with e.2.plan e.2.held
          (fun v => v.runJob die press e.2)).laneFree die press)) ∧
    (lane ∈ x.out → exec (.laneInternalError die press lane) s = .next s) ∧
    (lane ∉ x.out → ∃ t, exec (.laneInternalError die press lane) s = .next t ∧
      let y := t.work.codec die press
      lane ∈ y.out ∧ (∀ e ∈ y.lanes, e ∈ x.lanes ∧ e.1 ≠ lane) ∧
      (∀ e ∈ x.lanes, e.1 ≠ lane → e ∈ y.lanes) ∧
      (y.out.length < laneCount press → y.queue = x.queue ∧ y.blocked = x.blocked) ∧
      (laneCount press ≤ y.out.length → y.queue = [] ∧ y.blocked = [] ∧ t.work.rd F.sprMapDegraded die 0 = 1) ∧
      (press = false → t.work.rd F.decStatLanes die 0 = 4 - y.out.length) ∧
      (press = true → t.work.rd F.prsStatLanes die 0 = 2 - y.out.length))

/-- R408: a DEFLATE stream that is one final stored block decodes to the bytes stored in it, when the output allocation
holds them and the ratio limit and the declared size, where there is one, allow them. -/
def Obligations.StoredBlockDecodes : Prop :=
  ∀ (bs : List Byte) (alloc limit decl : Nat), bs.length ≤ 65535 → bs.length ≤ alloc → 1 ≤ limit →
    decl = 0 ∨ decl = bs.length →
    let inp := (1 : Byte) :: (toBytes 2 bs.length ++ toBytes 2 (65535 - bs.length) ++ bs)
    let e := decodeBytes 0 inp alloc limit decl none
    e.stop = none ∧ e.out.reverse = bs

/-- R468 to R471, R557: a frame job that passes its checks is queued or starts, and the call waits for it unless ASYNC is
set; the frame path performs the job that it runs and then takes the next; a failed frame path drops every job with NO_SPARE
and a failed aligner writes no more moments, and die 1 is marked degraded in either case.
Commands stated to complete: frame, frameJobComplete, framePathAlignerFailure. -/
def Obligations.FrameJobs : Prop :=
  ∀ (s : State),
  let x := s.field.frm
  (∀ (d g a : Nat), d < 4 → g < 96 → a < 2 ^ 64 → s.work.coreRuns d g = true →
    let c := s.work.core d g
    (s.work.callRecord d g a 64 64 = none → ∃ t, exec (.frame d g a) s = .next t ∧ t.mem = s.mem ∧ t.field = s.field ∧
      (t.work.core d g).getX 10 = sRange ∧ (t.work.core d g).pc = (c.pc + 4) % 2 ^ 64) ∧
    (∀ bs, s.work.callRecord d g a 64 64 = some bs →
      let r : Rec := BitVec.ofNat 512 (ofBytes bs)
      (64 ≤ x.queue.length ∨ x.blocked ≠ [] → ∃ t, exec (.frame d g a) s = .next t ∧ t.mem = s.mem ∧ t.field.frm.queue = x.queue ∧
        t.field.frm.blocked.length = x.blocked.length + 1 ∧ (t.work.core d g).wait = .job ∧ (t.work.core d g).pc = c.pc) ∧
      (x.queue.length < 64 → x.blocked = [] → x.out = [] →
        s.work.frmChecks (s.work.planOf (.core d g)) (FrmRec.ofRec (resolveFrmComp (.core d g) r)) = [] →
        ∃ t, exec (.frame d g a) s = .next t ∧ t.mem = s.mem ∧
          t.field.frm.queue.length + t.field.frm.lanes.length = x.queue.length + x.lanes.length + 1 ∧
          t.work.rd F.frmStatQueued 0 0 = t.field.frm.queue.length % 2 ^ F.frmStatQueued.w ∧
          ((FrmRec.ofRec r).async = true → (t.work.core d g).getX 10 = sOk ∧ (t.work.core d g).wait = .none ∧
            (t.work.core d g).pc = (c.pc + 4) % 2 ^ 64) ∧
          ((FrmRec.ofRec r).async = false → (t.work.core d g).wait = .job ∧ (t.work.core d g).pc = c.pc)))) ∧
  (x.lanes = [] → exec .frameJobComplete s = .next s) ∧
  (∀ e rest, x.lanes = e :: rest →
    let v := ((s.work.setFrm { x with lanes := [] }).with e.2.plan e.2.held (fun v => v.frmRun e.2)).frmStart
    v.field.frm.blocked = [] → exec .frameJobComplete s = .next (s.on fun _ => v)) ∧
  (∃ t, exec (.framePathAlignerFailure true) s = .next t ∧ t.field = { s.field with alignerLost := true } ∧
    t.work.rd F.sprMapDegraded 1 0 = 1 ∧ t.mem = s.mem) ∧
  (∃ t, exec (.framePathAlignerFailure false) s = .next t ∧
    t.field.frm = { queue := [], blocked := [], lanes := [], out := [0] } ∧ t.work.rd F.sprMapDegraded 1 0 = 1)

/-- R449 to R459, R584: a sound frame of the field EtherType with one record: the record is counted and dropped where it is
malformed, of a stream that is not enabled, no later than the newest accepted, or met in REST; otherwise it is accepted, and
one that belongs to no fusion group and no image is stored in its ring slot. Other frames are counted, and a port without
link takes none.
R449, R452: the link of a field port is up when an enabled port that is not held in low power has a DR1 or FR1 module
with light; a port that is up and has a status period sends its status to all, and another sends none.
R460, R461: a port's clock takes messages of its domain while it runs and the link is up: Announce makes the better data
set the master, a Sync of the master (with its Follow_Up where it has one) starts an exchange, and the Delay_Resp of that
exchange gives the offset and the lock; three intervals without an Announce end both. Messages of another domain are
counted, and every message of another source leaves the clock as it is.
Commands stated to complete: fieldRecordFrame, portStatusFrame, ptpAnnounce, ptpSync, ptpFollowUp, ptpDelayResp, ptpAnnounceTimeout, fieldLinkChange. -/
def Obligations.FieldCapture : Prop :=
  (∀ (s : State) (p arrival : Nat) (bytes : List Byte) (fcsOk : Bool), p < 8 →
     let w := s.work
     let i := Instr.fieldRecordFrame p bytes fcsOk arrival
     let et := ofBytesBE (slice bytes 12 2)
     let dst := ofBytesBE (slice bytes 0 6)
     let body := bytes.drop 22
     let len := fieldOf (leAt body 0 32) 144 16
     let r : WireRec := ⟨leAt body 0 32, (body.drop 32).take len⟩
     let x := w.fstream r.stream
     (w.rd F.fldStatLinkUp 0 p = 0 → exec i s = .next s) ∧
     (w.rd F.fldStatLinkUp 0 p ≠ 0 → fcsOk = false ∨ 9212 < bytes.length ∨ (et ≠ w.dv F.fldCfgEthertype ∧ et ≠ 0x88F7) →
       ∃ t, exec i s = .next t ∧ t.mem = s.mem ∧ t.field = s.field ∧
         t.work.rd F.fldStatDropOther 0 p = (w.rd F.fldStatDropOther 0 p + 1) % 2 ^ F.fldStatDropOther.w) ∧
     (w.rd F.fldStatLinkUp 0 p ≠ 0 → fcsOk = true → 22 ≤ bytes.length → bytes.length ≤ 9212 → et = w.dv F.fldCfgEthertype →
       dst = w.rd F.fldPortMac 0 p ∨ dst = 0xFFFFFFFFFFFF → leAt (bytes.drop 14) 0 2 = 1 → 32 + alignUp len 8 ≤ body.length →
       (w.devState = stRest → ∃ t, exec i s = .next t ∧ t.mem = s.mem ∧ t.field = s.field ∧
         t.work.rd F.fldStatRingFull 0 p = (w.rd F.fldStatRingFull 0 p + 1) % 2 ^ F.fldStatRingFull.w) ∧
       (w.devState ≠ stRest → r.malformed = true ∨ x.on = false ∨ 1024 ≤ r.stream → ∃ t, exec i s = .next t ∧
         t.mem = s.mem ∧ t.field = s.field ∧
         t.work.rd F.fldStatMalformed 0 p = (w.rd F.fldStatMalformed 0 p + 1) % 2 ^ F.fldStatMalformed.w) ∧
       (w.devState ≠ stRest → r.malformed = false → x.on = true → r.stream < 1024 →
         (∀ h, x.highest = some h → r.seq ≤ h → ∃ t, exec i s = .next t ∧ t.mem = s.mem ∧ t.field = s.field ∧
           t.work.rd F.fldStatSeqDrop 0 p = (w.rd F.fldStatSeqDrop 0 p + 1) % 2 ^ F.fldStatSeqDrop.w) ∧
         ((∀ h, x.highest = some h → h < r.seq) → (r.stored p arrival).length ≤ x.slotBytes → x.inGroup = false →
           x.frameBase = 0 →
           let slot := if x.slots = 0 then 0 else x.count % x.slots
           w.slotHeld r.stream false slot = false →
           ∃ t, exec i s = .next t ∧ t.mem = (s.on fun w => w.fieldWrite (x.ringBase + slot * x.slotBytes) (r.stored p arrival)).mem ∧
             t.work.fstream r.stream = { x with
               highest := some r.seq, count := x.count + 1,
               recs := x.recs.filter (fun e => e.slot ≠ slot) ++ [⟨r.seq, r.cap, r.corrupt, slot, w.tickNo⟩] } ∧
             t.work.rd F.fldStatRecords 0 p = (w.rd F.fldStatRecords 0 p + 1) % 2 ^ F.fldStatRecords.w)))) ∧
  (∀ (s : State) (p : Nat), p < 8 →
     let w := s.work
     (w.rd F.fldStatLinkUp 0 p ≠ 1 ∨ w.rd F.fldPortStatusMs 0 p = 0 → exec (.portStatusFrame p) s = .next s) ∧
     (w.rd F.fldStatLinkUp 0 p = 1 → w.rd F.fldPortStatusMs 0 p ≠ 0 → ∃ t m, exec (.portStatusFrame p) s = .next t ∧
       t.out = (32 + p, m) :: s.out ∧ t.regs = s.regs ∧ t.mem = s.mem ∧
       m.payload = toBytesBE 6 0xFFFFFFFFFFFF ++ toBytesBE 6 (w.rd F.fldPortMac 0 p) ++ toBytesBE 2 (w.dv F.fldCfgEthertype) ++
         toBytes 8 0 ++ toBytes 32 (w.deviceId % 512 + p * 2 ^ 9 + w.rd F.fldPtpState 0 p * 2 ^ 12 +
           w.rd F.fldPtpOffsetNs 0 p * 2 ^ 32 + w.rd F.fldStatRecords 0 p * 2 ^ 64)) ∧
     (∀ (up : Bool) (kind : CageModule), ∃ t, exec (.fieldLinkChange p up kind) s = .next t ∧ t.mem = s.mem ∧
       t.field = s.field ∧
       (t.work.rd F.fldStatLinkUp 0 p = 1 ↔ up = true ∧ (kind = .dr1 ∨ kind = .fr1) ∧ w.rd F.fldPortEnable 0 p = 1 ∧
         w.modl.lowPower.contains p = false))) ∧
  ∀ (s : State) (p t2 t3 : Nat) (m : PtpMsg), p < 8 → m.wf = true →
    let w := s.work
    let x := w.clock p
    let rows := [Instr.ptpAnnounce p m, .ptpSync p m t2 t3, .ptpFollowUp p m t3, .ptpDelayResp p m]
    (w.ptpOn p = false ∨ w.rd F.fldStatLinkUp 0 p = 0 → ∀ i ∈ rows, exec i s = .next s) ∧
    (w.ptpOn p = true → w.rd F.fldStatLinkUp 0 p ≠ 0 → m.domain ≠ w.rd F.fldPtpDomain 0 p → ∀ i ∈ rows,
      ∃ t, exec i s = .next t ∧ t.field = s.field ∧ t.mem = s.mem ∧
        t.work.rd F.fldPtpDrop 0 p = (w.rd F.fldPtpDrop 0 p + 1) % 2 ^ F.fldPtpDrop.w) ∧
    (w.ptpOn p = true → w.rd F.fldStatLinkUp 0 p ≠ 0 → m.domain = w.rd F.fldPtpDomain 0 p →
      ((x.master = none ∨ (∃ a b, x.master = some (a, b) ∧ a ≠ m.source ∧ m.rank < b)) →
        ∃ t, exec (.ptpAnnounce p m) s = .next t ∧ (t.work.clock p).master = some (m.source, m.rank) ∧
          (t.work.clock p).good = x.good ∧ (t.work.clock p).exch = none ∧ t.work.rd F.fldPtpState 0 p = ptpUncalibrated ∧
          t.work.rd F.fldPtpLocked 0 p = w.rd F.fldPtpLocked 0 p) ∧
      (∀ a b, x.master = some (a, b) → a ≠ m.source → b ≤ m.rank → exec (.ptpAnnounce p m) s = .next s) ∧
      (∀ b, x.master = some (m.source, b) → ∃ t, exec (.ptpAnnounce p m) s = .next t ∧ t.regs = s.regs ∧
        t.work.clock p = { x with master := some (m.source, m.rank) }) ∧
      (w.fromMaster p m = false → ∀ i ∈ rows.drop 1, exec i s = .next s) ∧
      (w.fromMaster p m = true → m.twoStep = true → ∃ t, exec (.ptpSync p m t2 t3) s = .next t ∧ t.regs = s.regs ∧
        t.out = s.out ∧ t.work.clock p = { x with sync := some (m.seqId, t2) }) ∧
      (w.fromMaster p m = true → m.twoStep = false → x.lastReq = none → ∃ t, exec (.ptpSync p m t2 t3) s = .next t ∧
        t.regs = s.regs ∧ t.out.length = s.out.length + 1 ∧
        t.work.clock p = { x with sync := none, exch := some (m.seqId, ptpNs m, t2, t3), lastReq := some t3 }) ∧
      (∀ t1, w.fromMaster p m = true → x.sync = some (m.seqId, t1) → x.lastReq = none →
        ∃ t, exec (.ptpFollowUp p m t3) s = .next t ∧ t.regs = s.regs ∧ t.out.length = s.out.length + 1 ∧
          t.work.clock p = { x with sync := none, exch := some (m.seqId, ptpNs m, t1, t3), lastReq := some t3 }) ∧
      (∀ (t1 : Int) (u2 u3 : Nat), w.fromMaster p m = true → x.exch = some (m.seqId, t1, u2, u3) →
        let t4 : Int := (m.seconds * 1000000000 + m.nanoseconds : Nat) - m.correction
        let off := (((u2 : Int) - t1) - (t4 - u3)) / 2
        let n := if off.natAbs ≤ 1000 then min (x.good + 1) 16 else 0
        ∃ t, exec (.ptpDelayResp p m) s = .next t ∧ t.work.rd F.fldPtpState 0 p = ptpSlave ∧
          t.work.rd F.fldPtpOffsetNs 0 p = sat32 off ∧ (t.work.clock p).good = n ∧
          (t.work.clock p).minLog = m.logInterval ∧ (t.work.clock p).exch = none ∧
          t.work.rd F.fldPtpLocked 0 p = if n = 0 then 0 else if n = 16 then 1 else w.rd F.fldPtpLocked 0 p)) ∧
    (w.ptpOn p = false → exec (.ptpAnnounceTimeout p) s = .next s) ∧
    (w.ptpOn p = true → ∃ t, exec (.ptpAnnounceTimeout p) s = .next t ∧ (t.work.clock p).master = none ∧
      (t.work.clock p).exch = none ∧ t.work.rd F.fldPtpState 0 p = ptpListening ∧ t.work.rd F.fldPtpLocked 0 p = 0)

/-- R479 to R483, R493: the rows of an emit are taken one after the other, and each that the call has passed is counted once:
emitted into a batch, rejected by an earlier operator, left to the host, too wide or corrupt, or not selected. The call stops
at the first row that finds no batch slot.
R479, R480, R482: an emit that fails a check emits nothing and returns the lowest failure; one that passes takes its rows
and returns the rows emitted in a1 and those rejected in a2, or waits, before the guard time, when it finds no batch slot free.
A call that waits goes on when a slot becomes free, and at the guard time returns with what it has emitted.
Commands stated to complete: emit, emitResume, emitWaitTimeout. -/
def Obligations.EmittedRows : Prop :=
  (∀ (e : EmitEnv) (o : OpRec) (stop : Nat) (a : EAcc), a.full = false → a.c.next ≤ stop →
     let b := EAcc.run e o stop a
     a.c.next ≤ b.c.next ∧ b.c.next ≤ stop ∧ (b.full = false → b.c.next = stop) ∧
     (b.full = true → b.c.next < stop) ∧
     b.c.emitted + b.c.c3 + b.c.c4 + b.c.c6 + a.c.next ≤ a.c.emitted + a.c.c3 + a.c.c4 + a.c.c6 + b.c.next ∧
     b.c.rejected + a.c.c3 + a.c.c6 = a.c.rejected + b.c.c3 + b.c.c6 ∧ b.c.rowsIn + a.c.next ≤ a.c.rowsIn + b.c.next ∧
     b.c.core = a.c.core ∧ b.c.stop = a.c.stop ∧ b.c.rec_ = a.c.rec_) ∧
  (∀ (s : State) (d g a row0 count ns : Nat), d < 4 → g < 96 → a < 2 ^ 64 → s.work.coreRuns d g = true →
    let v := s.work.atNs ns
    let i := Instr.emit d g a row0 count ns
    (v.callRecord d g a 64 64 = none → ∃ t, exec i s = .next t ∧ t.mem = s.mem ∧ t.pipes = s.pipes ∧
      (t.work.core d g).getX 10 = sRange ∧ (t.work.core d g).pc = ((s.work.core d g).pc + 4) % 2 ^ 64) ∧
    (∀ bs, v.callRecord d g a 64 64 = some bs →
      let r : Rec := BitVec.ofNat 512 (ofBytes bs)
      let o := emitOp r
      let p := v.planOf (.core d g)
      let x := v.pipe o.mode
      (∀ e fs, v.emitEnv p o row0 count = (e, fs) → fs ≠ [] → ∃ t, exec i s = .next t ∧ t.mem = s.mem ∧ t.pipes = s.pipes ∧
        (t.work.core d g).getX 10 = lowest fs % 2 ^ 64 ∧ (t.work.core d g).pc = ((s.work.core d g).pc + 4) % 2 ^ 64) ∧
      (∀ e e2, v.emitEnv p o row0 count = (some e, []) → x.waiters = [] →
        (∀ q, v.runningTask d g = some q → (v.journalOf q.serial).calls ≤ (v.journalOf q.serial).made ∧
          (v.journalOf q.serial).emitRow = none) →
        let y := v.setPipe o.mode { x with types := some (x.types.getD (e.cols.map (fun k => k.ty.code))) }
        y.emitEnv p o row0 count = (some e2, []) →
        let b := EAcc.run e2 o (row0 + count) { w := y, c := ⟨d * 96 + g, r, p, row0, row0 + count, 0, 0, 0, 0, 0, 0, 0, []⟩ }
        (b.full = false → ∃ t, exec i s = .next t ∧ t = s.on (fun _ => b.w.emitDone b.c true b.unm) ∧
          (t.work.core d g).getX 10 = lowest (b.c.fails ++ if b.w.dtHit then [sRange] else []) % 2 ^ 64 ∧
          (t.work.core d g).getX 11 = b.c.emitted % 2 ^ 64 ∧ (t.work.core d g).getX 12 = b.c.rejected % 2 ^ 64 ∧
          (t.work.core d g).pc = ((s.work.core d g).pc + 4) % 2 ^ 64) ∧
        (b.full = true → b.w.phase < guardStart b.w.period → ∃ t, exec i s = .next t ∧
          (t.work.pipe o.mode).waiters = [b.c] ∧ (t.work.core d g).wait = .emit ∧
          (t.work.core d g).pc = (s.work.core d g).pc)))) ∧
  (∀ (s : State) (q : Nat), q < 32 →
    let w := s.work
    let x := w.pipe q
    (x.waiters = [] → exec (.emitResume q) s = .next s) ∧
    (w.phase < guardStart w.period → x.rows = [] → x.slotFree = false → exec (.emitResume q) s = .next s) ∧
    (∀ c, x.waiters = [c] → w.phase < guardStart w.period → x.rows ≠ [] ∨ x.slotFree = true →
      exec (.emitResume q) s = .next (s.on fun w => (w.setPipe q { x with waiters := [] }).emitGo c true)) ∧
    (∀ c, x.waiters = [c] → guardStart w.period ≤ w.phase →
      exec (.emitResume q) s = .next (s.on fun w => (w.setPipe q { x with waiters := [] }).emitDrop c))) ∧
  (∀ (s : State) (d g : Nat), d < 4 → g < 96 →
    ((s.work.takeWaiter (d * 96 + g)).1 = none → exec (.emitWaitTimeout d g) s = .next s) ∧
    (∀ q c v, s.work.takeWaiter (d * 96 + g) = (some (q, c), v) → ∃ t, exec (.emitWaitTimeout d g) s = .next t ∧
      t = s.on (fun _ => (v.atNs (guardStart v.period)).emitDrop c) ∧ (t.work.core d g).wait = .none ∧
      (t.work.core d g).getX 11 = c.emitted % 2 ^ 64 ∧ (t.work.core d g).getX 12 = c.rejected % 2 ^ 64 ∧
      (t.work.core d g).pc = ((s.work.core d g).pc + 4) % 2 ^ 64))

/-- R490, R505: a PUSH pipeline sends its oldest READY batch when there is a way to its destination, and stores one for a
device that is this one; a BATCH_PART stores its bytes in the slot that it names, in a pipeline that is declared.
Commands stated to complete: pushSend, batchPart. -/
def Obligations.BatchDelivery : Prop :=
  (∀ (s : State) (q : Nat), q < 32 →
    let w := s.work
    let x := w.pipe q
    let dst := if x.toSession then w.ownBridge else x.pushDev
    (x.ready = [] ∨ x.push = false ∨ (dst ≠ w.deviceId ∧ w.usablePorts dst clsData = []) → exec (.pushSend q) s = .next s) ∧
    (∀ b rest, x.ready = b :: rest → x.push = true →
      (dst = w.deviceId → x.toSession = false → ∃ t, exec (.pushSend q) s = .next t ∧
        t.work.pipe q = { x with batches := x.batches.filter (fun (c : BBatch) => c.seq ≠ b.seq) } ∧
        ∀ bs, w.read (x.slotAt b.seq) x.slotBytes = some bs →
          t.mem = (s.on fun w => w.write (x.pushAddr + b.seq % x.slots * x.slotBytes) bs).mem) ∧
      ((dst = w.deviceId ∧ x.toSession = true) ∨ (dst ≠ w.deviceId ∧ w.usablePorts dst clsData ≠ []) →
        ∃ t, exec (.pushSend q) s = .next t ∧ t.work.pipe q = x.mark b.seq 4 w.tickNo ∧ t.mem = s.mem))) ∧
  (∀ (s : State) (h : KHdr) (bs : List Byte), (Instr.batchPart h bs).wf = true → TakenHere 0 2 h s → s.work.devState ≠ stRest →
    let v := leAt bs 0 32
    let x := s.work.pipe (fieldOf v 0 5)
    let off := fieldOf v 128 64
    let good := x.plan ≠ noPlan ∧ 32 ≤ bs.length ∧ fieldOf v 192 32 = x.slotBytes ∧ off + (bs.length - 32) ≤ x.slotBytes
    (good → exec (.batchPart h bs) s = .next (s.on fun w =>
      w.ringWrite 0 x.plan (x.slotAt (fieldOf v 64 64) + off) (bs.drop 32))) ∧
    (¬ good → exec (.batchPart h bs) s = .next s))

/-- R489: a DELIVERED batch left unacknowledged for 16 ticks returns to READY and is counted; a BQ_FETCH frees the batches that
it acknowledges and sends the oldest READY ones, which are DELIVERED from then on, however often they were sent before.
Commands stated to complete: bqFetch, redeliver. -/
def Obligations.BatchesAreSentAgain : Prop :=
  (∀ (s : State) (h : KHdr) (bs : List Byte), (Instr.bqFetch h bs).wf = true → OrderHere 0x0A h s → s.work.devState ≠ stRest →
    let v := leAt bs 0 16
    let x := s.work.pipe (fieldOf v 0 5)
    let most := fieldOf v 8 5
    let ack := fieldOf v 64 64
    bs.length = 16 → fieldOf v 5 3 = 0 → fieldOf v 13 51 = 0 → most ≤ 16 → x.plan ≠ noPlan → x.push = false ∨ most = 0 →
    let y := { x with batches := if ack = 2 ^ 64 - 1 then x.batches else
      x.batches.filter (fun (b : BBatch) => !(decide (b.st = 4) && decide (b.seq ≤ ack))) }
    let out := y.ready.take most
    let z := out.foldl (fun (x : Pipe) b => x.mark b.seq 4 s.work.tickNo) y
    ∃ t, exec (.bqFetch h bs) s = .next t ∧ t.mem = s.mem ∧ t.work.pipe (fieldOf v 0 5) = z ∧
      t = s.on fun w => (out.foldl (fun (w : Work) b => w.sendSlot y b.seq h.srcDev h.srcSess false)
        (w.setPipe (fieldOf v 0 5) z)).ctrlDone h sOk (toBytes 4 out.length)) ∧
  (∀ (s : State) (q seq : Nat), q < 32 →
    let x := s.work.pipe q
    (∀ b, x.batches.find? (fun (b : BBatch) => b.seq = seq) = some b → b.st = 4 → b.sent + 16 ≤ s.work.tickNo →
      ∃ t, exec (.redeliver q seq) s = .next t ∧ t.work.pipe q = x.mark seq 3 b.sent ∧ t.mem = s.mem ∧
        t.work.rd F.bqStatRedeliver 0 q = min (s.work.rd F.bqStatRedeliver 0 q + 1) (2 ^ F.bqStatRedeliver.w - 1)) ∧
    ((∀ b, x.batches.find? (fun (b : BBatch) => b.seq = seq) = some b → b.st ≠ 4 ∨ s.work.tickNo < b.sent + 16) →
      exec (.redeliver q seq) s = .next s))

/-- R525, R530 to R539: a TWIN message counts only from the partner of a paired device. HELLO decides the roles or asks for a
copy; a delta is kept part by part, acknowledged when it is whole and sound and refused when it is not, and an acknowledgement
takes it out of the ACTIVE's buffer; a bulk copy is taken when all of it has come; DETACH and HANDOVER are noted for the next
tick.
Commands stated to complete: hello, heartbeat, deltaPart, deltaEnd, deltaAck, bulkPart, bulkEnd, detach, handover. -/
def Obligations.TwinMessages : Prop :=
  ∀ (s : State) (h : KHdr) (bs : List Byte), h.wf = true → bs.length = h.len → h.cls = 5 →
    let w := s.work
    let fromP := w.paired = true ∧ h.srcDev = w.partner
    let e := leAt bs 0 8
    (∀ (k : Nat) (c : KHdr → List Byte → Instr),
      (k, c) ∈ [(1, Instr.hello), (2, Instr.heartbeat), (3, Instr.deltaPart), (4, Instr.deltaEnd), (5, Instr.deltaAck),
        (6, Instr.bulkPart), (7, Instr.bulkEnd), (8, Instr.detach), (9, Instr.handover)] →
      h.typ = k → ¬ fromP → exec (c h bs) s = .next s) ∧
    (fromP →
      (h.typ = 1 →
        (fieldOf e 0 9 ≠ w.partner ∨ fieldOf e 9 8 ≠ w.dv F.bootIdentityPair → exec (.hello h bs) s = .next s) ∧
        (fieldOf e 0 9 = w.partner → fieldOf e 9 8 = w.dv F.bootIdentityPair →
          (s.twin.decided = false → bitOf e 18 = true → ∃ t, exec (.hello h bs) s = .next t ∧ t.regs = s.regs ∧ t.mem = s.mem ∧
            t.twin = { s.twin with decided := true, next := if w.deviceId < w.partner then .active else .mirror }) ∧
          (s.twin.decided = false → bitOf e 18 = false → bitOf e 17 = false → ∃ t, exec (.hello h bs) s = .next t ∧
            t.mem = s.mem ∧ t.twin = { s.twin with decided := true, next := .attach }) ∧
          (s.twin.decided = true → bitOf e 17 = true → w.isMirror = false → w.pairState = pairSolo → s.twin.next = .none →
            ∃ t, exec (.hello h bs) s = .next t ∧ t.regs = s.regs ∧ t.mem = s.mem ∧ t.twin = { s.twin with next := .join }))) ∧
      (h.typ = 3 →
        (w.isMirror = false → exec (.deltaPart h bs) s = .next s) ∧
        (w.isMirror = true → (∀ d ∈ s.twin.rx, d.epoch = e → d.whole = false) → ∃ t, exec (.deltaPart h bs) s = .next t ∧
          t.regs = s.regs ∧ t.mem = s.mem ∧ (∃ d ∈ t.twin.rx, d.epoch = e ∧ (leAt bs 9 3, bs) ∈ d.parts) ∧
          (∀ d, d.epoch ≠ e → (d ∈ t.twin.rx ↔ d ∈ s.twin.rx)))) ∧
      (h.typ = 4 → w.isMirror = true → s.twin.mute = false →
        let d := (s.twin.rx.find? (fun d => d.epoch = e)).getD ⟨e, [], false⟩
        let sound := d.whole = true ∨ (d.inOrder.length = leAt bs 8 3 ∧ (∀ k, k < leAt bs 8 3 → ∃ p ∈ d.parts, p.1 = k) ∧
          crc32c d.inOrder.flatten = leAt bs 12 4)
        ∃ t, exec (.deltaEnd h bs) s = .next t ∧ t.mem = s.mem ∧
          (sound → ({ d with whole := true } : RxDelta) ∈ t.twin.rx ∧
            t.work.dv F.twnStateLastAcked = max e (w.dv F.twnStateLastAcked) % 2 ^ 64) ∧
          (¬ sound → (∀ q ∈ t.twin.rx, q.epoch ≠ e) ∧ t.work.dv F.twnStateLastAcked = w.dv F.twnStateLastAcked)) ∧
      (h.typ = 5 →
        (w.isMirror = true ∨ (∀ d ∈ s.twin.deltas, d.epoch ≠ e) → exec (.deltaAck h bs) s = .next s) ∧
        (w.isMirror = false → (∃ d ∈ s.twin.deltas, d.epoch = e) → ∃ t, exec (.deltaAck h bs) s = .next t ∧ t.mem = s.mem ∧
          (leAt bs 8 2 = sOk → t.twin.deltas = s.twin.deltas.filter (fun q => q.epoch ≠ e)) ∧
          (leAt bs 8 2 ≠ sOk → t.twin.deltas = s.twin.deltas ∧
            t.work.dv F.twnStatResends = (w.dv F.twnStatResends + 1) % 2 ^ F.twnStatResends.w))) ∧
      (h.typ = 6 →
        (w.isMirror = false → exec (.bulkPart h bs) s = .next s) ∧
        (w.isMirror = true → ∃ t, exec (.bulkPart h bs) s = .next t ∧ t.regs = s.regs ∧ t.mem = s.mem ∧
          t.twin = { s.twin with bulk := (leAt bs 9 3, bs) :: s.twin.bulk.filter (fun p => p.1 ≠ leAt bs 9 3) })) ∧
      (h.typ = 7 →
        (w.isMirror = false ∨ (∃ k, k < leAt bs 8 3 ∧ ∀ p ∈ s.twin.bulk, p.1 ≠ k) → exec (.bulkEnd h bs) s = .next s) ∧
        (w.isMirror = true → (∀ k, k < leAt bs 8 3 → ∃ p ∈ s.twin.bulk, p.1 = k) →
          ∃ t, exec (.bulkEnd h bs) s = .next t ∧ t.twin.bulk = [] ∧ t.twin.bulkDone = true)) ∧
      (h.typ = 8 →
        (w.isMirror = true ∨ w.pairState = pairSolo → exec (.detach h bs) s = .next s) ∧
        (w.isMirror = false → w.pairState ≠ pairSolo → ∃ t, exec (.detach h bs) s = .next t ∧ t.regs = s.regs ∧
          t.mem = s.mem ∧ t.twin = { s.twin with next := .left })) ∧
      (h.typ = 9 →
        (w.isMirror = false ∨ w.pairState ≠ pairMirrored → exec (.handover h bs) s = .next s) ∧
        (w.isMirror = true → w.pairState = pairMirrored → ∃ t, exec (.handover h bs) s = .next t ∧ t.regs = s.regs ∧
          t.mem = s.mem ∧ t.twin = { s.twin with hand := some e })))

/-- R532 to R539: the partner's heartbeat clears the count of those missed, and the pair follows what it says; the third one
missed in SYNCING or MIRRORED ends the pair, or has a MIRROR take over; an unacknowledged delta makes the pair SOLO; the wait for a partner ends in
SOLO; HANDOVER is taken by a mirrored ACTIVE only; and a MIRROR that is told to drain detaches.
Commands stated to complete: planDrain, pairingWaitExpire, heartbeat, heartbeatMiss, deltaLagExpire, twnCtlHandover, runPhaseStart. -/
def Obligations.TwinEvents : Prop :=
  (∀ (s : State) (h : KHdr) (bs : List Byte), (Instr.heartbeat h bs).wf = true → h.cls = 5 → h.typ = 2 →
    s.work.paired = true → h.srcDev = s.work.partner →
    let x := leAt bs 0 24
    ∃ t, exec (.heartbeat h bs) s = .next t ∧ t.work.dv F.twnStateMissed = 0 ∧
      t.twin.heard = (s.twin.heard || decide (fieldOf x 0 64 = s.work.tickNo % 2 ^ 64)) ∧
      (s.twin.decided = true → s.work.isMirror = true → bitOf x 64 = false → fieldOf x 65 2 = pairSyncing →
        s.work.pairState = pairSolo → t.work.pairState = pairSyncing) ∧
      (s.twin.decided = true → s.work.isMirror = false → bitOf x 64 = true → fieldOf x 65 2 = pairMirrored →
        s.work.pairState = pairSyncing → t.work.pairState = pairMirrored ∧ t.work.dv F.twnStateFailedOver = 0) ∧
      (s.twin.decided = true → s.work.isMirror = false → bitOf x 64 = false → s.work.devState ≠ stStarting →
        s.work.staysActive (bitOf x 67) = false → t.work.isMirror = true ∧ t.work.pairState = pairSolo ∧
          t.work.devState = stMirror)) ∧
  (∀ (s : State),
    let w := s.work
    let waits := w.paired = true ∧ s.twin.decided = true ∧ s.twin.heard = false
    ∃ t, exec .heartbeatMiss s = .next t ∧ t.twin.heard = true ∧ t.mem = s.mem ∧
      (¬ waits → t.regs = s.regs ∧ t.twin.next = s.twin.next) ∧
      (waits → t.work.dv F.twnStateMissed = min (w.dv F.twnStateMissed + 1) 15 ∧
        (w.dv F.twnStateMissed + 1 < 3 ∨ w.pairState = pairSolo ∨ w.pairState = pairFailing → t.work.pairState = w.pairState ∧ t.twin.next = s.twin.next) ∧
        (3 ≤ w.dv F.twnStateMissed + 1 → w.pairState ≠ pairSolo → w.pairState ≠ pairFailing →
          (w.isMirror = false → t.twin.next = .lost) ∧
          (w.isMirror = true → w.pairState = pairSyncing → t.work.pairState = pairSolo) ∧
          (w.isMirror = true → w.pairState = pairMirrored → t.twin.next = .failover ∧ t.work.pairState = pairFailing)))) ∧
  (∀ (s : State),
    let w := s.work
    let lags := w.isMirror = false ∧ w.lagging = true ∧ w.pairState ≠ pairSolo
    (¬ lags → exec .deltaLagExpire s = .next s) ∧
    (lags → ∃ t, exec .deltaLagExpire s = .next t ∧ t.twin.deltas = [] ∧ t.work.pairState = pairSolo ∧ t.mem = s.mem)) ∧
  (∀ (s : State),
    (s.work.paired = true → s.twin.decided = false → ∃ t, exec .pairingWaitExpire s = .next t ∧ t.regs = s.regs ∧
      t.mem = s.mem ∧ t.twin = { s.twin with decided := true, next := .solo }) ∧
    (s.work.paired = false ∨ s.twin.decided = true → exec .pairingWaitExpire s = .next s)) ∧
  (∀ (s : State),
    let v := (s.work.atNs (commitEnd s.work.period)).refreshAll
    (v.isMirror = true ∨ s.twin.bulkDue = false → exec .runPhaseStart s = .next (s.on fun _ => v)) ∧
    (v.isMirror = false → s.twin.bulkDue = true → commitEnd v.period ≤ v.phase → ∃ t, exec .runPhaseStart s = .next t ∧ t.twin.bulkDue = false)) ∧
  (∀ (s : State) (b : Requester), b.wf = true →
    let may := s.work.paired = true ∧ s.work.isMirror = false ∧ s.work.pairState = pairMirrored
    (¬ may → exec (.twnCtlHandover b) s = .next s) ∧
    (may → ∃ t, exec (.twnCtlHandover b) s = .next t ∧ t.work.dv F.twnCtlHandover = 1 ∧ t.mem = s.mem ∧
      (s.work.dv F.twnCtlHandover ≠ 1 → t.twin = { s.twin with next := .handover }) ∧
      (s.work.dv F.twnCtlHandover = 1 → t.twin = s.twin))) ∧
  (∀ (s : State) (h : KHdr) (bs : List Byte), (Instr.planDrain h bs).wf = true → OrderHere 0x06 h s →
    (s.work.isMirror = true → h.dstDev = s.work.deviceId → ∃ t, exec (.planDrain h bs) s = .next t ∧
      t.twin = { s.twin with next := .detach, mute := true, reply := some h } ∧ t.mem = s.mem) ∧
    (∀ p w, s.work.isMirror = false → 1 ≤ bs.length → p = leAt bs 0 1 % 16 → s.work.resolve objPlan p 0 h = some w →
      (w.plan p).pending = 0 →
      (w.planState p = 2 → exec (.planDrain h bs) s = .next (s.on fun _ =>
        (w.setPlan p { w.plan p with pending := 2, reply := some h }).wr (F.dispPlanStatePending p) 0 0 1)) ∧
      (w.planState p ≠ 2 → exec (.planDrain h bs) s = .next (s.on fun _ => w.planRefuse h))))

/-- R547, R548, R554: a core or engine that hangs, or whose cause firmware finds, is fenced and takes the next spare of its
kind on its die, or is lost where none is left; a fence that no cause backs, and one of a unit that is out of service, does
nothing. SPR_FENCE records whether the unit that it names was in service, or that no unit of the kind has the id.
R555, R597: a management core that fails is replaced at once by a spare; without one it is lost and the device becomes
DEGRADED; either way the events that it was serving, or that were held for it, return to pending. A core already lost is not fenced again.
Commands stated to complete: hangDetect, unitFence, sprFence, mcFence. -/
def Obligations.UnitsFenced : Prop :=
  ((∀ (s : State) (d u cause : Nat), d < 4 → u < 120 →
     let w := s.work
     let x := w.unitSt d u
     let kind := if u < 96 then kGc else kMe
     let fenced := fun (i : Instr) (k : Nat) => ∃ t, exec i s = .next t ∧ (t.work.unitSt d u).fenced = true ∧
       (t.work.unitSt d u).cause = k ∧ (t.work.unitSt d u).lost = (w.spareList kind d).isEmpty ∧
       t.work.spareList kind d = (w.spareList kind d).drop 1
     let due := (cause = 1 ∧ 2 ≤ x.ues.length) ∨
       (cause = 2 ∧ w.dv F.errCfgLmCeLimit ≠ 0 ∧ w.dv F.errCfgLmCeLimit < x.ces) ∨ cause = 3 ∨
       (cause = 4 ∧ w.canHang d u = true) ∨ cause = 5
     (w.unitInService d u = true → w.canHang d u = true → fenced (.hangDetect d u) 4) ∧
     (w.unitInService d u = false ∨ w.canHang d u = false → exec (.hangDetect d u) s = .next s) ∧
     (w.unitInService d u = true → due → fenced (.unitFence d u cause) cause) ∧
     (w.unitInService d u = false ∨ ¬ due → exec (.unitFence d u cause) s = .next s)) ∧
   (∀ (s : State) (b : Requester) (v : BitVec 64), b.wf = true →
     let f := s.work.fenceNamed (fieldOf v.toNat 0 4) (fieldOf v.toNat 4 2) (fieldOf v.toNat 6 10)
     (fenceIds (fieldOf v.toNat 0 4) ≤ fieldOf v.toNat 6 10 → ∃ t, exec (.sprFence b v) s = .next t ∧ t.mem = s.mem ∧
       t.spr = s.spr ∧ t.work.dv F.sprLogLastStatus = sRange) ∧
     (fieldOf v.toNat 6 10 < fenceIds (fieldOf v.toNat 0 4) → f = none → ∃ t, exec (.sprFence b v) s = .next t ∧ t.mem = s.mem ∧ t.spr = s.spr ∧
       t.work.dv F.sprLogLastStatus = sState) ∧
     (∀ w, fieldOf v.toNat 6 10 < fenceIds (fieldOf v.toNat 0 4) → f = some w → ∃ t, exec (.sprFence b v) s = .next t ∧ t.work.dv F.sprLogLastStatus = sOk ∧ t.spr = w.spr))) ∧
  ∀ (s : State) (mc cause : Nat), mc < 4 →
    (s.work.mcServes mc = false → exec (.mcFence mc cause) s = .next s) ∧
    (s.work.mcServes mc = true → (s.work.spareList kMc 0).isEmpty = false →
      exec (.mcFence mc cause) s = .next (s.on fun w => (w.fenceToSpare kMc 0 mc cause 0).mcReplay mc (w.heldFor mc))) ∧
    (s.work.mcServes mc = true → (s.work.spareList kMc 0).isEmpty = true →
      ∃ t, exec (.mcFence mc cause) s = .next t ∧ t.work.mcServes mc = false ∧ t.work.rdB F.sprMapDegraded 0 0 = true)

/-- R546, R560, R561: a frame that is retired for a cause is logged, and its page moves with its bytes to a reserve frame of
its tier that no other page has; with no reserve left the page stays and the die of the memory is marked degraded.
R558, R562, R563: a patrol pass counts the corrected words of each frame anew and poisons the rows that it cannot correct,
and no others; a failure without a spare is fatal: the die is marked degraded and every plan is to be FAULTED.
Commands stated to complete: frameRetire, hbmScrub, fatalFailure. -/
def Obligations.MemoryRetiredAndFatalFailures : Prop :=
  (∀ (s : State) (tier f cause : Nat), tier < 2 → f < 524288 →
     let w := s.work
     let lpx := decide (tier = 1)
     let due := cause = 1 ∨ (cause = 2 ∧ tier = 0 ∧ w.dv F.errCfgPageCeLimit ≠ 0 ∧
       w.dv F.errCfgPageCeLimit < smGet 0 s.spr.pageCe f) ∨
       (cause = 7 ∧ tier = 0 ∧ ∃ r ∈ s.bad, inRange (frameKey lpx f / 64) 32768 r = true)
     (¬ due ∨ (tier, f) ∈ s.spr.retired → exec (.frameRetire tier f cause) s = .next s) ∧
     (due → (tier, f) ∉ s.spr.retired →
       (w.pageOf tier f = none → ∃ t, exec (.frameRetire tier f cause) s = .next t ∧ t.mem = s.mem ∧ t.pages = s.pages ∧
         t.spr.retired = (tier, f) :: s.spr.retired ∧
         t.work.rd F.errMemRetired 0 (memInstance tier f) =
           (w.rd F.errMemRetired 0 (memInstance tier f) + 1) % 2 ^ F.errMemRetired.w) ∧
       (∀ n, w.pageOf tier f = some n → w.reserveLeft tier = [] → ∃ t, exec (.frameRetire tier f cause) s = .next t ∧
         t.mem = s.mem ∧ t.pages = s.pages ∧ t.spr.retired = s.spr.retired ∧
         t.work.rd F.sprMapDegraded (memDie tier f) 0 = 1) ∧
       (∀ n, w.pageOf tier f = some n → w.reserveLeft tier ≠ [] → ∃ t dest, exec (.frameRetire tier f cause) s = .next t ∧
         dest ∈ w.reserveLeft tier ∧ dest ∉ t.work.reserveLeft tier ∧ t.work.page n = { w.page n with frame := dest } ∧
         t.spr.retired = (tier, f) :: s.spr.retired ∧
         (MemInv s → ∀ o, o < 0x200000 →
           Memory.get t.mem (frameKey lpx dest + o) = Memory.get s.mem (frameKey lpx f + o))))) ∧
  (∀ (s : State) (found : List (Nat × Ecc)), ∃ t, exec (.hbmScrub found) s = .next t ∧ t.mem = s.mem ∧
    (∀ f, smGet 0 t.spr.pageCe f =
      (found.filter (fun e => decide (e.1 < 0x10000000000) && decide (e.1 / 0x200000 = f) && decide (e.2 = .corrected))).length) ∧
    (∀ r, r ∈ t.bad ↔ r ∈ s.bad ∨ ∃ k, (k, Ecc.uncorrectable) ∈ found ∧ k < 0x10000000000 ∧ k / 64 = r)) ∧
  (∀ (s : State) (d : Nat) (what : FatalUnit), d < 4 → ∃ t, exec (.fatalFailure d what) s = .next t ∧ t.mem = s.mem ∧
    t.spr.fatal = true ∧ t.work.rd F.sprMapDegraded d 0 = 1 ∧
    ∀ p, p < 16 → t.work.plan p = (s.work.faultPlan p sNoSpare).plan p)
end

