-- ==== Sys2Proof/Laws/Sparse.lean ====
section
/-! SUPPORT. What a sparse map reads after it is written, and that writing and filtering keep its canonical form. -/

namespace Sys2Proof.Machine

variable {α : Type} [DecidableEq α] {d : α}

omit [DecidableEq α] in
@[simp] theorem smGet_nil (a : Nat) : smGet d ([] : List (Nat × α)) a = d := rfl

/-- The first key of a canonical map is below every other. -/
theorem smWf_head {k : Nat} {v : α} {m : List (Nat × α)} (h : smWf d ((k, v) :: m) = true) :
    v ≠ d ∧ smWf d m = true ∧ ∀ l u, (l, u) ∈ m → k < l := by
  induction m generalizing k v with
  | nil => simp_all [smWf]
  | cons p m ih =>
    obtain ⟨l, u⟩ := p
    simp only [smWf, Bool.and_eq_true, decide_eq_true_eq] at h
    obtain ⟨⟨hv, hk⟩, hm⟩ := h
    refine ⟨hv, hm, ?_⟩
    intro l' u' hmem
    rcases List.mem_cons.mp hmem with h1 | h1
    · cases h1; exact hk
    · exact Nat.lt_trans hk ((ih hm).2.2 l' u' h1)

/-- The converse of `smWf_head`. -/
theorem smWf_cons {k : Nat} {v : α} {m : List (Nat × α)} (hv : v ≠ d) (hm : smWf d m = true)
    (hk : ∀ l u, (l, u) ∈ m → k < l) : smWf d ((k, v) :: m) = true := by
  cases m with
  | nil => simp [smWf, hv]
  | cons p m =>
    obtain ⟨l, u⟩ := p
    simp [smWf, hv, hm, hk l u (List.mem_cons_self ..)]

/-- Leaving entries out keeps the canonical form. -/
theorem smWf_filter {m : List (Nat × α)} (p : Nat × α → Bool) (h : smWf d m = true) : smWf d (m.filter p) = true := by
  induction m with
  | nil => rfl
  | cons q m ih =>
    obtain ⟨k, u⟩ := q
    obtain ⟨hu, hm, hk⟩ := smWf_head h
    simp only [List.filter_cons]
    split
    · exact smWf_cons hu (ih hm) (fun l w hl => hk l w (List.mem_filter.mp hl).1)
    · exact ih hm

omit [DecidableEq α] in
/-- What a map reads where entries were left out by their key. -/
theorem smGet_filter {m : List (Nat × α)} (p : Nat → Bool) (a : Nat) :
    smGet d (m.filter (fun c => p c.1)) a = if p a then smGet d m a else d := by
  induction m with
  | nil => simp [smGet]
  | cons q m ih =>
    obtain ⟨k, u⟩ := q
    by_cases hk : p k = true
    · simp only [List.filter_cons, hk, if_true, smGet]
      by_cases ha : k = a
      · subst ha; simp [hk]
      · simp only [ha, if_false, ih]
    · simp only [List.filter_cons, hk, smGet]
      by_cases ha : k = a
      · subst ha; simp [hk, ih]
      · simp [ha, ih]

/-- Dropping a key keeps the canonical form. -/
theorem smWf_smDrop {m : List (Nat × α)} (a : Nat) (h : smWf d m = true) : smWf d (smDrop m a) = true := smWf_filter _ h

omit [DecidableEq α] in
/-- What a map reads without one key. -/
theorem smGet_smDrop (m : List (Nat × α)) (a b : Nat) :
    smGet d (smDrop m a) b = if b = a then d else smGet d m b := by
  have := smGet_filter (d := d) (m := m) (fun k => decide (k ≠ a)) b
  unfold smDrop
  rw [this]
  by_cases hb : b = a <;> simp [hb]

/-- The keys of a map after a write are its own and the one written. -/
theorem smSet_mem {a l : Nat} {v u : α} {m : List (Nat × α)} (h : (l, u) ∈ smSet d m a v) : l = a ∨ ∃ w, (l, w) ∈ m := by
  induction m with
  | nil =>
    unfold smSet at h
    split at h
    · simp at h
    · simp at h; exact .inl h.1
  | cons p m ih =>
    obtain ⟨k, x⟩ := p
    have drop : (l, u) ∈ smDrop m a → (l, u) ∈ m := fun hm => (List.mem_filter.mp hm).1
    unfold smSet at h
    split at h
    · split at h
      · rcases List.mem_cons.mp h with h1 | h1
        · cases h1; exact .inr ⟨_, List.mem_cons_self ..⟩
        · exact .inr ⟨u, List.mem_cons_of_mem _ (drop h1)⟩
      · rcases List.mem_cons.mp h with h1 | h1
        · cases h1; exact .inl rfl
        · exact .inr ⟨u, h1⟩
    · split at h
      · rename_i hak
        split at h
        · exact .inr ⟨u, List.mem_cons_of_mem _ (drop h)⟩
        · rcases List.mem_cons.mp h with h1 | h1
          · cases h1; exact .inl hak.symm
          · exact .inr ⟨u, List.mem_cons_of_mem _ h1⟩
      · rcases List.mem_cons.mp h with h1 | h1
        · cases h1; exact .inr ⟨_, List.mem_cons_self ..⟩
        · rcases ih h1 with h2 | ⟨w, h2⟩
          · exact .inl h2
          · exact .inr ⟨w, List.mem_cons_of_mem _ h2⟩

/-- Writing keeps the canonical form. -/
theorem smWf_smSet {m : List (Nat × α)} (a : Nat) (v : α) (h : smWf d m = true) : smWf d (smSet d m a v) = true := by
  induction m with
  | nil =>
    unfold smSet
    split
    · rfl
    · simp [smWf, *]
  | cons p m ih =>
    obtain ⟨k, u⟩ := p
    obtain ⟨hu, hm, hk⟩ := smWf_head h
    unfold smSet
    split
    · rename_i hak
      split
      · exact smWf_cons hu (smWf_smDrop a hm) (fun l w hl => hk l w (List.mem_filter.mp hl).1)
      · refine smWf_cons (by assumption) h ?_
        intro l w hl
        rcases List.mem_cons.mp hl with h1 | h1
        · cases h1; exact hak
        · exact Nat.lt_trans hak (hk l w h1)
    · split
      · split
        · exact smWf_smDrop a hm
        · exact smWf_cons (by assumption) hm hk
      · refine smWf_cons hu (ih hm) ?_
        intro l w hl
        rcases smSet_mem hl with h1 | ⟨x, h1⟩
        · omega
        · exact hk l x h1

/-- A read after a write of the same key gives the value written. -/
@[simp] theorem smGet_smSet_same (m : List (Nat × α)) (a : Nat) (v : α) : smGet d (smSet d m a v) a = v := by
  induction m with
  | nil =>
    unfold smSet
    split
    · simp_all [smGet]
    · simp [smGet]
  | cons p m ih =>
    obtain ⟨k, u⟩ := p
    unfold smSet
    split
    · have : k ≠ a := by omega
      split
      · simp [smGet, smGet_smDrop, *]
      · simp [smGet]
    · split
      · rename_i hak
        split
        · simp [smGet_smDrop, *]
        · simp [smGet, hak]
      · have : k ≠ a := by omega
        simp [smGet, this, ih]

/-- A write leaves every other key as it was. -/
theorem smGet_smSet_other {m : List (Nat × α)} {a b : Nat} {v : α} (hab : a ≠ b) :
    smGet d (smSet d m a v) b = smGet d m b := by
  have hba : ¬ b = a := fun h => hab h.symm
  induction m with
  | nil =>
    unfold smSet
    split
    · rfl
    · simp [smGet, hab]
  | cons p m ih =>
    obtain ⟨k, u⟩ := p
    unfold smSet
    split
    · split
      · simp [smGet, smGet_smDrop, hba]
      · simp [smGet, hab]
    · split
      · rename_i hak
        have : k ≠ b := by omega
        split
        · simp [smGet, smGet_smDrop, hba, this]
        · simp [smGet, this]
      · simp only [smGet, ih]

end Sys2Proof.Machine
end

