-- ==== Sys2Proof/Laws/State.lean ====
section
/-! SUPPORT. One lemma per field and update of the block: what an update leaves alone, and what is read back. -/

namespace Sys2Proof.Machine

/-! ## The block as a command finds it, and the state after it -/

@[simp] theorem State.work_toBlock (s : State) : s.work.toBlock = s.toBlock := rfl
@[simp] theorem State.work_mem (s : State) : s.work.mem = s.mem := rfl
@[simp] theorem State.work_jnl (s : State) : s.work.jnl = [] := rfl
@[simp] theorem State.work_adds (s : State) : s.work.adds = [] := rfl
@[simp] theorem State.work_holding (s : State) : s.work.holding = false := rfl

/-- A byte stored changes the journal and the note of a descriptor-table page alone. -/
theorem Work.put_only (w : Work) (a : Nat) (f : Byte → Byte) : ∃ j h, w.put a f = { w with jnl := j, dtHit := h } := by
  unfold Work.put
  split
  · exact ⟨w.jnl, true, rfl⟩
  · split
    · exact ⟨_, w.dtHit, rfl⟩
    · exact ⟨w.jnl, w.dtHit, rfl⟩

/-- So do bytes stored. -/
theorem Work.write_only (w : Work) (a : Nat) (bs : List Byte) : ∃ j h, w.write a bs = { w with jnl := j, dtHit := h } := by
  induction bs generalizing w a with
  | nil => exact ⟨w.jnl, w.dtHit, rfl⟩
  | cons b bs ih =>
    obtain ⟨j, h, e⟩ := w.put_only a (fun _ => b)
    obtain ⟨j', h', e'⟩ := ih (w.put a (fun _ => b)) (a + 1)
    exact ⟨j', h', by rw [Work.write, e', e]⟩

/-- And so does a float addition. -/
theorem Work.addFloat_only (w : Work) (x : ETy × Nat × Nat) : ∃ j h, w.addFloat x = { w with jnl := j, dtHit := h } := by
  unfold Work.addFloat
  dsimp only
  split
  · exact w.write_only _ _
  · exact ⟨w.jnl, w.dtHit, rfl⟩

/-- Float additions that take effect store bytes and use up free values, and nothing else. -/
theorem Work.flushAdds_only (w : Work) :
    ∃ j h a c, w.flushAdds = { w with jnl := j, dtHit := h, adds := a, free := c } := by
  have fold : ∀ (l : List (ETy × Nat × Nat)) (v : Work), ∃ j h, l.foldl Work.addFloat v = { v with jnl := j, dtHit := h } := by
    intro l
    induction l with
    | nil => exact fun v => ⟨v.jnl, v.dtHit, rfl⟩
    | cons x l ih =>
      intro v
      obtain ⟨j, h, e⟩ := v.addFloat_only x
      obtain ⟨j', h', e'⟩ := ih (v.addFloat x)
      exact ⟨j', h', by rw [List.foldl_cons, e', e]⟩
  unfold Work.flushAdds
  split
  · exact ⟨w.jnl, w.dtHit, w.adds, w.free, rfl⟩
  · obtain ⟨j, h, e⟩ := fold _ _
    exact ⟨j, h, _, _, e⟩

/-- A command that makes no float addition under COMBINE ADD has none to take effect. -/
theorem Work.flushAdds_nil {w : Work} (h : w.adds = []) : w.flushAdds = w := by simp [Work.flushAdds, h]

/-- The state after a command is the block as its effect leaves it, but for float additions, the matrix-engine words that
it cures and the reservations that it ends. -/
theorem State.on_eq (f : Work → Work) (s : State) : ∃ c ws cs, s.on f =
    { toBlock := { (f s.work).toBlock with free := c, badWords := ws, cores := cs },
      mem := Memory.commit s.mem (f s.work).flushAdds.jnl, pending := s.pending } := by
  obtain ⟨j, h, a, c, e⟩ := (f s.work).flushAdds_only
  exact ⟨c, _, _, by simp only [State.on, e]; rfl⟩

@[simp] theorem State.on_pending (f : Work → Work) (s : State) : (s.on f).pending = s.pending := rfl
@[simp] theorem State.on_mem (f : Work → Work) (s : State) :
    (s.on f).mem = Memory.commit s.mem (f s.work).flushAdds.jnl := rfl
@[simp] theorem State.on_free (f : Work → Work) (s : State) : (s.on f).free = (f s.work).flushAdds.free := rfl
@[simp] theorem State.on_badWords (f : Work → Work) (s : State) :
    (s.on f).badWords = (f s.work).flushAdds.cureWords.badWords := rfl
@[simp] theorem State.on_cores (f : Work → Work) (s : State) :
    (s.on f).cores = (f s.work).flushAdds.cureWords.dropReservations.cores := rfl
@[simp] theorem State.on_regs (f : Work → Work) (s : State) : (s.on f).regs = (f s.work).regs := by
  obtain ⟨_, _, _, h⟩ := State.on_eq f s
  rw [h]
@[simp] theorem State.on_capture (f : Work → Work) (s : State) : (s.on f).capture = (f s.work).capture := by
  obtain ⟨_, _, _, h⟩ := State.on_eq f s
  rw [h]
@[simp] theorem State.on_out (f : Work → Work) (s : State) : (s.on f).out = (f s.work).out := by
  obtain ⟨_, _, _, h⟩ := State.on_eq f s
  rw [h]
@[simp] theorem State.on_pages (f : Work → Work) (s : State) : (s.on f).pages = (f s.work).pages := by
  obtain ⟨_, _, _, h⟩ := State.on_eq f s
  rw [h]
@[simp] theorem State.on_racks (f : Work → Work) (s : State) : (s.on f).racks = (f s.work).racks := by
  obtain ⟨_, _, _, h⟩ := State.on_eq f s
  rw [h]
@[simp] theorem State.on_bad (f : Work → Work) (s : State) : (s.on f).bad = (f s.work).bad := by
  obtain ⟨_, _, _, h⟩ := State.on_eq f s
  rw [h]
@[simp] theorem State.on_found (f : Work → Work) (s : State) : (s.on f).found = (f s.work).found := by
  obtain ⟨_, _, _, h⟩ := State.on_eq f s
  rw [h]
@[simp] theorem State.on_dtPages (f : Work → Work) (s : State) : (s.on f).dtPages = (f s.work).dtPages := by
  obtain ⟨_, _, _, h⟩ := State.on_eq f s
  rw [h]
@[simp] theorem State.on_slots (f : Work → Work) (s : State) : (s.on f).slots = (f s.work).slots := by
  obtain ⟨_, _, _, h⟩ := State.on_eq f s
  rw [h]
@[simp] theorem State.on_parts (f : Work → Work) (s : State) : (s.on f).parts = (f s.work).parts := by
  obtain ⟨_, _, _, h⟩ := State.on_eq f s
  rw [h]
@[simp] theorem State.on_time (f : Work → Work) (s : State) : (s.on f).time = (f s.work).time := by
  obtain ⟨_, _, _, h⟩ := State.on_eq f s
  rw [h]
@[simp] theorem State.on_errs (f : Work → Work) (s : State) : (s.on f).errs = (f s.work).errs := by
  obtain ⟨_, _, _, h⟩ := State.on_eq f s
  rw [h]
@[simp] theorem State.on_cellar (f : Work → Work) (s : State) : (s.on f).cellar = (f s.work).cellar := by
  obtain ⟨_, _, _, h⟩ := State.on_eq f s
  rw [h]
@[simp] theorem State.on_cellarWait (f : Work → Work) (s : State) : (s.on f).cellarWait = (f s.work).cellarWait := by
  obtain ⟨_, _, _, h⟩ := State.on_eq f s
  rw [h]
@[simp] theorem State.on_dataBanks (f : Work → Work) (s : State) : (s.on f).dataBanks = (f s.work).dataBanks := by
  obtain ⟨_, _, _, h⟩ := State.on_eq f s
  rw [h]
@[simp] theorem State.on_mtch (f : Work → Work) (s : State) : (s.on f).mtch = (f s.work).mtch := by
  obtain ⟨_, _, _, h⟩ := State.on_eq f s
  rw [h]
@[simp] theorem State.on_matchWait (f : Work → Work) (s : State) : (s.on f).matchWait = (f s.work).matchWait := by
  obtain ⟨_, _, _, h⟩ := State.on_eq f s
  rw [h]
@[simp] theorem State.on_matchBanks (f : Work → Work) (s : State) : (s.on f).matchBanks = (f s.work).matchBanks := by
  obtain ⟨_, _, _, h⟩ := State.on_eq f s
  rw [h]
@[simp] theorem State.on_tierNext (f : Work → Work) (s : State) : (s.on f).tierNext = (f s.work).tierNext := by
  obtain ⟨_, _, _, h⟩ := State.on_eq f s
  rw [h]
@[simp] theorem State.on_mes (f : Work → Work) (s : State) : (s.on f).mes = (f s.work).mes := by
  obtain ⟨_, _, _, h⟩ := State.on_eq f s
  rw [h]
@[simp] theorem State.on_hists (f : Work → Work) (s : State) : (s.on f).hists = (f s.work).hists := by
  obtain ⟨_, _, _, h⟩ := State.on_eq f s
  rw [h]
@[simp] theorem State.on_rejs (f : Work → Work) (s : State) : (s.on f).rejs = (f s.work).rejs := by
  obtain ⟨_, _, _, h⟩ := State.on_eq f s
  rw [h]
@[simp] theorem State.on_ctxs (f : Work → Work) (s : State) : (s.on f).ctxs = (f s.work).ctxs := by
  obtain ⟨_, _, _, h⟩ := State.on_eq f s
  rw [h]
@[simp] theorem State.on_bars (f : Work → Work) (s : State) : (s.on f).bars = (f s.work).bars := by
  obtain ⟨_, _, _, h⟩ := State.on_eq f s
  rw [h]
@[simp] theorem State.on_chains (f : Work → Work) (s : State) : (s.on f).chains = (f s.work).chains := by
  obtain ⟨_, _, _, h⟩ := State.on_eq f s
  rw [h]
@[simp] theorem State.on_disps (f : Work → Work) (s : State) : (s.on f).disps = (f s.work).disps := by
  obtain ⟨_, _, _, h⟩ := State.on_eq f s
  rw [h]
@[simp] theorem State.on_nextTask (f : Work → Work) (s : State) : (s.on f).nextTask = (f s.work).nextTask := by
  obtain ⟨_, _, _, h⟩ := State.on_eq f s
  rw [h]
@[simp] theorem State.on_obsMode (f : Work → Work) (s : State) : (s.on f).obsMode = (f s.work).obsMode := by
  obtain ⟨_, _, _, h⟩ := State.on_eq f s
  rw [h]
@[simp] theorem State.on_plans (f : Work → Work) (s : State) : (s.on f).plans = (f s.work).plans := by
  obtain ⟨_, _, _, h⟩ := State.on_eq f s
  rw [h]
@[simp] theorem State.on_ports (f : Work → Work) (s : State) : (s.on f).ports = (f s.work).ports := by
  obtain ⟨_, _, _, h⟩ := State.on_eq f s
  rw [h]
@[simp] theorem State.on_sessions (f : Work → Work) (s : State) : (s.on f).sessions = (f s.work).sessions := by
  obtain ⟨_, _, _, h⟩ := State.on_eq f s
  rw [h]
@[simp] theorem State.on_noRoute (f : Work → Work) (s : State) : (s.on f).noRoute = (f s.work).noRoute := by
  obtain ⟨_, _, _, h⟩ := State.on_eq f s
  rw [h]
@[simp] theorem State.on_cmds (f : Work → Work) (s : State) : (s.on f).cmds = (f s.work).cmds := by
  obtain ⟨_, _, _, h⟩ := State.on_eq f s
  rw [h]
@[simp] theorem State.on_emb (f : Work → Work) (s : State) : (s.on f).emb = (f s.work).emb := by
  obtain ⟨_, _, _, h⟩ := State.on_eq f s
  rw [h]
@[simp] theorem State.on_codecs (f : Work → Work) (s : State) : (s.on f).codecs = (f s.work).codecs := by
  obtain ⟨_, _, _, h⟩ := State.on_eq f s
  rw [h]
@[simp] theorem State.on_field (f : Work → Work) (s : State) : (s.on f).field = (f s.work).field := by
  obtain ⟨_, _, _, h⟩ := State.on_eq f s
  rw [h]
@[simp] theorem State.on_pipes (f : Work → Work) (s : State) : (s.on f).pipes = (f s.work).pipes := by
  obtain ⟨_, _, _, h⟩ := State.on_eq f s
  rw [h]
@[simp] theorem State.on_inputs (f : Work → Work) (s : State) : (s.on f).inputs = (f s.work).inputs := by
  obtain ⟨_, _, _, h⟩ := State.on_eq f s
  rw [h]
@[simp] theorem State.on_marks (f : Work → Work) (s : State) : (s.on f).marks = (f s.work).marks := by
  obtain ⟨_, _, _, h⟩ := State.on_eq f s
  rw [h]
@[simp] theorem State.on_twin (f : Work → Work) (s : State) : (s.on f).twin = (f s.work).twin := by
  obtain ⟨_, _, _, h⟩ := State.on_eq f s
  rw [h]
@[simp] theorem State.on_boot (f : Work → Work) (s : State) : (s.on f).boot = (f s.work).boot := by
  obtain ⟨_, _, _, h⟩ := State.on_eq f s
  rw [h]
@[simp] theorem State.on_sec (f : Work → Work) (s : State) : (s.on f).sec = (f s.work).sec := by
  obtain ⟨_, _, _, h⟩ := State.on_eq f s
  rw [h]
@[simp] theorem State.on_evt (f : Work → Work) (s : State) : (s.on f).evt = (f s.work).evt := by
  obtain ⟨_, _, _, h⟩ := State.on_eq f s
  rw [h]
@[simp] theorem State.on_spr (f : Work → Work) (s : State) : (s.on f).spr = (f s.work).spr := by
  obtain ⟨_, _, _, h⟩ := State.on_eq f s
  rw [h]
@[simp] theorem State.on_modl (f : Work → Work) (s : State) : (s.on f).modl = (f s.work).modl := by
  obtain ⟨_, _, _, h⟩ := State.on_eq f s
  rw [h]
@[simp] theorem State.on_flash (f : Work → Work) (s : State) : (s.on f).flash = (f s.work).flash := by
  obtain ⟨_, _, _, h⟩ := State.on_eq f s
  rw [h]
@[simp] theorem State.on_planFormat (f : Work → Work) (s : State) : (s.on f).planFormat = (f s.work).planFormat := by
  obtain ⟨_, _, _, h⟩ := State.on_eq f s
  rw [h]

/-! ## wr -/

@[simp] theorem Work.wr_free (w : Work) (f : Fld) (d i v : Nat) : (w.wr f d i v).free = w.free := rfl
@[simp] theorem Work.wr_out (w : Work) (f : Fld) (d i v : Nat) : (w.wr f d i v).out = w.out := rfl
@[simp] theorem Work.wr_bad (w : Work) (f : Fld) (d i v : Nat) : (w.wr f d i v).bad = w.bad := rfl
@[simp] theorem Work.wr_badWords (w : Work) (f : Fld) (d i v : Nat) : (w.wr f d i v).badWords = w.badWords := rfl
@[simp] theorem Work.wr_found (w : Work) (f : Fld) (d i v : Nat) : (w.wr f d i v).found = w.found := rfl
@[simp] theorem Work.wr_adds (w : Work) (f : Fld) (d i v : Nat) : (w.wr f d i v).adds = w.adds := rfl
@[simp] theorem Work.wr_slots (w : Work) (f : Fld) (d i v : Nat) : (w.wr f d i v).slots = w.slots := rfl
@[simp] theorem Work.wr_time (w : Work) (f : Fld) (d i v : Nat) : (w.wr f d i v).time = w.time := rfl
@[simp] theorem Work.wr_cores (w : Work) (f : Fld) (d i v : Nat) : (w.wr f d i v).cores = w.cores := rfl
@[simp] theorem Work.wr_ctxs (w : Work) (f : Fld) (d i v : Nat) : (w.wr f d i v).ctxs = w.ctxs := rfl
@[simp] theorem Work.wr_bars (w : Work) (f : Fld) (d i v : Nat) : (w.wr f d i v).bars = w.bars := rfl
@[simp] theorem Work.wr_chains (w : Work) (f : Fld) (d i v : Nat) : (w.wr f d i v).chains = w.chains := rfl
@[simp] theorem Work.wr_disps (w : Work) (f : Fld) (d i v : Nat) : (w.wr f d i v).disps = w.disps := rfl
@[simp] theorem Work.wr_plans (w : Work) (f : Fld) (d i v : Nat) : (w.wr f d i v).plans = w.plans := rfl
@[simp] theorem Work.wr_ports (w : Work) (f : Fld) (d i v : Nat) : (w.wr f d i v).ports = w.ports := rfl
@[simp] theorem Work.wr_sessions (w : Work) (f : Fld) (d i v : Nat) : (w.wr f d i v).sessions = w.sessions := rfl
@[simp] theorem Work.wr_emb (w : Work) (f : Fld) (d i v : Nat) : (w.wr f d i v).emb = w.emb := rfl
@[simp] theorem Work.wr_twin (w : Work) (f : Fld) (d i v : Nat) : (w.wr f d i v).twin = w.twin := rfl
@[simp] theorem Work.wr_boot (w : Work) (f : Fld) (d i v : Nat) : (w.wr f d i v).boot = w.boot := rfl
@[simp] theorem Work.wr_modl (w : Work) (f : Fld) (d i v : Nat) : (w.wr f d i v).modl = w.modl := rfl
@[simp] theorem Work.wr_mem (w : Work) (f : Fld) (d i v : Nat) : (w.wr f d i v).mem = w.mem := rfl
@[simp] theorem Work.wr_jnl (w : Work) (f : Fld) (d i v : Nat) : (w.wr f d i v).jnl = w.jnl := rfl

/-! ## wb -/

@[simp] theorem Work.wb_regs (w : Work) (k : Nat) (b : Byte) : (w.wb k b).regs = w.regs := rfl
@[simp] theorem Work.wb_free (w : Work) (k : Nat) (b : Byte) : (w.wb k b).free = w.free := rfl
@[simp] theorem Work.wb_out (w : Work) (k : Nat) (b : Byte) : (w.wb k b).out = w.out := rfl
@[simp] theorem Work.wb_bad (w : Work) (k : Nat) (b : Byte) : (w.wb k b).bad = w.bad := rfl
@[simp] theorem Work.wb_badWords (w : Work) (k : Nat) (b : Byte) : (w.wb k b).badWords = w.badWords := rfl
@[simp] theorem Work.wb_found (w : Work) (k : Nat) (b : Byte) : (w.wb k b).found = w.found := rfl
@[simp] theorem Work.wb_adds (w : Work) (k : Nat) (b : Byte) : (w.wb k b).adds = w.adds := rfl
@[simp] theorem Work.wb_slots (w : Work) (k : Nat) (b : Byte) : (w.wb k b).slots = w.slots := rfl
@[simp] theorem Work.wb_time (w : Work) (k : Nat) (b : Byte) : (w.wb k b).time = w.time := rfl
@[simp] theorem Work.wb_cores (w : Work) (k : Nat) (b : Byte) : (w.wb k b).cores = w.cores := rfl
@[simp] theorem Work.wb_ctxs (w : Work) (k : Nat) (b : Byte) : (w.wb k b).ctxs = w.ctxs := rfl
@[simp] theorem Work.wb_bars (w : Work) (k : Nat) (b : Byte) : (w.wb k b).bars = w.bars := rfl
@[simp] theorem Work.wb_chains (w : Work) (k : Nat) (b : Byte) : (w.wb k b).chains = w.chains := rfl
@[simp] theorem Work.wb_disps (w : Work) (k : Nat) (b : Byte) : (w.wb k b).disps = w.disps := rfl
@[simp] theorem Work.wb_plans (w : Work) (k : Nat) (b : Byte) : (w.wb k b).plans = w.plans := rfl
@[simp] theorem Work.wb_ports (w : Work) (k : Nat) (b : Byte) : (w.wb k b).ports = w.ports := rfl
@[simp] theorem Work.wb_sessions (w : Work) (k : Nat) (b : Byte) : (w.wb k b).sessions = w.sessions := rfl
@[simp] theorem Work.wb_emb (w : Work) (k : Nat) (b : Byte) : (w.wb k b).emb = w.emb := rfl
@[simp] theorem Work.wb_twin (w : Work) (k : Nat) (b : Byte) : (w.wb k b).twin = w.twin := rfl
@[simp] theorem Work.wb_boot (w : Work) (k : Nat) (b : Byte) : (w.wb k b).boot = w.boot := rfl
@[simp] theorem Work.wb_modl (w : Work) (k : Nat) (b : Byte) : (w.wb k b).modl = w.modl := rfl
@[simp] theorem Work.wb_mem (w : Work) (k : Nat) (b : Byte) : (w.wb k b).mem = w.mem := rfl

/-! ## setPage -/

@[simp] theorem Work.setPage_regs (w : Work) (n : Nat) (p : Page) : (w.setPage n p).regs = w.regs := rfl
@[simp] theorem Work.setPage_free (w : Work) (n : Nat) (p : Page) : (w.setPage n p).free = w.free := rfl
@[simp] theorem Work.setPage_out (w : Work) (n : Nat) (p : Page) : (w.setPage n p).out = w.out := rfl
@[simp] theorem Work.setPage_bad (w : Work) (n : Nat) (p : Page) : (w.setPage n p).bad = w.bad := rfl
@[simp] theorem Work.setPage_badWords (w : Work) (n : Nat) (p : Page) : (w.setPage n p).badWords = w.badWords := rfl
@[simp] theorem Work.setPage_found (w : Work) (n : Nat) (p : Page) : (w.setPage n p).found = w.found := rfl
@[simp] theorem Work.setPage_adds (w : Work) (n : Nat) (p : Page) : (w.setPage n p).adds = w.adds := rfl
@[simp] theorem Work.setPage_slots (w : Work) (n : Nat) (p : Page) : (w.setPage n p).slots = w.slots := rfl
@[simp] theorem Work.setPage_time (w : Work) (n : Nat) (p : Page) : (w.setPage n p).time = w.time := rfl
@[simp] theorem Work.setPage_cores (w : Work) (n : Nat) (p : Page) : (w.setPage n p).cores = w.cores := rfl
@[simp] theorem Work.setPage_ctxs (w : Work) (n : Nat) (p : Page) : (w.setPage n p).ctxs = w.ctxs := rfl
@[simp] theorem Work.setPage_bars (w : Work) (n : Nat) (p : Page) : (w.setPage n p).bars = w.bars := rfl
@[simp] theorem Work.setPage_chains (w : Work) (n : Nat) (p : Page) : (w.setPage n p).chains = w.chains := rfl
@[simp] theorem Work.setPage_disps (w : Work) (n : Nat) (p : Page) : (w.setPage n p).disps = w.disps := rfl
@[simp] theorem Work.setPage_plans (w : Work) (n : Nat) (p : Page) : (w.setPage n p).plans = w.plans := rfl
@[simp] theorem Work.setPage_ports (w : Work) (n : Nat) (p : Page) : (w.setPage n p).ports = w.ports := rfl
@[simp] theorem Work.setPage_sessions (w : Work) (n : Nat) (p : Page) : (w.setPage n p).sessions = w.sessions := rfl
@[simp] theorem Work.setPage_emb (w : Work) (n : Nat) (p : Page) : (w.setPage n p).emb = w.emb := rfl
@[simp] theorem Work.setPage_twin (w : Work) (n : Nat) (p : Page) : (w.setPage n p).twin = w.twin := rfl
@[simp] theorem Work.setPage_boot (w : Work) (n : Nat) (p : Page) : (w.setPage n p).boot = w.boot := rfl
@[simp] theorem Work.setPage_modl (w : Work) (n : Nat) (p : Page) : (w.setPage n p).modl = w.modl := rfl
@[simp] theorem Work.setPage_mem (w : Work) (n : Nat) (p : Page) : (w.setPage n p).mem = w.mem := rfl
@[simp] theorem Work.setPage_jnl (w : Work) (n : Nat) (p : Page) : (w.setPage n p).jnl = w.jnl := rfl

/-! ## setCore -/

@[simp] theorem Work.setCore_regs (w : Work) (d g : Nat) (c : Core) : (w.setCore d g c).regs = w.regs := rfl
@[simp] theorem Work.setCore_free (w : Work) (d g : Nat) (c : Core) : (w.setCore d g c).free = w.free := rfl
@[simp] theorem Work.setCore_out (w : Work) (d g : Nat) (c : Core) : (w.setCore d g c).out = w.out := rfl
@[simp] theorem Work.setCore_bad (w : Work) (d g : Nat) (c : Core) : (w.setCore d g c).bad = w.bad := rfl
@[simp] theorem Work.setCore_badWords (w : Work) (d g : Nat) (c : Core) : (w.setCore d g c).badWords = w.badWords := rfl
@[simp] theorem Work.setCore_found (w : Work) (d g : Nat) (c : Core) : (w.setCore d g c).found = w.found := rfl
@[simp] theorem Work.setCore_adds (w : Work) (d g : Nat) (c : Core) : (w.setCore d g c).adds = w.adds := rfl
@[simp] theorem Work.setCore_slots (w : Work) (d g : Nat) (c : Core) : (w.setCore d g c).slots = w.slots := rfl
@[simp] theorem Work.setCore_time (w : Work) (d g : Nat) (c : Core) : (w.setCore d g c).time = w.time := rfl
@[simp] theorem Work.setCore_ctxs (w : Work) (d g : Nat) (c : Core) : (w.setCore d g c).ctxs = w.ctxs := rfl
@[simp] theorem Work.setCore_bars (w : Work) (d g : Nat) (c : Core) : (w.setCore d g c).bars = w.bars := rfl
@[simp] theorem Work.setCore_chains (w : Work) (d g : Nat) (c : Core) : (w.setCore d g c).chains = w.chains := rfl
@[simp] theorem Work.setCore_disps (w : Work) (d g : Nat) (c : Core) : (w.setCore d g c).disps = w.disps := rfl
@[simp] theorem Work.setCore_plans (w : Work) (d g : Nat) (c : Core) : (w.setCore d g c).plans = w.plans := rfl
@[simp] theorem Work.setCore_ports (w : Work) (d g : Nat) (c : Core) : (w.setCore d g c).ports = w.ports := rfl
@[simp] theorem Work.setCore_sessions (w : Work) (d g : Nat) (c : Core) : (w.setCore d g c).sessions = w.sessions := rfl
@[simp] theorem Work.setCore_emb (w : Work) (d g : Nat) (c : Core) : (w.setCore d g c).emb = w.emb := rfl
@[simp] theorem Work.setCore_twin (w : Work) (d g : Nat) (c : Core) : (w.setCore d g c).twin = w.twin := rfl
@[simp] theorem Work.setCore_boot (w : Work) (d g : Nat) (c : Core) : (w.setCore d g c).boot = w.boot := rfl
@[simp] theorem Work.setCore_modl (w : Work) (d g : Nat) (c : Core) : (w.setCore d g c).modl = w.modl := rfl
@[simp] theorem Work.setCore_mem (w : Work) (d g : Nat) (c : Core) : (w.setCore d g c).mem = w.mem := rfl
@[simp] theorem Work.setCore_jnl (w : Work) (d g : Nat) (c : Core) : (w.setCore d g c).jnl = w.jnl := rfl

/-! ## setCtx -/

@[simp] theorem Work.setCtx_regs (w : Work) (d c : Nat) (x : Ctx) : (w.setCtx d c x).regs = w.regs := rfl
@[simp] theorem Work.setCtx_free (w : Work) (d c : Nat) (x : Ctx) : (w.setCtx d c x).free = w.free := rfl
@[simp] theorem Work.setCtx_out (w : Work) (d c : Nat) (x : Ctx) : (w.setCtx d c x).out = w.out := rfl
@[simp] theorem Work.setCtx_bad (w : Work) (d c : Nat) (x : Ctx) : (w.setCtx d c x).bad = w.bad := rfl
@[simp] theorem Work.setCtx_badWords (w : Work) (d c : Nat) (x : Ctx) : (w.setCtx d c x).badWords = w.badWords := rfl
@[simp] theorem Work.setCtx_found (w : Work) (d c : Nat) (x : Ctx) : (w.setCtx d c x).found = w.found := rfl
@[simp] theorem Work.setCtx_adds (w : Work) (d c : Nat) (x : Ctx) : (w.setCtx d c x).adds = w.adds := rfl
@[simp] theorem Work.setCtx_slots (w : Work) (d c : Nat) (x : Ctx) : (w.setCtx d c x).slots = w.slots := rfl
@[simp] theorem Work.setCtx_time (w : Work) (d c : Nat) (x : Ctx) : (w.setCtx d c x).time = w.time := rfl
@[simp] theorem Work.setCtx_cores (w : Work) (d c : Nat) (x : Ctx) : (w.setCtx d c x).cores = w.cores := rfl
@[simp] theorem Work.setCtx_bars (w : Work) (d c : Nat) (x : Ctx) : (w.setCtx d c x).bars = w.bars := rfl
@[simp] theorem Work.setCtx_chains (w : Work) (d c : Nat) (x : Ctx) : (w.setCtx d c x).chains = w.chains := rfl
@[simp] theorem Work.setCtx_disps (w : Work) (d c : Nat) (x : Ctx) : (w.setCtx d c x).disps = w.disps := rfl
@[simp] theorem Work.setCtx_plans (w : Work) (d c : Nat) (x : Ctx) : (w.setCtx d c x).plans = w.plans := rfl
@[simp] theorem Work.setCtx_ports (w : Work) (d c : Nat) (x : Ctx) : (w.setCtx d c x).ports = w.ports := rfl
@[simp] theorem Work.setCtx_sessions (w : Work) (d c : Nat) (x : Ctx) : (w.setCtx d c x).sessions = w.sessions := rfl
@[simp] theorem Work.setCtx_emb (w : Work) (d c : Nat) (x : Ctx) : (w.setCtx d c x).emb = w.emb := rfl
@[simp] theorem Work.setCtx_twin (w : Work) (d c : Nat) (x : Ctx) : (w.setCtx d c x).twin = w.twin := rfl
@[simp] theorem Work.setCtx_boot (w : Work) (d c : Nat) (x : Ctx) : (w.setCtx d c x).boot = w.boot := rfl
@[simp] theorem Work.setCtx_modl (w : Work) (d c : Nat) (x : Ctx) : (w.setCtx d c x).modl = w.modl := rfl
@[simp] theorem Work.setCtx_mem (w : Work) (d c : Nat) (x : Ctx) : (w.setCtx d c x).mem = w.mem := rfl
@[simp] theorem Work.setCtx_jnl (w : Work) (d c : Nat) (x : Ctx) : (w.setCtx d c x).jnl = w.jnl := rfl

/-! ## setBank -/

@[simp] theorem Work.setBank_regs (w : Work) (d b : Nat) (x : Bank) : (w.setBank d b x).regs = w.regs := rfl
@[simp] theorem Work.setBank_free (w : Work) (d b : Nat) (x : Bank) : (w.setBank d b x).free = w.free := rfl
@[simp] theorem Work.setBank_out (w : Work) (d b : Nat) (x : Bank) : (w.setBank d b x).out = w.out := rfl
@[simp] theorem Work.setBank_bad (w : Work) (d b : Nat) (x : Bank) : (w.setBank d b x).bad = w.bad := rfl
@[simp] theorem Work.setBank_badWords (w : Work) (d b : Nat) (x : Bank) : (w.setBank d b x).badWords = w.badWords := rfl
@[simp] theorem Work.setBank_found (w : Work) (d b : Nat) (x : Bank) : (w.setBank d b x).found = w.found := rfl
@[simp] theorem Work.setBank_adds (w : Work) (d b : Nat) (x : Bank) : (w.setBank d b x).adds = w.adds := rfl
@[simp] theorem Work.setBank_slots (w : Work) (d b : Nat) (x : Bank) : (w.setBank d b x).slots = w.slots := rfl
@[simp] theorem Work.setBank_time (w : Work) (d b : Nat) (x : Bank) : (w.setBank d b x).time = w.time := rfl
@[simp] theorem Work.setBank_cores (w : Work) (d b : Nat) (x : Bank) : (w.setBank d b x).cores = w.cores := rfl
@[simp] theorem Work.setBank_ctxs (w : Work) (d b : Nat) (x : Bank) : (w.setBank d b x).ctxs = w.ctxs := rfl
@[simp] theorem Work.setBank_bars (w : Work) (d b : Nat) (x : Bank) : (w.setBank d b x).bars = w.bars := rfl
@[simp] theorem Work.setBank_chains (w : Work) (d b : Nat) (x : Bank) : (w.setBank d b x).chains = w.chains := rfl
@[simp] theorem Work.setBank_disps (w : Work) (d b : Nat) (x : Bank) : (w.setBank d b x).disps = w.disps := rfl
@[simp] theorem Work.setBank_plans (w : Work) (d b : Nat) (x : Bank) : (w.setBank d b x).plans = w.plans := rfl
@[simp] theorem Work.setBank_ports (w : Work) (d b : Nat) (x : Bank) : (w.setBank d b x).ports = w.ports := rfl
@[simp] theorem Work.setBank_sessions (w : Work) (d b : Nat) (x : Bank) : (w.setBank d b x).sessions = w.sessions := rfl
@[simp] theorem Work.setBank_emb (w : Work) (d b : Nat) (x : Bank) : (w.setBank d b x).emb = w.emb := rfl
@[simp] theorem Work.setBank_twin (w : Work) (d b : Nat) (x : Bank) : (w.setBank d b x).twin = w.twin := rfl
@[simp] theorem Work.setBank_boot (w : Work) (d b : Nat) (x : Bank) : (w.setBank d b x).boot = w.boot := rfl
@[simp] theorem Work.setBank_modl (w : Work) (d b : Nat) (x : Bank) : (w.setBank d b x).modl = w.modl := rfl
@[simp] theorem Work.setBank_mem (w : Work) (d b : Nat) (x : Bank) : (w.setBank d b x).mem = w.mem := rfl
@[simp] theorem Work.setBank_jnl (w : Work) (d b : Nat) (x : Bank) : (w.setBank d b x).jnl = w.jnl := rfl

/-! ## setBar -/

@[simp] theorem Work.setBar_regs (w : Work) (b : Nat) (x : Barrier) : (w.setBar b x).regs = w.regs := rfl
@[simp] theorem Work.setBar_free (w : Work) (b : Nat) (x : Barrier) : (w.setBar b x).free = w.free := rfl
@[simp] theorem Work.setBar_out (w : Work) (b : Nat) (x : Barrier) : (w.setBar b x).out = w.out := rfl
@[simp] theorem Work.setBar_bad (w : Work) (b : Nat) (x : Barrier) : (w.setBar b x).bad = w.bad := rfl
@[simp] theorem Work.setBar_badWords (w : Work) (b : Nat) (x : Barrier) : (w.setBar b x).badWords = w.badWords := rfl
@[simp] theorem Work.setBar_found (w : Work) (b : Nat) (x : Barrier) : (w.setBar b x).found = w.found := rfl
@[simp] theorem Work.setBar_adds (w : Work) (b : Nat) (x : Barrier) : (w.setBar b x).adds = w.adds := rfl
@[simp] theorem Work.setBar_slots (w : Work) (b : Nat) (x : Barrier) : (w.setBar b x).slots = w.slots := rfl
@[simp] theorem Work.setBar_time (w : Work) (b : Nat) (x : Barrier) : (w.setBar b x).time = w.time := rfl
@[simp] theorem Work.setBar_cores (w : Work) (b : Nat) (x : Barrier) : (w.setBar b x).cores = w.cores := rfl
@[simp] theorem Work.setBar_ctxs (w : Work) (b : Nat) (x : Barrier) : (w.setBar b x).ctxs = w.ctxs := rfl
@[simp] theorem Work.setBar_chains (w : Work) (b : Nat) (x : Barrier) : (w.setBar b x).chains = w.chains := rfl
@[simp] theorem Work.setBar_disps (w : Work) (b : Nat) (x : Barrier) : (w.setBar b x).disps = w.disps := rfl
@[simp] theorem Work.setBar_plans (w : Work) (b : Nat) (x : Barrier) : (w.setBar b x).plans = w.plans := rfl
@[simp] theorem Work.setBar_ports (w : Work) (b : Nat) (x : Barrier) : (w.setBar b x).ports = w.ports := rfl
@[simp] theorem Work.setBar_sessions (w : Work) (b : Nat) (x : Barrier) : (w.setBar b x).sessions = w.sessions := rfl
@[simp] theorem Work.setBar_emb (w : Work) (b : Nat) (x : Barrier) : (w.setBar b x).emb = w.emb := rfl
@[simp] theorem Work.setBar_twin (w : Work) (b : Nat) (x : Barrier) : (w.setBar b x).twin = w.twin := rfl
@[simp] theorem Work.setBar_boot (w : Work) (b : Nat) (x : Barrier) : (w.setBar b x).boot = w.boot := rfl
@[simp] theorem Work.setBar_modl (w : Work) (b : Nat) (x : Barrier) : (w.setBar b x).modl = w.modl := rfl
@[simp] theorem Work.setBar_mem (w : Work) (b : Nat) (x : Barrier) : (w.setBar b x).mem = w.mem := rfl
@[simp] theorem Work.setBar_jnl (w : Work) (b : Nat) (x : Barrier) : (w.setBar b x).jnl = w.jnl := rfl

/-! ## setDisp -/

@[simp] theorem Work.setDisp_regs (w : Work) (d : Nat) (x : Disp) : (w.setDisp d x).regs = w.regs := rfl
@[simp] theorem Work.setDisp_free (w : Work) (d : Nat) (x : Disp) : (w.setDisp d x).free = w.free := rfl
@[simp] theorem Work.setDisp_out (w : Work) (d : Nat) (x : Disp) : (w.setDisp d x).out = w.out := rfl
@[simp] theorem Work.setDisp_bad (w : Work) (d : Nat) (x : Disp) : (w.setDisp d x).bad = w.bad := rfl
@[simp] theorem Work.setDisp_badWords (w : Work) (d : Nat) (x : Disp) : (w.setDisp d x).badWords = w.badWords := rfl
@[simp] theorem Work.setDisp_found (w : Work) (d : Nat) (x : Disp) : (w.setDisp d x).found = w.found := rfl
@[simp] theorem Work.setDisp_adds (w : Work) (d : Nat) (x : Disp) : (w.setDisp d x).adds = w.adds := rfl
@[simp] theorem Work.setDisp_slots (w : Work) (d : Nat) (x : Disp) : (w.setDisp d x).slots = w.slots := rfl
@[simp] theorem Work.setDisp_time (w : Work) (d : Nat) (x : Disp) : (w.setDisp d x).time = w.time := rfl
@[simp] theorem Work.setDisp_cores (w : Work) (d : Nat) (x : Disp) : (w.setDisp d x).cores = w.cores := rfl
@[simp] theorem Work.setDisp_ctxs (w : Work) (d : Nat) (x : Disp) : (w.setDisp d x).ctxs = w.ctxs := rfl
@[simp] theorem Work.setDisp_bars (w : Work) (d : Nat) (x : Disp) : (w.setDisp d x).bars = w.bars := rfl
@[simp] theorem Work.setDisp_chains (w : Work) (d : Nat) (x : Disp) : (w.setDisp d x).chains = w.chains := rfl
@[simp] theorem Work.setDisp_plans (w : Work) (d : Nat) (x : Disp) : (w.setDisp d x).plans = w.plans := rfl
@[simp] theorem Work.setDisp_ports (w : Work) (d : Nat) (x : Disp) : (w.setDisp d x).ports = w.ports := rfl
@[simp] theorem Work.setDisp_sessions (w : Work) (d : Nat) (x : Disp) : (w.setDisp d x).sessions = w.sessions := rfl
@[simp] theorem Work.setDisp_emb (w : Work) (d : Nat) (x : Disp) : (w.setDisp d x).emb = w.emb := rfl
@[simp] theorem Work.setDisp_twin (w : Work) (d : Nat) (x : Disp) : (w.setDisp d x).twin = w.twin := rfl
@[simp] theorem Work.setDisp_boot (w : Work) (d : Nat) (x : Disp) : (w.setDisp d x).boot = w.boot := rfl
@[simp] theorem Work.setDisp_modl (w : Work) (d : Nat) (x : Disp) : (w.setDisp d x).modl = w.modl := rfl
@[simp] theorem Work.setDisp_mem (w : Work) (d : Nat) (x : Disp) : (w.setDisp d x).mem = w.mem := rfl
@[simp] theorem Work.setDisp_jnl (w : Work) (d : Nat) (x : Disp) : (w.setDisp d x).jnl = w.jnl := rfl

/-! ## setPlan -/

@[simp] theorem Work.setPlan_regs (w : Work) (p : Nat) (x : Plan) : (w.setPlan p x).regs = w.regs := rfl
@[simp] theorem Work.setPlan_free (w : Work) (p : Nat) (x : Plan) : (w.setPlan p x).free = w.free := rfl
@[simp] theorem Work.setPlan_out (w : Work) (p : Nat) (x : Plan) : (w.setPlan p x).out = w.out := rfl
@[simp] theorem Work.setPlan_bad (w : Work) (p : Nat) (x : Plan) : (w.setPlan p x).bad = w.bad := rfl
@[simp] theorem Work.setPlan_badWords (w : Work) (p : Nat) (x : Plan) : (w.setPlan p x).badWords = w.badWords := rfl
@[simp] theorem Work.setPlan_found (w : Work) (p : Nat) (x : Plan) : (w.setPlan p x).found = w.found := rfl
@[simp] theorem Work.setPlan_adds (w : Work) (p : Nat) (x : Plan) : (w.setPlan p x).adds = w.adds := rfl
@[simp] theorem Work.setPlan_slots (w : Work) (p : Nat) (x : Plan) : (w.setPlan p x).slots = w.slots := rfl
@[simp] theorem Work.setPlan_time (w : Work) (p : Nat) (x : Plan) : (w.setPlan p x).time = w.time := rfl
@[simp] theorem Work.setPlan_cores (w : Work) (p : Nat) (x : Plan) : (w.setPlan p x).cores = w.cores := rfl
@[simp] theorem Work.setPlan_ctxs (w : Work) (p : Nat) (x : Plan) : (w.setPlan p x).ctxs = w.ctxs := rfl
@[simp] theorem Work.setPlan_bars (w : Work) (p : Nat) (x : Plan) : (w.setPlan p x).bars = w.bars := rfl
@[simp] theorem Work.setPlan_chains (w : Work) (p : Nat) (x : Plan) : (w.setPlan p x).chains = w.chains := rfl
@[simp] theorem Work.setPlan_disps (w : Work) (p : Nat) (x : Plan) : (w.setPlan p x).disps = w.disps := rfl
@[simp] theorem Work.setPlan_ports (w : Work) (p : Nat) (x : Plan) : (w.setPlan p x).ports = w.ports := rfl
@[simp] theorem Work.setPlan_sessions (w : Work) (p : Nat) (x : Plan) : (w.setPlan p x).sessions = w.sessions := rfl
@[simp] theorem Work.setPlan_emb (w : Work) (p : Nat) (x : Plan) : (w.setPlan p x).emb = w.emb := rfl
@[simp] theorem Work.setPlan_twin (w : Work) (p : Nat) (x : Plan) : (w.setPlan p x).twin = w.twin := rfl
@[simp] theorem Work.setPlan_boot (w : Work) (p : Nat) (x : Plan) : (w.setPlan p x).boot = w.boot := rfl
@[simp] theorem Work.setPlan_modl (w : Work) (p : Nat) (x : Plan) : (w.setPlan p x).modl = w.modl := rfl
@[simp] theorem Work.setPlan_mem (w : Work) (p : Nat) (x : Plan) : (w.setPlan p x).mem = w.mem := rfl
@[simp] theorem Work.setPlan_jnl (w : Work) (p : Nat) (x : Plan) : (w.setPlan p x).jnl = w.jnl := rfl

/-! ## setSlot -/

@[simp] theorem Work.setSlot_regs (w : Work) (p h : Nat) (x : Slot) : (w.setSlot p h x).regs = w.regs := rfl
@[simp] theorem Work.setSlot_free (w : Work) (p h : Nat) (x : Slot) : (w.setSlot p h x).free = w.free := rfl
@[simp] theorem Work.setSlot_out (w : Work) (p h : Nat) (x : Slot) : (w.setSlot p h x).out = w.out := rfl
@[simp] theorem Work.setSlot_bad (w : Work) (p h : Nat) (x : Slot) : (w.setSlot p h x).bad = w.bad := rfl
@[simp] theorem Work.setSlot_badWords (w : Work) (p h : Nat) (x : Slot) : (w.setSlot p h x).badWords = w.badWords := rfl
@[simp] theorem Work.setSlot_found (w : Work) (p h : Nat) (x : Slot) : (w.setSlot p h x).found = w.found := rfl
@[simp] theorem Work.setSlot_adds (w : Work) (p h : Nat) (x : Slot) : (w.setSlot p h x).adds = w.adds := rfl
@[simp] theorem Work.setSlot_time (w : Work) (p h : Nat) (x : Slot) : (w.setSlot p h x).time = w.time := rfl
@[simp] theorem Work.setSlot_cores (w : Work) (p h : Nat) (x : Slot) : (w.setSlot p h x).cores = w.cores := rfl
@[simp] theorem Work.setSlot_ctxs (w : Work) (p h : Nat) (x : Slot) : (w.setSlot p h x).ctxs = w.ctxs := rfl
@[simp] theorem Work.setSlot_bars (w : Work) (p h : Nat) (x : Slot) : (w.setSlot p h x).bars = w.bars := rfl
@[simp] theorem Work.setSlot_chains (w : Work) (p h : Nat) (x : Slot) : (w.setSlot p h x).chains = w.chains := rfl
@[simp] theorem Work.setSlot_disps (w : Work) (p h : Nat) (x : Slot) : (w.setSlot p h x).disps = w.disps := rfl
@[simp] theorem Work.setSlot_plans (w : Work) (p h : Nat) (x : Slot) : (w.setSlot p h x).plans = w.plans := rfl
@[simp] theorem Work.setSlot_ports (w : Work) (p h : Nat) (x : Slot) : (w.setSlot p h x).ports = w.ports := rfl
@[simp] theorem Work.setSlot_sessions (w : Work) (p h : Nat) (x : Slot) : (w.setSlot p h x).sessions = w.sessions := rfl
@[simp] theorem Work.setSlot_emb (w : Work) (p h : Nat) (x : Slot) : (w.setSlot p h x).emb = w.emb := rfl
@[simp] theorem Work.setSlot_twin (w : Work) (p h : Nat) (x : Slot) : (w.setSlot p h x).twin = w.twin := rfl
@[simp] theorem Work.setSlot_boot (w : Work) (p h : Nat) (x : Slot) : (w.setSlot p h x).boot = w.boot := rfl
@[simp] theorem Work.setSlot_modl (w : Work) (p h : Nat) (x : Slot) : (w.setSlot p h x).modl = w.modl := rfl
@[simp] theorem Work.setSlot_mem (w : Work) (p h : Nat) (x : Slot) : (w.setSlot p h x).mem = w.mem := rfl
@[simp] theorem Work.setSlot_jnl (w : Work) (p h : Nat) (x : Slot) : (w.setSlot p h x).jnl = w.jnl := rfl

/-! ## setPort -/

@[simp] theorem Work.setPort_regs (w : Work) (p : Nat) (x : Port) : (w.setPort p x).regs = w.regs := rfl
@[simp] theorem Work.setPort_free (w : Work) (p : Nat) (x : Port) : (w.setPort p x).free = w.free := rfl
@[simp] theorem Work.setPort_out (w : Work) (p : Nat) (x : Port) : (w.setPort p x).out = w.out := rfl
@[simp] theorem Work.setPort_bad (w : Work) (p : Nat) (x : Port) : (w.setPort p x).bad = w.bad := rfl
@[simp] theorem Work.setPort_badWords (w : Work) (p : Nat) (x : Port) : (w.setPort p x).badWords = w.badWords := rfl
@[simp] theorem Work.setPort_found (w : Work) (p : Nat) (x : Port) : (w.setPort p x).found = w.found := rfl
@[simp] theorem Work.setPort_adds (w : Work) (p : Nat) (x : Port) : (w.setPort p x).adds = w.adds := rfl
@[simp] theorem Work.setPort_slots (w : Work) (p : Nat) (x : Port) : (w.setPort p x).slots = w.slots := rfl
@[simp] theorem Work.setPort_time (w : Work) (p : Nat) (x : Port) : (w.setPort p x).time = w.time := rfl
@[simp] theorem Work.setPort_cores (w : Work) (p : Nat) (x : Port) : (w.setPort p x).cores = w.cores := rfl
@[simp] theorem Work.setPort_ctxs (w : Work) (p : Nat) (x : Port) : (w.setPort p x).ctxs = w.ctxs := rfl
@[simp] theorem Work.setPort_bars (w : Work) (p : Nat) (x : Port) : (w.setPort p x).bars = w.bars := rfl
@[simp] theorem Work.setPort_chains (w : Work) (p : Nat) (x : Port) : (w.setPort p x).chains = w.chains := rfl
@[simp] theorem Work.setPort_disps (w : Work) (p : Nat) (x : Port) : (w.setPort p x).disps = w.disps := rfl
@[simp] theorem Work.setPort_plans (w : Work) (p : Nat) (x : Port) : (w.setPort p x).plans = w.plans := rfl
@[simp] theorem Work.setPort_sessions (w : Work) (p : Nat) (x : Port) : (w.setPort p x).sessions = w.sessions := rfl
@[simp] theorem Work.setPort_emb (w : Work) (p : Nat) (x : Port) : (w.setPort p x).emb = w.emb := rfl
@[simp] theorem Work.setPort_twin (w : Work) (p : Nat) (x : Port) : (w.setPort p x).twin = w.twin := rfl
@[simp] theorem Work.setPort_boot (w : Work) (p : Nat) (x : Port) : (w.setPort p x).boot = w.boot := rfl
@[simp] theorem Work.setPort_modl (w : Work) (p : Nat) (x : Port) : (w.setPort p x).modl = w.modl := rfl
@[simp] theorem Work.setPort_mem (w : Work) (p : Nat) (x : Port) : (w.setPort p x).mem = w.mem := rfl
@[simp] theorem Work.setPort_jnl (w : Work) (p : Nat) (x : Port) : (w.setPort p x).jnl = w.jnl := rfl

/-! ## setSession -/

@[simp] theorem Work.setSession_regs (w : Work) (n : Nat) (x : Session) : (w.setSession n x).regs = w.regs := rfl
@[simp] theorem Work.setSession_free (w : Work) (n : Nat) (x : Session) : (w.setSession n x).free = w.free := rfl
@[simp] theorem Work.setSession_out (w : Work) (n : Nat) (x : Session) : (w.setSession n x).out = w.out := rfl
@[simp] theorem Work.setSession_bad (w : Work) (n : Nat) (x : Session) : (w.setSession n x).bad = w.bad := rfl
@[simp] theorem Work.setSession_badWords (w : Work) (n : Nat) (x : Session) : (w.setSession n x).badWords = w.badWords := rfl
@[simp] theorem Work.setSession_found (w : Work) (n : Nat) (x : Session) : (w.setSession n x).found = w.found := rfl
@[simp] theorem Work.setSession_adds (w : Work) (n : Nat) (x : Session) : (w.setSession n x).adds = w.adds := rfl
@[simp] theorem Work.setSession_slots (w : Work) (n : Nat) (x : Session) : (w.setSession n x).slots = w.slots := rfl
@[simp] theorem Work.setSession_time (w : Work) (n : Nat) (x : Session) : (w.setSession n x).time = w.time := rfl
@[simp] theorem Work.setSession_cores (w : Work) (n : Nat) (x : Session) : (w.setSession n x).cores = w.cores := rfl
@[simp] theorem Work.setSession_ctxs (w : Work) (n : Nat) (x : Session) : (w.setSession n x).ctxs = w.ctxs := rfl
@[simp] theorem Work.setSession_bars (w : Work) (n : Nat) (x : Session) : (w.setSession n x).bars = w.bars := rfl
@[simp] theorem Work.setSession_chains (w : Work) (n : Nat) (x : Session) : (w.setSession n x).chains = w.chains := rfl
@[simp] theorem Work.setSession_disps (w : Work) (n : Nat) (x : Session) : (w.setSession n x).disps = w.disps := rfl
@[simp] theorem Work.setSession_plans (w : Work) (n : Nat) (x : Session) : (w.setSession n x).plans = w.plans := rfl
@[simp] theorem Work.setSession_ports (w : Work) (n : Nat) (x : Session) : (w.setSession n x).ports = w.ports := rfl
@[simp] theorem Work.setSession_emb (w : Work) (n : Nat) (x : Session) : (w.setSession n x).emb = w.emb := rfl
@[simp] theorem Work.setSession_twin (w : Work) (n : Nat) (x : Session) : (w.setSession n x).twin = w.twin := rfl
@[simp] theorem Work.setSession_boot (w : Work) (n : Nat) (x : Session) : (w.setSession n x).boot = w.boot := rfl
@[simp] theorem Work.setSession_modl (w : Work) (n : Nat) (x : Session) : (w.setSession n x).modl = w.modl := rfl
@[simp] theorem Work.setSession_mem (w : Work) (n : Nat) (x : Session) : (w.setSession n x).mem = w.mem := rfl
@[simp] theorem Work.setSession_jnl (w : Work) (n : Nat) (x : Session) : (w.setSession n x).jnl = w.jnl := rfl

/-! ## setMe -/

@[simp] theorem Work.setMe_regs (w : Work) (d m : Nat) (x : Me) : (w.setMe d m x).regs = w.regs := rfl
@[simp] theorem Work.setMe_free (w : Work) (d m : Nat) (x : Me) : (w.setMe d m x).free = w.free := rfl
@[simp] theorem Work.setMe_out (w : Work) (d m : Nat) (x : Me) : (w.setMe d m x).out = w.out := rfl
@[simp] theorem Work.setMe_bad (w : Work) (d m : Nat) (x : Me) : (w.setMe d m x).bad = w.bad := rfl
@[simp] theorem Work.setMe_badWords (w : Work) (d m : Nat) (x : Me) : (w.setMe d m x).badWords = w.badWords := rfl
@[simp] theorem Work.setMe_found (w : Work) (d m : Nat) (x : Me) : (w.setMe d m x).found = w.found := rfl
@[simp] theorem Work.setMe_adds (w : Work) (d m : Nat) (x : Me) : (w.setMe d m x).adds = w.adds := rfl
@[simp] theorem Work.setMe_slots (w : Work) (d m : Nat) (x : Me) : (w.setMe d m x).slots = w.slots := rfl
@[simp] theorem Work.setMe_time (w : Work) (d m : Nat) (x : Me) : (w.setMe d m x).time = w.time := rfl
@[simp] theorem Work.setMe_cores (w : Work) (d m : Nat) (x : Me) : (w.setMe d m x).cores = w.cores := rfl
@[simp] theorem Work.setMe_ctxs (w : Work) (d m : Nat) (x : Me) : (w.setMe d m x).ctxs = w.ctxs := rfl
@[simp] theorem Work.setMe_bars (w : Work) (d m : Nat) (x : Me) : (w.setMe d m x).bars = w.bars := rfl
@[simp] theorem Work.setMe_chains (w : Work) (d m : Nat) (x : Me) : (w.setMe d m x).chains = w.chains := rfl
@[simp] theorem Work.setMe_disps (w : Work) (d m : Nat) (x : Me) : (w.setMe d m x).disps = w.disps := rfl
@[simp] theorem Work.setMe_plans (w : Work) (d m : Nat) (x : Me) : (w.setMe d m x).plans = w.plans := rfl
@[simp] theorem Work.setMe_ports (w : Work) (d m : Nat) (x : Me) : (w.setMe d m x).ports = w.ports := rfl
@[simp] theorem Work.setMe_sessions (w : Work) (d m : Nat) (x : Me) : (w.setMe d m x).sessions = w.sessions := rfl
@[simp] theorem Work.setMe_emb (w : Work) (d m : Nat) (x : Me) : (w.setMe d m x).emb = w.emb := rfl
@[simp] theorem Work.setMe_twin (w : Work) (d m : Nat) (x : Me) : (w.setMe d m x).twin = w.twin := rfl
@[simp] theorem Work.setMe_boot (w : Work) (d m : Nat) (x : Me) : (w.setMe d m x).boot = w.boot := rfl
@[simp] theorem Work.setMe_modl (w : Work) (d m : Nat) (x : Me) : (w.setMe d m x).modl = w.modl := rfl
@[simp] theorem Work.setMe_mem (w : Work) (d m : Nat) (x : Me) : (w.setMe d m x).mem = w.mem := rfl
@[simp] theorem Work.setMe_jnl (w : Work) (d m : Nat) (x : Me) : (w.setMe d m x).jnl = w.jnl := rfl

/-! ## setHist -/

@[simp] theorem Work.setHist_regs (w : Work) (d : Nat) (x : Hist) : (w.setHist d x).regs = w.regs := rfl
@[simp] theorem Work.setHist_free (w : Work) (d : Nat) (x : Hist) : (w.setHist d x).free = w.free := rfl
@[simp] theorem Work.setHist_out (w : Work) (d : Nat) (x : Hist) : (w.setHist d x).out = w.out := rfl
@[simp] theorem Work.setHist_bad (w : Work) (d : Nat) (x : Hist) : (w.setHist d x).bad = w.bad := rfl
@[simp] theorem Work.setHist_badWords (w : Work) (d : Nat) (x : Hist) : (w.setHist d x).badWords = w.badWords := rfl
@[simp] theorem Work.setHist_found (w : Work) (d : Nat) (x : Hist) : (w.setHist d x).found = w.found := rfl
@[simp] theorem Work.setHist_adds (w : Work) (d : Nat) (x : Hist) : (w.setHist d x).adds = w.adds := rfl
@[simp] theorem Work.setHist_slots (w : Work) (d : Nat) (x : Hist) : (w.setHist d x).slots = w.slots := rfl
@[simp] theorem Work.setHist_time (w : Work) (d : Nat) (x : Hist) : (w.setHist d x).time = w.time := rfl
@[simp] theorem Work.setHist_cores (w : Work) (d : Nat) (x : Hist) : (w.setHist d x).cores = w.cores := rfl
@[simp] theorem Work.setHist_ctxs (w : Work) (d : Nat) (x : Hist) : (w.setHist d x).ctxs = w.ctxs := rfl
@[simp] theorem Work.setHist_bars (w : Work) (d : Nat) (x : Hist) : (w.setHist d x).bars = w.bars := rfl
@[simp] theorem Work.setHist_chains (w : Work) (d : Nat) (x : Hist) : (w.setHist d x).chains = w.chains := rfl
@[simp] theorem Work.setHist_disps (w : Work) (d : Nat) (x : Hist) : (w.setHist d x).disps = w.disps := rfl
@[simp] theorem Work.setHist_plans (w : Work) (d : Nat) (x : Hist) : (w.setHist d x).plans = w.plans := rfl
@[simp] theorem Work.setHist_ports (w : Work) (d : Nat) (x : Hist) : (w.setHist d x).ports = w.ports := rfl
@[simp] theorem Work.setHist_sessions (w : Work) (d : Nat) (x : Hist) : (w.setHist d x).sessions = w.sessions := rfl
@[simp] theorem Work.setHist_emb (w : Work) (d : Nat) (x : Hist) : (w.setHist d x).emb = w.emb := rfl
@[simp] theorem Work.setHist_twin (w : Work) (d : Nat) (x : Hist) : (w.setHist d x).twin = w.twin := rfl
@[simp] theorem Work.setHist_boot (w : Work) (d : Nat) (x : Hist) : (w.setHist d x).boot = w.boot := rfl
@[simp] theorem Work.setHist_modl (w : Work) (d : Nat) (x : Hist) : (w.setHist d x).modl = w.modl := rfl
@[simp] theorem Work.setHist_mem (w : Work) (d : Nat) (x : Hist) : (w.setHist d x).mem = w.mem := rfl
@[simp] theorem Work.setHist_jnl (w : Work) (d : Nat) (x : Hist) : (w.setHist d x).jnl = w.jnl := rfl

/-! ## setMbank -/

@[simp] theorem Work.setMbank_regs (w : Work) (d b : Nat) (x : MBank) : (w.setMbank d b x).regs = w.regs := rfl
@[simp] theorem Work.setMbank_free (w : Work) (d b : Nat) (x : MBank) : (w.setMbank d b x).free = w.free := rfl
@[simp] theorem Work.setMbank_out (w : Work) (d b : Nat) (x : MBank) : (w.setMbank d b x).out = w.out := rfl
@[simp] theorem Work.setMbank_bad (w : Work) (d b : Nat) (x : MBank) : (w.setMbank d b x).bad = w.bad := rfl
@[simp] theorem Work.setMbank_badWords (w : Work) (d b : Nat) (x : MBank) : (w.setMbank d b x).badWords = w.badWords := rfl
@[simp] theorem Work.setMbank_found (w : Work) (d b : Nat) (x : MBank) : (w.setMbank d b x).found = w.found := rfl
@[simp] theorem Work.setMbank_adds (w : Work) (d b : Nat) (x : MBank) : (w.setMbank d b x).adds = w.adds := rfl
@[simp] theorem Work.setMbank_slots (w : Work) (d b : Nat) (x : MBank) : (w.setMbank d b x).slots = w.slots := rfl
@[simp] theorem Work.setMbank_time (w : Work) (d b : Nat) (x : MBank) : (w.setMbank d b x).time = w.time := rfl
@[simp] theorem Work.setMbank_cores (w : Work) (d b : Nat) (x : MBank) : (w.setMbank d b x).cores = w.cores := rfl
@[simp] theorem Work.setMbank_ctxs (w : Work) (d b : Nat) (x : MBank) : (w.setMbank d b x).ctxs = w.ctxs := rfl
@[simp] theorem Work.setMbank_bars (w : Work) (d b : Nat) (x : MBank) : (w.setMbank d b x).bars = w.bars := rfl
@[simp] theorem Work.setMbank_chains (w : Work) (d b : Nat) (x : MBank) : (w.setMbank d b x).chains = w.chains := rfl
@[simp] theorem Work.setMbank_disps (w : Work) (d b : Nat) (x : MBank) : (w.setMbank d b x).disps = w.disps := rfl
@[simp] theorem Work.setMbank_plans (w : Work) (d b : Nat) (x : MBank) : (w.setMbank d b x).plans = w.plans := rfl
@[simp] theorem Work.setMbank_ports (w : Work) (d b : Nat) (x : MBank) : (w.setMbank d b x).ports = w.ports := rfl
@[simp] theorem Work.setMbank_sessions (w : Work) (d b : Nat) (x : MBank) : (w.setMbank d b x).sessions = w.sessions := rfl
@[simp] theorem Work.setMbank_emb (w : Work) (d b : Nat) (x : MBank) : (w.setMbank d b x).emb = w.emb := rfl
@[simp] theorem Work.setMbank_twin (w : Work) (d b : Nat) (x : MBank) : (w.setMbank d b x).twin = w.twin := rfl
@[simp] theorem Work.setMbank_boot (w : Work) (d b : Nat) (x : MBank) : (w.setMbank d b x).boot = w.boot := rfl
@[simp] theorem Work.setMbank_modl (w : Work) (d b : Nat) (x : MBank) : (w.setMbank d b x).modl = w.modl := rfl
@[simp] theorem Work.setMbank_mem (w : Work) (d b : Nat) (x : MBank) : (w.setMbank d b x).mem = w.mem := rfl
@[simp] theorem Work.setMbank_jnl (w : Work) (d b : Nat) (x : MBank) : (w.setMbank d b x).jnl = w.jnl := rfl

/-! ## setMod -/

@[simp] theorem Work.setMod_regs (w : Work) (f : ModSt → ModSt) : (w.setMod f).regs = w.regs := rfl
@[simp] theorem Work.setMod_free (w : Work) (f : ModSt → ModSt) : (w.setMod f).free = w.free := rfl
@[simp] theorem Work.setMod_out (w : Work) (f : ModSt → ModSt) : (w.setMod f).out = w.out := rfl
@[simp] theorem Work.setMod_bad (w : Work) (f : ModSt → ModSt) : (w.setMod f).bad = w.bad := rfl
@[simp] theorem Work.setMod_badWords (w : Work) (f : ModSt → ModSt) : (w.setMod f).badWords = w.badWords := rfl
@[simp] theorem Work.setMod_found (w : Work) (f : ModSt → ModSt) : (w.setMod f).found = w.found := rfl
@[simp] theorem Work.setMod_adds (w : Work) (f : ModSt → ModSt) : (w.setMod f).adds = w.adds := rfl
@[simp] theorem Work.setMod_slots (w : Work) (f : ModSt → ModSt) : (w.setMod f).slots = w.slots := rfl
@[simp] theorem Work.setMod_time (w : Work) (f : ModSt → ModSt) : (w.setMod f).time = w.time := rfl
@[simp] theorem Work.setMod_cores (w : Work) (f : ModSt → ModSt) : (w.setMod f).cores = w.cores := rfl
@[simp] theorem Work.setMod_ctxs (w : Work) (f : ModSt → ModSt) : (w.setMod f).ctxs = w.ctxs := rfl
@[simp] theorem Work.setMod_bars (w : Work) (f : ModSt → ModSt) : (w.setMod f).bars = w.bars := rfl
@[simp] theorem Work.setMod_chains (w : Work) (f : ModSt → ModSt) : (w.setMod f).chains = w.chains := rfl
@[simp] theorem Work.setMod_disps (w : Work) (f : ModSt → ModSt) : (w.setMod f).disps = w.disps := rfl
@[simp] theorem Work.setMod_plans (w : Work) (f : ModSt → ModSt) : (w.setMod f).plans = w.plans := rfl
@[simp] theorem Work.setMod_ports (w : Work) (f : ModSt → ModSt) : (w.setMod f).ports = w.ports := rfl
@[simp] theorem Work.setMod_sessions (w : Work) (f : ModSt → ModSt) : (w.setMod f).sessions = w.sessions := rfl
@[simp] theorem Work.setMod_emb (w : Work) (f : ModSt → ModSt) : (w.setMod f).emb = w.emb := rfl
@[simp] theorem Work.setMod_twin (w : Work) (f : ModSt → ModSt) : (w.setMod f).twin = w.twin := rfl
@[simp] theorem Work.setMod_boot (w : Work) (f : ModSt → ModSt) : (w.setMod f).boot = w.boot := rfl
@[simp] theorem Work.setMod_mem (w : Work) (f : ModSt → ModSt) : (w.setMod f).mem = w.mem := rfl
@[simp] theorem Work.setMod_jnl (w : Work) (f : ModSt → ModSt) : (w.setMod f).jnl = w.jnl := rfl

/-! ## setTime -/

@[simp] theorem Work.setTime_regs (w : Work) (f : TimeSt → TimeSt) : (w.setTime f).regs = w.regs := rfl
@[simp] theorem Work.setTime_free (w : Work) (f : TimeSt → TimeSt) : (w.setTime f).free = w.free := rfl
@[simp] theorem Work.setTime_out (w : Work) (f : TimeSt → TimeSt) : (w.setTime f).out = w.out := rfl
@[simp] theorem Work.setTime_bad (w : Work) (f : TimeSt → TimeSt) : (w.setTime f).bad = w.bad := rfl
@[simp] theorem Work.setTime_badWords (w : Work) (f : TimeSt → TimeSt) : (w.setTime f).badWords = w.badWords := rfl
@[simp] theorem Work.setTime_found (w : Work) (f : TimeSt → TimeSt) : (w.setTime f).found = w.found := rfl
@[simp] theorem Work.setTime_adds (w : Work) (f : TimeSt → TimeSt) : (w.setTime f).adds = w.adds := rfl
@[simp] theorem Work.setTime_slots (w : Work) (f : TimeSt → TimeSt) : (w.setTime f).slots = w.slots := rfl
@[simp] theorem Work.setTime_cores (w : Work) (f : TimeSt → TimeSt) : (w.setTime f).cores = w.cores := rfl
@[simp] theorem Work.setTime_ctxs (w : Work) (f : TimeSt → TimeSt) : (w.setTime f).ctxs = w.ctxs := rfl
@[simp] theorem Work.setTime_bars (w : Work) (f : TimeSt → TimeSt) : (w.setTime f).bars = w.bars := rfl
@[simp] theorem Work.setTime_chains (w : Work) (f : TimeSt → TimeSt) : (w.setTime f).chains = w.chains := rfl
@[simp] theorem Work.setTime_disps (w : Work) (f : TimeSt → TimeSt) : (w.setTime f).disps = w.disps := rfl
@[simp] theorem Work.setTime_plans (w : Work) (f : TimeSt → TimeSt) : (w.setTime f).plans = w.plans := rfl
@[simp] theorem Work.setTime_ports (w : Work) (f : TimeSt → TimeSt) : (w.setTime f).ports = w.ports := rfl
@[simp] theorem Work.setTime_sessions (w : Work) (f : TimeSt → TimeSt) : (w.setTime f).sessions = w.sessions := rfl
@[simp] theorem Work.setTime_emb (w : Work) (f : TimeSt → TimeSt) : (w.setTime f).emb = w.emb := rfl
@[simp] theorem Work.setTime_twin (w : Work) (f : TimeSt → TimeSt) : (w.setTime f).twin = w.twin := rfl
@[simp] theorem Work.setTime_boot (w : Work) (f : TimeSt → TimeSt) : (w.setTime f).boot = w.boot := rfl
@[simp] theorem Work.setTime_modl (w : Work) (f : TimeSt → TimeSt) : (w.setTime f).modl = w.modl := rfl
@[simp] theorem Work.setTime_mem (w : Work) (f : TimeSt → TimeSt) : (w.setTime f).mem = w.mem := rfl
@[simp] theorem Work.setTime_jnl (w : Work) (f : TimeSt → TimeSt) : (w.setTime f).jnl = w.jnl := rfl

/-! ## setTwin -/

@[simp] theorem Work.setTwin_regs (w : Work) (f : TwinSt → TwinSt) : (w.setTwin f).regs = w.regs := rfl
@[simp] theorem Work.setTwin_free (w : Work) (f : TwinSt → TwinSt) : (w.setTwin f).free = w.free := rfl
@[simp] theorem Work.setTwin_out (w : Work) (f : TwinSt → TwinSt) : (w.setTwin f).out = w.out := rfl
@[simp] theorem Work.setTwin_bad (w : Work) (f : TwinSt → TwinSt) : (w.setTwin f).bad = w.bad := rfl
@[simp] theorem Work.setTwin_badWords (w : Work) (f : TwinSt → TwinSt) : (w.setTwin f).badWords = w.badWords := rfl
@[simp] theorem Work.setTwin_found (w : Work) (f : TwinSt → TwinSt) : (w.setTwin f).found = w.found := rfl
@[simp] theorem Work.setTwin_adds (w : Work) (f : TwinSt → TwinSt) : (w.setTwin f).adds = w.adds := rfl
@[simp] theorem Work.setTwin_slots (w : Work) (f : TwinSt → TwinSt) : (w.setTwin f).slots = w.slots := rfl
@[simp] theorem Work.setTwin_time (w : Work) (f : TwinSt → TwinSt) : (w.setTwin f).time = w.time := rfl
@[simp] theorem Work.setTwin_cores (w : Work) (f : TwinSt → TwinSt) : (w.setTwin f).cores = w.cores := rfl
@[simp] theorem Work.setTwin_ctxs (w : Work) (f : TwinSt → TwinSt) : (w.setTwin f).ctxs = w.ctxs := rfl
@[simp] theorem Work.setTwin_bars (w : Work) (f : TwinSt → TwinSt) : (w.setTwin f).bars = w.bars := rfl
@[simp] theorem Work.setTwin_chains (w : Work) (f : TwinSt → TwinSt) : (w.setTwin f).chains = w.chains := rfl
@[simp] theorem Work.setTwin_disps (w : Work) (f : TwinSt → TwinSt) : (w.setTwin f).disps = w.disps := rfl
@[simp] theorem Work.setTwin_plans (w : Work) (f : TwinSt → TwinSt) : (w.setTwin f).plans = w.plans := rfl
@[simp] theorem Work.setTwin_ports (w : Work) (f : TwinSt → TwinSt) : (w.setTwin f).ports = w.ports := rfl
@[simp] theorem Work.setTwin_sessions (w : Work) (f : TwinSt → TwinSt) : (w.setTwin f).sessions = w.sessions := rfl
@[simp] theorem Work.setTwin_emb (w : Work) (f : TwinSt → TwinSt) : (w.setTwin f).emb = w.emb := rfl
@[simp] theorem Work.setTwin_boot (w : Work) (f : TwinSt → TwinSt) : (w.setTwin f).boot = w.boot := rfl
@[simp] theorem Work.setTwin_modl (w : Work) (f : TwinSt → TwinSt) : (w.setTwin f).modl = w.modl := rfl
@[simp] theorem Work.setTwin_mem (w : Work) (f : TwinSt → TwinSt) : (w.setTwin f).mem = w.mem := rfl
@[simp] theorem Work.setTwin_jnl (w : Work) (f : TwinSt → TwinSt) : (w.setTwin f).jnl = w.jnl := rfl

/-! ## dropFound -/

@[simp] theorem Work.dropFound_regs (w : Work) : (w.dropFound).regs = w.regs := rfl
@[simp] theorem Work.dropFound_free (w : Work) : (w.dropFound).free = w.free := rfl
@[simp] theorem Work.dropFound_out (w : Work) : (w.dropFound).out = w.out := rfl
@[simp] theorem Work.dropFound_bad (w : Work) : (w.dropFound).bad = w.bad := rfl
@[simp] theorem Work.dropFound_badWords (w : Work) : (w.dropFound).badWords = w.badWords := rfl
@[simp] theorem Work.dropFound_adds (w : Work) : (w.dropFound).adds = w.adds := rfl
@[simp] theorem Work.dropFound_slots (w : Work) : (w.dropFound).slots = w.slots := rfl
@[simp] theorem Work.dropFound_time (w : Work) : (w.dropFound).time = w.time := rfl
@[simp] theorem Work.dropFound_cores (w : Work) : (w.dropFound).cores = w.cores := rfl
@[simp] theorem Work.dropFound_ctxs (w : Work) : (w.dropFound).ctxs = w.ctxs := rfl
@[simp] theorem Work.dropFound_bars (w : Work) : (w.dropFound).bars = w.bars := rfl
@[simp] theorem Work.dropFound_chains (w : Work) : (w.dropFound).chains = w.chains := rfl
@[simp] theorem Work.dropFound_disps (w : Work) : (w.dropFound).disps = w.disps := rfl
@[simp] theorem Work.dropFound_plans (w : Work) : (w.dropFound).plans = w.plans := rfl
@[simp] theorem Work.dropFound_ports (w : Work) : (w.dropFound).ports = w.ports := rfl
@[simp] theorem Work.dropFound_sessions (w : Work) : (w.dropFound).sessions = w.sessions := rfl
@[simp] theorem Work.dropFound_emb (w : Work) : (w.dropFound).emb = w.emb := rfl
@[simp] theorem Work.dropFound_twin (w : Work) : (w.dropFound).twin = w.twin := rfl
@[simp] theorem Work.dropFound_boot (w : Work) : (w.dropFound).boot = w.boot := rfl
@[simp] theorem Work.dropFound_modl (w : Work) : (w.dropFound).modl = w.modl := rfl
@[simp] theorem Work.dropFound_mem (w : Work) : (w.dropFound).mem = w.mem := rfl
@[simp] theorem Work.dropFound_jnl (w : Work) : (w.dropFound).jnl = w.jnl := rfl

/-! ## Units read back -/

@[simp] theorem Work.core_setCore (w : Work) (d g : Nat) (c : Core) : (w.setCore d g c).core d g = c := by
  simp [Work.core, Work.setCore]
@[simp] theorem Work.ctx_setCtx (w : Work) (d c : Nat) (x : Ctx) : (w.setCtx d c x).ctx d c = x := by
  simp [Work.ctx, Work.setCtx]
@[simp] theorem Work.bank_setBank (w : Work) (d b : Nat) (x : Bank) : (w.setBank d b x).bank d b = x := by
  simp [Work.bank, Work.setBank]
@[simp] theorem Work.bar_setBar (w : Work) (b : Nat) (x : Barrier) : (w.setBar b x).bar b = x := by
  simp [Work.bar, Work.setBar]
@[simp] theorem Work.disp_setDisp (w : Work) (d : Nat) (x : Disp) : (w.setDisp d x).disp d = x := by
  simp [Work.disp, Work.setDisp]
@[simp] theorem Work.plan_setPlan (w : Work) (p : Nat) (x : Plan) : (w.setPlan p x).plan p = x := by
  simp [Work.plan, Work.setPlan]
@[simp] theorem Work.slot_setSlot (w : Work) (p h : Nat) (x : Slot) : (w.setSlot p h x).slot p h = x := by
  simp [Work.slot, Work.setSlot]
@[simp] theorem Work.port_setPort (w : Work) (p : Nat) (x : Port) : (w.setPort p x).port p = x := by
  simp [Work.port, Work.setPort]
@[simp] theorem Work.me_setMe (w : Work) (d m : Nat) (x : Me) : (w.setMe d m x).me d m = x := by
  simp [Work.me, Work.setMe]
@[simp] theorem Work.mbank_setMbank (w : Work) (d b : Nat) (x : MBank) : (w.setMbank d b x).mbank d b = x := by
  simp [Work.mbank, Work.setMbank]

end Sys2Proof.Machine
end

