-- ==== Sys2Proof/Laws/Touch.lean ====
section
/-! SUPPORT. Everything that the shared operations can change, each said once: events change registers and the watcher's
note, messages change what waits at ports, stores change bytes. -/

namespace Sys2Proof.Machine

/-! ## Three kinds of change -/

/-- Nothing but register fields and the event that a watcher noted differs. -/
def Work.OnlyNotes (w v : Work) : Prop := ∃ r e, v = { w with regs := r, evt := e }

/-- Nothing but register fields, what left the module or waits at its ports, session tags and the count of messages without a
route differs. -/
def Work.OnlyMail (w v : Work) : Prop := ∃ r o p s n, v = { w with regs := r, out := o, ports := p, sessions := s, noRoute := n }

/-- Nothing but bytes stored, float additions that await the command's end, and the note that a store met a descriptor-table
page, differs. -/
def Work.OnlyBytes (w v : Work) : Prop := ∃ j h a, v = { w with jnl := j, dtHit := h, adds := a }

theorem Work.OnlyNotes.refl (w : Work) : w.OnlyNotes w := ⟨_, _, rfl⟩
theorem Work.OnlyMail.refl (w : Work) : w.OnlyMail w := ⟨_, _, _, _, _, rfl⟩
theorem Work.OnlyBytes.refl (w : Work) : w.OnlyBytes w := ⟨_, _, _, rfl⟩

theorem Work.OnlyNotes.trans {u v w : Work} (h : u.OnlyNotes v) (k : v.OnlyNotes w) : u.OnlyNotes w := by
  obtain ⟨r, e, rfl⟩ := h
  obtain ⟨r', e', rfl⟩ := k
  exact ⟨r', e', rfl⟩

theorem Work.OnlyMail.trans {u v w : Work} (h : u.OnlyMail v) (k : v.OnlyMail w) : u.OnlyMail w := by
  obtain ⟨r, o, p, s, n, rfl⟩ := h
  obtain ⟨r', o', p', s', n', rfl⟩ := k
  exact ⟨r', o', p', s', n', rfl⟩

theorem Work.OnlyBytes.trans {u v w : Work} (h : u.OnlyBytes v) (k : v.OnlyBytes w) : u.OnlyBytes w := by
  obtain ⟨j, d, a, rfl⟩ := h
  obtain ⟨j', d', a', rfl⟩ := k
  exact ⟨j', d', a', rfl⟩

/-- A fold of steps that each change only notes changes only notes. -/
theorem Work.OnlyNotes.foldl {α : Type} {f : Work → α → Work} (h : ∀ (w : Work) (a : α), w.OnlyNotes (f w a)) (l : List α) (w : Work) :
    w.OnlyNotes (l.foldl f w) := by
  induction l generalizing w with
  | nil => exact .refl w
  | cons a l ih => exact (h w a).trans (ih _)

/-! ## Registers and events -/

theorem Work.onlyNotes_wr (w : Work) (f : Fld) (d i v : Nat) : w.OnlyNotes (w.wr f d i v) := ⟨_, w.evt, rfl⟩
theorem Work.onlyNotes_wrB (w : Work) (f : Fld) (d i : Nat) (b : Bool) : w.OnlyNotes (w.wrB f d i b) := ⟨_, w.evt, rfl⟩
theorem Work.onlyNotes_bump (w : Work) (f : Fld) (d i n : Nat) : w.OnlyNotes (w.bump f d i n) := ⟨_, w.evt, rfl⟩
theorem Work.onlyNotes_bumpSat (w : Work) (f : Fld) (d i n : Nat) : w.OnlyNotes (w.bumpSat f d i n) := ⟨_, w.evt, rfl⟩
theorem Work.onlyNotes_atNs (w : Work) (ns : Nat) : w.OnlyNotes (w.atNs ns) := ⟨_, w.evt, rfl⟩

theorem Work.onlyNotes_watch (w : Work) (s : Nat) : w.OnlyNotes (w.watch s) := by
  unfold Work.watch
  dsimp only
  split
  · exact ⟨w.regs, _, rfl⟩
  · exact .refl w

/-- An occurrence of a source changes its registers and, in REST, the watcher's note (R589, R603). -/
theorem Work.onlyNotes_event (w : Work) (s st detail : Nat) : w.OnlyNotes (w.event s st detail) := by
  unfold Work.event Work.recPut
  dsimp only
  split
  · exact .refl w
  · generalize hv : w.watch s = v
    refine (hv ▸ w.onlyNotes_watch s : w.OnlyNotes v).trans ?_
    split
    · exact (onlyNotes_wr ..).trans (onlyNotes_wr ..)
    · exact (onlyNotes_wr ..).trans ((onlyNotes_wr ..).trans (onlyNotes_wr ..))

/-- A change of the device state is a register and an event. -/
theorem Work.onlyNotes_setDevState (w : Work) (st : Nat) : w.OnlyNotes (w.setDevState st) := by
  unfold Work.setDevState
  dsimp only
  split
  · exact .refl w
  · exact (onlyNotes_wr ..).trans (onlyNotes_event ..)

/-- A loss without a spare marks the die and may move the device to DEGRADED (R556). -/
theorem Work.onlyNotes_degrade (w : Work) (d : Nat) : w.OnlyNotes (w.degrade d) := by
  unfold Work.degrade
  dsimp only
  split
  · exact (onlyNotes_wr ..).trans (onlyNotes_setDevState ..)
  · exact onlyNotes_wr ..

/-! ## Messages -/

theorem Work.onlyMail_wr (w : Work) (f : Fld) (d i v : Nat) : w.OnlyMail (w.wr f d i v) :=
  ⟨_, w.out, w.ports, w.sessions, w.noRoute, rfl⟩
theorem Work.onlyMail_enqueue (w : Work) (p : Nat) (m : Msg) : w.OnlyMail (w.enqueue p m) :=
  ⟨w.regs, w.out, _, w.sessions, w.noRoute, rfl⟩
theorem Work.onlyMail_setSession (w : Work) (k : Nat) (x : Session) : w.OnlyMail (w.setSession k x) :=
  ⟨w.regs, w.out, w.ports, _, w.noRoute, rfl⟩
theorem Work.onlyMail_emitMsg (w : Work) (p : Nat) (m : Msg) : w.OnlyMail (w.emitMsg p m) :=
  ⟨w.regs, _, w.ports, w.sessions, w.noRoute, rfl⟩

/-- A message to another device waits at a port, or is discarded and counted (R513). -/
theorem Work.onlyMail_route (w : Work) (m : Msg) : w.OnlyMail (w.route m) := by
  unfold Work.route
  split
  · exact ⟨_, w.out, w.ports, w.sessions, _, rfl⟩
  · exact onlyMail_enqueue ..

theorem Work.onlyMail_dropSub (w : Work) (bridge sess tick : Nat) : w.OnlyMail (w.dropSub bridge sess tick) := by
  unfold Work.dropSub
  generalize List.range 8 = l
  induction l generalizing w with
  | nil => exact .refl w
  | cons a l ih =>
    refine .trans ?_ (ih _)
    dsimp only
    split
    · exact onlyMail_wr ..
    · exact .refl w

theorem Work.onlyMail_toHost (w : Work) (s : Nat) (m : Msg) : w.OnlyMail (w.toHost s m) := by
  unfold Work.toHost
  dsimp only
  split
  · split
    · exact onlyMail_enqueue ..
    · split
      · exact onlyMail_dropSub ..
      · exact onlyMail_route ..
  · split
    · split
      · split
        · exact (onlyMail_setSession ..).trans ((onlyMail_wr ..).trans (onlyMail_enqueue ..))
        · exact (onlyMail_setSession ..).trans (onlyMail_wr ..)
      · split
        · exact .refl w
        · exact onlyMail_enqueue ..
    · split
      · exact onlyMail_enqueue ..
      · exact .refl w

/-- A message sent leaves everything but the mail as it is (R503, R513). -/
theorem Work.onlyMail_send (w : Work) (m : Msg) : w.OnlyMail (w.send m) := by
  unfold Work.send
  dsimp only
  split
  · split
    · exact onlyMail_emitMsg ..
    · exact onlyMail_toHost ..
  · exact onlyMail_route ..

/-- So does the answer to a command (R516). -/
theorem Work.onlyMail_ctrlDone (w : Work) (h : KHdr) (st : Nat) (r : List Byte) : w.OnlyMail (w.ctrlDone h st r) :=
  onlyMail_send ..

/-! ## Stores -/

theorem Work.onlyBytes_wb (w : Work) (k : Nat) (b : Byte) : w.OnlyBytes (w.wb k b) := ⟨_, w.dtHit, w.adds, rfl⟩

theorem Work.onlyBytes_put (w : Work) (a : Nat) (f : Byte → Byte) : w.OnlyBytes (w.put a f) := by
  obtain ⟨j, h, e⟩ := w.put_only a f
  exact ⟨j, h, w.adds, e⟩

theorem Work.onlyBytes_write (w : Work) (a : Nat) (bs : List Byte) : w.OnlyBytes (w.write a bs) := by
  obtain ⟨j, h, e⟩ := w.write_only a bs
  exact ⟨j, h, w.adds, e⟩

theorem Work.onlyBytes_writeLE (w : Work) (a n v : Nat) : w.OnlyBytes (w.writeLE a n v) := onlyBytes_write ..

theorem Work.onlyBytes_move (w : Work) (src dst n : Nat) : w.OnlyBytes (w.move src dst n) := by
  unfold Work.move
  split
  · exact onlyBytes_write ..
  · exact .refl w

theorem Work.onlyBytes_writeBits (w : Work) (bit n v : Nat) : w.OnlyBytes (w.writeBits bit n v) := by
  unfold Work.writeBits
  dsimp only
  split
  · exact onlyBytes_put ..
  · exact onlyBytes_writeLE ..

theorem Work.onlyBytes_storeBits (w : Work) (d : Desc) (bit v : Nat) : w.OnlyBytes (w.storeBits d bit v) := by
  unfold Work.storeBits
  split <;> exact onlyBytes_writeBits ..

theorem Work.onlyBytes_combineAt (w : Work) (d : Desc) (bit v : Nat) : w.OnlyBytes (w.combineAt d bit v).1 := by
  unfold Work.combineAt
  split
  · exact .refl w
  · split
    · exact onlyBytes_storeBits ..
    · split
      · split
        · exact ⟨w.jnl, true, w.adds, rfl⟩
        · exact ⟨w.jnl, w.dtHit, _, rfl⟩
      · split
        · exact onlyBytes_storeBits ..
        · exact .refl w

end Sys2Proof.Machine
end

