-- ==== Sys2Proof/Laws/Calls.lean ====
section
/-! SUPPORT. General-core registers, and what a runtime call returns in the core that made it. -/

namespace Sys2Proof.Machine

/-! ## Registers -/

/-- x0 reads as zero whatever was written (R216). -/
theorem Core.getX_zero (c : Core) : c.getX 0 = 0 := rfl

/-- Another register than x0 reads back what was written, kept to 64 bits. -/
theorem Core.getX_setX {c : Core} {r v : Nat} (h : r ≠ 0) : (c.setX r v).getX r = v % 2 ^ 64 := by
  simp [Core.getX, Core.setX, h]

/-- A write to one register leaves every other as it was. -/
theorem Core.getX_setX_other {c : Core} {r k v : Nat} (h : r ≠ k) : (c.setX k v).getX r = c.getX r := by
  unfold Core.getX Core.setX
  split
  · rfl
  · split
    · rfl
    · exact smGet_smSet_other (Ne.symm h)

@[simp] theorem Core.setX_pc (c : Core) (r v : Nat) : (c.setX r v).pc = c.pc := by unfold Core.setX; split <;> rfl
@[simp] theorem Core.setX_wait (c : Core) (r v : Nat) : (c.setX r v).wait = c.wait := by unfold Core.setX; split <;> rfl
@[simp] theorem Core.setX_resv (c : Core) (r v : Nat) : (c.setX r v).resv = c.resv := by unfold Core.setX; split <;> rfl
@[simp] theorem Core.retire_getX (c : Core) (n r : Nat) : (c.retire n).getX r = c.getX r := rfl
@[simp] theorem Core.retire_pc (c : Core) (n : Nat) : (c.retire n).pc = (c.pc + n) % 2 ^ 64 := rfl
@[simp] theorem Core.retire_wait (c : Core) (n : Nat) : (c.retire n).wait = c.wait := rfl
@[simp] theorem Core.retire_resv (c : Core) (n : Nat) : (c.retire n).resv = c.resv := rfl

/-! ## Returns (R300) -/

/-- A call that returns has its status in a0. -/
theorem Work.callReturn_status (w : Work) (d g st : Nat) (v : Option Nat) :
    ((w.callReturn d g st v).core d g).getX 10 = st % 2 ^ 64 := by
  unfold Work.callReturn
  rw [Work.core_setCore, Core.retire_getX]
  split
  · rw [Core.getX_setX_other (by decide), Core.getX_setX (by decide)]
  · rw [Core.getX_setX (by decide)]

/-- A second result is in a1. -/
theorem Work.callReturn_second (w : Work) (d g st v : Nat) :
    ((w.callReturn d g st (some v)).core d g).getX 11 = v % 2 ^ 64 := by
  unfold Work.callReturn
  rw [Work.core_setCore, Core.retire_getX, Core.getX_setX (by decide)]

/-- The core goes on past the call's instruction. -/
theorem Work.callReturn_pc (w : Work) (d g st : Nat) (v : Option Nat) :
    ((w.callReturn d g st v).core d g).pc = ((w.core d g).pc + 4) % 2 ^ 64 := by
  unfold Work.callReturn
  rw [Work.core_setCore, Core.retire_pc]
  split <;> simp

/-- Nothing but the core that called differs. -/
theorem Work.callReturn_only (w : Work) (d g st : Nat) (v : Option Nat) :
    ∃ cs, w.callReturn d g st v = { w with cores := cs } := ⟨_, rfl⟩

end Sys2Proof.Machine
end

