-- ==== Sys2Proof/Laws/Memory.lean ====
section
/-! SUPPORT. The laws of memory: reads after writes, what a command's journal leaves alone, and that every memory
operation keeps the canonical form. -/

namespace Sys2Proof.Machine

/-- An empty memory reads as the unlisted byte everywhere. -/
@[simp] theorem Memory.get_nil (a : Nat) : Memory.get [] a = Memory.unlisted := rfl

/-- A stored byte is read back. -/
@[simp] theorem Memory.get_set_same (m : List Host.Cell) (a : Nat) (b : Byte) :
    Memory.get (Memory.set m a b) a = b := smGet_smSet_same m a b

/-- A stored byte leaves every other address alone. -/
theorem Memory.get_set_other {m : List Host.Cell} {a k : Nat} {b : Byte} (h : a ≠ k) :
    Memory.get (Memory.set m a b) k = Memory.get m k := smGet_smSet_other h

/-- What is read after a range is cleared. -/
theorem Memory.get_clear (m : List Host.Cell) (lo len a : Nat) :
    Memory.get (Memory.clear m lo len) a = if inRange lo len a then Memory.unlisted else Memory.get m a := by
  have := smGet_filter (d := Memory.unlisted) (m := m) (fun k => !inRange lo len k) a
  unfold Memory.get Memory.clear
  rw [this]
  cases inRange lo len a <;> simp

/-- A store keeps the canonical form. -/
theorem Memory.wf_set {m : List Host.Cell} (a : Nat) (b : Byte) (h : Memory.wf m = true) :
    Memory.wf (Memory.set m a b) = true := smWf_smSet a b h

/-- Clearing a range keeps the canonical form. -/
theorem Memory.wf_clear {m : List Host.Cell} (lo len : Nat) (h : Memory.wf m = true) :
    Memory.wf (Memory.clear m lo len) = true := smWf_filter _ h

/-- Storing a list of bytes keeps the canonical form. -/
theorem Memory.wf_sets {m : List Host.Cell} (l : List Host.Cell) (h : Memory.wf m = true) :
    Memory.wf (l.foldl (fun n c => Memory.set n c.1 c.2) m) = true := by
  induction l generalizing m with
  | nil => exact h
  | cons c l ih => exact ih (Memory.wf_set c.1 c.2 h)

/-- Copying a range keeps the canonical form. -/
theorem Memory.wf_copy {m : List Host.Cell} (src dst len : Nat) (h : Memory.wf m = true) :
    Memory.wf (Memory.copy m src dst len) = true := Memory.wf_sets _ (Memory.wf_clear dst len h)

/-- Every change of memory keeps the canonical form. -/
theorem Memory.wf_apply {m : List Host.Cell} (op : MemOp) (h : Memory.wf m = true) :
    Memory.wf (Memory.apply m op) = true := by
  cases op with
  | store a b => exact Memory.wf_set a b h
  | clear lo len => exact Memory.wf_clear lo len h
  | copy s d n => exact Memory.wf_copy s d n h

/-- What a command did to memory keeps the canonical form. -/
theorem Memory.wf_commit {m : List Host.Cell} (j : List MemOp) (h : Memory.wf m = true) :
    Memory.wf (Memory.commit m j) = true := by
  induction j with
  | nil => exact h
  | cons op j ih => exact Memory.wf_apply op ih

/-- Bytes stored elsewhere leave an address alone. -/
theorem Memory.get_sets_other {m : List Host.Cell} (l : List Host.Cell) {a : Nat} (h : ∀ c ∈ l, c.1 ≠ a) :
    Memory.get (l.foldl (fun n c => Memory.set n c.1 c.2) m) a = Memory.get m a := by
  induction l generalizing m with
  | nil => rfl
  | cons c l ih =>
    rw [List.foldl_cons, ih (fun e he => h e (List.mem_cons_of_mem _ he))]
    exact Memory.get_set_other (h c (List.mem_cons_self ..))

/-- A change that does not touch the line of an address leaves that address alone. -/
theorem Memory.get_apply_untouched {m : List Host.Cell} {op : MemOp} {a : Nat} (h : op.touches (a / 64) = false) :
    Memory.get (Memory.apply m op) a = Memory.get m a := by
  cases op with
  | store k b =>
    refine Memory.get_set_other ?_
    simp only [MemOp.touches, decide_eq_false_iff_not] at h
    intro hk; exact h (by rw [hk])
  | clear lo len =>
    simp only [Memory.apply, Memory.get_clear]
    have : inRange lo len a = false := by
      simp only [MemOp.touches, inRange, Bool.and_eq_false_iff, decide_eq_false_iff_not] at h ⊢
      omega
    simp [this]
  | copy s d n =>
    have hr : ∀ x, inRange d n x = true → x ≠ a := by
      intro x hx hxa
      subst hxa
      simp only [MemOp.touches, inRange, Bool.and_eq_true, Bool.and_eq_false_iff, decide_eq_true_eq,
        decide_eq_false_iff_not] at h hx
      omega
    have hd : inRange d n a = false := by
      cases hi : inRange d n a with
      | false => rfl
      | true => exact absurd rfl (hr a hi)
    simp only [Memory.apply, Memory.copy]
    rw [Memory.get_sets_other, Memory.get_clear]
    · simp [hd]
    · intro c hc
      obtain ⟨e, he, rfl⟩ := List.mem_map.mp hc
      obtain ⟨_, he⟩ := List.mem_filter.mp he
      refine hr _ ?_
      simp only [inRange, Bool.and_eq_true, decide_eq_true_eq] at he ⊢
      omega

/-- A command that touches no byte of a line leaves its bytes alone. -/
theorem Memory.get_commit_untouched {m : List Host.Cell} {j : List MemOp} {a : Nat}
    (h : j.any (MemOp.touches (a / 64)) = false) : Memory.get (Memory.commit m j) a = Memory.get m a := by
  induction j with
  | nil => rfl
  | cons op j ih =>
    simp only [List.any_cons, Bool.or_eq_false_iff] at h
    show Memory.get (Memory.apply (Memory.commit m j) op) a = _
    rw [Memory.get_apply_untouched h.1, ih h.2]

end Sys2Proof.Machine
end

