-- ==== Sys2Proof/Laws/Ops.lean ====
section
/-! SUPPORT. What one command can do: its outcome, the queue, memory and the reservations of the cores; and the laws of
register fields. -/

namespace Sys2Proof.Machine

/-! ## One command -/

/-- A well-formed command completes. -/
theorem State.perform_wf {i : Instr} {f : Work → Work} {s : State} (h : i.wf = true) :
    s.perform i f = .next (s.on f) := by simp [State.perform, h]

/-- A command that names what the module does not have faults. -/
theorem State.perform_ill {i : Instr} {f : Work → Work} {s : State} (h : i.wf = false) :
    s.perform i f = .fault .illFormed := by simp [State.perform, h]

/-- Every meaning has the one form of `State.perform`. -/
theorem exec_eq_perform (i : Instr) (s : State) : ∃ f, exec i s = s.perform i f := by
  cases i <;> exact ⟨_, rfl⟩

/-- What the next state of a command is made of. -/
theorem exec_next {i : Instr} {s t : State} (h : exec i s = .next t) : i.wf = true ∧ ∃ f, t = s.on f := by
  obtain ⟨f, hf⟩ := exec_eq_perform i s
  rw [hf] at h
  unfold State.perform at h
  split at h
  · cases h; exact ⟨by assumption, f, rfl⟩
  · cases h

/-- Two effects that agree on the block as the command finds it give one next state. -/
theorem State.on_congr {f g : Work → Work} {s : State} (h : f s.work = g s.work) : s.on f = s.on g := by
  simp only [State.on, h]

/-- The front of the queue is what a step runs. -/
theorem step_cons (s : State) (c : Instr) (cs : List Instr) (h : s.pending = c :: cs) :
    step s = exec c { s with pending := cs } := by simp only [step, h]

/-- With nothing waiting a step changes nothing. -/
theorem step_nil (s : State) (h : s.pending = []) : step s = .next s := by simp only [step, h]

/-- What a step that answers a next state was. -/
theorem step_next {s t : State} (h : step s = .next t) :
    (s.pending = [] ∧ t = s) ∨
    ∃ c cs f, s.pending = c :: cs ∧ c.wf = true ∧ t = ({ s with pending := cs } : State).on f := by
  cases hp : s.pending with
  | nil => rw [step_nil s hp] at h; cases h; exact .inl ⟨rfl, rfl⟩
  | cons c cs =>
    rw [step_cons s c cs hp] at h
    obtain ⟨hw, f, rfl⟩ := exec_next h
    exact .inr ⟨c, cs, f, rfl, hw, rfl⟩

/-! ## Reservations -/

/-- Only the reservations of the cores change when they are dropped. -/
@[simp] theorem Work.dropReservations_jnl (w : Work) : w.dropReservations.jnl = w.jnl := rfl
@[simp] theorem Work.dropReservations_regs (w : Work) : w.dropReservations.regs = w.regs := rfl

/-- A reservation that is still held is of a line that the command did not touch. -/
theorem Work.dropReservations_held {w : Work} {k l : Nat} {c : Core} (hm : (k, c) ∈ w.dropReservations.cores)
    (hl : c.resv = some l) : w.jnl.any (MemOp.touches l) = false := by
  simp only [Work.dropReservations, List.mem_map] at hm
  obtain ⟨e, _, he⟩ := hm
  split at he
  · split at he
    · rw [Prod.mk.injEq] at he
      rw [← he.2] at hl
      cases hl
    · rename_i x hx hn
      rw [he] at hx
      have : x = l := by rw [hx] at hl; cases hl; rfl
      subst this
      simpa using hn
  · rename_i hx
    rw [he] at hx
    rw [hx] at hl
    cases hl

/-! ## Register fields -/

/-- A field reads the value written to it, kept to its width. -/
@[simp] theorem Work.rd_wr_same (w : Work) (f : Fld) (d i v : Nat) :
    (w.wr f d i v).rd f d i = v % 2 ^ f.w := by
  simp only [Work.rd, Work.wr, smGet_smSet_same, Nat.xor_assoc, Nat.xor_self, Nat.xor_zero, Nat.mod_mod]

/-- A field never reads wider than it is. -/
theorem Work.rd_lt (w : Work) (f : Fld) (d i : Nat) : w.rd f d i < 2 ^ f.w := Nat.mod_lt _ (Nat.two_pow_pos _)

/-- A field keeps its value when a field at another place is written. -/
theorem Work.rd_wr_other {w : Work} {f g : Fld} {d i e j v : Nat} (h : g.key e j ≠ f.key d i) :
    (w.wr g e j v).rd f d i = w.rd f d i := by
  simp only [Work.rd, Work.wr, smGet_smSet_other h]

/-- Writing a field keeps the register map canonical. -/
theorem Work.regsWf_wr {w : Work} (f : Fld) (d i v : Nat) (h : smWf 0 w.regs = true) :
    smWf 0 (w.wr f d i v).regs = true := smWf_smSet _ _ h

/-- At reset every field reads its reset value. -/
@[simp] theorem reset_rd (f : Fld) (d i : Nat) : State.reset.work.rd f d i = f.rst % 2 ^ f.w := by
  simp [Work.rd, State.work, State.reset]

end Sys2Proof.Machine
end

