-- ==== Sys2Proof/Tests/Slice0.lean ====
section
/-! SUPPORT. Small checks of the model: terms that `Instr.wf` refuses, results that the spec's own examples give, and
for each statement of Certificates/Slice0/Obligations.lean concrete states and operands that meet its hypotheses. -/

namespace Sys2Proof.Tests

open Sys2Proof Sys2Proof.Machine

set_option Elab.async false

/-- A state a change away from reset. -/
def mk (f : Work → Work) : State := State.reset.on f

/-- A device in a state. -/
def inState (n : Nat) : State := mk fun w => w.wr F.rstStateState 0 0 n

/-- A number from its fields: the lowest bit of each and its value. -/
def fields (fs : List (Nat × Nat)) : Nat := fs.foldl (fun x p => x + p.2 * 2 ^ p.1) 0

/-- A 64 B record from its fields. -/
def record (fs : List (Nat × Nat)) : Rec := BitVec.ofNat 512 (fields fs)

/-- A writable descriptor of n elements of a type, one after the other in len bytes from an address (R95). -/
def tensor (ty base n len : Nat) : Rec :=
  record [(0, base), (55, ty), (60, 1), (63, 1), (64, base), (116, len), (164, n), (190, 1)]

/-- A writable descriptor of n rows of m elements. -/
def table2 (ty base m n len : Nat) : Rec :=
  record [(0, base), (55, ty), (60, 2), (63, 1), (64, base), (116, len), (164, m), (190, 1), (222, n), (248, m)]

/-- Management firmware on die 0. -/
def fw : Issuer := .firmware 0 0

/-- Firmware's table with descriptors in it. -/
def withSlots (hs : List (Nat × Rec)) (s : State) : State :=
  s.on fun w => hs.foldl (fun w h => w.setSlot 16 h.1 ⟨.valid, h.2⟩) w

/-- A task of plan 0. -/
def task0 : Task := { r := 0, plan := 0, gen := 0, release := 0, elig := none, epoch := 0, start := 0, serial := 0, workEpoch := 0, deferred := none }

/-- A plan that is granted the whole map. -/
def wholeMap : List (Nat × Partition) := [(0, ⟨[⟨0, 2 ^ 52⟩], (List.range 128).map (fun b => (0, b))⟩)]

/-- Core (0, 0) executes a task of plan 0, which is granted the whole map. -/
def coreUp : State := mk fun w =>
  let w := w.setCore 0 0 { w.core 0 0 with user := true, halted := false, wait := .none }
  { w.setDisp 0 { w.disp 0 with run := [(0, [task0])] } with parts := wholeMap }

/-- A stream-engine request is taken, as a test. -/
def asks (op : Nat) (iss : Issuer) (r : Rec) (s : State) : Bool :=
  iss.wf && decide (recF r 7 0 = op) && s.work.tapRoom iss &&
    match strmReserved op with
    | some z => recZero r z
    | none => false

theorem asks_request {op : Nat} {iss : Issuer} {r : Rec} {s : State} (h : asks op iss r s = true) :
    StreamRequest op iss r s (s.work.tapIssue iss) := by
  unfold asks at h
  split at h
  · next z hz =>
    simp only [Bool.and_eq_true, decide_eq_true_eq] at h
    exact ⟨h.1.1.1, h.1.1.2, h.1.2, rfl, z, hz, h.2⟩
  · simp at h

/-- A header of a class and type, from device d and session slot k, for this device and its session slot j. -/
def hdr (cls typ len d k j : Nat) : KHdr := ⟨cls, typ, d, k, 0, j, 8, 0, len, 1, 0⟩

/-- Port 23 in a state, in a device with its identity. -/
def portIn (st : Nat) : State := mk fun w => (w.wr F.klPortStatusState 0 23 st).wr F.secStatusIdOk 0 0 1

/-- A byte of cellar die 0. -/
def cel (o : Nat) : Nat := cellarBase + o

/-- The 64 bytes of a record, and the record that a call takes them for. -/
def again (r : Rec) : Rec := BitVec.ofNat 512 (ofBytes (toBytes 64 r.toNat))

/-- Whether a plan goes. -/
def goes : OpPlan → Bool
  | .go _ => true
  | .fails _ => false

/-- Core (0, 0) has a record at address 64 of its local memory. -/
def recIn (r : Rec) (s : State) : State := s.on fun w => w.writeLE (gcWindow 0 0 + 64) 64 r.toNat

/-- Core (0, 0) runs and its call reads that record. -/
def reads (r : Rec) (s : State) : Bool :=
  s.work.coreRuns 0 0 && decide (s.work.callRecord 0 0 64 64 64 = some (toBytes 64 r.toNat)) && decide (again r = r)

/-! ## Ill-formed commands are refused -/

/-- A command of bounded operands is well-formed with each at its largest value, and ill-formed with any one of them past it. -/
def bounded (e : List Nat × ((Nat → Nat) → Instr)) : Bool :=
  (e.2 (fun k => getAt 1 e.1 k - 1)).wf &&
    (List.range e.1.length).all (fun j => !(e.2 (fun k => if k = j then getAt 1 e.1 k else getAt 1 e.1 k - 1)).wf)

theorem test_bounds_1 : (([
    ([16], fun x => .overrunFault (x 0)),
    ([4, 120], fun x => .catchupExpire (x 0) (x 1)),
    ([4], fun x => .heldEntryEnqueue (x 0)),
    ([24], fun x => .announce (x 0) 0 0 true 0 0),
    ([24], fun x => .delayReq (x 0) 0 0 0),
    ([24], fun x => .delayResp (x 0) 0 0 0),
    ([4], fun x => .cellarCompletion (x 0) 0),
    ([4, 1024, 32768], fun x => .cellarScrub (x 0) (x 1) (x 2) .clean),
    ([4, 1024], fun x => .dataBankFence (x 0) (x 1) 0),
    ([4, 1024], fun x => .bankFenceCopyDone (x 0) (x 1)),
    ([4], fun x => .matchCompletion (x 0) 0),
    ([4, 128, 8192], fun x => .matchScrub (x 0) (x 1) (x 2) .clean),
    ([4, 128], fun x => .matchBankFence (x 0) (x 1) 0),
    ([4, 128], fun x => .matchFenceCopyDone (x 0) (x 1)),
    ([4, 24], fun x => .wload (x 0) (x 1)),
    ([4, 24], fun x => .mac (x 0) (x 1)),
    ([4, 24], fun x => .store (x 0) (x 1)),
    ([4, 24], fun x => .cbload (x 0) (x 1)),
    ([4, 24], fun x => .rotate (x 0) (x 1)),
    ([4, 24], fun x => .ringTransferDone (x 0) (x 1)),
    ([4, 24], fun x => .meEnd (x 0) (x 1)),
    ([4], fun x => .histCombineDeadline (x 0)),
    ([4, 96, 32, 32], fun x => .vh64V (x 0) (x 1) (x 2) (x 3) true),
    ([4, 96, 32, 32], fun x => .vh64Vs (x 0) (x 1) (x 2) (x 3) true),
    ([4, 96, 32, 32, 32], fun x => .vh64M (x 0) (x 1) (x 2) (x 3) (x 4))
  ] : List (List Nat × ((Nat → Nat) → Instr))).all bounded) = true := by decide +kernel

theorem test_bounds_2 : (([
    ([4, 96, 32, 32, 32], fun x => .crc32cM (x 0) (x 1) (x 2) (x 3) (x 4)),
    ([4, 96, 32, 32, 32], fun x => .vbkt (x 0) (x 1) true true true (x 2) (x 3) (x 4) true),
    ([4, 96, 32, 32, 32], fun x => .vbitonic (x 0) (x 1) (x 2) (x 3) (x 4)),
    ([4, 96, 4, 32, 32], fun x => .vargmax (x 0) (x 1) (x 2) (x 3) (x 4) true),
    ([4, 96, 32, 32], fun x => .vqpack (x 0) (x 1) true (x 2) (x 3)),
    ([4, 96, 32, 32], fun x => .vtapTransfer (x 0) (x 1) (x 2) (x 3)),
    ([4, 96, 32, 32], fun x => .vtapCellar (x 0) (x 1) (x 2) (x 3)),
    ([4, 96, 32, 32], fun x => .vtapMatch (x 0) (x 1) (x 2) (x 3)),
    ([4, 96], fun x => .tapRequestComplete (x 0) (x 1) 0),
    ([4, 96], fun x => .wfi (x 0) (x 1)),
    ([4, 96], fun x => .userTrap (x 0) (x 1) 0 0 true true),
    ([4, 96], fun x => .ebreakHalt (x 0) (x 1)),
    ([4, 96], fun x => .chainStageReturn (x 0) (x 1) .ok),
    ([4, 256], fun x => .nop (x 0) (x 1)),
    ([4, 256], fun x => .loop (x 0) (x 1)),
    ([4, 256], fun x => .endl (x 0) (x 1)),
    ([4, 256], fun x => .seti (x 0) (x 1)),
    ([4, 256], fun x => .addi (x 0) (x 1)),
    ([4, 256], fun x => .add (x 0) (x 1)),
    ([4, 256], fun x => .sub (x 0) (x 1)),
    ([4, 256], fun x => .madl (x 0) (x 1)),
    ([4, 256], fun x => .wrap (x 0) (x 1)),
    ([4, 256], fun x => .trellisEmitTransfer (x 0) (x 1)),
    ([4, 256], fun x => .trellisEmitCellar (x 0) (x 1)),
    ([4, 256], fun x => .trellisEmitMatch (x 0) (x 1))
  ] : List (List Nat × ((Nat → Nat) → Instr))).all bounded) = true := by decide +kernel

theorem test_bounds_3 : (([
    ([4, 256], fun x => .trellisEnd (x 0) (x 1)),
    ([4, 256], fun x => .streamEmitDone (x 0) (x 1)),
    ([4], fun x => .bandwidthGrant (x 0) 0),
    ([4, 1048576], fun x => .rackPage (x 0) (x 1)),
    ([4, 1048576], fun x => .rackCopyDone (x 0) (x 1)),
    ([4, 4], fun x => .dispSubmit (x 0) (x 1) 0),
    ([4, 96, 18446744073709551616], fun x => .taskSubmit (x 0) (x 1) (x 2)),
    ([4], fun x => .delayRelease (x 0) 0),
    ([4, 120], fun x => .taskStart (x 0) (x 1) 0),
    ([4], fun x => .streamTaskIssue (x 0) 0),
    ([4, 120], fun x => .taskComplete (x 0) (x 1) 0 .ok),
    ([4, 96, 18446744073709551616], fun x => .filter (x 0) (x 1) (x 2) 0 0),
    ([4, 96, 18446744073709551616], fun x => .joinBuildInsert (x 0) (x 1) (x 2) 0 0),
    ([4, 96, 18446744073709551616], fun x => .joinBuildFinish (x 0) (x 1) (x 2) 0 0),
    ([4, 96, 18446744073709551616], fun x => .joinBuildClear (x 0) (x 1) (x 2) 0 0),
    ([4, 96, 18446744073709551616], fun x => .joinProbe (x 0) (x 1) (x 2) 0 0),
    ([4, 96, 18446744073709551616], fun x => .gather (x 0) (x 1) (x 2) 0 0),
    ([4, 96, 18446744073709551616], fun x => .bucketize (x 0) (x 1) (x 2) 0 0),
    ([4, 96, 18446744073709551616], fun x => .normalise (x 0) (x 1) (x 2) 0 0),
    ([4, 96, 18446744073709551616], fun x => .hashFeature (x 0) (x 1) (x 2) 0 0),
    ([4, 96, 18446744073709551616], fun x => .window (x 0) (x 1) (x 2) 0 0),
    ([4, 96, 18446744073709551616], fun x => .sort (x 0) (x 1) (x 2) 0 0),
    ([4, 96, 18446744073709551616], fun x => .topk (x 0) (x 1) (x 2) 0 0),
    ([4, 96, 18446744073709551616], fun x => .merge (x 0) (x 1) (x 2) 0 0),
    ([4, 96, 18446744073709551616], fun x => .lookup (x 0) (x 1) (x 2))
  ] : List (List Nat × ((Nat → Nat) → Instr))).all bounded) = true := by decide +kernel

theorem test_bounds_4 : (([
    ([4, 96, 18446744073709551616], fun x => .update (x 0) (x 1) (x 2)),
    ([4, 96, 18446744073709551616], fun x => .arrowCheck (x 0) (x 1) (x 2) 0 0),
    ([4, 96, 18446744073709551616], fun x => .parquetDecode (x 0) (x 1) (x 2) 0 0),
    ([8], fun x => .fieldRecordFrame (x 0) [] true 0),
    ([8], fun x => .portStatusFrame (x 0)),
    ([8], fun x => .ptpAnnounceTimeout (x 0)),
    ([8], fun x => .fieldLinkChange (x 0) true .dr1),
    ([4, 96, 18446744073709551616], fun x => .frame (x 0) (x 1) (x 2)),
    ([4, 96, 18446744073709551616], fun x => .emit (x 0) (x 1) (x 2) 0 0 0),
    ([32], fun x => .emitResume (x 0)),
    ([4, 96], fun x => .emitWaitTimeout (x 0) (x 1)),
    ([32], fun x => .redeliver (x 0) 0),
    ([32], fun x => .pushSend (x 0)),
    ([24], fun x => .kupelTrainingComplete (x 0) 0 0),
    ([24, 5], fun x => .laneLossOfLock (x 0) (x 1)),
    ([24, 5], fun x => .serLimitExceeded (x 0) (x 1)),
    ([24], fun x => .trainingExclusion (x 0)),
    ([24], fun x => .linkHelloTimeout (x 0)),
    ([24], fun x => .attestRetry (x 0)),
    ([24], fun x => .kfpFrame (x 0) [] true 0),
    ([24], fun x => .messageTransmit (x 0) 0),
    ([24], fun x => .ackTimer (x 0)),
    ([24], fun x => .replayTimeout (x 0)),
    ([4], fun x => .sessionOpenTimeout (x 0)),
    ([4], fun x => .sessionIdleTimeout (x 0))
  ] : List (List Nat × ((Nat → Nat) → Instr))).all bounded) = true := by decide +kernel

theorem test_bounds_5 : (([
    ([4, 120], fun x => .hangDetect (x 0) (x 1)),
    ([4, 120], fun x => .unitFence (x 0) (x 1) 0),
    ([4], fun x => .mcFence (x 0) 0),
    ([4], fun x => .fatalFailure (x 0) .noc),
    ([4], fun x => .lockup (x 0)),
    ([4, 120], fun x => .unitResetDone (x 0) (x 1)),
    ([256], fun x => .eventOccurrence (x 0) .ok 0),
    ([256], fun x => .eventDelivery (x 0)),
    ([32], fun x => .holdoffExpire (x 0)),
    ([4], fun x => .evtEoi (x 0) 0),
    ([4], fun x => .evtPend (x 0) 0),
    ([4, 96], fun x => .planEvent (x 0) (x 1) 0 0),
    ([11], fun x => .railGood (x 0)),
    ([11], fun x => .railGoodTimeout (x 0)),
    ([11], fun x => .railFault (x 0)),
    ([4], fun x => .vcoreExcursion (x 0) 0 0),
    ([8], fun x => .qsfpModuleChange (x 0) .dr1 0),
    ([4, 96], fun x => .rv64gcInstruction (x 0) (x 1))
  ] : List (List Nat × ((Nat → Nat) → Instr))).all bounded) = true := by decide +kernel

theorem test_bounds_lanes : [(true, 2), (false, 4)].all (fun p => [Instr.jobComplete, .laneInternalError].all (fun c =>
    (c 3 p.1 (p.2 - 1)).wf && !(c 4 p.1 0).wf && !(c 3 p.1 p.2).wf)) = true := by decide +kernel

/-- Issuers that the module does not have. -/
def noIssuers : List Issuer := [.core 4 0, .core 0 96, .stream 4 0, .stream 0 256, .firmware 4 0, .firmware 0 4]

theorem test_issuers : ([.scanFilter, .probe, .insert, .histAdd, .atomicRow, .gatherSum, .copy, .fill, .search, .searchOne,
      .matchWrite, .matchClear, .matchRead, .configure, .xfer, .descInstall, .descRelease, .streamStart, .streamStop,
      .barArrive, .barArm, .chain, .resume] :
      List (Issuer → Rec → Instr)).all (fun c => [Issuer.core 3 95, .stream 3 255, .firmware 3 3].all (fun i => (c i 0).wf) &&
    noIssuers.all (fun i => !(c i 0).wf)) = true := by decide +kernel

/-- Requesters that the module does not have. -/
def noRequesters : List Requester := [.mc 4, .regWrite 512 0, .regWrite 0 8]

theorem test_requesters : ([fun b => .timeTickPeriodWrite b 0, fun b => .twnCtlHandover b, fun b => .sprFence b 0,
      fun b => .sw b 0, fun b => .unitReset b 0, fun b => .kick b 0, fun b => .evtSub b 7 0, fun b => .enrol b 0,
      fun b => .erase b 0, fun b => .program b 0, fun b => .verifyOxene b 0, fun b => .verifyOwner b 0,
      fun b => .registerWrite b 0 0] :
      List (Requester → Instr)).all (fun c => [Requester.mc 3, .regWrite 511 7, .recovery].all (fun b => (c b).wf) &&
    noRequesters.all (fun b => !(c b).wf)) = true := by decide +kernel

theorem test_bounds_subscription : (Instr.evtSub .recovery 8 0).wf = false := by decide +kernel

/-- Headers with one field past its bits. -/
def badHeaders : List KHdr := [{ hdr 3 2 1 5 0 0 with cls := 8 }, { hdr 3 2 1 5 0 0 with typ := 256 },
      { hdr 3 2 1 5 0 0 with srcDev := 512 },
  { hdr 3 2 1 5 0 0 with srcSess := 8 }, { hdr 3 2 1 5 0 0 with dstDev := 512 }, { hdr 3 2 1 5 0 0 with dstSess := 8 },
  { hdr 3 2 1 5 0 0 with hops := 16 }, { hdr 3 2 1 5 0 0 with flow := 65536 }, { hdr 3 2 1 5 0 0 with tag := 2 ^ 32 },
  { hdr 3 2 1 5 0 0 with tick := 2 ^ 64 }]

theorem test_header_length : (hdr 3 2 9145 5 0 0).wf = false ∧ (hdr 3 2 9144 5 0 0).wf = true := by decide +kernel

theorem test_messages_1 : ([fun h bs => .histPartial 0 h bs, fun h bs => .tableAttach h bs, fun h bs => .embLookup h bs,
      fun h bs => .embPooled h bs, fun h bs => .embUpdate h bs, fun h bs => .rowReplace h bs, fun h bs => .rowMigrate h bs 0,
      fun h bs => .embCopy h bs, fun h bs => .embOverride h bs, fun h bs => .bqFetch h bs, fun h bs => .batchPart h bs,
      fun h bs => .linkHello 0 h bs, fun h bs => .dataWrite h bs, fun h bs => .sessionOpen h 0 bs, fun h bs => .attest h bs,
      fun h bs => .planLoad h bs] :
      List (KHdr → List Byte → Instr)).all (fun c => (c (hdr 3 2 1 5 0 0) [0]).wf && badHeaders.all (fun h => !(c h [0]).wf) &&
    !(c (hdr 3 2 1 5 0 0) [0, 0]).wf) = true := by decide +kernel

theorem test_messages_2 : ([fun h bs => .planStart h bs, fun h bs => .planStop h bs, fun h bs => .planDrain h bs,
      fun h bs => .regRead h bs, fun h bs => .regWrite h bs, fun h bs => .ctrlDone h bs, fun h bs => .event h bs,
      fun h bs => .hello h bs, fun h bs => .heartbeat h bs, fun h bs => .deltaPart h bs, fun h bs => .deltaEnd h bs,
      fun h bs => .deltaAck h bs, fun h bs => .bulkPart h bs, fun h bs => .bulkEnd h bs, fun h bs => .detach h bs,
      fun h bs => .handover h bs] :
      List (KHdr → List Byte → Instr)).all (fun c => (c (hdr 3 2 1 5 0 0) [0]).wf && badHeaders.all (fun h => !(c h [0]).wf) &&
    !(c (hdr 3 2 1 5 0 0) [0, 0]).wf) = true := by decide +kernel

theorem test_message_bounds : [Instr.histPartial 4 (hdr 3 2 1 5 0 0) [0], Instr.linkHello 24 (hdr 3 2 1 5 0 0) [0],
      Instr.sessionOpen (hdr 3 2 1 5 0 0) 281474976710656 [0]].all (fun i => !i.wf) &&
    badHeaders.all (fun h => !(Instr.sessionClose h).wf) = true := by decide +kernel

theorem test_clocks : [Clk.computeDie 3, .noc 3, .memory 3 2, .cellar 3, .kupelPort 23,
      .fieldPort 7].all (fun c => (Instr.clockLoss c).wf) &&
    [Clk.computeDie 4, .noc 4, .memory 4 0, .memory 0 3, .cellar 4, .kupelPort 24,
      .fieldPort 8].all (fun c => !(Instr.clockLoss c).wf) =
      true := by decide +kernel

/-- A sample of every sensor, with lists of these lengths. -/
def sensors (a b c d e f : Nat) : Sensors := ⟨List.replicate a (List.replicate b 30), List.replicate c (List.replicate d 30),
  List.replicate e 30, List.replicate f 30, 20, 30⟩

theorem test_samples : (Instr.sensorSample (sensors 4 8 4 4 4 4)).wf && [sensors 3 8 4 4 4 4, sensors 4 7 4 4 4 4,
      sensors 4 8 5 4 4 4,
      sensors 4 8 4 3 4 4, sensors 4 8 4 4 3 4, sensors 4 8 4 4 4 5].all (fun r => !(Instr.sensorSample r).wf) &&
    (Instr.powerSample ⟨List.replicate 11 0, List.replicate 11 0, List.replicate 11 0, false⟩).wf &&
    [(10, 11, 11), (11, 12, 11), (11, 11, 10)].all (fun (n : Nat × Nat × Nat) =>
      !(Instr.powerSample ⟨List.replicate n.1 0, List.replicate n.2.1 0, List.replicate n.2.2 0,
      false⟩).wf) = true := by decide +kernel

theorem test_ptp : ([fun p m => .ptpAnnounce p m, fun p m => .ptpSync p m 0 0, fun p m => .ptpFollowUp p m 0,
      fun p m => .ptpDelayResp p m] :
      List (Nat → PtpMsg → Instr)).all (fun c => (c 7 ⟨255, 9, 65535, true, 1, 999999999, 0, 3, -4⟩).wf &&
    !(c 8 ⟨255, 9, 65535, true, 1, 999999999, 0, 3, -4⟩).wf && !(c 7 ⟨256, 9, 0, true, 1, 0, 0, 3, -4⟩).wf &&
    !(c 7 ⟨0, 9, 65536, true, 1, 0, 0, 3, -4⟩).wf && !(c 7 ⟨0, 9, 0, true, 1, 0x100000000, 0, 3,
      -4⟩).wf) = true := by decide +kernel

theorem test_jobs : [Instr.decode, .encode].all (fun c => (c (.core 3 95 0)).wf && (c (.firmware 3 3 0)).wf &&
    [JobSource.core 4 0 0, .core 0 96 0, .core 0 0 (2 ^ 64), .firmware 4 0 0,
      .firmware 0 4 0].all (fun j => !(c j).wf)) = true := by
  decide +kernel

/-- A core holds a reservation of line 5 while a command waits. -/
def heldResv : State := { mk (fun w => w.setCore 3 95 { w.core 3 95 with resv := some 5 }) with pending := [.bypass, .tick] }

theorem wit_Structure :
    (match step heldResv with
    | .next t => t.cores.any (fun e => decide (e.2.resv = some 5)) && decide (t.pending = [.tick]) && Memory.wf heldResv.mem
    | _ => false) = true ∧ Instr.tick.wf = true ∧ (Instr.taskStart 4 0 0).wf = false ∧ State.reset.pending = [] ∧
    F.rstStateState.key 0 0 ≠ F.timeNowNowNs.key 0 0 ∧ MemInv State.reset := by unfold MemInv; decide +kernel
/-! ## Events -/

/-- Source 0 delivered to management core 0: deliverable in group 0, to MC0 alone, with a hold-off of 5 us. -/
def evtReady : State := mk fun w =>
  (((((w.wr F.evtPriEnable 0 0 1).wr F.evtPriTargets 0 0 1).wr F.evtGlobalDeliver 0 0 1).wr F.evtPriState 0 0 1).wr
    (F.evtHoldoffUs 0) 0 0 5)

/-- Source 0 deliverable to the hosts that subscribe to its group. -/
def evtHost : State := evtReady.on fun w =>
  ((w.wr F.evtPriTargets 0 0 16).wr F.evtSubValid 0 3 1).wr F.evtSubGroups 0 3 1

theorem wit_EventOccurrence :
    reservedSource 7 = true ∧ reservedSource 255 = false ∧ State.reset.work.evtPending 255 = false ∧
    reservedSource 0 = false ∧ evtReady.work.evtPending 0 = true := by decide +kernel

theorem wit_EventDelivery : State.reset.work.evtDecision 0 = none ∧ evtReady.work.evtDecision 0 = some 0 ∧
    evtReady.work.holdoffUs (0 / 8) ≠ 0 ∧ evtHost.work.evtDecision 0 = some 4 := by decide +kernel

/-- Source 0 delivered. -/
def evtActive : State := evtReady.on fun w => w.evtDeliver 0 0

theorem wit_EndOfHandling : (evtActive.work.evtStack 0).any (fun e => e.1 = 0) = true ∧
    (evtActive.work.evtStack 0).any (fun e => e.1 = 1) = false ∧ 0 ∈ evtActive.evt.holdoff := by decide +kernel

theorem wit_PendWrite : 0 / 64 = 0 ∧ bitOf (0x1 : BitVec 64).toNat (0 % 64) = true ∧ evtReady.work.evtPending 0 = true ∧
    255 / 64 = 3 ∧ evtReady.work.evtPending 255 = false := by decide +kernel

theorem wit_SubscriptionWrites :
    (Requester.regWrite 5 2).wf = true ∧ bitOf (0 : BitVec 64).toNat 11 = false ∧ bitOf (0x800 : BitVec 64).toNat 11 = true ∧
    evtHost.work.subSlot 5 1 = some 0 ∧ evtHost.work.subSlot 0 0 = some 3 ∧
    (mk fun w => (List.range 8).foldl (fun w i => w.wr F.evtSubValid 0 i 1) w).work.subSlot 5 1 = none ∧
    Requester.recovery.wf = true := by decide +kernel

theorem wit_PlanEventCall : coreUp.work.coreRuns 0 0 = true ∧ (coreUp.work.callRecord 0 0 0x10004 28 4).isSome = true ∧
    coreUp.work.callRecord 0 0 2 28 4 = none := by decide +kernel

theorem wit_ManagementCoreFence : State.reset.work.mcServes 3 = true ∧ (State.reset.work.spareList kMc 0).isEmpty = false ∧
    (let s := State.reset.on fun w => { w with spr := { w.spr with mcLost := [0], spares := [(kMc * 4, [])] } }
     s.work.mcServes 0 = false ∧ s.work.mcServes 1 = true ∧ (s.work.spareList kMc 0).isEmpty = true) := by decide +kernel
/-! ## Time -/

/-- A master that has ticked, with a period of 8,000 ns. -/
def masterUp : State := mk fun w =>
  ((w.wr F.timeSrcMaster 0 0 1).wr F.timeTickPeriodPeriodNs 0 0 8000).setTime fun x => { x with ticked := true }

/-- The same device with the loads of step 8 done. -/
def masterReady : State := masterUp.on fun w => { w with boot := { w.boot with ready := true } }

/-- A follower on port 0 in an alignment state. -/
def follower (al : Nat) (f : TimeSt → TimeSt) : State := mk fun w => (w.wr F.timeSrcAlignState 0 0 al).setTime f

theorem wit_TickDuringStart : masterUp.work.ticking = true ∧ masterUp.boot.ready = false ∧ masterUp.work.isMaster = true ∧
    masterUp.time.ticked = true := by decide +kernel

theorem wit_TickByCase : State.reset.work.ticking = false ∧
    (let s := masterReady.on fun w => w.setTime fun x => { x with ticked := false }
     s.work.ticking = true ∧ s.work.isMaster = true ∧ s.time.ticked = false ∧ s.time.masterTook = false) ∧
    (let s := masterReady.on fun w => w.wr F.rstStateState 0 0 stRunning
     s.work.ticking = true ∧ s.boot.ready = true ∧ s.time.ticked = true ∧
       s.work.advanceTick.noteSilence.devState ≠ stStarting) ∧
    (let w := masterReady.work.advanceTick.noteSilence
     masterReady.work.ticking = true ∧ w.devState = stStarting ∧ w.twinTick.startEnds = true) ∧
    (let s := masterReady.on fun w => w.setTime fun x => { x with ptpWaiting := true }
     s.work.ticking = true ∧ s.work.advanceTick.noteSilence.devState = stStarting ∧
       s.work.advanceTick.noteSilence.twinTick.startEnds = false) := by decide +kernel

/-- A device in SHARED whose count stands at n. -/
def sharedLeft (n : Nat) : State := mk fun w => (w.wr F.rstStateState 0 0 stShared).wr F.rstStateSharedLeft 0 0 n

theorem wit_SharedCount : (∀ n ∈ [1, 2, 65535], (sharedLeft n).work.devState = stShared ∧
    (sharedLeft n).work.dv F.rstStateSharedLeft = n) ∧ State.reset.work.devState ≠ stShared ∧
    (sharedLeft 2).work.dv F.rstStateSharedLeft ≠ 1 := by decide +kernel

theorem wit_DelayAnswers :
    (let s := follower alLocked fun x => { x with t3 := some 9 }
     s.work.isMaster = false ∧ s.work.align = alLocked ∧ 0 = s.work.timePort ∧ s.time.t3 = some 9) ∧
    State.reset.time.t3 ≠ some 9 ∧ masterUp.work.isMaster = true ∧ 1 ≠ State.reset.work.timePort ∧
    (let s := follower alAcquiring fun x => { x with t3 := some 9 }
     s.work.isMaster = false ∧ 0 = s.work.timePort ∧ s.time.t3 = some 9 ∧ s.work.align = alAcquiring) ∧
    ∀ b ∈ [true, false], (let s := follower alHoldover fun x => { x with t3 := some 9, firstExchange := b }
     s.work.isMaster = false ∧ s.time.t3 = some 9 ∧ s.work.align = alHoldover ∧ s.time.firstExchange = b) := by decide +kernel

theorem wit_Announcements :
    (let s := masterUp.on fun w => w.setTime fun x => { x with listening := true, ticked := false }
     s.work.isMaster = true ∧ s.time.listening = true ∧ s.time.ticked = false) ∧
    masterUp.time.listening = false ∧ masterUp.time.ticked = true ∧
    (follower alDiverged id).work.align = alDiverged ∧
    ((follower alFree id).work.isMaster = false ∧ 1 ≠ (follower alFree id).work.dv F.timeSrcParentPort ∧
      1 ≠ (follower alFree id).work.dv F.timeSrcAltPort) ∧
    (let s := (follower alFree id).on fun w => w.wr F.timeSrcAltPort 0 0 23
     23 ≠ s.work.dv F.timeSrcParentPort ∧ 23 = s.work.dv F.timeSrcAltPort ∧ s.work.rdB F.timeSrcOnAlt 0 0 = false ∧
       s.work.align ≠ alMismatch) ∧
    (∀ s ∈ [(follower alMismatch id).on fun w => w.wr F.timeSrcAltPort 0 0 23,
        (follower alLocked id).on fun w => (w.wr F.timeSrcAltPort 0 0 23).wr F.timeSrcOnAlt 0 0 1],
      s.work.isMaster = false ∧ s.work.align ≠ alDiverged ∧ 23 = s.work.dv F.timeSrcAltPort ∧
        (s.work.rdB F.timeSrcOnAlt 0 0 = true ∨ s.work.align = alMismatch)) ∧
    (∀ al ∈ [alFree, alAcquiring, alLocked, alHoldover, alMismatch], ∀ b ∈ [true, false],
      (let s := follower al fun x => { x with ticked := b }
       s.work.isMaster = false ∧ s.work.align = al ∧ 0 = s.work.dv F.timeSrcParentPort ∧ s.time.ticked = b ∧
         s.work.period ≠ 1)) := by decide +kernel

theorem wit_DelayRequests :
    masterUp.work.isMaster = true ∧ State.reset.time.heard = false ∧ alMismatch ≤ (follower alMismatch id).work.align ∧
    ∀ al ∈ [alAcquiring, alLocked, alHoldover], (let s := follower al fun x => { x with heard := true, sync := some (4, 9) }
      s.work.isMaster = false ∧ s.time.heard = true ∧ s.work.align ≠ alFree ∧ s.work.align < alMismatch ∧
        s.time.sync = some (4, 9)) := by decide +kernel

theorem wit_Silence :
    (∀ t ∈ [false, true], (let s := follower alLocked fun x => { x with ticked := t, silent := 3 }
     s.work.isMaster = false ∧ s.work.rdB F.timeSrcOnAlt 0 0 = false ∧ s.work.dv F.timeSrcAltPort < 24 ∧
       s.work.align = alLocked ∧ 3 ≤ s.time.silent ∧ s.time.ticked = t ∧ s.time.silent < 8)) ∧
    (let s := follower alLocked fun x => { x with ticked := true, silent := 8 }
     s.work.isMaster = false ∧ s.work.align = alLocked ∧ 8 ≤ s.time.silent) ∧
    (let s := follower alHoldover fun x => { x with ticked := true, silent := 2 }
     s.work.align ≠ alLocked ∧ s.time.ticked = true ∧ s.time.silent < 3) ∧
    (let s := mk fun w => (w.wr F.timeSrcAltPort 0 0 31).wr F.timeSrcOnAlt 0 0 1
     24 ≤ s.work.dv F.timeSrcAltPort ∧ s.work.rdB F.timeSrcOnAlt 0 0 = true) := by decide +kernel

theorem wit_MasterTakesTickZero : ∀ b ∈ [true, false],
    (let s := masterUp.on fun w => (w.wrB F.timeSrcMode 0 0 b).setTime fun x => { x with listening := true, ptpWaiting := true }
     s.work.isMaster = true ∧ s.time.listening = true ∧ s.work.rdB F.timeSrcMode 0 0 = b ∧ s.time.ptpWaiting = true) ∧
    masterUp.time.listening = false ∧ masterUp.time.ptpWaiting = false ∧ State.reset.work.isMaster = false := by decide +kernel

theorem wit_TickPeriod :
    Requester.recovery.wf = true ∧ State.reset.time.ticked = false ∧ State.reset.time.sealed = false ∧
    masterUp.time.ticked = true ∧ ({ State.reset with time := { State.reset.time with sealed := true } } : State).time.sealed = true ∧
    fieldOf (7999 : BitVec 64).toNat 0 25 < 8000 ∧
    16777216 < fieldOf (16777217 : BitVec 64).toNat 0 25 ∧
    (∀ p ∈ [8000, 16777216], 8000 ≤ fieldOf (BitVec.ofNat 64 p).toNat 0 25 ∧
      fieldOf (BitVec.ofNat 64 p).toNat 0 25 ≤ 16777216) := by decide +kernel

/-- R32's example: of a period of 33,333 ns the commit phase ends at 667 ns and the guard starts at 32,333 ns. -/
theorem test_phases_of_33333 : commitEnd 33333 = 667 ∧ guardStart 33333 = 32333 := by decide +kernel
/-! ## Reset -/

theorem wit_ResetSources :
    (State.reset.on fun w => { w with modl := { w.modl with hotSwap := false } }).work.powered = false ∧
    State.reset.work.powered = true ∧ Requester.recovery.wf = true ∧
    (let v : BitVec 64 := 0x1A500
     fieldOf v.toNat 0 3 = 0 ∧ bitOf v.toNat 16 = true ∧ fieldOf v.toNat 8 8 = 0xA5) ∧
    State.reset.work.mcServes 3 = true ∧ State.reset.work.rdB F.rstStateLocked 0 0 = false ∧
    (mk fun w => w.wr F.rstStateLocked 0 0 1).work.rdB F.rstStateLocked 0 0 = true ∧
    Clk.timeBase.wf = true ∧ (mk fun w => w.wr F.klPortStatusState 0 23 klUp).work.klState 23 ≠ klDown := by decide +kernel

theorem wit_ResetHolds : State.reset.sec.flashOp = none ∧ State.reset.sec.enrol = none ∧ Memory.wf State.reset.mem = true ∧
    keptKey true (F.timeSrcOffsetNs.key 0 0) = false ∧ F.timeSrcOffsetNs.key 0 0 ≠ F.rstCauseCause.key 0 0 ∧
    F.timeSrcOffsetNs.key 0 0 ≠ F.rstCauseInStart.key 0 0 ∧ State.reset.work.devState = stStarting ∧
    (inState stRunning).work.devState ≠ stStarting := by decide +kernel

theorem wit_DeviceStateRequests :
    (∀ n ∈ [stShared, stRunning, stDegraded, stRest], (inState n).work.devState = n) ∧
    (inState stRest).boot.detached = false ∧ ∀ n ∈ [1, 2, 3, 4], State.reset.work.reqAdmitted n = false := by decide +kernel

theorem wit_WakeBySource :
    (let s := (inState stRest).on fun w => (w.wr (F.evtWakeMaskEn 31) 0 0 1).wr (F.evtWakeMaskSource 31) 0 0 255
     s.work.devState = stRest ∧ s.boot.detached = false ∧ s.work.dv (F.evtWakeMaskEn 31) = 1 ∧
       s.work.dv (F.evtWakeMaskSource 31) = 255) ∧
    State.reset.work.devState ≠ stRest ∧
    (∀ k, k < 32 → (inState stRest).work.dv (F.evtWakeMaskEn k) ≠ 1) ∧
    ((inState stRest).on fun w => { w with boot := { w.boot with detached := true } }).boot.detached = true := by
  decide +kernel

/-- A request of RST_UNIT_REQ: kind, die, unit. -/
def unitReq (k d n : Nat) : BitVec 64 := BitVec.ofNat 64 (k + d * 2 ^ 4 + n * 2 ^ 6 + 2 ^ 16)

theorem wit_UnitResets :
    bitOf (0 : BitVec 64).toNat 16 = false ∧ bitOf (unitReq 1 3 23).toNat 16 = true ∧
    1 < fieldOf (unitReq 2 0 0).toNat 0 4 ∧ 96 ≤ fieldOf (unitReq 0 0 96).toNat 6 7 ∧
    fieldOf (unitReq 0 0 96).toNat 0 4 = 0 ∧ 24 ≤ fieldOf (unitReq 1 0 24).toNat 6 7 ∧
    fieldOf (unitReq 1 3 23).toNat 0 4 = 1 ∧ fieldOf (unitReq 1 3 23).toNat 6 7 < 24 ∧
    fieldOf (unitReq 0 3 95).toNat 6 7 < 96 ∧ State.reset.work.unitIdle 3 (96 + 23) = true ∧
    State.reset.work.unitIdle 3 95 = true ∧
    (let s := mk fun w => { w with boot := { w.boot with units := [3 * 120 + 95] } }
     s.work.unitIdle 3 95 = false ∧ s.boot.units.contains (3 * 120 + 95) = true) ∧
    State.reset.boot.units.contains (3 * 120 + 95) = false := by decide +kernel

theorem wit_WatchdogKick : (State.reset.work.writeFields ⟨.rstWdog, 0, 0⟩ 0 0x10000).1 ≠ sOk ∧
    (State.reset.work.writeFields ⟨.rstWdog, 0, 0⟩ 0 (0x1000A : BitVec 64).toNat).1 = sOk ∧
    bitOf (0x1000A : BitVec 64).toNat 16 = true ∧ bitOf (0 : BitVec 64).toNat 16 = false := by decide +kernel
/-! ## Streams -/

/-- A request of OP with its other fields. -/
def ask (op : Nat) (fs : List (Nat × Nat)) : Rec := record ((0, op) :: fs)

theorem wit_StreamRequestsTurnedAway :
    (coreUp.on fun w => w.setCore 0 0 { w.core 0 0 with tapout := 64 }).work.tapRoom (.core 0 0) = false ∧
    recF (ask 0x61 [(8, 1)]) 7 0 = 0x61 ∧ fw.wf = true ∧ State.reset.work.tapRoom fw = true ∧
    strmReserved 0x61 = some [(15, 8), (95, 84), (159, 148), (223, 212), (511, 233)] ∧
    recZero (ask 0x61 [(8, 1)]) [(15, 8), (95, 84), (159, 148), (223, 212), (511, 233)] = false := by decide +kernel

/-- A descriptor of 64 bytes of HBM, laid at 0x200000. -/
def descAt : State := mk fun w => w.write 0x200000 (toBytes 64 (tensor 4 0x200000 64 64).toNat)

/-- DESC_INSTALL of it as handle 65,534, the last. -/
def install : Rec := ask 0x62 [(96, 65534), (128, 0x200000)]

theorem wit_DescriptorSlots :
    StreamRequest 0x62 fw install descAt (descAt.work.tapIssue fw) ∧
    StreamRequest 0x63 fw (ask 0x63 [(96, 65534)]) descAt (descAt.work.tapIssue fw) ∧
    StreamRequest 0x63 fw (ask 0x63 [(96, 65535)]) descAt (descAt.work.tapIssue fw) ∧
    (descAt.work.handleOk 16 65534 = true ∧ descAt.work.handleOk 16 65535 = false ∧ (descAt.work.slot 16 65534).st = .empty ∧
      descAt.work.readRec (resolveAddr fw (recF install 179 128)) = some (tensor 4 0x200000 64 64) ∧
      descAt.work.validate (descAt.work.planOf fw) (tensor 4 0x200000 64 64) = [] ∧
      ((withSlots [(65534, 0)] descAt).work.slot 16 65534).st = .valid) :=
  ⟨asks_request (by decide +kernel), asks_request (by decide +kernel), asks_request (by decide +kernel), by decide +kernel⟩

theorem wit_ReleasedSlots : (let s := mk fun w => (w.setSlot 0 1 ⟨.releasing, 0⟩).setSlot 0 2 ⟨.valid, 0⟩
    smWf Slot.atReset s.slots = true ∧ (s.work.slot 0 1).st = .releasing ∧ (s.work.slot 0 2).st ≠ .releasing) := by decide +kernel

/-- XFER of 256 bytes. -/
def xfer256 : Rec := ask 0x61 [(96, 0x200000), (160, 0x300000), (224, 255)]
/-- XFER to register space. -/
def xferReg : Rec := ask 0x61 [(96, 0x200000), (160, 0x30000000000), (224, 7)]
/-- Core (0, 0) with a transfer outstanding. -/
def tapOut : State := coreUp.on fun w =>
  w.setCore 0 0 { w.core 0 0 with taps := [⟨w.strmFlight (.core 0 0) ⟨0x61, 0, 0⟩, 0x200000, 0x300000, 256, 1⟩] }

theorem wit_TapPathTransfers :
    StreamRequest 0x61 fw xfer256 State.reset (State.reset.work.tapIssue fw) ∧
    StreamRequest 0x61 (.core 0 0) xfer256 coreUp (coreUp.work.tapIssue (.core 0 0)) ∧
    StreamRequest 0x61 fw xferReg State.reset (State.reset.work.tapIssue fw) ∧
    (recF xfer256 232 224 + 1 ≤ 256 ∧ State.reset.work.xferFails 0x200000 0x300000 256 = [] ∧
      (coreUp.work.tapIssue (.core 0 0)).xferFails 0x200000 0x300000 256 = [] ∧
      State.reset.work.xferFails 0x200000 0x30000000000 8 = [sRange]) :=
  ⟨asks_request (by decide +kernel), asks_request (by decide +kernel), asks_request (by decide +kernel), by decide +kernel⟩

theorem wit_TapCompletion : (tapOut.work.core 0 0).taps[0]?.isSome = true ∧ (tapOut.work.core 0 0).taps[1]? = none := by
  decide +kernel

/-- A description whose program is one END, laid at 0x200000, with barrier 0 armed. -/
def streamAt : State := mk fun w => (w.wr F.strmBarCount 0 0 1).write 0x200000 (toBytes 576 (0x0B * 2 ^ 2560))

/-- The same with context 0 of die 0 in a state. -/
def withCtx (st : CtxState) : State := mk fun w => w.setCtx 0 0 { w.ctx 0 0 with st := st }

theorem wit_StreamStartStopResume :
    StreamRequest 0x64 fw (ask 0x64 [(96, 0x200000)]) streamAt (streamAt.work.tapIssue fw) ∧
    StreamRequest 0x64 fw (ask 0x64 [(96, 0x200001)]) streamAt (streamAt.work.tapIssue fw) ∧
    StreamRequest 0x65 fw (ask 0x65 []) (withCtx .running) ((withCtx .running).work.tapIssue fw) ∧
    StreamRequest 0x65 fw (ask 0x65 [(96, 255)]) (withCtx .running) ((withCtx .running).work.tapIssue fw) ∧
    StreamRequest 0x69 fw (ask 0x69 []) (withCtx .halted) ((withCtx .halted).work.tapIssue fw) ∧
    StreamRequest 0x69 (.core 0 0) (ask 0x69 []) coreUp (coreUp.work.tapIssue (.core 0 0)) ∧
    (streamAt.work.read 0x200000 576 = some (toBytes 576 (0x0B * 2 ^ 2560)) ∧
      streamAt.work.descriptionFails 16 (toBytes 576 (0x0B * 2 ^ 2560)) = [] ∧ streamAt.work.freeCtx 0 = some 0 ∧
      ((withCtx .running).work.ctx 0 0).st ≠ .free ∧ ((withCtx .running).work.ctx 0 255).st = .free ∧
      ((withCtx .halted).work.ctx 0 0).st = .halted) :=
  ⟨asks_request (by decide +kernel), asks_request (by decide +kernel), asks_request (by decide +kernel),
   asks_request (by decide +kernel), asks_request (by decide +kernel), asks_request (by decide +kernel), by decide +kernel⟩

/-- Barrier 1,023 with a count, and some that have arrived. -/
def barState (n : Nat) (ids : List Ident) : State := mk fun w => (w.wr F.strmBarCount 0 1023 n).setBar 1023 ⟨ids, []⟩

theorem wit_Barriers :
    StreamRequest 0x67 fw (ask 0x67 [(96, 1023), (128, 4095)]) (barState 0 []) ((barState 0 []).work.tapIssue fw) ∧
    StreamRequest 0x66 fw (ask 0x66 [(96, 1023)]) (barState 1 []) ((barState 1 []).work.tapIssue fw) ∧
    ((barState 0 []).work.barCount 1023 = 0 ∧ ((barState 0 []).work.bar 1023).arrived = [] ∧
      1 ≤ recF (ask 0x67 [(96, 1023), (128, 4095)]) 139 128 ∧
      ((barState 2 [.mgmt 0]).work.bar 1023).arrived.contains (identOf fw) = true ∧
      ((barState 2 []).work.bar 1023).arrived.length + 1 < (barState 2 []).work.barCount 1023 ∧
      (barState 1 []).work.barCount 1023 ≤ ((barState 1 []).work.bar 1023).arrived.length + 1) :=
  ⟨asks_request (by decide +kernel), asks_request (by decide +kernel), by decide +kernel⟩

/-- A chain record of three stages. -/
def chainBytes (n : Nat) : List Byte := toBytes 256 (fields ([(0, n), (8, 1), (64, 64), (128, 64)] ++
  (List.range n).map (fun k => (256 + 192 * k, if k = 0 then 0 else if k = n - 1 then 2 else 1))))

/-- Core (0, 0) with such a record in its local memory and barrier 0 armed. -/
def chainAt' (n : Nat) : State := coreUp.on fun w => (w.wr F.strmBarCount 0 0 1).write (gcWindow 0 0 + 0x10000) (chainBytes n)

/-- A chain in its stage k. -/
def onChain (n k : Nat) : Chain := ⟨chainBytes n, 0, 0, k, [], false, false, true, none⟩

theorem wit_ChainProgress :
    StreamRequest 0x68 (.core 0 0) (ask 0x68 [(96, 0x10000)]) (chainAt' 3) ((chainAt' 3).work.tapIssue (.core 0 0)) ∧
    (let w := (chainAt' 3).work.tapIssue (.core 0 0)
     w.read (resolveAddr (.core 0 0) 0x10000) 256 = some (chainBytes 3) ∧
       w.chainFails (w.planOf (.core 0 0)) 0 0 (chainBytes 3) = [] ∧ w.chainAt 0 0 = none ∧
       (w.setChain 0 0 (some (onChain 3 1))).chainAt 0 0 = some (onChain 3 1) ∧
       (w.core 0 0).ended.getD sOk = statusCode .ok ∧ (onChain 3 1).called = true ∧
       chainField (onChain 3 1).rec_ 0 4 ≤ (onChain 3 1).stage + 2 ∧
       (onChain 4 1).stage + 2 < chainField (onChain 4 1).rec_ 0 4 ∧
       ({ w.core 0 0 with ended := some sCheck } : Core).ended.getD sOk = statusCode .checkFail ∧
       statusCode .checkFail = sCheck ∧ statusCode .descRange ≠ sOk ∧ statusCode .descRange ≠ sCheck) :=
  ⟨asks_request (by decide +kernel), by decide +kernel⟩

/-- A running context whose instruction at the program counter is a given word. -/
def atOp (word : Nat) (x : Ctx) : Ctx := { x with st := .running, pc := 0, desc := toBytes 576 (word * 2 ^ 2560) }

/-- The block with it as context 0 of die 0. -/
def running (x : Ctx) (s : State) : State := s.on fun w => w.setCtx 0 0 x

theorem runs (op word : Nat) (x : Ctx) (s : State) (h : (progAt (atOp word x).desc 0).op = op)
    (hx : (running (atOp word x) s).work.ctx 0 0 = atOp word x) :
    RunsOp op 0 0 (running (atOp word x) s) (atOp word x) (progAt (atOp word x).desc 0) :=
  ⟨by decide, by decide, hx.symm, rfl, rfl, h⟩

theorem wit_TrellisInstructions : ∀ op ∈ [1, 2, 3, 4, 5, 6, 7, 8, 9],
    RunsOp op 0 0 (running (atOp (op + 2 ^ 32) Ctx.atReset) State.reset) (atOp (op + 2 ^ 32) Ctx.atReset)
      (progAt (atOp (op + 2 ^ 32) Ctx.atReset).desc 0) := by
  intro op h
  simp only [List.mem_cons, List.not_mem_nil, or_false] at h
  rcases h with h | h | h | h | h | h | h | h | h <;> subst h <;> exact runs _ _ _ _ (by decide +kernel) (by decide +kernel)

theorem wit_TrellisClauses :
    (let t := TOp.ofNat (2 + 2 ^ 32); t.reg = false ∧ 0 < (t.imm : Int) ∧ (t.imm : Int) < 2 ^ 32) ∧
    (let t := TOp.ofNat 2; t.reg = false ∧ (t.imm : Int) ≤ 0) ∧
    (let t := TOp.ofNat (2 + 2 ^ 17)
     let x : Ctx := { Ctx.atReset with a := [2 ^ 32, 0, 0, 0, 0, 0, 0, 0] }
     t.reg = true ∧ 2 ^ 32 ≤ x.areg t.rs1) ∧
    ((getAt 0 ({ Ctx.atReset with n := [2, 0, 0, 0, 0, 0] } : Ctx).l 0 + 1) % 2 ^ 32 < 2 ∧
      getAt 0 Ctx.atReset.n 0 ≤ (getAt 0 Ctx.atReset.l 0 + 1) % 2 ^ 32) ∧
    (let t := TOp.ofNat (9 + 5 * 2 ^ 32)
     (t.imm : Int) ≤ (Ctx.atReset.setA 0 5).areg t.rd ∧ (Ctx.atReset.setA 0 (-1)).areg t.rd < 0 ∧
       0 ≤ (Ctx.atReset.setA 0 4).areg t.rd ∧ (Ctx.atReset.setA 0 4).areg t.rd < t.imm) ∧
    Ctx.atReset.a.length = 8 := by decide +kernel

/-- Descriptors 0 and 1: 64 bytes of HBM each; 2: 64 bytes of page 0, which is unmapped; 3: 64 bytes of the LPDDR5X tier;
4: a cellar block. -/
def blocks : State := withSlots [(0, tensor 4 0x200000 64 64), (1, tensor 4 0x200040 64 64), (2, tensor 4 0 64 64),
  (3, tensor 4 0x10000000000 64 64), (4, tensor 4 cellarBase 64 64)] State.reset

/-- A description with bindings 0 and 1 of 64 elements on two handles, the first instruction an EMIT of a class, and
template 0 a record. -/
def emitDesc (fast q h0 h1 : Nat) (r : Rec) : List Byte :=
  toBytes 576 (fields [(5, fast), (512, h0), (560, 63), (768, h1), (816, 63), (2560, 0x0A + q * 2 ^ 17 +
    (if q = 0 then 2 ^ 21 else 2 ^ 32)), (1536, r.toNat)])

/-- The context that runs it in firmware's plan. -/
def emitCtx (fast q h0 h1 : Nat) (r : Rec) : Ctx :=
  { Ctx.atReset with st := .running, plan := 16, desc := emitDesc fast q h0 h1 r }

/-- FILL of 1 UINT8 element through handle 4. -/
def fill1 : Rec := record [(0, 8), (8, 4), (48, 4), (96, 1)]
/-- INVALIDATE of the first entry of match bank 0. -/
def invalidate1 : Rec := record [(0, 0x24), (17, 1), (96, 1)]

theorem runs_emit (fast q h0 h1 : Nat) (r : Rec) (h : (progAt (emitCtx fast q h0 h1 r).desc 0).op = 0x0A)
    (hx : (running (emitCtx fast q h0 h1 r) blocks).work.ctx 0 0 = emitCtx fast q h0 h1 r) :
    RunsOp 0x0A 0 0 (running (emitCtx fast q h0 h1 r) blocks) (emitCtx fast q h0 h1 r)
      (progAt (emitCtx fast q h0 h1 r).desc 0) :=
  ⟨by decide, by decide, hx.symm, rfl, rfl, h⟩

/-- What the pages of the first EMIT's blocks are found to be. -/
def found (fast h0 h1 : Nat) : Option PageFind :=
  let x := emitCtx fast 0 h0 h1 0
  let w := (running x blocks).work
  let t := progAt x.desc 0
  (w.transferBlocks x t.src t.dst x.a).map (fun b => w.findPages (fast ≠ 0) ((b.1.2.1 ++ b.2.2.1).map (· / 8)))

theorem wit_EmitRuns : ∀ q ∈ [0, 1, 2], RunsOp 0x0A 0 0 (running (emitCtx 0 q 0 1 0) blocks) (emitCtx 0 q 0 1 0)
    (progAt (emitCtx 0 q 0 1 0).desc 0) := by
  intro q h
  simp only [List.mem_cons, List.not_mem_nil, or_false] at h
  rcases h with h | h | h <;> subst h <;> exact runs_emit _ _ _ _ _ (by decide +kernel) (by decide +kernel)

theorem wit_EmitClauses :
    (let x := emitCtx 0 0 0 1 0
     let t := progAt x.desc 0
     t.q = 0 ∧ x.holds t = true ∧ x.emits.length < 16 ∧ (StrmHdr.ofBytes x.desc).fast = false) ∧
    (StrmHdr.ofBytes (emitCtx 1 0 0 3 0).desc).fast = true ∧
    Ctx.atReset.holds (TOp.ofNat (0x0A + 2 * 2 ^ 23)) = false ∧
    found 0 0 1 = some .resident ∧ found 0 0 2 = some (.unmapped 0) ∧ found 1 0 3 = some (.tier1 0x10000000000) ∧
    (let x := emitCtx 0 1 0 1 fill1
     let t := progAt x.desc 0
     t.q = 1 ∧ blocks.work.celHeld 0 < 4096 ∧
       (match blocks.work.celCheck 16 (CelCmd.ofRec (templateRec x.desc t.src (getAt 0 x.a t.rs1) t.imm)) with
        | .go _ => true
        | .fails _ => false) = true) ∧
    (let x := emitCtx 0 2 0 1 invalidate1
     let t := progAt x.desc 0
     let m := MatCmd.ofRec (templateRec x.desc t.src (getAt 0 x.a t.rs1) t.imm)
     t.q = 2 ∧ blocks.work.matHeld 0 < 4096 ∧
       blocks.work.matCheck 16 m (blocks.work.desc 16 m.src) (blocks.work.desc 16 m.dst) = []) := by decide +kernel

/-- A rated context with a transfer of 1,000 bytes of which n have been granted. -/
def granting (n rate : Nat) : State := blocks.on fun w => w.setCtx 0 0 { emitCtx 0 0 0 1 0 with
  desc := toBytes 576 ((0 : Nat) + rate * 2 ^ 64), emits := [.transfer 0 1 [0, 0, 0, 0, 0, 0, 0, 0] 1000 n] }

theorem wit_StreamProgress :
    RunsOp 0x0B 0 0 (running (atOp 0x0B Ctx.atReset) State.reset) (atOp 0x0B Ctx.atReset)
      (progAt (atOp 0x0B Ctx.atReset).desc 0) ∧
    RunsOp 0x0B 0 0 (running (atOp 0x0B { Ctx.atReset with emits := [.command false 0] }) State.reset)
      (atOp 0x0B { Ctx.atReset with emits := [.command false 0] })
      (progAt (atOp 0x0B { Ctx.atReset with emits := [.command false 0] }).desc 0) ∧
    (readyEmit [.command true 0] 0 false = some 0 ∧
      readyEmit ((granting 1000 0).work.ctx 0 0).emits 0 false = some 0 ∧
      readyEmit (State.reset.work.ctx 0 0).emits 0 false = none ∧ (State.reset.work.atNs 5).grantTo 0 = none ∧
      ((granting 600 7).work.atNs 5).grantTo 0 = some 0 ∧
      openEmit ((granting 600 7).work.ctx 0 0).emits 0 =
        some (0, .transfer 0 1 [0, 0, 0, 0, 0, 0, 0, 0] 1000 600, 400) ∧
      (StrmHdr.ofBytes ((granting 600 7).work.ctx 0 0).desc).rate = 7) :=
  ⟨runs _ _ _ _ (by decide +kernel) (by decide +kernel), runs _ _ _ _ (by decide +kernel) (by decide +kernel),
   by decide +kernel⟩

/-- A stream halted on a page of the LPDDR5X tier, while HBM frame 0 is free. -/
def halted : State := blocks.on fun w => w.setCtx 0 255 { emitCtx 1 0 0 3 0 with st := .halted }

theorem wit_Racking :
    (halted.work.haltedPages (halted.work.ctx 0 255)).contains 524288 = true ∧
    (halted.work.page 524288).valid = true ∧ (halted.work.page 524288).lpx = true ∧
    (halted.work.page 524288).racking = false ∧ halted.work.freeFrames false = [0] ∧
    (let s := mk fun w => w.rackInto 524288 0
     s.racks.find? (fun r => r.1 = 524288) = some (524288, 0) ∧ s.racks.find? (fun r => r.1 = 1) = none) ∧
    MemInv halted := by
  refine ⟨by decide +kernel, by decide +kernel, by decide +kernel, by decide +kernel, by decide +kernel, by decide +kernel, ?_⟩
  unfold MemInv; decide +kernel
/-! ## The module -/

/-- A module state changed. -/
def mods (f : ModSt → ModSt) : State := mk fun w => w.setMod f

theorem wit_Sideband :
    (mods fun m => { m with rails := [1] }).work.sideband = false ∧ State.reset.work.sideband = true ∧
    State.reset.modl.page = 0 ∧ (mods fun m => { m with page := 10 }).modl.page ≠ 0 ∧
    State.reset.work.alerting = false ∧ (mods fun m => { m with statIn := 0x10 }).work.alerting = true := by decide +kernel

theorem wit_SidebandWrites :
    (inState stRunning).work.startStopped = false ∧
    (mk fun w => w.wr F.bootStatusResult 0 0 1).work.startStopped = true ∧
    (State.reset.work.resolve objReg (RegInst.wordNo ⟨.pwrCap, 0, 0⟩ 0) 0
      (State.reset.work.storeHdr .recovery (RegInst.wordNo ⟨.pwrCap, 0, 0⟩ 0))).isSome = true := by decide +kernel

theorem wit_Supplies :
    (mods fun m => { m with hotSwap := false }).modl.hotSwap = false ∧
    (mods fun m => { m with hotSwap := false }).modl.tripped = false ∧
    (let m := mods fun m => { m with hotSwap := false, tripped := true, pwrEn := false }
     m.modl.hotSwap = false ∧ m.modl.pwrEn = false) ∧
    State.reset.modl.hotSwap = true ∧ (mods fun m => { m with tripped := true }).modl.tripped = true ∧
    (mods fun m => { m with tripped := true }).modl.pwrEn = true ∧
    State.reset.modl.tripped = false ∧ State.reset.work.powered = true ∧ State.reset.modl.rails.contains 5 = true ∧
    State.reset.modl.rails.contains 10 = true ∧
    (mods fun m => { m with rails := [9, 10] }).modl.rails.contains 1 = false ∧
    (mods fun m => { m with pwrEn := false }).modl.pwrEn = false ∧
    State.reset.sec.flashOp = none ∧ State.reset.sec.enrol = none := by decide +kernel

theorem wit_BrownOut :
    State.reset.work.powered = true ∧ State.reset.modl.borSeen = false ∧
    (mods fun m => { m with borHeld := true }).work.powered = false ∧
    (mods fun m => { m with borHeld := true }).modl.borHeld = true ∧ State.reset.modl.borHeld = false ∧
    State.reset.modl.rails.contains (1 + 3) = true := by decide +kernel

theorem wit_NvwInhibit :
    0 < (mk fun w => w.wr F.pwrNvwThreshVinMv 0 0 40000).work.dv F.pwrNvwThreshVinMv ∧ State.reset.modl.pwrEn = true ∧
    State.reset.work.rdB F.pwrStatusNvw 0 0 = true ∧
    (mk fun w => w.wr F.pwrStatusNvw 0 0 0).work.rdB F.pwrStatusNvw 0 0 = false := by decide +kernel

theorem wit_Samples :
    State.reset.work.powered = true ∧ 4 ≤ State.reset.modl.gate ∧ State.reset.modl.gate ≤ 16 ∧
    (mk fun w => w.wr F.fldPortEnable 0 7 1).work.rd F.fldPortEnable 0 7 = 1 ∧
    State.reset.work.rd F.fldPortEnable 0 7 ≠ 1 := by decide +kernel
/-! ## Identity, flash and attestation -/

/-- No write inhibit. -/
def lifted : State := mk fun w => w.wr F.pwrStatusNvw 0 0 0

theorem wit_Enrolment :
    Requester.recovery.wf = true ∧ fieldOf (0x5A01 : BitVec 64).toNat 0 1 = 1 ∧ fieldOf (0x5A01 : BitVec 64).toNat 8 8 = 0x5A ∧
    fieldOf (0x5B01 : BitVec 64).toNat 8 8 ≠ 0x5A ∧
    State.reset.work.inhibited = true ∧ lifted.work.inhibited = false ∧
    State.reset.work.rdB F.secStatusOwnEn 0 0 = false ∧
    (let s := lifted.on fun w => (w.wr F.secStatusOwnEn 0 0 1).wr F.secStatusIdOk 0 0 1
     s.work.inhibited = false ∧ s.work.rdB F.secStatusOwnEn 0 0 = true ∧ s.work.rdB F.secStatusIdOk 0 0 = true ∧
       s.sec.flashOp = none ∧ s.sec.enrol = none) ∧
    (let s := mk fun w => { w with sec := { w.sec with enrol := some (List.replicate 64 7) } }
     s.sec.enrol = some (List.replicate 64 7) ∧ (List.replicate 64 (7 : Byte)).length = 64) := by decide +kernel

/-- A word of SEC_FLASH_CTL. -/
def flashWord (op buf addr len dev : Nat) : BitVec 192 := BitVec.ofNat 192 (fields [(0, op), (3, buf), (8, 0x5A), (32, addr),
  (64, len), (96, dev)])

theorem wit_FlashIssue :
    Requester.recovery.wf = true ∧
    (∀ x ∈ [(1, (flashWord 1 1 0x100000 0x10000 0).toNat), (2, (flashWord 2 1 0xFFFFF00 256 0).toNat),
        (2, (flashWord 2 0 0x100000 256 0x200000).toNat), (3, (flashWord 3 1 0 0 0).toNat), (4, (flashWord 4 1 0 0 0).toNat)],
      fieldOf x.2 0 3 = x.1 ∧ lifted.work.flashFails x.2 false = []) ∧
    (State.reset.work.read 0x200000 256).isSome = true ∧ State.reset.work.read 0 256 = none ∧
    lifted.work.flashFails (flashWord 2 0 0x100000 256 0).toNat true = [sRange] ∧
    fieldOf (flashWord 2 0 0x100000 256 0).toNat 0 3 ≠ 1 := by decide +kernel

theorem wit_FlashEnd : State.reset.sec.flashOp = none ∧
    ∀ o ∈ [1, 2, 3, 4], (mk fun w => { w with sec := { w.sec with flashOp := some ⟨o, 0x100000, 256, toBytes 256 7⟩ } }).sec.flashOp =
      some ⟨o, 0x100000, 256, toBytes 256 7⟩ := by decide +kernel

/-- A device with its identity and n attestation requests that wait. -/
def attests (id n : Nat) : State := mk fun w => { w.wr F.secStatusIdOk 0 0 id with
  sec := { w.sec with reports := List.replicate n (hdr 3 2 32 0 0 0, toBytes 32 9) } }

theorem wit_Attestation :
    (∀ x ∈ [(0, 0), (1, 0), (1, 15), (1, 16)], OrderHere 0x02 (hdr 3 2 32 0 0 0) (attests x.1 x.2)) ∧
    (Instr.attest (hdr 3 2 32 0 0 0) (toBytes 32 9)).wf = true ∧ (Instr.attest (hdr 3 2 31 0 0 0) (toBytes 31 9)).wf = true ∧
    ((attests 0 0).work.rdB F.secStatusIdOk 0 0 = false ∧ (attests 1 15).work.rdB F.secStatusIdOk 0 0 = true ∧
      (attests 1 15).sec.reports.length < 16 ∧ 16 ≤ (attests 1 16).sec.reports.length ∧ State.reset.sec.reports = [] ∧
      (attests 1 1).sec.reports = [(hdr 3 2 32 0 0 0, toBytes 32 9)]) := by
  unfold OrderHere TakenHere; decide +kernel

/-- The clause for a peer that passes asks in addition for a certificate under Oxene's root, whose value the spec does not
print (log entry 6): a peer that holds one meets it. -/
theorem wit_LinkUp :
    (Instr.linkHello 23 (hdr 3 0x30 8 0 0 0) (toBytes 8 2)).wf = true ∧ leAt (toBytes 8 2) 0 1 = 2 ∧ leAt (toBytes 8 1) 0 1 = 1 ∧
    (portIn klAttesting).work.klState 23 = klAttesting ∧ (portIn klAttesting).work.peerPasses 23 (toBytes 8 2) = false ∧
    (portIn klAttesting).work.rdB F.secStatusIdOk 0 0 = true ∧ (portIn klAttestFail).work.klState 23 = klAttestFail ∧
    (portIn klUp).work.klState 23 ≠ klAttesting ∧ (portIn klUp).work.klState 23 ≠ klAttestFail := by decide +kernel
/-! ## Kupel ports, messages, sessions -/

theorem wit_PortTraining :
    (portIn klUp).work.klState 23 ≠ klTraining ∧ (portIn klTraining).work.klState 23 = klTraining ∧
    (mk fun w => w.wr F.klPortCfgEn 0 23 1).work.klState 23 = klDown ∧
    (mk fun w => w.wr F.klPortCfgEn 0 23 1).work.rd F.klPortCfgEn 0 23 ≠ 0 ∧ State.reset.work.rd F.klPortCfgEn 0 23 = 0 ∧
    (portIn klTraining).work.isHostPort 23 = false ∧
    (mk fun w => w.wr F.klPortCfgRole 0 23 1).work.isHostPort 23 = true ∧
    laneSet (addLanes [] (lanesOf 0)) = some [0, 1, 2, 3] ∧ laneSet (addLanes [] (lanesOf 16)) = some [0, 1, 2, 3] ∧
    laneSet (addLanes [] (lanesOf 1)) = some [1, 2, 3, 4] ∧ laneSet (addLanes [] (lanesOf 3)) = none ∧
    (let s := (portIn klUp).on fun w => w.wr F.klPortStatusRxLanes 0 23 0x1D
     bitOf (s.work.rd F.klPortStatusRxLanes 0 23) 4 = true ∧ bitOf (s.work.rd F.klPortStatusRxLanes 0 23) 1 = false ∧
       s.work.klState 23 ∈ [klAttesting, klUp] ∧ s.work.isHostPort 23 = false) ∧
    (let s := mk fun w => ((w.wr F.klPortStatusState 0 23 klHostUp).wr F.klPortCfgRole 0 23 1).wr F.klPortStatusRxLanes 0 23 15
     bitOf (s.work.rd F.klPortStatusRxLanes 0 23) 0 = true ∧ s.work.klState 23 = klHostUp ∧ s.work.isHostPort 23 = true) := by
  decide +kernel

/-- A message of class CTRL that waits at port 23. -/
def waits : Msg := ⟨hdr 3 0x0B 16 0 0 0, toBytes 16 0⟩

/-- Port 23 with it, and with a frame that is not acknowledged. -/
def portWith (st role : Nat) : State := mk fun w =>
  ((w.wr F.klPortStatusState 0 23 st).wr F.klPortCfgRole 0 23 role).setPort 23 { w.port 23 with
    waiting := [waits], unacked := [⟨0, [waits]⟩], sinceAck := 1 }

theorem wit_Frames :
    ((portWith klUp 0).work.port 23).waiting.find? (fun m => m.h.cls = 0) = none ∧
    ((portWith klUp 0).work.port 23).waiting.find? (fun m => m.h.cls = 3) = some waits ∧
    (portWith klUp 0).work.isHostPort 23 = false ∧ (portWith klUp 0).work.klState 23 = klUp ∧
    waits.credits ≤ ((portWith klUp 0).work.port 23).creditsLeft 3 ∧ ((portWith klUp 0).work.port 23).unacked.length < 32767 ∧
    ((portWith klUp 0).work.port 23).replayBytes + 34 + waits.bytes.length ≤ 524288 ∧
    (portWith klTraining 0).work.klState 23 ≠ klUp ∧ (portWith klHostUp 1).work.isHostPort 23 = true ∧
    (portWith klHostUp 1).work.klState 23 = klHostUp ∧ ((portWith klUp 0).work.port 23).sinceAck ≠ 0 ∧
    ((portWith klUp 0).work.port 23).unacked ≠ [] ∧ (State.reset.work.port 23).sinceAck = 0 ∧
    (State.reset.work.port 23).unacked = [] ∧
    ((portWith klUp 0).work.atNs 5).klState 23 = klUp ∧ (State.reset.work.atNs 5).klState 23 ≠ klUp ∧
    (State.reset.work.atNs 5).klState 23 ≠ klHostUp ∧ (State.reset.work.atNs 5).klState 23 ≠ klAttesting := by decide +kernel

/-- A module of a pair that is MIRROR, with partner 1. -/
def mirror : State := mk fun w => ((w.wr F.twnStateRole 0 0 1).wr F.twnCfgEn 0 0 1).wr F.twnCfgPartner 0 0 1

theorem wit_Messages :
    (Instr.regRead (hdr 3 0x0B 16 5 0 0) (toBytes 16 0)).wf = true ∧ (hdr 3 0x0C 16 5 0 0).typ ≠ 0x0B ∧
    State.reset.work.isMirror = false ∧ State.reset.work.ownId 9 = false ∧ State.reset.work.ownId 0 = true ∧
    (hdr 3 0x0B 16 5 0 4).dstSess ≠ 0 ∧ mirror.work.isMirror = true ∧ 0 = mirror.work.deviceId ∧
    mirror.work.mirrorHandles (hdr 3 0x03 16 5 0 0) = false := by decide +kernel

theorem wit_Forwarding :
    ({ hdr 3 0x0B 16 5 0 0 with hops := 1 } : KHdr).hops ≤ 1 ∧ 1 < (hdr 3 0x0B 16 5 0 0).hops ∧
    State.reset.work.usablePorts 511 3 = [] ∧
    (mk fun w => (w.wr F.klPortStatusState 0 23 klUp).wr F.fabRoutePorts 0 511 (2 ^ 23)).work.usablePorts 511 3 ≠ [] := by
  decide +kernel

theorem wit_Unauthorised :
    (∀ typ ∈ [0x02, 0x03, 0x04, 0x05, 0x06, 0x0A, 0x0B, 0x0C], TakenHere 3 typ (hdr 3 typ 16 5 0 0) State.reset) ∧
    (Instr.regRead (hdr 3 0x0B 16 5 0 0) (toBytes 16 0)).wf = true ∧
    State.reset.work.authorised (hdr 3 0x0B 16 5 0 0) = false := by
  unfold TakenHere; decide +kernel

/-- Session 3 in a state, of the host at address 7, whose key is the public key of 5, with a challenge of 32 bytes. -/
def session3 (st : Nat) : State := mk fun w =>
  (((w.wr F.fabHostEn 0 0 1).wr F.fabSessionState 0 3 st).wr F.fabSessionMac 0 3 7).setSession 3
    ⟨toBytes 32 9, smPublic 5, []⟩

/-- Step 2 for session 3 with a signature. -/
def step2 (sig : List Byte) : List Byte := toBytes 8 (2 + 3 * 256) ++ sig

theorem wit_HostSessions :
    State.reset.work.rdB F.fabHostEn 0 0 = false ∧ (session3 ssChallenged).work.rdB F.fabHostEn 0 0 = true ∧
    (Instr.sessionOpen (hdr 3 1 72 0 4 0) 7 (step2 (List.replicate 64 0))).wf = true ∧
    leAt (step2 []) 0 1 = 2 ∧ leAt (step2 []) 1 7 = 3 ∧ (step2 (List.replicate 64 0)).length = 72 ∧
    leAt (toBytes 8 1) 0 1 = 1 ∧ leAt (toBytes 8 3) 0 1 ≠ 1 ∧ leAt (toBytes 8 3) 0 1 ≠ 2 ∧
    (session3 ssChallenged).work.sessState 3 = ssChallenged ∧ (session3 ssChallenged).work.rd F.fabSessionMac 0 3 = 7 ∧
    smVerify ((session3 ssChallenged).work.session 3).key (List.replicate 64 0)
      ((session3 ssChallenged).work.challengeMsg 3 7) = false ∧
    State.reset.work.sessState 3 ≠ ssChallenged ∧ State.reset.work.sessState 3 ≠ ssOpen ∧
    (session3 ssOpen).work.sessState 3 = ssOpen := by decide +kernel

theorem wit_HostSignature :
    smVerify ((session3 ssChallenged).work.session 3).key (smSign 5 7 ((session3 ssChallenged).work.challengeMsg 3 7))
      ((session3 ssChallenged).work.challengeMsg 3 7) = true ∧
    (step2 (smSign 5 7 ((session3 ssChallenged).work.challengeMsg 3 7))).length = 72 := by decide +kernel

theorem wit_SessionClose : OrderHere 0x0D (hdr 3 0x0D 0 0 4 0) (session3 ssOpen) ∧ (hdr 3 0x0D 0 0 4 0).wf = true ∧
    OrderHere 0x0D (hdr 3 0x0D 0 0 0 0) State.reset ∧ (hdr 3 0x0D 0 0 0 0).srcSess = 0 ∧
    (hdr 3 0x0D 0 0 4 0).srcDev = (session3 ssOpen).work.deviceId := by
  unfold OrderHere TakenHere; decide +kernel

/-- A device with a host window of 64 bytes at 0x200000. -/
def window64 (st : Nat) : State := mk fun w =>
  ((w.wr F.fabHostWinBase 0 0 0x200000).wr F.fabHostWinLen 0 0 64).wr F.rstStateState 0 0 st

theorem wit_Writes :
    TakenHere 0 1 (hdr 0 1 72 0 1 0) (window64 stRunning) ∧ TakenHere 0 1 (hdr 0 1 72 9 0 0) (window64 stRunning) ∧
    TakenHere 2 1 (hdr 2 1 12 9 1 0) State.reset ∧
    (Instr.dataWrite (hdr 0 1 72 0 1 0) (toBytes 72 0x200000)).wf = true ∧
    leAt (toBytes 72 0x200000) 0 8 = 0x200000 ∧ (window64 stRunning).work.dv F.fabHostWinBase = 0x200000 ∧
    (window64 stRunning).work.dv F.fabHostWinLen = 64 ∧ (window64 stRunning).work.devState ≠ stRest ∧
    (window64 stRest).work.devState = stRest ∧ leAt (toBytes 72 0x1FFFFF) 0 8 < 0x200000 ∧
    regionOf 0x200000 = .hbm ∧ regionOf (0x200000 + 64 - 1) = .hbm ∧
    (Instr.ctrlDone (hdr 2 1 12 9 1 0) (toBytes 12 sState)).wf = true ∧ leAt (toBytes 12 sState) 0 8 = sState ∧
    leAt (toBytes 12 0) 0 8 ≠ sState ∧ (Instr.event (hdr 3 0x20 32 0 0 4) (toBytes 32 0)).wf = true ∧
    State.reset.work.ownId (hdr 3 0x20 32 0 0 4).dstDev = true ∧ (session3 ssOpen).work.sessState 3 = 2 ∧
    subTickFits (leAt (toBytes 32 0) 28 4) ((session3 ssOpen).work.rd F.fabSessionOpenedTick 0 3) = true ∧
    State.reset.work.sessState 3 ≠ 2 ∧ (hdr 3 0x20 32 0 0 4).srcDev = State.reset.work.deviceId := by
  unfold TakenHere; decide +kernel

/-- A plan image without anything in it. -/
def emptyImage : PlanImage := ⟨65535, [], [], [], [], [], ⟨0, 0⟩, [], [], [], [], [], [], [], [], [], [], []⟩

/-- Plan 15 in a state, and an image of 64 bytes in memory that the environment knows. -/
def plan15 (st : Nat) : State := { (mk fun w => (w.setPlanState 15 st sOk).wr F.pwrStatusNvw 0 0 0) with
  planFormat := [(toBytes 64 0, emptyImage)] }

/-- PLAN_LOAD's payload: plan 15, address and length of the image. -/
def loadBytes (len : Nat) : List Byte := toBytes 24 (fields [(0, 15), (64, 0x200000), (128, len)])

theorem wit_PlanCommands :
    (∀ typ ∈ [0x03, 0x04, 0x05], OrderHere typ (hdr 3 typ 24 0 0 0) (plan15 0) ∧ (hdr 3 typ 24 0 0 0).wf = true) ∧
    (∀ st ∈ [0, 1, 2, 3, 4, 5], ((plan15 st).work.resolve objPlan 15 0 (hdr 3 4 24 0 0 0)).map
      (fun w => (w.planState 15, (w.plan 15).pending)) = some (st, 0)) ∧
    leAt (loadBytes 64) 0 1 % 16 = 15 ∧ (loadBytes 64).length = 24 ∧ fieldOf (ofBytes (loadBytes 64)) 128 40 ≠ 0 ∧
    (plan15 0).work.devState ≠ stRest ∧
    ((plan15 0).work.resolve objPlan 15 0 (hdr 3 3 24 0 0 0)).map (fun w =>
      (w.read 0x200000 64, (w.loadImage 15 (toBytes 64 0)).isRight, w.loadImage 15 (toBytes 63 0)
        matches .inl _)) = some (some (toBytes 64 0), true, true) := by
  unfold OrderHere TakenHere; decide +kernel

theorem wit_HigherMasters :
    (let s := mk fun w => { (w.wr F.fabBridgeValid 0 0 1).wr F.fabBridgeDevice 0 0 9 with
      cmds := [⟨objPlan, 15, 0, 0, hdr 3 4 1 0 0 0⟩] }
     OrderHere 0x04 (hdr 3 4 1 9 1 0) s ∧ (Instr.planStart (hdr 3 4 1 9 1 0) [15]).wf = true ∧
       leAt [15] 0 1 % 16 = 15 ∧ s.work.resolve objPlan 15 0 (hdr 3 4 1 9 1 0) = none) ∧
    (State.reset.work.resolve objPlan 15 0 (hdr 3 4 1 9 1 0)).isSome = true := by
  unfold OrderHere TakenHere; decide +kernel

/-- Payload of REG_READ or REG_WRITE: the address of TIME_TICK_PERIOD, and a value. -/
def regBytes (a v : Nat) : List Byte := toBytes 24 (a + v * 2 ^ 128)

theorem wit_RegisterCommands :
    (∀ typ ∈ [0x0B, 0x0C], OrderHere typ (hdr 3 typ 24 0 0 0) State.reset) ∧
    (Instr.regRead (hdr 3 0x0B 24 0 0 0) (regBytes regsBase 0)).wf = true ∧
    regSpan (regBytes 0 0) = none ∧
    (let a := regsBase + 0x1000000
     regSpan (regBytes a 8000) = some (a, 1) ∧ (State.reset.work.readThrough a).isSome = true ∧
       (State.reset.work.resolveAll (hdr 3 0x0C 24 0 0 0) (State.reset.work.wordObjects a)).map (fun w =>
         let x := w.storeWord (.regWrite 0 0) a (leAt (regBytes a 8000) 16 8)
         (x.1.isSome, resetWrite (x.2.targets a) (leAt (regBytes a 8000) 16 8))) = some (true, false) ∧
       (State.reset.work.resolveAll (State.reset.work.storeHdr (.mc 3) a) (State.reset.work.wordObjects a)).isSome = true) ∧
    (let a := regsBase + 0xFFFFFF8
     regSpan (regBytes a 0) = some (a, 1) ∧ State.reset.work.readThrough a = none ∧ State.reset.work.targets a = []) ∧
    (Requester.mc 3).wf = true := by
  unfold OrderHere TakenHere; decide +kernel

/-- A read through an alias gives zero, of a command register too, to which no write through the all-dies alias comes; page
0 is unmapped whatever its entry says (R650, R659, R660). -/
theorem test_aliasRead :
    (let w := State.reset.work
     w.readThrough 0x300F0000100 = some 0 ∧ w.reservedWord 0x300F0000100 = true ∧ w.readThrough 0x300F0000008 = some 0 ∧
     w.readThrough 0x300F0000280 = none ∧ (w.setPage 0 ⟨true, false, false, 0, 0⟩).key 8 = none ∧
     (w.setPage 1 ⟨true, false, false, 0, 0⟩).key 0x200008 = some 8) := by decide +kernel
/-! ## The cellar and the match banks -/

/-- Firmware's table for cellar commands: 1 INT64, 2 BITMAP, 3 a hash table's header, 4 UINT32, 5 BYTES, 6 rows of 4 bytes,
7 rows of FP32; the header of a table of eight buckets is laid. -/
def celTable : State := (withSlots [(1, tensor 7 cellarBase 8 64), (2, tensor 0x16 (cellarBase + 64) 8 64),
  (3, tensor 4 (cellarBase + 0x1000) 64 64), (4, tensor 0x17 (cellarBase + 128) 16 64),
  (5, tensor 4 (cellarBase + 0x2000) 1024 1024), (6, table2 4 (cellarBase + 256) 4 16 64),
  (7, table2 0x0F (cellarBase + 512) 4 4 64), (8, table2 0x0F (cellarBase + 1024) 4 4 64)] State.reset).on fun w =>
  w.writeLE (cellarBase + 0x1000) 64 (fields [(0, 8), (128, 0x4000), (480, 5)])

/-- A command: OP, TYPE, MODE, SRC, DST, AUX, COUNT, OPA. -/
def celCmd (op ty mode src dst aux count opa : Nat) : Rec :=
  record [(0, op), (8, ty), (13, mode), (32, src), (48, dst), (64, aux), (96, count), (192, opa)]

/-- One command of each OP. -/
def celCmds : List Rec := [celCmd 1 7 0 1 2 0xFFFF 8 0, celCmd 2 7 0 1 5 3 8 0, celCmd 3 4 0 5 0 3 4 0, celCmd 4 7 0 4 1 0 8 0,
  celCmd 5 4 0 5 6 0 4 0, celCmd 6 0x0F 0 4 8 4 1 7, celCmd 7 4 0 5 3 0 8 0, celCmd 8 4 0 0 5 0 8 0]

/-- The check of a command passes. -/
def celGoes (r : Rec) : Bool :=
  match { celTable.work.lend 16 (celTable.work.celHolds 16 r) with holding := true }.celCheck 16 (CelCmd.ofRec r) with
  | .go _ => true
  | .fails _ => false

theorem wit_CellarCommands :
    celCmds.map (fun r => recF r 7 0) = [1, 2, 3, 4, 5, 6, 7, 8] ∧ celCmds.map celGoes = List.replicate 8 true ∧
    ([1, 2, 3, 4, 5, 6, 7, 8].map fun op => celGoes (celCmd op 7 0 1 2 3 0 0)) = List.replicate 8 false ∧
    celTable.work.celHeld 0 < 4096 ∧ celTable.work.tapRoom fw = true ∧ fw.wf = true := by decide +kernel

/-- A flight of die d. -/
def flightOf (d : Nat) : Flight := ⟨d, fw, 16, 1, 0, 0, 0, 0, 0, [], d, 0, 1⟩

theorem celHeld_replicate (n : Nat) :
    ({ State.reset with cellar := List.replicate n (flightOf 0) } : State).work.celHeld 0 = n := by
  show ((List.replicate n (flightOf 0)).filter (fun f => f.die = 0)).length + 0 = n
  rw [List.filter_replicate_of_pos (by decide)]; exact List.length_replicate

/-- A die whose cellar unit is full. -/
theorem wit_CellarFull : 4096 ≤ ({ State.reset with cellar := List.replicate 4096 (flightOf 0) } : State).work.celHeld 0 :=
  Nat.le_of_eq (celHeld_replicate 4096).symm

theorem wit_CellarMaintenance :
    takeFlight [flightOf 0, flightOf 3] 3 0 = some (flightOf 3, [flightOf 0]) ∧
    State.reset.work.isBad (cellarOf 3 + 32767 * 65536 + 1023 * 64) = false ∧
    (let s := mk fun w => (w.wr F.celScrubCeLimit 3 0 4).setBank 3 1023 ⟨false, 0, [1, 2], 5⟩
     2 ≤ (s.work.bank 3 1023).ueRows.length ∧ s.work.rd F.celScrubCeLimit 3 0 ≠ 0 ∧
       s.work.rd F.celScrubCeLimit 3 0 < (s.work.bank 3 1023).ce ∧ (s.work.bank 3 1023).lost = false ∧
       (s.work.bank 3 1023).copying = 0 ∧ (s.work.spareList kBank 3).isEmpty = false) ∧
    (let s := mk fun w => { w.setBank 3 1023 ⟨false, 3, [], 0⟩ with spr := { w.spr with spares := [(kBank * 4 + 2, [])] } }
     (s.work.bank 3 1023).copying ≠ 0 ∧ (s.work.spareList kBank 3).isEmpty = false ∧
       (s.work.spareList kBank 2).isEmpty = true) := by decide +kernel

/-- Firmware's table for match commands: 1 INT64 keys, 2 bytes. -/
def matTable : State := (withSlots [(1, tensor 7 0x200000 8 64), (2, tensor 4 0x200040 128 128)] State.reset)

/-- One command of each OP on bank 127 of die 3, of width 0 in the table. -/
def matCmds : List Rec := [0x21, 0x22, 0x23, 0x24, 0x25, 0x26].map fun op =>
  record [(0, op), (8, 3), (10, 127), (17, 1), (32, if op = 0x23 then 2 else 1), (48, 2), (96, 1)]

theorem wit_MatchCommands :
    matCmds.map (fun r => recF r 7 0) = [0x21, 0x22, 0x23, 0x24, 0x25, 0x26] ∧
    matCmds.map (fun r => matTable.work.matCheck 16 (MatCmd.ofRec r) (matTable.work.desc 16 (MatCmd.ofRec r).src)
      (matTable.work.desc 16 (MatCmd.ofRec r).dst)) = List.replicate 6 [] ∧
    (matCmds.all fun r => decide ((matTable.work.matCheck 16 (MatCmd.ofRec (r ||| 0x10000000)) none none) ≠ [])) = true ∧
    matTable.work.matHeld 0 < 4096 ∧ matTable.work.tapRoom fw = true ∧
    (mk fun w => w.setMbank 3 127 { w.mbank 3 127 with lost := true }).work.mbank 3 127 =
      { State.reset.work.mbank 3 127 with lost := true } := by decide +kernel

/-- A bank with an entry of one unit at row 8,191 that answers every key, of the highest priority, and one at row 3. -/
def bankOf (ue : Bool) : MBank := ⟨[(3, ⟨5, 0xFFFFFFFFFFFFFFFF, true, 0, 9, 5, 0xFFFFFFFFFFFFFFFF, false, false⟩),
  (8191, ⟨0, 0, true, 255, 7, 0, 0, ue, false⟩)], [], false, 0, [], 0, 0⟩

theorem wit_Search : smWf MRow.atReset (bankOf false).rows = true ∧ (bankOf false).matches 1 8191 [5] = true ∧
    (bankOf false).entryUe 1 8191 = false ∧ (bankOf false).verifies 1 8191 [5] = true ∧
    (bankOf true).entryUe 1 8191 = true := by decide +kernel

theorem wit_MatchMaintenance :
    takeFlight [flightOf 0, flightOf 3] 3 0 = some (flightOf 3, [flightOf 0]) ∧
    (let s := mk fun w => (w.wr F.matchScrubCeLimit 3 0 4).setMbank 3 127 { bankOf false with ueRows := [1, 2], fixes := 5 }
     let x := (s.work.mbank 3 127).row 8191
     x.key = x.vkey ∧ x.care = x.vcare ∧ x.ue = false ∧ 2 ≤ (s.work.mbank 3 127).ueRows.length ∧
       s.work.rd F.matchScrubCeLimit 3 0 ≠ 0 ∧ s.work.rd F.matchScrubCeLimit 3 0 < (s.work.mbank 3 127).fixes) ∧
    (let s := mk fun w => w.setMbank 3 127 { bankOf false with copying := 3 }
     (s.work.mbank 3 127).copying ≠ 0 ∧ (s.work.spareList kMatch 3).isEmpty = false) := by decide +kernel
/-! ## The matrix engines -/

/-- Engine 23 of die 3 at a command of its list, for a task of plan 0 with descriptors of its window: 1 INT8 tile of 4 by 4,
2 INT32 of 4 by 4, 3 32 bytes. Its operand tile is loaded, and accumulator 0 holds integers. -/
def meAt (r : Rec) (f : Me → Me) : State := mk fun w =>
  let a := meWindow 3 23
  let w := w.writeLE a 64 r.toNat
  let w := { w.setDisp 3 { w.disp 3 with run := [(119, [task0])] } with parts := wholeMap }
  let w := [(1, table2 3 (a + 0x1000) 4 4 64), (2, table2 6 (a + 0x2000) 4 4 64), (3, tensor 4 (a + 0x3000) 32 64)].foldl
    (fun w h => w.setSlot 0 h.1 ⟨.valid, h.2⟩) w
  (w.wr F.meStatusAcc0 3 23 2).setMe 3 23 (f { w.me 3 23 with
    running := true, tile := some ⟨3, 4, 4, List.replicate 16 1, []⟩ })

/-- Commands WLOAD, MAC, STORE, CBLOAD, ROTATE and END. -/
def wloadCmd : Rec := record [(0, 0x41), (32, 1), (48, 0xFFFF)]
def macCmd : Rec := record [(0, 0x42), (32, 1), (48, 0xFFFF), (192, 4)]
def storeCmd : Rec := record [(0, 0x43), (64, 2), (80, 0xFFFF), (96, 0xFFFF), (112, 0xFFFF), (192, 4), (208, 4)]
def cbloadCmd : Rec := record [(0, 0x44), (32, 3), (128, 4095), (192, 1)]

/-- What every command's statement asks of the engine. -/
def meReady (r : Rec) : Bool :=
  let s := meAt r id
  (s.work.me 3 23).running && !(s.work.me 3 23).skip && !(s.work.me 3 23).rotating && (s.work.meNext 3 23 == some r) &&
    (MeCmd.ofRec r).reservedZero && decide (s.work.meListBad 3 23 = []) && decide (s.work.ringFails 3 23 (MeCmd.ofRec r) = [])

theorem wit_MatrixReady : [wloadCmd, macCmd, storeCmd, cbloadCmd].all meReady = true := by decide +kernel

/-- The operands of the commands. -/
theorem wit_MatrixCommands :
    (let s := meAt wloadCmd id
     let o := s.work.meOperand 3 23 1 false false
     o.2 = [] ∧ (match o.1 with
      | some y => y.tileShape && decide (getAt 0 y.size 0 ≤ (y.ty.getD .bitmap).wLimit) && decide (getAt 0 y.size 1 ≤ 128) &&
          decide (s.work.meScale 3 23 y 0xFFFF false false = (none, [])) &&
          decide ((meClass (y.ty.getD .bitmap) .int8).map (fun c => (c.flt, decide (4 ≤ c.limit))) = some (false, true)) &&
          decide ((y.ty.getD .bitmap).isMx = false) && s.work.rectIn 3 23 false y 0 4 0 4 && decide ((y.ty.getD .bitmap).bookSlots = 0)
      | none => false) = true ∧ (s.work.me 3 23).tile.map (fun t => (t.k, t.n, ETy.ofCode t.ty)) = some (4, 4, some .int8) ∧
      s.work.rd (accField 0) 3 23 = 2 ∧ (MeCmd.ofRec wloadCmd).ring = false ∧ 1 ≤ (MeCmd.ofRec macCmd).m ∧
      (MeCmd.ofRec macCmd).col0 + 4 ≤ 4 ∧ (MeCmd.ofRec macCmd).row0 + (MeCmd.ofRec macCmd).m ≤ 4) ∧
    (let s := meAt storeCmd id
     let c := MeCmd.ofRec storeCmd
     let o := s.work.meOperand 3 23 2 true false
     o.2 = [] ∧ (match o.1 with
      | some y => c.storeFits y && decide (s.work.meScale 3 23 y c.dstScale true false = (none, []))
      | none => false) = true ∧ s.work.meColumn 3 23 c.colScale c.n = (none, []) ∧
      s.work.meColumn 3 23 c.colBias c.n = (none, []) ∧ c.satSel < 3 ∧ c.srSel < 3 ∧ c.m = 4 ∧ c.n = 4 ∧
      s.work.rd (accField c.acc) 3 23 ≠ 0) ∧
    (let s := meAt cbloadCmd id
     let c := MeCmd.ofRec cbloadCmd
     let o := s.work.meOperand 3 23 3 false false
     o.2 = [] ∧ o.1.map (fun y => (y.ty, decide (32 * c.m ≤ y.count))) = some (some .uint8, true) ∧ 1 ≤ c.m ∧
       c.cb + c.m ≤ 4096) := by decide +kernel

theorem wit_MatrixListAndRing :
    (let s := (meAt (record [(0, 0x45)]) id).on fun w => ((w.wr F.meRingEn 3 23 1).wr F.meRingNextDie 3 23 3).wr F.meRingNextMe 3 23 23
     (s.work.me 3 23).running = true ∧ (s.work.me 3 23).skip = false ∧ (s.work.me 3 23).rotating = false ∧
       s.work.meNext 3 23 = some (record [(0, 0x45)]) ∧ (MeCmd.ofRec (record [(0, 0x45)])).reservedZero = true ∧
       s.work.rdB F.meRingEn 3 23 = true ∧ s.work.ringFenced 3 23 = false ∧
       (s.on fun w => w.setUnitSt 3 119 { w.unitSt 3 119 with fenced := true }).work.ringFenced 3 23 = true) ∧
    (meAt (record [(0, 0x45)]) id).work.rdB F.meRingEn 3 23 = false ∧
    ((meAt wloadCmd fun x => { x with skip := true }).work.me 3 23).skip = true ∧
    (MeCmd.ofRec (record [(0, 0x46)])).reservedZero = true ∧
    (meAt (record [(0, 0x46)]) id).work.meNext 3 23 = some (record [(0, 0x46)]) := by decide +kernel

/-- Engine (3, 23) sends to engine (0, 0), which has granted. -/
def ringAt (got : Bool) : State := mk fun w =>
  (w.wr F.meRingBufLen16 3 23 4).setMe 3 23 { w.me 3 23 with running := true, rotating := true, got := got } |>.setMe 0 0
    { w.me 0 0 with granted := true }

theorem wit_RingTransfers : ∀ b ∈ [true, false], Memory.wf (ringAt b).mem = true ∧
    (let w := (ringAt b).work
     w.rd F.meRingNextDie 3 23 = 0 ∧ w.rd F.meRingNextMe 3 23 = 0 ∧ (w.me 3 23).running = true ∧
       (w.me 3 23).rotating = true ∧ (w.me 3 23).sent = false ∧ (w.me 0 0).granted = true ∧ (w.me 0 0).got = false ∧
       (w.me 3 23).got = b ∧ w.ringBuf 3 23 (w.rd F.meStatusRingCur 3 23) % 16 = 0 ∧
       w.ringBuf 0 0 (1 - w.rd F.meStatusRingCur 0 0) % 16 = 0) := by decide +kernel

/-- A partial state of one element, stretch k of n, for entity 5. -/
def partialBytes (k n : Nat) : List Byte := toBytes 36 (fields [(0, 5), (64, k), (80, n), (144, 1)])

/-- The header of a partial of this device for device 5. -/
def toFive : KHdr := { hdr 0 3 36 0 0 0 with dstDev := 5 }

theorem wit_HistoryPartials :
    (Instr.histPartial 3 (hdr 0 3 36 0 0 0) (partialBytes 0 1)).wf = true ∧
    ({ hdr 0 3 36 0 0 0 with tick := 9 } : KHdr).tick ≠ 0 ∧
    (mk fun w => (w.wr F.timeTickCountCount 0 0 9).wr F.rstStateState 0 0 stRunning).work.devState ≠ stRest ∧
    (match HPart.ofBytes 8 (partialBytes 0 1) with
     | some p => decide (p.stretches = 1) && decide ((Hist.atReset.group p).length + 1 = p.stretches) &&
         decide (¬ p.epoch + 1 < 9) && decide (¬ p.epoch < Hist.atReset.closed)
     | none => false) = true ∧
    (match HPart.ofBytes 8 (partialBytes 0 2) with
     | some p => decide ((Hist.atReset.group p).length + 1 ≠ p.stretches)
     | none => false) = true ∧
    (match HPart.ofBytes 7 (partialBytes 0 1) with
     | some p => decide (p.epoch + 1 < 9)
     | none => false) = true ∧
    (hdr 0 3 36 0 0 0).srcDev = State.reset.work.deviceId ∧ (toFive).dstDev ≠ State.reset.work.deviceId ∧
    (Instr.histPartial 3 (toFive) (partialBytes 0 1)).wf = true ∧
    (HPart.ofBytes State.reset.work.tickNo (partialBytes 0 1)).isSome = true := by decide +kernel

/-- What the check bits show may be clean words, and a command that acts takes the first of it: a corrected word of local
memory counts in LM_CE, an uncorrectable code-book slot is remembered (R193, R201). -/
theorem test_found :
    (let s : State := { meAt wloadCmd id with found := [[(7, .clean)], [(7, .corrected)]] }
     (s.work.nextFound.all fun e => decide (e.2 = .clean)) = true ∧ s.work.dropFound.nextFound = [(7, .corrected)] ∧
     (s.work.meEcc 3 23 s.work.nextFound).rd F.meErrLmCe 3 23 = 0 ∧
     (s.work.meEcc 3 23 s.work.dropFound.nextFound).rd F.meErrLmCe 3 23 = 1 ∧
     ((s.work.meEcc 3 23 [(bookWords + 5, .uncorrectable)]).me 3 23).bookBad = [5]) := by decide +kernel
/-! ## The general cores -/

/-- The core of coreUp with 8 elements of 64 bits, one register a group, and its registers changed. -/
def coreV (f : Core → Core) : State := coreUp.on fun w => w.setCore 0 0 (f { w.core 0 0 with vtype := 0x18, vl := 8 })

theorem wit_VectorHash :
    (coreV id).work.coreRuns 0 0 = true ∧ ((coreV id).work.core 0 0).vLegal [64] [31, 2] = true ∧ maskOk true 31 2 = true ∧
    maskOk false 31 2 = true ∧ maskOk false 0 2 = false ∧ maskOk false 31 0 = false ∧ ((coreV id).work.core 0 0).vl ≤ 8 * ((coreV id).work.core 0 0).group ∧
    (coreUp.work.core 0 0).vLegal [64] [31, 2] = false ∧
    ((coreV fun c => { c with vtype := 0x19 }).work.core 0 0).vLegal [64] [31, 2] = false := by decide +kernel

theorem wit_VectorForms :
    (let s := coreV id
     let c := s.work.core 0 0
     (c.body.all fun i => decide (c.vElem 2 64 i < 2 ^ 63)) = true ∧
       (match s.work.vhStrings 0 0 c 2 (c.body.filter (fun i => c.active true i)) c 1 with
        | .inl _ => true
        | .inr _ => false) = true ∧
       (match s.work.localBytes 0 0 (c.getX 5) (16 * 8) 64, s.work.localBytes 0 0 (c.getX 5) (256 * 8) 64 with
        | .bytes _ _ _, .bytes _ _ _ => true
        | _, _ => false) = true ∧ c.vLegal [16, 32, 64] [2] = true ∧ c.vLegal [8, 16, 32, 64] [1, 2] = true ∧
       1 + c.group ≤ 2) ∧
    (let c := (coreV fun c => (c.setX 5 (0 + 9 * 16)).setX 6 (8 + 9 * 16 + 2 * 256 + 2 ^ 10)).work.core 0 0
     c.vLegal [32, 64] [1, 2] = true ∧ ∀ r ∈ [5, 6], fieldOf (c.getX r) 0 4 ≤ 8 ∧ fieldOf (c.getX r) 0 4 < fieldOf (c.getX r) 4 4 ∧
       fieldOf (c.getX r) 4 4 ≤ 9 ∧ fieldOf (c.getX r) 8 2 < 3 ∧ fieldOf (c.getX r) 11 53 = 0) ∧
    (let c := (coreV fun c => c.setV 2 5).work.core 0 0
     argmaxOf 0 c.sew (c.vElem 2 c.sew) (c.body.filter (fun j => c.active true j)) = some 0) ∧
    ((coreV fun c => { c with vtype := 0x10 }).work.core 0 0).vLegal [32] [1, 2] = true ∧
    bitOf ((coreV id).work.core 0 0).vtype 6 = false ∧
    (let c := (coreV fun c => { c with vtype := 0x58 }).work.core 0 0
     bitOf c.vtype 6 = true ∧ c.vLegal [32, 64] [1, 2] = true) := by decide +kernel

theorem wit_ScalarForms :
    (let s := coreV fun c => (c.setX 5 0x200000).setX 6 16
     let c := s.work.core 0 0
     (match s.work.loadBytes 0 0 (c.getX 5) (c.getX 6) 1 4 with
      | .bytes _ _ _ => true
      | .trap _ => false) = true ∧ c.getX 6 < 2 ^ 31 ∧ c.tapout < 64 ∧
      (match s.work.localBytes 0 0 (c.getX 7) 64 64 with
       | .bytes _ _ _ => true
       | .trap _ => false) = true ∧ s.work.celHeld 0 < 4096 ∧ s.work.matHeld 0 < 4096) ∧
    64 ≤ ((coreV fun c => { c with tapout := 64 }).work.core 0 0).tapout := by decide +kernel

theorem wit_Traps :
    (coreUp.work.core 0 0).user = true ∧ coreUp.work.planOf (.core 0 0) < 16 ∧
    (coreUp.work.plan (coreUp.work.planOf (.core 0 0))).faulting = 0 ∧ coreUp.work.coreRuns 0 0 = true ∧
    coreUp.work.modl.dbg = false ∧ (coreUp.on fun w => w.setMod fun m => { m with dbg := true }).work.modl.dbg = true ∧
    State.reset.work.coreRuns 0 0 = false ∧ (coreUp.work.core 0 0).tapout = 0 := by decide +kernel

/-- Plan 0 with code in the 64 bytes at 0x200000, of which the first word is given, and the core at it. -/
def codeAt (word : Nat) : State := coreUp.on fun w =>
  let i : PlanImage := ⟨65535, [], [], [], [], [], ⟨0x200000, 64⟩, [], [], [], [], [], [], [], [], [], [], []⟩
  ((w.setPlan 0 { w.plan 0 with image := some i }).writeLE 0x200000 4 word).setCore 0 0 { w.core 0 0 with pc := 0x200000 }

/-- What is fetched at the core's program counter. -/
def fetched (s : State) : Option Nat :=
  match s.work.fetchHalf 0 0 (s.work.core 0 0).pc with
  | .inl x => some x.1
  | .inr _ => none

/-- The word 0x00700293 is `addi x5, x0, 7` and the code 0x0285 `c.addi x5, 1`, by the RISC-V base encodings that R215
names; the code 0 is no instruction. -/
theorem wit_CoreInstructions :
    fetched coreUp = none ∧ fetched (codeAt 0x00700293) = some 0x0293 ∧ 0x0293 % 4 = 3 ∧
    (match (codeAt 0x00700293).work.fetchHalf 0 0 0x200000 with
     | .inl (_, w) => (match w.fetchHalf 0 0 0x200002 with
       | .inl (k, _) => decide (k = 0x0070)
       | .inr _ => false)
     | .inr _ => false) = true ∧ ((codeAt 0).work.core 0 0).opImm 0x00700293 = some 7 ∧
    fetched (codeAt 0x0285) = some 0x0285 ∧ 0x0285 % 4 ≠ 3 ∧ expandC 0x0285 = some 0x00128293 ∧
    fetched (codeAt 0) = some 0 ∧ expandC 0 = none := by decide +kernel
/-! ## The dispatchers -/

/-- A task descriptor: KIND, UNIT, DIE, BUDGET_NS, DELAYED with its tick. -/
def taskRec (kind u die budget delayed tick : Nat) : Rec :=
  record [(0, kind), (16, u), (24, die), (48, 0xFFFF), (64, budget), (288, tick), (376, delayed)]

/-- A running device with a period of 8,000 ns, plan 0 RUNNING, plan 15 EMPTY, at a time of the epoch. -/
def dispUp (f : Work → Work) : State := coreUp.on fun w =>
  f (((w.wr F.timeTickPeriodPeriodNs 0 0 8000).wr F.rstStateState 0 0 stRunning).setPlanState 0 2 sOk)

/-- The failures of a submission of plan p. -/
def submitFails (s : State) (p : Nat) (r : Rec) : List Nat :=
  s.work.taskFields r ++ chk (decide (s.work.planState p = 2)) sState ++
    chk ((s.work.disp (recF r 25 24)).room (s.work.liesAhead r (recF r 351 288))) sFull

theorem wit_TaskSubmissions :
    (∀ x ∈ [(0, 0), (1, 9)], submitFails (dispUp id) 0 (taskRec kindGc 95 3 100 x.1 x.2) = []) ∧
    submitFails (dispUp id) 15 (taskRec kindGc 95 3 100 0 0) = [sState] ∧
    submitFails (dispUp id) 0 (taskRec kindGc 96 3 100 0 0) = [sRange] ∧
    ((dispUp id).work.now : Int) < (dispUp id).work.releaseTime 9 (taskRec kindGc 95 3 100 1 9) ∧
    (dispUp id).work.coreRuns 0 0 = true ∧ (dispUp id).work.callRecord 0 0 3 64 64 = none ∧
    ((dispUp id).work.callRecord 0 0 64 64 64).isSome = true ∧ ((dispUp id).work.effecting 0 0).1 = true := by decide +kernel

/-- A task of a kind in the slot of unit u of die 3. -/
def slotted (kind u budget : Nat) : State := dispUp fun w =>
  w.setDisp 3 { w.disp 3 with slot := [(u, [{ task0 with r := taskRec kind (u % 96) 3 budget 0 0, elig := some 0, serial := 5 }])] }

/-- The slotted unit can start at a time of the epoch, and whether the guard test passes. -/
def starts (kind u budget ns : Nat) : Option (Bool × Bool) :=
  let w := ((slotted kind u budget).work.atNs ns).refresh 3
  (unitGet (w.disp 3).slot u).head?.map (fun q => (w.canStart 3 u && decide (q.kind = kind), w.guardOk q))

theorem wit_TaskStarts : starts kindGc 95 100 160 = some (true, true) ∧ starts kindMe 119 100 7759 = some (true, true) ∧
    starts kindChain 0 100 7900 = some (true, true) ∧ starts kindGc 95 100 7901 = some (true, false) := by decide +kernel

/-- A stream task eligible in level 0 of die 3, with its description at the first byte of page 1. -/
def streamTask : State := dispUp fun w =>
  let q : Task := { task0 with r := record [(0, kindStream), (24, 3), (48, 0xFFFF), (64, 100), (96, 0x200000)], elig := some 0, serial := 5 }
  ((w.wr F.strmBarCount 0 0 1).write 0x200000 (toBytes 576 (0x0B * 2 ^ 2560))).setDisp 3 { w.disp 3 with
    levels := [q] :: List.replicate 15 [] }

theorem wit_StreamTask :
    (let w := (streamTask.work.atNs 200).refresh 3
     match w.firstStream 3 with
     | none => false
     | some q =>
       let k := { q with epoch := w.tickNo, start := w.now, pastBudget := false }
       let x := (w.disp 3).drop q
       w.dispatching && (w.freeCtx 3).isSome && (w.disp 3).allowed 127 q.level && w.guardOk q &&
         (match ((w.setDisp 3 { x with streams := x.streams ++ [k] }).trace 3 3 k 127 0 (w.now - q.elig.getD w.now)).streamBegin 3
            q.plan q.entry 0 0 (some q.serial) none with
          | (_, .inl c) => decide (c = 0)
          | (_, .inr _) => false)) = true ∧
    (let w := (streamTask.work.atNs 7901).refresh 3
     (match w.firstStream 3 with
      | none => false
      | some q => w.dispatching && (w.freeCtx 3).isSome && !w.guardOk q) = true) := by decide +kernel

/-- A task that runs on unit u of die 3 with a status. -/
def ending (u : Nat) (st : Nat) : State := dispUp fun w =>
  let w := w.setDisp 3 { w.disp 3 with run := [(u, [{ task0 with r := taskRec (if u < 96 then kindGc else kindMe) (u % 96) 3 100 0 0 }])] }
  if u < 96 then w.setCore 3 u { w.core 3 u with user := true, ended := some st }
  else w.setMe 3 (u - 96) { w.me 3 (u - 96) with ended := some st }

theorem wit_Completions :
    (unitGet ((ending 95 sCheck).work.disp 3).run 95).map (·.kind) = [kindGc] ∧ ((ending 95 sCheck).work.core 3 95).halted = false ∧
    ((ending 95 sCheck).work.core 3 95).ended.getD sOk = statusCode .checkFail ∧ (ending 95 sCheck).work.chainAt 3 95 = none ∧
    (unitGet ((ending 119 sOk).work.disp 3).run 119).length = 1 ∧ ((ending 119 sOk).work.me 3 23).ended = some (statusCode .ok) := by
  decide +kernel

theorem wit_DispatcherTime :
    commitEnd ((dispUp id).work.atNs 161).period < ((dispUp id).work.atNs 161).phase ∧
    ((dispUp id).work.atNs 160).phase ≤ commitEnd ((dispUp id).work.atNs 160).period ∧
    (dispUp id).time.commitOpen = false ∧
    ({ dispUp id with time := { (dispUp id).time with commitOpen := true } } : State).time.commitOpen = true ∧
    (State.reset.work.plan 15).overruns < 3 ∧
    3 ≤ ((mk fun w => w.setPlan 15 { w.plan 15 with overruns := 3 }).work.plan 15).overruns ∧
    (let s := mk fun w => w.setUnitSt 3 119 { w.unitSt 3 119 with behind := true }
     (s.work.unitSt 3 119).behind = true ∧ (s.work.unitSt 3 119).catchUp = 0) ∧
    (State.reset.work.unitSt 3 119).behind = false := by decide +kernel
/-! ## Operators -/

/-- A column-list entry without validity or BYTES. -/
def entry (h : Nat) : Nat := h + 0xFFFF0000 + 0xFFFF * 2 ^ 32

/-- Core (0, 0) runs plan 0, whose table holds: 1 an INT64 column, 2 a bitmap, 3 the list of column 1, 4 the list of columns 5
and 1, 5 and 6 UINT32 columns, 7 an INT64 output, 8 an FP32 output, 9 a hash table's header, 10 a join record, 11 one that is
finished, 12 parameters of NORMALISE, 13 a boundary table, 14 a spill list, 15 a window header, 18 a result list, 19 the list
of it, 20 a chunk record, 21 its chunk, 22 a list of outputs. -/
def opTable : State := coreUp.on fun w =>
  let w := [(1, tensor 7 (cel 0) 8 64), (2, tensor 0x16 (cel 64) 8 64), (3, tensor 4 (cel 128) 64 64), (4, tensor 4 (cel 192) 64 64),
    (5, tensor 0x17 (cel 256) 8 32), (6, tensor 0x17 (cel 320) 8 32), (7, tensor 7 (cel 384) 8 64), (8, tensor 0x0F (cel 448) 8 32),
    (9, tensor 4 (cel 512) 64 64), (10, tensor 4 (cel 576) 64 64), (11, tensor 4 (cel 640) 64 64), (12, tensor 4 (cel 704) 64 64),
    (13, tensor 7 (cel 768) 16 128), (14, tensor 4 (cel 1024) 1024 1024), (15, tensor 4 (cel 2048) 128 128),
    (18, tensor 4 (cel 4096) 1024 1024), (19, tensor 5 (cel 5120) 1 2), (20, tensor 4 (cel 5184) 64 64),
    (21, tensor 4 (cel 5248) 64 64), (22, tensor 4 (cel 5312) 64 64)].foldl (fun w h => w.setSlot 0 h.1 ⟨.valid, h.2⟩) w
  let w := (w.writeLE (cel 128) 16 (entry 1 + 0xFFFF * 2 ^ 64)).writeLE (cel 192) 16 (entry 5 + entry 1 * 2 ^ 64)
  let w := w.writeLE (cel 512) 64 (fields [(0, 8), (128, 0x4000), (480, 14)])
  let w := (w.writeLE (cel 576) 12 (fields [(0, 9), (16, 1), (32, entry 1)])).writeLE (cel 640) 12
    (fields [(0, 9), (16, 1), (19, 1), (32, entry 1)])
  let w := w.writeLE (cel 704) 64 (fields [(160, 0xFFFF)])
  let w := w.writeLE (cel 2048) 128 (fields [(8, 1), (20, 1), (32, 4), (64, 1000), (320, 0x8000 + 0x10000 * 2 ^ 33)])
  let w := (w.writeLE (cel 4096) 12 (fields [(64, 7)])).writeLE (cel 5120) 2 18
  let w := (w.writeLE (cel 5184) 16 (fields [(0, 21), (16, 2), (32, 7), (64, 1)])).writeLE (cel 5312) 8 (entry 7)
  let i : PlanImage := ⟨65535, [], [], [], [⟨15⟩], [], ⟨0, 0⟩, [], [], [], [], [], [], [], [], [], [], []⟩
  w.setPlan 0 { w.plan 0 with image := some i }

/-- The record that a call reads at address 64 of its local memory. -/
def called (r : Rec) : State := opTable.on fun w => w.writeLE (gcWindow 0 0 + 64) 64 r.toNat

/-- Core (0, 0) runs and reads a record whose OP is one of those that the statements name. -/
def taken (r : Rec) (op : Nat) : Bool :=
  (called r).work.coreRuns 0 0 && decide ((called r).work.callRecord 0 0 64 64 64 = some (toBytes 64 r.toNat)) &&
    decide (recF (again r) 7 0 = op)

/-- An operator record: OP, MODE, NCOL, IN, AUX, SEL, OUT, ARG0. -/
def opRec (op mode ncol inp aux sel out arg0 : Nat) : Rec := record [(0, op), (8, mode), (16, ncol), (32, inp),
  (48, aux), (64, sel), (80, out), (96, 0xFFFF), (112, 0xFFFF), (128, arg0)]

/-- Whether the plan of a call that the core makes goes; none where it makes no call of its OP. -/
def planned (f : Work → OpRec → OpPlan) (op : Nat) (r : Rec) : Option Bool :=
  if taken r op then some (goes (f (called r).work (OpRec.ofRec (again r)))) else none

/-- The plans of the six calls without effects of their own, over some rows. -/
def sixPlans (n : Nat) : List (Option Bool) :=
  [planned (fun w => w.filterPlan 0 0 0 n) 0xA1 (opRec 0xA1 0 1 3 0xFFFF 0xFFFF 2 0),
   planned (fun w => w.probePlan 0 0 0 n) 0xA3 (opRec 0xA3 2 1 3 11 2 6 0),
   planned (fun w => w.gatherPlan 0 0 0 n) 0xA4 (opRec 0xA4 0 2 4 0xFFFF 0xFFFF 7 0),
   planned (fun w => w.bucketizePlan 0 0 0 n) 0xA5 (opRec 0xA5 0 1 3 13 0xFFFF 6 0),
   planned (fun w => w.normalisePlan 0 0 0 n) 0xA6 (opRec 0xA6 0 1 3 12 0xFFFF 8 0),
   planned (fun w => w.hashFeaturePlan 0 0 0 n) 0xA7 (opRec 0xA7 0 1 3 0xFFFF 0xFFFF 6 5)]

/-- The plans of the calls that have effects, over some rows; FINISH takes a key column where it must not. -/
def fourPlans (n bad : Nat) : List (Option Bool) :=
  [planned (fun w => (w.effecting 0 0).2.buildPlan 0 0 0 n (make := (w.effecting 0 0).1)) 0xA2 (opRec 0xA2 0 0 0xFFFF 10 0xFFFF 0xFFFF 0),
   planned (fun w => (w.effecting 0 0).2.buildPlan 0 0 0 n (make := (w.effecting 0 0).1)) 0xA2 (opRec 0xA2 1 0 bad 11 0xFFFF 0xFFFF 0),
   planned (fun w => (w.effecting 0 0).2.buildPlan 0 0 0 n (make := (w.effecting 0 0).1)) 0xA2 (opRec 0xA2 2 0 bad 11 0xFFFF 0xFFFF 0),
   planned (fun w => (w.effecting 0 0).2.windowPlan 0 0 0 n (make := (w.effecting 0 0).1)) 0xA8 (opRec 0xA8 2 2 4 15 0xFFFF 0xFFFF 0)]

theorem wit_OperatorCalls : sixPlans 8 = List.replicate 6 (some true) ∧ fourPlans 8 0xFFFF = List.replicate 4 (some true) := by
  decide +kernel

/-- Each call fails its checks over no rows, FINISH and CLEAR with columns given. -/
theorem wit_OperatorFailures : sixPlans 0 = List.replicate 6 (some false) ∧ fourPlans 0 3 = List.replicate 4 (some false) := by
  decide +kernel

/-- A selection record: OP, NLIST, KEY, OUT, INLIST, K. -/
def selRec (op nlist key out inlist k : Nat) : Rec := record [(0, op), (16, nlist), (32, key), (48, 0xFFFF),
  (64, out), (80, inlist), (128, k)]

/-- An ingest record: OP, IN, AUX, OUT. -/
def ingRec (op inp aux out : Nat) : Rec := record [(0, op), (32, inp), (48, aux), (64, 0xFFFF), (80, out)]

/-- Whether the plan of a selection call goes. -/
def selected (f : Work → SelRec → OpPlan) (op : Nat) (r : Rec) : Option Bool :=
  if taken r op then some (goes (f (called r).work (SelRec.ofRec (again r)))) else none

/-- Whether the plan of an ingest call goes. -/
def ingested (f : Work → IngRec → IngPlan) (op : Nat) (r : Rec) : Option Bool :=
  if taken r op then some (match f (called r).work (IngRec.ofRec (again r)) with
    | .go _ => true
    | _ => false) else none

theorem wit_Selections :
    [selected (fun w => w.selectPlan 0 0 0 8) 0xC1 (selRec 0xC1 0 3 18 0xFFFF 0),
     selected (fun w => w.selectPlan 0 0 0 8) 0xC2 (selRec 0xC2 0 3 18 0xFFFF 4),
     selected (fun w => w.mergePlan 0 0 0) 0xC3 (selRec 0xC3 1 0xFFFF 18 19 0)] = List.replicate 3 (some true) ∧
    [selected (fun w => w.selectPlan 0 0 0 0) 0xC1 (selRec 0xC1 0 3 18 0xFFFF 0),
     selected (fun w => w.selectPlan 0 0 0 8) 0xC2 (selRec 0xC2 0 3 18 0xFFFF 4097),
     selected (fun w => w.mergePlan 0 0 1) 0xC3 (selRec 0xC3 1 0xFFFF 18 19 0)] = List.replicate 3 (some false) := by decide +kernel

theorem wit_Ingest :
    ingested (fun w => w.arrowPlan 0 0 0 8) 0xF1 (ingRec 0xF1 3 0xFFFF 0xFFFF) = some true ∧
    ingested (fun w => w.arrowPlan 0 0 0 0) 0xF1 (ingRec 0xF1 3 0xFFFF 0xFFFF) = some false ∧
    ingested (fun w => w.parquetPlan 0 0 0 0) 0xF2 (ingRec 0xF2 0xFFFF 20 22) = some false := by decide +kernel

theorem wit_Parquet : ingested (fun w => w.parquetPlan 0 0 0 1) 0xF2 (ingRec 0xF2 0xFFFF 20 22) = some true := by decide +kernel

theorem wit_Orders : (Fmt.fp64.decode 0x3FF0000000000000).isNan = false ∧ keyFlt 0x10 = true ∧ keyFlt 7 = false ∧
    (⟨0x3FF0000000000000, 1⟩ : SEnt).id_ ≠ (⟨0x3FF0000000000000, 2⟩ : SEnt).id_ := by decide +kernel

/-- R333's example: the hash it supposes gives index 610264 of N = 1,000,000. -/
theorem test_hash_feature_example : vhRange 0x9C3A51E70B2D6F48 1000000 = 610264 := by decide +kernel

/-! ## Embedding tables -/

/-- A table declaration: 100 rows of four FP32 elements, SGD, one device in the set at an address, eight slots of an area of
its own from an address of the cellar on. -/
def embCfg (id_ replaceable set area : Nat) : Nat :=
  fields [(0, id_), (12, 0x0F), (17, replaceable), (18, 1), (32, 1), (64, 100), (192, 1), (256, set), (320, 8), (384, 0x200000 + area),
    (448, area + cel 1024), (512, area + cel 2048), (704, 4), (736, 1), (864, 1)]

/-- A table attached with these accumulators. -/
def embTable (id_ replaceable set area : Nat) (acc : List EmbAcc) : EmbTable :=
  ⟨embCfg id_ replaceable set area, 16, id_, 0, false, [], acc, 0⟩

/-- Tables 5 and 6, the second replaceable, are of this device; table 7 is of device 7. Row 3 of table 5 and its number in the
directory are there. The descriptors of coreUp's plan: 1 indices, 2 offsets, 3 pooled rows. -/
def embUp : State := coreUp.on fun w =>
  let w := [(1, tensor 0x17 (cel 4096) 8 32), (2, tensor 0x17 (cel 4160) 4 16), (3, table2 0x0F (cel 4224) 4 2 32)].foldl
    (fun w h => w.setSlot 0 h.1 ⟨.valid, h.2⟩) w
  let w := ((w.wr F.timeTickPeriodPeriodNs 0 0 8000).write 0x200000 (List.replicate 64 0xFF)).write 0x200100 (List.replicate 64 0xFF)
  let w := w.writeLE (cel 64) 2 7
  let w := { w with emb := { w.emb with tables := [embTable 5 0 (cel 0) 0 [], embTable 6 1 (cel 0) 0x100 [],
    embTable 7 0 (cel 64) 0x200 []] } }
  match w.insertRow (embTable 5 0 (cel 0) 0 []) 3 (toBytes 16 1) 0 with
  | some w => w
  | none => w

/-- An embedding record: OP, table, COUNT. -/
def embRec (op table pool offs count : Nat) : Rec := record [(0, op), (8, pool), (16, table), (32, 1), (48, offs), (64, 3),
  (96, count), (288, 0)]

/-- The record that the core reads. -/
def embCalled (r : Rec) : State := embUp.on fun w => w.writeLE (gcWindow 0 0 + 64) 64 r.toNat

/-- Whether the core takes a record for one of an OP. -/
def embTaken (op : Nat) (r : Rec) : Bool := (embCalled r).work.coreRuns 0 0 &&
  decide ((embCalled r).work.callRecord 0 0 64 64 64 = some (toBytes 64 r.toNat)) &&
  decide ((EmbRec.ofRec (again r)).op = op)

/-- A LOOKUP's checks: whether it has its three objects, and its failures. -/
def lookupOf (r : Rec) : Bool × List Nat :=
  match (embCalled r).work.lookupChecked 0 (EmbRec.ofRec (again r)) with
  | (t, i, o, fs) => (t.isSome && i.isSome && o.isSome, fs)

/-- Whether an UPDATE's plan goes. -/
def updateOf (r : Rec) : Bool :=
  let x := (embCalled r).work.effecting 0 0
  goes (x.2.updatePlan 0 0 (EmbRec.ofRec (again r)) x.1)

theorem wit_EmbeddingCalls :
    embTaken 0xD1 (embRec 0xD1 5 0 2 2) = true ∧ lookupOf (embRec 0xD1 5 0 2 2) = (true, []) ∧
    embTaken 0xD1 (embRec 0xD1 5 3 2 2) = true ∧ (lookupOf (embRec 0xD1 5 3 2 2)).2 ≠ [] ∧
    embTaken 0xD2 (embRec 0xD2 5 0 0xFFFF 2) = true ∧ updateOf (embRec 0xD2 5 0 0xFFFF 2) = true ∧
    embTaken 0xD2 (embRec 0xD2 5 1 0xFFFF 2) = true ∧ updateOf (embRec 0xD2 5 1 0xFFFF 2) = false ∧
    embUp.work.planOf (.core 0 0) = 0 := by decide +kernel

/-- An embedding message: table, device, part, tick, count, tag, and the entries after its header. -/
def embMsg (table dev part tick count tag : Nat) (es : List Byte) : List Byte := (EmbHdr.mk table 0 dev part 1 tick count tag).bytes ++ es

/-- Two rows of part 1 of tag 9 and one of part 2 are outstanding since tick 0, in a tick, and a call waits for them. -/
def embParts (tick : Nat) : State := embUp.on fun w =>
  { w.wr F.timeTickCountCount 0 0 tick with emb := { w.emb with
    parts := [⟨0, 9, 1, [(0, 2)], 0⟩, ⟨0, 9, 2, [(1, 1)], 0⟩]
    calls := [{ core := 0, plan := 0, table := 5, pool := 2, data := 3, count := 2, stats := 0, nulls := 0, fails := [], bags := [] }] } }

/-- An EMB_POOLED with one record of some rows. -/
def pooledMsg (part rows : Nat) : List Byte := embMsg 5 7 part 0 1 9 (toBytes 8 (rows * 2 ^ 24) ++ toBytes 16 0)

theorem wit_EmbeddingParts :
    (Instr.lookupPartTimeout 0).wf = true ∧ (embParts 1).emb.parts[0]? = some ⟨0, 9, 1, [(0, 2)], 0⟩ ∧
    ((embParts 2).work.lookupCall? 0).map (·.table) = some 5 ∧ ((embParts 2).work.table? 5).isSome = true ∧
    (∃ q ∈ (embParts 2).emb.parts.eraseIdx 0, q.core = 0) ∧
    State.reset.emb.parts.any (fun p => decide (p.tag = (EmbHdr.ofBytes (pooledMsg 1 1)).tag)) = false ∧
    (embParts 1).work.tickNo < 0 + 2 ∧ 0 + 2 ≤ (embParts 2).work.tickNo ∧
    (∀ x ∈ [(1, 1), (1, 2), (2, 1)], (Instr.embPooled (hdr 2 0x32 56 7 0 0) (pooledMsg x.1 x.2)).wf = true ∧
      TakenHere 2 0x32 (hdr 2 0x32 56 7 0 0) (embParts 1)) ∧
    ((EmbHdr.ofBytes (pooledMsg 1 1)).table = 5 ∧ (EmbHdr.ofBytes (pooledMsg 1 1)).part = 1 ∧ (EmbHdr.ofBytes (pooledMsg 2 1)).part = 2 ∧
      (EmbHdr.ofBytes (pooledMsg 1 1)).tag = 9 ∧ (EmbHdr.ofBytes (pooledMsg 1 1)).count = 1) ∧
    ((embParts 1).work.table? 5).isSome = true ∧
    (fieldOf (leAt (pooledMsg 1 1) 32 8) 24 24 = 1 ∧ fieldOf (leAt (pooledMsg 1 2) 32 8) 24 24 = 2) := by
  unfold TakenHere; decide +kernel

/-- A TABLE_ATTACH for table 8, of a record. -/
def attachHdr : KHdr := hdr 3 0x07 128 0 0 0

/-- Whether a record attaches: its object resolves, its table is not there, and it fails no check. -/
def attaches (rows : Nat) : Option (Bool × List Nat) :=
  let x := embCfg 8 0 (cel 0) 0x300 - (100 - rows) * 2 ^ 64
  (embUp.work.resolve objTable (fieldOf x 0 12) 0 attachHdr).map (fun w => (w.sameTable x || decide (w.devState = stRest), w.attachFails firmwareTable x))

/-- An EMB_LOOKUP for one row of a table. -/
def lookupMsg (table row : Nat) : List Byte := embMsg table 7 0 0 1 9 (toBytes 8 row)

/-- The first of two frames of one lookup batch. -/
def lookupHalf : List Byte := (EmbHdr.mk 5 0 7 0 2 0 1 9).bytes ++ toBytes 8 3

/-- Where a lookup of a row of an attached table goes. -/
def routed (table row : Nat) : Option (Option Nat) := (embUp.work.table? table).map (fun t => (embUp.work.lookupRoute t row 0).2)

/-- An EMB_UPDATE with one gradient. -/
def updateMsg (table row : Nat) : List Byte := embMsg table 7 0 0 1 0 (toBytes 8 row ++ toBytes 16 1)

theorem wit_EmbeddingTablesAndMessages :
    (Instr.tableAttach attachHdr (toBytes 128 (embCfg 8 0 (cel 0) 0x300))).wf = true ∧ OrderHere 0x07 attachHdr embUp ∧
    (ofBytes (toBytes 128 (embCfg 8 0 (cel 0) 0x300)) = embCfg 8 0 (cel 0) 0x300 ∧ attaches 100 = some (false, []) ∧
      fieldOf (embCfg 8 0 (cel 0) 0x300) 64 41 ≠ 0) ∧
    (embUp.on fun w => w.wr F.rstStateState 0 0 stRest).work.devState = stRest ∧
    ((embUp.on fun w => w.wr F.rstStateState 0 0 stRest).work.table? 5).isSome = true := by
  unfold OrderHere TakenHere; decide +kernel

theorem wit_EmbeddingRequests :
    (∀ x ∈ [5, 7, 9], (Instr.embLookup (hdr 1 0x31 40 7 0 0) (lookupMsg x 3)).wf = true ∧ TakenHere 1 0x31 (hdr 1 0x31 40 7 0 0) embUp ∧
      (EmbHdr.ofBytes (lookupMsg x 3)).table = x ∧ (EmbHdr.ofBytes (lookupMsg x 3)).count = 1) ∧
    ((embUp.work.table? 9).isNone = true ∧ routed 5 3 = some none ∧ routed 7 3 = some (some 7) ∧
      embUp.work.batch? 7 9 = none ∧ (EmbHdr.ofBytes (lookupMsg 5 3)).parts = 1 ∧ 1 < (EmbHdr.ofBytes lookupHalf).parts ∧
      (Instr.embLookup (hdr 1 0x31 40 7 0 0) lookupHalf).wf = true ∧
      (embUp.work.table? 5).all (fun t => decide (t.serves ≤ embUp.work.tickNo)) = true ∧ embUp.work.devState ≠ stRest) ∧
    (∀ x ∈ [5, 9], (Instr.embUpdate (hdr 0 0x33 56 7 0 0) (updateMsg x 3)).wf = true ∧ TakenHere 0 0x33 (hdr 0 0x33 56 7 0 0) embUp ∧
      (EmbHdr.ofBytes (updateMsg x 3)).table = x) := by
  unfold TakenHere; decide +kernel

/-- Gradients of n rows of epoch 0 are in the accumulator of table 5, whose UPD_CAP is 4. -/
def accTable (n : Nat) : EmbTable := embTable 5 0 (cel 0) 0 ((List.range n).map (fun k => ⟨0, k, [[1, 0, 0, 0]], k⟩))

theorem wit_Accumulate :
    ((accTable 1).acc.find? (fun a => decide (a.epoch = 0) && decide (a.row = 0))).isSome = true ∧
    (accTable 3).acc.find? (fun a => decide (a.epoch = 0) && decide (a.row = 9)) = none ∧
    ((accTable 3).acc.filter (fun a => a.epoch = 0)).length < (accTable 3).updCap ∧
    (accTable 4).updCap ≤ ((accTable 4).acc.filter (fun a => a.epoch = 0)).length := by decide +kernel

/-- The header of a ROW_REPLACE or ROW_MIGRATE. -/
def rowHdr (typ len : Nat) : KHdr := hdr 3 typ len 0 0 0

/-- The payload of a ROW_REPLACE of a row of a table with four elements. -/
def rowMsg (table row : Nat) : List Byte := toBytes 8 table ++ toBytes 8 row ++ toBytes 4 0 ++ toBytes 16 7

/-- A replacement of row 3 waits in every table, and its migration is under way. -/
def rowBusy : State := embUp.on fun w => { w with emb := { w.emb with
  migs := [⟨5, 3, 7, 2, rowHdr 9 16, 0, sOk, 0⟩] } }

/-- What a ROW_REPLACE of a row meets: whether this device owns the row, and its failures. -/
def replaced (s : State) (table row : Nat) : Option (Bool × List Nat) :=
  (s.work.resolve objRow table row (rowHdr 8 36)).bind (fun v => (v.table? table).map (fun t =>
    ((v.ownerOf t row).1.ownId (v.ownerOf t row).2 && !decide (v.devState = stRest), (v.ownerOf t row).1.replaceFails t row)))

/-- What a ROW_MIGRATE of a row meets: whether this device owns it, and its failures. -/
def migrated (s : State) (table row dest : Nat) : Option (Bool × List Nat) :=
  (s.work.resolve objRow table row (rowHdr 9 16)).bind (fun v => (v.table? table).map (fun t =>
    ((v.ownerOf t row).1.ownId (v.ownerOf t row).2 && !decide (v.devState = stRest), (v.ownerOf t row).1.migrateFails t row dest (2 ^ 512 - 1))))

theorem wit_RowCommands :
    (∀ x ∈ [5, 6, 7], (Instr.rowReplace (rowHdr 8 36) (rowMsg x 3)).wf = true ∧ (rowMsg x 3).length = 20 + 16 ∧
      leAt (rowMsg x 3) 0 8 = x ∧ leAt (rowMsg x 3) 8 8 = 3) ∧
    OrderHere 0x08 (rowHdr 8 36) embUp ∧ OrderHere 0x08 (rowHdr 8 36) rowBusy ∧
    replaced embUp 5 3 = some (true, []) ∧ replaced embUp 6 3 = some (true, []) ∧ (replaced embUp 7 3).map (·.1) = some false ∧
    replaced rowBusy 5 3 = some (true, [sState]) := by
  unfold OrderHere TakenHere; decide +kernel

/-- Tables 5 and 7 are attached over one set of two devices: this one and device 7. -/
def embTwo : State := embUp.on fun w =>
  let w := w.wr F.fabEmbCfgOvrCount 0 0 1
  let t : EmbTable := ⟨fields [(0, 8), (12, 0x0F), (18, 1), (32, 1), (64, 100), (192, 2), (256, cel 62), (320, 8), (384, 0x200300),
    (448, cel 1024 + 0x300)], 16, 8, 0, false, [], [], 0⟩
  let w := { w.write 0x200300 (List.replicate 64 0xFF) with emb := { w.emb with tables := w.emb.tables ++ [t] } }
  match w.insertRow t 3 (toBytes 16 1) 0 with
  | some w => w
  | none => w

/-- The payload of a ROW_MIGRATE. -/
def migrateMsg (table row dest : Nat) : List Byte := toBytes 8 table ++ toBytes 6 row ++ toBytes 2 dest

theorem wit_RowMigrate :
    (∀ x ∈ [7, 0], (Instr.rowMigrate (rowHdr 9 16) (migrateMsg 8 3 x) 100).wf = true ∧ (migrateMsg 8 3 x).length = 16 ∧
      leAt (migrateMsg 8 3 x) 0 8 = 8 ∧ leAt (migrateMsg 8 3 x) 8 5 = 3 ∧ leAt (migrateMsg 8 3 x) 13 1 = 0 ∧
      leAt (migrateMsg 8 3 x) 14 2 = x) ∧
    (rowHdr 9 16).cls = 3 ∧ (rowHdr 9 16).typ = 9 ∧ (rowHdr 9 16).dstSess = 0 ∧
    (let w := embTwo.work.atNs 100
     w.isMirror = false ∧ w.ownId (rowHdr 9 16).dstDev = true ∧ w.authorised (rowHdr 9 16) = true) ∧
    migrated (embTwo.on fun w => w.atNs 100) 8 3 7 = some (true, []) ∧
    migrated (embTwo.on fun w => w.atNs 100) 8 3 0 = some (true, [sState]) := by decide +kernel

/-- An EMB_COPY of a row of table 5, with its elements and state. -/
def copyMsg (row : Nat) : List Byte := embMsg 5 7 0 1 1 9 (toBytes 8 row ++ toBytes 16 7 ++ toBytes 4 0)

/-- The directory of table 5 is full of other rows. -/
def embFull : State := embUp.on fun w => w.write 0x200000 (toBytes 64 (fields ((List.range 8).map (fun k => (64 * k, k + 20)))))

theorem wit_RowCopies :
    (Instr.embCopy (hdr 0 0x34 60 7 0 0) (copyMsg 4)).wf = true ∧ TakenHere 0 0x34 (hdr 0 0x34 60 7 0 0) embUp ∧
    TakenHere 0 0x34 (hdr 0 0x34 60 7 0 0) embFull ∧ embUp.work.devState ≠ stRest ∧
    ((EmbHdr.ofBytes (copyMsg 4)).table = 5 ∧ leAt (copyMsg 4) 32 5 = 4) ∧
    ((embUp.work.table? 5).bind (fun t => embUp.work.insertRow t 4 (slice (copyMsg 4) 40 t.rowBytes) 0)).isSome = true ∧
    (embFull.work.table? 5).isSome = true ∧
    ((embFull.work.table? 5).bind (fun t => embFull.work.insertRow t 4 (slice (copyMsg 4) 40 t.rowBytes) 0)).isNone = true := by
  unfold TakenHere; decide +kernel

/-- Row 3 of table 5 migrates, in a phase of it and at a tick; a copy of row 4 of table 5 has come in. -/
def migrating (phase tick : Nat) : State := embUp.on fun w =>
  { w.wr F.timeTickCountCount 0 0 tick with emb := { w.emb with
    migs := [⟨5, 3, 7, 2, rowHdr 9 16, phase, sOk, 0⟩]
    incoming := [{ table := 5, row := 4, tick := 1, confirmed := false }] } }

/-- An EMB_OVERRIDE for row 4 of table 5. -/
def overrideMsg : List Byte := embMsg 5 7 0 1 1 0 (toBytes 8 4)

theorem wit_MigrationSteps :
    (Instr.embOverride (hdr 1 0x35 40 7 0 0) overrideMsg).wf = true ∧ TakenHere 1 0x35 (hdr 1 0x35 40 7 0 0) (migrating 0 0) ∧
    ({ table := 5, row := 4, tick := 1, confirmed := false } ∈ (migrating 0 0).emb.incoming ∧ (EmbHdr.ofBytes overrideMsg).table = 5 ∧ leAt overrideMsg 32 5 = 4) ∧
    (Instr.migrateAck 5 3 true).wf = true ∧
    (∀ x ∈ [(1, 3), (1, 1), (2, 3), (3, 5), (3, 4)], ((migrating x.1 x.2).work.mig? 5 3) =
        some ⟨5, 3, 7, 2, rowHdr 9 16, x.1, sOk, 0⟩ ∧ ((migrating x.1 x.2).work.table? 5).isSome = true) ∧
    (migrating 1 3).work.guardPast 2 = true ∧ (migrating 1 1).work.guardPast 2 = false ∧
    (migrating 1 3).work.mig? 5 4 = none ∧ ((migrating 1 3).work.incoming? 5 4).map (fun i => (i.confirmed, i.stored)) =
      some (false, true) ∧ (migrating 1 3).work.guardPast 1 = true ∧ (migrating 1 0).work.guardPast 1 = false ∧ 2 + 3 ≤ (migrating 3 5).work.tickNo ∧
    (migrating 3 4).work.tickNo < 2 + 3 := by unfold TakenHere; decide +kernel

/-! ## Decanters, presses and the frame path -/

/-- The handles of a job in a table: 1 the source, 2 the destination, 3 the destination of a frame job. -/
def jobSlots : List (Nat × Rec) :=
  [(1, tensor 4 (cel 0) 64 64), (2, tensor 4 (cel 64) 64 64),
   (3, record [(0, cel 128), (55, 4), (60, 4), (63, 1), (64, cel 128), (116, 16), (164, 1), (190, 1), (222, 4), (248, 1), (280, 4),
    (306, 4), (338, 1), (364, 16)])]

/-- Descriptors of jobs in the tables of firmware and of plan 0, whose task core (0, 0) runs. -/
def jobUp : State := withSlots jobSlots (coreUp.on fun w =>
  jobSlots.foldl (fun w h => w.setSlot 0 h.1 ⟨.valid, h.2⟩) w)

/-- A job record: OP, LEVEL, ASYNC, DST. -/
def jobRec (op level async dst : Nat) : Rec := record [(0, op), (12, level), (20, async), (32, 1), (48, dst), (64, 0xFFFF)]

/-- The record that a unit is given: a DECODE or an ENCODE. -/
def jobOf (press : Bool) (async dst : Nat) : Rec := if press then jobRec 0xE2 1 async dst else jobRec 0xE1 0 async dst

/-- A job that a unit has. -/
def oneJob (press : Bool) : Job := { rec_ := jobOf press 1 2, core := none, waits := false, plan := 16, limit := 0, skip := false }

/-- Both units of die 0 with these jobs and lanes. -/
def codecIs (queue : List Job) (lanes : List (Nat × Job)) (out : List Nat) : State := jobUp.on fun w =>
  (w.setCodec 0 false ⟨queue, [], lanes, out⟩).setCodec 0 true ⟨queue, [], lanes, out⟩

theorem wit_JobSubmissions : [true, false].all (fun press =>
    decide ((jobUp.work.jobChecks (jobUp.work.planOf (.firmware 0 0)) (JobRec.ofRec (jobOf press 1 2)) press).2.2 = []) &&
    decide ((jobUp.work.jobChecks (jobUp.work.planOf (.firmware 0 0)) (JobRec.ofRec (jobOf press 1 1)) press).2.2 ≠ []) &&
    decide ((jobUp.work.codec 0 press).queue.length < 256) && decide ((jobUp.work.codec 0 press).out.length ≠ laneCount press) &&
    decide (((codecIs [] [] (List.range (laneCount press))).work.codec 0 press).out.length = laneCount press) &&
    decide (256 ≤ ((codecIs (List.replicate 256 (oneJob press)) [] []).work.codec 0 press).queue.length) &&
    decide ((jobUp.work.codec 0 press).blocked = []) &&
    decide (((jobUp.work.setCodec 0 press ⟨[], [oneJob press], [], []⟩).codec 0 press).blocked ≠ [])) = true := by
  decide +kernel

theorem wit_JobCalls : jobUp.work.coreRuns 0 0 = true ∧ jobUp.work.callRecord 0 0 3 64 64 = none ∧
    [true, false].all (fun press => [0, 1].all (fun async =>
      let r := jobOf press async 2
      let s := recIn r jobUp
      reads r s && decide ((JobRec.ofRec r).op = 0xE2) == press && decide ((JobRec.ofRec r).async = decide (async = 1)) &&
      decide ((s.work.jobChecks (s.work.planOf (.core 0 0)) (JobRec.ofRec (resolveJobComp (.core 0 0) r)) press).2.2 = []))) = true := by
  decide +kernel

theorem wit_JobsComplete : [true, false].all (fun press =>
    let x := (codecIs [] [(1, oneJob press)] [0]).work.codec 0 press
    (x.lanes.find? (fun e => decide (e.1 = 0))).isNone && (x.lanes.find? (fun e => decide (e.1 = 1))).isSome &&
    decide (0 ∈ x.out) && decide (1 ∉ x.out)) = true := by decide +kernel

theorem wit_StoredBlockDecodes : (toBytes 2 7).length ≤ 65535 ∧ (toBytes 2 7).length ≤ 64 ∧ 1 ≤ 1024 ∧
    (2 = 0 ∨ 2 = (toBytes 2 7).length) := by decide +kernel

/-- A frame job of GRAY8, 4 by 4, ASYNC or not. -/
def frameRec (async : Nat) : Rec := record [(0, 0xE8), (18, async), (19, 4), (32, 1), (48, 3), (64, 0xFFFF), (80, 0xFFFF), (96, 4),
  (112, 4), (128, 4), (192, 4), (208, 4), (224, 4), (240, 4)]

/-- The frame path with these jobs. -/
def frameIs (queue : List Job) (lanes : List (Nat × Job)) (out : List Nat) : State := jobUp.on fun w => w.setFrm ⟨queue, [], lanes, out⟩

/-- A frame job of plan 0. -/
def frameJob : Job := { rec_ := frameRec 1, core := none, waits := false, plan := 0, limit := 0, skip := false }

theorem wit_FrameJobs : [0, 1].all (fun async =>
      let r := frameRec async
      let s := recIn r jobUp
      reads r s && decide ((FrmRec.ofRec r).async = decide (async = 1)) && decide (s.field.frm.queue.length < 64) &&
      decide (s.field.frm.out = []) &&
      decide (s.work.frmChecks (s.work.planOf (.core 0 0)) (FrmRec.ofRec (resolveFrmComp (.core 0 0) r)) = [])) = true ∧
    reads (frameRec 1) (recIn (frameRec 1) (frameIs (List.replicate 64 frameJob) [] [])) = true ∧
    64 ≤ (frameIs (List.replicate 64 frameJob) [] []).field.frm.queue.length ∧
    (jobUp.work.setFrm ⟨[], [frameJob], [], []⟩).field.frm.blocked ≠ [] ∧
    jobUp.field.frm.lanes = [] ∧ (frameIs [frameJob] [(0, frameJob)] []).field.frm.lanes = [(0, frameJob)] ∧
    ((frameIs [frameJob] [(0, frameJob)] []).work.setFrm ⟨[frameJob], [], [], []⟩).field.frm.blocked = [] := by decide +kernel

/-! ## Field capture -/

/-- Stream 3 is enabled with a ring of four slots of 128 bytes; its newest record is 5 if one has come. Port 1 has a link. -/
def fieldUp (newest : Option Nat) : State := mk fun w => (w.wr F.fldStatLinkUp 0 1 1).setFstream 3
  ⟨fields [(0, 1), (32, 4), (64, cel 0), (116, 2)], newest, 0, [], none, 0, []⟩

/-- A frame of an EtherType with one record of eight bytes: stream, sequence number, and the reserved bits of its header. -/
def fieldFrame (et stream seq bad : Nat) : List Byte := toBytesBE 6 0xFFFFFFFFFFFF ++ toBytesBE 6 2 ++ toBytesBE 2 et ++ toBytes 8 1 ++
  toBytes 32 (fields [(0, stream), (16, seq), (64, 1000), (139, bad), (144, 8)]) ++ toBytes 8 7

/-- The record of a frame. -/
def frameRecord (bytes : List Byte) : WireRec :=
  let body := bytes.drop 22
  ⟨leAt body 0 32, (body.drop 32).take (fieldOf (leAt body 0 32) 144 16)⟩

theorem wit_FieldRecords :
    (State.reset.work.rd F.fldStatLinkUp 0 1 = 0 ∧ (fieldUp none).work.rd F.fldStatLinkUp 0 1 = 1) ∧
    (let et := (fieldUp none).work.dv F.fldCfgEthertype
     let b := fieldFrame et 3 6 0
     b.length ≤ 9212 ∧ 9212 < (List.replicate 9213 (0 : Byte)).length ∧ ofBytesBE (slice (fieldFrame 0x0800 3 6 0) 12 2) ≠ et ∧ 0x0800 ≠ 0x88F7 ∧ ofBytesBE (slice b 12 2) = et ∧
     ofBytesBE (slice b 0 6) = 0xFFFFFFFFFFFF ∧ leAt (b.drop 14) 0 2 = 1 ∧
     32 + alignUp (fieldOf (leAt (b.drop 22) 0 32) 144 16) 8 ≤ (b.drop 22).length ∧ 22 ≤ b.length ∧
     (frameRecord (fieldFrame et 3 6 1)).malformed = true ∧ (frameRecord b).malformed = false ∧ (frameRecord b).stream = 3 ∧
     ((fieldUp none).work.fstream 4).on = false ∧ ((fieldUp none).work.fstream 3).on = true ∧
     (mk fun w => w.wr F.rstStateState 0 0 stRest).work.devState = stRest ∧ (fieldUp none).work.devState ≠ stRest ∧
     (∀ x ∈ [(some 6, false), (some 5, true), (none, true)],
       (((fieldUp x.1).work.fstream 3).highest.all (fun h => decide (h < (frameRecord b).seq))) = x.2) ∧
     ((frameRecord b).stored 1 900).length ≤ ((fieldUp none).work.fstream 3).slotBytes ∧
     ((fieldUp none).work.fstream 3).inGroup = false ∧ ((fieldUp none).work.fstream 3).frameBase = 0 ∧
     (fieldUp none).work.slotHeld 3 false 0 = false) := by decide +kernel

theorem wit_FieldPorts : State.reset.work.rd F.fldStatLinkUp 0 1 ≠ 1 ∧
    (let w := (fieldUp none).work.wr F.fldPortStatusMs 0 1 100
     w.rd F.fldStatLinkUp 0 1 = 1 ∧ w.rd F.fldPortStatusMs 0 1 ≠ 0) := by decide +kernel

/-- The clock of port 1 runs, with this clock. -/
def clockUp (x : FPtp) : State := mk fun w =>
  ((w.wr F.fldStatLinkUp 0 1 1).wr F.fldPtpState 0 1 ptpListening).setClock 1 x

/-- A message of master 9 in domain 0: its sequence number is 4. -/
def ptpMsg (two : Bool) : PtpMsg := ⟨0, 9, 4, two, 1, 5, 0, 3, -4⟩

theorem wit_PortClocks : (ptpMsg true).wf = true ∧ State.reset.work.ptpOn 1 = false ∧ (clockUp FPtp.atReset).work.ptpOn 1 = true ∧
    (clockUp FPtp.atReset).work.rd F.fldStatLinkUp 0 1 ≠ 0 ∧
    (State.reset.work.wr F.fldPtpState 0 1 ptpListening).rd F.fldStatLinkUp 0 1 = 0 ∧
    (ptpMsg true).domain = (clockUp FPtp.atReset).work.rd F.fldPtpDomain 0 1 ∧
    (ptpMsg true).domain ≠ ((clockUp FPtp.atReset).work.wr F.fldPtpDomain 0 1 7).rd F.fldPtpDomain 0 1 ∧
    ((clockUp FPtp.atReset).work.clock 1).master = none ∧
    (∀ b ∈ [2, 3, 4], ((clockUp { FPtp.atReset with master := some (8, b) }).work.clock 1).master = some (8, b) ∧ (8 : Nat) ≠ (ptpMsg true).source) ∧
    ((ptpMsg true).rank < 4 ∧ 2 ≤ (ptpMsg true).rank) ∧
    (clockUp FPtp.atReset).work.fromMaster 1 (ptpMsg true) = false ∧
    (let s := clockUp ⟨some (9, 3), some (4, 1000), some (4, 7, 8, 9), none, 0, 0⟩
     (s.work.clock 1).master = some ((ptpMsg true).source, 3) ∧ s.work.fromMaster 1 (ptpMsg true) = true ∧
     (s.work.clock 1).sync = some ((ptpMsg true).seqId, 1000) ∧ (s.work.clock 1).lastReq = none ∧
     (s.work.clock 1).exch = some ((ptpMsg true).seqId, 7, 8, 9)) ∧
    (ptpMsg true).twoStep = true ∧ (ptpMsg false).twoStep = false := by decide +kernel

/-! ## Batches -/

/-- A pipeline's record: number 2, dense rows of eight bytes, four to a batch, slots of 256 bytes from the first byte of page 1
on; PUSH with its kind and device. -/
def pipeRec (slots push kind dev : Nat) : Rec := record [(0, 2), (7, push), (10, kind), (32, 4), (64, slots), (96, 256), (128, 0x200000),
  (192, 16), (352, dev), (384, 0x300000)]

/-- Pipeline 2 of plan 0 with these batches and waiters; core (0, 0) executes a task of the plan, in whose table 1 is a column
of row ids and 2 the rows. -/
def pipeUp (r : Rec) (next : Nat) (bs : List BBatch) (ws : List EmitCall) : State := coreUp.on fun w =>
  let w := (w.setSlot 0 1 ⟨.valid, tensor 7 (cel 0) 8 64⟩).setSlot 0 2 ⟨.valid, tensor 4 (cel 64) 64 64⟩
  ((w.wr F.timeTickPeriodPeriodNs 0 0 8000).wr F.rstStateState 0 0 stRunning).setPipe 2
    { Pipe.atReset with rec_ := r, plan := 0, nextSeq := next, batches := bs, waiters := ws }

/-- An emit record. -/
def emitRec : Rec := record [(0, 0x91), (8, 2), (16, 0xFFFF), (32, 1), (48, 0xFFFF), (64, 2)]

/-- A pipeline of two free slots, and one whose only slot is held. -/
def pipeFree : State := recIn emitRec (pipeUp (pipeRec 2 0 0 0) 0 [] [])
/-- A pipeline whose only slot is held. -/
def pipeHeld : State := recIn emitRec (pipeUp (pipeRec 1 0 0 0) 1 [⟨0, 4, 0, 0⟩] [])

/-- An emit of n rows made: whether its checks pass, before and after its types are fixed, and whether it finds no slot. -/
def emits (s : State) (n : Nat) : Option Bool :=
  let v := s.work.atNs 100
  let o := emitOp (again emitRec)
  let x := v.pipe o.mode
  match v.emitEnv (v.planOf (.core 0 0)) o 0 n with
  | (some e, []) =>
    let y := v.setPipe o.mode { x with types := some (x.types.getD (e.cols.map (fun k => k.ty.code))) }
    match y.emitEnv (v.planOf (.core 0 0)) o 0 n with
    | (some e2, []) => some (EAcc.run e2 o n { w := y, c := ⟨0, again emitRec, 0, 0, n, 0, 0, 0, 0, 0, 0, 0, []⟩ }).full
    | _ => none
  | _ => none

theorem wit_Emits :
    ([pipeFree, pipeHeld].all (fun s => reads emitRec s && decide ((s.work.atNs 100).callRecord 0 0 3 64 64 = none) &&
      decide ((s.work.atNs 100).callRecord 0 0 64 64 64 = some (toBytes 64 emitRec.toNat)) &&
      decide (((s.work.atNs 100).pipe (emitOp (again emitRec)).mode).waiters = []) &&
      ((s.work.atNs 100).runningTask 0 0).all (fun q => decide (((s.work.atNs 100).journalOf q.serial).calls ≤
        ((s.work.atNs 100).journalOf q.serial).made) && ((s.work.atNs 100).journalOf q.serial).emitRow.isNone) &&
      decide ((s.work.atNs 100).phase < guardStart (s.work.atNs 100).period))) = true ∧
    emits pipeFree 2 = some false ∧ emits pipeHeld 2 = some true ∧ emits pipeFree 0 = none ∧
    ((pipeFree.work.atNs 100).emitEnv 0 (emitOp (again emitRec)) 0 0).2 ≠ [] := by decide +kernel

/-- An accumulator of an emit at row 0. -/
theorem wit_EmittedRows : ({ w := pipeFree.work, c := ⟨0, emitRec, 0, 0, 2, 0, 0, 0, 0, 0, 0, 0, []⟩ } : EAcc).full = false ∧ 0 ≤ 2 := by
  decide

/-- A call of core (0, 0) that waits. -/
def emitWait : EmitCall := ⟨0, emitRec, 0, 0, 2, 0, 0, 0, 0, 0, 0, 0, []⟩

theorem wit_EmitWaits :
    (let free := pipeUp (pipeRec 2 0 0 0) 0 [] [emitWait]
     let held := pipeUp (pipeRec 1 0 0 0) 1 [⟨0, 4, 0, 0⟩] [emitWait]
     (pipeFree.work.pipe 2).waiters = [] ∧ (free.work.pipe 2).waiters = [emitWait] ∧ (held.work.pipe 2).rows = [] ∧
     (held.work.pipe 2).slotFree = false ∧ (free.work.pipe 2).slotFree = true ∧ free.work.phase < guardStart free.work.period ∧
     guardStart free.work.period ≤ (free.work.atNs 7950).phase ∧ ((free.on fun w => w.atNs 7950).work.pipe 2).waiters = [emitWait] ∧
     (pipeFree.work.takeWaiter 0).1 = none ∧ (free.work.takeWaiter 0).1 = some (2, emitWait)) := by decide +kernel

/-- Pipeline 2 with a READY batch, and one DELIVERED in tick 0, in a tick. -/
def pipeSent (push kind dev tick : Nat) : State := (pipeUp (pipeRec 2 push kind dev) 2 [⟨0, 4, 0, 0⟩, ⟨1, 3, 0, 0⟩] []).on fun w =>
  ((w.wr F.timeTickCountCount 0 0 tick).wr F.klPortStatusState 0 23 klUp).wr F.fabRoutePorts 0 7 (2 ^ 23)

/-- The payload of a BQ_FETCH of pipeline 2. -/
def fetchMsg (most ack : Nat) : List Byte := toBytes 16 (2 + most * 2 ^ 8 + ack * 2 ^ 64)

theorem wit_BatchesAreSentAgain :
    (∀ x ∈ [(1, 0), (16, 2 ^ 64 - 1)], (Instr.bqFetch (hdr 3 0x0A 16 0 0 0) (fetchMsg x.1 x.2)).wf = true ∧
      (fetchMsg x.1 x.2).length = 16 ∧ fieldOf (leAt (fetchMsg x.1 x.2) 0 16) 0 5 = 2 ∧ fieldOf (leAt (fetchMsg x.1 x.2) 0 16) 5 3 = 0 ∧
      fieldOf (leAt (fetchMsg x.1 x.2) 0 16) 13 51 = 0 ∧ fieldOf (leAt (fetchMsg x.1 x.2) 0 16) 8 5 ≤ 16) ∧
    OrderHere 0x0A (hdr 3 0x0A 16 0 0 0) (pipeSent 0 0 0 16) ∧ (pipeSent 0 0 0 16).work.devState ≠ stRest ∧
    (((pipeSent 0 0 0 16).work.pipe 2).plan ≠ noPlan ∧ ((pipeSent 0 0 0 16).work.pipe 2).push = false) ∧
    ((pipeSent 0 0 0 16).work.pipe 2).batches.find? (fun (b : BBatch) => b.seq = 0) = some ⟨0, 4, 0, 0⟩ ∧
    0 + 16 ≤ (pipeSent 0 0 0 16).work.tickNo ∧ (pipeSent 0 0 0 15).work.tickNo < 0 + 16 ∧
    ((pipeSent 0 0 0 15).work.pipe 2).batches.find? (fun (b : BBatch) => b.seq = 0) = some ⟨0, 4, 0, 0⟩ := by
  unfold OrderHere TakenHere; decide +kernel

/-- A BATCH_PART of pipeline 2: where it goes in a slot, and the slot's size. -/
def partMsg (off size : Nat) : List Byte := toBytes 32 (2 + 1 * 2 ^ 64 + off * 2 ^ 128 + size * 2 ^ 192) ++ toBytes 8 7

theorem wit_BatchDelivery :
    (pipeFree.work.pipe 2).ready = [] ∧ (pipeFree.work.pipe 2).push = false ∧
    (∀ x ∈ [(0, 0), (1, 0), (0, 7)], (((pipeSent 1 x.1 x.2 0).work.pipe 2).ready = [⟨1, 3, 0, 0⟩] ∧
      ((pipeSent 1 x.1 x.2 0).work.pipe 2).push = true)) ∧
    (((pipeSent 1 0 0 0).work.pipe 2).pushDev = (pipeSent 1 0 0 0).work.deviceId ∧ ((pipeSent 1 0 0 0).work.pipe 2).toSession = false) ∧
    (((pipeSent 1 1 0 0).work.pipe 2).toSession = true ∧ (pipeSent 1 1 0 0).work.ownBridge = (pipeSent 1 1 0 0).work.deviceId) ∧
    (((pipeSent 1 0 7 0).work.pipe 2).pushDev = 7 ∧ (pipeSent 1 0 7 0).work.usablePorts 7 clsData ≠ []) ∧
    (((pipeSent 1 0 8 0).work.pipe 2).pushDev = 8 ∧ (pipeSent 1 0 8 0).work.usablePorts 8 clsData = []) ∧
    ((pipeSent 1 0 0 0).work.read (((pipeSent 1 0 0 0).work.pipe 2).slotAt 1) 256).isSome = true ∧
    (∀ x ∈ [(64, 256), (249, 256), (64, 128)], (Instr.batchPart (hdr 0 2 40 5 0 0) (partMsg x.1 x.2)).wf = true) ∧
    TakenHere 0 2 (hdr 0 2 40 5 0 0) (pipeSent 0 0 0 0) ∧
    (fieldOf (leAt (partMsg 64 256) 0 32) 192 32 = 256 ∧ fieldOf (leAt (partMsg 64 256) 0 32) 128 64 + (40 - 32) ≤ 256 ∧
      256 < fieldOf (leAt (partMsg 249 256) 0 32) 128 64 + (40 - 32) ∧ fieldOf (leAt (partMsg 64 128) 0 32) 192 32 ≠ 256) := by
  unfold TakenHere; decide +kernel

/-! ## Twin pairs -/

/-- A module of a pair with partner 1: its role, the state of the pair, and the rest of its twin state. -/
def twinIs (role pair : Nat) (f : TwinSt → TwinSt) : State := mk fun w =>
  (((((w.wr F.twnStateRole 0 0 role).wr F.twnCfgEn 0 0 1).wr F.twnCfgPartner 0 0 1).wr F.twnStatePair 0 0 pair).wr
    F.timeTickPeriodPeriodNs 0 0 8000).setTwin f

/-- A TWIN header from the partner. -/
def twinHdr (typ len : Nat) : KHdr := hdr 5 typ len 1 0 0

/-- A HELLO: the device, the pair, ACTIVE, fresh. -/
def helloMsg (dev pair active fresh : Nat) : List Byte := toBytes 8 (fields [(0, dev), (9, pair), (17, active), (18, fresh)])

/-- Part k of a delta or a bulk copy. -/
def twinPart (epoch k : Nat) : List Byte := toBytes 9 epoch ++ toBytes 3 k ++ toBytes 4 0 ++ toBytes 8 7

/-- The end of a delta of n parts. -/
def twinEnd (epoch n crc : Nat) : List Byte := toBytes 8 epoch ++ toBytes 3 n ++ toBytes 1 0 ++ toBytes 4 crc

/-- An undecided module, and one of a decided pair. -/
def decided (b : Bool) (t : TwinSt) : TwinSt := { t with decided := b }

theorem wit_TwinHello :
    (twinHdr 1 8).wf = true ∧ (helloMsg 1 0 0 1).length = (twinHdr 1 8).len ∧ State.reset.work.paired = false ∧
    ((twinIs 0 0 id).work.paired = true ∧ (twinHdr 1 8).srcDev = (twinIs 0 0 id).work.partner) ∧
    (fieldOf (leAt (helloMsg 1 0 0 1) 0 8) 0 9 = (twinIs 0 0 id).work.partner ∧ fieldOf (leAt (helloMsg 2 0 0 1) 0 8) 0 9 ≠ (twinIs 0 0 id).work.partner ∧
      fieldOf (leAt (helloMsg 1 0 0 1) 0 8) 9 8 = (twinIs 0 0 id).work.dv F.bootIdentityPair ∧
      fieldOf (leAt (helloMsg 1 9 0 1) 0 8) 9 8 ≠ (twinIs 0 0 id).work.dv F.bootIdentityPair) ∧
    ((twinIs 0 0 (decided false)).twin.decided = false ∧ (twinIs 0 0 (decided true)).twin.decided = true ∧
      bitOf (leAt (helloMsg 1 0 0 1) 0 8) 18 = true ∧ bitOf (leAt (helloMsg 1 0 0 0) 0 8) 18 = false ∧
      bitOf (leAt (helloMsg 1 0 0 0) 0 8) 17 = false ∧ bitOf (leAt (helloMsg 1 0 1 0) 0 8) 17 = true) ∧
    ((twinIs 0 0 (decided true)).work.isMirror = false ∧ (twinIs 0 0 (decided true)).work.pairState = pairSolo ∧
      (twinIs 0 0 (decided true)).twin.next = .none) := by decide +kernel

/-- A MIRROR that has part 0 of delta 5 and of a bulk copy, and delta 4 whole; an ACTIVE that has sent delta 5. -/
def receiving : State := twinIs 1 pairSyncing fun t => { t with
  rx := [⟨5, [(0, twinPart 5 0)], false⟩, ⟨4, [], true⟩], bulk := [(0, twinPart 0 0)], mute := false }
/-- An ACTIVE that has sent delta 5. -/
def sending : State := twinIs 0 pairMirrored fun t => { t with deltas := [⟨5, [twinPart 5 0]⟩] }

theorem wit_TwinCopies :
    (∀ x ∈ [(3, 24), (4, 16), (5, 10), (6, 24), (7, 11), (8, 8), (9, 8)], (twinHdr x.1 x.2).wf = true ∧ (twinHdr x.1 x.2).cls = 5) ∧
    ((twinPart 5 1).length = 24 ∧ (twinEnd 5 1 0).length = 16 ∧ leAt (twinPart 5 1) 0 8 = 5 ∧ leAt (twinPart 6 1) 0 8 = 6) ∧
    (receiving.work.isMirror = true ∧ receiving.work.paired = true ∧ receiving.twin.mute = false ∧
      sending.work.isMirror = false ∧ (twinHdr 3 24).srcDev = receiving.work.partner) ∧
    (receiving.twin.rx.all (fun d => decide (d.epoch ≠ 5) || !d.whole) = true) ∧
    (let d := (receiving.twin.rx.find? (fun d => d.epoch = 5)).getD ⟨5, [], false⟩
     let good := crc32c d.inOrder.flatten
     d.whole = false ∧ d.inOrder.length = leAt (twinEnd 5 1 good) 8 3 ∧ (d.parts.any (fun p => p.1 = 0)) = true ∧
       leAt (twinEnd 5 1 good) 12 4 = good ∧ leAt (twinEnd 5 1 (good + 1)) 12 4 ≠ good) ∧
    (sending.twin.deltas.any (fun d => d.epoch = 5) = true ∧ sending.twin.deltas.any (fun d => d.epoch = 6) = false ∧
      leAt (toBytes 8 5 ++ toBytes 2 sOk) 8 2 = sOk ∧ leAt (toBytes 8 5 ++ toBytes 2 sCheck) 8 2 ≠ sOk) ∧
    (receiving.twin.bulk.any (fun p => p.1 = 0) = true ∧ receiving.twin.bulk.any (fun p => p.1 = 1) = false ∧
      leAt (toBytes 8 0 ++ toBytes 3 1) 8 3 = 1 ∧ leAt (toBytes 8 0 ++ toBytes 3 2) 8 3 = 2) ∧
    (sending.work.pairState ≠ pairSolo ∧ (twinIs 0 0 id).work.pairState = pairSolo ∧ receiving.work.pairState ≠ pairMirrored ∧
      (twinIs 1 pairMirrored id).work.isMirror = true ∧ (twinIs 1 pairMirrored id).work.pairState = pairMirrored) := by
  decide +kernel

/-- A heartbeat: role, pair state, failed over. -/
def beatMsg (role pair failed : Nat) : List Byte := toBytes 24 (fields [(64, role), (65, pair), (67, failed)])

theorem wit_Heartbeats :
    (∀ x ∈ [(0, pairSyncing, 0), (1, pairMirrored, 0), (0, pairSolo, 0)], (Instr.heartbeat (twinHdr 2 24) (beatMsg x.1 x.2.1 x.2.2)).wf = true) ∧
    (bitOf (leAt (beatMsg 0 pairSyncing 0) 0 24) 64 = false ∧ fieldOf (leAt (beatMsg 0 pairSyncing 0) 0 24) 65 2 = pairSyncing ∧
      (twinIs 1 pairSolo (decided true)).twin.decided = true ∧ (twinIs 1 pairSolo (decided true)).work.isMirror = true ∧
      (twinIs 1 pairSolo (decided true)).work.pairState = pairSolo) ∧
    (bitOf (leAt (beatMsg 1 pairMirrored 0) 0 24) 64 = true ∧ fieldOf (leAt (beatMsg 1 pairMirrored 0) 0 24) 65 2 = pairMirrored ∧
      (twinIs 0 pairSyncing (decided true)).work.isMirror = false ∧ (twinIs 0 pairSyncing (decided true)).work.pairState = pairSyncing) ∧
    (let s := (twinIs 0 pairSolo (decided true)).on fun w => (w.wr F.twnStateFailedOver 0 0 1).wr F.rstStateState 0 0 stRunning
     s.work.staysActive (bitOf (leAt (beatMsg 0 pairSolo 0) 0 24) 67) = false ∧ s.work.devState ≠ stStarting ∧ s.work.isMirror = false) := by
  decide +kernel

/-- A module that waits for a heartbeat, with this many missed. -/
def missing (role pair n : Nat) : State := (twinIs role pair fun t => { t with decided := true, heard := false }).on fun w =>
  w.wr F.twnStateMissed 0 0 n

theorem wit_TwinEvents :
    (∀ x ∈ [(0, pairMirrored, 1), (0, pairMirrored, 2), (1, pairSyncing, 2), (1, pairMirrored, 2)],
      (missing x.1 x.2.1 x.2.2).work.paired = true ∧ (missing x.1 x.2.1 x.2.2).twin.decided = true ∧
      (missing x.1 x.2.1 x.2.2).twin.heard = false ∧ (missing x.1 x.2.1 x.2.2).work.pairState ≠ pairSolo ∧
      (missing x.1 x.2.1 x.2.2).work.pairState ≠ pairFailing ∧ (missing x.1 x.2.1 x.2.2).work.dv F.twnStateMissed = x.2.2) ∧
    (let s := sending.on fun w => w.wr F.timeTickCountCount 0 0 100000
     s.work.isMirror = false ∧ s.work.lagging = true ∧ s.work.pairState ≠ pairSolo) ∧ State.reset.work.lagging = false ∧
    ((twinIs 0 0 (decided false)).work.paired = true ∧ (twinIs 0 0 (decided false)).twin.decided = false ∧ State.reset.work.paired = false) ∧
    (let s := twinIs 0 pairSyncing fun t => { t with bulkDue := true }
     let v := (s.work.atNs (commitEnd s.work.period)).refreshAll
     v.isMirror = false ∧ s.twin.bulkDue = true ∧ commitEnd v.period ≤ v.phase ∧ State.reset.twin.bulkDue = false) ∧
    (missing 0 pairSolo 2).work.pairState = pairSolo ∧ (missing 0 pairSolo 2).twin.heard = false ∧
    (sending.on fun w => w.wr F.twnCtlHandover 0 0 1).work.dv F.twnCtlHandover = 1 ∧ sending.work.dv F.twnCtlHandover ≠ 1 ∧
    (sending.work.paired = true ∧ sending.work.isMirror = false ∧ sending.work.pairState = pairMirrored ∧
      (Requester.regWrite 5 2).wf = true) := by decide +kernel

theorem wit_DrainOfAPair :
    (Instr.planDrain (hdr 3 0x06 1 0 0 0) (toBytes 1 3)).wf = true ∧ OrderHere 0x06 (hdr 3 0x06 1 0 0 0) receiving ∧
    (hdr 3 0x06 1 0 0 0).dstDev = receiving.work.deviceId ∧ OrderHere 0x06 (hdr 3 0x06 1 0 0 0) State.reset ∧ 3 = leAt (toBytes 1 3) 0 1 % 16 ∧
    (State.reset.work.resolve objPlan 3 0 (hdr 3 0x06 1 0 0 0)).all (fun w => decide ((w.plan 3).pending = 0) &&
      decide (w.planState 3 ≠ 2)) = true ∧ (State.reset.work.resolve objPlan 3 0 (hdr 3 0x06 1 0 0 0)).isSome = true ∧
    (((mk fun w => w.setPlanState 3 2 sOk).work.resolve objPlan 3 0 (hdr 3 0x06 1 0 0 0)).map (fun w => (w.plan 3).pending + 8 * w.planState 3)) = some 16 := by
  unfold OrderHere TakenHere; decide +kernel

/-! ## Spares -/

/-- Unit (0, u) in this state. -/
def unitIs (u : Nat) (f : UnitSt → UnitSt) : State := coreUp.on fun w =>
  (w.wr F.errCfgLmCeLimit 0 0 10).setUnitSt 0 u (f (w.unitSt 0 u))

theorem wit_UnitsFenced :
    (coreUp.work.unitInService 0 0 = true ∧ coreUp.work.canHang 0 0 = true ∧ coreUp.work.canHang 0 1 = false ∧
      (unitIs 0 fun x => { x with fenced := true }).work.unitInService 0 0 = false) ∧
    (2 ≤ ((unitIs 119 fun x => { x with ues := [1, 2] }).work.unitSt 0 119).ues.length ∧
      (unitIs 0 id).work.dv F.errCfgLmCeLimit ≠ 0 ∧
      (unitIs 0 id).work.dv F.errCfgLmCeLimit < ((unitIs 0 fun x => { x with ces := 11 }).work.unitSt 0 0).ces ∧ (unitIs 0 id).work.unitInService 0 0 = true) ∧
    ((Requester.regWrite 5 2).wf = true ∧ (coreUp.work.fenceNamed 0 0 0).isSome = true ∧ ((mk fun w => w.setBank 0 0 { w.bank 0 0 with lost := true }).work.fenceNamed 2 0 0).isNone = true ∧
      fieldOf (2 : BitVec 64).toNat 6 10 < fenceIds 2 ∧
      (coreUp.work.fenceNamed 9 0 0).isNone = true ∧ fenceIds 9 ≤ 0 ∧ fenceIds 1 ≤ 24) := by decide +kernel

/-- Frames are retired, reserve frames used, and words corrected in frame 7. -/
def framesUp (retired : List (Nat × Nat)) (used : List Nat) : State := mk fun w =>
  { w.wr F.errCfgPageCeLimit 0 0 2 with spr := { w.spr with retired := retired, reserveUsed := used, pageCe := [(7, 3)] } }

/-- A state whose frame 7 of HBM has lost a row. -/
def rowLost : State := mk fun w => { w with bad := [frameKey false 7 / 64 + 5] }

theorem wit_FramesRetired :
    ((framesUp [] []).work.dv F.errCfgPageCeLimit ≠ 0 ∧
      (framesUp [] []).work.dv F.errCfgPageCeLimit < smGet 0 (framesUp [] []).spr.pageCe 7 ∧
      smGet 0 (framesUp [] []).spr.pageCe 8 = 0 ∧ (0, 7) ∈ (framesUp [(0, 7)] []).spr.retired ∧ (0, 7) ∉ (framesUp [] []).spr.retired) ∧
    (rowLost.bad.any (fun r => inRange (frameKey false 7 / 64) 32768 r)) = true ∧
    (framesUp [] []).work.pageOf 0 7 = some 7 ∧ (framesUp [] []).work.pageOf 1 7 = some (524288 + 7) ∧
    (mk fun w => w.setPage 7 { w.page 7 with valid := false }).work.pageOf 0 7 = none ∧
    MemInv (framesUp [] []) := by unfold MemInv; decide +kernel

theorem framesUp_used (r : List (Nat × Nat)) (u : List Nat) : (framesUp r u).work.spr.reserveUsed = u := rfl

theorem wit_ReserveLeft (t : Nat) : (framesUp [] []).work.reserveLeft t ≠ [] := by
  have h : reserveFrame ∈ (framesUp [] []).work.reserveLeft t := by
    unfold Work.reserveLeft
    refine List.mem_filter.2 ⟨List.mem_map.2 ⟨0, List.mem_range.2 (by omega), rfl⟩, ?_⟩
    simp only [framesUp_used, List.contains_nil, Bool.not_false]
  exact List.ne_nil_of_mem h

theorem wit_NoReserveLeft (t : Nat) :
    (framesUp [] ((List.range 8192).map (fun k => t * 524288 + (reserveFrame + k)))).work.reserveLeft t = [] := by
  unfold Work.reserveLeft
  refine List.filter_eq_nil_iff.2 (fun f hf => ?_)
  obtain ⟨k, hk, rfl⟩ := List.mem_map.1 hf
  simp only [framesUp_used, List.contains_eq_mem, Bool.not_eq_true', decide_eq_false_iff_not, Decidable.not_not]
  exact List.mem_map.2 ⟨k, hk, rfl⟩

theorem wit_Scrub : (7 * 0x200000, Ecc.corrected) ∈ [(7 * 0x200000, Ecc.corrected), (9 * 0x200000, Ecc.uncorrectable)] ∧
    9 * 0x200000 < 0x10000000000 := by decide

/-! ## The spec's worked examples -/

/-- An FP32 value. -/
def val32 (x : Nat) : EVal := .flt (Fmt.fp32.decode x)

/-- Under R79: an MXFP4 block that begins 10.0 and -0.7 has the scale byte 0x80 and the codes 0110 and 1001. -/
theorem test_mx_block : mxBlock .mxfp4 false [Fmt.fp32.decode 0x41200000, Fmt.fp32.decode 0xBF333333] 0 = (0x80, [(6, false), (9, false)], 0) := by
  decide +kernel

/-- The boundaries of the latency column under R82: 0, 1, 2, 5, 10, 20, 50, 100, 200, 500, 1000, 2000, 5000, 10000, and an
entry that is not used. -/
def latency : List EVal := [0, 0x3F800000, 0x40000000, 0x40A00000, 0x41200000, 0x41A00000, 0x42480000, 0x42C80000, 0x43480000,
  0x43FA0000, 0x447A0000, 0x44FA0000, 0x459C4000, 0x461C4000, 0].map val32

/-- Under R83, and again under R234: -3.0 codes as 0, the zeros as 1, 7.5 as 4, 10.0 as 5, NaN as 15. -/
theorem test_quantile_codes : [0xC0400000, 0x80000000, 0, 0x40F00000, 0x41200000, 0x7FC00000].map
    (fun x => quantile 15 true latency false (val32 x)) = [0, 1, 1, 4, 5, 15] := by decide +kernel

/-- Under R83, R328: y = 1.25 codes as 11 against -3 to 3, and the null as 15. -/
theorem test_normalised_codes :
    let b := [0xC0400000, 0xC0200000, 0xC0000000, 0xBFC00000, 0xBF800000, 0xBF000000, 0xBE800000, 0, 0x3E800000, 0x3F000000,
      0x3F800000, 0x3FC00000, 0x40000000, 0x40400000, 0].map val32
    quantile 15 true b false (val32 0x3FA00000) = 11 ∧ quantile 15 true b true (val32 0) = 15 := by decide +kernel

/-- The reversed-row descriptor of the example under R106, and the one with SIZE0 257. -/
def reversed (size0 : Nat) : Rec := record [(0, 0x400003FC), (55, 0x0F), (60, 2), (63, 1), (64, 0x40000000), (116, 1048576),
  (164, size0), (190, 0xFFFFFFFF), (222, 1024), (248, 256)]

theorem test_descriptor_checks : (Desc.ofRec (reversed 256)).reach = (-255, 261888) ∧
    State.reset.work.validate 16 (reversed 256) = [] ∧ State.reset.work.validate 16 (reversed 257) = [sAlias, sRange] := by
  decide +kernel

/-- Under R139: part 2 of four parts of 3,000,000 buckets, on die 2 at 0x1000_0000: the hash reaches bucket 1,323,178, in bank
170 at bank row 5,388, then the next in bank 171. -/
theorem test_hash_chain :
    let h : HashHdr := ⟨3000000, 2, [0, 0, 2 * 2 ^ 31 + 0x10000000, 0], 0, 0, 0, true⟩
    (h.chain 0x9C3A51E70B2D6F48).take 2 = [cellarOf 2 + 353118848, cellarOf 2 + 353118848 + 64] ∧
    353118848 / 64 % 1024 = 170 ∧ 353118848 / 65536 = 5388 := by decide +kernel

/-- The table of the example under R168, over banks 40 and 41 of die 1; the array's key of bank 40, row 9. -/
def ranges (k : Nat) : State := mk fun w =>
  let c := 0xFFFFFFFFFFFFFC00
  (w.setMbank 1 40 { MBank.atReset with rows := [(5, ⟨0x1000, 0xFFFFFFFFFFFFF000, true, 10, 3, 0x1000, 0xFFFFFFFFFFFFF000, false, false⟩),
    (9, ⟨k, c, true, 20, 7, 0x1400, c, false, false⟩)] }).setMbank 1 41 { MBank.atReset with rows := [(2, ⟨0, 0, true, 0, 0, 0, 0, false, false⟩),
    (3, ⟨0x1400, c, true, 20, 9, 0x1400, c, false, false⟩)] }

/-- Key 0x1523 gives result 7; with key bit 10 lost in the array, key 0x1023 gives row 5 with one false hit. -/
theorem test_match_search :
    (((ranges 0x1400).work.tableSearch 1 40 2 1 [0x1523]).2.1 = some ⟨20, 7, 0x150009⟩) ∧
    (((ranges 0x1000).work.tableSearch 1 40 2 1 [0x1023]).2.1 = some ⟨10, 3, 0x150005⟩) ∧
    ((ranges 0x1000).work.tableSearch 1 40 2 1 [0x1023]).2.2.1 = 1 := by decide +kernel

/-- Under R234: `vbkt v8, v16, a0` with the NaN slot. -/
theorem test_vbkt_word : oxVector custom0 0b010 0b001010 true 16 10 8 = 0x2B05240B := by decide +kernel

/-- Under R256: the deadlines of streams 3 and 9, times their rates. -/
theorem test_stream_deadlines : (({ Ctx.atReset with started := 1000, delivered := 262144 } : Ctx).deadline 20000 * 10 =
    141072 * 2000 * 10) ∧ (({ Ctx.atReset with started := 6000, delivered := 40960 } : Ctx).deadline 5000 = 14192 * 5000) := by
  decide +kernel

/-- The FP64 sort keys of the example under R368. -/
def ents (l : List (Nat × Nat)) : List SEnt := l.map (fun p => ⟨p.1, p.2⟩)

/-- Core A's list holds 9.0, 7.5 of ID 0x43 and 7.5 of ID 0x44, with one spilled tie and six valid rows. -/
theorem test_topk :
    let l := (State.reset.work.selectRows 0x0F true (some 3) 8 5 (ents [(0x4010000000000000, 0x40), (0x4022000000000000, 0x42),
      (0x401E000000000000, 0x43), (0x401E000000000000, 0x44), (0x401E000000000000, 0x46), (0x8000000000000000, 0x47)])).1
    l.ents = ents [(0x4022000000000000, 0x42), (0x401E000000000000, 0x43), (0x401E000000000000, 0x44)] ∧ l.tie = 1 ∧ l.total = 6 := by
  decide +kernel

/-- The merge of A's list with B's keeps 9.0, 8.0 and 7.5 of ID 0x43, with one duplicate, nine valid rows and two ties. -/
theorem test_merge :
    let a : SList := ⟨3, 0x0F, true, 5, 0x4038000000000000, 0x4027000000000000, 1, 0, 6,
      ents [(0x4022000000000000, 0x42), (0x401E000000000000, 0x43), (0x401E000000000000, 0x44)]⟩
    let b : SList := ⟨3, 0x0F, true, 101, 0x4031800000000000, 0x3FF0000000000000, 0, 0, 4,
      ents [(0x4020000000000000, 0x90), (0x401E000000000000, 0x44), (0x4000000000000000, 0x91)]⟩
    let l := (State.reset.work.mergeLists [a, b] 3 5 0x0F true).1
    l.ents = ents [(0x4022000000000000, 0x42), (0x4020000000000000, 0x90), (0x401E000000000000, 0x43)] ∧ l.tie = 2 ∧ l.dup = 1 ∧
      l.total = 9 := by decide +kernel

/-- Under R378: h >> 60 and the bucket of the fraction. -/
theorem test_embedding_bucket : (0x9C3A51E70B2D6F48 * 16) >>> 64 = 9 ∧
    (0x9C3A51E70B2D6F48 * 16 % 2 ^ 64 * 2 ^ 27) >>> 64 = 102574323 := by decide +kernel

/-- Under R658 to R660 and R671: ME_CFG's aliases, ME7's status on die 2, core 40's window on die 1, GC95's record on die 3. -/
theorem test_register_aliases :
    ((State.reset.work.wr F.groupSelMe 1 0 0x81).targets 0x300121F0000).map (fun t => (t.1.die, t.1.idx)) =
      [(1, 0), (1, 7), (1, 16), (1, 23)] ∧ (State.reset.work.targets 0x300F21E0000).length = 96 ∧
    gcWindow 1 40 = 0x21011400000 ∧ Reg.addr .gcStatus 3 95 = 0x3003205F000 ∧ Reg.addr .pwrTherm 1 0 = 0x30010000010 ∧
    Reg.addr .twnState 0 0 = 0x30001009040 ∧ Reg.addr .meStatus 2 7 = 0x3002211C010 := by decide +kernel

/-- Under R503, R502: the header that begins 03 08 40 96 02 08 07 00, and the message of 184 B. -/
theorem test_message_header :
    (headerBytes ⟨3, 8, 64, 3, 41, 0, 8, 7, 148, 0x1A2B, 0⟩).take 8 = [0x03, 0x08, 0x40, 0x96, 0x02, 0x08, 0x07, 0x00] ∧
    (Msg.bytes ⟨⟨3, 8, 64, 3, 41, 0, 8, 7, 148, 0x1A2B, 0⟩, List.replicate 148 0⟩).length = 184 := by decide +kernel

/-- The program of the example under R255: OP, RD, RS1, K, IMM of each word, and each word is one that R253 accepts. -/
theorem test_trellis_words :
    [0x4, 0x24, 0x2800000002, 0x20000A, 0x100000000005, 0x100000000125, 0x200000000029, 3, 0xB].map
      (fun x => let t := TOp.ofNat x; (t.op, t.rd, t.rs1, t.k, t.dst)) = [(4, 0, 0, 0, 0), (4, 1, 0, 0, 0), (2, 0, 0, 0, 0), (10, 0, 0, 0, 1),
        (5, 0, 0, 0, 0), (5, 1, 1, 0, 0), (9, 1, 0, 0, 0), (3, 0, 0, 0, 0), (11, 0, 0, 0, 0)] := by decide +kernel

end Sys2Proof.Tests
end

/-! The scope of the model (chapter 00): a step, every command's outcome, the state after reset, and the sources of
a reset. -/

namespace Sys2Proof.Machine

/-! ## Outcomes -/

/-- A command that stores nothing cures no word of a matrix engine. -/
theorem Work.cureWords_of_jnl_nil {w : Work} (h : w.jnl = []) : w.cureWords = w := by
  have hc : ∀ n, coversAll [] (16 * n) 16 = false := fun _ => rfl
  have hkeep : w.badWords.filter (fun n => !coversAll w.jnl (16 * n) 16) = w.badWords :=
    List.filter_eq_self.mpr fun n _ => by rw [h, hc n, Bool.not_false]
  rw [Work.cureWords, hkeep]

/-- Nor does it end a reservation. -/
theorem Work.dropReservations_of_jnl_nil {w : Work} (h : w.jnl = []) : w.dropReservations = w := by
  unfold Work.dropReservations
  rw [List.map_congr_left (g := id) (fun e _ => ?_), List.map_id]
  split <;> simp [h]

/-- An effect that leaves the block as the command found it leaves the state as it was. -/
theorem State.on_unchanged {f : Work → Work} {s : State} (h : f s.work = s.work) : s.on f = s := by
  simp only [State.on, h, Work.flushAdds_nil s.work_adds, Work.cureWords_of_jnl_nil s.work_jnl,
    Work.dropReservations_of_jnl_nil s.work_jnl]
  rfl

/-- A well-formed command completes with any effect that its own agrees with on the block as it finds it. -/
theorem State.perform_eq_on {i : Instr} {f : Work → Work} {s : State} (g : Work → Work) (hi : i.wf = true)
    (h : f s.work = g s.work) : s.perform i f = .next (s.on g) := by
  rw [State.perform_wf hi, State.on_congr h]

/-- A well-formed command without an effect on the block as it finds it completes with the state unchanged. -/
theorem State.perform_unchanged {i : Instr} {f : Work → Work} {s : State} (hi : i.wf = true) (h : f s.work = s.work) :
    s.perform i f = .next s := by
  rw [State.perform_wf hi, State.on_unchanged h]

/-- Settles O1: the two branches of `step`. -/
theorem stepRunsFrontCommand : Obligations.StepRunsFrontCommand := by
  unfold Obligations.StepRunsFrontCommand
  exact ⟨fun c cs s => step_cons { s with pending := c :: cs } c cs rfl, step_nil⟩

/-- Settles O2: every meaning has the one form of `State.perform`, which the command's well-formedness alone decides
(the model's choice: log entry 17). -/
theorem wellFormedCommandsComplete : Obligations.WellFormedCommandsComplete := by
  unfold Obligations.WellFormedCommandsComplete
  intro c s
  obtain ⟨f, hf⟩ := exec_eq_perform c s
  rw [hf]
  refine ⟨fun hc => ⟨s.on f, State.perform_wf hc, s.on_pending f⟩, State.perform_ill, fun r => ?_⟩
  cases hc : c.wf with
  | true => simp [State.perform_wf hc]
  | false => simp [State.perform_ill hc]

/-! ## The state after reset -/

/-- Settles O5: every sparse map of the reset state is empty, and a field is an entry of its own in the register map. Where
the spec states no reset value, it is the model's (log entries 1, 2 and 8). -/
theorem resetStateAndRegisterFields : Obligations.ResetStateAndRegisterFields := by
  unfold Obligations.ResetStateAndRegisterFields
  have hpending : QueueInv State.reset := by
    intro c hc
    cases hc
  refine ⟨⟨rfl, hpending, rfl, reset_rd, Memory.get_nil, fun _ _ => rfl, fun _ _ => rfl⟩, ?_⟩
  exact fun w f g d i e j v => ⟨w.rd_wr_same f d i v, Work.rd_wr_other⟩

/-! ## The sources of a reset -/

theorem Work.resetIf_of_powered {w : Work} (h : w.powered = true) (full : Bool) (cause : Nat) :
    w.resetIf full cause = w.reset full cause := if_pos h

theorem Work.resetIf_of_not_powered {w : Work} (h : w.powered = false) (full : Bool) (cause : Nat) :
    w.resetIf full cause = w := if_neg (by simp [h])

/-- The effect of a reset source on a module that has its supplies is the reset (R565). -/
theorem exec_reset_of_powered {c : Instr} {s : State} {full : Bool} {cause : Nat}
    (hc : exec c s = .next (s.on fun w => w.resetIf full cause)) (h : s.work.powered = true) :
    exec c s = .next (s.on fun w => w.reset full cause) :=
  hc.trans (congrArg _ (State.on_congr (Work.resetIf_of_powered h full cause)))

/-- A module without its supplies does not react to a reset source (log entry 141). -/
theorem exec_reset_of_not_powered {c : Instr} {s : State} {full : Bool} {cause : Nat}
    (hc : exec c s = .next (s.on fun w => w.resetIf full cause)) (h : s.work.powered = false) :
    exec c s = .next s := hc.trans (congrArg _ (State.on_unchanged (Work.resetIf_of_not_powered h full cause)))

/-- The watchdog resets in part, with code 4. -/
theorem exec_wdog (s : State) : exec .wdog s = .next (s.on fun w => w.resetIf false 4) :=
  show execWdog s = _ from State.perform_wf rfl

/-- The debugger resets in part, with code 6. -/
theorem exec_dbg (s : State) : exec .dbg s = .next (s.on fun w => w.resetIf false 6) :=
  show execDbg s = _ from State.perform_wf rfl

/-! ### RESET_N (R567) -/

/-- A pulse of 10 us or more resets in full, with code 3. -/
theorem exec_pin_long (s : State) {lowNs : Nat} (hl : 10000 ≤ lowNs) :
    exec (.pin lowNs) s = .next (s.on fun w => w.resetIf true 3) :=
  show execPin lowNs s = _ from State.perform_eq_on _ rfl ((if_neg (by omega)).trans (if_pos hl))

/-- A pulse below 2 us is ignored. -/
theorem exec_pin_short (s : State) {lowNs : Nat} (hl : lowNs < 2000) : exec (.pin lowNs) s = .next s :=
  show execPin lowNs s = _ from State.perform_unchanged rfl (if_pos hl)

/-- Between the two either happens, as a free value says. -/
theorem exec_pin_between {s : State} (h : s.work.powered = true) {lowNs : Nat} (hlo : 2000 ≤ lowNs) (hhi : lowNs < 10000) :
    exec (.pin lowNs) s =
      .next (s.on fun w => if (w.fresh 1).1 = 1 then (w.fresh 1).2.reset true 3 else (w.fresh 1).2) := by
  have hdrawn : (s.work.fresh 1).2.powered = true := h
  show execPin lowNs s = _
  refine State.perform_eq_on _ rfl ?_
  simp only [if_neg (Nat.not_lt.mpr hlo), if_neg (Nat.not_le.mpr hhi),
    Work.resetIf_of_powered hdrawn]

/-! ### Writes, lock-up and clocks (R64, R565) -/

/-- SW_RESET beside its key and no request resets in part, with code 5. -/
theorem exec_sw (s : State) {r : Requester} {v : BitVec 64} (hr : r.wf = true) (hreq : fieldOf v.toNat 0 3 = 0)
    (hbit : bitOf v.toNat 16 = true) (hkey : fieldOf v.toNat 8 8 = 0xA5) :
    exec (.sw r v) s = .next (s.on fun w => w.resetIf false 5) :=
  show execSw r v s = _ from State.perform_eq_on _ hr (by simp [Work.rstCtlWrite, hreq, hbit, hkey])

/-- A lock-up while the boot lock is open resets in part, with code 8. -/
theorem exec_lockup_unlocked {s : State} {mc : Nat} (hmc : mc < 4) (hserves : s.work.mcServes mc = true)
    (hl : s.work.rdB F.rstStateLocked 0 0 = false) :
    exec (.lockup mc) s = .next (s.on fun w => w.resetIf false 8) :=
  show execLockup mc s = _ from State.perform_eq_on _ (decide_eq_true hmc) (by simp [hserves, hl])

/-- A lock-up once the boot lock is closed is a fence of the core (R555). -/
theorem exec_lockup_locked {s : State} {mc : Nat} (hmc : mc < 4) (hserves : s.work.mcServes mc = true)
    (hl : s.work.rdB F.rstStateLocked 0 0 = true) :
    exec (.lockup mc) s = .next (s.on fun w => w.fenceMc mc 4) :=
  show execLockup mc s = _ from State.perform_eq_on _ (decide_eq_true hmc) (by simp [hserves, hl])

/-- The loss of a clock that no port recovers resets in full, with code 7 (R64). -/
theorem exec_clockLoss_engine (s : State) {c : Clk} (hc : c.wf = true) (hport : ∀ p, c ≠ .kupelPort p ∧ c ≠ .fieldPort p) :
    exec (.clockLoss c) s = .next (s.on fun w => w.resetIf true 7) := by
  show execClockLoss c s = _
  refine State.perform_eq_on _ hc ?_
  cases c with
  | kupelPort p => exact absurd rfl (hport p).1
  | fieldPort p => exact absurd rfl (hport p).2
  | _ => rfl

/-- The loss of a Kupel port's clock takes down that port alone, where it is not down (R64). -/
theorem exec_clockLoss_kupelPort {s : State} {p : Nat} (hp : p < 24) (hup : s.work.klState p ≠ klDown) :
    exec (.clockLoss (.kupelPort p)) s = .next (s.on fun w => w.portDown p) :=
  show execClockLoss (.kupelPort p) s = _ from State.perform_eq_on _ (decide_eq_true hp) (if_neg hup)

/-- The loss of a field port's clock takes down that port's link alone (R64). -/
theorem exec_clockLoss_fieldPort (s : State) {p : Nat} (hp : p < 8) :
    exec (.clockLoss (.fieldPort p)) s = .next (s.on fun w => w.fieldLink p false .absent) :=
  show execClockLoss (.fieldPort p) s = _ from State.perform_wf (decide_eq_true hp)

/-- Without its supplies the module reacts to none of four reset sources. -/
theorem exec_resetSource_of_not_powered {s : State} (h : s.work.powered = false) {c : Instr}
    (hc : c ∈ [Instr.wdog, .dbg, .pin 10000, .clockLoss .timeBase]) : exec c s = .next s := by
  simp only [List.mem_cons, List.not_mem_nil, or_false] at hc
  rcases hc with rfl | rfl | rfl | rfl
  · exact exec_reset_of_not_powered (exec_wdog s) h
  · exact exec_reset_of_not_powered (exec_dbg s) h
  · exact exec_reset_of_not_powered (exec_pin_long s (Nat.le_refl _)) h
  · exact exec_reset_of_not_powered (exec_clockLoss_engine s rfl (by simp)) h

/-! ### Supplies (R565, R628, R629) -/

/-- A power-on reset is full, with code 1: the module's power is enabled, its trip ended, and the fault latch shown. -/
theorem exec_por (s : State) : exec .por s = .next (s.on fun w =>
    let w : Work := { w with modl := { w.modl with pwrEn := true, hotSwap := true, borHeld := false, borSeen := false,
                                                   tripped := false, rails := setInsert (setInsert w.modl.rails 9) 10 } }
    (((w.wr F.pwrStatusLastTrip 0 0 w.modl.latch.1).wr F.pwrStatusTripRail 0 0 w.modl.latch.2).wr
      F.pwrStatusTripValid 0 0 (if w.modl.latch.1 = 0 then 0 else 1)).reset true 1) := by
  show execPor s = _
  refine State.perform_eq_on _ rfl ?_
  simp only [Work.wrB, decide_eq_true_eq, ite_not]

/-- A first brown-out of a module that has its supplies holds the engine in reset, with code 2. -/
theorem exec_bor_first {s : State} (hp : s.work.powered = true) (hs : s.modl.borSeen = false) :
    exec .bor s = .next (s.on fun w => (w.holdReset true 2).setMod (fun m =>
      { m with borHeld := true, borSeen := true, rails := m.rails.filter (fun r => decide (9 ≤ r)) })) :=
  show execBor s = _ from State.perform_eq_on _ rfl (by simp [Work.brownOut, hp, hs])

/-- Without its supplies the module has no brown-out. -/
theorem exec_bor_of_not_powered {s : State} (h : s.work.powered = false) : exec .bor s = .next s :=
  show execBor s = _ from State.perform_unchanged rfl (if_pos (by simp [h]))

/-- When a brown-out releases the engine that it holds, start begins. -/
theorem exec_borRelease_held {s : State} (h : s.modl.borHeld = true) :
    exec .borRelease s = .next (s.on fun w => (w.setMod (fun m => { m with borHeld := false })).start true) :=
  show execBorRelease s = _ from State.perform_eq_on _ rfl (if_pos h)

/-- An engine that no brown-out holds is not released. -/
theorem exec_borRelease_not_held {s : State} (h : s.modl.borHeld = false) : exec .borRelease s = .next s :=
  show execBorRelease s = _ from State.perform_unchanged rfl (if_neg (by simp [h]))

/-- VCORE of a die at 0.70 V or more changes nothing. -/
theorem exec_vcoreExcursion_high (s : State) {d mv ns : Nat} (hd : d < 4) (hmv : 700 ≤ mv) :
    exec (.vcoreExcursion d mv ns) s = .next s :=
  show execVcoreExcursion d mv ns s = _ from State.perform_unchanged (decide_eq_true hd) (if_pos (.inr (.inr hmv)))

/-- VCORE of a die that has its supplies, below 0.70 V: a brown-out or the SUPPLY warning. -/
theorem exec_vcoreExcursion_low {s : State} {d mv ns : Nat} (hd : d < 4) (hp : s.work.powered = true)
    (hr : s.modl.rails.contains (1 + d) = true) (hmv : mv < 700) :
    exec (.vcoreExcursion d mv ns) s = .next (s.on fun w =>
      if mv < 680 ∧ 5000 < ns then w.brownOut else w.setLevels [(F.pwrStatusSupply, 45, true)]) := by
  have harmed : ¬ (s.work.powered = false ∨ s.work.modl.rails.contains (1 + d) = false ∨ 700 ≤ mv) := by
    rw [hp, State.work_toBlock, hr]
    simp only [Bool.true_eq_false, false_or]
    omega
  exact show execVcoreExcursion d mv ns s = _ from State.perform_eq_on _ (decide_eq_true hd) (if_neg harmed)

/-- Below 0.68 V for more than 5 us it is a brown-out. -/
theorem exec_vcoreExcursion_deep {s : State} {d mv ns : Nat} (hd : d < 4) (hp : s.work.powered = true)
    (hr : s.modl.rails.contains (1 + d) = true) (hmv : mv < 680) (hns : 5000 < ns) :
    exec (.vcoreExcursion d mv ns) s = .next (s.on Work.brownOut) := by
  rw [exec_vcoreExcursion_low hd hp hr (by omega)]
  simp only [hmv, hns, and_self, if_true]

/-- Less deep or less long, it sets the SUPPLY warning. -/
theorem exec_vcoreExcursion_shallow {s : State} {d mv ns : Nat} (hd : d < 4) (hp : s.work.powered = true)
    (hr : s.modl.rails.contains (1 + d) = true) (hmv : mv < 700) (h : 680 ≤ mv ∨ ns ≤ 5000) :
    exec (.vcoreExcursion d mv ns) s = .next (s.on fun w => w.setLevels [(F.pwrStatusSupply, 45, true)]) := by
  have hnot : ¬ (mv < 680 ∧ 5000 < ns) := by omega
  rw [exec_vcoreExcursion_low hd hp hr hmv]
  simp only [hnot, if_false]

/-- Settles O12: each source resets by its scope and code where the module has its supplies, and the brown-out holds and
releases the engine. -/
theorem resetSources : Obligations.ResetSources := by
  unfold Obligations.ResetSources
  refine ⟨fun s => ⟨fun h _ => exec_resetSource_of_not_powered h, fun h => ?_⟩, exec_por, fun s => ?_⟩
  · exact ⟨exec_reset_of_powered (exec_wdog s) h,
      exec_reset_of_powered (exec_dbg s) h,
      fun _ hl => exec_reset_of_powered (exec_pin_long s hl) h,
      fun _ => exec_pin_short s,
      fun _ => exec_pin_between h,
      fun _ _ hr hreq hbit hkey => exec_reset_of_powered (exec_sw s hr hreq hbit hkey) h,
      fun _ hmc hserves hl => exec_reset_of_powered (exec_lockup_unlocked hmc hserves hl) h,
      fun _ => exec_lockup_locked,
      fun _ hc hport => exec_reset_of_powered (exec_clockLoss_engine s hc hport) h,
      fun _ => exec_clockLoss_kupelPort,
      fun _ => exec_clockLoss_fieldPort s⟩
  · exact ⟨exec_bor_first, exec_bor_of_not_powered, exec_borRelease_held, exec_borRelease_not_held,
      fun _ _ _ hd hp hr hmv => ⟨exec_vcoreExcursion_deep hd hp hr, exec_vcoreExcursion_shallow hd hp hr hmv⟩,
      fun _ _ _ => exec_vcoreExcursion_high s⟩

end Sys2Proof.Machine

/-! Number formats and the matches of a join (chapters 03, 08 and 10): quantile codes, indices ranged from a hash, and the
references that a probe finds (R80 to R83, R231, R320, R333). -/

namespace Sys2Proof.Machine

/-! ## Sorting -/

/-- Inserting adds the element and no other. -/
theorem mem_insertBy {α : Type} {le : α → α → Bool} {x y : α} {l : List α} : y ∈ insertBy le x l ↔ y = x ∨ y ∈ l := by
  induction l with
  | nil => exact List.mem_cons
  | cons z l ih =>
    unfold insertBy
    split
    · exact List.mem_cons
    · rw [List.mem_cons, ih, List.mem_cons, or_left_comm]

/-- A sort has the elements of the list. -/
theorem mem_sortBy {α : Type} {le : α → α → Bool} {y : α} {l : List α} : y ∈ sortBy le l ↔ y ∈ l := by
  induction l with
  | nil => exact Iff.rfl
  | cons x l ih =>
    rw [List.mem_cons, ← ih]
    exact mem_insertBy

section
variable {α : Type} {le : α → α → Bool} (total : ∀ a b, le a b = true ∨ le b a = true)
  (trans : ∀ a b c, le a b = true → le b c = true → le a c = true)
include total trans

/-- Inserting by a total order keeps a list in order. -/
theorem pairwise_insertBy (x : α) {l : List α} (h : l.Pairwise (fun a b => le a b = true)) :
    (insertBy le x l).Pairwise (fun a b => le a b = true) := by
  induction l with
  | nil => exact List.pairwise_singleton _ x
  | cons y l ih =>
    obtain ⟨hy, hl⟩ := List.pairwise_cons.mp h
    unfold insertBy
    split
    next hxy => exact List.pairwise_cons.mpr ⟨List.forall_mem_cons.mpr ⟨hxy, fun z hz => trans x y z hxy (hy z hz)⟩, h⟩
    next hxy =>
      refine List.pairwise_cons.mpr ⟨fun z hz => ?_, ih hl⟩
      rcases mem_insertBy.mp hz with rfl | hz
      · exact (total y z).resolve_right hxy
      · exact hy z hz

/-- A sort by a total order is in order. -/
theorem pairwise_sortBy (l : List α) : (sortBy le l).Pairwise (fun a b => le a b = true) := by
  induction l with
  | nil => exact .nil
  | cons x l ih => exact pairwise_insertBy total trans x ih

end

/-! ## What a probe finds (R320) -/

/-- An index reduced into a dimension is below it (R113). -/
theorem reduceIdx_lt (i : Int) {n : Nat} (h : 0 < n) : (reduceIdx i n).1 < n := by
  have hpos : (0 : Int) < n := Int.natCast_pos.mpr h
  exact (Int.toNat_lt (Int.emod_nonneg i (Int.ne_of_gt hpos))).mpr (Int.emod_lt_of_pos i hpos)

/-- A candidate carries the build cells of the row that it refers to. -/
theorem Work.candidate_cells (w : Work) (j : Join) (r : Nat) :
    (w.candidate j r).2.2 = j.build.map (fun c => w.cell c (w.candidate j r).1) := rfl

/-- A candidate refers to a row of the build side. -/
theorem Work.candidate_lt (w : Work) (j : Join) (r : Nat) : (w.candidate j r).1 < max 1 j.rows :=
  reduceIdx_lt _ (by omega)

/-- Every match is a candidate whose build key is the key searched for. -/
theorem Work.mem_matchesOf {w : Work} {j : Join} {seed r : Nat} {key : List Byte} (h : r ∈ (w.matchesOf j seed key).refs) :
    ∃ k, (w.candidate j k).1 = r ∧ keyOf (w.candidate j k).2.2 = some key := by
  simp only [Work.matchesOf, mem_sortBy, List.mem_map, List.mem_filter, decide_eq_true_eq] at h
  obtain ⟨c, ⟨⟨k, _, rfl⟩, hkey⟩, hr⟩ := h
  exact ⟨k, hr, hkey⟩

/-- The matches of a key rise. -/
theorem Work.pairwise_matchesOf (w : Work) (j : Join) (seed : Nat) (key : List Byte) :
    (w.matchesOf j seed key).refs.Pairwise (· ≤ ·) := by
  have hsorted (l : List Nat) : (sortBy (fun a b => decide (a ≤ b)) l).Pairwise (fun a b => decide (a ≤ b) = true) :=
    pairwise_sortBy (fun a b => by simp only [decide_eq_true_eq]; exact Nat.le_total a b)
      (fun a b c => by simp only [decide_eq_true_eq]; exact Nat.le_trans) l
  exact (hsorted _).imp of_decide_eq_true

/-- Each match is a build row that has the key. -/
theorem Work.matchesOf_keyOf {w : Work} {j : Join} {seed r : Nat} {key : List Byte}
    (h : r ∈ (w.matchesOf j seed key).refs) :
    keyOf (j.build.map (fun c => w.cell c r)) = some key ∧ r < max 1 j.rows := by
  obtain ⟨k, rfl, hkey⟩ := Work.mem_matchesOf h
  exact ⟨w.candidate_cells j k ▸ hkey, w.candidate_lt j k⟩

/-! ## Quantile codes (R80 to R83) -/

/-- No code passes the number of boundaries in use. -/
theorem quantileCode_le_length (bounds : List EVal) (v : EVal) : quantileCode bounds v ≤ bounds.length :=
  List.length_filter_le ..

/-- A null and a NaN code as the NaN slot, or as 0 where the column has none (R82). -/
theorem quantile_of_null_or_nan (top : Nat) (nan : Bool) (bounds : List EVal) {null : Bool} {v : EVal}
    (h : null = true ∨ v = .flt .nan) : quantile top nan bounds null v = if nan then top else 0 := by
  rcases h with rfl | rfl <;> simp [quantile]

/-- An integer codes by the boundaries that the NaN slot leaves in use. -/
theorem quantile_int (top : Nat) (nan : Bool) (bounds : List EVal) (x : Int) :
    quantile top nan bounds false (.int x) = quantileCode (bounds.take (if nan then top - 1 else top)) (.int x) := rfl

/-- No code passes the largest one. -/
theorem quantile_le_top (top : Nat) (nan null : Bool) (bounds : List EVal) (v : EVal) :
    quantile top nan bounds null v ≤ top := by
  have hused : (if nan then top - 1 else top) ≤ top := by split <;> omega
  unfold quantile
  extract_lets isNan
  split
  · split <;> omega
  · exact Nat.le_trans (quantileCode_le_length ..) (Nat.le_trans (List.length_take_le ..) hused)

/-- The code of an integer counts the integer boundaries that are at most it (R80). -/
theorem quantileCode_int (bounds : List Int) (x : Int) :
    quantileCode (bounds.map EVal.int) (.int x) = bounds.countP (fun b => decide (b ≤ x)) := by
  have hle : ∀ b : Int, (decide ((EVal.int b).cmp (.int x) = some .lt) || decide ((EVal.int b).cmp (.int x) = some .eq)) =
      decide (b ≤ x) := fun b => by
    simp only [EVal.cmp, Option.some.injEq, Int.compare_eq_lt, Int.compare_eq_eq, ← Bool.decide_or, Int.le_iff_lt_or_eq]
  rw [quantileCode, ← List.countP_eq_length_filter, List.countP_map]
  exact List.countP_congr fun b _ => by rw [Function.comp_apply, hle b]

/-- A larger integer has no smaller code. -/
theorem quantile_int_mono (top : Nat) (nan : Bool) (bounds : List Int) {x y : Int} (h : x ≤ y) :
    quantile top nan (bounds.map EVal.int) false (.int x) ≤ quantile top nan (bounds.map EVal.int) false (.int y) := by
  simp only [quantile_int, ← List.map_take, quantileCode_int]
  refine List.countP_mono_left fun b _ hb => ?_
  simp only [decide_eq_true_eq] at hb ⊢
  exact Int.le_trans hb h

/-! ## Hashed indices (R231, R333) -/

/-- VH64 is a 64-bit value. -/
theorem vh64_lt (seed : Nat) (bs : List Byte) : vh64 seed bs < 2 ^ 64 := by
  have hmix : ∀ h, mul64 h vhP3 ^^^ mul64 h vhP3 >>> 32 < 2 ^ 64 := fun h => by
    have hlt : mul64 h vhP3 < 2 ^ 64 := Nat.mod_lt _ (Nat.two_pow_pos 64)
    exact Nat.xor_lt_two_pow hlt (Nat.lt_of_le_of_lt (Nat.shiftRight_le _ 32) hlt)
  exact hmix _

/-- A 64-bit hash ranged into n places is below n. -/
theorem vhRange_lt {h n : Nat} (hh : h < 2 ^ 64) (hn : 0 < n) : vhRange h n < n := by
  rw [vhRange, Nat.shiftRight_eq_div_pow, Nat.div_lt_iff_lt_mul (Nat.two_pow_pos 64), Nat.mul_comm n]
  exact Nat.mul_lt_mul_of_pos_right hh hn

/-- Settles O47: the matches are the candidates whose build key is the key, sorted; a code counts boundaries in use; a
hash of 64 bits is scaled down into N places. -/
theorem matchesAndCodes : Obligations.MatchesAndCodes := by
  unfold Obligations.MatchesAndCodes
  exact ⟨fun w j seed key => ⟨w.pairwise_matchesOf j seed key, fun _ => Work.matchesOf_keyOf⟩,
    fun top nan null bounds v _ => ⟨quantile_le_top top nan null bounds v, quantile_of_null_or_nan top nan bounds⟩,
    fun top nan bounds _ _ => quantile_int_mono top nan bounds,
    fun seed _ key => vhRange_lt (vh64_lt seed key)⟩

end Sys2Proof.Machine

/-! The instructions of a general core (chapter 08): fetch through the instruction cache, and the integer operations
(R68, R215, R225). -/

namespace Sys2Proof.Machine

/-! ## The state after a command that stores nothing -/

/-- A command that stores nothing, and makes no float addition, leaves the memory as it was and the block as its effect
does. -/
theorem State.on_of_no_store {f : Work → Work} {s : State} (hj : (f s.work).jnl = []) (ha : (f s.work).adds = []) :
    s.on f = { toBlock := (f s.work).toBlock, mem := s.mem, pending := s.pending } := by
  simp only [State.on, Work.flushAdds_nil ha, Work.cureWords_of_jnl_nil hj, Work.dropReservations_of_jnl_nil hj, hj]
  rfl

/-! ## Fetching (R225) -/

/-- Clean check bits change nothing (R220). -/
theorem Work.gcEcc_of_clean (w : Work) (d g : Nat) {found : List (Nat × Ecc)} (h : ∀ e ∈ found, e.2 = .clean) :
    w.gcEcc d g found = w := by
  induction found with
  | nil => rfl
  | cons e found ih =>
    obtain ⟨he, hrest⟩ := List.forall_mem_cons.mp h
    rw [Work.gcEcc, List.foldl_cons, he, ite_self]
    exact ih hrest

/-- Only what a fetch may change differs: registers, the free values drawn and, of the cores, the instruction cache of
core g of die d. -/
def Work.OnlyFetched (d g : Nat) (w v : Work) : Prop :=
  (∃ r n cs, v = { w with regs := r, free := n, cores := cs }) ∧
  ∃ lines, v.core d g = { w.core d g with icache := lines }

theorem Work.OnlyFetched.refl (d g : Nat) (w : Work) : w.OnlyFetched d g w := ⟨⟨_, _, _, rfl⟩, _, rfl⟩

theorem Work.OnlyFetched.trans {d g : Nat} {u v w : Work} (h : u.OnlyFetched d g v) (k : v.OnlyFetched d g w) :
    u.OnlyFetched d g w := by
  obtain ⟨⟨_, _, _, rfl⟩, _, hcore⟩ := h
  obtain ⟨⟨r, n, cs, rfl⟩, lines, hcore'⟩ := k
  exact ⟨⟨r, n, cs, rfl⟩, lines, by rw [hcore', hcore]⟩

/-- A line fetched changes no more. -/
theorem Work.onlyFetched_fetchLine {w v : Work} {d g line : Nat} {bs : List Byte}
    (h : w.fetchLine d g line = some (bs, v)) : Work.OnlyFetched d g w v := by
  unfold Work.fetchLine at h
  dsimp only at h
  split at h
  · cases h
    exact .refl d g w
  · split at h
    · cases h
    · cases h
      split
      · exact ⟨⟨_, _, _, rfl⟩, _, Work.core_setCore w d g _⟩
      · exact ⟨⟨_, _, _, rfl⟩, _, Work.core_setCore (w.fresh 2).2 d g _⟩

/-- Nor does a half word fetched. -/
theorem Work.onlyFetched_fetchHalf {w v : Work} {d g pc h : Nat} (hf : w.fetchHalf d g pc = .inl (h, v)) :
    Work.OnlyFetched d g w v := by
  unfold Work.fetchHalf at hf
  extract_lets code at hf
  split at hf
  · cases hf
  · split at hf
    · cases hf
    · split at hf
      next hline =>
        cases hf
        exact onlyFetched_fetchLine hline
      next => cases hf

/-! ## One instruction -/

section
variable {w v u : Work} {d g h k i : Nat}

/-- A program counter from which nothing can be fetched traps. -/
theorem Work.rvStep_of_trap {t : TrapInfo} (hf : w.fetchHalf d g (w.core d g).pc = .inr t) :
    w.rvStep d g = w.trap d g t := by
  simp only [Work.rvStep, hf]

/-- A 16-bit code is executed as the instruction that it abbreviates. -/
theorem Work.rvStep_of_code (hf : w.fetchHalf d g (w.core d g).pc = .inl (h, v)) (hc : h % 4 ≠ 3)
    (hx : expandC h = some i) : w.rvStep d g = v.execWord d g i 2 := by
  simp only [Work.rvStep, hf, if_pos hc, hx]

/-- A 16-bit code that abbreviates none is an illegal instruction. -/
theorem Work.rvStep_of_no_code (hf : w.fetchHalf d g (w.core d g).pc = .inl (h, v)) (hc : h % 4 ≠ 3)
    (hx : expandC h = none) : w.rvStep d g = v.trap d g (trapIllegal h) := by
  simp only [Work.rvStep, hf, if_pos hc, hx]

/-- A 32-bit word is executed from its two halves. -/
theorem Work.rvStep_of_word (hf : w.fetchHalf d g (w.core d g).pc = .inl (h, v)) (hc : h % 4 = 3)
    (hf' : v.fetchHalf d g ((w.core d g).pc + 2) = .inl (k, u)) : w.rvStep d g = u.execWord d g (h + k * 65536) 4 := by
  simp only [Work.rvStep, hf, hf', if_neg (not_not_intro hc)]

end

/-- On a core that runs, with clean check bits, the command is one step of the core. -/
theorem exec_rv64gcInstruction {s : State} {d g : Nat} (hd : d < 4) (hg : g < 96)
    (hclean : ∀ e ∈ s.work.nextFound, e.2 = .clean) (hruns : s.work.coreRuns d g = true) :
    exec (.rv64gcInstruction d g) s = .next (s.on fun w => (w.rvStep d g).dropFound) := by
  show execRv64gcInstruction d g s = _
  refine State.perform_eq_on _ (by simp [Instr.wf, hd, hg]) ?_
  rw [Work.coreRow, if_pos hruns, Work.gcEcc_of_clean _ d g hclean]

/-- What one step gives on the block as the command finds it decides the command's outcome. -/
theorem exec_rv64gcInstruction_of_rvStep {s : State} {d g : Nat} {v : Work} (hd : d < 4) (hg : g < 96)
    (hclean : ∀ e ∈ s.work.nextFound, e.2 = .clean) (hruns : s.work.coreRuns d g = true) (h : s.work.rvStep d g = v) :
    exec (.rv64gcInstruction d g) s = .next (s.on fun _ => v.dropFound) := by
  subst h
  rw [exec_rv64gcInstruction hd hg hclean hruns, State.on_congr (g := fun _ => (s.work.rvStep d g).dropFound) rfl]

/-! ## The integer operations -/

/-- What an integer operation writes to rd, by its opcode; none for another instruction or a reserved code. -/
def Core.integerOp (c : Core) (i : Nat) : Option Nat :=
  if i % 128 = 0x13 then c.opImm i else if i % 128 = 0x33 then c.opReg i else
  if i % 128 = 0x1B then c.opImm32 i else if i % 128 = 0x3B then c.opReg32 i else
  if i % 128 = 0x37 then some (wrapTo 64 (immU i)) else if i % 128 = 0x17 then some (wrapTo 64 (c.pc + immU i)) else none

/-- It does not depend on the instruction cache. -/
theorem Core.integerOp_icache (c : Core) (lines : List (Nat × List Byte)) (i : Nat) :
    ({ c with icache := lines } : Core).integerOp i = c.integerOp i := rfl

/-- An integer operation writes rd and moves on. -/
theorem Work.execWord_of_integerOp {w : Work} {d g i x : Nat} (len : Nat) (h : (w.core d g).integerOp i = some x) :
    w.execWord d g i len = w.setCore d g (((w.core d g).setX (rdOf i) x).retire len) := by
  suffices hresult : w.execWord d g i len = w.result d g i len (some x) from hresult
  unfold Core.integerOp at h
  iterate 6
    split at h
    next hop =>
      rw [← h]
      simp only [Work.execWord, hop]
  cases h

/-- Register x after a write: x0 stays zero, rd reads what was written kept to 64 bits, every other is as it was. -/
theorem Core.getX_setX_eq (c : Core) (k v r : Nat) :
    (c.setX k v).getX r = if r = k ∧ r ≠ 0 then v % 2 ^ 64 else c.getX r := by
  by_cases hrk : r = k
  · subst hrk
    by_cases hr : r = 0
    · subst hr
      simp [Core.getX_zero]
    · rw [if_pos ⟨rfl, hr⟩, Core.getX_setX hr]
  · rw [if_neg (hrk ∘ And.left), Core.getX_setX_other hrk]

@[simp] theorem Core.setX_v (c : Core) (r x : Nat) : (c.setX r x).v = c.v := by unfold Core.setX; split <;> rfl
@[simp] theorem Core.setX_f (c : Core) (r x : Nat) : (c.setX r x).f = c.f := by unfold Core.setX; split <;> rfl
@[simp] theorem Core.retire_v (c : Core) (n : Nat) : (c.retire n).v = c.v := rfl
@[simp] theorem Core.retire_f (c : Core) (n : Nat) : (c.retire n).f = c.f := rfl

/-- A step that only fetched and then executes an integer operation stores nothing; its core, but for the instruction cache,
is the one that wrote rd and moved on. -/
theorem State.on_integerOp {s : State} {v : Work} {d g i x : Nat} (hv : s.work.OnlyFetched d g v)
    (hx : (s.work.core d g).integerOp i = some x) :
    (s.on fun _ => (v.execWord d g i 4).dropFound).mem = s.mem ∧
    ∃ lines, (s.on fun _ => (v.execWord d g i 4).dropFound).work.core d g =
      (({ s.work.core d g with icache := lines } : Core).setX (rdOf i) x).retire 4 := by
  obtain ⟨⟨r, n, cs, hblock⟩, lines, hcore⟩ := hv
  have hjnl : v.jnl = [] := by rw [hblock, State.work_jnl]
  have hadds : v.adds = [] := by rw [hblock, State.work_adds]
  have hop : (v.core d g).integerOp i = some x := by rw [hcore, Core.integerOp_icache, hx]
  rw [Work.execWord_of_integerOp 4 hop, State.on_of_no_store hjnl hadds]
  exact ⟨rfl, lines, (Work.core_setCore v d g _).trans (by rw [hcore])⟩

/-- Settles O42: a command is one step of the core, whose fetches change nothing but its instruction cache, and each
integer operation writes rd and moves on. -/
theorem coreInstructions : Obligations.CoreInstructions := by
  unfold Obligations.CoreInstructions
  intro s d g hd hg hclean hruns c
  have hstep {v : Work} : s.work.rvStep d g = v → exec (.rv64gcInstruction d g) s = .next (s.on fun _ => v.dropFound) :=
    exec_rv64gcInstruction_of_rvStep hd hg hclean hruns
  refine ⟨fun t hf => ?_, fun h w i hf hc hx => hstep (Work.rvStep_of_code hf hc hx),
    fun h w hf hc hx => hstep (Work.rvStep_of_no_code hf hc hx), fun h w k v hf hc hf' => ?_⟩
  · exact hstep (Work.rvStep_of_trap hf)
  · have hexec := hstep (Work.rvStep_of_word hf hc hf')
    have hfetched := (Work.onlyFetched_fetchHalf hf).trans (Work.onlyFetched_fetchHalf hf')
    refine ⟨hexec, fun x hx => ?_⟩
    obtain ⟨hmem, lines, hcore⟩ := State.on_integerOp hfetched hx
    refine ⟨_, hexec, hmem, ?_⟩
    rw [hcore]
    simp only [Core.retire_pc, Core.setX_pc, Core.retire_getX, Core.getX_setX_eq, Core.retire_v, Core.setX_v,
      Core.retire_f, Core.setX_f]
    exact ⟨rfl, fun _ => rfl, rfl, rfl⟩

end Sys2Proof.Machine

/-! Memory's canonical form, and requests at the stream engine with the descriptor slots and the streams that they act on
(chapters 04 and 09: R99 to R103, R110, R115, R240, R243 to R246, R253, R255, R272). -/

namespace Sys2Proof.Machine

/-! ## Memory -/

/-- No effect of a command ends the canonical form of memory. -/
theorem State.memInv_on (f : Work → Work) {s : State} (h : MemInv s) : MemInv (s.on f) := Memory.wf_commit _ h

/-- Settles O3: a step leaves the state as it is or commits the journal of one command, and a journal keeps the form. -/
theorem memoryStaysCanonical : Obligations.MemoryStaysCanonical := by
  unfold Obligations.MemoryStaysCanonical
  intro s t hs hstep
  rcases step_next hstep with ⟨_, rfl⟩ | ⟨c, cs, f, _, _, rfl⟩
  · exact hs
  · exact State.memInv_on f hs

/-! ## Sparse maps -/

/-- Dropping a key below every key of a map drops nothing. -/
theorem smDrop_of_lt {α : Type} {m : List (Nat × α)} {a : Nat} (h : ∀ l u, (l, u) ∈ m → a < l) : smDrop m a = m :=
  List.filter_eq_self.mpr fun e he => decide_eq_true (Nat.ne_of_gt (h e.1 e.2 he))

/-- A canonical map holds the default below its first key. -/
theorem smGet_of_lt {α : Type} {d : α} {m : List (Nat × α)} {a : Nat} (h : ∀ l u, (l, u) ∈ m → a < l) :
    smGet d m a = d := by
  induction m with
  | nil => rfl
  | cons e m ih =>
    obtain ⟨k, v⟩ := e
    have hk : k ≠ a := Nat.ne_of_gt (h k v (List.mem_cons_self ..))
    rw [smGet, if_neg hk, ih fun l u hl => h l u (List.mem_cons_of_mem _ hl)]

/-- Writing what a canonical map already holds changes nothing. -/
theorem smSet_smGet {α : Type} [DecidableEq α] {d : α} {m : List (Nat × α)} (a : Nat) (h : smWf d m = true) :
    smSet d m a (smGet d m a) = m := by
  induction m with
  | nil => simp [smSet]
  | cons e m ih =>
    obtain ⟨k, v⟩ := e
    obtain ⟨hv, hm, hk⟩ := smWf_head h
    rcases Nat.lt_trichotomy a k with hlt | rfl | hgt
    · have hbelow : ∀ l u, (l, u) ∈ m → a < l := fun l u hl => Nat.lt_trans hlt (hk l u hl)
      simp [smSet, smGet, hlt, Nat.ne_of_gt hlt, smGet_of_lt hbelow, smDrop_of_lt hbelow]
    · simp [smSet, smGet, hv]
    · simp [smSet, smGet, Nat.lt_asymm hgt, Nat.ne_of_gt hgt, Nat.ne_of_lt hgt, ih hm]

/-! ## Completions -/

@[simp] theorem Work.faultPlan_errs (w : Work) (p st : Nat) : (w.faultPlan p st).errs = w.errs := by
  unfold Work.faultPlan
  dsimp only
  split
  · split <;> rfl
  · rfl

@[simp] theorem Work.completion_errs (w : Work) (d p a n : Nat) (bs : List Byte) :
    (w.completion d p a n bs).errs = w.errs := by
  unfold Work.completion
  dsimp only
  split
  · rfl
  · split
    · obtain ⟨j, h, e⟩ := w.write_only (a - a % n) bs
      rw [e]
    · obtain ⟨r, e, h⟩ := (w.faultPlan p sUnmapped).onlyNotes_event (dieSource 3 d) sUnmapped
        (256 + detailAddr (a - a % n))
      rw [h]
      exact w.faultPlan_errs p sUnmapped

/-- A completion leaves the error counts alone. -/
@[simp] theorem Work.finish_errs (w : Work) (f : Flight) : (w.finish f).errs = w.errs := by
  unfold Work.finish
  dsimp only
  cases f.iss <;> exact w.completion_errs ..

@[simp] theorem Work.tapIssue_errs (w : Work) (iss : Issuer) : (w.tapIssue iss).errs = w.errs := by cases iss <;> rfl

/-- One failure is reported, and no further one counted (R18). -/
theorem furtherCount_singleton (x : Nat) : furtherCount [x] = 0 :=
  Nat.sub_eq_zero_of_le (List.length_filter_le _ [x])

/-- So a command that meets one failure counts nothing, where the counts are in canonical form. -/
theorem Work.countFurther_singleton {w : Work} (u : CntUnit) (x : Nat) (h : smWf 0 w.errs.further = true) :
    w.countFurther u [x] = w := by
  rw [Work.countFurther, furtherCount_singleton, Nat.add_zero, Work.furtherOf, smSet_smGet _ h]

/-! ## Requests at the stream engine (R240, R243, R244) -/

/-- The rows of the stream engine: the OP, the command, and how the unit serves a request whose reserved bits are zero. -/
def streamRows : List (Nat × (Issuer → Rec → Instr) × (Work → Issuer → StrmReq → Rec → Work)) :=
  [(0x61, .xfer, Work.xferRun), (0x62, .descInstall, Work.descInstall), (0x63, .descRelease, Work.descRelease),
   (0x64, .streamStart, Work.streamStartReq), (0x65, .streamStop, Work.streamStopReq),
   (0x66, .barArrive, Work.barArriveReq), (0x67, .barArm, Work.barArmReq), (0x68, .chain, Work.chainReq),
   (0x69, .resume, Work.resumeReq)]

section
variable {op : Nat} {c : Issuer → Rec → Instr} {serve : Work → Issuer → StrmReq → Rec → Work}
  {iss : Issuer} {r : Rec} {s : State} {w : Work}

/-- Every row has the one meaning of `Work.strmRow`, and needs no more than an issuer that exists. -/
theorem exec_streamRow (hc : (op, c, serve) ∈ streamRows) (iss : Issuer) (r : Rec) (s : State) :
    exec (c iss r) s = s.perform (c iss r) (fun w => w.strmRow op iss r) ∧ (c iss r).wf = iss.wf := by
  simp only [streamRows, List.mem_cons, List.not_mem_nil, or_false, Prod.mk.injEq] at hc
  rcases hc with h | h | h | h | h | h | h | h | h <;> obtain ⟨rfl, rfl, rfl⟩ := h <;> exact ⟨rfl, rfl⟩

/-- A request whose reserved bits are zero is served as its row says. -/
theorem Work.strmAccept_of_recZero {z : List (Nat × Nat)} (hc : (op, c, serve) ∈ streamRows) (w : Work) (iss : Issuer)
    (hop : recF r 7 0 = op) (hz : strmReserved op = some z) (hr : recZero r z = true) :
    w.strmAccept iss r = serve w iss (StrmReq.ofRec r) r := by
  simp only [streamRows, List.mem_cons, List.not_mem_nil, or_false, Prod.mk.injEq] at hc
  rcases hc with h | h | h | h | h | h | h | h | h <;> obtain ⟨rfl, rfl, rfl⟩ := h <;>
    simp [Work.strmAccept, StrmReq.ofRec, hop, hz, hr]

/-- A request that the unit takes is served as its row says. -/
theorem exec_of_streamRequest (hc : (op, c, serve) ∈ streamRows) (h : StreamRequest op iss r s w) :
    exec (c iss r) s = .next (s.on fun _ => serve w iss (StrmReq.ofRec r) r) := by
  obtain ⟨hiss, hop, hroom, rfl, z, hz, hr⟩ := h
  obtain ⟨hexec, hwf⟩ := exec_streamRow hc iss r s
  rw [hexec]
  refine State.perform_eq_on _ (hwf.trans hiss) ?_
  rw [Work.strmRow, if_pos hop, Work.strmIssue, if_pos hroom, Work.strmAccept_of_recZero hc _ iss hop hz hr]

/-- A core with 64 requests outstanding waits, and nothing is issued (R240). -/
theorem exec_streamRow_of_no_room (hc : (op, c, serve) ∈ streamRows) (hiss : iss.wf = true)
    (hroom : s.work.tapRoom iss = false) : exec (c iss r) s = .next s := by
  obtain ⟨hexec, hwf⟩ := exec_streamRow hc iss r s
  rw [hexec]
  refine State.perform_unchanged (hwf.trans hiss) ?_
  simp [Work.strmRow, Work.strmIssue, hroom]

/-- A request with a reserved bit set is issued and fails with DESC_RANGE (R243, R244). -/
theorem exec_streamRow_of_reserved {z : List (Nat × Nat)} (hc : (op, c, serve) ∈ streamRows) (hiss : iss.wf = true)
    (hop : recF r 7 0 = op) (hroom : s.work.tapRoom iss = true) (hz : strmReserved op = some z)
    (hr : recZero r z = false) :
    exec (c iss r) s = .next (s.on fun w => (w.tapIssue iss).strmFail iss (StrmReq.ofRec r) [sRange]) := by
  obtain ⟨hexec, hwf⟩ := exec_streamRow hc iss r s
  rw [hexec]
  refine State.perform_eq_on _ (hwf.trans hiss) ?_
  simp [Work.strmRow, Work.strmIssue, Work.strmAccept, StrmReq.ofRec, hop, hroom, hz, hr]

/-- Where the counts of further failures are in canonical form, it does nothing else. -/
theorem exec_streamRow_of_reserved_canonical {z : List (Nat × Nat)} (hc : (op, c, serve) ∈ streamRows)
    (hiss : iss.wf = true) (hop : recF r 7 0 = op) (hroom : s.work.tapRoom iss = true)
    (hz : strmReserved op = some z) (hr : recZero r z = false) (hcounts : smWf 0 s.errs.further = true) :
    exec (c iss r) s = .next (s.on fun w =>
      (w.tapIssue iss).finish { (w.tapIssue iss).strmFlight iss (StrmReq.ofRec r) with status := sRange }) := by
  have hnone : (s.work.tapIssue iss).countFurther (.strm (issDie iss)) [sRange] = s.work.tapIssue iss :=
    Work.countFurther_singleton _ _ (by rw [Work.tapIssue_errs]; exact hcounts)
  rw [exec_streamRow_of_reserved hc hiss hop hroom hz hr]
  refine congrArg _ (State.on_congr ?_)
  rw [Work.strmFail, hnone]
  rfl

/-! ## Descriptor slots (R99 to R103) -/

/-- An EMPTY slot becomes VALID with the descriptor that passes its checks. -/
theorem exec_descInstall_of_empty {x : Rec} (h : StreamRequest 0x62 iss r s w)
    (hhandle : w.handleOk (w.planOf iss) (recF r 111 96) = true)
    (hslot : (w.slot (w.planOf iss) (recF r 111 96)).st = .empty) (haddr : recF r 179 128 % 64 = 0)
    (hread : w.readRec (resolveAddr iss (recF r 179 128)) = some x) (hvalid : w.validate (w.planOf iss) x = []) :
    exec (.descInstall iss r) s = .next (s.on fun _ =>
      (w.setSlot (w.planOf iss) (recF r 111 96) ⟨.valid, x⟩).strmOk iss (StrmReq.ofRec r) none) := by
  rw [exec_of_streamRequest (c := .descInstall) (serve := Work.descInstall) (by simp [streamRows]) h]
  simp [Work.descInstall, Work.strmEnd, chk, hhandle, hslot, haddr, hread, hvalid]

/-- A slot that is not EMPTY keeps its descriptor. -/
theorem exec_descInstall_of_not_empty {x : Rec} (h : StreamRequest 0x62 iss r s w)
    (hhandle : w.handleOk (w.planOf iss) (recF r 111 96) = true)
    (hslot : (w.slot (w.planOf iss) (recF r 111 96)).st ≠ .empty) (haddr : recF r 179 128 % 64 = 0)
    (hread : w.readRec (resolveAddr iss (recF r 179 128)) = some x) (hvalid : w.validate (w.planOf iss) x = []) :
    exec (.descInstall iss r) s = .next (s.on fun _ => w.strmFail iss (StrmReq.ofRec r) [sState]) := by
  rw [exec_of_streamRequest (c := .descInstall) (serve := Work.descInstall) (by simp [streamRows]) h]
  simp [Work.descInstall, Work.strmEnd, chk, hhandle, hslot, haddr, hread, hvalid]

/-- A VALID slot becomes RELEASING; any other keeps its state, and a handle that names none is refused. -/
theorem exec_descRelease (h : StreamRequest 0x63 iss r s w) :
    exec (.descRelease iss r) s = .next (s.on fun _ =>
      let p := w.planOf iss
      let i := recF r 111 96
      if w.handleOk p i = false then w.strmFail iss (StrmReq.ofRec r) [sRange]
      else if (w.slot p i).st = .valid then
        (w.setSlot p i ⟨.releasing, (w.slot p i).desc⟩).strmOk iss (StrmReq.ofRec r) none
      else w.strmFail iss (StrmReq.ofRec r) [sState]) := by
  rw [exec_of_streamRequest (c := .descRelease) (serve := Work.descRelease) (by simp [streamRows]) h]
  dsimp only
  split
  next hhandle => simp [Work.descRelease, Work.strmEnd, chk, hhandle]
  next hhandle =>
    rw [Bool.not_eq_false] at hhandle
    split
    next hvalid => simp [Work.descRelease, Work.strmEnd, chk, hhandle, hvalid]
    next hvalid => simp [Work.descRelease, Work.strmEnd, chk, hhandle, hvalid]

/-! ## Streams (R244 to R246, R253, R255, R272) -/

/-- A description that passes its checks takes the lowest FREE context, with the slots as they are. -/
theorem exec_streamStart_of_freeCtx {n : Nat} {desc : List Byte} (h : StreamRequest 0x64 iss r s w)
    (haddr : recF r 147 96 % 64 = 0) (hread : w.read (resolveAddr iss (recF r 147 96)) 576 = some desc)
    (hdesc : w.descriptionFails (w.planOf iss) desc = []) (hfree : w.freeCtx (issDie iss) = some n) :
    exec (.streamStart iss r) s = .next (s.on fun _ =>
      (w.setCtx (issDie iss) n { Ctx.atReset with
        st := .running, desc := desc, plan := w.planOf iss, started := w.now, a := [0, 0, 0, 0, 0, 0, 0, 0],
        held := w.hold (w.planOf iss) ((List.range 4).map (fun k => (bindingOf desc k).handle)),
        task := none, chain := none }).strmOk iss (StrmReq.ofRec r) (some n)) := by
  rw [exec_of_streamRequest (c := .streamStart) (serve := Work.streamStartReq) (by simp [streamRows]) h]
  simp [Work.streamStartReq, Work.streamBegin, haddr, hread, hdesc, hfree]

/-- Without a FREE context nothing else is looked at. -/
theorem exec_streamStart_of_no_freeCtx (h : StreamRequest 0x64 iss r s w) (hfree : w.freeCtx (issDie iss) = none) :
    exec (.streamStart iss r) s = .next (s.on fun _ => w.strmFail iss (StrmReq.ofRec r) [sState]) := by
  rw [exec_of_streamRequest (c := .streamStart) (serve := Work.streamStartReq) (by simp [streamRows]) h]
  simp [Work.streamStartReq, hfree]

/-- A description must begin at a line. -/
theorem exec_streamStart_of_unaligned {n : Nat} (h : StreamRequest 0x64 iss r s w)
    (hfree : w.freeCtx (issDie iss) = some n) (haddr : recF r 147 96 % 64 ≠ 0) :
    exec (.streamStart iss r) s = .next (s.on fun _ => w.strmFail iss (StrmReq.ofRec r) [sRange]) := by
  rw [exec_of_streamRequest (c := .streamStart) (serve := Work.streamStartReq) (by simp [streamRows]) h]
  simp [Work.streamStartReq, hfree, haddr]

/-- STREAM_STOP stops a stream whose context is not FREE. -/
theorem exec_streamStop (h : StreamRequest 0x65 iss r s w) :
    exec (.streamStop iss r) s = .next (s.on fun _ =>
      if (w.ctx (issDie iss) (recF r 103 96)).st = .free then w.strmFail iss (StrmReq.ofRec r) [sState]
      else (w.streamStop (issDie iss) (recF r 103 96) false).strmOk iss (StrmReq.ofRec r) none) := by
  rw [exec_of_streamRequest (c := .streamStop) (serve := Work.streamStopReq) (by simp [streamRows]) h]
  split
  next hfree => simp [Work.streamStopReq, Work.strmEnd, chk, hfree]
  next hfree => simp [Work.streamStopReq, Work.strmEnd, chk, hfree]

/-- RESUME of management firmware lets a HALTED stream run on. -/
theorem exec_resume_of_halted {mc d : Nat} (h : StreamRequest 0x69 (.firmware mc d) r s w)
    (hst : (w.ctx d (recF r 103 96)).st = .halted) :
    exec (.resume (.firmware mc d) r) s = .next (s.on fun _ =>
      (w.setCtx d (recF r 103 96) { w.ctx d (recF r 103 96) with st := .running }).strmOk (.firmware mc d)
        (StrmReq.ofRec r) none) := by
  rw [exec_of_streamRequest (c := .resume) (serve := Work.resumeReq) (by simp [streamRows]) h]
  simp [Work.resumeReq, Work.strmEnd, chk, issDie, hst]

/-- RESUME is refused to any other issuer. -/
theorem exec_resume_of_not_firmware (h : StreamRequest 0x69 iss r s w) (hiss : ∀ mc d, iss ≠ .firmware mc d) :
    exec (.resume iss r) s = .next (s.on fun _ => w.strmFail iss (StrmReq.ofRec r) [sState]) := by
  rw [exec_of_streamRequest (c := .resume) (serve := Work.resumeReq) (by simp [streamRows]) h]
  cases iss with
  | firmware mc d => exact absurd rfl (hiss mc d)
  | core d g => rfl
  | stream d n => rfl

end

/-! ## The tick's part in a slot (R102) -/

/-- A map filtered by its values reads what it read where the value is kept. -/
theorem smGet_filter_of_keeps {α : Type} {d : α} {m : List (Nat × α)} (keep : α → Bool) {a : Nat}
    (h : keep (smGet d m a) = true) : smGet d (m.filter (fun e => keep e.2)) a = smGet d m a := by
  induction m with
  | nil => rfl
  | cons e m ih =>
    obtain ⟨k, v⟩ := e
    by_cases hk : k = a
    · simp_all [smGet]
    · have htail : keep (smGet d m a) = true := by simpa [smGet, hk] using h
      cases hv : keep v <;> simp [smGet, hk, hv, ih htail]

/-- And reads no value but the default that it does not keep. -/
theorem smGet_filter_keeps {α : Type} {d : α} (m : List (Nat × α)) {keep : α → Bool} (hd : keep d = true) (a : Nat) :
    keep (smGet d (m.filter (fun e => keep e.2)) a) = true := by
  induction m with
  | nil => exact hd
  | cons e m ih =>
    obtain ⟨k, v⟩ := e
    cases hv : keep v with
    | false => simpa [hv] using ih
    | true =>
      by_cases hk : k = a
      · simp [hv, smGet, hk]
      · simpa [hv, smGet, hk] using ih

/-- A canonical map filtered by its values holds the default where the value is not kept. -/
theorem smGet_filter_of_not_keeps {α : Type} [DecidableEq α] {d : α} {m : List (Nat × α)} {keep : α → Bool} {a : Nat}
    (hm : smWf d m = true) (h : keep (smGet d m a) = false) : smGet d (m.filter (fun e => keep e.2)) a = d := by
  induction m with
  | nil => rfl
  | cons e m ih =>
    obtain ⟨k, v⟩ := e
    obtain ⟨_, hmt, hk⟩ := smWf_head hm
    by_cases hka : k = a
    · subst hka
      have hv : keep v = false := by simpa [smGet] using h
      simp [hv, smGet_of_lt fun l u hl => hk l u (List.mem_filter.mp hl).1]
    · have htail : keep (smGet d m a) = false := by simpa [smGet, hka] using h
      cases hv : keep v <;> simp [hv, smGet, hka, ih hmt htail]

/-- Whether the tick keeps a slot. -/
def Slot.outlivesTick (x : Slot) : Bool := decide (x.st ≠ .releasing)

theorem Slot.outlivesTick_iff (x : Slot) : x.outlivesTick = true ↔ x.st ≠ .releasing := decide_eq_true_iff

/-- A slot that is not RELEASING stays as it is. -/
theorem Work.slot_releaseSlots_of_not_releasing {w : Work} {p h : Nat} (hst : (w.slot p h).st ≠ .releasing) :
    w.releaseSlots.slot p h = w.slot p h :=
  smGet_filter_of_keeps Slot.outlivesTick ((Slot.outlivesTick_iff _).mpr hst)

/-- No slot is RELEASING after the tick. -/
theorem Work.slot_releaseSlots_st (w : Work) (p h : Nat) : (w.releaseSlots.slot p h).st ≠ .releasing :=
  (Slot.outlivesTick_iff _).mp (smGet_filter_keeps w.slots (keep := Slot.outlivesTick) rfl _)

/-- In a canonical slot map a RELEASING slot becomes EMPTY. -/
theorem Work.slot_releaseSlots_of_releasing {w : Work} {p h : Nat} (hm : smWf Slot.atReset w.slots = true)
    (hst : (w.slot p h).st = .releasing) : w.releaseSlots.slot p h = Slot.atReset :=
  smGet_filter_of_not_keeps (keep := Slot.outlivesTick) hm (decide_eq_false (not_not_intro hst))

/-! ## The counts of further failures -/

/-- The reset state, but for an entry of the counts of further failures that holds the default for the stream engine of
die 0: the map is not in canonical form. -/
def State.zeroCountListed : State :=
  { State.reset with errs := { State.reset.errs with further := [((CntUnit.strm 0).key, 0)] } }

/-- A request that fails writes its unit's count of further failures again. -/
theorem Work.strmFail_further (w : Work) (iss : Issuer) (q : StrmReq) (fs : List Nat) :
    (w.strmFail iss q fs).errs.further =
      smSet 0 w.errs.further (CntUnit.strm (issDie iss)).key (w.furtherOf (.strm (issDie iss)) + furtherCount fs) := by
  rw [Work.strmFail, Work.finish_errs]
  rfl

/-- Refutes O16: of a request with a reserved bit set it says that its completion is the whole effect, but the unit also
writes its count of further failures again, unchanged. Where that map is not in canonical form (no run from reset makes
one) the write is seen: an XFER with bit 8 set removes the entry that holds zero. Where the map is canonical, the clause
holds (`exec_streamRow_of_reserved_canonical`); the other clauses hold in every state, as the lemmas above give them. -/
theorem not_descriptorsAndStreamRequests : ¬ Obligations.DescriptorsAndStreamRequests := by
  unfold Obligations.DescriptorsAndStreamRequests
  rintro ⟨hrequests, -⟩
  have hop : recF 0x161 7 0 = 0x61 := by decide +kernel
  have hzero : recZero 0x161 [(15, 8), (95, 84), (159, 148), (223, 212), (511, 233)] = false := by decide +kernel
  have hclaim := (hrequests State.zeroCountListed (.firmware 0 0) 0x161 (.xfer (.firmware 0 0) 0x161) rfl
    (by rw [hop]; exact List.mem_cons_self ..)).2 _ rfl (by rw [hop]; rfl) hzero
  rw [exec_streamRow_of_reserved (c := .xfer) (List.mem_cons_self ..) rfl hop rfl rfl hzero] at hclaim
  have hfurther := congrArg (fun t : State => t.errs.further) (Host.Outcome.next.inj hclaim)
  simp only [State.on_errs, Work.strmFail_further, Work.finish_errs, Work.tapIssue_errs] at hfurther
  exact absurd hfurther (by decide)

end Sys2Proof.Machine

/-! The search of one match bank (chapter 06: R164 to R168). -/

namespace Sys2Proof.Machine

/-! ## Rows of a bank -/

/-- A row that was written reads as written, with its parity bit; every other row reads as before. -/
theorem MBank.row_setRow (b : MBank) (r k : Nat) (x : MRow) :
    (b.setRow r x).row k = if k = r then { x with par := x.parity } else b.row k := by
  unfold MBank.row MBank.setRow
  split
  next h => rw [h, smGet_smSet_same]
  next h => exact smGet_smSet_other (Ne.symm h)

/-- A sparse map lists every value that it holds but the default. -/
theorem mem_of_smGet_ne {α : Type} {d : α} {m : List (Nat × α)} {a : Nat} (h : smGet d m a ≠ d) :
    (a, smGet d m a) ∈ m := by
  induction m with
  | nil => exact absurd rfl h
  | cons e m ih =>
    obtain ⟨k, v⟩ := e
    by_cases hk : k = a
    · simp [smGet, hk]
    · simp only [smGet, hk, if_false] at h ⊢
      exact List.mem_cons_of_mem _ (ih h)

/-- A valid row is listed. -/
theorem MBank.mem_rows_of_valid {b : MBank} {r : Nat} (h : (b.row r).valid = true) : (r, b.row r) ∈ b.rows := by
  refine mem_of_smGet_ne fun hreset => ?_
  rw [MBank.row, hreset] at h
  exact Bool.false_ne_true h

/-- An entry that matches is valid (R164). -/
theorem MBank.valid_of_matches {b : MBank} {n e : Nat} {key : List Nat} (h : b.matches n e key = true) :
    (b.row (n * e)).valid = true := (Bool.and_eq_true_iff.mp h).1

/-! ## Candidates (R166, R167) -/

/-- The order in which a bank tries its candidates: the higher priority first, then the lower address (R166). -/
def MBank.before (b : MBank) (n x y : Nat) : Prop :=
  (b.row (n * y)).prio < (b.row (n * x)).prio ∨ ((b.row (n * x)).prio = (b.row (n * y)).prio ∧ x ≤ y)

/-- The candidates are the entries whose array matches. -/
theorem MBank.mem_candidates {b : MBank} {n x : Nat} {key : List Nat} (hn : 0 < n) :
    x ∈ b.candidates n key ↔ b.matches n x key = true := by
  simp only [MBank.candidates, mem_sortBy, List.mem_filter, and_iff_right_iff_imp]
  intro hx
  have hvalid := MBank.valid_of_matches hx
  refine List.mem_map.mpr ⟨_, List.mem_filter.mpr ⟨MBank.mem_rows_of_valid hvalid, ?_⟩, Nat.mul_div_cancel_left x hn⟩
  simp [hvalid]

/-- They are tried in order. -/
theorem MBank.pairwise_candidates (b : MBank) (n : Nat) (key : List Nat) :
    (b.candidates n key).Pairwise (b.before n) := by
  unfold MBank.candidates
  refine (pairwise_sortBy (fun x y => ?_) (fun x y z => ?_) _).imp fun {x y} h => ?_
  · simp only [Bool.or_eq_true, Bool.and_eq_true, decide_eq_true_eq]
    omega
  · simp only [Bool.or_eq_true, Bool.and_eq_true, decide_eq_true_eq]
    omega
  · simpa [MBank.before] using h

/-! ## Trying them (R167, R168) -/

/-- Two banks have the same companions in every row: priority, result and verify copy with its mark. -/
def MBank.SameCompanions (b c : MBank) : Prop :=
  ∀ r, ((c.row r).prio, (c.row r).result, (c.row r).vkey, (c.row r).vcare, (c.row r).ue) =
    ((b.row r).prio, (b.row r).result, (b.row r).vkey, (b.row r).vcare, (b.row r).ue)

theorem MBank.SameCompanions.refl (b : MBank) : b.SameCompanions b := fun _ => rfl

theorem MBank.SameCompanions.trans {b c d : MBank} (h : b.SameCompanions c) (k : c.SameCompanions d) :
    b.SameCompanions d := fun r => (k r).trans (h r)

/-- A row's array part and valid bit written again leave the companions as they are. -/
theorem MBank.sameCompanions_setRow (b : MBank) (r key care : Nat) (valid : Bool) :
    b.SameCompanions (b.setRow r { b.row r with key := key, care := care, valid := valid }) := by
  intro k
  rw [MBank.row_setRow]
  split
  next h => rw [h]
  next => rfl

/-- A rewrite of the array from the verify copies leaves the companions as they are. -/
theorem MBank.sameCompanions_rewrite (b : MBank) (n e : Nat) : b.SameCompanions (b.rewrite n e) := by
  unfold MBank.rewrite
  generalize List.range n = us
  induction us generalizing b with
  | nil => exact .refl b
  | cons u us ih => exact (b.sameCompanions_setRow (n * e + u) _ _ (b.row (n * e + u)).valid).trans (ih _)

/-- An entry's copy is good and matches the key (R167). -/
def MBank.answers (b : MBank) (n : Nat) (key : List Nat) (e : Nat) : Bool := !b.entryUe n e && b.verifies n e key

theorem MBank.answers_iff {b : MBank} {n e : Nat} {key : List Nat} :
    b.answers n key e = true ↔ b.entryUe n e = false ∧ b.verifies n e key = true := by
  rw [MBank.answers, Bool.and_eq_true, Bool.not_eq_true']

/-- What a bank answers for an entry (R166). -/
def MBank.hitAt (b : MBank) (n base e : Nat) : Hit := ⟨(b.row (n * e)).prio, (b.row (n * e)).result, base + n * e⟩

namespace MBank.SameCompanions
variable {b c : MBank} (h : b.SameCompanions c) (n : Nat)
include h

theorem entryUe (e : Nat) : c.entryUe n e = b.entryUe n e := by
  have hue (r : Nat) : (c.row r).ue = (b.row r).ue := by simpa using congrArg (·.2.2.2.2) (h r)
  simp only [MBank.entryUe, hue]

theorem verifies (e : Nat) (key : List Nat) : c.verifies n e key = b.verifies n e key := by
  have hkey (r : Nat) : (c.row r).vkey = (b.row r).vkey := congrArg (·.2.2.1) (h r)
  have hcare (r : Nat) : (c.row r).vcare = (b.row r).vcare := congrArg (·.2.2.2.1) (h r)
  simp only [MBank.verifies, hkey, hcare]

theorem hitAt (base e : Nat) : c.hitAt n base e = b.hitAt n base e := by
  have hprio : (c.row (n * e)).prio = (b.row (n * e)).prio := congrArg (·.1) (h (n * e))
  have hresult : (c.row (n * e)).result = (b.row (n * e)).result := congrArg (·.2.1) (h (n * e))
  simp only [MBank.hitAt, hprio, hresult]

end MBank.SameCompanions

/-- The loop answers the first candidate whose copy is good and matches, whatever it rewrote or cleared on the way. -/
theorem hit_bankTry {b : MBank} (n base : Nat) (key : List Nat) (es : List Nat) {s : Searched}
    (hs : b.SameCompanions s.bank) (hnone : s.hit = none) :
    (bankTry n base key es s).hit = (es.find? (b.answers n key)).map (b.hitAt n base) := by
  induction es generalizing s with
  | nil => exact hnone
  | cons e es ih =>
    rw [bankTry, hs.entryUe, hs.verifies, List.find?_cons]
    cases hue : b.entryUe n e with
    | true =>
      have hcleared : b.SameCompanions (s.bank.setRow (n * e) { s.bank.row (n * e) with valid := false }) :=
        hs.trans (s.bank.sameCompanions_setRow (n * e) _ _ false)
      simp only [MBank.answers, hue, if_true, Bool.not_true, Bool.false_and]
      exact ih hcleared hnone
    | false =>
      cases hv : b.verifies n e key with
      | true =>
        simp only [MBank.answers, hue, hv, if_true]
        exact congrArg some (hs.hitAt n base e)
      | false =>
        simp only [MBank.answers, hue, hv, Bool.false_eq_true, if_false, Bool.and_false]
        exact ih (hs.trans (s.bank.sameCompanions_rewrite n e)) hnone

/-- A bank answers its first candidate whose copy is good and matches. -/
theorem MBank.hit_search (b : MBank) (n base : Nat) (key : List Nat) :
    (b.search n base key).hit = ((b.candidates n key).find? (b.answers n key)).map (b.hitAt n base) :=
  hit_bankTry n base key _ (.refl b) rfl

/-- No candidate before the one found is left to answer, and it comes before the others. -/
theorem MBank.before_of_find? {b : MBank} {n e x : Nat} {key : List Nat} (hn : 0 < n)
    (hfound : (b.candidates n key).find? (b.answers n key) = some e)
    (hx : b.matches n x key = true) (hans : b.answers n key x = true) : b.before n e x := by
  obtain ⟨_, earlier, later, hsplit, hfailed⟩ := List.find?_eq_some_iff_append.mp hfound
  have hmem : x ∈ earlier ++ e :: later := hsplit ▸ (MBank.mem_candidates hn).mpr hx
  have hord := b.pairwise_candidates n key
  rw [hsplit, List.pairwise_append, List.pairwise_cons] at hord
  obtain ⟨-, ⟨hlater, -⟩, -⟩ := hord
  rcases List.mem_append.mp hmem with hearlier | hrest
  · exact absurd (hfailed x hearlier) (by rw [hans]; decide)
  · rcases List.mem_cons.mp hrest with rfl | hx'
    · exact .inr ⟨rfl, Nat.le_refl _⟩
    · exact hlater x hx'

/-- Settles O36: the candidates are the matching entries in order, and the first of them that answers is the bank's answer. -/
theorem searchAnswersTheBestEntry : Obligations.SearchAnswersTheBestEntry := by
  unfold Obligations.SearchAnswersTheBestEntry
  intro b n base key hn _
  have hpos : 0 < n := by
    simp only [List.mem_cons, List.not_mem_nil, or_false] at hn
    omega
  rw [b.hit_search]
  refine ⟨fun h hhit => ?_, fun hnone x hx hue => ?_⟩
  · obtain ⟨e, hfound, rfl⟩ := Option.map_eq_some_iff.mp hhit
    have hvalid := MBank.valid_of_matches ((MBank.mem_candidates hpos).mp (List.mem_of_find?_eq_some hfound))
    obtain ⟨hue, hv⟩ := MBank.answers_iff.mp (List.find?_some hfound)
    refine ⟨e, rfl, hvalid, hv, hue, rfl, rfl, fun x hx hxue hxv => ?_⟩
    have hbefore := MBank.before_of_find? hpos hfound hx (MBank.answers_iff.mpr ⟨hxue, hxv⟩)
    exact hbefore.imp_right fun ⟨hprio, hle⟩ => ⟨hprio.symm, Nat.add_le_add_left (Nat.mul_le_mul_left n hle) base⟩
  · have hfails := List.find?_eq_none.mp (Option.map_eq_none_iff.mp hnone) x ((MBank.mem_candidates hpos).mpr hx)
    rw [MBank.answers_iff] at hfails
    exact Bool.eq_false_iff.mpr fun hv => hfails ⟨hue, hv⟩

end Sys2Proof.Machine

/-! Supplies, trips, the write inhibit, and what a sample moves (chapters 06, 20 and 24: R181, R545, R621, R622, R626,
R627, R629, R630, R633, R636, R648). -/

namespace Sys2Proof.Machine

/-! ## The hot-swap stage and the sequencer (R621, R622, R626, R627, R629) -/

@[simp] theorem Work.setMod_rd (w : Work) (m : ModSt → ModSt) (f : Fld) (d i : Nat) :
    (w.setMod m).rd f d i = w.rd f d i := rfl

/-- A change of the module's own state is the whole effect of a command that makes only it. -/
theorem State.on_setMod (s : State) (f : ModSt → ModSt) :
    s.on (fun w => w.setMod f) = { s with modl := f s.modl } := State.on_of_no_store rfl rfl

/-- The open switch closes, unless a trip holds it open. -/
theorem exec_hotSwapClose_of_open {s : State} (ho : s.modl.hotSwap = false)
    (ht : s.modl.tripped = false ∨ s.modl.pwrEn = false) :
    exec .hotSwapClose s = .next { s with modl := { s.modl with hotSwap := true, pwrEn := true, tripped := false } } := by
  have hfree : (s.modl.hotSwap || (s.modl.tripped && s.modl.pwrEn)) = false := by
    rcases ht with ht | ht <;> simp [ho, ht]
  rw [← s.on_setMod fun m => { m with hotSwap := true, pwrEn := true, tripped := false }]
  exact show execHotSwapClose s = _ from State.perform_eq_on _ rfl (if_neg (Bool.eq_false_iff.mp hfree))

/-- A closed switch stays as it is, and so does one that a trip holds open. -/
theorem exec_hotSwapClose_of_held {s : State} (h : s.modl.hotSwap = true ∨ (s.modl.tripped = true ∧ s.modl.pwrEn = true)) :
    exec .hotSwapClose s = .next s := by
  have hheld : (s.modl.hotSwap || (s.modl.tripped && s.modl.pwrEn)) = true := by
    rcases h with h | ⟨ht, hp⟩ <;> simp [*]
  exact show execHotSwapClose s = _ from State.perform_unchanged rfl (if_pos hheld)

/-- An input above 62 V opens the closed switch. -/
theorem exec_inputOvervoltage_high {s : State} (hs : s.modl.hotSwap = true) {mv : Nat} (hmv : 62000 < mv) :
    exec (.inputOvervoltage mv) s = .next (s.on fun w => w.powerOff.trip 2 0) :=
  show execInputOvervoltage mv s = _ from State.perform_eq_on _ rfl (if_pos ⟨hmv, hs⟩)

/-- A lower one does nothing. -/
theorem exec_inputOvervoltage_low (s : State) {mv : Nat} (hmv : mv ≤ 62000) : exec (.inputOvervoltage mv) s = .next s :=
  show execInputOvervoltage mv s = _ from State.perform_unchanged rfl (if_neg fun h => Nat.not_lt.mpr hmv h.1)

/-- A current above 90 A, or above 75 A for 1 ms, opens the closed switch and latches. -/
theorem exec_inputOvercurrent_high {s : State} (hs : s.modl.hotSwap = true) {da ns : Nat}
    (h : 900 < da ∨ (750 < da ∧ 1000000 ≤ ns)) :
    exec (.inputOvercurrent da ns) s = .next (s.on fun w =>
      (w.powerOff.setMod (fun m => { m with tripped := true })).trip 1 0) :=
  show execInputOvercurrent da ns s = _ from State.perform_eq_on _ rfl (if_pos ⟨h, hs⟩)

/-- A lower or shorter one does nothing. -/
theorem exec_inputOvercurrent_low (s : State) {da ns : Nat} (h : da ≤ 750 ∨ (da ≤ 900 ∧ ns < 1000000)) :
    exec (.inputOvercurrent da ns) s = .next s :=
  show execInputOvercurrent da ns s = _ from State.perform_unchanged rfl (if_neg (by omega))

/-- A rail that may be on becomes good. -/
theorem exec_railGood {s : State} {pg : Nat} (h0 : pg ≠ 0) (hpg : pg < 11) (hs : s.modl.hotSwap = true)
    (ht : s.modl.tripped = false ∨ 9 ≤ pg) :
    exec (.railGood pg) s = .next { s with modl := { s.modl with rails := setInsert s.modl.rails pg } } := by
  have hmay : ¬ (pg = 0 ∨ s.modl.hotSwap = false ∨ (s.modl.tripped = true ∧ pg < 9)) := by
    rw [hs]
    rcases ht with ht | ht
    · simp [h0, ht]
    · simp [h0, ht]
  rw [← s.on_setMod fun m => { m with rails := setInsert m.rails pg }]
  exact show execRailGood pg s = _ from State.perform_eq_on _ (decide_eq_true hpg) (if_neg hmay)

/-- A rail that does not become good in time is a rail fault. -/
theorem exec_railGoodTimeout {s : State} {pg : Nat} (h0 : pg ≠ 0) (hpg : pg < 11) (hs : s.modl.hotSwap = true)
    (ht : s.modl.tripped = false) (hr : s.modl.rails.contains pg = false) :
    exec (.railGoodTimeout pg) s = .next (s.on fun w => w.railFault 4 pg 0x04) :=
  show execRailGoodTimeout pg s = _ from State.perform_eq_on _ (decide_eq_true hpg) (if_pos ⟨h0, hs, ht, hr⟩)

/-- A good rail other than VCORE that falls is a rail fault, and is good no more. -/
theorem exec_railFault {s : State} {pg : Nat} (h5 : 5 ≤ pg) (hpg : pg < 11) (hp : s.work.powered = true)
    (hr : s.modl.rails.contains pg = true) :
    exec (.railFault pg) s = .next (s.on fun w =>
      (w.railFault 4 pg 0x10).setMod (fun m => { m with rails := m.rails.filter (fun r => r ≠ pg) })) :=
  show execRailFault pg s = _ from State.perform_eq_on _ (decide_eq_true hpg) (if_pos ⟨h5, hp, hr⟩)

/-- PWR_EN falling brings the inhibit into force. -/
theorem exec_pwrEnDeassert (s : State) :
    exec .pwrEnDeassert s = .next (s.on fun w => (w.setMod (fun m => { m with pwrEn := false })).nvwOn) :=
  show execPwrEnDeassert s = _ from State.perform_wf rfl

/-- 1 ms later the switch opens. -/
theorem exec_powerDownDelay {s : State} (hp : s.modl.pwrEn = false) (hs : s.modl.hotSwap = true) :
    exec .powerDownDelay s = .next (s.on Work.powerOff) :=
  show execPowerDownDelay s = _ from State.perform_eq_on _ rfl (if_pos ⟨hp, hs⟩)

/-- Not where PWR_EN has risen again or the switch is open. -/
theorem exec_powerDownDelay_unchanged {s : State} (h : s.modl.pwrEn = true ∨ s.modl.hotSwap = false) :
    exec .powerDownDelay s = .next s := by
  refine show execPowerDownDelay s = _ from State.perform_unchanged rfl (if_neg fun hoff => ?_)
  rcases h with h | h
  · exact absurd (h.symm.trans hoff.1) (by decide)
  · exact absurd (h.symm.trans hoff.2) (by decide)

/-! ## What a trip leaves (R570, R622, R627) -/

/-- With no flash operation to cut, the cut shows only that the flash is free. -/
theorem Work.flashCut_of_idle {w : Work} (ho : w.sec.flashOp = none) (he : w.sec.enrol = none) (supply : Bool) :
    w.flashCut supply = { w with sec := { w.sec with flashOp := none, enrol := none } }.showBusy := by
  simp [Work.flashCut, ho, he]

/-- The logic that loses its rails, while the flash is free: what is kept of it and of the module. -/
theorem Work.loseLogic_of_idle {w : Work} (ho : w.sec.flashOp = none) (he : w.sec.enrol = none) :
    w.loseLogic.modl = w.modl.afterReset false ∧ w.loseLogic.flash = w.flash ∧ w.loseLogic.plans = [] ∧
      w.loseLogic.jnl = .clear cellarBase 0x200000000 :: w.jnl := by
  unfold Work.loseLogic
  rw [Work.flashCut_of_idle ho he]
  exact ⟨rfl, rfl, rfl, rfl⟩

@[simp] theorem Work.trip_modl (w : Work) (code rail : Nat) :
    (w.trip code rail).modl = { w.modl with latch := (code, rail) } := rfl

/-- PWR_STATUS follows the fault latch. -/
theorem Work.trip_shown (w : Work) {code rail : Nat} (hc : code < 8) (hr : rail < 16) :
    (w.trip code rail).dv F.pwrStatusLastTrip = code ∧ (w.trip code rail).dv F.pwrStatusTripRail = rail ∧
      (w.trip code rail).rdB F.pwrStatusTripValid 0 0 = true := by
  simp only [Work.trip, Work.dv]
  refine ⟨?_, ?_, decide_eq_true (Work.rd_wr_same ..)⟩
  · rw [Work.rd_wr_other (by decide), Work.rd_wr_other (by decide), Work.rd_wr_same]
    exact Nat.mod_eq_of_lt hc
  · rw [Work.rd_wr_other (by decide), Work.rd_wr_same]
    exact Nat.mod_eq_of_lt hr

/-- And nothing of the device's state does. -/
theorem Work.trip_devState (w : Work) (code rail : Nat) : (w.trip code rail).devState = w.devState := by
  simp only [Work.trip, Work.devState, Work.dv]
  rw [Work.rd_wr_other (by decide), Work.rd_wr_other (by decide), Work.rd_wr_other (by decide)]
  rfl

/-- The device that is switched off is OFF (R570). -/
theorem Work.powerOff_devState (w : Work) : w.powerOff.devState = stOff := Work.rd_wr_same ..

/-- A module that the input protection switches off: OFF, its trip shown, and its cellar lost. -/
theorem Work.powerOff_trip {w : Work} (ho : w.sec.flashOp = none) (he : w.sec.enrol = none) :
    let t := w.powerOff.trip 2 0
    t.devState = stOff ∧ t.powered = false ∧ t.modl.rails = [] ∧ t.dv F.pwrStatusLastTrip = 2 ∧
      t.rdB F.pwrStatusTripValid 0 0 = true ∧ t.modl.latch = (2, 0) ∧ t.flash = w.flash ∧ t.plans = [] ∧
      t.jnl = .clear cellarBase 0x200000000 :: w.jnl := by
  intro t
  obtain ⟨hmod, hflash, hplans, hjnl⟩ := Work.loseLogic_of_idle (w := w.setMod fun m =>
    { m with hotSwap := false, rails := [], borHeld := false, borSeen := false }) ho he
  have htmod : t.modl = { (w.powerOff).modl with latch := (2, 0) } := rfl
  obtain ⟨hlast, -, hvalid⟩ := w.powerOff.trip_shown (code := 2) (rail := 0) (by decide) (by decide)
  have hoff : w.powerOff.modl = _ := hmod
  refine ⟨(Work.trip_devState ..).trans w.powerOff_devState, ?_, ?_, hlast, hvalid, rfl, hflash, hplans, hjnl⟩
  · rw [Work.powered, htmod, hoff]
    rfl
  · rw [htmod, hoff]
    rfl

/-- A rail fault: every rail but VAUX and V3P3 is removed, and the page is shown. -/
theorem Work.railFault_shown {w : Work} {pg : Nat} (bits : Nat) (hpg : pg < 11) (ho : w.sec.flashOp = none)
    (he : w.sec.enrol = none) :
    let t := w.railFault 4 pg bits
    t.powered = false ∧ (∀ r, r ∈ t.modl.rails ↔ r ∈ w.modl.rails ∧ 9 ≤ r) ∧ t.dv F.pwrStatusLastTrip = 4 ∧
      t.dv F.pwrStatusTripRail = pg ∧ t.rdB F.pwrStatusTripValid 0 0 = true ∧ t.sideband = w.sideband := by
  intro t
  obtain ⟨hmod, -, -, -⟩ := Work.loseLogic_of_idle (w := w.setMod fun m =>
    { m with tripped := true, rails := m.rails.filter (fun r => decide (9 ≤ r)) }) ho he
  have hrails : t.modl.rails = w.modl.rails.filter (fun r => decide (9 ≤ r)) := congrArg ModSt.rails hmod
  have htripped : t.modl.tripped = true := congrArg ModSt.tripped hmod
  obtain ⟨hlast, hrail, hvalid⟩ := Work.trip_shown ((w.setMod fun m =>
    { m with tripped := true, rails := m.rails.filter (fun r => decide (9 ≤ r)) }).loseLogic) (code := 4) (rail := pg)
    (by decide) (Nat.lt_trans hpg (by decide))
  refine ⟨by simp [Work.powered, htripped], fun r => by simp [hrails], hlast, hrail, hvalid, ?_⟩
  simp [Work.sideband, hrails]

/-! ## The write inhibit (R545, R630) -/

/-- The fields that a low input shows are VIN_LOW and VAUX_LOW. -/
theorem Work.showLow_rd (w : Work) (vin vaux : Nat) (f : Fld) (d i : Nat) :
    (w.showLow vin vaux).rd f d i = ((w.wrB F.pwrStatusVinLow 0 0 (decide (vin < w.dv F.pwrNvwThreshVinMv))).wrB
      F.pwrStatusVauxLow 0 0 (decide (vaux < w.dv F.pwrNvwThreshVauxMv))).rd f d i := by
  unfold Work.showLow
  dsimp only
  split <;> rfl

/-- Every other field stays as it is. -/
theorem Work.showLow_rd_other (w : Work) (vin vaux : Nat) {f : Fld} {d i : Nat}
    (hvin : F.pwrStatusVinLow.key 0 0 ≠ f.key d i) (hvaux : F.pwrStatusVauxLow.key 0 0 ≠ f.key d i) :
    (w.showLow vin vaux).rd f d i = w.rd f d i := by
  rw [Work.showLow_rd, Work.wrB, Work.rd_wr_other hvaux, Work.wrB, Work.rd_wr_other hvin]

/-- The two show which input is below its threshold. -/
theorem Work.showLow_low (w : Work) (vin vaux : Nat) :
    (w.showLow vin vaux).rdB F.pwrStatusVinLow 0 0 = decide (vin < w.dv F.pwrNvwThreshVinMv) ∧
      (w.showLow vin vaux).rdB F.pwrStatusVauxLow 0 0 = decide (vaux < w.dv F.pwrNvwThreshVauxMv) := by
  have hflag (b : Bool) : decide ((if b = true then 1 else 0) % 2 ^ 1 = 1) = b := by cases b <;> rfl
  simp only [Work.rdB, Work.showLow_rd, Work.wrB]
  rw [Work.rd_wr_other (by decide), Work.rd_wr_same, Work.rd_wr_same]
  exact ⟨hflag _, hflag _⟩

@[simp] theorem Work.showLow_pwrEn (w : Work) (vin vaux : Nat) : (w.showLow vin vaux).modl.pwrEn = w.modl.pwrEn := by
  unfold Work.showLow
  dsimp only
  split <;> rfl

section
variable {s : State} {vin vaux : Nat}

/-- The inhibit comes into force while an input is low or PWR_EN is. -/
theorem exec_nvwInhibitAssert_low (h : vin < s.work.dv F.pwrNvwThreshVinMv ∨ vaux < s.work.dv F.pwrNvwThreshVauxMv ∨
      s.modl.pwrEn = false) :
    exec (.nvwInhibitAssert vin vaux) s = .next (s.on fun _ => (s.work.showLow vin vaux).nvwOn) := by
  obtain ⟨hvin, hvaux⟩ := s.work.showLow_low vin vaux
  refine show execNvwInhibitAssert vin vaux s = _ from State.perform_eq_on _ rfl (if_pos ?_)
  rw [hvin, hvaux, Work.showLow_pwrEn]
  rcases h with h | h | h <;> simp [h]

/-- Otherwise the inputs are shown and nothing else. -/
theorem exec_nvwInhibitAssert_high (hvin : s.work.dv F.pwrNvwThreshVinMv ≤ vin)
    (hvaux : s.work.dv F.pwrNvwThreshVauxMv ≤ vaux) (hp : s.modl.pwrEn = true) :
    exec (.nvwInhibitAssert vin vaux) s = .next (s.on fun _ => s.work.showLow vin vaux) := by
  obtain ⟨hlow, hlow'⟩ := s.work.showLow_low vin vaux
  refine show execNvwInhibitAssert vin vaux s = _ from State.perform_eq_on _ rfl (if_neg ?_)
  rw [hlow, hlow', Work.showLow_pwrEn]
  simp [hp, Nat.not_lt.mpr hvin, Nat.not_lt.mpr hvaux]

/-- What NVW_INHIBIT_LIFT does, by the fields as the command finds them. -/
theorem exec_nvwInhibitLift (s : State) (vin vaux : Nat) :
    exec (.nvwInhibitLift vin vaux) s = .next (s.on fun _ =>
      if s.work.dv F.pwrNvwThreshVinMv + 500 ≤ vin ∧ s.work.dv F.pwrNvwThreshVauxMv + 20 ≤ vaux ∧ s.modl.pwrEn = true ∧
        s.work.rdB F.pwrStatusNvw 0 0 = true
      then ((s.work.showLow vin vaux).wr F.pwrStatusNvw 0 0 0).flushHeld else s.work.showLow vin vaux) := by
  refine show execNvwInhibitLift vin vaux s = _ from State.perform_eq_on _ rfl ?_
  simp only [Work.rdB, Work.dv, Work.showLow_pwrEn, State.work_toBlock,
    s.work.showLow_rd_other vin vaux (f := F.pwrNvwThreshVinMv) (d := 0) (i := 0) (by decide) (by decide),
    s.work.showLow_rd_other vin vaux (f := F.pwrNvwThreshVauxMv) (d := 0) (i := 0) (by decide) (by decide),
    s.work.showLow_rd_other vin vaux (f := F.pwrStatusNvw) (d := 0) (i := 0) (by decide) (by decide)]
  rfl

/-- The inhibit lifts once its three conditions hold with their margins. -/
theorem exec_nvwInhibitLift_high (hvin : s.work.dv F.pwrNvwThreshVinMv + 500 ≤ vin)
    (hvaux : s.work.dv F.pwrNvwThreshVauxMv + 20 ≤ vaux) (hp : s.modl.pwrEn = true)
    (hn : s.work.rdB F.pwrStatusNvw 0 0 = true) :
    exec (.nvwInhibitLift vin vaux) s =
      .next (s.on fun _ => ((s.work.showLow vin vaux).wr F.pwrStatusNvw 0 0 0).flushHeld) := by
  rw [exec_nvwInhibitLift]
  simp only [hvin, hvaux, hp, hn, and_self, if_true]

/-- It does not where one of them fails, or where it is not in force. -/
theorem exec_nvwInhibitLift_low (h : vin < s.work.dv F.pwrNvwThreshVinMv + 500 ∨
      vaux < s.work.dv F.pwrNvwThreshVauxMv + 20 ∨ s.modl.pwrEn = false ∨ s.work.rdB F.pwrStatusNvw 0 0 = false) :
    exec (.nvwInhibitLift vin vaux) s = .next (s.on fun _ => s.work.showLow vin vaux) := by
  have hnot : ¬ (s.work.dv F.pwrNvwThreshVinMv + 500 ≤ vin ∧ s.work.dv F.pwrNvwThreshVauxMv + 20 ≤ vaux ∧
      s.modl.pwrEn = true ∧ s.work.rdB F.pwrStatusNvw 0 0 = true) := by
    rintro ⟨hvin, hvaux, hp, hn⟩
    rcases h with h | h | h | h
    · exact absurd hvin (Nat.not_le.mpr h)
    · exact absurd hvaux (Nat.not_le.mpr h)
    · exact Bool.false_ne_true (h.symm.trans hp)
    · exact Bool.false_ne_true (h.symm.trans hn)
  rw [exec_nvwInhibitLift]
  simp only [hnot, if_false]

end

/-! ## Samples (R181, R633, R636) -/

/-- The cap limiter's gate stays between its bounds and moves one step at a sample, but for a surge (R633). -/
theorem ModSt.limit_gate (m : ModSt) (avg cap : Nat) {lo : Nat} (hlo : lo ≤ m.gate) (hhi : m.gate ≤ 16) :
    lo ≤ (m.limit avg cap lo false).gate ∧ (m.limit avg cap lo false).gate ≤ 16 ∧
    (cap < avg → (m.limit avg cap lo false).gate = max lo (m.gate - 1)) ∧
    (avg ≤ cap → m.gate ≤ (m.limit avg cap lo false).gate ∧ (m.limit avg cap lo false).gate ≤ m.gate + 1) ∧
    (m.limit avg cap lo true).gate = lo := by
  have hmax : max m.gate lo = m.gate := Nat.max_eq_left hlo
  have hsurge : (m.limit avg cap lo true).gate = lo := by simp [ModSt.limit]
  rcases Nat.lt_or_ge cap avg with hover | hunder
  · have hgate : (m.limit avg cap lo false).gate = max lo (m.gate - 1) := by simp [ModSt.limit, hmax, hover]
    exact ⟨by omega, by omega, fun _ => hgate, fun h => absurd hover (Nat.not_lt.mpr h), hsurge⟩
  · have hgate : (m.limit avg cap lo false).gate = m.gate ∨ (m.limit avg cap lo false).gate = min 16 (m.gate + 1) := by
      simp only [ModSt.limit, hmax, Nat.not_lt.mpr hunder, Bool.false_eq_true, if_false]
      split
      · split
        · exact .inr rfl
        · exact .inl rfl
      · exact .inl rfl
    exact ⟨by omega, by omega, fun h => absurd h (Nat.not_lt.mpr hunder), fun _ => by omega, hsurge⟩

/-- So does a die's thermal gate (R636). -/
theorem gateAfter_gate {gate lo : Nat} (cool hot : Nat) (hlo : lo ≤ gate) (hhi : gate ≤ 16) :
    let g := (gateAfter gate cool hot lo).1
    lo ≤ g ∧ g ≤ 16 ∧ (95 ≤ hot → g = max lo (gate - 1)) ∧ (92 ≤ hot → hot < 95 → g = gate) ∧
      (hot < 92 → gate ≤ g ∧ g ≤ gate + 1) := by
  unfold gateAfter
  split
  · dsimp only
    omega
  · split
    · split <;> dsimp only <;> omega
    · dsimp only
      omega

/-- The match tier that a sample asks for (R181). -/
theorem tierAfter_bounds {t t1 t2 : Nat} (x hyst : Nat) (h12 : t1 ≤ t2) :
    tierAfter t x t1 t2 hyst ≤ 2 ∧ (t2 ≤ x → tierAfter t x t1 t2 hyst = 2) ∧
      (x + hyst < t1 → t ≠ 2 → tierAfter t x t1 t2 hyst = 0) ∧ (t1 ≤ x → 1 ≤ tierAfter t x t1 t2 hyst) := by
  unfold tierAfter
  split
  · omega
  · split
    · split <;> omega
    · split
      · omega
      · split <;> omega

/-- A sample of the sensors is taken while the module has its supplies. -/
theorem exec_sensorSample {s : State} {r : Sensors} (hr : r.wf = true) (hp : s.work.powered = true) :
    exec (.sensorSample r) s = .next (s.on fun w => w.sensorSample r) :=
  show execSensorSample r s = _ from State.perform_eq_on _ hr (if_pos hp)

/-- So is one of the supplies. -/
theorem exec_powerSample {s : State} {r : PowerReadings} (hr : r.wf = true) (hp : s.work.powered = true) :
    exec (.powerSample r) s = .next (s.on fun w => w.powerSample r) :=
  show execPowerSample r s = _ from State.perform_eq_on _ hr (if_pos hp)

/-! ## Optical cages (R648) -/

section
variable {s : State} {p pclass : Nat} {kind : CageModule}

/-- A module above power class 5 is held in low-power mode with its link down. -/
theorem exec_qsfpModuleChange_held (hp : p < 8) (hk : kind ≠ .absent) (hc : 5 < pclass) :
    exec (.qsfpModuleChange p kind pclass) s = .next (s.on fun w =>
      ((w.setMod (fun m => { m with lowPower := setInsert m.lowPower p })).wr F.fldStatLinkUp 0 p 0).event (72 + p) sOk 0) := by
  refine show execQsfpModuleChange p kind pclass s = _ from State.perform_eq_on _ (decide_eq_true hp) ?_
  simp [hk, hc, Work.wrB]

/-- Another one is not, and its link comes up where the port is enabled and can use it. -/
theorem exec_qsfpModuleChange_free (hp : p < 8) (hc : pclass ≤ 5) {up : Nat}
    (hup : up = if (kind = .dr1 ∨ kind = .fr1) ∧ s.work.rd F.fldPortEnable 0 p = 1 then 1 else 0) :
    exec (.qsfpModuleChange p kind pclass) s = .next (s.on fun w =>
      ((w.setMod (fun m => { m with lowPower := m.lowPower.filter (fun (q : Nat) => q ≠ p) })).wr F.fldStatLinkUp 0 p up).event
        (72 + p) sOk up) := by
  refine show execQsfpModuleChange p kind pclass s = _ from State.perform_eq_on _ (decide_eq_true hp) ?_
  subst hup
  simp [Nat.not_lt.mpr hc, Work.wrB]
  rfl

end

/-- Settles O24: each command's two branches, what a trip leaves of the module, and the arithmetic of the gates and tiers. -/
theorem suppliesAndTrips : Obligations.SuppliesAndTrips := by
  unfold Obligations.SuppliesAndTrips
  refine ⟨fun s => ⟨exec_hotSwapClose_of_open, exec_hotSwapClose_of_held,
      fun hs => ⟨fun _ => exec_inputOvervoltage_high hs, fun _ _ => exec_inputOvercurrent_high hs⟩,
      fun _ => exec_inputOvervoltage_low s, fun _ _ => exec_inputOvercurrent_low s, fun _ => exec_railGood,
      fun _ => exec_railGoodTimeout, fun _ => exec_railFault, exec_pwrEnDeassert s, exec_powerDownDelay,
      exec_powerDownDelay_unchanged⟩,
    ⟨fun _ => Work.powerOff_trip, fun _ _ bits => Work.railFault_shown bits⟩, fun s vin vaux w hw => ?_,
    fun _ _ => exec_sensorSample, fun _ _ => exec_powerSample, fun m avg cap _ => m.limit_gate avg cap,
    fun _ cool hot _ => gateAfter_gate cool hot, fun _ x _ _ hyst _ => tierAfter_bounds x hyst,
    fun s p pclass kind hp => ⟨fun hk hc he => ?_, exec_qsfpModuleChange_held hp, fun hk hc => ?_⟩⟩
  · subst hw
    exact ⟨exec_nvwInhibitAssert_low, exec_nvwInhibitAssert_high, exec_nvwInhibitLift_high, exec_nvwInhibitLift_low⟩
  · exact exec_qsfpModuleChange_free hp hc (if_pos ⟨hk, he⟩).symm
  · refine exec_qsfpModuleChange_free hp hc (if_neg fun ⟨hfits, _⟩ => ?_).symm
    rcases hk with rfl | rfl <;> simp at hfits

end Sys2Proof.Machine

/-! The match command unit (chapter 06: R170 to R185). -/

namespace Sys2Proof.Machine

/-- What holds at the start of a fold over entry numbers, and goes from each entry to the next, holds at its end. -/
theorem foldl_range_induction {α : Type} {f : α → Nat → α} {P : Nat → α → Prop} {a : α} (n : Nat) (start : P 0 a)
    (next : ∀ i b, P i b → P (i + 1) (f b i)) : P n ((List.range n).foldl f a) := by
  induction n with
  | zero => exact start
  | succ n ih =>
    rw [List.range_succ, List.foldl_append]
    exact next n _ ih

/-! ## What a match command can change -/

/-- Nothing but registers, error counts and match banks differs. -/
def Work.OnlyBanks (w v : Work) : Prop := ∃ r e m, v = { w with regs := r, errs := e, matchBanks := m }

theorem Work.OnlyBanks.refl (w : Work) : w.OnlyBanks w := ⟨_, _, _, rfl⟩

theorem Work.OnlyBanks.trans {u v w : Work} (h : u.OnlyBanks v) (k : v.OnlyBanks w) : u.OnlyBanks w := by
  obtain ⟨r, e, m, rfl⟩ := h
  obtain ⟨r', e', m', rfl⟩ := k
  exact ⟨r', e', m', rfl⟩

theorem Work.OnlyBanks.mtch {w v : Work} (h : w.OnlyBanks v) : v.mtch = w.mtch := by
  obtain ⟨_, _, _, rfl⟩ := h
  rfl

theorem Work.OnlyBytes.mtch {w v : Work} (h : w.OnlyBytes v) : v.mtch = w.mtch := by
  obtain ⟨_, _, _, rfl⟩ := h
  rfl

/-- A search changes no more (R166 to R168). -/
theorem Work.onlyBanks_tableSearch (w : Work) (d first cnt n : Nat) (key : List Nat) :
    w.OnlyBanks (w.tableSearch d first cnt n key).1 :=
  foldl_range_induction (P := fun _ (p : Work × Option Hit × Nat × Nat) => w.OnlyBanks p.1) cnt (.refl w)
    fun _ _ h => h.trans ⟨_, _, _, rfl⟩

/-- Nor does a change of an entry (R176, R177, R179). -/
theorem Work.onlyBanks_change (w : Work) (d b : Nat) (staged : Bool) (x : MStage) : w.OnlyBanks (w.change d b staged x) :=
  ⟨w.regs, w.errs, _, rfl⟩

/-- Nor does a configuration (R180). -/
theorem Work.onlyBanks_matchConfigure (w : Work) (d first cnt width : Nat) :
    w.OnlyBanks (w.matchConfigure d first cnt width) :=
  foldl_range_induction (P := fun _ v => w.OnlyBanks v) cnt (.refl w) fun _ v h => h.trans ⟨_, v.errs, _, rfl⟩

/-- Bytes put through a descriptor are stores. -/
theorem Work.onlyBytes_putBytes (w : Work) (d : Desc) (off : Nat) (bs : List Byte) : w.OnlyBytes (w.putBytes d off bs).1 :=
  foldl_range_induction (P := fun _ (p : Work × Nat) => w.OnlyBytes p.1) bs.length (.refl w)
    fun _ p h => h.trans (p.1.onlyBytes_combineAt ..)

/-- The slots that a command was issued with are all that it sees differently (R102). -/
theorem Work.lend_only (w : Work) (p : Nat) (held : Held) : ∃ sl, w.lend p held = { w with slots := sl } := by
  induction held generalizing w with
  | nil => exact ⟨w.slots, rfl⟩
  | cons x held ih =>
    obtain ⟨sl, h⟩ := ih (w.setSlot p x.1 x.2)
    exact ⟨sl, h⟩

/-- A request issued on a core's tap path changes the core alone (R240). -/
theorem Work.tapIssue_only (w : Work) (iss : Issuer) : ∃ cs, w.tapIssue iss = { w with cores := cs } := by
  cases iss with
  | core d g => exact ⟨_, rfl⟩
  | stream d n => exact ⟨w.cores, rfl⟩
  | firmware mc d => exact ⟨w.cores, rfl⟩

/-- What a match command sees is the block as it was found, but for the core that issued it and the slots. -/
theorem State.matView_only (s : State) (iss : Issuer) (p : Nat) (held : Held) : ∃ cs sl,
    ({ (s.work.tapIssue iss).lend p held with holding := true } : Work) =
      { s.work with cores := cs, slots := sl, holding := true } := by
  obtain ⟨cs, h⟩ := s.work.tapIssue_only iss
  obtain ⟨sl, h'⟩ := (s.work.tapIssue iss).lend_only p held
  exact ⟨cs, sl, by rw [h', h]⟩

/-- An access without memory faults its plan and raises an event, and nothing else (R115). -/
theorem Work.unmappedBy_only (w : Work) (die p ctx a : Nat) :
    ∃ r e ps, w.unmappedBy die p ctx a = { w with regs := r, evt := e, plans := ps } := by
  obtain ⟨r, e, h⟩ := (w.faultPlan p sUnmapped).onlyNotes_event (dieSource 3 die) sUnmapped (ctx + detailAddr a)
  rw [Work.unmappedBy, h]
  unfold Work.faultPlan
  dsimp only
  split
  · split
    · exact ⟨r, e, _, rfl⟩
    · exact ⟨r, e, w.plans, rfl⟩
  · exact ⟨r, e, w.plans, rfl⟩

/-- Saturations at a match unit are in the epoch's total alone (R564). -/
theorem Work.countSat_mtch (w : Work) (d n : Nat) : ∃ e, w.countSat (.mtch d) n = { w with errs := e } := by
  unfold Work.countSat
  split
  · exact ⟨w.errs, rfl⟩
  · exact ⟨_, rfl⟩

/-! ## Counting entries (R172) -/

/-- DONE and RESULT of an effect that has come to entry i. -/
structure Acc.Counts (a : Acc) (i : Nat) : Prop where
  done_le : a.done ≤ i
  result_le : a.result ≤ a.done

theorem Acc.counts_start (w : Work) : Acc.Counts { w := w } 0 := ⟨Nat.le_refl 0, Nat.le_refl 0⟩

@[simp] theorem Acc.skip_w (a : Acc) (st : RowSt) (addr : Nat) : (a.skip st addr).w = a.w := by cases st <;> rfl

/-- An entry that is skipped counts in neither. -/
theorem Acc.Counts.skip {a : Acc} {i : Nat} (h : a.Counts i) (st : RowSt) (addr : Nat) : (a.skip st addr).Counts (i + 1) := by
  obtain ⟨hd, hr⟩ := h
  cases st <;> exact ⟨Nat.le_succ_of_le hd, hr⟩

/-- One that is completed counts in DONE, and may count in RESULT. -/
theorem Acc.Counts.did {a : Acc} {i : Nat} (h : a.Counts i) (w : Work) (b : Bool) : ((a.did w).res b).Counts (i + 1) := by
  obtain ⟨hd, hr⟩ := h
  cases b with
  | false => exact ⟨Nat.succ_le_succ hd, Nat.le_succ_of_le hr⟩
  | true => exact ⟨Nat.succ_le_succ hd, Nat.succ_le_succ hr⟩

@[simp] theorem Acc.res_w (a : Acc) (b : Bool) : (a.res b).w = a.w := by cases b <;> rfl
@[simp] theorem Acc.res_done (a : Acc) (b : Bool) : (a.res b).done = a.done := by cases b <;> rfl
@[simp] theorem Acc.res_held (a : Acc) (b : Bool) : (a.res b).held = a.held := by cases b <;> rfl
@[simp] theorem Acc.did_held (a : Acc) (w : Work) : (a.did w).held = a.held := rfl

/-- Result bytes put leave the counts as they are. -/
theorem Acc.Counts.put {a : Acc} {i : Nat} (h : a.Counts i) (d : Desc) (off : Nat) (bs : List Byte) :
    (a.put d off bs).Counts i := ⟨h.done_le, h.result_le⟩

/-- An entry completed with result bytes counts as one without. -/
theorem Acc.Counts.answered {a : Acc} {i : Nat} (h : a.Counts i) (w : Work) (d : Desc) (off : Nat) (bs : List Byte)
    (b : Bool) : (((a.did w).put d off bs).res b).Counts (i + 1) := by
  obtain ⟨hd, hr⟩ := h
  cases b with
  | false => exact ⟨Nat.succ_le_succ hd, Nat.le_succ_of_le hr⟩
  | true => exact ⟨Nat.succ_le_succ hd, Nat.succ_le_succ hr⟩

theorem Acc.put_mtch (a : Acc) (d : Desc) (off : Nat) (bs : List Byte) : (a.put d off bs).w.mtch = a.w.mtch :=
  (a.w.onlyBytes_putBytes d off bs).mtch

/-! ## The operations (R173 to R177, R180) -/

/-- SEARCH adds no flight, and counts every key at most once. -/
theorem Work.searchOp_counts (w : Work) (c : MatCmd) (s d : Desc) (out : Bool) :
    (w.searchOp c s d out).1.Counts c.count ∧ (w.searchOp c s d out).1.w.mtch = w.mtch := by
  refine foldl_range_induction (P := fun i (p : Acc × Nat) => p.1.Counts i ∧ p.1.w.mtch = w.mtch) c.count
    ⟨Acc.counts_start w, rfl⟩ fun i p h => ?_
  obtain ⟨hcounts, hmtch⟩ := h
  dsimp only
  split
  · split
    · refine ⟨hcounts.answered .., ?_⟩
      rw [Acc.res_w, Acc.put_mtch]
      cases out with
      | true => exact hmtch
      | false => exact (p.1.w.onlyBanks_tableSearch ..).mtch.trans hmtch
    · refine ⟨Acc.Counts.skip (hcounts.put ..) _ _, ?_⟩
      rw [Acc.skip_w, Acc.put_mtch, hmtch]
  · refine ⟨hcounts.skip _ _, ?_⟩
    rw [Acc.skip_w, hmtch]

/-- READ does neither. -/
theorem Work.readOp_counts (w : Work) (c : MatCmd) (d : Desc) :
    (w.readOp c d).1.Counts c.count ∧ (w.readOp c d).1.w.mtch = w.mtch := by
  refine foldl_range_induction (P := fun i (p : Acc × Nat) => p.1.Counts i ∧ p.1.w.mtch = w.mtch) c.count
    ⟨Acc.counts_start w, rfl⟩ fun i p h => ?_
  obtain ⟨hcounts, hmtch⟩ := h
  dsimp only
  split
  · refine ⟨hcounts.answered p.1.w d _ _ true, ?_⟩
    rw [Acc.res_w, Acc.put_mtch]
    exact hmtch
  · refine ⟨hcounts.skip _ _, ?_⟩
    rw [Acc.skip_w, hmtch]

/-- WRITE changes banks, and counts every record at most once. -/
theorem Work.writeOp_counts (w : Work) (c : MatCmd) (s : Desc) :
    (w.writeOp c s).Counts c.count ∧ w.OnlyBanks (w.writeOp c s).w := by
  refine foldl_range_induction (P := fun i (a : Acc) => a.Counts i ∧ w.OnlyBanks a.w) c.count
    ⟨Acc.counts_start w, .refl w⟩ fun i a h => ?_
  obtain ⟨hcounts, hbanks⟩ := h
  dsimp only
  split
  · refine ⟨hcounts.did .., ?_⟩
    rw [Acc.res_w]
    exact hbanks.trans (a.w.onlyBanks_change ..)
  · exact ⟨hcounts.skip _ _, by rwa [Acc.skip_w]⟩

/-- CLEAR changes banks, meets nothing that holds it, and counts every entry. -/
theorem Work.clearOp_counts (w : Work) (c : MatCmd) :
    (w.clearOp c).Counts c.count ∧ w.OnlyBanks (w.clearOp c).w ∧ (w.clearOp c).held = false := by
  refine foldl_range_induction (P := fun i (a : Acc) => a.Counts i ∧ w.OnlyBanks a.w ∧ a.held = false) c.count
    ⟨Acc.counts_start w, .refl w, rfl⟩ fun i a h => ?_
  obtain ⟨hcounts, hbanks, hheld⟩ := h
  refine ⟨hcounts.did .., ?_, by rw [Acc.res_held, Acc.did_held, hheld]⟩
  rw [Acc.res_w]
  exact hbanks.trans (a.w.onlyBanks_change ..)

/-- Another bank stays as it is when one is replaced. -/
theorem Work.mbank_setMbank_other {w : Work} {d b k : Nat} (x : MBank) (h : b ≠ k) :
    (w.setMbank d b x).mbank d k = w.mbank d k :=
  smGet_smSet_other fun hkey => h (Nat.add_left_cancel hkey)

/-- The widths of two banks of a die are fields of their own. -/
theorem matchBankCfgWidth_key_ne {d b k : Nat} (h : b ≠ k) :
    F.matchBankCfgWidth.key d b ≠ F.matchBankCfgWidth.key d k := by
  simp only [Fld.key, F.matchBankCfgWidth, Reg.addr, Reg.info]
  omega

/-- CONFIGURE leaves every bank of its range empty and at its width (R180). -/
theorem Work.matchConfigure_bank (w : Work) (d first : Nat) {width j cnt : Nat} (hwidth : width < 3) (hj : j < cnt) :
    ((w.matchConfigure d first cnt width).mbank d (first + j)).rows = [] ∧
      (w.matchConfigure d first cnt width).rd F.matchBankCfgWidth d (first + j) = width := by
  refine foldl_range_induction (P := fun i (v : Work) => ∀ j, j < i →
    (v.mbank d (first + j)).rows = [] ∧ v.rd F.matchBankCfgWidth d (first + j) = width) cnt
    (fun _ h => absurd h (Nat.not_lt_zero _)) (fun i v h j hj => ?_) j hj
  rcases Nat.lt_succ_iff_lt_or_eq.mp hj with hlt | rfl
  · have hne : first + i ≠ first + j := by omega
    obtain ⟨hrows, hrd⟩ := h j hlt
    refine ⟨?_, (Work.rd_wr_other (matchBankCfgWidth_key_ne hne)).trans hrd⟩
    exact (congrArg MBank.rows (Work.mbank_setMbank_other _ hne)).trans hrows
  · refine ⟨congrArg MBank.rows (Work.mbank_setMbank ..), (Work.rd_wr_same ..).trans (Nat.mod_eq_of_lt ?_)⟩
    exact Nat.lt_trans hwidth (by decide)

/-! ## The checks (R171) -/

/-- A check fails nothing where its condition holds, and only there. -/
theorem chk_eq_nil {ok : Bool} {code : Nat} : chk ok code = [] ↔ ok = true := by cases ok <;> simp [chk]

/-- What a command that passes its checks asks for: one entry where the operation takes one, descriptors where it uses
them, and a width that there is. -/
theorem Work.of_matCheck_nil {w : Work} {p : Nat} {c : MatCmd} {s d : Option Desc} (h : w.matCheck p c s d = []) :
    (c.op = 0x22 ∨ c.op = 0x26 → c.count = 1) ∧ (c.op = 0x21 ∨ c.op = 0x23 → ∃ x, s = some x) ∧
      (c.op = 0x21 ∨ c.op = 0x25 → ∃ x, d = some x) ∧ c.width < 3 := by
  unfold Work.matCheck at h
  extract_lets known rangeOk keyOk oneOk stageOk needS needD at h
  split at h
  · cases h
  · simp only [List.append_eq_nil_iff, chk_eq_nil, Bool.and_eq_true, decide_eq_true_eq] at h
    obtain ⟨⟨⟨⟨⟨⟨⟨⟨⟨-, hone⟩, -⟩, hwidth⟩, -⟩, hs⟩, hd⟩, -⟩, -⟩, -⟩ := h
    refine ⟨fun hop => ?_, fun hop => ?_, fun hop => ?_, hwidth⟩
    · simpa only [oneOk, hop, if_true, decide_eq_true_eq] using hone
    · cases s with
      | none => simp [needS, hop] at hs
      | some x => exact ⟨x, rfl⟩
    · cases d with
      | none => simp [needD, hop] at hd
      | some x => exact ⟨x, rfl⟩

/-! ## A command that passes its checks (R171, R172, R185) -/

/-- The last 16 bytes of the record of a command that is no SEARCH_ONE (R172). -/
def noSearchRecord : List Byte := List.replicate 16 0

/-- What a command does that passes its checks and meets no bank's copy: its effect, the entries that it cleared for their
copies, those that it saw uncorrectable, and the end of its record. With a bank out of service (`out`) searches miss and
nothing else is done. -/
inductive Work.MatDoes (w : Work) (c : MatCmd) (s d : Option Desc) (out : Bool) : Acc → Nat → Nat → List Byte → Prop
  | search {x y : Desc} (hop : c.op = 0x21) (hs : s = some x) (hd : d = some y) :
    MatDoes w c s d out (w.searchOp c x y out).1 (w.searchOp c x y out).2 0 noSearchRecord
  | searchOne (hop : c.op = 0x22) (hout : out = false) {v : Work} {h : Option Hit} {falseHits cleared : Nat}
    (hv : w.tableSearch c.die c.first c.cnt c.n c.key = (v, h, falseHits, cleared)) :
    MatDoes w c s d out ((({ w := w } : Acc).did v).res h.isSome) cleared 0 (searchRecord h falseHits 0)
  | missOne (hop : c.op = 0x22) (hout : out = true) :
    MatDoes w c s d out (({ w := w } : Acc).did w) 0 0 (searchRecord none 0 0)
  | write {x : Desc} (hop : c.op = 0x23) (hout : out = false) (hs : s = some x) :
    MatDoes w c s d out (w.writeOp c x) 0 0 noSearchRecord
  | clear (hop : c.op = 0x24) (hout : out = false) : MatDoes w c s d out (w.clearOp c) 0 0 noSearchRecord
  | read {y : Desc} (hop : c.op = 0x25) (hout : out = false) (hd : d = some y) :
    MatDoes w c s d out (w.readOp c y).1 0 (w.readOp c y).2 noSearchRecord
  | configure (hop : c.op = 0x26) (hout : out = false) :
    MatDoes w c s d out { w := w.matchConfigure c.die c.first c.cnt c.width, done := 1, result := c.cnt * (8192 / c.n) }
      0 0 noSearchRecord
  | outOfService (hop : c.op ≠ 0x21 ∧ c.op ≠ 0x22) (hout : out = true) : MatDoes w c s d out { w := w } 0 0 noSearchRecord

/-- The failures that a command met: uncorrectable copies and rows, a bank out of service, no memory, a write dropped. -/
def Acc.matFails (a : Acc) (seen : Nat) (out : Bool) : List Nat :=
  (if seen = 0 then [] else [sCheck]) ++ (if out || decide (a.lost ≠ 0) then [sNoSpare] else []) ++
    (if a.unm.isSome then [sUnmapped] else []) ++ (if a.w.dtHit then [sRange] else [])

/-- The block after an effect, as its unit has counted what it met. -/
def Acc.matCounted (a : Acc) (die p seen : Nat) (out : Bool) : Work :=
  ((match a.unm with
    | some x => a.w.unmappedBy die p 0 x
    | Option.none => a.w).countFurther (.mtch die) (a.matFails seen out)).countSat (.mtch die) a.sats

/-- A command's flight: what its completion carries, and the banks that it is in flight on (R172). -/
def MatCmd.flight (c : MatCmd) (iss : Issuer) (p st done result poison : Nat) (extra : List Byte) : Flight :=
  Flight.mk (issDie iss) iss p c.tag (resolveRecord iss c.comp) st done result poison extra c.die c.first c.cnt

/-- The block with a command in flight whose effect has been (R172). -/
def MatCmd.issued (c : MatCmd) (iss : Issuer) (p : Nat) (out : Bool) (a : Acc) (cleared seen : Nat) (extra : List Byte) : Work :=
  let v := a.matCounted (issDie iss) p (a.bad + cleared + seen) out
  { v with mtch := v.mtch ++ [c.flight iss p (lowest (a.matFails (a.bad + cleared + seen) out)) a.done a.result
      (a.bad + a.lost + cleared) extra] }

section
variable {w : Work} {iss : Issuer} {p : Nat} {r : Rec}

/-- A command that fails a check completes at once with the lowest failure. -/
theorem Work.matRun_of_fails {fs : List Nat}
    (hfs : w.matCheck p (MatCmd.ofRec r) (w.desc p (MatCmd.ofRec r).src) (w.desc p (MatCmd.ofRec r).dst) = fs)
    (hne : fs ≠ []) :
    w.matRun iss p r = some (((w.countFurther (.mtch (issDie iss)) fs).finish
      ((MatCmd.ofRec r).flight iss p (lowest fs) 0 0 0 noSearchRecord)).emitCommandDone iss (lowest fs)) := by
  have hfails : (!fs.isEmpty) = true := by simpa using hne
  simp only [Work.matRun, hfs, hfails, if_true]
  rfl

/-- One that passes them is held by the copy of a bank of its table. -/
theorem Work.matRun_of_copying
    (hfs : w.matCheck p (MatCmd.ofRec r) (w.desc p (MatCmd.ofRec r).src) (w.desc p (MatCmd.ofRec r).dst) = [])
    (hcopy : (MatCmd.ofRec r).banks.any (fun b => (w.mbank (MatCmd.ofRec r).die b).copying ≠ 0) = true) :
    w.matRun iss p r = none := by
  simp only [Work.matRun, hfs, hcopy, List.isEmpty_nil, Bool.not_true, Bool.false_eq_true, if_false, if_true]

/-- Otherwise it does what its operation says, and is in flight where nothing that it met holds it. -/
theorem Work.matRun_of_passes {out : Bool}
    (hfs : w.matCheck p (MatCmd.ofRec r) (w.desc p (MatCmd.ofRec r).src) (w.desc p (MatCmd.ofRec r).dst) = [])
    (hcopy : (MatCmd.ofRec r).banks.any (fun b => (w.mbank (MatCmd.ofRec r).die b).copying ≠ 0) = false)
    (hout : (MatCmd.ofRec r).banks.any (fun b => (w.mbank (MatCmd.ofRec r).die b).lost) = out)
    (hop : (MatCmd.ofRec r).op ∈ [0x21, 0x22, 0x23, 0x24, 0x25, 0x26]) :
    ∃ a cleared seen extra,
      w.MatDoes (MatCmd.ofRec r) (w.desc p (MatCmd.ofRec r).src) (w.desc p (MatCmd.ofRec r).dst) out a cleared seen extra ∧
      w.matRun iss p r = if a.held then none else some ((MatCmd.ofRec r).issued iss p out a cleared seen extra) := by
  obtain ⟨-, hsrc, hdst, -⟩ := Work.of_matCheck_nil hfs
  generalize hc : MatCmd.ofRec r = c at *
  generalize hs : w.desc p c.src = s at *
  generalize hd : w.desc p c.dst = d at *
  simp only [Work.matRun, hc, hs, hd, hfs, hcopy, hout, List.isEmpty_nil, Bool.not_true, Bool.false_eq_true, if_false]
  simp only [List.mem_cons, List.not_mem_nil, or_false] at hop
  rcases hop with hop | hop | hop | hop | hop | hop <;> simp only [hop]
  · obtain ⟨x, rfl⟩ := hsrc (.inl hop)
    obtain ⟨y, rfl⟩ := hdst (.inl hop)
    exact ⟨_, _, _, _, .search hop rfl rfl, ite_congr rfl (fun _ => rfl) fun _ => rfl⟩
  · cases out with
    | false => exact ⟨_, _, _, _, .searchOne hop rfl rfl, ite_congr rfl (fun _ => rfl) fun _ => rfl⟩
    | true => exact ⟨_, _, _, _, .missOne hop rfl, ite_congr rfl (fun _ => rfl) fun _ => rfl⟩
  · obtain ⟨x, rfl⟩ := hsrc (.inr hop)
    cases out with
    | false => exact ⟨_, _, _, _, .write hop rfl rfl, ite_congr rfl (fun _ => rfl) fun _ => rfl⟩
    | true => exact ⟨_, _, _, _, .outOfService (by omega) rfl, ite_congr rfl (fun _ => rfl) fun _ => rfl⟩
  · cases out with
    | false => exact ⟨_, _, _, _, .clear hop rfl, ite_congr rfl (fun _ => rfl) fun _ => rfl⟩
    | true => exact ⟨_, _, _, _, .outOfService (by omega) rfl, ite_congr rfl (fun _ => rfl) fun _ => rfl⟩
  · obtain ⟨y, rfl⟩ := hdst (.inr hop)
    cases out with
    | false => exact ⟨_, _, _, _, .read hop rfl rfl, ite_congr rfl (fun _ => rfl) fun _ => rfl⟩
    | true => exact ⟨_, _, _, _, .outOfService (by omega) rfl, ite_congr rfl (fun _ => rfl) fun _ => rfl⟩
  · cases out with
    | false => exact ⟨_, _, _, _, .configure hop rfl, ite_congr rfl (fun _ => rfl) fun _ => rfl⟩
    | true => exact ⟨_, _, _, _, .outOfService (by omega) rfl, ite_congr rfl (fun _ => rfl) fun _ => rfl⟩

end

/-! ## What its effect is -/

namespace Work.MatDoes
variable {w : Work} {c : MatCmd} {s d : Option Desc} {out : Bool} {a : Acc} {cleared seen : Nat} {extra : List Byte}
  (h : w.MatDoes c s d out a cleared seen extra)
include h

/-- DONE does not pass COUNT, nor, but for CONFIGURE, RESULT DONE (R172). -/
theorem counts (hone : c.op = 0x22 ∨ c.op = 0x26 → c.count = 1) :
    a.done ≤ c.count ∧ (c.op ≠ 0x26 → a.result ≤ a.done) := by
  have hcounts {b : Acc} {i : Nat} (hb : b.Counts i) (hi : i ≤ c.count) :
      b.done ≤ c.count ∧ (c.op ≠ 0x26 → b.result ≤ b.done) := ⟨Nat.le_trans hb.done_le hi, fun _ => hb.result_le⟩
  cases h with
  | search hop hs hd => exact hcounts (w.searchOp_counts ..).1 (Nat.le_refl _)
  | searchOne hop hout hv => exact hcounts ((Acc.counts_start w).did _ _) (Nat.le_of_eq (hone (.inl hop)).symm)
  | missOne hop hout => exact hcounts ((Acc.counts_start w).did w false) (Nat.le_of_eq (hone (.inl hop)).symm)
  | write hop hout hs => exact hcounts (w.writeOp_counts ..).1 (Nat.le_refl _)
  | clear hop hout => exact hcounts (w.clearOp_counts c).1 (Nat.le_refl _)
  | read hop hout hd => exact hcounts (w.readOp_counts ..).1 (Nat.le_refl _)
  | configure hop hout => exact ⟨Nat.le_of_eq (hone (.inr hop)).symm, fun hne => absurd hop hne⟩
  | outOfService hop hout => exact hcounts (Acc.counts_start w) (Nat.zero_le _)

/-- An operation that writes no list changes banks alone. -/
theorem onlyBanks (h21 : c.op ≠ 0x21) (h25 : c.op ≠ 0x25) : w.OnlyBanks a.w := by
  cases h with
  | search hop hs hd => exact absurd hop h21
  | searchOne hop hout hv =>
    have htable := w.onlyBanks_tableSearch c.die c.first c.cnt c.n c.key
    rw [hv] at htable
    rwa [Acc.res_w]
  | missOne hop hout => exact .refl w
  | write hop hout hs => exact (w.writeOp_counts ..).2
  | clear hop hout => exact (w.clearOp_counts c).2.1
  | read hop hout hd => exact absurd hop h25
  | configure hop hout => exact w.onlyBanks_matchConfigure ..
  | outOfService hop hout => exact .refl w

/-- None changes what is in flight. -/
theorem mtch : a.w.mtch = w.mtch := by
  by_cases h21 : c.op = 0x21
  · cases h with
    | search hop hs hd => exact (w.searchOp_counts ..).2
    | outOfService hop hout => exact absurd h21 hop.1
    | _ => omega
  · by_cases h25 : c.op = 0x25
    · cases h with
      | read hop hout hd => exact (w.readOp_counts ..).2
      | outOfService hop hout => rfl
      | _ => omega
    · exact (h.onlyBanks h21 h25).mtch

/-- Only SEARCH, WRITE and READ can meet what holds them. -/
theorem held (h21 : ∀ x y, s = some x → d = some y → c.op = 0x21 → (w.searchOp c x y out).1.held = false)
    (h23 : ∀ x, s = some x → c.op = 0x23 → (w.writeOp c x).held = false)
    (h25 : ∀ y, d = some y → c.op = 0x25 → (w.readOp c y).1.held = false) : a.held = false := by
  cases h with
  | search hop hs hd => exact h21 _ _ hs hd hop
  | searchOne hop hout hv => exact Acc.res_held ..
  | missOne hop hout => rfl
  | write hop hout hs => exact h23 _ hs hop
  | clear hop hout => exact (w.clearOp_counts c).2.2
  | read hop hout hd => exact h25 _ hd hop
  | configure hop hout => rfl
  | outOfService hop hout => rfl

/-- With a bank out of service nothing but SEARCH goes on past its first entry, and NO_SPARE is what it meets (R185). -/
theorem lost (hout : out = true) (h21 : c.op ≠ 0x21) (hw : w.dtHit = false) :
    lowest (a.matFails (a.bad + cleared + seen) out) = sNoSpare ∧ a.done ≤ 1 := by
  have hclean : lowest (Acc.matFails { w := w } 0 true) = sNoSpare := by
    simp only [Acc.matFails, hw]
    rfl
  subst hout
  cases h with
  | search hop hs hd => exact absurd hop h21
  | missOne hop hout => exact ⟨hclean, Nat.le_refl 1⟩
  | outOfService hop hout => exact ⟨hclean, Nat.zero_le 1⟩
  | _ => contradiction

/-- SEARCH_ONE answers what the search of its table does (R173). -/
theorem searchOne_extra (hop : c.op = 0x22) (hout : out = false) :
    extra = searchRecord (w.tableSearch c.die c.first c.cnt c.n c.key).2.1
      (w.tableSearch c.die c.first c.cnt c.n c.key).2.2.1 0 := by
  subst hout
  cases h with
  | searchOne hop' hout hv => rw [hv]
  | outOfService hop' hout => contradiction
  | missOne hop' hout => contradiction
  | _ => omega

/-- CONFIGURE counts the entries of its banks at the width that it sets (R172; log entry 37). -/
theorem configure_eq (hop : c.op = 0x26) (hout : out = false) :
    a = { w := w.matchConfigure c.die c.first c.cnt c.width, done := 1, result := c.cnt * (8192 / c.n) } := by
  subst hout
  cases h with
  | configure hop' hout => rfl
  | outOfService hop' hout => contradiction
  | _ => omega

end Work.MatDoes

/-- Counting what an effect met changes registers, counts, plans and events alone. -/
theorem Acc.matCounted_only (a : Acc) (die p seen : Nat) (out : Bool) :
    ∃ r e v ps, a.matCounted die p seen out = { a.w with regs := r, errs := e, evt := v, plans := ps } := by
  unfold Acc.matCounted
  cases a.unm with
  | none =>
    obtain ⟨e, he⟩ := (a.w.countFurther (.mtch die) (a.matFails seen out)).countSat_mtch die a.sats
    exact ⟨_, e, _, _, he⟩
  | some x =>
    obtain ⟨r, v, ps, hu⟩ := a.w.unmappedBy_only die p 0 x
    obtain ⟨e, he⟩ := ((a.w.unmappedBy die p 0 x).countFurther (.mtch die) (a.matFails seen out)).countSat_mtch die a.sats
    exact ⟨r, e, v, ps, by rw [he, hu]; rfl⟩

/-- Where it met no unmapped address, counts alone. -/
theorem Acc.matCounted_of_mapped {a : Acc} (h : a.unm = Option.none) (die p seen : Nat) (out : Bool) :
    ∃ e, a.matCounted die p seen out = { a.w with errs := e } := by
  unfold Acc.matCounted
  rw [h]
  exact (a.w.countFurther (.mtch die) (a.matFails seen out)).countSat_mtch die a.sats

section
variable (c : MatCmd) (iss : Issuer) (p : Nat) (out : Bool) (a : Acc) (cleared seen : Nat) (extra : List Byte)

/-- A command joins what is in flight. -/
theorem MatCmd.issued_mtch : (c.issued iss p out a cleared seen extra).mtch = a.w.mtch ++
    [c.flight iss p (lowest (a.matFails (a.bad + cleared + seen) out)) a.done a.result (a.bad + a.lost + cleared) extra] := by
  obtain ⟨_, _, _, _, h⟩ := a.matCounted_only (issDie iss) p (a.bad + cleared + seen) out
  simp only [MatCmd.issued, h]

/-- It stores nothing that its effect did not. -/
theorem MatCmd.issued_stores : (c.issued iss p out a cleared seen extra).jnl = a.w.jnl ∧
    (c.issued iss p out a cleared seen extra).adds = a.w.adds := by
  obtain ⟨_, _, _, _, h⟩ := a.matCounted_only (issDie iss) p (a.bad + cleared + seen) out
  simp only [MatCmd.issued, h, and_self]

/-- Where it met no unmapped address, registers and banks are as its effect left them. -/
theorem MatCmd.issued_of_mapped (hmapped : a.unm = none) :
    (c.issued iss p out a cleared seen extra).regs = a.w.regs ∧
      (c.issued iss p out a cleared seen extra).matchBanks = a.w.matchBanks := by
  obtain ⟨_, h⟩ := a.matCounted_of_mapped hmapped (issDie iss) p (a.bad + cleared + seen) out
  simp only [MatCmd.issued, h, and_self]

end

/-! ## The unit (R174, R183) -/

section
variable {w : Work} {x : CmdWait}

/-- A command behind another one of its issuer waits. -/
theorem Work.matTry_of_waiting (h : w.matchWait.any (fun y => y.iss = x.iss) = true) :
    w.matTry x = { w with matchWait := w.matchWait ++ [x] } := if_pos h

/-- So does one that is held. -/
theorem Work.matTry_of_held (h : w.matchWait.any (fun y => y.iss = x.iss) = false)
    (hrun : Work.matRun { w.lend x.plan x.held with holding := true } x.iss x.plan x.r x.mute = none) :
    w.matTry x = { w with matchWait := w.matchWait ++ [x] } := by
  rw [Work.matTry, if_neg (Bool.eq_false_iff.mp h), hrun]

/-- Another one takes its effect, with the slots as they were left. -/
theorem Work.matTry_of_run {v : Work} (h : w.matchWait.any (fun y => y.iss = x.iss) = false)
    (hrun : Work.matRun { w.lend x.plan x.held with holding := true } x.iss x.plan x.r x.mute = some v) :
    w.matTry x = { v with slots := w.slots, holding := false } := by
  rw [Work.matTry, if_neg (Bool.eq_false_iff.mp h), hrun]

end

/-- The rows of the match command unit. -/
def matchRows : List ((Issuer → Rec → Instr) × Nat) :=
  [(.search, 0x21), (.searchOne, 0x22), (.matchWrite, 0x23), (.matchClear, 0x24), (.matchRead, 0x25), (.configure, 0x26)]

/-- Every row has the one meaning of `Work.matRow`, and needs no more than an issuer that exists. -/
theorem exec_matchRow {c : Issuer → Rec → Instr} {op : Nat} (hc : (c, op) ∈ matchRows) (iss : Issuer) (r : Rec)
    (s : State) : exec (c iss r) s = s.perform (c iss r) (fun w => w.matRow op iss r) ∧ (c iss r).wf = iss.wf ∧
      op ∈ [0x21, 0x22, 0x23, 0x24, 0x25, 0x26] := by
  simp only [matchRows, List.mem_cons, List.not_mem_nil, or_false, Prod.mk.injEq] at hc
  rcases hc with h | h | h | h | h | h <;> obtain ⟨rfl, rfl⟩ := h <;> exact ⟨rfl, rfl, by decide⟩

/-- A command as the unit of a die takes it from its issuer, with the slots that it was issued with. -/
def Work.matWait (w : Work) (iss : Issuer) (r : Rec) : CmdWait :=
  { iss := iss, r := r, plan := w.planOf iss, held := w.hold (w.planOf iss) [(MatCmd.ofRec r).src, (MatCmd.ofRec r).dst] }

/-- A command that its unit has room for is tried at once. -/
theorem exec_matchRow_of_room {c : Issuer → Rec → Instr} {op : Nat} {s : State} {iss : Issuer} {r : Rec}
    (hc : (c, op) ∈ matchRows) (hiss : iss.wf = true) (hop : recF r 7 0 = op) (hroom : s.work.tapRoom iss = true)
    (hfree : s.work.matHeld (issDie iss) < 4096) :
    exec (c iss r) s =
      .next (s.on fun _ => (s.work.tapIssue iss).matTry ((s.work.tapIssue iss).matWait iss r)) := by
  obtain ⟨hexec, hwf, -⟩ := exec_matchRow hc iss r s
  rw [hexec]
  refine State.perform_eq_on _ (hwf.trans hiss) ?_
  exact (if_pos hop).trans ((if_neg (Nat.not_le.mpr hfree)).trans (if_pos hroom))

/-! ## The state with a command in flight -/

/-- A command that stores nothing leaves the memory as it was. -/
theorem State.on_mem_of_no_store {f : Work → Work} {s : State} (hj : (f s.work).jnl = []) (ha : (f s.work).adds = []) :
    (s.on f).mem = s.mem := by rw [State.on_of_no_store hj ha]

/-- The state after a command that left the block as `v`, with the slots as they were. -/
def State.afterMatch (s : State) (slots : List (Nat × Slot)) (v : Work) : State :=
  s.on fun _ => { v with slots := slots, holding := false }

section
variable {s : State} {cs : List (Nat × Core)} {sl : List (Nat × Slot)} {v : Work} {c : MatCmd} {x y : Option Desc} {out : Bool}
  {a : Acc} {cleared seen : Nat} {extra : List Byte} (iss : Issuer) (p : Nat) (slots : List (Nat × Slot))
  (hview : v = { s.work with cores := cs, slots := sl, holding := true })
  (hdoes : v.MatDoes c x y out a cleared seen extra)
include hdoes

include hview in
/-- Its flight joins those that there were. -/
theorem State.afterMatch_mtch : (s.afterMatch slots (c.issued iss p out a cleared seen extra)).mtch = s.mtch ++
    [c.flight iss p (lowest (a.matFails (a.bad + cleared + seen) out)) a.done a.result (a.bad + a.lost + cleared) extra] := by
  have hmtch : a.w.mtch = s.mtch := by
    rw [hdoes.mtch, hview]
    rfl
  rw [State.afterMatch, State.on_mtch, ← hmtch]
  exact c.issued_mtch ..

include hview in
/-- A command that writes no list leaves the memory as it was. -/
theorem State.afterMatch_mem (h21 : c.op ≠ 0x21) (h25 : c.op ≠ 0x25) :
    (s.afterMatch slots (c.issued iss p out a cleared seen extra)).mem = s.mem := by
  obtain ⟨hjnl, hadds⟩ := c.issued_stores iss p out a cleared seen extra
  obtain ⟨_, _, _, hbanks⟩ := hdoes.onlyBanks h21 h25
  refine State.on_mem_of_no_store (hjnl.trans ?_) (hadds.trans ?_)
  · rw [hbanks, hview]
    rfl
  · rw [hbanks, hview]
    rfl

/-- CONFIGURE leaves its banks empty and at its width (R180). -/
theorem State.afterMatch_configured (hop : c.op = 0x26) (hout : out = false) (hwidth : c.width < 3) {b : Nat}
    (hb : b ∈ c.banks) :
    ((s.afterMatch slots (c.issued iss p out a cleared seen extra)).work.mbank c.die b).rows = [] ∧
      (s.afterMatch slots (c.issued iss p out a cleared seen extra)).work.rd F.matchBankCfgWidth c.die b = c.width := by
  obtain ⟨j, hj, rfl⟩ := List.mem_map.mp hb
  have ha := hdoes.configure_eq hop hout
  obtain ⟨hregs, hbanks⟩ := c.issued_of_mapped iss p out a cleared seen extra (by rw [ha])
  rw [congrArg Acc.w ha] at hregs hbanks
  have hconfigured := v.matchConfigure_bank c.die c.first hwidth (List.mem_range.mp hj)
  simpa only [Work.mbank, Work.rd, State.work_toBlock, State.afterMatch, State.on_matchBanks, State.on_regs, hregs, hbanks]
    using hconfigured

end

/-- Settles O35: a command waits, fails, is held or is in flight by the lemma of each (the whole wait on a bank's copy and
behind an earlier command is the model's choice: log entry 164; RESULT of CONFIGURE: log entry 37). -/
theorem matchCommands : Obligations.MatchCommands := by
  unfold Obligations.MatchCommands
  intro c op hc s iss r hiss hop hroom hfull w k p x v fs out
  have hexec : exec (c iss r) s = .next (s.on fun _ => w.matTry x) := exec_matchRow_of_room hc hiss hop hroom hfull
  have hwait : w.matchWait = s.matchWait := by
    obtain ⟨cs, h⟩ := s.work.tapIssue_only iss
    exact congrArg (fun u : Work => u.matchWait) h
  rw [← hwait, hexec]
  refine ⟨fun hbehind => ?_, fun hfirst => ⟨fun hne => ?_, fun hfs hcopy => ?_, fun hfs hcopy h21 h23 h25 => ?_⟩⟩
  · rw [Work.matTry_of_waiting hbehind]
  · have hrun := Work.matRun_of_fails (w := v) (iss := iss) (fs := fs) rfl hne
    rw [Work.matTry_of_run (w := w) (x := x) hfirst hrun]
    rfl
  · have hrun := Work.matRun_of_copying (w := v) (iss := iss) hfs hcopy
    rw [Work.matTry_of_held (w := w) (x := x) hfirst hrun]
  · obtain rfl : k.op = op := hop
    obtain ⟨-, -, hops⟩ := exec_matchRow hc iss r s
    obtain ⟨cs, sl, hview⟩ : ∃ cs sl, v = { s.work with cores := cs, slots := sl, holding := true } :=
      s.matView_only iss p x.held
    obtain ⟨hone, -, -, hwidth⟩ := Work.of_matCheck_nil hfs
    obtain ⟨a, cleared, seen, extra, hdoes, hrun⟩ :=
      Work.matRun_of_passes (w := v) (iss := iss) (out := out) hfs hcopy rfl hops
    rw [hdoes.held h21 h23 h25, if_neg Bool.false_ne_true] at hrun
    rw [Work.matTry_of_run (w := w) (x := x) hfirst hrun]
    obtain ⟨hdone, hresult⟩ := hdoes.counts hone
    refine ⟨s.afterMatch w.slots (k.issued iss p out a cleared seen extra), k.flight .., rfl,
      State.afterMatch_mtch iss p w.slots hview hdoes, rfl, rfl, rfl, rfl, hdone, hresult,
      State.afterMatch_mem iss p w.slots hview hdoes, fun hout h => ?_, hdoes.searchOne_extra, fun h hout => ?_⟩
    · exact hdoes.lost hout h (by rw [hview]; rfl)
    · refine ⟨congrArg Acc.done (hdoes.configure_eq h hout), congrArg Acc.result (hdoes.configure_eq h hout), fun b hb => ?_⟩
      exact State.afterMatch_configured iss p w.slots hdoes h hout hwidth hb

end Sys2Proof.Machine

/-! Reservations of the general cores (chapter 08: R215, R223). -/

namespace Sys2Proof.Machine

/-- A reservation still held after a command's effect is of a line none of whose bytes the command changed. -/
theorem State.get_on_of_held {f : Work → Work} {s : State} {k l a : Nat} {c : Core} (hm : (k, c) ∈ (s.on f).cores)
    (hl : c.resv = some l) (ha : a / 64 = l) : Memory.get (s.on f).mem a = Memory.get s.mem a := by
  have huntouched : (f s.work).flushAdds.jnl.any (MemOp.touches l) = false := Work.dropReservations_held hm hl
  rw [State.on_mem]
  exact Memory.get_commit_untouched (ha ▸ huntouched)

/-- Settles O4: a step with a command waiting is the effect of that command, which ends the reservation of every line that
its journal touches (R215, R223; that a reservation covers 64 B is the model's choice). -/
theorem heldReservationMeansUntouchedLine : Obligations.HeldReservationMeansUntouchedLine := by
  unfold Obligations.HeldReservationMeansUntouchedLine
  intro s t k l c hstep hm hpending hl a ha _
  rcases step_next hstep with ⟨hempty, _⟩ | ⟨_, cs, f, _, _, rfl⟩
  · exact absurd hempty hpending
  · exact State.get_on_of_held (s := { s with pending := cs }) hm hl ha

end Sys2Proof.Machine

/-! Transfers on the tap path, and stage barriers (chapter 09: R241, R260 to R262, R264, R265, R269). -/

namespace Sys2Proof.Machine

section
variable {iss : Issuer} {r : Rec} {s : State} {w : Work} {dn rs : Nat} {w1 w2 : Work}

/-! ## Transfers on the tap path (R241, R264, R265, R269) -/

/-- What the completion of a transfer tells, where it reads n bytes at an address: the rows that it delivered as zeros, and
free values for DONE and RESULT (log entry 52). -/
def Work.xferFlight (w w2 : Work) (iss : Issuer) (r : Rec) (src len dn rs : Nat) : Flight :=
  { w2.strmFlight iss (StrmReq.ofRec r) with
    status := if w.badRows src len = 0 then sOk else sCheck, done := dn, result := rs, poison := w.badRows src len }

section
variable {src dst len : Nat} (hsrc : src = resolveAddr iss (recF r 147 96)) (hdst : dst = resolveAddr iss (recF r 211 160))
  (hlen : len = recF r 232 224 + 1) (hmax : len ≤ 256) (hfails : w.xferFails src dst len = [])
  (hdn : (dn, w1) = w.fresh 32) (hrs : (rs, w2) = w1.fresh 32)
include hsrc hdst hlen hmax hfails hdn hrs

/-- A stream's transfer moves its bytes and completes. -/
theorem Work.xferRun_of_stream {d n : Nat} (hiss : iss = .stream d n) : w.xferRun iss (StrmReq.ofRec r) r =
    (w2.xferMove false src dst len (fun _ => true)).finish (w.xferFlight w2 iss r src len dn rs) := by
  subst hiss hsrc hdst hlen
  simp [Work.xferRun, Work.xferFlight, chk, hmax, hfails, ← hdn, ← hrs]

/-- So does management firmware's, which may write the page table (R269). -/
theorem Work.xferRun_of_firmware {mc d : Nat} (hiss : iss = .firmware mc d) : w.xferRun iss (StrmReq.ofRec r) r =
    (w2.xferMove true src dst len (fun _ => true)).finish (w.xferFlight w2 iss r src len dn rs) := by
  subst hiss hsrc hdst hlen
  simp [Work.xferRun, Work.xferFlight, chk, hmax, hfails, ← hdn, ← hrs]

/-- A core's moves the bytes that a free value marks, none while a page is being moved, and stays outstanding. -/
theorem Work.xferRun_of_core {d g m mask : Nat} {w3 : Work} (hiss : iss = .core d g) (hm : (m, w3) = w2.fresh 256)
    (hmask : mask = if w3.rackingIn src len || w3.rackingIn dst len then 0 else m) :
    w.xferRun iss (StrmReq.ofRec r) r =
      let y := w3.xferMove false src dst len (bitOf mask)
      y.setCore d g { y.core d g with
        taps := (y.core d g).taps ++ [⟨w.xferFlight w2 iss r src len dn rs, src, dst, len, mask⟩] } := by
  subst hiss hsrc hdst hlen hmask
  simp [Work.xferRun, Work.xferFlight, chk, hmax, hfails, ← hdn, ← hrs, ← hm]

end

/-- One that fails its checks, for a place that no transfer may reach, moves nothing. -/
theorem exec_xfer_of_fails (h : StreamRequest 0x61 iss r s w)
    (hfails : w.xferFails (resolveAddr iss (recF r 147 96)) (resolveAddr iss (recF r 211 160)) (recF r 232 224 + 1) = [sRange])
    (hmax : recF r 232 224 + 1 ≤ 256) :
    exec (.xfer iss r) s = .next (s.on fun _ => w.strmFail iss (StrmReq.ofRec r) [sRange]) := by
  rw [exec_of_streamRequest (c := .xfer) (serve := Work.xferRun) (by simp [streamRows]) h]
  have hmapped : sUnmapped ≠ sRange := by decide
  simp [Work.xferRun, chk, hfails, hmax, hmapped]

/-- The command that completes the k-th outstanding transfer of core g of die d names only what the module has. -/
theorem wf_tapRequestComplete {d g : Nat} (k : Nat) (hd : d < 4) (hg : g < 96) :
    (Instr.tapRequestComplete d g k).wf = true := by
  simp [Instr.wf, hd, hg]

/-- The completion of a core's transfer moves the rest of its bytes and writes its record. -/
theorem exec_tapRequestComplete {d g k : Nat} {t : Tap} (hd : d < 4) (hg : g < 96)
    (ht : (s.work.core d g).taps[k]? = some t) (hsrc : s.work.rackingIn t.src t.len = false)
    (hdst : s.work.rackingIn t.dst t.len = false) :
    exec (.tapRequestComplete d g k) s = .next (s.on fun w =>
      ((w.setCore d g { w.core d g with taps := (w.core d g).taps.eraseIdx k }).xferMove false t.src t.dst t.len
        (fun i => !bitOf t.moved i)).finish t.fl) := by
  show execTapRequestComplete d g k s = _
  exact State.perform_eq_on _ (wf_tapRequestComplete k hd hg) (by simp [ht, hsrc, hdst])

/-- While it reaches a page that is being moved, it does not complete (R269). -/
theorem exec_tapRequestComplete_of_racking {d g k : Nat} {t : Tap} (hd : d < 4) (hg : g < 96)
    (ht : (s.work.core d g).taps[k]? = some t)
    (hracking : s.work.rackingIn t.src t.len = true ∨ s.work.rackingIn t.dst t.len = true) :
    exec (.tapRequestComplete d g k) s = .next s := by
  show execTapRequestComplete d g k s = _
  exact State.perform_unchanged (wf_tapRequestComplete k hd hg) (by simp [ht, hracking])

/-- A transfer that is not outstanding does not complete. -/
theorem exec_tapRequestComplete_of_none {d g k : Nat} (hd : d < 4) (hg : g < 96)
    (ht : (s.work.core d g).taps[k]? = none) : exec (.tapRequestComplete d g k) s = .next s := by
  show execTapRequestComplete d g k s = _
  exact State.perform_unchanged (wf_tapRequestComplete k hd hg) (by simp only [ht])

/-! ## Stage barriers (R260 to R262) -/

/-- BAR_ARM sets the count of a barrier without arrivals. -/
theorem exec_barArm (h : StreamRequest 0x67 iss r s w) (harr : (w.bar (recF r 105 96)).arrived = [])
    (hn : 1 ≤ recF r 139 128) :
    exec (.barArm iss r) s = .next (s.on fun _ =>
      (w.wr F.strmBarCount 0 (recF r 105 96) (recF r 139 128)).strmOk iss (StrmReq.ofRec r) none) := by
  rw [exec_of_streamRequest (c := .barArm) (serve := Work.barArmReq) (by simp [streamRows]) h]
  simp [Work.barArmReq, Work.strmEnd, chk, harr, hn]

/-- A barrier at which some have arrived is not armed again. -/
theorem exec_barArm_of_arrived (h : StreamRequest 0x67 iss r s w) (harr : (w.bar (recF r 105 96)).arrived ≠ [])
    (hn : 1 ≤ recF r 139 128) :
    exec (.barArm iss r) s = .next (s.on fun _ => w.strmFail iss (StrmReq.ofRec r) [sState]) := by
  rw [exec_of_streamRequest (c := .barArm) (serve := Work.barArmReq) (by simp [streamRows]) h]
  simp [Work.barArmReq, Work.strmEnd, chk, harr, hn]

/-- No one arrives at a barrier that is not armed. -/
theorem exec_barArrive_of_not_armed (h : StreamRequest 0x66 iss r s w) (hcount : w.barCount (recF r 105 96) = 0) :
    exec (.barArrive iss r) s = .next (s.on fun _ => w.strmFail iss (StrmReq.ofRec r) [sState]) := by
  rw [exec_of_streamRequest (c := .barArrive) (serve := Work.barArriveReq) (by simp [streamRows]) h]
  simp [Work.barArriveReq, hcount]

/-- An arrival at an armed barrier waits for the release; DONE and RESULT of its completion are free values. -/
theorem exec_barArrive (h : StreamRequest 0x66 iss r s w) (hcount : w.barCount (recF r 105 96) ≠ 0)
    (hdn : (dn, w1) = w.fresh 32) (hrs : (rs, w2) = w1.fresh 32) :
    exec (.barArrive iss r) s = .next (s.on fun _ => w2.arriveBar (recF r 105 96) (identOf iss)
      (some { w2.strmFlight iss (StrmReq.ofRec r) with done := dn, result := rs })) := by
  rw [exec_of_streamRequest (c := .barArrive) (serve := Work.barArriveReq) (by simp [streamRows]) h]
  simp [Work.barArriveReq, hcount, ← hdn, ← hrs]

section
variable {b : Nat} {who : Ident} {fl : Flight}

/-- An identity that arrived before in the generation only waits, and is counted as a repetition. -/
theorem Work.arriveBar_of_arrived (h : (w.bar b).arrived.contains who = true) : w.arriveBar b who (some fl) =
    (w.bumpSat F.strmBarDup 0 b).setBar b { w.bar b with waiting := (w.bar b).waiting ++ [fl] } := if_pos h

/-- One that does not reach the count is counted, and waits. -/
theorem Work.arriveBar_of_below (h : (w.bar b).arrived.contains who = false)
    (hbelow : (w.bar b).arrived.length + 1 < w.barCount b) : w.arriveBar b who (some fl) =
    (w.setBar b { arrived := who :: (w.bar b).arrived, waiting := (w.bar b).waiting ++ [fl] }).wr F.strmBarArrived 0 b
      ((w.bar b).arrived.length + 1) :=
  (if_neg (by simpa using h)).trans (if_neg (Nat.not_le.mpr hbelow))

/-- The one that reaches the count releases the barrier: a new generation without arrivals, and every waiter completes. -/
theorem Work.arriveBar_of_last (h : (w.bar b).arrived.contains who = false)
    (hlast : w.barCount b ≤ (w.bar b).arrived.length + 1) : w.arriveBar b who (some fl) =
    (((w.bar b).waiting ++ [fl]).foldl Work.finish
      (((w.setBar b Barrier.atReset).bump F.strmBarGen 0 b).wr F.strmBarArrived 0 b 0)).refreshAll :=
  (if_neg (by simpa using h)).trans (if_pos hlast)

end

end

/-- Settles O17: a request that its unit takes is served as its row says; a transfer by its issuer, an arrival by the
barrier that it meets. DONE and RESULT of both, and which bytes of a core's transfer move at once, are free values (of
transfers, log entry 52). -/
theorem transfersAndBarriers : Obligations.TransfersAndBarriers := by
  unfold Obligations.TransfersAndBarriers
  refine ⟨⟨?_, ?_, ?_, ?_⟩, ?_⟩
  · rintro s iss r w q src dst len dn rs w1 w2 fl h rfl hsrc hdst hlen hmax hfails hdn hrs rfl
    rw [exec_of_streamRequest (c := .xfer) (serve := Work.xferRun) (by simp [streamRows]) h]
    refine ⟨fun n d hiss => ?_, fun mc d hiss => ?_, fun d g m mask w3 hiss hm hmask => ?_⟩
    · rw [Work.xferRun_of_stream hsrc hdst hlen hmax hfails hdn hrs hiss, Work.xferFlight]
    · rw [Work.xferRun_of_firmware hsrc hdst hlen hmax hfails hdn hrs hiss, Work.xferFlight]
    · rw [Work.xferRun_of_core hsrc hdst hlen hmax hfails hdn hrs hiss hm hmask, Work.xferFlight]
  · rintro s iss r w _ h rfl hfails hmax
    exact exec_xfer_of_fails h hfails hmax
  · exact fun s d g k t hd hg ht => ⟨exec_tapRequestComplete hd hg ht, exec_tapRequestComplete_of_racking hd hg ht⟩
  · exact fun s d g k hd hg ht => exec_tapRequestComplete_of_none hd hg ht
  · rintro s iss r w _ _ rfl rfl
    refine ⟨exec_barArm, exec_barArm_of_arrived, exec_barArrive_of_not_armed, fun dn rs w1 w2 h hcount hdn hrs => ?_⟩
    rw [exec_barArrive h hcount hdn hrs]
    refine ⟨fun harr => ?_, fun harr hbelow => ?_, fun harr hlast => ?_⟩
    · rw [Work.arriveBar_of_arrived harr]
    · rw [Work.arriveBar_of_below harr hbelow]
    · rw [Work.arriveBar_of_last harr hlast]

end Sys2Proof.Machine

/-! The general cores' scalar forms, traps, waits and halts (chapter 08: R218, R226, R227, R232, R233, R239). -/

namespace Sys2Proof.Machine

/-! ## A row of a general core -/

section
variable {i : Instr} {f : Work → Work} {s : State} {d g : Nat}

/-- A row of a core that executes has any effect that its own agrees with on the block as it finds it. -/
theorem State.perform_coreRow_eq_on (v : Work → Work) (hi : i.wf = true) (hruns : s.work.coreRuns d g = true)
    (h : f s.work = v s.work) : s.perform i (fun w => w.coreRow d g f) = .next (s.on v) :=
  State.perform_eq_on v hi ((if_pos hruns).trans h)

/-- A row without an effect on the block as it finds it changes nothing. -/
theorem State.perform_coreRow_unchanged (hi : i.wf = true) (h : f s.work = s.work) :
    s.perform i (fun w => w.coreRow d g f) = .next s :=
  State.perform_unchanged hi (by rw [Work.coreRow, h, ite_self])

/-- Nor does a row of a core that does not execute. -/
theorem State.perform_coreRow_idle (hi : i.wf = true) (hidle : s.work.coreRuns d g = false) :
    s.perform i (fun w => w.coreRow d g f) = .next s :=
  State.perform_unchanged hi (if_neg (by simp [hidle]))

end

/-! ## Strings (R232, R233) -/

section
variable {s : State} {c : Core} {d g rd rs1 rs2 a : Nat} {bs : List Byte} {own : Bool}

/-- A string that the core may read gives rd. -/
theorem Work.stringOp_of_bytes {w : Work} {addr len : Nat} (f : List Byte → Nat)
    (h : w.loadBytes d g addr len 1 4 = .bytes a bs own) :
    w.stringOp d g rd addr len f = w.setCore d g (((w.core d g).setX rd (f bs)).retire 4) := by
  simp only [Work.stringOp, h]

/-- `vh64.m` hashes a string of fewer than 2^31 bytes. -/
theorem exec_vh64M (hwf : (Instr.vh64M d g rd rs1 rs2).wf = true) (hruns : s.work.coreRuns d g = true)
    (hcore : s.work.core d g = c) (hload : s.work.loadBytes d g (c.getX rs1) (c.getX rs2) 1 4 = .bytes a bs own)
    (hlen : c.getX rs2 < 2 ^ 31) : exec (.vh64M d g rd rs1 rs2) s =
      .next (s.on fun w => w.setCore d g ((c.setX rd (vh64 c.vhseed bs)).retire 4)) := by
  subst hcore
  show execVh64M d g rd rs1 rs2 s = _
  refine State.perform_coreRow_eq_on _ hwf hruns ?_
  rw [Work.vh64M, if_neg (Nat.not_le.mpr hlen), Work.stringOp_of_bytes _ hload]

/-- `crc32c.m` sums a string of any length. -/
theorem exec_crc32cM (hwf : (Instr.crc32cM d g rd rs1 rs2).wf = true) (hruns : s.work.coreRuns d g = true)
    (hcore : s.work.core d g = c) (hload : s.work.loadBytes d g (c.getX rs1) (c.getX rs2) 1 4 = .bytes a bs own) :
    exec (.crc32cM d g rd rs1 rs2) s = .next (s.on fun w => w.setCore d g ((c.setX rd (crc32c bs)).retire 4)) := by
  subst hcore
  show execCrc32cM d g rd rs1 rs2 s = _
  exact State.perform_coreRow_eq_on _ hwf hruns (Work.stringOp_of_bytes _ hload)

end

/-! ## Requests by `vtap` (R239, R240) -/

/-- The forms of `vtap`: the unit that it names, its command, and how that unit takes a request. -/
def vtapRows : List (Nat × (Nat → Nat → Nat → Nat → Instr) × (Work → Issuer → Rec → Work)) :=
  [(0, .vtapTransfer, Work.strmIssue), (1, .vtapCellar, Work.celIssue), (2, .vtapMatch, Work.matIssue)]

theorem vtapTransfer_mem : (0, Instr.vtapTransfer, Work.strmIssue) ∈ vtapRows := by simp [vtapRows]
theorem vtapCellar_mem : (1, Instr.vtapCellar, Work.celIssue) ∈ vtapRows := by simp [vtapRows]
theorem vtapMatch_mem : (2, Instr.vtapMatch, Work.matIssue) ∈ vtapRows := by simp [vtapRows]

/-- A form's command unit has room for the request of a core; the stream engine has room in any case. -/
def Work.vtapRoom (w : Work) (d kk : Nat) : Prop := (kk = 1 → w.celHeld d < 4096) ∧ (kk = 2 → w.matHeld d < 4096)

section
variable {s : State} {w : Work} {c : Core} {d g kk rd rs1 a : Nat} {bs : List Byte} {own : Bool}
  {instr : Nat → Nat → Nat → Nat → Instr} {issue : Work → Issuer → Rec → Work}

/-- Each form is a row of its core. -/
theorem exec_vtapRow (hrow : (kk, instr, issue) ∈ vtapRows) (s : State) (d g rd rs1 : Nat) :
    exec (instr d g rd rs1) s =
      s.perform (instr d g rd rs1) (fun w => w.coreRow d g (fun w => w.vtap d g kk rd rs1)) ∧
    (instr d g rd rs1).wf = (Instr.vtapTransfer d g rd rs1).wf := by
  simp only [vtapRows, List.mem_cons, List.not_mem_nil, or_false, Prod.mk.injEq] at hrow
  rcases hrow with h | h | h <;> obtain ⟨rfl, rfl, rfl⟩ := h <;> exact ⟨rfl, rfl⟩

/-- A record that is read from the core's own local memory is issued, and rd is the number of requests outstanding with it. -/
theorem Work.vtap_of_bytes (hrow : (kk, instr, issue) ∈ vtapRows) (hcore : w.core d g = c) (hout : c.tapout < 64)
    (hroom : w.vtapRoom d kk) (hload : w.localBytes d g (c.getX rs1) 64 64 = .bytes a bs own) :
    w.vtap d g kk rd rs1 = issue (w.setCore d g ((c.setX rd (c.tapout + 1)).retire 4)) (.core d g)
      (BitVec.ofNat 512 (ofBytes bs)) := by
  subst hcore
  have hfew : ¬ 64 ≤ (w.core d g).tapout := Nat.not_le.mpr hout
  simp only [vtapRows, List.mem_cons, List.not_mem_nil, or_false, Prod.mk.injEq] at hrow
  rcases hrow with h | h | h <;> obtain ⟨rfl, rfl, rfl⟩ := h
  · simp [Work.vtap, hfew, hload]
  · simp [Work.vtap, hfew, hload, Nat.not_le.mpr (hroom.1 rfl)]
  · simp [Work.vtap, hfew, hload, Nat.not_le.mpr (hroom.2 rfl)]

/-- With 64 requests outstanding the instruction waits (R240). -/
theorem Work.vtap_of_full (hkk : kk < 3) (hout : 64 ≤ (w.core d g).tapout) : w.vtap d g kk rd rs1 = w := by
  simp [Work.vtap, Nat.not_le.mpr hkk, hout]

theorem exec_vtap (hrow : (kk, instr, issue) ∈ vtapRows) (hwf : (Instr.vtapTransfer d g rd rs1).wf = true)
    (hruns : s.work.coreRuns d g = true) (hcore : s.work.core d g = c) (hout : c.tapout < 64)
    (hroom : s.work.vtapRoom d kk) (hload : s.work.localBytes d g (c.getX rs1) 64 64 = .bytes a bs own) :
    exec (instr d g rd rs1) s = .next (s.on fun w =>
      issue (w.setCore d g ((c.setX rd (c.tapout + 1)).retire 4)) (.core d g) (BitVec.ofNat 512 (ofBytes bs))) := by
  obtain ⟨hexec, hwf'⟩ := exec_vtapRow hrow s d g rd rs1
  rw [hexec]
  exact State.perform_coreRow_eq_on _ (hwf'.trans hwf) hruns (Work.vtap_of_bytes hrow hcore hout hroom hload)

theorem exec_vtap_of_full (hrow : (kk, instr, issue) ∈ vtapRows) (hwf : (Instr.vtapTransfer d g rd rs1).wf = true)
    (hout : 64 ≤ (s.work.core d g).tapout) : exec (instr d g rd rs1) s = .next s := by
  have hkk : kk < 3 := by
    simp only [vtapRows, List.mem_cons, List.not_mem_nil, or_false, Prod.mk.injEq] at hrow
    omega
  obtain ⟨hexec, hwf'⟩ := exec_vtapRow hrow s d g rd rs1
  rw [hexec]
  exact State.perform_coreRow_unchanged (hwf'.trans hwf) (Work.vtap_of_full hkk hout)

end

/-! ## Traps (R226) -/

/-- A plan to become FAULTED changes no more than the plans. -/
theorem Work.faultPlan_only (w : Work) (p st : Nat) : ∃ ps, w.faultPlan p st = { w with plans := ps } := by
  unfold Work.faultPlan
  dsimp only
  split
  · split <;> exact ⟨_, rfl⟩
  · exact ⟨_, rfl⟩

/-- A plan that no failure has yet claimed becomes FAULTED with the status. -/
theorem Work.faultPlan_faulting {w : Work} {p : Nat} (st : Nat) (hp : p < 16) (hnone : (w.plan p).faulting = 0) :
    ((w.faultPlan p st).plan p).faulting = st := by
  simp [Work.faultPlan, hp, hnone]

/-- What a core is after a trap. -/
def Core.trapped (c : Core) (t : TrapInfo) : Core :=
  { c with user := false, mcause := t.cause % 64, mepc := c.pc, mtval := t.val, resv := none, wait := .none,
           ended := some t.status }

/-- What a trap at a program counter leaves in the registers of a core. -/
def Work.noteTrap (w : Work) (d g pc : Nat) (t : TrapInfo) : Work :=
  (((((w.wr F.gcTrapCause d g t.cause).wrB F.gcTrapUe d g t.ue).wr F.gcTrapValid d g 1).wr F.gcTrapTickLo d g
    w.tickNo).wr F.gcTrapPcPc d g pc).wr F.gcTrapValVal d g t.val

section
variable {w : Work} {d g : Nat} {t : TrapInfo}

/-- A trap that does not wait changes the core, notes what was met, and faults the plan but for an uncorrectable word. -/
theorem Work.trap_eq (h : t.waits = false) : w.trap d g t =
    let v := (w.setCore d g ((w.core d g).trapped t)).noteTrap d g (w.core d g).pc t
    if t.ue then v else v.faultPlan (w.planOf (.core d g)) t.status :=
  if_neg (by simp [h])

/-- So nothing but registers, cores and plans differs. -/
theorem Work.trap_only (h : t.waits = false) : ∃ ps, w.trap d g t =
    { (w.setCore d g ((w.core d g).trapped t)).noteTrap d g (w.core d g).pc t with plans := ps } := by
  rw [Work.trap_eq h]
  dsimp only
  split
  · exact ⟨_, rfl⟩
  · exact Work.faultPlan_only ..

/-- The core after a trap. -/
theorem Work.core_trap (h : t.waits = false) : (w.trap d g t).core d g = (w.core d g).trapped t := by
  obtain ⟨ps, hps⟩ := Work.trap_only (w := w) (d := d) (g := g) h
  rw [hps]
  exact Work.core_setCore w d g _

/-- A register field of a trap is what the trap noted. -/
theorem Work.rd_trap (h : t.waits = false) (f : Fld) (e j : Nat) : (w.trap d g t).rd f e j =
    ((w.setCore d g ((w.core d g).trapped t)).noteTrap d g (w.core d g).pc t).rd f e j := by
  obtain ⟨ps, hps⟩ := Work.trap_only (w := w) (d := d) (g := g) h
  rw [hps]
  rfl

end

/-- Two fields of a core's registers at different bits are kept apart. -/
theorem Work.rd_wr_other_gc {f h : Fld} (hf : f.reg.info.place = .gc) (hh : h.reg.info.place = .gc)
    (hne : h.reg.info.off * 8 + h.lo ≠ f.reg.info.off * 8 + f.lo) (w : Work) (d g v : Nat) :
    (w.wr h d g v).rd f d g = w.rd f d g := by
  refine Work.rd_wr_other ?_
  simp only [Fld.key, Reg.addr, hf, hh]
  omega

/-- What a trap leaves in GC_TRAP, GC_TRAP_PC and GC_TRAP_VAL. -/
theorem Work.rd_noteTrap (w : Work) (d g pc : Nat) (t : TrapInfo) :
    (w.noteTrap d g pc t).rd F.gcTrapCause d g = t.cause % 2 ^ F.gcTrapCause.w ∧
    (w.noteTrap d g pc t).rdB F.gcTrapValid d g = true ∧ (w.noteTrap d g pc t).rdB F.gcTrapUe d g = t.ue ∧
    (w.noteTrap d g pc t).rd F.gcTrapPcPc d g = pc % 2 ^ F.gcTrapPcPc.w ∧
    (w.noteTrap d g pc t).rd F.gcTrapValVal d g = t.val % 2 ^ F.gcTrapValVal.w := by
  unfold Work.noteTrap Work.rdB Work.wrB
  simp (disch := decide) only [Work.rd_wr_other_gc, Work.rd_wr_same]
  cases t.ue <;> decide

/-! ### A trap that a task meets -/

/-- What a trap in user mode carries. -/
def TrapInfo.met (cause : Nat) (val : BitVec 64) (ue un : Bool) : TrapInfo :=
  { cause := cause % 64, val := val.toNat, ue := ue, unmapped := !ue && un }

/-- Its status by the row of R226. -/
theorem TrapInfo.met_status (cause : Nat) (val : BitVec 64) (ue un : Bool) :
    (TrapInfo.met cause val ue un).status = if ue then sCheck else if un then sUnmapped else sRange := by
  cases ue <;> rfl

/-- The block with the uncorrectable word noted that a trap met in the core's own local memory (R220). -/
def Work.noteUe (w : Work) (d g val : Nat) (ue : Bool) : Work :=
  if ue then
    match w.target d g val 1 with
    | .own b => w.localUe d g (b / 64 * 64)
    | _ => w
  else w

theorem Work.noteUe_false (w : Work) (d g val : Nat) : w.noteUe d g val false = w := rfl

/-- A word noted changes registers, and the counts and notes of errors. -/
theorem Work.noteUe_only (w : Work) (d g val : Nat) (ue : Bool) :
    ∃ r e x sp, w.noteUe d g val ue = { w with regs := r, errs := e, evt := x, spr := sp } := by
  have hunitUe (v : Work) (kind a addr : Nat) : ∃ r x, v.unitUe kind d a addr =
      { v with regs := r, errs := { v.errs with ue := v.errs.ue + 1 }, evt := x } := by
    obtain ⟨r, x, h⟩ := Work.onlyNotes_event { v with errs := { v.errs with ue := v.errs.ue + 1 } } (dieSource 5 d) sCheck
      (kind + a * 16 + detailAddr addr)
    exact ⟨r, x, h⟩
  unfold Work.noteUe
  split
  · split
    · unfold Work.localUe
      dsimp only
      split
      · obtain ⟨r, x, h⟩ := hunitUe _ _ _ _
        exact ⟨_, _, _, _, h⟩
      · obtain ⟨r, x, h⟩ := hunitUe _ _ _ _
        exact ⟨_, _, _, _, h⟩
    · exact ⟨_, _, _, _, rfl⟩
  · exact ⟨_, _, _, _, rfl⟩

/-- The state after a trap in user mode. -/
def State.afterTrap (s : State) (d g cause : Nat) (val : BitVec 64) (ue un : Bool) : State :=
  s.on fun w => (w.noteUe d g val.toNat ue).trap d g (.met cause val ue un)

section
variable {s : State} {c : Core} {d g cause : Nat} {val : BitVec 64} {ue un : Bool}

theorem exec_userTrap (hwf : (Instr.userTrap d g cause val ue un).wf = true) (huser : (s.work.core d g).user = true) :
    exec (.userTrap d g cause val ue un) s = .next (s.afterTrap d g cause val ue un) := by
  show execUserTrap d g cause val ue un s = _
  exact State.perform_eq_on _ hwf ((if_pos huser).trans rfl)

/-- A trap stores nothing: the state is the block with the trap taken. -/
theorem State.afterTrap_eq (s : State) (d g cause : Nat) (val : BitVec 64) (ue un : Bool) :
    s.afterTrap d g cause val ue un = { toBlock := ((s.work.noteUe d g val.toNat ue).trap d g (.met cause val ue un)).toBlock,
                                        mem := s.mem, pending := s.pending } := by
  obtain ⟨_, _, _, _, hnote⟩ := s.work.noteUe_only d g val.toNat ue
  obtain ⟨_, htrap⟩ := Work.trap_only (w := s.work.noteUe d g val.toNat ue) (d := d) (g := g)
    (t := .met cause val ue un) rfl
  refine State.on_of_no_store ?_ ?_
  · rw [htrap, hnote]
    rfl
  · rw [htrap, hnote]
    rfl

theorem State.core_noteUe (s : State) (d g val : Nat) (ue : Bool) : (s.work.noteUe d g val ue).core d g = s.work.core d g := by
  obtain ⟨_, _, _, _, hnote⟩ := s.work.noteUe_only d g val ue
  rw [hnote]
  rfl

/-- The core after a trap in user mode. -/
theorem State.core_afterTrap (s : State) (d g cause : Nat) (val : BitVec 64) (ue un : Bool) :
    (s.afterTrap d g cause val ue un).work.core d g = (s.work.core d g).trapped (.met cause val ue un) := by
  rw [State.afterTrap_eq]
  exact (Work.core_trap rfl).trans (by rw [State.core_noteUe])

/-- A register field after it is what the trap noted. -/
theorem State.rd_afterTrap (s : State) (d g cause : Nat) (val : BitVec 64) (ue un : Bool) :
    ∃ w : Work, ∀ f e j, (s.afterTrap d g cause val ue un).work.rd f e j =
      (w.noteTrap d g (s.work.core d g).pc (.met cause val ue un)).rd f e j := by
  rw [State.afterTrap_eq]
  exact ⟨_, fun f e j => (Work.rd_trap rfl f e j).trans (by rw [State.core_noteUe])⟩

/-- Its registers. -/
theorem State.gcTrap_afterTrap (s : State) (d g cause : Nat) (val : BitVec 64) (ue un : Bool) :
    let t := s.afterTrap d g cause val ue un
    t.work.rd F.gcTrapCause d g = cause % 64 % 2 ^ F.gcTrapCause.w ∧ t.work.rdB F.gcTrapValid d g = true ∧
    t.work.rdB F.gcTrapUe d g = ue ∧ t.work.rd F.gcTrapPcPc d g = (s.work.core d g).pc % 2 ^ F.gcTrapPcPc.w ∧
    t.work.rd F.gcTrapValVal d g = val.toNat % 2 ^ F.gcTrapValVal.w := by
  obtain ⟨w, hw⟩ := s.rd_afterTrap d g cause val ue un
  simp only [Work.rdB, hw]
  exact w.rd_noteTrap d g _ _

/-- A trap that met an uncorrectable word faults no plan. -/
theorem State.plans_afterTrap_of_ue (s : State) (d g cause : Nat) (val : BitVec 64) (un : Bool) :
    (s.afterTrap d g cause val true un).plans = s.plans := by
  obtain ⟨_, _, _, _, hnote⟩ := s.work.noteUe_only d g val.toNat true
  rw [State.afterTrap_eq, Work.trap_eq rfl, hnote]
  rfl

/-- Any other faults the plan of the task, with the task's status. -/
theorem State.faulting_afterTrap (s : State) (cause : Nat) (val : BitVec 64) (un : Bool)
    (hp : s.work.planOf (.core d g) < 16) (hnone : (s.work.plan (s.work.planOf (.core d g))).faulting = 0) :
    ((s.afterTrap d g cause val false un).work.plan (s.work.planOf (.core d g))).faulting =
      if un then sUnmapped else sRange := by
  rw [State.afterTrap_eq, Work.noteUe_false, Work.trap_eq rfl]
  exact (Work.faultPlan_faulting (w := (s.work.setCore d g ((s.work.core d g).trapped (.met cause val false un))).noteTrap
    d g (s.work.core d g).pc (.met cause val false un)) _ hp hnone).trans (TrapInfo.met_status cause val false un)

/-! ## Waits and halts (R218, R227) -/

/-- `wfi` waits while a request of the core is outstanding, and goes on at once with none. -/
theorem exec_wfi (hwf : (Instr.wfi d g).wf = true) (hruns : s.work.coreRuns d g = true) (hcore : s.work.core d g = c) :
    exec (.wfi d g) s = .next (s.on fun w => w.setCore d g
      (if c.tapout = 0 then c.retire 4 else { c.retire 4 with wait := .wfi })) := by
  subst hcore
  show execWfi d g s = _
  exact State.perform_coreRow_eq_on _ hwf hruns rfl

/-- `ebreak` halts a core under a debugger. -/
theorem exec_ebreakHalt_of_dbg (hwf : (Instr.ebreakHalt d g).wf = true) (hruns : s.work.coreRuns d g = true)
    (hcore : s.work.core d g = c) (hdbg : s.work.modl.dbg = true) : exec (.ebreakHalt d g) s =
      .next (s.on fun w => (w.setCore d g { c with halted := true }).wr F.gcStatusHalted d g 1) := by
  subst hcore
  show execEbreakHalt d g s = _
  exact State.perform_coreRow_eq_on _ hwf hruns (if_pos hdbg)

/-- Without a debugger it is a trap. -/
theorem exec_ebreakHalt_of_no_dbg (hwf : (Instr.ebreakHalt d g).wf = true) (hruns : s.work.coreRuns d g = true)
    (hcore : s.work.core d g = c) (hdbg : s.work.modl.dbg = false) : exec (.ebreakHalt d g) s =
      .next (s.on fun w => w.trap d g { cause := 3, val := c.pc }) := by
  subst hcore
  show execEbreakHalt d g s = _
  exact State.perform_coreRow_eq_on _ hwf hruns (if_neg (ne_true_of_eq_false hdbg))

/-- A core that does not execute neither waits nor halts nor runs an instruction. -/
theorem exec_of_coreRuns_false (hwf : (Instr.wfi d g).wf = true) (hidle : s.work.coreRuns d g = false) :
    exec (.wfi d g) s = .next s ∧ exec (.ebreakHalt d g) s = .next s ∧ exec (.rv64gcInstruction d g) s = .next s := by
  refine ⟨?_, ?_, ?_⟩
  · show execWfi d g s = _
    exact State.perform_coreRow_idle hwf hidle
  · show execEbreakHalt d g s = _
    exact State.perform_coreRow_idle hwf hidle
  · show execRv64gcInstruction d g s = _
    exact State.perform_coreRow_idle hwf hidle

end

/-- Settles O41: each row is its core's, and acts while the core executes; a trap stores nothing, so that the core, its
registers and its plan are what the trap left. -/
theorem scalarFormsAndTraps : Obligations.ScalarFormsAndTraps := by
  unfold Obligations.ScalarFormsAndTraps
  constructor
  · intro s d g rd rs1 rs2 hd hg hrd hrs1 hrs2 hruns c
    have hstring : (Instr.vh64M d g rd rs1 rs2).wf = true := by simp [Instr.wf, *]
    have hvtap : (Instr.vtapTransfer d g rd rs1).wf = true := by simp [Instr.wf, *]
    refine ⟨fun a bs own hload => ?_, fun a bs own hout hload => ?_, fun hout => ?_, fun v => ?_⟩
    · exact ⟨exec_vh64M hstring hruns rfl hload, exec_crc32cM hstring hruns rfl hload⟩
    · exact ⟨exec_vtap vtapTransfer_mem hvtap hruns rfl hout ⟨by simp, by simp⟩ hload,
        fun hroom => exec_vtap vtapCellar_mem hvtap hruns rfl hout ⟨fun _ => hroom, by simp⟩ hload,
        fun hroom => exec_vtap vtapMatch_mem hvtap hruns rfl hout ⟨by simp, fun _ => hroom⟩ hload⟩
    · exact ⟨exec_vtap_of_full vtapTransfer_mem hvtap hout, exec_vtap_of_full vtapCellar_mem hvtap hout,
        exec_vtap_of_full vtapMatch_mem hvtap hout⟩
    · rw [Core.getX_setX_eq]
      by_cases hzero : rd = 0
      · simp [hzero, Core.getX_zero]
      · simp [hzero]
  · intro s d g hd hg c
    have hwf : (Instr.wfi d g).wf = true := by simp [Instr.wf, *]
    refine ⟨fun cause val ue un huser => ?_, fun hruns => ?_, exec_of_coreRuns_false hwf⟩
    · obtain ⟨hcause, hvalid, hue, hpc, hval⟩ := s.gcTrap_afterTrap d g cause val ue un
      refine ⟨s.afterTrap d g cause val ue un, exec_userTrap hwf huser, by rw [State.afterTrap_eq], ?_⟩
      rw [State.core_afterTrap]
      refine ⟨rfl, Nat.mod_mod cause 64, rfl, rfl, rfl, rfl, congrArg some (TrapInfo.met_status cause val ue un), hcause,
        hvalid, hue, hpc, hval, ?_, ?_⟩
      · rintro rfl
        exact s.plans_afterTrap_of_ue d g cause val un
      · rintro rfl hp hnone
        exact s.faulting_afterTrap cause val un hp hnone
    · exact ⟨exec_wfi hwf hruns rfl, exec_ebreakHalt_of_dbg hwf hruns rfl, exec_ebreakHalt_of_no_dbg hwf hruns rfl⟩

end Sys2Proof.Machine

/-! The vector forms of the Oxene instructions (chapter 08: R230, R232, R234, R236 to R238). -/

namespace Sys2Proof.Machine

/-! ## Bit fields -/

/-- A number with one bit field replaced, as an element of a vector register is. -/
def putField (old lo n x : Nat) : Nat := old - fieldOf old lo n * 2 ^ lo + (x % 2 ^ n) * 2 ^ lo

/-- The bits of a field are those of the number from its place on. -/
theorem testBit_fieldOf (x lo n j : Nat) : (fieldOf x lo n).testBit j = (decide (j < n) && x.testBit (lo + j)) := by
  rw [fieldOf, Nat.testBit_mod_two_pow, Nat.testBit_shiftRight]

/-- A replaced field has the new bits, and every other bit is as it was. -/
theorem testBit_putField (old lo n x j : Nat) :
    (putField old lo n x).testBit j = if lo ≤ j ∧ j < lo + n then x.testBit (j - lo) else old.testBit j := by
  have hlow : old % 2 ^ lo < 2 ^ lo := Nat.mod_lt _ (Nat.two_pow_pos lo)
  have hfield : fieldOf old lo n < 2 ^ n := Nat.mod_lt _ (Nat.two_pow_pos n)
  have hnew : x % 2 ^ n < 2 ^ n := Nat.mod_lt _ (Nat.two_pow_pos n)
  have hold : old = 2 ^ lo * (2 ^ n * (old / 2 ^ lo / 2 ^ n) + fieldOf old lo n) + old % 2 ^ lo := by
    rw [fieldOf, Nat.shiftRight_eq_div_pow, Nat.div_add_mod, Nat.div_add_mod]
  have hrest : old - fieldOf old lo n * 2 ^ lo = 2 ^ lo * (2 ^ n * (old / 2 ^ lo / 2 ^ n)) + old % 2 ^ lo :=
    Nat.sub_eq_of_eq_add (hold.trans (by rw [Nat.mul_add, Nat.mul_comm _ (fieldOf old lo n), Nat.add_right_comm]))
  have hput : putField old lo n x = 2 ^ lo * (2 ^ n * (old / 2 ^ lo / 2 ^ n) + x % 2 ^ n) + old % 2 ^ lo := by
    rw [putField, hrest, Nat.mul_add, Nat.mul_comm _ (x % 2 ^ n), Nat.add_right_comm]
  rw [hput, Nat.testBit_two_pow_mul_add _ hlow, Nat.testBit_two_pow_mul_add _ hnew]
  conv => rhs; rw [hold, Nat.testBit_two_pow_mul_add _ hlow, Nat.testBit_two_pow_mul_add _ hfield]
  by_cases hbelow : j < lo
  · rw [if_pos hbelow, if_neg (by omega), if_pos hbelow]
  · by_cases hin : j - lo < n
    · rw [if_neg hbelow, if_pos hin, if_pos (by omega), Nat.testBit_mod_two_pow, decide_eq_true hin, Bool.true_and]
    · rw [if_neg hbelow, if_neg hin, if_neg (by omega), if_neg hbelow, if_neg hin]

/-- A replaced field reads what was put there, kept to its width. -/
theorem fieldOf_putField_same (old lo n x : Nat) : fieldOf (putField old lo n x) lo n = x % 2 ^ n := by
  refine Nat.eq_of_testBit_eq fun j => ?_
  rw [testBit_fieldOf, testBit_putField, Nat.testBit_mod_two_pow]
  by_cases hj : j < n
  · rw [if_pos (by omega), Nat.add_sub_cancel_left]
  · simp [hj]

/-- A field apart from it reads what it read. -/
theorem fieldOf_putField_other {lo n lo' n' : Nat} (h : lo' + n' ≤ lo ∨ lo + n ≤ lo') (old x : Nat) :
    fieldOf (putField old lo n x) lo' n' = fieldOf old lo' n' := by
  refine Nat.eq_of_testBit_eq fun j => ?_
  rw [testBit_fieldOf, testBit_fieldOf, testBit_putField]
  by_cases hj : j < n'
  · rw [if_neg (by omega)]
  · simp [hj]

/-- A field within the low m bits is read from them alone. -/
theorem fieldOf_mod_two_pow {lo n m : Nat} (h : lo + n ≤ m) (x : Nat) : fieldOf (x % 2 ^ m) lo n = fieldOf x lo n := by
  refine Nat.eq_of_testBit_eq fun j => ?_
  rw [testBit_fieldOf, testBit_fieldOf, Nat.testBit_mod_two_pow]
  by_cases hj : j < n
  · simp [show lo + j < m by omega]
  · simp [hj]

/-! ## Vector registers and their elements (R230) -/

theorem Core.getV_setV (c : Core) (r q v : Nat) :
    (c.setV r v).getV q = if q % 32 = r % 32 then v % 2 ^ 512 else c.getV q := by
  unfold Core.getV Core.setV
  split
  next h => rw [h, smGet_smSet_same]
  next h => exact smGet_smSet_other (Ne.symm h)

/-- An element is written as a field of its register. -/
theorem Core.setVElem_eq (c : Core) (r n i x : Nat) :
    c.setVElem r n i x = c.setV (r + i * n / 512) (putField (c.getV (r + i * n / 512)) (i * n % 512) n x) := rfl

/-- An element whose width divides the register's lies in one register. -/
theorem elem_in_register {n : Nat} (hn : n ∣ 512) (i : Nat) : i * n % 512 + n ≤ 512 := by
  obtain ⟨k, hk⟩ := hn
  have hlt : i % k < k := Nat.mod_lt _ (Nat.pos_of_ne_zero fun h => by simp [h] at hk)
  rw [hk, Nat.mul_comm i, Nat.mul_mod_mul_left, ← Nat.mul_succ]
  exact Nat.mul_le_mul_left n hlt

/-- Two elements of one register lie apart. -/
theorem elems_apart {n i j : Nat} (hij : i < j) (hq : i * n / 512 = j * n / 512) : i * n % 512 + n ≤ j * n % 512 := by
  have hstep : i * n + n ≤ j * n := by rw [← Nat.succ_mul]; exact Nat.mul_le_mul_right n hij
  have hi := Nat.div_add_mod (i * n) 512
  have hj := Nat.div_add_mod (j * n) 512
  omega

section
variable {c : Core} {r n i j x : Nat}

/-- An element reads what was written to it, kept to its width. -/
theorem Core.vElem_setVElem_same (hn : n ∣ 512) : (c.setVElem r n i x).vElem r n i = x % 2 ^ n := by
  rw [Core.vElem, Core.setVElem_eq, Core.getV_setV, if_pos rfl, fieldOf_mod_two_pow (elem_in_register hn i),
    fieldOf_putField_same]

/-- A register that does not hold the element is as it was. -/
theorem Core.getV_setVElem_other {q : Nat} (hq : q % 32 ≠ (r + i * n / 512) % 32) :
    (c.setVElem r n i x).getV q = c.getV q := by
  rw [Core.setVElem_eq, Core.getV_setV, if_neg hq]

/-- Another element of a group within the register file is as it was. -/
theorem Core.vElem_setVElem_other (hn : n ∣ 512) (hij : i ≠ j) (hi : r + i * n / 512 < 32) (hj : r + j * n / 512 < 32) :
    (c.setVElem r n i x).vElem r n j = c.vElem r n j := by
  by_cases hq : j * n / 512 = i * n / 512
  · have hapart : j * n % 512 + n ≤ i * n % 512 ∨ i * n % 512 + n ≤ j * n % 512 := by
      rcases Nat.lt_or_gt_of_ne hij with h | h
      · exact .inr (elems_apart h hq.symm)
      · exact .inl (elems_apart h hq)
    rw [Core.vElem, Core.vElem, Core.setVElem_eq, Core.getV_setV, hq, if_pos rfl,
      fieldOf_mod_two_pow (elem_in_register hn j), fieldOf_putField_other hapart]
  · rw [Core.vElem, Core.vElem, Core.getV_setVElem_other (by omega)]

end

/-! ### Several elements written -/

/-- The elements of a list written, each with its value. -/
def Core.writeElems (c : Core) (r n : Nat) (l : List Nat) (f : Nat → Nat) : Core :=
  l.foldl (fun k i => k.setVElem r n i (f i)) c

theorem Core.writeElems_cons (c : Core) (r n i : Nat) (l : List Nat) (f : Nat → Nat) :
    c.writeElems r n (i :: l) f = (c.setVElem r n i (f i)).writeElems r n l f := rfl

theorem Core.mapActive_eq (c : Core) (vm : Bool) (vd n : Nat) (f : Nat → Nat) :
    c.mapActive vm vd n f = c.writeElems vd n (c.body.filter (fun i => c.active vm i)) f := rfl

/-- Nothing but the vector registers differs. -/
theorem Core.writeElems_only (c : Core) (r n : Nat) (l : List Nat) (f : Nat → Nat) :
    ∃ v, c.writeElems r n l f = { c with v := v } := by
  induction l generalizing c with
  | nil => exact ⟨c.v, rfl⟩
  | cons i l ih =>
    obtain ⟨v, h⟩ := ih (c.setVElem r n i (f i))
    exact ⟨v, h⟩

section
variable {c : Core} {r n regs : Nat} {l : List Nat} {f : Nat → Nat}

/-- Each element of the list reads its value, and every other one of the group is as it was. -/
theorem Core.vElem_writeElems (hn : n ∣ 512) (hregs : r + regs ≤ 32) (hl : ∀ i ∈ l, i * n / 512 < regs) {j : Nat}
    (hj : j * n / 512 < regs) :
    (c.writeElems r n l f).vElem r n j = if j ∈ l then f j % 2 ^ n else c.vElem r n j := by
  induction l generalizing c with
  | nil => rfl
  | cons i l ih =>
    obtain ⟨hi, hrest⟩ := List.forall_mem_cons.mp hl
    rw [Core.writeElems_cons, ih hrest]
    by_cases hij : i = j
    · subst hij
      simp [Core.vElem_setVElem_same hn]
    · rw [Core.vElem_setVElem_other hn hij (by omega) (by omega)]
      simp [Ne.symm hij]

/-- Every register outside the group is as it was. -/
theorem Core.getV_writeElems (hregs : r + regs ≤ 32) (hl : ∀ i ∈ l, i * n / 512 < regs) {q : Nat} (hq : q < 32)
    (hout : q < r ∨ r + regs ≤ q) : (c.writeElems r n l f).getV q = c.getV q := by
  induction l generalizing c with
  | nil => rfl
  | cons i l ih =>
    obtain ⟨hi, hrest⟩ := List.forall_mem_cons.mp hl
    rw [Core.writeElems_cons, ih hrest]
    exact Core.getV_setVElem_other (by omega)

end

/-! ### Register groups -/

/-- A group has 1, 2, 4 or 8 registers. -/
theorem Core.group_cases (c : Core) : c.group = 1 ∨ c.group = 2 ∨ c.group = 4 ∨ c.group = 8 := by
  unfold Core.group
  split <;> simp

/-- A group at an aligned register lies within the register file. -/
theorem Core.group_le {c : Core} {r : Nat} (hr : r < 32) (h : r % c.group = 0) : r + c.group ≤ 32 := by
  rcases c.group_cases with hg | hg | hg | hg <;> rw [hg] at h ⊢ <;> omega

/-- So does each group that a legal form names. -/
theorem Core.group_le_of_vLegal {c : Core} {sews groups : List Nat} {r : Nat} (h : c.vLegal sews groups = true)
    (hmem : r ∈ groups) (hr : r < 32) : r + c.group ≤ 32 := by
  simp only [Core.vLegal, Bool.and_eq_true, List.all_eq_true, decide_eq_true_eq] at h
  exact Core.group_le hr (h.2 r hmem)

/-- The elements that a vector form works on. -/
theorem Core.mem_body {c : Core} {i : Nat} : i ∈ c.body ↔ i < c.vl ∧ c.vstart ≤ i := by
  simp [Core.body]

/-! ## Tails (R230) -/

/-- The elements of the tail that an agnostic policy makes all ones, as the bits of x choose (log entry 49). -/
def Core.looseTail (c : Core) (n regs x : Nat) : List Nat :=
  if c.vl ≤ c.vstart then []
  else (List.range (regs * 512 / n)).filter fun e => decide (c.vl ≤ e) && (bitOf c.vtype 6 || decide (n = 1)) && bitOf x e

theorem Core.mem_looseTail {c : Core} {n regs x e : Nat} (h : e ∈ c.looseTail n regs x) :
    c.vl ≤ e ∧ e < regs * 512 / n := by
  unfold Core.looseTail at h
  split at h
  · cases h
  · simp only [List.mem_filter, List.mem_range, Bool.and_eq_true, decide_eq_true_eq] at h
    exact ⟨h.2.1.1, h.1⟩

/-- An agnostic policy touches no more, where masked-off elements are undisturbed. -/
theorem Core.agnostic_eq (c k : Core) (vd n regs x : Nat) :
    c.agnostic k vd n regs c.vl true x = k.writeElems vd n (c.looseTail n regs x) (fun _ => 2 ^ n - 1) := by
  unfold Core.agnostic Core.looseTail
  dsimp only
  split
  · rfl
  · rw [Core.writeElems, List.foldl_filter]
    simp [Core.active]

/-- The elements of the tail that a form with n-bit elements makes all ones. -/
def Core.tailOnes (c : Core) (n x : Nat) : List Nat := if bitOf c.vtype 6 then c.looseTail n c.group x else []

theorem Core.mem_tailOnes {c : Core} {n x e : Nat} (h : e ∈ c.tailOnes n x) :
    bitOf c.vtype 6 = true ∧ c.vl ≤ e ∧ e < c.group * 512 / n := by
  unfold Core.tailOnes at h
  split at h
  next hta => exact ⟨hta, Core.mem_looseTail h⟩
  next => cases h

/-- A form that completes leaves its core with some of the tail all ones, and draws at most one free value. -/
theorem Work.vDone_eq (w : Work) (d g : Nat) (c k : Core) (vd n : Nat) : ∃ x m, w.vDone d g c k vd n =
    { w.setCore d g (k.writeElems vd n (c.tailOnes n x) (fun _ => 2 ^ n - 1)).vRetire with free := m } := by
  unfold Work.vDone Core.tailOnes
  split
  · exact ⟨_, w.free + 1, by rw [← Core.agnostic_eq]; rfl⟩
  · exact ⟨0, w.free, rfl⟩

/-- Without an agnostic policy nothing more is written. -/
theorem Work.vDone_of_undisturbed {w : Work} {d g vd n : Nat} {c k : Core} (h : bitOf c.vtype 6 = false) :
    w.vDone d g c k vd n = w.setCore d g k.vRetire := if_neg (ne_true_of_eq_false h)

/-- Under one a free value is drawn. -/
theorem Work.vDone_of_agnostic {w : Work} {d g vd n : Nat} {c k : Core} (h : bitOf c.vtype 6 = true) :
    w.vDone d g c k vd n =
      { w.setCore d g (c.agnostic k vd n c.group c.vl true (w.fresh 512).1).vRetire with free := w.free + 1 } := if_pos h

/-! ## `vh64.v` (R232) -/

/-- The hash of a word is a 64-bit value. -/
theorem vh64Word_lt (seed v : Nat) : vh64Word seed v < 2 ^ 64 := vh64_lt seed _

/-- Another core than the one replaced is as it was. -/
theorem Work.core_setCore_other {w : Work} {d g e k : Nat} (c : Core) (hg : g < 96) (hk : k < 96) (h : (e, k) ≠ (d, g)) :
    (w.setCore d g c).core e k = w.core e k := by
  refine smGet_smSet_other fun hkey => h ?_
  rw [Prod.mk.injEq]
  omega

/-- The core that `vh64.v` leaves: each active element of the body hashed, and some of the tail all ones. -/
def Core.hashed (c : Core) (vm : Bool) (vd vs2 x : Nat) : Core :=
  ((c.mapActive vm vd 64 (fun i => vh64Word c.vhseed (c.vElem vs2 64 i))).writeElems vd 64 (c.tailOnes 64 x)
    (fun _ => 2 ^ 64 - 1)).vRetire

section
variable {c : Core} {vm : Bool} {vd vs2 x : Nat}

/-- Nothing of the core differs but the program counter, the retired instructions, vstart and the vector registers. -/
theorem Core.hashed_only (c : Core) (vm : Bool) (vd vs2 x : Nat) :
    ∃ v, c.hashed vm vd vs2 x = { c.vRetire with v := v } := by
  obtain ⟨u, hu⟩ := c.writeElems_only vd 64 (c.body.filter (fun i => c.active vm i))
    (fun i => vh64Word c.vhseed (c.vElem vs2 64 i))
  obtain ⟨v, hv⟩ := ({ c with v := u } : Core).writeElems_only vd 64 (c.tailOnes 64 x) (fun _ => 2 ^ 64 - 1)
  exact ⟨v, by rw [Core.hashed, Core.mapActive_eq, hu, hv]; rfl⟩

theorem Core.mem_body_register (hvl : c.vl ≤ 8 * c.group) {i : Nat} (hi : i ∈ c.body.filter (fun i => c.active vm i)) :
    i * 64 / 512 < c.group := by
  have := (Core.mem_body.mp (List.mem_filter.mp hi).1).1
  omega

theorem Core.mem_tailOnes_register {i : Nat} (hi : i ∈ c.tailOnes 64 x) : i * 64 / 512 < c.group := by
  have := (Core.mem_tailOnes hi).2.2
  omega

section
variable (hregs : vd + c.group ≤ 32) (hvl : c.vl ≤ 8 * c.group)
include hregs hvl

/-- Each element of the destination group: ones in the tail, a hash in the active body, as it was elsewhere. -/
theorem Core.vElem_hashed {i : Nat} (hi : i < 8 * c.group) : (c.hashed vm vd vs2 x).vElem vd 64 i =
    if i ∈ c.tailOnes 64 x then 2 ^ 64 - 1
    else if i ∈ c.body.filter (fun i => c.active vm i) then vh64Word c.vhseed (c.vElem vs2 64 i) else c.vElem vd 64 i := by
  have hreg : i * 64 / 512 < c.group := by omega
  have hwidth : (64 : Nat) ∣ 512 := by decide
  have hones : (2 ^ 64 - 1) % 2 ^ 64 = 2 ^ 64 - 1 := by decide
  show Core.vElem (Core.writeElems _ vd 64 (c.tailOnes 64 x) _) vd 64 i = _
  rw [Core.vElem_writeElems hwidth hregs (fun _ => Core.mem_tailOnes_register) hreg, hones, Core.mapActive_eq,
    Core.vElem_writeElems hwidth hregs (fun _ => Core.mem_body_register hvl) hreg, Nat.mod_eq_of_lt (vh64Word_lt _ _)]

/-- The body, and a tail that is undisturbed. -/
theorem Core.vElem_hashed_body {i : Nat} (hi : i < 8 * c.group) (h : i < c.vl ∨ bitOf c.vtype 6 = false) :
    (c.hashed vm vd vs2 x).vElem vd 64 i = if c.vstart ≤ i ∧ i < c.vl ∧ c.active vm i = true then
      vh64Word c.vhseed (c.vElem vs2 64 i) else c.vElem vd 64 i := by
  have htail : i ∉ c.tailOnes 64 x := fun hmem => by
    obtain ⟨hta, hpast, _⟩ := Core.mem_tailOnes hmem
    rcases h with h | h
    · omega
    · simp [h] at hta
  rw [Core.vElem_hashed hregs hvl hi, if_neg htail]
  simp only [List.mem_filter, Core.mem_body, and_comm (a := i < c.vl), and_assoc]

/-- The tail. -/
theorem Core.vElem_hashed_tail {i : Nat} (hi : i < 8 * c.group) (h : c.vl ≤ i) :
    (c.hashed vm vd vs2 x).vElem vd 64 i = c.vElem vd 64 i ∨ (c.hashed vm vd vs2 x).vElem vd 64 i = 2 ^ 64 - 1 := by
  have hbody : i ∉ c.body.filter (fun i => c.active vm i) := fun hmem => by
    have := (Core.mem_body.mp (List.mem_filter.mp hmem).1).1
    omega
  rw [Core.vElem_hashed hregs hvl hi, if_neg hbody]
  split
  · exact .inr rfl
  · exact .inl rfl

/-- Registers outside the destination group. -/
theorem Core.getV_hashed {q : Nat} (hq : q < 32) (hout : q < vd ∨ vd + c.group ≤ q) :
    (c.hashed vm vd vs2 x).getV q = c.getV q := by
  show Core.getV (Core.writeElems _ vd 64 (c.tailOnes 64 x) _) q = _
  rw [Core.getV_writeElems hregs (fun _ => Core.mem_tailOnes_register) hq hout, Core.mapActive_eq,
    Core.getV_writeElems hregs (fun _ => Core.mem_body_register hvl) hq hout]

end

end

section
variable {s : State} {c : Core} {d g vd vs2 : Nat} {vm : Bool}

/-- `vh64.v` on a legal vector state with SEW 64: the core hashes, and nothing else differs but the free values drawn. -/
theorem exec_vh64V (hwf : (Instr.vh64V d g vd vs2 vm).wf = true) (hruns : s.work.coreRuns d g = true)
    (hcore : s.work.core d g = c) (hlegal : c.vLegal [64] [vd, vs2] = true) (hmask : maskOk vm vd vs2 = true) :
    ∃ x n, exec (.vh64V d g vd vs2 vm) s =
      .next { s with cores := (s.work.setCore d g (c.hashed vm vd vs2 x)).cores, free := n } := by
  subst hcore
  obtain ⟨x, n, hdone⟩ := s.work.vDone_eq d g (s.work.core d g)
    ((s.work.core d g).mapActive vm vd 64 (fun i => vh64Word (s.work.core d g).vhseed ((s.work.core d g).vElem vs2 64 i)))
    vd 64
  have heffect : s.work.vh64V d g vd vs2 vm =
      { s.work.setCore d g ((s.work.core d g).hashed vm vd vs2 x) with free := n } :=
    (if_pos (by simp [hlegal, hmask])).trans hdone
  refine ⟨x, n, ?_⟩
  show execVh64V d g vd vs2 vm s = _
  rw [execVh64V, State.perform_coreRow_eq_on (fun w => w.vh64V d g vd vs2 vm) hwf hruns rfl,
    State.on_of_no_store (by rw [heffect]; rfl) (by rw [heffect]; rfl), heffect]
  rfl

/-- Another element width or register group, and v0 beside a mask, trap. -/
theorem exec_vh64V_of_illegal (hwf : (Instr.vh64V d g vd vs2 vm).wf = true) (hruns : s.work.coreRuns d g = true)
    (hcore : s.work.core d g = c) (h : c.vLegal [64] [vd, vs2] = false ∨ maskOk vm vd vs2 = false) :
    exec (.vh64V d g vd vs2 vm) s =
      .next (s.on fun w => w.trap d g (trapIllegal (oxVector custom0 0 0 vm vs2 0 vd))) := by
  subst hcore
  show execVh64V d g vd vs2 vm s = _
  refine State.perform_coreRow_eq_on _ hwf hruns (if_neg ?_)
  rcases h with h | h <;> simp [h]

end

/-! ## `vh64.vs`, `vbkt` and `vbitonic` (R232, R234, R236) -/

section
variable {s : State} {c k : Core} {d g vd vs2 rs1 a : Nat} {vm : Bool}

/-- `vh64.vs` hashes the strings of the active elements, where the core may read each. -/
theorem exec_vh64Vs (hwf : (Instr.vh64Vs d g vd vs2 vm).wf = true) (hruns : s.work.coreRuns d g = true)
    (hcore : s.work.core d g = c) (hlegal : c.vLegal [64] [vd, vs2] = true) (hmask : maskOk vm vd vs2 = true)
    (hshort : ∀ i ∈ c.body, c.active vm i = true → c.vElem vs2 64 i < 2 ^ 63)
    (hstrings : s.work.vhStrings d g c vs2 (c.body.filter (fun i => c.active vm i)) c vd = .inl k) :
    exec (.vh64Vs d g vd vs2 vm) s = .next (s.on fun w => w.vDone d g c k vd 64) := by
  subst hcore
  have hall : ((s.work.core d g).body.filter (fun i => (s.work.core d g).active vm i)).all
      (fun i => decide ((s.work.core d g).vElem vs2 64 i < 2 ^ 63)) = true := by
    simpa only [List.all_eq_true, List.mem_filter, decide_eq_true_eq, and_imp] using hshort
  show execVh64Vs d g vd vs2 vm s = _
  refine State.perform_coreRow_eq_on _ hwf hruns ?_
  rw [Work.vh64Vs, if_pos (by rw [hlegal, hmask, hall]; rfl), hstrings]

/-- The core after `vbkt` with boundaries bs: each element of the body coded, a masked-off one as a null (R234, R235). -/
def Core.bucketed (c : Core) (nan wide flt : Bool) (vd vs2 : Nat) (vm : Bool) (bs : List Byte) : Core :=
  c.body.foldl (fun (k : Core) i =>
    k.setVElem vd (if flt then 32 else 64) i (quantile (if wide then 255 else 15) nan
      ((List.range (if wide then 255 else 15)).map (fun j =>
        bktVal flt (leAt bs (j * (if flt then 4 else 8)) (if flt then 4 else 8))))
      (!c.active vm i) (bktVal flt (c.vElem vs2 (if flt then 32 else 64) i)))) c

/-- `vbkt` codes by the boundaries that it reads from the core's own local memory. -/
theorem exec_vbkt {nan wide flt : Bool} {bs : List Byte} {own : Bool}
    (hwf : (Instr.vbkt d g nan wide flt vd vs2 rs1 vm).wf = true) (hruns : s.work.coreRuns d g = true)
    (hcore : s.work.core d g = c) (hlegal : c.vLegal [if flt then 32 else 64] [vd, vs2] = true)
    (hmask : maskOk vm vd vs2 = true)
    (hload : s.work.localBytes d g (c.getX rs1) ((if wide then 256 else 16) * (if flt then 4 else 8)) 64 =
      .bytes a bs own) :
    exec (.vbkt d g nan wide flt vd vs2 rs1 vm) s = .next (s.on fun w =>
      w.vDone d g c (c.bucketed nan wide flt vd vs2 vm bs) vd (if flt then 32 else 64)) := by
  have hbytes : (if flt then 32 else 64) / 8 = if flt then 4 else 8 := by cases flt <;> rfl
  have hoffset (j : Nat) : j * (if flt then 32 else 64) / 8 = j * (if flt then 4 else 8) := by
    cases flt <;> simp <;> omega
  have hcount : (if wide then 255 else 15) + 1 = if wide then 256 else 16 := by cases wide <;> rfl
  subst hcore
  show execVbkt d g nan wide flt vd vs2 rs1 vm s = _
  refine State.perform_coreRow_eq_on _ hwf hruns ?_
  simp only [Work.vbkt, Core.bucketed, hlegal, hmask, hcount, hoffset, hbytes, hload, Bool.and_self, if_true]

/-- The core after the compare-exchanges of `vbitonic` under control x (R236). -/
def Core.exchanged (c : Core) (x vd vs2 : Nat) : Core :=
  c.body.foldl (fun (k : Core) i => k.exchange (fieldOf x 8 2) c.sew (2 ^ fieldOf x 0 4) (2 ^ fieldOf x 4 4) (bitOf x 10)
    vd vs2 i) c

/-- A control that names a step of the sort (R236). -/
def bitonicControl (x : Nat) : Prop :=
  fieldOf x 0 4 ≤ 8 ∧ fieldOf x 0 4 < fieldOf x 4 4 ∧ fieldOf x 4 4 ≤ 9 ∧ fieldOf x 8 2 < 3 ∧ fieldOf x 11 53 = 0

section
variable {x : Nat} (hwf : (Instr.vbitonic d g vd vs2 rs1).wf = true) (hruns : s.work.coreRuns d g = true)
  (hcore : s.work.core d g = c) (hlegal : c.vLegal [32, 64] [vd, vs2] = true) (hne : vd ≠ vs2) (hx : c.getX rs1 = x)
  (hcontrol : bitonicControl x)
include hcore hlegal hne hx hcontrol

/-- `vbitonic` exchanges the pairs of its step; each of its two groups has a tail. -/
theorem State.vbitonic_eq : s.work.vbitonic d g vd vs2 rs1 =
    let (y, w) := if bitOf c.vtype 6 then s.work.fresh 512 else (0, s.work)
    w.vDone d g c (if bitOf c.vtype 6 then c.agnostic (c.exchanged x vd vs2) vs2 c.sew c.group c.vl true y
      else c.exchanged x vd vs2) vd c.sew := by
  subst hcore hx
  obtain ⟨hj, hjk, hk, hkey, hzero⟩ := hcontrol
  rw [Work.vbitonic]
  dsimp only
  rw [if_neg (by simp [hlegal, hne]), if_pos ⟨hj, hjk, hk, hkey, hzero⟩]
  rfl

include hwf hruns

theorem exec_vbitonic_of_undisturbed (hta : bitOf c.vtype 6 = false) : exec (.vbitonic d g vd vs2 rs1) s =
    .next (s.on fun w => w.setCore d g (c.exchanged x vd vs2).vRetire) := by
  show execVbitonic d g vd vs2 rs1 s = _
  refine State.perform_coreRow_eq_on _ hwf hruns ?_
  rw [State.vbitonic_eq hcore hlegal hne hx hcontrol]
  dsimp only
  rw [if_neg (ne_true_of_eq_false hta), if_neg (ne_true_of_eq_false hta)]
  exact Work.vDone_of_undisturbed hta

/-- Under an agnostic policy each of the two tails draws a free value. -/
theorem exec_vbitonic_of_agnostic (hta : bitOf c.vtype 6 = true) :
    ∃ y z, exec (.vbitonic d g vd vs2 rs1) s = .next (s.on fun w =>
      { w.setCore d g (c.agnostic (c.agnostic (c.exchanged x vd vs2) vs2 c.sew c.group c.vl true y) vd c.sew c.group c.vl
          true z).vRetire with free := w.free + 2 }) := by
  refine ⟨(s.work.fresh 512).1, ((s.work.fresh 512).2.fresh 512).1, ?_⟩
  show execVbitonic d g vd vs2 rs1 s = _
  refine State.perform_coreRow_eq_on _ hwf hruns ?_
  rw [State.vbitonic_eq hcore hlegal hne hx hcontrol]
  dsimp only
  rw [if_pos hta, if_pos hta]
  exact Work.vDone_of_agnostic hta

end

end

/-! ## The order of keys (R237) -/

/-- An infinity's side of the finite data, which lie at 0. -/
def FVal.side : FVal → Int
  | .inf neg => if neg then -1 else 1
  | _ => 0

/-- The exponent of a finite datum. -/
def FVal.expo : FVal → Int
  | .fin _ _ e => e
  | _ => 0

/-- A finite datum in units of an exponent that is at most its own. -/
def FVal.units (e0 : Int) : FVal → Int
  | .fin neg m e => scaled neg m e e0
  | _ => 0

/-- Units of a smaller exponent are a power of two as many. -/
theorem scaled_shift (neg : Bool) (m : Nat) {e e0 e1 : Int} (h1 : e1 ≤ e0) (h0 : e0 ≤ e) :
    scaled neg m e e1 = scaled neg m e e0 * 2 ^ (e0 - e1).toNat := by
  have hsum : (e - e1).toNat = (e - e0).toNat + (e0 - e1).toNat := by omega
  have hshift : ((m <<< (e - e1).toNat : Nat) : Int) = ((m <<< (e - e0).toNat : Nat) : Int) * 2 ^ (e0 - e1).toNat := by
    rw [hsum, Nat.shiftLeft_add, Nat.shiftLeft_eq _ (e0 - e1).toNat, Int.natCast_mul, Int.natCast_pow]
    rfl
  cases neg with
  | false => exact hshift
  | true => exact (congrArg Neg.neg hshift).trans (Int.neg_mul _ _).symm

/-- So two data compare alike in units of any exponent that is at most those of both. -/
theorem scaled_lt_scaled_iff (s t : Bool) (m n : Nat) {e g e0 : Int} (he : e0 ≤ e) (hg : e0 ≤ g) :
    scaled s m e (min e g) < scaled t n g (min e g) ↔ scaled s m e e0 < scaled t n g e0 := by
  have hmin : e0 ≤ min e g := by omega
  have hpos : (0 : Int) < 2 ^ (min e g - e0).toNat := Int.pow_pos (by decide)
  rw [scaled_shift s m hmin (Int.min_le_left e g), scaled_shift t n hmin (Int.min_le_right e g)]
  exact ⟨fun h => Int.mul_lt_mul_of_pos_right h hpos, fun h => Int.lt_of_mul_lt_mul_right h (Int.le_of_lt hpos)⟩

/-- One datum is below another by its side, and on one side by its units. -/
theorem FVal.lt_iff {a b : FVal} {e0 : Int} (ha : a.isNan = false) (hb : b.isNan = false) (hea : e0 ≤ a.expo)
    (heb : e0 ≤ b.expo) : a.lt b = true ↔ a.side < b.side ∨ (a.side = b.side ∧ a.units e0 < b.units e0) := by
  rw [FVal.lt, decide_eq_true_eq]
  cases a with
  | nan => cases ha
  | inf s =>
    cases b with
    | nan => cases hb
    | inf t => cases s <;> cases t <;> simp only [FVal.cmp, FVal.side, FVal.units] <;> decide
    | fin t n g => cases s <;> simp [FVal.cmp, FVal.side]
  | fin s m e =>
    cases b with
    | nan => cases hb
    | inf t => cases t <;> simp [FVal.cmp, FVal.side]
    | fin t n g =>
      simp only [FVal.cmp, FVal.side, FVal.units, Option.some.injEq, Int.compare_eq_lt, Int.lt_irrefl, false_or,
        true_and]
      exact scaled_lt_scaled_iff s t m n hea heb

/-- A key takes part in the order: every integer, and every number that is no NaN. -/
def validKey (key n x : Nat) : Bool := !(decide (key = 2) && (fltOfWidth n x).isNan)

theorem validKey_of_no_nan {key n x : Nat} (h : key = 2 → (fltOfWidth n x).isNan = false) : validKey key n x = true := by
  unfold validKey
  by_cases hkey : key = 2
  · rw [h hkey, Bool.and_false]
    rfl
  · rw [decide_eq_false hkey, Bool.false_and]
    rfl

section
variable {n a b c : Nat}

theorem isNan_of_validKey (h : validKey 2 n a = true) : (fltOfWidth n a).isNan = false := by
  simpa only [validKey, decide_true, Bool.true_and, Bool.not_eq_true'] using h

/-- A float that takes part comes after another that does where it is greater. -/
theorem keyAfter_flt (ha : validKey 2 n a = true) (hb : validKey 2 n b = true) :
    keyAfter 2 n a b = (fltOfWidth n b).lt (fltOfWidth n a) := by
  simp only [keyAfter, isNan_of_validKey ha, isNan_of_validKey hb, Bool.false_eq_true, if_false, Bool.not_false,
    Bool.true_and]

/-- Of two keys that take part, not both come after the other. -/
theorem keyAfter_asymm {key : Nat} (hkey : key < 3) (ha : validKey key n a = true) (hb : validKey key n b = true)
    (h : keyAfter key n a b = true) : keyAfter key n b a = false := by
  match key, hkey with
  | 0, _ =>
    simp only [keyAfter, decide_eq_true_eq, decide_eq_false_iff_not] at h ⊢
    omega
  | 1, _ =>
    simp only [keyAfter, decide_eq_true_eq, decide_eq_false_iff_not] at h ⊢
    omega
  | 2, _ =>
    obtain ⟨e0, hea, heb⟩ : ∃ e0, e0 ≤ (fltOfWidth n a).expo ∧ e0 ≤ (fltOfWidth n b).expo :=
      ⟨min (fltOfWidth n a).expo (fltOfWidth n b).expo, by omega, by omega⟩
    rw [keyAfter_flt ha hb, FVal.lt_iff (isNan_of_validKey hb) (isNan_of_validKey ha) heb hea] at h
    rw [keyAfter_flt hb ha, ← Bool.not_eq_true, FVal.lt_iff (isNan_of_validKey ha) (isNan_of_validKey hb) hea heb]
    omega

/-- A key that does not come after a second, which does not come after a third, does not come after the third. -/
theorem keyAfter_trans_false {key : Nat} (hkey : key < 3) (ha : validKey key n a = true) (hb : validKey key n b = true)
    (hc : validKey key n c = true) (hab : keyAfter key n a b = false) (hbc : keyAfter key n b c = false) :
    keyAfter key n a c = false := by
  match key, hkey with
  | 0, _ =>
    simp only [keyAfter, decide_eq_false_iff_not] at hab hbc ⊢
    omega
  | 1, _ =>
    simp only [keyAfter, decide_eq_false_iff_not] at hab hbc ⊢
    omega
  | 2, _ =>
    obtain ⟨e0, hea, heb, hec⟩ :
        ∃ e0, e0 ≤ (fltOfWidth n a).expo ∧ e0 ≤ (fltOfWidth n b).expo ∧ e0 ≤ (fltOfWidth n c).expo :=
      ⟨min (fltOfWidth n a).expo (min (fltOfWidth n b).expo (fltOfWidth n c).expo), by omega, by omega, by omega⟩
    rw [keyAfter_flt ha hb, ← Bool.not_eq_true,
      FVal.lt_iff (isNan_of_validKey hb) (isNan_of_validKey ha) heb hea] at hab
    rw [keyAfter_flt hb hc, ← Bool.not_eq_true,
      FVal.lt_iff (isNan_of_validKey hc) (isNan_of_validKey hb) hec heb] at hbc
    rw [keyAfter_flt ha hc, ← Bool.not_eq_true, FVal.lt_iff (isNan_of_validKey hc) (isNan_of_validKey ha) hec hea]
    omega

/-- No key that takes part comes after itself. -/
theorem keyAfter_self {key : Nat} (hkey : key < 3) (ha : validKey key n a = true) : keyAfter key n a a = false := by
  cases h : keyAfter key n a a with
  | false => rfl
  | true => exact h.symm.trans (keyAfter_asymm hkey ha ha h)

end

/-! ## `vargmax` (R237) -/

section
variable {tt n : Nat} {get : Nat → Nat}

/-- One more element before the others: it is taken where it takes part and no later one comes after it. -/
theorem argmaxOf_cons (tt n : Nat) (get : Nat → Nat) (i : Nat) (is : List Nat) : argmaxOf tt n get (i :: is) =
    match argmaxOf tt n get is with
    | none => if validKey tt n (get i) then some i else none
    | some j => if validKey tt n (get i) && !keyAfter tt n (get j) (get i) then some i else some j := rfl

/-- Where no position is found no element takes part. -/
theorem argmaxOf_none {l : List Nat} (h : argmaxOf tt n get l = none) : ∀ j ∈ l, validKey tt n (get j) = false := by
  induction l with
  | nil => exact fun _ hj => absurd hj List.not_mem_nil
  | cons i l ih =>
    rw [argmaxOf_cons] at h
    cases hrest : argmaxOf tt n get l with
    | none =>
      rw [hrest] at h
      cases hi : validKey tt n (get i) with
      | false => exact List.forall_mem_cons.mpr ⟨hi, ih hrest⟩
      | true =>
        rw [hi] at h
        cases h
    | some j =>
      rw [hrest] at h
      dsimp only at h
      split at h <;> cases h

/-- The position found is of an element that takes part, and no element that takes part comes after it. -/
theorem argmaxOf_some (htt : tt < 3) {l : List Nat} {k : Nat} (h : argmaxOf tt n get l = some k) :
    k ∈ l ∧ validKey tt n (get k) = true ∧
      ∀ j ∈ l, validKey tt n (get j) = true → keyAfter tt n (get j) (get k) = false := by
  induction l generalizing k with
  | nil => cases h
  | cons i l ih =>
    rw [argmaxOf_cons] at h
    cases hrest : argmaxOf tt n get l with
    | none =>
      rw [hrest] at h
      cases hi : validKey tt n (get i) with
      | false =>
        rw [hi] at h
        cases h
      | true =>
        rw [hi] at h
        cases h
        refine ⟨List.mem_cons_self .., hi, List.forall_mem_cons.mpr ⟨fun _ => keyAfter_self htt hi, fun j hj hvj => ?_⟩⟩
        rw [argmaxOf_none hrest j hj] at hvj
        cases hvj
    | some j =>
      rw [hrest] at h
      obtain ⟨hj, hvj, hmax⟩ := ih hrest
      dsimp only at h
      by_cases htaken : (validKey tt n (get i) && !keyAfter tt n (get j) (get i)) = true
      · rw [if_pos htaken] at h
        cases h
        obtain ⟨hi, hafter⟩ := Bool.and_eq_true_iff.mp htaken
        have hji : keyAfter tt n (get j) (get i) = false := (Bool.not_eq_true' _).mp hafter
        exact ⟨List.mem_cons_self .., hi, List.forall_mem_cons.mpr ⟨fun _ => keyAfter_self htt hi,
          fun m hm hvm => keyAfter_trans_false htt hvm hvj hi (hmax m hm hvm) hji⟩⟩
      · rw [if_neg htaken] at h
        obtain rfl : j = k := Option.some.inj h
        refine ⟨List.mem_cons_of_mem _ hj, hvj, List.forall_mem_cons.mpr ⟨fun hi => ?_, hmax⟩⟩
        have hji : keyAfter tt n (get j) (get i) = true := by
          simpa only [hi, Bool.true_and, Bool.not_eq_true', Bool.not_eq_false] using htaken
        exact keyAfter_asymm htt hvj hi hji

end

/-- The position that `vargmax` finds among the active elements of the body. -/
def Core.argmax (c : Core) (tt vs2 : Nat) (vm : Bool) : Option Nat :=
  argmaxOf tt c.sew (c.vElem vs2 c.sew) (c.body.filter (fun i => c.active vm i))

/-- `vargmax` writes the position to rd, and all ones where no element takes part. -/
theorem exec_vargmax {s : State} {c : Core} {d g tt rd vs2 : Nat} {vm : Bool}
    (hwf : (Instr.vargmax d g tt rd vs2 vm).wf = true) (hruns : s.work.coreRuns d g = true) (htt : tt < 3)
    (hcore : s.work.core d g = c) (hlegal : c.vLegal (if tt = 2 then [16, 32, 64] else [8, 16, 32, 64]) [vs2] = true)
    (hmask : vm = true ∨ vs2 ≠ 0) : exec (.vargmax d g tt rd vs2 vm) s =
      .next (s.on fun w => w.setCore d g ((c.setX rd ((c.argmax tt vs2 vm).getD absent64)).vRetire)) := by
  have hbeside : (vm || decide (vs2 ≠ 0)) = true := by simpa using hmask
  subst hcore
  show execVargmax d g tt rd vs2 vm s = _
  refine State.perform_coreRow_eq_on _ hwf hruns (if_pos ?_)
  rw [hlegal, hbeside, decide_eq_true htt]
  rfl

/-! ## `vqpack` (R238) -/

/-- Nibbles laid one after another are read back at their places, and zeros past them. -/
theorem fieldOf_packed {l : List Nat} (hl : ∀ x ∈ l, x < 16) (i : Nat) :
    fieldOf (l.foldr (fun x acc => x + acc * 16) 0) (4 * i) 4 = getAt 0 l i := by
  induction l generalizing i with
  | nil => simp [fieldOf, getAt]
  | cons x l ih =>
    obtain ⟨hx, hrest⟩ := List.forall_mem_cons.mp hl
    rw [List.foldr_cons]
    cases i with
    | zero =>
      rw [fieldOf, Nat.mul_zero, Nat.shiftRight_zero, show 2 ^ 4 = 16 from rfl, Nat.add_mul_mod_self_right, Nat.mod_eq_of_lt hx]
      rfl
    | succ i =>
      have hshift (p : Nat) : fieldOf (x + p * 16) (4 * (i + 1)) 4 = fieldOf p (4 * i) 4 := by
        rw [fieldOf, fieldOf, show 4 * (i + 1) = 4 + 4 * i by omega, Nat.shiftRight_add,
          Nat.shiftRight_eq_div_pow (x + p * 16) 4, show (x + p * 16) / 2 ^ 4 = p by omega]
      rw [hshift, ih hrest]
      rfl

/-- What `vqpack` packs are nibbles. -/
theorem packNibbles_lt (sgn : Bool) (n : Nat) (xs : List Nat) : ∀ x ∈ (packNibbles sgn n xs).1, x < 16 := by
  have hwrap (v : Int) : wrapTo 4 v < 16 := by
    unfold wrapTo
    omega
  simp only [packNibbles, List.mem_map]
  rintro _ ⟨_, ⟨x, _, rfl⟩, rfl⟩
  cases sgn with
  | true => exact hwrap _
  | false =>
    simp only [Bool.false_eq_true, if_false]
    split <;> simp only <;> omega

/-- The core that `vqpack` leaves: the nibbles from vstart on in the destination group. -/
def Core.packed (c : Core) (vd : Nat) (ns : List Nat) : Core :=
  (c.writeElems vd 4 ((List.range (c.group * 128)).filter (fun i => decide (¬ i < c.vstart)))
    (fun i => fieldOf (ns.foldr (fun x acc => x + acc * 16) 0) (4 * i) 4)).vRetire

section
variable {c : Core} {vd : Nat} {ns : List Nat}

/-- Nothing of the core differs but the program counter, the retired instructions, vstart and the vector registers. -/
theorem Core.packed_only (c : Core) (vd : Nat) (ns : List Nat) : ∃ v, c.packed vd ns = { c.vRetire with v := v } := by
  obtain ⟨v, h⟩ := c.writeElems_only vd 4 ((List.range (c.group * 128)).filter (fun i => decide (¬ i < c.vstart)))
    (fun i => fieldOf (ns.foldr (fun x acc => x + acc * 16) 0) (4 * i) 4)
  exact ⟨v, by rw [Core.packed, h]; rfl⟩

theorem Core.mem_packed_register {i : Nat}
    (hi : i ∈ (List.range (c.group * 128)).filter (fun i => decide (¬ i < c.vstart))) : i * 4 / 512 < c.group := by
  have := List.mem_range.mp (List.mem_filter.mp hi).1
  omega

/-- Each nibble of the destination group. -/
theorem Core.vElem_packed (hregs : vd + c.group ≤ 32) (hns : ∀ x ∈ ns, x < 16) {i : Nat} (hi : i < 128 * c.group) :
    (c.packed vd ns).vElem vd 4 i = if i < c.vstart then c.vElem vd 4 i else getAt 0 ns i := by
  have hwidth : (4 : Nat) ∣ 512 := by decide
  have hmem : i ∈ (List.range (c.group * 128)).filter (fun i => decide (¬ i < c.vstart)) ↔ ¬ i < c.vstart := by
    simp only [List.mem_filter, List.mem_range, decide_eq_true_eq, and_iff_right_iff_imp]
    omega
  show Core.vElem (c.writeElems vd 4 _ _) vd 4 i = _
  rw [Core.vElem_writeElems hwidth hregs (fun _ => Core.mem_packed_register) (by omega), fieldOf_packed hns,
    Nat.mod_eq_of_lt ?_]
  · simp only [hmem, ite_not]
  · rw [← fieldOf_packed hns]
    exact Nat.mod_lt _ (Nat.two_pow_pos 4)

/-- Registers outside the destination group. -/
theorem Core.getV_packed (hregs : vd + c.group ≤ 32) {q : Nat} (hq : q < 32) (hout : q < vd ∨ vd + c.group ≤ q) :
    (c.packed vd ns).getV q = c.getV q := by
  show Core.getV (c.writeElems vd 4 _ _) q = _
  exact Core.getV_writeElems hregs (fun _ => Core.mem_packed_register) hq hout

end

/-- Saturations of a general core change its register and the counts of the module. -/
theorem Work.countSat_gc (w : Work) (d g n : Nat) : ∃ r e, w.countSat (.gc d g) n = { w with regs := r, errs := e } := by
  unfold Work.countSat
  split
  · exact ⟨_, _, rfl⟩
  · exact ⟨_, _, rfl⟩

/-- The elements that `vqpack` packs: zeros stand before vstart, where nothing is written. -/
def Core.packOperands (c : Core) (vs2 : Nat) : List Nat :=
  (List.range c.vl).map (fun i => if i < c.vstart then 0 else c.vElem vs2 c.sew i)

/-- Elements from vstart on written, as a fold over all of them. -/
theorem Core.foldl_from_vstart (c k : Core) (vd n : Nat) (l : List Nat) (f : Nat → Nat) :
    l.foldl (fun (k : Core) i => if i < c.vstart then k else k.setVElem vd n i (f i)) k =
      k.writeElems vd n (l.filter (fun i => decide (¬ i < c.vstart))) f := by
  rw [Core.writeElems, List.foldl_filter]
  simp only [decide_eq_true_eq, ite_not]

/-- `vqpack` on groups that lie apart. -/
theorem exec_vqpack {s : State} {c : Core} {d g vd vs2 : Nat} {sgn : Bool}
    (hwf : (Instr.vqpack d g sgn vd vs2).wf = true) (hruns : s.work.coreRuns d g = true) (hcore : s.work.core d g = c)
    (hlegal : c.vLegal [8, 16, 32, 64] [vd, vs2] = true) (hapart : vd + c.group ≤ vs2 ∨ vs2 + c.group ≤ vd) :
    exec (.vqpack d g sgn vd vs2) s = .next (s.on fun w =>
      let p := packNibbles sgn c.sew (c.packOperands vs2)
      (w.setCore d g (c.packed vd p.1)).countSat (.gc d g) p.2) := by
  subst hcore
  show execVqpack d g sgn vd vs2 s = _
  refine State.perform_coreRow_eq_on _ hwf hruns ?_
  rw [Work.vqpack]
  dsimp only
  rw [if_pos (by simpa [hlegal] using hapart), Core.foldl_from_vstart]
  rfl

/-- The core after it. -/
theorem State.core_on_countSat (s : State) (d g : Nat) (c : Core) (n : Nat) :
    (s.on fun w => (w.setCore d g c).countSat (.gc d g) n).work.core d g = c := by
  obtain ⟨r, e, h⟩ := (s.work.setCore d g c).countSat_gc d g n
  rw [State.on_of_no_store (by rw [h]; rfl) (by rw [h]; rfl), h]
  exact Work.core_setCore s.work d g c

/-- The core after a command that replaces it. -/
theorem State.core_on_setCore (s : State) (d g : Nat) (c : Core) : (s.on fun w => w.setCore d g c).work.core d g = c := by
  rw [State.on_of_no_store rfl rfl]
  exact Work.core_setCore s.work d g c

/-- Settles O40: each form writes elements of its destination one after another, apart from each other, and leaves every
other element as it was; the position that `vargmax` finds is the greatest in the order of values. Where the vector state
does not permit a form, and for agnostic tails and the elements before vstart, the model's choices are log entries 46
and 49. -/
theorem vectorForms : Obligations.VectorForms := by
  unfold Obligations.VectorForms
  constructor
  · intro s d g vd vs2 vm hd hg hvd hvs2 hruns c
    have hwf : (Instr.vh64V d g vd vs2 vm).wf = true := by simp [Instr.wf, *]
    refine ⟨fun hlegal hmask hvl => ?_, exec_vh64V_of_illegal hwf hruns rfl⟩
    have hregs : vd + c.group ≤ 32 := Core.group_le_of_vLegal hlegal (by simp) hvd
    obtain ⟨x, n, hexec⟩ := exec_vh64V hwf hruns rfl hlegal hmask
    obtain ⟨v, hv⟩ := c.hashed_only vm vd vs2 x
    have hcore : ({ s with cores := (s.work.setCore d g (c.hashed vm vd vs2 x)).cores, free := n } : State).work.core d g =
        c.hashed vm vd vs2 x := Work.core_setCore s.work d g _
    refine ⟨_, hexec, ⟨_, _, rfl⟩, fun e k hne _ hk => Work.core_setCore_other _ hg hk hne, ?_⟩
    rw [hcore]
    exact ⟨by rw [hv]; rfl, by rw [hv]; rfl, by rw [hv]; rfl, fun i => Core.vElem_hashed_body hregs hvl,
      fun i => Core.vElem_hashed_tail hregs hvl, fun q => Core.getV_hashed hregs hvl⟩
  · intro s d g vd vs2 rs1 vm hd hg hvd hvs2 hrs1 hruns c goes
    refine ⟨fun k => exec_vh64Vs (by simp [Instr.wf, *]) hruns rfl,
      fun nan wide flt a bs own => exec_vbkt (by simp [Instr.wf, *]) hruns rfl,
      ?_, fun tt rd htt hrd hlegal hmask => ?_, fun sgn hlegal hapart _ => ?_⟩
    · intro x hlegal hne hj hjk hk hkey hzero k
      have hwf : (Instr.vbitonic d g vd vs2 rs1).wf = true := by simp [Instr.wf, *]
      have hcontrol : bitonicControl x := ⟨hj, hjk, hk, hkey, hzero⟩
      exact ⟨exec_vbitonic_of_undisturbed hwf hruns rfl hlegal hne rfl hcontrol,
        exec_vbitonic_of_agnostic hwf hruns rfl hlegal hne rfl hcontrol⟩
    · have hrow : tt < 4 := Nat.lt_succ_of_lt htt
      have hwf : (Instr.vargmax d g tt rd vs2 vm).wf = true := by simp [Instr.wf, *]
      refine ⟨_, exec_vargmax hwf hruns htt rfl hlegal hmask, rfl, fun i hrd0 hfound hi => ?_⟩
      obtain ⟨hmem, _, hmax⟩ := argmaxOf_some htt hfound
      obtain ⟨hbody, hactive⟩ := List.mem_filter.mp hmem
      refine ⟨?_, hactive, (Core.mem_body.mp hbody).1, fun j hj hjactive hnan => ?_⟩
      · rw [State.core_on_setCore]
        show (c.setX rd ((c.argmax tt vs2 vm).getD absent64)).getX rd = i
        rw [Core.getX_setX hrd0, show c.argmax tt vs2 vm = some i from hfound]
        exact Nat.mod_eq_of_lt hi
      · exact hmax j (List.mem_filter.mpr ⟨hj, hjactive⟩) (validKey_of_no_nan hnan)
    · have hregs : vd + c.group ≤ 32 := Core.group_le_of_vLegal hlegal (by simp) hvd
      have hnibbles := packNibbles_lt sgn c.sew (c.packOperands vs2)
      obtain ⟨v, hv⟩ := c.packed_only vd (packNibbles sgn c.sew (c.packOperands vs2)).1
      refine ⟨_, exec_vqpack (by simp [Instr.wf, *]) hruns rfl hlegal hapart, ?_⟩
      rw [State.core_on_countSat]
      exact ⟨rfl, by rw [hv]; rfl, by rw [hv]; rfl, fun i => Core.vElem_packed hregs hnibbles,
        fun q => Core.getV_packed hregs⟩

end Sys2Proof.Machine

/-! Chains (chapter 09: R266 to R268). -/

namespace Sys2Proof.Machine

/-! ## Requests -/

section
variable {s : State} {w : Work} {d g : Nat} {r : Rec} {rec_ : List Byte}

/-- A core's request with a record that can be read: the failures are those of its address, its record and its core, and
without one the chain begins. -/
theorem Work.chainReq_core (q : StrmReq)
    (hread : w.read (resolveAddr (.core d g) (recF r 147 96)) 256 = some rec_) :
    w.chainReq (.core d g) q r =
      let fs := chk (decide (recF r 147 96 % 64 = 0)) sRange ++ w.chainFails (w.planOf (.core d g)) d g rec_ ++
        chk (w.chainAt d g).isNone sState
      if fs.isEmpty then w.chainBegin d g (w.planOf (.core d g)) rec_ (some (w.strmFlight (.core d g) q))
      else w.strmFail (.core d g) q fs := by
  unfold Work.chainReq
  dsimp only
  rw [hread]

section
variable (h : StreamRequest 0x68 (.core d g) r s w) (haddr : recF r 147 96 % 64 = 0)
  (hread : w.read (resolveAddr (.core d g) (recF r 147 96)) 256 = some rec_)
  (hfails : w.chainFails (w.planOf (.core d g)) d g rec_ = [])
include h haddr hread hfails

/-- A record that passes its checks begins the chain of a core without one. -/
theorem exec_chain_of_free (hfree : w.chainAt d g = none) :
    exec (.chain (.core d g) r) s = .next (s.on fun _ =>
      w.chainBegin d g (w.planOf (.core d g)) rec_ (some (w.strmFlight (.core d g) (StrmReq.ofRec r)))) := by
  rw [exec_of_streamRequest (c := .chain) (serve := Work.chainReq) (by simp [streamRows]) h, Work.chainReq_core _ hread]
  simp [chk, haddr, hfails, hfree]

/-- A core runs one chain at a time: a second is refused. -/
theorem exec_chain_of_busy (hbusy : w.chainAt d g ≠ none) :
    exec (.chain (.core d g) r) s = .next (s.on fun _ => w.strmFail (.core d g) (StrmReq.ofRec r) [sState]) := by
  rw [exec_of_streamRequest (c := .chain) (serve := Work.chainReq) (by simp [streamRows]) h, Work.chainReq_core _ hread]
  simp [chk, haddr, hfails, hbusy]

end

end

/-! ## Stages -/

/-- A chain whose stage has returned with a status, which counts among its failures if it is not OK. -/
def Chain.returned (x : Chain) (st : Nat) : Chain :=
  { x with called := false, fails := x.fails ++ if st = sOk then [] else [st] }

theorem Chain.returned_of_ok (x : Chain) : x.returned sOk = { x with called := false } := by
  simp [Chain.returned]

theorem Chain.returned_of_failed {x : Chain} {st : Nat} (h : st ≠ sOk) :
    x.returned st = { x with called := false, fails := x.fails ++ [st] } := by
  rw [Chain.returned, if_neg h]

/-- What a stage's return does to the chain of a core that the runtime has again: a failure other than CHECK_FAIL ends it, the
next COMPUTE stage of the chunk is called, or the chunk is handed over. -/
def Work.stageReturned (w : Work) (d g : Nat) (x : Chain) (st : Nat) : Work :=
  if st ≠ sOk ∧ st ≠ sCheck then w.chainEnd d g (x.returned st)
  else if x.stage + 2 < chainField x.rec_ 0 4 then
    (w.setChain d g (some { x.returned st with stage := x.stage + 1 })).chainCall d g
  else w.chainHandOver d g (x.returned st)

/-- A return of a stage that is called has that effect, where its core ended with the status returned. -/
theorem exec_chainStageReturn {s : State} {w : Work} {d g : Nat} {st : Status} {x : Chain} (hd : d < 4) (hg : g < 96)
    (hx : s.work.chainAt d g = some x) (hcalled : x.called = true)
    (hst : (s.work.core d g).ended.getD sOk = statusCode st)
    (hw : w = s.work.setCore d g { s.work.core d g with user := false, ended := none, wait := .none }) :
    exec (.chainStageReturn d g st) s = .next (s.on fun _ => w.stageReturned d g x (statusCode st)) := by
  subst hw
  show execChainStageReturn d g st s = _
  refine State.perform_eq_on _ (by simp [Instr.wf, hd, hg]) ?_
  simp only [hx, hcalled, hst, decide_true, Bool.and_self, if_true]
  rfl

/-- Without a chain on the core nothing returns. -/
theorem exec_chainStageReturn_of_none {s : State} {d g : Nat} (st : Status) (hd : d < 4) (hg : g < 96)
    (hnone : s.work.chainAt d g = none) : exec (.chainStageReturn d g st) s = .next s := by
  show execChainStageReturn d g st s = _
  exact State.perform_unchanged (by simp [Instr.wf, hd, hg]) (by simp only [hnone])

section
variable {w : Work} {d g st : Nat} {x : Chain} {fs : List Nat}
  (h : (st = sOk ∧ fs = x.fails) ∨ (st = sCheck ∧ fs = x.fails ++ [sCheck]))
include h

/-- OK and CHECK_FAIL let the chain go on. -/
theorem Chain.returned_of_goesOn : ¬ (st ≠ sOk ∧ st ≠ sCheck) ∧ x.returned st = { x with called := false, fails := fs } := by
  rcases h with ⟨rfl, rfl⟩ | ⟨rfl, rfl⟩
  · exact ⟨by simp, x.returned_of_ok⟩
  · exact ⟨by simp, Chain.returned_of_failed (by decide)⟩

/-- The next COMPUTE stage of the chunk is called. -/
theorem Work.stageReturned_of_more (hmore : x.stage + 2 < chainField x.rec_ 0 4) : w.stageReturned d g x st =
    (w.setChain d g (some { x with called := false, fails := fs, stage := x.stage + 1 })).chainCall d g := by
  obtain ⟨hgoes, hret⟩ := Chain.returned_of_goesOn h
  rw [Work.stageReturned, if_neg hgoes, if_pos hmore, hret]

/-- After the last one the chunk is handed over. -/
theorem Work.stageReturned_of_last (hlast : chainField x.rec_ 0 4 ≤ x.stage + 2) : w.stageReturned d g x st =
    w.chainHandOver d g { x with called := false, fails := fs } := by
  obtain ⟨hgoes, hret⟩ := Chain.returned_of_goesOn h
  rw [Work.stageReturned, if_neg hgoes, if_neg (Nat.not_lt.mpr hlast), hret]

end

/-- Any other failure ends the chain. -/
theorem Work.stageReturned_of_failed {w : Work} {d g st : Nat} {x : Chain} (hok : st ≠ sOk) (hcheck : st ≠ sCheck) :
    w.stageReturned d g x st = w.chainEnd d g { x with called := false, fails := x.fails ++ [st] } := by
  rw [Work.stageReturned, if_pos ⟨hok, hcheck⟩, Chain.returned_of_failed hok]

/-- Settles O18: a request whose checks pass (what they are, and the chain on a core: log entry 53) begins the chain of a core
without one, and a stage's return goes on by its status and by the stage. -/
theorem chainProgress : Obligations.ChainProgress := by
  unfold Obligations.ChainProgress
  refine ⟨fun s d g r w rec_ h haddr hread hfails => exec_chain_of_free h haddr hread hfails,
    fun s d g r w rec_ h haddr hread hfails => exec_chain_of_busy h haddr hread hfails, ?_,
    fun s d g st hd hg => exec_chainStageReturn_of_none st hd hg⟩
  intro s d g st x w hd hg hx hcalled hst hw
  rw [exec_chainStageReturn hd hg hx hcalled hst hw]
  refine ⟨fun fs hfs => ⟨fun hmore => ?_, fun hlast => ?_⟩, fun hok hcheck => ?_⟩
  · rw [Work.stageReturned_of_more hfs hmore]
  · rw [Work.stageReturned_of_last hfs hlast]
  · rw [Work.stageReturned_of_failed hok hcheck]

end Sys2Proof.Machine

/-! Trellis programs (chapter 09: R248, R249). -/

namespace Sys2Proof.Machine

/-! ## The row of an instruction -/

/-- The state with one stream context replaced. -/
def State.withCtx (s : State) (d c : Nat) (x : Ctx) : State := { s with ctxs := (s.work.setCtx d c x).ctxs }

/-- A command that replaces a context stores nothing: the context is all that differs. -/
theorem State.on_setCtx (s : State) (d c : Nat) (x : Ctx) : (s.on fun w => w.setCtx d c x) = s.withCtx d c x :=
  State.on_of_no_store rfl rfl

section
variable {op d c : Nat} {s : State} {x : Ctx} {t : TOp}

/-- A row acts on the running context whose next instruction has its OP. -/
theorem Work.trellisRow_of_runs (h : RunsOp op d c s x t) (f : Work → Ctx → TOp → Work) :
    s.work.trellisRow d c op f = f s.work x t := by
  obtain ⟨-, -, rfl, hrun, rfl, hop⟩ := h
  exact if_pos ⟨hrun, hop⟩

/-- The commands of a running context name what the module has. -/
theorem wf_nop_of_runs (h : RunsOp op d c s x t) : (Instr.nop d c).wf = true := by
  obtain ⟨hd, hc, -⟩ := h
  simp [Instr.wf, hd, hc]

/-- An instruction that changes its context alone leaves the block with what it makes of the context in its place. -/
theorem perform_of_trellisPure {i : Instr} (f : Ctx → TOp → Ctx) (h : RunsOp op d c s x t)
    (hwf : i.wf = (Instr.nop d c).wf) :
    s.perform i (fun w => w.trellisPure d c op f) = .next (s.withCtx d c (f x t)) := by
  rw [← State.on_setCtx]
  exact State.perform_eq_on _ (hwf.trans (wf_nop_of_runs h)) (Work.trellisRow_of_runs h _)

/-! ### Each instruction, by its row of R249 -/

theorem exec_nop (h : RunsOp 0x01 d c s x t) : exec (.nop d c) s = .next (s.withCtx d c x.next) :=
  show execNop d c s = _ from perform_of_trellisPure _ h rfl

theorem exec_loop (h : RunsOp 0x02 d c s x t) : exec (.loop d c) s = .next (s.withCtx d c (x.doLoop t)) :=
  show execLoop d c s = _ from perform_of_trellisPure _ h rfl

theorem exec_endl (h : RunsOp 0x03 d c s x t) : exec (.endl d c) s = .next (s.withCtx d c (x.doEndl t)) :=
  show execEndl d c s = _ from perform_of_trellisPure _ h rfl

theorem exec_seti (h : RunsOp 0x04 d c s x t) :
    exec (.seti d c) s = .next (s.withCtx d c (x.setA t.rd (fieldOf t.word 16 48)).next) :=
  show execSeti d c s = _ from perform_of_trellisPure _ h rfl

theorem exec_addi (h : RunsOp 0x05 d c s x t) :
    exec (.addi d c) s = .next (s.withCtx d c (x.setA t.rd (x.areg t.rs1 + sext 32 t.imm)).next) :=
  show execAddi d c s = _ from perform_of_trellisPure _ h rfl

theorem exec_add (h : RunsOp 0x06 d c s x t) :
    exec (.add d c) s = .next (s.withCtx d c (x.setA t.rd (x.areg t.rs1 + x.areg t.rs2)).next) :=
  show execAdd d c s = _ from perform_of_trellisPure _ h rfl

theorem exec_sub (h : RunsOp 0x07 d c s x t) :
    exec (.sub d c) s = .next (s.withCtx d c (x.setA t.rd (x.areg t.rs1 - x.areg t.rs2)).next) :=
  show execSub d c s = _ from perform_of_trellisPure _ h rfl

theorem exec_madl (h : RunsOp 0x08 d c s x t) :
    exec (.madl d c) s =
      .next (s.withCtx d c (x.setA t.rd (x.areg t.rs1 + getAt 0 x.l t.k * sext 32 t.imm)).next) :=
  show execMadl d c s = _ from perform_of_trellisPure _ h rfl

theorem exec_wrap (h : RunsOp 0x09 d c s x t) : exec (.wrap d c) s = .next (s.withCtx d c (x.doWrap t)) :=
  show execWrap d c s = _ from perform_of_trellisPure _ h rfl

end

/-! ## Loops and wrapping -/

/-- The count of a LOOP: of a register, or the immediate. -/
def Ctx.loopCount (x : Ctx) (t : TOp) : Int := if t.reg then x.areg t.rs1 else t.imm

section
variable {x : Ctx} {t : TOp}

/-- A LOOP with a positive count of 32 bits begins its body with the count as its limit. -/
theorem Ctx.doLoop_of_pos (hpos : 0 < x.loopCount t) (hlt : x.loopCount t < 2 ^ 32) : x.doLoop t =
    { x with pc := x.pc + 1, l := x.l.set t.k 0, n := x.n.set t.k (x.loopCount t).toNat } :=
  (if_neg (Int.not_le.mpr hlt)).trans (if_neg (Int.not_le.mpr hpos))

/-- One without a count goes on past its end. -/
theorem Ctx.doLoop_of_nonpos (h : x.loopCount t ≤ 0) : x.doLoop t =
    { x with pc := afterEndl ((program x.desc).drop (x.pc + 1)) 0 (x.pc + 1), l := x.l.set t.k 0, n := x.n.set t.k 0 } :=
  (if_neg (show ¬ (2 ^ 32 ≤ x.loopCount t) by omega)).trans (if_pos h)

/-- One with a count past 32 bits faults the stream. -/
theorem Ctx.doLoop_of_large (h : 2 ^ 32 ≤ x.loopCount t) : x.doLoop t =
    { x with st := .faulted, status := lowest [x.status, sRange] } := if_pos h

/-- ENDL below the limit goes back to the body of its LOOP. -/
theorem Ctx.doEndl_of_lt (h : (getAt 0 x.l t.k + 1) % 2 ^ 32 < getAt 0 x.n t.k) : x.doEndl t =
    { x with pc := loopOf ((program x.desc).take x.pc) t.k + 1, l := x.l.set t.k ((getAt 0 x.l t.k + 1) % 2 ^ 32) } :=
  if_pos h

/-- At the limit it goes on. -/
theorem Ctx.doEndl_of_le (h : getAt 0 x.n t.k ≤ (getAt 0 x.l t.k + 1) % 2 ^ 32) : x.doEndl t =
    { x with pc := x.pc + 1, l := x.l.set t.k ((getAt 0 x.l t.k + 1) % 2 ^ 32) } := if_neg (Nat.not_lt.mpr h)

/-- WRAP takes the bound from a register that has reached it. -/
theorem Ctx.doWrap_of_le (h : (t.imm : Int) ≤ x.areg t.rd) : x.doWrap t = (x.setA t.rd (x.areg t.rd - t.imm)).next := by
  simp only [Ctx.doWrap, if_pos h]

/-- It adds the bound to a negative one. -/
theorem Ctx.doWrap_of_neg (h : x.areg t.rd < 0) : x.doWrap t = (x.setA t.rd (x.areg t.rd + t.imm)).next := by
  have hbelow : ¬ (t.imm : Int) ≤ x.areg t.rd := by omega
  simp only [Ctx.doWrap, if_neg hbelow, if_pos h]

/-- It leaves one within the bound alone. -/
theorem Ctx.doWrap_of_within (h0 : 0 ≤ x.areg t.rd) (hlt : x.areg t.rd < t.imm) : x.doWrap t = x.next := by
  simp only [Ctx.doWrap, if_neg (Int.not_le.mpr hlt), if_neg (Int.not_lt.mpr h0)]

end

/-! ## Address registers as 48-bit words (R248) -/

/-- The two's complement value of the low bits of a number is that of the word. -/
theorem sext_eq_toInt {n : Nat} (hn : 0 < n) (y : Nat) : sext n y = (BitVec.ofNat n y).toInt := by
  have hpow := Nat.two_pow_pred_mul_two hn
  simp only [sext, BitVec.toInt_eq_toNat_cond, BitVec.toNat_ofNat]
  push_cast
  split <;> split <;> omega

/-- The low bits of an integer are the word of that integer. -/
theorem ofNat_wrapTo (n : Nat) (v : Int) : BitVec.ofNat n (wrapTo n v) = BitVec.ofInt n v := by
  have hpos : (0 : Int) < (2 ^ n : Nat) := Int.natCast_pos.mpr (Nat.two_pow_pos n)
  have hpow : (2 ^ n : Int) = (2 ^ n : Nat) := (Int.natCast_pow 2 n).symm
  apply BitVec.eq_of_toNat_eq
  rw [BitVec.toNat_ofNat, BitVec.toNat_ofInt, wrapTo, hpow]
  exact Nat.mod_eq_of_lt ((Int.toNat_lt (Int.emod_nonneg v (Int.ne_of_gt hpos))).mpr (Int.emod_lt_of_pos v hpos))

/-- Address register k as a word. -/
def Ctx.aword (x : Ctx) (k : Nat) : BitVec 48 := BitVec.ofNat 48 (getAt 0 x.a k)

theorem Ctx.areg_eq (x : Ctx) (k : Nat) : x.areg k = (x.aword k).toInt := sext_eq_toInt (by decide) _

theorem Ctx.ofInt_areg (x : Ctx) (k : Nat) : BitVec.ofInt 48 (x.areg k) = x.aword k := by
  rw [Ctx.areg_eq, BitVec.ofInt_toInt]

/-- A register that was set to an integer holds the word of that integer. -/
theorem Ctx.aword_setA {x : Ctx} {rd : Nat} (h : rd < x.a.length) (v : Int) :
    (x.setA rd v).aword rd = BitVec.ofInt 48 v := by
  simp [Ctx.aword, Ctx.setA, getAt, h, ofNat_wrapTo]

/-- The others keep theirs. -/
theorem Ctx.areg_setA_other (x : Ctx) {rd k : Nat} (v : Int) (h : k ≠ rd) : (x.setA rd v).areg k = x.areg k := by
  simp [Ctx.areg, Ctx.setA, getAt, List.getElem?_set_ne h.symm]

/-- MADL's product is that of the counter and the immediate's signed word. -/
theorem Ctx.ofInt_madl (x : Ctx) (j l i : Nat) : BitVec.ofInt 48 (x.areg j + l * sext 32 i) =
    x.aword j + BitVec.ofNat 48 l * (BitVec.ofNat 32 i).signExtend 48 := by
  rw [BitVec.ofInt_add, BitVec.ofInt_mul, Ctx.ofInt_areg, BitVec.ofInt_natCast, sext_eq_toInt (by decide)]
  rfl

/-- Settles O19: a row replaces its own context with what the instruction makes of it, and a register set to an integer holds
the 48-bit word of that integer. -/
theorem trellisInstructions : Obligations.TrellisInstructions := by
  unfold Obligations.TrellisInstructions
  constructor
  · intro s d c x t to_ put l count
    refine ⟨exec_nop, fun h => ?_, fun h => ?_, exec_seti, exec_addi, exec_add, exec_sub, exec_madl, fun h => ?_⟩
    · rw [exec_loop h]
      exact ⟨fun hpos hlt => by rw [Ctx.doLoop_of_pos hpos hlt]; rfl, fun hnone => by rw [Ctx.doLoop_of_nonpos hnone]; rfl,
        fun hlarge => by rw [Ctx.doLoop_of_large hlarge]; rfl⟩
    · rw [exec_endl h]
      exact ⟨fun hlt => by rw [Ctx.doEndl_of_lt hlt]; rfl, fun hle => by rw [Ctx.doEndl_of_le hle]; rfl⟩
    · rw [exec_wrap h]
      exact ⟨fun hle => by rw [Ctx.doWrap_of_le hle]; rfl, fun hneg => by rw [Ctx.doWrap_of_neg hneg]; rfl,
        fun h0 hlt => by rw [Ctx.doWrap_of_within h0 hlt]; rfl⟩
  · intro x rd hrd
    refine ⟨fun v => ⟨Ctx.aword_setA hrd v, ?_, fun k hk => x.areg_setA_other v hk⟩, fun j k => ⟨?_, ?_⟩, x.ofInt_madl⟩
    · rw [Ctx.areg_eq, Ctx.aword_setA hrd]
    · rw [BitVec.ofInt_add, x.ofInt_areg, x.ofInt_areg]
      rfl
    · rw [Int.sub_eq_add_neg, BitVec.ofInt_add, BitVec.ofInt_neg, ← BitVec.sub_eq_add_neg, x.ofInt_areg, x.ofInt_areg]
      rfl

end Sys2Proof.Machine

/-! Emits of a stream, its end, and its bandwidth (chapter 09: R250 to R252, R254, R256, R257, R259, R269, R270). -/

namespace Sys2Proof.Machine

/-! ## EMIT (R250 to R252, R270) -/

/-- The classes of an EMIT: its command, Q, and the emit that it makes. -/
def emitRows : List ((Nat → Nat → Instr) × Nat × (Work → Nat → Nat → Ctx → TOp → Work)) :=
  [(.trellisEmitTransfer, 0, Work.emitTransfer), (.trellisEmitCellar, 1, Work.emitCellar),
   (.trellisEmitMatch, 2, Work.emitMatch)]

theorem emitTransfer_mem : (Instr.trellisEmitTransfer, 0, Work.emitTransfer) ∈ emitRows := by simp [emitRows]
theorem emitCellar_mem : (Instr.trellisEmitCellar, 1, Work.emitCellar) ∈ emitRows := by simp [emitRows]
theorem emitMatch_mem : (Instr.trellisEmitMatch, 2, Work.emitMatch) ∈ emitRows := by simp [emitRows]

section
variable {s : State} {d c : Nat} {x : Ctx} {t : TOp}

/-- An EMIT of a running context is that of its class. -/
theorem exec_emitRow {i : Nat → Nat → Instr} {q : Nat} {emit : Work → Nat → Nat → Ctx → TOp → Work}
    (hrow : (i, q, emit) ∈ emitRows) (h : RunsOp 0x0A d c s x t) (hq : t.q = q) :
    exec (i d c) s = .next (s.on fun w => emit w d c x t) := by
  have hexec : exec (i d c) s = s.perform (i d c) (fun w => w.trellisRow d c 0x0A fun w x t =>
      if t.q = q then emit w d c x t else w) ∧ (i d c).wf = (Instr.nop d c).wf := by
    simp only [emitRows, List.mem_cons, List.not_mem_nil, or_false, Prod.mk.injEq] at hrow
    rcases hrow with h | h | h <;> obtain ⟨rfl, rfl, rfl⟩ := h <;> exact ⟨rfl, rfl⟩
  obtain ⟨hperform, hwf⟩ := hexec
  rw [hperform]
  exact State.perform_eq_on _ (hwf.trans (wf_nop_of_runs h)) ((Work.trellisRow_of_runs h _).trans (if_pos hq))

/-- One whose condition does not hold only goes on. -/
theorem exec_emitRow_of_not_holds {i : Nat → Nat → Instr} {q : Nat} {emit : Work → Nat → Nat → Ctx → TOp → Work}
    (hrow : (i, q, emit) ∈ emitRows) (h : RunsOp 0x0A d c s x t) (hq : t.q = q) (hholds : x.holds t = false) :
    exec (i d c) s = .next (s.withCtx d c x.next) := by
  rw [exec_emitRow hrow h hq, ← State.on_setCtx]
  refine congrArg _ (State.on_congr ?_)
  have hskips : (!x.holds t) = true := by simp [hholds]
  simp only [emitRows, List.mem_cons, List.not_mem_nil, or_false, Prod.mk.injEq] at hrow
  rcases hrow with h | h | h <;> obtain ⟨rfl, rfl, rfl⟩ := h <;> exact if_pos hskips

end

/-! ### Transfers -/

/-- What an EMIT does with a transfer of a number of bytes, whose addresses reach a number of elements through reduced indices,
by what translating the pages of its addresses finds. -/
def Work.emitFound (w : Work) (d c : Nat) (x : Ctx) (t : TOp) (as : List Nat) (bytes wraps : Nat) : PageFind → Work
  | .resident =>
    let pages := ((as.filter (· < cellarBase)).map (· / 0x200000)).eraseDups
    let touched := if (StrmHdr.ofBytes x.desc).fast then pages.map (fun n => (n, w.tickNo)) ++ x.touched else x.touched
    (w.setCtx d c { x.next with
      emits := x.emits ++ [.transfer t.src t.dst x.a bytes 0], touched := touched }).countWrap (.strm d) wraps
  | .waits => w
  | .unmapped a =>
    ((w.setCtx d c { x with st := .faulted, status := lowest [x.status, sUnmapped], faultAddr := a }).faultPlan x.plan
      sUnmapped).event (dieSource 3 d) sUnmapped (c + detailAddr a)
  | .tier1 a =>
    ((w.setCtx d c { x with st := .halted, halts := x.halts + 1, faultAddr := a }).bump F.strmStatRacks d 0).event
      (dieSource 2 d) sPageFault (c + detailAddr a)

/-- An EMIT whose condition holds, with room for it in the list of emits, translates the pages of its blocks. -/
theorem Work.emitTransfer_of_blocks {w : Work} {d c : Nat} {x : Ctx} {t : TOp} {ds dt : Desc} {ps pt : List Nat} {ws wt : Nat}
    (hholds : x.holds t = true) (hroom : x.emits.length < 16)
    (hblocks : w.transferBlocks x t.src t.dst x.a = some ((ds, ps, ws), (dt, pt, wt))) :
    w.emitTransfer d c x t =
      w.emitFound d c x t ((ps ++ pt).map (· / 8)) (ceilDiv (ps.length * ds.w) 8)
        ((if ds.wrap then 0 else ws) + if dt.wrap then 0 else wt)
        (w.findPages (StrmHdr.ofBytes x.desc).fast ((ps ++ pt).map (· / 8))) := by
  simp only [Work.emitTransfer, hholds, hblocks, Bool.not_true, Bool.false_eq_true, if_false, Nat.not_le.mpr hroom]
  generalize w.findPages _ _ = found
  cases found <;> rfl

section
variable {s : State} {d c : Nat} {x : Ctx} {t : TOp}

/-- So does the command of a running context. -/
theorem exec_trellisEmitTransfer {ds dt : Desc} {ps pt : List Nat} {ws wt : Nat} {found : PageFind} (h : RunsOp 0x0A d c s x t)
    (hq : t.q = 0) (hholds : x.holds t = true) (hroom : x.emits.length < 16)
    (hblocks : s.work.transferBlocks x t.src t.dst x.a = some ((ds, ps, ws), (dt, pt, wt)))
    (hfound : s.work.findPages (StrmHdr.ofBytes x.desc).fast ((ps ++ pt).map (· / 8)) = found) :
    exec (.trellisEmitTransfer d c) s = .next (s.on fun w =>
      w.emitFound d c x t ((ps ++ pt).map (· / 8)) (ceilDiv (ps.length * ds.w) 8)
        ((if ds.wrap then 0 else ws) + if dt.wrap then 0 else wt) found) := by
  rw [exec_emitRow emitTransfer_mem h hq]
  refine congrArg _ (State.on_congr ?_)
  rw [Work.emitTransfer_of_blocks hholds hroom hblocks, hfound]

/-! ### Commands -/

/-- An EMIT of a cellar command gives it to the cellar command unit, which has room for it. -/
theorem exec_trellisEmitCellar (h : RunsOp 0x0A d c s x t) (hq : t.q = 1) (hholds : x.holds t = true)
    (hroom : x.emits.length < 16) (hheld : s.work.celHeld d < 4096) :
    exec (.trellisEmitCellar d c) s = .next (s.on fun w =>
      (w.setCtx d c { x with pc := x.pc + 1, emits := x.emits ++ [.command false 0] }).celAccept (.stream d c)
        (templateRec x.desc t.src (getAt 0 x.a t.rs1) t.imm)) := by
  rw [exec_emitRow emitCellar_mem h hq]
  refine congrArg _ (State.on_congr ?_)
  have hready : ¬ (16 ≤ x.emits.length ∨ 4096 ≤ s.work.celHeld d) := by omega
  simp only [Work.emitCellar, hholds, Bool.not_true, Bool.false_eq_true, if_false, if_neg hready]
  rfl

/-- An EMIT of a match command likewise. -/
theorem exec_trellisEmitMatch (h : RunsOp 0x0A d c s x t) (hq : t.q = 2) (hholds : x.holds t = true)
    (hroom : x.emits.length < 16) (hheld : s.work.matHeld d < 4096) :
    exec (.trellisEmitMatch d c) s = .next (s.on fun w =>
      (w.setCtx d c { x with pc := x.pc + 1, emits := x.emits ++ [.command false 0] }).matAccept (.stream d c)
        (templateRec x.desc t.src (getAt 0 x.a t.rs1) t.imm)) := by
  rw [exec_emitRow emitMatch_mem h hq]
  refine congrArg _ (State.on_congr ?_)
  have hready : ¬ (16 ≤ x.emits.length ∨ 4096 ≤ s.work.matHeld d) := by omega
  simp only [Work.emitMatch, hholds, Bool.not_true, Bool.false_eq_true, if_false, if_neg hready]
  rfl

/-! ## END (R254) -/

/-- END drains the stream, which finishes when no emit is left. -/
theorem exec_trellisEnd (h : RunsOp 0x0B d c s x t) :
    exec (.trellisEnd d c) s = .next (s.on fun w => (w.setCtx d c { x with st := .drain }).streamFinish d c) := by
  show execTrellisEnd d c s = _
  exact State.perform_eq_on _ (show (Instr.nop d c).wf = true from wf_nop_of_runs h) (Work.trellisRow_of_runs h _)

/-- A stream with emits left does not finish. -/
theorem Work.streamFinish_of_emits {w : Work} {d c : Nat} (h : (w.ctx d c).emits ≠ []) : w.streamFinish d c = w :=
  if_neg fun hdone => h hdone.2

/-- So with emits left it only drains. -/
theorem exec_trellisEnd_of_emits (h : RunsOp 0x0B d c s x t) (hemits : x.emits ≠ []) :
    exec (.trellisEnd d c) s = .next (s.withCtx d c { x with st := .drain }) := by
  rw [exec_trellisEnd h, ← State.on_setCtx]
  refine congrArg _ (State.on_congr (Work.streamFinish_of_emits ?_))
  rwa [Work.ctx_setCtx]

end

/-! ## Emits taking effect (R251, R254, R259, R269) -/

section
variable {s : State} {d c i : Nat} {x : Ctx} (hd : d < 4) (hc : c < 256) (hx : x = s.work.ctx d c)
include hd hc hx

section
variable (hready : readyEmit x.emits 0 false = some i)
include hready

/-- While its blocks reach a page that is being moved, an emit does not take effect. -/
theorem exec_streamEmitDone_of_waits (hwaits : s.work.emitWaits x i = true) : exec (.streamEmitDone d c) s = .next s := by
  subst hx
  show execStreamEmitDone d c s = _
  exact State.perform_unchanged (by simp [Instr.wf, hd, hc]) (by simp only [hready, hwaits, if_true])

/-- Otherwise it leaves the list of emits and is counted; a command's status joins the stream's. -/
theorem exec_streamEmitDone_command {b : Bool} {st : Nat} (hgo : s.work.emitWaits x i = false)
    (hemit : x.emits[i]? = some (.command b st)) :
    exec (.streamEmitDone d c) s = .next (s.on fun w =>
      let y := w.setCtx d c { x with emits := x.emits.eraseIdx i, done := x.done + 1 }
      (y.setCtx d c { y.ctx d c with status := lowest [(y.ctx d c).status, st] }).streamFinish d c) := by
  subst hx
  show execStreamEmitDone d c s = _
  exact State.perform_eq_on _ (by simp [Instr.wf, hd, hc])
    (by simp only [hready, hgo, hemit, Bool.false_eq_true, if_false])

/-- A transfer moves its blocks, and the chains of the cores that it is phased for look again. -/
theorem exec_streamEmitDone_transfer {a b m n : Nat} {l : List Nat} (hgo : s.work.emitWaits x i = false)
    (hemit : x.emits[i]? = some (.transfer a b l m n)) :
    exec (.streamEmitDone d c) s = .next (s.on fun w =>
      let y := w.setCtx d c { x with emits := x.emits.eraseIdx i, done := x.done + 1 }
      ((y.emitCores x (.transfer a b l m n)).foldl (fun (v : Work) (p : Nat × Nat) => v.chainCall p.1 p.2)
        (y.moveBlock d c x a b l)).streamFinish d c) := by
  subst hx
  show execStreamEmitDone d c s = _
  exact State.perform_eq_on _ (by simp [Instr.wf, hd, hc])
    (by simp only [hready, hgo, hemit, Bool.false_eq_true, if_false])

end

/-- With no emit ready none takes effect. -/
theorem exec_streamEmitDone_of_none (hnone : readyEmit x.emits 0 false = none) : exec (.streamEmitDone d c) s = .next s := by
  subst hx
  show execStreamEmitDone d c s = _
  exact State.perform_unchanged (by simp [Instr.wf, hd, hc]) (by simp only [hnone])

end

/-! ## Grants (R256, R257) -/

section
variable {s : State} {d ns : Nat} {w : Work} (hd : d < 4) (hw : w = s.work.atNs ns)
include hd hw

/-- Without a stream to serve the grant only takes its time. -/
theorem exec_bandwidthGrant_of_none (hnone : w.grantTo d = none) :
    exec (.bandwidthGrant d ns) s = .next (s.on fun _ => w) := by
  subst hw
  show execBandwidthGrant d ns s = _
  exact State.perform_eq_on _ (by simp [Instr.wf, hd]) (by simp only [hnone])

/-- A rated stream gets up to 512 B of its first open transfer, and a grant past its deadline is counted. -/
theorem exec_bandwidthGrant_of_rated {c i a b m n left rate : Nat} {l : List Nat} {x : Ctx} (hto : w.grantTo d = some c)
    (hx : x = w.ctx d c) (hrate : rate = (StrmHdr.ofBytes x.desc).rate)
    (hopen : openEmit x.emits 0 = some (i, .transfer a b l m n, left)) (hne : rate ≠ 0) :
    exec (.bandwidthGrant d ns) s = .next (s.on fun _ =>
      let y := w.setCtx d c { x with delivered := x.delivered + min 512 left,
                                     emits := x.emits.set i (.transfer a b l m (n + min 512 left)) }
      if x.deadline rate < w.now * rate then y.bump F.strmStatLate d 0 else y) := by
  subst hw hx hrate
  show execBandwidthGrant d ns s = _
  refine State.perform_eq_on _ (by simp [Instr.wf, hd]) ?_
  simp only [hto, hopen, hne, ne_eq, not_false_eq_true, decide_true, Bool.true_and, decide_eq_true_eq, if_false]

end

/-- Settles O20: an EMIT does what its class and the pages of its blocks say, an emit takes effect by its form, and a grant
serves the stream that is due; which emit may take effect is log entry 56. -/
theorem emitsAndStreamProgress : Obligations.EmitsAndStreamProgress := by
  unfold Obligations.EmitsAndStreamProgress
  refine ⟨fun s d c x t h => ⟨fun i q hrow hq hholds => ?_, ?_, ?_, exec_trellisEmitCellar h, exec_trellisEmitMatch h⟩,
    fun s d c x t h => ⟨exec_trellisEnd_of_emits h, exec_trellisEnd h⟩,
    fun s d c i x hd hc hx hready hgo => ⟨fun b st => exec_streamEmitDone_command hd hc hx hready hgo,
      fun a b l m n => exec_streamEmitDone_transfer hd hc hx hready hgo⟩,
    fun s d c i x => exec_streamEmitDone_of_waits, fun s d c hd hc => exec_streamEmitDone_of_none hd hc rfl,
    fun s d ns w hd hw => ⟨exec_bandwidthGrant_of_none hd hw,
      fun c i a b l m n left x rate => exec_bandwidthGrant_of_rated hd hw⟩⟩
  · simp only [List.mem_cons, List.not_mem_nil, or_false, Prod.mk.injEq] at hrow
    rcases hrow with ⟨rfl, rfl⟩ | ⟨rfl, rfl⟩ | ⟨rfl, rfl⟩
    · exact exec_emitRow_of_not_holds emitTransfer_mem h hq hholds
    · exact exec_emitRow_of_not_holds emitCellar_mem h hq hholds
    · exact exec_emitRow_of_not_holds emitMatch_mem h hq hholds
  · intro ds ps ws dt pt wt hq hholds hroom hfast hblocks
    rw [← hfast]
    refine ⟨fun hfound => ?_, fun hfound => ?_, fun a hfound => ?_⟩
    · rw [exec_trellisEmitTransfer h hq hholds hroom hblocks hfound]
      simp only [Work.emitFound, hfast, Bool.false_eq_true, if_false]
      rfl
    · rw [exec_trellisEmitTransfer h hq hholds hroom hblocks hfound]
      exact congrArg _ (State.on_unchanged rfl)
    · rw [exec_trellisEmitTransfer h hq hholds hroom hblocks hfound]
      simp only [Work.emitFound]
  · intro ds ps ws dt pt wt a hq hholds hroom hfast hblocks hfound
    rw [← hfast] at hfound
    rw [exec_trellisEmitTransfer h hq hholds hroom hblocks hfound]
    simp only [Work.emitFound]

end Sys2Proof.Machine

/-! Racking (chapter 09: R269, R271). -/

namespace Sys2Proof.Machine

/-! ## The page table -/

section
variable {α : Type} {le : α → α → Bool} {p : α → Bool}

/-- What a search finds first in a list with one more element sorted in, where the element comes before its equals. -/
theorem find?_insertBy {x : α} (h : ∀ y, p x = true → p y = true → le x y = true) (l : List α) :
    (insertBy le x l).find? p = (x :: l).find? p := by
  induction l with
  | nil => rfl
  | cons y l ih =>
    unfold insertBy
    split
    · rfl
    · next hle =>
      rw [List.find?_cons, ih, List.find?_cons, List.find?_cons, List.find?_cons]
      cases hy : p y with
      | false => rfl
      | true =>
        cases hx : p x with
        | false => rfl
        | true => exact absurd (h y hx hy) hle

/-- Sorting keeps the order of equals, and so what a search among them finds first. -/
theorem find?_sortBy (h : ∀ x y, p x = true → p y = true → le x y = true) (l : List α) :
    (sortBy le l).find? p = l.find? p := by
  induction l with
  | nil => rfl
  | cons x l ih =>
    show (insertBy le x (sortBy le l)).find? p = _
    rw [find?_insertBy (h x), List.find?_cons, ih, List.find?_cons]

end

/-- The entry that a search of the page table after a write finds. -/
theorem Work.find?_setPage (w : Work) (n k : Nat) (p : Page) :
    (w.setPage n p).pages.find? (fun q => q.1 = k) =
      ((n, p) :: w.pages.filter (fun q => q.1 ≠ n)).find? (fun q => q.1 = k) := by
  refine find?_sortBy (fun x y hx hy => ?_) _
  simp only [decide_eq_true_eq] at hx hy ⊢
  omega

@[simp] theorem Work.page_setPage (w : Work) (n : Nat) (p : Page) : (w.setPage n p).page n = p := by
  simp [Work.page, Work.find?_setPage]

/-- A write of one entry leaves every other as it was. -/
theorem Work.page_setPage_other {w : Work} {n k : Nat} {p : Page} (h : k ≠ n) : (w.setPage n p).page k = w.page k := by
  have hother : (fun q : Nat × Page => decide (decide (q.1 ≠ n) = true ∧ decide (q.1 = k) = true)) =
      fun q => decide (q.1 = k) := by
    funext q
    by_cases hq : q.1 = k <;> simp [hq, h]
  rw [Work.page, Work.find?_setPage, List.find?_cons_of_neg (by simpa using h.symm), List.find?_filter, hother]
  rfl

/-! ## Copies of memory -/

/-- What a sparse map holds for a key is listed, or is the default of a key that is not listed. -/
theorem smGet_mem_or {α : Type} (d : α) (m : List (Nat × α)) (a : Nat) :
    (a, smGet d m a) ∈ m ∨ smGet d m a = d ∧ ∀ e ∈ m, e.1 ≠ a := by
  induction m with
  | nil => exact .inr ⟨rfl, fun _ he => nomatch he⟩
  | cons e m ih =>
    obtain ⟨k, v⟩ := e
    by_cases hk : k = a
    · subst hk
      exact .inl (by simp [smGet])
    · rw [smGet, if_neg hk]
      refine ih.imp (List.mem_cons_of_mem _) fun ⟨hd, hm⟩ => ⟨hd, fun e he => ?_⟩
      rcases List.mem_cons.mp he with rfl | he
      · exact hk
      · exact hm e he

/-- The keys of a canonical map rise. -/
theorem pairwise_of_smWf {α : Type} [DecidableEq α] {d : α} {m : List (Nat × α)} (h : smWf d m = true) :
    m.Pairwise (fun e f => e.1 < f.1) := by
  induction m with
  | nil => exact .nil
  | cons e m ih =>
    obtain ⟨-, hm, hk⟩ := smWf_head (k := e.1) (v := e.2) h
    exact .cons (fun f hf => hk f.1 f.2 hf) (ih hm)

/-- Bytes stored at different addresses are all read back. -/
theorem Memory.get_sets_of_mem {m l : List Host.Cell} {a : Nat} {b : Byte} (hl : l.Pairwise (fun e f => e.1 < f.1))
    (h : (a, b) ∈ l) : Memory.get (l.foldl (fun n c => Memory.set n c.1 c.2) m) a = b := by
  induction l generalizing m with
  | nil => cases h
  | cons c l ih =>
    obtain ⟨hc, hl⟩ := List.pairwise_cons.mp hl
    rw [List.foldl_cons]
    rcases List.mem_cons.mp h with rfl | h
    · rw [Memory.get_sets_other l fun e he => Nat.ne_of_gt (hc e he), Memory.get_set_same]
    · exact ih hl h

/-- A range copied reads at its destination as it did at its source. -/
theorem Memory.get_copy {m : List Host.Cell} {src dst len o : Nat} (h : Memory.wf m = true) (ho : o < len) :
    Memory.get (Memory.copy m src dst len) (dst + o) = Memory.get m (src + o) := by
  unfold Memory.copy
  rcases smGet_mem_or Memory.unlisted m (src + o) with hmem | ⟨hget, hnone⟩
  · refine Memory.get_sets_of_mem ?_ ?_
    · refine List.pairwise_map.mpr (((pairwise_of_smWf h).filter _).imp_of_mem fun he hf hlt => ?_)
      simp only [List.mem_filter, inRange, Bool.and_eq_true, decide_eq_true_eq] at he hf
      omega
    · refine List.mem_map.mpr ⟨(src + o, _), List.mem_filter.mpr ⟨hmem, by simp [inRange, ho]⟩, ?_⟩
      rw [Nat.add_sub_cancel_left, Nat.add_comm]
      rfl
  · rw [Memory.get_sets_other, Memory.get_clear, if_pos (by simp [inRange, ho])]
    · exact hget.symm
    · intro c hc
      obtain ⟨e, he, rfl⟩ := List.mem_map.mp hc
      obtain ⟨hin, hrange⟩ := List.mem_filter.mp he
      have hne := hnone e hin
      simp only [inRange, Bool.and_eq_true, decide_eq_true_eq] at hrange
      show e.1 - src + dst ≠ dst + o
      omega

/-! ## Commands that waited -/

theorem Work.celResume_of_none {w : Work} (h : w.cellarWait = []) : w.celResume = w := by
  rw [Work.celResume, h, List.foldl_nil, ← h]

theorem Work.matResume_of_none {w : Work} (h : w.matchWait = []) : w.matResume = w := by
  rw [Work.matResume, h, List.foldl_nil, ← h]

/-! ## Racking (R271) -/

/-- A page of the LPDDR5X tier that a halted emit of the die reaches begins to move into a frame that is free: which one is
firmware's choice, a free value (log entry 55). -/
theorem exec_rackPage {s : State} {d pg f k c : Nat} {fs : List Nat} {w : Work} (hd : d < 4) (hpg : pg < 1048576)
    (hc : c < 256) (hhalted : (s.work.haltedPages (s.work.ctx d c)).contains pg = true)
    (hvalid : (s.work.page pg).valid = true) (hlpx : (s.work.page pg).lpx = true)
    (hracking : (s.work.page pg).racking = false) (hfree : s.work.freeFrames false = f :: fs)
    (hk : (k, w) = s.work.fresh 32) :
    exec (.rackPage d pg) s = .next (s.on fun _ => w.rackInto pg (getAt f (f :: fs) (k % (fs.length + 1)))) := by
  have hwanted : (List.range 256).any (fun c => (s.work.haltedPages (s.work.ctx d c)).contains pg) = true :=
    List.any_eq_true.mpr ⟨c, List.mem_range.mpr hc, hhalted⟩
  show execRackPage d pg s = _
  refine State.perform_eq_on _ (by simp [Instr.wf, hd, hpg]) ?_
  simp only [hwanted, hvalid, hlpx, hracking, hfree, ← hk, Bool.and_self, Bool.not_true, Bool.not_false, Bool.false_eq_true,
    if_false]

/-- An entry of a list that is not empty, counted round, is one of it. -/
theorem getAt_mod_mem (f k : Nat) (fs : List Nat) : getAt f (f :: fs) (k % (fs.length + 1)) ∈ f :: fs := by
  have hlt : k % (fs.length + 1) < (f :: fs).length := Nat.mod_lt k (Nat.succ_pos _)
  rw [getAt, List.getD_eq_getElem?_getD, List.getElem?_eq_getElem hlt, Option.getD_some]
  exact List.getElem_mem hlt

/-- The block with a page in its new frame, once the copy is done. -/
def Work.racked (w : Work) (pg f : Nat) : Work :=
  { (w.copyFrame (w.page pg).lpx (w.page pg).frame false f).setPage pg
      { w.page pg with lpx := false, racking := false, frame := f } with racks := w.racks.filter (fun q => q.1 ≠ pg) }

section
variable {s : State} {d pg f : Nat} (hd : d < 4) (hpg : pg < 1048576)
include hd hpg

/-- The end of the copy writes the entry, and what waited for the page goes on. -/
theorem exec_rackCopyDone (hfind : s.racks.find? (fun r => r.1 = pg) = some (pg, f)) :
    exec (.rackCopyDone d pg) s = .next (s.on fun w => (w.racked pg f).celResume.matResume) := by
  show execRackCopyDone d pg s = _
  refine State.perform_eq_on _ (by simp [Instr.wf, hd, hpg]) ?_
  simp only [State.work_toBlock, hfind]
  rfl

/-- Where no command waits, it does nothing else. -/
theorem exec_rackCopyDone_of_no_wait (hfind : s.racks.find? (fun r => r.1 = pg) = some (pg, f)) (hcel : s.cellarWait = [])
    (hmat : s.matchWait = []) : exec (.rackCopyDone d pg) s = .next (s.on fun w => w.racked pg f) := by
  have hcel' : (s.work.racked pg f).cellarWait = [] := hcel
  have hmat' : (s.work.racked pg f).matchWait = [] := hmat
  rw [exec_rackCopyDone hd hpg hfind]
  exact congrArg _ (State.on_congr (by rw [Work.celResume_of_none hcel', Work.matResume_of_none hmat']))

/-- A page that is not being racked has no copy to end. -/
theorem exec_rackCopyDone_of_none (hfind : s.racks.find? (fun r => r.1 = pg) = none) :
    exec (.rackCopyDone d pg) s = .next s := by
  show execRackCopyDone d pg s = _
  exact State.perform_unchanged (by simp [Instr.wf, hd, hpg]) (by simp only [State.work_toBlock, hfind])

end

/-- The page table after a command is the one that its effect leaves. -/
theorem State.page_on (f : Work → Work) (s : State) (n : Nat) : (s.on f).work.page n = (f s.work).page n := by
  rw [Work.page, State.work_toBlock, State.on_pages]
  rfl

/-- The memory after it has the page's bytes in its new frame. -/
theorem State.mem_on_racked (s : State) (pg f : Nat) : (s.on fun w => w.racked pg f).mem =
    Memory.copy s.mem (frameKey (s.work.page pg).lpx (s.work.page pg).frame) (frameKey false f) 0x200000 := by
  rw [State.on_mem, Work.flushAdds_nil rfl]
  rfl

/-- Settles O21: racking notes the page and its frame, and the end of the copy copies the frame, writes the entry of this page
alone, and lets the commands go on that waited. -/
theorem rackingMovesAPage : Obligations.RackingMovesAPage := by
  unfold Obligations.RackingMovesAPage
  refine ⟨?_, fun s d pg f hd hpg => exec_rackCopyDone hd hpg, ?_, fun s d pg hd hpg => exec_rackCopyDone_of_none hd hpg⟩
  · rintro s d pg f fs k w hd hpg ⟨c, hc, hhalted⟩ hvalid hlpx hracking hfree hk
    have hpage : w.page pg = s.work.page pg := by
      obtain ⟨-, rfl⟩ := Prod.mk.inj hk
      rfl
    refine ⟨_, getAt_mod_mem f k fs, ?_⟩
    rw [exec_rackPage hd hpg hc hhalted hvalid hlpx hracking hfree hk, Work.rackInto, hpage]
  · intro s d pg f hd hpg hfind hcel hmat
    refine ⟨_, exec_rackCopyDone_of_no_wait hd hpg hfind hcel hmat, ?_, State.on_racks .., fun n hn => ?_, fun hm o ho => ?_⟩
    · rw [State.page_on]
      exact Work.page_setPage ..
    · rw [State.page_on]
      exact Work.page_setPage_other hn
    · rw [State.mem_on_racked, Memory.get_copy hm ho]

end Sys2Proof.Machine

/-! Calls of a task to the runtime's operators, selections and ingest operations (chapters 11, 12 and 15: R300 to R307, R354
to R366, R430 to R443): what a call returns in the core that made it. -/

namespace Sys2Proof.Machine

/-! ## A core after a command -/

/-- Cores read from a list in which each may have lost its reservation differ in nothing else. -/
theorem smGet_map_resv {f : Nat × Core → Nat × Core} (hf : ∀ e, ∃ r, f e = (e.1, { e.2 with resv := r }))
    (m : List (Nat × Core)) (a : Nat) :
    ∃ r, smGet Core.atReset (m.map f) a = { smGet Core.atReset m a with resv := r } := by
  induction m with
  | nil => exact ⟨none, rfl⟩
  | cons e m ih =>
    obtain ⟨r, hr⟩ := hf e
    rw [List.map_cons, hr, smGet, smGet]
    split
    · exact ⟨r, rfl⟩
    · exact ih

/-- A core keeps everything but its reservation when reservations are dropped (R217). -/
theorem Work.core_dropReservations (w : Work) (d g : Nat) :
    ∃ r, w.dropReservations.core d g = { w.core d g with resv := r } := by
  refine smGet_map_resv (fun e => ?_) w.cores (d * 96 + g)
  split
  · split
    · exact ⟨none, rfl⟩
    · exact ⟨e.2.resv, rfl⟩
  · exact ⟨e.2.resv, rfl⟩

/-- The core after a command is the one that its effect leaves, but for the reservation. -/
theorem State.core_on (f : Work → Work) (s : State) (d g : Nat) :
    ∃ r, (s.on f).work.core d g = { (f s.work).core d g with resv := r } := by
  obtain ⟨j, h, a, c, hflush⟩ := (f s.work).flushAdds_only
  obtain ⟨r, hcore⟩ := (f s.work).flushAdds.cureWords.core_dropReservations d g
  exact ⟨r, hcore.trans (by rw [hflush]; rfl)⟩

/-- Its registers are those that the effect leaves. -/
theorem State.getX_core_on (f : Work → Work) (s : State) (d g r : Nat) :
    ((s.on f).work.core d g).getX r = ((f s.work).core d g).getX r := by
  obtain ⟨l, h⟩ := State.core_on f s d g
  rw [h]
  rfl

/-- Its program counter is the one that the effect leaves. -/
theorem State.pc_core_on (f : Work → Work) (s : State) (d g : Nat) :
    ((s.on f).work.core d g).pc = ((f s.work).core d g).pc := by
  obtain ⟨l, h⟩ := State.core_on f s d g
  rw [h]

/-! ## Returns of the shared operations (R300, R304, R307) -/

section
variable (w : Work) (d g : Nat)

/-- A call that fails its checks returns the lowest failure. -/
theorem Work.opFail_status (fs : List Nat) : ((w.opFail d g fs).core d g).getX 10 = lowest fs % 2 ^ 64 :=
  Work.callReturn_status ..

theorem Work.opFail_pc (fs : List Nat) : ((w.opFail d g fs).core d g).pc = ((w.core d g).pc + 4) % 2 ^ 64 :=
  Work.callReturn_pc ..

/-- An ingest call that fails its checks returns it as well. -/
theorem Work.ingFail_status (fs : List Nat) : ((w.ingFail d g fs).core d g).getX 10 = lowest fs % 2 ^ 64 :=
  Work.opFail_status ..

end

/-- The failures that the rows of a call met, a store into a descriptor-table page among them (R100). -/
def OAcc.met (x : OAcc) : List Nat := if x.w.dtHit then setInsert x.fails sRange else x.fails

section
variable (x : OAcc) (d g : Nat) (o : OpRec) (rows : Nat)

/-- A call that worked on its rows returns the lowest failure that they met. -/
theorem OAcc.finish_status : ((x.finish d g o rows).core d g).getX 10 = lowest x.met % 2 ^ 64 := by
  have hfails : (if x.w.dtHit then x.fail sRange else x).fails = x.met := apply_ite OAcc.fails ..
  exact (Work.callReturn_status ..).trans (by rw [hfails])

/-- With it goes the number of rows that it hands on. -/
theorem OAcc.finish_second : ((x.finish d g o rows).core d g).getX 11 = rows % 2 ^ 64 := Work.callReturn_second ..

end

/-! ## Effecting calls (R550) -/

/-- Nothing but the spares' state, the journal of tasks in it, differs. -/
def Work.OnlyJournal (w v : Work) : Prop := ∃ x, v = { w with spr := x }

theorem Work.OnlyJournal.refl (w : Work) : w.OnlyJournal w := ⟨w.spr, rfl⟩

theorem Work.onlyJournal_effecting (w : Work) (d g : Nat) : w.OnlyJournal (w.effecting d g).2 := by
  unfold Work.effecting
  split
  · exact .refl w
  · exact ⟨_, rfl⟩

theorem Work.OnlyJournal.core_eq {w v : Work} (h : w.OnlyJournal v) (d g : Nat) : v.core d g = w.core d g := by
  obtain ⟨_, rfl⟩ := h
  rfl

theorem Work.OnlyJournal.jnl_eq {w v : Work} (h : w.OnlyJournal v) : v.jnl = w.jnl := by
  obtain ⟨_, rfl⟩ := h
  rfl

theorem Work.OnlyJournal.adds_eq {w v : Work} (h : w.OnlyJournal v) : v.adds = w.adds := by
  obtain ⟨_, rfl⟩ := h
  rfl

/-- What WINDOW does before its checks: with UPDATE it is an effecting call (R341). -/
def Work.windowEffect (w : Work) (d g : Nat) (o : OpRec) : Bool × Work :=
  if bitOf o.mode 1 then w.effecting d g else (true, w)

theorem Work.windowOp_eq (w : Work) (d g row0 count : Nat) (o : OpRec) : w.windowOp d g row0 count o =
    (w.windowEffect d g o).2.opRun d g o
      ((w.windowEffect d g o).2.windowPlan d g row0 count o (w.windowEffect d g o).1) := rfl

theorem Work.onlyJournal_windowEffect (w : Work) (d g : Nat) (o : OpRec) : w.OnlyJournal (w.windowEffect d g o).2 := by
  unfold Work.windowEffect
  split
  · exact w.onlyJournal_effecting d g
  · exact .refl w

/-! ## A checked call -/

/-- A call on core g of die d that is to perform a plan after changing nothing but the journal answers as the plan says: with
the failures of its checks, writing nothing, or with what its rows met. -/
theorem exec_opRun {s : State} {i : Instr} {v : Work} {d g : Nat} {o : OpRec} {p : OpPlan} (hv : s.work.OnlyJournal v)
    (hexec : exec i s = .next (s.on fun _ => v.opRun d g o p)) :
    (∀ fs, p = .fails fs → ∃ t, exec i s = .next t ∧ t = s.on (fun _ => v.opFail d g fs) ∧ t.mem = s.mem ∧
      (t.work.core d g).getX 10 = lowest fs % 2 ^ 64 ∧ (t.work.core d g).pc = ((s.work.core d g).pc + 4) % 2 ^ 64) ∧
    (∀ run, p = .go run → ∃ t, exec i s = .next t ∧ t = s.on (fun _ => (run v).1.finish d g o (run v).2) ∧
      (t.work.core d g).getX 10 = lowest (run v).1.met % 2 ^ 64 ∧ (t.work.core d g).getX 11 = (run v).2 % 2 ^ 64) := by
  constructor
  · rintro fs rfl
    refine ⟨_, hexec, rfl, ?_, ?_, ?_⟩
    · rw [State.on_of_no_store hv.jnl_eq hv.adds_eq]
    · rw [State.getX_core_on]
      exact Work.opFail_status ..
    · rw [State.pc_core_on, ← hv.core_eq]
      exact Work.opFail_pc ..
  · rintro run rfl
    refine ⟨_, hexec, rfl, ?_, ?_⟩
    · rw [State.getX_core_on]
      exact OAcc.finish_status ..
    · rw [State.getX_core_on]
      exact OAcc.finish_second ..

/-- An ingest call answers likewise, with the rows that it took and a third result (R430). -/
theorem exec_ingRun {s : State} {i : Instr} {d g : Nat} {o : IngRec} {p : IngPlan}
    (hexec : exec i s = .next (s.on fun _ => s.work.ingRun d g o p)) :
    (∀ fs, p = .fails fs → ∃ t, exec i s = .next t ∧ t.mem = s.mem ∧ (t.work.core d g).getX 10 = lowest fs % 2 ^ 64) ∧
    (∀ run, p = .go run → ∃ t, exec i s = .next t ∧ (t.work.core d g).getX 10 = lowest (run s.work).1.met % 2 ^ 64 ∧
      (t.work.core d g).getX 11 = (run s.work).1.rowsIn % 2 ^ 64 ∧
      (t.work.core d g).getX 12 = (run s.work).2.2 % 2 ^ 64) := by
  constructor
  · rintro fs rfl
    refine ⟨_, hexec, ?_, ?_⟩
    · rw [State.on_of_no_store rfl rfl]
    · rw [State.getX_core_on]
      exact Work.ingFail_status ..
  · rintro run rfl
    refine ⟨_, hexec, ?_, ?_, ?_⟩ <;> rw [State.getX_core_on, Work.ingRun, Work.core_setCore]
    · rw [Core.getX_setX_other (by decide), Core.getX_setX_other (by decide), OAcc.finish_status]
    · rw [Core.getX_setX_other (by decide), Core.getX_setX (by decide)]
    · rw [Core.getX_setX (by decide)]

/-! ## The rows of the families -/

/-- The operators without effects of their own: the command, its OP, and the checks of a call. -/
def operatorRows : List ((Nat → Nat → Nat → Nat → Nat → Instr) × Nat × (Work → Nat → Nat → Nat → Nat → OpRec → OpPlan)) :=
  [(.filter, 0xA1, Work.filterPlan), (.joinProbe, 0xA3, Work.probePlan), (.gather, 0xA4, Work.gatherPlan),
   (.bucketize, 0xA5, Work.bucketizePlan), (.normalise, 0xA6, Work.normalisePlan),
   (.hashFeature, 0xA7, Work.hashFeaturePlan)]

/-- The joins that build: the command and its MODE. -/
def buildRows : List ((Nat → Nat → Nat → Nat → Nat → Instr) × Nat) :=
  [(.joinBuildInsert, 0), (.joinBuildFinish, 1), (.joinBuildClear, 2)]

section
variable {s : State} {c : Nat → Nat → Nat → Nat → Nat → Instr} (d g a row0 count : Nat)

theorem exec_operatorRow {op : Nat} {plan : Work → Nat → Nat → Nat → Nat → OpRec → OpPlan}
    (hc : (c, op, plan) ∈ operatorRows) :
    exec (c d g a row0 count) s = s.perform (c d g a row0 count) (fun w => w.opRow d g a op none
      (fun w o => w.opRun d g o (plan w d g row0 count o))) ∧
    (c d g a row0 count).wf = (decide (d < 4) && decide (g < 96) && decide (a < 0x10000000000000000)) := by
  simp only [operatorRows, List.mem_cons, List.not_mem_nil, or_false, Prod.mk.injEq] at hc
  rcases hc with hc | hc | hc | hc | hc | hc <;> obtain ⟨rfl, rfl, rfl⟩ := hc <;> exact ⟨rfl, rfl⟩

theorem exec_buildRow {mode : Nat} (hc : (c, mode) ∈ buildRows) :
    exec (c d g a row0 count) s = s.perform (c d g a row0 count) (fun w => w.opRow d g a 0xA2 (some mode)
      (fun w o => w.joinBuild d g row0 count o)) ∧
    (c d g a row0 count).wf = (decide (d < 4) && decide (g < 96) && decide (a < 0x10000000000000000)) := by
  simp only [buildRows, List.mem_cons, List.not_mem_nil, or_false, Prod.mk.injEq] at hc
  rcases hc with hc | hc | hc <;> obtain ⟨rfl, rfl⟩ := hc <;> exact ⟨rfl, rfl⟩

end

/-! ## A call and its record -/

/-- Core g of die d executes, and a call of it reads its record at address a (R300, R354, R430). -/
structure RuntimeCall (s : State) (d g a : Nat) (bs : List Byte) : Prop where
  die_lt : d < 4
  core_lt : g < 96
  addr_lt : a < 2 ^ 64
  runs : s.work.coreRuns d g = true
  reads : s.work.callRecord d g a 64 64 = some bs

namespace RuntimeCall

variable {s : State} {d g a : Nat} {bs : List Byte} (h : RuntimeCall s d g a bs)
include h

/-- What the commands of the three families ask of their operands. -/
theorem wf : (decide (d < 4) && decide (g < 96) && decide (a < 0x10000000000000000)) = true := by
  simpa using ⟨⟨h.die_lt, h.core_lt⟩, h.addr_lt⟩

/-- An operator's row serves a record of its OP and MODE (R300). -/
theorem exec_opRow {i : Instr} {op : Nat} {mode : Option Nat} {f : Work → OpRec → Work} {o : OpRec} (hwf : i.wf = true)
    (hexec : exec i s = s.perform i (fun w => w.opRow d g a op mode f)) (ho : OpRec.ofRec (BitVec.ofNat 512 (ofBytes bs)) = o)
    (hop : o.op = op) (hmode : mode = none ∨ mode = some o.mode) : exec i s = .next (s.on fun _ => f s.work o) := by
  subst ho
  rw [hexec]
  refine State.perform_coreRow_eq_on _ hwf h.runs ?_
  rw [Work.opCall, h.reads]
  exact if_pos ⟨hop, hmode⟩

/-- A selection's row serves a record of its OP, with the checks of that OP (R354). -/
theorem exec_selRow {i : Instr} {op row0 count : Nat} {o : SelRec} {p : OpPlan} (hwf : i.wf = true)
    (hexec : exec i s = s.perform i (fun w => w.coreRow d g (fun w => w.selCall d g a row0 count (some op))))
    (ho : SelRec.ofRec (BitVec.ofNat 512 (ofBytes bs)) = o) (hop : o.op = op)
    (hp : (op = 0xC1 ∨ op = 0xC2) ∧ p = s.work.selectPlan d g row0 count o ∨ op = 0xC3 ∧ p = s.work.mergePlan d g count o) :
    exec i s = .next (s.on fun _ => s.work.opRun d g o.op_ p) := by
  subst ho
  rw [hexec]
  refine State.perform_coreRow_eq_on _ hwf h.runs ?_
  rw [Work.selCall, h.reads]
  dsimp only
  rw [if_neg (by simp [hop]), hop]
  rcases hp with ⟨rfl | rfl, rfl⟩ | ⟨rfl, rfl⟩ <;> rfl

/-- WINDOW serves a record of its OP (R340). -/
theorem exec_window {row0 count : Nat} {o : OpRec} (ho : OpRec.ofRec (BitVec.ofNat 512 (ofBytes bs)) = o)
    (hop : o.op = 0xA8) :
    exec (.window d g a row0 count) s = .next (s.on fun _ => (s.work.windowEffect d g o).2.opRun d g o
      ((s.work.windowEffect d g o).2.windowPlan d g row0 count o (s.work.windowEffect d g o).1)) := by
  have hexec : exec (.window d g a row0 count) s = s.perform (.window d g a row0 count)
    (fun w => w.opRow d g a 0xA8 none (fun w o => w.windowOp d g row0 count o)) := rfl
  rw [h.exec_opRow (i := .window d g a row0 count) h.wf hexec ho hop (.inl rfl), Work.windowOp_eq]

/-- An ingest operation's row serves a record of its OP (R430). -/
theorem exec_ingRow {i : Instr} {op : Nat} {f : Work → IngRec → Work} {o : IngRec} (hwf : i.wf = true)
    (hexec : exec i s = s.perform i (fun w => w.ingRow d g a op f)) (ho : IngRec.ofRec (BitVec.ofNat 512 (ofBytes bs)) = o)
    (hop : o.op = op) : exec i s = .next (s.on fun _ => f s.work o) := by
  subst ho
  rw [hexec]
  refine State.perform_coreRow_eq_on _ hwf h.runs ?_
  rw [h.reads]
  exact if_pos hop

end RuntimeCall

/-- Settles O45: a row serves the record of its OP and MODE by performing the plan of the checked call; the plan's failures
return without a store, and its rows with what they met. Effecting calls note themselves in the journal before that (R550).
That a call is one command is the model's choice (log entry 61). -/
theorem operatorCalls : Obligations.OperatorCalls := by
  unfold Obligations.OperatorCalls
  constructor
  · intro s d g a row0 count bs hd hg ha hruns hread o answers
    have h : RuntimeCall s d g a bs := ⟨hd, hg, ha, hruns, hread⟩
    refine ⟨fun c op plan hc hop => ?_, fun c mode hc hop hmode => ?_, fun hop => ?_⟩
    · obtain ⟨hexec, hwf⟩ := exec_operatorRow (s := s) d g a row0 count hc
      exact exec_opRun (.refl s.work) (h.exec_opRow (hwf.trans h.wf) hexec rfl hop (.inl rfl))
    · obtain ⟨hexec, hwf⟩ := exec_buildRow (s := s) d g a row0 count hc
      exact exec_opRun (s.work.onlyJournal_effecting d g)
        (h.exec_opRow (hwf.trans h.wf) hexec rfl hop (.inr (congrArg some hmode.symm)))
    · exact exec_opRun (s.work.onlyJournal_windowEffect d g o) (h.exec_window rfl hop)
  · intro s d g a row0 count bs hd hg ha hruns hread o q w
    have h : RuntimeCall s d g a bs := ⟨hd, hg, ha, hruns, hread⟩
    constructor
    · intro i op p hi hop
      have hexec : exec i s = .next (s.on fun _ => w.opRun d g o.op_ p) := by
        simp only [List.mem_cons, List.not_mem_nil, or_false, Prod.mk.injEq] at hi
        rcases hi with hi | hi | hi <;> obtain ⟨rfl, rfl, rfl⟩ := hi
        · exact h.exec_selRow h.wf rfl rfl hop (.inl ⟨.inl rfl, rfl⟩)
        · exact h.exec_selRow h.wf rfl rfl hop (.inl ⟨.inr rfl, rfl⟩)
        · exact h.exec_selRow h.wf rfl rfl hop (.inr ⟨rfl, rfl⟩)
      obtain ⟨hfails, hgo⟩ := exec_opRun (.refl s.work) hexec
      refine ⟨fun fs hp => ?_, hgo⟩
      obtain ⟨t, hnext, ht, hmem, hstatus, -⟩ := hfails fs hp
      exact ⟨t, hnext, hmem, ht.trans (State.on_congr rfl), hstatus⟩
    · intro i op p hi hop
      refine exec_ingRun (o := q) ?_
      simp only [List.mem_cons, List.not_mem_nil, or_false, Prod.mk.injEq] at hi
      rcases hi with hi | hi <;> obtain ⟨rfl, rfl, rfl⟩ := hi
      · exact h.exec_ingRow (f := fun w o => w.arrowCheck d g row0 count o) h.wf rfl rfl hop
      · exact h.exec_ingRow (f := fun w o => w.parquetDecode d g row0 count o) h.wf rfl rfl hop

end Sys2Proof.Machine

/-! Selections (chapter 12: R350): the order of entries, and the lists that SORT and TOPK make in it. -/

namespace Sys2Proof.Machine

/-! ## Comparisons of data (R73) -/

theorem FVal.cmp_swap (a b : FVal) : b.cmp a = (a.cmp b).map Ordering.swap := by
  cases a with
  | nan => cases b <;> rfl
  | inf s =>
    cases b with
    | nan => rfl
    | inf t => cases s <;> cases t <;> rfl
    | fin t n g => cases s <;> rfl
  | fin s m e =>
    cases b with
    | nan => rfl
    | inf t => cases t <;> rfl
    | fin t n g => simp only [FVal.cmp, Option.map_some, Int.min_comm g e, Int.compare_swap]

theorem FVal.exists_cmp {a b : FVal} (ha : a.isNan = false) (hb : b.isNan = false) : ∃ o, a.cmp b = some o := by
  cases a with
  | nan => cases ha
  | inf s =>
    cases b with
    | nan => cases hb
    | inf t => exact ⟨_, rfl⟩
    | fin t n g => exact ⟨_, rfl⟩
  | fin s m e =>
    cases b with
    | nan => cases hb
    | inf t => exact ⟨_, rfl⟩
    | fin t n g => exact ⟨_, rfl⟩

/-- The two zeros are equal. -/
theorem FVal.cmp_zeros (e f : Int) : (FVal.fin true 0 e).cmp (.fin false 0 f) = some .eq := by
  simp [FVal.cmp, scaled]

/-! ## The order of entries -/

/-- The key is in the order: an integer, or a float that is no NaN. -/
def SEnt.hasPlace (flt : Bool) (e : SEnt) : Prop := flt = true → (Fmt.fp64.decode e.key).isNan = false

section
variable {flt desc : Bool} {a b c : SEnt}

/-- The kind of key that `keyAfter` compares. -/
def keyKind (flt : Bool) : Nat := if flt then 2 else 1

theorem keyKind_lt (flt : Bool) : keyKind flt < 3 := by cases flt <;> decide

theorem SEnt.hasPlace.validKey (h : a.hasPlace flt) : validKey (keyKind flt) 64 a.key = true :=
  validKey_of_no_nan fun hk => h (by cases flt with | true => rfl | false => cases hk)

/-- Of keys that are in the order, `keyBefore` is `keyAfter` with the direction's sides. -/
theorem keyBefore_eq_keyAfter (ha : a.hasPlace flt) (hb : b.hasPlace flt) : keyBefore flt desc a.key b.key =
    if desc then keyAfter (keyKind flt) 64 a.key b.key else keyAfter (keyKind flt) 64 b.key a.key := by
  cases flt with
  | false => cases desc <;> rfl
  | true =>
    rw [show keyKind true = 2 from rfl, keyAfter_flt ha.validKey hb.validKey, keyAfter_flt hb.validKey ha.validKey]
    cases desc <;> rfl

theorem keyBefore_asymm (ha : a.hasPlace flt) (hb : b.hasPlace flt) (h : keyBefore flt desc a.key b.key = true) :
    keyBefore flt desc b.key a.key = false := by
  rw [keyBefore_eq_keyAfter ha hb] at h
  rw [keyBefore_eq_keyAfter hb ha]
  cases desc with
  | false => exact keyAfter_asymm (keyKind_lt flt) hb.validKey ha.validKey h
  | true => exact keyAfter_asymm (keyKind_lt flt) ha.validKey hb.validKey h

theorem keyBefore_trans_false (ha : a.hasPlace flt) (hb : b.hasPlace flt) (hc : c.hasPlace flt)
    (hab : keyBefore flt desc a.key b.key = false) (hbc : keyBefore flt desc b.key c.key = false) :
    keyBefore flt desc a.key c.key = false := by
  rw [keyBefore_eq_keyAfter ha hb] at hab
  rw [keyBefore_eq_keyAfter hb hc] at hbc
  rw [keyBefore_eq_keyAfter ha hc]
  cases desc with
  | false => exact keyAfter_trans_false (keyKind_lt flt) hc.validKey hb.validKey ha.validKey hbc hab
  | true => exact keyAfter_trans_false (keyKind_lt flt) ha.validKey hb.validKey hc.validKey hab hbc

theorem SEnt.before_iff : a.before flt desc b = true ↔
    keyBefore flt desc a.key b.key = true ∨ (keyBefore flt desc b.key a.key = false ∧ a.id_ < b.id_) := by
  simp only [SEnt.before, Bool.or_eq_true, Bool.and_eq_true, Bool.not_eq_true', decide_eq_true_eq]

/-- Integer keys are in the order of their values. -/
theorem SEnt.before_int_iff : a.before false desc b = true ↔
    (if desc then sext 64 b.key < sext 64 a.key else sext 64 a.key < sext 64 b.key) ∨
      (sext 64 a.key = sext 64 b.key ∧ a.id_ < b.id_) := by
  rw [SEnt.before_iff]
  cases desc with
  | false =>
    simp only [keyBefore, Bool.false_eq_true, if_false, decide_eq_true_eq, decide_eq_false_iff_not]
    omega
  | true =>
    simp only [keyBefore, Bool.false_eq_true, if_false, if_true, decide_eq_true_eq, decide_eq_false_iff_not]
    omega

/-- So are float keys that are no NaN. -/
theorem SEnt.before_flt_iff (ha : (Fmt.fp64.decode a.key).isNan = false) (hb : (Fmt.fp64.decode b.key).isNan = false) :
    a.before true desc b = true ↔
      (Fmt.fp64.decode a.key).cmp (Fmt.fp64.decode b.key) = some (if desc then .gt else .lt) ∨
        ((Fmt.fp64.decode a.key).cmp (Fmt.fp64.decode b.key) = some .eq ∧ a.id_ < b.id_) := by
  obtain ⟨o, ho⟩ := FVal.exists_cmp ha hb
  have hswap : (Fmt.fp64.decode b.key).cmp (Fmt.fp64.decode a.key) = some o.swap := by rw [FVal.cmp_swap, ho]; rfl
  rw [SEnt.before_iff]
  simp only [keyBefore, FVal.lt, ho, hswap, if_true]
  cases desc <;> cases o <;> simp [Ordering.swap]

/-- Of two entries with different IDs one is before the other. -/
theorem SEnt.before_total (ha : a.hasPlace flt) (hb : b.hasPlace flt) (h : a.id_ ≠ b.id_) :
    a.before flt desc b = true ↔ b.before flt desc a = false := by
  rw [← Bool.not_eq_true, SEnt.before_iff, SEnt.before_iff]
  cases hab : keyBefore flt desc a.key b.key with
  | true => simp [keyBefore_asymm ha hb hab]
  | false =>
    simp only [Bool.false_eq_true, false_or, true_and, not_or, Bool.not_eq_true]
    exact and_congr_right' (by omega)

theorem SEnt.before_trans (ha : a.hasPlace flt) (hb : b.hasPlace flt) (hc : c.hasPlace flt)
    (hab : a.before flt desc b = true) (hbc : b.before flt desc c = true) : a.before flt desc c = true := by
  have hba : keyBefore flt desc b.key a.key = false :=
    (SEnt.before_iff.mp hab).elim (keyBefore_asymm ha hb) And.left
  have hcb : keyBefore flt desc c.key b.key = false :=
    (SEnt.before_iff.mp hbc).elim (keyBefore_asymm hb hc) And.left
  cases hac : keyBefore flt desc a.key c.key with
  | true => exact SEnt.before_iff.mpr (.inl hac)
  | false =>
    have hab' : keyBefore flt desc a.key b.key = false := keyBefore_trans_false ha hc hb hac hcb
    have hbc' : keyBefore flt desc b.key c.key = false := keyBefore_trans_false hb ha hc hba hac
    simp only [SEnt.before_iff, hab', hbc', Bool.false_eq_true, false_or] at hab hbc
    exact SEnt.before_iff.mpr (.inr ⟨keyBefore_trans_false hc hb ha hcb hba, hab.2.trans hbc.2⟩)

/-- No entry is before itself. -/
theorem SEnt.before_self (ha : a.hasPlace flt) : a.before flt desc a = false := by
  rw [← Bool.not_eq_true, SEnt.before_iff]
  rintro (h | ⟨_, h⟩)
  · exact Bool.false_ne_true ((keyBefore_asymm ha ha h).symm.trans h)
  · exact Nat.lt_irrefl _ h

/-- The order by which `sortEnts` sorts: not after. -/
theorem SEnt.not_before_total (ha : a.hasPlace flt) (hb : b.hasPlace flt) :
    (!b.before flt desc a) = true ∨ (!a.before flt desc b) = true := by
  simp only [Bool.not_eq_true']
  by_contra! h
  simp only [ne_eq, Bool.not_eq_false] at h
  exact absurd (SEnt.before_trans ha hb ha h.2 h.1) (by simp [SEnt.before_self ha])

theorem SEnt.not_before_trans (ha : a.hasPlace flt) (hb : b.hasPlace flt) (hc : c.hasPlace flt)
    (hba : (!b.before flt desc a) = true) (hcb : (!c.before flt desc b) = true) : (!c.before flt desc a) = true := by
  simp only [Bool.not_eq_true'] at hba hcb ⊢
  refine Bool.eq_false_iff.mpr fun hca => ?_
  by_cases hid : b.id_ = a.id_
  · by_cases hid' : c.id_ = b.id_
    · have hkey := keyBefore_trans_false (desc := desc) hc hb ha
        (Bool.eq_false_iff.mpr fun h => Bool.eq_false_iff.mp hcb (SEnt.before_iff.mpr (.inl h)))
        (Bool.eq_false_iff.mpr fun h => Bool.eq_false_iff.mp hba (SEnt.before_iff.mpr (.inl h)))
      rcases SEnt.before_iff.mp hca with h | ⟨_, h⟩
      · exact Bool.false_ne_true (hkey.symm.trans h)
      · omega
    · have hbc : b.before flt desc c = true := (SEnt.before_total hb hc (Ne.symm hid')).mpr hcb
      exact Bool.eq_false_iff.mp hba (SEnt.before_trans hb hc ha hbc hca)
  · have hab : a.before flt desc b = true := (SEnt.before_total ha hb (Ne.symm hid)).mpr hba
    exact Bool.eq_false_iff.mp hcb (SEnt.before_trans hc ha hb hca hab)

end

/-! ## Sorting entries -/

theorem insertBy_perm {α : Type} (le : α → α → Bool) (x : α) (l : List α) : (insertBy le x l).Perm (x :: l) := by
  induction l with
  | nil => exact .refl _
  | cons y l ih =>
    unfold insertBy
    split
    · exact .refl _
    · exact (ih.cons y).trans (.swap ..)

/-- A sort is the list in another order. -/
theorem sortBy_perm {α : Type} (le : α → α → Bool) (l : List α) : (sortBy le l).Perm l := by
  induction l with
  | nil => exact .refl _
  | cons x l ih => exact (insertBy_perm le x _).trans (ih.cons x)

theorem insertBy_map {α β : Type} (f : α → β) (le : β → β → Bool) (x : α) (l : List α) :
    insertBy le (f x) (l.map f) = (insertBy (fun a b => le (f a) (f b)) x l).map f := by
  induction l with
  | nil => rfl
  | cons y l ih =>
    simp only [List.map_cons, insertBy]
    split
    · rfl
    · rw [ih, List.map_cons]

/-- A sort of images is the images of a sort. -/
theorem sortBy_map {α β : Type} (f : α → β) (le : β → β → Bool) (l : List α) :
    sortBy le (l.map f) = (sortBy (fun a b => le (f a) (f b)) l).map f := by
  induction l with
  | nil => rfl
  | cons x l ih => exact (congrArg _ ih).trans (insertBy_map f le x _)

/-- Entries that are in the order are sorted by it. -/
theorem pairwise_sortEnts (flt desc : Bool) {es : List SEnt} (h : ∀ e ∈ es, e.hasPlace flt) :
    (sortEnts flt desc es).Pairwise (fun a b => (!b.before flt desc a) = true) := by
  rw [← List.attachWith_map_subtype_val h]
  unfold sortEnts
  rw [sortBy_map]
  exact List.pairwise_map.mpr (pairwise_sortBy (le := fun a b : { e // SEnt.hasPlace flt e } => !b.1.before flt desc a.1)
    (fun a b => SEnt.not_before_total a.2 b.2) (fun a b c => SEnt.not_before_trans a.2 b.2 c.2) _)

/-- So where no ID is repeated, each is before all that follow. -/
theorem pairwise_before_sortEnts (flt desc : Bool) {es : List SEnt} (h : ∀ e ∈ es, e.hasPlace flt)
    (hid : es.Pairwise (fun a b => a.id_ ≠ b.id_)) :
    (sortEnts flt desc es).Pairwise (fun a b => a.before flt desc b = true ∧ a.id_ ≠ b.id_) := by
  have hids : (sortEnts flt desc es).Pairwise (fun a b => a.id_ ≠ b.id_) :=
    (sortBy_perm _ es).symm.pairwise hid Ne.symm
  refine ((pairwise_sortEnts flt desc h).and hids).imp_of_mem ?_
  intro a b ha hb hab
  have hplace : ∀ e ∈ sortEnts flt desc es, e.hasPlace flt := fun e he => h e (mem_sortBy.mp he)
  exact ⟨(SEnt.before_total (hplace a ha) (hplace b hb) hab.2).mpr (Bool.not_eq_true' .. ▸ hab.1), hab.2⟩

/-! ## Copies of an ID (R360) -/

/-- What is kept and what is discarded are the entries of the list; the kept have IDs that differ from each other and from
those seen. -/
theorem distinct_spec (es : List SEnt) (seen : List Nat) : let x := distinct es seen
    x.1.Sublist es ∧ x.2.length + x.1.length = es.length ∧ (∀ e ∈ x.1, e.id_ ∉ seen) ∧
      x.1.Pairwise (fun a b => a.id_ ≠ b.id_) := by
  induction es generalizing seen with
  | nil => exact ⟨.slnil, rfl, by simp [distinct], .nil⟩
  | cons e es ih =>
    simp only [distinct]
    split
    next _ =>
      obtain ⟨hsub, hlen, hseen, hids⟩ := ih seen
      exact ⟨hsub.cons e, by simp only [List.length_cons]; omega, hseen, hids⟩
    next hnew =>
      obtain ⟨hsub, hlen, hseen, hids⟩ := ih (e.id_ :: seen)
      refine ⟨hsub.cons_cons e, by simp only [List.length_cons]; omega, List.forall_mem_cons.mpr ⟨by simpa using hnew, ?_⟩,
        List.pairwise_cons.mpr ⟨?_, hids⟩⟩
      · exact fun x hx hmem => hseen x hx (List.mem_cons_of_mem _ hmem)
      · exact fun x hx hid => hseen x hx (hid ▸ List.mem_cons_self)

/-! ## The list of a call (R361 to R364) -/

section
variable (w : Work) (ty : Nat) (desc : Bool) (k : Option Nat) (count source : Nat) (rows : List SEnt)

/-- The entries of a list are the first K of the distinct rows in their order, or all of them. -/
theorem Work.selectRows_ents : (w.selectRows ty desc k count source rows).1.ents =
    (sortEnts (keyFlt ty) desc (distinct rows []).1).take (k.getD (distinct rows []).1.length) := by
  cases k with
  | none => exact (List.take_of_length_le (sortBy_perm _ _).length_eq.le).symm
  | some n => rfl

theorem Work.selectRows_total : (w.selectRows ty desc k count source rows).1.total = (distinct rows []).1.length := rfl

theorem Work.selectRows_dup : (w.selectRows ty desc k count source rows).1.dup = (distinct rows []).2.length := rfl

end

/-- What the first entries of a list in order leave out comes after them. -/
theorem before_of_not_mem_take {flt desc : Bool} {es : List SEnt} {n : Nat} {x y : SEnt}
    (h : es.Pairwise (fun a b => a.before flt desc b = true ∧ a.id_ ≠ b.id_)) (hx : x ∈ es.take n) (hy : y ∈ es)
    (hout : y ∉ es.take n) : x.before flt desc y = true := by
  rw [← List.take_append_drop n es] at h hy
  exact ((List.pairwise_append.mp h).2.2 x hx y ((List.mem_append.mp hy).resolve_left hout)).1

/-- Settles O46: the order is `keyAfter`'s on keys that are no NaN, the sort is by it, and a list is its first entries. -/
theorem selectedRowsAreTheBest : Obligations.SelectedRowsAreTheBest := by
  unfold Obligations.SelectedRowsAreTheBest
  refine ⟨fun desc a b => ⟨SEnt.before_int_iff, SEnt.before_flt_iff⟩, FVal.cmp_zeros, ?_, ?_⟩
  · intro flt desc a b c h
    have hplace : ∀ e ∈ [a, b, c], e.hasPlace flt := fun e he hflt => h hflt e he
    simp only [List.forall_mem_cons] at hplace
    obtain ⟨ha, hb, hc, _⟩ := hplace
    exact ⟨SEnt.before_total ha hb, SEnt.before_trans ha hb hc⟩
  · intro w ty desc k count source rows h
    dsimp only
    obtain ⟨hsub, hlen, _, hids⟩ := distinct_spec rows []
    have hsorted := pairwise_before_sortEnts (keyFlt ty) desc (fun e he hflt => h hflt e (hsub.subset he)) hids
    rw [w.selectRows_ents]
    refine ⟨hsorted.sublist (List.take_sublist _ _), fun e he => hsub.subset (mem_sortBy.mp (List.mem_of_mem_take he)),
      w.selectRows_total .., w.selectRows_dup .. ▸ hlen, ?_, ?_⟩
    · exact fun x hx y hy hout => before_of_not_mem_take hsorted hx (mem_sortBy.mpr hy) hout
    · rw [List.length_take]
      exact congrArg _ (sortBy_perm _ _).length_eq

end Sys2Proof.Machine

/-! Stored DEFLATE blocks (chapter 14: R408). -/

namespace Sys2Proof.Machine

/-! ## Reading whole bytes -/

section
variable {s : Dec} {bs : List Byte}

theorem Dec.byte_of_aligned {b : Byte} (hbit : s.bit = 0) (hinp : s.inp = b :: bs) : s.byte = (b.toNat, { s with inp := bs }) := by
  simp only [Dec.byte, hbit, hinp, if_true]

/-- A value is read back from its bytes. -/
theorem Dec.le_of_toBytes {n v : Nat} (hbit : s.bit = 0) (hinp : s.inp = toBytes n v ++ bs) (hv : v < 256 ^ n) :
    s.le n = (v, { s with inp := bs }) := by
  induction n generalizing s v with
  | zero =>
    obtain rfl : v = 0 := by simpa using hv
    cases s
    cases hinp
    rfl
  | succ n ih =>
    have hrest : v / 256 < 256 ^ n := by rw [Nat.div_lt_iff_lt_mul (by decide)]; exact hv
    have hinp' : s.inp = BitVec.ofNat 8 v :: (toBytes n (v / 256) ++ bs) := hinp
    have htail := ih (s := { s with inp := toBytes n (v / 256) ++ bs }) hbit rfl hrest
    simp only [Dec.le, Dec.byte_of_aligned hbit hinp', htail, BitVec.toNat_ofNat, Nat.reducePow, Nat.mod_add_div]

/-! ## Bytes within the limits -/

theorem Dec.isNone_of_stop (hstop : s.stop = none) : s.stop.isNone = true := Option.isNone_iff_eq_none.mpr hstop

theorem Dec.live_of_stop (hstop : s.stop = none) : s.live = true := Dec.isNone_of_stop hstop

/-- A length is within the limits of R408. -/
def Dec.allows (s : Dec) (n : Nat) : Prop := n ≤ s.alloc ∧ n ≤ s.ratio ∧ ∀ d ∈ s.size, n ≤ d

theorem Dec.limits_of_allows {n : Nat} (h : s.allows n) : s.limits n = [] := by
  obtain ⟨halloc, hratio, hsize⟩ := h
  rw [Dec.limits, List.append_eq_nil_iff, List.append_eq_nil_iff, chk_eq_nil, chk_eq_nil, chk_eq_nil]
  refine ⟨⟨decide_eq_true halloc, decide_eq_true hratio⟩, ?_⟩
  split
  next d hd => exact decide_eq_true (hsize d hd)
  next => rfl

/-- Bytes that are within the limits together are all produced. -/
theorem Dec.emits_of_allows (hstop : s.stop = none) (h : s.allows (s.n + bs.length)) :
    s.emits bs = { s with out := bs.reverse ++ s.out, n := s.n + bs.length } := by
  induction bs generalizing s with
  | nil => rfl
  | cons b bs ih =>
    obtain ⟨halloc, hratio, hsize⟩ := h
    rw [List.length_cons] at halloc hratio hsize
    have hone : s.allows (s.n + 1) := ⟨by omega, by omega, fun d hd => by have := hsize d hd; omega⟩
    have hemit : s.emit b = { s with out := b :: s.out, n := s.n + 1 } := by
      simp only [Dec.emit, hstop, Option.isSome_none, Bool.false_eq_true, if_false, Dec.limits_of_allows hone]
    have hlen : s.n + 1 + bs.length = s.n + (b :: bs).length := by rw [List.length_cons]; omega
    have hrest : s.allows (s.n + 1 + bs.length) := by rw [hlen]; exact ⟨halloc, hratio, hsize⟩
    rw [Dec.emits, if_pos (Dec.live_of_stop hstop), hemit, ih (s := { s with out := b :: s.out, n := s.n + 1 }) hstop hrest,
      List.reverse_cons, List.append_assoc]
    exact congrArg (fun n => { s with out := bs.reverse ++ (b :: s.out), n := n }) hlen

end

/-- A declared size within the limits passes the preflight. -/
theorem Dec.preflight_of_limits {s : Dec} (h : ∀ d ∈ s.size, d ≤ s.alloc ∧ d ≤ s.ratio) : s.preflight = s := by
  unfold Dec.preflight
  split
  next => rfl
  next d hd =>
    obtain ⟨halloc, hratio⟩ := h d hd
    simp [chk, halloc, hratio]

/-- The end check of R408 on the declared size. -/
def Dec.sized (s : Dec) : Dec :=
  if s.live then (match s.size with
    | some d => if s.n = d then s else s.halt rSize
    | none => s) else s

theorem Dec.sized_of_size {s : Dec} (h : ∀ d ∈ s.size, s.n = d) : s.sized = s := by
  unfold Dec.sized
  split
  · split
    next d hd => exact if_pos (h d hd)
    next => rfl
  · rfl

/-- A decode of a DEFLATE stream that meets no hole of memory and passes the preflight. -/
theorem decodeBytes_deflate {inp : List Byte} {alloc limit decl : Nat} {s : Dec}
    (hstart : Dec.start inp alloc (limit * inp.length) (if decl = 0 then none else some decl) = s) (hpre : s.preflight = s)
    (hlive : s.live = true) : decodeBytes 0 inp alloc limit decl none = (s.deflate.ended.reads 0).sized := by
  have hseen : (if (0 : Nat) = 4 then inp else inp.take inp.length) = inp := List.take_length
  have hform : decodeBytes 0 inp alloc limit decl none =
      Dec.sized (Dec.reads (let s := (Dec.start (if (0 : Nat) = 4 then inp else inp.take inp.length) alloc
        (limit * inp.length) (if decl = 0 then none else some decl)).preflight
        if !s.live then s else s.deflate.ended) 0) := rfl
  rw [hform, hseen, hstart, hpre]
  dsimp only
  rw [hlive]
  rfl

/-! ## The block -/

/-- A final stored block of the bytes. -/
def storedBlock (bs : List Byte) : List Byte :=
  (1 : Byte) :: (toBytes 2 bs.length ++ toBytes 2 (65535 - bs.length) ++ bs)

theorem toBytes_length (n x : Nat) : (toBytes n x).length = n := by
  induction n generalizing x with
  | zero => rfl
  | succ n ih => exact congrArg (· + 1) (ih (x / 256))

theorem storedBlock_length (bs : List Byte) : (storedBlock bs).length = bs.length + 5 := by
  simp only [storedBlock, List.length_cons, List.length_append, toBytes_length]
  omega

section
variable {s : Dec} {bs : List Byte} (hlen : bs.length ≤ 65535) (hstop : s.stop = none) (h : s.allows (s.n + bs.length))
include hlen hstop h

/-- A stored block after its three first bits: the bytes come out, and nothing of the input is left. -/
theorem Dec.stored_of_block (hbit : s.bit ≠ 0) (hinp : s.inp = storedBlock bs) :
    s.stored = { s with inp := [], bit := 0, out := bs.reverse ++ s.out, n := s.n + bs.length } := by
  have hsum : bs.length + (65535 - bs.length) = 65535 := by omega
  have hfirst := Dec.le_of_toBytes (s := { s with inp := toBytes 2 bs.length ++ (toBytes 2 (65535 - bs.length) ++ bs), bit := 0 })
    (n := 2) rfl rfl (Nat.lt_succ_of_le hlen)
  have hsecond := Dec.le_of_toBytes (s := { s with inp := toBytes 2 (65535 - bs.length) ++ bs, bit := 0 }) (n := 2)
    rfl rfl (by omega)
  have hemits := Dec.emits_of_allows (s := { s with inp := [], bit := 0 }) hstop h
  have hrest : s.inp.drop 1 = toBytes 2 bs.length ++ (toBytes 2 (65535 - bs.length) ++ bs) := by
    rw [hinp]
    exact List.append_assoc ..
  simp only [Dec.stored, if_neg hbit, hrest, hfirst, hsecond, Dec.live, Dec.isNone_of_stop hstop, Bool.not_true,
    Bool.false_eq_true, if_false, hsum, ne_eq, not_true_eq_false, List.take_length, List.drop_length, hemits,
    Nat.lt_irrefl]

/-- The stream that is this block ends with it. -/
theorem Dec.deflate_of_block (hbit : s.bit = 0) (hinp : s.inp = storedBlock bs) :
    s.deflate = { s with inp := [], out := bs.reverse ++ s.out, n := s.n + bs.length, base := s.n } := by
  have hhead : ({ s with base := s.n, bit := 0 } : Dec).bits 1 = (1, { s with base := s.n, bit := 1 }) := by
    simp [Dec.bits, Dec.bit1, hinp, storedBlock, fieldOf]
  have htype : ({ s with base := s.n, bit := 1 } : Dec).bits 2 = (0, { s with base := s.n, bit := 3 }) := by
    simp [Dec.bits, Dec.bit1, hinp, storedBlock, fieldOf]
  have hblock := Dec.stored_of_block (s := { s with base := s.n, bit := 3 }) hlen hstop h (by simp) hinp
  simp only [Dec.deflate, Dec.fuel, Dec.inflate, hhead, htype, hblock, Dec.live, Dec.isNone_of_stop hstop, Bool.not_true,
    Bool.false_eq_true, if_false, true_or, if_true, hbit]

end

/-- Settles O51: the block's bits and lengths are read back, its bytes are within the limits, and nothing follows. -/
theorem storedBlockDecodes : Obligations.StoredBlockDecodes := by
  unfold Obligations.StoredBlockDecodes
  intro bs alloc limit decl hlen halloc hlimit hdecl
  have hratio : bs.length ≤ limit * (storedBlock bs).length := by
    rw [storedBlock_length]
    exact (Nat.le_add_right ..).trans (Nat.le_mul_of_pos_left _ hlimit)
  obtain ⟨size, hsize, hd⟩ : ∃ size, (if decl = 0 then none else some decl) = size ∧ ∀ d ∈ size, d = bs.length := by
    refine ⟨_, rfl, fun d hd => ?_⟩
    split at hd
    · cases hd
    · cases hd
      exact hdecl.resolve_left (by assumption)
  have hallows : (Dec.start (storedBlock bs) alloc (limit * (storedBlock bs).length) size).allows (0 + bs.length) := by
    rw [Nat.zero_add]
    exact ⟨halloc, hratio, fun d hd' => (hd d hd').ge⟩
  have hpre : (Dec.start (storedBlock bs) alloc (limit * (storedBlock bs).length) size).preflight =
      Dec.start (storedBlock bs) alloc (limit * (storedBlock bs).length) size :=
    Dec.preflight_of_limits fun d hd' => by
      rw [hd d hd']
      exact ⟨halloc, hratio⟩
  have hrun := decodeBytes_deflate (congrArg _ hsize) hpre rfl
  rw [Dec.deflate_of_block hlen rfl hallows rfl rfl] at hrun
  replace hrun := hrun.trans (Dec.sized_of_size fun d hd' => (Nat.zero_add bs.length).trans (hd d hd').symm)
  show (decodeBytes 0 (storedBlock bs) alloc limit decl none).stop = none ∧
    (decodeBytes 0 (storedBlock bs) alloc limit decl none).out.reverse = bs
  rw [hrun]
  exact ⟨rfl, (congrArg List.reverse (List.append_nil _)).trans bs.reverse_reverse⟩

end Sys2Proof.Machine

/-! Messages that this device takes, and the commands in them (chapters 18 and 19: R513, R517, R521, R527, R541); and fields
of registers that a shared operation leaves as they were. -/

namespace Sys2Proof.Machine

/-! ## Messages taken here -/

section
variable {s : State} {cls typ : Nat} {h : KHdr} {bs : List Byte}

/-- A message that is taken here is given to its command. -/
theorem Work.arriveAs_of_taken (ht : TakenHere cls typ h s) (f : Work → Msg → Work) :
    s.work.arriveAs cls typ ⟨h, bs⟩ f = f s.work ⟨h, bs⟩ := by
  obtain ⟨hcls, htyp, hplace⟩ := ht
  rw [Work.arriveAs, if_pos ⟨hcls, htyp⟩, Work.arrive]
  dsimp only
  split
  · rfl
  next hlink =>
    rcases hplace with h5 | ⟨hact, hown, hsess⟩ | ⟨hmirror, hdev, hhandles⟩
    · exact absurd (by simp [hcls, h5]) hlink
    · rw [if_neg (by simp [hact]), if_pos hown, if_pos hsess]
    · rw [if_pos (by simp [hmirror, hdev]), if_pos hhandles]

/-- A command of another class or type leaves the block as it is. -/
theorem Work.arriveAs_of_other (w : Work) {m : Msg} (f : Work → Msg → Work) (hm : ¬ (m.h.cls = cls ∧ m.h.typ = typ)) :
    w.arriveAs cls typ m f = w := if_neg hm

/-- A message taken here has the effect of its command. -/
theorem exec_of_taken {i : Instr} {f : Work → Msg → Work}
    (hexec : exec i s = s.perform i (fun w => w.arriveAs cls typ ⟨h, bs⟩ f)) (hwf : i.wf = true) (ht : TakenHere cls typ h s) :
    exec i s = .next (s.on fun w => f w ⟨h, bs⟩) :=
  hexec.trans (State.perform_eq_on _ hwf (Work.arriveAs_of_taken ht f))

/-- A command taken here has its effect on the block as the command finds it. -/
theorem exec_of_taken_eq {i : Instr} {f : Work → Msg → Work} {v : Work}
    (hexec : exec i s = s.perform i (fun w => w.arriveAs cls typ ⟨h, bs⟩ f)) (hwf : i.wf = true) (ht : TakenHere cls typ h s)
    (hv : f s.work ⟨h, bs⟩ = v) : exec i s = .next (s.on fun _ => v) :=
  (exec_of_taken hexec hwf ht).trans (congrArg _ (State.on_congr hv))

/-- One whose command does nothing leaves the state as it was. -/
theorem exec_of_taken_unchanged {i : Instr} {f : Work → Msg → Work}
    (hexec : exec i s = s.perform i (fun w => w.arriveAs cls typ ⟨h, bs⟩ f)) (hwf : i.wf = true) (ht : TakenHere cls typ h s)
    (hv : f s.work ⟨h, bs⟩ = s.work) : exec i s = .next s :=
  (exec_of_taken hexec hwf ht).trans (congrArg _ (State.on_unchanged hv))

end

/-! ## Commands of masters -/

section
variable {w v : Work} {m : Msg} {kind a b : Nat}

/-- An order that is accepted and prevails on its object is carried out. -/
theorem Work.command_of_resolved (hauth : w.authorised m.h = true) (hres : w.resolve kind a b m.h = some v) (f : Work → Work) :
    w.command m (some (kind, a, b)) f = f v := by
  simp only [Work.command, hauth, hres, Bool.not_true, Bool.false_eq_true, if_false]

/-- One without an object is carried out once it is accepted. -/
theorem Work.command_of_no_object (hauth : w.authorised m.h = true) (f : Work → Work) : w.command m none f = f w := by
  simp only [Work.command, hauth, Bool.not_true, Bool.false_eq_true, if_false]

/-- An order that a higher master's has forestalled is named in a conflict and answered with CONFLICT. -/
theorem Work.command_of_conflict (hauth : w.authorised m.h = true) (hres : w.resolve kind a b m.h = none) (f : Work → Work) :
    w.command m (some (kind, a, b)) f = (w.noteConflict m.h).ctrlDone m.h sConflict [] := by
  simp only [Work.command, hauth, hres, Bool.not_true, Bool.false_eq_true, if_false]

/-- A master that is not accepted is counted and answered with AUTH_FAIL. -/
theorem Work.command_of_unauthorised (hauth : w.authorised m.h = false) (obj : Option (Nat × Nat × Nat)) (f : Work → Work) :
    w.command m obj f = (w.bump F.fabStatAuthDrop 0 0).ctrlDone m.h sAuth [] := by
  simp only [Work.command, hauth, Bool.not_false, if_true]

end

/-! ## Register fields that stay as they were -/

/-- The entry of the register map at a key is the same. -/
def Work.SameAt (k : Nat) (w v : Work) : Prop := smGet 0 v.regs k = smGet 0 w.regs k

theorem Work.SameAt.refl (k : Nat) (w : Work) : w.SameAt k w := rfl

theorem Work.SameAt.trans {k : Nat} {u v w : Work} (h : u.SameAt k v) (h' : v.SameAt k w) : u.SameAt k w :=
  Eq.trans h' h

/-- So a field with that key reads the same. -/
theorem Work.SameAt.rd_eq {f : Fld} {d i : Nat} {w v : Work} (h : w.SameAt (f.key d i) v) : v.rd f d i = w.rd f d i := by
  unfold Work.rd
  rw [h]

theorem Work.sameAt_of_regs {w v : Work} (h : v.regs = w.regs) (k : Nat) : w.SameAt k v := by
  unfold Work.SameAt
  rw [h]

theorem Work.sameAt_wr {k : Nat} {f : Fld} {d i : Nat} (h : f.key d i ≠ k) (w : Work) (v : Nat) : w.SameAt k (w.wr f d i v) :=
  smGet_smSet_other h

theorem Work.SameAt.foldl {k : Nat} {α : Type} {f : Work → α → Work} (l : List α)
    (h : ∀ w, ∀ a ∈ l, Work.SameAt k w (f w a)) (w : Work) : w.SameAt k (l.foldl f w) := by
  induction l generalizing w with
  | nil => exact .refl k w
  | cons a l ih =>
    exact (h w a List.mem_cons_self).trans (ih (fun w b hb => h w b (List.mem_cons_of_mem _ hb)) _)

/-- The key lies outside the records, priorities and states of the event sources. -/
def AwayFromEvents (k : Nat) : Prop :=
  ∀ n, n < 256 → F.evtRecRecord.key 0 n ≠ k ∧ F.evtPriCount.key 0 n ≠ k ∧ F.evtPriState.key 0 n ≠ k

theorem Work.sameAt_watch (k : Nat) (w : Work) (n : Nat) : w.SameAt k (w.watch n) := by
  unfold Work.watch
  dsimp only
  split <;> rfl

/-- An occurrence of a source leaves every other field as it was. -/
theorem Work.sameAt_event {k : Nat} (hk : AwayFromEvents k) (w : Work) (n st detail : Nat) :
    w.SameAt k (w.event n st detail) := by
  unfold Work.event Work.recPut
  dsimp only
  split
  · exact .refl k w
  next hr =>
    have hn : n < 256 := by
      simp only [reservedSource, Bool.or_eq_true, decide_eq_true_eq, not_or] at hr
      omega
    obtain ⟨hrec, hcount, hstate⟩ := hk n hn
    refine (w.sameAt_watch k n).trans ?_
    split
    · exact (sameAt_wr hcount ..).trans (sameAt_wr hrec ..)
    · exact (sameAt_wr hrec ..).trans ((sameAt_wr hcount ..).trans (sameAt_wr hstate ..))

theorem Work.sameAt_setDevState {k : Nat} (hk : AwayFromEvents k) (hst : F.rstStateState.key 0 0 ≠ k) (w : Work) (st : Nat) :
    w.SameAt k (w.setDevState st) := by
  unfold Work.setDevState
  dsimp only
  split
  · exact .refl k w
  · exact (sameAt_wr hst ..).trans (sameAt_event hk ..)

theorem Work.sameAt_faultPlan (k : Nat) (w : Work) (p st : Nat) : w.SameAt k (w.faultPlan p st) := by
  obtain ⟨ps, h⟩ := w.faultPlan_only p st
  rw [h]
  rfl

theorem Work.sameAt_unmappedBy {k : Nat} (hk : AwayFromEvents k) (w : Work) (d p c a : Nat) :
    w.SameAt k (w.unmappedBy d p c a) := (w.sameAt_faultPlan k p sUnmapped).trans (sameAt_event hk ..)

theorem Work.OnlyBytes.sameAt {w v : Work} (h : w.OnlyBytes v) (k : Nat) : w.SameAt k v := by
  obtain ⟨j, d, a, rfl⟩ := h
  rfl

/-- Completion records store bytes, or raise PAGE_UNMAPPED. -/
theorem Work.sameAt_completion {k : Nat} (hk : AwayFromEvents k) (w : Work) (d p a n : Nat) (bs : List Byte) :
    w.SameAt k (w.completion d p a n bs) := by
  unfold Work.completion
  dsimp only
  split
  · exact .refl k w
  · split
    · exact (w.onlyBytes_write _ bs).sameAt k
    · exact (w.sameAt_faultPlan k p sUnmapped).trans (sameAt_event hk ..)

theorem Work.sameAt_callReturn (k : Nat) (w : Work) (d g st : Nat) (v : Option Nat) : w.SameAt k (w.callReturn d g st v) := rfl

theorem Work.sameAt_countFurther (k : Nat) (w : Work) (u : CntUnit) (fs : List Nat) : w.SameAt k (w.countFurther u fs) := rfl

/-- The key of a field of the device region. -/
theorem Fld.key_of_dev {f : Fld} (hplace : f.reg.info.place = .dev) (d i : Nat) :
    f.key d i = (devRegion + f.reg.info.off + i * f.reg.info.stride) * 8 + f.lo := by
  simp only [Fld.key, Reg.addr, hplace]

/-- A field of the device region outside the events' registers is away from them. -/
theorem awayFromEvents_dev {f : Fld} (hplace : f.reg.info.place = .dev) {i : Nat}
    (h : f.reg.info.off + i * f.reg.info.stride + f.lo / 8 < 0xC800 ∨
      (0xD000 ≤ f.reg.info.off + i * f.reg.info.stride ∧ f.reg.info.off + i * f.reg.info.stride + f.lo / 8 < 0x10000) ∨
      0x14000 ≤ f.reg.info.off + i * f.reg.info.stride) (d : Nat) :
    AwayFromEvents (f.key d i) := by
  intro n hn
  have hrec : F.evtRecRecord.key 0 n = (devRegion + 0x10000 + n * 64) * 8 := rfl
  have hcount : F.evtPriCount.key 0 n = (devRegion + 0xC800 + n * 8) * 8 + 16 := rfl
  have hstate : F.evtPriState.key 0 n = (devRegion + 0xC800 + n * 8) * 8 + 13 := rfl
  rw [hrec, hcount, hstate, f.key_of_dev hplace]
  omega

end Sys2Proof.Machine

/-! Calls of a task that touch several parts of the block (chapters 08 and 11: R93, R94, R300, R305, R307): what their ends
leave alone. -/

namespace Sys2Proof.Machine

/-! ## Reading the state after a command -/

theorem State.rd_on (f : Work → Work) (s : State) (x : Fld) (d i : Nat) : (s.on f).work.rd x d i = (f s.work).rd x d i := by
  unfold Work.rd
  rw [State.work_toBlock, State.on_regs]

theorem State.table?_on (f : Work → Work) (s : State) (id : Nat) : (s.on f).work.table? id = (f s.work).table? id := by
  unfold Work.table?
  rw [State.work_toBlock, State.on_emb]

/-! ## Bytes and free values -/

/-- Nothing but bytes stored, float additions, free values drawn, and the note of a descriptor-table page, differs. -/
def Work.OnlyDrawn (w v : Work) : Prop := ∃ j h a c, v = { w with jnl := j, dtHit := h, adds := a, free := c }

theorem Work.OnlyDrawn.refl (w : Work) : w.OnlyDrawn w := ⟨_, _, _, _, rfl⟩

theorem Work.OnlyDrawn.trans {u v w : Work} (h : u.OnlyDrawn v) (k : v.OnlyDrawn w) : u.OnlyDrawn w := by
  obtain ⟨j, d, a, c, rfl⟩ := h
  obtain ⟨j', d', a', c', rfl⟩ := k
  exact ⟨j', d', a', c', rfl⟩

theorem Work.OnlyBytes.drawn {w v : Work} (h : w.OnlyBytes v) : w.OnlyDrawn v := by
  obtain ⟨j, d, a, rfl⟩ := h
  exact ⟨j, d, a, w.free, rfl⟩

theorem Work.onlyDrawn_fresh (w : Work) (n : Nat) : w.OnlyDrawn (w.fresh n).2 := ⟨w.jnl, w.dtHit, w.adds, _, rfl⟩

theorem Work.OnlyDrawn.emb {w v : Work} (h : w.OnlyDrawn v) : v.emb = w.emb := by
  obtain ⟨j, d, a, c, rfl⟩ := h
  rfl

theorem Work.OnlyDrawn.regs {w v : Work} (h : w.OnlyDrawn v) : v.regs = w.regs := by
  obtain ⟨j, d, a, c, rfl⟩ := h
  rfl

/-- A relation that each step of a fold keeps, the fold keeps. -/
theorem foldl_keeps {α β : Type} {R : α → α → Prop} (refl : ∀ a, R a a) (trans : ∀ {a b c}, R a b → R b c → R a c)
    {f : α → β → α} (step : ∀ a b, R a (f a b)) (l : List β) (a : α) : R a (l.foldl f a) := by
  induction l generalizing a with
  | nil => exact refl a
  | cons b l ih => exact trans (step a b) (ih _)

/-- A sum in no fixed order draws free values. -/
theorem Work.onlyDrawn_sumFree (w : Work) (xs : List Nat) : w.OnlyDrawn (w.sumFree xs).2 := ⟨w.jnl, w.dtHit, w.adds, _, rfl⟩

theorem Work.onlyDrawn_sumRows (w : Work) (n : Nat) (rows : List (List Nat)) : w.OnlyDrawn (w.sumRows n rows).2 :=
  foldl_keeps (R := fun (p q : List Nat × Work) => p.2.OnlyDrawn q.2) (fun p => .refl p.2) (fun h k => h.trans k)
    (fun p _ => p.2.onlyDrawn_sumFree _) _ ([], w)

theorem Work.onlyDrawn_poolRows (w : Work) (pool n : Nat) (rows : List (List Nat)) : w.OnlyDrawn (w.poolRows pool n rows).2 := by
  unfold Work.poolRows
  split
  · exact .refl w
  · exact w.onlyDrawn_sumRows n rows

/-! ## Stores of an operator -/

theorem OAcc.meets_w (a : OAcc) (st : RowSt) : (a.meets st).w = a.w := by cases st <;> rfl

theorem OAcc.stores_w (a : OAcc) (bit : Nat) : (a.stores bit).w = a.w := by
  unfold OAcc.stores
  split <;> rfl

/-! ## Statistics (R305) -/

theorem Work.countSat_cellar (w : Work) (d n : Nat) : ∃ e, w.countSat (.cellar d) n = { w with errs := e } := by
  unfold Work.countSat
  split
  · exact ⟨w.errs, rfl⟩
  · exact ⟨_, rfl⟩

/-- Statistics added are bytes stored, and saturations counted. -/
theorem Work.addStats_only (w : Work) (addr : Nat) (cs : List Nat) :
    ∃ j h a e, w.addStats addr cs = { w with jnl := j, dtHit := h, adds := a, errs := e } := by
  unfold Work.addStats
  split
  · exact ⟨w.jnl, w.dtHit, w.adds, w.errs, rfl⟩
  · split
    next die _ _ =>
      have hbytes := foldl_keeps (R := fun (p q : Work × Nat) => p.1.OnlyBytes q.1) (fun p => .refl p.1) (fun h k => h.trans k)
        (f := fun (p : Work × Nat) k =>
          ((p.1.writeLE (addr + 8 * k) 8
              (clampTo 0 (2 ^ 64 - 1) (((p.1.readLE (addr + 8 * k) 8).getD 0 + getAt 0 cs k : Nat) : Int)).1.toNat),
            p.2 + (if (clampTo 0 (2 ^ 64 - 1) (((p.1.readLE (addr + 8 * k) 8).getD 0 + getAt 0 cs k : Nat) : Int)).2 then 1 else 0)))
        (fun p k => p.1.onlyBytes_writeLE ..) (List.range cs.length) (w, 0)
      obtain ⟨j, h, a, hfold⟩ := hbytes
      obtain ⟨e, hcount⟩ := Work.countSat_cellar _ die _
      exact ⟨j, h, a, e, hcount.trans (by rw [hfold])⟩
    next => exact ⟨w.jnl, w.dtHit, w.adds, w.errs, rfl⟩

/-- Rejects entered change the core's table and the count of those lost. -/
theorem Work.enterRejects_only (w : Work) (d g : Nat) (l : List Rej) :
    ∃ r rs, w.enterRejects d g l = { w with regs := r, rejs := rs } := by
  unfold Work.enterRejects Work.loseRejects
  dsimp only
  split
  · exact ⟨w.regs, _, rfl⟩
  · exact ⟨_, _, rfl⟩

theorem Work.countWrap_gc (w : Work) (d g n : Nat) : ∃ r e, w.countWrap (.gc d g) n = { w with regs := r, errs := e } := by
  unfold Work.countWrap
  split
  · exact ⟨w.regs, w.errs, rfl⟩
  · exact ⟨_, _, rfl⟩

theorem Work.unmappedBy_notes (w : Work) (d p c a : Nat) :
    ∃ r e ps, w.unmappedBy d p c a = { w with regs := r, evt := e, plans := ps } := by
  obtain ⟨ps, hps⟩ := w.faultPlan_only p sUnmapped
  obtain ⟨r, e, he⟩ := (w.faultPlan p sUnmapped).onlyNotes_event (dieSource 3 d) sUnmapped (c + detailAddr a)
  refine ⟨r, e, ps, ?_⟩
  unfold Work.unmappedBy
  rw [he, hps]

/-- What the end of a call can change: registers and the watcher's note, bytes, counts, rejects, faulted plans, and the
cores. -/
def Work.OnlyCallEnd (w v : Work) : Prop :=
  ∃ r e j h a er rs ps cs, v = { w with regs := r, evt := e, jnl := j, dtHit := h, adds := a, errs := er, rejs := rs,
                                        plans := ps, cores := cs }

theorem Work.OnlyCallEnd.trans {u v w : Work} (h : u.OnlyCallEnd v) (k : v.OnlyCallEnd w) : u.OnlyCallEnd w := by
  obtain ⟨_, _, _, _, _, _, _, _, _, rfl⟩ := h
  obtain ⟨_, _, _, _, _, _, _, _, _, rfl⟩ := k
  exact ⟨_, _, _, _, _, _, _, _, _, rfl⟩

/-- The counts, rejects and faults of a call's end, on the block with its statistics added. -/
def Work.endCounts (w : Work) (d g : Nat) (sats wraps : Nat) (rej : List Rej) (unm : Bool) (fs : List Nat) : Work :=
  let w := ((w.countSat (.gc d g) sats).countWrap (.gc d g) wraps).enterRejects d g rej
  (if unm then w.unmappedBy d (w.planOf (.core d g)) 0 0 else w).countFurther (.gc d g) fs

theorem Work.onlyCallEnd_endCounts (w : Work) (d g sats wraps : Nat) (rej : List Rej) (unm : Bool) (fs : List Nat) :
    w.OnlyCallEnd (w.endCounts d g sats wraps rej unm fs) := by
  obtain ⟨r, e, hsat⟩ := w.countSat_gc d g sats
  obtain ⟨r', e', hwrap⟩ := (w.countSat (.gc d g) sats).countWrap_gc d g wraps
  obtain ⟨r'', rs, hrej⟩ := ((w.countSat (.gc d g) sats).countWrap (.gc d g) wraps).enterRejects_only d g rej
  unfold Work.endCounts
  dsimp only
  cases unm with
  | false =>
    rw [if_neg Bool.false_ne_true, hrej, hwrap, hsat]
    exact ⟨_, _, _, _, _, _, _, _, _, rfl⟩
  | true =>
    obtain ⟨r3, e3, ps, hunm⟩ := Work.unmappedBy_notes (((w.countSat (.gc d g) sats).countWrap (.gc d g) wraps).enterRejects d g rej) d
      ((((w.countSat (.gc d g) sats).countWrap (.gc d g) wraps).enterRejects d g rej).planOf (.core d g)) 0 0
    rw [if_pos rfl, hunm, hrej, hwrap, hsat]
    exact ⟨_, _, _, _, _, _, _, _, _, rfl⟩

/-- A call that worked on its rows ends with its statistics, its counts and its return. -/
theorem OAcc.finish_eq (x : OAcc) (d g : Nat) (o : OpRec) (rows : Nat) : x.finish d g o rows =
    ((x.w.addStats o.stats [x.rowsIn, rows, x.nulls, x.c3, x.c4, x.c5, x.c6, x.c7]).endCounts d g x.sats x.wraps x.rej.reverse
      x.unm x.met).callReturn d g (lowest x.met) (some rows) := by
  unfold OAcc.finish OAcc.met
  split <;> rfl

theorem OAcc.onlyCallEnd_finish (x : OAcc) (d g : Nat) (o : OpRec) (rows : Nat) : x.w.OnlyCallEnd (x.finish d g o rows) := by
  obtain ⟨j, h, a, e, hstats⟩ := x.w.addStats_only o.stats [x.rowsIn, rows, x.nulls, x.c3, x.c4, x.c5, x.c6, x.c7]
  have hcounts := Work.onlyCallEnd_endCounts (x.w.addStats o.stats [x.rowsIn, rows, x.nulls, x.c3, x.c4, x.c5, x.c6, x.c7]) d g
    x.sats x.wraps x.rej.reverse x.unm x.met
  rw [x.finish_eq]
  exact .trans ⟨_, _, _, _, _, _, _, _, _, hstats⟩ (hcounts.trans ⟨_, _, _, _, _, _, _, _, _, rfl⟩)

/-! ## Fields below the event registers -/

/-- The key lies in the device region below the priorities of the event sources, and in no die's block. -/
def LowKey (k : Nat) : Prop := devRegion * 8 ≤ k ∧ k < (devRegion + 0xC800) * 8

theorem LowKey.away {k : Nat} (h : LowKey k) : AwayFromEvents k := by
  intro n _
  have hrec : F.evtRecRecord.key 0 n = (devRegion + 0x10000 + n * 64) * 8 := rfl
  have hcount : F.evtPriCount.key 0 n = (devRegion + 0xC800 + n * 8) * 8 + 16 := rfl
  have hstate : F.evtPriState.key 0 n = (devRegion + 0xC800 + n * 8) * 8 + 13 := rfl
  rw [hrec, hcount, hstate]
  unfold LowKey at h
  omega

/-- A core's registers lie above. -/
theorem LowKey.ne_gc {k : Nat} (h : LowKey k) {f : Fld} (hf : f.reg.info.place = .gc) (d g : Nat) : f.key d g ≠ k := by
  have hkey : f.key d g = (dieBlock d + 0x2000000 + g * 0x1000 + f.reg.info.off) * 8 + f.lo := by
    simp only [Fld.key, Reg.addr, hf]
  have hdie : devRegion + 0x1000000 ≤ dieBlock d + 0x2000000 := by
    simp only [devRegion, dieBlock]
    omega
  rw [hkey]
  unfold LowKey at h
  omega

/-- So do the counts of a pipeline. -/
theorem LowKey.ne_bqStatRejLost {k : Nat} (h : LowKey k) (p : Nat) : F.bqStatRejLost.key 0 p ≠ k := by
  have hkey : F.bqStatRejLost.key 0 p = (devRegion + 135200 + p * 64) * 8 + F.bqStatRejLost.lo := rfl
  rw [hkey]
  unfold LowKey at h
  omega

theorem Work.sameAt_endCounts {k : Nat} (hk : LowKey k) (w : Work) (d g sats wraps : Nat) (rej : List Rej) (unm : Bool)
    (fs : List Nat) : w.SameAt k (w.endCounts d g sats wraps rej unm fs) := by
  have hsat : w.SameAt k (w.countSat (.gc d g) sats) := by
    unfold Work.countSat
    split
    · exact .refl k w
    · exact sameAt_wr (hk.ne_gc rfl d g) _ _
  have hwrap : ∀ v : Work, v.SameAt k (v.countWrap (.gc d g) wraps) := by
    intro v
    unfold Work.countWrap
    split
    · exact .refl k v
    · exact sameAt_wr (hk.ne_gc rfl d g) _ _
  have hrej : ∀ v : Work, v.SameAt k (v.enterRejects d g rej) := by
    intro v
    unfold Work.enterRejects Work.loseRejects
    dsimp only
    split
    · exact sameAt_of_regs rfl k
    · exact sameAt_wr (hk.ne_bqStatRejLost _) _ _
  refine (hsat.trans ((hwrap _).trans (hrej _))).trans ?_
  unfold Work.endCounts
  dsimp only
  split
  · exact (sameAt_unmappedBy hk.away ..).trans (sameAt_countFurther ..)
  · exact sameAt_countFurther ..

theorem OAcc.sameAt_finish {k : Nat} (hk : LowKey k) (x : OAcc) (d g : Nat) (o : OpRec) (rows : Nat) :
    x.w.SameAt k (x.finish d g o rows) := by
  obtain ⟨j, h, a, e, hstats⟩ := x.w.addStats_only o.stats [x.rowsIn, rows, x.nulls, x.c3, x.c4, x.c5, x.c6, x.c7]
  rw [x.finish_eq]
  exact (Work.sameAt_of_regs (congrArg (fun v : Work => v.regs) hstats) k).trans
    ((Work.sameAt_endCounts hk ..).trans (Work.sameAt_callReturn ..))

end Sys2Proof.Machine

/-! Embedding lookups and updates (chapter 13: R373, R379 to R386, R394). -/

namespace Sys2Proof.Machine

/-! ## Calls of a task (R379, R380, R385) -/

section
variable {s : State} {d g a : Nat} {bs : List Byte} {o : EmbRec}

/-- LOOKUP serves a record of its OP. -/
theorem RuntimeCall.exec_lookup (h : RuntimeCall s d g a bs) (ho : EmbRec.ofRec (BitVec.ofNat 512 (ofBytes bs)) = o)
    (hop : o.op = 0xD1) : exec (.lookup d g a) s = .next (s.on fun w => w.lookupOp d g o) := by
  subst ho
  show s.perform (.lookup d g a) _ = _
  refine State.perform_coreRow_eq_on _ h.wf h.runs ?_
  simp only [Work.embCall, h.reads, hop, Option.isSome_some, ne_eq, not_true_eq_false, and_false, if_false]

/-- UPDATE serves a record of its OP. -/
theorem RuntimeCall.exec_update (h : RuntimeCall s d g a bs) (ho : EmbRec.ofRec (BitVec.ofNat 512 (ofBytes bs)) = o)
    (hop : o.op = 0xD2) : exec (.update d g a) s = .next (s.on fun w => w.updateOp d g o) := by
  subst ho
  show s.perform (.update d g a) _ = _
  refine State.perform_coreRow_eq_on _ h.wf h.runs ?_
  simp only [Work.embCall, h.reads, hop, Option.isSome_some, ne_eq, not_true_eq_false, and_false, if_false]

theorem Work.lookupOp_of_fails {w : Work} {t : Option EmbTable} {x i : Option Desc} {fs : List Nat}
    (hc : w.lookupChecked (w.planOf (.core d g)) o = (t, x, i, fs)) (hfs : fs ≠ []) : w.lookupOp d g o = w.opFail d g fs := by
  obtain ⟨f, fs, rfl⟩ := List.exists_cons_of_ne_nil hfs
  simp only [Work.lookupOp, hc]

theorem Work.lookupOp_of_passes {w : Work} {t : EmbTable} {idx offs : Desc}
    (hc : w.lookupChecked (w.planOf (.core d g)) o = (some t, some idx, some offs, [])) :
    w.lookupOp d g o = w.lookupRun d g o t idx offs := by
  simp only [Work.lookupOp, hc]

/-- A LOOKUP that fails a check writes nothing, and returns the lowest failure. -/
theorem RuntimeCall.exec_lookup_of_fails (h : RuntimeCall s d g a bs) (ho : EmbRec.ofRec (BitVec.ofNat 512 (ofBytes bs)) = o)
    (hop : o.op = 0xD1) {t : Option EmbTable} {x i : Option Desc} {fs : List Nat}
    (hc : s.work.lookupChecked (s.work.planOf (.core d g)) o = (t, x, i, fs)) (hfs : fs ≠ []) :
    ∃ u, exec (.lookup d g a) s = .next u ∧ u.mem = s.mem ∧ u.emb = s.emb ∧
      (u.work.core d g).getX 10 = lowest fs % 2 ^ 64 := by
  have hexec : exec (.lookup d g a) s = .next (s.on fun w => w.opFail d g fs) :=
    (h.exec_lookup ho hop).trans (congrArg _ (State.on_congr (Work.lookupOp_of_fails hc hfs)))
  refine ⟨_, hexec, ?_, ?_, ?_⟩
  · rw [State.on_of_no_store rfl rfl]
  · rw [State.on_emb]
    rfl
  · rw [State.getX_core_on]
    exact Work.opFail_status ..

/-- UPDATE answers as its plan says, and a failing check leaves the embedding service as it was. -/
theorem RuntimeCall.exec_update_answers (h : RuntimeCall s d g a bs) (ho : EmbRec.ofRec (BitVec.ofNat 512 (ofBytes bs)) = o)
    (hop : o.op = 0xD2) {v : Work} (hv : (s.work.effecting d g).2 = v) :
    (∀ fs, v.updatePlan d g o (s.work.effecting d g).1 = .fails fs → ∃ u, exec (.update d g a) s = .next u ∧ u.mem = s.mem ∧
      u.emb = s.emb ∧ (u.work.core d g).getX 10 = lowest fs % 2 ^ 64) ∧
    (∀ run, v.updatePlan d g o (s.work.effecting d g).1 = .go run → ∃ u, exec (.update d g a) s = .next u ∧
      u = s.on (fun _ => (run v).1.finish d g o.asOp (run v).2) ∧ (u.work.core d g).getX 11 = (run v).2 % 2 ^ 64) := by
  have hjournal : s.work.OnlyJournal v := hv ▸ s.work.onlyJournal_effecting d g
  have hexec : exec (.update d g a) s =
      .next (s.on fun _ => v.opRun d g o.asOp (v.updatePlan d g o (s.work.effecting d g).1)) :=
    (h.exec_update ho hop).trans (congrArg _ (State.on_congr (by rw [← hv]; rfl)))
  obtain ⟨hfails, hgo⟩ := exec_opRun hjournal hexec
  constructor
  · intro fs hp
    obtain ⟨u, hnext, hu, hmem, hstatus, -⟩ := hfails fs hp
    refine ⟨u, hnext, hmem, ?_, hstatus⟩
    obtain ⟨x, rfl⟩ := hjournal
    rw [hu, State.on_emb]
    rfl
  · intro run hp
    obtain ⟨u, hnext, hu, -, hrows⟩ := hgo run hp
    exact ⟨u, hnext, hu, hrows⟩

end

/-! ## Parts of a lookup (R381, R383) -/

/-- What a LOOKUP that goes on can change: what the end of a call changes, its own record, and free values. -/
theorem Work.onlyDrawn_bagResult (w : Work) (t : EmbTable) (pool : Nat) (bs : List EmbBag) :
    w.OnlyDrawn (w.bagResult t pool bs).2 := by
  unfold Work.bagResult
  dsimp only
  split
  · exact .refl w
  · exact w.onlyDrawn_poolRows ..

/-- The elements of one bag stored. -/
def OAcc.storeBag (a : OAcc) (dst : Desc) (n b : Nat) (v : List Nat) : OAcc :=
  (List.range n).foldl (fun (a : OAcc) e =>
    let a := a.stores (dst.bitAddr [e, b])
    a.on (a.w.combineAt dst (dst.bitAddr [e, b]) (getAt 0 v e)).1) a

theorem OAcc.onlyDrawn_storeBag (a : OAcc) (dst : Desc) (n b : Nat) (v : List Nat) :
    a.w.OnlyDrawn (a.storeBag dst n b v).w := by
  refine foldl_keeps (R := fun a b : OAcc => a.w.OnlyDrawn b.w) (fun a => .refl a.w) (fun h k => h.trans k) (fun a e => ?_) _ a
  have hstored := ((a.stores (dst.bitAddr [e, b])).w.onlyBytes_combineAt dst (dst.bitAddr [e, b]) (getAt 0 v e)).drawn
  rw [a.stores_w] at hstored
  exact a.stores_w _ ▸ hstored

/-- The bags of a LOOKUP written into its output. -/
def OAcc.writeBags (a : OAcc) (t : EmbTable) (c : EmbCall) (dst : Desc) : OAcc :=
  (List.range c.count).foldl (fun (a : OAcc) b =>
    let r := a.w.bagResult t c.pool (c.bags.filter (fun x => x.bag = b))
    (a.on r.2).storeBag dst t.elems b r.1) a

theorem OAcc.onlyDrawn_writeBags (a : OAcc) (t : EmbTable) (c : EmbCall) (dst : Desc) :
    a.w.OnlyDrawn (a.writeBags t c dst).w :=
  foldl_keeps (R := fun a b : OAcc => a.w.OnlyDrawn b.w) (fun a => .refl a.w) (fun h k => h.trans k)
    (fun a _ => (a.w.onlyDrawn_bagResult ..).trans ((a.on _).onlyDrawn_storeBag ..)) _ a

/-- The parts outstanding, and a field below the event registers, stay as they are. -/
def Work.KeepsParts (k : Nat) (w v : Work) : Prop := v.emb.parts = w.emb.parts ∧ w.SameAt k v

theorem Work.KeepsParts.trans {k : Nat} {u v w : Work} (h : u.KeepsParts k v) (h' : v.KeepsParts k w) : u.KeepsParts k w :=
  ⟨h'.1.trans h.1, h.2.trans h'.2⟩

theorem Work.OnlyDrawn.keepsParts {w v : Work} (h : w.OnlyDrawn v) (k : Nat) : w.KeepsParts k v :=
  ⟨congrArg EmbSt.parts h.emb, Work.sameAt_of_regs h.regs k⟩

/-- A LOOKUP whose parts are in, before its bags are written: its record is given up, and its core goes on. -/
def Work.lookupStart (w : Work) (c : EmbCall) : OAcc :=
  { w := ({ w with emb := { w.emb with calls := w.emb.calls.filter (fun q => q.core ≠ c.core) } } : Work).setCore
      (c.core / 96) (c.core % 96) { w.core (c.core / 96) (c.core % 96) with wait := .none },
    fails := c.fails, rowsIn := c.count, nulls := c.nulls }

theorem Work.keepsParts_lookupStart {k : Nat} (w : Work) (c : EmbCall) : w.KeepsParts k (w.lookupStart c).w :=
  ⟨rfl, Work.sameAt_of_regs rfl k⟩

section
variable {k : Nat} (hk : LowKey k)
include hk

theorem OAcc.keepsParts_finish (x : OAcc) (d g : Nat) (o : OpRec) (rows : Nat) : x.w.KeepsParts k (x.finish d g o rows) := by
  refine ⟨?_, x.sameAt_finish hk d g o rows⟩
  obtain ⟨_, _, _, _, _, _, _, _, _, h⟩ := x.onlyCallEnd_finish d g o rows
  rw [h]

theorem Work.keepsParts_lookupFinish (w : Work) (c : EmbCall) : w.KeepsParts k (w.lookupFinish c) := by
  unfold Work.lookupFinish
  dsimp only
  split
  next t dst _ _ =>
    have hbags := ((w.lookupStart c).onlyDrawn_writeBags t c dst).keepsParts k
    exact (w.keepsParts_lookupStart c).trans (hbags.trans (OAcc.keepsParts_finish hk ..))
  next => exact ⟨rfl, Work.sameAt_of_regs rfl k⟩

theorem Work.keepsParts_lookupCheck (w : Work) (core : Nat) : w.KeepsParts k (w.lookupCheck core) := by
  have hlend : ∀ (p : Nat) (held : Held), w.KeepsParts k (w.lend p held) := by
    intro p held
    obtain ⟨sl, h⟩ := w.lend_only p held
    rw [h]
    exact ⟨rfl, .refl k w⟩
  unfold Work.lookupCheck
  split
  next c _ =>
    split
    · exact ⟨rfl, .refl k w⟩
    · exact (hlend c.plan c.held).trans ((Work.keepsParts_lookupFinish hk _ c).trans ⟨rfl, .refl k _⟩)
  next => exact ⟨rfl, .refl k w⟩

end

/-- A call whose batch has parts outstanding waits on. -/
theorem Work.lookupCheck_of_parts {w : Work} {core : Nat} (h : ∃ q ∈ w.emb.parts, q.core = core) : w.lookupCheck core = w := by
  have hany : w.emb.parts.any (fun p => decide (p.core = core)) = true := by simpa using h
  unfold Work.lookupCheck
  split
  · exact if_pos hany
  · rfl

theorem Work.lookupCall?_setLookupCall (w : Work) (c : EmbCall) : (w.setLookupCall c).lookupCall? c.core = some c :=
  List.find?_cons_of_pos (decide_eq_true rfl)

/-- The call found is that of the core. -/
theorem Work.core_of_lookupCall? {w : Work} {core : Nat} {c : EmbCall} (h : w.lookupCall? core = some c) : c.core = core :=
  of_decide_eq_true (List.find?_some (p := fun c : EmbCall => decide (c.core = core)) h)

/-- A part completed as zeros: its place given up, and the call noting the failure and the zeros. -/
def Work.partMissing (w : Work) (k : Nat) (p : EmbPart) : Work :=
  let w := ({ w with emb := { w.emb with parts := w.emb.parts.eraseIdx k } } : Work).bumpSat F.fabEmbStatMissing 0 0
  match w.lookupCall? p.core with
  | some c => w.setLookupCall { c with
      fails := setInsert c.fails sCheck
      bags := c.bags ++ p.left.map (fun b => EmbBag.mk b.1 0 (List.replicate (((w.table? c.table).map EmbTable.elems).getD 0) 0)) }
  | none => w

section
variable {s : State} {k : Nat} {p : EmbPart} (hp : s.emb.parts[k]? = some p)
include hp

theorem exec_lookupPartTimeout_of_early (ht : s.work.tickNo < p.tick + 2) : exec (.lookupPartTimeout k) s = .next s := by
  show s.perform (.lookupPartTimeout k) _ = _
  refine State.perform_unchanged rfl ?_
  rw [State.work_toBlock, hp]
  exact if_neg (by omega)

theorem exec_lookupPartTimeout_of_late (ht : p.tick + 2 ≤ s.work.tickNo) :
    exec (.lookupPartTimeout k) s = .next (s.on fun w => (w.partMissing k p).lookupCheck p.core) := by
  show s.perform (.lookupPartTimeout k) _ = _
  refine State.perform_eq_on _ rfl ?_
  rw [State.work_toBlock, hp]
  exact if_pos ht

end

theorem fabEmbStatMissing_low : LowKey (F.fabEmbStatMissing.key 0 0) := by unfold LowKey; decide

theorem Work.partMissing_parts (w : Work) (k : Nat) (p : EmbPart) :
    (w.partMissing k p).emb.parts = w.emb.parts.eraseIdx k := by
  unfold Work.partMissing
  dsimp only
  split <;> rfl

theorem Work.partMissing_count (w : Work) (k : Nat) (p : EmbPart) : (w.partMissing k p).dv F.fabEmbStatMissing =
    min (w.dv F.fabEmbStatMissing + 1) (2 ^ F.fabEmbStatMissing.w - 1) := by
  have hregs : (w.partMissing k p).regs = (w.bumpSat F.fabEmbStatMissing 0 0).regs := by
    unfold Work.partMissing
    dsimp only
    split <;> rfl
  have hrd : (w.partMissing k p).dv F.fabEmbStatMissing = (w.bumpSat F.fabEmbStatMissing 0 0).dv F.fabEmbStatMissing :=
    (Work.sameAt_of_regs hregs _).rd_eq
  rw [hrd, Work.bumpSat, Work.dv, Work.rd_wr_same]
  exact Nat.mod_eq_of_lt (lt_of_le_of_lt (Nat.min_le_right ..) (by decide))

theorem Work.partMissing_call {w : Work} {k : Nat} {p : EmbPart} {c : EmbCall} {t : EmbTable}
    (hc : w.lookupCall? p.core = some c) (ht : w.table? c.table = some t) :
    (w.partMissing k p).lookupCall? p.core = some { c with
      fails := setInsert c.fails sCheck
      bags := c.bags ++ p.left.map (fun b => EmbBag.mk b.1 0 (List.replicate t.elems 0)) } := by
  have hc' : (({ w with emb := { w.emb with parts := w.emb.parts.eraseIdx k } } : Work).bumpSat F.fabEmbStatMissing 0 0).lookupCall?
      p.core = some c := hc
  have ht' : (({ w with emb := { w.emb with parts := w.emb.parts.eraseIdx k } } : Work).bumpSat F.fabEmbStatMissing 0 0).table?
      c.table = some t := ht
  simp only [Work.partMissing, hc', ht', Option.map_some, Option.getD_some]
  rw [← Work.core_of_lookupCall? hc]
  exact Work.lookupCall?_setLookupCall ..

/-- LOOKUP_PART_TIMEOUT: before two ticks nothing; then the part is counted and completed as zeros. -/
theorem lookupPartTimeout_answers (s : State) (k : Nat) (p : EmbPart) (hp : s.emb.parts[k]? = some p) :
    (s.work.tickNo < p.tick + 2 → exec (.lookupPartTimeout k) s = .next s) ∧
    (p.tick + 2 ≤ s.work.tickNo → ∃ u, exec (.lookupPartTimeout k) s = .next u ∧ u.emb.parts = s.emb.parts.eraseIdx k ∧
      u.work.dv F.fabEmbStatMissing = min (s.work.dv F.fabEmbStatMissing + 1) (2 ^ F.fabEmbStatMissing.w - 1) ∧
      ∀ c t, s.work.lookupCall? p.core = some c → s.work.table? c.table = some t →
        (∃ q ∈ s.emb.parts.eraseIdx k, q.core = p.core) → u.work.lookupCall? p.core = some { c with
          fails := setInsert c.fails sCheck,
          bags := c.bags ++ p.left.map (fun b => EmbBag.mk b.1 0 (List.replicate t.elems 0)) }) := by
  refine ⟨exec_lookupPartTimeout_of_early hp, fun ht => ⟨_, exec_lookupPartTimeout_of_late hp ht, ?_, ?_, ?_⟩⟩
  · rw [State.on_emb, (Work.keepsParts_lookupCheck fabEmbStatMissing_low _ _).1, Work.partMissing_parts]
    rfl
  · rw [Work.dv, State.rd_on, (Work.keepsParts_lookupCheck fabEmbStatMissing_low _ _).2.rd_eq]
    exact s.work.partMissing_count k p
  · intro c t hc hct hq
    have hwaits : (s.work.partMissing k p).lookupCheck p.core = s.work.partMissing k p :=
      Work.lookupCheck_of_parts (by rw [Work.partMissing_parts]; exact hq)
    have hcall : ∀ v : Work, (s.on fun w => v).work.lookupCall? p.core = v.lookupCall? p.core := by
      intro v
      unfold Work.lookupCall?
      rw [State.work_toBlock, State.on_emb]
    rw [State.on_congr (g := fun _ => s.work.partMissing k p) hwaits, hcall]
    exact Work.partMissing_call hc hct

/-! ## EMB_POOLED (R381) -/

/-- Rows answered are taken off the parts of their own batch. -/
theorem mem_answered_of_other {tag bag n : Nat} {ps : List EmbPart} {q : EmbPart} (hq : q.tag ≠ tag) :
    q ∈ answered tag bag n ps ↔ q ∈ ps := by
  induction ps generalizing n with
  | nil => rfl
  | cons p ps ih =>
    simp only [answered]
    split
    next hp =>
      have hne : q ≠ p := fun h => hq (h ▸ hp)
      have hne' : ∀ left, q ≠ { p with left := left } := fun left h => hq (by rw [h]; exact hp)
      split <;> simp [ih, hne, hne']
    next => simp [ih]

/-- Some records of a batch taken off its parts: record k gives its bag and its rows. -/
def answeredAll (tag : Nat) (bagAt : Nat → Nat) (n : Nat) (ps : List EmbPart) : List EmbPart :=
  (List.range n).foldl (fun ps k => answered tag (fieldOf (bagAt k) 0 24) (fieldOf (bagAt k) 24 24) ps) ps

theorem mem_answeredAll_of_other {tag n : Nat} {bagAt : Nat → Nat} {ps : List EmbPart} {q : EmbPart} (hq : q.tag ≠ tag) :
    q ∈ answeredAll tag bagAt n ps ↔ q ∈ ps :=
  foldl_range_induction (P := fun _ qs => q ∈ qs ↔ q ∈ ps) n Iff.rfl fun _ _ h => (mem_answered_of_other hq).trans h

theorem Work.embPooledMsg_of_no_part {w : Work} {m : Msg}
    (h : w.emb.parts.any (fun p => decide (p.tag = (EmbHdr.ofBytes m.payload).tag)) = false) : w.embPooledMsg m = w := by
  have hnone : w.emb.parts.find? (fun p => decide (p.tag = (EmbHdr.ofBytes m.payload).tag)) = none := by
    simpa using h
  simp only [Work.embPooledMsg, hnone]

theorem Work.embPooledMsg_parts {w : Work} {m : Msg} {x : EmbHdr} {p : EmbPart} {t : EmbTable}
    (hx : EmbHdr.ofBytes m.payload = x) (hp : w.emb.parts.find? (fun p => decide (p.tag = x.tag)) = some p)
    (ht : w.table? x.table = some t) : (w.embPooledMsg m).emb.parts =
      answeredAll x.tag (fun k => leAt m.payload (32 + (8 + 4 * t.elems) * k) 8) x.count w.emb.parts := by
  simp only [Work.embPooledMsg, hx, hp, ht, (Work.keepsParts_lookupCheck fabEmbStatMissing_low _ _).1, List.foldl_map]
  split <;> rfl

/-! ## TABLE_ATTACH (R373) -/

theorem Work.override_emb (w : Work) (table row : Nat) : (w.override table row).1.emb = w.emb := by
  unfold Work.override
  dsimp only
  split
  · rfl
  · obtain ⟨r, e, m, h⟩ := w.onlyBanks_tableSearch (w.dv F.fabEmbCfgOvrDie) (w.dv F.fabEmbCfgOvrFirst) (w.dv F.fabEmbCfgOvrCount) 2
      (ovrKey table row)
    have hemb := congrArg (fun v : Work => v.emb) h
    exact hemb

/-- Finding a row's owner searches the override table. -/
theorem Work.ownerOf_emb (w : Work) (t : EmbTable) (row : Nat) : (w.ownerOf t row).1.emb = w.emb := by
  have h := w.override_emb t.id_ row
  unfold Work.ownerOf
  split
  next hov => rw [hov] at h; exact h
  next hov => rw [hov] at h; exact h

theorem Work.onlyBytes_storeRow (w : Work) (t : EmbTable) (s half : Nat) (bs : List Byte) (st : Nat) :
    w.OnlyBytes (w.storeRow t s half bs st) := by
  unfold Work.storeRow
  dsimp only
  split
  · exact (w.onlyBytes_write _ _).trans (onlyBytes_writeLE ..)
  · exact w.onlyBytes_write _ _

/-- A row inserted is stored, with its directory entry and its selector. -/
theorem Work.onlyBytes_insertRow {w v : Work} {t : EmbTable} {row st : Nat} {bs : List Byte}
    (h : w.insertRow t row bs st = some v) : w.OnlyBytes v := by
  obtain ⟨slot, _, rfl⟩ := Option.map_eq_some_iff.mp h
  have hrow := (w.onlyBytes_writeLE (t.entry slot) 8 row).trans (onlyBytes_storeRow _ t slot 0 bs st)
  dsimp only
  split
  · exact hrow.trans (onlyBytes_writeLE ..)
  · exact hrow

theorem Work.OnlyBytes.emb {w v : Work} (h : w.OnlyBytes v) : v.emb = w.emb := h.drawn.emb

theorem Work.loadPack_emb (w : Work) (t : EmbTable) : (w.loadPack t).emb = w.emb := by
  unfold Work.loadPack
  dsimp only
  split
  · rfl
  · refine foldl_range_induction (P := fun _ v => v.emb = w.emb) _ rfl fun k (v : Work) h => ?_
    have howner := (v.ownerOf_emb t ((v.readLE (fieldOf t.cfg 768 52 + k * (8 + t.rowBytes)) 8).getD 0)).trans h
    split
    · split
      next hins => exact (Work.onlyBytes_insertRow hins).emb.trans howner
      next => exact howner
    · exact howner

theorem Work.attachTable_tables (w : Work) (plan x : Nat) : (w.attachTable plan x).emb.tables =
    w.emb.tables ++ [⟨x, plan, w.tableSlot, w.tickNo + 1, false, [], [], 0⟩] := by
  unfold Work.attachTable
  dsimp only
  rw [Work.loadPack_emb]
  split
  · rw [(Work.onlyBytes_write ..).emb, (Work.onlyBytes_write ..).emb]
    rfl
  · rw [(Work.onlyBytes_write ..).emb]
    rfl

/-- A record that is new, fails no check and has rows is attached. -/
theorem Work.tableAttachRec_of_passes {w : Work} {plan x : Nat} (hnew : w.sameTable x = false)
    (hfs : w.attachFails plan x = []) (hrows : fieldOf x 64 41 ≠ 0) :
    w.tableAttachRec plan x = (sOk, w.attachTable plan x) := by
  simp only [Work.tableAttachRec, hnew, hfs, hrows, Bool.false_eq_true, if_false, List.isEmpty_nil, Bool.not_true]

/-- TABLE_ATTACH on a device that is not in REST. -/
theorem Work.tableAttachCmd_of_resolved {w v : Work} {m : Msg} (hauth : w.authorised m.h = true) (hlen : m.payload.length = 128)
    (hres : w.resolve objTable (fieldOf (ofBytes m.payload) 0 12) 0 m.h = some v) (hrest : v.devState ≠ stRest) :
    w.tableAttachCmd m = (((v.tableAttachRec firmwareTable (ofBytes m.payload)).2.markControl
      (v.tableAttachRec firmwareTable (ofBytes m.payload)).2.tickNo m []).ctrlDone m.h
      (v.tableAttachRec firmwareTable (ofBytes m.payload)).1 []) := by
  rw [Work.tableAttachCmd, if_pos hlen]
  dsimp only
  rw [Work.command_of_resolved hauth hres, if_neg hrest]

/-! ## EMB_LOOKUP (R381, R382, R394) -/

section
variable {w : Work} {m : Msg} {x : EmbHdr}

theorem Work.batches_of_no_batch (hbatch : w.batch? x.dev x.tag = none) :
    w.emb.batches.filter (fun b => !(decide (b.dev = x.dev) && decide (b.tag = x.tag))) = w.emb.batches :=
  List.filter_eq_self.mpr fun b hb => by
    simpa only [Bool.not_eq_true, Bool.not_eq_eq_eq_not, Bool.not_true] using List.find?_eq_none.mp hbatch b hb

/-- A frame of a longer batch is kept for the others. -/
theorem Work.joinBatch_of_longer (hbatch : w.batch? x.dev x.tag = none) (hparts : 1 < x.parts) (es : List (Nat × Nat)) :
    w.joinBatch x es = (none, { w with emb := { w.emb with
      batches := w.emb.batches ++ [⟨x.dev, x.tag, x.tick, [(x.part, es)]⟩] } }) := by
  simp only [Work.joinBatch, hbatch, Work.batches_of_no_batch hbatch, Option.map_none, Option.getD_none, List.filter_nil,
    List.nil_append, List.length_singleton, if_neg (Nat.not_le.mpr hparts)]

/-- A batch of one frame is there whole. -/
theorem Work.joinBatch_of_one (hbatch : w.batch? x.dev x.tag = none) (hparts : x.parts = 1) (es : List (Nat × Nat)) :
    w.joinBatch x es = (some es, w) := by
  simp only [Work.joinBatch, hbatch, Work.batches_of_no_batch hbatch, Option.map_none, Option.getD_none, List.filter_nil,
    List.nil_append, List.length_singleton, hparts, le_refl, if_true, List.flatMap_singleton]

section
variable {t : EmbTable} (hx : EmbHdr.ofBytes m.payload = x) (ht : w.table? x.table = some t) (hserves : t.serves ≤ w.tickNo)
  (hrest : w.devState ≠ stRest)
include hx ht hserves hrest

/-- A batch that is there whole is served. -/
theorem Work.embLookupMsg_of_whole {es : List (Nat × Nat)} {v : Work}
    (hjoin : w.joinBatch x (lookupEntries m.payload x.count) = (some es, v)) : w.embLookupMsg m = v.serveBatch t x m.h.tag es := by
  subst hx
  simp only [Work.embLookupMsg, ht, hrest, Nat.not_lt.mpr hserves, or_self, if_false, hjoin]

/-- Any other is kept. -/
theorem Work.embLookupMsg_of_waiting {v : Work} (hjoin : w.joinBatch x (lookupEntries m.payload x.count) = (none, v)) :
    w.embLookupMsg m = v := by
  subst hx
  simp only [Work.embLookupMsg, ht, hrest, Nat.not_lt.mpr hserves, or_self, if_false, hjoin]

end

theorem Work.embLookupMsg_of_no_table (h : w.table? (EmbHdr.ofBytes m.payload).table = none) : w.embLookupMsg m = w := by
  simp only [Work.embLookupMsg, h]

/-- A batch of one record travels in one frame. -/
theorem Work.embFrames_single (cls typ dev tag : Nat) (r : List Byte) : w.embFrames cls typ dev tag x [[r]] =
    w.embSend cls typ dev tag { x with part := 0, parts := 1, count := 1 } r := by
  unfold Work.embFrames
  show w.embSend cls typ dev tag { x with part := 0, parts := 1, count := 1 } (r ++ []) = _
  rw [List.append_nil]

theorem bagsOf_single (e : Nat × Nat) : bagsOf [e] = [(e.1, [e.2])] := by
  have h : [e.1].eraseDups = [e.1] := by simp [List.eraseDups_cons]
  have hsort : sortBy (fun a b => decide (a ≤ b)) [e.1] = [e.1] := rfl
  simp only [bagsOf, List.map_cons, List.map_nil, h, hsort, List.filter_cons, decide_true, if_true, List.filter_nil]

/-- An owner that has the one row of a batch pools it and answers. -/
theorem Work.serveBatch_one_here {t : EmbTable} {tag : Nat} {e : Nat × Nat} {v : Work} {q : List Nat × List Nat × Work}
    (hroute : w.lookupRoute t e.2 x.tick = (v, none)) (hpool : v.poolBag ((v.table? x.table).getD t) x.pool [e.2] = q) :
    w.serveBatch t x tag [e] = q.2.2.embSend clsResp 0x32 x.dev x.tag { x with part := 0, parts := 1, count := 1 }
      (toBytes 8 (e.1 + 2 ^ 24) ++ f32Bytes q.1) := by
  simp only [Work.serveBatch, List.foldl_cons, List.foldl_nil, hroute, List.nil_append, bagsOf_single, List.map_nil,
    List.eraseDups_nil, hpool, List.length_singleton, one_mul, packRecords, Work.embFrames_single]

/-- One of another owner goes on to it. -/
theorem Work.serveBatch_one_away {t : EmbTable} {tag dev : Nat} {e : Nat × Nat} {v : Work}
    (hroute : w.lookupRoute t e.2 x.tick = (v, some dev)) :
    w.serveBatch t x tag [e] = (v.countForward t).embSend clsReq 0x31 dev tag { x with part := 0, parts := 1, count := 1 }
      (lookupEntry e) := by
  have hdup : [dev].eraseDups = [dev] := by simp [List.eraseDups_cons]
  have hframes : splitEvery 1024 1 [lookupEntry e] = [[lookupEntry e]] := rfl
  have hbags : bagsOf [] = [] := rfl
  have hnone : ∀ u : Work, u.embFrames clsResp 0x32 x.dev x.tag x [] = u := fun _ => rfl
  simp only [Work.serveBatch, List.foldl_cons, List.foldl_nil, hroute, List.nil_append, List.map_cons, List.map_nil, hdup,
    hbags, hnone, packRecords, List.filter_cons, decide_true, if_true, List.filter_nil, List.length_singleton, hframes,
    Work.embFrames_single]

end

/-! ## EMB_UPDATE (R386) -/

section
variable {w : Work} {m : Msg} {x : EmbHdr} {t : EmbTable}

theorem Work.embUpdateMsg_of_no_table (h : w.table? (EmbHdr.ofBytes m.payload).table = none) : w.embUpdateMsg m = w := by
  simp only [Work.embUpdateMsg, h]

theorem Work.embUpdateMsg_of_rest (hx : EmbHdr.ofBytes m.payload = x) (ht : w.table? x.table = some t)
    (hrest : w.devState = stRest) : w.embUpdateMsg m = w.countDrop x.count := by
  subst hx
  simp only [Work.embUpdateMsg, ht, hrest, if_true]

/-- The gradient of a message of one entry is taken. -/
theorem Work.embUpdateMsg_of_one (hx : EmbHdr.ofBytes m.payload = x) (ht : w.table? x.table = some t)
    (hrest : w.devState ≠ stRest) (hcount : x.count = 1) :
    w.embUpdateMsg m = w.takeUpdate t (fieldOf (leAt m.payload 32 8) 0 40)
      ((List.range t.elems).map (fun e => leAt m.payload (40 + 4 * e) 4)) := by
  subst hx
  simp only [Work.embUpdateMsg, ht, hrest, if_false, hcount, List.range_one, List.foldl_cons, List.foldl_nil, mul_zero, add_zero]

end

/-! ## The step accumulator (R386) -/

theorem Work.writeAcc_emb (w : Work) (t : EmbTable) (a : EmbAcc) : (w.writeAcc t a).emb = w.emb := by
  have hsum := (w.onlyDrawn_fresh 128).trans ((w.fresh 128).2.onlyDrawn_sumRows t.elems a.grads)
  exact (hsum.trans ((Work.onlyBytes_writeLE ..).trans (Work.onlyBytes_write ..)).drawn).emb

theorem Work.mem_setTable {w : Work} {t : EmbTable} (ht : ∃ q ∈ w.emb.tables, q.slot = t.slot) : t ∈ (w.setTable t).emb.tables := by
  obtain ⟨q, hq, hslot⟩ := ht
  exact List.mem_map.mpr ⟨q, hq, if_pos hslot⟩

/-- A list shorter than a range leaves out a number of it. -/
theorem exists_range_not_mem (l : List Nat) : ∃ k ∈ List.range (l.length + 1), k ∉ l := by
  by_contra hall
  simp only [not_exists, not_and, not_not] at hall
  have hle := (List.subperm_of_subset List.nodup_range hall).length_le
  rw [List.length_range] at hle
  omega

/-- The entry that a new row of an epoch takes. -/
def freshEntry (mine : List EmbAcc) : Nat :=
  ((List.range (mine.length + 1)).find? (fun k => mine.all (fun a => a.entry ≠ k))).getD 0

theorem freshEntry_ne {mine : List EmbAcc} {a : EmbAcc} (ha : a ∈ mine) : a.entry ≠ freshEntry mine := by
  obtain ⟨k, hk, hfree⟩ := exists_range_not_mem (mine.map EmbAcc.entry)
  rw [List.length_map] at hk
  have hsome : ((List.range (mine.length + 1)).find? (fun k => mine.all (fun a => a.entry ≠ k))).isSome := by
    refine List.find?_isSome.mpr ⟨k, hk, List.all_eq_true.mpr fun b hb => decide_eq_true fun h => hfree ?_⟩
    exact h ▸ List.mem_map_of_mem hb
  obtain ⟨n, hn⟩ := Option.isSome_iff_exists.mp hsome
  have hall := List.find?_some (p := fun k => mine.all (fun a => decide (a.entry ≠ k))) hn
  have hentry : freshEntry mine = n := by rw [freshEntry, hn, Option.getD_some]
  exact hentry ▸ of_decide_eq_true (List.all_eq_true.mp hall a ha)

section
variable {w : Work} {t : EmbTable} {row : Nat}

theorem accOf_eq (w : Work) (t : EmbTable) (row : Nat) :
    (t.acc.filter (fun a => a.epoch = w.tickNo)).find? (fun a => decide (a.row = row)) =
      t.acc.find? (fun a => decide (a.epoch = w.tickNo) && decide (a.row = row)) := by
  simp only [List.find?_filter, Bool.decide_and, Bool.decide_eq_true]

/-- A gradient of a row that the epoch has already joins that row's. -/
theorem Work.accumulate_of_found (ht : t ∈ w.emb.tables) (g : List Nat) {a : EmbAcc}
    (ha : t.acc.find? (fun a => decide (a.epoch = w.tickNo) && decide (a.row = row)) = some a) :
    ∃ k ∈ (w.accumulate t row g).emb.tables, k.slot = t.slot ∧ { a with grads := a.grads ++ [g] } ∈ k.acc := by
  let k : EmbTable := { t with acc := t.acc.map (fun q => if q = a then { a with grads := a.grads ++ [g] } else q) }
  refine ⟨k, ?_, rfl, List.mem_map.mpr ⟨a, List.mem_of_find?_eq_some ha, if_pos rfl⟩⟩
  simp only [Work.accumulate, accOf_eq, ha, Work.writeAcc_emb]
  exact Work.mem_setTable (t := k) ⟨t, ht, rfl⟩

/-- One of a row that the epoch has not, while there is room, takes an entry that none of the epoch has. -/
theorem Work.accumulate_of_room (ht : t ∈ w.emb.tables) (g : List Nat)
    (hnew : t.acc.find? (fun a => decide (a.epoch = w.tickNo) && decide (a.row = row)) = none)
    (hroom : (t.acc.filter (fun a => a.epoch = w.tickNo)).length < t.updCap) :
    ∃ k ∈ (w.accumulate t row g).emb.tables, ∃ n, k.slot = t.slot ∧ k.acc = t.acc ++ [⟨w.tickNo, row, [g], n⟩] ∧
      ∀ a ∈ t.acc, a.epoch = w.tickNo → a.entry ≠ n := by
  let n := freshEntry (t.acc.filter (fun a => a.epoch = w.tickNo))
  let k : EmbTable := { t with acc := t.acc ++ [⟨w.tickNo, row, [g], n⟩] }
  refine ⟨k, ?_, n, rfl, rfl, fun a ha hep => freshEntry_ne (List.mem_filter.mpr ⟨ha, decide_eq_true hep⟩)⟩
  simp only [Work.accumulate, accOf_eq, hnew, if_pos hroom, Work.writeAcc_emb]
  exact Work.mem_setTable (t := k) ⟨t, ht, rfl⟩

/-- Past UPD_CAP it is discarded and counted. -/
theorem Work.accumulate_of_full (g : List Nat)
    (hnew : t.acc.find? (fun a => decide (a.epoch = w.tickNo) && decide (a.row = row)) = none)
    (hfull : t.updCap ≤ (t.acc.filter (fun a => a.epoch = w.tickNo)).length) : w.accumulate t row g = w.countDrop := by
  simp only [Work.accumulate, accOf_eq, hnew, if_neg (Nat.not_lt.mpr hfull)]

end

/-- Settles O48: calls by their records, messages by their tables, batches and accumulators. -/
theorem embeddingCalls : Obligations.EmbeddingCalls := by
  unfold Obligations.EmbeddingCalls
  refine ⟨⟨?_, ?_, ?_⟩, ?_, ?_, ?_, ?_⟩
  · intro s d g a bs hd hg ha hrun hrec
    have hcall : RuntimeCall s d g a bs := ⟨hd, hg, ha, hrun, hrec⟩
    refine ⟨fun hop => ⟨fun t x i fs => hcall.exec_lookup_of_fails rfl hop, fun t idx offs hc => ?_⟩,
      fun hop => hcall.exec_update_answers rfl hop rfl⟩
    exact (hcall.exec_lookup rfl hop).trans (congrArg _ (State.on_congr (Work.lookupOp_of_passes hc)))
  · intro s k p _ hp
    exact lookupPartTimeout_answers s k p hp
  · intro s h bs hwf htaken
    refine ⟨fun hnone => exec_of_taken_unchanged rfl hwf htaken (Work.embPooledMsg_of_no_part hnone), fun p t hp ht => ?_⟩
    have hparts := Work.embPooledMsg_parts (w := s.work) (m := ⟨h, bs⟩) rfl hp ht
    refine ⟨_, exec_of_taken rfl hwf htaken, ?_, fun q hq => ?_⟩
    · rw [State.on_emb]
      exact hparts
    · rw [State.on_emb, hparts]
      exact mem_answeredAll_of_other hq
  · intro s h bs w hwf horder hlen hres hrest
    refine ⟨?_, fun hnew hfs hrows => ?_⟩
    · exact exec_of_taken_eq rfl hwf horder.1 (Work.tableAttachCmd_of_resolved horder.2 hlen hres hrest)
    · rw [Work.tableAttachRec_of_passes hnew hfs hrows]
      exact ⟨rfl, Work.attachTable_tables ..⟩
  · intro s h bs hwf htaken
    refine ⟨fun hnone => exec_of_taken_unchanged rfl hwf htaken (Work.embLookupMsg_of_no_table hnone), ?_⟩
    intro t v q ht hserves hrest hbatch
    refine ⟨fun hparts => ?_, fun hparts hcount => ⟨fun hroute hpool => ?_, fun dev hroute => ?_⟩⟩
    · have hmsg := Work.embLookupMsg_of_waiting (w := s.work) (m := ⟨h, bs⟩) rfl ht hserves hrest
        (Work.joinBatch_of_longer hbatch hparts _)
      exact (exec_of_taken_eq rfl hwf htaken hmsg).trans (congrArg _ (State.on_of_no_store rfl rfl))
    all_goals
      have hmsg := Work.embLookupMsg_of_whole (w := s.work) (m := ⟨h, bs⟩) rfl ht hserves hrest
        (Work.joinBatch_of_one hbatch hparts _)
      rw [hcount] at hmsg
    · exact exec_of_taken_eq rfl hwf htaken (hmsg.trans (Work.serveBatch_one_here hroute hpool))
    · exact exec_of_taken_eq rfl hwf htaken (hmsg.trans (Work.serveBatch_one_away hroute))
  · intro s h bs hwf htaken
    refine ⟨fun hnone => exec_of_taken_unchanged rfl hwf htaken (Work.embUpdateMsg_of_no_table hnone),
      fun t ht hrest => ?_, fun t ht hrest hcount => ?_⟩
    · exact (exec_of_taken rfl hwf htaken).trans (congrArg _ (State.on_congr (Work.embUpdateMsg_of_rest rfl ht hrest)))
    · exact (exec_of_taken rfl hwf htaken).trans (congrArg _ (State.on_congr (Work.embUpdateMsg_of_one rfl ht hrest hcount)))
  · intro w t row g ht
    exact ⟨fun a ha => Work.accumulate_of_found ht g ha,
      fun hnew => ⟨Work.accumulate_of_room ht g hnew, Work.accumulate_of_full g hnew⟩⟩

end Sys2Proof.Machine

/-! Embedding rows replaced and moved (chapter 13: R389 to R397). -/

namespace Sys2Proof.Machine

/-- A message of its class and type for this device, which is no mirror, is given to its command. -/
theorem Work.arriveAs_of_here {w : Work} {h : KHdr} {bs : List Byte} (hmirror : w.isMirror = false)
    (hown : w.ownId h.dstDev = true) (hsess : h.dstSess = 0) (f : Work → Msg → Work) :
    w.arriveAs h.cls h.typ ⟨h, bs⟩ f = f w ⟨h, bs⟩ := by
  rw [Work.arriveAs, if_pos ⟨rfl, rfl⟩, Work.arrive]
  dsimp only
  split
  · rfl
  · simp only [hmirror, Bool.false_and, Bool.false_eq_true, if_false]

/-! ## Orders about a row (R389, R393, R518) -/

section
variable {w v : Work} {m : Msg} {t : EmbTable} {table row owner : Nat} (ht : v.table? table = some t)
  (hown : v.ownerOf t row = (w, owner))
include ht hown

/-- The owner of the row carries the order out. -/
theorem Work.atOwner_of_owner (hid : w.ownId owner = true) (f : Work → EmbTable → Work) : v.atOwner m table row f = f w t := by
  simp only [Work.atOwner, ht, hown, hid, if_true]

/-- Another device sends it on to the owner. -/
theorem Work.atOwner_of_other (hid : w.ownId owner = false) (f : Work → EmbTable → Work) :
    v.atOwner m table row f = w.route { m with h := { m.h with dstDev := owner } } := by
  simp only [Work.atOwner, ht, hown, hid, Bool.false_eq_true, if_false]

end

/-! ### ROW_REPLACE (R389 to R391) -/

theorem Work.onlyBytes_fillInactive (w : Work) (t : EmbTable) (row : Nat) (bs : List Byte) (st : Nat) :
    w.OnlyBytes (w.fillInactive t row bs st) := by
  have hput : w.OnlyBytes ((w.insertRow t row (List.replicate t.rowBytes 0) 0).getD w) := by
    cases hins : w.insertRow t row (List.replicate t.rowBytes 0) 0 with
    | none => exact .refl w
    | some v => exact Work.onlyBytes_insertRow hins
  unfold Work.fillInactive
  dsimp only
  split
  · split
    · exact w.onlyBytes_storeRow t _ _ bs st
    · exact hput.trans (Work.onlyBytes_storeRow ..)
  · split
    · exact .refl w
    · exact hput

theorem Work.OnlyBytes.tickNo {w v : Work} (h : w.OnlyBytes v) : v.tickNo = w.tickNo := by
  obtain ⟨j, d, a, rfl⟩ := h
  rfl

/-- What the owner does with a ROW_REPLACE that is well formed. -/
def Work.rowReplaceHere (w : Work) (m : Msg) (row : Nat) (t : EmbTable) : Work :=
  if w.replaceFails t row = [] then
    (if t.replaceable then w.fillInactive t row (m.payload.drop 20) (leAt m.payload 16 4) else w).setTable
      { t with repl := t.repl ++ [EmbRepl.mk row (leAt m.payload 16 4) (m.payload.drop 20) m.h w.tickNo] }
  else ((if (w.putSlot t row).isNone then w.countDrop else w).countFurther .mgmt (w.replaceFails t row)).ctrlDone m.h
    (lowest (w.replaceFails t row)) []

section
variable {s : State} {h : KHdr} {bs : List Byte} {v w : Work} {t : EmbTable} {owner : Nat}
  (hwf : (Instr.rowReplace h bs).wf = true) (horder : OrderHere 0x08 h s)
  (hres : s.work.resolve objRow (leAt bs 0 2 % 4096) (leAt bs 8 5) h = some v) (hrest : v.devState ≠ stRest)
  (ht : v.table? (leAt bs 0 2 % 4096) = some t) (hown : v.ownerOf t (leAt bs 8 5) = (w, owner))
include hwf horder hres hrest ht hown

/-- A device that does not own the row sends a ROW_REPLACE on. -/
theorem exec_rowReplace_of_other (hid : w.ownId owner = false) :
    exec (.rowReplace h bs) s = .next (s.on fun _ => w.route ⟨{ h with dstDev := owner }, bs⟩) := by
  refine exec_of_taken_eq rfl hwf horder.1 ?_
  rw [Work.rowReplaceCmd]
  dsimp only
  rw [Work.command_of_resolved horder.2 hres, if_neg hrest, Work.atOwner_of_other ht hown hid]

/-- The owner takes it, or answers the lowest failure. -/
theorem exec_rowReplace_of_owner (hid : w.ownId owner = true) (hlen : bs.length = 20 + t.rowBytes) (htable : leAt bs 0 8 < 4096)
    (hrow : leAt bs 8 8 < 2 ^ 40) (hrows : leAt bs 8 5 < t.rows) :
    exec (.rowReplace h bs) s = .next (s.on fun _ => w.rowReplaceHere ⟨h, bs⟩ (leAt bs 8 5) t) := by
  refine exec_of_taken_eq rfl hwf horder.1 ?_
  have htick : (if t.replaceable = true then w.fillInactive t (leAt bs 8 5) (bs.drop 20) (leAt bs 16 4) else w).tickNo =
      w.tickNo := by
    split
    · exact (w.onlyBytes_fillInactive ..).tickNo
    · rfl
  rw [Work.rowReplaceCmd]
  dsimp only
  rw [Work.command_of_resolved horder.2 hres, if_neg hrest, Work.atOwner_of_owner ht hown hid]
  simp only [hlen, htable, hrow, hrows, decide_true, Bool.and_true, Bool.true_and, chk, if_true, List.nil_append,
    List.isEmpty_iff, htick]
  rfl

end

/-! ### ROW_MIGRATE (R393) -/

section
variable {s : State} {h : KHdr} {bs : List Byte} {ns : Nat} {v w : Work} {t : EmbTable} {owner : Nat}

theorem Work.emb_attachedBy (w : Work) : w.attachedBy.2.emb = w.emb := rfl

/-- Every bit of a mask of ones is set. -/
theorem bitOf_ones {n i : Nat} (h : i < n) : bitOf (2 ^ n - 1) i = true := by
  have hbit := Nat.testBit_two_pow_sub_one n i
  rw [Nat.testBit_eq_decide_div_mod_eq] at hbit
  rw [bitOf, fieldOf, Nat.shiftRight_eq_div_pow, pow_one, hbit, decide_eq_true h]

section
variable {w : Work} {t : EmbTable} {row dest known all : Nat}

/-- Every failure of a migration but that of its destination shows with every device known to have the table. -/
theorem Work.migrateFails_of_attached (hall : bitOf all dest = true) (hbit : bitOf known dest = true) :
    w.migrateFails t row dest known = w.migrateFails t row dest all := by
  simp only [Work.migrateFails, hbit, hall]

theorem Work.migrateFails_of_detached (hbit : bitOf known dest = false) (hpass : w.migrateFails t row dest all = []) :
    w.migrateFails t row dest known = [sState] := by
  obtain ⟨-, hfree⟩ := List.append_eq_nil_iff.mp hpass
  rw [Work.migrateFails, hfree, List.append_nil]
  simp only [hbit, Bool.and_false, Bool.false_and, chk, Bool.false_eq_true, if_false]

theorem Work.migrateFails_ne_nil (hall : bitOf all dest = true) (hfs : w.migrateFails t row dest all ≠ []) :
    w.migrateFails t row dest known ≠ [] := by
  cases hbit : bitOf known dest with
  | true => exact Work.migrateFails_of_attached hall hbit ▸ hfs
  | false => simp [Work.migrateFails, hbit, chk]

end

/-- What the owner does with a ROW_MIGRATE that is well formed. -/
def Work.rowMigrateHere (w : Work) (h : KHdr) (t : EmbTable) (table row dest : Nat) : Work :=
  let known := w.attachedBy
  let fs := known.2.migrateFails t row dest known.1
  if fs = [] then { known.2 with emb := { known.2.emb with migs := known.2.emb.migs ++
    [⟨table, row, dest, w.tickNo + (if w.phase < guardStart w.period then 1 else 2), h, 0, sOk, 0⟩] } }
  else (known.2.countFurther .mgmt fs).ctrlDone h (lowest fs) []

theorem exec_rowMigrate_of_owner (hwf : (Instr.rowMigrate h bs ns).wf = true) (hcls : h.cls = 3) (htyp : h.typ = 9)
    (hmirror : (s.work.atNs ns).isMirror = false) (hdst : (s.work.atNs ns).ownId h.dstDev = true) (hsess : h.dstSess = 0)
    (hauth : (s.work.atNs ns).authorised h = true)
    (hres : (s.work.atNs ns).resolve objRow (leAt bs 0 2 % 4096) (leAt bs 8 5) h = some v) (hrest : v.devState ≠ stRest)
    (ht : v.table? (leAt bs 0 2 % 4096) = some t) (hown : v.ownerOf t (leAt bs 8 5) = (w, owner)) (hid : w.ownId owner = true)
    (hlen : bs.length = 16) (htable : leAt bs 0 8 < 4096) (hzero : leAt bs 13 1 = 0) (hdest : leAt bs 14 2 < 512)
    (hrows : leAt bs 8 5 < t.rows) : exec (.rowMigrate h bs ns) s =
      .next (s.on fun _ => w.rowMigrateHere h t (leAt bs 0 2 % 4096) (leAt bs 8 5) (leAt bs 14 2)) := by
  have hcmd : (s.work.atNs ns).rowMigrateCmd ⟨h, bs⟩ =
      w.rowMigrateHere h t (leAt bs 0 2 % 4096) (leAt bs 8 5) (leAt bs 14 2) := by
    rw [Work.rowMigrateCmd]
    dsimp only
    rw [Work.command_of_resolved hauth hres, if_neg hrest, Work.atOwner_of_owner ht hown hid]
    simp only [hlen, htable, hzero, hdest, hrows, Nat.mod_eq_of_lt hdest, decide_true, Bool.and_true, chk, if_true,
      List.nil_append, List.isEmpty_iff]
    rfl
  have harr := (Work.arriveAs_of_here (bs := bs) hmirror hdst hsess (fun w m => w.rowMigrateCmd m)).trans hcmd
  rw [hcls, htyp] at harr
  exact (State.perform_eq_on (i := .rowMigrate h bs ns) (fun _ => _) hwf harr)

end

/-! ## Copies and overrides (R394 to R396) -/

theorem Work.stageOverride_emb (w : Work) (o : EmbOvr) : (w.stageOverride o).2.emb = w.emb := by
  unfold Work.stageOverride
  dsimp only
  split
  · split
    · rfl
    · split <;> rfl
  · split
    · rfl
    · split <;> rfl

theorem Work.takeOverride_incoming (w : Work) (o : EmbOvr) (tick : Nat) : (w.takeOverride o tick).emb.incoming =
    w.emb.incoming.map (fun i => if i.table = o.table ∧ i.row = o.row then { i with confirmed := true } else i) := by
  unfold Work.takeOverride
  dsimp only
  split <;> split <;> simp only [Work.bumpSat, Work.wr, Work.stageOverride_emb]

theorem Work.takeOverride_migs (w : Work) (o : EmbOvr) (tick : Nat) : (w.takeOverride o tick).emb.migs = w.emb.migs := by
  unfold Work.takeOverride
  dsimp only
  split <;> split <;> simp only [Work.bumpSat, Work.wr, Work.stageOverride_emb]

/-- The row of a copy that has come, noted as stored or refused. -/
def Work.noteCopy (w v : Work) (m : Msg) (t : EmbTable) (stored : Bool) : Work :=
  let x := EmbHdr.ofBytes m.payload
  let row := leAt m.payload 32 5
  { v with emb := { v.emb with incoming := v.emb.incoming.filter (fun i => !(decide (i.table = x.table) && decide (i.row = row))) ++
    [⟨x.table, row, x.tick, false, stored, w.beforeInsert t row⟩] } }

/-- A copy acknowledged. -/
def Work.ackCopy (w : Work) (m : Msg) (st : Nat) : Work :=
  w.send ⟨w.hdrTo clsResp 2 (EmbHdr.ofBytes m.payload).dev 0 m.h.flow m.h.tag, toBytes 8 st⟩

section
variable {w : Work} {m : Msg} {t : EmbTable}
  (hin : (if w.devState = stRest then none else w.table? (EmbHdr.ofBytes m.payload).table) = some t)
include hin

theorem Work.embCopyMsg_of_stored {v : Work}
    (hv : w.insertRow t (leAt m.payload 32 5) (slice m.payload 40 t.rowBytes) (leAt m.payload (40 + t.rowBytes) 4) = some v) :
    w.embCopyMsg m = (w.noteCopy v m t true).ackCopy m sOk := by
  simp only [Work.embCopyMsg, hin, hv]
  rfl

theorem Work.embCopyMsg_of_full
    (hv : w.insertRow t (leAt m.payload 32 5) (slice m.payload 40 t.rowBytes) (leAt m.payload (40 + t.rowBytes) 4) = none) :
    w.embCopyMsg m = (w.noteCopy w m t false).ackCopy m sFull := by
  simp only [Work.embCopyMsg, hin, hv]
  rfl

end

/-! ## Steps of a migration (R394, R395, R397) -/

theorem Work.mem_setMig {w : Work} {m : EmbMig} (h : ∃ q ∈ w.emb.migs, q.table = m.table ∧ q.row = m.row) :
    m ∈ (w.setMig m).emb.migs := by
  obtain ⟨q, hq, hkey⟩ := h
  exact List.mem_map.mpr ⟨q, hq, if_pos hkey⟩

/-- The old owner gives a migration up. -/
theorem Work.abandon_count (w : Work) (m : EmbMig) (st : Nat) : (w.abandon m st).dv F.fabEmbStatMigAbandon =
    min (w.dv F.fabEmbStatMigAbandon + 1) (2 ^ F.fabEmbStatMigAbandon.w - 1) := by
  rw [Work.abandon, Work.bumpSat, Work.dv, Work.rd_wr_same]
  exact Nat.mod_eq_of_lt (lt_of_le_of_lt (Nat.min_le_right ..) (by decide))

section
variable {s : State} {table row : Nat} {m : EmbMig} {t : EmbTable} (hm : s.work.mig? table row = some m)
  (ht : s.work.table? table = some t)
include hm

theorem migrationAbandon_of_past (hphase : m.phase = 1) (hpast : s.work.guardPast m.tick = true) :
    exec (.migrationAbandon table row) s = .next (s.on fun w => w.abandon m sState) := by
  refine State.perform_eq_on (i := .migrationAbandon table row) _ rfl ?_
  simp only [hm, hphase, hpast, and_self, if_true]

theorem migrationAbandon_of_running (h : m.phase ≠ 1 ∨ s.work.guardPast m.tick = false) :
    exec (.migrationAbandon table row) s = .next s := by
  refine State.perform_unchanged (i := .migrationAbandon table row) rfl ?_
  have hnot : ¬ (m.phase = 1 ∧ s.work.guardPast m.tick = true) := by
    rintro ⟨hphase, hpast⟩
    rcases h with h | h
    · exact h hphase
    · rw [hpast] at h
      cases h
  simp only [hm, if_neg hnot]

include ht

theorem Work.migrateAcked_eq (stored : Bool) : s.work.migrateAcked table row stored =
    if m.phase ≠ 1 then s.work
    else if s.work.guardPast m.tick then s.work.abandon m sState
    else if !stored then s.work.abandon m sFull
    else
      let o := s.work.migOverride t m
      let known := (s.work.setMig { m with phase := 2 }).attachedBy
      let v := known.2.takeOverride ⟨table, row, o⟩ m.tick
      ((List.range 512).filter (fun dev => (bitOf known.1 dev || decide (dev = m.dest)) && !v.ownId dev)).foldl
        (fun w dev => w.embSend clsReq 0x35 dev 0 ⟨table, 0, o, 0, 0, m.tick, 0, 0⟩ (toBytes 8 row)) v := by
  simp only [Work.migrateAcked, hm, ht]

theorem migrationTombstone_of_due (hphase : m.phase = 3) (hdue : m.tick + 3 ≤ s.work.tickNo) :
    exec (.migrationTombstone table row) s = .next (s.on fun w =>
      { w.tombstone t row with emb := { w.emb with migs := w.emb.migs.filter (fun q => q ≠ m) } }) := by
  refine State.perform_eq_on (i := .migrationTombstone table row) _ rfl ?_
  simp only [hm, ht, hphase, hdue, and_self, if_true]

theorem migrationTombstone_of_early (h : m.phase ≠ 3 ∨ s.work.tickNo < m.tick + 3) :
    exec (.migrationTombstone table row) s = .next s := by
  refine State.perform_unchanged (i := .migrationTombstone table row) rfl ?_
  have hnot : ¬ (m.phase = 3 ∧ m.tick + 3 ≤ s.work.tickNo) := by omega
  simp only [hm, ht, if_neg hnot]

end

section
variable {s : State} {table row : Nat} {i : EmbIn} {t : EmbTable} (hm : s.work.mig? table row = none)
  (hi : s.work.incoming? table row = some i) (ht : s.work.table? table = some t)
include hm hi ht

/-- A new owner that has heard the override, or holds no row, or is before G, keeps what it has. -/
theorem migrationAbandon_of_kept (h : i.confirmed = true ∨ i.stored = false ∨ s.work.guardPast i.tick = false) :
    exec (.migrationAbandon table row) s = .next s := by
  refine State.perform_unchanged (i := .migrationAbandon table row) rfl ?_
  simp only [hm, hi, ht, if_pos h]

theorem migrationAbandon_of_unheard (hconf : i.confirmed = false) (hstored : i.stored = true)
    (hpast : s.work.guardPast i.tick = true) : exec (.migrationAbandon table row) s =
      .next (s.on fun w => (({ w with emb := { w.emb with incoming := w.emb.incoming.map (fun q =>
        if q = i then { i with stored := false, undo := [] } else q) } } : Work).setTable
          { t with acc := t.acc.filter (fun a => a.row ≠ row) }).putBack i.undo) := by
  refine State.perform_eq_on (i := .migrationAbandon table row) _ rfl ?_
  simp only [hm, hi, ht, hconf, hstored, hpast, Bool.false_eq_true, Bool.true_eq_false, or_self, if_false]

end

/-- Settles O49: orders about a row at its owner, and each step of a migration by its phase. -/
theorem rowsReplacedAndMoved : Obligations.RowsReplacedAndMoved := by
  unfold Obligations.RowsReplacedAndMoved
  refine ⟨?_, ?_, ?_, ?_, ?_⟩
  · intro s h bs ns v w t owner hwf
    refine ⟨fun horder hres hrest ht hown => ⟨exec_rowReplace_of_other hwf horder hres hrest ht hown,
      fun hid hlen htable hrow hrows => ?_⟩, ?_⟩
    · have hexec := exec_rowReplace_of_owner hwf horder hres hrest ht hown hid hlen htable hrow hrows
      refine ⟨fun hpass => hexec.trans ?_, fun hfs => hexec.trans ?_⟩
      · rw [Work.rowReplaceHere, if_pos hpass]
      · rw [Work.rowReplaceHere, if_neg hfs]
    · intro hcls htyp hmirror hdst hsess hauth hres hrest ht hown hid hlen htable hzero hdest hrows
      have hexec := exec_rowMigrate_of_owner (ns := ns) hwf hcls htyp hmirror hdst hsess hauth hres hrest ht hown hid hlen htable
        hzero hdest hrows
      refine ⟨fun hpass => ⟨_, hexec, fun hbit => ?_, fun hbit => ?_⟩, fun hfs => hexec.trans ?_⟩
      · rw [State.on_emb, Work.rowMigrateHere, if_pos ((Work.migrateFails_of_attached (bitOf_ones hdest) hbit).trans hpass)]
        rfl
      · rw [Work.rowMigrateHere, Work.migrateFails_of_detached hbit hpass]
        rfl
      · rw [Work.rowMigrateHere, if_neg (Work.migrateFails_ne_nil (bitOf_ones hdest) hfs)]
  · intro s h bs t hwf htaken x row ack hrest ht note
    have hin : (if s.work.devState = stRest then none else s.work.table? x.table) = some t := (if_neg hrest).trans ht
    refine ⟨fun w hw => exec_of_taken_eq rfl hwf htaken ?_, fun hw => ?_⟩
    · exact Work.embCopyMsg_of_stored hin hw
    · exact (exec_of_taken rfl hwf htaken).trans (congrArg _ (State.on_congr (Work.embCopyMsg_of_full hin hw)))
  · intro s h bs hwf htaken
    have hexec := exec_of_taken (i := .embOverride h bs) rfl hwf htaken
    refine ⟨hexec, fun i hi htable hrow => ⟨_, hexec, ?_⟩⟩
    rw [State.on_emb, Work.embOverrideMsg, Work.takeOverride_incoming]
    exact List.mem_map.mpr ⟨i, hi, if_pos ⟨htable, hrow⟩⟩
  · intro s table row m t _ hm ht
    have hmem : m ∈ s.work.emb.migs := List.mem_of_find?_eq_some hm
    have hack : ∀ ok v, s.work.migrateAcked table row ok = v → exec (.migrateAck table row ok) s = .next (s.on fun _ => v) :=
      fun ok v hv => State.perform_eq_on (i := .migrateAck table row ok) _ rfl hv
    refine ⟨fun hphase ok => ?_, fun hphase hpast ok => ?_, fun hphase hpast => ⟨?_, ?_, ?_⟩, fun hphase hpast => ?_,
      migrationAbandon_of_running hm, migrationTombstone_of_due hm ht, migrationTombstone_of_early hm ht⟩
    · refine State.perform_unchanged (i := .migrateAck table row ok) rfl ?_
      rw [Work.migrateAcked_eq hm ht, if_pos hphase]
    · refine (hack ok _ ?_).trans (congrArg _ (State.on_congr rfl))
      rw [Work.migrateAcked_eq hm ht, if_neg (not_not.mpr hphase), if_pos hpast]
    · refine (hack false _ ?_).trans (congrArg _ (State.on_congr rfl))
      rw [Work.migrateAcked_eq hm ht, if_neg (not_not.mpr hphase), hpast]
      rfl
    · rw [Work.takeOverride_migs]
      exact Work.mem_setMig ⟨m, hmem, rfl, rfl⟩
    · refine hack true _ ?_
      rw [Work.migrateAcked_eq hm ht, if_neg (not_not.mpr hphase), hpast]
      rfl
    · refine ⟨_, migrationAbandon_of_past hm hphase hpast, ?_, ?_⟩
      · rw [State.on_emb]
        exact Work.mem_setMig ⟨m, hmem, rfl, rfl⟩
      · rw [Work.dv, State.rd_on]
        exact s.work.abandon_count m sState
  · intro s table row i t _ hm hi ht
    exact ⟨migrationAbandon_of_kept hm hi ht, migrationAbandon_of_unheard hm hi ht⟩

end Sys2Proof.Machine

/-! Fences and degradation (chapters 21 and 22: R545, R546, R554, R556): what they leave alone, and fields of a die. -/

namespace Sys2Proof.Machine

/-! ## Fields of a die -/

/-- The key lies outside the device region. -/
def OutsideDev (k : Nat) : Prop := k < devRegion * 8 ∨ (devRegion + 0x1000000) * 8 ≤ k

theorem Fld.key_of_die {f : Fld} (hplace : f.reg.info.place = .die) (d i : Nat) :
    f.key d i = (dieBlock d + f.reg.info.off) * 8 + f.lo := by
  simp only [Fld.key, Reg.addr, hplace]

/-- The registers of a die lie outside, below the device region or above it. -/
theorem outsideDev_die {f : Fld} (hplace : f.reg.info.place = .die) (hoff : f.reg.info.off < 0x10000) (hlo : f.lo < 64) (d i : Nat) :
    OutsideDev (f.key d i) := by
  rw [f.key_of_die hplace]
  simp only [OutsideDev, dieBlock, devRegion]
  omega

theorem OutsideDev.ne {k : Nat} (h : OutsideDev k) {f : Fld} (hplace : f.reg.info.place = .dev) {i : Nat}
    (hoff : f.reg.info.off + i * f.reg.info.stride + f.lo / 8 < 0x1000000) (d : Nat) : f.key d i ≠ k := by
  rw [f.key_of_dev hplace]
  simp only [OutsideDev, devRegion] at h ⊢
  omega

theorem OutsideDev.away {k : Nat} (h : OutsideDev k) : AwayFromEvents k := by
  intro n hn
  have hrec : F.evtRecRecord.key 0 n = (devRegion + 0x10000 + n * 64) * 8 := rfl
  have hcount : F.evtPriCount.key 0 n = (devRegion + 0xC800 + n * 8) * 8 + 16 := rfl
  have hstate : F.evtPriState.key 0 n = (devRegion + 0xC800 + n * 8) * 8 + 13 := rfl
  rw [hrec, hcount, hstate]
  simp only [OutsideDev, devRegion] at h ⊢
  omega

/-- Two fields of one die at other places have other keys. -/
theorem Fld.key_ne_of_die {f g : Fld} (hf : f.reg.info.place = .die) (hg : g.reg.info.place = .die)
    (h : f.reg.info.off * 8 + f.lo ≠ g.reg.info.off * 8 + g.lo) (d i j : Nat) : f.key d i ≠ g.key d j := by
  rw [f.key_of_die hf, g.key_of_die hg]
  omega

/-! ## Fence log, and units lost (R545, R546, R554) -/

theorem Work.flashWrite_only (w : Work) (a : Nat) (bs : List Byte) : ∃ f, w.flashWrite a bs = { w with flash := f } := by
  induction bs generalizing w a with
  | nil => exact ⟨w.flash, rfl⟩
  | cons b bs ih =>
    obtain ⟨f, hf⟩ := ih { w with flash := smSet flashErased w.flash a b } (a + 1)
    exact ⟨f, hf⟩

/-- Nothing but registers, the watcher's note, the spares' state and the flash differs. -/
def Work.OnlyFence (w v : Work) : Prop := ∃ r e x f, v = { w with regs := r, evt := e, spr := x, flash := f }

theorem Work.OnlyFence.trans {u v w : Work} (h : u.OnlyFence v) (k : v.OnlyFence w) : u.OnlyFence w := by
  obtain ⟨_, _, _, _, rfl⟩ := h
  obtain ⟨_, _, _, _, rfl⟩ := k
  exact ⟨_, _, _, _, rfl⟩

theorem Work.OnlyNotes.fence {w v : Work} (h : w.OnlyNotes v) : w.OnlyFence v := by
  obtain ⟨r, e, rfl⟩ := h
  exact ⟨r, e, w.spr, w.flash, rfl⟩

theorem Work.onlyFence_wr (w : Work) (f : Fld) (d i v : Nat) : w.OnlyFence (w.wr f d i v) := ⟨_, w.evt, w.spr, w.flash, rfl⟩

theorem Work.onlyFence_logWrite (w : Work) (r : Nat) : w.OnlyFence (w.logWrite r) := by
  obtain ⟨f, hf⟩ := w.flashWrite_only (fenceLogBase + 32 * w.spr.logPos) (toBytes 32 r)
  unfold Work.logWrite
  split
  · dsimp only
    rw [hf]
    split <;> exact ⟨_, _, _, _, rfl⟩
  · exact ⟨_, _, _, _, rfl⟩

theorem Work.onlyFence_logFence (w : Work) (r : Nat) : w.OnlyFence (w.logFence r) := by
  unfold Work.logFence
  split
  · split
    · exact ⟨_, _, _, _, rfl⟩
    · exact ⟨w.regs, w.evt, w.spr, w.flash, rfl⟩
  · exact w.onlyFence_logWrite r

theorem Work.onlyFence_noSpare (w : Work) (kind die n cause part : Nat) : w.OnlyFence (w.noSpare kind die n cause part) :=
  (w.onlyFence_logFence _).trans ((Work.onlyFence_wr ..).trans (Work.onlyNotes_event ..).fence)

theorem Work.onlyFence_degrade (w : Work) (d : Nat) : w.OnlyFence (w.degrade d) := by
  unfold Work.degrade
  dsimp only
  split
  · exact (w.onlyFence_wr ..).trans (Work.onlyNotes_setDevState ..).fence
  · exact w.onlyFence_wr ..

/-- The key lies outside the fields of SPR_LOG that a record of the fence log changes. -/
structure AwayFromLog (k : Nat) : Prop where
  records : F.sprLogRecords.key 0 0 ≠ k
  full : F.sprLogFull.key 0 0 ≠ k
  pending : F.sprLogPending.key 0 0 ≠ k

theorem OutsideDev.log {k : Nat} (h : OutsideDev k) : AwayFromLog k :=
  ⟨h.ne rfl (by decide) 0, h.ne rfl (by decide) 0, h.ne rfl (by decide) 0⟩

theorem Work.sameAt_logWrite {k : Nat} (hk : AwayFromLog k) (w : Work) (r : Nat) : w.SameAt k (w.logWrite r) := by
  obtain ⟨f, hf⟩ := w.flashWrite_only (fenceLogBase + 32 * w.spr.logPos) (toBytes 32 r)
  unfold Work.logWrite
  split
  · dsimp only
    rw [hf]
    split
    · exact .trans (v := Work.bump { w with flash := f, spr := { w.spr with logPos := w.spr.logPos + 1 } } F.sprLogRecords 0 0)
        (sameAt_wr hk.records _ _) (sameAt_wr hk.full _ _)
    · exact sameAt_wr hk.records ({ w with flash := f, spr := { w.spr with logPos := w.spr.logPos + 1 } } : Work) _
  · exact sameAt_wr hk.full w 1

theorem Work.sameAt_logFence {k : Nat} (hk : AwayFromLog k) (w : Work) (r : Nat) : w.SameAt k (w.logFence r) := by
  unfold Work.logFence
  split
  · split
    · exact sameAt_wr hk.pending ({ w with spr := { w.spr with heldRecs := w.spr.heldRecs ++ [r] } } : Work) _
    · exact .refl k w
  · exact w.sameAt_logWrite hk r

/-- Of the spares' state a record of the fence log changes only the log's own. -/
theorem Work.spr_logFence (w : Work) (r : Nat) :
    ∃ n held un, (w.logFence r).spr = { w.spr with logPos := n, heldRecs := held, unlogged := un } := by
  obtain ⟨f, hf⟩ := w.flashWrite_only (fenceLogBase + 32 * w.spr.logPos) (toBytes 32 r)
  unfold Work.logFence Work.logWrite
  split
  · split
    · exact ⟨_, _, _, rfl⟩
    · exact ⟨w.spr.logPos, w.spr.heldRecs, w.spr.unlogged, rfl⟩
  · split
    · dsimp only
      rw [hf]
      split <;> exact ⟨_, _, _, rfl⟩
    · exact ⟨_, _, _, rfl⟩

section
variable {k : Nat} (hk : OutsideDev k)
include hk

theorem Work.sameAt_noSpare {die : Nat} (hfenced : F.sprMapFenced.key die 0 ≠ k) (w : Work) (kind n cause part : Nat) :
    w.SameAt k (w.noSpare kind die n cause part) :=
  (w.sameAt_logFence hk.log _).trans ((sameAt_wr hfenced _ _).trans (sameAt_event hk.away ..))

theorem Work.sameAt_degrade {d : Nat} (hdeg : F.sprMapDegraded.key d 0 ≠ k) (w : Work) : w.SameAt k (w.degrade d) := by
  have hstate : F.rstStateState.key 0 0 ≠ k := hk.ne rfl (by decide) 0
  unfold Work.degrade
  dsimp only
  split
  · exact (sameAt_wr hdeg w 1).trans (sameAt_setDevState hk.away hstate ..)
  · exact sameAt_wr hdeg w 1

end

theorem sprMapDegraded_outsideDev (d : Nat) : OutsideDev (F.sprMapDegraded.key d 0) := outsideDev_die rfl (by decide) (by decide) d 0

/-- A die that is degraded shows it (R556). -/
theorem Work.degrade_shown (w : Work) (d : Nat) : (w.degrade d).rd F.sprMapDegraded d 0 = 1 := by
  have hk := sprMapDegraded_outsideDev d
  have hwr : (w.wr F.sprMapDegraded d 0 1).rd F.sprMapDegraded d 0 = 1 := Work.rd_wr_same ..
  unfold Work.degrade
  dsimp only
  split
  · exact (Work.sameAt_setDevState hk.away (hk.ne (f := F.rstStateState) rfl (by decide) 0) _ _).rd_eq.trans hwr
  · exact hwr

end Sys2Proof.Machine

/-! Decanter and press jobs (chapter 14: R400, R401, R404, R422, R426). -/

namespace Sys2Proof.Machine

/-! ## The rows of a decanter and of a press -/

/-- The command of a unit's row: ENCODE for a press, DECODE for a decanter. -/
def jobRow (press : Bool) (src : JobSource) : Instr := if press then .encode src else .decode src

/-- The OPs that a unit's row serves: 0xE2 is a press's, any other a decanter's. -/
def jobWants (press : Bool) (op : Nat) : Bool := if press then decide (op = 0xE2) else decide (op ≠ 0xE2)

section
variable {press : Bool} {s : State}

theorem exec_jobRow_firmware {mc die : Nat} (hmc : mc < 4) (hdie : die < 4) (r : Rec) :
    exec (jobRow press (.firmware mc die r)) s = .next (s.on fun w => w.jobWrite mc die press r) := by
  have hwf : (decide (mc < 4) && decide (die < 4)) = true := by simp [hmc, hdie]
  cases press
  · exact State.perform_wf (i := .decode (.firmware mc die r)) hwf
  · exact State.perform_wf (i := .encode (.firmware mc die r)) hwf

theorem exec_jobRow_core {d g a : Nat} (hd : d < 4) (hg : g < 96) (ha : a < 2 ^ 64) (hruns : s.work.coreRuns d g = true) :
    exec (jobRow press (.core d g a)) s = .next (s.on fun w => w.jobCall d g a (jobWants press)) := by
  have hwf : (decide (d < 4) && decide (g < 96) && decide (a < 0x10000000000000000)) = true := by
    simpa using ⟨⟨hd, hg⟩, ha⟩
  cases press
  · exact State.perform_coreRow_eq_on (i := .decode (.core d g a)) _ hwf hruns rfl
  · exact State.perform_coreRow_eq_on (i := .encode (.core d g a)) _ hwf hruns rfl

end

/-! ## Units -/

@[simp] theorem Work.codec_setCodec (w : Work) (d : Nat) (press : Bool) (x : Codec) : (w.setCodec d press x).codec d press = x :=
  smGet_smSet_same ..

theorem State.codec_on (f : Work → Work) (s : State) (d : Nat) (press : Bool) :
    (s.on f).work.codec d press = (f s.work).codec d press := by
  unfold Work.codec
  rw [State.work_toBlock, State.on_codecs]

/-- Job k is in the queue or in a lane, whatever its ratio limit. -/
def Codec.Has (x : Codec) (k : Job) : Prop :=
  ∃ lim, { k with limit := lim } ∈ x.queue ∨ ∃ l, (l, { k with limit := lim }) ∈ x.lanes

/-- Jobs queued and in lanes. -/
def Codec.jobs (x : Codec) : Nat := x.queue.length + x.lanes.length

/-- Nothing but the units differs, no job is lost or made, and each that was queued or in a lane still is. -/
def Work.OnlyStarts (d : Nat) (press : Bool) (w v : Work) : Prop :=
  (∃ c, v = { w with codecs := c }) ∧ (v.codec d press).jobs = (w.codec d press).jobs ∧
    ∀ k, (w.codec d press).Has k → (v.codec d press).Has k

theorem Work.OnlyStarts.refl (d : Nat) (press : Bool) (w : Work) : w.OnlyStarts d press w :=
  ⟨⟨w.codecs, rfl⟩, rfl, fun _ h => h⟩

theorem Work.OnlyStarts.trans {d : Nat} {press : Bool} {u v w : Work} (h : u.OnlyStarts d press v) (h' : v.OnlyStarts d press w) :
    u.OnlyStarts d press w := by
  obtain ⟨⟨c, rfl⟩, hjobs, hhas⟩ := h
  obtain ⟨⟨c', rfl⟩, hjobs', hhas'⟩ := h'
  exact ⟨⟨c', rfl⟩, hjobs'.trans hjobs, fun k hk => hhas' k (hhas k hk)⟩

/-- The job at the front of a queue starts in a lane. -/
theorem Work.onlyStarts_front {w : Work} {d : Nat} {press : Bool} {x : Codec} {j : Job} {js : List Job} (l lim : Nat)
    (hx : w.codec d press = x) (hq : x.queue = j :: js) :
    w.OnlyStarts d press (w.setCodec d press { x with queue := js, lanes := x.lanes ++ [(l, { j with limit := lim })] }) := by
  refine ⟨⟨_, rfl⟩, ?_, fun k hk => ?_⟩
  · simp only [Work.codec_setCodec, Codec.jobs, hx, hq, List.length_cons, List.length_append, List.length_nil]
    omega
  · rw [Work.codec_setCodec]
    rw [hx] at hk
    obtain ⟨lim', hqueue | ⟨l', hlane⟩⟩ := hk
    · rw [hq, List.mem_cons] at hqueue
      rcases hqueue with hj | hjs
      · exact ⟨lim, .inr ⟨l, List.mem_append_right _ (by simp [← hj])⟩⟩
      · exact ⟨lim', .inl hjs⟩
    · exact ⟨lim', .inr ⟨l', List.mem_append_left _ hlane⟩⟩

/-- Starting jobs moves them from the queue to free lanes. -/
theorem Work.onlyStarts_startJobs (w : Work) (d : Nat) (press : Bool) : w.OnlyStarts d press (w.startJobs d press) := by
  refine foldl_keeps (R := Work.OnlyStarts d press) (.refl d press) (.trans) (fun v l => ?_) _ w
  dsimp only
  split
  next j js hq =>
    split
    · exact .refl d press v
    · exact v.onlyStarts_front l _ rfl hq
  next => exact .refl d press v

/-! ## The end of a job -/

theorem Work.onlyCallEnd_jobReturn (w : Work) (d : Nat) (j : Job) (st n : Nat) : w.OnlyCallEnd (w.jobReturn d j st n) := by
  unfold Work.jobReturn
  split
  · exact ⟨_, _, _, _, _, _, _, _, _, rfl⟩
  · split <;> exact ⟨_, _, _, _, _, _, _, _, _, rfl⟩

theorem Work.onlyCallEnd_countJob (w : Work) (d : Nat) (press : Bool) (fs : List Nat) : w.OnlyCallEnd (w.countJob d press fs) := by
  unfold Work.countJob
  dsimp only
  split
  · split
    · exact ⟨_, _, _, _, _, _, _, _, _, rfl⟩
    · split <;> exact ⟨_, _, _, _, _, _, _, _, _, rfl⟩
  · split <;> exact ⟨_, _, _, _, _, _, _, _, _, rfl⟩

theorem Work.onlyCallEnd_completion (w : Work) (d p a n : Nat) (bs : List Byte) : w.OnlyCallEnd (w.completion d p a n bs) := by
  unfold Work.completion
  dsimp only
  split
  · exact ⟨_, _, _, _, _, _, _, _, _, rfl⟩
  · split
    · obtain ⟨j, h, a, hw⟩ := w.onlyBytes_write (a - a % n) bs
      exact ⟨_, _, j, h, a, _, _, _, _, hw⟩
    · obtain ⟨r, e, ps, h⟩ := w.unmappedBy_notes d p 256 (a - a % n)
      exact ⟨r, e, _, _, _, _, _, ps, _, h⟩

theorem Work.onlyCallEnd_jobEnd (w : Work) (d : Nat) (press : Bool) (j : Job) (e : JobEnd) : w.OnlyCallEnd (w.jobEnd d press j e) := by
  unfold Work.jobEnd
  dsimp only
  split
  · exact (w.onlyCallEnd_countJob ..).trans (Work.onlyCallEnd_jobReturn ..)
  · exact (w.onlyCallEnd_countJob ..).trans ((Work.onlyCallEnd_completion ..).trans (Work.onlyCallEnd_jobReturn ..))

/-- The key lies outside the device region, and is none of those that count the jobs of die d. -/
structure OutsideJobs (d k : Nat) : Prop where
  outside : OutsideDev k
  decJobsOk : F.decStatJobsOk.key d 0 ≠ k
  decJobsFail : F.decStatJobsFail.key d 0 ≠ k
  decRatio : F.decStatRatio.key d 0 ≠ k
  prsJobsOk : F.prsStatJobsOk.key d 0 ≠ k
  prsNoGain : F.prsStatNoGain.key d 0 ≠ k
  prsJobsFail : F.prsStatJobsFail.key d 0 ≠ k

/-- The units, and a field that job counts leave alone, stay as they are. -/
def Work.KeepsUnits (k : Nat) (w v : Work) : Prop := v.codecs = w.codecs ∧ w.SameAt k v

theorem Work.KeepsUnits.refl (k : Nat) (w : Work) : w.KeepsUnits k w := ⟨rfl, .refl k w⟩

theorem Work.KeepsUnits.trans {k : Nat} {u v w : Work} (h : u.KeepsUnits k v) (h' : v.KeepsUnits k w) : u.KeepsUnits k w :=
  ⟨h'.1.trans h.1, h.2.trans h'.2⟩

theorem Work.OnlyDrawn.keepsUnits {w v : Work} (h : w.OnlyDrawn v) (k : Nat) : w.KeepsUnits k v := by
  refine ⟨?_, Work.sameAt_of_regs h.regs k⟩
  obtain ⟨j, d, a, c, rfl⟩ := h
  rfl

theorem Work.OnlyCallEnd.codecs {w v : Work} (h : w.OnlyCallEnd v) : v.codecs = w.codecs := by
  obtain ⟨_, _, _, _, _, _, _, _, _, rfl⟩ := h
  rfl

theorem Work.onlyDrawn_freeOutput (w : Work) (d : Desc) : w.OnlyDrawn (w.freeOutput d) :=
  foldl_keeps .refl .trans (fun v _ => (v.onlyDrawn_fresh 8).trans (Work.onlyBytes_storeBits ..).drawn) _ w

section
variable {d k : Nat} (hk : OutsideJobs d k)
include hk

theorem Work.sameAt_countJob (w : Work) (press : Bool) (fs : List Nat) : w.SameAt k (w.countJob d press fs) := by
  have hfurther := w.sameAt_countFurther k (.codec d press) fs
  unfold Work.countJob
  dsimp only
  split
  · split
    · exact hfurther.trans (sameAt_wr hk.prsJobsOk _ _)
    · split
      · exact hfurther.trans (sameAt_wr hk.prsNoGain _ _)
      · exact hfurther.trans (sameAt_wr hk.prsJobsFail _ _)
  · split
    · exact hfurther.trans ((sameAt_wr hk.decRatio _ _).trans (sameAt_wr hk.decJobsOk _ _))
    · exact hfurther.trans ((sameAt_wr hk.decRatio _ _).trans (sameAt_wr hk.decJobsFail _ _))

theorem Work.keepsUnits_jobEnd (w : Work) (press : Bool) (j : Job) (e : JobEnd) : w.KeepsUnits k (w.jobEnd d press j e) := by
  have hreturn : ∀ v : Work, v.SameAt k (v.jobReturn d j (lowest e.fails) e.out.length) := by
    intro v
    unfold Work.jobReturn
    split
    · exact .refl k v
    · split
      · exact .refl k v
      · exact sameAt_of_regs rfl k
  refine ⟨(w.onlyCallEnd_jobEnd d press j e).codecs, ?_⟩
  unfold Work.jobEnd
  dsimp only
  split
  · exact (Work.sameAt_countJob hk w press _).trans (hreturn _)
  · exact (Work.sameAt_countJob hk w press _).trans ((Work.sameAt_completion hk.outside.away ..).trans (hreturn _))

end

/-! ## Accepting a job (R401, R404) -/

/-- What an accepted job's call does: one without ASYNC waits on, one with it returns. -/
def Work.jobEntered (w : Work) (die : Nat) (j : Job) (st : Nat) : Work :=
  match j.core with
  | some g => if j.waits then w else (w.setCore die g { w.core die g with wait := .none }).callReturn die g st none
  | none => w

/-- The job with the slots that it names. -/
def Work.holdJob (w : Work) (j : Job) : Job :=
  { j with held := w.hold j.plan [(JobRec.ofRec j.rec_).src, (JobRec.ofRec j.rec_).dst] }

section
variable {w : Work} {die : Nat} {press : Bool} {j : Job} {x : Codec} (hx : w.codec die press = x)
include hx

theorem Work.acceptJob_of_passes (hfs : (w.jobChecks j.plan (JobRec.ofRec j.rec_) press).2.2 = [])
    (hlane : x.out.length ≠ laneCount press) : w.acceptJob die press j =
      ((w.setCodec die press { x with queue := x.queue ++ [w.holdJob j] }).jobEntered die (w.holdJob j) sOk).startJobs die press := by
  subst hx
  simp only [Work.acceptJob, hfs, List.isEmpty_nil, hlane, decide_false, Bool.false_eq_true, and_false, if_false, if_true]
  rfl

/-- A job that fails a check, or finds no lane left, ends at once. -/
theorem Work.acceptJob_of_fails {fs : List Nat} (hfs : (w.jobChecks j.plan (JobRec.ofRec j.rec_) press).2.2 = fs)
    (hends : fs ≠ [] ∨ x.out.length = laneCount press) : w.acceptJob die press j =
      let c := if press then w.fresh 32 else (crc32c [], w)
      let fs' := if fs = [] then [sNoSpare] else fs
      (c.2.jobEnd die press (w.holdJob j) ⟨fs', 0, [], 0, c.1, 0⟩).jobEntered die (w.holdJob j) (lowest fs') := by
  subst hx
  have hfs' : (if fs.isEmpty = true ∧ decide ((w.codec die press).out.length = laneCount press) = true then [sNoSpare] else fs) =
      if fs = [] then [sNoSpare] else fs := by
    by_cases hnil : fs = []
    · have hlane : (w.codec die press).out.length = laneCount press := hends.resolve_left (not_not.mpr hnil)
      simp only [hnil, hlane, List.isEmpty_nil, decide_true, and_self, if_true]
    · simp only [List.isEmpty_iff, hnil, false_and, if_false]
  have hempty : (if fs = [] then [sNoSpare] else fs).isEmpty = false := by
    by_cases hnil : fs = [] <;> simp [hnil]
  simp only [Work.acceptJob, hfs, hfs', hempty, Bool.false_eq_true, if_false]
  rfl

end

/-- While the queue is full, those that wait for room wait on. -/
theorem Work.unblockJobs_of_full {w : Work} {die : Nat} {press : Bool} (hfull : 256 ≤ (w.codec die press).queue.length) (n : Nat) :
    w.unblockJobs die press n = w := by
  cases n with
  | zero => rfl
  | succ n =>
    unfold Work.unblockJobs
    dsimp only
    split
    · exact if_neg (Nat.not_lt.mpr hfull)
    · rfl

/-! ## Firmware's jobs -/

/-- Firmware's job of a record. -/
def firmwareJob (w : Work) (mc die : Nat) (r : Rec) : Job :=
  { rec_ := r, core := none, waits := false, plan := w.planOf (.firmware mc die), limit := 0, skip := false }

section
variable {w : Work} {mc die : Nat} {press : Bool} {r : Rec} {x : Codec} (hx : w.codec die press = x)
include hx

theorem Work.jobWrite_of_room (hroom : x.queue.length < 256) (hblocked : x.blocked = []) :
    w.jobWrite mc die press r = w.acceptJob die press (firmwareJob w mc die r) := by
  subst hx
  exact if_pos ⟨hroom, hblocked⟩

theorem Work.jobWrite_of_no_room (h : ¬ (x.queue.length < 256 ∧ x.blocked = [])) : w.jobWrite mc die press r =
    (w.setCodec die press { x with blocked := x.blocked ++ [firmwareJob w mc die r] }).unblockJobs die press
      (x.blocked ++ [firmwareJob w mc die r]).length := by
  subst hx
  exact if_neg h

end

section
variable {s : State} {mc die : Nat} {press : Bool} {r : Rec} {x : Codec} (hx : s.work.codec die press = x)
include hx

/-- A job that its unit accepts is queued or in a lane, with the slots that it names. -/
theorem firmwareJob_accepted (hroom : x.queue.length < 256) (hblocked : x.blocked = [])
    (hfs : (s.work.jobChecks (firmwareJob s.work mc die r).plan (JobRec.ofRec r) press).2.2 = [])
    (hlane : x.out.length ≠ laneCount press) :
    ∃ t, s.on (fun w => w.jobWrite mc die press r) = t ∧ t.mem = s.mem ∧ t.regs = s.regs ∧
      (t.work.codec die press).Has (s.work.holdJob (firmwareJob s.work mc die r)) ∧
      (t.work.codec die press).jobs = x.jobs + 1 := by
  set j := firmwareJob s.work mc die r
  set v := s.work.setCodec die press { x with queue := x.queue ++ [s.work.holdJob j] }
  have heff : s.work.jobWrite mc die press r = v.startJobs die press :=
    (Work.jobWrite_of_room hx hroom hblocked).trans (Work.acceptJob_of_passes hx hfs hlane)
  obtain ⟨⟨c, hc⟩, hjobs, hhas⟩ := v.onlyStarts_startJobs die press
  have hv : v.codec die press = { x with queue := x.queue ++ [s.work.holdJob j] } := Work.codec_setCodec ..
  refine ⟨_, rfl, ?_, ?_, ?_, ?_⟩
  · exact State.on_mem_of_no_store (by rw [heff, hc]; rfl) (by rw [heff, hc]; rfl)
  · rw [State.on_regs, heff, hc]
    rfl
  · rw [State.codec_on, heff]
    exact hhas _ (hv ▸ ⟨_, .inl (List.mem_append_right _ (List.mem_singleton.mpr rfl))⟩)
  · rw [State.codec_on, heff, hjobs, hv]
    simp only [Codec.jobs, List.length_append, List.length_singleton]
    omega

end

/-- A job of firmware has no call to go on. -/
theorem Work.jobEntered_firmware (w : Work) (die : Nat) {j : Job} (h : j.core = none) (st : Nat) : w.jobEntered die j st = w := by
  unfold Work.jobEntered
  rw [h]

/-! ## A general core's jobs -/

/-- A core's job of a record. -/
def coreJob (w : Work) (d g : Nat) (r : Rec) (go : Bool) : Job :=
  { rec_ := resolveJobComp (.core d g) r, core := some g, waits := !(JobRec.ofRec r).async, plan := w.planOf (.core d g),
    limit := 0, skip := !go }

/-- A core's call waits for its job. -/
def Work.jobCalled (w : Work) (d g : Nat) : Work := w.setCore d g { w.core d g with wait := .job }

section
variable {w : Work} {d g a : Nat} {press : Bool} {bs : List Byte}

theorem Work.jobCall_of_no_record (h : w.callRecord d g a 64 64 = none) (want : Nat → Bool) :
    w.jobCall d g a want = w.callReturn d g sRange (some 0) := by
  simp only [Work.jobCall, h]

theorem Work.jobCall_of_room {x : Codec} {r : Rec} (h : w.callRecord d g a 64 64 = some bs)
    (hr : BitVec.ofNat 512 (ofBytes bs) = r) (hop : (JobRec.ofRec r).op = 0xE2 ↔ press = true) (hx : w.codec d press = x)
    (hroom : x.queue.length < 256) (hblocked : x.blocked = []) : w.jobCall d g a (jobWants press) =
      ((w.effecting d g).2.jobCalled d g).acceptJob d press (coreJob (w.effecting d g).2 d g r (w.effecting d g).1) := by
  have hunit : decide ((JobRec.ofRec r).op = 0xE2) = press := by cases press <;> simpa using hop
  have hwant : jobWants press (JobRec.ofRec r).op = true := by
    unfold jobWants
    cases press <;> simpa using hop
  have hroom' : (((w.effecting d g).2.jobCalled d g).codec d press).queue.length < 256 ∧
      (((w.effecting d g).2.jobCalled d g).codec d press).blocked = [] := by
    obtain ⟨sp, hsp⟩ := w.onlyJournal_effecting d g
    rw [hsp]
    exact ⟨hx ▸ hroom, hx ▸ hblocked⟩
  subst hr
  simp only [Work.jobCall, h, hwant, if_true, hunit]
  exact if_pos hroom'

theorem Work.jobEntered_only (w : Work) (d : Nat) (j : Job) (st : Nat) : ∃ cs, w.jobEntered d j st = { w with cores := cs } := by
  unfold Work.jobEntered
  split
  · split
    · exact ⟨w.cores, rfl⟩
    · exact ⟨_, rfl⟩
  · exact ⟨w.cores, rfl⟩

/-- What a core's call shows once its job is accepted: with ASYNC it has returned, and without it waits. -/
structure JobCallShows (async : Bool) (old new : Core) : Prop where
  returns : async = true → new.getX 10 = sOk ∧ new.wait = .none ∧ new.pc = (old.pc + 4) % 2 ^ 64
  waits : async = false → new.wait = .job ∧ new.pc = old.pc ∧ new.x = old.x

theorem Work.jobEntered_shows {w : Work} {d g : Nat} {j : Job} {old : Core} (hcore : j.core = some g)
    (hold : w.core d g = { old with wait := .job }) : JobCallShows (!j.waits) old ((w.jobEntered d j sOk).core d g) := by
  unfold Work.jobEntered
  rw [hcore]
  dsimp only
  cases hw : j.waits with
  | true =>
    rw [if_pos rfl, hold]
    exact ⟨fun h => absurd h (by decide), fun _ => ⟨rfl, rfl, rfl⟩⟩
  | false =>
    rw [if_neg (by decide)]
    refine ⟨fun _ => ⟨Work.callReturn_status .., ?_, ?_⟩, fun h => absurd h (by decide)⟩
    · rw [Work.callReturn, Work.core_setCore, Core.retire_wait, Core.setX_wait, Work.core_setCore]
    · rw [Work.callReturn_pc, Work.core_setCore, hold]

end

theorem JobCallShows.resv {async : Bool} {old new : Core} (h : JobCallShows async old new) (r : Option Nat) :
    JobCallShows async old { new with resv := r } := ⟨h.returns, h.waits⟩

/-- The checks of a job look neither at the cores nor at the journal of tasks. -/
theorem Work.jobChecks_congr (w : Work) (sp : SprSt) (cs : List (Nat × Core)) (p : Nat) (o : JobRec) (press : Bool) :
    ({ w with spr := sp, cores := cs } : Work).jobChecks p o press = w.jobChecks p o press := rfl

/-- The block as a core's job is accepted: a note in the journal of tasks, and the core that waits. -/
theorem Work.jobCalled_eq (w : Work) (d g : Nat) : ∃ sp cs, (w.effecting d g).2.jobCalled d g = { w with spr := sp, cores := cs } ∧
    (w.effecting d g).2.planOf (.core d g) = w.planOf (.core d g) := by
  obtain ⟨sp, hsp⟩ := w.onlyJournal_effecting d g
  rw [hsp]
  exact ⟨sp, _, rfl, rfl⟩

theorem Work.core_jobCalled (w : Work) (d g : Nat) :
    ((w.effecting d g).2.jobCalled d g).core d g = { w.core d g with wait := .job } :=
  (Work.core_setCore ..).trans (by rw [(w.onlyJournal_effecting d g).core_eq])

/-- An accepted job of a core: what differs, how many jobs there are, and what the call shows. -/
theorem Work.acceptJob_of_core {w : Work} {d g : Nat} {press : Bool} {j : Job} {x : Codec} {old : Core}
    (hx : w.codec d press = x) (hcore : j.core = some g) (hold : w.core d g = { old with wait := .job })
    (hfs : (w.jobChecks j.plan (JobRec.ofRec j.rec_) press).2.2 = []) (hlane : x.out.length ≠ laneCount press) :
    (∃ cs c, w.acceptJob d press j = { w with cores := cs, codecs := c }) ∧
      ((w.acceptJob d press j).codec d press).jobs = x.jobs + 1 ∧
      JobCallShows (!j.waits) old ((w.acceptJob d press j).core d g) := by
  rw [Work.acceptJob_of_passes hx hfs hlane]
  set v := w.setCodec d press { x with queue := x.queue ++ [w.holdJob j] } with hv
  have hshows := Work.jobEntered_shows (w := v) (j := w.holdJob j) hcore hold
  obtain ⟨cs, hcs⟩ := v.jobEntered_only d (w.holdJob j) sOk
  obtain ⟨⟨c, hc⟩, hjobs, -⟩ := (v.jobEntered d (w.holdJob j) sOk).onlyStarts_startJobs d press
  refine ⟨⟨cs, c, ?_⟩, ?_, ?_⟩
  · rw [hc, hcs]
    rfl
  · have hunit : (v.jobEntered d (w.holdJob j) sOk).codec d press = v.codec d press := by rw [hcs]; rfl
    rw [hjobs, hunit, hv, Work.codec_setCodec]
    simp only [Codec.jobs, List.length_append, List.length_singleton]
    omega
  · rw [hc]
    exact hshows

section
variable {s : State} {d g a : Nat} {press : Bool} {bs : List Byte} {r : Rec} {x : Codec}

/-- A core's job that its unit accepts is queued or in a lane, and its call waits or returns. -/
theorem coreJob_accepted (h : s.work.callRecord d g a 64 64 = some bs) (hr : BitVec.ofNat 512 (ofBytes bs) = r)
    (hop : (JobRec.ofRec r).op = 0xE2 ↔ press = true) (hx : s.work.codec d press = x) (hroom : x.queue.length < 256)
    (hblocked : x.blocked = [])
    (hfs : (s.work.jobChecks (s.work.planOf (.core d g)) (JobRec.ofRec (resolveJobComp (.core d g) r)) press).2.2 = [])
    (hlane : x.out.length ≠ laneCount press) :
    ∃ t, s.on (fun w => w.jobCall d g a (jobWants press)) = t ∧ t.mem = s.mem ∧ (t.work.codec d press).jobs = x.jobs + 1 ∧
      JobCallShows (JobRec.ofRec r).async (s.work.core d g) (t.work.core d g) := by
  have hcall := Work.jobCall_of_room h hr hop hx hroom hblocked
  obtain ⟨sp, cs, heq, hplan⟩ := s.work.jobCalled_eq d g
  have hold := s.work.core_jobCalled d g
  rw [heq] at hcall hold
  have hchecks : (({ s.work with spr := sp, cores := cs } : Work).jobChecks
      (coreJob (s.work.effecting d g).2 d g r (s.work.effecting d g).1).plan
      (JobRec.ofRec (resolveJobComp (.core d g) r)) press).2.2 = [] := by
    rw [Work.jobChecks_congr, coreJob, hplan]
    exact hfs
  obtain ⟨⟨cs', c, heff⟩, hjobs, hshows⟩ := Work.acceptJob_of_core (w := { s.work with spr := sp, cores := cs })
    (j := coreJob (s.work.effecting d g).2 d g r (s.work.effecting d g).1) hx rfl hold hchecks hlane
  rw [← hcall] at heff hjobs hshows
  refine ⟨_, rfl, ?_, ?_, ?_⟩
  · exact State.on_mem_of_no_store (by rw [heff]; rfl) (by rw [heff]; rfl)
  · rw [State.codec_on]
    exact hjobs
  · obtain ⟨l, hl⟩ := State.core_on (fun w => w.jobCall d g a (jobWants press)) s d g
    have hasync : (!(coreJob (s.work.effecting d g).2 d g r (s.work.effecting d g).1).waits) = (JobRec.ofRec r).async :=
      Bool.not_not _
    rw [hl]
    exact (hasync ▸ hshows).resv l

end

/-! ## A lane's job (R422, R426) -/

section
variable {s : State} {die lane : Nat} {press : Bool} {x : Codec} (hwf : (Instr.jobComplete die press lane).wf = true)
  (hx : s.work.codec die press = x)
include hwf hx

theorem jobComplete_of_idle (hnone : x.lanes.find? (fun e => e.1 = lane) = none) : exec (.jobComplete die press lane) s = .next s := by
  refine State.perform_unchanged (i := .jobComplete die press lane) hwf ?_
  simp only [Work.jobComplete, hx, hnone]

theorem jobComplete_of_job {e : Nat × Job} (he : x.lanes.find? (fun e => e.1 = lane) = some e) :
    exec (.jobComplete die press lane) s = .next (s.on fun w =>
      ((w.setCodec die press { x with lanes := x.lanes.filter (fun e => e.1 ≠ lane) }).with e.2.plan e.2.held
        (fun v => v.runJob die press e.2)).laneFree die press) := by
  refine State.perform_eq_on (i := .jobComplete die press lane) _ hwf ?_
  simp only [Work.jobComplete, hx, he]

end

theorem outsideJobs_decLanes (d : Nat) : OutsideJobs d (F.decStatLanes.key d 0) where
  outside := outsideDev_die rfl (by decide) (by decide) d 0
  decJobsOk := Fld.key_ne_of_die rfl rfl (by decide) d 0 0
  decJobsFail := Fld.key_ne_of_die rfl rfl (by decide) d 0 0
  decRatio := Fld.key_ne_of_die rfl rfl (by decide) d 0 0
  prsJobsOk := Fld.key_ne_of_die rfl rfl (by decide) d 0 0
  prsNoGain := Fld.key_ne_of_die rfl rfl (by decide) d 0 0
  prsJobsFail := Fld.key_ne_of_die rfl rfl (by decide) d 0 0

theorem outsideJobs_prsLanes (d : Nat) : OutsideJobs d (F.prsStatLanes.key d 0) where
  outside := outsideDev_die rfl (by decide) (by decide) d 0
  decJobsOk := Fld.key_ne_of_die rfl rfl (by decide) d 0 0
  decJobsFail := Fld.key_ne_of_die rfl rfl (by decide) d 0 0
  decRatio := Fld.key_ne_of_die rfl rfl (by decide) d 0 0
  prsJobsOk := Fld.key_ne_of_die rfl rfl (by decide) d 0 0
  prsNoGain := Fld.key_ne_of_die rfl rfl (by decide) d 0 0
  prsJobsFail := Fld.key_ne_of_die rfl rfl (by decide) d 0 0

/-- The field that shows a unit's lanes in service. -/
def laneField (press : Bool) : Fld := if press then F.prsStatLanes else F.decStatLanes

theorem outsideJobs_laneField (press : Bool) (d : Nat) : OutsideJobs d ((laneField press).key d 0) := by
  cases press
  · exact outsideJobs_decLanes d
  · exact outsideJobs_prsLanes d

/-! ### LANE_INTERNAL_ERROR -/

/-- The output of a job that failed as a whole is undefined. -/
def Work.freeJobOutput (w : Work) (j : Job) : Work :=
  match w.desc j.plan (JobRec.ofRec j.rec_).dst with
  | some d => if j.skip then w else w.freeOutput d
  | none => w

/-- The job of a lane with an internal error ends. -/
def Work.laneJobFails (w : Work) (die : Nat) (press : Bool) (job : Option (Nat × Job)) : Work :=
  match job with
  | none => w
  | some (_, j) =>
    let n := w.fresh 40
    let c := n.2.fresh 32
    c.2.with j.plan j.held (fun w =>
      (w.freeJobOutput j).jobEnd die press j ⟨[sCheck], rInternal, [], n.1, c.1, 0⟩)

/-- A job that waits ends when no lane is left. -/
def Work.jobWithoutLane (w : Work) (die : Nat) (press : Bool) (blocked : List Job) (j : Job) : Work :=
  let c := w.fresh 32
  (match j.core with
    | some g => if !j.waits ∧ blocked.contains j = true ∧ (c.2.core die g).wait = CoreWait.job then
        (c.2.setCore die g { c.2.core die g with wait := .none }).callReturn die g sNoSpare none
      else c.2
    | none => c.2).jobEnd die press j ⟨[sNoSpare], 0, [], 0, if press then c.1 else crc32c [], 0⟩

/-- The block once a lane is out of service: its job ended, the lanes left shown, and the loss reported. -/
def Work.codecLaneOut (w : Work) (die : Nat) (press : Bool) (lane : Nat) (x : Codec) (cause : Nat) : Work :=
  (((w.setCodec die press { x with lanes := x.lanes.filter (fun e => e.1 ≠ lane), out := setInsert x.out lane }).laneJobFails die
    press (x.lanes.find? (fun e => e.1 = lane))).showLanes die press).noSpare (if press then kPress else kDec) die lane cause 0

theorem Work.laneError_of_out {w : Work} {die lane : Nat} {press : Bool} (h : lane ∈ (w.codec die press).out) (cause : Nat) :
    w.laneError die press lane cause = w := if_pos (List.contains_iff_mem.mpr h)

theorem Work.laneError_eq {w : Work} {die lane : Nat} {press : Bool} {x : Codec} (hx : w.codec die press = x) (h : lane ∉ x.out)
    (cause : Nat) : w.laneError die press lane cause =
      let v := w.codecLaneOut die press lane x cause
      let y := v.codec die press
      if y.out.length < laneCount press then v
      else ((y.queue ++ y.blocked).foldl (fun v j => v.jobWithoutLane die press y.blocked j)
        (v.setCodec die press { y with queue := [], blocked := [] })).degrade die := by
  subst hx
  unfold Work.laneError
  dsimp only
  rw [if_neg (by simpa using h)]
  rfl

theorem Work.onlyDrawn_freeJobOutput (w : Work) (j : Job) : w.OnlyDrawn (w.freeJobOutput j) := by
  unfold Work.freeJobOutput
  split
  · split
    · exact .refl w
    · exact w.onlyDrawn_freeOutput _
  · exact .refl w

section
variable {d k : Nat} (hk : OutsideJobs d k)
include hk

theorem Work.keepsUnits_laneJobFails (w : Work) (press : Bool) (job : Option (Nat × Job)) :
    w.KeepsUnits k (w.laneJobFails d press job) := by
  unfold Work.laneJobFails
  split
  · exact .refl k w
  next j =>
    have hlend : ∀ v : Work, v.KeepsUnits k (v.lend j.plan j.held) := by
      intro v
      obtain ⟨sl, h⟩ := v.lend_only j.plan j.held
      rw [h]
      exact ⟨rfl, .refl k v⟩
    have hfresh := ((w.onlyDrawn_fresh 40).trans ((w.fresh 40).2.onlyDrawn_fresh 32)).keepsUnits k
    have hfree := fun v : Work => (v.onlyDrawn_freeJobOutput j).keepsUnits k
    exact hfresh.trans ((hlend _).trans ((hfree _).trans ((Work.keepsUnits_jobEnd hk ..).trans ⟨rfl, .refl k _⟩)))

theorem Work.keepsUnits_jobWithoutLane (w : Work) (press : Bool) (blocked : List Job) (j : Job) :
    w.KeepsUnits k (w.jobWithoutLane d press blocked j) := by
  refine ((w.onlyDrawn_fresh 32).keepsUnits k).trans ?_
  refine .trans ?_ (Work.keepsUnits_jobEnd hk ..)
  split
  · split
    · exact ⟨rfl, Work.sameAt_of_regs rfl k⟩
    · exact .refl k _
  · exact .refl k _

end

theorem Work.showLanes_codecs (w : Work) (die : Nat) (press : Bool) : (w.showLanes die press).codecs = w.codecs := by
  cases press <;> rfl

section
variable {w : Work} {die lane : Nat} {press : Bool} {x : Codec}

/-- The unit once a lane is out of service. -/
theorem Work.codecLaneOut_codec (cause : Nat) : (w.codecLaneOut die press lane x cause).codec die press =
    { x with lanes := x.lanes.filter (fun e => e.1 ≠ lane), out := setInsert x.out lane } := by
  set v := w.setCodec die press { x with lanes := x.lanes.filter (fun e => e.1 ≠ lane), out := setInsert x.out lane }
  set u := v.laneJobFails die press (x.lanes.find? (fun e => e.1 = lane))
  have hfails : u.codecs = v.codecs := (Work.keepsUnits_laneJobFails (outsideJobs_decLanes die) v press _).1
  have hlost : (w.codecLaneOut die press lane x cause).codecs = u.codecs := by
    obtain ⟨r, e, sp, f, hf⟩ :=
      (u.showLanes die press).onlyFence_noSpare (if press then kPress else kDec) die lane cause 0
    unfold Work.codecLaneOut
    rw [hf, Work.showLanes_codecs]
  unfold Work.codec
  rw [hlost, hfails]
  exact Work.codec_setCodec ..

theorem Work.showLanes_shown (w : Work) (die : Nat) (press : Bool) : (w.showLanes die press).rd (laneField press) die 0 =
    laneCount press - (w.codec die press).out.length := by
  have hlt : laneCount press - (w.codec die press).out.length < 2 ^ (laneField press).w := by
    refine lt_of_le_of_lt (Nat.sub_le ..) ?_
    cases press <;> decide
  rw [← Nat.mod_eq_of_lt hlt]
  cases press
  · exact Work.rd_wr_same ..
  · exact Work.rd_wr_same ..

/-- The lanes in service are shown. -/
theorem Work.codecLaneOut_shown (cause : Nat) : (w.codecLaneOut die press lane x cause).rd (laneField press) die 0 =
    laneCount press - (setInsert x.out lane).length := by
  set v := w.setCodec die press { x with lanes := x.lanes.filter (fun e => e.1 ≠ lane), out := setInsert x.out lane }
  set u := v.laneJobFails die press (x.lanes.find? (fun e => e.1 = lane))
  have hunit : u.codec die press = { x with lanes := x.lanes.filter (fun e => e.1 ≠ lane), out := setInsert x.out lane } := by
    unfold Work.codec
    rw [(Work.keepsUnits_laneJobFails (outsideJobs_decLanes die) v press _).1]
    exact Work.codec_setCodec ..
  have hkey := outsideJobs_laneField press die
  have hfenced : F.sprMapFenced.key die 0 ≠ (laneField press).key die 0 := by
    cases press
    · exact Fld.key_ne_of_die rfl rfl (by decide) die 0 0
    · exact Fld.key_ne_of_die rfl rfl (by decide) die 0 0
  have hsame := Work.sameAt_noSpare hkey.outside hfenced (u.showLanes die press) (if press then kPress else kDec) lane cause 0
  have hshown := u.showLanes_shown die press
  rw [hunit] at hshown
  exact hsame.rd_eq.trans hshown

/-- The unit once no lane is left: every job that waits has ended. -/
theorem Work.keepsUnits_withoutLanes {k : Nat} (hk : OutsideJobs die k) (blocked l : List Job) (v : Work) :
    v.KeepsUnits k (l.foldl (fun v j => v.jobWithoutLane die press blocked j) v) :=
  foldl_keeps (R := Work.KeepsUnits k) (.refl k) (.trans) (fun v j => Work.keepsUnits_jobWithoutLane hk v press blocked j) l v

end

theorem mem_setInsert_self (l : List Nat) (a : Nat) : a ∈ setInsert l a := by
  induction l with
  | nil => exact List.mem_singleton.mpr rfl
  | cons k m ih =>
    unfold setInsert
    split
    · exact List.mem_cons_self
    · split
      next hak => exact hak ▸ List.mem_cons_self
      next => exact List.mem_cons_of_mem _ ih

/-- What is left of a unit after a lane with an internal error. -/
structure LaneErrorShows (press : Bool) (die lane : Nat) (x : Codec) (t : Work) : Prop where
  out : (t.codec die press).out = setInsert x.out lane
  lanes : (t.codec die press).lanes = x.lanes.filter (fun e => e.1 ≠ lane)
  some_left : (t.codec die press).out.length < laneCount press →
    (t.codec die press).queue = x.queue ∧ (t.codec die press).blocked = x.blocked
  none_left : laneCount press ≤ (t.codec die press).out.length →
    (t.codec die press).queue = [] ∧ (t.codec die press).blocked = [] ∧ t.rd F.sprMapDegraded die 0 = 1
  shown : t.rd (laneField press) die 0 = laneCount press - (t.codec die press).out.length

theorem Work.laneError_shows {w : Work} {die lane : Nat} {press : Bool} {x : Codec} (hx : w.codec die press = x)
    (h : lane ∉ x.out) (cause : Nat) : LaneErrorShows press die lane x (w.laneError die press lane cause) := by
  have hcodec := Work.codecLaneOut_codec (w := w) (die := die) (lane := lane) (press := press) (x := x) cause
  have hshown := Work.codecLaneOut_shown (w := w) (die := die) (lane := lane) (press := press) (x := x) cause
  rw [Work.laneError_eq hx h]
  dsimp only
  set v := w.codecLaneOut die press lane x cause
  split
  next hleft =>
    rw [hcodec] at hleft
    exact {
      out := by rw [hcodec]
      lanes := by rw [hcodec]
      some_left := fun _ => by rw [hcodec]; exact ⟨rfl, rfl⟩
      none_left := fun hnone => by rw [hcodec] at hnone; exact absurd hleft (Nat.not_lt.mpr hnone)
      shown := by rw [hcodec]; exact hshown }
  next hnone =>
    set y := v.codec die press
    set u := v.setCodec die press { y with queue := [], blocked := [] } with hu
    have hends := Work.keepsUnits_withoutLanes (press := press) (outsideJobs_laneField press die) y.blocked (y.queue ++ y.blocked) u
    set z := (y.queue ++ y.blocked).foldl (fun v j => v.jobWithoutLane die press y.blocked j) u
    have hz : (z.degrade die).codec die press = { y with queue := [], blocked := [] } := by
      obtain ⟨r, e, sp, f, hf⟩ := z.onlyFence_degrade die
      unfold Work.codec
      rw [hf]
      show smGet Codec.atReset z.codecs _ = _
      rw [hends.1]
      exact Work.codec_setCodec ..
    have hdeg : F.sprMapDegraded.key die 0 ≠ (laneField press).key die 0 := by
      cases press
      · exact Fld.key_ne_of_die rfl rfl (by decide) die 0 0
      · exact Fld.key_ne_of_die rfl rfl (by decide) die 0 0
    have hkept := hends.2.trans (Work.sameAt_degrade (outsideJobs_laneField press die).outside hdeg z)
    exact {
      out := by rw [hz, hcodec]
      lanes := by rw [hz, hcodec]
      some_left := fun hleft => by rw [hz] at hleft; exact absurd hleft hnone
      none_left := fun _ => by rw [hz]; exact ⟨rfl, rfl, z.degrade_shown die⟩
      shown := by
        rw [hz, hkept.rd_eq, hcodec]
        exact hshown }

/-- Settles O50: jobs as their unit takes, queues or ends them, and lanes as they complete or fail. -/
theorem jobSubmissionsAndEnds : Obligations.JobSubmissionsAndEnds := by
  unfold Obligations.JobSubmissionsAndEnds
  refine ⟨fun press s => ⟨?_, ?_⟩, ?_⟩
  · intro mc die r hmc hdie p x j k fs
    have hexec := exec_jobRow_firmware (press := press) (s := s) hmc hdie r
    refine ⟨fun hfull => ?_, fun hroom hblocked => ?_, fun hroom hblocked hfs hlane => ?_, fun hroom hblocked hends => ?_⟩
    · have hno : ¬ (x.queue.length < 256 ∧ x.blocked = []) := fun h => absurd h.1 (Nat.not_lt.mpr hfull)
      have heff := Work.jobWrite_of_no_room (mc := mc) (r := r) (rfl : s.work.codec die press = x) hno
      rw [Work.unblockJobs_of_full (by rw [Work.codec_setCodec]; exact hfull)] at heff
      refine ⟨_, hexec, ?_, ?_, ?_⟩
      · exact State.on_mem_of_no_store (by rw [heff]; rfl) (by rw [heff]; rfl)
      · rw [State.on_regs, heff]
        rfl
      · rw [State.codec_on, heff, Work.codec_setCodec]
        rfl
    · refine hexec.trans (congrArg _ (State.on_congr ?_))
      exact Work.jobWrite_of_no_room (rfl : s.work.codec die press = x) fun h => hblocked h.2
    · obtain ⟨t, ht, hmem, hregs, ⟨lim, hhas⟩, hjobs⟩ := firmwareJob_accepted (mc := mc) (rfl : s.work.codec die press = x) hroom hblocked hfs hlane
      exact ⟨t, lim, hexec.trans (congrArg _ ht), hmem, hregs, hhas, hjobs⟩
    · have heff := (Work.jobWrite_of_room (mc := mc) (r := r) (rfl : s.work.codec die press = x) hroom hblocked).trans
        (Work.acceptJob_of_fails rfl rfl hends)
      dsimp only at heff
      rw [Work.jobEntered_firmware _ _ rfl] at heff
      refine ⟨_, hexec, ?_, State.on_congr heff⟩
      rw [State.codec_on, heff]
      unfold Work.codec
      rw [(Work.onlyCallEnd_jobEnd ..).codecs]
      cases press <;> rfl
  · intro d g a hd hg ha hruns c x
    have hexec := exec_jobRow_core (press := press) hd hg ha hruns
    refine ⟨fun hnone => ?_, fun bs hrec hop hroom hblocked hfs hlane => ?_⟩
    · have heff := Work.jobCall_of_no_record hnone (jobWants press)
      refine ⟨_, hexec, ?_, ?_, ?_, ?_⟩
      · exact State.on_mem_of_no_store (by rw [heff]; rfl) (by rw [heff]; rfl)
      · rw [State.on_codecs, heff]
        rfl
      · rw [State.getX_core_on, heff, Work.callReturn_status]
        rfl
      · rw [State.pc_core_on, heff, Work.callReturn_pc]
    · obtain ⟨t, ht, hmem, hjobs, hreturns, hwaits⟩ := coreJob_accepted hrec rfl hop rfl hroom hblocked hfs hlane
      exact ⟨t, hexec.trans (congrArg _ ht), hmem, hjobs, hreturns, hwaits⟩
  · intro s die lane press hdie hlane x
    have hwf : (Instr.jobComplete die press lane).wf = true :=
      Bool.and_eq_true_iff.mpr ⟨decide_eq_true hdie, decide_eq_true hlane⟩
    have hwf' : (Instr.laneInternalError die press lane).wf = true := hwf
    refine ⟨jobComplete_of_idle hwf rfl, fun e he => jobComplete_of_job hwf rfl he, fun hout => ?_, fun hout => ?_⟩
    · exact State.perform_unchanged (i := .laneInternalError die press lane) hwf' (Work.laneError_of_out hout 3)
    · have hexec : exec (.laneInternalError die press lane) s = .next (s.on fun w => w.laneError die press lane) :=
        State.perform_wf hwf'
      have hshows := Work.laneError_shows (rfl : s.work.codec die press = x) hout 3
      refine ⟨_, hexec, ?_⟩
      rw [State.codec_on, State.rd_on, State.rd_on, State.rd_on]
      refine ⟨?_, fun e he => ?_, fun e he hne => ?_, hshows.some_left, hshows.none_left, ?_, ?_⟩
      · rw [hshows.out]
        exact mem_setInsert_self x.out lane
      · rw [hshows.lanes, List.mem_filter] at he
        exact ⟨he.1, of_decide_eq_true he.2⟩
      · rw [hshows.lanes]
        exact List.mem_filter.mpr ⟨he, decide_eq_true hne⟩
      · rintro rfl
        exact hshows.shown
      · rintro rfl
        exact hshows.shown

end Sys2Proof.Machine

/-! Frame jobs, and the failure of the frame path or the aligner (chapter 16: R468 to R471, R557). -/

namespace Sys2Proof.Machine

/-! ## A call of a core -/

/-- A core's frame job of a record. -/
def frameJob (w : Work) (d g : Nat) (r : Rec) (go : Bool) : Job :=
  { rec_ := resolveFrmComp (.core d g) r, core := some (d * 96 + g), waits := !(FrmRec.ofRec r).async,
    plan := w.planOf (.core d g), limit := 0, skip := !go }

section
variable {s : State} {d g a : Nat} (hd : d < 4) (hg : g < 96) (ha : a < 2 ^ 64) (hruns : s.work.coreRuns d g = true)
include hd hg ha hruns

theorem exec_frame_eq : exec (.frame d g a) s = .next (s.on fun w => w.frameCall d g a) := by
  have hwf : (decide (d < 4) && decide (g < 96) && decide (a < 0x10000000000000000)) = true := by
    simpa using ⟨⟨hd, hg⟩, ha⟩
  exact State.perform_coreRow_eq_on (i := .frame d g a) _ hwf hruns rfl

end

/-- The checks of a frame job look neither at the cores nor at the journal of tasks. -/
theorem Work.frmChecks_congr (w : Work) (sp : SprSt) (cs : List (Nat × Core)) (p : Nat) (o : FrmRec) :
    ({ w with spr := sp, cores := cs } : Work).frmChecks p o = w.frmChecks p o := rfl

section
variable {w : Work} {d g a : Nat} {bs : List Byte} {r : Rec} {x : Codec}

/-- The block as a core's frame job comes to the frame path, and the job. -/
def Work.frameCalled (w : Work) (d g : Nat) (r : Rec) : Work × Job :=
  ((w.effecting d g).2.jobCalled d g, frameJob (w.effecting d g).2 d g r (w.effecting d g).1)

theorem Work.frameCall_of_room (h : w.callRecord d g a 64 64 = some bs) (hr : BitVec.ofNat 512 (ofBytes bs) = r)
    (hx : (w.frameCalled d g r).1.field.frm = x) (hroom : x.queue.length < 64 ∧ x.blocked = []) :
    w.frameCall d g a = (w.frameCalled d g r).1.frmAccept (w.frameCalled d g r).2 := by
  subst hr hx
  simp only [Work.frameCall, h]
  exact if_pos hroom

theorem Work.frameCall_of_no_room (h : w.callRecord d g a 64 64 = some bs) (hr : BitVec.ofNat 512 (ofBytes bs) = r)
    (hx : (w.frameCalled d g r).1.field.frm = x) (hno : ¬ (x.queue.length < 64 ∧ x.blocked = [])) :
    w.frameCall d g a = (w.frameCalled d g r).1.setFrm { x with blocked := x.blocked ++ [(w.frameCalled d g r).2] } := by
  subst hr hx
  simp only [Work.frameCall, h]
  exact if_neg hno

end

/-! ## Accepting a frame job (R468, R469) -/

/-- What an accepted job's call does: one without ASYNC waits on, one with it returns. -/
def Work.frmEntered (w : Work) (j : Job) (st : Nat) : Work :=
  match j.core with
  | some k => w.jobEntered (k / 96) { j with core := some (k % 96) } st
  | none => w

/-- The job with the slots that it names. -/
def Work.holdFrame (w : Work) (j : Job) : Job :=
  { j with held := w.hold j.plan [(FrmRec.ofRec j.rec_).src, (FrmRec.ofRec j.rec_).dst, (FrmRec.ofRec j.rec_).param] }

theorem Work.frmAccept_of_passes {w : Work} {j : Job} {x : Codec} (hx : w.field.frm = x) (hout : x.out = [])
    (hfs : w.frmChecks j.plan (FrmRec.ofRec j.rec_) = []) :
    w.frmAccept j = ((w.setFrm { x with queue := x.queue ++ [w.holdFrame j] }).frmEntered (w.holdFrame j) sOk).frmStart := by
  subst hx
  simp only [Work.frmAccept, hfs, hout, List.isEmpty_nil, ne_eq, not_true_eq_false, and_false, if_false, if_true]
  obtain ⟨rec_, core, waits, plan, limit, skip, held⟩ := j
  cases core <;> rfl

theorem Work.frmEntered_only (w : Work) (j : Job) (st : Nat) : ∃ cs, w.frmEntered j st = { w with cores := cs } := by
  unfold Work.frmEntered
  split
  · exact w.jobEntered_only ..
  · exact ⟨w.cores, rfl⟩

/-- The count of queued frame jobs is shown. -/
def Work.QueueShown (w : Work) : Prop := w.rd F.frmStatQueued 0 0 = w.field.frm.queue.length % 2 ^ F.frmStatQueued.w

theorem Work.queueShown_setFrm (w : Work) (x : Codec) : (w.setFrm x).QueueShown := Work.rd_wr_same ..

/-- The frame path takes a job from its queue, or leaves the block as it is. -/
theorem Work.frmStart_only (w : Work) (h : w.QueueShown) : ∃ r x, w.frmStart = { w with regs := r, field := { w.field with frm := x } } ∧
    x.jobs = w.field.frm.jobs ∧ w.frmStart.QueueShown := by
  unfold Work.frmStart
  dsimp only
  split
  next j js hlanes hqueue =>
    refine ⟨_, _, rfl, ?_, Work.queueShown_setFrm ..⟩
    simp only [Codec.jobs, hlanes, hqueue, List.length_cons, List.length_nil]
  next => exact ⟨w.regs, w.field.frm, rfl, rfl, h⟩

/-- An accepted frame job: no store, one job more, its number shown, and its call waiting or returned. -/
theorem Work.frmAccept_of_core {w : Work} {d g : Nat} {j : Job} {x : Codec} {old : Core} (hg : g < 96) (hx : w.field.frm = x)
    (hcore : j.core = some (d * 96 + g)) (hold : w.core d g = { old with wait := .job }) (hout : x.out = [])
    (hfs : w.frmChecks j.plan (FrmRec.ofRec j.rec_) = []) :
    (∃ r cs y, w.frmAccept j = { w with regs := r, cores := cs, field := { w.field with frm := y } }) ∧
      (w.frmAccept j).field.frm.jobs = x.jobs + 1 ∧ (w.frmAccept j).QueueShown ∧
      JobCallShows (!j.waits) old ((w.frmAccept j).core d g) := by
  have hdie : (d * 96 + g) / 96 = d := by omega
  have hgc : (d * 96 + g) % 96 = g := by omega
  rw [Work.frmAccept_of_passes hx hout hfs]
  set v := w.setFrm { x with queue := x.queue ++ [w.holdFrame j] } with hv
  have hentered : v.frmEntered (w.holdFrame j) sOk = v.jobEntered d { w.holdFrame j with core := some g } sOk := by
    simp only [Work.frmEntered, Work.holdFrame, hcore, hdie, hgc]
  have hshows := Work.jobEntered_shows (w := v) (j := { w.holdFrame j with core := some g }) rfl hold
  rw [← hentered] at hshows
  obtain ⟨cs, hcs⟩ := v.frmEntered_only (w.holdFrame j) sOk
  have hshown : (v.frmEntered (w.holdFrame j) sOk).QueueShown := by
    rw [hcs]
    exact w.queueShown_setFrm _
  obtain ⟨r, y, hy, hjobs, hqueue⟩ := (v.frmEntered (w.holdFrame j) sOk).frmStart_only hshown
  have hfrm : (v.frmEntered (w.holdFrame j) sOk).field.frm.jobs = x.jobs + 1 := by
    rw [hcs]
    show (x.queue ++ [w.holdFrame j]).length + x.lanes.length = x.queue.length + x.lanes.length + 1
    rw [List.length_append, List.length_singleton]
    omega
  refine ⟨⟨r, cs, y, ?_⟩, ?_, hqueue, ?_⟩
  · rw [hy, hcs]
    rfl
  · rw [hy]
    exact hjobs.trans hfrm
  · rw [hy]
    exact hshows

section
variable {s : State} {d g a : Nat} {bs : List Byte} {r : Rec} {x : Codec} (hg : g < 96) (hx : s.field.frm = x)
  (h : s.work.callRecord d g a 64 64 = some bs) (hr : BitVec.ofNat 512 (ofBytes bs) = r)
include hx h hr

/-- A job without room waits behind the others, and its call waits. -/
theorem frameCall_blocked (hno : 64 ≤ x.queue.length ∨ x.blocked ≠ []) :
    ∃ t, s.on (fun w => w.frameCall d g a) = t ∧ t.mem = s.mem ∧ t.field.frm.queue = x.queue ∧
      t.field.frm.blocked.length = x.blocked.length + 1 ∧ (t.work.core d g).wait = .job ∧
      (t.work.core d g).pc = (s.work.core d g).pc := by
  obtain ⟨sp, cs, heq, -⟩ := s.work.jobCalled_eq d g
  have hold := s.work.core_jobCalled d g
  have hfrm : (s.work.frameCalled d g r).1.field.frm = x := by
    rw [Work.frameCalled, heq]
    exact hx
  have heff := Work.frameCall_of_no_room h hr hfrm (by rintro ⟨h1, h2⟩; rcases hno with h' | h'; omega; exact h' h2)
  have hcore : (s.work.frameCall d g a).core d g = { s.work.core d g with wait := .job } := by
    rw [heff]
    exact hold
  refine ⟨_, rfl, ?_, ?_, ?_, ?_, ?_⟩
  · refine State.on_mem_of_no_store ?_ ?_ <;> (rw [heff, Work.frameCalled, heq]; rfl)
  · rw [State.on_field, heff]
    rfl
  · rw [State.on_field, heff]
    exact List.length_append ..
  · obtain ⟨l, hl⟩ := State.core_on (fun w => w.frameCall d g a) s d g
    rw [hl, hcore]
  · rw [State.pc_core_on, hcore]

include hg

theorem frameCall_accepted (hroom : x.queue.length < 64) (hblocked : x.blocked = []) (hout : x.out = [])
    (hfs : s.work.frmChecks (s.work.planOf (.core d g)) (FrmRec.ofRec (resolveFrmComp (.core d g) r)) = []) :
    ∃ t, s.on (fun w => w.frameCall d g a) = t ∧ t.mem = s.mem ∧ t.field.frm.jobs = x.jobs + 1 ∧ t.work.QueueShown ∧
      JobCallShows (FrmRec.ofRec r).async (s.work.core d g) (t.work.core d g) := by
  obtain ⟨sp, cs, heq, hplan⟩ := s.work.jobCalled_eq d g
  have hold := s.work.core_jobCalled d g
  have hfrm : (s.work.frameCalled d g r).1.field.frm = x := by
    rw [Work.frameCalled, heq]
    exact hx
  have hcall := Work.frameCall_of_room h hr hfrm ⟨hroom, hblocked⟩
  have hchecks : ({ s.work with spr := sp, cores := cs } : Work).frmChecks (s.work.frameCalled d g r).2.plan
      (FrmRec.ofRec (s.work.frameCalled d g r).2.rec_) = [] := by
    rw [Work.frmChecks_congr, Work.frameCalled, frameJob, hplan]
    exact hfs
  have hjob : (s.work.frameCalled d g r).1 = { s.work with spr := sp, cores := cs } := heq
  rw [heq] at hold
  rw [hjob] at hcall hfrm
  obtain ⟨⟨rg, cs', y, heff⟩, hjobs, hqueue, hshows⟩ := Work.frmAccept_of_core (j := (s.work.frameCalled d g r).2) hg hfrm rfl
    hold hout hchecks
  rw [← hcall] at heff hjobs hqueue hshows
  refine ⟨_, rfl, ?_, ?_, ?_, ?_⟩
  · exact State.on_mem_of_no_store (by rw [heff]; rfl) (by rw [heff]; rfl)
  · rw [State.on_field]
    exact hjobs
  · rw [Work.QueueShown, State.rd_on, State.work_toBlock, State.on_field]
    exact hqueue
  · obtain ⟨l, hl⟩ := State.core_on (fun w => w.frameCall d g a) s d g
    have hasync : (!(s.work.frameCalled d g r).2.waits) = (FrmRec.ofRec r).async := Bool.not_not _
    rw [hl]
    exact (hasync ▸ hshows).resv l

end

/-! ## The end of a job, and failures (R557) -/

theorem Work.onlyCallEnd_frmEnd (w : Work) (j : Job) (fs : List Nat) (n : Nat) : w.OnlyCallEnd (w.frmEnd j fs n) := by
  have hreturn : ∀ v : Work, v.OnlyCallEnd (v.frmReturn j (lowest fs) n) := by
    intro v
    unfold Work.frmReturn
    split
    · exact ⟨_, _, _, _, _, _, _, _, _, rfl⟩
    · exact v.onlyCallEnd_jobReturn ..
  have hcount : ∀ v : Work, v.OnlyCallEnd (if lowest fs = sOk then v.bump F.frmStatJobsOk 0 0 else v.bump F.frmStatJobsFail 0 0) := by
    intro v
    split <;> exact ⟨_, _, _, _, _, _, _, _, _, rfl⟩
  have hfurther : w.OnlyCallEnd (w.countFurther .frm fs) := ⟨_, _, _, _, _, _, _, _, _, rfl⟩
  unfold Work.frmEnd
  dsimp only
  split
  · exact hfurther.trans ((hcount _).trans (hreturn _))
  · exact hfurther.trans ((hcount _).trans ((Work.onlyCallEnd_completion ..).trans (hreturn _)))

theorem Work.OnlyCallEnd.field {w v : Work} (h : w.OnlyCallEnd v) : v.field = w.field := by
  obtain ⟨_, _, _, _, _, _, _, _, _, rfl⟩ := h
  rfl

theorem Work.degrade_field (w : Work) (d : Nat) : (w.degrade d).field = w.field := by
  obtain ⟨r, e, sp, f, h⟩ := w.onlyFence_degrade d
  rw [h]

/-- The job that runs is performed, and the next one starts. -/
theorem Work.frameDone_of_unblocked {w v : Work} {x : Codec} {e : Nat × Job} {rest : List (Nat × Job)} (hx : w.field.frm = x)
    (hlanes : x.lanes = e :: rest)
    (hv : ((w.setFrm { x with lanes := [] }).with e.2.plan e.2.held (fun v => v.frmRun e.2)).frmStart = v)
    (hblocked : v.field.frm.blocked = []) : w.frameDone = v := by
  subst hx
  unfold Work.frameDone
  dsimp only
  rw [hlanes]
  dsimp only
  rw [hv, hblocked]

/-- The frame path fails: every job ends, and none is left. -/
theorem Work.frameFailure_path (w : Work) : (w.frameFailure false).field.frm = ⟨[], [], [], [0]⟩ := by
  unfold Work.frameFailure
  dsimp only
  rw [if_neg Bool.false_ne_true, Work.degrade_field]
  refine congrArg FieldSt.frm (foldl_keeps (R := fun v u : Work => u.field = v.field) (fun _ => rfl) (fun h k => k.trans h)
    (fun v j => ?_) _ _)
  refine (Work.onlyCallEnd_frmEnd ..).field.trans ?_
  split
  · split <;> rfl
  · rfl

/-- Settles O52: a call by the room in the queue and its checks; the job that runs; the two failures. -/
theorem frameJobs : Obligations.FrameJobs := by
  unfold Obligations.FrameJobs
  refine fun s => ⟨?_, fun hidle => ?_, fun e rest hlanes hblocked => ?_, ?_, ?_⟩
  · intro d g a hd hg ha hruns c
    have hexec := exec_frame_eq hd hg ha hruns
    refine ⟨fun hnone => ?_, fun bs hrec => ⟨fun hno => ?_, fun hroom hblocked hout hfs => ?_⟩⟩
    · have heff : s.work.frameCall d g a = s.work.callReturn d g sRange (some 0) := by
        simp only [Work.frameCall, hnone]
      refine ⟨_, hexec, ?_, ?_, ?_, ?_⟩
      · exact State.on_mem_of_no_store (by rw [heff]; rfl) (by rw [heff]; rfl)
      · rw [State.on_field, heff]
        rfl
      · rw [State.getX_core_on, heff, Work.callReturn_status]
        rfl
      · rw [State.pc_core_on, heff, Work.callReturn_pc]
    · obtain ⟨t, ht, hshows⟩ := frameCall_blocked rfl hrec rfl hno
      exact ⟨t, hexec.trans (congrArg _ ht), hshows⟩
    · obtain ⟨t, ht, hmem, hjobs, hqueue, hreturns, hwaits⟩ := frameCall_accepted hg rfl hrec rfl hroom hblocked hout hfs
      exact ⟨t, hexec.trans (congrArg _ ht), hmem, hjobs, hqueue, hreturns, fun h => ⟨(hwaits h).1, (hwaits h).2.1⟩⟩
  · refine State.perform_unchanged (i := .frameJobComplete) rfl ?_
    have hnone : s.work.field.frm.lanes = [] := hidle
    simp only [Work.frameDone, hnone]
  · exact State.perform_eq_on (i := .frameJobComplete) (fun _ => _) rfl (Work.frameDone_of_unblocked rfl hlanes rfl hblocked)
  · have hexec : exec (.framePathAlignerFailure true) s = .next (s.on fun w => w.frameFailure true) :=
      State.perform_wf (i := .framePathAlignerFailure true) rfl
    obtain ⟨r, e, sp, f, heff⟩ :=
      ({ s.work with field := { s.work.field with alignerLost := true } } : Work).onlyFence_degrade 1
    refine ⟨_, hexec, ?_, ?_, ?_⟩
    · rw [State.on_field]
      exact Work.degrade_field ..
    · rw [State.rd_on]
      exact Work.degrade_shown ..
    · exact State.on_mem_of_no_store (congrArg Work.jnl heff) (congrArg Work.adds heff)
  · have hexec : exec (.framePathAlignerFailure false) s = .next (s.on fun w => w.frameFailure false) :=
      State.perform_wf (i := .framePathAlignerFailure false) rfl
    refine ⟨_, hexec, ?_, ?_⟩
    · rw [State.on_field]
      exact s.work.frameFailure_path
    · rw [State.rd_on]
      exact Work.degrade_shown ..

end Sys2Proof.Machine

/-! Counters of the device region, and stores beside other effects (chapters 16 and 17: R115, R451, R564). -/

namespace Sys2Proof.Machine

/-- Two fields of the device region at other places have other keys. -/
theorem Fld.key_ne_of_dev {f g : Fld} {i j : Nat} (hf : f.reg.info.place = .dev) (hg : g.reg.info.place = .dev)
    (h : (f.reg.info.off + i * f.reg.info.stride) * 8 + f.lo ≠ (g.reg.info.off + j * g.reg.info.stride) * 8 + g.lo) (d e : Nat) :
    f.key d i ≠ g.key e j := by
  rw [f.key_of_dev hf, g.key_of_dev hg]
  omega

/-- A counter counts one up, and wraps. -/
theorem Work.rd_bump (w : Work) (f : Fld) (d i n : Nat) : (w.bump f d i n).rd f d i = (w.rd f d i + n) % 2 ^ f.w :=
  Work.rd_wr_same ..

/-- A saturating counter counts up to its limit. -/
theorem Work.rd_bumpSat (w : Work) (f : Fld) (d i n : Nat) :
    (w.bumpSat f d i n).rd f d i = min (w.rd f d i + n) (2 ^ f.w - 1) := by
  rw [Work.bumpSat, Work.rd_wr_same]
  exact Nat.mod_eq_of_lt (lt_of_le_of_lt (Nat.min_le_right ..) (Nat.sub_lt (Nat.two_pow_pos _) Nat.one_pos))

theorem Work.sameAt_bump {k : Nat} {f : Fld} {d i : Nat} (h : f.key d i ≠ k) (w : Work) (n : Nat) : w.SameAt k (w.bump f d i n) :=
  Work.sameAt_wr h w _

theorem Work.sameAt_bumpSat {k : Nat} {f : Fld} {d i : Nat} (h : f.key d i ≠ k) (w : Work) (n : Nat) :
    w.SameAt k (w.bumpSat f d i n) := Work.sameAt_wr h w _

/-- Where a byte is stored, and whether it is, does not depend on the registers or on the watcher's note. -/
theorem Work.write_congr (w : Work) (r : List (Nat × Nat)) (e : EvtSt) (a : Nat) (bs : List Byte) :
    ({ w with regs := r, evt := e } : Work).write a bs = { w.write a bs with regs := r, evt := e } := by
  induction bs generalizing w a with
  | nil => rfl
  | cons b bs ih =>
    have hput : ({ w with regs := r, evt := e } : Work).put a (fun _ => b) = { w.put a (fun _ => b) with regs := r, evt := e } := by
      have hdt : ({ w with regs := r, evt := e } : Work).isDtPage a = w.isDtPage a := rfl
      have hkey : ({ w with regs := r, evt := e } : Work).key a = w.key a := rfl
      unfold Work.put
      rw [hdt, hkey]
      split
      · rfl
      · split <;> rfl
    simp only [Work.write, hput]
    exact ih (w.put a (fun _ => b)) (a + 1)

/-- Commands that store the same bytes leave the same memory. -/
theorem State.mem_on_congr {f g : Work → Work} {s : State} (hjnl : (f s.work).jnl = (g s.work).jnl) (hf : (f s.work).adds = [])
    (hg : (g s.work).adds = []) : (s.on f).mem = (s.on g).mem := by
  rw [State.on_mem, State.on_mem, Work.flushAdds_nil hf, Work.flushAdds_nil hg, hjnl]

/-- The tick number is a register. -/
theorem Work.SameAt.tickNo {w v : Work} (h : w.SameAt (F.timeTickCountCount.key 0 0) v) : v.tickNo = w.tickNo := h.rd_eq

end Sys2Proof.Machine

/-! Field records, field ports and their PTP clocks (chapters 16 and 18: R449 to R461, R584). -/

namespace Sys2Proof.Machine

/-! ## Frames and records at a field port (R451 to R459) -/

/-- A frame that is only counted. -/
theorem exec_of_counted {s : State} {i : Instr} {f : Fld} {p : Nat} (hexec : exec i s = .next (s.on fun w => w.bump f 0 p)) :
    ∃ t, exec i s = .next t ∧ t.mem = s.mem ∧ t.field = s.field ∧
      t.work.rd f 0 p = (s.work.rd f 0 p + 1) % 2 ^ f.w := by
  refine ⟨_, hexec, State.on_mem_of_no_store rfl rfl, ?_, ?_⟩
  · rw [State.on_field]
    rfl
  · rw [State.rd_on]
    exact s.work.rd_bump f 0 p 1

section
variable {w : Work} {p arrival : Nat} {bytes : List Byte} {fcsOk : Bool}

theorem Work.fieldFrame_of_no_link (hlink : w.rd F.fldStatLinkUp 0 p = 0) : w.fieldFrame p bytes fcsOk arrival = w := if_pos hlink

/-- A frame that is damaged, too long, or of another EtherType is counted. -/
theorem Work.fieldFrame_of_other (hlink : w.rd F.fldStatLinkUp 0 p ≠ 0) (h : fcsOk = false ∨ 9212 < bytes.length ∨
    (ofBytesBE (slice bytes 12 2) ≠ w.dv F.fldCfgEthertype ∧ ofBytesBE (slice bytes 12 2) ≠ 0x88F7)) :
    w.fieldFrame p bytes fcsOk arrival = w.bump F.fldStatDropOther 0 p := by
  unfold Work.fieldFrame
  rw [if_neg hlink]
  dsimp only
  rcases h with hfcs | hlen | ⟨hfield, hptp⟩
  · simp only [hfcs, Bool.false_and, Bool.false_eq_true, if_false]
  · have hlong : decide (bytes.length + 4 ≤ 9216) = false := decide_eq_false (by omega)
    simp only [hlong, Bool.and_false, Bool.false_and, Bool.false_eq_true, if_false]
  · simp only [hfield, hptp, decide_false, Bool.and_false, Bool.false_and, Bool.false_eq_true, if_false]

/-- A sound frame of the field EtherType with one record brings that record. -/
theorem Work.fieldFrame_of_record (hlink : w.rd F.fldStatLinkUp 0 p ≠ 0) (hmin : 22 ≤ bytes.length) (hmax : bytes.length ≤ 9212)
    (het : ofBytesBE (slice bytes 12 2) = w.dv F.fldCfgEthertype)
    (hdst : ofBytesBE (slice bytes 0 6) = w.rd F.fldPortMac 0 p ∨ ofBytesBE (slice bytes 0 6) = 0xFFFFFFFFFFFF)
    (hone : leAt (bytes.drop 14) 0 2 = 1)
    (hfull : 32 + alignUp (fieldOf (leAt (bytes.drop 22) 0 32) 144 16) 8 ≤ (bytes.drop 22).length) :
    w.fieldFrame p bytes true arrival = w.fieldRecord p arrival ⟨leAt (bytes.drop 22) 0 32,
      ((bytes.drop 22).drop 32).take (fieldOf (leAt (bytes.drop 22) 0 32) 144 16)⟩ := by
  have hsound : (true && decide (14 ≤ bytes.length) && decide (bytes.length + 4 ≤ 9216)) = true := by
    simp only [Bool.true_and, Bool.and_eq_true, decide_eq_true_eq]
    omega
  have hdst' : (decide (ofBytesBE (slice bytes 0 6) = w.rd F.fldPortMac 0 p) ||
      decide (ofBytesBE (slice bytes 0 6) = 0xFFFFFFFFFFFF)) = true := by simpa using hdst
  have hhead : ¬ ((bytes.drop 14).length < 8 ∨ leAt (bytes.drop 14) 0 2 = 0 ∨ 255 < leAt (bytes.drop 14) 0 2) := by
    rw [hone, List.length_drop]
    omega
  unfold Work.fieldFrame
  rw [if_neg hlink]
  dsimp only
  rw [hsound, het, hdst', if_pos (by simp), if_neg hhead, hone, List.drop_drop]
  exact if_neg (Nat.not_lt.mpr hfull)

end

section
variable {w : Work} {p arrival : Nat} {r : WireRec}

/-- In REST a record is dropped (R584). -/
theorem Work.fieldRecord_of_rest (hrest : w.devState = stRest) : w.fieldRecord p arrival r = w.bump F.fldStatRingFull 0 p :=
  if_pos hrest

theorem Work.fieldRecord_of_malformed (hrest : w.devState ≠ stRest)
    (h : r.malformed = true ∨ (w.fstream r.stream).on = false ∨ 1024 ≤ r.stream) :
    w.fieldRecord p arrival r = w.bump F.fldStatMalformed 0 p := by
  have hbad : (r.malformed || !(w.fstream r.stream).on || decide (1024 ≤ r.stream)) = true := by
    rcases h with h | h | h <;> simp [h]
  unfold Work.fieldRecord
  dsimp only
  rw [if_neg hrest, if_pos hbad]

/-- The record is of a stream that takes it (R454, R455). -/
structure FieldRecordSound (w : Work) (r : WireRec) : Prop where
  running : w.devState ≠ stRest
  wellFormed : r.malformed = false
  enabled : (w.fstream r.stream).on = true
  stream_lt : r.stream < 1024

/-- A record no later than the newest accepted is dropped. -/
theorem Work.fieldRecord_of_late (hs : FieldRecordSound w r) {h : Nat} (hh : (w.fstream r.stream).highest = some h)
    (hlate : r.seq ≤ h) : w.fieldRecord p arrival r = w.bump F.fldStatSeqDrop 0 p := by
  have hgood : (r.malformed || !(w.fstream r.stream).on || decide (1024 ≤ r.stream)) = false := by
    simp [hs.wellFormed, hs.enabled, hs.stream_lt]
  unfold Work.fieldRecord
  dsimp only
  rw [if_neg hs.running, if_neg (by simp [hgood]), if_pos (by simp [hh, hlate])]

/-- The ring slot that a stream's next record takes. -/
def FStream.ringSlot (x : FStream) : Nat := if x.slots = 0 then 0 else x.count % x.slots

/-- The sequence numbers that a record leaves out. -/
def FStream.gap (x : FStream) (seq : Nat) : Nat :=
  match x.highest with
  | some h => seq - h - 1
  | none => 0

/-- An accepted record counted, and those that it shows missing. -/
def Work.recordCounted (w : Work) (p : Nat) (x : FStream) (seq : Nat) : Work :=
  (w.bump F.fldStatRecords 0 p).bump F.fldStatSeqGap 0 p (x.gap seq)

/-- A record stored in its ring slot. -/
def Work.storeRecord (w : Work) (p arrival : Nat) (r : WireRec) (x : FStream) : Work :=
  let v := (w.recordCounted p x r.seq).fieldWrite (x.ringBase + x.ringSlot * x.slotBytes) (r.stored p arrival)
  v.setFstream r.stream { x with
    highest := some r.seq
    count := x.count + 1
    recs := x.recs.filter (fun e => e.slot ≠ x.ringSlot) ++ [⟨r.seq, r.cap, r.corrupt, x.ringSlot, v.tickNo⟩] }

/-- A record of no group and no image that fits and finds its slot free is stored. -/
theorem Work.fieldRecord_of_stored (hs : FieldRecordSound w r) {x : FStream} (hx : w.fstream r.stream = x)
    (hnew : ∀ h, x.highest = some h → h < r.seq) (hfits : (r.stored p arrival).length ≤ x.slotBytes)
    (hgroup : x.inGroup = false) (hframe : x.frameBase = 0) (hfree : w.slotHeld r.stream false x.ringSlot = false) :
    w.fieldRecord p arrival r = w.storeRecord p arrival r x := by
  subst hx
  have hgood : (r.malformed || !(w.fstream r.stream).on || decide (1024 ≤ r.stream)) = false := by
    simp [hs.wellFormed, hs.enabled, hs.stream_lt]
  have hlate : (w.fstream r.stream).highest.any (fun h => decide (r.seq ≤ h)) = false := by
    cases hh : (w.fstream r.stream).highest with
    | none => rfl
    | some h => simpa using hnew h hh
  have himage : (decide (r.ptype = 1) && decide ((w.fstream r.stream).frameBase ≠ 0)) = false := by simp [hframe]
  have hstale : ∀ (v : Work) (e : List FRec), v.isStale { w.fstream r.stream with
      highest := some r.seq, count := (w.fstream r.stream).count + 1, recs := e } r.cap = false := by
    intro v e
    have hin : FStream.inGroup { w.fstream r.stream with
      highest := some r.seq, count := (w.fstream r.stream).count + 1, recs := e } = false := hgroup
    simp only [Work.isStale, hin, Bool.false_and]
  have hslot : (if (w.fstream r.stream).slots = 0 then 0 else (w.fstream r.stream).count % (w.fstream r.stream).slots) =
    (w.fstream r.stream).ringSlot := rfl
  unfold Work.fieldRecord
  dsimp only
  rw [if_neg hs.running, if_neg (by simp [hgood]), if_neg (by simp [hlate]), if_neg (Nat.not_lt.mpr hfits), hslot,
    if_neg (by simp [hfree, hframe])]
  simp only [hstale, himage, Bool.false_eq_true, if_false]
  rfl

end

theorem Work.fieldWrite_eq (w : Work) (a : Nat) (bs : List Byte) : ∃ r e, w.fieldWrite a bs = { w.write a bs with regs := r, evt := e } := by
  unfold Work.fieldWrite
  split
  · exact ⟨_, _, rfl⟩
  · exact Work.onlyNotes_event ..

/-- The registers do not change what is stored. -/
theorem Work.fieldWrite_stores (w : Work) (r : List (Nat × Nat)) (a : Nat) (bs : List Byte) :
    (({ w with regs := r } : Work).fieldWrite a bs).jnl = (w.fieldWrite a bs).jnl ∧
      (({ w with regs := r } : Work).fieldWrite a bs).adds = w.adds := by
  obtain ⟨r1, e1, h1⟩ := ({ w with regs := r } : Work).fieldWrite_eq a bs
  obtain ⟨r2, e2, h2⟩ := w.fieldWrite_eq a bs
  obtain ⟨j, hd, hw⟩ := w.write_only a bs
  rw [h1, h2, Work.write_congr w r w.evt, hw]
  exact ⟨rfl, rfl⟩

theorem Work.sameAt_fieldWrite {k : Nat} (hk : AwayFromEvents k) (w : Work) (a : Nat) (bs : List Byte) :
    w.SameAt k (w.fieldWrite a bs) := by
  have hwrite := (w.onlyBytes_write a bs).sameAt k
  unfold Work.fieldWrite
  split
  · exact hwrite
  · exact hwrite.trans (Work.sameAt_event hk ..)

theorem fldStatRecords_away (p : Nat) (hp : p < 8) : AwayFromEvents (F.fldStatRecords.key 0 p) :=
  awayFromEvents_dev rfl (.inr (.inr (by show 0x14000 ≤ 0x20200 + p * 16; omega))) 0

theorem timeTickCount_away : AwayFromEvents (F.timeTickCountCount.key 0 0) :=
  awayFromEvents_dev rfl (.inl (by decide)) 0

theorem Work.recordCounted_only (w : Work) (p : Nat) (x : FStream) (seq : Nat) : ∃ r, w.recordCounted p x seq = { w with regs := r } :=
  ⟨_, rfl⟩

theorem Work.setFstream_jnl (w : Work) (s : Nat) (x : FStream) : (w.setFstream s x).jnl = w.jnl := rfl

theorem Work.setFstream_adds (w : Work) (s : Nat) (x : FStream) : (w.setFstream s x).adds = w.adds := rfl

theorem Work.setFstream_regs (w : Work) (s : Nat) (x : FStream) : (w.setFstream s x).regs = w.regs := rfl

theorem Work.fstream_setFstream (w : Work) (s : Nat) (x : FStream) : (w.setFstream s x).fstream s = x := smGet_smSet_same ..

theorem State.fstream_on (f : Work → Work) (s : State) (n : Nat) : (s.on f).work.fstream n = (f s.work).fstream n := by
  unfold Work.fstream
  rw [State.work_toBlock, State.on_field]

section
variable {w : Work} {p arrival : Nat} {r : WireRec} {x : FStream}

/-- Counting a record does not change what is stored of it. -/
theorem Work.storeRecord_stores : (w.storeRecord p arrival r x).jnl =
      (w.fieldWrite (x.ringBase + x.ringSlot * x.slotBytes) (r.stored p arrival)).jnl ∧
    (w.storeRecord p arrival r x).adds = w.adds := by
  obtain ⟨rg, hcounted⟩ := w.recordCounted_only p x r.seq
  rw [Work.storeRecord, Work.setFstream_jnl, Work.setFstream_adds, hcounted]
  exact w.fieldWrite_stores rg _ _

theorem Work.storeRecord_tickNo : ((w.recordCounted p x r.seq).fieldWrite (x.ringBase + x.ringSlot * x.slotBytes)
    (r.stored p arrival)).tickNo = w.tickNo := by
  have hrecords : F.fldStatRecords.key 0 p ≠ F.timeTickCountCount.key 0 0 :=
    Fld.key_ne_of_dev rfl rfl (by show (0x20200 + p * 16) * 8 + 0 ≠ (0x10 + 0 * 0) * 8 + 0; omega) 0 0
  have hgap : F.fldStatSeqGap.key 0 p ≠ F.timeTickCountCount.key 0 0 :=
    Fld.key_ne_of_dev rfl rfl (by show (0x20200 + p * 16) * 8 + 80 ≠ (0x10 + 0 * 0) * 8 + 0; omega) 0 0
  exact ((Work.sameAt_bump hrecords _ _).trans ((Work.sameAt_bump hgap _ _).trans
    (Work.sameAt_fieldWrite timeTickCount_away ..))).tickNo

theorem Work.storeRecord_counted (hp : p < 8) : (w.storeRecord p arrival r x).rd F.fldStatRecords 0 p =
    (w.rd F.fldStatRecords 0 p + 1) % 2 ^ F.fldStatRecords.w := by
  have hgap : F.fldStatSeqGap.key 0 p ≠ F.fldStatRecords.key 0 p :=
    Fld.key_ne_of_dev rfl rfl (by show (0x20200 + p * 16) * 8 + 80 ≠ (0x20200 + p * 16) * 8 + 0; omega) 0 0
  have hsame : (w.bump F.fldStatRecords 0 p).SameAt (F.fldStatRecords.key 0 p) (w.storeRecord p arrival r x) :=
    (Work.sameAt_bump hgap _ _).trans ((Work.sameAt_fieldWrite (fldStatRecords_away p hp) ..).trans
      (Work.sameAt_of_regs (Work.setFstream_regs ..) _))
  rw [hsame.rd_eq]
  exact w.rd_bump ..

/-- What a stored record shows. -/
theorem storeRecord_shows {s : State} {i : Instr} (hp : p < 8)
    (hexec : exec i s = .next (s.on fun w => w.storeRecord p arrival r x)) :
    ∃ t, exec i s = .next t ∧
      t.mem = (s.on fun w => w.fieldWrite (x.ringBase + x.ringSlot * x.slotBytes) (r.stored p arrival)).mem ∧
      t.work.fstream r.stream = { x with
        highest := some r.seq
        count := x.count + 1
        recs := x.recs.filter (fun e => e.slot ≠ x.ringSlot) ++ [⟨r.seq, r.cap, r.corrupt, x.ringSlot, s.work.tickNo⟩] } ∧
      t.work.rd F.fldStatRecords 0 p = (s.work.rd F.fldStatRecords 0 p + 1) % 2 ^ F.fldStatRecords.w := by
  obtain ⟨hjnl, hadds⟩ := Work.storeRecord_stores (w := s.work) (p := p) (arrival := arrival) (r := r) (x := x)
  refine ⟨_, hexec, State.mem_on_congr hjnl hadds (s.work.fieldWrite_stores s.work.regs _ _).2, ?_, ?_⟩
  · rw [State.fstream_on, Work.storeRecord, Work.fstream_setFstream, Work.storeRecord_tickNo]
  · rw [State.rd_on]
    exact Work.storeRecord_counted hp

end

/-! ## Ports (R449, R452) -/

theorem portStatus_sent {s : State} {p : Nat} (hp : p < 8) (hlink : s.work.rd F.fldStatLinkUp 0 p = 1)
    (hms : s.work.rd F.fldPortStatusMs 0 p ≠ 0) : ∃ t m, exec (.portStatusFrame p) s = .next t ∧
      t.out = (32 + p, m) :: s.out ∧ t.regs = s.regs ∧ t.mem = s.mem ∧
      m.payload = toBytesBE 6 0xFFFFFFFFFFFF ++ toBytesBE 6 (s.work.rd F.fldPortMac 0 p) ++
        toBytesBE 2 (s.work.dv F.fldCfgEthertype) ++ toBytes 8 0 ++ toBytes 32 (s.work.deviceId % 512 + p * 2 ^ 9 +
          s.work.rd F.fldPtpState 0 p * 2 ^ 12 + s.work.rd F.fldPtpOffsetNs 0 p * 2 ^ 32 +
          s.work.rd F.fldStatRecords 0 p * 2 ^ 64) := by
  have hexec := State.perform_eq_on (i := .portStatusFrame p) (f := fun w => w.portStatus p) (s := s) (fun _ => _)
    (decide_eq_true hp) (if_pos ⟨hlink, hms⟩)
  refine ⟨_, _, hexec, (State.on_out ..).trans rfl, ?_, State.on_mem_of_no_store rfl rfl, ?_⟩
  · rw [State.on_regs]
    rfl
  · rfl

theorem fldStatLinkUp_away (p : Nat) : AwayFromEvents (F.fldStatLinkUp.key 0 p) :=
  awayFromEvents_dev rfl (.inr (.inr (by show 0x14000 ≤ 0x20200 + p * 16; omega))) 0

theorem fieldLinkChange_shows {s : State} {p : Nat} (hp : p < 8) (up : Bool) (kind : CageModule) :
    ∃ t, exec (.fieldLinkChange p up kind) s = .next t ∧ t.mem = s.mem ∧ t.field = s.field ∧
      (t.work.rd F.fldStatLinkUp 0 p = 1 ↔ up = true ∧ (kind = .dr1 ∨ kind = .fr1) ∧ s.work.rd F.fldPortEnable 0 p = 1 ∧
        s.work.modl.lowPower.contains p = false) := by
  set now := up && (decide (kind = .dr1) || decide (kind = .fr1)) && decide (s.work.rd F.fldPortEnable 0 p = 1) &&
    !s.work.modl.lowPower.contains p with hnow
  have hnotes : s.work.OnlyNotes (s.work.fieldLink p up kind) := by
    unfold Work.fieldLink
    dsimp only
    split
    · exact (Work.onlyNotes_wrB ..).trans (Work.onlyNotes_event ..)
    · exact Work.onlyNotes_wrB ..
  have hsame : (s.work.wrB F.fldStatLinkUp 0 p now).SameAt (F.fldStatLinkUp.key 0 p) (s.work.fieldLink p up kind) := by
    unfold Work.fieldLink
    dsimp only
    split
    · exact Work.sameAt_event (fldStatLinkUp_away p) ..
    · exact .refl _ _
  have hread : (s.work.wrB F.fldStatLinkUp 0 p now).rd F.fldStatLinkUp 0 p = if now then 1 else 0 := by
    rw [Work.wrB, Work.rd_wr_same]
    cases now <;> rfl
  obtain ⟨r, e, hlink⟩ := hnotes
  have hexec : exec (.fieldLinkChange p up kind) s = .next (s.on fun w => w.fieldLink p up kind) :=
    State.perform_wf (i := .fieldLinkChange p up kind) (decide_eq_true hp)
  refine ⟨_, hexec, State.on_mem_of_no_store ?_ ?_, ?_, ?_⟩
  · rw [hlink]
    rfl
  · rw [hlink]
    rfl
  · rw [State.on_field, hlink]
    rfl
  · rw [State.rd_on, hsame.rd_eq, hread]
    have hiff : now = true ↔ up = true ∧ (kind = .dr1 ∨ kind = .fr1) ∧ s.work.rd F.fldPortEnable 0 p = 1 ∧
        s.work.modl.lowPower.contains p = false := by
      simp [hnow, and_assoc]
    rw [← hiff]
    cases now <;> simp

/-! ## PTP clocks (R460, R461) -/

@[simp] theorem Work.clock_setClock (w : Work) (p : Nat) (x : FPtp) : (w.setClock p x).clock p = x := smGet_smSet_same ..

theorem State.clock_on (f : Work → Work) (s : State) (p : Nat) : (s.on f).work.clock p = (f s.work).clock p := by
  unfold Work.clock
  rw [State.work_toBlock, State.on_field]

/-- What the four messages of a clock do with one that it takes. -/
def ptpRow (p t2 t3 : Nat) (m : PtpMsg) : List (Instr × (Work → Work)) :=
  [(.ptpAnnounce p m, fun w => w.announceAt p m), (.ptpSync p m t2 t3, fun w => w.syncAt p m t2 t3),
   (.ptpFollowUp p m t3, fun w => w.followUpAt p m t3), (.ptpDelayResp p m, fun w => w.delayRespAt p m)]

section
variable {s : State} {p t2 t3 : Nat} {m : PtpMsg} {i : Instr} {f : Work → Work} (hp : p < 8) (hm : m.wf = true)
  (hrow : (i, f) ∈ ptpRow p t2 t3 m)
include hp hm hrow

theorem exec_ptpRow : exec i s = s.perform i (fun w => w.ptpMsg p m f) ∧ i.wf = true := by
  have hwf : (decide (p < 8) && m.wf) = true := by simp [hp, hm]
  simp only [ptpRow, List.mem_cons, List.not_mem_nil, or_false, Prod.mk.injEq] at hrow
  rcases hrow with ⟨rfl, rfl⟩ | ⟨rfl, rfl⟩ | ⟨rfl, rfl⟩ | ⟨rfl, rfl⟩ <;> exact ⟨rfl, hwf⟩

theorem exec_ptpRow_of_off (hoff : s.work.ptpOn p = false ∨ s.work.rd F.fldStatLinkUp 0 p = 0) : exec i s = .next s := by
  obtain ⟨hexec, hwf⟩ := exec_ptpRow (s := s) hp hm hrow
  have h : (!s.work.ptpOn p) = true ∨ s.work.rd F.fldStatLinkUp 0 p = 0 := hoff.imp_left (by simp [·])
  exact hexec.trans (State.perform_unchanged hwf (if_pos h))

variable (hon : s.work.ptpOn p = true) (hlink : s.work.rd F.fldStatLinkUp 0 p ≠ 0)
include hon hlink

theorem exec_ptpRow_of_other_domain (hdomain : m.domain ≠ s.work.rd F.fldPtpDomain 0 p) :
    ∃ t, exec i s = .next t ∧ t.field = s.field ∧ t.mem = s.mem ∧
      t.work.rd F.fldPtpDrop 0 p = (s.work.rd F.fldPtpDrop 0 p + 1) % 2 ^ F.fldPtpDrop.w := by
  obtain ⟨hexec, hwf⟩ := exec_ptpRow (s := s) hp hm hrow
  have hdrop : exec i s = .next (s.on fun w => w.bump F.fldPtpDrop 0 p) := by
    refine hexec.trans (State.perform_eq_on _ hwf ?_)
    rw [Work.ptpMsg, if_neg (by simp [hon, hlink]), if_pos hdomain]
  obtain ⟨t, hnext, hmem, hfield, hcount⟩ := exec_of_counted hdrop
  exact ⟨t, hnext, hfield, hmem, hcount⟩

theorem exec_ptpRow_of_taken (hdomain : m.domain = s.work.rd F.fldPtpDomain 0 p) : exec i s = .next (s.on f) := by
  obtain ⟨hexec, hwf⟩ := exec_ptpRow (s := s) hp hm hrow
  refine hexec.trans (State.perform_eq_on _ hwf ?_)
  rw [Work.ptpMsg, if_neg (by simp [hon, hlink]), if_neg (not_not.mpr hdomain)]

end

/-! ### Announce -/

/-- The clock takes a better master. -/
def Work.takeMaster (w : Work) (p : Nat) (m : PtpMsg) : Work :=
  (w.setClock p { w.clock p with master := some (m.source, m.rank), sync := none, exch := none }).wr F.fldPtpState 0 p
    ptpUncalibrated

section
variable {w : Work} {p : Nat} {m : PtpMsg}

theorem Work.announceAt_of_better (h : (w.clock p).master = none ∨
    ∃ a b, (w.clock p).master = some (a, b) ∧ a ≠ m.source ∧ m.rank < b) : w.announceAt p m = w.takeMaster p m := by
  rcases h with h | ⟨a, b, h, hne, hlt⟩
  · simp only [Work.announceAt, h, Work.takeMaster]
  · simp only [Work.announceAt, h, if_neg hne, if_pos hlt, Work.takeMaster]

theorem Work.announceAt_of_worse {a b : Nat} (h : (w.clock p).master = some (a, b)) (hne : a ≠ m.source) (hle : b ≤ m.rank) :
    w.announceAt p m = w := by
  simp only [Work.announceAt, h, if_neg hne, if_neg (Nat.not_lt.mpr hle)]

theorem Work.announceAt_of_same {b : Nat} (h : (w.clock p).master = some (m.source, b)) :
    w.announceAt p m = w.setClock p { w.clock p with master := some (m.source, m.rank) } := by
  simp only [Work.announceAt, h, if_true]

end

theorem fldPtpState_ne_locked (p : Nat) : F.fldPtpState.key 0 p ≠ F.fldPtpLocked.key 0 p :=
  Fld.key_ne_of_dev rfl rfl (by show (0x20140 + p * 8) * 8 + 0 ≠ (0x20140 + p * 8) * 8 + 2; omega) 0 0

theorem fldPtpOffset_ne_locked (p : Nat) : F.fldPtpOffsetNs.key 0 p ≠ F.fldPtpLocked.key 0 p :=
  Fld.key_ne_of_dev rfl rfl (by show (0x20140 + p * 8) * 8 + 32 ≠ (0x20140 + p * 8) * 8 + 2; omega) 0 0

theorem fldPtpState_ne_offset (p : Nat) : F.fldPtpState.key 0 p ≠ F.fldPtpOffsetNs.key 0 p :=
  Fld.key_ne_of_dev rfl rfl (by show (0x20140 + p * 8) * 8 + 0 ≠ (0x20140 + p * 8) * 8 + 32; omega) 0 0

/-- What a better master leaves. -/
theorem takeMaster_shows {s : State} {p : Nat} {m : PtpMsg} {i : Instr} (hexec : exec i s = .next (s.on fun w => w.takeMaster p m)) :
    ∃ t, exec i s = .next t ∧ (t.work.clock p).master = some (m.source, m.rank) ∧
      (t.work.clock p).good = (s.work.clock p).good ∧ (t.work.clock p).exch = none ∧
      t.work.rd F.fldPtpState 0 p = ptpUncalibrated ∧
      t.work.rd F.fldPtpLocked 0 p = s.work.rd F.fldPtpLocked 0 p := by
  have hclock : (s.work.takeMaster p m).clock p =
      { s.work.clock p with master := some (m.source, m.rank), sync := none, exch := none } := Work.clock_setClock ..
  refine ⟨_, hexec, ?_, ?_, ?_, ?_, ?_⟩
  · rw [State.clock_on, hclock]
  · rw [State.clock_on, hclock]
  · rw [State.clock_on, hclock]
  · rw [State.rd_on]
    exact Work.rd_wr_same ..
  · rw [State.rd_on]
    exact (Work.sameAt_wr (fldPtpState_ne_locked p)
      (s.work.setClock p { s.work.clock p with master := some (m.source, m.rank), sync := none, exch := none })
      ptpUncalibrated).rd_eq

/-! ### Sync, Follow_Up and Delay_Req -/

section
variable {w : Work} {p t2 t3 : Nat} {m : PtpMsg}

theorem Work.ptpRow_of_other_source {i : Instr} {f : Work → Work} (hother : w.fromMaster p m = false)
    (hrow : (i, f) ∈ (ptpRow p t2 t3 m).drop 1) : f w = w := by
  simp only [ptpRow, List.drop_succ_cons, List.drop_zero, List.mem_cons, List.not_mem_nil, or_false, Prod.mk.injEq] at hrow
  rcases hrow with ⟨-, rfl⟩ | ⟨-, rfl⟩ | ⟨-, rfl⟩
  · simp only [Work.syncAt, hother, Bool.not_false, if_true]
  · simp only [Work.followUpAt, hother, Bool.false_eq_true, false_and, if_false]
    split <;> rfl
  · simp only [Work.delayRespAt, hother, Bool.false_eq_true, false_and, if_false]
    split <;> rfl

/-- A two-step Sync waits for its Follow_Up. -/
theorem Work.syncAt_of_two_step (hmaster : w.fromMaster p m = true) (htwo : m.twoStep = true) :
    w.syncAt p m t2 t3 = w.setClock p { w.clock p with sync := some (m.seqId, t2) } := by
  simp only [Work.syncAt, hmaster, htwo, Bool.not_true, Bool.false_eq_true, if_false, if_true]

theorem Work.syncAt_of_one_step (hmaster : w.fromMaster p m = true) (htwo : m.twoStep = false) :
    w.syncAt p m t2 t3 = w.delayReqTo p m.seqId (ptpNs m) t2 t3 := by
  simp only [Work.syncAt, hmaster, htwo, Bool.not_true, Bool.false_eq_true, if_false]

theorem Work.followUpAt_of_sync {t1 : Nat} (hmaster : w.fromMaster p m = true) (hsync : (w.clock p).sync = some (m.seqId, t1)) :
    w.followUpAt p m t3 = w.delayReqTo p m.seqId (ptpNs m) t1 t3 := by
  simp only [Work.followUpAt, hmaster, hsync, and_self, if_true]

/-- A first Delay_Req is sent, and its exchange begins. -/
theorem Work.delayReqTo_of_first (seq : Nat) (t1 : Int) (t2 t3 : Nat) (hfirst : (w.clock p).lastReq = none) :
    ∃ bs, w.delayReqTo p seq t1 t2 t3 =
      (w.setClock p { w.clock p with sync := none, exch := some (seq, t1, t2, t3), lastReq := some t3 }).fieldSend p bs := by
  simp only [Work.delayReqTo, hfirst, Bool.false_eq_true, if_false]
  exact ⟨_, rfl⟩

end

/-- What a clock that is set leaves. -/
theorem setClock_shows {s : State} {p : Nat} {i : Instr} {x : FPtp} (hexec : exec i s = .next (s.on fun w => w.setClock p x)) :
    ∃ t, exec i s = .next t ∧ t.regs = s.regs ∧ t.out = s.out ∧ t.work.clock p = x := by
  refine ⟨_, hexec, ?_, ?_, ?_⟩
  · rw [State.on_regs]
    rfl
  · rw [State.on_out]
    rfl
  · rw [State.clock_on, Work.clock_setClock]

theorem delayReq_shows {s : State} {p seq : Nat} {t1 : Int} {t2 t3 : Nat} {i : Instr} (hfirst : (s.work.clock p).lastReq = none)
    (hexec : exec i s = .next (s.on fun w => w.delayReqTo p seq t1 t2 t3)) :
    ∃ t, exec i s = .next t ∧ t.regs = s.regs ∧ t.out.length = s.out.length + 1 ∧
      t.work.clock p = { s.work.clock p with sync := none, exch := some (seq, t1, t2, t3), lastReq := some t3 } := by
  obtain ⟨bs, hreq⟩ := Work.delayReqTo_of_first seq t1 t2 t3 hfirst
  refine ⟨_, hexec, ?_, ?_, ?_⟩
  · rw [State.on_regs, hreq]
    rfl
  · rw [State.on_out, hreq]
    rfl
  · rw [State.clock_on, hreq]
    exact Work.clock_setClock ..

/-! ### Delay_Resp and the lock -/

theorem fldPtp_away {f : Fld} (hplace : f.reg.info.place = .dev) (hoff : 0x14000 ≤ f.reg.info.off) (p : Nat) :
    AwayFromEvents (f.key 0 p) := awayFromEvents_dev hplace (.inr (.inr (by omega))) 0

/-- A field of a clock's register, LOCKED aside, keeps its value as the lock changes. -/
theorem Work.sameAt_setLocked {k : Nat} (hk : AwayFromEvents k) {p : Nat} (hlocked : F.fldPtpLocked.key 0 p ≠ k)
    (hshown : F.timeSrcPtpLocked.key 0 0 ≠ k) (w : Work) (on : Bool) : w.SameAt k (w.setLocked p on) := by
  have hset := w.sameAt_wr hlocked (if on then 1 else 0)
  have hshow : ∀ v : Work, v.SameAt k (if v.dv F.timeSrcPtpPort = p then v.wrB F.timeSrcPtpLocked 0 0 on else v) := by
    intro v
    split
    · exact Work.sameAt_wr hshown ..
    · exact .refl k v
  unfold Work.setLocked
  dsimp only
  split
  · exact hset.trans (hshow _)
  · exact hset.trans ((hshow _).trans (Work.sameAt_event hk ..))

theorem Work.onlyNotes_setLocked (w : Work) (p : Nat) (on : Bool) : w.OnlyNotes (w.setLocked p on) := by
  have hshow : ∀ v : Work, v.OnlyNotes (if v.dv F.timeSrcPtpPort = p then v.wrB F.timeSrcPtpLocked 0 0 on else v) := by
    intro v
    split
    · exact Work.onlyNotes_wrB ..
    · exact .refl v
  unfold Work.setLocked
  dsimp only
  split
  · exact (Work.onlyNotes_wrB ..).trans (hshow _)
  · exact (Work.onlyNotes_wrB ..).trans ((hshow _).trans (Work.onlyNotes_event ..))

/-- The key is one of a clock's register, away from the event sources and the time registers. -/
structure ClockKey (k : Nat) : Prop where
  away : AwayFromEvents k
  ne_shown : F.timeSrcPtpLocked.key 0 0 ≠ k
  ne_offset : F.timeSrcOffsetNs.key 0 0 ≠ k
  ne_now : F.timeNowNowNs.key 0 0 ≠ k

theorem clockKey {f : Fld} (hreg : f.reg = .fldPtp) (p : Nat) : ClockKey (f.key 0 p) := by
  have hplace : f.reg.info.place = .dev := by rw [hreg]; rfl
  have hoff : f.reg.info.off = 0x20140 := by rw [hreg]; rfl
  refine ⟨fldPtp_away hplace (by omega) p, ?_, ?_, ?_⟩
  · exact Fld.key_ne_of_dev rfl hplace (by rw [hoff]; show (0x20 + 0 * 0) * 8 + 19 ≠ _; omega) 0 0
  · exact Fld.key_ne_of_dev rfl hplace (by rw [hoff]; show (0x20 + 0 * 0) * 8 + 32 ≠ _; omega) 0 0
  · exact Fld.key_ne_of_dev rfl hplace (by rw [hoff]; show (0x18 + 0 * 0) * 8 + 0 ≠ _; omega) 0 0

theorem Work.setLocked_shown (w : Work) (p : Nat) (on : Bool) :
    (w.setLocked p on).rd F.fldPtpLocked 0 p = if on then 1 else 0 := by
  have hk : ClockKey (F.fldPtpLocked.key 0 p) := clockKey rfl p
  have hshow : ∀ v : Work, v.SameAt (F.fldPtpLocked.key 0 p)
      (if v.dv F.timeSrcPtpPort = p then v.wrB F.timeSrcPtpLocked 0 0 on else v) := by
    intro v
    split
    · exact Work.sameAt_wr hk.ne_shown ..
    · exact .refl _ v
  have hset : (w.wrB F.fldPtpLocked 0 p on).rd F.fldPtpLocked 0 p = if on then 1 else 0 := by
    rw [Work.wrB, Work.rd_wr_same]
    cases on <;> rfl
  refine (Work.SameAt.rd_eq ?_).trans hset
  unfold Work.setLocked
  dsimp only
  split
  · exact hshow _
  · exact (hshow _).trans (Work.sameAt_event hk.away ..)

/-- The port that TIME_SRC names moves the time base, and no clock. -/
theorem Work.discipline_keeps {k : Nat} (hk : ClockKey k) (w : Work) (p : Nat) (off : Int) :
    w.SameAt k (w.discipline p off) ∧ (w.discipline p off).field = w.field := by
  have hset := Work.sameAt_wr hk.ne_offset w (sat32 off)
  unfold Work.discipline
  dsimp only
  split
  · exact ⟨.refl k w, rfl⟩
  · split
    · split
      · exact ⟨hset.trans (Work.sameAt_of_regs rfl k), rfl⟩
      · split
        · exact ⟨hset.trans ((Work.sameAt_wr hk.ne_now ..).trans (Work.sameAt_of_regs rfl k)), rfl⟩
        · exact ⟨hset, rfl⟩
    · exact ⟨hset, rfl⟩

/-- A clock's estimate before its lock changes: its count, its offset and its state. -/
def Work.estimated (w : Work) (p n : Nat) (off : Int) : Work :=
  ((w.setClock p { w.clock p with good := min n 16, exch := none }).wr F.fldPtpOffsetNs 0 p (sat32 off)).wr F.fldPtpState 0 p ptpSlave

/-- How many good estimates there are after one more. -/
def goodAfter (good : Nat) (off : Int) : Nat := if off.natAbs ≤ 1000 then good + 1 else 0

/-- The lock after an estimate: it falls with a bad one, and rises with the sixteenth good one. -/
def Work.lockAfter (w : Work) (p good : Nat) (off : Int) : Work :=
  if off.natAbs ≤ 1000 then (if 16 ≤ goodAfter good off then w.setLocked p true else w) else w.setLocked p false

theorem Work.ptpEstimate_eq (w : Work) (p : Nat) (off : Int) : w.ptpEstimate p off =
    ((w.estimated p (goodAfter (w.clock p).good off) off).lockAfter p (w.clock p).good off).discipline p off := by
  unfold Work.ptpEstimate Work.lockAfter Work.estimated goodAfter
  by_cases h : off.natAbs ≤ 1000
  · simp only [h, decide_true, if_true, Bool.not_true, Bool.false_eq_true, if_false]
  · simp only [h, decide_false, if_false, Bool.not_false, if_true, Bool.false_eq_true]

theorem Work.lockAfter_locked (w : Work) (p good : Nat) (off : Int) : (w.lockAfter p good off).rd F.fldPtpLocked 0 p =
    let n := if off.natAbs ≤ 1000 then min (good + 1) 16 else 0
    if n = 0 then 0 else if n = 16 then 1 else w.rd F.fldPtpLocked 0 p := by
  unfold Work.lockAfter goodAfter
  by_cases h : off.natAbs ≤ 1000
  · have hpos : min (good + 1) 16 ≠ 0 := by omega
    simp only [h, if_true, hpos, if_false]
    by_cases hfull : 16 ≤ good + 1
    · have hmin : min (good + 1) 16 = 16 := by omega
      simp only [hfull, if_true, hmin, Work.setLocked_shown]
    · have hmin : min (good + 1) 16 ≠ 16 := by omega
      simp only [hfull, if_false, hmin]
  · simp only [h, if_false, if_true, Work.setLocked_shown, Bool.false_eq_true]

theorem Work.lockAfter_keeps {k : Nat} (hk : ClockKey k) {p : Nat} (hlocked : F.fldPtpLocked.key 0 p ≠ k) (w : Work) (good : Nat)
    (off : Int) : w.SameAt k (w.lockAfter p good off) := by
  unfold Work.lockAfter
  split
  · split
    · exact Work.sameAt_setLocked hk.away hlocked hk.ne_shown w true
    · exact .refl k w
  · exact Work.sameAt_setLocked hk.away hlocked hk.ne_shown w false

theorem Work.lockAfter_field (w : Work) (p good : Nat) (off : Int) : (w.lockAfter p good off).field = w.field := by
  have hset : ∀ on, (w.setLocked p on).field = w.field := by
    intro on
    obtain ⟨r, e, h⟩ := w.onlyNotes_setLocked p on
    rw [h]
  unfold Work.lockAfter
  split
  · split
    · exact hset true
    · rfl
  · exact hset false

theorem sat32_lt (off : Int) : sat32 off < 2 ^ 32 := by
  have hpos : (0 : Int) < 2 ^ 32 := by norm_num
  have hlt := Int.emod_lt_of_pos (clampTo (-(2 ^ 31 - 1)) (2 ^ 31 - 1) off).1 hpos
  have hnn := Int.emod_nonneg (clampTo (-(2 ^ 31 - 1)) (2 ^ 31 - 1) off).1 hpos.ne'
  unfold sat32 wrapTo
  omega

/-- What an estimate of a clock leaves in its registers, and in the clock. -/
theorem Work.ptpEstimate_shows (w : Work) (p : Nat) (off : Int) :
    let u := w.ptpEstimate p off
    let n := if off.natAbs ≤ 1000 then min ((w.clock p).good + 1) 16 else 0
    u.rd F.fldPtpState 0 p = ptpSlave ∧ u.rd F.fldPtpOffsetNs 0 p = sat32 off ∧
      u.clock p = { w.clock p with good := n, exch := none } ∧
      u.rd F.fldPtpLocked 0 p = if n = 0 then 0 else if n = 16 then 1 else w.rd F.fldPtpLocked 0 p := by
  rw [w.ptpEstimate_eq p off]
  set v := w.estimated p (goodAfter (w.clock p).good off) off
  set u := v.lockAfter p (w.clock p).good off
  have hstate : ClockKey (F.fldPtpState.key 0 p) := clockKey rfl p
  have hoffset : ClockKey (F.fldPtpOffsetNs.key 0 p) := clockKey rfl p
  have hlocked : ClockKey (F.fldPtpLocked.key 0 p) := clockKey rfl p
  have hfield : (u.discipline p off).field = v.field :=
    (Work.discipline_keeps hstate u p off).2.trans (Work.lockAfter_field ..)
  have hn : min (goodAfter (w.clock p).good off) 16 = if off.natAbs ≤ 1000 then min ((w.clock p).good + 1) 16 else 0 := by
    unfold goodAfter
    split <;> rfl
  refine ⟨?_, ?_, ?_, ?_⟩
  · rw [(Work.discipline_keeps hstate u p off).1.rd_eq,
      (Work.lockAfter_keeps hstate (fldPtpState_ne_locked p).symm v _ off).rd_eq]
    exact Work.rd_wr_same ..
  · rw [(Work.discipline_keeps hoffset u p off).1.rd_eq,
      (Work.lockAfter_keeps hoffset (fldPtpOffset_ne_locked p).symm v _ off).rd_eq]
    show ((_ : Work).wr F.fldPtpState 0 p ptpSlave).rd F.fldPtpOffsetNs 0 p = sat32 off
    rw [(Work.sameAt_wr (fldPtpState_ne_offset p) _ ptpSlave).rd_eq, Work.rd_wr_same]
    exact Nat.mod_eq_of_lt (sat32_lt off)
  · rw [← hn]
    unfold Work.clock
    rw [hfield]
    exact Work.clock_setClock w p _
  · rw [(Work.discipline_keeps hlocked u p off).1.rd_eq, v.lockAfter_locked]
    have hold : v.rd F.fldPtpLocked 0 p = w.rd F.fldPtpLocked 0 p := by
      have hclock := Work.sameAt_of_regs (w := w)
        (v := w.setClock p { w.clock p with good := min (goodAfter (w.clock p).good off) 16, exch := none }) rfl
        (F.fldPtpLocked.key 0 p)
      exact (hclock.trans ((Work.sameAt_wr (fldPtpOffset_ne_locked p) _ _).trans
        (Work.sameAt_wr (fldPtpState_ne_locked p) _ _))).rd_eq
    rw [hold]

/-- The Delay_Resp of the exchange gives the offset of the four stamps. -/
theorem Work.delayRespAt_of_exchange {w : Work} {p u2 u3 : Nat} {m : PtpMsg} {t1 : Int} (hmaster : w.fromMaster p m = true)
    (hexch : (w.clock p).exch = some (m.seqId, t1, u2, u3)) :
    w.delayRespAt p m = (w.setClock p { w.clock p with minLog := m.logInterval }).ptpEstimate p
      ((((u2 : Int) - t1) - (((m.seconds * 1000000000 + m.nanoseconds : Nat) - m.correction) - u3)) / 2) := by
  simp only [Work.delayRespAt, hexch, hmaster, and_self, if_true]

theorem delayResp_shows {s : State} {p u2 u3 : Nat} {m : PtpMsg} {t1 : Int} {i : Instr}
    (hmaster : s.work.fromMaster p m = true) (hexch : (s.work.clock p).exch = some (m.seqId, t1, u2, u3))
    (hexec : exec i s = .next (s.on fun w => w.delayRespAt p m)) :
    let t4 : Int := (m.seconds * 1000000000 + m.nanoseconds : Nat) - m.correction
    let off := (((u2 : Int) - t1) - (t4 - u3)) / 2
    let n := if off.natAbs ≤ 1000 then min ((s.work.clock p).good + 1) 16 else 0
    ∃ t, exec i s = .next t ∧ t.work.rd F.fldPtpState 0 p = ptpSlave ∧ t.work.rd F.fldPtpOffsetNs 0 p = sat32 off ∧
      (t.work.clock p).good = n ∧ (t.work.clock p).minLog = m.logInterval ∧ (t.work.clock p).exch = none ∧
      t.work.rd F.fldPtpLocked 0 p = if n = 0 then 0 else if n = 16 then 1 else s.work.rd F.fldPtpLocked 0 p := by
  intro t4 off n
  set v := s.work.setClock p { s.work.clock p with minLog := m.logInterval }
  have hv : v.clock p = { s.work.clock p with minLog := m.logInterval } := Work.clock_setClock ..
  obtain ⟨hstate, hoffset, hclock, hlocked⟩ := v.ptpEstimate_shows p off
  rw [hv] at hclock hlocked
  have heff := Work.delayRespAt_of_exchange hmaster hexch
  refine ⟨_, hexec, ?_, ?_, ?_, ?_, ?_, ?_⟩
  · rw [State.rd_on, heff]
    exact hstate
  · rw [State.rd_on, heff]
    exact hoffset
  · rw [State.clock_on, heff, hclock]
  · rw [State.clock_on, heff, hclock]
  · rw [State.clock_on, heff, hclock]
  · rw [State.rd_on, heff]
    exact hlocked

/-! ### Announce timeout -/

theorem announceTimeout_shows {s : State} {p : Nat} (hp : p < 8) (hon : s.work.ptpOn p = true) :
    ∃ t, exec (.ptpAnnounceTimeout p) s = .next t ∧ (t.work.clock p).master = none ∧ (t.work.clock p).exch = none ∧
      t.work.rd F.fldPtpState 0 p = ptpListening ∧ t.work.rd F.fldPtpLocked 0 p = 0 := by
  set v := (s.work.setClock p { s.work.clock p with master := none, sync := none, exch := none, good := 0 }).wr F.fldPtpState 0 p
    ptpListening
  have hexec : exec (.ptpAnnounceTimeout p) s = .next (s.on fun _ => v.setLocked p false) := by
    refine State.perform_eq_on (i := .ptpAnnounceTimeout p) (fun _ => _) (decide_eq_true hp) ?_
    simp only [Work.announceTimeout, hon, Bool.not_true, Bool.false_eq_true, if_false]
    rfl
  have hclock : (v.setLocked p false).clock p = { s.work.clock p with master := none, sync := none, exch := none, good := 0 } := by
    obtain ⟨r, e, h⟩ := v.onlyNotes_setLocked p false
    rw [h]
    exact Work.clock_setClock s.work p _
  have hk : ClockKey (F.fldPtpState.key 0 p) := clockKey rfl p
  refine ⟨_, hexec, ?_, ?_, ?_, ?_⟩
  · rw [State.clock_on, hclock]
  · rw [State.clock_on, hclock]
  · rw [State.rd_on, (Work.sameAt_setLocked hk.away (fldPtpState_ne_locked p).symm hk.ne_shown v false).rd_eq]
    exact Work.rd_wr_same ..
  · rw [State.rd_on, v.setLocked_shown]
    rfl

/-- Settles O53: frames and records by their checks, the state of a port, and a clock by its messages. -/
theorem fieldCapture : Obligations.FieldCapture := by
  unfold Obligations.FieldCapture
  refine ⟨?_, ?_, ?_⟩
  · intro s p arrival bytes fcsOk hp w i et dst body len r x
    have hexec : exec i s = .next (s.on fun w => w.fieldFrame p bytes fcsOk arrival) :=
      State.perform_wf (i := .fieldRecordFrame p bytes fcsOk arrival) (decide_eq_true hp)
    have hcounted : ∀ f : Fld, w.fieldFrame p bytes fcsOk arrival = w.bump f 0 p → exec i s = .next (s.on fun w => w.bump f 0 p) :=
      fun f h => hexec.trans (congrArg _ (State.on_congr h))
    refine ⟨fun hlink => ?_, fun hlink hother => ?_, ?_⟩
    · exact hexec.trans (congrArg _ (State.on_unchanged (Work.fieldFrame_of_no_link hlink)))
    · exact exec_of_counted (hcounted _ (Work.fieldFrame_of_other hlink hother))
    · rintro hlink rfl hmin hmax het hdst hone hfull
      have hframe : w.fieldFrame p bytes true arrival = w.fieldRecord p arrival r :=
        Work.fieldFrame_of_record hlink hmin hmax het hdst hone hfull
      refine ⟨fun hrest => ?_, fun hrest hbad => ?_, fun hrest hwell hon hlt => ?_⟩
      · exact exec_of_counted (hcounted _ (hframe.trans (Work.fieldRecord_of_rest hrest)))
      · exact exec_of_counted (hcounted _ (hframe.trans (Work.fieldRecord_of_malformed hrest hbad)))
      · have hs : FieldRecordSound w r := ⟨hrest, hwell, hon, hlt⟩
        refine ⟨fun h hh hlate => ?_, fun hnew hfits hgroup hbase hfree => ?_⟩
        · exact exec_of_counted (hcounted _ (hframe.trans (Work.fieldRecord_of_late hs hh hlate)))
        · exact storeRecord_shows hp (hexec.trans (congrArg _ (State.on_congr
            (hframe.trans (Work.fieldRecord_of_stored hs rfl hnew hfits hgroup hbase hfree)))))
  · intro s p hp w
    refine ⟨fun hno => ?_, portStatus_sent hp, fieldLinkChange_shows hp⟩
    refine State.perform_unchanged (i := .portStatusFrame p) (decide_eq_true hp) (if_neg ?_)
    rintro ⟨hlink, hms⟩
    exact hno.elim (fun h => h hlink) hms
  · intro s p t2 t3 m hp hm w x rows
    have hrows : rows = (ptpRow p t2 t3 m).map Prod.fst := rfl
    have hrow : ∀ i ∈ rows, ∃ f, (i, f) ∈ ptpRow p t2 t3 m := by
      intro i hi
      rw [hrows] at hi
      simpa using hi
    have hannounce : (Instr.ptpAnnounce p m, fun w : Work => w.announceAt p m) ∈ ptpRow p t2 t3 m := by simp [ptpRow]
    have hsync : (Instr.ptpSync p m t2 t3, fun w : Work => w.syncAt p m t2 t3) ∈ ptpRow p t2 t3 m := by simp [ptpRow]
    have hfollow : (Instr.ptpFollowUp p m t3, fun w : Work => w.followUpAt p m t3) ∈ ptpRow p t2 t3 m := by simp [ptpRow]
    have hresp : (Instr.ptpDelayResp p m, fun w : Work => w.delayRespAt p m) ∈ ptpRow p t2 t3 m := by simp [ptpRow]
    refine ⟨fun hoff i hi => ?_, fun hon hlink hdomain i hi => ?_, fun hon hlink hdomain => ?_, fun hoff => ?_,
      announceTimeout_shows hp⟩
    · obtain ⟨f, hf⟩ := hrow i hi
      exact exec_ptpRow_of_off hp hm hf hoff
    · obtain ⟨f, hf⟩ := hrow i hi
      exact exec_ptpRow_of_other_domain hp hm hf hon hlink hdomain
    · have hexec : ∀ {i : Instr} {f g : Work → Work}, (i, f) ∈ ptpRow p t2 t3 m → f w = g w → exec i s = .next (s.on g) :=
        fun hf h => (exec_ptpRow_of_taken hp hm hf hon hlink hdomain).trans (congrArg _ (State.on_congr h))
      refine ⟨fun hbetter => takeMaster_shows (hexec hannounce (Work.announceAt_of_better hbetter)),
        fun a b hmaster hne hle => ?_, fun b hmaster => ?_, fun hother i hi => ?_, fun hmaster htwo => ?_,
        fun hmaster htwo hfirst => ?_, fun t1 hmaster hwait hfirst => ?_, fun t1 u2 u3 hmaster hexch => ?_⟩
      · exact (hexec hannounce (g := id) (Work.announceAt_of_worse hmaster hne hle)).trans (congrArg _ (State.on_unchanged rfl))
      · obtain ⟨t, hnext, hregs, -, hclock⟩ := setClock_shows (hexec hannounce (g := fun v => v.setClock p _)
          (Work.announceAt_of_same hmaster))
        exact ⟨t, hnext, hregs, hclock⟩
      · obtain ⟨⟨j, f⟩, hf, rfl⟩ := List.mem_map.mp (show i ∈ ((ptpRow p t2 t3 m).drop 1).map Prod.fst from hi)
        exact (hexec (List.mem_of_mem_drop hf) (g := id) (Work.ptpRow_of_other_source hother hf)).trans
          (congrArg _ (State.on_unchanged rfl))
      · exact setClock_shows (hexec hsync (g := fun v => v.setClock p _) (Work.syncAt_of_two_step hmaster htwo))
      · exact delayReq_shows hfirst (hexec hsync (Work.syncAt_of_one_step hmaster htwo))
      · exact delayReq_shows hfirst (hexec hfollow (Work.followUpAt_of_sync hmaster hwait))
      · exact delayResp_shows hmaster hexch (hexec hresp rfl)
    · refine State.perform_unchanged (i := .ptpAnnounceTimeout p) (decide_eq_true hp) (if_pos ?_)
      exact (by rw [hoff]; rfl)

end Sys2Proof.Machine

/-! Emits: their rows, their waits and their returns (chapter 17: R479 to R483, R493). -/

namespace Sys2Proof.Machine

/-! ## What the rows of an emit leave alone -/

/-- The cores, and the calls that wait in pipeline q, stay as they are. -/
def Work.KeepsWaiters (q : Nat) (w v : Work) : Prop := v.cores = w.cores ∧ (v.pipe q).waiters = (w.pipe q).waiters

theorem Work.KeepsWaiters.refl (q : Nat) (w : Work) : w.KeepsWaiters q w := ⟨rfl, rfl⟩

theorem Work.KeepsWaiters.trans {q : Nat} {u v w : Work} (h : u.KeepsWaiters q v) (h' : v.KeepsWaiters q w) :
    u.KeepsWaiters q w := ⟨h'.1.trans h.1, h'.2.trans h.2⟩

theorem Work.keepsWaiters_of_pipes {q : Nat} {w v : Work} (hcores : v.cores = w.cores) (hpipes : v.pipes = w.pipes) :
    w.KeepsWaiters q v := ⟨hcores, by rw [Work.pipe, Work.pipe, hpipes]⟩

@[simp] theorem Work.pipe_setPipe (w : Work) (q : Nat) (x : Pipe) : (w.setPipe q x).pipe q = x := smGet_smSet_same ..

theorem State.pipe_on (f : Work → Work) (s : State) (q : Nat) : (s.on f).work.pipe q = (f s.work).pipe q := by
  unfold Work.pipe
  rw [State.work_toBlock, State.on_pipes]

theorem Work.setPipe_cores (w : Work) (q : Nat) (x : Pipe) : (w.setPipe q x).cores = w.cores := rfl

theorem Work.keepsWaiters_setPipe {w : Work} {q : Nat} {x : Pipe} (h : x.waiters = (w.pipe q).waiters) :
    w.KeepsWaiters q (w.setPipe q x) := ⟨w.setPipe_cores q x, by rw [Work.pipe_setPipe, h]⟩

theorem Work.keepsWaiters_bump (w : Work) (q : Nat) (f : Fld) (d i n : Nat) : w.KeepsWaiters q (w.bump f d i n) := ⟨rfl, rfl⟩

theorem Work.keepsWaiters_unmappedBy (w : Work) (q d p c a : Nat) : w.KeepsWaiters q (w.unmappedBy d p c a) := by
  obtain ⟨r, e, ps, h⟩ := w.unmappedBy_notes d p c a
  rw [h]
  exact .refl q w

theorem Work.keepsWaiters_ringWrite (w : Work) (q die plan a : Nat) (bs : List Byte) :
    w.KeepsWaiters q (w.ringWrite die plan a bs) := by
  unfold Work.ringWrite
  split
  · obtain ⟨j, h, hw⟩ := w.write_only a bs
    rw [hw]
    exact .refl q w
  · exact w.keepsWaiters_unmappedBy ..

theorem Work.keepsWaiters_closeBatch (w : Work) (die q : Nat) (isPartial : Bool) :
    w.KeepsWaiters q (w.closeBatch die q isPartial) := by
  have hring := w.keepsWaiters_ringWrite q die (w.pipe q).plan ((w.pipe q).slotAt (w.pipe q).nextSeq)
    ((w.pipe q).header (w.pipe q).nextSeq (w.pipe q).rows.length w.tickNo isPartial (w.pipe q).body ++ (w.pipe q).body)
  exact hring.trans ⟨rfl, (congrArg Pipe.waiters (smGet_smSet_same ..)).trans hring.2.symm⟩

theorem Work.keepsWaiters_rejectRow (w : Work) (die q id ord reason status : Nat) :
    w.KeepsWaiters q (w.rejectRow die q id ord reason status) := by
  have hring := w.keepsWaiters_ringWrite q die (w.pipe q).plan ((w.pipe q).rejBase + 32 * (w.rd F.bqStatRejects 0 q % (w.pipe q).rejSlots))
    (toBytes 32 (id % 2 ^ 64 + status * 2 ^ 64 + reason * 2 ^ 80 + (if (w.pipe q).ordinal then ord else 0) * 2 ^ 88 +
      w.tickNo % 2 ^ 64 * 2 ^ 128 + q * 2 ^ 192))
  exact hring.trans ⟨rfl, (congrArg Pipe.waiters (smGet_smSet_same ..)).trans hring.2.symm⟩

/-- A batch that has no room for a row closes first (R480). -/
def Work.makeRoom (w : Work) (die q : Nat) (r : BRow) (tys : List Nat) : Work :=
  let x := w.pipe q
  if x.arrow && !x.rows.isEmpty && decide (x.slotBytes - 64 <
      arrowSize x.ordinal tys (r :: x.rows).length (varLens tys (r :: x.rows))) then w.closeBatch die q true else w

/-- A row put into the open batch. -/
def Work.addRow (w : Work) (die q : Nat) (r : BRow) : Work :=
  let x := w.pipe q
  (if x.arrow then w
    else w.ringWrite die x.plan (x.slotAt x.nextSeq + 64 + x.rows.length * x.rowBytes) (denseRow x.ordinal r)).setPipe q
      { x with rows := r :: x.rows }

/-- A row put into the open batch, which closes when it is full. -/
def Work.putRow (w : Work) (die q : Nat) (r : BRow) : Work :=
  let v := w.addRow die q r
  if (v.pipe q).rows.length = (w.pipe q).batchRows then v.closeBatch die q false else v

theorem EAcc.place_eq (a : EAcc) (q : Nat) (r : BRow) (tys : List Nat) : a.place q r tys =
    let w := a.w.makeRoom (a.c.core / 96) q r tys
    if (w.pipe q).rows.isEmpty && !(w.pipe q).slotFree then { a with w := w, full := true }
    else ({ a with w := w.putRow (a.c.core / 96) q r, c := { a.c with emitted := a.c.emitted + 1 } } : EAcc).done true := rfl

theorem Work.keepsWaiters_makeRoom (w : Work) (die q : Nat) (r : BRow) (tys : List Nat) :
    w.KeepsWaiters q (w.makeRoom die q r tys) := by
  unfold Work.makeRoom
  dsimp only
  split
  · exact w.keepsWaiters_closeBatch ..
  · exact .refl q w

theorem Work.keepsWaiters_addRow (w : Work) (die q : Nat) (r : BRow) : w.KeepsWaiters q (w.addRow die q r) := by
  unfold Work.addRow
  dsimp only
  split
  · exact Work.keepsWaiters_setPipe rfl
  · have hring := w.keepsWaiters_ringWrite q die (w.pipe q).plan ((w.pipe q).slotAt (w.pipe q).nextSeq + 64 +
      (w.pipe q).rows.length * (w.pipe q).rowBytes) (denseRow (w.pipe q).ordinal r)
    exact hring.trans (Work.keepsWaiters_setPipe hring.2.symm)

theorem Work.keepsWaiters_putRow (w : Work) (die q : Nat) (r : BRow) : w.KeepsWaiters q (w.putRow die q r) := by
  have hadd := w.keepsWaiters_addRow die q r
  unfold Work.putRow
  dsimp only
  split
  · exact hadd.trans (Work.keepsWaiters_closeBatch ..)
  · exact hadd

/-! ## One row (R480, R483, R493) -/

/-- What a row that an emit has reached does to the call: it finds no slot, or the call passes it and counts it once. -/
structure RowTaken (q : Nat) (a b : EAcc) : Prop where
  keeps : a.w.KeepsWaiters q b.w
  core_eq : b.c.core = a.c.core
  stop_eq : b.c.stop = a.c.stop
  rec_eq : b.c.rec_ = a.c.rec_
  rejected_eq : b.c.rejected + a.c.c3 + a.c.c6 = a.c.rejected + b.c.c3 + b.c.c6
  next_eq : b.c.next = a.c.next + if b.full then 0 else 1
  counted : b.c.emitted + b.c.c3 + b.c.c4 + b.c.c6 + a.c.next ≤ a.c.emitted + a.c.c3 + a.c.c4 + a.c.c6 + b.c.next
  rowsIn_le : b.c.rowsIn + a.c.next ≤ a.c.rowsIn + b.c.next

/-- A row that the call passes, counted in one of its counts or in none. -/
theorem rowTaken_done {q : Nat} {a b : EAcc} (hopen : b.full = false) (hkeeps : a.w.KeepsWaiters q b.w)
    (hcore : b.c.core = a.c.core) (hstop : b.c.stop = a.c.stop) (hrec : b.c.rec_ = a.c.rec_)
    (hrejected : b.c.rejected + a.c.c3 + a.c.c6 = a.c.rejected + b.c.c3 + b.c.c6) (hnext : b.c.next = a.c.next)
    (hcount : b.c.emitted + b.c.c3 + b.c.c4 + b.c.c6 ≤ a.c.emitted + a.c.c3 + a.c.c4 + a.c.c6 + 1)
    (hrows : b.c.rowsIn = a.c.rowsIn) (on : Bool) : RowTaken q a (b.done on) where
  keeps := hkeeps
  core_eq := hcore
  stop_eq := hstop
  rec_eq := hrec
  rejected_eq := hrejected
  next_eq := by
    show b.c.next + 1 = a.c.next + if b.full then 0 else 1
    rw [hopen, hnext]
    rfl
  counted := by
    show b.c.emitted + b.c.c3 + b.c.c4 + b.c.c6 + a.c.next ≤ a.c.emitted + a.c.c3 + a.c.c4 + a.c.c6 + (b.c.next + 1)
    omega
  rowsIn_le := by
    show (b.c.rowsIn + if on then 1 else 0) + a.c.next ≤ a.c.rowsIn + (b.c.next + 1)
    split <;> omega

section
variable {q : Nat} {a : EAcc} (hopen : a.full = false)
include hopen

/-- A row of the pending rejects is withheld. -/
theorem rowTaken_pending {w : Work} (hw : a.w.KeepsWaiters q w) (id ord reason status : Nat) (on : Bool) :
    RowTaken q a ((EAcc.reject { a with w := w, c := { a.c with c3 := a.c.c3 + 1 } } q id ord reason status).done on) := by
  refine rowTaken_done (b := EAcc.reject { a with w := w, c := { a.c with c3 := a.c.c3 + 1 } } q id ord reason status) hopen
    (hw.trans (w.keepsWaiters_rejectRow ..)) rfl rfl rfl ?_ rfl ?_ rfl on
  · show a.c.rejected + 1 + a.c.c3 + a.c.c6 = a.c.rejected + (a.c.c3 + 1) + a.c.c6
    omega
  · show a.c.emitted + (a.c.c3 + 1) + a.c.c4 + a.c.c6 ≤ _
    omega

/-- A row that is corrupt, names no row or is too wide is withheld. -/
theorem rowTaken_withheld (id ord reason status code : Nat) :
    RowTaken q a (((EAcc.reject { a with c := { a.c with c6 := a.c.c6 + 1 } } q id ord reason status).fail code).done true) := by
  refine rowTaken_done
    (b := (EAcc.reject { a with c := { a.c with c6 := a.c.c6 + 1 } } q id ord reason status).fail code) hopen
    (a.w.keepsWaiters_rejectRow ..) rfl rfl rfl ?_ rfl ?_ rfl true
  · show a.c.rejected + 1 + a.c.c3 + a.c.c6 = a.c.rejected + a.c.c3 + (a.c.c6 + 1)
    omega
  · show a.c.emitted + a.c.c3 + a.c.c4 + (a.c.c6 + 1) ≤ _
    omega

/-- A host row is left to the host. -/
theorem rowTaken_host (f : Fld) :
    RowTaken q a (EAcc.done { a with w := a.w.bump f 0 q, c := { a.c with c4 := a.c.c4 + 1 } } true) := by
  refine rowTaken_done (b := { a with w := a.w.bump f 0 q, c := { a.c with c4 := a.c.c4 + 1 } }) hopen
    (a.w.keepsWaiters_bump ..) rfl rfl rfl rfl rfl ?_ rfl true
  show a.c.emitted + a.c.c3 + (a.c.c4 + 1) + a.c.c6 ≤ _
  omega

/-- A row that is not selected, or that meets no memory, is passed. -/
theorem rowTaken_passed (fails : List Nat) (unm on : Bool) :
    RowTaken q a (EAcc.done { a with c := { a.c with fails := fails }, unm := unm } on) :=
  rowTaken_done (b := { a with c := { a.c with fails := fails }, unm := unm }) hopen (.refl q a.w) rfl rfl rfl rfl rfl (Nat.le_succ _) rfl on

/-- A row is given its place in the open batch, or finds no slot. -/
theorem rowTaken_place (r : BRow) (tys : List Nat) : RowTaken q a (a.place q r tys) := by
  have hroom := a.w.keepsWaiters_makeRoom (a.c.core / 96) q r tys
  rw [EAcc.place_eq]
  dsimp only
  split
  · exact { keeps := hroom, core_eq := rfl, stop_eq := rfl, rec_eq := rfl, rejected_eq := rfl, next_eq := rfl,
            counted := le_refl _, rowsIn_le := le_refl _ }
  · refine rowTaken_done (b := ⟨(a.w.makeRoom (a.c.core / 96) q r tys).putRow (a.c.core / 96) q r,
      { a.c with emitted := a.c.emitted + 1 }, a.full, a.unm⟩) hopen (hroom.trans (Work.keepsWaiters_putRow ..)) rfl rfl rfl rfl
      rfl ?_ rfl true
    show a.c.emitted + 1 + a.c.c3 + a.c.c4 + a.c.c6 ≤ _
    omega

/-- Each row that an emit reaches is taken so. -/
theorem rowTaken_row (e : EmitEnv) (o : OpRec) (r : Nat) : RowTaken o.mode a (a.row e o r) := by
  unfold EAcc.row
  rw [if_neg (by simp [hopen])]
  dsimp only
  cases e.ord
  all_goals
    dsimp only
    cases takeReject o.sel r (a.w.rejects (a.c.core / 96) (a.c.core % 96)) with
    | some p =>
      obtain ⟨⟨reason, status⟩, tbl⟩ := p
      exact rowTaken_pending (w := a.w.setRejects (a.c.core / 96) (a.c.core % 96) tbl) hopen ⟨rfl, rfl⟩ _ _ _ _ _
    | none =>
      refine iteInduction (fun _ => rowTaken_passed hopen a.c.fails a.unm false) (fun _ => ?_)
      refine iteInduction (fun _ => rowTaken_host hopen F.bqStatHostRows) (fun _ => ?_)
      split
      · exact rowTaken_passed hopen (setInsert a.c.fails sUnmapped) true true
      · refine iteInduction (fun _ => rowTaken_withheld hopen _ _ 0 sReject sCheck) (fun _ => ?_)
        exact iteInduction (fun _ => rowTaken_withheld hopen _ _ 0 sFull sFull) (fun _ => rowTaken_place hopen _ _)
      · exact rowTaken_withheld hopen _ _ 12 sReject _

end

theorem EAcc.row_of_full {a : EAcc} (hfull : a.full = true) (e : EmitEnv) (o : OpRec) (r : Nat) : a.row e o r = a := if_pos hfull

/-! ## The rows of an emit -/

/-- What n rows do to a call that had found a slot. -/
structure RowsTaken (q n : Nat) (a b : EAcc) : Prop where
  keeps : a.w.KeepsWaiters q b.w
  core_eq : b.c.core = a.c.core
  stop_eq : b.c.stop = a.c.stop
  rec_eq : b.c.rec_ = a.c.rec_
  rejected_eq : b.c.rejected + a.c.c3 + a.c.c6 = a.c.rejected + b.c.c3 + b.c.c6
  next_le : a.c.next ≤ b.c.next
  next_open : b.full = false → b.c.next = a.c.next + n
  next_full : b.full = true → b.c.next < a.c.next + n
  counted : b.c.emitted + b.c.c3 + b.c.c4 + b.c.c6 + a.c.next ≤ a.c.emitted + a.c.c3 + a.c.c4 + a.c.c6 + b.c.next
  rowsIn_le : b.c.rowsIn + a.c.next ≤ a.c.rowsIn + b.c.next

/-- One row more. -/
theorem RowsTaken.succ {e : EmitEnv} {o : OpRec} {n : Nat} {a b : EAcc} (h : RowsTaken o.mode n a b) (r : Nat) :
    RowsTaken o.mode (n + 1) a (b.row e o r) := by
  cases hfull : b.full with
  | true =>
    rw [b.row_of_full hfull]
    have hlt := h.next_full hfull
    exact { h with
      next_open := fun hopen => by simp [hfull] at hopen
      next_full := fun _ => by omega }
  | false =>
    have hrow := rowTaken_row hfull e o r
    have hnext := h.next_open hfull
    have hrejected := h.rejected_eq
    have hrejected' := hrow.rejected_eq
    have hcounted := h.counted
    have hcounted' := hrow.counted
    have hrows := h.rowsIn_le
    have hrows' := hrow.rowsIn_le
    have hstep := hrow.next_eq
    exact {
      keeps := h.keeps.trans hrow.keeps
      core_eq := hrow.core_eq.trans h.core_eq
      stop_eq := hrow.stop_eq.trans h.stop_eq
      rec_eq := hrow.rec_eq.trans h.rec_eq
      rejected_eq := by omega
      next_le := by omega
      next_open := fun hopen => by rw [hopen] at hstep; simp only [Bool.false_eq_true, if_false] at hstep; omega
      next_full := fun hshut => by rw [hshut] at hstep; simp only [if_true] at hstep; omega
      counted := by omega
      rowsIn_le := by omega }

theorem rowsTaken_run (e : EmitEnv) (o : OpRec) (stop : Nat) {a : EAcc} (hopen : a.full = false) :
    RowsTaken o.mode (stop - a.c.next) a (EAcc.run e o stop a) :=
  foldl_range_induction (P := fun n b => RowsTaken o.mode n a b) _
    { keeps := .refl _ _, core_eq := rfl, stop_eq := rfl, rec_eq := rfl, rejected_eq := rfl, next_le := le_refl _,
      next_open := fun _ => rfl, next_full := fun h => by simp [hopen] at h, counted := le_refl _, rowsIn_le := le_refl _ }
    fun i _ h => h.succ (a.c.next + i)

/-! ## The end of an emit (R479) -/

/-- The block of an emit that ends, before its call returns: its journal note, its statistics, and a page it did not find. -/
def Work.emitEnded (w : Work) (c : EmitCall) (counted unm : Bool) : Work :=
  let w := (w.effecting (c.core / 96) (c.core % 96)).2
  let w := if counted then
      w.addStats (emitOp c.rec_).stats [c.rowsIn, c.emitted, 0, c.c3, c.c4, c.c5, c.c6, 0]
    else w
  if unm then w.unmappedBy (c.core / 96) c.plan 0 0 else w

/-- The failures that an emit returns. -/
def Work.emitFails (w : Work) (c : EmitCall) : List Nat := c.fails ++ if w.dtHit then [sRange] else []

theorem Work.emitEnded_cores (w : Work) (c : EmitCall) (counted unm : Bool) : (w.emitEnded c counted unm).cores = w.cores := by
  obtain ⟨sp, hsp⟩ := w.onlyJournal_effecting (c.core / 96) (c.core % 96)
  have hstats : ∀ (v : Work) (l : List Nat), (v.addStats (emitOp c.rec_).stats l).cores = v.cores := by
    intro v l
    obtain ⟨j, h, a, e, hv⟩ := v.addStats_only (emitOp c.rec_).stats l
    rw [hv]
  have hunm : ∀ v : Work, (if unm then v.unmappedBy (c.core / 96) c.plan 0 0 else v).cores = v.cores := by
    intro v
    split
    · exact (v.keepsWaiters_unmappedBy 0 _ _ _ _).1
    · rfl
  unfold Work.emitEnded
  dsimp only
  rw [hunm, hsp]
  split
  · exact hstats _ _
  · rfl

theorem Work.emitDone_eq (w : Work) (c : EmitCall) (counted unm : Bool) : w.emitDone c counted unm =
    let d := c.core / 96
    let g := c.core % 96
    let v := w.emitEnded c counted unm
    let fs := (w.effecting d g).2.emitFails c
    ((v.setCore d g { (v.core d g).setX 12 c.rejected with wait := .none }).countFurther (.gc d g) fs).callReturn d g (lowest fs)
      (some c.emitted) := rfl

/-- What the call of an emit shows once it has returned. -/
structure EmitReturned (old new : Core) (status emitted rejected : Nat) : Prop where
  status_eq : new.getX 10 = status % 2 ^ 64
  emitted_eq : new.getX 11 = emitted % 2 ^ 64
  rejected_eq : new.getX 12 = rejected % 2 ^ 64
  wait_eq : new.wait = .none
  pc_eq : new.pc = (old.pc + 4) % 2 ^ 64

theorem EmitReturned.resv {old new : Core} {st em rej : Nat} (h : EmitReturned old new st em rej) (r : Option Nat) :
    EmitReturned old { new with resv := r } st em rej := ⟨h.status_eq, h.emitted_eq, h.rejected_eq, h.wait_eq, h.pc_eq⟩

/-- A call of an emit that returns. -/
theorem Work.emitReturned_callReturn {v : Work} {old : Core} {d g rej : Nat}
    (hv : v.core d g = { old.setX 12 rej with wait := .none }) (st em : Nat) :
    EmitReturned old ((v.callReturn d g st (some em)).core d g) st em rej := by
  refine ⟨v.callReturn_status .., v.callReturn_second .., ?_, ?_, ?_⟩
  · rw [Work.callReturn, Work.core_setCore, Core.retire_getX, Core.getX_setX_other (by decide), Core.getX_setX_other (by decide), hv]
    exact Core.getX_setX (by decide)
  · rw [Work.callReturn, Work.core_setCore, Core.retire_wait, Core.setX_wait, Core.setX_wait, hv]
  · rw [v.callReturn_pc, hv]
    rfl

theorem Work.core_countFurther (w : Work) (u : CntUnit) (fs : List Nat) (d g : Nat) : (w.countFurther u fs).core d g = w.core d g :=
  rfl

theorem Work.emitDone_returned {w : Work} {c : EmitCall} {d g : Nat} (hd : c.core / 96 = d) (hg : c.core % 96 = g)
    (counted unm : Bool) :
    EmitReturned (w.core d g) ((w.emitDone c counted unm).core d g) (lowest (w.emitFails c)) c.emitted c.rejected := by
  have hfails : (w.effecting d g).2.emitFails c = w.emitFails c := by
    obtain ⟨sp, hsp⟩ := w.onlyJournal_effecting d g
    rw [hsp]
    rfl
  have hcore : (w.emitEnded c counted unm).core d g = w.core d g := by rw [Work.core, Work.core, w.emitEnded_cores]
  rw [w.emitDone_eq]
  dsimp only
  rw [hd, hg, hfails, hcore]
  exact Work.emitReturned_callReturn ((Work.core_countFurther _ _ _ d g).trans (Work.core_setCore ..)) _ _

theorem Work.emitDrop_eq (w : Work) (c : EmitCall) : ∃ n rows dropped fails, w.emitDrop c =
    (w.bump F.bqStatDropped 0 (emitOp c.rec_).mode n).emitDone { c with rowsIn := rows, c5 := dropped, fails := fails } true false :=
  ⟨_, _, _, _, rfl⟩

theorem Work.core_bump (w : Work) (f : Fld) (i j n d g : Nat) : (w.bump f i j n).core d g = w.core d g := rfl

theorem Work.emitDrop_returned {w : Work} {c : EmitCall} {d g : Nat} (hd : c.core / 96 = d) (hg : c.core % 96 = g) :
    ∃ st, EmitReturned (w.core d g) ((w.emitDrop c).core d g) st c.emitted c.rejected := by
  obtain ⟨n, rows, dropped, fails, heq⟩ := w.emitDrop_eq c
  have hreturned := Work.emitDone_returned (w := w.bump F.bqStatDropped 0 (emitOp c.rec_).mode n)
    (c := { c with rowsIn := rows, c5 := dropped, fails := fails }) hd hg true false
  rw [heq, ← w.core_bump F.bqStatDropped 0 (emitOp c.rec_).mode n d g]
  exact ⟨_, hreturned⟩

/-! ## Rows and waits (R480, R482) -/

/-- An emit whose checks fail returns the lowest failure. -/
theorem Work.emitFail_status (w : Work) (d g : Nat) (fs : List Nat) :
    ((w.emitFail d g fs).core d g).getX 10 = lowest fs % 2 ^ 64 := Work.opFail_status ..

theorem Work.emitFail_pc (w : Work) (d g : Nat) (fs : List Nat) :
    ((w.emitFail d g fs).core d g).pc = ((w.core d g).pc + 4) % 2 ^ 64 := by
  refine (Work.opFail_pc ..).trans ?_
  rw [Work.core_setCore, Core.setX_pc]
  rfl

/-- The block with a page noted that the rows did not find. -/
def Work.noteUnmapped (w : Work) (unm : Bool) (die plan : Nat) : Work := if unm then w.unmappedBy die plan 0 0 else w

/-- A call waits in pipeline q (R482). -/
def Work.emitWait (w : Work) (core q : Nat) (c : EmitCall) (front : Bool) : Work :=
  let w := w.setCore (core / 96) (core % 96) { w.core (core / 96) (core % 96) with wait := .emit }
  let x := w.pipe q
  w.setPipe q { x with waiters := if front then c :: x.waiters else x.waiters ++ [c] }

section
variable {w : Work} {c : EmitCall} {e : EmitEnv}
  (henv : w.emitEnv c.plan (emitOp c.rec_) c.next (c.stop - c.next) = (some e, [])) (front : Bool)
include henv

/-- An emit that goes on with its checks passed takes its rows, and returns when it has passed the last one. -/
theorem Work.emitGo_of_open (hopen : (EAcc.run e (emitOp c.rec_) c.stop { w := w, c := c }).full = false) :
    w.emitGo c front =
      (EAcc.run e (emitOp c.rec_) c.stop { w := w, c := c }).w.emitDone (EAcc.run e (emitOp c.rec_) c.stop { w := w, c := c }).c true
        (EAcc.run e (emitOp c.rec_) c.stop { w := w, c := c }).unm := by
  unfold Work.emitGo
  dsimp only
  rw [henv]
  dsimp only
  rw [hopen]
  rfl

/-- One that finds no slot before the guard time waits. -/
theorem Work.emitGo_of_full {a : EAcc} {v : Work} (ha : EAcc.run e (emitOp c.rec_) c.stop { w := w, c := c } = a)
    (hfull : a.full = true) (hv : a.w.noteUnmapped a.unm (c.core / 96) c.plan = v) (hphase : v.phase < guardStart v.period) :
    w.emitGo c front = v.emitWait c.core (emitOp c.rec_).mode a.c front := by
  unfold Work.noteUnmapped at hv
  unfold Work.emitGo
  dsimp only
  rw [henv]
  dsimp only
  rw [ha, hfull, hv, if_neg (by simp), if_neg (Nat.not_le.mpr hphase)]
  rfl

end

/-- The guard time does not depend on what the rows did not find. -/
theorem Work.noteUnmapped_beforeGuard (w : Work) (unm : Bool) (die plan : Nat) :
    (w.noteUnmapped unm die plan).phase = w.phase ∧ (w.noteUnmapped unm die plan).period = w.period := by
  unfold Work.noteUnmapped
  split
  · have hnow := (Work.sameAt_unmappedBy (awayFromEvents_dev (f := F.timeNowNowNs) (i := 0) rfl (by decide) 0) w die plan 0 0).rd_eq
    have hperiod := (Work.sameAt_unmappedBy (awayFromEvents_dev (f := F.timeTickPeriodPeriodNs) (i := 0) rfl (by decide) 0) w die plan 0 0).rd_eq
    obtain ⟨r, ev, ps, hunm⟩ := w.unmappedBy_notes die plan 0 0
    have htime : (w.unmappedBy die plan 0 0).time = w.time := by rw [hunm]
    refine ⟨?_, hperiod⟩
    unfold Work.phase
    rw [htime]
    exact congrArg (· - w.time.lastTick) hnow
  · exact ⟨rfl, rfl⟩

theorem Work.keepsWaiters_noteUnmapped (w : Work) (q : Nat) (unm : Bool) (die plan : Nat) :
    w.KeepsWaiters q (w.noteUnmapped unm die plan) := by
  unfold Work.noteUnmapped
  split
  · exact w.keepsWaiters_unmappedBy ..
  · exact .refl q w

/-- A call that waits in pipeline q, after the others, leaves its core waiting where it was. -/
theorem Work.emitWait_shows (w : Work) {d g : Nat} (hg : g < 96) (q : Nat) (c : EmitCall) :
    ((w.emitWait (d * 96 + g) q c false).pipe q).waiters = (w.pipe q).waiters ++ [c] ∧
    (w.emitWait (d * 96 + g) q c false).core d g = { w.core d g with wait := .emit } := by
  have hd : (d * 96 + g) / 96 = d := by omega
  have hm : (d * 96 + g) % 96 = g := by omega
  constructor
  · exact congrArg Pipe.waiters (Work.pipe_setPipe ..)
  · unfold Work.emitWait
    rw [hd, hm]
    exact Work.core_setCore ..

/-! ## EMIT (R479, R480) -/

/-- The call of an emit that begins: no row is counted yet. -/
def beginEmit (core : Nat) (r : Rec) (plan row0 count : Nat) : EmitCall :=
  ⟨core, r, plan, row0, row0 + count, 0, 0, 0, 0, 0, 0, 0, []⟩

/-- The pipeline of an emit that passed its checks, with the column types that its first emit fixes. -/
def Pipe.typedAs (x : Pipe) (e : EmitEnv) : Pipe := { x with types := some (x.types.getD (e.cols.map (fun k => k.ty.code))) }

section
variable {w : Work} {d g a row0 count : Nat}

theorem Work.emitCall_of_no_record (h : w.callRecord d g a 64 64 = none) : w.emitCall d g a row0 count = w.emitFail d g [sRange] := by
  unfold Work.emitCall
  rw [h]

variable {bs : List Byte} (hread : w.callRecord d g a 64 64 = some bs)
include hread

theorem Work.emitCall_of_fails {e : Option EmitEnv} {fs : List Nat} (henv : w.emitEnv (w.planOf (.core d g))
      (emitOp (BitVec.ofNat 512 (ofBytes bs))) row0 count = (e, fs)) (hfs : fs ≠ []) :
    w.emitCall d g a row0 count = w.emitFail d g fs := by
  unfold Work.emitCall
  rw [hread]
  dsimp only
  rw [henv]
  cases fs with
  | nil => exact absurd rfl hfs
  | cons f fs => cases e <;> rfl

/-- A call that is not made anew (R550), in a pipeline where none waits, begins at its first row. -/
theorem Work.emitCall_of_passed {e : EmitEnv} {o : OpRec} (ho : emitOp (BitVec.ofNat 512 (ofBytes bs)) = o)
    (henv : w.emitEnv (w.planOf (.core d g)) o row0 count = (some e, [])) (hwaiters : (w.pipe o.mode).waiters = [])
    (hnew : ∀ q, w.runningTask d g = some q → (w.journalOf q.serial).calls ≤ (w.journalOf q.serial).made ∧
      (w.journalOf q.serial).emitRow = none) :
    w.emitCall d g a row0 count = (w.setPipe o.mode ((w.pipe o.mode).typedAs e)).emitGo
      (beginEmit (d * 96 + g) (BitVec.ofNat 512 (ofBytes bs)) (w.planOf (.core d g)) row0 count) false := by
  subst ho
  have hnone : (w.pipe (emitOp (BitVec.ofNat 512 (ofBytes bs))).mode).waiters.length = 0 := List.length_eq_zero_iff.mpr hwaiters
  unfold Work.emitCall
  rw [hread]
  dsimp only
  rw [henv]
  dsimp only
  cases htask : w.runningTask d g with
  | none =>
    dsimp only
    rw [if_neg (by decide), hnone]
    rfl
  | some q =>
    obtain ⟨hmade, hrow⟩ := hnew q htask
    dsimp only
    rw [if_neg (Nat.not_lt.mpr hmade), hrow]
    dsimp only
    rw [hnone]
    rfl

end

section
variable {s : State} {d g a row0 count ns : Nat}

theorem exec_emit (hd : d < 4) (hg : g < 96) (ha : a < 2 ^ 64) (hruns : s.work.coreRuns d g = true) :
    exec (.emit d g a row0 count ns) s = .next (s.on fun _ => (s.work.atNs ns).emitCall d g a row0 count) :=
  State.perform_coreRow_eq_on (fun _ => (s.work.atNs ns).emitCall d g a row0 count) (by simpa [Instr.wf] using ⟨⟨hd, hg⟩, ha⟩) hruns rfl

/-- A call that fails emits nothing. -/
theorem exec_emit_of_fail {fs : List Nat} (hexec : exec (.emit d g a row0 count ns) s =
      .next (s.on fun _ => (s.work.atNs ns).emitFail d g fs)) :
    ∃ t, exec (.emit d g a row0 count ns) s = .next t ∧ t.mem = s.mem ∧ t.pipes = s.pipes ∧
      (t.work.core d g).getX 10 = lowest fs % 2 ^ 64 ∧ (t.work.core d g).pc = ((s.work.core d g).pc + 4) % 2 ^ 64 := by
  refine ⟨_, hexec, State.on_mem_of_no_store rfl rfl, State.on_pipes .., ?_, ?_⟩
  · rw [State.getX_core_on, Work.emitFail_status]
  · rw [State.pc_core_on, Work.emitFail_pc]
    rfl

end

/-! ## Calls that wait (R482) -/

section
variable {w : Work} {q : Nat}

theorem Work.emitResume_of_shut (hphase : w.phase < guardStart w.period) (hrows : (w.pipe q).rows = [])
    (hslot : (w.pipe q).slotFree = false) (n : Nat) : w.emitResume q n = w := by
  cases n with
  | zero => rfl
  | succ n =>
    unfold Work.emitResume
    dsimp only
    split
    · rfl
    · rw [if_neg (Nat.not_le.mpr hphase), hrows, hslot]
      rfl

variable {c : EmitCall} (hwaiters : (w.pipe q).waiters = [c])
include hwaiters

theorem Work.emitResume_of_late (hphase : guardStart w.period ≤ w.phase) :
    w.emitResume q 1 = (w.setPipe q { w.pipe q with waiters := [] }).emitDrop c := by
  unfold Work.emitResume
  dsimp only
  split
  next hnone => simp [hwaiters] at hnone
  next b cs hsome =>
    obtain ⟨rfl, rfl⟩ : c = b ∧ [] = cs := by simpa [hwaiters] using hsome
    exact if_pos hphase

theorem Work.emitResume_of_room (hphase : w.phase < guardStart w.period)
    (hroom : (w.pipe q).rows ≠ [] ∨ (w.pipe q).slotFree = true) :
    w.emitResume q 1 = (w.setPipe q { w.pipe q with waiters := [] }).emitGo c true := by
  unfold Work.emitResume
  dsimp only
  split
  next hnone => simp [hwaiters] at hnone
  next b cs hsome =>
    obtain ⟨rfl, rfl⟩ : c = b ∧ [] = cs := by simpa [hwaiters] using hsome
    have hopen : ((w.pipe q).rows.isEmpty && !(w.pipe q).slotFree) = false := by
      rcases hroom with h | h <;> simp [h]
    rw [if_neg (Nat.not_le.mpr hphase), hopen]
    rfl

end

/-- EMIT_RESUME lets the calls of a pipeline go on. -/
theorem emitResume_shows (s : State) {q : Nat} (hq : q < 32) :
    let w := s.work
    let x := w.pipe q
    (x.waiters = [] → exec (.emitResume q) s = .next s) ∧
    (w.phase < guardStart w.period → x.rows = [] → x.slotFree = false → exec (.emitResume q) s = .next s) ∧
    (∀ c, x.waiters = [c] → w.phase < guardStart w.period → x.rows ≠ [] ∨ x.slotFree = true →
      exec (.emitResume q) s = .next (s.on fun w => (w.setPipe q { x with waiters := [] }).emitGo c true)) ∧
    (∀ c, x.waiters = [c] → guardStart w.period ≤ w.phase →
      exec (.emitResume q) s = .next (s.on fun w => (w.setPipe q { x with waiters := [] }).emitDrop c)) := by
  intro w x
  have hwf : (Instr.emitResume q).wf = true := decide_eq_true hq
  have hone : ∀ c, x.waiters = [c] → w.emitResume q x.waiters.length = w.emitResume q 1 := fun c h =>
    congrArg (w.emitResume q) (congrArg List.length h)
  refine ⟨fun hnone => ?_, fun hphase hrows hslot => ?_, fun c hc hphase hroom => ?_, fun c hc hphase => ?_⟩
  · exact State.perform_unchanged hwf (congrArg (w.emitResume q) (congrArg List.length hnone))
  · exact State.perform_unchanged hwf (Work.emitResume_of_shut hphase hrows hslot _)
  · exact State.perform_eq_on _ hwf ((hone c hc).trans (Work.emitResume_of_room hc hphase hroom))
  · exact State.perform_eq_on _ hwf ((hone c hc).trans (Work.emitResume_of_late hc hphase))

/-- The call that leaves its pipeline is the core's, and the cores stay as they are. -/
theorem Work.takeWaiter_core {w v : Work} {core q : Nat} {c : EmitCall} (h : w.takeWaiter core = (some (q, c), v)) :
    c.core = core ∧ v.cores = w.cores := by
  unfold Work.takeWaiter at h
  split at h
  · cases h
  next p x hp =>
    obtain ⟨hc, hv⟩ := Prod.mk.inj h
    obtain ⟨b, hb, hbc⟩ := Option.map_eq_some_iff.mp hc
    obtain ⟨-, rfl⟩ := Prod.mk.inj hbc
    exact ⟨by simpa using List.find?_some hb, by rw [← hv]; rfl⟩

/-- A pipeline in which a call of the core waits has one to hand over. -/
theorem Work.takeWaiter_of_none {w : Work} {core : Nat} (h : (w.takeWaiter core).1 = none) : w.takeWaiter core = (none, w) := by
  unfold Work.takeWaiter at h ⊢
  split at h
  next => rfl
  next p x hp =>
    have hany : (x.waiters.any fun c => decide (c.core = core)) = true := by simpa using List.find?_some hp
    obtain ⟨c, hc, hcore⟩ := List.any_eq_true.mp hany
    exact absurd hcore (List.find?_eq_none.mp (Option.map_eq_none_iff.mp h) c hc)

/-- EMIT_WAIT_TIMEOUT gives a waiting call up. -/
theorem emitWaitTimeout_shows (s : State) {d g : Nat} (hd : d < 4) (hg : g < 96) :
    ((s.work.takeWaiter (d * 96 + g)).1 = none → exec (.emitWaitTimeout d g) s = .next s) ∧
    (∀ q c v, s.work.takeWaiter (d * 96 + g) = (some (q, c), v) → ∃ t, exec (.emitWaitTimeout d g) s = .next t ∧
      t = s.on (fun _ => (v.atNs (guardStart v.period)).emitDrop c) ∧ (t.work.core d g).wait = .none ∧
      (t.work.core d g).getX 11 = c.emitted % 2 ^ 64 ∧ (t.work.core d g).getX 12 = c.rejected % 2 ^ 64 ∧
      (t.work.core d g).pc = ((s.work.core d g).pc + 4) % 2 ^ 64) := by
  have hwf : (Instr.emitWaitTimeout d g).wf = true := by simpa [Instr.wf] using ⟨hd, hg⟩
  constructor
  · intro hnone
    exact State.perform_unchanged hwf (by rw [Work.takeWaiter_of_none hnone])
  · intro q c v hv
    obtain ⟨hcore, hcores⟩ := Work.takeWaiter_core hv
    have hexec : exec (.emitWaitTimeout d g) s = .next (s.on fun _ => (v.atNs (guardStart v.period)).emitDrop c) :=
      State.perform_eq_on _ hwf (by rw [hv])
    obtain ⟨st, hreturned⟩ := Work.emitDrop_returned (w := v.atNs (guardStart v.period)) (c := c) (d := d) (g := g)
      (by omega) (by omega)
    have hold : (v.atNs (guardStart v.period)).core d g = s.work.core d g :=
      congrArg (fun cs => smGet Core.atReset cs (d * 96 + g)) hcores
    rw [hold] at hreturned
    obtain ⟨r, hr⟩ := State.core_on (fun _ => (v.atNs (guardStart v.period)).emitDrop c) s d g
    have hshown := hreturned.resv r
    rw [← hr] at hshown
    exact ⟨_, hexec, rfl, hshown.wait_eq, hshown.emitted_eq, hshown.rejected_eq, hshown.pc_eq⟩

section
variable {s : State} {i : Instr} {y : Work} {d g row0 count : Nat} {r : Rec} {plan : Nat} {e : EmitEnv} {b : EAcc} (hg : g < 96)
  (hexec : exec i s = .next (s.on fun _ => y.emitGo (beginEmit (d * 96 + g) r plan row0 count) false))
  (hcores : y.cores = s.work.cores) (henv : y.emitEnv plan (emitOp r) row0 count = (some e, []))
  (hb : EAcc.run e (emitOp r) (row0 + count) { w := y, c := beginEmit (d * 96 + g) r plan row0 count } = b)
include hg hexec hcores henv hb

/-- A call that passed the checks and found room for its rows returns with its counts. -/
theorem exec_emit_of_open (hopen : b.full = false) : ∃ t, exec i s = .next t ∧
    t = s.on (fun _ => b.w.emitDone b.c true b.unm) ∧ (t.work.core d g).getX 10 = lowest (b.w.emitFails b.c) % 2 ^ 64 ∧
    (t.work.core d g).getX 11 = b.c.emitted % 2 ^ 64 ∧ (t.work.core d g).getX 12 = b.c.rejected % 2 ^ 64 ∧
    (t.work.core d g).pc = ((s.work.core d g).pc + 4) % 2 ^ 64 := by
  have hpassed : y.emitEnv plan (emitOp r) row0 (row0 + count - row0) = (some e, []) := by rwa [Nat.add_sub_cancel_left]
  have hrows := rowsTaken_run e (emitOp r) (row0 + count) (a := { w := y, c := beginEmit (d * 96 + g) r plan row0 count }) rfl
  rw [hb] at hrows
  have hcore : b.c.core = d * 96 + g := hrows.core_eq
  have hold : b.w.core d g = s.work.core d g := by rw [Work.core, Work.core, hrows.keeps.1, hcores]
  have hreturned := Work.emitDone_returned (w := b.w) (c := b.c) (d := d) (g := g) (by omega) (by omega) true b.unm
  rw [hold] at hreturned
  rw [Work.emitGo_of_open (c := beginEmit (d * 96 + g) r plan row0 count) hpassed false (hb ▸ hopen)] at hexec
  obtain ⟨l, hl⟩ := State.core_on (fun _ => b.w.emitDone b.c true b.unm) s d g
  have hshown := hreturned.resv l
  rw [← hl] at hshown
  subst hb
  exact ⟨_, hexec, rfl, hshown.status_eq, hshown.emitted_eq, hshown.rejected_eq, hshown.pc_eq⟩

/-- One that found no slot before the guard time waits, and its core with it. -/
theorem exec_emit_of_full (hwaiters : (y.pipe (emitOp r).mode).waiters = []) (hfull : b.full = true)
    (hphase : b.w.phase < guardStart b.w.period) : ∃ t, exec i s = .next t ∧ (t.work.pipe (emitOp r).mode).waiters = [b.c] ∧
      (t.work.core d g).wait = .emit ∧ (t.work.core d g).pc = (s.work.core d g).pc := by
  have hpassed : y.emitEnv plan (emitOp r) row0 (row0 + count - row0) = (some e, []) := by rwa [Nat.add_sub_cancel_left]
  have hrows := rowsTaken_run e (emitOp r) (row0 + count) (a := { w := y, c := beginEmit (d * 96 + g) r plan row0 count }) rfl
  rw [hb] at hrows
  obtain ⟨v, hv⟩ : ∃ v, b.w.noteUnmapped b.unm ((d * 96 + g) / 96) plan = v := ⟨_, rfl⟩
  have hguard := b.w.noteUnmapped_beforeGuard b.unm ((d * 96 + g) / 96) plan
  have hkeeps := hrows.keeps.trans (b.w.keepsWaiters_noteUnmapped (emitOp r).mode b.unm ((d * 96 + g) / 96) plan)
  rw [hv] at hguard hkeeps
  have hnone : (v.pipe (emitOp r).mode).waiters = [] := hkeeps.2.trans hwaiters
  have hold : v.core d g = s.work.core d g := by rw [Work.core, Work.core, hkeeps.1, hcores]
  obtain ⟨hwait, hcore⟩ := v.emitWait_shows (d := d) hg (emitOp r).mode b.c
  rw [Work.emitGo_of_full (c := beginEmit (d * 96 + g) r plan row0 count) hpassed false hb hfull hv
    (by rw [hguard.1, hguard.2]; exact hphase)] at hexec
  have hwaits : exec i s = .next (s.on fun _ => v.emitWait (d * 96 + g) (emitOp r).mode b.c false) := hexec
  obtain ⟨l, hl⟩ := State.core_on (fun _ => v.emitWait (d * 96 + g) (emitOp r).mode b.c false) s d g
  refine ⟨_, hwaits, ?_, ?_, ?_⟩
  · rw [State.pipe_on, hwait, hnone]
    rfl
  · rw [hl, hcore]
  · rw [hl, hcore, hold]

end

/-- Settles O54: an emit's rows are taken one by one, each counted once at most, by induction over the rows; the commands
follow the checks of R479, and the waits of R482 those calls. That a call is one command, and which call goes on first, are
the model's choices (log entries 61 and 104). -/
theorem emittedRows : Obligations.EmittedRows := by
  unfold Obligations.EmittedRows
  refine ⟨fun e o stop a hopen hle => ?_, fun s d g a row0 count ns hd hg ha hruns => ⟨fun hnone => ?_, fun bs hread => ⟨?_, ?_⟩⟩,
    fun s q hq => emitResume_shows s hq, fun s d g hd hg => emitWaitTimeout_shows s hd hg⟩
  · have h := rowsTaken_run e o stop hopen
    have hstop := h.next_open
    have hless := h.next_full
    have hend : a.c.next + (stop - a.c.next) = stop := by omega
    rw [hend] at hstop hless
    refine ⟨h.next_le, ?_, hstop, hless, h.counted, h.rejected_eq, h.rowsIn_le, h.core_eq, h.stop_eq, h.rec_eq⟩
    cases hfull : (EAcc.run e o stop a).full with
    | false => exact (hstop hfull).le
    | true => exact (hless hfull).le
  · have hexec := exec_emit (row0 := row0) (count := count) (ns := ns) hd hg ha hruns
    rw [Work.emitCall_of_no_record hnone] at hexec
    exact exec_emit_of_fail hexec
  · intro e fs henv hfs
    have hexec := exec_emit (row0 := row0) (count := count) (ns := ns) hd hg ha hruns
    rw [Work.emitCall_of_fails hread henv hfs] at hexec
    exact exec_emit_of_fail hexec
  · intro e e2 henv hwaiters hnew y henv2 b
    have hexec := exec_emit (row0 := row0) (count := count) (ns := ns) hd hg ha hruns
    rw [Work.emitCall_of_passed hread rfl henv hwaiters hnew] at hexec
    exact ⟨fun hopen => exec_emit_of_open hg hexec rfl henv2 rfl hopen, fun hfull hphase =>
      exec_emit_of_full hg hexec rfl henv2 rfl ((congrArg Pipe.waiters (Work.pipe_setPipe ..)).trans hwaiters) hfull hphase⟩

end Sys2Proof.Machine

/-! Batches delivered, and delivered again (chapter 17: R488 to R490, R505). -/

namespace Sys2Proof.Machine

/-! ## Sending a slot -/

theorem Work.onlyMail_sendSlot (w : Work) (x : Pipe) (seq dst sess : Nat) (write : Bool) :
    w.OnlyMail (w.sendSlot x seq dst sess write) :=
  foldl_keeps .refl .trans (fun v _ => v.onlyMail_send _) _ w

theorem Work.OnlyMail.pipe {w v : Work} (h : w.OnlyMail v) (q : Nat) : v.pipe q = w.pipe q := by
  obtain ⟨r, o, p, s, n, rfl⟩ := h
  rfl

theorem Work.OnlyMail.jnl_eq {w v : Work} (h : w.OnlyMail v) : v.jnl = w.jnl := by
  obtain ⟨r, o, p, s, n, rfl⟩ := h
  rfl

theorem Work.OnlyMail.adds_eq {w v : Work} (h : w.OnlyMail v) : v.adds = w.adds := by
  obtain ⟨r, o, p, s, n, rfl⟩ := h
  rfl

/-! ## PUSH_SEND (R490) -/

/-- Where a PUSH pipeline sends to. -/
def Work.pushDst (w : Work) (x : Pipe) : Nat := if x.toSession then w.ownBridge else x.pushDev

/-- What PUSH_SEND does with the oldest READY batch of a pipeline whose destination can be reached. -/
def Work.pushBatch (w : Work) (q : Nat) (x : Pipe) (b : BBatch) : Work :=
  if decide (w.pushDst x = w.deviceId) && !x.toSession then
    (w.write (x.pushAddr + b.seq % x.slots * x.slotBytes)
      ((w.read (x.slotAt b.seq) x.slotBytes).getD (List.replicate x.slotBytes 0))).setPipe q
      { x with batches := x.batches.filter (fun (c : BBatch) => c.seq ≠ b.seq) }
  else (w.setPipe q (x.mark b.seq 4 w.tickNo)).sendSlot x b.seq (w.pushDst x) (if x.toSession then x.pushSession + 1 else 0) (!x.toSession)

section
variable {s : State} {q : Nat} (hq : q < 32)
include hq

theorem exec_pushSend_of_idle (h : (s.work.pipe q).ready = [] ∨ (s.work.pipe q).push = false ∨
      (s.work.pushDst (s.work.pipe q) ≠ s.work.deviceId ∧ s.work.usablePorts (s.work.pushDst (s.work.pipe q)) clsData = [])) :
    exec (.pushSend q) s = .next s := by
  refine State.perform_unchanged (decide_eq_true hq) ?_
  dsimp only
  split
  · rfl
  next b rest hready =>
    refine if_pos ?_
    rcases h with h | h | ⟨hfar, hports⟩
    · rw [h] at hready
      cases hready
    · rw [h]
      rfl
    · rw [Work.pushDst] at hfar hports
      rw [hports, decide_eq_false hfar]
      simp

theorem exec_pushSend_of_ready {b : BBatch} {rest : List BBatch} (hready : (s.work.pipe q).ready = b :: rest)
    (hpush : (s.work.pipe q).push = true) (hway : s.work.pushDst (s.work.pipe q) = s.work.deviceId ∨
      s.work.usablePorts (s.work.pushDst (s.work.pipe q)) clsData ≠ []) :
    exec (.pushSend q) s = .next (s.on fun _ => s.work.pushBatch q (s.work.pipe q) b) := by
  refine State.perform_eq_on _ (decide_eq_true hq) ?_
  dsimp only
  split
  next hnone => simp [hready] at hnone
  next c cs hsome =>
    obtain ⟨rfl, -⟩ : b = c ∧ rest = cs := by simpa [hready] using hsome
    refine if_neg ?_
    rw [Work.pushDst] at hway
    rcases hway with h | h
    · simp [hpush, h]
    · simp [hpush, h]

end

/-- A batch pushed to this device is stored, and its slot is free. -/
theorem exec_pushSend_near {s : State} {i : Instr} {q : Nat} {x : Pipe} {b : BBatch}
    (hexec : exec i s = .next (s.on fun _ => s.work.pushBatch q x b)) (hdst : s.work.pushDst x = s.work.deviceId)
    (hkind : x.toSession = false) : ∃ t, exec i s = .next t ∧
      t.work.pipe q = { x with batches := x.batches.filter (fun (c : BBatch) => c.seq ≠ b.seq) } ∧
      ∀ bs, s.work.read (x.slotAt b.seq) x.slotBytes = some bs →
        t.mem = (s.on fun w => w.write (x.pushAddr + b.seq % x.slots * x.slotBytes) bs).mem := by
  have hnear : (decide (s.work.pushDst x = s.work.deviceId) && !x.toSession) = true := by simp [hdst, hkind]
  rw [Work.pushBatch, if_pos hnear] at hexec
  refine ⟨_, hexec, (State.pipe_on ..).trans (Work.pipe_setPipe ..), fun bs hread => ?_⟩
  obtain ⟨j, h, hw⟩ := s.work.write_only (x.pushAddr + b.seq % x.slots * x.slotBytes) bs
  rw [hread]
  refine State.mem_on_congr rfl ?_ ?_
  · exact congrArg (fun w : Work => w.adds) hw
  · exact congrArg (fun w : Work => w.adds) hw

/-- A batch pushed to a session or to another device is sent, and DELIVERED. -/
theorem exec_pushSend_far {s : State} {i : Instr} {q : Nat} {x : Pipe} {b : BBatch}
    (hexec : exec i s = .next (s.on fun _ => s.work.pushBatch q x b))
    (hfar : x.toSession = true ∨ s.work.pushDst x ≠ s.work.deviceId) :
    ∃ t, exec i s = .next t ∧ t.work.pipe q = x.mark b.seq 4 s.work.tickNo ∧ t.mem = s.mem := by
  have haway : ¬ (decide (s.work.pushDst x = s.work.deviceId) && !x.toSession) = true := by
    rcases hfar with h | h <;> simp [h]
  rw [Work.pushBatch, if_neg haway] at hexec
  have hmail := (s.work.setPipe q (x.mark b.seq 4 s.work.tickNo)).onlyMail_sendSlot x b.seq (s.work.pushDst x)
    (if x.toSession then x.pushSession + 1 else 0) (!x.toSession)
  exact ⟨_, hexec, (State.pipe_on ..).trans ((hmail.pipe q).trans (Work.pipe_setPipe ..)),
    State.on_mem_of_no_store hmail.jnl_eq hmail.adds_eq⟩

/-- Settles O55: PUSH_SEND by whether there is a way and where it leads; BATCH_PART by its checks. That a slot goes out in
parts, and how they are addressed, is the model's choice (log entry 103). -/
theorem batchDelivery : Obligations.BatchDelivery := by
  unfold Obligations.BatchDelivery
  refine ⟨fun s q hq => ⟨fun h => exec_pushSend_of_idle hq h, fun b rest hready hpush => ⟨fun hdst hkind => ?_, fun hway => ?_⟩⟩,
    fun s h bs hwf ht hrest => ⟨fun hgood => ?_, fun hbad => ?_⟩⟩
  · exact exec_pushSend_near (exec_pushSend_of_ready hq hready hpush (.inl hdst)) hdst hkind
  · refine exec_pushSend_far (exec_pushSend_of_ready hq hready hpush ?_) ?_
    · exact hway.imp (·.1) (·.2)
    · exact hway.imp (·.2) (·.1)
  · refine (exec_of_taken_eq rfl hwf ht ?_).trans (congrArg _ (State.on_congr rfl))
    obtain ⟨hplan, hlen, hslot, hroom⟩ := hgood
    exact (if_neg hrest).trans (if_pos ⟨hplan, hlen, hslot, by rwa [List.length_drop]⟩)
  · refine exec_of_taken_unchanged rfl hwf ht ((if_neg hrest).trans (if_neg ?_))
    rintro ⟨hplan, hlen, hslot, hroom⟩
    exact hbad ⟨hplan, hlen, hslot, by rwa [List.length_drop] at hroom⟩

/-! ## BQ_FETCH and REDELIVER (R488, R489) -/

/-- The pipeline with the batches that a BQ_FETCH acknowledges freed. -/
def Pipe.acked (x : Pipe) (ack : Nat) : Pipe :=
  { x with batches := if ack = 2 ^ 64 - 1 then x.batches else
      x.batches.filter (fun (b : BBatch) => !(decide (b.st = 4) && decide (b.seq ≤ ack))) }

theorem Pipe.acked_eq (x : Pipe) (ack : Nat) : x.acked ack = if ack = 2 ^ 64 - 1 then x
    else { x with batches := x.batches.filter (fun (b : BBatch) => !(decide (b.st = 4) && decide (b.seq ≤ ack))) } := by
  unfold Pipe.acked
  split <;> rfl

/-- What a BQ_FETCH that passes does. -/
def Work.fetchBatches (w : Work) (h : KHdr) (q most ack : Nat) : Work :=
  let y := (w.pipe q).acked ack
  let out := y.ready.take most
  (out.foldl (fun (w : Work) b => w.sendSlot y b.seq h.srcDev h.srcSess false)
    (w.setPipe q (out.foldl (fun (x : Pipe) b => x.mark b.seq 4 w.tickNo) y))).ctrlDone h sOk (toBytes 4 out.length)

section
variable {s : State} {h : KHdr} {bs : List Byte}

theorem exec_bqFetch_of_passed (hwf : (Instr.bqFetch h bs).wf = true) (horder : OrderHere 0x0A h s) (hrest : s.work.devState ≠ stRest)
    (hlen : bs.length = 16) (hzero : fieldOf (leAt bs 0 16) 5 3 = 0) (hzeros : fieldOf (leAt bs 0 16) 13 51 = 0)
    (hmost : fieldOf (leAt bs 0 16) 8 5 ≤ 16) (hplan : (s.work.pipe (fieldOf (leAt bs 0 16) 0 5)).plan ≠ noPlan)
    (hpush : (s.work.pipe (fieldOf (leAt bs 0 16) 0 5)).push = false ∨ fieldOf (leAt bs 0 16) 8 5 = 0) :
    exec (.bqFetch h bs) s = .next (s.on fun _ => s.work.fetchBatches h (fieldOf (leAt bs 0 16) 0 5) (fieldOf (leAt bs 0 16) 8 5)
      (fieldOf (leAt bs 0 16) 64 64)) := by
  refine exec_of_taken_eq rfl hwf horder.1 ?_
  rw [Work.bqFetchMsg, Work.command_of_no_object horder.2, if_neg hrest, Work.bqFetch]
  dsimp only
  have hpull : (!((s.work.pipe (fieldOf (leAt bs 0 16) 0 5)).push && decide (fieldOf (leAt bs 0 16) 8 5 ≠ 0)) ||
      decide ((s.work.pipe (fieldOf (leAt bs 0 16) 0 5)).plan = noPlan)) = true := by
    rcases hpush with h | h <;> simp [h]
  rw [hpull, ← Pipe.acked_eq]
  simp only [hlen, hzero, hzeros, hmost, hplan, decide_true, Bool.and_self, chk, if_true, ne_eq, not_false_eq_true,
    List.append_nil, List.isEmpty_nil, Bool.not_true, Bool.false_eq_true, if_false]
  rfl

theorem Work.fetchBatches_mail (w : Work) (h : KHdr) (q most ack : Nat) : ∃ z, (w.setPipe q z).OnlyMail (w.fetchBatches h q most ack) ∧
    z = (((w.pipe q).acked ack).ready.take most).foldl (fun (x : Pipe) b => x.mark b.seq 4 w.tickNo) ((w.pipe q).acked ack) :=
  ⟨_, (foldl_keeps .refl .trans (fun (v : Work) (_ : BBatch) => v.onlyMail_sendSlot _ _ _ _ _) _ _).trans (Work.onlyMail_ctrlDone ..), rfl⟩

end

section
variable {s : State} {q seq : Nat} (hq : q < 32)
include hq

theorem exec_redeliver_of_late {b : BBatch} (hb : (s.work.pipe q).batches.find? (fun (b : BBatch) => b.seq = seq) = some b)
    (hst : b.st = 4) (hlate : b.sent + 16 ≤ s.work.tickNo) : exec (.redeliver q seq) s =
      .next (s.on fun w => (w.setPipe q ((s.work.pipe q).mark seq 3 b.sent)).bumpSat F.bqStatRedeliver 0 q) := by
  refine State.perform_eq_on _ (decide_eq_true hq) ?_
  dsimp only
  rw [hb]
  exact if_pos ⟨hst, hlate⟩

theorem exec_redeliver_of_early (h : ∀ b, (s.work.pipe q).batches.find? (fun (b : BBatch) => b.seq = seq) = some b →
    b.st ≠ 4 ∨ s.work.tickNo < b.sent + 16) : exec (.redeliver q seq) s = .next s := by
  refine State.perform_unchanged (decide_eq_true hq) ?_
  dsimp only
  split
  next b hb =>
    refine if_neg fun ⟨hst, hlate⟩ => ?_
    rcases h b hb with h | h
    · exact h hst
    · omega
  next => rfl

end

theorem Work.sameAt_setPipe {k q : Nat} (hfill : F.bqStateFill.key 0 q ≠ k) (hclosed : F.bqStateClosed.key 0 q ≠ k) (w : Work)
    (x : Pipe) : w.SameAt k (w.setPipe q x) := (Work.sameAt_wr hfill _ _).trans (Work.sameAt_wr hclosed _ _)

/-- Settles O56: BQ_FETCH with its checks passed, and REDELIVER by the state and the age of the batch. A batch of a PUSH
pipeline without an acknowledgement is sent again as well, and a slot goes out in parts: the model's choices (log entry 103). -/
theorem batchesAreSentAgain : Obligations.BatchesAreSentAgain := by
  unfold Obligations.BatchesAreSentAgain
  refine ⟨fun s h bs hwf horder hrest hlen hzero hzeros hmost hplan hpush => ?_,
    fun s q seq hq => ⟨fun b hb hst hlate => ?_, fun h => exec_redeliver_of_early hq h⟩⟩
  · have hexec := exec_bqFetch_of_passed hwf horder hrest hlen hzero hzeros hmost hplan hpush
    obtain ⟨z, hmail, hz⟩ := s.work.fetchBatches_mail h (fieldOf (leAt bs 0 16) 0 5) (fieldOf (leAt bs 0 16) 8 5)
      (fieldOf (leAt bs 0 16) 64 64)
    refine ⟨_, hexec, State.on_mem_of_no_store hmail.jnl_eq hmail.adds_eq, ?_, State.on_congr rfl⟩
    rw [State.pipe_on, hmail.pipe, Work.pipe_setPipe, hz]
    rfl
  · refine ⟨_, exec_redeliver_of_late hq hb hst hlate, (State.pipe_on ..).trans (Work.pipe_setPipe ..), State.on_mem_of_no_store rfl rfl, ?_⟩
    rw [State.rd_on, Work.rd_bumpSat]
    have hsame := Work.sameAt_setPipe (k := F.bqStatRedeliver.key 0 q) (q := q)
      (Fld.key_ne_of_dev rfl rfl (by show (0x21008 + q * 64) * 8 + 0 ≠ (0x21020 + q * 64) * 8 + 48; omega) 0 0)
      (Fld.key_ne_of_dev rfl rfl (by show (0x21008 + q * 64) * 8 + 12 ≠ (0x21020 + q * 64) * 8 + 48; omega) 0 0) s.work ((s.work.pipe q).mark seq 3 b.sent)
    rw [hsame.rd_eq]

end Sys2Proof.Machine

/-! Byte strings and their fields (chapter 02: R4). -/

namespace Sys2Proof.Machine

theorem drop_toBytes (n x k : Nat) : (toBytes n x).drop k = toBytes (n - k) (x / 256 ^ k) := by
  induction k generalizing n x with
  | zero => simp
  | succ k ih =>
    cases n with
    | zero => simp [toBytes]
    | succ n =>
      rw [toBytes, List.drop_succ_cons, ih, Nat.div_div_eq_div_mul, Nat.add_sub_add_right, pow_succ']

theorem take_toBytes {m n : Nat} (h : m ≤ n) (x : Nat) : (toBytes n x).take m = toBytes m x := by
  induction m generalizing n x with
  | zero => rfl
  | succ m ih =>
    cases n with
    | zero => omega
    | succ n => rw [toBytes, List.take_succ_cons, ih (Nat.le_of_succ_le_succ h), toBytes]

theorem ofBytes_toBytes (n x : Nat) : ofBytes (toBytes n x) = x % 256 ^ n := by
  induction n generalizing x with
  | zero => simp [toBytes, ofBytes, Nat.mod_one]
  | succ n ih =>
    rw [toBytes, ofBytes, ih, pow_succ', Nat.mod_mul, BitVec.toNat_ofNat]

/-- A slice within a string is what stands there. -/
theorem slice_eq {bs : List Byte} {off n : Nat} (h : off + n ≤ bs.length) : slice bs off n = (bs.drop off).take n := by
  have hlen : ((bs.drop off).take n).length = n := by rw [List.length_take, List.length_drop]; omega
  unfold slice
  dsimp only
  rw [hlen, Nat.sub_self]
  exact List.append_nil _

theorem slice_length (bs : List Byte) (off n : Nat) : (slice bs off n).length = n := by
  simp only [slice, List.length_append, List.length_replicate, List.length_take]
  omega

theorem slice_self {bs : List Byte} {n : Nat} (h : bs.length = n) : slice bs 0 n = bs := by
  subst h
  rw [slice_eq (Nat.zero_add _).le, List.drop_zero, List.take_length]

theorem slice_append_left {as : List Byte} {off n : Nat} (h : off + n ≤ as.length) (bs : List Byte) :
    slice (as ++ bs) off n = slice as off n := by
  rw [slice_eq h, slice_eq (by rw [List.length_append]; omega), List.drop_append_of_le_length (by omega),
    List.take_append_of_le_length (by rw [List.length_drop]; omega)]

theorem slice_append_right {as : List Byte} {k : Nat} (h : as.length = k) (bs : List Byte) (off n : Nat) :
    slice (as ++ bs) (k + off) n = slice bs off n := by
  subst h
  unfold slice
  rw [List.drop_append, List.drop_eq_nil_of_le (Nat.le_add_right ..), List.nil_append, Nat.add_sub_cancel_left]

/-- The field of n bytes at an offset of a number's bytes. -/
theorem leAt_toBytes {off n m : Nat} (h : off + n ≤ m) (x : Nat) : leAt (toBytes m x) off n = x / 256 ^ off % 256 ^ n := by
  rw [leAt, slice_eq (by rwa [toBytes_length]), drop_toBytes, take_toBytes (by omega), ofBytes_toBytes]

theorem leAt_append_left {as : List Byte} {off n : Nat} (h : off + n ≤ as.length) (bs : List Byte) :
    leAt (as ++ bs) off n = leAt as off n := congrArg ofBytes (slice_append_left h bs)

end Sys2Proof.Machine

/-! Kupel ports: their registers and their states (chapter 18: R497 to R500). -/

namespace Sys2Proof.Machine

theorem Fld.key_of_kl {f : Fld} (hplace : f.reg.info.place = .kl) (d p : Nat) :
    f.key d p = (dieBlock (p / 6) + 0x2200000 + (p % 6) * 0x4000 + f.reg.info.off) * 8 + f.lo := by
  simp only [Fld.key, Reg.addr, hplace]

/-- The registers of a port lie above the device region. -/
theorem outsideDev_kl {f : Fld} (hplace : f.reg.info.place = .kl) (d p : Nat) : OutsideDev (f.key d p) := by
  rw [f.key_of_kl hplace]
  simp only [OutsideDev, dieBlock, devRegion]
  omega

/-- Two fields of one port at other places have other keys. -/
theorem Fld.key_ne_of_kl {f g : Fld} (hf : f.reg.info.place = .kl) (hg : g.reg.info.place = .kl)
    (h : f.reg.info.off * 8 + f.lo ≠ g.reg.info.off * 8 + g.lo) (d e p : Nat) : f.key d p ≠ g.key e p := by
  rw [f.key_of_kl hf, g.key_of_kl hg]
  omega

/-- A field of a port, its state excepted, stays as it is when the port changes its state. -/
theorem Work.sameAt_setKl {k p : Nat} (hk : AwayFromEvents k) (hst : F.klPortStatusState.key 0 p ≠ k) (w : Work) (st status : Nat) :
    w.SameAt k (w.setKl p st status) := by
  unfold Work.setKl
  dsimp only
  split
  · exact .refl k w
  · exact (sameAt_wr hst ..).trans (sameAt_event hk ..)

theorem Work.SameAt.klState {w v : Work} {p : Nat} (h : w.SameAt (F.klPortStatusState.key 0 p) v) : v.klState p = w.klState p := h.rd_eq

/-- The state that a port changes to is the one that it shows. -/
theorem Work.klState_setKl (w : Work) (p : Nat) {st : Nat} (hst : st < 8) (status : Nat) : (w.setKl p st status).klState p = st := by
  unfold Work.setKl
  dsimp only
  split
  next h => exact h
  · rw [(sameAt_event (outsideDev_kl rfl 0 p).away _ _ _ _).klState]
    exact (Work.rd_wr_same ..).trans (Nat.mod_eq_of_lt hst)

theorem Work.frameOut_regs (w : Work) (p lseq : Nat) (nak unseq : Bool) (msgs : List Msg) :
    (w.frameOut p lseq nak unseq msgs).regs = w.regs := rfl

theorem Work.directOut_regs (w : Work) (p typ : Nat) (bs : List Byte) : (w.directOut p typ bs).regs = w.regs := rfl

/-- Frames sent again leave the state of their port. -/
theorem Work.resend_klState (w : Work) (p : Nat) : (w.resend p).klState p = w.klState p := by
  have hcount : (w.bump F.klStatReplays 0 p (w.port p).unacked.length).klState p = w.klState p :=
    (Work.sameAt_wr (Fld.key_ne_of_kl rfl rfl (by decide) 0 0 p) _ _).klState
  refine Eq.trans ?_ hcount
  refine (Work.sameAt_of_regs (foldl_keeps (R := fun (u v : Work) => v.regs = u.regs) (fun _ => rfl) (fun h h' => h'.trans h)
    (fun v _ => v.frameOut_regs _ _ _ _ _) _ _) _).klState

end Sys2Proof.Machine

/-! Attestation and the link-up exchange (chapters 18 and 23: R500, R615, R616). -/

namespace Sys2Proof.Machine

/-! ## The lengths of digests and signatures -/

theorem toBytesBE_length (n x : Nat) : (toBytesBE n x).length = n := by
  rw [toBytesBE, List.length_reverse, toBytes_length]

theorem sm3Round_length (j w w' : Nat) (v : List Nat) : (sm3Round j w w' v).length = v.length := by
  unfold sm3Round
  split <;> rfl

theorem sm3Block_length (v : List Nat) (block : List Byte) : (sm3Block v block).length = v.length := by
  have hrounds : ∀ (f g : Nat → Nat) (l : List Nat) (r : List Nat),
      (l.foldl (fun r j => sm3Round j (f j) (g j) r) r).length = r.length := by
    intro f g l
    induction l with
    | nil => exact fun r => rfl
    | cons j l ih => exact fun r => (ih _).trans (sm3Round_length ..)
  unfold sm3Block
  dsimp only
  rw [List.length_map, List.length_zip, hrounds (fun j => _) (fun j => _), Nat.min_self]

/-- A digest has 32 bytes. -/
theorem sm3_length (m : List Byte) : (sm3 m).length = 32 := by
  have hblocks : ∀ (l : List (List Byte)) (v : List Nat), (l.foldl sm3Block v).length = v.length := by
    intro l
    induction l with
    | nil => exact fun v => rfl
    | cons b l ih => exact fun v => (ih _).trans (sm3Block_length ..)
  have hwords : ∀ v : List Nat, (v.flatMap (toBytesBE 4)).length = 4 * v.length := by
    intro v
    simp [List.length_flatMap, toBytesBE_length, Nat.mul_comm]
  unfold sm3
  dsimp only
  rw [hwords, hblocks]
  rfl

/-- A signature has 64. -/
theorem smSign_length (d k : Nat) (m : List Byte) : (smSign d k m).length = 64 := by
  unfold smSign
  split
  · simp only [List.length_append, be32, toBytesBE_length]
  · rfl

/-! ## The report (R615) -/

/-- The number whose bytes begin a report. -/
def Work.reportHead (w : Work) : Nat :=
  0x5241584F + 2 ^ 32 + w.deviceId * 2 ^ 48 + w.dv F.bootIdentityPair * 2 ^ 64 + w.dv F.bootIdentityGroup * 2 ^ 72 +
    w.devState * 2 ^ 76 + (if w.paired then w.partner * 2 ^ 80 + 2 ^ 89 else 0) + w.pairState * 2 ^ 90 +
    (if w.isMirror then 2 ^ 92 else 0) + w.dv F.secStatusVintage * 2 ^ 96 + w.tickNo % 2 ^ 64 * 2 ^ 128 +
    w.dv F.secStatusOwnerSerial * 2 ^ 192

/-- The bytes of a report that are signed. -/
def Work.reportBody (w : Work) (nonce : List Byte) : List Byte :=
  toBytes 32 w.reportHead ++ (slice nonce 0 32 ++ (slice w.sec.oxeneMeas 0 32 ++ (slice w.sec.ownerMeas 0 32 ++
    (sm3 (w.unitMap.flatMap (toBytes 4)) ++ sm3 w.sec.ownerRoot))))

theorem Work.report_eq (w : Work) (nonce : List Byte) : w.report nonce =
    (w.reportBody nonce ++ (w.deviceSign (w.reportBody nonce)).1,
      (w.deviceSign (w.reportBody nonce)).2.bump F.secAttestReports 0 0) := by
  have hbody : w.reportBody nonce = toBytes 32 w.reportHead ++ slice nonce 0 32 ++ slice w.sec.oxeneMeas 0 32 ++
      slice w.sec.ownerMeas 0 32 ++ sm3 (w.unitMap.flatMap (toBytes 4)) ++ sm3 w.sec.ownerRoot := by
    simp only [Work.reportBody, List.append_assoc]
  rw [hbody]
  rfl

theorem Work.reportBody_length (w : Work) (nonce : List Byte) : (w.reportBody nonce).length = 192 := by
  simp only [Work.reportBody, List.length_append, toBytes_length, slice_length, sm3_length]

/-- A report names the device and the tick. -/
theorem Work.reportHead_fields (w : Work) :
    w.reportHead / 256 ^ 6 % 256 ^ 2 % 512 = w.deviceId ∧ w.reportHead / 256 ^ 16 % 256 ^ 8 = w.tickNo := by
  have hdev : w.deviceId < 512 := w.rd_lt F.bootIdentityDevice 0 0
  have hpair : w.dv F.bootIdentityPair < 256 := w.rd_lt F.bootIdentityPair 0 0
  have hgroup : w.dv F.bootIdentityGroup < 16 := w.rd_lt F.bootIdentityGroup 0 0
  have hstate : w.devState < 8 := w.rd_lt F.rstStateState 0 0
  have hpartner : w.partner < 512 := w.rd_lt F.twnCfgPartner 0 0
  have hpstate : w.pairState < 4 := w.rd_lt F.twnStatePair 0 0
  have hvintage : w.dv F.secStatusVintage < 4294967296 := w.rd_lt F.secStatusVintage 0 0
  have htick : w.tickNo < 18446744073709551616 := w.rd_lt F.timeTickCountCount 0 0
  have hpaired : (if w.paired then w.partner * 2 ^ 80 + 2 ^ 89 else 0) < 2 ^ 90 ∧
      (if w.paired then w.partner * 2 ^ 80 + 2 ^ 89 else 0) % 2 ^ 80 = 0 := by
    split <;> omega
  have hmirror : (if w.isMirror then 2 ^ 92 else 0) = 0 ∨ (if w.isMirror then 2 ^ 92 else 0) = 2 ^ 92 := by
    split
    · exact .inr rfl
    · exact .inl rfl
  unfold Work.reportHead
  generalize (if w.paired then w.partner * 2 ^ 80 + 2 ^ 89 else 0) = a at hpaired ⊢
  generalize (if w.isMirror then 2 ^ 92 else 0) = b at hmirror ⊢
  simp only [Nat.reducePow] at *
  omega

/-- A report is 256 bytes with the nonce, the measurements, the device and the tick, signed over its first 192, and counted. -/
theorem Work.report_shows (w : Work) {nonce : List Byte} (hnonce : nonce.length = 32) :
    let r := (w.report nonce).1
    r.length = 256 ∧ slice r 32 32 = nonce ∧ slice r 64 32 = slice w.sec.oxeneMeas 0 32 ∧
      slice r 96 32 = slice w.sec.ownerMeas 0 32 ∧ leAt r 6 2 % 512 = w.deviceId ∧ leAt r 16 8 = w.tickNo ∧
      slice r 192 64 = (w.deviceSign (slice r 0 192)).1 ∧
      (w.report nonce).2.dv F.secAttestReports = (w.dv F.secAttestReports + 1) % 2 ^ F.secAttestReports.w := by
  have hbody := w.reportBody_length nonce
  obtain ⟨hdev, htick⟩ := w.reportHead_fields
  have hsigned : ∀ bs : List Byte, slice (w.reportBody nonce ++ bs) 0 192 = w.reportBody nonce := fun bs => by
    rw [slice_append_left (by omega), slice_self hbody]
  have hhead := toBytes_length 32 w.reportHead
  have hfield : ∀ off n, off + n ≤ 32 → ∀ bs, leAt (w.reportBody nonce ++ bs) off n = w.reportHead / 256 ^ off % 256 ^ n := by
    intro off n h bs
    rw [leAt_append_left (by omega), Work.reportBody, leAt_append_left (by omega), leAt_toBytes h]
  rw [w.report_eq]
  dsimp only
  refine ⟨?_, ?_, ?_, ?_, ?_, ?_, ?_, ?_⟩
  · rw [List.length_append, hbody]
    exact congrArg (192 + ·) (smSign_length ..)
  · rw [slice_append_left (by omega), Work.reportBody, slice_append_right hhead _ 0,
      slice_append_left (by rw [slice_length]), slice_self (slice_length ..), slice_self hnonce]
  · rw [slice_append_left (by omega), Work.reportBody, slice_append_right hhead _ 32, slice_append_right (slice_length ..) _ 0,
      slice_append_left (by rw [slice_length]), slice_self (slice_length ..)]
  · rw [slice_append_left (by omega), Work.reportBody, slice_append_right hhead _ 64, slice_append_right (slice_length ..) _ 32,
      slice_append_right (slice_length ..) _ 0, slice_append_left (by rw [slice_length]), slice_self (slice_length ..)]
  · rw [hfield 6 2 (by decide), hdev]
  · rw [hfield 16 8 (by decide), htick]
  · rw [hsigned, slice_append_right hbody _ 0]
    exact slice_self (smSign_length ..)
  · exact Work.rd_bump ..

/-! ## The link-up exchange (R500, R616) -/

section
variable {s : State} {p : Nat} {h : KHdr} {bs : List Byte}

/-- LINK_HELLO is heard at its port. -/
theorem exec_linkHello {f : Work → Work} (hwf : (Instr.linkHello p h bs).wf = true) (hcls : h.cls = clsCtrl) (htyp : h.typ = 0x30)
    (hf : s.work.helloAt p bs = f s.work) : exec (.linkHello p h bs) s = .next (s.on f) :=
  State.perform_eq_on _ hwf ((if_pos ⟨hcls, htyp⟩).trans hf)

end

section
variable {w : Work} {p : Nat} {bs : List Byte}

theorem Work.helloAt_of_stays (h : w.klState p ≠ klUp → (w.linkHello p bs).klState p ≠ klUp) : w.helloAt p bs = w.linkHello p bs :=
  if_neg fun ⟨hbefore, hafter⟩ => h hbefore hafter

theorem Work.report_klState (w : Work) (nonce : List Byte) (p : Nat) : (w.report nonce).2.klState p = w.klState p := by
  rw [w.report_eq]
  exact (Work.sameAt_wr ((outsideDev_kl rfl 0 p).ne rfl (by decide) 0) _ _).klState

/-- Step 1 is answered. -/
theorem Work.linkHello_of_one (hst : w.klState p = klAttesting ∨ w.klState p = klUp) (hstep : leAt bs 0 1 = 1)
    (hid : w.rdB F.secStatusIdOk 0 0 = true) : w.linkHello p bs =
      (w.report (slice bs 8 32)).2.directOut p 0x30
        (toBytes 8 2 ++ (w.report (slice bs 8 32)).1 ++ (w.report (slice bs 8 32)).2.certificate) := by
  rw [Work.linkHello, if_neg (by rcases hst with h | h <;> simp [h]), hstep]
  exact if_pos hid

theorem Work.linkHello_of_up (hst : w.klState p = klUp) (hstep : leAt bs 0 1 ≠ 1) : w.linkHello p bs = w := by
  rw [Work.linkHello, if_neg (by simp [hst])]
  split
  next h => exact absurd h hstep
  · exact if_pos hst
  · rfl

/-- Step 2 is checked. -/
theorem Work.linkHello_of_two (hst : w.klState p = klAttesting) (hstep : leAt bs 0 1 = 2) : w.linkHello p bs =
    if w.peerPasses p bs then w.portUp p (fieldOf (leAt bs 8 32) 48 9) else w.attestFail p := by
  have hnot : ¬ w.klState p = klUp := by simp [hst]
  rw [Work.linkHello, if_neg (by simp [hst]), hstep]
  exact if_neg hnot

theorem Work.attestFail_klState (w : Work) (p : Nat) : (w.attestFail p).klState p = klAttestFail := by
  refine Eq.trans ?_ (w.klState_setKl p (st := klAttestFail) (by decide) sAuth)
  exact (Work.sameAt_wr ((outsideDev_kl rfl 0 p).ne rfl (by decide) 0) _ _).klState

theorem Work.portUp_klState (w : Work) (p dev : Nat) : (w.portUp p dev).klState p = klUp := by
  unfold Work.portUp
  dsimp only
  split
  · exact Work.klState_setKl _ p (by decide) sOk
  · rw [Work.resend_klState]
    exact Work.klState_setKl _ p (by decide) sOk

end

/-! ## ATTEST (R615) -/

section
variable {s : State} {h : KHdr} {bs : List Byte} (hwf : (Instr.attest h bs).wf = true) (horder : OrderHere 0x02 h s)
include hwf horder

theorem exec_attest_of_short (hlen : bs.length < 32) : exec (.attest h bs) s = .next (s.on fun w => w.ctrlDone h sRange []) :=
  exec_of_taken_eq rfl hwf horder.1 ((Work.command_of_no_object horder.2 _).trans (if_pos hlen))

variable (hlen : 32 ≤ bs.length)
include hlen

theorem exec_attest_of_no_identity (hid : s.work.rdB F.secStatusIdOk 0 0 = false) :
    exec (.attest h bs) s = .next (s.on fun w => w.ctrlDone h sState []) :=
  exec_of_taken_eq rfl hwf horder.1 ((Work.command_of_no_object horder.2 _).trans
    ((if_neg (Nat.not_lt.mpr hlen)).trans (if_pos (by rw [hid]; rfl))))

variable (hid : s.work.rdB F.secStatusIdOk 0 0 = true)
include hid

theorem exec_attest_of_full (hfull : 16 ≤ s.sec.reports.length) :
    exec (.attest h bs) s = .next (s.on fun w => w.ctrlDone h sFull []) :=
  exec_of_taken_eq rfl hwf horder.1 ((Work.command_of_no_object horder.2 _).trans
    ((if_neg (Nat.not_lt.mpr hlen)).trans ((if_neg (by simp [hid])).trans (if_pos hfull))))

theorem exec_attest_of_room (hroom : s.sec.reports.length < 16) : exec (.attest h bs) s =
    .next { s with sec := { s.sec with reports := s.sec.reports ++ [(h, bs.take 32)] } } := by
  have hexec := exec_of_taken_eq (i := .attest h bs) rfl hwf horder.1 ((Work.command_of_no_object horder.2 _).trans
    ((if_neg (Nat.not_lt.mpr hlen)).trans ((if_neg (by simp [hid])).trans (if_neg (Nat.not_le.mpr hroom)))))
  exact hexec.trans (congrArg _ (State.on_of_no_store rfl rfl))

end

/-- Settles O26: ATTEST by its checks, the report by its bytes, and the link-up exchange by the state of the port. That a
request without an identity is answered with STATE_REJECT, and that an end which is UP answers step 1, are the model's choices
(log entries 150 and 119). -/
theorem attestationAndLinkUp : Obligations.AttestationAndLinkUp := by
  unfold Obligations.AttestationAndLinkUp
  refine ⟨⟨fun s h bs hwf horder => ⟨exec_attest_of_short hwf horder, exec_attest_of_no_identity hwf horder,
      exec_attest_of_full hwf horder, exec_attest_of_room hwf horder⟩, fun s hnone => ?_, fun s h nonce rest hsome => ?_⟩,
    fun w nonce hnonce => w.report_shows hnonce, fun s p h bs hwf hcls htyp => ?_⟩
  · refine State.perform_unchanged (i := .reportSigned) rfl ?_
    dsimp only
    split
    · rfl
    next h => simp [State.work, hnone] at h
  · refine State.perform_eq_on (i := .reportSigned) _ rfl ?_
    dsimp only
    split
    next h => simp [State.work, hsome] at h
    next h' nonce' rest' hw =>
      obtain ⟨⟨rfl, rfl⟩, rfl⟩ : (h = h' ∧ nonce = nonce') ∧ rest = rest' := by simpa [State.work, hsome] using hw
      rfl
  · have hp : p < 24 := by
      simp only [Instr.wf, Bool.and_eq_true, decide_eq_true_eq] at hwf
      exact hwf.1.1
    refine ⟨fun hst hstep hpass => ?_, fun hst hstep hfail => ?_, fun hst hstep => ?_, fun hst hstep hid => ?_, fun hst => ?_,
      fun hst => ?_, fun hst => ?_, fun hst => ?_⟩
    · have hlink := (Work.linkHello_of_two hst hstep).trans (if_pos hpass)
      refine exec_linkHello hwf hcls htyp ?_
      rw [Work.helloAt]
      rw [hlink, if_pos ⟨by simp [hst], Work.portUp_klState ..⟩]
    · have hlink := (Work.linkHello_of_two hst hstep).trans (if_neg (by simp [hfail]))
      refine exec_linkHello hwf hcls htyp ?_
      rw [Work.helloAt_of_stays, hlink]
      intro _
      rw [hlink, Work.attestFail_klState]
      decide
    · have hlink := Work.linkHello_of_up hst hstep
      exact (exec_linkHello (f := id) hwf hcls htyp ((Work.helloAt_of_stays fun h => absurd hst h).trans hlink)).trans
        (congrArg _ (State.on_unchanged rfl))
    · have hlink := Work.linkHello_of_one hst hstep hid
      refine exec_linkHello hwf hcls htyp ((Work.helloAt_of_stays fun h => ?_).trans hlink)
      rw [hlink, (Work.sameAt_of_regs (Work.directOut_regs ..) _).klState, Work.report_klState]
      exact h
    · exact State.perform_eq_on (i := .linkHelloTimeout p) _ (decide_eq_true hp) (if_pos hst)
    · exact State.perform_unchanged (i := .linkHelloTimeout p) (decide_eq_true hp) (if_neg hst)
    · exact State.perform_eq_on (i := .attestRetry p) _ (decide_eq_true hp) (if_pos hst)
    · exact State.perform_unchanged (i := .attestRetry p) (decide_eq_true hp) (if_neg hst)

end Sys2Proof.Machine

/-! Training of a Kupel port (chapter 18: R497 to R500). -/

namespace Sys2Proof.Machine

/-! ## The lanes of a direction (R497) -/

/-- The sound ones of lanes 0 to 3. -/
def soundLanes (failed : List Nat) : List Nat := (List.range 4).filter (fun l => !failed.contains l)

theorem soundLanes_spec (failed : List Nat) : (soundLanes failed).length ≤ 4 ∧ 4 ∉ soundLanes failed ∧
    ((soundLanes failed).length < 4 ↔ ∃ l, l < 4 ∧ l ∈ failed) := by
  refine ⟨List.length_filter_le .., ?_, ?_⟩
  · intro h
    exact absurd (List.mem_range.mp (List.mem_filter.mp h).1) (by decide)
  · have hlt := List.length_filter_lt_length_iff_exists (p := fun l => !failed.contains l) (l := List.range 4)
    simpa [soundLanes] using hlt

/-- The sound lanes of a direction are those, and the spare where it is sound. -/
theorem okLanes_eq (failed : List Nat) : (List.range 5).filter (fun l => !failed.contains l) =
    soundLanes failed ++ if failed.contains 4 then [] else [4] := by
  rw [List.range_succ, List.filter_append, List.filter_singleton]
  cases failed.contains 4 <;> rfl

theorem laneSet_eq_none {failed : List Nat} :
    laneSet failed = none ↔ ((List.range 5).filter (fun l => !failed.contains l)).length < 4 := by
  unfold laneSet
  dsimp only
  split
  next h => simpa using h
  next h => simpa using h

/-- The spare is taken in the place of a failed lane, and only then. -/
theorem laneSet_eq_some {failed ls : List Nat} (h : laneSet failed = some ls) : ls.length = 4 ∧ (∀ l, l ∈ ls → l < 5 ∧ l ∉ failed) ∧
    (4 ∈ ls ↔ ∃ l, l < 4 ∧ l ∈ failed) := by
  unfold laneSet at h
  dsimp only at h
  split at h
  next hlen =>
    obtain rfl := Option.some.inj h
    refine ⟨List.length_take_of_le hlen, fun l hl => ?_, ?_⟩
    · have hmem := List.mem_filter.mp (List.mem_of_mem_take hl)
      exact ⟨List.mem_range.mp hmem.1, by simpa using hmem.2⟩
    · obtain ⟨hle, hspare, hiff⟩ := soundLanes_spec failed
      rw [okLanes_eq] at hlen ⊢
      rw [← hiff]
      rcases hle.eq_or_lt with hfour | hless
      · rw [List.take_append_of_le_length hfour.ge, List.take_of_length_le hle]
        exact ⟨fun h => absurd h hspare, fun h => absurd hfour h.ne⟩
      · have hsound : failed.contains 4 = false := by
          by_contra hbad
          rw [if_pos (by simpa using hbad), List.append_nil] at hlen
          omega
        rw [if_neg (by rw [hsound]; decide), List.take_of_length_le (by rw [List.length_append]; exact hless)]
        exact ⟨fun _ => hless, fun _ => List.mem_append_right _ List.mem_cons_self⟩
  next => cases h

/-! ## The end of training (R497, R500) -/

/-- The port is one that trains. -/
def Work.trains (w : Work) (p : Nat) : Prop := w.klState p = klTraining ∨ (w.klState p = klDown ∧ w.rd F.klPortCfgEn 0 p ≠ 0)

section
variable {w : Work} {p tf rf : Nat}

theorem Work.trained_of_idle (h : ¬ w.trains p) : w.trained p tf rf = w :=
  if_pos ⟨fun h' => h (.inl h'), not_and_or.mp (fun ⟨hdown, hen⟩ => h (.inr ⟨hdown, hen⟩)) |>.imp_right not_not.mp⟩

theorem Work.trains_check (h : w.trains p) : ¬ (w.klState p ≠ klTraining ∧ (w.klState p ≠ klDown ∨ w.rd F.klPortCfgEn 0 p = 0)) := by
  rintro ⟨hst, hoff⟩
  rcases h with h | ⟨hdown, hen⟩
  · exact hst h
  · rcases hoff with h | h
    · exact h hdown
    · exact hen h

/-- A host port. -/
theorem Work.trained_of_host (h : w.trains p) (hhost : w.isHostPort p = true) : w.trained p tf rf =
    if (tf ||| rf) % 16 ≠ 0 then w.portDown p
    else ((w.wr F.klPortStatusTxLanes 0 p 15).wr F.klPortStatusRxLanes 0 p 15).setKl p klHostUp sOk :=
  (if_neg (Work.trains_check h)).trans (if_pos hhost)

variable {tx rx : List Nat} (h : w.trains p) (hfabric : w.isHostPort p = false)
  (htx : tx = addLanes (w.port p).txFailed (lanesOf tf)) (hrx : rx = addLanes (w.port p).rxFailed (lanesOf rf))
include h hfabric htx hrx

/-- Four lanes in each direction are taken, and step 1 is sent. -/
theorem Work.trained_of_lanes {tl rl : List Nat} (htl : laneSet tx = some tl) (hrl : laneSet rx = some rl) : w.trained p tf rf =
    let v := w.setPort p { w.port p with txFailed := tx, rxFailed := rx }
    let x := (v.takeLanes p 0 (w.port p).txSpare tx tl).takeLanes p 1 (w.port p).rxSpare rx rl
    ((x.setPort p { x.port p with txSpare := tl.contains 4, rxSpare := rl.contains 4, laneCause := 0 }).setKl p klAttesting
      sOk).helloOut p := by
  subst htx hrx
  unfold Work.trained
  dsimp only
  rw [if_neg (Work.trains_check h), if_neg (by simp [hfabric]), htl, hrl]

theorem Work.trained_of_no_tx (htl : laneSet tx = none) : w.trained p tf rf =
    (w.setPort p { w.port p with txFailed := tx, rxFailed := rx }).portOut p 0 (tx.getLastD 0) 6 := by
  subst htx hrx
  unfold Work.trained
  dsimp only
  rw [if_neg (Work.trains_check h), if_neg (by simp [hfabric]), htl]

theorem Work.trained_of_no_rx (htl : laneSet tx ≠ none) (hrl : laneSet rx = none) : w.trained p tf rf =
    (w.setPort p { w.port p with txFailed := tx, rxFailed := rx }).portOut p 1 (rx.getLastD 0) 6 := by
  obtain ⟨tl, htl⟩ := Option.ne_none_iff_exists'.mp htl
  subst htx hrx
  unfold Work.trained
  dsimp only
  rw [if_neg (Work.trains_check h), if_neg (by simp [hfabric]), htl, hrl]

end

/-! ## Lanes that fail (R497, R499) -/

section
variable {w : Work} {p lane : Nat} (cause : Nat)

theorem Work.laneFails_of_unused (hbit : bitOf (w.rd F.klPortStatusRxLanes 0 p) lane = false) : w.laneFails p lane cause = w :=
  if_pos (.inr hbit)

variable (hbit : bitOf (w.rd F.klPortStatusRxLanes 0 p) lane = true)
include hbit

/-- A lane in use of a fabric port: it retrains, or is OUT when the spare of the direction is in use. -/
theorem Work.laneFails_of_fabric (hst : w.klState p ∈ [klAttesting, klUp]) (hfabric : w.isHostPort p = false) :
    w.laneFails p lane cause =
      let x := w.setPort p { w.port p with rxFailed := setInsert (w.port p).rxFailed lane, laneCause := cause }
      if (w.port p).rxSpare then x.portOut p 1 lane cause else x.retrain p := by
  refine (if_neg ?_).trans (if_neg (by simp [hfabric]))
  rintro (⟨hno, hno', -⟩ | h)
  · simp only [List.mem_cons, List.not_mem_nil, or_false] at hst
    exact hst.elim hno hno'
  · simp [hbit] at h

theorem Work.laneFails_of_host (hst : w.klState p = klHostUp) (hhost : w.isHostPort p = true) :
    w.laneFails p lane cause = w.portDown p := by
  refine (if_neg ?_).trans (if_pos hhost)
  rintro (⟨-, -, hno⟩ | h)
  · exact hno hst
  · simp [hbit] at h

end

/-- Both rows of a lane that fails. -/
theorem exec_laneFails {s : State} {p lane cause : Nat} {c : Instr} (hp : p < 24) (hlane : lane < 5)
    (hc : (c, cause) ∈ [(Instr.laneLossOfLock p lane, 6), (.serLimitExceeded p lane, 2)]) :
    c.wf = true ∧ exec c s = s.perform c (fun w => w.laneFails p lane cause) := by
  have hwf : (decide (p < 24) && decide (lane < 5)) = true := by simpa using ⟨hp, hlane⟩
  simp only [List.mem_cons, List.not_mem_nil, or_false, Prod.mk.injEq] at hc
  rcases hc with ⟨rfl, rfl⟩ | ⟨rfl, rfl⟩
  · exact ⟨hwf, rfl⟩
  · exact ⟨hwf, rfl⟩

/-- Settles O27: the end of training by the lanes that are left, a failing lane by the state of its port, and the four lanes of
a direction by how many of lanes 0 to 3 are sound. -/
theorem portTraining : Obligations.PortTraining := by
  unfold Obligations.PortTraining
  refine ⟨⟨fun s p tf rf hp => ?_, fun s p lane c cause hp hlane hc => ?_, fun s p hp => ⟨fun hst => ?_, fun hst => ?_⟩⟩,
    fun failed => ⟨laneSet_eq_none, fun ls h => laneSet_eq_some h⟩⟩
  · have hwf : (Instr.kupelTrainingComplete p tf rf).wf = true := decide_eq_true hp
    refine ⟨fun hidle => State.perform_unchanged hwf (Work.trained_of_idle hidle), fun htrains hhost => ⟨fun hsound => ?_, fun hbad => ?_⟩,
      fun tx rx w htrains hfabric htx hrx hw => ⟨fun tl rl htl hrl => ?_, fun htl => ?_, fun htl hrl => ?_⟩⟩
    · exact State.perform_eq_on _ hwf ((Work.trained_of_host htrains hhost).trans (if_neg (not_not.mpr hsound)))
    · exact State.perform_eq_on _ hwf ((Work.trained_of_host htrains hhost).trans (if_pos hbad))
    · subst hw
      exact State.perform_eq_on _ hwf (Work.trained_of_lanes htrains hfabric htx hrx htl hrl)
    · subst hw
      exact State.perform_eq_on _ hwf (Work.trained_of_no_tx htrains hfabric htx hrx htl)
    · subst hw
      exact State.perform_eq_on _ hwf (Work.trained_of_no_rx htrains hfabric htx hrx htl hrl)
  · obtain ⟨hwf, hexec⟩ := exec_laneFails (s := s) hp hlane hc
    rw [hexec]
    refine ⟨fun hbit => ?_, fun hbit hst hfabric => ?_, fun hbit hst hhost => ?_⟩
    · exact State.perform_unchanged hwf (Work.laneFails_of_unused cause hbit)
    · exact State.perform_eq_on _ hwf (Work.laneFails_of_fabric cause hbit hst hfabric)
    · exact State.perform_eq_on _ hwf (Work.laneFails_of_host cause hbit hst hhost)
  · exact State.perform_eq_on (i := .trainingExclusion p) _ (decide_eq_true hp) (if_pos hst)
  · exact State.perform_unchanged (i := .trainingExclusion p) (decide_eq_true hp) (if_neg hst)

end Sys2Proof.Machine

/-! Frames that leave a port and frames that arrive (chapter 18: R501, R506, R508). -/

namespace Sys2Proof.Machine

/-! ## MESSAGE_TRANSMIT (R506, R508) -/

section
variable {w : Work} {p c : Nat} {x : Port} {m : Msg}

theorem Work.transmit_of_none (hx : x = w.port p) (hnone : x.waiting.find? (fun m => m.h.cls = c) = none) :
    w.transmit p c = w := by
  subst hx
  unfold Work.transmit
  dsimp only
  rw [hnone]

variable (hx : x = w.port p) (hm : x.waiting.find? (fun m => m.h.cls = c) = some m)
include hx hm

/-- A host port sends when it is up. -/
theorem Work.transmit_of_host (hhost : w.isHostPort p = true) (hst : w.klState p = klHostUp) : w.transmit p c =
    (w.setPort p { x with waiting := x.waiting.erase m }).frameOut p 0 false false [m] := by
  subst hx
  unfold Work.transmit
  dsimp only
  rw [hm]
  exact (if_pos hhost).trans (if_pos hst)

variable (hfabric : w.isHostPort p = false)
include hfabric

/-- Without credits, or while the port is not UP, the message waits. -/
theorem Work.transmit_of_waits (hwait : w.klState p ≠ klUp ∨ x.creditsLeft c < m.credits) : w.transmit p c = w := by
  subst hx
  unfold Work.transmit
  dsimp only
  rw [hm]
  exact (if_neg (by simp [hfabric])).trans (if_pos hwait)

/-- One that the credits cover goes out, and is kept until it is acknowledged. -/
theorem Work.transmit_of_credits (hup : w.klState p = klUp) (htime : c ≠ clsTime) (hcredits : m.credits ≤ x.creditsLeft c)
    (hframes : x.unacked.length < 32767) (hbytes : x.replayBytes + 34 + m.bytes.length ≤ 524288) : w.transmit p c =
    (w.setPort p { x with waiting := x.waiting.erase m, used := x.used.set c ((getAt 0 x.used c + m.credits) % 4096),
                          nextSeq := (x.nextSeq + 1) % 65536, unacked := x.unacked ++ [⟨x.nextSeq, [m]⟩] }).frameOut p
      x.nextSeq false false [m] := by
  subst hx
  unfold Work.transmit
  dsimp only
  rw [hm]
  refine (if_neg (by simp [hfabric])).trans ((if_neg ?_).trans ((if_neg htime).trans (if_neg ?_)))
  · rintro (h | h)
    · exact h hup
    · omega
  · omega

end

/-! ## Acknowledgement and replay (R502, R508) -/

/-- The credits of a link header stand above its first 48 bits. -/
theorem headerCredits_dvd (g : Nat → Nat) (l : List Nat) :
    2 ^ 48 ∣ l.foldl (fun (acc : Nat) c => acc + g c * 2 ^ (48 + 12 * c)) 0 := by
  refine foldl_keeps (R := fun (a b : Nat) => 2 ^ 48 ∣ a → 2 ^ 48 ∣ b) (fun _ h => h) (fun h h' ha => h' (h ha)) (fun a c ha => ?_) l 0
    (Nat.dvd_zero _)
  exact Nat.dvd_add ha (Nat.dvd_mul_left_of_dvd (pow_dvd_pow 2 (Nat.le_add_right ..)) _)

/-- An EMPTY frame acknowledges all that came before the next expected frame. -/
theorem Port.linkHeader_ack (x : Port) : (x.linkHeader 0 false true false true).length = 16 ∧
    fieldOf (ofBytes (x.linkHeader 0 false true false true)) 16 16 = (x.expect + 65535) % 65536 := by
  obtain ⟨k, hk⟩ := headerCredits_dvd (fun c => getAt 0 x.freed c % 4096) (List.range 6)
  have hform : x.linkHeader 0 false true false true = toBytes 16 (0 % 65536 + (x.expect + 65535) % 65536 * 2 ^ 16 + 0 + 2 ^ 33 +
      2 ^ 35 + 2 ^ 48 * k) := by
    rw [← hk]
    rfl
  rw [hform, ofBytes_toBytes]
  refine ⟨toBytes_length .., ?_⟩
  rw [fieldOf, Nat.shiftRight_eq_div_pow]
  simp only [Nat.reducePow]
  omega

/-- ACK_TIMER sends it. -/
theorem exec_ackTimer_of_due {s : State} {p : Nat} (hp : p < 24) (hst : s.work.klState p = klUp) (hdue : (s.work.port p).sinceAck ≠ 0)
    (hfabric : s.work.isHostPort p = false) : ∃ t bs, exec (.ackTimer p) s = .next t ∧ (t.work.port p).sinceAck = 0 ∧
      t.out = (p, ⟨frameLog, bs⟩) :: s.out ∧ fieldOf (ofBytes bs) 16 16 = ((s.work.port p).expect + 65535) % 65536 := by
  have hexec : exec (.ackTimer p) s = .next (s.on fun w => w.frameOut p 0 false true []) :=
    State.perform_eq_on (i := .ackTimer p) _ (decide_eq_true hp) (if_pos ⟨hst, hdue⟩)
  refine ⟨_, (s.work.port p).linkHeader 0 false true false true, hexec, ?_, ?_, (Port.linkHeader_ack _).2⟩
  · rw [State.on_of_no_store rfl rfl]
    exact congrArg Port.sinceAck (Work.port_setPort ..)
  · rw [State.on_out]
    refine congrArg (fun b => (p, (⟨frameLog, b⟩ : Msg)) :: s.out) ?_
    exact (List.append_nil _).trans (congrArg (fun host => (s.work.port p).linkHeader 0 false true host true) hfabric)

/-! ## Frames that arrive (R501, R508) -/

section
variable {w : Work} {p : Nat} {bs : List Byte} {ok : Bool}

theorem Work.kfpFrame_of_deaf (hup : w.klState p ≠ klUp) (hhost : w.klState p ≠ klHostUp) (hattest : w.klState p ≠ klAttesting) :
    w.kfpFrame p bs ok = w := if_pos ⟨hup, hhost, hattest⟩

/-- A damaged or overlong frame is counted, and asked for again. -/
theorem Work.kfpFrame_of_bad (hup : w.klState p = klUp) (hbad : ok = false ∨ 9216 < bs.length) :
    w.kfpFrame p bs ok = (w.bump F.klStatFcsErr 0 p).nak p := by
  refine (if_neg (fun h => h.1 hup)).trans ((if_pos ?_).trans (if_pos (decide_eq_true hup)))
  rcases hbad with h | h
  · exact .inl (by rw [h]; rfl)
  · exact .inr h

end

/-- Settles O28: a message that leaves, an acknowledgement and a replay by the state of the port, and the frames that a port
hears. That a frame carries one message is the model's choice (log entry 117). -/
theorem framesOfAPort : Obligations.FramesOfAPort := by
  unfold Obligations.FramesOfAPort
  refine ⟨⟨fun s p c x hp hx => ?_, fun s p hp => ?_⟩, fun s p ns bs ok w hp hw => ?_⟩
  · have hwf : (Instr.messageTransmit p c).wf = true := decide_eq_true hp
    refine ⟨fun hnone => ?_, fun m hm hfabric hup htime hcredits hframes hbytes => ?_, fun m hm hfabric hwait => ?_,
      fun m hm hhost hst => ?_⟩
    · exact State.perform_unchanged hwf (Work.transmit_of_none hx hnone)
    · exact State.perform_eq_on _ hwf (Work.transmit_of_credits hx hm hfabric hup htime hcredits hframes hbytes)
    · exact State.perform_unchanged hwf (Work.transmit_of_waits hx hm hfabric hwait)
    · exact State.perform_eq_on _ hwf (Work.transmit_of_host hx hm hhost hst)
  · refine ⟨fun hst hdue hfabric => exec_ackTimer_of_due hp hst hdue hfabric, fun h => ?_, fun hst hsome => ?_, fun h => ?_⟩
    · refine State.perform_unchanged (i := .ackTimer p) (decide_eq_true hp) (if_neg fun ⟨hst, hdue⟩ => ?_)
      exact h.elim (fun h => h hst) hdue
    · refine State.perform_eq_on (i := .replayTimeout p) _ (decide_eq_true hp) ((if_pos hst).trans (if_neg ?_))
      simpa using hsome
    · refine State.perform_unchanged (i := .replayTimeout p) (decide_eq_true hp) ?_
      split
      next hst => exact if_pos (by simpa using h.resolve_left (fun hno => hno hst))
      · rfl
  · subst hw
    have hexec : exec (.kfpFrame p bs ok ns) s = .next (s.on fun _ => (s.work.atNs ns).kfpFrame p bs ok) :=
      State.perform_eq_on (i := .kfpFrame p bs ok ns) _ (decide_eq_true hp) rfl
    refine ⟨fun hup hhost hattest => ?_, fun hup hbad => ?_, hexec⟩
    · rwa [Work.kfpFrame_of_deaf hup hhost hattest] at hexec
    · rwa [Work.kfpFrame_of_bad hup hbad] at hexec

end Sys2Proof.Machine

/-! Where a message goes (chapter 18: R513, R521, R527). -/

namespace Sys2Proof.Machine

/-- The commands that are messages: their class and type, and none of them is heard by every device. -/
theorem exec_messageRow {s : State} {h : KHdr} {bs : List Byte} {c : Instr} {cls typ : Nat}
    (hc : (c, cls, typ) ∈ [(Instr.attest h bs, 3, 0x02), (.planLoad h bs, 3, 0x03), (.planStart h bs, 3, 0x04),
      (.planStop h bs, 3, 0x05), (.planDrain h bs, 3, 0x06), (.tableAttach h bs, 3, 0x07), (.rowReplace h bs, 3, 0x08),
      (.bqFetch h bs, 3, 0x0A), (.regRead h bs, 3, 0x0B), (.regWrite h bs, 3, 0x0C), (.event h bs, 3, 0x20),
      (.dataWrite h bs, 0, 0x01), (.batchPart h bs, 0, 0x02), (.embUpdate h bs, 0, 0x33), (.embCopy h bs, 0, 0x34),
      (.embLookup h bs, 1, 0x31), (.embOverride h bs, 1, 0x35), (.ctrlDone h bs, 2, 0x01), (.embPooled h bs, 2, 0x32)]) :
    (∃ f, exec c s = s.perform c (fun w => w.arriveAs cls typ ⟨h, bs⟩ f)) ∧
    (decide (cls = clsTime) || decide (cls = clsTwin) || (decide (cls = clsCtrl) && decide (typ = 0x30))) = false := by
  simp only [List.mem_cons, List.not_mem_nil, or_false, Prod.mk.injEq] at hc
  rcases hc with hc | hc | hc | hc | hc | hc | hc | hc | hc | hc | hc | hc | hc | hc | hc | hc | hc | hc | hc
  all_goals
    obtain ⟨rfl, rfl, rfl⟩ := hc
    exact ⟨⟨_, rfl⟩, rfl⟩

section
variable {w : Work} {m : Msg} (hlink : (decide (m.h.cls = clsTime) || decide (m.h.cls = clsTwin) ||
  (decide (m.h.cls = clsCtrl) && decide (m.h.typ = 0x30))) = false) (f : Work → Msg → Work)
include hlink

/-- Another device's message is forwarded. -/
theorem Work.arrive_of_other (hmirror : w.isMirror = false) (hown : w.ownId m.h.dstDev = false) : w.arrive m f = w.forward m := by
  rw [Work.arrive, if_neg (by simp [hlink]), if_neg (by simp [hmirror]), if_neg (by simp [hown])]

/-- A host session's goes to the bridge. -/
theorem Work.arrive_of_session (hmirror : w.isMirror = false) (hown : w.ownId m.h.dstDev = true) (hsess : m.h.dstSess ≠ 0) :
    w.arrive m f = w.toHost (m.h.dstSess - 1) m := by
  rw [Work.arrive, if_neg (by simp [hlink]), if_neg (by simp [hmirror]), if_pos hown, if_neg hsess]

/-- What a mirror does not handle goes to the ACTIVE. -/
theorem Work.arrive_of_mirror (hmirror : w.isMirror = true) (hdst : m.h.dstDev = w.deviceId ∨ m.h.dstDev = w.partner)
    (hhandles : w.mirrorHandles m.h = false) : w.arrive m f = w.toActive m := by
  rw [Work.arrive, if_neg (by simp [hlink]), if_pos (by simp [hmirror, hdst]), if_neg (by simp [hhandles])]

end

/-! ## Forwarding (R513) -/

section
variable {w : Work} {m : Msg}

/-- The message as it is forwarded. -/
def Msg.onward (m : Msg) : Msg := { m with h := { m.h with hops := m.h.hops - 1 } }

theorem Work.forward_of_hops (hhops : 1 < m.h.hops) : w.forward m = w.route m.onward := if_neg (Nat.not_le.mpr hhops)

theorem Work.route_of_no_port (hports : w.usablePorts m.h.dstDev m.h.cls = []) :
    w.route m = { w.bump F.fabStatNoRoute 0 0 with noRoute := w.noRoute + 1 } := by
  unfold Work.route
  rw [hports]

theorem getAt_mem {α : Type} (d : α) {l : List α} {i : Nat} (h : i < l.length) : getAt d l i ∈ l := by
  rw [getAt, List.getD_eq_getElem _ _ h]
  exact List.getElem_mem h

/-- A message that a usable port leads on joins what waits there. -/
theorem Work.route_of_port (hports : w.usablePorts m.h.dstDev m.h.cls ≠ []) :
    ∃ p, p ∈ w.usablePorts m.h.dstDev m.h.cls ∧ w.route m = w.enqueue p m := by
  unfold Work.route
  split
  next h => exact absurd h hports
  next => exact ⟨_, getAt_mem 0 (Nat.mod_lt _ (List.length_pos_iff.mpr hports)), rfl⟩

theorem Work.klState_of_usable {dst cls p : Nat} (h : p ∈ w.usablePorts dst cls) : w.klState p = klUp := by
  have hp := (List.mem_filter.mp h).2
  simp only [Bool.and_eq_true, decide_eq_true_eq] at hp
  exact hp.1.1.2

theorem Work.enqueue_port (w : Work) (p : Nat) (m : Msg) :
    (w.enqueue p m).port p = { w.port p with waiting := (w.port p).waiting ++ [m] } ∧
    ∀ q, q ≠ p → (w.enqueue p m).port q = w.port q :=
  ⟨Work.port_setPort .., fun _ hq => smGet_smSet_other hq.symm⟩

end

/-- Settles O29: a message by its class, its type and its destination, and forwarding by its HOPS and the usable ports. -/
theorem messagesGoWhereTheyAreAddressed : Obligations.MessagesGoWhereTheyAreAddressed := by
  unfold Obligations.MessagesGoWhereTheyAreAddressed
  refine ⟨fun s h bs c cls typ hwf hc => ?_, fun w m => ⟨fun hhops => if_pos hhops, fun hhops hports => ?_, fun hhops hports => ?_⟩⟩
  · obtain ⟨⟨f, hexec⟩, hlink⟩ := exec_messageRow (s := s) hc
    rw [hexec]
    refine ⟨fun hother => State.perform_unchanged hwf (Work.arriveAs_of_other _ f fun ⟨hcls, htyp⟩ =>
      hother.elim (· hcls) (· htyp)), fun hcls htyp => ?_⟩
    subst hcls htyp
    refine ⟨fun hmirror hown => ?_, fun hmirror hown hsess => ?_, fun hmirror hdst hhandles => ?_⟩
    · exact State.perform_eq_on _ hwf ((if_pos ⟨rfl, rfl⟩).trans (Work.arrive_of_other (m := ⟨h, bs⟩) hlink f hmirror hown))
    · exact State.perform_eq_on _ hwf ((if_pos ⟨rfl, rfl⟩).trans (Work.arrive_of_session (m := ⟨h, bs⟩) hlink f hmirror hown hsess))
    · exact State.perform_eq_on _ hwf ((if_pos ⟨rfl, rfl⟩).trans (Work.arrive_of_mirror (m := ⟨h, bs⟩) hlink f hmirror hdst hhandles))
  · rw [Work.forward_of_hops hhops, Work.route_of_no_port (m := m.onward) hports]
    exact ⟨Work.rd_bump .., rfl, rfl⟩
  · obtain ⟨p, hp, hroute⟩ := Work.route_of_port (m := m.onward) hports
    obtain ⟨hport, hothers⟩ := w.enqueue_port p m.onward
    rw [Work.forward_of_hops hhops, hroute]
    exact ⟨p, hp, Work.klState_of_usable hp, hport, hothers⟩

end Sys2Proof.Machine

/-! Masters, and the register commands (chapters 18 and 24: R517, R518, R541, R653 to R660, R673). -/

namespace Sys2Proof.Machine

/-! ## Masters that are not accepted (R517) -/

theorem Work.planCommand_of_unauthorised {w : Work} {m : Msg} (hauth : w.authorised m.h = false) (f : Work → Nat → Work) :
    w.planCommand m f = (w.bump F.fabStatAuthDrop 0 0).ctrlDone m.h sAuth [] := by
  unfold Work.planCommand
  dsimp only
  split
  · exact Work.command_of_unauthorised hauth ..
  · exact Work.command_of_unauthorised hauth ..

theorem Work.drainMsg_of_unauthorised {w : Work} {m : Msg} (hauth : w.authorised m.h = false) :
    w.drainMsg m = (w.bump F.fabStatAuthDrop 0 0).ctrlDone m.h sAuth [] := by
  unfold Work.drainMsg
  split
  · exact Work.command_of_unauthorised hauth ..
  · exact Work.planCommand_of_unauthorised hauth _

/-- The control commands of masters refuse one that is not accepted. -/
theorem exec_masterRow {s : State} {h : KHdr} {bs : List Byte} {c : Instr} {typ : Nat}
    (hc : (c, typ) ∈ [(Instr.attest h bs, 0x02), (.planLoad h bs, 0x03), (.planStart h bs, 0x04), (.planStop h bs, 0x05),
      (.planDrain h bs, 0x06), (.bqFetch h bs, 0x0A), (.regRead h bs, 0x0B), (.regWrite h bs, 0x0C)]) :
    ∃ f, exec c s = s.perform c (fun w => w.arriveAs clsCtrl typ ⟨h, bs⟩ f) ∧
      ∀ w : Work, w.authorised h = false → f w ⟨h, bs⟩ = (w.bump F.fabStatAuthDrop 0 0).ctrlDone h sAuth [] := by
  simp only [List.mem_cons, List.not_mem_nil, or_false, Prod.mk.injEq] at hc
  rcases hc with hc | hc | hc | hc | hc | hc | hc | hc <;> obtain ⟨rfl, rfl⟩ := hc
  · exact ⟨Work.attestRequest, rfl, fun w hauth => Work.command_of_unauthorised hauth ..⟩
  · exact ⟨fun w m => w.planLoadMsg m, rfl, fun w hauth => Work.planCommand_of_unauthorised hauth _⟩
  · exact ⟨fun w m => w.planStartMsg m, rfl, fun w hauth => Work.planCommand_of_unauthorised hauth _⟩
  · exact ⟨fun w m => w.planStopMsg m, rfl, fun w hauth => Work.planCommand_of_unauthorised hauth _⟩
  · exact ⟨fun w m => w.drainMsg m, rfl, fun w hauth => Work.drainMsg_of_unauthorised hauth⟩
  · exact ⟨Work.bqFetchMsg, rfl, fun w hauth => Work.command_of_unauthorised hauth ..⟩
  · exact ⟨Work.regReadMsg, rfl, fun w hauth => Work.command_of_unauthorised hauth ..⟩
  · exact ⟨Work.regWriteMsg, rfl, fun w hauth => Work.command_of_unauthorised hauth ..⟩

/-! ## Orders of several masters (R541) -/

/-- The orders of other masters on an object. -/
def Work.othersOn (w : Work) (kind a b : Nat) (h : KHdr) : List CmdRec :=
  (w.cmdsOn kind a b).filter (fun c => c.rank ≠ w.rank h)

theorem Work.mem_othersOn {w : Work} {kind a b : Nat} {h : KHdr} {c : CmdRec} :
    c ∈ w.othersOn kind a b h ↔ c ∈ w.cmdsOn kind a b ∧ c.rank ≠ w.rank h := by
  rw [Work.othersOn, List.mem_filter, decide_eq_true_eq]

section
variable (w : Work) (kind a b : Nat) (h : KHdr)

/-- An order is discarded when a higher master has named its object. -/
theorem Work.resolve_eq_none : w.resolve kind a b h = none ↔ ∃ c, c ∈ w.cmdsOn kind a b ∧ c.rank < w.rank h := by
  have hany : (w.othersOn kind a b h).any (fun c => decide (c.rank < w.rank h)) = true ↔
      ∃ c, c ∈ w.cmdsOn kind a b ∧ c.rank < w.rank h := by
    simp only [List.any_eq_true, Work.mem_othersOn, decide_eq_true_eq]
    exact ⟨fun ⟨c, ⟨hc, _⟩, hlt⟩ => ⟨c, hc, hlt⟩, fun ⟨c, hc, hlt⟩ => ⟨c, ⟨hc, hlt.ne⟩, hlt⟩⟩
  rw [← hany]
  unfold Work.resolve
  dsimp only
  rw [← Work.othersOn]
  split
  next hlower => exact ⟨fun _ => hlower, fun _ => rfl⟩
  next hlower => exact ⟨fun hnone => (by cases hnone), fun hany => absurd hany hlower⟩

theorem Work.ctrlDone_cmds (st : Nat) (bs : List Byte) : (w.ctrlDone h st bs).cmds = w.cmds := by
  obtain ⟨r, o, p, s, n, hmail⟩ := w.onlyMail_ctrlDone h st bs
  rw [hmail]

theorem Work.noteConflict_cmds : (w.noteConflict h).cmds = w.cmds := by
  obtain ⟨r, e, hnotes⟩ := (w.bumpSat F.twnStatConflicts 0 0).onlyNotes_event 6 sConflict (ofBytes (headerBytes h))
  rw [Work.noteConflict, hnotes]
  rfl

theorem Work.discardPending_cmds : (w.discardPending kind a b).2.cmds = w.cmds := by
  unfold Work.discardPending
  split
  · dsimp only
    split
    · split
      · rfl
      · exact Work.ctrlDone_cmds ..
    · rfl
  · split
    · exact foldl_keeps (R := fun (u v : Work) => v.cmds = u.cmds) (fun _ => rfl) (fun h h' => h'.trans h)
        (fun v _ => v.ctrlDone_cmds _ _ _) _ _
    · rfl

/-- An order that is taken joins its master's own on the object; those of lower masters are out of the contest. -/
theorem Work.cmdsOn_resolve {x : Work} (hx : w.resolve kind a b h = some x) : x.cmdsOn kind a b =
    ⟨kind, a, b, w.rank h, h⟩ :: (w.cmdsOn kind a b).filter (fun c => c.rank = w.rank h) := by
  have hcmds : ∃ v : Work, v.cmds = w.cmds ∧ x.cmds = ⟨kind, a, b, w.rank h, h⟩ ::
      v.cmds.filter (fun c => !(w.othersOn kind a b h).contains c) := by
    unfold Work.resolve at hx
    dsimp only at hx
    rw [← Work.othersOn] at hx
    split at hx
    · cases hx
    · obtain rfl := Option.some.inj hx
      refine ⟨_, ?_, rfl⟩
      split
      · rfl
      · refine Eq.trans ?_ (w.discardPending_cmds kind a b)
        exact foldl_keeps (R := fun (u v : Work) => v.cmds = u.cmds) (fun _ => rfl) (fun h h' => h'.trans h)
          (fun v c => v.noteConflict_cmds _) _ _
  obtain ⟨v, hv, hxv⟩ := hcmds
  rw [Work.cmdsOn, hxv, hv, List.filter_cons_of_pos (by simp), Work.cmdsOn, List.filter_filter, List.filter_filter]
  refine congrArg _ (List.filter_congr fun c hc => ?_)
  cases hon : decide (c.kind = kind) && decide (c.a = a) && decide (c.b = b) with
  | false => simp
  | true =>
    have hmem : c ∈ w.othersOn kind a b h ↔ c.rank ≠ w.rank h := by
      rw [Work.mem_othersOn]
      exact ⟨fun h => h.2, fun hne => ⟨List.mem_filter.mpr ⟨hc, hon⟩, hne⟩⟩
    by_cases heq : c.rank = w.rank h <;> simp [hmem, heq]

end

theorem Work.planCommand_of_conflict {w : Work} {m : Msg} (hauth : w.authorised m.h = true) (hlen : m.payload.length ≠ 0)
    (hres : w.resolve objPlan (planOfMsg m) 0 m.h = none) (f : Work → Nat → Work) :
    w.planCommand m f = (w.noteConflict m.h).ctrlDone m.h sConflict [] := by
  unfold Work.planCommand
  dsimp only
  rw [if_neg hlen, Work.command_of_conflict hauth hres]

/-- PLAN_START that a higher master has forestalled. -/
theorem exec_planStart_of_conflict {s : State} {h : KHdr} {bs : List Byte} (hwf : (Instr.planStart h bs).wf = true)
    (horder : OrderHere 0x04 h s) (hlen : 1 ≤ bs.length) (hres : s.work.resolve objPlan (leAt bs 0 1 % 16) 0 h = none) :
    exec (.planStart h bs) s = .next (s.on fun w => (w.noteConflict h).ctrlDone h sConflict []) := by
  have hmsg : s.work.planStartMsg ⟨h, bs⟩ = (s.work.noteConflict h).ctrlDone h sConflict [] :=
    Work.planCommand_of_conflict (m := ⟨h, bs⟩) horder.2 (Nat.one_le_iff_ne_zero.mp hlen) hres _
  exact (exec_of_taken (f := fun w m => w.planStartMsg m) rfl hwf horder.1).trans (congrArg _ (State.on_congr hmsg))

/-! ## REG_READ (R518, R655) -/

section
variable {s : State} {h : KHdr} {bs : List Byte} (hwf : (Instr.regRead h bs).wf = true) (horder : OrderHere 0x0B h s)
include hwf horder

theorem exec_regRead_of_no_span (hspan : regSpan bs = none) :
    exec (.regRead h bs) s = .next (s.on fun w => w.ctrlDone h sRange []) := by
  refine exec_of_taken_eq rfl hwf horder.1 ?_
  rw [Work.regReadMsg, Work.command_of_no_object horder.2]
  dsimp only
  rw [hspan]

variable {a : Nat} (hspan : regSpan bs = some (a, 1))
include hspan

theorem exec_regRead_of_word {v : Nat} (hv : s.work.readThrough a = some v) :
    exec (.regRead h bs) s = .next (s.on fun w => w.ctrlDone h sOk (toBytes 8 v)) := by
  refine exec_of_taken_eq rfl hwf horder.1 ?_
  have hwords : (List.range 1).map (fun k => s.work.readThrough (a + 8 * k)) = [some v] := congrArg (fun x => [x]) hv
  rw [Work.regReadMsg, Work.command_of_no_object horder.2]
  dsimp only
  rw [hspan]
  dsimp only
  rw [hwords]
  exact (if_neg Bool.false_ne_true).trans (congrArg (s.work.ctrlDone h sOk) (List.append_nil _))

theorem exec_regRead_of_reserved (hv : s.work.readThrough a = none) :
    exec (.regRead h bs) s = .next (s.on fun w => w.ctrlDone h sRange []) := by
  refine exec_of_taken_eq rfl hwf horder.1 ?_
  have hwords : (List.range 1).map (fun k => s.work.readThrough (a + 8 * k)) = [none] := congrArg (fun x => [x]) hv
  rw [Work.regReadMsg, Work.command_of_no_object horder.2]
  dsimp only
  rw [hspan]
  dsimp only
  rw [hwords]
  exact if_pos rfl

end

/-! ## REG_WRITE (R518, R541, R654) -/

section
variable {s : State} {h : KHdr} {bs : List Byte} (hwf : (Instr.regWrite h bs).wf = true) (horder : OrderHere 0x0C h s)
include hwf horder

theorem exec_regWrite_of_no_span (hspan : regSpan bs = none) :
    exec (.regWrite h bs) s = .next (s.on fun w => w.ctrlDone h sRange []) := by
  refine exec_of_taken_eq rfl hwf horder.1 ?_
  rw [Work.regWriteMsg, Work.command_of_no_object horder.2]
  dsimp only
  rw [hspan]

/-- One word written, and its status answered. -/
theorem exec_regWrite_of_word {a st : Nat} {w x : Work} (hspan : regSpan bs = some (a, 1)) (hlen : 24 ≤ bs.length)
    (hres : s.work.resolveAll h (s.work.wordObjects a) = some w)
    (hstore : w.storeWord (.regWrite h.srcDev h.srcSess) a (leAt bs 16 8) = (some st, x))
    (hstays : resetWrite (x.targets a) (leAt bs 16 8) = false) :
    exec (.regWrite h bs) s = .next (s.on fun _ => x.ctrlDone h (lowest [st]) []) := by
  refine exec_of_taken_eq rfl hwf horder.1 ?_
  have hobjects : (List.range 1).flatMap (fun k => s.work.wordObjects (a + 8 * k)) = s.work.wordObjects a := List.append_nil _
  have hwords : (List.range 1).foldl (fun (x : List (Option Nat) × Work) k =>
      ((x.2.storeWord (.regWrite h.srcDev h.srcSess) (a + 8 * k) (leAt bs (16 + 8 * k) 8)).1 :: x.1,
        (x.2.storeWord (.regWrite h.srcDev h.srcSess) (a + 8 * k) (leAt bs (16 + 8 * k) 8)).2)) ([], w) = ([some st], x) :=
    congrArg (fun (p : Option Nat × Work) => ([p.1], p.2)) hstore
  have hresets : (List.range 1).any (fun k => resetWrite (x.targets (a + 8 * k)) (leAt bs (16 + 8 * k) 8)) = false := by
    refine (congrArg (· || false) hstays).trans rfl
  rw [Work.regWriteMsg, Work.command_of_no_object horder.2]
  dsimp only
  rw [hspan]
  dsimp only
  rw [if_neg (by omega), hobjects, hres]
  dsimp only
  rw [hwords, hresets]
  rfl

end

/-! ## Words of register space (R653, R654, R658, R660) -/

theorem Work.storeWord_of_reserved {w : Work} {a : Nat} (h : w.reservedWord a = true) (by_ : Requester) (v : Nat) :
    w.storeWord by_ a v = (none, w) := if_pos h

theorem Work.storeWord_of_no_target {w : Work} {a : Nat} (h : w.reservedWord a = false) (hnone : w.targets a = []) (by_ : Requester)
    (v : Nat) : w.storeWord by_ a v = (some sOk, w) := by
  rw [Work.storeWord, if_neg (by simp [h]), hnone]
  rfl

theorem Work.readThrough_of_reserved {w : Work} {a : Nat} (h : w.reservedWord a = true) (hnone : w.readWord a = none) :
    w.readThrough a = if commandAlias a then some 0 else none := by
  rw [Work.readThrough, hnone, h]
  cases commandAlias a <;> rfl

/-- Settles O30: masters by the commands that they issue, orders by the ranks on their object, and the register commands of one
word by the registers that it reaches. That firmware's rank is 0, and that a group address without a selected group completes with
OK, are the model's choices (log entries 124 and 126). -/
theorem mastersAndRegisterCommands : Obligations.MastersAndRegisterCommands := by
  unfold Obligations.MastersAndRegisterCommands
  refine ⟨fun s h bs c typ hwf hc ht hauth => ?_, fun w kind a b h => ⟨w.resolve_eq_none kind a b h, fun x hx => w.cmdsOn_resolve kind a b h hx,
      fun s bs p hwf horder hlen hp hres => ?_⟩,
    fun s h bs hwf horder => ⟨exec_regRead_of_no_span hwf horder, fun a v hspan hv => exec_regRead_of_word hwf horder hspan hv,
      fun a hspan hv => exec_regRead_of_reserved hwf horder hspan hv⟩,
    fun s h bs hwf horder => ⟨exec_regWrite_of_no_span hwf horder, fun a w st x hspan hlen hres hstore hstays =>
      exec_regWrite_of_word hwf horder hspan hlen hres hstore hstays⟩,
    fun s by_ a v w hby hres => ?_,
    fun w by_ a v => ⟨fun h => ⟨Work.storeWord_of_reserved h by_ v, Work.readThrough_of_reserved h⟩,
      fun h hnone => Work.storeWord_of_no_target h hnone by_ v⟩⟩
  · obtain ⟨f, hexec, hf⟩ := exec_masterRow (s := s) hc
    exact exec_of_taken_eq hexec hwf ht (hf s.work hauth)
  · subst hp
    exact exec_planStart_of_conflict hwf horder hlen hres
  · refine State.perform_eq_on (i := .registerWrite by_ a v) _ hby ?_
    rw [Work.storeBy]
    rw [hres]

end Sys2Proof.Machine

/-! Host sessions (chapter 18: R519, R520, R523, R617). -/

namespace Sys2Proof.Machine

/-! ## What the bridge admits (R519, R520) -/

section
variable (w : Work) {h : KHdr} (mac : Nat) (bs : List Byte)

theorem Work.admitsOpen_of_none (hsess : h.srcSess = 0) : w.admitsOpen h mac bs = true ↔ leAt bs 0 1 = 1 := by
  rw [Work.admitsOpen, if_pos hsess, decide_eq_true_eq]

theorem Work.admitsOpen_of_high (hsess : 4 < h.srcSess) : w.admitsOpen h mac bs = false := by
  rw [Work.admitsOpen, if_neg (by omega), decide_eq_false (by omega)]
  rfl

theorem Work.admitsOpen_of_number (hone : 1 ≤ h.srcSess) (hfour : h.srcSess ≤ 4) : w.admitsOpen h mac bs = true ↔
    w.sessState (h.srcSess - 1) = ssClosed ∨ w.rd F.fabSessionMac 0 (h.srcSess - 1) = mac := by
  rw [Work.admitsOpen, if_neg (by omega), decide_eq_true hfour, Bool.true_and, Bool.or_eq_true, decide_eq_true_eq, decide_eq_true_eq]

end

/-! ## SESSION_OPEN (R520, R617) -/

section
variable {w : Work} {h : KHdr} {mac : Nat} {bs : List Byte}

theorem Work.sessionOpen_of_off (hen : w.rdB F.fabHostEn 0 0 = false) : w.sessionOpen h mac bs = w :=
  if_pos (.inl (by rw [hen]; rfl))

variable (hen : w.rdB F.fabHostEn 0 0 = true) (hcls : h.cls = clsCtrl) (htyp : h.typ = 1)
include hen hcls htyp

theorem Work.sessionOpen_hears : ¬ (((!w.rdB F.fabHostEn 0 0) = true) ∨ h.cls ≠ clsCtrl ∨ h.typ ≠ 0x01) := by
  simp [hen, hcls, htyp]

theorem Work.sessionOpen_of_refused (hadmits : w.admitsOpen h mac bs = false) :
    w.sessionOpen h mac bs = w.bump F.fabStatAuthDrop 0 0 :=
  (if_neg (Work.sessionOpen_hears hen hcls htyp)).trans (if_pos (by rw [hadmits]; rfl))

variable (hadmits : w.admitsOpen h mac bs = true)
include hadmits

theorem Work.sessionOpen_of_one (hstep : leAt bs 0 1 = 1) : w.sessionOpen h mac bs = w.sessStep1 h mac bs := by
  rw [Work.sessionOpen, if_neg (Work.sessionOpen_hears hen hcls htyp), if_neg (by simp [hadmits]), hstep]
  rfl

theorem Work.sessionOpen_of_two (hstep : leAt bs 0 1 = 2) : w.sessionOpen h mac bs = w.sessStep2 h mac bs := by
  rw [Work.sessionOpen, if_neg (Work.sessionOpen_hears hen hcls htyp), if_neg (by simp [hadmits]), hstep]
  rfl

theorem Work.sessionOpen_of_step (hone : leAt bs 0 1 ≠ 1) (htwo : leAt bs 0 1 ≠ 2) : w.sessionOpen h mac bs = w.sessRefuse h [sRange] := by
  rw [Work.sessionOpen, if_neg (Work.sessionOpen_hears hen hcls htyp), if_neg (by simp [hadmits])]
  split
  next h => exact absurd h hone
  next h => exact absurd h htwo
  next => rfl

end

/-! ### Step 2 -/

section
variable {w : Work} {h : KHdr} {mac : Nat} {bs : List Byte} (hst : w.sessState (h.srcSess - 1) = ssChallenged)
include hst

/-- A malformed step 2 closes the session. -/
theorem Work.sessStep2_of_malformed (hshape : leAt bs 1 7 ≠ h.srcSess - 1 ∨ bs.length ≠ 72) :
    w.sessStep2 h mac bs = (w.sessRefuse h [sRange]).closeSession (h.srcSess - 1) sAuth := by
  have hbad : (decide (leAt bs 1 7 = h.srcSess - 1) && decide (bs.length = 72)) = false := by
    rcases hshape with h | h <;> simp [h]
  rw [Work.sessStep2]
  dsimp only
  rw [hbad, hst]
  rfl

variable (hnumber : leAt bs 1 7 = h.srcSess - 1) (hlen : bs.length = 72)
include hnumber hlen

/-- The signature of a step 2 decides. -/
theorem Work.sessStep2_of_formed : w.sessStep2 h mac bs =
    if smVerify (w.session (h.srcSess - 1)).key (bs.drop 8) (w.challengeMsg (h.srcSess - 1) mac) then
      ((w.wr F.fabSessionOpenedTick 0 (h.srcSess - 1) w.tickNo).setSess (h.srcSess - 1) ssOpen sOk).hostReply h sOk []
    else (w.sessRefuse h [sAuth]).closeSession (h.srcSess - 1) sAuth := by
  rw [Work.sessStep2]
  dsimp only
  rw [decide_eq_true hnumber, decide_eq_true hlen, hst]
  rfl

end

/-! ## A closed session (R523) -/

/-- A field of a session, at another place than one of session k, stays as it is when the latter is written. -/
theorem Work.sameAt_setSess {key k : Nat} (hk : AwayFromEvents key) (hst : F.fabSessionState.key 0 k ≠ key) (w : Work) (st status : Nat) :
    w.SameAt key (w.setSess k st status) := by
  unfold Work.setSess
  split
  · exact .refl key w
  · exact (sameAt_wr hst ..).trans (sameAt_event hk ..)

theorem Work.setSess_sessions (w : Work) (k st status : Nat) : (w.setSess k st status).sessions = w.sessions := by
  unfold Work.setSess
  split
  · rfl
  · obtain ⟨r, e, hnotes⟩ := (w.wr F.fabSessionState 0 k st).onlyNotes_event 81 status (k + st * 4)
    rw [hnotes]
    rfl

theorem Work.setSess_sessState (w : Work) {k st : Nat} (hk : AwayFromEvents (F.fabSessionState.key 0 k)) (hst : st < 2 ^ F.fabSessionState.w)
    (status : Nat) : (w.setSess k st status).sessState k = st := by
  unfold Work.setSess
  split
  next h => exact h
  · refine (Work.sameAt_event hk _ _ _ _).rd_eq.trans ((Work.rd_wr_same ..).trans (Nat.mod_eq_of_lt hst))

/-- A closed session keeps nothing, and the others keep theirs. -/
theorem Work.closeSession_shows (w : Work) {k : Nat} (st : Nat) (hk : k < 4) :
    (w.closeSession k st).sessState k = ssClosed ∧ (w.closeSession k st).rd F.fabSessionPending 0 k = 0 ∧
    (w.closeSession k st).session k = ⟨[], [], []⟩ ∧
    ∀ j, j < 4 → j ≠ k → (w.closeSession k st).session j = w.session j ∧ (w.closeSession k st).sessState j = w.sessState j := by
  have haway : ∀ j, j < 4 → AwayFromEvents (F.fabSessionState.key 0 j) := fun j hj =>
    awayFromEvents_dev rfl (.inl (by show 0x6200 + j * 16 + 0 / 8 < 0xC800; omega)) 0
  have hpending : AwayFromEvents (F.fabSessionPending.key 0 k) :=
    awayFromEvents_dev rfl (.inl (by show 0x6200 + k * 16 + 8 / 8 < 0xC800; omega)) 0
  have hsession : ∀ j, (w.closeSession k st).session j = (w.setSession k ⟨[], [], []⟩).session j := fun j => by
    rw [Work.closeSession, Work.session, Work.setSess_sessions]
    rfl
  refine ⟨Work.setSess_sessState _ (haway k hk) (by decide) st, ?_, ?_, fun j hj hne => ⟨?_, ?_⟩⟩
  · have hne := Fld.key_ne_of_dev (f := F.fabSessionState) (g := F.fabSessionPending) (i := k) (j := k) rfl rfl
      (by show (0x6200 + k * 16) * 8 + 0 ≠ (0x6200 + k * 16) * 8 + 8; omega) 0 0
    exact (Work.sameAt_setSess hpending hne ..).rd_eq.trans (Work.rd_wr_same ..)
  · exact (hsession k).trans (smGet_smSet_same ..)
  · exact (hsession j).trans (smGet_smSet_other hne.symm)
  · have hstate := Fld.key_ne_of_dev (f := F.fabSessionState) (g := F.fabSessionState) (i := k) (j := j) rfl rfl
      (by show (0x6200 + k * 16) * 8 + 0 ≠ (0x6200 + j * 16) * 8 + 0; omega) 0 0
    have hcount := Fld.key_ne_of_dev (f := F.fabSessionPending) (g := F.fabSessionState) (i := k) (j := j) rfl rfl
      (by show (0x6200 + k * 16) * 8 + 8 ≠ (0x6200 + j * 16) * 8 + 0; omega) 0 0
    exact (Work.sameAt_setSess (haway j hj) hstate ..).rd_eq.trans (Work.sameAt_wr hcount ..).rd_eq

/-! ## SESSION_CLOSE (R523) -/

section
variable {s : State} {h : KHdr} (hwf : h.wf = true) (horder : OrderHere 0x0D h s)
include hwf horder

/-- What SESSION_CLOSE does here. -/
theorem exec_sessionClose : exec (.sessionClose h) s = .next (s.on fun w =>
    if h.srcDev = w.deviceId ∧ 1 ≤ h.srcSess ∧ h.srcSess ≤ 4 ∧ w.sessState (h.srcSess - 1) = ssOpen then
      (w.ctrlDone h sOk []).closeSession (h.srcSess - 1) sOk
    else w.ctrlDone h sState []) := by
  have hmsg : s.work.sessionClose ⟨h, []⟩ = _ := Work.command_of_no_object horder.2 _
  exact (exec_of_taken (i := .sessionClose h) (bs := []) (f := Work.sessionClose) rfl hwf horder.1).trans (congrArg _ (State.on_congr hmsg))

end

/-- Settles O31: what the bridge admits, the two steps of an opening by the state and the address of the session, and a closed
session by what it keeps. That SRC_SESS 0 admits step 1 only, and that a malformed step 2 closes the session, are the model's
choices (log entry 122). -/
theorem hostSessions : Obligations.HostSessions := by
  unfold Obligations.HostSessions
  refine ⟨⟨fun s h mac bs hwf => ⟨fun hoff => ?_, fun hen hcls htyp => ?_⟩, fun s k hk => ?_, fun w h mac bs => ?_, fun s h hwf horder => ?_⟩,
    fun w k st hk => w.closeSession_shows st hk⟩
  · exact State.perform_unchanged hwf (Work.sessionOpen_of_off hoff)
  · have hnumber : 1 ≤ h.srcSess → h.srcSess ≤ 4 → s.work.rd F.fabSessionMac 0 (h.srcSess - 1) = mac →
        s.work.admitsOpen h mac bs = true := fun hone hfour hmac =>
      (Work.admitsOpen_of_number _ mac bs hone hfour).mpr (.inr hmac)
    refine ⟨fun hadmits => ?_, fun hadmits hstep => ?_, fun hstep hone hfour hst hmac hshape => ?_,
      fun hstep hone hfour hst hmac hnum hlen => ⟨fun hver => ?_, fun hver => ?_⟩, fun hadmits hone htwo => ?_⟩
    · exact State.perform_eq_on _ hwf (Work.sessionOpen_of_refused hen hcls htyp hadmits)
    · exact State.perform_eq_on _ hwf (Work.sessionOpen_of_one hen hcls htyp hadmits hstep)
    · exact State.perform_eq_on _ hwf ((Work.sessionOpen_of_two hen hcls htyp (hnumber hone hfour hmac) hstep).trans
        (Work.sessStep2_of_malformed hst hshape))
    · exact State.perform_eq_on _ hwf ((Work.sessionOpen_of_two hen hcls htyp (hnumber hone hfour hmac) hstep).trans
        ((Work.sessStep2_of_formed hst hnum hlen).trans (if_pos hver)))
    · exact State.perform_eq_on _ hwf ((Work.sessionOpen_of_two hen hcls htyp (hnumber hone hfour hmac) hstep).trans
        ((Work.sessStep2_of_formed hst hnum hlen).trans (if_neg (by simp [hver]))))
    · exact State.perform_eq_on _ hwf (Work.sessionOpen_of_step hen hcls htyp hadmits hone htwo)
  · refine ⟨fun hst => ?_, fun hst => ?_, fun hst => ?_, fun hst => ?_⟩
    · exact State.perform_eq_on (i := .sessionOpenTimeout k) _ (decide_eq_true hk) (if_pos hst)
    · exact State.perform_unchanged (i := .sessionOpenTimeout k) (decide_eq_true hk) (if_neg hst)
    · exact State.perform_eq_on (i := .sessionIdleTimeout k) _ (decide_eq_true hk) (if_pos hst)
    · exact State.perform_unchanged (i := .sessionIdleTimeout k) (decide_eq_true hk) (if_neg hst)
  · exact ⟨w.admitsOpen_of_none mac bs, w.admitsOpen_of_high mac bs, w.admitsOpen_of_number mac bs⟩
  · have hexec := exec_sessionClose hwf horder
    refine ⟨fun hdev hone hfour hst => ?_, fun hno => ?_⟩
    · exact hexec.trans (congrArg _ (State.on_congr (if_pos ⟨hdev, hone, hfour, hst⟩)))
    · refine hexec.trans (congrArg _ (State.on_congr (if_neg ?_)))
      rintro ⟨hdev, hone, hfour, hst⟩
      rcases hno with h | h | h | h
      · exact h hdev
      · omega
      · omega
      · exact h hst

end Sys2Proof.Machine

/-! Writes, responses and events that arrive (chapter 18: R521, R522, R584, R601). -/

namespace Sys2Proof.Machine

/-! ## Writes (R522) -/

section
variable {w : Work} {h : KHdr} {bs : List Byte}

/-- A host's write in REST is refused. -/
theorem Work.dataWrite_of_rest (hhost : h.srcSess ≠ 0) (hrest : w.devState = stRest) :
    w.dataWrite none ⟨h, bs⟩ = w.writeAck h sState := (if_pos hhost).trans (if_pos hrest)

/-- One below the host window is out of range. -/
theorem Work.dataWrite_of_below (hhost : h.srcSess ≠ 0) (hrest : w.devState ≠ stRest) (hbase : leAt bs 0 8 < w.dv F.fabHostWinBase) :
    w.dataWrite none ⟨h, bs⟩ = w.writeAck h sRange := by
  refine (if_pos hhost).trans ((if_neg hrest).trans (if_pos ?_))
  simp [Nat.not_le.mpr hbase]

variable (hlen : 8 ≤ bs.length) (haddr : leAt bs 0 8 < 2 ^ 52)
include hlen haddr

/-- One within the host window is stored and acknowledged. -/
theorem Work.dataWrite_of_window (hhost : h.srcSess ≠ 0) (hrest : w.devState ≠ stRest) (hbase : w.dv F.fabHostWinBase ≤ leAt bs 0 8)
    (hend : leAt bs 0 8 + (bs.length - 8) ≤ w.dv F.fabHostWinBase + w.dv F.fabHostWinLen) (hwin : 0 < w.dv F.fabHostWinLen) :
    w.dataWrite none ⟨h, bs⟩ = (w.writeRange (leAt bs 0 8) (bs.drop 8)).2.writeAck h (w.writeRange (leAt bs 0 8) (bs.drop 8)).1 := by
  refine (if_pos hhost).trans ((if_neg hrest).trans (if_neg ?_))
  have hend' : leAt bs 0 8 + (bs.drop 8).length ≤ w.dv F.fabHostWinBase + w.dv F.fabHostWinLen := by rwa [List.length_drop]
  rw [decide_eq_true hlen, decide_eq_true haddr, decide_eq_true hbase, decide_eq_true hend', decide_eq_true hwin]
  decide

/-- A device's write within HBM is stored. -/
theorem Work.dataWrite_of_device (hdev : h.srcSess = 0) (hrest : w.devState ≠ stRest) (hfirst : regionOf (leAt bs 0 8) = .hbm)
    (hlast : regionOf (leAt bs 0 8 + (bs.length - 8) - 1) = .hbm) :
    w.dataWrite none ⟨h, bs⟩ = (w.writeRange (leAt bs 0 8) (bs.drop 8)).2 := by
  refine (if_neg (not_not.mpr hdev)).trans ((if_neg hrest).trans (if_pos ?_))
  have hlast' : regionOf (leAt bs 0 8 + (bs.drop 8).length - 1) = .hbm := by rwa [List.length_drop]
  rw [decide_eq_true hlen, decide_eq_true haddr, decide_eq_true hfirst, decide_eq_true hlast']
  rfl

end

/-! ## Events for a session of this bridge (R601) -/

section
variable {w : Work} {m : Msg} {k : Nat} (hcls : m.h.cls = clsCtrl)
include hcls

theorem Work.toHost_of_open (hst : w.sessState k = 2)
    (hfits : subTickFits (leAt m.payload 28 4) (w.rd F.fabSessionOpenedTick 0 k) = true) :
    w.toHost k m = w.enqueue (w.dv F.fabHostPort) m := (if_pos hcls).trans (if_pos ⟨hst, hfits⟩)

theorem Work.toHost_of_closed (hst : w.sessState k ≠ 2) (hsrc : m.h.srcDev = w.deviceId) :
    w.toHost k m = w.dropSub w.deviceId k (leAt m.payload 28 4) :=
  (if_pos hcls).trans ((if_neg fun h => hst h.1).trans (if_pos hsrc))

end

/-- An event for a session of this bridge is handed to it. -/
theorem exec_event_of_session {s : State} {h : KHdr} {bs : List Byte} (hwf : (Instr.event h bs).wf = true) (hcls : h.cls = 3)
    (htyp : h.typ = 0x20) (hmirror : s.work.isMirror = false) (hown : s.work.ownId h.dstDev = true) (hsess : h.dstSess ≠ 0) :
    exec (.event h bs) s = .next (s.on fun w => w.toHost (h.dstSess - 1) ⟨h, bs⟩) := by
  have hlink : (decide (h.cls = clsTime) || decide (h.cls = clsTwin) || (decide (h.cls = clsCtrl) && decide (h.typ = 0x30))) = false := by
    rw [hcls, htyp]
    rfl
  exact State.perform_eq_on (i := .event h bs) _ hwf ((if_pos ⟨hcls, htyp⟩).trans
    (Work.arrive_of_session (m := ⟨h, bs⟩) hlink (fun w _ => w) hmirror hown hsess))

/-- Settles O32: a write by its sender and its range, a response by the subscription that it refuses, an event by its session. -/
theorem writesResponsesAndEvents : Obligations.WritesResponsesAndEvents := by
  unfold Obligations.WritesResponsesAndEvents
  refine ⟨fun s h bs a hwf ht ha hlen haddr => ?_, fun s h bs hwf ht => ⟨fun hst hlen hsess => ?_, fun hst => ?_⟩,
    fun s h bs hwf hcls htyp hmirror hown hsess => ⟨fun hst hfits => ?_, fun hst hsrc => ?_⟩⟩
  · subst ha
    have hexec : exec (.dataWrite h bs) s = .next (s.on fun w => w.dataWrite none ⟨h, bs⟩) :=
      exec_of_taken (f := fun w m => w.dataWrite none m) rfl hwf ht
    refine ⟨fun hhost hrest hbase hend hwin => ?_, fun hhost hrest => ?_, fun hhost hrest hbase => ?_, fun hdev hrest hfirst hlast => ?_⟩
    · exact hexec.trans (congrArg _ (State.on_congr (Work.dataWrite_of_window hlen haddr hhost hrest hbase hend hwin)))
    · exact hexec.trans (congrArg _ (State.on_congr (Work.dataWrite_of_rest hhost hrest)))
    · exact hexec.trans (congrArg _ (State.on_congr (Work.dataWrite_of_below hhost hrest hbase)))
    · exact hexec.trans (congrArg _ (State.on_congr (Work.dataWrite_of_device hlen haddr hdev hrest hfirst hlast)))
  · exact (exec_of_taken (f := Work.ctrlAnswer) rfl hwf ht).trans (congrArg _ (State.on_congr (if_pos ⟨hst, hlen, hsess⟩)))
  · exact exec_of_taken_unchanged (f := Work.ctrlAnswer) rfl hwf ht (if_neg fun h => hst h.1)
  · exact (exec_event_of_session hwf hcls htyp hmirror hown hsess).trans
      (congrArg _ (State.on_congr (Work.toHost_of_open (m := ⟨h, bs⟩) hcls hst hfits)))
  · exact (exec_event_of_session hwf hcls htyp hmirror hown hsess).trans
      (congrArg _ (State.on_congr (Work.toHost_of_closed (m := ⟨h, bs⟩) hcls hst hsrc)))

end Sys2Proof.Machine

/-! Messages of the twin partner (chapter 20: R525, R530 to R539). -/

namespace Sys2Proof.Machine

/-! ## Messages of the partner (R530) -/

/-- The TWIN commands by their types. -/
theorem exec_twinRow {s : State} {h : KHdr} {bs : List Byte} {k : Nat} {c : KHdr → List Byte → Instr}
    (hc : (k, c) ∈ [(1, Instr.hello), (2, Instr.heartbeat), (3, Instr.deltaPart), (4, Instr.deltaEnd), (5, Instr.deltaAck),
      (6, Instr.bulkPart), (7, Instr.bulkEnd), (8, Instr.detach), (9, Instr.handover)]) :
    ∃ f : Work → Msg → Work, exec (c h bs) s = s.perform (c h bs) (fun w => w.arriveAs clsTwin k ⟨h, bs⟩ (fun w m =>
      w.fromPartner m (fun w => f w m))) ∧ (c h bs).wf = (h.wf && decide (bs.length = h.len)) := by
  simp only [List.mem_cons, List.not_mem_nil, or_false, Prod.mk.injEq] at hc
  rcases hc with hc | hc | hc | hc | hc | hc | hc | hc | hc <;> obtain ⟨rfl, rfl⟩ := hc
  · exact ⟨fun w m => w.helloMsg m, rfl, rfl⟩
  · exact ⟨fun w m => w.heartbeatMsg m, rfl, rfl⟩
  · exact ⟨fun w m => w.deltaPartMsg m, rfl, rfl⟩
  · exact ⟨fun w m => w.deltaEndMsg m, rfl, rfl⟩
  · exact ⟨fun w m => w.deltaAckMsg m, rfl, rfl⟩
  · exact ⟨fun w m => w.bulkPartMsg m, rfl, rfl⟩
  · exact ⟨fun w m => w.bulkEndMsg m, rfl, rfl⟩
  · exact ⟨fun w _ => w.detachMsg, rfl, rfl⟩
  · exact ⟨fun w m => w.handoverMsg m, rfl, rfl⟩

section
variable {s : State} {h : KHdr} {bs : List Byte} {k : Nat} {i : Instr} {f : Work → Msg → Work}
  (hexec : exec i s = s.perform i (fun w => w.arriveAs clsTwin k ⟨h, bs⟩ (fun w m => w.fromPartner m (fun w => f w m))))
  (hwf : i.wf = true) (hcls : h.cls = 5) (htyp : h.typ = k)
include hexec hwf hcls htyp

/-- A message of another device counts for nothing. -/
theorem exec_twin_of_other (hfrom : ¬ (s.work.paired = true ∧ h.srcDev = s.work.partner)) : exec i s = .next s :=
  exec_of_taken_unchanged hexec hwf ⟨hcls, htyp, .inl rfl⟩ (if_neg hfrom)

variable (hfrom : s.work.paired = true ∧ h.srcDev = s.work.partner)
include hfrom

/-- One of the partner is handled. -/
theorem exec_twin_of_partner {v : Work} (hv : f s.work ⟨h, bs⟩ = v) : exec i s = .next (s.on fun _ => v) :=
  exec_of_taken_eq hexec hwf ⟨hcls, htyp, .inl rfl⟩ ((if_pos hfrom).trans hv)

theorem exec_twin_unchanged (hv : f s.work ⟨h, bs⟩ = s.work) : exec i s = .next s :=
  exec_of_taken_unchanged hexec hwf ⟨hcls, htyp, .inl rfl⟩ ((if_pos hfrom).trans hv)

end

/-! ## What messages to the partner leave alone -/

/-- Nothing but the ports differs. -/
def Work.OnlyPorts (w v : Work) : Prop := ∃ p, v = { w with ports := p }

theorem Work.OnlyPorts.refl (w : Work) : w.OnlyPorts w := ⟨w.ports, rfl⟩

theorem Work.OnlyPorts.trans {u v w : Work} (h : u.OnlyPorts v) (k : v.OnlyPorts w) : u.OnlyPorts w := by
  obtain ⟨p, rfl⟩ := h
  obtain ⟨p', rfl⟩ := k
  exact ⟨p', rfl⟩

theorem Work.onlyPorts_twinTo (w : Work) (p typ : Nat) (bs : List Byte) : w.OnlyPorts (w.twinTo p typ bs) := ⟨_, rfl⟩

theorem Work.onlyPorts_sendTwin (w : Work) (typ flow : Nat) (bs : List Byte) : w.OnlyPorts (w.sendTwin typ flow bs) := by
  unfold Work.sendTwin
  split
  · exact .refl w
  · exact w.onlyPorts_twinTo ..

theorem Work.onlyPorts_twinAll (w : Work) (typ : Nat) (bs : List Byte) : w.OnlyPorts (w.twinAll typ bs) :=
  foldl_keeps .refl .trans (fun v _ => v.onlyPorts_twinTo _ _ _) _ w

theorem Work.onlyPorts_shipDelta (w : Work) (d : Delta) : w.OnlyPorts (w.shipDelta d) :=
  (foldl_keeps Work.OnlyPorts.refl Work.OnlyPorts.trans (fun v (_ : List Byte × Nat) => v.onlyPorts_sendTwin _ _ _) _ w).trans
    (Work.onlyPorts_sendTwin ..)

/-- Nothing but registers, the twin state and the ports differs. -/
def Work.OnlyTwin (w v : Work) : Prop := ∃ r x p, v = { w with regs := r, twin := x, ports := p }

theorem Work.OnlyTwin.ports {u v w : Work} (h : u.OnlyTwin v) (k : v.OnlyPorts w) : u.OnlyTwin w := by
  obtain ⟨r, x, p, rfl⟩ := h
  obtain ⟨p', rfl⟩ := k
  exact ⟨r, x, p', rfl⟩

theorem Work.onlyTwin_setTwin (w : Work) (f : TwinSt → TwinSt) : w.OnlyTwin (w.setTwin f) := ⟨_, _, _, rfl⟩

theorem Work.OnlyPorts.twin_eq {w v : Work} (h : w.OnlyPorts v) : v.twin = w.twin := by
  obtain ⟨p, rfl⟩ := h
  rfl

theorem Work.OnlyPorts.regs_eq {w v : Work} (h : w.OnlyPorts v) : v.regs = w.regs := by
  obtain ⟨p, rfl⟩ := h
  rfl

/-- What shows of a command that changed nothing else. -/
theorem exec_onlyTwin {s : State} {i : Instr} {v : Work} (hexec : exec i s = .next (s.on fun _ => v)) (hv : s.work.OnlyTwin v) :
    ∃ t, exec i s = .next t ∧ t.regs = v.regs ∧ t.mem = s.mem ∧ t.twin = v.twin ∧ ∀ f d i, t.work.rd f d i = v.rd f d i := by
  obtain ⟨r, x, p, h⟩ := hv
  exact ⟨_, hexec, State.on_regs .., State.on_mem_of_no_store (congrArg (fun w : Work => w.jnl) h)
    (congrArg (fun w : Work => w.adds) h), State.on_twin .., fun f d i => State.rd_on ..⟩

/-- A command that only sets the twin state, and may send. -/
theorem exec_setTwin {s : State} {i : Instr} {v : Work} {f : TwinSt → TwinSt} (hexec : exec i s = .next (s.on fun _ => v))
    (hv : (s.work.setTwin f).OnlyPorts v) :
    ∃ t, exec i s = .next t ∧ t.regs = s.regs ∧ t.mem = s.mem ∧ t.twin = f s.twin := by
  obtain ⟨t, hnext, hregs, hmem, htwin, -⟩ := exec_onlyTwin hexec ((s.work.onlyTwin_setTwin f).ports hv)
  exact ⟨t, hnext, hregs.trans hv.regs_eq, hmem, htwin.trans hv.twin_eq⟩

/-! ## HELLO (R525, R536) -/

section
variable {w : Work} {h : KHdr} {bs : List Byte}

theorem Work.helloMsg_of_stranger (hx : fieldOf (leAt bs 0 8) 0 9 ≠ w.partner ∨ fieldOf (leAt bs 0 8) 9 8 ≠ w.dv F.bootIdentityPair) :
    w.helloMsg ⟨h, bs⟩ = w := if_pos hx

variable (hdev : fieldOf (leAt bs 0 8) 0 9 = w.partner) (hpair : fieldOf (leAt bs 0 8) 9 8 = w.dv F.bootIdentityPair)
include hdev hpair

theorem Work.helloMsg_of_pair : w.helloMsg ⟨h, bs⟩ =
    if !w.twin.decided then
      if bitOf (leAt bs 0 8) 18 then
        w.setTwin (fun t => { t with decided := true, next := if w.deviceId < w.partner then .active else .mirror })
      else if bitOf (leAt bs 0 8) 17 then w else w.hearActive
    else if bitOf (leAt bs 0 8) 17 ∧ w.isMirror = false ∧ w.pairState = pairSolo ∧ w.twin.next = .none then
      w.setTwin (fun t => { t with next := .join })
    else w := if_neg (by simp [hdev, hpair])

end

/-! ## DELTA_PART (R530) -/

/-- The deltas received, with part k of the delta of epoch e. -/
def rxWithPart (rx : List RxDelta) (e k : Nat) (bs : List Byte) : List RxDelta :=
  match rx.find? (fun d => d.epoch = e) with
  | some d => rx.map (fun q => if q.epoch = e then { d with parts := (k, bs) :: d.parts.filter (fun p => p.1 ≠ k) } else q)
  | none => rx ++ [⟨e, [(k, bs)], false⟩]

theorem rxWithPart_shows (rx : List RxDelta) (e k : Nat) (bs : List Byte) :
    (∃ d ∈ rxWithPart rx e k bs, d.epoch = e ∧ (k, bs) ∈ d.parts) ∧
    ∀ d, d.epoch ≠ e → (d ∈ rxWithPart rx e k bs ↔ d ∈ rx) := by
  unfold rxWithPart
  split
  next d hd =>
    have hde : d.epoch = e := by simpa using List.find?_some hd
    have hmem := List.mem_of_find?_eq_some hd
    refine ⟨⟨_, List.mem_map.mpr ⟨d, hmem, if_pos hde⟩, hde, List.mem_cons_self⟩, fun q hq => ?_⟩
    rw [List.mem_map]
    constructor
    · rintro ⟨r, hr, rfl⟩
      split at hq
      · exact absurd hde hq
      next hre => rwa [if_neg hre]
    · exact fun hmem => ⟨q, hmem, if_neg hq⟩
  next =>
    refine ⟨⟨_, List.mem_append_right _ List.mem_cons_self, rfl, List.mem_cons_self⟩, fun q hq => ?_⟩
    rw [List.mem_append, List.mem_singleton]
    exact ⟨fun h => h.resolve_right (fun heq => hq (by rw [heq])), .inl⟩

section
variable {w : Work} {h : KHdr} {bs : List Byte}

theorem Work.deltaPartMsg_of_mirror (hmirror : w.isMirror = true) (hopen : ∀ d ∈ w.twin.rx, d.epoch = leAt bs 0 8 → d.whole = false) :
    w.deltaPartMsg ⟨h, bs⟩ = w.setTwin (fun t => { t with rx := rxWithPart t.rx (leAt bs 0 8) (leAt bs 9 3) bs }) := by
  unfold Work.deltaPartMsg Work.setTwin rxWithPart
  dsimp only
  rw [if_neg (by simp [hmirror])]
  cases hfind : w.twin.rx.find? (fun d => d.epoch = leAt bs 0 8) with
  | none => rfl
  | some d =>
    have hwhole := hopen d (List.mem_of_find?_eq_some hfind) (by simpa using List.find?_some hfind)
    exact if_neg (by simp [hwhole])

/-! ## DELTA_END (R531) -/

/-- The delta of an epoch as it has been received. -/
def TwinSt.rxDelta (t : TwinSt) (e : Nat) : RxDelta := (t.rx.find? (fun d => d.epoch = e)).getD ⟨e, [], false⟩

/-- A delta is whole: it is known to be, or has all of its n parts and the checksum c. -/
def RxDelta.sound (d : RxDelta) (n c : Nat) : Prop :=
  d.whole = true ∨ (d.inOrder.length = n ∧ (∀ k, k < n → ∃ p ∈ d.parts, p.1 = k) ∧ crc32c d.inOrder.flatten = c)

/-- The same, as the module checks it. -/
def RxDelta.soundNow (d : RxDelta) (n c : Nat) : Bool :=
  d.whole || (decide (d.inOrder.length = n) && (List.range n).all (fun k => d.parts.any (fun p => p.1 = k)) &&
    decide (crc32c d.inOrder.flatten = c))

theorem RxDelta.soundNow_iff (d : RxDelta) (n c : Nat) : d.soundNow n c = true ↔ d.sound n c := by
  simp only [RxDelta.soundNow, RxDelta.sound, Bool.or_eq_true, Bool.and_eq_true, decide_eq_true_eq, List.all_eq_true, List.mem_range,
    List.any_eq_true, and_assoc]

/-- The block with a delta whose end has come taken, or dropped, before the answer. -/
def Work.takeDelta (w : Work) (e n c : Nat) : Work :=
  let d := w.twin.rxDelta e
  let ok := d.soundNow n c
  let rest := w.twin.rx.filter (fun q => q.epoch ≠ e)
  let w := w.setTwin (fun t => { t with rx := if ok then rest ++ [{ d with whole := true }] else rest })
  if ok then w.wr F.twnStateLastAcked 0 0 (max e (w.dv F.twnStateLastAcked)) else w

theorem Work.deltaEndMsg_of_mirror (hmirror : w.isMirror = true) (hheard : w.twin.mute = false) :
    (w.takeDelta (leAt bs 0 8) (leAt bs 8 3) (leAt bs 12 4)).OnlyPorts (w.deltaEndMsg ⟨h, bs⟩) := by
  have hmsg : w.deltaEndMsg ⟨h, bs⟩ = (w.takeDelta (leAt bs 0 8) (leAt bs 8 3) (leAt bs 12 4)).sendTwin 5 0
      (toBytes 16 (leAt bs 0 8 % 2 ^ 64 + (if (w.twin.rxDelta (leAt bs 0 8)).soundNow (leAt bs 8 3) (leAt bs 12 4) then sOk
        else sCheck) * 2 ^ 64)) := if_neg (by simp [hmirror, hheard])
  rw [hmsg]
  exact Work.onlyPorts_sendTwin ..

theorem Work.onlyTwin_takeDelta (w : Work) (e n c : Nat) : w.OnlyTwin (w.takeDelta e n c) := by
  unfold Work.takeDelta
  dsimp only
  split
  · exact ⟨_, _, _, rfl⟩
  · exact ⟨_, _, _, rfl⟩

theorem Work.takeDelta_of_sound {e n c : Nat} (hsound : (w.twin.rxDelta e).sound n c) :
    ({ w.twin.rxDelta e with whole := true } : RxDelta) ∈ (w.takeDelta e n c).twin.rx ∧
    (w.takeDelta e n c).dv F.twnStateLastAcked = max e (w.dv F.twnStateLastAcked) % 2 ^ 64 := by
  have hnow := (RxDelta.soundNow_iff ..).mpr hsound
  unfold Work.takeDelta
  dsimp only
  rw [if_pos hnow]
  refine ⟨?_, Work.rd_wr_same ..⟩
  exact (congrArg (fun l : List RxDelta => _ ∈ l) (if_pos hnow)).mpr (List.mem_append_right _ List.mem_cons_self)

theorem Work.takeDelta_of_unsound {e n c : Nat} (hbad : ¬ (w.twin.rxDelta e).sound n c) :
    (∀ q ∈ (w.takeDelta e n c).twin.rx, q.epoch ≠ e) ∧
    (w.takeDelta e n c).dv F.twnStateLastAcked = w.dv F.twnStateLastAcked := by
  have hnow : (w.twin.rxDelta e).soundNow n c ≠ true := fun h => hbad ((RxDelta.soundNow_iff ..).mp h)
  unfold Work.takeDelta
  dsimp only
  rw [if_neg hnow]
  refine ⟨fun q hq => ?_, rfl⟩
  have hmem := (congrArg (fun l : List RxDelta => q ∈ l) (if_neg hnow)).mp hq
  exact of_decide_eq_true (List.mem_filter.mp hmem).2

/-! ## DELTA_ACK (R531, R532) -/

theorem Work.deltaAckMsg_of_unknown (h' : w.isMirror = true ∨ ∀ d ∈ w.twin.deltas, d.epoch ≠ leAt bs 0 8) :
    w.deltaAckMsg ⟨h, bs⟩ = w := by
  unfold Work.deltaAckMsg
  split
  · rfl
  next hactive =>
    have hnone : w.twin.deltas.find? (fun d => d.epoch = leAt bs 0 8) = none :=
      List.find?_eq_none.mpr fun d hd => by simpa using h'.resolve_left hactive d hd
    dsimp only
    rw [hnone]

/-- An acknowledged delta leaves the buffer; a refused one is sent again. -/
theorem Work.deltaAckMsg_of_known (hactive : w.isMirror = false) (hknown : ∃ d ∈ w.twin.deltas, d.epoch = leAt bs 0 8) :
    w.OnlyTwin (w.deltaAckMsg ⟨h, bs⟩) ∧
    (leAt bs 8 2 = sOk → (w.deltaAckMsg ⟨h, bs⟩).twin.deltas = w.twin.deltas.filter (fun q => q.epoch ≠ leAt bs 0 8)) ∧
    (leAt bs 8 2 ≠ sOk → (w.deltaAckMsg ⟨h, bs⟩).twin.deltas = w.twin.deltas ∧
      (w.deltaAckMsg ⟨h, bs⟩).dv F.twnStatResends = (w.dv F.twnStatResends + 1) % 2 ^ F.twnStatResends.w) := by
  obtain ⟨d, hd, hde⟩ := hknown
  unfold Work.deltaAckMsg
  rw [if_neg (by simp [hactive])]
  dsimp only
  split
  next hnone => exact absurd hde (by simpa using List.find?_eq_none.mp hnone d hd)
  next b hb =>
    by_cases hst : leAt bs 8 2 = sOk
    · rw [if_pos hst]
      exact ⟨⟨_, _, _, rfl⟩, fun _ => rfl, fun hne => absurd hst hne⟩
    · rw [if_neg hst]
      have hship := (w.bump F.twnStatResends 0 0).onlyPorts_shipDelta b
      refine ⟨Work.OnlyTwin.ports (v := w.bump F.twnStatResends 0 0) ⟨_, w.twin, w.ports, rfl⟩ hship, fun heq => absurd heq hst, fun _ => ⟨?_, ?_⟩⟩
      · rw [hship.twin_eq]
        rfl
      · exact (Work.sameAt_of_regs hship.regs_eq _).rd_eq.trans (Work.rd_bump ..)

/-! ## Bulk copies (R536), DETACH and HANDOVER (R538, R539) -/

theorem Work.bulkEndMsg_of_partial (hpart : w.isMirror = false ∨ ∃ k, k < leAt bs 8 3 ∧ ∀ p ∈ w.twin.bulk, p.1 ≠ k) :
    w.bulkEndMsg ⟨h, bs⟩ = w := by
  refine if_pos ?_
  rcases hpart with hactive | ⟨k, hk, hnone⟩
  · simp [hactive]
  · rw [Bool.or_eq_true]
    right
    rw [Bool.not_eq_true', List.all_eq_false]
    refine ⟨k, List.mem_range.mpr hk, ?_⟩
    rw [Bool.not_eq_true, List.any_eq_false]
    exact fun p hp => by simpa using hnone p hp

theorem Work.bulkEndMsg_of_whole (hmirror : w.isMirror = true) (hall : ∀ k, k < leAt bs 8 3 → ∃ p ∈ w.twin.bulk, p.1 = k) :
    (w.bulkEndMsg ⟨h, bs⟩).twin.bulk = [] ∧ (w.bulkEndMsg ⟨h, bs⟩).twin.bulkDone = true := by
  have hparts : (List.range (leAt bs 8 3)).all (fun k => w.twin.bulk.any (fun p => p.1 = k)) = true := by
    simpa using hall
  unfold Work.bulkEndMsg
  dsimp only
  rw [if_neg (by simp only [hmirror, hparts]; decide)]
  exact ⟨rfl, rfl⟩

theorem Work.detachMsg_of_idle (hidle : w.isMirror = true ∨ w.pairState = pairSolo) : w.detachMsg = w :=
  if_neg (by rcases hidle with h | h <;> simp [h])

theorem Work.detachMsg_of_pair (hactive : w.isMirror = false) (hpair : w.pairState ≠ pairSolo) :
    w.detachMsg = w.setTwin (fun t => { t with next := .left }) :=
  if_pos (by rw [hactive, decide_eq_true hpair]; rfl)

end

/-- Settles O57: each TWIN message by its type, after the test of its sender. -/
theorem twinMessages : Obligations.TwinMessages := by
  unfold Obligations.TwinMessages
  intro s h bs hhdr hlen hcls w fromP e
  have hwf : (h.wf && decide (bs.length = h.len)) = true := by rw [hhdr, decide_eq_true hlen]; rfl
  refine ⟨fun k c hc htyp hfrom => ?_, fun hfrom => ⟨fun htyp => ⟨fun hx => ?_, fun hdev hpair => ⟨fun hdec hstart => ?_,
      fun hdec hstart hmir => ?_, fun hdec hmir hactive hsolo hnext => ?_⟩⟩, fun htyp => ⟨fun hactive => ?_, fun hmirror hopen => ?_⟩,
    fun htyp hmirror hheard => ?_, fun htyp => ⟨fun hnone => ?_, fun hactive hsome => ?_⟩,
    fun htyp => ⟨fun hactive => ?_, fun hmirror => ?_⟩, fun htyp => ⟨fun hpart => ?_, fun hmirror hall => ?_⟩,
    fun htyp => ⟨fun hidle => ?_, fun hactive hpair => ?_⟩, fun htyp => ⟨fun hidle => ?_, fun hmirror hpair => ?_⟩⟩⟩
  · obtain ⟨f, hexec, hiwf⟩ := exec_twinRow (s := s) (h := h) (bs := bs) hc
    exact exec_twin_of_other hexec (hiwf.trans hwf) hcls htyp hfrom
  · exact exec_twin_unchanged (i := .hello h bs) (f := fun w m => w.helloMsg m) rfl hwf hcls htyp hfrom (Work.helloMsg_of_stranger hx)
  · refine exec_setTwin (exec_twin_of_partner (i := .hello h bs) (f := fun w m => w.helloMsg m) rfl hwf hcls htyp hfrom
      ((Work.helloMsg_of_pair hdev hpair).trans ((if_pos ?_).trans (if_pos hstart)))) (.refl _)
    exact (congrArg (!·) hdec)
  · have hmsg : s.work.helloMsg ⟨h, bs⟩ = s.work.hearActive :=
      (Work.helloMsg_of_pair hdev hpair).trans ((if_pos (congrArg (!·) hdec)).trans ((if_neg (by rw [hstart]; decide)).trans
        (if_neg (by rw [hmir]; decide))))
    have hhear : s.work.hearActive = (s.work.setTwin (fun t => { t with decided := true, next := .attach })).askAttach :=
      if_neg (by rw [show s.work.twin.decided = false from hdec]; decide)
    obtain ⟨t, hnext, -, hmem, htwin⟩ := exec_setTwin (exec_twin_of_partner (i := .hello h bs) (f := fun w m => w.helloMsg m) rfl
      hwf hcls htyp hfrom (hmsg.trans hhear)) (Work.onlyPorts_twinAll ..)
    exact ⟨t, hnext, hmem, htwin⟩
  · refine exec_setTwin (exec_twin_of_partner (i := .hello h bs) (f := fun w m => w.helloMsg m) rfl hwf hcls htyp hfrom
      ((Work.helloMsg_of_pair hdev hpair).trans ((if_neg ?_).trans (if_pos ⟨hmir, hactive, hsolo, hnext⟩)))) (.refl _)
    rw [show s.work.twin.decided = true from hdec]
    decide
  · exact exec_twin_unchanged (i := .deltaPart h bs) (f := fun w m => w.deltaPartMsg m) rfl hwf hcls htyp hfrom
      (if_pos (by rw [show s.work.isMirror = false from hactive]; rfl))
  · obtain ⟨hhas, hothers⟩ := rxWithPart_shows s.twin.rx e (leAt bs 9 3) bs
    obtain ⟨t, hnext, hregs, hmem, htwin⟩ := exec_setTwin (exec_twin_of_partner (i := .deltaPart h bs)
      (f := fun w m => w.deltaPartMsg m) rfl hwf hcls htyp hfrom (Work.deltaPartMsg_of_mirror hmirror hopen)) (.refl _)
    refine ⟨t, hnext, hregs, hmem, ?_, fun d hd => ?_⟩
    · rw [htwin]
      exact hhas
    · rw [htwin]
      exact hothers d hd
  · have hports := Work.deltaEndMsg_of_mirror (w := s.work) (h := h) (bs := bs) hmirror hheard
    obtain ⟨t, hnext, -, hmem, htwin, hrd⟩ := exec_onlyTwin (exec_twin_of_partner (i := .deltaEnd h bs)
      (f := fun w m => w.deltaEndMsg m) rfl hwf hcls htyp hfrom rfl) ((Work.onlyTwin_takeDelta ..).ports hports)
    have hacked : t.work.dv F.twnStateLastAcked = (s.work.takeDelta e (leAt bs 8 3) (leAt bs 12 4)).dv F.twnStateLastAcked :=
      (hrd ..).trans (Work.sameAt_of_regs hports.regs_eq _).rd_eq
    rw [hports.twin_eq] at htwin
    refine ⟨t, hnext, hmem, fun hsound => ?_, fun hbad => ?_⟩
    · obtain ⟨hmem, hack⟩ := Work.takeDelta_of_sound (w := s.work) hsound
      exact ⟨htwin ▸ hmem, hacked.trans hack⟩
    · obtain ⟨hnone, hack⟩ := Work.takeDelta_of_unsound (w := s.work) hbad
      exact ⟨htwin ▸ hnone, hacked.trans hack⟩
  · exact exec_twin_unchanged (i := .deltaAck h bs) (f := fun w m => w.deltaAckMsg m) rfl hwf hcls htyp hfrom
      (Work.deltaAckMsg_of_unknown hnone)
  · obtain ⟨honly, hok, hbad⟩ := Work.deltaAckMsg_of_known (w := s.work) (h := h) (bs := bs) hactive hsome
    obtain ⟨t, hnext, -, hmem, htwin, hrd⟩ := exec_onlyTwin (exec_twin_of_partner (i := .deltaAck h bs)
      (f := fun w m => w.deltaAckMsg m) rfl hwf hcls htyp hfrom rfl) honly
    refine ⟨t, hnext, hmem, fun hst => ?_, fun hst => ⟨?_, ?_⟩⟩
    · rw [htwin]
      exact hok hst
    · rw [htwin]
      exact (hbad hst).1
    · exact (hrd ..).trans (hbad hst).2
  · exact exec_twin_unchanged (i := .bulkPart h bs) (f := fun w m => w.bulkPartMsg m) rfl hwf hcls htyp hfrom
      (if_pos (by rw [show s.work.isMirror = false from hactive]; rfl))
  · exact exec_setTwin (exec_twin_of_partner (i := .bulkPart h bs) (f := fun w m => w.bulkPartMsg m) rfl hwf hcls htyp hfrom
      (if_neg (by rw [show s.work.isMirror = true from hmirror]; decide))) (.refl _)
  · exact exec_twin_unchanged (i := .bulkEnd h bs) (f := fun w m => w.bulkEndMsg m) rfl hwf hcls htyp hfrom
      (Work.bulkEndMsg_of_partial hpart)
  · obtain ⟨hbulk, hdone⟩ := Work.bulkEndMsg_of_whole (w := s.work) (h := h) (bs := bs) hmirror hall
    refine ⟨_, exec_twin_of_partner (i := .bulkEnd h bs) (f := fun w m => w.bulkEndMsg m) rfl hwf hcls htyp hfrom rfl, ?_, ?_⟩
    · rw [State.on_twin]
      exact hbulk
    · rw [State.on_twin]
      exact hdone
  · exact exec_twin_unchanged (i := .detach h bs) (f := fun w _ => w.detachMsg) rfl hwf hcls htyp hfrom (Work.detachMsg_of_idle hidle)
  · exact exec_setTwin (exec_twin_of_partner (i := .detach h bs) (f := fun w _ => w.detachMsg) rfl hwf hcls htyp hfrom
      (Work.detachMsg_of_pair hactive hpair)) (.refl _)
  · refine exec_twin_unchanged (i := .handover h bs) (f := fun w m => w.handoverMsg m) rfl hwf hcls htyp hfrom (if_neg ?_)
    rintro ⟨hmirror, hpair⟩
    rcases hidle with hactive | hother
    · exact Bool.false_ne_true (hactive.symm.trans hmirror)
    · exact hother hpair
  · exact exec_setTwin (exec_twin_of_partner (i := .handover h bs) (f := fun w m => w.handoverMsg m) rfl hwf hcls htyp hfrom
      (if_pos ⟨hmirror, hpair⟩)) (.refl _)

end Sys2Proof.Machine

/-! Requests of a device state, and waking by an event source (chapters 21 and 22: R570, R583, R603). -/

namespace Sys2Proof.Machine

/-! ## RST_CTL.REQ (R570) -/

/-- The code of the transition that the next tick performs for a request. -/
def reqCode : Nat → Nat
  | 1 => 3
  | 2 => 4
  | 3 => 1
  | _ => 2

theorem Work.requestState_of_admitted {w : Work} {n : Nat} (h : w.reqAdmitted n = true) :
    (w.requestState n).2 = { w.wr F.rstCtlLastStatus 0 0 sOk with boot := { w.boot with req := reqCode n } } := by
  refine (congrArg Prod.snd (if_pos h)).trans ?_
  match n with
  | 0 | 1 | 2 | 3 | _ + 4 => rfl

theorem Work.requestState_of_refused {w : Work} {n : Nat} (h : w.reqAdmitted n = false) :
    (w.requestState n).2 = w.wr F.rstCtlLastStatus 0 0 sState :=
  congrArg Prod.snd (if_neg (Bool.eq_false_iff.1 h))

theorem Work.devState_wr_lastStatus (w : Work) (v : Nat) : (w.wr F.rstCtlLastStatus 0 0 v).devState = w.devState :=
  Work.rd_wr_other (by decide)

section
variable {s : State} {c : Instr} {n : Nat} (hexec : exec c s = s.perform c (fun w => (w.requestState n).2)) (hwf : c.wf = true)
include hexec hwf

/-- A request that the present state admits is taken for the next tick. -/
theorem exec_request_of_admitted (h : s.work.reqAdmitted n = true) :
    ∃ t, exec c s = .next t ∧ t.boot.req = reqCode n ∧ t.work.dv F.rstCtlLastStatus = sOk ∧ t.work.devState = s.work.devState ∧
      t = { s with regs := t.regs, boot := { s.boot with req := reqCode n } } := by
  have hw := Work.requestState_of_admitted h
  have hon := State.on_of_no_store (s := s) (f := fun w => (w.requestState n).2) (by rw [hw]; rfl) (by rw [hw]; rfl)
  rw [hw] at hon
  refine ⟨_, hexec.trans ((State.perform_wf hwf).trans (congrArg _ hon)), rfl, ?_, ?_, rfl⟩
  · exact Work.rd_wr_same ..
  · exact s.work.devState_wr_lastStatus sOk

/-- Any other shows STATE_REJECT, and nothing else. -/
theorem exec_request_of_refused (h : s.work.reqAdmitted n = false) :
    exec c s = .next { s with regs := (s.work.wr F.rstCtlLastStatus 0 0 sState).regs } := by
  have hw := Work.requestState_of_refused h
  have hon := State.on_of_no_store (s := s) (f := fun w => (w.requestState n).2) (by rw [hw]; rfl) (by rw [hw]; rfl)
  rw [hw] at hon
  exact hexec.trans ((State.perform_wf hwf).trans (congrArg _ hon))

end

/-! ## Waking by a source (R603) -/

/-- Some entry of the wake mask names a source. -/
def Work.wakeNamed (w : Work) (n : Nat) : Bool :=
  (List.range 32).any (fun k => w.rd (F.evtWakeMaskEn k) 0 0 = 1 ∧ w.rd (F.evtWakeMaskSource k) 0 0 = n)

theorem Work.wakeNamed_iff (w : Work) (n : Nat) :
    w.wakeNamed n = true ↔ ∃ k, k < 32 ∧ w.dv (F.evtWakeMaskEn k) = 1 ∧ w.dv (F.evtWakeMaskSource k) = n := by
  simp only [Work.wakeNamed, List.any_eq_true, List.mem_range, decide_eq_true_eq, Work.dv]

theorem exec_wake_of_named {s : State} {n : Nat} (hrest : s.work.devState = stRest) (hnamed : s.work.wakeNamed n = true)
    (hdet : s.boot.detached = false) :
    exec (.wake (some n)) s = .next { s with evt := { s.evt with wake := some n } } := by
  have hw : ∀ f : Work → Work, f s.work = { s.work with evt := { s.evt with wake := some n } } →
      s.on f = { s with evt := { s.evt with wake := some n } } := fun f hf => by
    rw [State.on_of_no_store (by rw [hf]; rfl) (by rw [hf]; rfl), hf]
    rfl
  exact (State.perform_wf (i := .wake (some n)) rfl).trans (congrArg _ (hw _ (if_pos ⟨hrest, hnamed, hdet⟩)))

theorem exec_wake_of_unnamed {s : State} {n : Nat}
    (h : ¬ (s.work.devState = stRest ∧ s.work.wakeNamed n = true ∧ s.boot.detached = false)) :
    exec (.wake (some n)) s = .next s := State.perform_unchanged (i := .wake (some n)) rfl (if_neg h)

/-- Settles O14: each request by whether the present state admits it; a source by the wake mask. That a later request
replaces one that waits is the model's reading (log entry 143). -/
theorem deviceStateRequests : Obligations.DeviceStateRequests := by
  unfold Obligations.DeviceStateRequests
  refine ⟨fun s => ⟨fun h => ?_, fun h => ?_, fun h => ?_, fun h hdet => ?_, fun c n hmem h => ?_⟩,
    fun s n => ⟨fun hrest hdet h => ?_, fun h => ?_⟩⟩
  · refine exec_request_of_admitted (n := 1) rfl rfl ?_
    simpa [Work.reqAdmitted, or_assoc] using h
  · obtain ⟨t, hexec, hreq, hstatus, hstate, ht⟩ :=
      exec_request_of_admitted (s := s) (c := .shared) (n := 3) rfl rfl (decide_eq_true h)
    exact ⟨t, hexec, hreq, hstatus, hstate.trans h, ht⟩
  · obtain ⟨t, hexec, hreq, hstatus, hstate, ht⟩ :=
      exec_request_of_admitted (s := s) (c := .run) (n := 4) rfl rfl (decide_eq_true h)
    exact ⟨t, hexec, hreq, hstatus, hstate.trans h, ht⟩
  · have hadm : s.work.reqAdmitted 2 = true := by simp [Work.reqAdmitted, h, hdet]
    obtain ⟨t, hexec, hreq, hstatus, hstate, ht⟩ := exec_request_of_admitted (s := s) (c := .wake none) (n := 2) rfl rfl hadm
    exact ⟨t, hexec, hreq, hstatus, hstate.trans h, ht⟩
  · simp only [List.mem_cons, List.not_mem_nil, Prod.mk.injEq, or_false] at hmem
    rcases hmem with ⟨rfl, rfl⟩ | ⟨rfl, rfl⟩ | ⟨rfl, rfl⟩ | ⟨rfl, rfl⟩ <;> exact exec_request_of_refused rfl rfl h
  · exact exec_wake_of_named hrest ((s.work.wakeNamed_iff n).2 h) hdet
  · refine exec_wake_of_unnamed ?_
    rintro ⟨hrest, hnamed, hdet⟩
    obtain ⟨k, hk, hen, hsource⟩ := (s.work.wakeNamed_iff n).1 hnamed
    rcases h with h | h | h
    · exact h hrest
    · exact Bool.false_ne_true (hdet.symm.trans h)
    · exact (h k hk).elim (· hen) (· hsource)

end Sys2Proof.Machine

/-! Occurrences of event sources, and plan events (chapter 22: R585 to R589). -/

namespace Sys2Proof.Machine

/-- A number with a field replaced is no wider. -/
theorem putField_lt {old lo n m : Nat} (hold : old < 2 ^ m) (h : lo + n ≤ m) (x : Nat) : putField old lo n x < 2 ^ m := by
  refine Nat.lt_pow_two_of_testBit _ fun j hj => ?_
  rw [testBit_putField, if_neg (by omega), Nat.testBit_lt_two_pow (Nat.lt_of_lt_of_le hold (Nat.pow_le_pow_right Nat.two_pos hj))]

theorem statusCode_lt (st : Status) : statusCode st < 65536 := by cases st <;> decide

theorem lt_of_not_reserved {n : Nat} (h : reservedSource n = false) : n < 256 := by
  simp only [reservedSource, Bool.or_eq_false_iff, decide_eq_false_iff_not] at h
  omega

/-! ## An occurrence (R589) -/

theorem evtPriCount_ne_evtRecRecord (n m : Nat) : F.evtPriCount.key 0 n ≠ F.evtRecRecord.key 0 m :=
  Fld.key_ne_of_dev rfl rfl (by show (0xC800 + n * 8) * 8 + 16 ≠ (0x10000 + m * 64) * 8 + 0; omega) 0 0

theorem evtPriState_ne_evtRecRecord (n m : Nat) : F.evtPriState.key 0 n ≠ F.evtRecRecord.key 0 m :=
  Fld.key_ne_of_dev rfl rfl (by show (0xC800 + n * 8) * 8 + 13 ≠ (0x10000 + m * 64) * 8 + 0; omega) 0 0

theorem evtPriState_ne_evtPriCount (n m : Nat) : F.evtPriState.key 0 n ≠ F.evtPriCount.key 0 m :=
  Fld.key_ne_of_dev rfl rfl (by show (0xC800 + n * 8) * 8 + 13 ≠ (0xC800 + m * 8) * 8 + 16; omega) 0 0

/-- The record that an occurrence opens (R588). -/
def Work.openRecord (w : Work) (n st detail : Nat) : Nat :=
  n + (if levelSource n then 2 ^ 14 else 0) + st % 65536 * 2 ^ 16 + 2 ^ 32 + w.deviceId % 512 * 2 ^ 48 +
    w.tickNo % 2 ^ 64 * 2 ^ 64 + w.now % 2 ^ 64 * 2 ^ 128 + detail % 2 ^ 256 * 2 ^ 256

/-- The places of its fields. -/
theorem Work.openRecord_fields (w : Work) {n : Nat} (hn : n < 256) (st detail : Nat) :
    fieldOf (w.openRecord n st detail) 16 16 = st % 65536 ∧ fieldOf (w.openRecord n st detail) 32 16 = 1 ∧
      fieldOf (w.openRecord n st detail) 64 64 = w.tickNo % 2 ^ 64 ∧ fieldOf (w.openRecord n st detail) 128 64 = w.now % 2 ^ 64 ∧
      fieldOf (w.openRecord n st detail) 256 256 = detail % 2 ^ 256 := by
  simp only [fieldOf, Nat.shiftRight_eq_div_pow, Work.openRecord]
  split <;> omega

theorem Work.rd_watch (w : Work) (n : Nat) (f : Fld) (d i : Nat) : (w.watch n).rd f d i = w.rd f d i :=
  (w.sameAt_watch _ n).rd_eq

theorem Work.watch_only (w : Work) (n : Nat) : w.watch n = { w with evt := (w.watch n).evt } := by
  unfold Work.watch
  dsimp only
  split <;> rfl

section
variable {w : Work} {n : Nat}

/-- One of a source that is not pending opens its record. -/
theorem Work.event_of_idle (hr : reservedSource n = false) (hp : w.evtPending n = false) (st detail : Nat) :
    w.event n st detail = (((w.watch n).wr F.evtRecRecord 0 n (w.openRecord n st detail)).wr F.evtPriCount 0 n 1).wr F.evtPriState 0 n
      (w.rd F.evtPriState 0 n + 1) := by
  have hwatch : (w.watch n).openRecord n st detail = w.openRecord n st detail := by
    simp only [Work.openRecord, Work.deviceId, Work.tickNo, Work.now, Work.dv, Work.rd_watch]
  have hp' : ¬ (w.watch n).rd F.evtPriState 0 n % 2 = 1 := by
    rw [Work.rd_watch]
    exact of_decide_eq_false hp
  rw [← hwatch, ← w.rd_watch n F.evtPriState, Work.event, if_neg (by simp [hr])]
  exact if_neg hp'

/-- One of a pending source only counts, in the record too. -/
theorem Work.event_of_pending (hr : reservedSource n = false) (hp : w.evtPending n = true) (st detail : Nat) :
    w.event n st detail = ((w.watch n).wr F.evtPriCount 0 n (min (w.rd F.evtPriCount 0 n + 1) 65535)).wr F.evtRecRecord 0 n
      (putField (w.rd F.evtRecRecord 0 n) 32 16 (min (w.rd F.evtPriCount 0 n + 1) 65535)) := by
  have hp' : (w.watch n).rd F.evtPriState 0 n % 2 = 1 := by
    rw [Work.rd_watch]
    exact of_decide_eq_true hp
  have hrec : ∀ v, ((w.watch n).wr F.evtPriCount 0 n v).rd F.evtRecRecord 0 n = w.rd F.evtRecRecord 0 n := fun v =>
    (Work.rd_wr_other (evtPriCount_ne_evtRecRecord n n)).trans (w.rd_watch ..)
  rw [← w.rd_watch n F.evtPriCount, ← hrec, Work.event, if_neg (by simp [hr])]
  exact if_pos hp'

/-- Only the watcher's note and fields of the source differ after an occurrence. -/
theorem Work.event_only (hr : reservedSource n = false) (st detail : Nat) :
    ∃ r, w.event n st detail = { w with regs := r, evt := (w.watch n).evt } := by
  obtain ⟨e, he⟩ : ∃ e, w.watch n = { w with evt := e } := ⟨_, w.watch_only n⟩
  cases hp : w.evtPending n with
  | true =>
    rw [Work.event_of_pending hr hp, he]
    exact ⟨_, rfl⟩
  | false =>
    rw [Work.event_of_idle hr hp, he]
    exact ⟨_, rfl⟩

theorem Work.rd_event_other (hr : reservedSource n = false) (st detail : Nat) {f : Fld} {d i : Nat}
    (hrec : f.key d i ≠ F.evtRecRecord.key 0 n) (hcount : f.key d i ≠ F.evtPriCount.key 0 n)
    (hstate : f.key d i ≠ F.evtPriState.key 0 n) : (w.event n st detail).rd f d i = w.rd f d i := by
  cases hp : w.evtPending n with
  | true => rw [Work.event_of_pending hr hp, Work.rd_wr_other hrec.symm, Work.rd_wr_other hcount.symm, Work.rd_watch]
  | false =>
    rw [Work.event_of_idle hr hp, Work.rd_wr_other hstate.symm, Work.rd_wr_other hcount.symm, Work.rd_wr_other hrec.symm,
      Work.rd_watch]

/-- The source is pending afterwards, with the new record and a count of one. -/
theorem Work.event_of_idle_shows (hr : reservedSource n = false) (hp : w.evtPending n = false) (st detail : Nat) :
    (w.event n st detail).rd F.evtPriState 0 n = w.rd F.evtPriState 0 n + 1 ∧ (w.event n st detail).rd F.evtPriCount 0 n = 1 ∧
      (w.event n st detail).rd F.evtRecRecord 0 n = w.openRecord n st detail % 2 ^ F.evtRecRecord.w := by
  have hstate : w.rd F.evtPriState 0 n < 4 := w.rd_lt F.evtPriState 0 n
  have heven : ¬ w.rd F.evtPriState 0 n % 2 = 1 := of_decide_eq_false hp
  rw [Work.event_of_idle hr hp]
  refine ⟨?_, ?_, ?_⟩
  · exact (Work.rd_wr_same ..).trans (Nat.mod_eq_of_lt (by show _ < 4; omega))
  · exact (Work.rd_wr_other (evtPriState_ne_evtPriCount n n)).trans (Work.rd_wr_same ..)
  · rw [Work.rd_wr_other (evtPriState_ne_evtRecRecord n n), Work.rd_wr_other (evtPriCount_ne_evtRecRecord n n)]
    exact Work.rd_wr_same ..

/-- Its state is as it was, and the count one up to the limit, in the record too. -/
theorem Work.event_of_pending_shows (hr : reservedSource n = false) (hp : w.evtPending n = true) (st detail : Nat) :
    (w.event n st detail).rd F.evtPriState 0 n = w.rd F.evtPriState 0 n ∧
      (w.event n st detail).rd F.evtPriCount 0 n = min (w.rd F.evtPriCount 0 n + 1) 65535 ∧
      (w.event n st detail).rd F.evtRecRecord 0 n =
        putField (w.rd F.evtRecRecord 0 n) 32 16 (min (w.rd F.evtPriCount 0 n + 1) 65535) := by
  rw [Work.event_of_pending hr hp]
  refine ⟨?_, ?_, ?_⟩
  · rw [Work.rd_wr_other (evtPriState_ne_evtRecRecord n n).symm, Work.rd_wr_other (evtPriState_ne_evtPriCount n n).symm,
      Work.rd_watch]
  · rw [Work.rd_wr_other (evtPriCount_ne_evtRecRecord n n).symm]
    exact (Work.rd_wr_same ..).trans (Nat.mod_eq_of_lt (Nat.lt_succ_of_le (Nat.min_le_right ..)))
  · exact (Work.rd_wr_same ..).trans (Nat.mod_eq_of_lt (putField_lt (w.rd_lt F.evtRecRecord 0 n) (by decide) _))

end

/-- The state after an occurrence: only the registers and the watcher's note differ. -/
theorem State.on_event {s : State} {n : Nat} (hr : reservedSource n = false) (st detail : Nat) :
    ∃ r, (s.on fun w => w.event n st detail) = { s with regs := r, evt := (s.work.watch n).evt } := by
  obtain ⟨r, h⟩ := Work.event_only (w := s.work) hr st detail
  rw [State.on_of_no_store (by rw [h]; rfl) (by rw [h]; rfl), h]
  exact ⟨r, rfl⟩

/-- What an occurrence of a source that exists does. -/
theorem exec_eventOccurrence {s : State} {n : Nat} {st : Status} {detail : BitVec 256} (hn : n < 256) :
    exec (.eventOccurrence n st detail) s = .next (s.on fun w => w.event n (statusCode st) detail.toNat) :=
  State.perform_wf (i := .eventOccurrence n st detail) (decide_eq_true hn)

/-! ## Plan events (R587) -/

section
variable {w : Work} {d g j a : Nat}

/-- A plan event's detail: none for address 0, and otherwise the 28 bytes at a multiple of 4. -/
def Work.planDetail (w : Work) (d g a : Nat) : Option (List Byte) :=
  if a = 0 then some (List.replicate 28 0) else w.callRecord d g a 28 4

theorem Work.planEventCall_of_detail {bs : List Byte} (hj : j < 16) (hdetail : w.planDetail d g a = some bs) :
    w.planEventCall d g j a =
      (w.event (240 + j) sOk (w.planOf (.core d g) % 16 + ofBytes bs * 2 ^ 32)).callReturn d g sOk none := by
  rw [Work.planDetail] at hdetail
  simp only [Work.planEventCall, hdetail, if_neg (Nat.not_le.2 hj)]

theorem Work.planEventCall_of_bad (h : 16 ≤ j ∨ w.planDetail d g a = none) :
    w.planEventCall d g j a = w.callReturn d g sRange none := by
  cases hdetail : w.planDetail d g a with
  | none =>
    rw [Work.planDetail] at hdetail
    simp only [Work.planEventCall, hdetail]
  | some bs =>
    have hj : 16 ≤ j := h.resolve_right (by simp [hdetail])
    rw [Work.planDetail] at hdetail
    simp only [Work.planEventCall, hdetail, if_pos hj]

end

/-- Settles O6: an occurrence by whether its source exists and is pending; a plan event by its number and detail. How the
record is kept while a source is pending is the model's reading (log entry 146). -/
theorem eventsRaised : Obligations.EventsRaised := by
  unfold Obligations.EventsRaised
  refine ⟨fun s n st detail hn => ⟨fun hr => ?_, fun hr => ?_⟩,
    fun s d g j a hd hg hruns => ⟨fun hj => ?_, fun bs hj ha hrec => ?_, fun h => ?_⟩⟩
  · exact (exec_eventOccurrence hn).trans (congrArg _ (State.on_unchanged (if_pos hr)))
  · have hrd := fun (f : Fld) d i => s.rd_on (fun w => w.event n (statusCode st) detail.toNat) f d i
    refine ⟨_, exec_eventOccurrence hn, State.on_event hr _ _, fun f d i hrec hcount hstate =>
      (hrd f d i).trans (Work.rd_event_other hr _ _ hrec hcount hstate), fun hp => ?_, fun hp => ?_⟩
    · obtain ⟨hstate, hcount, hrec⟩ := Work.event_of_idle_shows hr hp (statusCode st) detail.toNat
      obtain ⟨hf16, hf32, hf64, hf128, hf256⟩ := s.work.openRecord_fields hn (statusCode st) detail.toNat
      have heven : ¬ s.work.rd F.evtPriState 0 n % 2 = 1 := of_decide_eq_false hp
      simp only [Work.evtPending, Work.evtActive, hrd, hstate, hcount, hrec, decide_eq_true_eq, decide_eq_decide]
      refine ⟨by omega, by omega, trivial, ?_, ?_, ?_, ?_, ?_⟩
      · rw [fieldOf_mod_two_pow (by decide), hf16, Nat.mod_eq_of_lt (statusCode_lt st)]
      · rw [fieldOf_mod_two_pow (by decide), hf32]
      · rw [fieldOf_mod_two_pow (by decide), hf64]
        exact Nat.mod_eq_of_lt (s.work.rd_lt F.timeTickCountCount 0 0)
      · rw [fieldOf_mod_two_pow (by decide), hf128]
        exact Nat.mod_eq_of_lt (s.work.rd_lt F.timeNowNowNs 0 0)
      · rw [fieldOf_mod_two_pow (by decide)]
        exact hf256.trans (Nat.mod_eq_of_lt detail.isLt)
    · obtain ⟨hstate, hcount, hrec⟩ := Work.event_of_pending_shows hr hp (statusCode st) detail.toNat
      refine ⟨(hrd ..).trans hstate, (hrd ..).trans hcount, fun lo k hlo => ?_⟩
      rw [hrd, hrec, fieldOf_putField_other hlo]
  · refine State.perform_coreRow_eq_on (i := .planEvent d g j 0) _ (by simp [Instr.wf, hd, hg]) hruns ?_
    have hzero : ofBytes (List.replicate 28 0) * 2 ^ 32 = 0 := by decide
    have hcall := Work.planEventCall_of_detail (w := s.work) (d := d) (g := g) (a := 0) hj rfl
    rwa [hzero, Nat.add_zero] at hcall
  · refine State.perform_coreRow_eq_on (i := .planEvent d g j a) _ (by simp [Instr.wf, hd, hg]) hruns ?_
    exact Work.planEventCall_of_detail hj ((if_neg ha).trans hrec)
  · refine State.perform_coreRow_eq_on (i := .planEvent d g j a) _ (by simp [Instr.wf, hd, hg]) hruns ?_
    exact Work.planEventCall_of_bad (h.imp_right fun ⟨ha, hnone⟩ => (if_neg ha).trans hnone)

end Sys2Proof.Machine

/-! Delivery of events, the end of handling, discarding and subscriptions (chapter 22: R593 to R600). -/

namespace Sys2Proof.Machine

/-! ## Fields of the event registers -/

/-- Fields of one register at different places have different keys. -/
theorem Fld.key_ne_of_lo {f g : Fld} {d i : Nat} (hreg : f.reg = g.reg) (hlo : f.lo ≠ g.lo) : f.key d i ≠ g.key d i := by
  rw [Fld.key, Fld.key, hreg]
  omega

theorem evtPri_ne_evtCore {f g : Fld} {x : Nat} (hf : f.reg = .evtPri) (hg : g.reg = .evtCore) (hlo : g.lo < 64) (hx : x < 4)
    (n : Nat) : f.key 0 n ≠ g.key 0 x := by
  obtain ⟨r, lo, w, rst⟩ := f
  obtain ⟨r', lo', w', rst'⟩ := g
  obtain rfl : r = .evtPri := hf
  obtain rfl : r' = .evtCore := hg
  have hlo' : lo' < 64 := hlo
  exact Fld.key_ne_of_dev rfl rfl (by show (0xC800 + n * 8) * 8 + lo ≠ (0xC140 + x * 8) * 8 + lo'; omega) 0 0

theorem evtGlobal_ne_evtCore {f g : Fld} {x : Nat} (hf : f.reg = .evtGlobal) (hg : g.reg = .evtCore) (hlo : f.lo < 64) :
    f.key 0 0 ≠ g.key 0 x := by
  obtain ⟨r, lo, w, rst⟩ := f
  obtain ⟨r', lo', w', rst'⟩ := g
  obtain rfl : r = .evtGlobal := hf
  obtain rfl : r' = .evtCore := hg
  have hlo' : lo < 64 := hlo
  exact Fld.key_ne_of_dev rfl rfl (by show (0xC000 + 0 * 0) * 8 + lo ≠ (0xC140 + x * 8) * 8 + lo'; omega) 0 0

theorem evtPri_ne_evtGlobal {f g : Fld} (hf : f.reg = .evtPri) (hg : g.reg = .evtGlobal) (hlo : g.lo < 64) (n : Nat) :
    f.key 0 n ≠ g.key 0 0 := by
  obtain ⟨r, lo, w, rst⟩ := f
  obtain ⟨r', lo', w', rst'⟩ := g
  obtain rfl : r = .evtPri := hf
  obtain rfl : r' = .evtGlobal := hg
  have hlo' : lo' < 64 := hlo
  exact Fld.key_ne_of_dev rfl rfl (by show (0xC800 + n * 8) * 8 + lo ≠ (0xC000 + 0 * 0) * 8 + lo'; omega) 0 0

/-! ## The events nested on a core (R594) -/

/-- A core's nested events replaced: only its own EVT_CORE fields differ, but its source. -/
theorem Work.rd_setEvtStack {f : Fld} {d i m : Nat}
    (h : ∀ g : Fld, g.reg = .evtCore → 8 ≤ g.lo → g.lo < 64 → g.key 0 m ≠ f.key d i) (w : Work) (l : List (Nat × Nat)) :
    (w.setEvtStack m l).rd f d i = w.rd f d i := by
  unfold Work.setEvtStack Work.wrB
  dsimp only
  rw [Work.rd_wr_other (h F.evtCoreActive rfl (by decide) (by decide)), Work.rd_wr_other (h F.evtCoreDepth rfl (by decide) (by decide)),
    Work.rd_wr_other (h F.evtCoreRunGroup rfl (by decide) (by decide))]
  rfl

theorem Work.evtStack_setEvtStack (w : Work) (m : Nat) (l : List (Nat × Nat)) : (w.setEvtStack m l).evtStack m = l :=
  smGet_smSet_same ..

/-! ## Delivery to a management core (R593) -/

/-- The delivery's record, before the source changes its state. -/
def Work.deliveryNoted (w : Work) (n : Nat) : Work :=
  (w.recPut n 8 6 (w.rd F.evtPriPriority 0 n)).recPut n 192 32 (w.dv F.evtGlobalSeq)

/-- The source becomes active on the core. -/
def Work.madeActive (w : Work) (n x : Nat) : Work :=
  ((w.wr F.evtPriState 0 n 2).wr F.evtCoreSource 0 x n).setEvtStack x ((n, w.evtGroup n) :: w.evtStack x)

/-- Its count begins anew, the cycle has turned, and the delivery is counted. -/
def Work.deliveryCounted (w : Work) (n x : Nat) : Work :=
  ((w.wr F.evtPriCount 0 n 0).wr F.evtPriRr 0 n x).bump F.evtGlobalSeq 0 0

/-- The hold-off of its group starts where one is set (R599). -/
def Work.heldOff (w : Work) (n : Nat) : Work :=
  if w.holdoffUs (n / 8) = 0 then w else { w with evt := { w.evt with holdoff := setInsert w.evt.holdoff (n / 8) } }

theorem Work.evtDeliver_core {x : Nat} (hx : x < 4) (w : Work) (n : Nat) :
    w.evtDeliver n x = (((w.deliveryNoted n).madeActive n x).deliveryCounted n x).heldOff n := by
  unfold Work.evtDeliver
  dsimp only
  rw [if_pos hx]
  rfl

section
variable {f : Fld} {d i n x : Nat}

theorem Work.rd_deliveryNoted (h : f.key d i ≠ F.evtRecRecord.key 0 n) (w : Work) :
    (w.deliveryNoted n).rd f d i = w.rd f d i := (Work.rd_wr_other h.symm).trans (Work.rd_wr_other h.symm)

theorem Work.rd_heldOff (w : Work) : (w.heldOff n).rd f d i = w.rd f d i := by
  unfold Work.heldOff
  split <;> rfl

theorem Work.rd_deliveryCounted (hcount : f.key d i ≠ F.evtPriCount.key 0 n) (hrr : f.key d i ≠ F.evtPriRr.key 0 n)
    (hseq : f.key d i ≠ F.evtGlobalSeq.key 0 0) (w : Work) : (w.deliveryCounted n x).rd f d i = w.rd f d i :=
  ((Work.sameAt_bump hseq.symm _ 1).rd_eq.trans (Work.rd_wr_other hrr.symm)).trans (Work.rd_wr_other hcount.symm)

theorem Work.rd_madeActive (hstate : f.key d i ≠ F.evtPriState.key 0 n)
    (hcore : ∀ g : Fld, g.reg = .evtCore → g.lo < 64 → g.key 0 x ≠ f.key d i) (w : Work) :
    (w.madeActive n x).rd f d i = w.rd f d i :=
  ((Work.rd_setEvtStack (fun g hg _ hlo => hcore g hg hlo) _ _).trans
    (Work.rd_wr_other (hcore F.evtCoreSource rfl (by decide)))).trans (Work.rd_wr_other hstate.symm)

end

/-! What each part of a delivery shows, on any block. -/

section
variable (w : Work) {n x : Nat}

theorem Work.evtStack_heldOff : (w.heldOff n).evtStack x = w.evtStack x := by
  unfold Work.heldOff
  split <;> rfl

theorem Work.evtStack_deliveryCounted : (w.deliveryCounted n x).evtStack x = w.evtStack x := rfl

theorem Work.evtStack_madeActive : (w.madeActive n x).evtStack x = (n, w.evtGroup n) :: w.evtStack x :=
  Work.evtStack_setEvtStack ..

theorem Work.evtStack_deliveryNoted : (w.deliveryNoted n).evtStack x = w.evtStack x := rfl

theorem Work.state_madeActive (hx : x < 4) : (w.madeActive n x).rd F.evtPriState 0 n = 2 := by
  rw [Work.madeActive, Work.rd_setEvtStack (fun g hg _ hlo => (evtPri_ne_evtCore rfl hg hlo hx n).symm),
    Work.rd_wr_other (evtPri_ne_evtCore rfl rfl (by decide) hx n).symm, Work.rd_wr_same]
  rfl

theorem Work.source_madeActive (hn : n < 256) : (w.madeActive n x).rd F.evtCoreSource 0 x = n := by
  rw [Work.madeActive, Work.rd_setEvtStack (fun g hg hge _ => Fld.key_ne_of_lo hg (by show g.lo ≠ 0; omega)), Work.rd_wr_same]
  exact Nat.mod_eq_of_lt hn

theorem Work.count_deliveryCounted : (w.deliveryCounted n x).rd F.evtPriCount 0 n = 0 := by
  have hlo : F.evtPriRr.key 0 n ≠ F.evtPriCount.key 0 n := Fld.key_ne_of_lo rfl (by decide)
  rw [Work.deliveryCounted, (Work.sameAt_bump (evtPri_ne_evtGlobal rfl rfl (by decide) n).symm _ 1).rd_eq,
    Work.rd_wr_other hlo, Work.rd_wr_same]
  rfl

theorem Work.rr_deliveryCounted (hx : x < 4) : (w.deliveryCounted n x).rd F.evtPriRr 0 n = x := by
  rw [Work.deliveryCounted, (Work.sameAt_bump (evtPri_ne_evtGlobal rfl rfl (by decide) n).symm _ 1).rd_eq, Work.rd_wr_same]
  exact Nat.mod_eq_of_lt (by show x < 8; omega)

theorem Work.seq_deliveryCounted :
    (w.deliveryCounted n x).rd F.evtGlobalSeq 0 0 = (w.rd F.evtGlobalSeq 0 0 + 1) % 2 ^ F.evtGlobalSeq.w := by
  rw [Work.deliveryCounted, Work.rd_bump, Work.rd_wr_other (evtPri_ne_evtGlobal rfl rfl (by decide) n),
    Work.rd_wr_other (evtPri_ne_evtGlobal rfl rfl (by decide) n)]

theorem Work.evtGroup_deliveryNoted (hn : n < 256) : (w.deliveryNoted n).evtGroup n = w.evtGroup n := by
  have hpri : F.evtPriPriority.key 0 n ≠ F.evtRecRecord.key 0 n := 
    Fld.key_ne_of_dev rfl rfl (by show (0xC800 + n * 8) * 8 + 0 ≠ (0x10000 + n * 64) * 8 + 0; omega) 0 0
  have hsplit : F.evtSplitSplit.key 0 0 ≠ F.evtRecRecord.key 0 n :=
    Fld.key_ne_of_dev rfl rfl (by show (0xC008 + 0 * 0) * 8 + 0 ≠ (0x10000 + n * 64) * 8 + 0; omega) 0 0
  simp only [Work.evtGroup, Work.dv, Work.rd_deliveryNoted hpri, Work.rd_deliveryNoted hsplit]

/-- The group's hold-off is as it was, whatever a delivery writes before it looks at it. -/
theorem Work.holdoffUs_delivered (hn : n < 256) :
    (((w.deliveryNoted n).madeActive n x).deliveryCounted n x).holdoffUs (n / 8) = w.holdoffUs (n / 8) := by
  have hg : n / 8 / 4 < 8 := by omega
  have hkey : (F.evtHoldoffUs (n / 8 % 4)).key 0 (n / 8 / 4) = (devRegion + 0xC080 + n / 8 / 4 * 8) * 8 + 16 * (n / 8 % 4) := rfl
  have hpri : ∀ f : Fld, f.reg = .evtPri → (F.evtHoldoffUs (n / 8 % 4)).key 0 (n / 8 / 4) ≠ f.key 0 n := fun f hf => by
    rw [hkey, f.key_of_dev (by rw [hf]; rfl), hf]
    show _ ≠ (devRegion + 0xC800 + n * 8) * 8 + f.lo
    omega
  have hrec : (F.evtHoldoffUs (n / 8 % 4)).key 0 (n / 8 / 4) ≠ F.evtRecRecord.key 0 n := by
    rw [hkey, Fld.key_of_dev rfl]
    show _ ≠ (devRegion + 0x10000 + n * 64) * 8 + 0
    omega
  have hcore : ∀ g : Fld, g.reg = .evtCore → g.lo < 64 → g.key 0 x ≠ (F.evtHoldoffUs (n / 8 % 4)).key 0 (n / 8 / 4) :=
    fun g hg _ => by
      rw [hkey, g.key_of_dev (by rw [hg]; rfl), hg]
      show (devRegion + 0xC140 + x * 8) * 8 + g.lo ≠ _
      omega
  have hseq : (F.evtHoldoffUs (n / 8 % 4)).key 0 (n / 8 / 4) ≠ F.evtGlobalSeq.key 0 0 := by
    rw [hkey, Fld.key_of_dev rfl]
    show _ ≠ (devRegion + 0xC000 + 0 * 0) * 8 + 32
    omega
  rw [Work.holdoffUs, Work.rd_deliveryCounted (hpri _ rfl) (hpri _ rfl) hseq, Work.rd_madeActive (hpri _ rfl) hcore,
    Work.rd_deliveryNoted hrec]
  rfl

end

/-! Only the registers and the event unit's own notes differ after each. -/

theorem Work.onlyNotes_deliveryNoted (w : Work) (n : Nat) : w.OnlyNotes (w.deliveryNoted n) := ⟨_, _, rfl⟩

theorem Work.onlyNotes_madeActive (w : Work) (n x : Nat) : w.OnlyNotes (w.madeActive n x) := ⟨_, _, rfl⟩

theorem Work.onlyNotes_deliveryCounted (w : Work) (n x : Nat) : w.OnlyNotes (w.deliveryCounted n x) := ⟨_, _, rfl⟩

theorem Work.onlyNotes_heldOff (w : Work) (n : Nat) : w.OnlyNotes (w.heldOff n) := by
  unfold Work.heldOff
  split
  · exact .refl w
  · exact ⟨_, _, rfl⟩

theorem Work.evtDeliver_core_only {x : Nat} (hx : x < 4) (w : Work) (n : Nat) : w.OnlyNotes (w.evtDeliver n x) := by
  rw [w.evtDeliver_core hx n]
  exact (((w.onlyNotes_deliveryNoted n).trans (Work.onlyNotes_madeActive _ n x)).trans
    (Work.onlyNotes_deliveryCounted _ n x)).trans (Work.onlyNotes_heldOff _ n)

section
variable (w : Work) {n x : Nat} (hn : n < 256) (hx : x < 4)
include hn hx

/-- The source is active on the core, no longer pending, and the core shows it. -/
theorem Work.evtDeliver_active : (w.evtDeliver n x).rd F.evtPriState 0 n = 2 ∧ (w.evtDeliver n x).rd F.evtCoreSource 0 x = n ∧
    (w.evtDeliver n x).evtStack x = (n, w.evtGroup n) :: w.evtStack x := by
  have hpri : ∀ f : Fld, f.reg = .evtPri → F.evtCoreSource.key 0 x ≠ f.key 0 n := fun f hf =>
    (evtPri_ne_evtCore hf rfl (by decide) hx n).symm
  have hlo : F.evtPriState.key 0 n ≠ F.evtPriRr.key 0 n := Fld.key_ne_of_lo rfl (by decide)
  rw [w.evtDeliver_core hx n]
  refine ⟨?_, ?_, ?_⟩
  · rw [Work.rd_heldOff, Work.rd_deliveryCounted (evtPriState_ne_evtPriCount n n) hlo (evtPri_ne_evtGlobal rfl rfl (by decide) n),
      Work.state_madeActive _ hx]
  · rw [Work.rd_heldOff, Work.rd_deliveryCounted (hpri _ rfl) (hpri _ rfl) (evtGlobal_ne_evtCore rfl rfl (by decide)).symm,
      Work.source_madeActive _ hn]
  · rw [Work.evtStack_heldOff, Work.evtStack_deliveryCounted, Work.evtStack_madeActive, w.evtGroup_deliveryNoted hn,
      Work.evtStack_deliveryNoted]

/-- Its count is 0, the cycle has turned to the core, SEQ has counted the delivery, and the hold-off of its group starts
where one is set. -/
theorem Work.evtDeliver_counted : (w.evtDeliver n x).rd F.evtPriCount 0 n = 0 ∧ (w.evtDeliver n x).rd F.evtPriRr 0 n = x ∧
    (w.evtDeliver n x).dv F.evtGlobalSeq = (w.dv F.evtGlobalSeq + 1) % 2 ^ F.evtGlobalSeq.w ∧
    (w.holdoffUs (n / 8) ≠ 0 → n / 8 ∈ (w.evtDeliver n x).evt.holdoff) := by
  have hstate : F.evtGlobalSeq.key 0 0 ≠ F.evtPriState.key 0 n := (evtPri_ne_evtGlobal rfl rfl (by decide) n).symm
  have hrec : F.evtGlobalSeq.key 0 0 ≠ F.evtRecRecord.key 0 n :=
    Fld.key_ne_of_dev rfl rfl (by show (0xC000 + 0 * 0) * 8 + 32 ≠ (0x10000 + n * 64) * 8 + 0; omega) 0 0
  rw [w.evtDeliver_core hx n, Work.dv, Work.dv]
  refine ⟨?_, ?_, ?_, fun h => ?_⟩
  · rw [Work.rd_heldOff, Work.count_deliveryCounted]
  · rw [Work.rd_heldOff, Work.rr_deliveryCounted _ hx]
  · rw [Work.rd_heldOff, Work.seq_deliveryCounted, Work.rd_madeActive hstate fun g hg _ =>
      (evtGlobal_ne_evtCore rfl hg (by decide)).symm, Work.rd_deliveryNoted hrec]
  · rw [Work.heldOff, if_neg (by rwa [w.holdoffUs_delivered hn])]
    exact mem_setInsert_self _ _

end

/-- A command that leaves only notes of the event unit and registers. -/
theorem State.on_onlyNotes {f : Work → Work} {s : State} (h : s.work.OnlyNotes (f s.work)) :
    s.on f = { s with regs := (f s.work).regs, evt := (f s.work).evt } := by
  obtain ⟨r, e, h⟩ := h
  rw [State.on_of_no_store (by rw [h]; rfl) (by rw [h]; rfl), h]
  rfl

theorem exec_eventDelivery_of_none {s : State} {n : Nat} (hn : n < 256) (h : s.work.evtDecision n = none) :
    exec (.eventDelivery n) s = .next s :=
  State.perform_unchanged (i := .eventDelivery n) (decide_eq_true hn) (by simp only [h])

theorem exec_eventDelivery_of_some {s : State} {n x : Nat} (hn : n < 256) (h : s.work.evtDecision n = some x) :
    exec (.eventDelivery n) s = .next (s.on fun w => w.evtDeliver n x) :=
  State.perform_eq_on (i := .eventDelivery n) _ (decide_eq_true hn) (by simp only [h])

/-! ## The end of handling (R596), and of a hold-off (R599) -/

theorem Work.evtEoiWrite_of_active {w : Work} {m v : Nat} (h : (w.evtStack m).any (fun e => e.1 = v % 256) = true) :
    w.evtEoiWrite m v = ((w.wr F.evtPriState 0 (v % 256) (w.rd F.evtPriState 0 (v % 256) % 2)).setEvtStack m
      ((w.evtStack m).filter (fun e => e.1 ≠ v % 256))).resample (v % 256) := if_pos h

theorem Work.evtEoiWrite_of_bad {w : Work} {m v : Nat} (h : (w.evtStack m).any (fun e => e.1 = v % 256) = false) :
    w.evtEoiWrite m v = w.bump F.evtGlobalBadEoi 0 0 := if_neg (by rw [h]; exact Bool.false_ne_true)

/-! ## Discarding (R598) -/

/-- One bit of a write to EVT_PEND. -/
def Work.discard (w : Work) (i v k : Nat) : Work :=
  if bitOf v k && w.evtPending (64 * i + k) then
    (w.wr F.evtPriState 0 (64 * i + k) (w.rd F.evtPriState 0 (64 * i + k) - 1)).wr F.evtPriCount 0 (64 * i + k) 0
  else w

theorem Work.evtPendWrite_eq (w : Work) (i v : Nat) : w.evtPendWrite i v = (List.range 64).foldl (fun w k => w.discard i v k) w := rfl

/-- The source is one that the first k bits of a write discard. -/
def Work.Discards (w : Work) (i v k n : Nat) : Prop := n / 64 = i ∧ n % 64 < k ∧ bitOf v (n % 64) = true ∧ w.evtPending n = true

/-- Block `v'` is `w` once the first k bits of a write have been taken. -/
structure Work.DiscardedTo (w : Work) (i v k : Nat) (x : Work) : Prop where
  only : ∃ r, x = { w with regs := r }
  taken : ∀ n, w.Discards i v k n → x.rd F.evtPriState 0 n = w.rd F.evtPriState 0 n - 1 ∧ x.rd F.evtPriCount 0 n = 0
  kept : ∀ n, ¬ w.Discards i v k n →
    x.rd F.evtPriState 0 n = w.rd F.evtPriState 0 n ∧ x.rd F.evtPriCount 0 n = w.rd F.evtPriCount 0 n

theorem evtPri_key_ne {f g : Fld} {n m : Nat} (hf : f.reg = .evtPri) (hg : g.reg = .evtPri) (hflo : f.lo < 64) (hglo : g.lo < 64)
    (h : n ≠ m) : f.key 0 n ≠ g.key 0 m := by
  rw [f.key_of_dev (by rw [hf]; rfl), g.key_of_dev (by rw [hg]; rfl), hf, hg]
  show (devRegion + 0xC800 + n * 8) * 8 + f.lo ≠ (devRegion + 0xC800 + m * 8) * 8 + g.lo
  omega

section
variable {w x : Work} {i v k : Nat}

/-- A source is discarded by the first k + 1 bits if it is by the first k, or is the one of bit k. -/
theorem Work.discards_succ (n : Nat) (hk : k < 64) :
    w.Discards i v (k + 1) n ↔ w.Discards i v k n ∨ (n = 64 * i + k ∧ bitOf v k = true ∧ w.evtPending n = true) := by
  unfold Work.Discards
  constructor
  · rintro ⟨hi, hlt, hbit, hp⟩
    by_cases hnk : n % 64 < k
    · exact .inl ⟨hi, hnk, hbit, hp⟩
    · have hmod : n % 64 = k := by omega
      exact .inr ⟨by omega, hmod ▸ hbit, hp⟩
  · rintro (⟨hi, hlt, hbit, hp⟩ | ⟨rfl, hbit, hp⟩)
    · exact ⟨hi, by omega, hbit, hp⟩
    · have hmod : (64 * i + k) % 64 = k := by omega
      exact ⟨by omega, by omega, by rw [hmod]; exact hbit, hp⟩

/-- Each bit discards its own source. -/
theorem Work.DiscardedTo.next (h : w.DiscardedTo i v k x) (hk : k < 64) : w.DiscardedTo i v (k + 1) (x.discard i v k) := by
  obtain ⟨⟨r, rfl⟩, htaken, hkept⟩ := h
  have hself : ¬ w.Discards i v k (64 * i + k) := fun hd => by
    have := hd.2.1
    omega
  obtain ⟨hstate, hcount⟩ := hkept _ hself
  have hp : ({ w with regs := r } : Work).evtPending (64 * i + k) = w.evtPending (64 * i + k) := by
    rw [Work.evtPending, hstate, Work.evtPending]
  unfold Work.discard
  rw [hp]
  cases hhit : bitOf v k && w.evtPending (64 * i + k) with
  | false =>
    rw [if_neg Bool.false_ne_true]
    have hsame : ∀ n, w.Discards i v (k + 1) n ↔ w.Discards i v k n := fun n => by
      rw [Work.discards_succ n hk, or_iff_left]
      rintro ⟨rfl, hbit, hpend⟩
      simp [hbit, hpend] at hhit
    exact ⟨⟨r, rfl⟩, fun n hd => htaken n ((hsame n).1 hd), fun n hd => hkept n (fun hd' => hd ((hsame n).2 hd'))⟩
  | true =>
    rw [if_pos rfl]
    obtain ⟨hbit, hpend⟩ := Bool.and_eq_true_iff.1 hhit
    have hother : ∀ n, n ≠ 64 * i + k → (w.Discards i v (k + 1) n ↔ w.Discards i v k n) := fun n hn => by
      rw [Work.discards_succ n hk, or_iff_left]
      exact fun h => hn h.1
    have hread : ∀ n, n ≠ 64 * i + k → ∀ f : Fld, f.reg = .evtPri → f.lo < 64 → ∀ a, 
        ((({ w with regs := r } : Work).wr F.evtPriState 0 (64 * i + k) a).wr F.evtPriCount 0 (64 * i + k) 0).rd f 0 n =
          ({ w with regs := r } : Work).rd f 0 n := fun n hn f hf hlo a => by
      rw [Work.rd_wr_other (evtPri_key_ne rfl hf (by decide) hlo hn.symm), Work.rd_wr_other (evtPri_key_ne rfl hf (by decide) hlo hn.symm)]
    refine ⟨⟨_, rfl⟩, fun n hd => ?_, fun n hd => ?_⟩
    · by_cases hn : n = 64 * i + k
      · subst hn
        rw [Work.rd_wr_other (evtPriState_ne_evtPriCount _ _).symm, Work.rd_wr_same, Work.rd_wr_same, hstate]
        have hlt : w.rd F.evtPriState 0 (64 * i + k) < 4 := w.rd_lt F.evtPriState 0 _
        exact ⟨Nat.mod_eq_of_lt (by show _ < 4; omega), rfl⟩
      · rw [hread n hn _ rfl (by decide), hread n hn _ rfl (by decide)]
        exact htaken n ((hother n hn).1 hd)
    · have hn : n ≠ 64 * i + k := fun hn => hd ((Work.discards_succ n hk).2 (.inr ⟨hn, hbit, hn ▸ hpend⟩))
      rw [hread n hn _ rfl (by decide), hread n hn _ rfl (by decide)]
      exact hkept n (fun hd' => hd ((hother n hn).2 hd'))

/-- So a write discards the sources of all its bits. -/
theorem Work.discardedTo_evtPendWrite (w : Work) (i v : Nat) : w.DiscardedTo i v 64 (w.evtPendWrite i v) := by
  rw [Work.evtPendWrite_eq]
  refine foldl_range_induction (P := fun k x => k ≤ 64 → w.DiscardedTo i v k x) 64 (fun _ => ⟨⟨_, rfl⟩, fun n hd => ?_, fun n _ => ⟨rfl, rfl⟩⟩)
    (fun k x h hk => (h (by omega)).next (by omega)) le_rfl
  exact absurd hd.2.1 (by omega)

end

/-! ## Subscriptions (R600) -/

/-- An entry of EVT_SUB written for a session. -/
def Work.subscribe (w : Work) (k dev sess groups : Nat) : Work :=
  ((((w.wr F.evtSubBridge 0 k dev).wr F.evtSubSession 0 k sess).wr F.evtSubValid 0 k 1).wr F.evtSubGroups 0 k groups).wr
    F.evtSubSubTick 0 k w.tickNo

theorem evtSub_key_ne {f g : Fld} {k : Nat} (hf : f.reg = .evtSub) (hg : g.reg = .evtSub) (hlo : f.lo ≠ g.lo) :
    f.key 0 k ≠ g.key 0 k := Fld.key_ne_of_lo (hf.trans hg.symm) hlo

/-- What the entry shows. -/
theorem Work.subscribe_shows (w : Work) (k dev sess groups : Nat) :
    (w.subscribe k dev sess groups).rd F.evtSubValid 0 k = 1 ∧ (w.subscribe k dev sess groups).rd F.evtSubBridge 0 k = dev % 2 ^ 9 ∧
      (w.subscribe k dev sess groups).rd F.evtSubSession 0 k = sess % 2 ^ F.evtSubSession.w ∧
      (w.subscribe k dev sess groups).rd F.evtSubGroups 0 k = groups % 2 ^ 32 ∧
      (w.subscribe k dev sess groups).rd F.evtSubSubTick 0 k = w.tickNo % 2 ^ 32 := by
  have hne : ∀ f g : Fld, f.reg = .evtSub → g.reg = .evtSub → f.lo ≠ g.lo → ∀ (x : Work) (v : Nat),
      (x.wr f 0 k v).rd g 0 k = x.rd g 0 k := fun f g hf hg hlo x v => Work.rd_wr_other (evtSub_key_ne hf hg hlo)
  unfold Work.subscribe
  refine ⟨?_, ?_, ?_, ?_, ?_⟩
  · rw [hne F.evtSubSubTick _ rfl rfl (by decide), hne F.evtSubGroups _ rfl rfl (by decide), Work.rd_wr_same]
    rfl
  · rw [hne F.evtSubSubTick _ rfl rfl (by decide), hne F.evtSubGroups _ rfl rfl (by decide),
      hne F.evtSubValid _ rfl rfl (by decide), hne F.evtSubSession _ rfl rfl (by decide), Work.rd_wr_same]
    rfl
  · rw [hne F.evtSubSubTick _ rfl rfl (by decide), hne F.evtSubGroups _ rfl rfl (by decide),
      hne F.evtSubValid _ rfl rfl (by decide), Work.rd_wr_same]
  · rw [hne F.evtSubSubTick _ rfl rfl (by decide), Work.rd_wr_same]
    rfl
  · exact Work.rd_wr_same ..

section
variable {w : Work} {by_ : Requester} {i v dev sess : Nat}

theorem Work.evtSubWrite_of_clear (h : bitOf v 11 = false) : (w.evtSubWrite by_ i v).2 = w.wr F.evtSubValid 0 i 0 :=
  congrArg Prod.snd (if_pos (by simp [h]))

theorem Work.evtSubWrite_of_no_session (h : bitOf v 11 = true) :
    (w.evtSubWrite (.regWrite dev 0) i v).2 = w := by simp [Work.evtSubWrite, h]

theorem Work.evtSubWrite_of_full (h : bitOf v 11 = true) (hslot : w.subSlot dev (sess - 1) = none) :
    (w.evtSubWrite (.regWrite dev sess) i v).2 = w := by
  simp only [Work.evtSubWrite, h, hslot, Bool.not_true, Bool.false_eq_true, if_false]
  split <;> rfl

theorem Work.evtSubWrite_of_slot {k : Nat} (h : bitOf v 11 = true) (hsess : sess ≠ 0) (hslot : w.subSlot dev (sess - 1) = some k) :
    (w.evtSubWrite (.regWrite dev sess) i v).2 = w.subscribe k dev (sess - 1) (fieldOf v 32 32) := by
  simp only [Work.evtSubWrite, h, hslot, hsess, Bool.not_true, Bool.false_eq_true, if_false]
  rfl

theorem Work.evtSubWrite_of_no_host (h : bitOf v 11 = true) (hby : ∀ a b, by_ ≠ .regWrite a b) :
    (w.evtSubWrite by_ i v).2 = w := by
  refine (congrArg Prod.snd (if_neg (by simp [h]))).trans ?_
  cases by_ with
  | regWrite a b => exact absurd rfl (hby a b)
  | mc n => rfl
  | recovery => rfl

end

/-- Settles O7: the decision of a cycle; the end of handling by whether the core has the source; EVT_PEND bit by bit; EVT_SUB
by VALID and its requester. The order of a cycle's decisions is the model's reading (log entry 145). -/
theorem eventsDelivered : Obligations.EventsDelivered := by
  unfold Obligations.EventsDelivered
  refine ⟨fun s n hn => ⟨exec_eventDelivery_of_none hn, fun x hx hlt => ?_, exec_eventDelivery_of_some hn⟩,
    ⟨fun s m v hm => ⟨fun h => ?_, fun h => ?_⟩, fun s g hg => ?_⟩, fun s i v hi => ?_,
    fun s i v hi => ⟨fun by_ hby h => ?_, fun dev sess hdev hsess h => ⟨fun h0 => ?_, fun h0 hslot => ?_, fun k h0 hslot => ?_⟩,
      fun by_ hby h hother => ?_⟩⟩
  · have hon := State.on_onlyNotes (f := fun w => w.evtDeliver n x) (s.work.evtDeliver_core_only hlt n)
    obtain ⟨hstate, hsource, hstack⟩ := s.work.evtDeliver_active hn hlt
    obtain ⟨hcount, hrr, hseq, hhold⟩ := s.work.evtDeliver_counted hn hlt
    have hrd := fun (f : Fld) d i => s.rd_on (fun w => w.evtDeliver n x) f d i
    refine ⟨_, exec_eventDelivery_of_some hn hx, by rw [hon], by rw [hon], ?_, ?_, (hrd ..).trans hsource, ?_, (hrd ..).trans hcount,
      (hrd ..).trans hrr, (hrd ..).trans hseq, fun h => ?_⟩
    · rw [Work.evtPending, hrd, hstate]
      rfl
    · rw [Work.evtActive, hrd, hstate]
      rfl
    · rw [hon]
      exact hstack
    · rw [hon]
      exact hhold h
  · exact State.perform_eq_on (i := .evtEoi m v) _ (decide_eq_true hm) (Work.evtEoiWrite_of_active h)
  · refine (State.perform_eq_on (i := .evtEoi m v) (fun w => w.bump F.evtGlobalBadEoi 0 0) (decide_eq_true hm)
      (Work.evtEoiWrite_of_bad h)).trans (congrArg _ ?_)
    exact State.on_of_no_store rfl rfl
  · refine ⟨_, State.perform_wf (i := .holdoffExpire g) (decide_eq_true hg), State.on_of_no_store rfl rfl, fun x => ?_⟩
    rw [State.on_of_no_store rfl rfl]
    simp
  · obtain ⟨⟨r, hr⟩, htaken, hkept⟩ := s.work.discardedTo_evtPendWrite i v.toNat
    have hon := State.on_of_no_store (f := fun w => w.evtPendWrite i v.toNat) (s := s) (by rw [hr]; rfl) (by rw [hr]; rfl)
    have hrd := fun (f : Fld) d j => s.rd_on (fun w => w.evtPendWrite i v.toNat) f d j
    refine ⟨_, State.perform_wf (i := .evtPend i v) (decide_eq_true hi), ⟨r, ?_⟩, fun n hn => ?_⟩
    · rw [hon, hr]
      rfl
    · have hlt : n % 64 < 64 := Nat.mod_lt _ (by decide)
      split
      next h =>
        obtain ⟨hstate, hcount⟩ := htaken n ⟨h.1, hlt, h.2⟩
        have hodd : s.work.rd F.evtPriState 0 n % 2 = 1 := of_decide_eq_true h.2.2
        simp only [Work.evtPending, Work.evtActive, hrd, hstate, hcount, decide_eq_decide, decide_eq_false_iff_not]
        exact ⟨by omega, by omega, trivial⟩
      next h =>
        obtain ⟨hstate, hcount⟩ := hkept n fun hd => h ⟨hd.1, hd.2.2⟩
        exact ⟨(hrd ..).trans hstate, (hrd ..).trans hcount⟩
  · have hwf : (Instr.evtSub by_ i v).wf = true := by simp [Instr.wf, hby, hi]
    have hexec : exec (.evtSub by_ i v) s = .next (s.on fun w => w.wr F.evtSubValid 0 i 0) :=
      State.perform_eq_on (i := .evtSub by_ i v) _ hwf (Work.evtSubWrite_of_clear h)
    refine ⟨_, hexec, ?_, State.on_of_no_store rfl rfl⟩
    rw [Work.rdB, s.rd_on, Work.rd_wr_same]
    rfl
  · subst h0
    exact State.perform_unchanged (i := .evtSub (.regWrite dev 0) i v) (by simp [Instr.wf, Requester.wf, hdev, hsess, hi])
      (Work.evtSubWrite_of_no_session h)
  · exact State.perform_unchanged (i := .evtSub (.regWrite dev sess) i v) (by simp [Instr.wf, Requester.wf, hdev, hsess, hi])
      (Work.evtSubWrite_of_full h hslot)
  · have hwf : (Instr.evtSub (.regWrite dev sess) i v).wf = true := by simp [Instr.wf, Requester.wf, hdev, hsess, hi]
    have hexec : exec (.evtSub (.regWrite dev sess) i v) s = .next (s.on fun w => w.subscribe k dev (sess - 1) (fieldOf v.toNat 32 32)) :=
      State.perform_eq_on (i := .evtSub (.regWrite dev sess) i v) _ hwf (Work.evtSubWrite_of_slot h h0 hslot)
    obtain ⟨hvalid, hbridge, hsession, hgroups, htick⟩ := s.work.subscribe_shows k dev (sess - 1) (fieldOf v.toNat 32 32)
    have hrd := fun (f : Fld) d j => s.rd_on (fun w => w.subscribe k dev (sess - 1) (fieldOf v.toNat 32 32)) f d j
    refine ⟨_, hexec, ⟨_, State.on_of_no_store rfl rfl⟩, ?_, ?_, (hrd ..).trans hsession, ?_, (hrd ..).trans htick⟩
    · rw [Work.rdB, hrd, hvalid]
      rfl
    · rw [hrd, hbridge]
      exact Nat.mod_eq_of_lt hdev
    · rw [hrd, hgroups, fieldOf, Nat.mod_mod]
  · exact State.perform_unchanged (i := .evtSub by_ i v) (by simp [Instr.wf, hby, hi]) (Work.evtSubWrite_of_no_host h hother)

end Sys2Proof.Machine

/-! Read commands of the sideband (chapter 24: R643, R645, R646). -/

namespace Sys2Proof.Machine

/-! ## Commands of the target (R643) -/

section
variable {s : State} {c : Instr} {f v : Work → Work} (hexec : exec c s = s.perform c (fun w => w.smb f)) (hwf : c.wf = true)
include hexec hwf

/-- Without its rails the target does nothing. -/
theorem exec_smb_of_off (h : s.work.sideband = false) : exec c s = .next s :=
  hexec.trans (State.perform_unchanged hwf (if_neg (by simp [h])))

/-- With them a command has its effect. -/
theorem exec_smb_of_on (h : s.work.sideband = true) (hv : f s.work = v s.work) : exec c s = .next (s.on v) :=
  hexec.trans (State.perform_eq_on v hwf ((if_pos h).trans hv))

theorem exec_smb_unchanged (hv : f s.work = s.work) : exec c s = .next s :=
  hexec.trans (State.perform_unchanged hwf (by rw [Work.smb, hv, ite_self]))

/-- An answer is all that a read changes: it joins the log of what left the module. -/
theorem exec_smb_of_answer {code : Nat} {bs : List Byte} (h : s.work.sideband = true) (hv : f s.work = s.work.answer code bs) :
    exec c s = .next { s with out := (50, ⟨frameLog, bs ++
      [pecOf (s.work.smbAddr 0 :: BitVec.ofNat 8 code :: s.work.smbAddr 1 :: bs)]⟩) :: s.out } :=
  (exec_smb_of_on (v := fun w => w.answer code bs) hexec hwf h hv).trans (congrArg _ (State.on_of_no_store rfl rfl))

end

/-- A register read as a block is preceded by its length. -/
theorem Work.answerBlock_regBytes (w : Work) (code : Nat) (r : Reg) (n : Nat) :
    w.answerBlock code (w.regBytes r n) = w.answer code (BitVec.ofNat 8 n :: w.regBytes r n) := by
  rw [Work.answerBlock, Work.regBytes, toBytes_length]

/-! A reading on the pages that have it, and a refusal on the others. -/

section
variable {s : State} {c : Instr} {code n d : Nat} {ok : Work → Bool} {r : Work → Nat}
  (hexec : exec c s = s.perform c (fun w => w.readLinear code (ok w) (r w) d)) (hwf : c.wf = true)
include hexec hwf

theorem exec_readLinear_of_off (hoff : s.work.sideband = false) : exec c s = .next s :=
  hexec.trans (State.perform_unchanged hwf (if_neg (by simp [hoff])))

theorem exec_readLinear (hon : s.work.sideband = true) (hok : ok s.work = true) (hr : r s.work = n) :
    exec c s = .next (s.on fun w => (w.linear11 n d).2.answer code (toBytes 2 (w.linear11 n d).1)) := by
  refine hexec.trans (State.perform_eq_on _ hwf ((if_pos hon).trans ?_))
  rw [hok, hr]
  rfl

theorem exec_readLinear_of_other_page (hon : s.work.sideband = true) (hok : ok s.work = false) : exec c s = .next (s.on fun w => w.nack cmlData) := by
  refine hexec.trans (State.perform_eq_on _ hwf ((if_pos hon).trans ?_))
  rw [hok]
  rfl

end

/-- Settles O22: each read command by its own meaning, and each reading by the pages that have it. The places of the status
bits and the LINEAR11 exponent are the model's reading (log entry 151), the PEC and the NACK's bits too (log entry 152). -/
theorem sidebandReads : Obligations.SidebandReads := by
  unfold Obligations.SidebandReads
  refine ⟨fun s => ⟨fun hoff => ?_, fun hon => ⟨fun c code bs hmem => ?_, fun hp => ?_, fun hp => ?_, fun ha => ?_, fun ha => ?_⟩⟩,
    fun s hon => ⟨fun c code n d hmem => ?_, fun c code n d hmem => ?_, fun c code n hmem => ?_, fun hp => ?_, fun hp => ?_⟩⟩
  · iterate 11 refine List.forall_mem_cons.2 ⟨exec_smb_of_off rfl rfl hoff, ?_⟩
    iterate 3 refine List.forall_mem_cons.2 ⟨exec_readLinear_of_off rfl rfl hoff, ?_⟩
    refine List.forall_mem_cons.2 ⟨exec_smb_of_off rfl rfl hoff, ?_⟩
    iterate 5 refine List.forall_mem_cons.2 ⟨exec_readLinear_of_off rfl rfl hoff, ?_⟩
    iterate 10 refine List.forall_mem_cons.2 ⟨exec_smb_of_off rfl rfl hoff, ?_⟩
    exact List.forall_mem_nil _
  · simp only [List.mem_cons, List.not_mem_nil, or_false, Prod.mk.injEq] at hmem
    rcases hmem with ⟨rfl, rfl, rfl⟩ | ⟨rfl, rfl, rfl⟩ | ⟨rfl, rfl, rfl⟩ | ⟨rfl, rfl, rfl⟩ | ⟨rfl, rfl, rfl⟩ | ⟨rfl, rfl, rfl⟩ |
      ⟨rfl, rfl, rfl⟩ | ⟨rfl, rfl, rfl⟩ | ⟨rfl, rfl, rfl⟩ | ⟨rfl, rfl, rfl⟩ | ⟨rfl, rfl, rfl⟩ | ⟨rfl, rfl, rfl⟩ |
      ⟨rfl, rfl, rfl⟩ | ⟨rfl, rfl, rfl⟩ | ⟨rfl, rfl, rfl⟩ | ⟨rfl, rfl, rfl⟩
    iterate 11 exact exec_smb_of_answer rfl rfl hon rfl
    · exact exec_smb_of_answer rfl rfl hon (s.work.answerBlock_regBytes 0xD0 .bootStatus 8)
    · exact exec_smb_of_answer rfl rfl hon (s.work.answerBlock_regBytes 0xD1 .rstState 8)
    · exact exec_smb_of_answer rfl rfl hon rfl
    · exact exec_smb_of_answer rfl rfl hon (s.work.answerBlock_regBytes 0xD5 .secFlashStat 12)
    · exact exec_smb_of_answer rfl rfl hon (s.work.answerBlock_regBytes 0xD7 .secOwnCtl 8)
  · exact exec_smb_of_on rfl rfl hon (if_neg hp)
  · exact exec_smb_of_on rfl rfl hon (if_pos hp)
  · exact (exec_smb_of_on (v := fun w => w.emitMsg 50 ⟨frameLog, [w.smbAddr 0, pecOf [0x19, w.smbAddr 0]]⟩) rfl rfl hon
      (if_pos ha)).trans (congrArg _ (State.on_of_no_store rfl rfl))
  · exact exec_smb_unchanged rfl rfl (if_neg (by simp [ha]))
  · simp only [List.mem_cons, List.not_mem_nil, or_false, Prod.mk.injEq] at hmem
    rcases hmem with ⟨rfl, rfl, rfl, rfl⟩ | ⟨rfl, rfl, rfl, rfl⟩ | ⟨rfl, rfl, rfl, rfl⟩ <;>
      exact ⟨fun hp => exec_readLinear rfl rfl hon (decide_eq_true hp) rfl,
        fun hp => exec_readLinear_of_other_page rfl rfl hon (decide_eq_false hp)⟩
  · simp only [List.mem_cons, List.not_mem_nil, or_false, Prod.mk.injEq] at hmem
    rcases hmem with ⟨rfl, rfl, rfl, rfl⟩ | ⟨rfl, rfl, rfl, rfl⟩ <;>
      exact ⟨fun hp => exec_readLinear rfl rfl hon (decide_eq_true hp) rfl,
        fun hp => exec_readLinear_of_other_page rfl rfl hon (decide_eq_false (not_not_intro hp))⟩
  · simp only [List.mem_cons, List.not_mem_nil, or_false, Prod.mk.injEq] at hmem
    rcases hmem with ⟨rfl, rfl, rfl⟩ | ⟨rfl, rfl, rfl⟩ | ⟨rfl, rfl, rfl⟩ <;> exact exec_readLinear rfl rfl hon rfl rfl
  · exact exec_smb_of_on rfl rfl hon (if_neg hp)
  · exact exec_smb_of_on rfl rfl hon (if_pos hp)

end Sys2Proof.Machine

/-! Write commands of the sideband, and the test access port (chapter 24: R644 to R647). -/

namespace Sys2Proof.Machine

/-! ## Writes (R644) -/

section
variable {s : State} {c : Instr} {f v : Work → Work} {ok : Bool} 
  (hexec : exec c s = s.perform c (fun w => w.smbWrite ok f)) (hwf : c.wf = true) (hon : s.work.sideband = true)
include hexec hwf hon

/-- A wrong PEC discards the transaction and sets its bit of STATUS_CML. -/
theorem exec_smbWrite_of_bad_pec (hok : ok = false) : exec c s = .next { s with
    modl := { s.modl with statCml := s.modl.statCml ||| 0x20 }, out := (51, ⟨frameLog, []⟩) :: s.out } := by
  subst hok
  exact (exec_smb_of_on (v := fun w => w.nack cmlPec) hexec hwf hon rfl).trans (congrArg _ (State.on_of_no_store rfl rfl))

/-- A right one lets the command have its effect. -/
theorem exec_smbWrite_of_pec (hok : ok = true) (hv : f s.work = v s.work) : exec c s = .next (s.on v) := by
  subst hok
  exact exec_smb_of_on hexec hwf hon hv

end

/-- What CLEAR_FAULTS does: the status registers and TRIP_VALID are cleared. -/
def Work.faultsCleared (w : Work) : Work :=
  (w.setMod (fun m => { m with vout := [], statIn := 0, statTemp := 0, statCml := 0, warn := false })).wr F.pwrStatusTripValid 0 0 0

/-! ## The recovery service (R646) -/

theorem Work.recover_of_running {w : Work} (h : w.startStopped = false) (ok : Bool) (f : Work → Work) :
    w.recover ok f = w.nack cmlCommand := if_pos (by simp [h])

section
variable {w : Work} (h : w.startStopped = false) (bs : List Byte)
include h

theorem Work.flashBuf_of_running : w.flashBuf bs = w.nack cmlCommand := by
  unfold Work.flashBuf
  exact Work.recover_of_running h _ _

theorem Work.flashCtl_of_running : w.flashCtl bs = w.nack cmlCommand := Work.recover_of_running h _ _

theorem Work.ownRoot_of_running : w.ownRoot bs = w.nack cmlCommand := Work.recover_of_running h _ _

theorem Work.ownCtl_of_running : w.ownCtl bs = w.nack cmlCommand := Work.recover_of_running h _ _

end

theorem Work.recover_of_stopped {w : Work} (h : w.startStopped = true) {ok : Bool} (hok : ok = true) (f : Work → Work) :
    w.recover ok f = f w := by rw [Work.recover, if_neg (by simp [h]), if_pos hok]

theorem Work.capWrite_of_bad {w : Work} {v : Nat} (h : v < 1000 ∨ 2600 < v) : w.capWrite v = w.nack cmlData := if_pos h

theorem Work.capWrite_of_good {w x : Work} {v : Nat} (hlo : 1000 ≤ v) (hhi : v ≤ 2600)
    (hx : w.resolve objReg (RegInst.wordNo ⟨.pwrCap, 0, 0⟩ 0) 0 (w.storeHdr .recovery (RegInst.wordNo ⟨.pwrCap, 0, 0⟩ 0)) = some x) :
    w.capWrite v = x.wr F.pwrCapCapW 0 0 v := by
  rw [Work.capWrite, if_neg (by omega)]
  simp only [hx]

/-- The first byte of a block names the half that the others fill. -/
theorem leAt_first {half : Nat} (h : half ≤ 1) (bs : List Byte) : leAt (BitVec.ofNat 8 half :: bs) 0 1 = half := by
  obtain rfl | rfl : half = 0 ∨ half = 1 := by omega
  · rfl
  · rfl

theorem Work.flashBuf_of_stopped {w : Work} {half : Nat} {bs : List Byte} (h : w.startStopped = true) (hhalf : half ≤ 1)
    (hbs : bs.length = 128) : w.flashBuf (BitVec.ofNat 8 half :: bs) = w.wr F.secFlashDataData 0 0 (ofBytes (if half = 0 then
      bs ++ (toBytes 256 (w.dv F.secFlashDataData)).drop 128 else (toBytes 256 (w.dv F.secFlashDataData)).take 128 ++ bs)) := by
  rw [Work.flashBuf, leAt_first hhalf, Work.recover_of_stopped h (by simp [hbs, hhalf])]
  rfl

/-! ## The test access port (R647) -/

theorem State.on_setMod_tdo (s : State) (g : ModSt → ModSt) (bs : List Byte) : (s.on fun w => (w.setMod g).tdo bs) =
    { s with modl := g s.modl, out := (52, ⟨frameLog, bs⟩) :: s.out } := State.on_of_no_store rfl rfl

section
variable {s : State} {c : Instr} {ir drive : Nat} {f : Work → Work} {g : ModSt → ModSt} {bs : List Byte}
  (hexec : exec c s = s.perform c (fun w => w.jtag ir drive f)) (hwf : c.wf = true) (hon : s.work.sideband = true)
include hexec hwf hon

/-- An instruction is held, drives the pins, and has its effect. -/
theorem exec_jtag : exec c s = .next (s.on fun w => f (w.setMod (fun m => { m with jtagIr := ir, jtagDrive := drive }))) :=
  exec_smb_of_on hexec hwf hon rfl

/-- One that changes the module's own state. -/
theorem exec_jtag_of_setMod (hf : f = fun w => w.setMod g) : exec c s = .next { s with
    modl := g { s.modl with jtagIr := ir, jtagDrive := drive } } := by
  subst hf
  exact (exec_jtag hexec hwf hon).trans (congrArg _ (s.on_setMod fun m => g { m with jtagIr := ir, jtagDrive := drive }))

/-- One that only shifts out bytes. -/
theorem exec_jtag_of_tdo (hf : f = fun w => w.tdo bs) : exec c s = .next { s with
    modl := { s.modl with jtagIr := ir, jtagDrive := drive }, out := (52, ⟨frameLog, bs⟩) :: s.out } := by
  subst hf
  exact (exec_jtag hexec hwf hon).trans (congrArg _ (s.on_setMod_tdo (fun m => { m with jtagIr := ir, jtagDrive := drive }) bs))

/-- One that does both. -/
theorem exec_jtag_of_setMod_tdo (hf : f = fun w => (w.setMod g).tdo bs) : exec c s = .next { s with
    modl := g { s.modl with jtagIr := ir, jtagDrive := drive }, out := (52, ⟨frameLog, bs⟩) :: s.out } := by
  subst hf
  exact (exec_jtag hexec hwf hon).trans (congrArg _ (s.on_setMod_tdo (fun m => g { m with jtagIr := ir, jtagDrive := drive }) bs))

end

/-- Settles O23: each write by its PEC and its value, the recovery service's by whether start is stopped; the instructions of
the test access port one by one. The NACK's bits and the rank of the cap write are the model's reading (log entry 152), and
TRST_N and what shifts out too (log entry 153). -/
theorem sidebandWrites : Obligations.SidebandWrites := by
  unfold Obligations.SidebandWrites
  refine ⟨fun s hon => ⟨?_, fun v hv => ?_, fun v hv => ?_, ?_, fun v hv => ?_, fun v x hlo hhi hx => ?_, fun hrun => ?_,
    fun hstop => ⟨fun half bs hhalf hbs => ?_, fun bs hbs => ?_, fun bs hbs => ?_, fun bs hbs => ?_⟩⟩,
    fun s => ⟨?_, fun hon => ⟨fun c ir drive bs hmem => ?_, fun pins pre => ?_, fun pins => ?_, fun b => ?_, ?_, fun code bs => ?_⟩⟩⟩
  · iterate 7 refine List.forall_mem_cons.2 ⟨exec_smbWrite_of_bad_pec rfl rfl hon rfl, ?_⟩
    exact List.forall_mem_nil _
  · exact (exec_smbWrite_of_pec (c := .page (some v) true) (v := fun w => w.setMod (fun m => { m with page := v }))
      rfl rfl hon rfl (if_pos hv)).trans
      (congrArg _ (State.on_of_no_store rfl rfl))
  · exact exec_smbWrite_of_pec rfl rfl hon rfl (if_neg (by omega))
  · refine ⟨_, exec_smbWrite_of_pec (c := .clearFaults true) (v := Work.faultsCleared) rfl rfl hon rfl rfl, ?_⟩
    have hpages : ∀ pg, (s.work.faultsCleared).modl.statusWord pg = 0 := fun pg => rfl
    refine ⟨fun pg => ?_, ?_, ?_⟩
    · rw [State.on_of_no_store rfl rfl]
      exact hpages pg
    · rw [Work.rdB, s.rd_on]
      exact decide_eq_false (by rw [Work.faultsCleared, Work.rd_wr_same]; decide)
    · rw [State.on_of_no_store rfl rfl]
      exact ⟨rfl, rfl, rfl⟩
  · exact exec_smbWrite_of_pec rfl rfl hon rfl (Work.capWrite_of_bad hv)
  · exact exec_smbWrite_of_pec rfl rfl hon rfl (Work.capWrite_of_good hlo hhi hx)
  · refine List.forall_mem_cons.2 ⟨?_, List.forall_mem_cons.2 ⟨?_, List.forall_mem_cons.2 ⟨?_, List.forall_mem_cons.2 ⟨?_,
      List.forall_mem_nil _⟩⟩⟩⟩
    · exact exec_smbWrite_of_pec rfl rfl hon rfl (Work.flashBuf_of_running hrun _)
    · exact exec_smbWrite_of_pec rfl rfl hon rfl (Work.flashCtl_of_running hrun _)
    · exact exec_smbWrite_of_pec rfl rfl hon rfl (Work.ownRoot_of_running hrun _)
    · exact exec_smbWrite_of_pec rfl rfl hon rfl (Work.ownCtl_of_running hrun _)
  · exact exec_smbWrite_of_pec rfl rfl hon rfl (Work.flashBuf_of_stopped hstop hhalf hbs)
  · exact exec_smbWrite_of_pec rfl rfl hon rfl (Work.recover_of_stopped hstop (decide_eq_true hbs) _)
  · exact exec_smbWrite_of_pec rfl rfl hon rfl (Work.recover_of_stopped hstop (decide_eq_true hbs) _)
  · exact exec_smbWrite_of_pec rfl rfl hon rfl (Work.recover_of_stopped hstop (decide_eq_true hbs) _)
  · exact (State.perform_wf (i := .trst) rfl).trans (congrArg _ (State.on_of_no_store rfl rfl))
  · simp only [List.mem_cons, List.not_mem_nil, or_false, Prod.mk.injEq] at hmem
    rcases hmem with ⟨rfl, rfl, rfl, rfl⟩ | ⟨rfl, rfl, rfl, rfl⟩ | ⟨rfl, rfl, rfl, rfl⟩ | ⟨rfl, rfl, rfl, rfl⟩ <;>
      exact exec_jtag_of_tdo rfl rfl hon rfl
  · exact exec_jtag_of_setMod_tdo (c := .samplePreload pins pre) (g := fun m => { m with jtagBsr := pre }) rfl rfl hon rfl
  · exact exec_jtag_of_tdo rfl rfl hon rfl
  · exact exec_jtag_of_setMod (c := .oxnDbg b) (g := fun m => { m with dbg := b }) rfl rfl hon rfl
  · exact exec_jtag (c := .oxnReset) (f := fun w => w.resetIf false rstDbg) rfl rfl hon
  · exact exec_jtag (c := .oxnRecovery code bs) (f := fun w => w.recovery code bs) rfl rfl hon

end Sys2Proof.Machine

/-! Unit resets, and the watchdog (chapter 21: R565, R581, R582). -/

namespace Sys2Proof.Machine

/-! ## What a unit reset clears (R582) -/

theorem Work.unitClear_core {g : Nat} (hg : g < 96) (w : Work) (d : Nat) :
    w.unitClear d g = w.setCore d g { Core.atReset with halted := (w.core d g).halted } := if_pos hg

/-- What stays of a matrix engine: its stream book and its counters of the ring. -/
def Me.cleared (x : Me) : Me :=
  { Me.atReset with book := x.book, bookBad := x.bookBad, gen := x.gen, seed := x.seed, sent := x.sent, got := x.got,
                    granted := x.granted }

theorem Work.unitClear_me (w : Work) (d m : Nat) : w.unitClear d (96 + m) =
    ((((w.setMe d m (w.me d m).cleared).wr F.meStatusAcc0 d m 0).wr F.meStatusAcc1 d m 0).wr F.meCfgSat d m F.meCfgSat.rst).wr
      F.meCfgSrEn d m F.meCfgSrEn.rst := by
  have hm : 96 + m - 96 = m := by omega
  unfold Work.unitClear
  rw [if_neg (by omega), hm]
  rfl

/-- A field of ME_STATUS is not one of ME_CFG. -/
theorem meStatus_ne_meCfg {f g : Fld} (hf : f.reg = .meStatus) (hg : g.reg = .meCfg) (hlo : g.lo < 64) (d m : Nat) :
    g.key d m ≠ f.key d m := by
  rw [Fld.key, Fld.key, hf, hg]
  show (dieBlock d + 0x2100000 + m * 0x4000 + 0x0) * 8 + g.lo ≠ (dieBlock d + 0x2100000 + m * 0x4000 + 0x10) * 8 + f.lo
  omega

/-- Both ACC fields read zero once an engine has been cleared. -/
theorem Work.acc_unitClear_me (w : Work) (d m : Nat) :
    (w.unitClear d (96 + m)).rd F.meStatusAcc0 d m = 0 ∧ (w.unitClear d (96 + m)).rd F.meStatusAcc1 d m = 0 := by
  have hcfg : ∀ f : Fld, f.reg = .meStatus → ∀ (x : Work), ((x.wr F.meCfgSat d m F.meCfgSat.rst).wr F.meCfgSrEn d m
      F.meCfgSrEn.rst).rd f d m = x.rd f d m := fun f hf x =>
    (Work.rd_wr_other (meStatus_ne_meCfg hf rfl (by decide) d m)).trans
      (Work.rd_wr_other (meStatus_ne_meCfg hf rfl (by decide) d m))
  have hacc : F.meStatusAcc1.key d m ≠ F.meStatusAcc0.key d m := Fld.key_ne_of_lo rfl (by decide)
  rw [w.unitClear_me d m, hcfg _ rfl, hcfg _ rfl, Work.rd_wr_other hacc, Work.rd_wr_same, Work.rd_wr_same]
  exact ⟨rfl, rfl⟩

/-! ## RST_UNIT_REQ (R581) -/

section
variable {w : Work} {v : Nat}

/-- A reserved kind or a number that the kind does not have. -/
def badUnit (v : Nat) : Prop := 1 < fieldOf v 0 4 ∨ (if fieldOf v 0 4 = 0 then 96 else 24) ≤ fieldOf v 6 7

/-- The unit that a request names. -/
def unitNamed (v : Nat) : Nat := if fieldOf v 0 4 = 0 then fieldOf v 6 7 else 96 + fieldOf v 6 7

theorem Work.unitReqWrite_of_bad (h : badUnit v) : (w.unitReqWrite v).2 = w.wr F.rstUnitStatLastStatus 0 0 sRange :=
  congrArg Prod.snd (if_pos h)

theorem Work.unitReqWrite_of_no_go (h : ¬ badUnit v) (hgo : bitOf v 16 = false) : (w.unitReqWrite v).2 = w :=
  congrArg Prod.snd ((if_neg h).trans (if_pos (by simp [hgo])))

theorem Work.unitReqWrite_of_busy (h : ¬ badUnit v) (hgo : bitOf v 16 = true)
    (hidle : w.unitIdle (fieldOf v 4 2) (unitNamed v) = false) :
    (w.unitReqWrite v).2 = (w.wr F.rstUnitStatLastStatus 0 0 sState).bump F.rstUnitStatRejects 0 0 :=
  congrArg Prod.snd ((if_neg h).trans ((if_neg (by simp [hgo])).trans (if_neg (Bool.eq_false_iff.1 hidle))))

/-- An idle unit's reset: its slot is emptied, it is cleared, and the reset begins. -/
def Work.resetUnit (w : Work) (d u : Nat) : Work :=
  let x := (w.unslot d u).unitClear d u
  { x.wr F.rstUnitStatLastStatus 0 0 sOk with boot := { x.boot with units := setInsert x.boot.units (d * 120 + u) } }

theorem Work.unitReqWrite_of_idle (h : ¬ badUnit v) (hgo : bitOf v 16 = true)
    (hidle : w.unitIdle (fieldOf v 4 2) (unitNamed v) = true) :
    (w.unitReqWrite v).2 = w.resetUnit (fieldOf v 4 2) (unitNamed v) :=
  congrArg Prod.snd ((if_neg h).trans ((if_neg (by simp [hgo])).trans (if_pos hidle)))

end

/-! ## The watchdog (R565) -/

theorem Work.wdogWrite_of_kick {w : Work} {v : Nat} (hok : (w.writeFields ⟨.rstWdog, 0, 0⟩ 0 v).1 = sOk) (hkick : bitOf v 16 = true) :
    (w.wdogWrite v).2 = { (w.writeFields ⟨.rstWdog, 0, 0⟩ 0 v).2 with
      boot := { (w.writeFields ⟨.rstWdog, 0, 0⟩ 0 v).2.boot with kicked := (w.writeFields ⟨.rstWdog, 0, 0⟩ 0 v).2.now } } :=
  congrArg Prod.snd (if_pos ⟨hok, hkick⟩)

theorem Work.wdogWrite_of_no_kick {w : Work} {v : Nat}
    (h : ¬ ((w.writeFields ⟨.rstWdog, 0, 0⟩ 0 v).1 = sOk ∧ bitOf v 16 = true)) :
    (w.wdogWrite v).2 = (w.writeFields ⟨.rstWdog, 0, 0⟩ 0 v).2 := congrArg Prod.snd (if_neg h)

theorem exec_kick {s : State} {by_ : Requester} {v : BitVec 64} (hby : by_.wf = true) :
    exec (.kick by_ v) s = .next (s.on fun _ => (s.work.wdogWrite v.toNat).2) :=
  State.perform_eq_on (i := .kick by_ v) (fun _ => (s.work.wdogWrite v.toNat).2) hby rfl

/-- Settles O15: a request by the unit that it names and whether that is idle; what a core and an engine keep; a kick by the
write that carries it. What of a unit its reset clears is the model's reading (log entries 44 and 144). -/
theorem unitResets : Obligations.UnitResets := by
  unfold Obligations.UnitResets
  refine ⟨⟨fun s by_ v hby => ⟨fun hgo hkind hn => ?_, fun hbad => ?_, fun hgo hkind hn hidle => ?_, fun hgo hkind hn hidle => ?_⟩,
    fun s d u hd hu => ⟨fun h => ?_, fun h => ?_⟩⟩, ⟨fun w d g hd hg => ⟨?_, fun e h hh hne => ?_⟩, fun w d m hd hm => ?_⟩,
    fun s by_ v hby => ⟨fun hok hkick => ?_, fun h => ?_⟩⟩
  · have hgood : ¬ badUnit v.toNat := fun hbad => hbad.elim (Nat.not_lt.2 hkind) (Nat.not_le.2 hn)
    exact State.perform_unchanged (i := .unitReset by_ v) hby (Work.unitReqWrite_of_no_go hgood hgo)
  · exact (State.perform_eq_on (i := .unitReset by_ v) (fun w => w.wr F.rstUnitStatLastStatus 0 0 sRange) hby
      (Work.unitReqWrite_of_bad hbad)).trans (congrArg _ (State.on_of_no_store rfl rfl))
  · have hgood : ¬ badUnit v.toNat := fun hbad => hbad.elim (Nat.not_lt.2 hkind) (Nat.not_le.2 hn)
    exact (State.perform_eq_on (i := .unitReset by_ v) (fun w => (w.wr F.rstUnitStatLastStatus 0 0 sState).bump
      F.rstUnitStatRejects 0 0) hby (Work.unitReqWrite_of_busy hgood hgo hidle)).trans (congrArg _ (State.on_of_no_store rfl rfl))
  · have hgood : ¬ badUnit v.toNat := fun hbad => hbad.elim (Nat.not_lt.2 hkind) (Nat.not_le.2 hn)
    exact State.perform_eq_on (i := .unitReset by_ v) (fun w => w.resetUnit (fieldOf v.toNat 4 2) (unitNamed v.toNat)) hby
      (Work.unitReqWrite_of_idle hgood hgo hidle)
  · exact State.perform_eq_on (i := .unitResetDone d u) _ (by simp [Instr.wf, hd, hu]) (if_pos h)
  · exact State.perform_unchanged (i := .unitResetDone d u) (by simp [Instr.wf, hd, hu]) (if_neg (Bool.eq_false_iff.1 h))
  · rw [Work.unitClear_core hg, Work.core_setCore]
  · rw [Work.unitClear_core hg, Work.core_setCore_other _ hg hh hne]
  · obtain ⟨hacc0, hacc1⟩ := w.acc_unitClear_me d m
    have hme : (w.unitClear d (96 + m)).me d m = (w.me d m).cleared := by
      rw [w.unitClear_me d m]
      exact Work.me_setMe ..
    rw [hme]
    refine ⟨rfl, rfl, rfl, rfl, hacc0, hacc1, ?_, ?_⟩
    · rw [w.unitClear_me d m]
      rfl
    · rw [w.unitClear_me d m]
      rfl
  · have hexec := exec_kick (s := s) (v := v) hby
    rw [Work.wdogWrite_of_kick hok hkick] at hexec
    refine ⟨_, hexec, ?_, rfl⟩
    rw [State.on_boot]
  · have hno : ¬ ((s.work.writeFields ⟨.rstWdog, 0, 0⟩ 0 v.toNat).1 = sOk ∧ bitOf v.toNat 16 = true) := by
      rintro ⟨hok, hkick⟩
      exact h.elim (· hok) (fun h => Bool.false_ne_true (h.symm.trans hkick))
    rw [exec_kick hby, Work.wdogWrite_of_no_kick hno]

end Sys2Proof.Machine

/-! Enrolment and flash operations (chapter 23: R614, R619, R620). -/

namespace Sys2Proof.Machine

/-! ## Bytes of the flash -/

theorem inRange_cons {a b n : Nat} : inRange a (n + 1) b = (decide (a = b) || inRange (a + 1) n b) := by
  rw [Bool.eq_iff_iff]
  simp only [inRange, Bool.or_eq_true, Bool.and_eq_true, decide_eq_true_eq]
  omega

/-- An erased range reads as erased. -/
theorem Work.flashByte_flashErase (w : Work) (a n b : Nat) :
    (w.flashErase a n).flashByte b = if inRange a n b then 0xFF else w.flashByte b := by
  rw [Work.flashByte, Work.flashErase]
  refine (smGet_filter (fun k => !inRange a n k) b).trans ?_
  cases inRange a n b <;> rfl

/-- Stored bytes read where they were stored. -/
theorem Work.flashByte_flashWrite (w : Work) (a : Nat) (bs : List Byte) (b : Nat) :
    (w.flashWrite a bs).flashByte b = if inRange a bs.length b then getAt 0 bs (b - a) else w.flashByte b := by
  induction bs generalizing w a with
  | nil =>
    have hempty : inRange a 0 b = false := by simp [inRange]
    rw [List.length_nil, hempty]
    rfl
  | cons x bs ih =>
    rw [Work.flashWrite, ih, List.length_cons, inRange_cons]
    by_cases hin : inRange (a + 1) bs.length b = true
    · have hlo : a + 1 ≤ b := by simp only [inRange, Bool.and_eq_true, decide_eq_true_eq] at hin; exact hin.1
      rw [if_pos hin, hin, Bool.or_true, if_pos rfl, show b - a = b - (a + 1) + 1 by omega]
      rfl
    · rw [if_neg hin, Bool.eq_false_iff.2 hin, Bool.or_false]
      by_cases hab : a = b
      · subst hab
        rw [decide_eq_true rfl, if_pos rfl, Nat.sub_self]
        exact smGet_smSet_same ..
      · rw [decide_eq_false hab, if_neg Bool.false_ne_true]
        exact smGet_smSet_other hab

/-- So do stored strings. -/
theorem Work.flashRead_flashWrite (w : Work) (a : Nat) {bs : List Byte} {k n : Nat} (h : k + n ≤ bs.length) :
    (w.flashWrite a bs).flashRead (a + k) n = (bs.drop k).take n := by
  have hlen : ((bs.drop k).take n).length = n := by rw [List.length_take, List.length_drop]; omega
  refine List.ext_getElem (by simp [Work.flashRead, hlen]) fun i hi hi' => ?_
  have hin : inRange a bs.length (a + k + i) = true := by
    simp only [inRange, Bool.and_eq_true, decide_eq_true_eq]
    omega
  simp only [Work.flashRead, List.getElem_map, List.getElem_range]
  rw [Work.flashByte_flashWrite, if_pos hin, List.getElem_take,
    List.getElem_drop, show a + k + i - a = k + i by omega, getAt, List.getD_eq_getElem _ _ (by omega)]

theorem State.flashByte_on (f : Work → Work) (s : State) (a : Nat) : (s.on f).work.flashByte a = (f s.work).flashByte a := by
  rw [Work.flashByte, State.work_toBlock, State.on_flash, Work.flashByte]

theorem State.flashRead_on (f : Work → Work) (s : State) (a n : Nat) : (s.on f).work.flashRead a n = (f s.work).flashRead a n :=
  List.map_congr_left fun i _ => State.flashByte_on f s (a + i)

/-! A part's check and the ownership record depend on the flash alone, not on registers or what the service holds. -/

theorem Work.partResult_of_sec (w : Work) (r : List (Nat × Nat)) (x : SecSt) (owner : Bool) (root : Option (List Byte)) :
    ({ w with regs := r, sec := x } : Work).partResult owner root = w.partResult owner root := rfl

theorem Work.ownership_of_sec (w : Work) (r : List (Nat × Nat)) (x : SecSt) (idOk : Bool) :
    ({ w with regs := r, sec := x } : Work).ownership idOk = w.ownership idOk := rfl

/-! ## Enrolment (R614) -/

section
variable {w : Work} {v : Nat}

theorem Work.enrolRequest_of_no_key (h : fieldOf v 0 1 ≠ 1 ∨ fieldOf v 8 8 ≠ 0x5A) : w.enrolRequest v = w := if_pos h

section
variable (henrol : fieldOf v 0 1 = 1) (hkey : fieldOf v 8 8 = 0x5A)
include henrol hkey

theorem Work.enrolRequest_of_inhibited (h : w.inhibited = true) : w.enrolRequest v = w.wr F.secOwnCtlLastStatus 0 0 sNvw :=
  (if_neg (by simp [henrol, hkey])).trans (if_pos h)

/-- The owner pin and the identity allow an enrolment, and the flash is free. -/
def Work.mayEnrol (w : Work) : Bool :=
  w.rdB F.secStatusOwnEn 0 0 && w.rdB F.secStatusIdOk 0 0 && w.sec.flashOp.isNone && w.sec.enrol.isNone

theorem Work.enrolRequest_of_refused (h : w.inhibited = false) (hno : w.mayEnrol = false) :
    w.enrolRequest v = w.wr F.secOwnCtlLastStatus 0 0 sState := by
  have hbad : (!w.rdB F.secStatusOwnEn 0 0 || !w.rdB F.secStatusIdOk 0 0 || w.sec.flashOp.isSome || w.sec.enrol.isSome) = true := by
    rw [← Option.not_isNone, ← Option.not_isNone, ← Bool.not_and, ← Bool.not_and, ← Bool.not_and, ← Work.mayEnrol, hno]
    rfl
  exact (if_neg (by simp [henrol, hkey])).trans ((if_neg (by simp [h])).trans (if_pos hbad))

/-- The root taken, and the flash busy. -/
theorem Work.enrolRequest_of_taken (h : w.inhibited = false) (hok : w.mayEnrol = true) :
    w.enrolRequest v = ({ w with sec := { w.sec with enrol := some (toBytes 64 (w.dv F.secOwnRootRoot)) } } : Work).showBusy := by
  have hgood : ¬ (!w.rdB F.secStatusOwnEn 0 0 || !w.rdB F.secStatusIdOk 0 0 || w.sec.flashOp.isSome || w.sec.enrol.isSome) = true := by
    rw [← Option.not_isNone, ← Option.not_isNone, ← Bool.not_and, ← Bool.not_and, ← Bool.not_and, ← Work.mayEnrol, hok]
    exact Bool.false_ne_true
  exact (if_neg (by simp [henrol, hkey])).trans ((if_neg (by simp [h])).trans (if_neg hgood))

end
end

theorem Work.rdB_showBusy (w : Work) :
    w.showBusy.rdB F.secFlashStatBusy 0 0 = (w.sec.flashOp.isSome || w.sec.enrol.isSome) := by
  unfold Work.showBusy Work.wrB
  rw [Work.rdB, Work.rd_wr_same]
  cases w.sec.flashOp.isSome || w.sec.enrol.isSome <;> rfl

theorem Work.enrolEnd_of_none {w : Work} (h : w.sec.enrol = none) : w.enrolEnd = w := by simp only [Work.enrolEnd, h]

/-- The ownership record of an enrolment: what is signed, zeros, and the signature (R613). -/
def ownerRecord (serial : Nat) (root digest sig : List Byte) : List Byte :=
  toBytes 4 0x524F584F ++ toBytes 4 1 ++ toBytes 4 serial ++ toBytes 4 0 ++ root ++ digest ++ List.replicate 80 0 ++ sig

theorem ownerRecord_parts (serial : Nat) {root digest sig : List Byte} (hroot : root.length = 64) (hdigest : digest.length = 32)
    (hsig : sig.length = 64) : (ownerRecord serial root digest sig).length = 256 ∧
      (ownerRecord serial root digest sig).take 4 = toBytes 4 0x524F584F ∧
      ((ownerRecord serial root digest sig).drop 16).take 64 = root := by
  refine ⟨?_, ?_, ?_⟩
  · simp only [ownerRecord, List.length_append, toBytes_length, List.length_replicate, hroot, hdigest, hsig]
  · simp only [ownerRecord, List.append_assoc]
    exact List.take_left' (toBytes_length ..)
  · have hhead : (toBytes 4 0x524F584F ++ toBytes 4 1 ++ toBytes 4 serial ++ toBytes 4 0).length = 16 := by
      simp only [List.length_append, toBytes_length]
    unfold ownerRecord
    rw [List.append_assoc _ root, List.append_assoc _ (root ++ _), List.append_assoc _ (root ++ _ ++ _), List.drop_left' hhead,
      List.append_assoc, List.append_assoc]
    exact List.take_left' hroot

/-- The sector erased, and the record written there. -/
def Work.recordWritten (w : Work) (c : Nat) (bs : List Byte) : Work := (({ w with free := c } : Work).flashErase 0 0x10000).flashWrite 0 bs

/-- The enrolment over: the flash is free, and the status OK. -/
def Work.enrolled (w : Work) : Work :=
  (({ w with sec := { w.sec with enrol := none } } : Work).showBusy).wr F.secOwnCtlLastStatus 0 0 sOk

/-- An enrolment that was accepted ends with its record written. -/
theorem Work.enrolEnd_of_some {w : Work} {root : List Byte} (h : w.sec.enrol = some root) : ∃ serial sig, sig.length = 64 ∧
    w.enrolEnd = (w.recordWritten (w.free + 1) (ownerRecord serial root (sm3 w.devicePublic) sig)).enrolled := by
  rw [Work.enrolEnd, h]
  exact ⟨_, _, smSign_length .., rfl⟩

/-- It leaves registers and the flash changed, and the flash free. -/
theorem Work.enrolled_only (w : Work) (c : Nat) (bs : List Byte) : ∃ r f, (w.recordWritten c bs).enrolled =
    { w with free := c, regs := r, flash := f, sec := { w.sec with enrol := none } } := by
  obtain ⟨f, hf⟩ := (({ w with free := c } : Work).flashErase 0 0x10000).flashWrite_only 0 bs
  rw [Work.recordWritten, hf]
  exact ⟨_, _, rfl⟩

theorem Work.flashByte_enrolled (w : Work) (a : Nat) : w.enrolled.flashByte a = w.flashByte a := rfl

theorem Work.flashByte_recordWritten (w : Work) (c : Nat) {bs : List Byte} (hbs : bs.length = 256) {a : Nat} (ha : 0x10000 ≤ a) :
    (w.recordWritten c bs).flashByte a = w.flashByte a := by
  have hin : ∀ n, n ≤ 0x10000 → inRange 0 n a = false := fun n hn => by simp [inRange]; omega
  rw [Work.recordWritten, Work.flashByte_flashWrite, Work.flashByte_flashErase, hbs, hin 256 (by decide), hin 0x10000 le_rfl]
  rfl

/-- What ENROL_COMPLETE shows. -/
theorem exec_enrolComplete_of_some {s : State} {root : List Byte} (h : s.sec.enrol = some root) (hroot : root.length = 64) :
    ∃ t, exec .enrolComplete s = .next t ∧ t.sec.enrol = none ∧ t.work.dv F.secOwnCtlLastStatus = sOk ∧
      t.work.flashRead 0 4 = toBytes 4 0x524F584F ∧ t.work.flashRead 16 64 = root ∧
      (∀ a, 0x10000 ≤ a → t.work.flashByte a = s.work.flashByte a) ∧ t.mem = s.mem := by
  obtain ⟨serial, sig, hsig, hend⟩ := Work.enrolEnd_of_some (w := s.work) h
  obtain ⟨hlen, hmagic, hkey⟩ := ownerRecord_parts serial hroot (sm3_length s.work.devicePublic) hsig
  generalize ownerRecord serial root (sm3 s.work.devicePublic) sig = bs at hend hlen hmagic hkey
  have hexec : exec .enrolComplete s = .next (s.on fun w => (w.recordWritten (w.free + 1) bs).enrolled) :=
    State.perform_eq_on (i := .enrolComplete) _ rfl hend
  obtain ⟨r, f, honly⟩ := s.work.enrolled_only (s.work.free + 1) bs
  have hread : ∀ k n, k + n ≤ 256 → (s.work.recordWritten (s.work.free + 1) bs).enrolled.flashRead k n = (bs.drop k).take n :=
    fun k n hkn => by
      have h := ((({ s.work with free := s.work.free + 1 } : Work).flashErase 0 0x10000)).flashRead_flashWrite 0 (hkn.trans hlen.ge)
      rw [Nat.zero_add] at h
      exact h
  refine ⟨_, hexec, ?_, ?_, ?_, ?_, fun a ha => ?_, State.on_mem_of_no_store (by rw [honly]; rfl) (by rw [honly]; rfl)⟩
  · rw [State.on_sec, honly]
  · rw [Work.dv, s.rd_on]
    exact Work.rd_wr_same ..
  · rw [State.flashRead_on, hread 0 4 (by decide), List.drop_zero, hmagic]
  · rw [State.flashRead_on, hread 16 64 (by decide), hkey]
  · rw [State.flashByte_on]
    exact (Work.flashByte_enrolled ..).trans (s.work.flashByte_recordWritten _ hlen ha)

/-! ## Flash operations issued (R619, R620) -/

section
variable {w : Work} {v : Nat} {rec : Bool}

/-- The data of an operation: those of the buffer or of memory for a PROGRAM, and none for another. -/
def Work.flashData (w : Work) (v : Nat) : Option (List Byte) :=
  if fieldOf v 0 3 ≠ 2 then some []
  else if bitOf v 3 then some ((toBytes 256 (w.dv F.secFlashDataData)).take (fieldOf v 64 32))
  else w.read (fieldOf v 96 52) (fieldOf v 64 32)

/-- An operation begun. -/
def Work.flashBegun (w : Work) (o : FlashOp) : Work :=
  (({ w with sec := { w.sec with flashOp := some o } } : Work).showBusy).wr F.secFlashStatDone 0 0 0

theorem Work.flashIssue_of_good {bs : List Byte} (hf : w.flashFails v rec = []) (hd : w.flashData v = some bs) :
    w.flashIssue v rec = w.flashBegun ⟨fieldOf v 0 3, fieldOf v 32 28, fieldOf v 64 32, bs⟩ := by
  rw [Work.flashData] at hd
  simp only [Work.flashIssue, hf, hd]
  rfl

theorem Work.flashIssue_of_unmapped (hf : w.flashFails v rec = []) (hd : w.flashData v = none) :
    w.flashIssue v rec = w.wr F.secFlashStatLastStatus 0 0 sUnmapped := by
  rw [Work.flashData] at hd
  simp only [Work.flashIssue, hf, hd]

theorem Work.flashIssue_of_bad (hf : w.flashFails v rec ≠ []) : w.flashIssue v rec =
    (w.countFurther .mgmt (w.flashFails v rec)).wr F.secFlashStatLastStatus 0 0 (lowest (w.flashFails v rec)) := by
  unfold Work.flashIssue
  dsimp only
  cases hfs : w.flashFails v rec with
  | nil => exact absurd hfs hf
  | cons st fs => rfl

end

section
variable {s : State} {c : Instr} {by_ : Requester} {v : BitVec 192} {op : Nat}
  (hexec : exec c s = s.perform c (fun w => w.flashRow op by_ v)) (hwf : c.wf = true)
include hexec hwf

/-- A word of another operation is not that command. -/
theorem exec_flashRow_of_other (hop : fieldOf v.toNat 0 3 ≠ op) : exec c s = .next s :=
  hexec.trans (State.perform_unchanged hwf (if_neg hop))

theorem exec_flashRow (hop : fieldOf v.toNat 0 3 = op) :
    exec c s = .next (s.on fun w => w.flashIssue v.toNat (decide (by_ = .recovery))) :=
  hexec.trans (State.perform_eq_on _ hwf (if_pos hop))

/-- One that passes every check is begun. -/
theorem exec_flashRow_of_good {bs : List Byte} (hop : fieldOf v.toNat 0 3 = op)
    (hf : s.work.flashFails v.toNat (decide (by_ = .recovery)) = []) (hd : s.work.flashData v.toNat = some bs) :
    ∃ t, exec c s = .next t ∧ t.sec = { s.sec with flashOp := some ⟨op, fieldOf v.toNat 32 28, fieldOf v.toNat 64 32, bs⟩ } ∧
      t.work.rdB F.secFlashStatBusy 0 0 = true ∧ t.work.dv F.secFlashStatDone = 0 ∧
      t = { s with regs := t.regs, sec := t.sec } := by
  have hon := State.on_congr (s := s) (f := fun w => w.flashIssue v.toNat (decide (by_ = .recovery)))
    (g := fun w => w.flashBegun ⟨op, fieldOf v.toNat 32 28, fieldOf v.toNat 64 32, bs⟩) (by rw [Work.flashIssue_of_good hf hd, hop])
  have hlo : F.secFlashStatDone.key 0 0 ≠ F.secFlashStatBusy.key 0 0 := Fld.key_ne_of_lo rfl (by decide)
  refine ⟨_, (exec_flashRow hexec hwf hop).trans (congrArg _ hon), ?_, ?_, ?_, ?_⟩
  · rw [State.on_sec]
    rfl
  · rw [Work.rdB, s.rd_on, Work.flashBegun, Work.rd_wr_other hlo]
    exact Work.rdB_showBusy _
  · rw [Work.dv, s.rd_on]
    exact Work.rd_wr_same ..
  · rw [State.on_of_no_store rfl rfl]
    rfl

end

/-! ## The end of a flash operation (R619) -/

/-- The flash is free again. -/
def Work.flashFreed (w : Work) : Work := ({ w with sec := { w.sec with flashOp := none } } : Work).showBusy

/-- The status shown at the end. -/
def Work.flashOk (w : Work) : Work := w.wr F.secFlashStatLastStatus 0 0 sOk

/-- What the operation leaves before its status is shown. -/
def Work.flashDone (w : Work) (o : FlashOp) : Work :=
  if o.op = 1 then (w.flashFreed.flashErase o.addr o.len).wr F.secFlashStatDone 0 0 o.len
  else if o.op = 2 then (w.flashFreed.flashWrite o.addr o.bytes).wr F.secFlashStatDone 0 0 o.len
  else if o.op = 3 then w.flashFreed.wr F.secFlashStatVerifyResult 0 0 (w.flashFreed.partResult false none)
  else w.flashFreed.wr F.secFlashStatVerifyResult 0 0 (w.flashFreed.partResult true
    ((w.flashFreed.ownership (w.flashFreed.rdB F.secStatusIdOk 0 0)).map (fun (x : Nat × List Byte) => x.2)))

theorem Work.flashEnd_of_none {w : Work} (h : w.sec.flashOp = none) : w.flashEnd = w := by simp only [Work.flashEnd, h]

theorem Work.flashEnd_of_some {w : Work} {o : FlashOp} (h : w.sec.flashOp = some o) : w.flashEnd = (w.flashDone o).flashOk := by
  obtain ⟨op, a, n, bs⟩ := o
  simp only [Work.flashEnd, h]
  match op with
  | 0 | 1 | 2 | 3 | _ + 4 => rfl

/-- Only registers, the flash and what the service holds differ. -/
theorem Work.flashDone_only (w : Work) (o : FlashOp) : ∃ r f, w.flashDone o =
    { w with regs := r, flash := f, sec := { w.sec with flashOp := none } } := by
  unfold Work.flashDone
  obtain ⟨f, hf⟩ := w.flashFreed.flashWrite_only o.addr o.bytes
  rw [hf]
  split
  · exact ⟨_, _, rfl⟩
  · split
    · exact ⟨_, _, rfl⟩
    · split <;> exact ⟨_, _, rfl⟩

theorem Work.flashByte_flashFreed (w : Work) (a : Nat) : w.flashFreed.flashByte a = w.flashByte a := rfl

theorem Work.partResult_flashFreed (w : Work) (owner : Bool) (root : Option (List Byte)) :
    w.flashFreed.partResult owner root = w.partResult owner root := w.partResult_of_sec w.flashFreed.regs w.flashFreed.sec owner root

theorem Work.ownership_flashFreed (w : Work) : w.flashFreed.ownership (w.flashFreed.rdB F.secStatusIdOk 0 0) =
    w.ownership (w.rdB F.secStatusIdOk 0 0) := by
  have hkey : F.secFlashStatBusy.key 0 0 ≠ F.secStatusIdOk.key 0 0 := by decide
  have hid : w.flashFreed.rdB F.secStatusIdOk 0 0 = w.rdB F.secStatusIdOk 0 0 :=
    congrArg (fun n => decide (n = 1)) (Work.rd_wr_other (w := { w with sec := { w.sec with flashOp := none } }) hkey)
  rw [hid]
  exact w.ownership_of_sec w.flashFreed.regs w.flashFreed.sec _

theorem Work.flashDone_erase (w : Work) (a n : Nat) (bs : List Byte) :
    w.flashDone ⟨1, a, n, bs⟩ = (w.flashFreed.flashErase a n).wr F.secFlashStatDone 0 0 n := rfl

theorem Work.flashDone_program (w : Work) (a n : Nat) (bs : List Byte) :
    w.flashDone ⟨2, a, n, bs⟩ = (w.flashFreed.flashWrite a bs).wr F.secFlashStatDone 0 0 n := rfl

theorem Work.flashDone_verifyOxene (w : Work) (a n : Nat) (bs : List Byte) :
    w.flashDone ⟨3, a, n, bs⟩ = w.flashFreed.wr F.secFlashStatVerifyResult 0 0 (w.partResult false none) := by
  rw [← w.partResult_flashFreed]
  rfl

theorem Work.flashDone_verifyOwner (w : Work) (a n : Nat) (bs : List Byte) : w.flashDone ⟨4, a, n, bs⟩ =
    w.flashFreed.wr F.secFlashStatVerifyResult 0 0 (w.partResult true
      ((w.ownership (w.rdB F.secStatusIdOk 0 0)).map (fun (x : Nat × List Byte) => x.2))) := by
  rw [← w.partResult_flashFreed, ← w.ownership_flashFreed]
  rfl

theorem Work.flashByte_wr (w : Work) (f : Fld) (d i v a : Nat) : (w.wr f d i v).flashByte a = w.flashByte a := rfl

/-- What FLASH_OP_COMPLETE shows, whatever the operation was. -/
theorem exec_flashOpComplete {s : State} {o : FlashOp} (h : s.sec.flashOp = some o) :
    exec .flashOpComplete s = .next (s.on fun w => (w.flashDone o).flashOk) :=
  State.perform_eq_on (i := .flashOpComplete) _ rfl (Work.flashEnd_of_some h)

section
variable (s : State) (o : FlashOp)

theorem State.on_flashDone : ∃ r f, (s.on fun w => (w.flashDone o).flashOk) =
    { s with regs := r, flash := f, sec := { s.sec with flashOp := none } } := by
  obtain ⟨r, f, hdone⟩ := s.work.flashDone_only o
  rw [State.on_of_no_store (f := fun w => (w.flashDone o).flashOk) (by rw [hdone]; rfl) (by rw [hdone]; rfl), hdone]
  exact ⟨_, _, rfl⟩

theorem State.flashByte_flashDone (a : Nat) :
    (s.on fun w => (w.flashDone o).flashOk).work.flashByte a = (s.work.flashDone o).flashByte a :=
  (State.flashByte_on ..).trans (Work.flashByte_wr ..)

theorem State.lastStatus_flashDone : (s.on fun w => (w.flashDone o).flashOk).work.dv F.secFlashStatLastStatus = sOk := by
  rw [Work.dv, s.rd_on]
  exact Work.rd_wr_same ..

/-- Another field of the status reads as the operation left it. -/
theorem State.dv_flashDone {f : Fld} (hreg : f.reg = .secFlashStat) (hlo : 16 ≠ f.lo) :
    (s.on fun w => (w.flashDone o).flashOk).work.dv f = (s.work.flashDone o).dv f := by
  have hkey : F.secFlashStatLastStatus.key 0 0 ≠ f.key 0 0 := Fld.key_ne_of_lo hreg.symm hlo
  rw [Work.dv, s.rd_on]
  exact Work.rd_wr_other hkey

end

/-- Settles O25: enrolment by its checks and its end, a flash operation by its checks, its data and its end. That an erased
byte reads 0xFF is the model's presumption (log entry 12), and that a PROGRAM's data are taken at issue its reading (log
entry 149). -/
theorem flashAndEnrolment : Obligations.FlashAndEnrolment := by
  unfold Obligations.FlashAndEnrolment
  refine ⟨⟨fun s by_ v hby => ⟨fun h => ?_, fun henrol hkey => ⟨fun hin => ?_, fun hin hno => ?_, fun hin hown hid hflash hsec => ?_⟩⟩,
    fun s h => ?_, fun s root h hroot => exec_enrolComplete_of_some h hroot⟩, fun s by_ v c op hby hmem => ?_,
    fun s o => ⟨fun h => ?_, fun h => ?_⟩⟩
  · exact State.perform_unchanged (i := .enrol by_ v) hby (Work.enrolRequest_of_no_key h)
  · exact (State.perform_eq_on (i := .enrol by_ v) (fun w => w.wr F.secOwnCtlLastStatus 0 0 sNvw) hby
      (Work.enrolRequest_of_inhibited henrol hkey hin)).trans (congrArg _ (State.on_of_no_store rfl rfl))
  · refine (State.perform_eq_on (i := .enrol by_ v) (fun w => w.wr F.secOwnCtlLastStatus 0 0 sState) hby
      (Work.enrolRequest_of_refused henrol hkey hin ?_)).trans (congrArg _ (State.on_of_no_store rfl rfl))
    have hflash : s.sec.flashOp ≠ none → s.sec.flashOp.isNone = false := fun h =>
      Bool.eq_false_iff.2 (fun hn => h (Option.isNone_iff_eq_none.1 hn))
    have hsec : s.sec.enrol ≠ none → s.sec.enrol.isNone = false := fun h =>
      Bool.eq_false_iff.2 (fun hn => h (Option.isNone_iff_eq_none.1 hn))
    show (s.work.rdB F.secStatusOwnEn 0 0 && s.work.rdB F.secStatusIdOk 0 0 && s.sec.flashOp.isNone && s.sec.enrol.isNone) = false
    rcases hno with h | h | h | h
    · simp [h]
    · simp [h]
    · simp [hflash h]
    · simp [hsec h]
  · have hok : s.work.mayEnrol = true := by
      show (s.work.rdB F.secStatusOwnEn 0 0 && s.work.rdB F.secStatusIdOk 0 0 && s.sec.flashOp.isNone && s.sec.enrol.isNone) = true
      rw [hown, hid, hflash, hsec]
      rfl
    refine ⟨_, State.perform_eq_on (i := .enrol by_ v) (fun w => ({ w with sec :=
      { w.sec with enrol := some (toBytes 64 (w.dv F.secOwnRootRoot)) } } : Work).showBusy) hby
      (Work.enrolRequest_of_taken henrol hkey hin hok), ?_, ?_, ?_⟩
    · rw [State.on_sec]
      rfl
    · rw [Work.rdB, s.rd_on]
      exact (Work.rdB_showBusy _).trans (Bool.or_true _)
    · rw [State.on_of_no_store rfl rfl]
      rfl
  · exact State.perform_unchanged (i := .enrolComplete) rfl (Work.enrolEnd_of_none h)
  · have hexec : exec c s = s.perform c (fun w => w.flashRow op by_ v) ∧ c.wf = true := by
      simp only [List.mem_cons, List.not_mem_nil, or_false, Prod.mk.injEq] at hmem
      rcases hmem with ⟨rfl, rfl⟩ | ⟨rfl, rfl⟩ | ⟨rfl, rfl⟩ | ⟨rfl, rfl⟩ <;> exact ⟨rfl, hby⟩
    obtain ⟨hexec, hwf⟩ := hexec
    refine ⟨exec_flashRow_of_other hexec hwf, fun hop => ⟨fun bs hf hbs => ?_, fun fs hf hfs => ?_, fun h2 hbuf hf hread => ?_⟩⟩
    · refine exec_flashRow_of_good hexec hwf hop hf ?_
      subst hop
      rcases hbs with ⟨hne, rfl⟩ | ⟨h2, hbuf, rfl⟩ | ⟨h2, hbuf, hread⟩
      · exact if_pos hne
      · exact (if_neg (not_not_intro h2)).trans (if_pos hbuf)
      · exact ((if_neg (not_not_intro h2)).trans (if_neg (Bool.eq_false_iff.1 hbuf))).trans hread
    · subst hf
      exact (exec_flashRow hexec hwf hop).trans (congrArg _ (State.on_congr (Work.flashIssue_of_bad hfs)))
    · have hd : s.work.flashData v.toNat = none :=
        ((if_neg (not_not_intro (hop.trans h2))).trans (if_neg (Bool.eq_false_iff.1 hbuf))).trans hread
      exact ((exec_flashRow hexec hwf hop).trans (congrArg _ (State.on_congr (g := fun w => w.wr F.secFlashStatLastStatus 0 0 sUnmapped)
        (Work.flashIssue_of_unmapped hf hd)))).trans (congrArg _ (State.on_of_no_store rfl rfl))
  · exact State.perform_unchanged (i := .flashOpComplete) rfl (Work.flashEnd_of_none h)
  · obtain ⟨r, f, hon⟩ := s.on_flashDone o
    obtain ⟨op, a, n, bs⟩ := o
    refine ⟨_, exec_flashOpComplete h, by rw [hon], s.lastStatus_flashDone _, by rw [hon], ?_, ?_, ?_, ?_⟩
    · rintro rfl
      refine ⟨fun b => ?_, ?_⟩
      · rw [State.flashByte_flashDone, Work.flashDone_erase, Work.flashByte_wr, Work.flashByte_flashErase, Work.flashByte_flashFreed]
      · rw [State.dv_flashDone _ _ rfl (by decide), Work.flashDone_erase, Work.dv, Work.rd_wr_same]
        rfl
    · rintro rfl
      refine ⟨fun b => ?_, ?_⟩
      · rw [State.flashByte_flashDone, Work.flashDone_program, Work.flashByte_wr, Work.flashByte_flashWrite, Work.flashByte_flashFreed]
      · rw [State.dv_flashDone _ _ rfl (by decide), Work.flashDone_program, Work.dv, Work.rd_wr_same]
        rfl
    · rintro rfl
      refine ⟨?_, ?_⟩
      · rw [State.on_flash, Work.flashDone_verifyOxene]
        rfl
      · rw [State.dv_flashDone _ _ rfl (by decide), Work.flashDone_verifyOxene, Work.dv, Work.rd_wr_same]
        rfl
    · rintro rfl
      refine ⟨?_, ?_⟩
      · rw [State.on_flash, Work.flashDone_verifyOwner]
        rfl
      · rw [State.dv_flashDone _ _ rfl (by decide), Work.flashDone_verifyOwner, Work.dv, Work.rd_wr_same]
        rfl

end Sys2Proof.Machine

/-! Frames retired, memory scrubbed, and failures without a spare (chapter 20: R546, R558, R560 to R563). -/

namespace Sys2Proof.Machine

/-! ## The causes of a retirement (R560) -/

/-- The cause of FRAME_RETIRE holds. -/
def Work.RetireDue (w : Work) (tier f cause : Nat) : Prop :=
  cause = 1 ∨ (cause = 2 ∧ tier = 0 ∧ w.dv F.errCfgPageCeLimit ≠ 0 ∧ w.dv F.errCfgPageCeLimit < smGet 0 w.spr.pageCe f) ∨
    (cause = 7 ∧ tier = 0 ∧ ∃ r ∈ w.bad, inRange (frameKey (decide (tier = 1)) f / 64) 32768 r = true)

/-- The same as the model tests it, cause by cause. -/
def Work.retireTest (w : Work) (tier f cause : Nat) : Bool :=
  if cause = 1 then true
  else if cause = 2 then decide (tier = 0) && decide (w.dv F.errCfgPageCeLimit ≠ 0) &&
    decide (w.dv F.errCfgPageCeLimit < smGet 0 w.spr.pageCe f)
  else if cause = 7 then decide (tier = 0) && w.bad.any (fun r => inRange (frameKey (decide (tier = 1)) f / 64) 32768 r)
  else false

theorem Work.retireTest_iff (w : Work) (tier f cause : Nat) : w.retireTest tier f cause = true ↔ w.RetireDue tier f cause := by
  unfold Work.retireTest Work.RetireDue
  split
  next h => simp [h]
  next h1 =>
    split
    next h =>
      subst h
      simp [and_assoc]
    next h2 =>
      split
      next h =>
        subst h
        simp [List.any_eq_true]
      next h7 => simp [h1, h2, h7]

section
variable {s : State} {tier f cause : Nat} (ht : tier < 2) (hf : f < 524288)
include ht hf

theorem exec_frameRetire : exec (.frameRetire tier f cause) s =
    .next (s.on fun w => if w.retireTest tier f cause = true then w.retireFrame tier f cause else w) := by
  refine State.perform_eq_on (i := .frameRetire tier f cause) _ rfl ?_
  have hcond : ∀ b : Bool, (b = true ∧ tier < 2 ∧ f < 524288) ↔ b = true := fun b => and_iff_left ⟨ht, hf⟩
  match cause with
  | 0 | 1 | 2 | 3 | 4 | 5 | 6 | 7 | _ + 8 => exact if_congr (hcond _) rfl rfl

/-- A frame whose cause does not hold stays. -/
theorem exec_frameRetire_of_not_due (h : ¬ s.work.RetireDue tier f cause) : exec (.frameRetire tier f cause) s = .next s :=
  (exec_frameRetire ht hf).trans (congrArg _ (State.on_unchanged (if_neg (fun h' => h ((s.work.retireTest_iff ..).1 h')))))

/-- One whose cause holds is retired. -/
theorem exec_frameRetire_of_due {v : Work} (h : s.work.RetireDue tier f cause) (hv : s.work.retireFrame tier f cause = v) :
    exec (.frameRetire tier f cause) s = .next (s.on fun _ => v) :=
  (exec_frameRetire ht hf).trans (congrArg _ (State.on_congr ((if_pos ((s.work.retireTest_iff ..).2 h)).trans hv)))

end

/-! ## Retiring a frame (R546, R560, R561) -/

/-- The registers of ERR_MEM lie away from the events' and the fence log's. -/
theorem errMem_away {f : Fld} (hf : f.reg = .errMem) {i : Nat} (hi : i < 24) (hlo : f.lo < 64) :
    AwayFromEvents (f.key 0 i) ∧ AwayFromLog (f.key 0 i) := by
  obtain ⟨r, lo, w, rst⟩ := f
  obtain rfl : r = .errMem := hf
  have hlo' : lo < 64 := hlo
  refine ⟨awayFromEvents_dev rfl (by show 0xA100 + i * 8 + lo / 8 < 0xC800 ∨ _; omega) 0, ?_, ?_, ?_⟩
  · exact Fld.key_ne_of_dev rfl rfl (by show (0xA008 + 0 * 0) * 8 + 0 ≠ (0xA100 + i * 8) * 8 + lo; omega) 0 0
  · exact Fld.key_ne_of_dev rfl rfl (by show (0xA008 + 0 * 0) * 8 + 15 ≠ (0xA100 + i * 8) * 8 + lo; omega) 0 0
  · exact Fld.key_ne_of_dev rfl rfl (by show (0xA008 + 0 * 0) * 8 + 16 ≠ (0xA100 + i * 8) * 8 + lo; omega) 0 0

theorem memInstance_lt (tier f : Nat) : memInstance tier f < 24 := by
  unfold memInstance
  have h1 := (Config.memoryOf f).1.isLt
  have h2 := (Config.memoryOf f).2.isLt
  split <;> omega

@[simp] theorem Work.spr_event (w : Work) (n st detail : Nat) : (w.event n st detail).spr = w.spr := by
  obtain ⟨r, e, h⟩ := w.onlyNotes_event n st detail
  rw [h]

@[simp] theorem Work.spr_degrade (w : Work) (d : Nat) : (w.degrade d).spr = w.spr := by
  have hset : ∀ (v : Work) (st : Nat), (v.setDevState st).spr = v.spr := fun v st => by
    obtain ⟨r, e, h⟩ := v.onlyNotes_setDevState st
    rw [h]
  unfold Work.degrade
  dsimp only
  split
  · exact hset ..
  · rfl

@[simp] theorem Work.spr_bump (w : Work) (f : Fld) (d i : Nat) : (w.bump f d i).spr = w.spr := rfl

/-- The frame listed among those that are retired. -/
def Work.listRetired (w : Work) (tier f : Nat) : Work := { w with spr := { w.spr with retired := (tier, f) :: w.spr.retired } }

section
variable (w : Work) (tier f cause new : Nat)

theorem Work.retired_eq : w.retired tier f cause new =
    (((w.listRetired tier f).logFence ((w.listRetired tier f).retireRecord tier f cause new)).bump F.errMemRetired 0
      (memInstance tier f)).event 41 sOk ((w.listRetired tier f).retireRecord tier f cause new) := rfl

theorem Work.onlyFence_listRetired : w.OnlyFence (w.listRetired tier f) := ⟨w.regs, w.evt, _, w.flash, rfl⟩

theorem Work.onlyFence_retired : w.OnlyFence (w.retired tier f cause new) := by
  rw [Work.retired_eq]
  exact ((w.onlyFence_listRetired tier f).trans (Work.onlyFence_logFence _ _)).trans
    ((Work.onlyFence_wr ..).trans (Work.onlyNotes_event ..).fence)

/-- Of the spares' state the list of retired frames has the new one, and the reserve frames in use are the same. -/
theorem Work.spr_retired : (w.retired tier f cause new).spr.retired = (tier, f) :: w.spr.retired ∧
    (w.retired tier f cause new).spr.reserveUsed = w.spr.reserveUsed := by
  obtain ⟨n, held, un, hlog⟩ := Work.spr_logFence (w.listRetired tier f) ((w.listRetired tier f).retireRecord tier f cause new)
  rw [Work.retired_eq, Work.spr_event, Work.spr_bump, hlog]
  exact ⟨rfl, rfl⟩

/-- The count of the memory's retired frames is one up. -/
theorem Work.count_retired : (w.retired tier f cause new).rd F.errMemRetired 0 (memInstance tier f) =
    (w.rd F.errMemRetired 0 (memInstance tier f) + 1) % 2 ^ F.errMemRetired.w := by
  obtain ⟨hevents, hlog⟩ := errMem_away (f := F.errMemRetired) rfl (memInstance_lt tier f) (by decide)
  rw [Work.retired_eq, (Work.sameAt_event hevents ..).rd_eq, Work.rd_bump, (Work.sameAt_logFence hlog ..).rd_eq]
  rfl

end

/-- The page of a frame in a reserve frame, with its bytes. -/
def Work.moved (w : Work) (tier f n dest : Nat) : Work :=
  { (w.copyFrame (decide (tier = 1)) f (decide (tier = 1)) dest).setPage n { w.page n with frame := dest } with
    free := w.free + 1, spr := { w.spr with reserveUsed := (tier * 524288 + dest) :: w.spr.reserveUsed } }

section
variable {w : Work} {tier f : Nat} (cause : Nat)

theorem Work.retireFrame_of_retired (h : (tier, f) ∈ w.spr.retired) : w.retireFrame tier f cause = w :=
  if_pos (List.contains_iff_mem.2 h)

variable (h : (tier, f) ∉ w.spr.retired)
include h

theorem Work.retireFrame_of_no_page (hpage : w.pageOf tier f = none) : w.retireFrame tier f cause = w.retired tier f cause 0 := by
  rw [Work.retireFrame, if_neg (fun hc => h (List.contains_iff_mem.1 hc))]
  simp only [hpage]

theorem Work.retireFrame_of_no_reserve {n : Nat} (hpage : w.pageOf tier f = some n) (hres : w.reserveLeft tier = []) :
    w.retireFrame tier f cause = (w.event (dieSource 1 (memDie tier f)) sNoSpare (w.retireRecord tier f cause 0)).degrade (memDie tier f) := by
  rw [Work.retireFrame, if_neg (fun hc => h (List.contains_iff_mem.1 hc))]
  simp only [hpage, hres]

/-- Which reserve frame is firmware's choice. -/
theorem Work.retireFrame_of_reserve {n : Nat} (hpage : w.pageOf tier f = some n) (hres : w.reserveLeft tier ≠ []) :
    ∃ dest, dest ∈ w.reserveLeft tier ∧
      w.retireFrame tier f cause = ((w.moved tier f n dest).showReserve tier).retired tier f cause dest := by
  rw [Work.retireFrame, if_neg (fun hc => h (List.contains_iff_mem.1 hc))]
  cases hleft : w.reserveLeft tier with
  | nil => exact absurd hleft hres
  | cons g gs =>
    refine ⟨_, getAt_mod_mem g (w.fresh 13).1 gs, ?_⟩
    simp only [hpage]
    rfl

end

theorem Work.showReserve_only (w : Work) (tier : Nat) : ∃ r, w.showReserve tier = { w with regs := r } := by
  unfold Work.showReserve
  dsimp only
  split <;> exact ⟨_, rfl⟩

/-- What fences leave: pages, and changes of memory. -/
theorem Work.OnlyFence.keeps {w v : Work} (h : w.OnlyFence v) : v.pages = w.pages ∧ v.jnl = w.jnl ∧ v.adds = w.adds := by
  obtain ⟨r, e, x, f, rfl⟩ := h
  exact ⟨rfl, rfl, rfl⟩

/-- The block once a page has moved: its entry, and the copy that memory takes. -/
theorem Work.moved_retired (w : Work) (tier f n dest cause : Nat) :
    (((w.moved tier f n dest).showReserve tier).retired tier f cause dest).pages = (w.moved tier f n dest).pages ∧
      (((w.moved tier f n dest).showReserve tier).retired tier f cause dest).jnl = (w.moved tier f n dest).jnl ∧
      (((w.moved tier f n dest).showReserve tier).retired tier f cause dest).adds = w.adds ∧
      (((w.moved tier f n dest).showReserve tier).retired tier f cause dest).spr.retired = (tier, f) :: w.spr.retired ∧
      (((w.moved tier f n dest).showReserve tier).retired tier f cause dest).spr.reserveUsed =
        (tier * 524288 + dest) :: w.spr.reserveUsed := by
  obtain ⟨hpages, hjnl, hadds⟩ := (Work.onlyFence_retired ((w.moved tier f n dest).showReserve tier) tier f cause dest).keeps
  obtain ⟨hretired, hused⟩ := Work.spr_retired ((w.moved tier f n dest).showReserve tier) tier f cause dest
  obtain ⟨r, hshow⟩ := (w.moved tier f n dest).showReserve_only tier
  rw [hpages, hjnl, hadds, hretired, hused, hshow]
  exact ⟨rfl, rfl, rfl, rfl, rfl⟩

/-- Memory after the move has the frame's bytes in the reserve frame. -/
theorem State.mem_on_moved {s : State} {v : Work} {tier f n dest : Nat} (hjnl : v.jnl = (s.work.moved tier f n dest).jnl)
    (hadds : v.adds = []) : (s.on fun _ => v).mem =
      Memory.copy s.mem (frameKey (decide (tier = 1)) f) (frameKey (decide (tier = 1)) dest) 0x200000 := by
  rw [State.on_mem, Work.flushAdds_nil hadds, hjnl]
  rfl

/-- A reserve frame in use is not left. -/
theorem Work.not_mem_reserveLeft {w : Work} {tier dest : Nat} (h : tier * 524288 + dest ∈ w.spr.reserveUsed) :
    dest ∉ w.reserveLeft tier := by
  simp only [Work.reserveLeft, List.mem_filter, List.contains_eq_mem, decide_eq_true h, Bool.not_true, Bool.false_eq_true, and_false,
    not_false_eq_true]

section
variable {s : State} {tier f cause : Nat} (ht : tier < 2) (hf : f < 524288) (hdue : s.work.RetireDue tier f cause)
  (hnew : (tier, f) ∉ s.spr.retired)
include ht hf hdue hnew

/-- A frame without a page is retired where it is. -/
theorem exec_frameRetire_of_no_page (hpage : s.work.pageOf tier f = none) : ∃ t, exec (.frameRetire tier f cause) s = .next t ∧
    t.mem = s.mem ∧ t.pages = s.pages ∧ t.spr.retired = (tier, f) :: s.spr.retired ∧
      t.work.rd F.errMemRetired 0 (memInstance tier f) =
        (s.work.rd F.errMemRetired 0 (memInstance tier f) + 1) % 2 ^ F.errMemRetired.w := by
  obtain ⟨hpages, hjnl, hadds⟩ := (s.work.onlyFence_retired tier f cause 0).keeps
  refine ⟨_, exec_frameRetire_of_due ht hf hdue (Work.retireFrame_of_no_page cause hnew hpage), State.on_mem_of_no_store hjnl hadds,
    (State.on_pages ..).trans hpages, ?_, ?_⟩
  · rw [State.on_spr]
    exact (s.work.spr_retired tier f cause 0).1
  · rw [s.rd_on]
    exact s.work.count_retired tier f cause 0

/-- Without a reserve frame its page stays, and the die of the memory is degraded. -/
theorem exec_frameRetire_of_no_reserve {n : Nat} (hpage : s.work.pageOf tier f = some n) (hres : s.work.reserveLeft tier = []) :
    ∃ t, exec (.frameRetire tier f cause) s = .next t ∧ t.mem = s.mem ∧ t.pages = s.pages ∧ t.spr.retired = s.spr.retired ∧
      t.work.rd F.sprMapDegraded (memDie tier f) 0 = 1 := by
  obtain ⟨hpages, hjnl, hadds⟩ := ((s.work.onlyNotes_event (dieSource 1 (memDie tier f)) sNoSpare
    (s.work.retireRecord tier f cause 0)).fence.trans (Work.onlyFence_degrade _ (memDie tier f))).keeps
  refine ⟨_, exec_frameRetire_of_due ht hf hdue (Work.retireFrame_of_no_reserve cause hnew hpage hres),
    State.on_mem_of_no_store hjnl hadds, (State.on_pages ..).trans hpages, ?_, ?_⟩
  · rw [State.on_spr, Work.spr_degrade, Work.spr_event]
    rfl
  · rw [s.rd_on]
    exact Work.degrade_shown ..

/-- With one its page moves there, with its bytes. -/
theorem exec_frameRetire_of_reserve {n : Nat} (hpage : s.work.pageOf tier f = some n) (hres : s.work.reserveLeft tier ≠ []) :
    ∃ t dest, exec (.frameRetire tier f cause) s = .next t ∧
      dest ∈ s.work.reserveLeft tier ∧ dest ∉ t.work.reserveLeft tier ∧ t.work.page n = { s.work.page n with frame := dest } ∧
      t.spr.retired = (tier, f) :: s.spr.retired ∧
      (MemInv s → ∀ o, o < 0x200000 → Memory.get t.mem (frameKey (decide (tier = 1)) dest + o) =
        Memory.get s.mem (frameKey (decide (tier = 1)) f + o)) := by
  obtain ⟨dest, hdest, hv⟩ := Work.retireFrame_of_reserve cause hnew hpage hres
  obtain ⟨hpages, hjnl, hadds, hretired, hused⟩ := s.work.moved_retired tier f n dest cause
  refine ⟨_, dest, exec_frameRetire_of_due ht hf hdue hv, hdest, Work.not_mem_reserveLeft ?_, ?_, ?_, fun hm o ho => ?_⟩
  · rw [State.work_toBlock, State.on_spr, hused]
    exact List.mem_cons_self
  · rw [State.page_on, Work.page, hpages]
    exact Work.page_setPage ..
  · rw [State.on_spr]
    exact hretired
  · rw [State.mem_on_moved hjnl hadds, Memory.get_copy hm ho]

end

/-! ## The patrol (R562, R563) -/

theorem mem_setInsert {l : List Nat} {a b : Nat} : b ∈ setInsert l a ↔ b = a ∨ b ∈ l := by
  induction l with
  | nil => simp [setInsert]
  | cons k m ih =>
    unfold setInsert
    split
    · simp
    · split
      next h => simp [h]
      next => rw [List.mem_cons, List.mem_cons, ih, or_left_comm]

/-- What the patrol finds at one place. -/
def Work.scrubOne (w : Work) (e : Nat × Ecc) : Work := if e.1 < 0x10000000000 then w.scrubRow e.1 e.2 else w

/-- A find that counts for a frame: a corrected word in it. -/
def correctedIn (f : Nat) (e : Nat × Ecc) : Bool :=
  decide (e.1 < 0x10000000000) && decide (e.1 / 0x200000 = f) && decide (e.2 = .corrected)

/-- A find that poisons a row. -/
def PoisonsRow (r : Nat) (e : Nat × Ecc) : Prop := e.2 = .uncorrectable ∧ e.1 < 0x10000000000 ∧ e.1 / 64 = r

/-- Nothing but registers, the watcher's note, the counts of corrected words and of errors, and marks of rows differs. -/
def Work.OnlyScrub (w v : Work) : Prop := ∃ r e x c b k, v = { w with regs := r, evt := e, spr := x, errs := c, bad := b, badWords := k }

theorem Work.OnlyScrub.refl (w : Work) : w.OnlyScrub w := ⟨_, _, _, _, _, _, rfl⟩

theorem Work.OnlyScrub.trans {u v w : Work} (h : u.OnlyScrub v) (k : v.OnlyScrub w) : u.OnlyScrub w := by
  obtain ⟨_, _, _, _, _, _, rfl⟩ := h
  obtain ⟨_, _, _, _, _, _, rfl⟩ := k
  exact ⟨_, _, _, _, _, _, rfl⟩

/-- An address by frame is not one of an engine's memory, so its row is marked as a whole. -/
theorem Work.poisonRow_of_hbm {k : Nat} (hk : k < 0x10000000000) (w : Work) :
    w.poisonRow k = { w with bad := setInsert w.bad (k / 64) } := by
  have hregion : regionOf k = .hbm := if_pos hk
  rw [Work.poisonRow, inMeWindow, hregion]
  rfl

theorem Work.OnlyNotes.scrub {w v : Work} (h : w.OnlyNotes v) : w.OnlyScrub v := by
  obtain ⟨r, e, rfl⟩ := h
  exact ⟨_, _, _, _, _, _, rfl⟩

theorem Work.bad_event (w : Work) (n st detail : Nat) : (w.event n st detail).bad = w.bad := by
  obtain ⟨r, e, h⟩ := w.onlyNotes_event n st detail
  rw [h]

/-- A word that cannot be corrected poisons its row. -/
theorem Work.scrubRow_uncorrectable {k : Nat} (hk : k < 0x10000000000) (w : Work) :
    w.OnlyScrub (w.scrubRow k .uncorrectable) ∧ (w.scrubRow k .uncorrectable).spr = w.spr ∧
      (w.scrubRow k .uncorrectable).bad = setInsert w.bad (k / 64) := by
  unfold Work.scrubRow
  dsimp only
  rw [Work.poisonRow_of_hbm hk, Work.spr_event, Work.bad_event]
  exact ⟨.trans ⟨_, _, _, _, _, _, rfl⟩ (Work.onlyNotes_event ..).scrub, rfl, rfl⟩

/-- A corrected one is counted for its frame. -/
theorem Work.scrubRow_corrected (w : Work) (k : Nat) : w.OnlyScrub (w.scrubRow k .corrected) ∧
    (w.scrubRow k .corrected).spr.pageCe = smSet 0 w.spr.pageCe (k / 0x200000) (smGet 0 w.spr.pageCe (k / 0x200000) + 1) ∧
      (w.scrubRow k .corrected).bad = w.bad := ⟨⟨_, _, _, _, _, _, rfl⟩, rfl, rfl⟩

theorem Work.scrubOne_of_hbm {k : Nat} (hk : k < 0x10000000000) (w : Work) (c : Ecc) : w.scrubOne (k, c) = w.scrubRow k c := if_pos hk

theorem Work.scrubOne_of_other {k : Nat} (hk : ¬ k < 0x10000000000) (w : Work) (c : Ecc) : w.scrubOne (k, c) = w := if_neg hk

/-- What one find does, by its kind. -/
theorem Work.scrubOne_shows (w : Work) (e : Nat × Ecc) : w.OnlyScrub (w.scrubOne e) ∧
    (∀ f, smGet 0 (w.scrubOne e).spr.pageCe f = smGet 0 w.spr.pageCe f + if correctedIn f e then 1 else 0) ∧
    ∀ r, r ∈ (w.scrubOne e).bad ↔ r ∈ w.bad ∨ PoisonsRow r e := by
  obtain ⟨k, c⟩ := e
  by_cases hk : k < 0x10000000000
  · rw [Work.scrubOne_of_hbm hk]
    cases c with
    | clean => exact ⟨.refl w, fun f => by simp [correctedIn, Work.scrubRow], fun r => by simp [PoisonsRow, Work.scrubRow]⟩
    | corrected =>
      obtain ⟨honly, hce, hbad⟩ := w.scrubRow_corrected k
      refine ⟨honly, fun f => ?_, fun r => by simp [hbad, PoisonsRow]⟩
      rw [hce]
      by_cases hf : k / 0x200000 = f
      · subst hf
        rw [smGet_smSet_same, if_pos (by simp [correctedIn, hk])]
      · rw [smGet_smSet_other hf, if_neg (by simp [correctedIn, hf]), Nat.add_zero]
    | uncorrectable =>
      obtain ⟨honly, hspr, hbad⟩ := w.scrubRow_uncorrectable hk
      refine ⟨honly, fun f => by simp [hspr, correctedIn], fun r => ?_⟩
      rw [hbad, mem_setInsert, or_comm]
      simp [PoisonsRow, hk, eq_comm]
  · rw [Work.scrubOne_of_other hk]
    exact ⟨.refl w, fun f => by simp [correctedIn, hk], fun r => by simp [PoisonsRow, hk]⟩

/-- What a whole patrol does: the sum of its finds. -/
theorem Work.scrub_shows (found : List (Nat × Ecc)) (w : Work) : w.OnlyScrub (found.foldl Work.scrubOne w) ∧
    (∀ f, smGet 0 (found.foldl Work.scrubOne w).spr.pageCe f = smGet 0 w.spr.pageCe f + (found.filter (correctedIn f)).length) ∧
    ∀ r, r ∈ (found.foldl Work.scrubOne w).bad ↔ r ∈ w.bad ∨ ∃ e ∈ found, PoisonsRow r e := by
  induction found generalizing w with
  | nil => exact ⟨.refl w, fun f => rfl, fun r => by simp⟩
  | cons e found ih =>
    obtain ⟨honly, hce, hbad⟩ := w.scrubOne_shows e
    obtain ⟨honly', hce', hbad'⟩ := ih (w.scrubOne e)
    rw [List.foldl_cons]
    refine ⟨honly.trans honly', fun f => ?_, fun r => ?_⟩
    · rw [hce', hce, List.filter_cons]
      split
      · rw [List.length_cons]
        omega
      · rfl
    · rw [hbad', hbad]
      simp [or_assoc]

/-! ## Failures without a spare (R558) -/

/-- A plan that is to become FAULTED with a status, if nothing has claimed it before. -/
def Plan.claimed (x : Plan) (st : Nat) : Plan := if x.faulting = 0 then { x with faulting := st } else x

theorem Work.plan_faultPlan {p q : Nat} (hq : q < 16) (w : Work) (st : Nat) :
    (w.faultPlan q st).plan p = if p = q then (w.plan p).claimed st else w.plan p := by
  unfold Work.faultPlan Plan.claimed
  dsimp only
  rw [if_pos hq]
  by_cases hp : p = q
  · subst hp
    rw [if_pos rfl]
    split
    · exact Work.plan_setPlan ..
    · rfl
  · rw [if_neg hp]
    split
    · exact smGet_smSet_other (Ne.symm hp)
    · rfl

/-- Every plan is claimed by the first n of a fatal failure's faults that name it. -/
theorem Work.plan_faultPlans (w : Work) (st : Nat) {p : Nat} (hp : p < 16) :
    ((List.range 16).foldl (fun (w : Work) q => w.faultPlan q st) w).plan p = (w.plan p).claimed st := by
  have h : ∀ n, n ≤ 16 → ((List.range n).foldl (fun (w : Work) q => w.faultPlan q st) w).plan p =
      if p < n then (w.plan p).claimed st else w.plan p := by
    intro n
    induction n with
    | zero => exact fun _ => rfl
    | succ n ih =>
      intro hn
      rw [List.range_succ, List.foldl_append, List.foldl_cons, List.foldl_nil, Work.plan_faultPlan (by omega), ih (by omega)]
      by_cases hpn : p = n
      · rw [if_pos hpn, if_neg (by omega), if_pos (by omega)]
      · rw [if_neg hpn]
        exact if_congr (by omega) rfl rfl
  rw [h 16 le_rfl, if_pos hp]

/-- The block after a fatal failure, before its plans are claimed. -/
def Work.fatal (w : Work) (d : Nat) : Work :=
  let v := ((w.fresh 256).2.event (dieSource 1 d) sNoSpare (w.fresh 256).1).degrade d
  { v with spr := { v.spr with fatal := true } }

theorem exec_fatalFailure {s : State} {d : Nat} (hd : d < 4) (what : FatalUnit) : exec (.fatalFailure d what) s =
    .next (s.on fun w => (List.range 16).foldl (fun (w : Work) p => w.faultPlan p sNoSpare) (w.fatal d)) :=
  State.perform_eq_on (i := .fatalFailure d what) _ (decide_eq_true hd) rfl

theorem Work.fatal_shows (w : Work) (d : Nat) : (w.fatal d).rd F.sprMapDegraded d 0 = 1 ∧ (w.fatal d).spr.fatal = true ∧
    (w.fatal d).plans = w.plans ∧ (w.fatal d).jnl = w.jnl ∧ (w.fatal d).adds = w.adds := by
  obtain ⟨r, e, x, f, h⟩ := ((Work.onlyNotes_event (w.fresh 256).2 (dieSource 1 d) sNoSpare (w.fresh 256).1).fence.trans
    (Work.onlyFence_degrade _ d))
  have hshown := Work.degrade_shown ((w.fresh 256).2.event (dieSource 1 d) sNoSpare (w.fresh 256).1) d
  refine ⟨hshown, rfl, ?_⟩
  unfold Work.fatal
  rw [h]
  exact ⟨rfl, rfl, rfl⟩

/-- Faults of plans change only plans. -/
theorem Work.faultPlans_only (w : Work) (st : Nat) (l : List Nat) :
    ∃ ps, l.foldl (fun (w : Work) p => w.faultPlan p st) w = { w with plans := ps } := by
  induction l generalizing w with
  | nil => exact ⟨w.plans, rfl⟩
  | cons p l ih =>
    obtain ⟨ps, h⟩ := w.faultPlan_only p st
    obtain ⟨ps', h'⟩ := ih (w.faultPlan p st)
    exact ⟨ps', by rw [List.foldl_cons, h', h]⟩

/-- A fatal failure marks its die, and claims every plan. -/
theorem exec_fatalFailure_shows {s : State} {d : Nat} (hd : d < 4) (what : FatalUnit) : ∃ t, exec (.fatalFailure d what) s = .next t ∧
    t.mem = s.mem ∧ t.spr.fatal = true ∧ t.work.rd F.sprMapDegraded d 0 = 1 ∧
    ∀ p, p < 16 → t.work.plan p = (s.work.faultPlan p sNoSpare).plan p := by
  obtain ⟨hshown, hfatal, hplans, hjnl, hadds⟩ := s.work.fatal_shows d
  obtain ⟨ps, honly⟩ := (s.work.fatal d).faultPlans_only sNoSpare (List.range 16)
  refine ⟨_, exec_fatalFailure hd what, State.on_mem_of_no_store (by rw [honly]; exact hjnl) (by rw [honly]; exact hadds), ?_, ?_,
    fun p hp => ?_⟩
  · rw [State.on_spr, honly]
    exact hfatal
  · rw [s.rd_on, honly]
    exact hshown
  · have hplan : (s.work.fatal d).plan p = s.work.plan p := by rw [Work.plan, hplans, Work.plan]
    rw [Work.plan_faultPlan hp, if_pos rfl, ← hplan, ← Work.plan_faultPlans _ _ hp, Work.plan, State.work_toBlock, State.on_plans,
      Work.plan]

/-- Settles O60: a retirement by whether its cause holds, the frame has a page, and a reserve is left; the patrol find by find;
a fatal failure plan by plan. That the die of the memory is degraded for want of a reserve frame, and that a fatal failure
claims every plan with NO_SPARE, is the model's reading (log entry 137), as is the choice of the reserve frame (log entry 136). -/
theorem memoryRetiredAndFatalFailures : Obligations.MemoryRetiredAndFatalFailures := by
  unfold Obligations.MemoryRetiredAndFatalFailures
  refine ⟨fun s tier f cause ht hf => ⟨fun h => ?_, fun hdue hnew => ⟨exec_frameRetire_of_no_page ht hf hdue hnew,
    fun n => exec_frameRetire_of_no_reserve ht hf hdue hnew, fun n => exec_frameRetire_of_reserve ht hf hdue hnew⟩⟩,
    fun s found => ?_, fun s d what hd => exec_fatalFailure_shows hd what⟩
  · by_cases hdue : s.work.RetireDue tier f cause
    · exact (exec_frameRetire_of_due ht hf hdue (Work.retireFrame_of_retired cause (h.resolve_left (not_not_intro hdue)))).trans
        (congrArg _ (State.on_unchanged rfl))
    · exact exec_frameRetire_of_not_due ht hf hdue
  · obtain ⟨⟨r, e, x, c, b, k, honly⟩, hce, hbad⟩ := Work.scrub_shows found { s.work with spr := { s.work.spr with pageCe := [] } }
    have hexec : exec (.hbmScrub found) s =
        .next (s.on fun w => found.foldl Work.scrubOne { w with spr := { w.spr with pageCe := [] } }) :=
      State.perform_eq_on (i := .hbmScrub found) _ rfl rfl
    refine ⟨_, hexec, State.on_mem_of_no_store (by rw [honly]; rfl) (by rw [honly]; rfl), fun f => ?_, fun r => ?_⟩
    · rw [State.on_spr, hce]
      exact Nat.zero_add _
    · rw [State.on_bad, hbad]
      refine or_congr Iff.rfl ⟨?_, ?_⟩
      · rintro ⟨⟨k, c⟩, hmem, rfl, hk, hr⟩
        exact ⟨k, hmem, hk, hr⟩
      · rintro ⟨k, hmem, hk, hr⟩
        exact ⟨(k, .uncorrectable), hmem, rfl, hk, hr⟩

end Sys2Proof.Machine

/-! Units that are fenced take a spare, or are lost without one (chapter 20: R547, R548, R554, R555, R597). -/

namespace Sys2Proof.Machine

/-! ## Operations that leave the fencing state of the device as it is

`spr` holds the spares, the unit map and the fencing state of each unit; what a fence takes away from a unit passes through
many operations, and none of them but the fence itself and the journal of calls writes there. -/

section
variable (w : Work)

@[simp] theorem Work.spr_wr (f : Fld) (d i v : Nat) : (w.wr f d i v).spr = w.spr := rfl
@[simp] theorem Work.spr_bumpSat (f : Fld) (d i : Nat) : (w.bumpSat f d i).spr = w.spr := rfl
@[simp] theorem Work.spr_fresh (n : Nat) : (w.fresh n).2.spr = w.spr := rfl
@[simp] theorem Work.spr_setCore (d g : Nat) (x : Core) : (w.setCore d g x).spr = w.spr := rfl
@[simp] theorem Work.spr_setCtx (d c : Nat) (x : Ctx) : (w.setCtx d c x).spr = w.spr := rfl
@[simp] theorem Work.spr_setDisp (d : Nat) (x : Disp) : (w.setDisp d x).spr = w.spr := rfl
@[simp] theorem Work.spr_setMe (d m : Nat) (x : Me) : (w.setMe d m x).spr = w.spr := rfl
@[simp] theorem Work.spr_setBar (b : Nat) (x : Barrier) : (w.setBar b x).spr = w.spr := rfl
@[simp] theorem Work.spr_setChain (d g : Nat) (x : Option Chain) : (w.setChain d g x).spr = w.spr := rfl
@[simp] theorem Work.spr_setCodec (d : Nat) (press : Bool) (x : Codec) : (w.setCodec d press x).spr = w.spr := rfl
@[simp] theorem Work.spr_setRejects (d g : Nat) (l : List Rej) : (w.setRejects d g l).spr = w.spr := rfl
@[simp] theorem Work.spr_setPipe (q : Nat) (x : Pipe) : (w.setPipe q x).spr = w.spr := rfl
@[simp] theorem Work.spr_callReturn (d g st : Nat) (n : Option Nat) : (w.callReturn d g st n).spr = w.spr := rfl
@[simp] theorem Work.spr_enterUser (d g e a0 a1 a2 : Nat) : (w.enterUser d g e a0 a1 a2).spr = w.spr := rfl

theorem Work.spr_foldl {β : Type} {f : Work → β → Work} (h : ∀ w x, (f w x).spr = w.spr) (l : List β) :
    (l.foldl f w).spr = w.spr :=
  foldl_keeps (R := fun u v : Work => v.spr = u.spr) (fun _ => rfl) (fun h h' => h'.trans h) h l w

@[simp] theorem Work.spr_write (a : Nat) (bs : List Byte) : (w.write a bs).spr = w.spr := by
  obtain ⟨j, h, x, hw⟩ := w.onlyBytes_write a bs
  rw [hw]

theorem Work.OnlyCallEnd.spr {w v : Work} (h : w.OnlyCallEnd v) : v.spr = w.spr := by
  obtain ⟨_, _, _, _, _, _, _, _, _, rfl⟩ := h
  rfl

@[simp] theorem Work.spr_completion (d p a n : Nat) (bs : List Byte) : (w.completion d p a n bs).spr = w.spr :=
  (w.onlyCallEnd_completion d p a n bs).spr

@[simp] theorem Work.spr_jobEnd (d : Nat) (press : Bool) (j : Job) (e : JobEnd) : (w.jobEnd d press j e).spr = w.spr :=
  (w.onlyCallEnd_jobEnd d press j e).spr

@[simp] theorem Work.spr_startJobs (d : Nat) (press : Bool) : (w.startJobs d press).spr = w.spr := by
  obtain ⟨⟨c, hc⟩, -, -⟩ := w.onlyStarts_startJobs d press
  rw [hc]

@[simp] theorem Work.spr_finish (f : Flight) : (w.finish f).spr = w.spr := by
  have htap : ∀ v : Work, (v.tapDone f.iss).spr = v.spr := fun v => by
    unfold Work.tapDone
    split <;> rfl
  exact (htap _).trans (w.spr_completion ..)

/-! ### The dispatcher -/

@[simp] theorem Work.spr_trace (d what : Nat) (t : Task) (u st n : Nat) : (w.trace d what t u st n).spr = w.spr := by
  unfold Work.trace
  dsimp only
  split
  · rfl
  · split
    · exact (Work.spr_wr ..).trans (w.spr_write ..)
    · exact w.spr_bumpSat ..

@[simp] theorem Work.spr_fillSlots (d : Nat) : (w.fillSlots d).spr = w.spr := by
  unfold Work.fillSlots
  split
  · rfl
  · refine w.spr_foldl (fun v t => ?_) _
    split
    · split
      · exact Work.spr_trace ..
      · rfl
    · rfl

@[simp] theorem Work.spr_refresh (d : Nat) : (w.refresh d).spr = w.spr := Work.spr_fillSlots ..

@[simp] theorem Work.spr_refreshAll : w.refreshAll.spr = w.spr := w.spr_foldl Work.spr_refresh _

@[simp] theorem Work.spr_unslot (d u : Nat) : (w.unslot d u).spr = w.spr := by
  unfold Work.unslot
  dsimp only
  split <;> rfl

@[simp] theorem Work.spr_countOver (d : Nat) (t : Task) : (w.countOver d t).spr = w.spr := by
  unfold Work.countOver
  split <;> rfl

@[simp] theorem Work.spr_taskDone (d u : Nat) (t : Task) (st : Nat) : (w.taskDone d u t st).spr = w.spr := by
  rw [Work.taskDone, Work.spr_refresh, Work.spr_setDisp, Work.spr_trace, Work.spr_countOver, Work.spr_completion]

/-! ### Barriers, streams and chains -/

@[simp] theorem Work.spr_arriveBar (b : Nat) (who : Ident) (fl : Option Flight) : (w.arriveBar b who fl).spr = w.spr := by
  unfold Work.arriveBar
  dsimp only
  split
  · rfl
  · split
    · rw [Work.spr_refreshAll, Work.spr_foldl _ Work.spr_finish]
      rfl
    · rfl

@[simp] theorem Work.spr_chainEnd (d g : Nat) (x : Chain) : (w.chainEnd d g x).spr = w.spr := by
  unfold Work.chainEnd
  dsimp only
  split
  · simp
  · split <;> simp

@[simp] theorem Work.spr_chainCall (d g : Nat) : (w.chainCall d g).spr = w.spr := by
  unfold Work.chainCall
  split
  · rfl
  · split <;> rfl

@[simp] theorem Work.spr_chainStreamEnd (key st : Nat) : (w.chainStreamEnd key st).spr = w.spr := by
  have hgo : ∀ (p : Prop) [Decidable p] (d g : Nat) (x : Chain),
      (if p then w.chainEnd d g x else (w.setChain d g (some x)).chainCall d g).spr = w.spr := fun p _ d g x => by
    split
    · exact w.spr_chainEnd d g x
    · exact Work.spr_chainCall ..
  unfold Work.chainStreamEnd
  dsimp only
  split
  · rfl
  · exact hgo ..

/-- A drained stream arrives, writes its completion and frees its context. -/
def Work.streamDone (w : Work) (d c st : Nat) : Work :=
  let x := w.ctx d c
  let h := StrmHdr.ofBytes x.desc
  ((if x.noArrive then w else w.arriveBar h.barrier (.stream d h.tag) none).completion d x.plan (max 1 h.comp) 16
    (compRecord st h.tag (min x.done (2 ^ 32 - 1)) x.halts x.poison)).setCtx d c Ctx.atReset

@[simp] theorem Work.spr_streamDone (d c st : Nat) : (w.streamDone d c st).spr = w.spr := by
  rw [Work.streamDone, Work.spr_setCtx, Work.spr_completion]
  split
  · rfl
  · exact w.spr_arriveBar ..

/-- The task of a stream that is done, which its die lists by its serial number, completes. -/
def Work.streamTaskDone (w : Work) (d : Nat) (task : Option Nat) (st : Nat) : Work :=
  match task with
  | some sr =>
    (match (w.disp d).streams.find? (fun t => t.serial = sr) with
    | some t => w.taskDone d 127 t st
    | none => w)
  | none => w

@[simp] theorem Work.spr_streamTaskDone (d : Nat) (task : Option Nat) (st : Nat) : (w.streamTaskDone d task st).spr = w.spr := by
  unfold Work.streamTaskDone
  split
  · split
    · exact w.spr_taskDone ..
    · rfl
  · rfl

/-- The chain of a stream that is done, if it has one, goes on. -/
def Work.chainGoesOn (w : Work) (chain : Option Nat) (st : Nat) : Work :=
  match chain with
  | some key => w.chainStreamEnd key st
  | none => w

@[simp] theorem Work.spr_chainGoesOn (chain : Option Nat) (st : Nat) : (w.chainGoesOn chain st).spr = w.spr := by
  cases chain with
  | none => rfl
  | some key => exact w.spr_chainStreamEnd key st

/-- The status with which a stream ends. -/
def Ctx.endStatus (x : Ctx) : Nat :=
  lowest ((if x.status = sOk then [] else [x.status]) ++ (if x.poison = 0 then [] else [sCheck]))

theorem Work.streamFinish_eq (d c : Nat) : w.streamFinish d c =
    if (w.ctx d c).st = .drain ∧ (w.ctx d c).emits = [] then
      ((w.streamDone d c (w.ctx d c).endStatus).streamTaskDone d (w.ctx d c).task (w.ctx d c).endStatus).chainGoesOn
        (w.ctx d c).chain (w.ctx d c).endStatus
    else w := rfl

@[simp] theorem Work.spr_streamFinish (d c : Nat) : (w.streamFinish d c).spr = w.spr := by
  rw [Work.streamFinish_eq]
  split
  · simp
  · rfl

@[simp] theorem Work.spr_streamStop (d c : Nat) (noArrive : Bool) : (w.streamStop d c noArrive).spr = w.spr := by
  unfold Work.streamStop
  dsimp only
  split
  · rfl
  · rfl
  · exact Work.spr_streamFinish ..

/-! ### Jobs that wait for room -/

@[simp] theorem Work.spr_jobEntered (d : Nat) (j : Job) (st : Nat) : (w.jobEntered d j st).spr = w.spr := by
  unfold Work.jobEntered
  split
  · split <;> rfl
  · rfl

@[simp] theorem Work.spr_acceptJob (d : Nat) (press : Bool) (j : Job) : (w.acceptJob d press j).spr = w.spr := by
  by_cases h : (w.jobChecks j.plan (JobRec.ofRec j.rec_) press).2.2 = [] ∧ (w.codec d press).out.length ≠ laneCount press
  · rw [Work.acceptJob_of_passes rfl h.1 h.2]
    simp
  · have hdrawn : (if press then w.fresh 32 else (crc32c [], w)).2.spr = w.spr := by split <;> rfl
    rw [Work.acceptJob_of_fails rfl rfl (by tauto)]
    simp [hdrawn]

@[simp] theorem Work.spr_unblockJobs (d : Nat) (press : Bool) (n : Nat) : (w.unblockJobs d press n).spr = w.spr := by
  induction n generalizing w with
  | zero => rfl
  | succ n ih =>
    unfold Work.unblockJobs
    dsimp only
    split
    · split
      · simp [ih]
      · rfl
    · rfl

@[simp] theorem Work.spr_unblockDie (d : Nat) : (w.unblockDie d).spr = w.spr :=
  w.spr_foldl (fun v press => v.spr_unblockJobs d press _) _

/-! ### What a fenced unit served -/

@[simp] theorem Work.spr_fenceChain (d g : Nat) : (w.fenceChain d g).spr = w.spr := by
  unfold Work.fenceChain
  split
  · rfl
  · dsimp only
    rw [Work.spr_foldl, Work.spr_setChain]
    intro v c
    split
    · exact Work.spr_streamStop ..
    · rfl

@[simp] theorem Work.spr_stopRing (d m : Nat) : (w.stopRing d m).spr = w.spr := by
  refine w.spr_foldl (fun v k => ?_) _
  dsimp only
  split <;> rfl

@[simp] theorem Work.spr_stopStreams (d u : Nat) : (w.stopStreams d u).spr = w.spr := by
  unfold Work.stopStreams
  dsimp only
  refine w.spr_foldl (fun v k => ?_) _
  split
  · exact Work.spr_streamStop ..
  · rfl

end

/-! ## What a fence takes away (R548) -/

/-- The fencing states of the units, and the spares, are as they were; the journal of calls may differ. -/
def Work.KeepsSpares (w v : Work) : Prop := v.spr.units = w.spr.units ∧ v.spr.spares = w.spr.spares

theorem Work.KeepsSpares.refl (w : Work) : w.KeepsSpares w := ⟨rfl, rfl⟩

theorem Work.KeepsSpares.trans {u v w : Work} (h : u.KeepsSpares v) (k : v.KeepsSpares w) : u.KeepsSpares w :=
  ⟨k.1.trans h.1, k.2.trans h.2⟩

theorem Work.keepsSpares_of_spr {w v : Work} (h : v.spr = w.spr) : w.KeepsSpares v := by
  rw [Work.KeepsSpares, h]
  exact ⟨rfl, rfl⟩

theorem Work.KeepsSpares.unitSt {w v : Work} (h : w.KeepsSpares v) (d u : Nat) : v.unitSt d u = w.unitSt d u := by
  rw [Work.unitSt, h.1]
  rfl

theorem Work.KeepsSpares.spareList {w v : Work} (h : w.KeepsSpares v) (kind d : Nat) : v.spareList kind d = w.spareList kind d := by
  rw [Work.spareList, h.2]
  rfl

section
variable (w : Work) (d : Nat)

theorem Work.spr_takeWaiter (k : Nat) : (w.takeWaiter k).2.spr = w.spr := by
  unfold Work.takeWaiter
  split <;> rfl

/-- Only the journal notes where a waiting EMIT had got to. -/
theorem Work.keepsSpares_fenceEmit (g : Nat) : w.KeepsSpares (w.fenceEmit d g) := by
  have htaken := w.spr_takeWaiter (d * 96 + g)
  unfold Work.fenceEmit
  split
  next c v h =>
    rw [h] at htaken
    split
    · exact (Work.keepsSpares_of_spr htaken).trans ⟨rfl, rfl⟩
    · exact Work.keepsSpares_of_spr htaken
  next v h =>
    rw [h] at htaken
    exact Work.keepsSpares_of_spr htaken

theorem Work.keepsSpares_releaseCore (g : Nat) : w.KeepsSpares (w.releaseCore d g) := by
  refine (w.keepsSpares_fenceEmit d g).trans (Work.keepsSpares_of_spr ?_)
  rw [Work.releaseCore, Work.spr_unblockDie, Work.spr_setCodec, Work.spr_setCodec]
  exact Work.spr_fenceChain ..

theorem Work.keepsSpares_stopCore (g : Nat) : w.KeepsSpares (w.stopCore d g) :=
  (w.keepsSpares_releaseCore d g).trans
    (Work.keepsSpares_of_spr (by rw [Work.stopCore, Work.spr_setCore, Work.spr_setRejects]))

theorem Work.keepsSpares_stopChain (g : Nat) (x : Chain) : w.KeepsSpares (w.stopChain d g x) := by
  refine (w.keepsSpares_releaseCore d g).trans (Work.keepsSpares_of_spr ?_)
  have hcalled : ∀ (v : Work) (c : Core), (if x.called then v.setCore d g c else v).spr = v.spr := fun v c => by split <;> rfl
  unfold Work.stopChain
  dsimp only
  split
  · rw [Work.spr_finish, Work.spr_fresh, Work.spr_fresh, hcalled]
  · rw [Work.spr_refresh, Work.spr_setDisp, hcalled]

theorem Work.keepsSpares_stopChains (u : Nat) : w.KeepsSpares (w.stopChains d u) := by
  unfold Work.stopChains
  exact foldl_keeps (R := Work.KeepsSpares) .refl .trans (fun v e => v.keepsSpares_stopChain ..) _ w

end

/-! ## A unit fenced (R548, R554) -/

/-- The kind of unit u of a die, and its number in its kind. -/
def kindOf (u : Nat) : Nat := if u < 96 then kGc else kMe
@[inherit_doc kindOf] def numberOf (u : Nat) : Nat := if u < 96 then u else u - 96

/-- The unit is marked as fenced: what it was running past its budget is counted, and the tasks to issue again are kept. -/
def Work.unitMarked (w : Work) (d u cause : Nat) : Work :=
  let v := (unitGet (w.disp d).run u).foldl (fun (w : Work) t => w.countOver d t) w
  v.setUnitSt d u { v.unitSt d u with fenced := true, cause := cause, lost := !!(w.spareList (kindOf u) d).isEmpty,
                                      again := w.againFor d u }

/-- The dispatcher holds nothing for the unit any more. -/
def Work.unitEmptied (w : Work) (d u : Nat) : Work :=
  (w.setDisp d { w.disp d with run := unitSet (w.disp d).run u [], past := unitSet (w.disp d).past u [] }).unslot d u

/-- The unit stops, and with it the chains and the streams that served it. -/
def Work.unitStopped (w : Work) (d u : Nat) : Work :=
  let v := if u < 96 then w.stopCore d u else (w.stopRing d (numberOf u)).setMe d (numberOf u) Me.atReset
  (((v.unitEmptied d u).stopChains d u).stopStreams d u).refresh d

section
variable (w : Work) (d u cause : Nat)

theorem Work.fenceUnit_out_of_service (h : w.unitInService d u = false) : w.fenceUnit d u cause = w := by
  rw [Work.fenceUnit, h]
  rfl

theorem Work.fenceUnit_in_service (h : w.unitInService d u = true) : w.fenceUnit d u cause =
    if (w.spareList (kindOf u) d).isEmpty then
      (((w.unitMarked d u cause).unitStopped d u).noSpare (kindOf u) d (numberOf u) cause (w.callsInProgress d u)).degrade d
    else ((w.unitMarked d u cause).unitStopped d u).fenceToSpare (kindOf u) d (numberOf u) cause (w.callsInProgress d u) := by
  have hswap : ∀ (b : Bool) (x y : Work), (if !b then x else y) = if b then y else x := by simp
  rw [Work.fenceUnit, if_neg (by simp [h])]
  exact hswap ..

/-- What is fenced shows it; the spares, until one is taken, are as they were. -/
theorem Work.unitMarked_shows :
    ((w.unitMarked d u cause).unitSt d u).fenced = true ∧ ((w.unitMarked d u cause).unitSt d u).cause = cause ∧
    ((w.unitMarked d u cause).unitSt d u).lost = (w.spareList (kindOf u) d).isEmpty ∧
    (w.unitMarked d u cause).spareList (kindOf u) d = w.spareList (kindOf u) d := by
  have hcounted := w.spr_foldl (fun v t => v.spr_countOver d t) (unitGet (w.disp d).run u)
  refine ⟨?_, ?_, ?_, (Work.keepsSpares_of_spr hcounted).spareList _ _⟩ <;>
    simp [Work.unitMarked, Work.unitSt, Work.setUnitSt]

theorem Work.keepsSpares_unitStopped : w.KeepsSpares (w.unitStopped d u) := by
  have hunit : w.KeepsSpares (if u < 96 then w.stopCore d u else (w.stopRing d (numberOf u)).setMe d (numberOf u) Me.atReset) := by
    split
    · exact w.keepsSpares_stopCore d u
    · exact Work.keepsSpares_of_spr (w.spr_stopRing d _)
  have hemptied : ∀ v : Work, v.KeepsSpares (v.unitEmptied d u) := fun v => Work.keepsSpares_of_spr (Work.spr_unslot ..)
  have hstreams : ∀ v : Work, v.KeepsSpares ((v.stopStreams d u).refresh d) := fun v =>
    Work.keepsSpares_of_spr ((Work.spr_refresh ..).trans (v.spr_stopStreams d u))
  exact ((hunit.trans (hemptied _)).trans (Work.keepsSpares_stopChains _ d u)).trans (hstreams _)

end

/-! ## Taking a spare (R545, R546) -/

section
variable (w : Work) (kind d n cause part : Nat)

@[simp] theorem Work.spr_showSpares : (w.showSpares kind d n).spr = w.spr := by
  unfold Work.showSpares
  split <;> rfl

theorem Work.spareList_setSpares (l : List Nat) : (w.setSpares kind d l).spareList kind d = l := by
  rw [Work.spareList, Work.setSpares, Work.spr_showSpares]
  dsimp only
  rw [List.find?_cons_of_pos (by simp)]

theorem Work.keepsSpares_logFence (r : Nat) : w.KeepsSpares (w.logFence r) := by
  obtain ⟨n, held, un, h⟩ := w.spr_logFence r
  rw [Work.KeepsSpares, h]
  exact ⟨rfl, rfl⟩

/-- A unit that no spare replaces takes none. -/
theorem Work.keepsSpares_noSpare : w.KeepsSpares (w.noSpare kind d n cause part) := by
  obtain ⟨r, hr⟩ : ∃ r, w.noSpare kind d n cause part =
      ((w.logFence r).bump F.sprMapFenced d 0).event (dieSource 1 d) sNoSpare r := ⟨_, rfl⟩
  rw [hr]
  exact (w.keepsSpares_logFence r).trans (Work.keepsSpares_of_spr (Work.spr_event ..))

/-- The map with a spare taken. -/
def Work.spareTaken (w : Work) (kind d n sp : Nat) (rest : List Nat) : Work := (w.setSpares kind d rest).bind kind d n sp

theorem Work.fenceToSpare_of_spare {sp : Nat} {rest : List Nat} (h : w.spareList kind d = sp :: rest) :
    ∃ r, w.fenceToSpare kind d n cause part =
      (((w.spareTaken kind d n sp rest).logFence r).bump F.sprMapFenced d 0).event (dieSource 0 d) sFenced r := by
  rw [Work.fenceToSpare, h]
  exact ⟨_, rfl⟩

/-- A unit that a spare replaces takes the first, and no unit's fencing state changes. -/
theorem Work.fenceToSpare_takes {sp : Nat} {rest : List Nat} (h : w.spareList kind d = sp :: rest) :
    (w.fenceToSpare kind d n cause part).spareList kind d = rest ∧
    ∀ e u, (w.fenceToSpare kind d n cause part).unitSt e u = w.unitSt e u := by
  obtain ⟨r, hr⟩ := w.fenceToSpare_of_spare kind d n cause part h
  have hkept : (w.spareTaken kind d n sp rest).KeepsSpares (w.fenceToSpare kind d n cause part) := by
    refine (Work.keepsSpares_logFence _ r).trans (Work.keepsSpares_of_spr ?_)
    rw [hr, Work.spr_event, Work.spr_bump]
  refine ⟨(hkept.spareList ..).trans (w.spareList_setSpares kind d rest), fun e u => (hkept.unitSt e u).trans ?_⟩
  have hunits : (w.spareTaken kind d n sp rest).spr.units = w.spr.units := by
    show ((w.setSpares kind d rest).spr.units) = _
    rw [Work.setSpares, Work.spr_showSpares]
  rw [Work.unitSt, hunits]
  rfl

end

/-- What a fence leaves: the unit fenced for its cause, lost where its kind had no spare, and the first spare taken. -/
structure Work.Fenced (w : Work) (d u cause : Nat) (v : Work) : Prop where
  fenced : (v.unitSt d u).fenced = true
  cause : (v.unitSt d u).cause = cause
  lost : (v.unitSt d u).lost = (w.spareList (kindOf u) d).isEmpty
  spares : v.spareList (kindOf u) d = (w.spareList (kindOf u) d).drop 1

theorem Work.fenced_fenceUnit (w : Work) (d u cause : Nat) (h : w.unitInService d u = true) :
    w.Fenced d u cause (w.fenceUnit d u cause) := by
  obtain ⟨hfenced, hcause, hlost, hspares⟩ := w.unitMarked_shows d u cause
  have hstopped := (w.unitMarked d u cause).keepsSpares_unitStopped d u
  have hleft := (hstopped.spareList (kindOf u) d).trans hspares
  rw [← hstopped.unitSt] at hfenced hcause hlost
  rw [w.fenceUnit_in_service d u cause h]
  cases hl : w.spareList (kindOf u) d with
  | nil =>
    rw [List.isEmpty_nil, if_pos rfl]
    have hkept := (((w.unitMarked d u cause).unitStopped d u).keepsSpares_noSpare (kindOf u) d (numberOf u) cause
      (w.callsInProgress d u)).trans (Work.keepsSpares_of_spr (Work.spr_degrade _ d))
    rw [← hkept.unitSt] at hfenced hcause hlost
    exact ⟨hfenced, hcause, hlost, ((hkept.spareList ..).trans hleft).trans (by rw [hl]; rfl)⟩
  | cons sp rest =>
    rw [List.isEmpty_cons, if_neg Bool.false_ne_true]
    obtain ⟨hrest, hunits⟩ := ((w.unitMarked d u cause).unitStopped d u).fenceToSpare_takes (kindOf u) d (numberOf u) cause
      (w.callsInProgress d u) (hleft.trans hl)
    rw [← hunits] at hfenced hcause hlost
    exact ⟨hfenced, hcause, hlost, hrest.trans (by rw [hl]; rfl)⟩

/-! ## The commands that fence a core or an engine (R547) -/

theorem Work.Fenced.of_spr {w v v' : Work} {d u cause : Nat} (h : w.Fenced d u cause v) (hspr : v'.spr = v.spr) :
    w.Fenced d u cause v' := by
  have hkept := Work.keepsSpares_of_spr hspr
  refine ⟨?_, ?_, ?_, (hkept.spareList ..).trans h.spares⟩ <;> rw [hkept.unitSt]
  exacts [h.fenced, h.cause, h.lost]

/-- The cause for which firmware fences a unit holds. -/
def Work.FenceDue (w : Work) (d u cause : Nat) : Prop :=
  (cause = 1 ∧ 2 ≤ (w.unitSt d u).ues.length) ∨
    (cause = 2 ∧ w.dv F.errCfgLmCeLimit ≠ 0 ∧ w.dv F.errCfgLmCeLimit < (w.unitSt d u).ces) ∨ cause = 3 ∨
    (cause = 4 ∧ w.canHang d u = true) ∨ cause = 5

/-- The same as the model tests it, cause by cause. -/
def Work.fenceTest (w : Work) (d u cause : Nat) : Bool :=
  if cause = 1 then decide (2 ≤ (w.unitSt d u).ues.length)
  else if cause = 2 then decide (w.dv F.errCfgLmCeLimit ≠ 0) && decide (w.dv F.errCfgLmCeLimit < (w.unitSt d u).ces)
  else if cause = 4 then w.canHang d u
  else decide (cause = 3) || decide (cause = 5)

theorem Work.fenceTest_iff (w : Work) (d u cause : Nat) : w.fenceTest d u cause = true ↔ w.FenceDue d u cause := by
  unfold Work.fenceTest Work.FenceDue
  split
  next h => simp [h]
  next h1 =>
    split
    next h => simp [h]
    next h2 =>
      split
      next h => simp [h]
      next h4 => simp [h1, h2, h4]

section
variable {s : State} {d u cause : Nat} (hd : d < 4) (hu : u < 120)
include hd hu

theorem exec_hangDetect : exec (.hangDetect d u) s =
    .next (s.on fun w => if w.canHang d u then w.fenceUnit d u 4 else w) := by
  have hwf : (Instr.hangDetect d u).wf = true := by simp [Instr.wf, hd, hu]
  exact State.perform_wf hwf

theorem exec_unitFence : exec (.unitFence d u cause) s =
    .next (s.on fun w => if w.fenceTest d u cause then w.fenceUnit d u cause else w) := by
  have hwf : (Instr.unitFence d u cause).wf = true := by simp [Instr.wf, hd, hu]
  refine State.perform_eq_on (i := .unitFence d u cause) _ hwf ?_
  match cause with
  | 0 | 1 | 2 | 3 | 4 | 5 | _ + 6 => rfl

end

/-- A command that fences a unit in service when its cause holds. -/
theorem State.fenced_of_due {s : State} {i : Instr} {d u cause : Nat} {test : Work → Bool}
    (hi : exec i s = .next (s.on fun w => if test w then w.fenceUnit d u cause else w))
    (hs : s.work.unitInService d u = true) (hb : test s.work = true) :
    ∃ t, exec i s = .next t ∧ s.work.Fenced d u cause t.work := by
  refine ⟨_, hi, (s.work.fenced_fenceUnit d u cause hs).of_spr ?_⟩
  rw [State.work_toBlock, State.on_spr, if_pos hb]

/-- One that meets a unit out of service, or whose cause does not hold, does nothing. -/
theorem State.not_fenced {s : State} {i : Instr} {d u cause : Nat} {test : Work → Bool}
    (hi : exec i s = .next (s.on fun w => if test w then w.fenceUnit d u cause else w))
    (h : s.work.unitInService d u = false ∨ ¬ test s.work = true) : exec i s = .next s := by
  have hsame : (if test s.work then s.work.fenceUnit d u cause else s.work) = s.work := by
    rcases h with hs | ht
    · rw [s.work.fenceUnit_out_of_service d u cause hs, ite_self]
    · exact if_neg ht
  exact hi.trans (congrArg _ (State.on_unchanged hsame))

/-! ## SPR_FENCE (R547) -/

theorem Work.sprFenceWrite_out_of_range {w : Work} {v : Nat} (h : fenceIds (fieldOf v 0 4) ≤ fieldOf v 6 10) :
    (w.sprFenceWrite v).2 = w.wr F.sprLogLastStatus 0 0 sRange := congrArg Prod.snd (if_pos h)

section
variable {w : Work} {v : Nat} (h : fieldOf v 6 10 < fenceIds (fieldOf v 0 4))
include h

theorem Work.sprFenceWrite_of_none (hf : w.fenceNamed (fieldOf v 0 4) (fieldOf v 4 2) (fieldOf v 6 10) = none) :
    (w.sprFenceWrite v).2 = w.wr F.sprLogLastStatus 0 0 sState := by
  rw [Work.sprFenceWrite, if_neg (by omega), hf]

theorem Work.sprFenceWrite_of_some {x : Work} (hf : w.fenceNamed (fieldOf v 0 4) (fieldOf v 4 2) (fieldOf v 6 10) = some x) :
    (w.sprFenceWrite v).2 = x.wr F.sprLogLastStatus 0 0 sOk := by
  rw [Work.sprFenceWrite, if_neg (by omega), hf]

end

/-- The command leaves its status in SPR_LOG. -/
theorem exec_sprFence {s : State} {b : Requester} {v : BitVec 64} {x : Work} {st : Nat} (hb : b.wf = true)
    (h : (s.work.sprFenceWrite v.toNat).2 = x.wr F.sprLogLastStatus 0 0 st) :
    exec (.sprFence b v) s = .next (s.on fun _ => x.wr F.sprLogLastStatus 0 0 st) :=
  State.perform_eq_on (i := .sprFence b v) _ hb h

theorem State.sprLog_on (s : State) (x : Work) (st : Nat) :
    (s.on fun _ => x.wr F.sprLogLastStatus 0 0 st).work.dv F.sprLogLastStatus = st % 2 ^ F.sprLogLastStatus.w :=
  (State.rd_on ..).trans (Work.rd_wr_same ..)

/-- One that fences nothing stores nothing, and the spares stay. -/
theorem exec_sprFence_refused {s : State} {b : Requester} {v : BitVec 64} {st : Nat} (hb : b.wf = true)
    (h : (s.work.sprFenceWrite v.toNat).2 = s.work.wr F.sprLogLastStatus 0 0 st) :
    ∃ t, exec (.sprFence b v) s = .next t ∧ t.mem = s.mem ∧ t.spr = s.spr ∧
      t.work.dv F.sprLogLastStatus = st % 2 ^ F.sprLogLastStatus.w :=
  ⟨_, exec_sprFence hb h, State.on_mem_of_no_store rfl rfl, State.on_spr .., s.sprLog_on ..⟩

/-! ## A management core fails (R555, R597) -/

@[simp] theorem Work.spr_mcReplay (w : Work) (n : Nat) (held : List Nat) : (w.mcReplay n held).spr = w.spr := by
  unfold Work.mcReplay
  dsimp only
  rw [Work.spr_foldl, Work.spr_foldl]
  · rfl
  · exact fun _ _ => rfl
  · exact fun _ _ => rfl

/-- A management core that no spare replaces is listed as lost. -/
def Work.mcLostAt (w : Work) (n : Nat) : Work := { w with spr := { w.spr with mcLost := setInsert w.spr.mcLost n } }

section
variable (w : Work) (n cause : Nat)

theorem Work.fenceMc_of_lost (h : w.mcServes n = false) : w.fenceMc n cause = w := by
  rw [Work.fenceMc, h]
  rfl

theorem Work.fenceMc_of_spare (h : w.mcServes n = true) (hs : (w.spareList kMc 0).isEmpty = false) :
    w.fenceMc n cause = (w.fenceToSpare kMc 0 n cause 0).mcReplay n (w.heldFor n) := by
  rw [Work.fenceMc, if_neg (by simp [h])]
  exact if_neg (by simp [hs])

theorem Work.fenceMc_of_no_spare (h : w.mcServes n = true) (hs : (w.spareList kMc 0).isEmpty = true) :
    w.fenceMc n cause = (((w.mcLostAt n).noSpare kMc 0 n cause 0).mcReplay n (w.heldFor n)).degrade 0 := by
  rw [Work.fenceMc, if_neg (by simp [h])]
  exact if_pos hs

theorem Work.mcLost_noSpare (kind d part : Nat) : (w.noSpare kind d n cause part).spr.mcLost = w.spr.mcLost := by
  obtain ⟨r, hr⟩ : ∃ r, w.noSpare kind d n cause part =
      ((w.logFence r).bump F.sprMapFenced d 0).event (dieSource 1 d) sNoSpare r := ⟨_, rfl⟩
  obtain ⟨_, _, _, hlog⟩ := w.spr_logFence r
  rw [hr, Work.spr_event, Work.spr_bump, hlog]

end

section
variable {s : State} {n : Nat} (cause : Nat) (hn : n < 4)
include hn

theorem exec_mcFence {v : Work} (h : s.work.fenceMc n cause = v) : exec (.mcFence n cause) s = .next (s.on fun _ => v) :=
  State.perform_eq_on (i := .mcFence n cause) _ (decide_eq_true hn) h

theorem exec_mcFence_of_lost (h : s.work.mcServes n = false) : exec (.mcFence n cause) s = .next s :=
  State.perform_unchanged (i := .mcFence n cause) (decide_eq_true hn) (s.work.fenceMc_of_lost n cause h)

/-- Without a spare the core serves no more, and die 0 shows that it is degraded. -/
theorem exec_mcFence_of_no_spare (h : s.work.mcServes n = true) (hs : (s.work.spareList kMc 0).isEmpty = true) :
    ∃ t, exec (.mcFence n cause) s = .next t ∧ t.work.mcServes n = false ∧ t.work.rdB F.sprMapDegraded 0 0 = true := by
  refine ⟨_, exec_mcFence cause hn (s.work.fenceMc_of_no_spare n cause h hs), ?_, ?_⟩
  · rw [Work.mcServes, State.work_toBlock, State.on_spr, Work.spr_degrade, Work.spr_mcReplay, Work.mcLost_noSpare]
    exact congrArg (!·) (List.contains_iff_mem.2 (mem_setInsert_self s.spr.mcLost n))
  · rw [Work.rdB, State.rd_on, Work.degrade_shown]
    rfl

end

/-! ## O59 -/

/-- Settles O59: whatever a fence takes away (the calls, jobs, streams and chains that served the unit), neither the unit's
own fencing state nor the spares change on the way, so that the last step finds the list of spares that the command found.
SPR_FENCE answering DESC_RANGE for an id that no unit has, and the spare being taken at the fence, are log entry 134
(DEDUCED); which causes firmware may name is log entry 138 (DESIGN CHOICE). -/
theorem unitsFenced : Obligations.UnitsFenced := by
  unfold Obligations.UnitsFenced
  have hexpand : ∀ {s : State} {i : Instr} {d u cause : Nat}, (∃ t, exec i s = .next t ∧ s.work.Fenced d u cause t.work) →
      ∃ t, exec i s = .next t ∧ (t.work.unitSt d u).fenced = true ∧ (t.work.unitSt d u).cause = cause ∧
        (t.work.unitSt d u).lost = (s.work.spareList (kindOf u) d).isEmpty ∧
        t.work.spareList (kindOf u) d = (s.work.spareList (kindOf u) d).drop 1 :=
    fun ⟨t, ht, h⟩ => ⟨t, ht, h.fenced, h.cause, h.lost, h.spares⟩
  refine ⟨⟨fun s d u cause hd hu => ⟨?_, ?_, ?_, ?_⟩, fun s b v hb => ⟨?_, ?_, ?_⟩⟩, fun s n cause hn => ⟨?_, ?_, ?_⟩⟩
  · exact fun hs hc => hexpand (State.fenced_of_due (test := fun w => w.canHang d u) (exec_hangDetect hd hu) hs hc)
  · exact fun h => State.not_fenced (test := fun w => w.canHang d u) (exec_hangDetect hd hu)
      (h.imp_right Bool.eq_false_iff.1)
  · exact fun hs hdue => hexpand (State.fenced_of_due (test := fun w => w.fenceTest d u cause) (exec_unitFence hd hu) hs
      ((s.work.fenceTest_iff ..).2 hdue))
  · exact fun h => State.not_fenced (test := fun w => w.fenceTest d u cause) (exec_unitFence hd hu)
      (h.imp_right (mt (s.work.fenceTest_iff ..).1))
  · exact fun h => exec_sprFence_refused hb (Work.sprFenceWrite_out_of_range h)
  · exact fun h hf => exec_sprFence_refused hb (Work.sprFenceWrite_of_none h hf)
  · exact fun w h hf => ⟨_, exec_sprFence hb (Work.sprFenceWrite_of_some h hf), s.sprLog_on .., State.on_spr ..⟩
  · exact exec_mcFence_of_lost cause hn
  · exact fun h hs => State.perform_eq_on (i := .mcFence n cause) _ (decide_eq_true hn)
      (s.work.fenceMc_of_spare n cause h hs)
  · exact exec_mcFence_of_no_spare cause hn

end Sys2Proof.Machine
